-- ==== Sys2Proof/Word.lean ====
section
/-! DEFINITION. The plain words of the SK7240: bytes, 64-bit words, handles and digests, and the small
ranges that number partitions, clusters, ports and slots (spec 00 R4 to R6, 01 R10). -/

namespace Sys2Proof

/-- A byte of any structure (00 R6). -/
abbrev Byte := BitVec 8
/-- A 64-bit register, argument word or result word. -/
abbrev Word := BitVec 64
/-- A handle (01 R10, Table 1-1); the all-zero value is null. -/
abbrev Handle := BitVec 64
/-- A 128-bit block key (05 R101). -/
abbrev Key128 := BitVec 128
/-- A 256-bit digest (11 R256, 13 R302). -/
abbrev Digest := BitVec 256

/-- A partition number, 0 to 15 (01 Table 1-5). -/
abbrev Part := Fin 16
/-- A cluster number, 0 to 63 (02 R29). -/
abbrev Clu := Fin 64
/-- A quadrant number (02 R29). -/
abbrev Quad := Fin 4
/-- A queue number of a partition (03 R46). -/
abbrev Qn := Fin 64
/-- An Ethernet port or sub-port number (12 R261). -/
abbrev PortNo := Fin 16
/-- A carrier slot (10 R232). -/
abbrev Slot := Fin 8
/-- A general, flag or handle register of a context (16 R365). -/
abbrev GReg := Fin 32
/-- A flag register f0 to f7. -/
abbrev FReg := Fin 8
/-- A handle register h0 to h15. -/
abbrev HReg := Fin 16
/-- A journal or event log: 0 to 15 a partition's, 16 the device's (13 R313, 18 R408). -/
abbrev LogId := Fin 17

end Sys2Proof
end

