-- ==== Sys2Proof/Messages.lean ====
section
/-! DEFINITION. The names and the records that commands carry as operands: statuses (01 Table 1-16), tiers,
attention messages (06 R121), VPT packets (12 R268), layout and migration records (15), and what a read of
flash, memory or a carrier reports. Plain data only. -/

namespace Sys2Proof

/-- The status codes of Table 1-16 (01 R26). -/
inductive Status where
  | ok | late | dropped | freedEarly | aborted | abortedTooLate
  | noPage | lengthLimit | tierReadOnly | parkedByPressure | recomputeRequired
  | accessViolation | staleKey | extentRevoked | partitionFenced | publishConflict | budgetExhausted
  | poisonConsumed | sealMismatch | unitQuarantined | lostToReset
  | notReady | presenceRequired | resendAfter
  deriving DecidableEq, Repr

/-- The 8-bit code of a status, Table 1-16 (01 R26). -/
def Status.code : Status → BitVec 8
  | .ok => 0x00 | .late => 0x01 | .dropped => 0x02 | .freedEarly => 0x03 | .aborted => 0x04
  | .abortedTooLate => 0x05 | .noPage => 0x10 | .lengthLimit => 0x11 | .tierReadOnly => 0x12
  | .parkedByPressure => 0x13 | .recomputeRequired => 0x14 | .accessViolation => 0x20
  | .staleKey => 0x21 | .extentRevoked => 0x22 | .partitionFenced => 0x23 | .publishConflict => 0x24
  | .budgetExhausted => 0x25 | .poisonConsumed => 0x30 | .sealMismatch => 0x31
  | .unitQuarantined => 0x32 | .lostToReset => 0x3F | .notReady => 0x40
  | .presenceRequired => 0x41 | .resendAfter => 0x42

/-- The four tiers (04 R67), in the coding of Table 4-5. -/
inductive Tier where
  | t0 | t1b | t1h | t2
  deriving DecidableEq, Repr

/-- The 4-bit code of a tier, Table 4-5. -/
def Tier.code : Tier → Nat
  | .t0 => 0 | .t1b => 1 | .t1h => 2 | .t2 => 3

/-- A step in flight: its partition and its device step number (03 R53). -/
structure StepRef where
  part : Part
  num : Nat
  deriving DecidableEq, Repr

/-- A path of the move engine: an outer tier, or T0 itself for a relocation, and a quadrant (04 R92). -/
structure Path where
  tier : Tier
  quad : Quad
  deriving DecidableEq, Repr

/-- An attention message as it stands complete in a receive ring: the header of Table 6-2 and its body
(06 R121). `sum` is the 8-byte digest trailer, present when `digest` is set. -/
structure Msg where
  mtype : BitVec 8
  digest : Bool
  ofmt : BitVec 2
  xfmt : BitVec 2
  modelId : BitVec 16
  batch : Nat
  layer : Nat
  count : Nat
  bytes : Nat
  body : List Byte
  sum : Word
  deriving DecidableEq, Repr

/-- A VPT packet whose framing and ICRC are right (12 R267, R268): the header of Table 12-4, the trigger
extension, the payload, the addresses of its IP header and the ECN mark. -/
structure Pkt where
  src : BitVec 128
  dst : BitVec 128
  fin : Bool
  areq : Bool
  trigOn : Bool
  first : Bool
  last : Bool
  ece : Bool
  pause : Bool
  tc : Nat
  ptag : Nat
  tenant : Nat
  dqp : Nat
  sqp : Nat
  psn : BitVec 24
  rkey : BitVec 32
  aux : BitVec 32
  roff : Word
  trig : BitVec 32
  ce : Bool
  payload : List Byte
  deriving DecidableEq, Repr

/-- Why a frame is handed to MALFORMED_FRAME (12 R273, R287, R292). -/
inductive BadFrame where
  | policed (part : Option Part) (tc : Fin 8) (len : Nat)
  | row1
  | badTag
  | early
  deriving DecidableEq, Repr

/-- What a patrol read or another reader found (13 R297, R298), the residue checker of the sampler array (13 R296) among them: `again`
says that the repeated row mismatched too. -/
inductive Finding where
  | clean
  | corrected
  | tile (p : Part) (group page : Nat) (v : Bool)
  | metadata (p : Part) (group : Nat)
  | bucket (p : Part) (idx : Nat)
  | node (p : Part) (idx : Nat)
  | stepData (p : Part) (step : Nat)
  | sampler (p : Part) (step : Nat) (again : Bool)
  | records (p : Part) (imageReadable : Bool)
  | programs (p : Part) (imageReadable : Bool)
  | window (p : Part) (unit : Nat)
  | session (p : Part) (idx : Nat) (imageReadable : Bool)
  | region (p : Part) (idx unit : Nat) (imageReadable replicaAgrees : Bool)
  deriving DecidableEq, Repr

/-- How a flash piece read ended (10 R223): for one that decodes, the bits corrected and whether that took more than half of the
correction capability. -/
inductive ReadEnd where
  | clean
  | corrected (bits : Nat) (overHalf : Bool)
  | retried
  | unreadable (otherCopy workingCopy : Bool)
  deriving DecidableEq, Repr

/-- A piece as a read finds it (10 R219): which piece of its unit, whether the mirror copy, its spare record, and the CRC-32C of the bytes
read. -/
structure Piece where
  num : Nat
  mirror : Bool
  spare : List Byte
  crc : BitVec 32
  deriving DecidableEq, Repr

/-- A flash piece read: the piece found and how its read ended. -/
structure PieceRead where
  piece : Piece
  ended : ReadEnd
  deriving DecidableEq, Repr

/-- What a carrier's parameter pages report (10 R213): channels trained, dies of each channel, blocks of a die, pages of a
block, bytes of a page, NV-LPDDR4 support, rated endurance, the pages of a block in single-level mode (0: not offered), and the blocks
marked bad at manufacture by channel. -/
structure Geometry where
  channels : Nat
  dies : Nat
  blocks : Nat
  pages : Nat
  pageBytes : Nat
  nvLpddr4 : Bool
  rated : Nat
  slcPages : Nat
  factoryBad : List (Nat × Nat)
  deriving DecidableEq, Repr

/-- What qualification of a carrier found (10 R231, R232): nothing usable, or the parameter pages, with no identity record on the
reserved blocks or with what stands on the two of them. -/
inductive Qualify where
  | failed
  | blank (g : Geometry)
  | identity (first second : List Byte) (g : Geometry)
  deriving DecidableEq, Repr

/-- The port binding record of one partition (12 Table 12-3). -/
structure PortBinding where
  ports : BitVec 16
  ptag : Nat
  vlan : Nat
  ip6 : List (BitVec 128)
  ip4 : List (BitVec 32)
  dscp : List Nat
  tcAllow : BitVec 8
  deriving DecidableEq, Repr

/-- The layout fields of one partition record (01 Table 1-5), its upstream attachment (11 R240) and ports. -/
structure PartLayout where
  num : Part
  grade : Nat
  clusters : BitVec 64
  shareT0 : Nat
  shareT1b : Nat
  shareT1h : Nat
  shareT2 : Nat
  warmTier : Nat
  sessionQuota : Nat
  compat : Bool
  vppb : Nat
  binding : PortBinding
  deriving DecidableEq, Repr

/-- One layout command: partitions removed, partitions created or changed, and `seal_action` (15 R358, R360). -/
structure LayoutCmd where
  remove : List Part
  put : List PartLayout
  sealAction : Bool
  deriving DecidableEq, Repr

/-- A firmware image as the boot ROM sees it (15 R351): whether its signature verifies, and its version. -/
structure FwImage where
  sigOk : Bool
  svn : Nat
  body : List Byte
  deriving DecidableEq, Repr

/-- An object of a partition in the body of a migration record (15 Table 15-7): a model descriptor image (06 Table 6-1) with its
generation, a program image with its slot (03 Table 3-1), a tenant image (08 Table 8-3), a queue with the slot of its program, a
domain (its local number, members, `cross`, `equal_time`, `et_max_groups`), or a control of the partition map. -/
inductive MigObj where
  | model (gen : Nat) (image : List Byte)
  | program (slot : Nat) (image : List Byte)
  | tenant (num : Nat) (image : List Byte)
  | queue (num : Nat) (priv : Bool) (program : Option Nat)
  | domain (local_ : Nat) (members : BitVec 16) (cross equalTime : Bool) (etMax : Nat)
  | control (off : Nat) (val : Word)
  deriving DecidableEq, Repr

/-- What a failed T1H access was for (11 Table 11-2): a page group or its backing copy, or an index chain's overflow bucket. -/
inductive T1hUse where
  | copy (g : Nat)
  | bucket (idx : Nat)
  deriving DecidableEq, Repr

/-- A migration record offered for import (15 Table 15-7), with what the checks of Table 15-8 read in it. -/
structure MigRecord where
  dstSerial : BitVec 128
  sigsOk : Bool
  nonce : BitVec 128
  parts : List PartLayout
  objects : List (Part × MigObj)
  carriers : List (Nat × Nat)
  srcSerial : BitVec 128
  deriving DecidableEq, Repr

/-- One record of a migration stream (09 R209, 15 R363). -/
structure MigStreamRec where
  kind : Nat
  migId : Word
  tagOk : Bool
  sealsOk : Bool
  body : List Byte
  deriving DecidableEq, Repr

/-- Which register map an access reaches (18 R400, R403, R411). -/
inductive RegMap where
  | part (p : Part)
  | dev
  deriving DecidableEq, Repr

/-- A device-level unit watched for a wedge (13 R312). -/
inductive Unit7 where
  | moveEngine | granary | sampler | cam | fabric | dispatcher (c : Clu)
  deriving DecidableEq, Repr

/-- A phase-locked loop of the device (14 R335, R336). -/
inductive Pll where
  | root | hbm (k : Fin 8) | ddr (k : Fin 12) | onfi (k : Slot) | cxl | eth (k : Fin 8) | aux (k : Fin 4)
  deriving DecidableEq, Repr

/-- An IDE stream (11 R258): the cachemem link stream, the CXL.io link stream, or an LD's selective stream. -/
inductive IdeStream where
  | cachemem | ioLink | sel (p : Part)
  deriving DecidableEq, Repr

/-- Who works a DOE mailbox or the FM API: the fabric manager or one LD's host (11 R258, R259). -/
inductive Requester where
  | fm | ld (p : Part)
  deriving DecidableEq, Repr

end Sys2Proof
end

