-- ==== Sys2Proof/Syntax.lean ====
section
/-! DEFINITION. The commands of the SK7240: one constructor per row of spec/opcode_table.json, in its order.
A Criet instruction names the step that executes it and carries the fields of its word (16 R364, R365; `r` is the
`rec` bit); a message or packet names where it arrives; a timer or a completion names what it ends. -/

namespace Sys2Proof

inductive Instr where
  /-- REQUEST (R174). -/
  | request (p : Part) (q : Qn) (cid : BitVec 16)
  /-- RUN (R56). -/
  | run (p : Part) (q : Qn) (cid : BitVec 16)
  /-- CANCEL (R188). -/
  | cancel (p : Part) (q : Qn) (cid : BitVec 16)
  /-- ABORT (R190). -/
  | abort (p : Part) (q : Qn) (cid : BitVec 16)
  /-- CLOCKADV (R50). -/
  | clockadv (p : Part) (q : Qn) (cid : BitVec 16)
  /-- PROG_LOAD (R43). -/
  | progLoad (p : Part) (q : Qn) (cid : BitVec 16) (image : List Byte)
  /-- PROG_PLACE (R44). -/
  | progPlace (p : Part) (q : Qn) (cid : BitVec 16)
  /-- PROG_UNLOAD (R45). -/
  | progUnload (p : Part) (q : Qn) (cid : BitVec 16)
  /-- QUEUE_SET (R46). -/
  | queueSet (p : Part) (q : Qn) (cid : BitVec 16)
  /-- SQ_FETCH (R51). -/
  | sqFetch (p : Part) (raw : List Byte) (poisoned : Bool)
  /-- COMPLETION_DRAIN (R52). -/
  | completionDrain (p : Part) (q : Qn)
  /-- STEP_START (R56). -/
  | stepStart (p : Part)
  /-- WAVE_ISSUE (R166). -/
  | waveIssue (p : Part) (m : BitVec 16)
  /-- WAVE_WAIT_EXPIRY (R166). -/
  | waveWaitExpiry (p : Part) (m : BitVec 16)
  /-- ROW_ISSUE (R168). -/
  | rowIssue (p : Part) (m : BitVec 16)
  /-- ROW_WAIT_EXPIRY (R168). -/
  | rowWaitExpiry (p : Part) (m : BitVec 16)
  /-- STEP_RESUME (R380). -/
  | stepResume (x : StepRef)
  /-- MSG_TIMEOUT (R380). -/
  | msgTimeout (x : StepRef)
  /-- STEP_CYCLE_LIMIT (R59). -/
  | stepCycleLimit (x : StepRef)
  /-- COMMIT_APPLY (R64). -/
  | commitApply (x : StepRef)
  /-- COMMIT_RELEASE (R65). -/
  | commitRelease (x : StepRef)
  /-- DESCRIPTOR_ACCEPT (R79). -/
  | descriptorAccept (x : StepRef) (k : Nat)
  /-- CHUNK_COMPLETE (R131). -/
  | chunkComplete (x : StepRef) (layer head chunk : Nat) (residue : Bool) (bad : List (Nat × Bool))
  /-- LAYER_MERGED (R128). -/
  | layerMerged (p : Part) (m : BitVec 16) (batch layer : Nat)
  /-- SHADOW_COMPARE (R304). -/
  | shadowCompare (x : StepRef) (own partner : Digest) (arb : Option Digest)
  /-- PROMOTION_DONE (R84). -/
  | promotionDone (p : Part) (g : Nat) (good : Bool)
  /-- DEMOTION_DONE (R93). -/
  | demotionDone (p : Part) (g : Nat) (good : Bool)
  /-- MOVE_PIECE (R92). -/
  | movePiece (path : Path)
  /-- RELOCATION_DONE (R80). -/
  | relocationDone (p : Part) (g : Nat)
  /-- FRAME_RESERVED (R94). -/
  | frameReserved (p : Part)
  /-- WINNOW_SWEEP (R87). -/
  | winnowSweep (p : Part) (t : Tier)
  /-- INDEX_REBUILD (R107). -/
  | indexRebuild (p : Part) (bucket : Nat)
  /-- ET_RELEASE (R116). -/
  | etRelease (x : StepRef)
  /-- CAM_SCRUB (R113). -/
  | camScrub (q : Quad)
  /-- MEMORY_PATROL (R297). -/
  | memoryPatrol (f : Finding)
  /-- ERGOT_ROUND (R301). -/
  | ergotRound
  /-- ERGOT_RESULT (R302). -/
  | ergotResult (c : Clu) (dA dB : Digest) (arb : Option Digest) (badA badB : Bool)
  /-- QUARANTINE_SWEEP (R305). -/
  | quarantineSweep (c : Clu) (pass : Bool)
  /-- NOP (R369). -/
  | nop (x : StepRef)
  /-- ADD (R369). -/
  | addG (x : StepRef) (d a b : GReg)
  /-- SUB (R369). -/
  | sub (x : StepRef) (d a b : GReg)
  /-- MUL (R369). -/
  | mul (x : StepRef) (d a b : GReg)
  /-- MULHU (R369). -/
  | mulhu (x : StepRef) (d a b : GReg)
  /-- DIVU (R369). -/
  | divu (x : StepRef) (d a b : GReg)
  /-- REMU (R369). -/
  | remu (x : StepRef) (d a b : GReg)
  /-- AND (R369). -/
  | andG (x : StepRef) (d a b : GReg)
  /-- OR (R369). -/
  | orG (x : StepRef) (d a b : GReg)
  /-- XOR (R369). -/
  | xorG (x : StepRef) (d a b : GReg)
  /-- SHL (R369). -/
  | shl (x : StepRef) (d a b : GReg)
  /-- SHR (R369). -/
  | shr (x : StepRef) (d a b : GReg)
  /-- SRA (R369). -/
  | sra (x : StepRef) (d a b : GReg)
  /-- CMPEQ (R369). -/
  | cmpeq (x : StepRef) (d : FReg) (a b : GReg)
  /-- CMPNE (R369). -/
  | cmpne (x : StepRef) (d : FReg) (a b : GReg)
  /-- CMPLT (R369). -/
  | cmplt (x : StepRef) (d : FReg) (a b : GReg)
  /-- CMPLTU (R369). -/
  | cmpltu (x : StepRef) (d : FReg) (a b : GReg)
  /-- CMPLE (R369). -/
  | cmple (x : StepRef) (d : FReg) (a b : GReg)
  /-- CMPLEU (R369). -/
  | cmpleu (x : StepRef) (d : FReg) (a b : GReg)
  /-- FAND (R369). -/
  | fand (x : StepRef) (d a b : FReg)
  /-- FOR (R369). -/
  | forF (x : StepRef) (d a b : FReg)
  /-- FXOR (R369). -/
  | fxor (x : StepRef) (d a b : FReg)
  /-- FANDN (R369). -/
  | fandn (x : StepRef) (d a b : FReg)
  /-- POPC (R369). -/
  | popc (x : StepRef) (d a : GReg)
  /-- CLZ (R369). -/
  | clz (x : StepRef) (d a : GReg)
  /-- CTZ (R369). -/
  | ctz (x : StepRef) (d a : GReg)
  /-- RDSL (R368). -/
  | rdsl (x : StepRef) (d : GReg)
  /-- MOVI (R370). -/
  | movi (x : StepRef) (d : GReg) (imm : BitVec 32)
  /-- MOVHI (R370). -/
  | movhi (x : StepRef) (d : GReg) (imm : BitVec 32)
  /-- ADDI (R370). -/
  | addi (x : StepRef) (d a : GReg) (imm : BitVec 32)
  /-- MULI (R370). -/
  | muli (x : StepRef) (d a : GReg) (imm : BitVec 32)
  /-- ANDI (R370). -/
  | andi (x : StepRef) (d a : GReg) (imm : BitVec 32)
  /-- ORI (R370). -/
  | ori (x : StepRef) (d a : GReg) (imm : BitVec 32)
  /-- XORI (R370). -/
  | xori (x : StepRef) (d a : GReg) (imm : BitVec 32)
  /-- SHLI (R370). -/
  | shli (x : StepRef) (d a : GReg) (imm : BitVec 32)
  /-- SHRI (R370). -/
  | shri (x : StepRef) (d a : GReg) (imm : BitVec 32)
  /-- SRAI (R370). -/
  | srai (x : StepRef) (d a : GReg) (imm : BitVec 32)
  /-- CMPEQI (R370). -/
  | cmpeqi (x : StepRef) (d : FReg) (a : GReg) (imm : BitVec 32)
  /-- CMPNEI (R370). -/
  | cmpnei (x : StepRef) (d : FReg) (a : GReg) (imm : BitVec 32)
  /-- CMPLTI (R370). -/
  | cmplti (x : StepRef) (d : FReg) (a : GReg) (imm : BitVec 32)
  /-- CMPLTUI (R370). -/
  | cmpltui (x : StepRef) (d : FReg) (a : GReg) (imm : BitVec 32)
  /-- CMPLEI (R370). -/
  | cmplei (x : StepRef) (d : FReg) (a : GReg) (imm : BitVec 32)
  /-- CMPLEUI (R370). -/
  | cmpleui (x : StepRef) (d : FReg) (a : GReg) (imm : BitVec 32)
  /-- BR (R371). -/
  | br (x : StepRef) (off : BitVec 40)
  /-- BRT (R371). -/
  | brt (x : StepRef) (c : FReg) (off : BitVec 40)
  /-- BRF (R371). -/
  | brf (x : StepRef) (c : FReg) (off : BitVec 40)
  /-- BRZ (R371). -/
  | brz (x : StepRef) (c : GReg) (off : BitVec 40)
  /-- BRNZ (R371). -/
  | brnz (x : StepRef) (c : GReg) (off : BitVec 40)
  /-- CALL (R371). -/
  | call (x : StepRef) (c : GReg) (off : BitVec 40)
  /-- JR (R371). -/
  | jr (x : StepRef) (d a : GReg)
  /-- LD (R372). -/
  | ld (x : StepRef) (d a : GReg) (imm : BitVec 32)
  /-- LDW (R372). -/
  | ldw (x : StepRef) (d a : GReg) (imm : BitVec 32)
  /-- LDH (R372). -/
  | ldh (x : StepRef) (d a : GReg) (imm : BitVec 32)
  /-- LDB (R372). -/
  | ldb (x : StepRef) (d a : GReg) (imm : BitVec 32)
  /-- ST (R372). -/
  | st (x : StepRef) (d a : GReg) (imm : BitVec 32)
  /-- STW (R372). -/
  | stw (x : StepRef) (d a : GReg) (imm : BitVec 32)
  /-- STH (R372). -/
  | sth (x : StepRef) (d a : GReg) (imm : BitVec 32)
  /-- STB (R372). -/
  | stb (x : StepRef) (d a : GReg) (imm : BitVec 32)
  /-- LDF (R372). -/
  | ldf (x : StepRef) (d : GReg) (imm : BitVec 32)
  /-- STF (R372). -/
  | stf (x : StepRef) (d : GReg) (imm : BitVec 32)
  /-- HLOADS (R374). -/
  | hloads (x : StepRef) (r : Bool) (d h : HReg) (imm : BitVec 32)
  /-- HLD (R374). -/
  | hld (x : StepRef) (r : Bool) (d : HReg) (a : GReg) (imm : BitVec 32)
  /-- HST (R374). -/
  | hst (x : StepRef) (r : Bool) (d : HReg) (a : GReg) (imm : BitVec 32)
  /-- HMOV (R374). -/
  | hmov (x : StepRef) (r : Bool) (d h : HReg)
  /-- HGET (R374). -/
  | hget (x : StepRef) (r : Bool) (d : GReg) (h : HReg)
  /-- HMAKE (R374). -/
  | hmake (x : StepRef) (r : Bool) (d : HReg) (a : GReg) (imm : BitVec 32)
  /-- HCHK (R374). -/
  | hchk (x : StepRef) (r : Bool) (d : FReg) (h : HReg) (imm : BitVec 32)
  /-- HNULL (R374). -/
  | hnull (x : StepRef) (r : Bool) (d : HReg)
  /-- HEQ (R374). -/
  | heq (x : StepRef) (r : Bool) (d : FReg) (a b : HReg)
  /-- PTLEN (R375). -/
  | ptlen (x : StepRef) (r : Bool) (h : HReg) (a b : GReg)
  /-- PTGET (R375). -/
  | ptget (x : StepRef) (r : Bool) (d h : HReg) (a b : GReg)
  /-- PGINFO (R375). -/
  | pginfo (x : StepRef) (r : Bool) (h : HReg) (a b : GReg)
  /-- WALK (R375). -/
  | walk (x : StepRef) (r : Bool) (h : HReg) (a b : GReg)
  /-- WALKEMIT (R376). -/
  | walkemit (x : StepRef) (r : Bool) (h : HReg) (a b : GReg) (mode : Fin 8)
  /-- APPEND (R126). -/
  | append (x : StepRef) (r : Bool) (h : HReg) (a : GReg)
  /-- PGPROMOTE (R375). -/
  | pgpromote (x : StepRef) (r : Bool) (h : HReg)
  /-- PGDEMOTE (R375). -/
  | pgdemote (x : StepRef) (r : Bool) (h : HReg) (a : GReg) (tgt : Bool)
  /-- PTFORK (R103). -/
  | ptfork (x : StepRef) (r : Bool) (d h : HReg)
  /-- PXMATCH (R378). -/
  | pxmatch (x : StepRef) (r : Bool) (h : HReg) (a b : GReg)
  /-- PXLOOK (R111). -/
  | pxlook (x : StepRef) (r : Bool) (d h : HReg) (a b : GReg)
  /-- PXKEY (R102). -/
  | pxkey (x : StepRef) (r : Bool) (h : HReg) (a b : GReg)
  /-- DOMCREATE (R97). -/
  | domcreate (x : StepRef) (r : Bool) (a : GReg)
  /-- DOMCLOSE (R98). -/
  | domclose (x : StepRef) (r : Bool) (a : GReg)
  /-- MVCOPY (R385). -/
  | mvcopy (x : StepRef) (r : Bool) (d h : HReg) (a b : GReg) (bulk : Bool)
  /-- MVTIER (R386). -/
  | mvtier (x : StepRef) (r : Bool) (h : HReg) (a b : GReg) (tgt : Fin 4)
  /-- MVWAIT (R384). -/
  | mvwait (x : StepRef) (r : Bool) (d : FReg) (a : GReg)
  /-- MVSTAT (R384). -/
  | mvstat (x : StepRef) (r : Bool) (d a : GReg)
  /-- WAITMSG (R387). -/
  | waitmsg (x : StepRef) (r : Bool) (h : HReg) (a b : GReg) (nolayer src : Bool)
  /-- WAITENG (R389). -/
  | waiteng (x : StepRef) (r : Bool) (d : FReg) (a : GReg)
  /-- STEPINFO (R382). -/
  | stepinfo (x : StepRef) (r : Bool) (d : GReg) (imm : BitVec 32)
  /-- MODLOAD (R390). -/
  | modload (x : StepRef) (r : Bool) (d a : GReg)
  /-- SCREATE (R195). -/
  | screate (x : StepRef) (r : Bool) (h : HReg) (a : GReg)
  /-- SSEQ (R391). -/
  | sseq (x : StepRef) (r : Bool) (d h : HReg) (a : GReg)
  /-- SPARK (R196). -/
  | spark (x : StepRef) (r : Bool) (h : HReg)
  /-- SREVIVE (R203). -/
  | srevive (x : StepRef) (r : Bool) (h : HReg) (a : GReg)
  /-- SDUR (R211). -/
  | sdur (x : StepRef) (r : Bool) (h : HReg) (a : GReg)
  /-- SMIGOUT (R208). -/
  | smigout (x : StepRef) (r : Bool) (h : HReg) (a : GReg)
  /-- SMIGIN (R208). -/
  | smigin (x : StepRef) (r : Bool) (a : GReg)
  /-- SCLOSE (R21). -/
  | sclose (x : StepRef) (r : Bool) (h : HReg)
  /-- SINFO (R391). -/
  | sinfo (x : StepRef) (r : Bool) (h : HReg) (a b : GReg)
  /-- TENSET (R169). -/
  | tenset (x : StepRef) (r : Bool) (a b : GReg)
  /-- TENGET (R169). -/
  | tenget (x : StepRef) (r : Bool) (a b : GReg)
  /-- SQFREE (R391). -/
  | sqfree (x : StepRef) (r : Bool) (h : HReg)
  /-- SAMPLE (R392). -/
  | sample (x : StepRef) (r : Bool) (h : HReg) (a b : GReg)
  /-- SMPRES (R393). -/
  | smpres (x : StepRef) (r : Bool) (d : GReg)
  /-- QPOST (R394). -/
  | qpost (x : StepRef) (r : Bool) (h : HReg) (a b : GReg)
  /-- QEVENT (R394). -/
  | qevent (x : StepRef) (r : Bool) (a : GReg) (imm : BitVec 32)
  /-- QINFO (R394). -/
  | qinfo (x : StepRef) (r : Bool) (h : HReg) (a b : GReg)
  /-- COMMIT (R395). -/
  | commit (x : StepRef) (r : Bool) (h : HReg) (a : GReg) (post : Bool)
  /-- FENCE (R396). -/
  | fence (x : StepRef) (r : Bool)
  /-- SQUASH (R396). -/
  | squash (x : StepRef) (r : Bool) (imm : BitVec 32)
  /-- RGCREATE (R397). -/
  | rgcreate (x : StepRef) (r : Bool) (h : HReg) (a : GReg)
  /-- RGFREE (R397). -/
  | rgfree (x : StepRef) (r : Bool) (h : HReg)
  /-- RGREG (R397). -/
  | rgreg (x : StepRef) (r : Bool) (h : HReg) (a : GReg)
  /-- RGREVOKE (R280). -/
  | rgrevoke (x : StepRef) (r : Bool) (h : HReg)
  /-- RSYNC (R247). -/
  | rsync (x : StepRef) (r : Bool) (h : HReg) (a b : GReg) (validate : Bool)
  /-- RGDISCARD (R228). -/
  | rgdiscard (x : StepRef) (r : Bool) (h : HReg) (a b : GReg)
  /-- RGPUBLISH (R256). -/
  | rgpublish (x : StepRef) (r : Bool) (h : HReg) (a b : GReg)
  /-- RGBIND (R257). -/
  | rgbind (x : StepRef) (r : Bool) (h : HReg) (a : GReg)
  /-- VARSET (R191). -/
  | varset (x : StepRef) (r : Bool) (a b : GReg)
  /-- QPCREATE (R270). -/
  | qpcreate (x : StepRef) (r : Bool) (a b : GReg)
  /-- QPCONNECT (R272). -/
  | qpconnect (x : StepRef) (r : Bool) (a : GReg)
  /-- QPDISC (R271). -/
  | qpdisc (x : StepRef) (r : Bool) (a : GReg)
  /-- QPDESTROY (R271). -/
  | qpdestroy (x : StepRef) (r : Bool) (a : GReg)
  /-- QPPOST (R397). -/
  | qppost (x : StepRef) (r : Bool) (a b : GReg) (now : Bool)
  /-- CHARM_ARM (R281). -/
  | charmArm (x : StepRef) (r : Bool) (a b : GReg)
  /-- CHARM_DISARM (R282). -/
  | charmDisarm (x : StepRef) (r : Bool) (a b : GReg)
  /-- QPNOTE (R397). -/
  | qpnote (x : StepRef) (r : Bool) (a b : GReg) (wait : Bool)
  /-- TSTAMP (R398). -/
  | tstamp (x : StepRef) (r : Bool) (d : GReg)
  /-- TRACE (R398). -/
  | trace (x : StepRef) (r : Bool) (a : GReg) (imm : BitVec 32)
  /-- CNTRD (R407). -/
  | cntrd (x : StepRef) (r : Bool) (d : GReg) (imm : BitVec 32)
  /-- ERRINJ (R398). -/
  | errinj (x : StepRef) (r : Bool) (h : HReg) (a : GReg) (half : Bool)
  /-- WAVE_OPEN (R123). -/
  | waveOpen (p : Part) (qp : Nat) (msg : Msg)
  /-- ATTEND (R125). -/
  | attend (p : Part) (qp : Nat) (msg : Msg)
  /-- ROW_OPEN (R136). -/
  | rowOpen (p : Part) (qp : Nat) (msg : Msg)
  /-- PREFILL_ROW (R138). -/
  | prefillRow (p : Part) (qp : Nat) (msg : Msg)
  /-- FETCH (R141). -/
  | fetch (p : Part) (qp : Nat) (msg : Msg)
  /-- STORE (R142). -/
  | store (p : Part) (qp : Nat) (msg : Msg)
  /-- HG_READY (R134). -/
  | hgReady (p : Part) (qp : Nat) (msg : Msg)
  /-- HG_COMMIT (R134). -/
  | hgCommit (p : Part) (qp : Nat) (msg : Msg)
  /-- HG_SQUASH (R134). -/
  | hgSquash (p : Part) (qp : Nat) (msg : Msg)
  /-- HG_READY_TIMEOUT (R134). -/
  | hgReadyTimeout (p : Part) (m : BitVec 16) (batch : Nat)
  /-- HG_REVIVE (R207). -/
  | hgRevive (p : Part) (qp : Nat) (msg : Msg)
  /-- HG_REVIVE_K (R207). -/
  | hgReviveK (p : Part) (qp : Nat) (msg : Msg)
  /-- HG_REVIVE_TIMEOUT (R207). -/
  | hgReviveTimeout (p : Part) (sess : Nat)
  /-- HG_DIGEST (R308). -/
  | hgDigest (p : Part) (qp : Nat) (msg : Msg)
  /-- HG_DIGEST_RES (R308). -/
  | hgDigestRes (p : Part) (qp : Nat) (msg : Msg)
  /-- LOGITS (R177). -/
  | logits (p : Part) (qp : Nat) (msg : Msg)
  /-- ROUTE (R193). -/
  | route (p : Part) (qp : Nat) (msg : Msg)
  /-- MIG_STREAM_RECORD (R209). -/
  | migStreamRecord (p : Part) (rec : MigStreamRec)
  /-- MIG_CONFIRM (R210). -/
  | migConfirm (p : Part) (qp : Nat) (msg : Msg)
  /-- MIG_RELEASE (R210). -/
  | migRelease (p : Part) (qp : Nat) (msg : Msg)
  /-- MIG_CANCEL (R210). -/
  | migCancel (p : Part) (qp : Nat) (msg : Msg)
  /-- MIG_QUERY (R210). -/
  | migQuery (p : Part) (qp : Nat) (msg : Msg)
  /-- MIG_ANSWER (R210). -/
  | migAnswer (p : Part) (qp : Nat) (msg : Msg)
  /-- MIG_IMPORT_DURABLE (R210). -/
  | migImportDurable (p : Part) (migId : Word)
  /-- MIG_TIMEOUT (R210). -/
  | migTimeout (p : Part) (migId : Word)
  /-- MIG_QUERY_TIMER (R210). -/
  | migQueryTimer (p : Part) (migId : Word)
  /-- REVIVAL_STEP_START (R203). -/
  | revivalStepStart (p : Part) (sess : Nat)
  /-- REVIVAL_APPLY (R203). -/
  | revivalApply (p : Part) (sess : Nat)
  /-- SEND (R275). -/
  | send (port : PortNo) (k : Pkt)
  /-- WRITE (R273). -/
  | write (port : PortNo) (k : Pkt)
  /-- READ_REQ (R273). -/
  | readReq (port : PortNo) (k : Pkt)
  /-- READ_RESP (R269). -/
  | readResp (port : PortNo) (k : Pkt)
  /-- ACK (R283). -/
  | ack (port : PortNo) (k : Pkt)
  /-- NAK (R279). -/
  | nak (port : PortNo) (k : Pkt)
  /-- CONNECT_REQ (R272). -/
  | connectReq (port : PortNo) (k : Pkt)
  /-- CONNECT_REP (R271). -/
  | connectRep (port : PortNo) (k : Pkt)
  /-- DISCONNECT (R271). -/
  | disconnect (port : PortNo) (k : Pkt)
  /-- STALLED_PACKETS_RELEASE (R279). -/
  | stalledPacketsRelease (p : Part) (qp : Nat)
  /-- STALL_TIMEOUT (R279). -/
  | stallTimeout (p : Part) (qp : Nat)
  /-- PAUSE_EXPIRY (R279). -/
  | pauseExpiry (p : Part) (qp : Nat)
  /-- ACK_TIMER (R276). -/
  | ackTimer (p : Part) (qp : Nat)
  /-- RTO_EXPIRY (R284). -/
  | rtoExpiry (p : Part) (qp : Nat)
  /-- CONNECT_RETRY (R271). -/
  | connectRetry (p : Part) (qp : Nat)
  /-- DRAIN_TIMEOUT (R271). -/
  | drainTimeout (p : Part) (qp : Nat)
  /-- RX_PAUSE_FRAME (R262). -/
  | rxPauseFrame (port : PortNo)
  /-- PTP_MESSAGE (R264). -/
  | ptpMessage (port : PortNo) (domain : BitVec 8) (sync : Bool) (offset time : Nat)
  /-- PTP_HOLDOVER (R264). -/
  | ptpHoldover (port : PortNo)
  /-- ARP_ND_LLDP_FRAME (R287). -/
  | arpNdLldpFrame (port : PortNo) (asks : Option (BitVec 128))
  /-- EGRESS_FRAME_START (R290). -/
  | egressFrameStart (port : PortNo) (time : Nat)
  /-- BUCKET_REFILL (R292). -/
  | bucketRefill (port : PortNo) (time : Nat)
  /-- REPLY_BUCKET_REFILL (R289). -/
  | replyBucketRefill (port : PortNo) (replies : Nat)
  /-- GCL_CHANGE_TIME (R291). -/
  | gclChangeTime (port : PortNo)
  /-- GCL_ENTRY_ADVANCE (R291). -/
  | gclEntryAdvance (port : PortNo)
  /-- PORT_LINK_CHANGE (R263). -/
  | portLinkChange (port : PortNo) (up : Bool)
  /-- SPREAD_CHECK (R338). -/
  | spreadCheck (ppm : Nat)
  /-- SPREAD_CLEARED (R263). -/
  | spreadCleared
  /-- SUPERBLOCK_CLOSE (R220). -/
  | superblockClose (sb : Nat)
  /-- SUPERBLOCK_VERIFY (R221). -/
  | superblockVerify (sb : Nat) (bad : List (Nat × Bool))
  /-- FLASH_PROGRAM_FAIL (R221). -/
  | flashProgramFail (sb col : Nat)
  /-- FLASH_READ_DONE (R223). -/
  | flashReadDone (p : Part) (unit : Nat) (res : PieceRead)
  /-- FLASH_PATROL (R224). -/
  | flashPatrol (sb : Nat) (overHalf : Bool)
  /-- GLEAN_START (R225). -/
  | gleanStart (ch : Fin 32)
  /-- GLEAN_COPY_DONE (R226). -/
  | gleanCopyDone (sb : Nat)
  /-- GLEAN_VERIFY_DONE (R226). -/
  | gleanVerifyDone (sb : Nat) (bad : List (Nat × Nat × Bool))
  /-- GLEAN_COMMIT (R226). -/
  | gleanCommit (sb : Nat)
  /-- GLEAN_ERASE_DONE (R226). -/
  | gleanEraseDone (sb : Nat) (bad : List Nat)
  /-- JOURNAL_PAGE_TIMEOUT (R314). -/
  | journalPageTimeout (j : LogId)
  /-- JOURNAL_PAGE_PROGRAMMED (R314). -/
  | journalPageProgrammed (j : LogId)
  /-- JOURNAL_CHECKPOINT (R315). -/
  | journalCheckpoint (j : LogId)
  /-- CARRIER_PRESENT (R232). -/
  | carrierPresent (k : Slot) (level : Bool)
  /-- CARRIER_PRESENT_DEBOUNCED (R424). -/
  | carrierPresentDebounced (k : Slot)
  /-- CARRIER_ATTENTION (R232). -/
  | carrierAttention (k : Slot)
  /-- CARRIER_PGOOD (R423). -/
  | carrierPgood (k : Slot) (level : Bool)
  /-- CARRIER_PGOOD_TIMEOUT (R423). -/
  | carrierPgoodTimeout (k : Slot)
  /-- CARRIER_RESET_RELEASE (R423). -/
  | carrierResetRelease (k : Slot)
  /-- CARRIER_QUALIFY_DONE (R232). -/
  | carrierQualifyDone (k : Slot) (res : Qualify)
  /-- CARRIER_QUALIFY_TIMEOUT (R232). -/
  | carrierQualifyTimeout (k : Slot)
  /-- CARRIER_DETACH (R233). -/
  | carrierDetach (k : Slot)
  /-- CLEAN_DETACH_DURABLE (R233). -/
  | cleanDetachDurable (k : Slot)
  /-- LAYOUT (R14). -/
  | layout (l : LayoutCmd)
  /-- DECLARE_CROSS_DOMAIN (R97). -/
  | declareCrossDomain (owner : Part) (members : BitVec 16) (equalTime : Bool) (etMax : Nat)
  /-- WITHDRAW_CROSS_DOMAIN (R98). -/
  | withdrawCrossDomain (dom : BitVec 16)
  /-- FIRMWARE_UPDATE (R353). -/
  | firmwareUpdate (img : FwImage)
  /-- VERSION_COMMIT (R353). -/
  | versionCommit
  /-- KEY_ENROLMENT (R350). -/
  | keyEnrolment (p : Part) (wrapped : List Byte)
  /-- CLEAR_BROKEN_SEAL (R360). -/
  | clearBrokenSeal
  /-- ERASE_FOREIGN_CARRIER (R232). -/
  | eraseForeignCarrier (k : Slot)
  /-- EXPORT_MIGRATION_RECORD (R361). -/
  | exportMigrationRecord (parts : BitVec 16) (dstSerial : BitVec 128) (chainOk : Bool)
  /-- IMPORT_MIGRATION_RECORD (R362). -/
  | importMigrationRecord (r : MigRecord)
  /-- REG_READ (R413). -/
  | regRead (off count : Nat)
  /-- REG_WRITE (R413). -/
  | regWrite (off : Nat) (data : List (BitVec 32))
  /-- MCTP_SET_ENDPOINT_ID (R412). -/
  | mctpSetEndpointId (eid : Byte)
  /-- I3C_ADDRESS_ASSIGN (R412). -/
  | i3cAddressAssign (dynamic : Option (BitVec 7))
  /-- PT_FENCE (R403). -/
  | ptFence (p : Part) (val : BitVec 32)
  /-- UNFENCE (R411). -/
  | unfence (mask : BitVec 16)
  /-- WARM_RESET (R311). -/
  | warmReset
  /-- COLD_RESET (R311). -/
  | coldReset
  /-- CLOSE_PRESENCE_WINDOW (R357). -/
  | closePresenceWindow
  /-- SQ_DOORBELL (R405). -/
  | sqDoorbell (p : Part) (q : Qn) (val : BitVec 32)
  /-- CQ_DOORBELL (R405). -/
  | cqDoorbell (p : Part) (q : Qn) (val : BitVec 32)
  /-- QUEUE0_ENABLE (R404). -/
  | queue0Enable (p : Part)
  /-- QUEUE0_DISABLE (R404). -/
  | queue0Disable (p : Part)
  /-- QUEUE_DRAINED (R46). -/
  | queueDrained (p : Part) (q : Qn)
  /-- EV_HEAD_WRITE (R409). -/
  | evHeadWrite (log : LogId) (val : BitVec 32)
  /-- T1H_RANGE_APPEND (R406). -/
  | t1hRangeAppend (p : Part) (idx : Fin 256) (base rng : Word)
  /-- MAILBOX_GO (R410). -/
  | mailboxGo (map : RegMap)
  /-- GCL_GO (R291). -/
  | gclGo (port : PortNo) (time : Nat)
  /-- PORT_MODE_WRITE (R265). -/
  | portModeWrite (port : PortNo) (val : BitVec 32)
  /-- AUXCLK_CTL_WRITE (R339). -/
  | auxclkCtlWrite (k : Fin 4) (val : BitVec 32)
  /-- DORMANT_GO (R331). -/
  | dormantGo
  /-- DORMANT_ENTER (R331). -/
  | dormantEnter
  /-- DORMANT_ABANDON_TIMEOUT (R331). -/
  | dormantAbandonTimeout
  /-- WAKE_COUNTER (R333). -/
  | wakeCounter (k : Fin 8)
  /-- REGISTER_WRITE (R400). -/
  | registerWrite (map : RegMap) (off size : Nat) (val : Word)
  /-- CONFIG_REQUEST (R239). -/
  | configRequest (ld : Requester)
  /-- LD_ENABLE (R241). -/
  | ldEnable (p : Part) (mem master : Bool)
  /-- FLR (R240). -/
  | flr (p : Part)
  /-- FM_BIND (R240). -/
  | fmBind (p : Part) (vppb : Nat)
  /-- HDM_DECODER_COMMIT (R239). -/
  | hdmDecoderCommit (p : Part)
  /-- CXL_MEM_READ (R242). -/
  | cxlMemRead (p : Part) (dpa : Nat)
  /-- CXL_MEM_WRITE (R249). -/
  | cxlMemWrite (p : Part) (dpa : Nat) (data : List Byte)
  /-- INITIATE_DC_ADD (R251). -/
  | initiateDcAdd (p : Part) (dpa blocks : Nat) (tag : BitVec 128)
  /-- DC_CAPACITY_FREED (R252). -/
  | dcCapacityFreed (p : Part) (dpa : Nat)
  /-- DC_RESERVE_TIMEOUT (R251). -/
  | dcReserveTimeout (p : Part) (dpa : Nat)
  /-- ADD_DC_RESPONSE (R251). -/
  | addDcResponse (p : Part) (dpa : Nat) (accept : Bool)
  /-- DC_OFFER_TIMEOUT (R251). -/
  | dcOfferTimeout (p : Part) (dpa : Nat)
  /-- RELEASE_DC (R253). -/
  | releaseDc (p : Part) (ranges : List (Nat × Nat))
  /-- INITIATE_DC_FORCED_RELEASE (R254). -/
  | initiateDcForcedRelease (p : Part) (dpa : Nat)
  /-- EXTENT_DRAINED (R251). -/
  | extentDrained (p : Part) (dpa : Nat)
  /-- REVOKE_DRAINED (R280). -/
  | revokeDrained (p : Part) (region : Nat)
  /-- T1H_ACCESS_FAILURE (R245). -/
  | t1hAccessFailure (p : Part) (range : Fin 256) (use : T1hUse) (isWrite : Bool)
  /-- IDE_FAILURE (R258). -/
  | ideFailure (st : IdeStream)
  /-- IDENTIFY (R343). -/
  | identify (p : Part)
  /-- GET_FW_INFO (R352). -/
  | getFwInfo (p : Part)
  /-- TRANSFER_FW (R352). -/
  | transferFw (p : Part) (img : FwImage)
  /-- ACTIVATE_FW (R352). -/
  | activateFw (p : Part)
  /-- INJECT_POISON (R237). -/
  | injectPoison (p : Part) (dpa : Nat)
  /-- CLEAR_POISON (R237). -/
  | clearPoison (p : Part) (dpa : Nat)
  /-- GET_POISON_LIST (R237). -/
  | getPoisonList (p : Part)
  /-- SPDM_CHALLENGE (R355). -/
  | spdmChallenge (who : Requester)
  /-- SPDM_GET_MEASUREMENTS (R356). -/
  | spdmGetMeasurements (who : Requester) (idx : Nat) (signed : Bool)
  /-- SPDM_KEY_EXCHANGE (R355). -/
  | spdmKeyExchange (who : Requester)
  /-- CDAT_TABLE_ACCESS (R259). -/
  | cdatTableAccess (who : Requester)
  /-- BUS_RISE (R330). -/
  | busRise
  /-- POWER_FAIL (R325). -/
  | powerFail
  /-- OVERVOLTAGE (R326). -/
  | overvoltage
  /-- POWER_RESTORE_HOLD (R325). -/
  | powerRestoreHold
  /-- BUS_COLLAPSE (R325). -/
  | busCollapse
  /-- PERST_ASSERT (R330). -/
  | perstAssert
  /-- PERST_DEASSERT (R342). -/
  | perstDeassert
  /-- COLD_RECOVERY (R319). -/
  | coldRecovery
  /-- CONFIG_READY (R342). -/
  | configReady (failed : BitVec 64)
  /-- SERVICE_READY (R342). -/
  | serviceReady
  /-- PLL_QUALIFIED (R336). -/
  | pllQualified (k : Pll)
  /-- PLL_LOCK_TIMEOUT (R336). -/
  | pllLockTimeout (k : Pll)
  /-- REFCLK_LOSS (R340). -/
  | refclkLoss
  /-- REFCLK_RETURN (R340). -/
  | refclkReturn
  /-- THERMAL_THROTTLE (R329). -/
  | thermalThrottle
  /-- THERMAL_RECOVER (R329). -/
  | thermalRecover
  /-- THERMAL_HALT (R329). -/
  | thermalHalt
  /-- POWER_SAMPLE (R328). -/
  | powerSample (p1ms p1s busMv : Nat) (tDie : BitVec 16) (tStack : List (BitVec 16))
  /-- WEDGE_DETECT (R312). -/
  | wedgeDetect (u : Unit7)
  /-- PWR_CYCLES_TICK (R355). -/
  | pwrCyclesTick
  /-- PRESENCE_PRESS (R357). -/
  | presencePress
  /-- PRESENCE_EXPIRY (R357). -/
  | presenceExpiry
  /-- SEAL_BIT_CHECK (R420). -/
  | sealBitCheck (good : Bool)
  /-- SEAL_BREAK (R360). -/
  | sealBreak
  /-- HOST_WAKE (R332). -/
  | hostWake
  /-- BOARD_ALERT (R334). -/
  | boardAlert
  /-- REGISTER_READ (R400). -/
  | registerRead (map : RegMap) (off size : Nat)
  /-- CXL_RESET (R237). -/
  | cxlReset (p : Part)
  /-- BOUNDARY_SCAN_INSTRUCTION (R427). -/
  | boundaryScanInstruction (drivesPins : Bool)
  /-- EV_CTL_WRITE (R409). -/
  | evCtlWrite (log : LogId) (val : BitVec 32)
  /-- DORMANT_OK_WRITE (R331). -/
  | dormantOkWrite (p : Part) (val : BitVec 32)
  /-- MALFORMED_FRAME (R273). -/
  | malformedFrame (port : PortNo) (why : BadFrame)
  /-- IDE_STREAM_ESTABLISH (R258). -/
  | ideStreamEstablish (who : Requester) (st : IdeStream) (sessionSecured : Bool)
  deriving DecidableEq, Repr

end Sys2Proof
end

