-- ==== Sys2Proof/WellFormed.lean ====
section
/-! DEFINITION. Which commands their interfaces can carry. For a Criet instruction: the immediate values that its
table allows (16 R370, R374; 17 R379, R394, Table 17-6). For a command with data: the sizes its interface fixes. -/

namespace Sys2Proof

/-- A shift amount in an immediate: `imm`[31:6] zero (16 R370). -/
def immShiftOk (imm : BitVec 32) : Bool := imm.toNat < 64

/-- A handle kind in an immediate: `imm`[31:4] zero (16 Table 16-9). -/
def immKindOk (imm : BitVec 32) : Bool := imm.toNat < 16

/-- Well-formed commands. -/
def Instr.wf : Instr → Bool
  | .shli _ _ _ imm => immShiftOk imm
  | .shri _ _ _ imm => immShiftOk imm
  | .srai _ _ _ imm => immShiftOk imm
  | .hmake _ _ _ _ imm => immKindOk imm
  | .hchk _ _ _ _ imm => immKindOk imm
  | .walkemit _ _ _ _ _ mode => mode.val < 4
  -- a submission entry is 64 bytes (03 R47)
  | .sqFetch _ raw _ => raw.length == 64
  -- a CXL.mem write carries one 64-byte line (11 R246)
  | .cxlMemWrite _ dpa data => data.length == 64 && dpa % 64 == 0
  | .cxlMemRead _ dpa => dpa % 64 == 0
  -- a VPT payload is at most 8,192 bytes (12 R265)
  | .send _ k => k.payload.length ≤ 8192
  | .write _ k => k.payload.length ≤ 8192
  | .readResp _ k => k.payload.length ≤ 8192
  -- a register message carries 1 to 16 dwords (18 R413)
  | .regRead _ count => 1 ≤ count && count ≤ 16
  | .regWrite _ data => 1 ≤ data.length && data.length ≤ 16
  -- eight stack temperatures (18 Table 18-12)
  | .powerSample _ _ _ _ tStack => tStack.length == 8
  | _ => true

end Sys2Proof
end

