-- ==== Sys2Proof/Decode.lean ====
section
/-! DEFINITION. The decoder. No row of spec/opcode_table.json gives bits, so `decodeTableWord` answers none on every
word. A step of the device does run 64-bit Criet words out of its program (03 R41, 16 R364), so the words of the 132
Criet instructions are encoded and decoded here, from Tables 16-1 to 16-16 and 17-3 to 17-16. -/

namespace Sys2Proof

/-- No row of the table gives bits, so no word spells a command. -/
def decodeTableWord (_nbits _w : Nat) : Option Instr := none

/-- A general register in a 5-bit field (16 R365). -/
def g5 (r : GReg) : BitVec 5 := BitVec.ofNat 5 r.val
/-- A flag register in a 5-bit field: bits [4:3] zero (16 R365). -/
def f5 (r : FReg) : BitVec 5 := BitVec.ofNat 5 r.val
/-- A handle register in a 5-bit field: bit [4] zero (16 R365). -/
def h5 (r : HReg) : BitVec 5 := BitVec.ofNat 5 r.val
/-- A handle register in a 4-bit field of format C. -/
def h4 (r : HReg) : BitVec 4 := BitVec.ofNat 4 r.val
/-- One flag bit of `flags`[14:4], at `flags`[4 + k]. -/
def b11 (b : Bool) (k : Nat) : BitVec 11 := if b then 1#11 <<< k else 0

/-- Format A of Table 16-1. -/
def packA (op : BitVec 8) (d a b : BitVec 5) (r : Bool) (fn : BitVec 8) : Word :=
  op ++ d ++ a ++ b ++ BitVec.ofBool r ++ fn ++ 0#32
/-- Format B of Table 16-1. -/
def packB (op : BitVec 8) (d a : BitVec 5) (r : Bool) (fn : BitVec 4) (imm : BitVec 32) : Word :=
  op ++ d ++ a ++ BitVec.ofBool r ++ 0#9 ++ fn ++ imm
/-- Format C of Table 16-1; `fl` is `flags`[14:4] and `h2` is `flags`[3:0]. -/
def packC (op : BitVec 8) (h : BitVec 4) (a b : BitVec 5) (r : Bool) (fl : BitVec 11) (h2 : BitVec 4) : Word :=
  op ++ h ++ a ++ b ++ 0#26 ++ BitVec.ofBool r ++ fl ++ h2
/-- Format D of Table 16-1. -/
def packD (op : BitVec 8) (c : BitVec 5) (off : BitVec 40) : Word :=
  op ++ c ++ 0#11 ++ off

/-- The opcode of a word (16 R364). -/
def opOf (w : Word) : BitVec 8 := w.extractLsb' 56 8
/-- Fields of formats A, B and D. -/
def dA (w : Word) : BitVec 5 := w.extractLsb' 51 5
def aA (w : Word) : BitVec 5 := w.extractLsb' 46 5
def bA (w : Word) : BitVec 5 := w.extractLsb' 41 5
def recA (w : Word) : Bool := w.getLsbD 40
def fnA (w : Word) : BitVec 8 := w.extractLsb' 32 8
def recB (w : Word) : Bool := w.getLsbD 45
def fnB (w : Word) : BitVec 4 := w.extractLsb' 32 4
def immB (w : Word) : BitVec 32 := w.extractLsb' 0 32
def offD (w : Word) : BitVec 40 := w.extractLsb' 0 40
/-- Fields of format C. -/
def hC (w : Word) : BitVec 4 := w.extractLsb' 52 4
def aC (w : Word) : BitVec 5 := w.extractLsb' 47 5
def bC (w : Word) : BitVec 5 := w.extractLsb' 42 5
def recC (w : Word) : Bool := w.getLsbD 15
def flC (w : Word) : BitVec 11 := w.extractLsb' 4 11
def h2C (w : Word) : BitVec 4 := w.extractLsb' 0 4

/-- Register numbers out of a field. -/
def gOf (v : BitVec n) : GReg := Fin.ofNat 32 v.toNat
def fOf (v : BitVec n) : FReg := Fin.ofNat 8 v.toNat
def hOf (v : BitVec n) : HReg := Fin.ofNat 16 v.toNat

/-- The word of a Criet instruction; none for every other command. -/
def crietEncode : Instr → Option Word
  | .nop _ => some (packA 0x00 0 0 0 false 0)
  | .addG _ d a b => some (packA 0x01 (g5 d) (g5 a) (g5 b) false 0)
  | .sub _ d a b => some (packA 0x02 (g5 d) (g5 a) (g5 b) false 0)
  | .mul _ d a b => some (packA 0x03 (g5 d) (g5 a) (g5 b) false 0)
  | .mulhu _ d a b => some (packA 0x04 (g5 d) (g5 a) (g5 b) false 0)
  | .divu _ d a b => some (packA 0x05 (g5 d) (g5 a) (g5 b) false 0)
  | .remu _ d a b => some (packA 0x06 (g5 d) (g5 a) (g5 b) false 0)
  | .andG _ d a b => some (packA 0x07 (g5 d) (g5 a) (g5 b) false 0)
  | .orG _ d a b => some (packA 0x08 (g5 d) (g5 a) (g5 b) false 0)
  | .xorG _ d a b => some (packA 0x09 (g5 d) (g5 a) (g5 b) false 0)
  | .shl _ d a b => some (packA 0x0a (g5 d) (g5 a) (g5 b) false 0)
  | .shr _ d a b => some (packA 0x0b (g5 d) (g5 a) (g5 b) false 0)
  | .sra _ d a b => some (packA 0x0c (g5 d) (g5 a) (g5 b) false 0)
  | .cmpeq _ d a b => some (packA 0x0d (f5 d) (g5 a) (g5 b) false 0)
  | .cmpne _ d a b => some (packA 0x0d (f5 d) (g5 a) (g5 b) false 1)
  | .cmplt _ d a b => some (packA 0x0d (f5 d) (g5 a) (g5 b) false 2)
  | .cmpltu _ d a b => some (packA 0x0d (f5 d) (g5 a) (g5 b) false 3)
  | .cmple _ d a b => some (packA 0x0d (f5 d) (g5 a) (g5 b) false 4)
  | .cmpleu _ d a b => some (packA 0x0d (f5 d) (g5 a) (g5 b) false 5)
  | .fand _ d a b => some (packA 0x0e (f5 d) (f5 a) (f5 b) false 0)
  | .forF _ d a b => some (packA 0x0e (f5 d) (f5 a) (f5 b) false 1)
  | .fxor _ d a b => some (packA 0x0e (f5 d) (f5 a) (f5 b) false 2)
  | .fandn _ d a b => some (packA 0x0e (f5 d) (f5 a) (f5 b) false 3)
  | .popc _ d a => some (packA 0x0f (g5 d) (g5 a) 0 false 0)
  | .clz _ d a => some (packA 0x0f (g5 d) (g5 a) 0 false 1)
  | .ctz _ d a => some (packA 0x0f (g5 d) (g5 a) 0 false 2)
  | .rdsl _ d => some (packA 0x0f (g5 d) 0 0 false 3)
  | .movi _ d imm => some (packB 0x10 (g5 d) 0 false 0 imm)
  | .movhi _ d imm => some (packB 0x11 (g5 d) 0 false 0 imm)
  | .addi _ d a imm => some (packB 0x12 (g5 d) (g5 a) false 0 imm)
  | .muli _ d a imm => some (packB 0x13 (g5 d) (g5 a) false 0 imm)
  | .andi _ d a imm => some (packB 0x14 (g5 d) (g5 a) false 0 imm)
  | .ori _ d a imm => some (packB 0x15 (g5 d) (g5 a) false 0 imm)
  | .xori _ d a imm => some (packB 0x16 (g5 d) (g5 a) false 0 imm)
  | .shli _ d a imm => some (packB 0x17 (g5 d) (g5 a) false 0 imm)
  | .shri _ d a imm => some (packB 0x18 (g5 d) (g5 a) false 0 imm)
  | .srai _ d a imm => some (packB 0x19 (g5 d) (g5 a) false 0 imm)
  | .cmpeqi _ d a imm => some (packB 0x1a (f5 d) (g5 a) false 0 imm)
  | .cmpnei _ d a imm => some (packB 0x1a (f5 d) (g5 a) false 1 imm)
  | .cmplti _ d a imm => some (packB 0x1a (f5 d) (g5 a) false 2 imm)
  | .cmpltui _ d a imm => some (packB 0x1a (f5 d) (g5 a) false 3 imm)
  | .cmplei _ d a imm => some (packB 0x1a (f5 d) (g5 a) false 4 imm)
  | .cmpleui _ d a imm => some (packB 0x1a (f5 d) (g5 a) false 5 imm)
  | .br _ off => some (packD 0x20 0 off)
  | .brt _ c off => some (packD 0x21 (f5 c) off)
  | .brf _ c off => some (packD 0x22 (f5 c) off)
  | .brz _ c off => some (packD 0x23 (g5 c) off)
  | .brnz _ c off => some (packD 0x24 (g5 c) off)
  | .call _ c off => some (packD 0x25 (g5 c) off)
  | .jr _ d a => some (packA 0x26 (g5 d) (g5 a) 0 false 0)
  | .ld _ d a imm => some (packB 0x30 (g5 d) (g5 a) false 0 imm)
  | .ldw _ d a imm => some (packB 0x31 (g5 d) (g5 a) false 0 imm)
  | .ldh _ d a imm => some (packB 0x32 (g5 d) (g5 a) false 0 imm)
  | .ldb _ d a imm => some (packB 0x33 (g5 d) (g5 a) false 0 imm)
  | .st _ d a imm => some (packB 0x34 (g5 d) (g5 a) false 0 imm)
  | .stw _ d a imm => some (packB 0x35 (g5 d) (g5 a) false 0 imm)
  | .sth _ d a imm => some (packB 0x36 (g5 d) (g5 a) false 0 imm)
  | .stb _ d a imm => some (packB 0x37 (g5 d) (g5 a) false 0 imm)
  | .ldf _ d imm => some (packB 0x38 (g5 d) 0 false 0 imm)
  | .stf _ d imm => some (packB 0x39 (g5 d) 0 false 0 imm)
  | .hloads _ r d h imm => some (packB 0x40 (h5 d) (h5 h) r 0 imm)
  | .hld _ r d a imm => some (packB 0x41 (h5 d) (g5 a) r 0 imm)
  | .hst _ r d a imm => some (packB 0x42 (h5 d) (g5 a) r 0 imm)
  | .hmov _ r d h => some (packA 0x43 (h5 d) (h5 h) 0 r 0)
  | .hget _ r d h => some (packA 0x44 (g5 d) (h5 h) 0 r 0)
  | .hmake _ r d a imm => some (packB 0x45 (h5 d) (g5 a) r 0 imm)
  | .hchk _ r d h imm => some (packB 0x46 (f5 d) (h5 h) r 0 imm)
  | .hnull _ r d => some (packA 0x47 (h5 d) 0 0 r 0)
  | .heq _ r d a b => some (packA 0x48 (f5 d) (h5 a) (h5 b) r 0)
  | .ptlen _ r h a b => some (packC 0x50 (h4 h) (g5 a) (g5 b) r 0 0)
  | .ptget _ r d h a b => some (packC 0x51 (h4 h) (g5 a) (g5 b) r 0 (h4 d))
  | .pginfo _ r h a b => some (packC 0x52 (h4 h) (g5 a) (g5 b) r 0 0)
  | .walk _ r h a b => some (packC 0x53 (h4 h) (g5 a) (g5 b) r 0 0)
  | .walkemit _ r h a b mode => some (packC 0x54 (h4 h) (g5 a) (g5 b) r (BitVec.ofNat 11 mode.val) 0)
  | .append _ r h a => some (packC 0x55 (h4 h) (g5 a) 0 r 0 0)
  | .pgpromote _ r h => some (packC 0x56 (h4 h) 0 0 r 0 0)
  | .pgdemote _ r h a tgt => some (packC 0x57 (h4 h) (g5 a) 0 r (b11 tgt 0) 0)
  | .ptfork _ r d h => some (packC 0x58 (h4 d) 0 0 r 0 (h4 h))
  | .pxmatch _ r h a b => some (packC 0x60 (h4 h) (g5 a) (g5 b) r 0 0)
  | .pxlook _ r d h a b => some (packC 0x61 (h4 h) (g5 a) (g5 b) r 0 (h4 d))
  | .pxkey _ r h a b => some (packC 0x62 (h4 h) (g5 a) (g5 b) r 0 0)
  | .domcreate _ r a => some (packC 0x63 0 (g5 a) 0 r 0 0)
  | .domclose _ r a => some (packC 0x64 0 (g5 a) 0 r 0 0)
  | .mvcopy _ r d h a b bulk => some (packC 0x70 (h4 d) (g5 a) (g5 b) r (b11 bulk 1) (h4 h))
  | .mvtier _ r h a b tgt => some (packC 0x71 (h4 h) (g5 a) (g5 b) r (BitVec.ofNat 11 tgt.val) 0)
  | .mvwait _ r d a => some (packA 0x72 (f5 d) (g5 a) 0 r 0)
  | .mvstat _ r d a => some (packA 0x73 (g5 d) (g5 a) 0 r 0)
  | .waitmsg _ r h a b nolayer src => some (packC 0x80 (h4 h) (g5 a) (g5 b) r (b11 nolayer 0 ||| b11 src 1) 0)
  | .waiteng _ r d a => some (packA 0x81 (f5 d) (g5 a) 0 r 0)
  | .stepinfo _ r d imm => some (packB 0x82 (g5 d) 0 r 0 imm)
  | .modload _ r d a => some (packB 0x83 (g5 d) (g5 a) r 0 0)
  | .screate _ r h a => some (packC 0x90 (h4 h) (g5 a) 0 r 0 0)
  | .sseq _ r d h a => some (packC 0x91 (h4 d) (g5 a) 0 r 0 (h4 h))
  | .spark _ r h => some (packC 0x92 (h4 h) 0 0 r 0 0)
  | .srevive _ r h a => some (packC 0x93 (h4 h) (g5 a) 0 r 0 0)
  | .sdur _ r h a => some (packC 0x94 (h4 h) (g5 a) 0 r 0 0)
  | .smigout _ r h a => some (packC 0x95 (h4 h) (g5 a) 0 r 0 0)
  | .smigin _ r a => some (packC 0x96 0 (g5 a) 0 r 0 0)
  | .sclose _ r h => some (packC 0x97 (h4 h) 0 0 r 0 0)
  | .sinfo _ r h a b => some (packC 0x98 (h4 h) (g5 a) (g5 b) r 0 0)
  | .tenset _ r a b => some (packB 0x99 0 (g5 a) r 0 ((g5 b).setWidth 32))
  | .tenget _ r a b => some (packB 0x9a 0 (g5 a) r 0 ((g5 b).setWidth 32))
  | .sqfree _ r h => some (packC 0x9b (h4 h) 0 0 r 0 0)
  | .sample _ r h a b => some (packC 0xa0 (h4 h) (g5 a) (g5 b) r 0 0)
  | .smpres _ r d => some (packA 0xa1 (g5 d) 0 0 r 0)
  | .qpost _ r h a b => some (packC 0xb0 (h4 h) (g5 a) (g5 b) r 0 0)
  | .qevent _ r a imm => some (packB 0xb1 0 (g5 a) r 0 imm)
  | .qinfo _ r h a b => some (packC 0xb2 (h4 h) (g5 a) (g5 b) r 0 0)
  | .commit _ r h a post => some (packC 0xc0 (h4 h) (g5 a) 0 r (b11 post 0) 0)
  | .fence _ r => some (packA 0xc1 0 0 0 r 0)
  | .squash _ r imm => some (packB 0xc2 0 0 r 0 imm)
  | .rgcreate _ r h a => some (packC 0xd0 (h4 h) (g5 a) 0 r 0 0)
  | .rgfree _ r h => some (packC 0xd1 (h4 h) 0 0 r 0 0)
  | .rgreg _ r h a => some (packC 0xd2 (h4 h) (g5 a) 0 r 0 0)
  | .rgrevoke _ r h => some (packC 0xd3 (h4 h) 0 0 r 0 0)
  | .rsync _ r h a b validate => some (packC 0xd4 (h4 h) (g5 a) (g5 b) r (b11 validate 0) 0)
  | .rgdiscard _ r h a b => some (packC 0xd5 (h4 h) (g5 a) (g5 b) r 0 0)
  | .rgpublish _ r h a b => some (packC 0xd6 (h4 h) (g5 a) (g5 b) r 0 0)
  | .rgbind _ r h a => some (packC 0xd7 (h4 h) (g5 a) 0 r 0 0)
  | .varset _ r a b => some (packC 0xd8 0 (g5 a) (g5 b) r 0 0)
  | .qpcreate _ r a b => some (packC 0xd9 0 (g5 a) (g5 b) r 0 0)
  | .qpconnect _ r a => some (packC 0xda 0 (g5 a) 0 r 0 0)
  | .qpdisc _ r a => some (packC 0xdb 0 (g5 a) 0 r 0 0)
  | .qpdestroy _ r a => some (packC 0xdc 0 (g5 a) 0 r 0 0)
  | .qppost _ r a b now => some (packC 0xdd 0 (g5 a) (g5 b) r (b11 now 0) 0)
  | .charmArm _ r a b => some (packC 0xde 0 (g5 a) (g5 b) r 0 0)
  | .charmDisarm _ r a b => some (packC 0xde 0 (g5 a) (g5 b) r 1 0)
  | .qpnote _ r a b wait => some (packC 0xdf 0 (g5 a) (g5 b) r (b11 wait 0) 0)
  | .tstamp _ r d => some (packA 0xe0 (g5 d) 0 0 r 0)
  | .trace _ r a imm => some (packB 0xe1 0 (g5 a) r 0 imm)
  | .cntrd _ r d imm => some (packB 0xe2 (g5 d) 0 r 0 imm)
  | .errinj _ r h a half => some (packC 0xe3 (h4 h) (g5 a) 0 r (b11 half 0) 0)
  | _ => none

/-- The instruction whose fields stand in a word, chosen by opcode and function; whether the other bits are
right is asked by `crietDecode`. -/
def crietCandidate (x : StepRef) (w : Word) : Option Instr :=
  match (opOf w).toNat with
  | 0x00 => some (.nop x)
  | 0x01 => some (.addG x (gOf (dA w)) (gOf (aA w)) (gOf (bA w)))
  | 0x02 => some (.sub x (gOf (dA w)) (gOf (aA w)) (gOf (bA w)))
  | 0x03 => some (.mul x (gOf (dA w)) (gOf (aA w)) (gOf (bA w)))
  | 0x04 => some (.mulhu x (gOf (dA w)) (gOf (aA w)) (gOf (bA w)))
  | 0x05 => some (.divu x (gOf (dA w)) (gOf (aA w)) (gOf (bA w)))
  | 0x06 => some (.remu x (gOf (dA w)) (gOf (aA w)) (gOf (bA w)))
  | 0x07 => some (.andG x (gOf (dA w)) (gOf (aA w)) (gOf (bA w)))
  | 0x08 => some (.orG x (gOf (dA w)) (gOf (aA w)) (gOf (bA w)))
  | 0x09 => some (.xorG x (gOf (dA w)) (gOf (aA w)) (gOf (bA w)))
  | 0x0a => some (.shl x (gOf (dA w)) (gOf (aA w)) (gOf (bA w)))
  | 0x0b => some (.shr x (gOf (dA w)) (gOf (aA w)) (gOf (bA w)))
  | 0x0c => some (.sra x (gOf (dA w)) (gOf (aA w)) (gOf (bA w)))
  | 0x0d => match (fnA w).toNat with
    | 0 => some (.cmpeq x (fOf (dA w)) (gOf (aA w)) (gOf (bA w)))
    | 1 => some (.cmpne x (fOf (dA w)) (gOf (aA w)) (gOf (bA w)))
    | 2 => some (.cmplt x (fOf (dA w)) (gOf (aA w)) (gOf (bA w)))
    | 3 => some (.cmpltu x (fOf (dA w)) (gOf (aA w)) (gOf (bA w)))
    | 4 => some (.cmple x (fOf (dA w)) (gOf (aA w)) (gOf (bA w)))
    | 5 => some (.cmpleu x (fOf (dA w)) (gOf (aA w)) (gOf (bA w)))
    | _ => none
  | 0x0e => match (fnA w).toNat with
    | 0 => some (.fand x (fOf (dA w)) (fOf (aA w)) (fOf (bA w)))
    | 1 => some (.forF x (fOf (dA w)) (fOf (aA w)) (fOf (bA w)))
    | 2 => some (.fxor x (fOf (dA w)) (fOf (aA w)) (fOf (bA w)))
    | 3 => some (.fandn x (fOf (dA w)) (fOf (aA w)) (fOf (bA w)))
    | _ => none
  | 0x0f => match (fnA w).toNat with
    | 0 => some (.popc x (gOf (dA w)) (gOf (aA w)))
    | 1 => some (.clz x (gOf (dA w)) (gOf (aA w)))
    | 2 => some (.ctz x (gOf (dA w)) (gOf (aA w)))
    | 3 => some (.rdsl x (gOf (dA w)))
    | _ => none
  | 0x10 => some (.movi x (gOf (dA w)) (immB w))
  | 0x11 => some (.movhi x (gOf (dA w)) (immB w))
  | 0x12 => some (.addi x (gOf (dA w)) (gOf (aA w)) (immB w))
  | 0x13 => some (.muli x (gOf (dA w)) (gOf (aA w)) (immB w))
  | 0x14 => some (.andi x (gOf (dA w)) (gOf (aA w)) (immB w))
  | 0x15 => some (.ori x (gOf (dA w)) (gOf (aA w)) (immB w))
  | 0x16 => some (.xori x (gOf (dA w)) (gOf (aA w)) (immB w))
  | 0x17 => some (.shli x (gOf (dA w)) (gOf (aA w)) (immB w))
  | 0x18 => some (.shri x (gOf (dA w)) (gOf (aA w)) (immB w))
  | 0x19 => some (.srai x (gOf (dA w)) (gOf (aA w)) (immB w))
  | 0x1a => match (fnB w).toNat with
    | 0 => some (.cmpeqi x (fOf (dA w)) (gOf (aA w)) (immB w))
    | 1 => some (.cmpnei x (fOf (dA w)) (gOf (aA w)) (immB w))
    | 2 => some (.cmplti x (fOf (dA w)) (gOf (aA w)) (immB w))
    | 3 => some (.cmpltui x (fOf (dA w)) (gOf (aA w)) (immB w))
    | 4 => some (.cmplei x (fOf (dA w)) (gOf (aA w)) (immB w))
    | 5 => some (.cmpleui x (fOf (dA w)) (gOf (aA w)) (immB w))
    | _ => none
  | 0x20 => some (.br x (offD w))
  | 0x21 => some (.brt x (fOf (dA w)) (offD w))
  | 0x22 => some (.brf x (fOf (dA w)) (offD w))
  | 0x23 => some (.brz x (gOf (dA w)) (offD w))
  | 0x24 => some (.brnz x (gOf (dA w)) (offD w))
  | 0x25 => some (.call x (gOf (dA w)) (offD w))
  | 0x26 => some (.jr x (gOf (dA w)) (gOf (aA w)))
  | 0x30 => some (.ld x (gOf (dA w)) (gOf (aA w)) (immB w))
  | 0x31 => some (.ldw x (gOf (dA w)) (gOf (aA w)) (immB w))
  | 0x32 => some (.ldh x (gOf (dA w)) (gOf (aA w)) (immB w))
  | 0x33 => some (.ldb x (gOf (dA w)) (gOf (aA w)) (immB w))
  | 0x34 => some (.st x (gOf (dA w)) (gOf (aA w)) (immB w))
  | 0x35 => some (.stw x (gOf (dA w)) (gOf (aA w)) (immB w))
  | 0x36 => some (.sth x (gOf (dA w)) (gOf (aA w)) (immB w))
  | 0x37 => some (.stb x (gOf (dA w)) (gOf (aA w)) (immB w))
  | 0x38 => some (.ldf x (gOf (dA w)) (immB w))
  | 0x39 => some (.stf x (gOf (dA w)) (immB w))
  | 0x40 => some (.hloads x (recB w) (hOf (dA w)) (hOf (aA w)) (immB w))
  | 0x41 => some (.hld x (recB w) (hOf (dA w)) (gOf (aA w)) (immB w))
  | 0x42 => some (.hst x (recB w) (hOf (dA w)) (gOf (aA w)) (immB w))
  | 0x43 => some (.hmov x (recA w) (hOf (dA w)) (hOf (aA w)))
  | 0x44 => some (.hget x (recA w) (gOf (dA w)) (hOf (aA w)))
  | 0x45 => some (.hmake x (recB w) (hOf (dA w)) (gOf (aA w)) (immB w))
  | 0x46 => some (.hchk x (recB w) (fOf (dA w)) (hOf (aA w)) (immB w))
  | 0x47 => some (.hnull x (recA w) (hOf (dA w)))
  | 0x48 => some (.heq x (recA w) (fOf (dA w)) (hOf (aA w)) (hOf (bA w)))
  | 0x50 => some (.ptlen x (recC w) (hOf (hC w)) (gOf (aC w)) (gOf (bC w)))
  | 0x51 => some (.ptget x (recC w) (hOf (h2C w)) (hOf (hC w)) (gOf (aC w)) (gOf (bC w)))
  | 0x52 => some (.pginfo x (recC w) (hOf (hC w)) (gOf (aC w)) (gOf (bC w)))
  | 0x53 => some (.walk x (recC w) (hOf (hC w)) (gOf (aC w)) (gOf (bC w)))
  | 0x54 => some (.walkemit x (recC w) (hOf (hC w)) (gOf (aC w)) (gOf (bC w)) (Fin.ofNat 8 (flC w).toNat))
  | 0x55 => some (.append x (recC w) (hOf (hC w)) (gOf (aC w)))
  | 0x56 => some (.pgpromote x (recC w) (hOf (hC w)))
  | 0x57 => some (.pgdemote x (recC w) (hOf (hC w)) (gOf (aC w)) ((flC w).getLsbD 0))
  | 0x58 => some (.ptfork x (recC w) (hOf (hC w)) (hOf (h2C w)))
  | 0x60 => some (.pxmatch x (recC w) (hOf (hC w)) (gOf (aC w)) (gOf (bC w)))
  | 0x61 => some (.pxlook x (recC w) (hOf (h2C w)) (hOf (hC w)) (gOf (aC w)) (gOf (bC w)))
  | 0x62 => some (.pxkey x (recC w) (hOf (hC w)) (gOf (aC w)) (gOf (bC w)))
  | 0x63 => some (.domcreate x (recC w) (gOf (aC w)))
  | 0x64 => some (.domclose x (recC w) (gOf (aC w)))
  | 0x70 => some (.mvcopy x (recC w) (hOf (hC w)) (hOf (h2C w)) (gOf (aC w)) (gOf (bC w)) ((flC w).getLsbD 1))
  | 0x71 => some (.mvtier x (recC w) (hOf (hC w)) (gOf (aC w)) (gOf (bC w)) (Fin.ofNat 4 (flC w).toNat))
  | 0x72 => some (.mvwait x (recA w) (fOf (dA w)) (gOf (aA w)))
  | 0x73 => some (.mvstat x (recA w) (gOf (dA w)) (gOf (aA w)))
  | 0x80 => some (.waitmsg x (recC w) (hOf (hC w)) (gOf (aC w)) (gOf (bC w)) ((flC w).getLsbD 0) ((flC w).getLsbD 1))
  | 0x81 => some (.waiteng x (recA w) (fOf (dA w)) (gOf (aA w)))
  | 0x82 => some (.stepinfo x (recB w) (gOf (dA w)) (immB w))
  | 0x83 => some (.modload x (recB w) (gOf (dA w)) (gOf (aA w)))
  | 0x90 => some (.screate x (recC w) (hOf (hC w)) (gOf (aC w)))
  | 0x91 => some (.sseq x (recC w) (hOf (hC w)) (hOf (h2C w)) (gOf (aC w)))
  | 0x92 => some (.spark x (recC w) (hOf (hC w)))
  | 0x93 => some (.srevive x (recC w) (hOf (hC w)) (gOf (aC w)))
  | 0x94 => some (.sdur x (recC w) (hOf (hC w)) (gOf (aC w)))
  | 0x95 => some (.smigout x (recC w) (hOf (hC w)) (gOf (aC w)))
  | 0x96 => some (.smigin x (recC w) (gOf (aC w)))
  | 0x97 => some (.sclose x (recC w) (hOf (hC w)))
  | 0x98 => some (.sinfo x (recC w) (hOf (hC w)) (gOf (aC w)) (gOf (bC w)))
  | 0x99 => some (.tenset x (recB w) (gOf (aA w)) (gOf ((immB w).extractLsb' 0 5)))
  | 0x9a => some (.tenget x (recB w) (gOf (aA w)) (gOf ((immB w).extractLsb' 0 5)))
  | 0x9b => some (.sqfree x (recC w) (hOf (hC w)))
  | 0xa0 => some (.sample x (recC w) (hOf (hC w)) (gOf (aC w)) (gOf (bC w)))
  | 0xa1 => some (.smpres x (recA w) (gOf (dA w)))
  | 0xb0 => some (.qpost x (recC w) (hOf (hC w)) (gOf (aC w)) (gOf (bC w)))
  | 0xb1 => some (.qevent x (recB w) (gOf (aA w)) (immB w))
  | 0xb2 => some (.qinfo x (recC w) (hOf (hC w)) (gOf (aC w)) (gOf (bC w)))
  | 0xc0 => some (.commit x (recC w) (hOf (hC w)) (gOf (aC w)) ((flC w).getLsbD 0))
  | 0xc1 => some (.fence x (recA w))
  | 0xc2 => some (.squash x (recB w) (immB w))
  | 0xd0 => some (.rgcreate x (recC w) (hOf (hC w)) (gOf (aC w)))
  | 0xd1 => some (.rgfree x (recC w) (hOf (hC w)))
  | 0xd2 => some (.rgreg x (recC w) (hOf (hC w)) (gOf (aC w)))
  | 0xd3 => some (.rgrevoke x (recC w) (hOf (hC w)))
  | 0xd4 => some (.rsync x (recC w) (hOf (hC w)) (gOf (aC w)) (gOf (bC w)) ((flC w).getLsbD 0))
  | 0xd5 => some (.rgdiscard x (recC w) (hOf (hC w)) (gOf (aC w)) (gOf (bC w)))
  | 0xd6 => some (.rgpublish x (recC w) (hOf (hC w)) (gOf (aC w)) (gOf (bC w)))
  | 0xd7 => some (.rgbind x (recC w) (hOf (hC w)) (gOf (aC w)))
  | 0xd8 => some (.varset x (recC w) (gOf (aC w)) (gOf (bC w)))
  | 0xd9 => some (.qpcreate x (recC w) (gOf (aC w)) (gOf (bC w)))
  | 0xda => some (.qpconnect x (recC w) (gOf (aC w)))
  | 0xdb => some (.qpdisc x (recC w) (gOf (aC w)))
  | 0xdc => some (.qpdestroy x (recC w) (gOf (aC w)))
  | 0xdd => some (.qppost x (recC w) (gOf (aC w)) (gOf (bC w)) ((flC w).getLsbD 0))
  | 0xde => some (if (flC w).getLsbD 0 then .charmDisarm x (recC w) (gOf (aC w)) (gOf (bC w)) else .charmArm x (recC w) (gOf (aC w)) (gOf (bC w)))
  | 0xdf => some (.qpnote x (recC w) (gOf (aC w)) (gOf (bC w)) ((flC w).getLsbD 0))
  | 0xe0 => some (.tstamp x (recA w) (gOf (dA w)))
  | 0xe1 => some (.trace x (recB w) (gOf (aA w)) (immB w))
  | 0xe2 => some (.cntrd x (recB w) (gOf (dA w)) (immB w))
  | 0xe3 => some (.errinj x (recC w) (hOf (hC w)) (gOf (aC w)) ((flC w).getLsbD 0))
  | _ => none

/-- Decode one word for the step `x`. An undefined opcode, an undefined `fn` or `flags` value, a set RSV bit, a
nonzero unused field or an operand outside its range is refused (16 R365): the word must be exactly the encoding of a
well-formed instruction. -/
def crietDecode (x : StepRef) (w : Word) : Option Instr :=
  match crietCandidate x w with
  | some i => if i.wf && crietEncode i == some w then some i else none
  | none => none

/-- Opcodes that the Criet reference defines, for the loader's check (03 Table 3-2): group 0xF and undefined opcodes
are not among them. -/
def definedOpcode (op : BitVec 8) : Bool :=
  let n := op.toNat
  n ≤ 0x1A || (0x20 ≤ n && n ≤ 0x26) || (0x30 ≤ n && n ≤ 0x39) || (0x40 ≤ n && n ≤ 0x48)
    || (0x50 ≤ n && n ≤ 0x58) || (0x60 ≤ n && n ≤ 0x64) || (0x70 ≤ n && n ≤ 0x73) || (0x80 ≤ n && n ≤ 0x83)
    || (0x90 ≤ n && n ≤ 0x9B) || (0xA0 ≤ n && n ≤ 0xA1) || (0xB0 ≤ n && n ≤ 0xB2) || (0xC0 ≤ n && n ≤ 0xC2)
    || (0xD0 ≤ n && n ≤ 0xDF) || (0xE0 ≤ n && n ≤ 0xE3)

end Sys2Proof
end

