-- ==== Sys2Proof/Config.lean ====
section
/-! DEFINITION. The values that the manual leaves open. Each is a constant without a body, applied to the model's
counter of fresh values or to the operands it depends on, so that no proof can see what it is. -/

namespace Sys2Proof

/-- A byte of a context's scratch window that the step has not written (03 R54): epoch and address (log entry 6). -/
opaque Config.freeScratch : Nat → Nat → Byte
/-- Cycles a step has held a context between one TSTAMP and the next, less one (17 R398, 00 R429; log entry 10). -/
opaque Config.freeCycles : Nat → Nat
/-- A domain key drawn by the random bit generator (05 R97; log entry 5). -/
opaque Config.domainKey : Nat → Digest
/-- The seed of an unseeded request (08 R181; log entry 5). -/
opaque Config.seed : Nat → Word
/-- The check byte of a region key (12 R268; log entry 5). -/
opaque Config.checkByte : Nat → Byte
/-- An initial packet number (12 R272; log entry 5). -/
opaque Config.psn : Nat → BitVec 24
/-- A hint of the device's own estimate, in microseconds (12 R279, R288; log entry 11). -/
opaque Config.hint : Nat → BitVec 32
/-- A nonce of the random bit generator (15 R361; log entry 5). -/
opaque Config.nonce : Nat → BitVec 128
/-- A key, or half of a data key, of the random bit generator (15 R347; log entry 5). -/
opaque Config.key : Nat → Digest
/-- Does a discarded unit read as before, or as zero (10 R228; log entry 12)? -/
opaque Config.discardReadsOld : Nat → Bool
/-- Does a device read of a window line that the host has written since the last sync return the new bytes (11 R246; log
entry 36)? -/
opaque Config.windowReadsNew : Nat → Bool
/-- The order in which the device serves requests that arrive together where no rule gives one (log entry 13). -/
opaque Config.arbiter : Nat → Nat
/-- The locked part of the identity die, by byte offset (15 R346; log entry 4). -/
opaque Config.identityByte : Nat → Byte
/-- Has the host named every member of a head-group session in one operation batch (09 R208; log entry 22)? -/
opaque Config.batchNamed : Nat → Bool
/-- A quote's signature bytes (15 R354, R355; log entry 5). -/
opaque Config.signature : Nat → List Byte
/-- The device root secret (15 R346; log entry 5). -/
opaque Config.drs : Digest
/-- A partition key as it is stored: AES-256-KW of the key under the partition's `pkek` (15 R348; log entry 5). -/
opaque Config.keyWrap : Digest → List Byte → List Byte
/-- The key that an enrolment's bytes carry for this device (15 R350; log entry 5). -/
opaque Config.enrolled : List Byte → List Byte
/-- The body of a migration stream's record as it travels, with its tag: AES-256-GCM under the stored migration key, of a nonce, the
associated data and the body (15 R363; log entry 5). -/
opaque Config.gcm : List Byte → List Byte → List Byte → List Byte → List Byte
/-- A 4 KiB data unit of an outer tier under AES-256-XTS: the partition's data key as it is stored, the tweak, the plaintext (04 R81; log
entry 157). -/
opaque Config.xts : List Byte → BitVec 128 → List Byte → List Byte
/-- The CRC-32C of a piece's stored bytes, by the write sequence number under which it was programmed: they are ciphertext (10 R219; log
entry 157). -/
opaque Config.pieceCrc : Nat → BitVec 32
/-- A byte of a published region as another member of a head group holds it, by name, version and offset (13 R308, R309; log
entry 42). -/
opaque Config.replicaByte : Word → Nat → Nat → Byte
/-- The region key under which a migration's source writes its stream (09 R209; log entry 38). -/
opaque Config.migKey : Word → BitVec 32
/-- A byte of a record whose body the manual does not give (13 R314; log entry 14). -/
opaque Config.openByte : Nat → Nat → Byte

/-- How a pairwise tree groups three terms that remain (07 R160; log entry 9): does it add the last two first? -/
opaque Config.groupsLast : Bool

/-- A value that a register shows and that only time decides, such as what is left of a presence window (18 Table 18-11; log
entry 44). -/
opaque Config.shown : Nat → Nat

end Sys2Proof
end

