-- ==== Sys2Proof/Machine/Tab.lean ====
section
/-! DEFINITION. Tables keyed by a number, held as lists in one canonical form: keys strictly rising. Every table of the
device (partitions, sessions, groups, ports, ...) is one of these, so that equal tables are equal data. -/

namespace Sys2Proof.Machine

/-- A table: key and entry, keys strictly rising. -/
abbrev Tab (α : Type) := List (Nat × α)

/-- The entry of a key. -/
def Tab.find {α : Type} : Tab α → Nat → Option α
  | [], _ => none
  | (k, v) :: t, i => if k = i then some v else Tab.find t i

/-- Write an entry, keeping the keys rising. -/
def Tab.put {α : Type} : Tab α → Nat → α → Tab α
  | [], i, v => [(i, v)]
  | (k, w) :: t, i, v =>
    if i < k then (i, v) :: (k, w) :: t
    else if i = k then (i, v) :: t
    else (k, w) :: Tab.put t i v

/-- Remove an entry. -/
def Tab.del {α : Type} : Tab α → Nat → Tab α
  | [], _ => []
  | (k, w) :: t, i => if k = i then t else (k, w) :: Tab.del t i

/-- Change an entry that is there. -/
def Tab.upd {α : Type} : Tab α → Nat → (α → α) → Tab α
  | [], _, _ => []
  | (k, w) :: t, i, f => if k = i then (k, f w) :: t else (k, w) :: Tab.upd t i f

/-- The entry of a key, or a value that stands for no entry. -/
def Tab.getD {α : Type} (t : Tab α) (i : Nat) (d : α) : α := (t.find i).getD d

/-- Is the key there? -/
def Tab.has {α : Type} (t : Tab α) (i : Nat) : Bool := (t.find i).isSome

/-- Change every entry. -/
def Tab.mapV {α : Type} (t : Tab α) (f : Nat → α → α) : Tab α := t.map fun kv => (kv.1, f kv.1 kv.2)

/-- Keep the entries that pass. -/
def Tab.keep {α : Type} (t : Tab α) (f : Nat → α → Bool) : Tab α := t.filter fun kv => f kv.1 kv.2

/-- Keys strictly rising. -/
abbrev Tab.wf {α : Type} (t : Tab α) : Prop := t.Pairwise fun a b => a.1 < b.1

/-- The lowest number from `i` on that is no key of the table and passes a test, within `fuel` numbers. -/
def Tab.lowestFree {α : Type} (t : Tab α) (ok : Nat → Bool) : Nat → Nat → Option Nat
  | 0, _ => none
  | fuel + 1, i => if !(t.has i) && ok i then some i else Tab.lowestFree t ok fuel (i + 1)

/-- Set a position of a list that is there. -/
def listSet {α : Type} (l : List α) (i : Nat) (f : α → α) : List α := l.modify i f

/-- The lowest key at which a test holds. -/
def Tab.findKey {α : Type} (t : Tab α) (f : Nat → α → Bool) : Option Nat :=
  (t.find? fun kv => f kv.1 kv.2).map (·.1)

/-- Bytes of a memory: address and byte, addresses strictly rising, no byte equal to what an unlisted address reads
as, which is 0 (log entry 7). -/
abbrev Bytes := List Host.Cell

end Sys2Proof.Machine
end

