-- ==== Sys2Proof/Machine/Bytes.lean ====
section
/-! DEFINITION. Byte memories in canonical form, and little- and big-endian fields of byte strings (spec 00 R6). -/

namespace Sys2Proof.Machine

/-- One byte of a memory; an unlisted address reads 0 (log entry 7). -/
def Bytes.rd1 : Bytes → Nat → Byte
  | [], _ => 0
  | (k, b) :: t, a => if k = a then b else Bytes.rd1 t a

/-- Write one byte: keeps addresses rising and lists no zero byte. -/
def Bytes.wr1 : Bytes → Nat → Byte → Bytes
  | [], a, b => if b = 0 then [] else [(a, b)]
  | (k, c) :: t, a, b =>
    if a < k then (if b = 0 then (k, c) :: t else (a, b) :: (k, c) :: t)
    else if a = k then (if b = 0 then t else (a, b) :: t)
    else (k, c) :: Bytes.wr1 t a b

/-- `n` bytes from an address. -/
def Bytes.rd (m : Bytes) (a n : Nat) : List Byte := (List.range n).map fun i => m.rd1 (a + i)

/-- Write a byte string at an address. -/
def Bytes.wr (m : Bytes) (a : Nat) : List Byte → Bytes
  | [] => m
  | b :: bs => Bytes.wr (m.wr1 a b) (a + 1) bs

/-- The canonical form: addresses strictly rising, and no byte listed that reads as an unlisted one. -/
abbrev Bytes.wf (m : Bytes) : Prop := m.Pairwise (fun a b => a.1 < b.1) ∧ ∀ c ∈ m, c.2 ≠ 0

/-- A little-endian number. -/
def leNat : List Byte → Nat
  | [] => 0
  | b :: bs => b.toNat + 256 * leNat bs

/-- The low `n` bytes of a number, lowest first. -/
def toLe : Nat → Nat → List Byte
  | _, 0 => []
  | v, n + 1 => BitVec.ofNat 8 v :: toLe (v / 256) n

/-- A big-endian number. -/
def beNat (bs : List Byte) : Nat := leNat bs.reverse

/-- The low `n` bytes of a number, highest first. -/
def toBe (v n : Nat) : List Byte := (toLe v n).reverse

/-- A little-endian field of a byte string; bytes beyond its end read 0. -/
def fld (bs : List Byte) (off n : Nat) : Nat := leNat ((bs.drop off).take n)

/-- Bits [hi:lo] of a number (00 R5). -/
def bitsOf (v hi lo : Nat) : Nat := (v / 2 ^ lo) % 2 ^ (hi - lo + 1)

/-- Bit k of a number. -/
def bitOf (v k : Nat) : Bool := (v / 2 ^ k) % 2 == 1

/-- Are these bytes all zero? -/
def allZero (bs : List Byte) : Bool := bs.all (· == 0)

/-- A byte string with a little-endian field written at an offset. -/
def setFld (bs : List Byte) (off n v : Nat) : List Byte := bs.take off ++ toLe v n ++ bs.drop (off + n)

/-- A byte string padded with zeros, or cut, to a length. -/
def padTo (bs : List Byte) (n : Nat) : List Byte := (bs ++ List.replicate (n - bs.length) 0).take n

/-- 1 for true. -/
def b2n (b : Bool) : Nat := if b then 1 else 0

/-- One bit through a reflected CRC register. -/
def crcBit (poly r : Nat) : Nat := if r % 2 = 1 then (r / 2) ^^^ poly else r / 2

/-- One byte through a reflected CRC register. -/
def crcByte (poly r : Nat) (b : Byte) : Nat :=
  (List.range 8).foldl (fun r _ => crcBit poly r) (r ^^^ b.toNat)

/-- CRC-64 with the ECMA-182 polynomial, input and output reflected, initial value and final XOR all ones (04 R73);
0xC96C5795D7870F42 is the reflected polynomial. -/
def crc64 (bs : List Byte) : Word :=
  BitVec.ofNat 64 ((bs.foldl (crcByte 0xC96C5795D7870F42) 0xFFFFFFFFFFFFFFFF) ^^^ 0xFFFFFFFFFFFFFFFF)

/-- The product of two polynomials modulo that of the 64-bit CRC, each with its constant term in bit 63, as the register has it. -/
def crcMul (a b : Nat) : Nat :=
  ((List.range 64).foldl (fun (r : Nat × Nat) i => (if bitOf b (63 - i) then r.1 ^^^ r.2 else r.1, crcBit 0xC96C5795D7870F42 r.2)) (0, a)).1
/-- A 64-bit CRC register after `n` more zero bytes: it is multiplied by x^(8n), found by squaring. -/
def crcGap (r n : Nat) : Nat :=
  ((List.range (n.log2 + 1)).foldl (fun (s : Nat × Nat) i => (if bitOf n i then crcMul s.1 s.2 else s.1, crcMul s.2 s.2)) (r, 2 ^ 55)).1
/-- CRC-64 of some bytes and `n` zero bytes behind them. -/
def crc64Gap (bs : List Byte) (n : Nat) : Word :=
  BitVec.ofNat 64 (crcGap (bs.foldl (crcByte 0xC96C5795D7870F42) 0xFFFFFFFFFFFFFFFF) n ^^^ 0xFFFFFFFFFFFFFFFF)
/-- What a change of bytes does to the CRC-64 of a string of fixed length (04 R74): the CRC is linear, so the difference of the
bytes, with the zeros behind it, is what the old value and the new one differ by. `rest` bytes follow the changed ones. -/
def crcDelta (old new : List Byte) (rest : Nat) : Word :=
  BitVec.ofNat 64 (crcGap ((List.zipWith (· ^^^ ·) old new).foldl (crcByte 0xC96C5795D7870F42) 0) rest)

/-- CRC-32C (05 Table 5-7, 10 Table 10-5, 13 Table 13-9): reflected polynomial 0x82F63B78. -/
def crc32c (bs : List Byte) : BitVec 32 :=
  BitVec.ofNat 32 ((bs.foldl (crcByte 0x82F63B78) 0xFFFFFFFF) ^^^ 0xFFFFFFFF)

end Sys2Proof.Machine
end

