-- ==== Sys2Proof/Machine/Float.lean ====
section
/-! DEFINITION. Exact binary numbers, rounding to nearest even with saturation, and the engines' FP32 functions
(spec 07 R155, R156; 06 R127). A number is a sign, a magnitude and a power of two, so that −0 is kept. -/

namespace Sys2Proof.Machine

/-- The number ±m·2^e. -/
structure Fl where
  neg : Bool
  m : Nat
  e : Int
  deriving DecidableEq, Repr

/-- +0. -/
def Fl.zero : Fl := ⟨false, 0, 0⟩
/-- A natural number. -/
def Fl.ofNat (n : Nat) : Fl := ⟨false, n, 0⟩
/-- −x. -/
def Fl.neg' (x : Fl) : Fl := { x with neg := !x.neg }
/-- |x|. -/
def Fl.abs (x : Fl) : Fl := { x with neg := false }
/-- x·2^k. -/
def Fl.scale2 (x : Fl) (k : Int) : Fl := { x with e := x.e + k }
/-- The signed magnitude at a lower exponent `q ≤ x.e`. -/
def Fl.at (x : Fl) (q : Int) : Int :=
  let v := (x.m * 2 ^ (x.e - q).toNat : Nat)
  if x.neg then -(v : Int) else v
/-- The exact sum; an exact zero is +0 unless both terms are −0 or negative zero. -/
def Fl.add (a b : Fl) : Fl :=
  if a.m = 0 ∧ b.m = 0 then ⟨a.neg && b.neg, 0, 0⟩
  else if a.m = 0 then b
  else if b.m = 0 then a
  else
    let q := min a.e b.e
    let v := a.at q + b.at q
    ⟨v < 0, v.natAbs, q⟩
/-- The exact difference. -/
def Fl.sub (a b : Fl) : Fl := a.add b.neg'
/-- The exact product. -/
def Fl.mul (a b : Fl) : Fl := ⟨a.neg != b.neg, a.m * b.m, a.e + b.e⟩
/-- a < b, with −0 equal to +0. -/
def Fl.lt (a b : Fl) : Bool := let q := min a.e b.e; a.at q < b.at q
/-- a ≤ b. -/
def Fl.le (a b : Fl) : Bool := !(b.lt a)
/-- Equal values. -/
def Fl.eqv (a b : Fl) : Bool := a.le b && b.le a
/-- The larger of two numbers. -/
def Fl.maxF (a b : Fl) : Fl := if a.lt b then b else a
/-- floor(log2 |x|) of a nonzero number. -/
def Fl.log2 (x : Fl) : Int := (x.m.log2 : Int) + x.e
/-- ceil(log2 |x|) of a nonzero number. -/
def Fl.clog2 (x : Fl) : Int := if x.m = 2 ^ x.m.log2 then x.log2 else x.log2 + 1

/-- m / 2^k rounded to nearest, ties to even. -/
def rneShift (m k : Nat) : Nat :=
  let q := m / 2 ^ k
  let r := m % 2 ^ k
  if 2 * r > 2 ^ k ∨ (2 * r = 2 ^ k ∧ q % 2 = 1) then q + 1 else q

/-- A float format: significant bits with the hidden one, least normal exponent, largest finite magnitude. -/
structure FFmt where
  p : Nat
  emin : Int
  big : Fl
  deriving DecidableEq, Repr

/-- FP32 (Table 7-1). -/
def fFP32 : FFmt := ⟨24, -126, ⟨false, 0xFFFFFF, 104⟩⟩
/-- Operands as stored, widened without rounding (07 Table 7-5). -/
def fWide : FFmt := ⟨24, -400, ⟨false, 0xFFFFFF, 400⟩⟩
/-- BF16. -/
def fBF16 : FFmt := ⟨8, -126, ⟨false, 0xFF, 120⟩⟩
/-- FP16. -/
def fFP16 : FFmt := ⟨11, -14, ⟨false, 0x7FF, 5⟩⟩
/-- E4M3: largest finite 448. -/
def fE4M3 : FFmt := ⟨4, -6, ⟨false, 7, 6⟩⟩
/-- E5M2: largest finite 57,344. -/
def fE5M2 : FFmt := ⟨3, -14, ⟨false, 7, 13⟩⟩
/-- E3M2: largest finite 28. -/
def fE3M2 : FFmt := ⟨3, -2, ⟨false, 7, 2⟩⟩
/-- E2M3: largest finite 7.5. -/
def fE2M3 : FFmt := ⟨4, 0, ⟨false, 15, -1⟩⟩
/-- E2M1: largest finite 6. -/
def fE2M1 : FFmt := ⟨2, 0, ⟨false, 3, 1⟩⟩

/-- Round to nearest even in a format's precision, exponent range unbounded above, subnormals kept (07 R155). -/
def Fl.rnd (f : FFmt) (x : Fl) : Fl :=
  if x.m = 0 then ⟨x.neg, 0, 0⟩
  else
    let q := max (x.log2 + 1 - f.p) (f.emin - (f.p - 1))
    if q ≤ x.e then x else ⟨x.neg, rneShift x.m (q - x.e).toNat, q⟩

/-- Conversion to a narrower format: rounded, then saturated; the flag says that it saturated (07 R155). -/
def Fl.conv (f : FFmt) (x : Fl) : Fl × Bool :=
  let r := x.rnd f
  if f.big.lt r.abs then ({ f.big with neg := x.neg }, true) else (r, false)

/-- A result in FP32, saturating on overflow (07 R156). -/
def Fl.f32 (x : Fl) : Fl := (x.conv fFP32).1

/-- FP32 sum, product and difference. -/
def f32add (a b : Fl) : Fl := (a.add b).f32
def f32mul (a b : Fl) : Fl := (a.mul b).f32
def f32sub (a b : Fl) : Fl := (a.sub b).f32

/-- IEEE 754 binary64 (09 R205). -/
def fF64 : FFmt := ⟨53, -1022, ⟨false, 0x1FFFFFFFFFFFFF, 971⟩⟩
/-- A quotient by a nonzero number with 80 bits and a sticky bit, so that one rounding of it is exact. -/
def Fl.quot (a b : Fl) : Fl :=
  if a.m = 0 then ⟨a.neg != b.neg, 0, 0⟩
  else
    let k := 80 + b.m.log2 + 1
    let n := a.m * 2 ^ k
    let q := n / b.m
    let s := if n % b.m = 0 then 0 else 1
    ⟨a.neg != b.neg, 2 * q + s, a.e - b.e - k - 1⟩
/-- FP32 quotient of a number by a nonzero one. -/
def f32div (a b : Fl) : Fl := (a.quot b).f32
/-- binary64 sum, product and quotient. -/
def f64add (a b : Fl) : Fl := (a.add b).rnd fF64
def f64mul (a b : Fl) : Fl := (a.mul b).rnd fF64
def f64div (a b : Fl) : Fl := (a.quot b).rnd fF64

/-- Bits below the point of the fixed-point numbers that `exp` and `ln` are worked out in. -/
def fxBits : Nat := 256

/-- 2·atanh(n/d) in fixed point, by its series. -/
def fxAtanh2 (n d : Nat) : Nat :=
  let z := n * 2 ^ fxBits / d
  let z2 := z * z / 2 ^ fxBits
  2 * ((List.range 100).foldl (fun (acc : Nat × Nat) i =>
    (acc.1 + acc.2 / (2 * i + 1), acc.2 * z2 / 2 ^ fxBits)) (0, z)).1

/-- ln 2 in fixed point. -/
def fxLn2 : Nat := fxAtanh2 1 3

/-- The FP32 value nearest to exp of a finite FP32 number (06 R127): exp(x) = 2^k·exp(r) with 0 ≤ r < ln 2. -/
def f32exp (x : Fl) : Fl :=
  if x.m = 0 then Fl.ofNat 1
  else if Fl.lt ⟨false, 89, 0⟩ x then fFP32.big
  else if Fl.lt x ⟨true, 105, 0⟩ then Fl.zero
  else
    let v : Int := if x.e + fxBits < 0 then 0 else x.at (-(fxBits : Int))
    let k := v / (fxLn2 : Int)
    let r := (v % (fxLn2 : Int)).toNat
    let s := ((List.range 80).foldl (fun (acc : Nat × Nat) i =>
      (acc.1 + acc.2, acc.2 * r / 2 ^ fxBits / (i + 1))) (0, 2 ^ fxBits)).1
    Fl.f32 ⟨false, 2 * s + 1, k - fxBits - 1⟩

/-- The FP32 value nearest to ln of a positive finite number; none is −∞, for ln(+0) (06 R127). -/
def f32ln (x : Fl) : Option Fl :=
  if x.m = 0 then none
  else
    let n := x.m.log2
    if x.m = 2 ^ n ∧ x.log2 = 0 then some Fl.zero
    else
      let f := fxAtanh2 (x.m - 2 ^ n) (x.m + 2 ^ n)
      let v : Int := x.log2 * (fxLn2 : Int) + f
      some (Fl.f32 ⟨v < 0, v.natAbs, -(fxBits : Int)⟩)

/-- The fields of a float code: sign, exponent bits `eb`, mantissa bits `mb`, bias. -/
structure Code where
  eb : Nat
  mb : Nat
  bias : Int
  deriving DecidableEq, Repr

/-- The value of a code of a float layout, its non-finite codes not considered (07 R148). -/
def Code.val (c : Code) (v : Nat) : Fl :=
  let s := bitOf v (c.eb + c.mb)
  let e := bitsOf v (c.eb + c.mb - 1) c.mb
  let m := v % 2 ^ c.mb
  if e = 0 then ⟨s, m, 1 - c.bias - c.mb⟩ else ⟨s, 2 ^ c.mb + m, (e : Int) - c.bias - c.mb⟩

/-- The code of a number that the layout holds exactly. -/
def Code.enc (c : Code) (x : Fl) : Nat :=
  let s := b2n x.neg * 2 ^ (c.eb + c.mb)
  if x.m = 0 then s
  else
    let lg := x.log2
    if lg < 1 - c.bias then s + (x.at (1 - c.bias - c.mb)).natAbs
    else s + (lg + c.bias).toNat * 2 ^ c.mb + ((x.at (min x.e (lg - c.mb))).natAbs / 2 ^ (lg - c.mb - min x.e (lg - c.mb)).toNat - 2 ^ c.mb)

/-- FP32's layout. -/
def cFP32 : Code := ⟨8, 23, 127⟩
/-- Is an FP32 word an infinity or a NaN? -/
def f32special (w : Nat) : Bool := bitsOf w 30 23 == 255
/-- A finite FP32 word's value. -/
def f32val (w : Nat) : Fl := cFP32.val w
/-- The FP32 word of an FP32 value. -/
def f32enc (x : Fl) : Nat := cFP32.enc x

end Sys2Proof.Machine
end

