-- ==== Sys2Proof/Machine/Formats.lean ====
section
/-! DEFINITION. The eleven element formats, their block scales, packing and conversions (spec 07 R148 to R159, 04 R71).
A format is named by its code of Table 7-1. -/

namespace Sys2Proof.Machine

/-- Element width in bits (Table 7-1). -/
def elemBits (fmt : Nat) : Nat :=
  match fmt with
  | 0 => 32 | 1 => 16 | 2 => 16 | 3 => 8 | 4 => 8 | 5 => 6 | 6 => 6 | 7 => 4 | 8 => 8 | 9 => 4 | _ => 5

/-- The layout of a floating-point element format. -/
def elemCode (fmt : Nat) : Code :=
  match fmt with
  | 0 => ⟨8, 23, 127⟩ | 1 => ⟨8, 7, 127⟩ | 2 => ⟨5, 10, 15⟩ | 3 => ⟨4, 3, 7⟩ | 4 => ⟨5, 2, 15⟩
  | 5 => ⟨3, 2, 3⟩ | 6 => ⟨2, 3, 1⟩ | _ => ⟨2, 1, 1⟩

/-- The rounding target of a floating-point element format. -/
def elemFF (fmt : Nat) : FFmt :=
  match fmt with
  | 0 => fFP32 | 1 => fBF16 | 2 => fFP16 | 3 => fE4M3 | 4 => fE5M2 | 5 => fE3M2 | 6 => fE2M3 | _ => fE2M1

/-- Two's complement value of a `w`-bit code. -/
def intVal (w v : Nat) : Fl := if v < 2 ^ (w - 1) then ⟨false, v, 0⟩ else ⟨true, 2 ^ w - v, 0⟩

/-- The code of a non-finite or reserved element, which no consumer takes (07 R149). -/
def elemReserved (fmt v : Nat) : Bool :=
  match fmt with
  | 0 => bitsOf v 30 23 == 255
  | 1 => bitsOf v 14 7 == 255
  | 2 => bitsOf v 14 10 == 31
  | 3 => v % 128 == 127
  | 4 => bitsOf v 6 2 == 31
  | 10 => v == 16
  | _ => false

/-- √2 rounded to a target: 1.4140625 in BF16 and FP16, 0x3FB5_04F3 in FP32 (07, below Table 7-3). -/
def sqrt2In (t : FFmt) : Fl := if t.p = 24 then ⟨false, 0xB504F3, -23⟩ else ⟨false, 0xB5, -7⟩

/-- The magnitude of a GRN5 code without its scale, for a target format (07 R153). -/
def grn5Mag (t : FFmt) (c : Nat) : Fl :=
  if c = 0 then Fl.zero
  else if c % 2 = 1 then ⟨false, 1, ((c : Int) - 15) / 2⟩
  else (sqrt2In t).scale2 (((c : Int) - 16) / 2)

/-- The value of a stored element, its scale byte `x` applied exactly and the result rounded once to a target format;
none for a reserved code. The flag says that it saturated (07 R148, R151, R153, R155). -/
def elemRead (fmt : Nat) (mx : Bool) (t : FFmt) (x v : Nat) : Option (Fl × Bool) :=
  if elemReserved fmt v || ((mx || fmt == 10) && x == 255) then none
  else
    let sc : Int := if mx || fmt == 10 then (x : Int) - 127 else 0
    let b : Fl :=
      if fmt = 8 then (intVal 8 v).scale2 (if mx then -6 else 0)
      else if fmt = 9 then (intVal 4 v).scale2 (if mx then -2 else 0)
      else if fmt = 10 then { grn5Mag t (v % 16) with neg := bitOf v 4 }
      else (elemCode fmt).val v
    some ((b.scale2 sc).conv t)

/-- The largest magnitude of a block. -/
def amax (xs : List Fl) : Fl := xs.foldl (fun a x => Fl.maxF a x.abs) Fl.zero

/-- `emax` of R152. -/
def emaxOf (fmt : Nat) : Int :=
  match fmt with
  | 3 => 8 | 4 => 15 | 5 => 4 | 6 => 2 | 7 => 2 | _ => 0

/-- Clamp to −127 .. 127 and bias by 127. -/
def scaleByte (v : Int) : Nat := (max (-127) (min 127 v) + 127).toNat

/-- The scale of a 32-element block (07 R152), and of a GRN5 block of 64 (07 R153). -/
def blockScale (fmt : Nat) (xs : List Fl) : Nat :=
  let a := amax xs
  if a.m = 0 then 0
  else if fmt = 10 then scaleByte a.clog2
  else scaleByte (a.log2 - emaxOf fmt)

/-- Round to the nearest integer, ties to even, saturating at ±`big`. -/
def rneInt (x : Fl) (big : Nat) : Bool × Nat × Bool :=
  let n := if x.e ≥ 0 then x.m * 2 ^ x.e.toNat else rneShift x.m (-x.e).toNat
  if n > big then (x.neg, big, true) else (x.neg, n, false)

/-- The lower bound of the ratio for a GRN5 code (Table 7-3): the FP32 value nearest 2^((c − 15)/2 − 1/4), and
2^−7.5 for code 1. -/
def grn5Bound (c : Nat) : Fl :=
  if c = 1 then ⟨false, 11863283, -24 - 7⟩
  else if c % 2 = 1 then ⟨false, 14107901, ((c : Int) - 15) / 2 - 24⟩
  else ⟨false, 9975792, ((c : Int) - 14) / 2 - 24⟩

/-- The GRN5 code of a value under a scale byte (07 R153). -/
def grn5Enc (x : Nat) (v : Fl) : Nat :=
  let r := (v.abs.scale2 (127 - (x : Int))).f32
  let c := (List.range 16).foldl (fun a c => if c ≥ 1 ∧ (grn5Bound c).le r then c else a) 0
  if c = 0 then 0 else b2n v.neg * 16 + c

/-- The code of a value under a scale byte, and whether it saturated (07 R152, R153, R155). A ratio above code 15
arises only where the scale is clamped; it takes code 15, and from the midpoint to a code 16 on it counts as saturated. -/
def elemWrite (fmt : Nat) (mx : Bool) (x : Nat) (v : Fl) : Nat × Bool :=
  let sc : Int := if mx then 127 - (x : Int) else 0
  if fmt = 10 then (grn5Enc x v, (grn5Bound 16).le (v.abs.scale2 (127 - (x : Int))))
  else if fmt = 8 then
    let r := rneInt (v.scale2 (sc + if mx then 6 else 0)) 127
    ((if r.1 ∧ r.2.1 ≠ 0 then 256 - r.2.1 else r.2.1), r.2.2)
  else if fmt = 9 then
    let r := rneInt (v.scale2 (sc + if mx then 2 else 0)) 7
    ((if r.1 ∧ r.2.1 ≠ 0 then 16 - r.2.1 else r.2.1), r.2.2)
  else
    let r := (v.scale2 sc).conv (elemFF fmt)
    ((elemCode fmt).enc r.1, r.2)

/-- Cut a list into pieces of `n`. -/
def chunksOf {α : Type} (n : Nat) : Nat → List α → List (List α)
  | 0, _ => []
  | k + 1, l => l.take n :: chunksOf n k (l.drop n)

/-- Elements per block scale. -/
def scaleSpan (fmt : Nat) : Nat := if fmt = 10 then 64 else 32

/-- Does the format carry block scales? -/
def hasScales (fmt : Nat) (mx : Bool) : Bool := mx || fmt == 10

/-- Bytes of one row (04 R71). -/
def rowBytes (fmt headDim : Nat) : Nat := headDim * elemBits fmt / 8
/-- Scale bytes of one row (07 R151). -/
def rowScales (fmt : Nat) (mx : Bool) (headDim : Nat) : Nat :=
  if hasScales fmt mx then headDim / scaleSpan fmt else 0
/-- Length of a tile's trailer (04 R71). -/
def trailerBytes (fmt : Nat) (mx : Bool) (headDim : Nat) : Nat := 64 * rowScales fmt mx headDim
/-- Length of a tile with its trailer (04 R71). -/
def tileBytes (fmt : Nat) (mx : Bool) (headDim : Nat) : Nat := 64 * rowBytes fmt headDim + trailerBytes fmt mx headDim

/-- Codes packed in ascending element order into a little-endian bit stream (07 R150). -/
def packCodes (w : Nat) : List Nat → Nat
  | [] => 0
  | c :: cs => c % 2 ^ w + 2 ^ w * packCodes w cs

/-- A row converted to storage: its bytes, its scale bytes, and how many elements saturated. -/
def rowWrite (fmt : Nat) (mx : Bool) (vals : List Fl) : List Byte × List Byte × Nat :=
  let span := if hasScales fmt mx then scaleSpan fmt else vals.length
  let blocks := chunksOf span ((vals.length + span - 1) / span) vals
  let enc := blocks.map fun b =>
    let x := if hasScales fmt mx then blockScale fmt b else 127
    (x, b.map (elemWrite fmt mx x))
  let codes := (enc.map fun p => p.2.map (·.1)).flatten
  let sat := ((enc.map fun p => p.2.map fun c => b2n c.2).flatten).sum
  (toLe (packCodes (elemBits fmt) codes) (rowBytes fmt vals.length),
   if hasScales fmt mx then enc.map fun p => BitVec.ofNat 8 p.1 else [], sat)

/-- The elements of a stored row in a target format, none where one is reserved; with the number that saturated. -/
def rowRead (fmt : Nat) (mx : Bool) (t : FFmt) (headDim : Nat) (row scales : List Byte) : Option (List Fl × Nat) :=
  let v := leNat row
  let w := elemBits fmt
  let rs := (List.range headDim).map fun i =>
    elemRead fmt mx t ((scales.getD (i / scaleSpan fmt) 0).toNat) (v / 2 ^ (w * i) % 2 ^ w)
  if rs.all Option.isSome then
    some (rs.map fun r => (r.map (·.1)).getD Fl.zero, (rs.map fun r => (r.map fun p => b2n p.2).getD 0).sum)
  else none

/-- An arriving element of `xfmt` (0 FP32, 1 BF16, 2 FP16): a NaN becomes +0, an infinity the largest finite value of
its format; the flag says that it was replaced (07 R156). -/
def arriveVal (fmt v : Nat) : Fl × Bool :=
  if elemReserved fmt v then
    let c := elemCode fmt
    if v % 2 ^ c.mb = 0 then ({ (elemFF fmt).big with neg := bitOf v (c.eb + c.mb) }, true) else (Fl.zero, true)
  else ((elemCode fmt).val v, false)

/-- A vector of `n` elements of `xfmt` at an offset of a byte string, with the number replaced. -/
def arriveVec (fmt : Nat) (bs : List Byte) (off n : Nat) : List Fl × Nat :=
  let sz := elemBits fmt / 8
  let r := (List.range n).map fun i => arriveVal fmt (fld bs (off + sz * i) sz)
  (r.map (·.1), (r.map fun p => b2n p.2).sum)

/-- Values converted to a format and written little-endian, with the number that saturated. -/
def emitVec (fmt : Nat) (xs : List Fl) : List Byte × Nat :=
  let r := xs.map fun x => x.conv (elemFF fmt)
  ((r.map fun p => toLe ((elemCode fmt).enc p.1) (elemBits fmt / 8)).flatten, (r.map fun p => b2n p.2).sum)

/-- A level of the pairwise tree: neighbours are added (07 R160). -/
def pairwise : List Fl → List Fl
  | a :: b :: t => f32add a b :: pairwise t
  | l => l
/-- Sum by a fixed pairwise tree: neighbours are added until one is left. Three terms that remain, at head dimensions 96 and 192, are
grouped as the device groups them, which the manual does not draw (a free value, log entry 9). -/
def treeSum : Nat → List Fl → Fl
  | 0, l => l.headD Fl.zero
  | n + 1, l => match l with
    | [a, b, c] => if Config.groupsLast then f32add a (f32add b c) else f32add (f32add a b) c
    | _ => treeSum n (pairwise l)
/-- A dot product: exact products, added in the tree in FP32 (07 R158, R160). -/
def dotTree (a b : List Fl) : Fl := (treeSum 9 ((a.zip b).map fun p => p.1.mul p.2)).f32
/-- A product of two operands of a class: exact. Of two GRN5 operands as stored, each of which may carry the factor √2, it is an exact
power of two where both do (07 R153, R158). -/
def classMul (grn : Bool) (a b : Fl) : Fl :=
  if grn && a.m == 0xB504F3 && b.m == 0xB504F3 then ⟨a.neg != b.neg, 2, a.e + b.e + 46⟩ else a.mul b
/-- A dot product of operands of a class. -/
def dotClass (grn : Bool) (a b : List Fl) : Fl := (treeSum 9 ((a.zip b).map fun p => classMul grn p.1 p.2)).f32

end Sys2Proof.Machine
end

