-- ==== Sys2Proof/Machine/Keccak.lean ====
section
/-! DEFINITION. The sponge functions that the manual names: SHAKE256 of FIPS 202 (08 R181, 11 R256, 13 R302) and
KMAC128 of NIST SP 800-185 (05 R101). -/

namespace Sys2Proof.Machine

/-- The place of lane (x, y) in the state: FIPS 202 numbers the bytes of lane after lane along x. -/
def laneAt (x y : Nat) : Nat := x % 5 + 5 * (y % 5)
/-- A lane of the state. -/
def keccakLane (a : List Word) (x y : Nat) : Word := a.getD (laneAt x y) 0
/-- A state from a function of x and y. -/
def ofLanes (f : Nat → Nat → Word) : List Word := (List.range 25).map fun i => f (i % 5) (i / 5)

/-- Step theta: every lane takes the parities of the columns at x − 1 and, rotated by one, x + 1. -/
def keccakTheta (a : List Word) : List Word :=
  let column := (List.range 5).map fun x => (List.range 5).foldl (fun w y => w ^^^ keccakLane a x y) 0
  let tip := (List.range 5).map fun x => column.getD ((x + 4) % 5) 0 ^^^ (column.getD ((x + 1) % 5) 0).rotateLeft 1
  ofLanes fun x y => keccakLane a x y ^^^ tip.getD x 0
/-- Steps rho and pi in one walk over the 24 lanes besides (0, 0), from (1, 0): lane number t of the walk is rotated by
(t + 1)(t + 2)/2 and goes where the walk goes next, to (y, 2x + 3y). -/
def keccakRhoPi (a : List Word) : Nat → Nat → Nat → Nat → List Word → List Word
  | 0, _, _, _, out => out
  | n + 1, t, x, y, out =>
    let u := (2 * x + 3 * y) % 5
    keccakRhoPi a n (t + 1) y u (out.set (laneAt y u) ((keccakLane a x y).rotateLeft ((t + 1) * (t + 2) / 2 % 64)))
/-- Step chi. -/
def keccakChi (a : List Word) : List Word :=
  ofLanes fun x y => keccakLane a x y ^^^ (keccakLane a (x + 2) y &&& ~~~(keccakLane a (x + 1) y))
/-- One step of the 8-bit register whose low bits make the round constants: x^8 is x^6 + x^5 + x^4 + 1. -/
def keccakLfsr (r : Nat) : Nat := if r < 128 then 2 * r else (2 * r) ^^^ 0x171
/-- The round constant that starts at a register state, and the state seven steps on: bit 2^j − 1 is the output of step j. -/
def keccakIota (r : Nat) : Word × Nat :=
  (List.range 7).foldl (fun s j => (if s.2 % 2 = 1 then s.1 ||| BitVec.twoPow 64 (2 ^ j - 1) else s.1, keccakLfsr s.2)) (0, r)
/-- `n` rounds from a register state. -/
def keccakRounds : Nat → Nat → List Word → List Word
  | 0, _, a => a
  | n + 1, r, a =>
    let i := keccakIota r
    keccakRounds n i.2 ((keccakChi (keccakRhoPi (keccakTheta a) 24 0 1 0 (keccakTheta a))).modify 0 (· ^^^ i.1))

/-- Keccak-f[1600]. -/
def keccakF (a : List Word) : List Word := keccakRounds 24 1 a

/-- XOR one block of bytes into the state. -/
def keccakXor (a : List Word) (blk : List Byte) : List Word :=
  (List.range 25).map fun i => a.getD i 0 ^^^ BitVec.ofNat 64 (fld blk (8 * i) 8)

/-- The bytes of the state. -/
def keccakBytes (a : List Word) : List Byte := (a.map fun w => toLe w.toNat 8).flatten

/-- Absorb whole blocks of `rate` bytes. -/
def keccakAbsorb (rate : Nat) : Nat → List Byte → List Word → List Word
  | 0, _, a => a
  | n + 1, bs, a => keccakAbsorb rate n (bs.drop rate) (keccakF (keccakXor a (bs.take rate)))

/-- Squeeze `n` blocks. -/
def keccakSqueeze (rate : Nat) : Nat → List Word → List Byte
  | 0, _ => []
  | n + 1, a => (keccakBytes a).take rate ++ keccakSqueeze rate n (keccakF a)

/-- The sponge with domain byte `dom` (suffix bits and the first pad bit) and `out` output bytes. -/
def sponge (rate : Nat) (dom : Byte) (msg : List Byte) (out : Nat) : List Byte :=
  let n := msg.length / rate + 1
  let p := padTo (msg ++ [dom]) (n * rate)
  let p := listSet p (n * rate - 1) (· ^^^ 0x80)
  (keccakSqueeze rate (out / rate + 1) (keccakAbsorb rate n p (List.replicate 25 0))).take out

/-- SHAKE256 with `out` bytes of output. -/
def shake256 (msg : List Byte) (out : Nat) : List Byte := sponge 136 0x1F msg out

/-- A 256-bit SHAKE256 digest, byte 0 lowest. -/
def shakeDigest (msg : List Byte) : Digest := BitVec.ofNat 256 (leNat (shake256 msg 32))

/-- left_encode of SP 800-185, for numbers below 65,536. -/
def leftEncode (n : Nat) : List Byte := if n < 256 then [1, BitVec.ofNat 8 n] else 2 :: toBe n 2
/-- right_encode of SP 800-185, for numbers below 65,536. -/
def rightEncode (n : Nat) : List Byte := if n < 256 then [BitVec.ofNat 8 n, 1] else toBe n 2 ++ [2]
/-- encode_string of SP 800-185. -/
def encodeString (s : List Byte) : List Byte := leftEncode (8 * s.length) ++ s
/-- bytepad of SP 800-185. -/
def bytepad (s : List Byte) (w : Nat) : List Byte :=
  let z := leftEncode w ++ s
  padTo z ((z.length + w - 1) / w * w)

/-- ASCII bytes. -/
def ascii (s : String) : List Byte := s.toList.map fun c => BitVec.ofNat 8 c.toNat

/-- KMAC128(K, X, 8·out, S) of SP 800-185. -/
def kmac128 (k x s : List Byte) (out : Nat) : List Byte :=
  sponge 168 0x04 (bytepad (encodeString (ascii "KMAC") ++ encodeString s) 168
    ++ bytepad (encodeString k) 168 ++ x ++ rightEncode (8 * out)) out

/-- KMAC256(K, X, 8·out, S) of SP 800-185. -/
def kmac256 (k x s : List Byte) (out : Nat) : List Byte :=
  sponge 136 0x04 (bytepad (encodeString (ascii "KMAC") ++ encodeString s) 136
    ++ bytepad (encodeString k) 136 ++ x ++ rightEncode (8 * out)) out

/-- The 10 bytes that customise block keys (05 R101). -/
def pfxCustom : List Byte := ascii "SK7240-PFX"

/-- The key of a block (05 R101, Table 5-3): `dk` is the 32-byte domain key. -/
def blockKey (dk : Digest) (parent : Key128) (modelId : BitVec 16) (tokens : List (BitVec 32)) : Key128 :=
  let x := toLe parent.toNat 16 ++ toLe modelId.toNat 2 ++ [0, 0] ++ (tokens.map fun t => toLe t.toNat 4).flatten
  BitVec.ofNat 128 (leNat (kmac128 (toLe dk.toNat 32) x pfxCustom 16))

/-- The draw stream of a request: 8 bytes at a row's place in SHAKE256("SK7240-SMP" ‖ seed), little-endian (08 R181). -/
def drawWord (seed : Word) (row : Nat) : Nat :=
  leNat ((shake256 (ascii "SK7240-SMP" ++ toLe seed.toNat 8) (8 * row + 8)).drop (8 * row))

end Sys2Proof.Machine
end

