-- ==== Sys2Proof/Machine/Records.lean ====
section
/-! DEFINITION. The records of a partition's objects: models, tenants, domains, sessions, sequences, page groups,
regions, prefix-store nodes, programs, queues, live commands, steps, waves and descriptors (spec 01, 03 to 09, 17). -/

namespace Sys2Proof.Machine

/-- A model descriptor (01 Table 1-7, 06 Table 6-1). -/
structure ModelDesc where
  modelId : BitVec 16
  layers : Nat
  kvHeads : Nat
  qPerKv : Nat
  headDim : Nat
  kvFmt : Nat
  mx : Bool
  pfMath : Nat
  pageCode : Nat
  hgSize : Nat
  hgRank : Nat
  headBase : Nat
  kvTotal : Nat
  scale : BitVec 32
  vocab : Nat
  hgTimeout : Nat
  hgQp : List Nat
  deriving DecidableEq, Repr

/-- A model slot: its last generation and the descriptor it holds (17 R390). -/
structure ModelSlot where
  gen : Nat
  desc : Option ModelDesc
  deriving DecidableEq, Repr

/-- A tenant record (08 Table 8-3). -/
structure Tenant where
  capacity : Nat
  rate : Nat
  level : Int
  lastRefill : Nat
  remainder : Nat
  priority : Nat
  enabled : Bool
  hold : Bool
  nextCapacity : Nat
  nextRate : Nat
  staged : Bool
  deriving DecidableEq, Repr

/-- Domain states (05 Table 5-2). -/
inductive DomSt where
  | free | active | closing
  deriving DecidableEq, Repr

/-- A sharing-domain record (05 Table 5-2). `reserved` names the step that created it and has not committed,
`excluded` the step whose DOMCLOSE has executed (16, DOMCLOSE). -/
structure Domain where
  key : Digest
  members : BitVec 16
  cross : Bool
  equalTime : Bool
  etMax : Nat
  st : DomSt
  reserved : Option Nat
  excluded : Option Nat
  deriving DecidableEq, Repr

/-- Session states (01 Table 1-10); FREE is the absence of a record. -/
inductive SessSt where
  | opened | running | parked | reviving | migrating
  deriving DecidableEq, Repr

/-- What SPARK asks (09 Table 9-2); `by_` is the step that asked and waits for the record, 0 for none. -/
structure ParkArgs where
  reason : Nat
  demote : Nat
  flags : Nat
  ttl : Nat
  hint : Nat
  by_ : Nat
  deriving DecidableEq, Repr

/-- A session record (01 Table 1-8) with its parked-list entry (09 Table 9-3). -/
structure Session where
  h : Handle
  tenant : Nat
  domain : BitVec 16
  model : BitVec 16
  st : SessSt
  parkReason : Nat
  ttl : Nat
  durClass : Nat
  durN : Nat
  committedTokens : Nat
  preemptible : Bool
  priority : Nat
  seqs : List Handle
  history : Handle
  sampler : Handle
  scratch : Handle
  parkedAt : Nat
  resumeHint : Nat
  pflags : Nat
  pendPark : Option ParkArgs
  pendClose : Option Nat
  preRevived : Bool
  deriving DecidableEq, Repr

/-- Sequence states (01 Table 1-11); FREE is the absence of a record. -/
inductive SeqSt where
  | idle | prefill | decode
  deriving DecidableEq, Repr

/-- The summary tiles of one range of a coarse index (06 R144): their place in T0 (quadrant, first 4 KiB block, blocks), the rows written,
and their seals by layer · 64 + head. -/
structure Summary where
  quad : Nat
  start : Nat
  blocks : Nat
  rows : List Nat
  seals : Tab Word
  deriving DecidableEq, Repr

/-- A sequence record (01 Table 1-9), its page table, its key column and `rc_pending` (05 R102, 09 R204). An entry of
the page table is a group handle, or the null handle for DROPPED (01 R19). `openStep` is the step that is open on it
(03 R66); `readySince` orders ready sequences (08 R166). `coarse` holds the summary tiles of compatibility mode
(06 R144), keyed by (range · 256 + layer) · 64 + head, and `summaries` their ranges. -/
structure Sequence where
  h : Handle
  sess : Handle
  committed : Nat
  prov : Nat
  table : Tab Handle
  keys : Tab Key128
  rc : Nat
  st : SeqSt
  hgSeq : Nat
  openStep : Option Nat
  freeAtEnd : Bool
  readySince : Nat
  held : Bool
  coarse : Tab Bytes
  summaries : Tab Summary
  deriving DecidableEq, Repr

/-- Page-group states (01 Table 1-12); FREE is the absence of a record. -/
inductive GroupSt where
  | opened | full | retiring
  deriving DecidableEq, Repr

/-- The move slot (01 R22). -/
inductive MoveSt where
  | idle | promoting | demoting
  deriving DecidableEq, Repr

/-- A page record (04 Table 4-7). `rows` are the rows written to the page, which its tile headers carry (Table 4-4). -/
structure PageRec where
  sealK : Word
  sealV : Word
  dirty : Bool
  poisonK : Bool
  poisonV : Bool
  rows : Nat
  deriving DecidableEq, Repr

/-- A page group: directory entry (04 Table 4-5), metadata block (Table 4-6), page records and page bytes. `frame` and
`run` are the first 4 KiB blocks of its T0 frame and metadata run in its home quadrant; `rows` counts the rows written,
provisional ones too; `openedBy` is the step that opened it and has not committed; `moveTo` is the place that a relocation copies
it to, `quad0` the home quadrant it had before its promotion, `forAlloc` the waiting allocation that its demotion or relocation is
for, 0 for none (R80, R94); `reviving` says that a revival or a pre-revival wants its promotion (09 R212); `data` is addressed by page offset (04 R70). -/
structure Group where
  h : Handle
  st : GroupSt
  quad : Nat
  tier : Tier
  backing : Option Tier
  move : MoveSt
  copyOut : Bool
  ppin : Bool
  dest : Tier
  cancelFree : Bool
  refcount : Nat
  pins : Nat
  touch : Nat
  model : BitVec 16
  domain : BitVec 16
  filled : Nat
  rows : Nat
  pages : Nat
  block : Nat
  frame : Nat
  run : Nat
  loc : Nat
  backLoc : Nat
  recs : Tab PageRec
  openedBy : Option Nat
  moveTo : Option (Nat × Nat)
  quad0 : Nat
  forAlloc : Nat
  reviving : Bool
  data : Bytes
  deriving DecidableEq, Repr

/-- Region states (01 Table 1-13); FREE is the absence of a record. -/
inductive RegionSt where
  | uploading | valid | superseded | revoking | revoked | unbindable
  deriving DecidableEq, Repr

/-- What a binding region reads (11 R257): the publication's owner, its region, and whether it follows. -/
structure Binding where
  owner : Nat
  name : Word
  domain : BitVec 16
  region : Nat
  follow : Bool
  deriving DecidableEq, Repr

/-- A region record (01 R24, 11 R255). `home` is the `tier` field of Table 17-15; `chunks` gives the tier of each 2 MiB
chunk that is not in the region's home, `spots` the T0 place of each chunk that has one; `rkey` is its key once it has been
registered; `newer` holds the 64-byte lines of a window region that the host has written since its last sync (11 R246);
`poison` lists poisoned 4 KiB units; `pins` the promotion pins of MVTIER by chunk; `image` the flash image, `synced` says
that it has one; `warned` that a write to it has been logged since the last sync (R249). -/
structure Region where
  h : Handle
  size : Nat
  cls : Nat
  use : Nat
  resend : Bool
  home : Nat
  domain : BitVec 16
  dpa : Nat
  st : RegionSt
  version : Nat
  digest : Digest
  name : Word
  published : Bool
  rkey : BitVec 32
  registered : Bool
  chunks : Tab Tier
  pins : Tab Nat
  spots : Tab (Nat × Nat)
  poison : List Nat
  discarded : List Nat
  binding : Option Binding
  newer : Tab (List Byte)
  data : Bytes
  image : Bytes
  synced : Bool
  warned : Bool
  touched : List Nat
  deriving DecidableEq, Repr

/-- A node of the block-key tree (05 Table 5-4); FREE is the absence of a record. `lost` marks a record that read
uncorrectable (05 R107). -/
structure Node where
  h : Handle
  key : Key128
  parent : Handle
  group : Handle
  domain : BitVec 16
  model : BitVec 16
  block : Nat
  imported : Bool
  camRow : Option Nat
  hits : Nat
  lost : Bool
  deriving DecidableEq, Repr

/-- One index bucket of a chain (05 Table 5-6): its node slots, and the tier and page of an overflow bucket. -/
structure Bucket where
  ents : List Nat
  tier : Tier
  page : Nat
  deriving DecidableEq, Repr

/-- An index chain: the primary bucket first. `bad` marks a chain whose bucket failed its check (05 R107). -/
structure Chain where
  buckets : List Bucket
  bad : Bool
  deriving DecidableEq, Repr

/-- Program states (01 Table 1-14); EMPTY is the absence of a record. -/
inductive ProgSt where
  | loaded | placed | unloading
  deriving DecidableEq, Repr

/-- A loaded program: its checked image in parts (03 Table 3-1). -/
structure Program where
  h : Handle
  st : ProgSt
  code : List Word
  data : List Byte
  frameWords : Nat
  entries : List Nat
  clusters : BitVec 64
  deriving DecidableEq, Repr

/-- Queue states (01 Table 1-14). -/
inductive QSt where
  | disabled | enabled | error | draining
  deriving DecidableEq, Repr

/-- A completion entry (03 Table 3-4) and whether it is posted without interrupt. -/
structure Completion where
  cid : BitVec 16
  status : Status
  more : Bool
  phase : Bool
  sq : Nat
  sqHead : Nat
  result0 : Word
  result1 : Word
  committedTokens : Nat
  step : Nat
  noIrq : Bool
  deriving DecidableEq, Repr

/-- A submission entry (03 Table 3-3). -/
structure Entry where
  opcode : Nat
  flags : Nat
  cid : BitVec 16
  tenant : Nat
  entry : Nat
  hostTime : Nat
  handle0 : Handle
  handle1 : Handle
  deadline : Nat
  arg0 : Word
  arg1 : Word
  arg2 : Word
  deriving DecidableEq, Repr

/-- The state of a serving request beside its entry: the copied sampling block, the draw stream, the count table, the
emitted tokens of its stream and the flags that decide its end (08 R174 to R190). `promptLeft` are the tokens of its own
prompt still to prefill, `inList` puts a split prompt at the head of the list, `matching` marks the match step (16 R378),
`resumed` a request that decoded when a park took its positions (09 R197). -/
structure Req where
  sess : Nat
  seq : Nat
  spb : List Byte
  seed : Word
  rows : Nat
  counts : Tab Nat
  emitted : List Nat
  released : Nat
  satRaised : Bool
  promptLeft : Nat
  gen : Bool
  matching : Bool
  inList : Bool
  index : Nat
  cancelled : Option Status
  mute : Bool
  freeSeq : Bool
  resumed : Bool
  deriving DecidableEq, Repr

/-- What a deferred instruction has started (17 Table 17-1). -/
inductive Deferred where
  | none
  | revival (sess : Nat)
  | migOut (id : Word)
  | migIn (id : Word)
  | revoke (region : Nat)
  | connect (qp : Nat)
  | disconnect (qp : Nat)
  | chain (qp : Nat) (tag : BitVec 32)
  deriving DecidableEq, Repr

/-- A live command: fetched, its first completion slot reserved, its last completion not yet posted. -/
structure Live where
  ent : Entry
  q : Nat
  order : Nat
  sqHead : Nat
  started : Bool
  posted1 : Bool
  req : Option Req
  step : Option Nat
  deferred : Deferred
  ended : Bool
  abortStatus : Option Status
  deriving DecidableEq, Repr

/-- A queue pair of rings of a partition (03 R46 to R52, 18 Table 18-3). `posted` are the completions in the ring not
yet freed by the host, oldest first; `waiting` those waiting for a slot; `reserved` the slots held for first
completions; `irqs` counts the interrupts raised; `keptSq` and `keptCq` are doorbells kept for service-ready (18 Table
18-5). -/
structure Queue where
  st : QSt
  sqBase : Word
  cqBase : Word
  depthLog : Nat
  priv : Bool
  irq : Bool
  program : Handle
  sqHead : Nat
  sqTail : Nat
  cqHead : Nat
  cqTail : Nat
  phase : Bool
  posted : List Completion
  waiting : List Completion
  reserved : Nat
  irqs : Nat
  keptSq : Option (BitVec 32)
  keptCq : Option (BitVec 32)
  deriving DecidableEq, Repr

/-- The registers of a context (03 R53, R55). -/
structure Ctx where
  g : List Word
  h : List Handle
  f : List Bool
  latch : Byte
  pc : Nat
  deriving DecidableEq, Repr

/-- What a sleeping step waits for (17 R380; 04 R94). -/
inductive Wait where
  | msg (layer : Option Nat) (src : Option Nat)
  | eng (layer : Option Nat)
  | move (ticket : Nat)
  | fence
  | note (qp : Nat)
  | frame
  | group (g : Nat)
  | seq (i : Nat)
  | equalTime
  deriving DecidableEq, Repr

/-- A run-ahead execution past a wait (03 R60): the shadow registers, the registers that depend on the wait, and how
many instructions have run. -/
structure RunAhead where
  ctx : Ctx
  taintG : List Nat
  taintH : List Nat
  taintF : List Nat
  count : Nat
  deriving DecidableEq, Repr

/-- A page or move result that a repeated execution takes over (03 R60). -/
structure RaDone where
  pc : Nat
  ops : List Word
  vals : List Word
  deriving DecidableEq, Repr

/-- Where a step stands. -/
inductive StepSt where
  | running
  | waiting (w : Wait)
  | committing
  | applied
  deriving DecidableEq, Repr

/-- Descriptor progress (04 R79). -/
inductive DescSt where
  | held | accepted | done
  deriving DecidableEq, Repr

/-- A page descriptor (04 Table 4-8). `group` is the slot whose page it names; `qtile` the query tile of a row. -/
structure Desc where
  op : Nat
  last : Bool
  shared : Bool
  prov : Bool
  block : Nat
  rows : Nat
  quad : Nat
  frame : Nat
  layer : Nat
  head : Nat
  psize : Nat
  gen : Nat
  cluster : Nat
  frameId : Nat
  lane : Nat
  sealK : Word
  sealV : Word
  group : Nat
  qtile : Nat
  st : DescSt
  deriving DecidableEq, Repr

/-- A softmax partial (06 R127): the maximum, none for −∞, the weight sum and the weighted value sum. -/
structure Partial where
  m : Option Fl
  l : Fl
  o : List Fl
  deriving DecidableEq, Repr

/-- A finished chunk of one layer and head: one partial for each (position, query head), and its first failing tile. -/
structure ChunkRes where
  layer : Nat
  head : Nat
  chunk : Nat
  parts : List Partial
  bad : List (Nat × Nat × Bool × Status)
  deriving DecidableEq, Repr

/-- A message in a step's message buffer (17 R388): its token's type, layer and lane, and its bytes from the record on. -/
structure BufMsg where
  mtype : Nat
  layer : Nat
  lane : Nat
  xfmt : Nat
  ofmt : Nat
  digest : Bool
  body : List Byte
  qp : Option Nat
  deriving DecidableEq, Repr

/-- A move of a step (17 R384). -/
structure Move where
  done : Bool
  status : Status
  bytes : Nat
  left : Nat
  dst : Nat
  src : Nat
  srcOff : Nat
  dstOff : Nat
  bulk : Bool
  chunk0 : Nat
  chunks : Nat
  copy : Bool
  data : List Byte
  deriving DecidableEq, Repr

/-- One logged change of a step, applied at stage 4 (03 R61, Table 3-9). -/
inductive LogOp where
  | entry (seq block : Nat) (g : Handle)
  | refUp (g : Nat)
  | refDown (g : Nat)
  | key (seq block : Nat) (k : Key128)
  | setLen (seq len rc : Nat)
  | demote (g : Nat) (toT2 : Bool)
  | fork (dst src : Nat)
  | domActive (id : BitVec 16)
  | domClose (id : BitVec 16)
  | model (slot : Nat) (d : ModelDesc)
  | sessCreate (idx : Nat) (r : Session)
  | seqCreate (idx : Nat) (r : Sequence)
  | park (sess : Nat) (a : ParkArgs)
  | revive (sess mask : Nat)
  | durability (sess cls n : Nat)
  | close (sess : Nat)
  | seqFree (seq : Nat)
  | tenant (t : Nat) (img : List Byte)
  | migOut (sess qp pmode : Nat) (id : Word)
  | migIn (id : Word) (region : Nat) (fields : List Byte)
  | regCreate (idx : Nat) (r : Region)
  | regFree (idx : Nat)
  | regRegister (idx : Nat) (rkey : BitVec 32)
  | regRevoke (idx : Nat)
  | sync (idx off len : Nat) (validate : Bool)
  | discard (idx off len : Nat)
  | publish (idx : Nat) (name : Word) (version : Nat)
  | varset (variant expert : Nat) (img : List Byte)
  | qpCreate (n : Nat) (blk : List Byte)
  | qpConnect (n : Nat)
  | qpDisc (n : Nat)
  | qpDestroy (n : Nat)
  | qpPost (n : Nat) (wr : List Byte)
  | chainArm (n : Nat) (blk wrs : List Byte)
  | chainDisarm (n : Nat) (tag : BitVec 32)
  | staged (ticket : Nat)
  | tierDown (idx chunk n : Nat) (toT2 : Bool)
  | post (r0 r1 : Word)
  | event (code : Nat) (arg : Word)
  | poison (g page : Nat) (v : Bool)
  deriving DecidableEq, Repr

/-- A waiting T0 allocation (04 R94): who waits (a step's number), the quadrant worked, the blocks of the frame and of its
run, and the freed runs held for it. -/
structure Reserve where
  me : Nat
  quad : Nat
  fb : Nat
  rb : Nat
  runs : List (Nat × Nat)
  deriving DecidableEq, Repr

/-- What SAMPLE decided (17 R392, R393). -/
structure SampleRes where
  tokens : List Nat
  accepted : Nat
  reason : Nat
  index : Nat
  rows : Nat
  counts : Tab Nat
  untracked : Nat
  deriving DecidableEq, Repr

/-- A step in flight (03 R53, Table 3-6): its registers and frame words, where it runs, its update log, pins, moves,
messages, descriptors and results. `scratch` holds the bytes of the scratch window that the step has written since it
last took a context, `epoch` that taking (R54); `shadow` is the partner of its shadow re-execution, `shadowed` says that
it passed (13 R303); `replayed` the chunks (layer, head, chunk) replayed after a residue mismatch (13 R296); `final` what
its RUN completes with where its commit has decided that (11 R256, 12 R282); `cycles` the cycles that TSTAMP last read
(R59); `stale` says that an object which its log names has been freed since (01 R13, 17 R391). -/
structure Step where
  num : Nat
  q : Nat
  cid : BitVec 16
  kind : Nat
  idx : Nat
  prog : Nat
  clu : Nat
  frame : Nat
  sess : Option Nat
  seq : Option Nat
  batch : Nat
  lane : Nat
  clock0 : Nat
  cycles : Nat
  h0 : Handle
  ctx : Ctx
  words : List Word
  scratch : Tab Byte
  epoch : Nat
  st : StepSt
  ra : Option RunAhead
  raDone : List RaDone
  log : List LogOp
  msgs : Tab BufMsg
  pins : List Nat
  xpins : List (Nat × Nat)
  opened : List Nat
  moves : Tab Move
  descs : List Desc
  emitted : List Nat
  chunks : List ChunkRes
  merged : List Nat
  outputs : List Digest
  fails : List (Nat × Status)
  appended : Option (Nat × Nat)
  nNew : Nat
  drafts : List Nat
  appLayers : List Nat
  sampled : Option SampleRes
  posts : Nat
  events : Nat
  deferred : Deferred
  deferredUsed : Bool
  commitArg : Option (Word × Bool)
  notes : List (Nat × Word)
  hgSent : Bool
  recDue : Bool
  recJseq : Option Nat
  shadow : Option Nat
  shadowed : Bool
  arbSweep : Bool
  replayed : List (Nat × Nat × Nat)
  final : Option (Status × Word × Word)
  stale : Bool
  deriving DecidableEq, Repr

/-- A lane of a wave or a segment of a row (06 R123, R136). -/
structure Lane where
  seq : Option Nat
  q : Nat
  cid : BitVec 16
  hgSeq : Nat
  pos : Nat
  token : Nat
  maxDraft : Nat
  ntok : Nat
  flags : Nat
  step : Option Nat
  squashed : Option Status
  ended : Bool
  deriving DecidableEq, Repr

/-- A wave or row in flight (06 R123, R136). `fetch` marks the record of a FETCH (R139), which is no wave. `arrived` are
the layers accepted, `sent` those whose output is sent, `ready` what HG_READY said: member, lane, status (R134). -/
structure Wave where
  model : BitVec 16
  batch : Nat
  row : Bool
  fetch : Bool
  lead : Bool
  digest : Bool
  lanes : List Lane
  tokens : List (Nat × Nat)
  arrived : List Nat
  sent : List Nat
  msgs : Tab BufMsg
  qp : Option Nat
  ready : List (Nat × Nat × Nat)
  deriving DecidableEq, Repr

/-- A due step that has no frame yet (08 R163): rank of Table 8-1; `pulled` says that its groups have been pre-pulled (04 R91). -/
structure Due where
  rank : Nat
  kind : Nat
  q : Nat
  cid : BitVec 16
  batch : Nat
  lane : Nat
  order : Nat
  pulled : Bool
  deriving DecidableEq, Repr

/-- An event record (18 R408). -/
structure Event where
  code : Nat
  status : Nat
  seq : Nat
  time : Nat
  object : Word
  arg : Word
  phase : Bool
  deriving DecidableEq, Repr

/-- An event log (18 R408, R409): the ring's records by index, records held while it is not enabled, and the host's
registers. -/
structure EvLog where
  base : Word
  ctl : BitVec 32
  head : Nat
  tail : Nat
  ring : Tab Event
  fullRing : Bool
  held : List Event
  lost : Nat
  seq : Nat
  phase : Bool
  irqs : Nat
  deriving DecidableEq, Repr

/-- A message that leaves the device: the queue pair it goes out on, if the rule names one, and its bytes. -/
structure OutMsg where
  qp : Option Nat
  member : Option Nat
  msg : Msg
  deriving DecidableEq, Repr

end Sys2Proof.Machine
end

