-- ==== Sys2Proof/Machine/DeviceRecords.lean ====
section
/-! DEFINITION. The records of the device's units: power and clocks, identity, presence, control registers, the prefix
CAM, the move engine, ports and queue pairs, flash and carriers, journals, the sideband, CXL (spec 09 to 15, 18, 19). -/

namespace Sys2Proof.Machine

/-- How a CXL or mailbox request is answered where no status of Table 1-16 is (11 Tables 11-3, 11-4; 14 Table 14-13; 15 R352,
R355). -/
inductive MboxCode where
  | success | retryStatus | noResponse | busy | unsupported | invalidInput | invalidExtentList | resourcesExhausted
  deriving DecidableEq, Repr

/-- The answer of a command that answers its sender: a status or a mailbox code, and data. -/
structure Reply where
  status : Status
  mbox : Option MboxCode
  value : Word
  data : List Byte
  poison : Bool
  deriving DecidableEq, Repr

/-- A mailbox (18 Table 18-8). -/
structure Mailbox where
  sel : BitVec 32
  code : Nat
  valid : Nat
  snapshot : List Byte
  window : List Byte
  deriving DecidableEq, Repr

/-- Where the revival of one sequence stands (09 R203): kmax of stage 2 and k. -/
structure RevSeq where
  seq : Nat
  kmax : Nat
  k : Option Nat
  deriving DecidableEq, Repr

/-- A revival in progress: its sequence mask, its step once it has one, who waits for it (queue and command), its
sequences, the groups whose promotion it has started, the deadline the session had, what the followers have sent (member,
`hg_seq`, kmax; at a follower the lead's k), whether it waits for the head group, whether it has committed, and the revival controls of
Table 9-5 as they stood when it started (R206). -/
structure Revival where
  mask : Nat
  step : Option Nat
  waiters : List (Nat × BitVec 16)
  seqs : List RevSeq
  promos : List Nat
  oldTtl : Nat
  hgGot : List (Nat × Nat × Nat)
  hgWait : Bool
  committed : Bool
  ctl : List Nat
  deriving DecidableEq, Repr

/-- A migration (09 R208 to R210): the source's, or the successor's with what it has received. `confirmed` marks the
successor's MIG_CONFIRM or the source's receipt of it, `jseq` the record that its outcome waits for; `hSess` is the handle of its session,
which the slot may no longer hold. -/
structure Migration where
  source : Bool
  id : Word
  sess : Option Nat
  hSess : Handle
  qp : Nat
  pmode : Nat
  q : Nat
  cid : BitVec 16
  region : Nat
  fields : List Byte
  records : List MigStreamRec
  imported : Bool
  confirmed : Bool
  jseq : Option Nat
  hadReason : Nat
  deriving DecidableEq, Repr

/-- The authoritative state of a session as a journal record leaves it (13 Table 13-10): the record, its sequences
with page tables and key columns, its history, sampler and scratch bytes, and its tenant's level. -/
structure SessImage where
  sess : Session
  seqs : Tab Sequence
  regions : Tab Bytes
  tenant : Nat
  level : Int
  deriving DecidableEq, Repr

/-- What a run of map units holds (10 R217, R222): a page group or its backing copy, a recomputable region, the image of an authoritative
region, a session's image, the image of the program store, the image of the partition's own, its tenant, domain and model records. -/
inductive FlashOwner where
  | group (h : Handle)
  | region (h : Handle)
  | image (h : Handle)
  | session (h : Handle)
  | programs
  | records
  deriving DecidableEq, Repr

/-- A map entry that is not 0 (10 Table 10-4): what the unit belongs to and its number in that, its stream, superblock and first slot;
`disc` is `mstate` 3, a discarded unit, which has no pieces. `gone` lists the lost pieces of a mirrored unit (0 to 15, and 16 to 31 the
mirror copies), `stale` says that the object's bytes have changed since, `wseq` is the write sequence number of its first piece. -/
structure MapUnit where
  owner : FlashOwner
  idx : Nat
  stream : Nat
  sb : Nat
  slot : Nat
  disc : Bool
  gone : List Nat
  stale : Bool
  wseq : Nat
  deriving DecidableEq, Repr

/-- Cluster states (13 Table 13-5). -/
inductive CluSt where
  | inService | quarantined | retired
  deriving DecidableEq, Repr

/-- A partition's data key and migration key as they are stored, wrapped (15 Table 15-3, R348). -/
structure PartKeys where
  data : List Byte
  mig : List Byte
  deriving DecidableEq, Repr

/-- What a journal record leaves durable (13 Table 13-10), as far as the manual names it: the object's state after it,
none where the object is gone; RELEASED frees the session that it names (09 R210); MAP and MAP_MOVE carry the entries that they change
by key, none for an unmapped unit. -/
inductive JBody where
  | session (idx : Nat) (im : Option SessImage)
  | tenant (t : Nat) (r : Tenant)
  | model (slot : Nat) (r : ModelSlot)
  | region (idx : Nat) (r : Option Region)
  | program (idx : Nat) (r : Option Program)
  | domain (id : Nat) (r : Option Domain)
  | migration (id : Word) (st : Status) (gone : Handle)
  | map (ups : List (Nat × Option MapUnit))
  | mapMove (sb : Nat) (ups : List (Nat × Option MapUnit))
  | layout (ps : List (PartLayout × PartKeys)) (broken : Bool)
  | cluster (c : Nat) (st : CluSt)
  | plain
  deriving DecidableEq, Repr

/-- A journal record (13 Table 13-9). -/
structure JRec where
  jtype : Nat
  forced : Bool
  jseq : Nat
  step : Nat
  object : Handle
  body : JBody
  deriving DecidableEq, Repr

/-- A journal (13 R313 to R317): the page being filled, the closed pages waiting to be programmed, the next sequence
number, the last durable one, whether power failure or a reset stops new pages, the durable images by object (the
device journal's: the layout with the partitions' wrapped keys, the broken-seal state, and the clusters' states), and how much of the active
superblock is used in pages. `map` is the durable map of the partition's T2 space (10 R227); `images` the objects that have an image on
flash, and `newer` those with durable records newer than it (10 R222). -/
structure Journal where
  openPage : List JRec
  closed : List (List JRec)
  next : Nat
  durable : Nat
  stopped : Bool
  sessions : Tab SessImage
  tenants : Tab Tenant
  models : Tab ModelSlot
  regions : Tab Region
  programs : Tab Program
  domains : Tab Domain
  outcomes : List (Word × Status)
  layout : List (PartLayout × PartKeys)
  broken : Bool
  clusters : Tab CluSt
  pages : Nat
  checkpoint : Nat
  map : Tab MapUnit
  images : List FlashOwner
  newer : List FlashOwner
  deriving DecidableEq, Repr
/-- A complete SEND message in a queue pair's ring (12 R275): its place, its bytes, and the step that has taken it. -/
structure InMsg where
  off : Nat
  len : Nat
  bytes : List Byte
  takenBy : Option Nat
  deriving DecidableEq, Repr

/-- A SEND message that is being received: its number, its place in the ring and its length (12 R275). -/
structure RingMsg where
  num : Nat
  off : Nat
  len : Nat
  deriving DecidableEq, Repr

/-- A work request (17 Table 17-15). `data` holds the bytes of a message that the device itself sends; `chain` the key of
the chain it belongs to; `id` numbers the requests of a queue pair, from 1. `sent` counts the bytes cut into packets, `psn`
is a read's packet and `got` the offsets whose data has arrived, `status` is the first status of its packets that is not OK. -/
structure WorkReq where
  id : Nat
  op : Nat
  final : Bool
  trigOn : Bool
  areq : Bool
  rkey : BitVec 32
  region : Handle
  loff : Nat
  roff : Nat
  len : Nat
  trig : BitVec 32
  tag : BitVec 32
  data : Option (List Byte)
  chain : Option Nat
  msgNum : Nat
  sent : Nat
  psn : BitVec 24
  got : List Nat
  status : Status
  acked : Bool
  deriving DecidableEq, Repr

/-- A packet sent and not yet acknowledged (12 R283, R284): its request, its place in the request, the port time it was
sent, how often, whether it is acknowledged out of order or already resent for a hole, and the time before which it is not
resent. -/
structure OutPkt where
  psn : BitVec 24
  wr : Nat
  off : Nat
  len : Nat
  last : Bool
  sentAt : Nat
  times : Nat
  acked : Bool
  holeSent : Bool
  notBefore : Nat
  deriving DecidableEq, Repr

/-- A packet that a queue pair holds: its operation, the packet, and whether a stall holds it (12 R274, R279). -/
structure HeldPkt where
  op : Nat
  pkt : Pkt
  stalled : Bool
  deriving DecidableEq, Repr

/-- Queue-pair states (12 Table 12-7); FREE is the absence of a record. -/
inductive QpSt where
  | init | connecting | ready | draining | error
  deriving DecidableEq, Repr

/-- The connection controls of Table 12-13 as a queue pair last took them: a write takes effect at its next ACK (12 R285). -/
structure QpCtl where
  wSsMax : Nat
  wMax : Nat
  wAi : Nat
  mdEcn : Nat
  mdLoss : Nat
  rtoMin : Nat
  retryMax : Nat
  deriving DecidableEq, Repr
/-- A queue-pair context (12 Table 12-6). `rcvLog` keeps the status code returned for each PSN of the window, 0xFE for a
held packet; `msgs` are the messages being received and `ringAt` where the ring's next message goes; `unacked` counts data
packets since the last acknowledgement, `eceDue` a CE mark not yet echoed; `work` the requests not yet completed, oldest
first; `out` the packets not yet acknowledged; `notes` the notification ring; `inbox` complete messages and `ringUsed` the
ring bytes in use; `tries` unanswered connection requests and `retryAt` their hint; `why` the status of its end; `waiter`
the RUN that waits for its connection or its end; `cutEcn` and `cutLoss` the times of the last reductions; `violAt` the
latest violation events by region; `queue` the queue whose step created it (log entry 28). -/
structure Qp where
  queue : Nat
  st : QpSt
  passive : Bool
  port : Nat
  tc : Nat
  tenant : Nat
  peerAddr : BitVec 128
  peerQpn : Nat
  payload : Nat
  recvRegion : Handle
  sndNxt : BitVec 24
  sndUna : BitVec 24
  rcvEpsn : BitVec 24
  rcvLog : Tab Nat
  msgNext : Nat
  msgOut : Nat
  msgs : List RingMsg
  ringAt : Nat
  ringUsed : Nat
  inbox : List InMsg
  notes : List Word
  held : List HeldPkt
  stalledAt : Option Nat
  unacked : Nat
  eceDue : Bool
  work : List WorkReq
  nextId : Nat
  out : List OutPkt
  cwnd : Nat
  inflight : Nat
  ss : Bool
  srtt : Nat
  rttvar : Nat
  rto : Nat
  timeouts : Nat
  pausedUntil : Option Nat
  cutEcn : Option Nat
  cutLoss : Option Nat
  tries : Nat
  retryAt : Nat
  why : Status
  waiter : Option (Nat × BitVec 16)
  violAt : Tab Nat
  ctl : QpCtl
  deriving DecidableEq, Repr

/-- An armed chain, or one that has fired (12 R281), keyed by trigger queue pair · 2^32 + tag: its queue pair, its work
requests, who armed it, how many have completed and with what status. -/
structure Chain32 where
  armed : Bool
  qp : Nat
  wrs : List WorkReq
  q : Nat
  cid : BitVec 16
  done : Nat
  status : Status
  deriving DecidableEq, Repr

/-- A replica digest that a lead has received or taken itself (13 R308): the model's slot, the member, the publication, its
version, the window, the digest, and whether it was taken after a reload. -/
structure ReplicaDigest where
  slot : Nat
  rank : Nat
  name : Word
  version : Nat
  window : Nat
  digest : Digest
  again : Bool
  deriving DecidableEq, Repr

/-- What a partition keeps for the comparison of replicas (13 R308): digests waiting for the others, the next window of each
region by its slot, the expelled members (rank, name, version, window), and the windows being compared again. -/
structure Replicas where
  digests : List ReplicaDigest
  next : Tab Nat
  expelled : List (Nat × Word × Nat × Nat)
  again : List (Word × Nat × Nat)
  deriving DecidableEq, Repr

/-- The recovery report (13 Table 13-11): kind, last durable `jseq`, and entries of session, tokens and flags. -/
structure Report where
  kind : Nat
  jseq : Nat
  entries : List (Handle × Nat × Nat)
  deriving DecidableEq, Repr
/-- Extent states (11 Table 11-3). -/
inductive ExtentSt where
  | reserving | offered | accepted | releasing | fenced
  deriving DecidableEq, Repr

/-- An extent of a Dynamic Capacity region (11 R251): its DPA, its length in bytes and its tag. -/
structure Extent where
  dpa : Nat
  len : Nat
  tag : BitVec 128
  st : ExtentSt
  deriving DecidableEq, Repr

/-- A DC event record for an LD's host: an offer of an extent, or its forced release with the counts of regions that each row of Table 11-5
resolved: rehomed, UPLOADING, and freed (11 R251, R254). -/
structure DcEvent where
  forced : Bool
  dpa : Nat
  len : Nat
  tag : BitVec 128
  rehomed : Nat
  uploading : Nat
  freed : Nat
  deriving DecidableEq, Repr

/-- A partition's logical device (11 R240 to R243): the vPPB that may bind it and whether it is bound; the command
register's memory and master enables; whether its HDM decoder is committed and its Error Not Committed bit; its extents by ascending DPA; the DC event records
posted to its host; the window's bytes by DPA; the poisoned
4 KiB units. -/
structure Ld where
  vppb : Nat
  bound : Bool
  mem : Bool
  master : Bool
  hdm : Bool
  hdmErr : Bool
  extents : List Extent
  dcEvents : List DcEvent
  window : Bytes
  poison : List Nat
  deriving DecidableEq, Repr
/-- Power states (14 Table 14-3), in the order of `pwr_state`. -/
inductive PwrSt where
  | off | standby | initialising | serving | dormant | frozen | halted
  deriving DecidableEq, Repr

/-- How a recovery begins (13 R319, R320): after a cold reset or a loss of power, or after a warm reset. -/
inductive Recovery where
  | cold | warm
  deriving DecidableEq, Repr

/-- A PLL (14 R336): attempts begun, qualified, out of service. -/
structure PllState where
  tries : Nat
  qualified : Bool
  failed : Bool
  deriving DecidableEq, Repr

/-- An AUXCLK output (14 Table 14-9). -/
structure AuxClk where
  en : Bool
  err : Bool
  rate : Nat
  spread : Nat
  deriving DecidableEq, Repr

/-- Power and clocks (14). `before` is the state before FROZEN; `perst` PERST_N asserted; `refclk` the reference running;
`inRange` the bus within 46-58 V; `tripped` STANDBY entered by a trip; `configReady`, `serviceReady` the readiness points;
`recovery` the recovery still to run; `entering` a DORMANT entry in
progress; `wakes` the loaded wake counters (partition or 16 + register, cycles), the first to reach zero first; `rate` the issue rate in sixteenths, `half` the thermal
throttle, `hot` that the die has not yet been seen below `t_throttle`; `throttleMs` and the telemetry of 18 Table 18-12, `energy`
in units of 0.1 mJ; `plls` by the number of `pllNo`; `spread` spread on the reference;
`thermTrip` THERMTRIP_N; `aux` the AUXCLK outputs; `wedged` a wedge that waits for a reset. -/
structure Power where
  st : PwrSt
  before : PwrSt
  perst : Bool
  refclk : Bool
  inRange : Bool
  tripped : Bool
  configReady : Bool
  serviceReady : Bool
  recovery : Option Recovery
  entering : Bool
  wakes : List (Nat × Nat)
  wakeCause : Nat
  rate : Nat
  half : Bool
  hot : Bool
  throttleMs : Nat
  p1ms : Nat
  p1s : Nat
  busMv : Nat
  tDie : BitVec 16
  tStack : List (BitVec 16)
  energy : Nat
  plls : Tab PllState
  spread : Bool
  thermTrip : Bool
  aux : List AuxClk
  wedged : Bool
  deriving DecidableEq, Repr

/-- The identity die's counters, the key store and the boot flash (15). `quoteNext` and `migNext` are the next indices of the
blocks in hand; `keysIn` says that the key store holds the derived keys; `boot` is the image in the boot flash, `running` the
image that runs and `pushed` whether it was host-pushed; `waiting` is host-pushed recovery and `transfer` the image sent so far;
`nonces` the consumed nonces; `predecessors` the carriers of imported records (serial, carrier, epoch); `record` the migration
record last written. -/
structure Ident where
  xmssNext : Nat
  xmssMigNext : Nat
  quoteIn : Option Nat
  migIn : Option Nat
  pwrCycles : Nat
  dayStart : Nat
  dayUsed : Nat
  capRaised : Bool
  lowRaised : Bool
  minSvn : Nat
  keyEpoch : List Nat
  keysIn : Bool
  boot : Option FwImage
  running : Option FwImage
  pushed : Bool
  waiting : Bool
  transfer : Option FwImage
  nonces : List (BitVec 128)
  predecessors : List (BitVec 128 × Nat × Nat)
  record : List Byte
  deriving DecidableEq, Repr

/-- Presence and the seal loop (15 R357 to R360): the window, the loop, mismatched bits in a row, the broken-seal state, `seal_action`, breaks since final test, and windows opened since the last cold
reset. -/
structure Presence where
  window : Bool
  intact : Bool
  misses : Nat
  broken : Bool
  sealAction : Bool
  breaks : Nat
  opened : Nat
  deriving DecidableEq, Repr
/-- The device's RW registers by offset, where they differ from reset (18 Table 18-10), the device mailbox, and the high halves
that 4-byte reads latched, by the register's offset (R400). -/
structure Control where
  regs : Tab Word
  mailbox : Mailbox
  latch : Tab Nat
  deriving DecidableEq, Repr
/-- A cluster: its state, its quarantines, the sweeps it has passed in quarantine, its residue replays in the current
self-test period, and its statistics in the order of Table 2-7. -/
structure Cluster where
  st : CluSt
  quarantines : Nat
  passes : Nat
  replays : Nat
  stats : List Nat
  deriving DecidableEq, Repr

/-- A CAM row (05 Table 5-7). -/
structure CamRow where
  key : Key128
  domain : BitVec 16
  model : BitVec 16
  ref : Bool
  deriving DecidableEq, Repr

/-- A shadow entry (05 Table 5-7). -/
structure Shadow where
  key : Key128
  domain : BitVec 16
  model : BitVec 16
  node : Handle
  scrc : BitVec 32
  deriving DecidableEq, Repr

/-- The block-key CAM (05 R108 to R113): valid rows and nonzero shadows by row number; the clock hands by
partition · 4,096 + segment; fixes and drops of the current pass by segment; disabled segments; each quadrant's next
row to scrub. -/
structure Cam where
  rows : Tab CamRow
  shadows : Tab Shadow
  hands : Tab Nat
  fixes : Tab Nat
  disabled : List Nat
  scrub : List Nat
  deriving DecidableEq, Repr

/-- What the move engine copies (04 R92). -/
inductive CopyKind where
  | promote (g : Nat)
  | demote (g : Nat)
  | relocate (g : Nat)
  | cow (g : Nat)
  | regionMove (step ticket : Nat)
  | tierMove (step ticket region chunk0 n : Nat)
  | fault (region chunk : Nat)
  | glean (sb : Nat)
  | background
  deriving DecidableEq, Repr

/-- A copy waiting or running on a path: 256 KiB pieces left, and whether it has begun. -/
structure Copy where
  part : Nat
  kind : CopyKind
  prio : Nat
  order : Nat
  left : Nat
  begun : Bool
  deriving DecidableEq, Repr

/-- A path of the move engine: its copies in arrival order, and the one whose piece is in progress, by `order`. -/
structure PathState where
  copies : List Copy
  cur : Option Nat
  deriving DecidableEq, Repr
/-- A frame in a class queue (12 R290): the operation and its packet, none for a frame of the device's own protocols; its
bytes of line time; the port time it was enqueued. -/
structure OutFrame where
  op : Nat
  pkt : Option Pkt
  bytes : Nat
  queuedAt : Nat
  deriving DecidableEq, Repr

/-- A sub-queue of a class queue: its frames, oldest first, and its deficit (12 R290). -/
structure SubQueue where
  frames : List OutFrame
  deficit : Nat
  deriving DecidableEq, Repr

/-- A gate control list (12 R291): gates and interval of each entry, base time and cycle. -/
structure GateList where
  entries : List (Nat × Nat)
  base : Nat
  cycle : Nat
  deriving DecidableEq, Repr

/-- A port or sub-port (12 R261 to R264, R286 to R294). Its controls are device registers (18 Table 18-10); here stands what
is in effect: `rates` and `bursts` of the shapers, `polRates` and `polBursts` of the policers by 8 · partition + class where
they differ from reset, the tokens, the operational gate list and the one that waits for its change time. `queues` is keyed
by 32 · class + partition, 16 for the device sub-queue; `turns` says whose turn each class has reached. `good` counts Sync
messages in a row within 100 ns, `everLocked` the first lock. `samples` is the latency ring, `dequeues` and `latMax` are per
class, `stats` are the counters of Table 12-19 in order; `sent` is the frame sent last. -/
structure Port where
  up : Bool
  time : Nat
  locked : Bool
  everLocked : Bool
  holdover : Bool
  good : Nat
  queues : Tab SubQueue
  turns : List Nat
  tokens : List Int
  rates : List Nat
  bursts : List Nat
  polTokens : Tab Nat
  polRates : Tab Nat
  polBursts : Tab Nat
  devTokens : Nat
  refillAt : Nat
  replies : Nat
  oper : GateList
  staged : Option (GateList × Nat)
  samples : List (List Byte)
  dequeues : List Nat
  latMax : List (Nat × Nat)
  stats : List Nat
  sent : Option OutFrame
  deriving DecidableEq, Repr
/-- Flash tier states (10 Table 10-10). -/
inductive FlashSt where
  | normal | degraded | readOnly
  deriving DecidableEq, Repr

/-- Carrier states (10 Table 10-13), in the order of `cstate` (Table 10-17). -/
inductive CarSt where
  | absent | present | qualifying | blank | recognised | foreign | inService | detaching | detached | failed
  deriving DecidableEq, Repr

/-- A carrier slot (10 R232, 19 R423, R424): its state; the present input as it stands and before it changed; FCn_PWREN,
FCn_PGOOD and FCn_RESET_N released; the carrier in it with its geometry and identity record (`detach_epoch`, `iseq`, serial);
the two copies of the record on its reserved blocks (R231); the journal record that its clean detach waits for. -/
structure Carrier where
  st : CarSt
  level : Bool
  pwren : Bool
  pgood : Bool
  released : Bool
  id : Nat
  geo : Geometry
  serial : BitVec 128
  epoch : Nat
  iseq : Nat
  copies : List (List Byte)
  detachJseq : Option Nat
  deriving DecidableEq, Repr

/-- A carrier's health counters (10 Table 10-17) in the order of its table from `grown_bad`, and where it was last. -/
structure CarLog where
  slot : Nat
  geo : Geometry
  grownBad : Nat
  programFails : Nat
  eraseFails : Nat
  bytesRead : Nat
  bytesWritten : Nat
  correctedBits : Nat
  retryReads : Nat
  uncorrectable : Nat
  parityRebuilds : Nat
  mirrorRepairs : Nat
  joins : Nat
  lastDetach : Nat
  deriving DecidableEq, Repr

/-- Superblock states (10 Table 10-3). -/
inductive SbSt where
  | opened | closed | verified | victim | erasing
  deriving DecidableEq, Repr

/-- A superblock (10 R214, R215): its partition and stream, its members by column (channel, carrier, block of the carrier's
channel), its rows, the slots written, its closing `wseq`, and whether the patrol marked it (R224). -/
structure Superblock where
  st : SbSt
  part : Nat
  stream : Nat
  members : List (Nat × Nat × Nat)
  rows : Nat
  used : Nat
  wseq : Nat
  marked : Bool
  parity : List (Nat × Nat × Nat)
  lastRead : Nat
  deriving DecidableEq, Repr

/-- Phases of a garbage-collection job (10 R226). -/
inductive GleanPh where
  | copy | verify | commit | erase
  deriving DecidableEq, Repr

/-- A garbage-collection job (10 R226), keyed by its victim: phase, the copies made (by map key, the entry that names the copy), how
often the pieces of each were written again, by map key, and the record that its commit waits for. -/
structure GleanJob where
  ph : GleanPh
  copies : Tab MapUnit
  retries : Tab Nat
  jseq : Option Nat
  deriving DecidableEq, Repr

/-- The flash tier (10). `health` is keyed by carrier identifier; `map` by partition · 2^32 + unit; `bad` lists retired blocks
and `wear` the program/erase counts (carrier, channel, block); `cleanRecs` are the clean-detach records not yet consumed;
`stats` are the counters of Table 10-16 from `user_bytes` to `ro_refusals` without `single_copy_units`; `short` says that
effective shares are in force; `waiting` that an allocation waits for garbage collection, `gleaning` lists the channels (0 to 31) on
which that runs (R225); `reads` counts reads of superblocks; `lost` lists the lost objects by partition (Table 10-6). -/
structure Flash where
  tier : FlashSt
  slots : Tab Carrier
  health : Tab CarLog
  nextCarrier : Nat
  sbs : Tab Superblock
  nextSb : Nat
  map : Tab MapUnit
  jobs : Tab GleanJob
  wseq : Nat
  bad : List (Nat × Nat × Nat)
  wear : Tab Nat
  detachEpoch : Nat
  cleanRecs : List (Nat × Nat)
  stats : List Nat
  short : Bool
  waiting : Bool
  gleaning : List Nat
  reads : Nat
  lost : List (Nat × FlashOwner)
  deriving DecidableEq, Repr

/-- The sideband (18 R412): addresses taken, and the MCTP endpoint. -/
structure Sideband where
  staticAddr : Bool
  dynAddr : Option (BitVec 7)
  eid : Byte
  deriving DecidableEq, Repr

/-- IDE streams of the CXL port: secure ones, and ones in the insecure state (11 R258). -/
structure CxlDev where
  secure : List IdeStream
  insecure : List IdeStream
  deriving DecidableEq, Repr

end Sys2Proof.Machine
end

