-- ==== Sys2Proof/Machine/State.lean ====
section
/-! DEFINITION. The state of the SK7240 as plain data, the reasons it can stop, and the state after a cold reset. -/

namespace Sys2Proof.Machine

/-- Partition states (01 Table 1-6); UNCONFIGURED is the absence of a record. -/
inductive PartSt where
  | configured | active | fenced
  deriving DecidableEq, Repr

/-- A partition: its record (01 Table 1-5), its registers and counters, and everything it owns. `regs` holds the RW
registers of its BAR by offset, where they differ from reset (18 Table 18-1), and `latch` the high halves latched by 4-byte
reads (R400); `counters` the statistics by number
(18 Table 18-6); `gens` the slot generations and `resv` the reserved slots, both keyed by kind · 2^48 + index; `dgLeft` the batches of a
model slot that still carry digests, `decodes` the committed decode steps (13 R303, R307); `undo` the bytes of each
session's undo log (R317); `effT2` is the effective share of T2 (10 R229), `imgUnits` the mapped units of the images of its sessions,
programs and records (10 R217); `t1hSeen` the range table recorded by a warm reset,
kept until the partition is ACTIVE (R320); `lostCmds` the commands live at a warm reset whose completions wait for their queue
to be enabled again (queue, identifier, `handle0`, and the result words of their final completion; R322). -/
structure Partition where
  grade : Nat
  clusters : BitVec 64
  shareT0 : Nat
  shareT1b : Nat
  shareT1h : Nat
  shareT2 : Nat
  effT2 : Nat
  warmTier : Nat
  quota : Nat
  compat : Bool
  keyEpoch : Nat
  st : PartSt
  fenceCause : Nat
  clock : Nat
  regs : Tab Word
  latch : Tab Nat
  counters : Tab Nat
  ev : EvLog
  gens : Tab Nat
  resv : Tab Nat
  tenants : Tab Tenant
  models : Tab ModelSlot
  sessions : Tab Session
  sequences : Tab Sequence
  groups : Tab Group
  regions : Tab Region
  nodes : Tab Node
  index : Tab Chain
  overPages : Tab (Tier × Nat)
  queues : Tab Queue
  programs : Tab Program
  live : List Live
  nextOrder : Nat
  steps : Tab Step
  waves : List Wave
  due : List Due
  prompts : List (Nat × BitVec 16)
  nextBatch : Tab Nat
  dgLeft : Tab Nat
  decodes : Nat
  winnowOn : List Nat
  fetchAt : Nat × Nat
  epochs : Tab (Nat × Nat)
  reserves : List Reserve
  parked : List Nat
  revivals : Tab Revival
  hgEarly : List (Nat × Nat × Nat)
  migrations : Tab Migration
  migHistory : List (Word × Status)
  variants : Tab (List Byte)
  replicas : Replicas
  qps : Tab Qp
  chains : Tab Chain32
  trace : List (Word × BitVec 32 × Nat)
  mailbox : Mailbox
  report : Report
  t1h : Tab (Word × Word)
  t1hSeen : Option (Tab (Word × Word))
  lostCmds : List (Nat × BitVec 16 × Handle × Word × Word)
  ld : Ld
  binding : PortBinding
  outbox : List OutMsg
  undo : Tab Nat
  wrapped : PartKeys
  imgUnits : Nat
  deriving DecidableEq, Repr

/-- The device. `pending` is the queue of waiting commands, first in first out; `free` supplies a fresh index to the
opaque constants of Config (both are the model's own, log entries 1 and 2). `reply` is the answer of the latest command
that answers its sender. -/
structure State where
  pending : List Instr
  free : Nat
  reply : Option Reply
  stepNo : Nat
  power : Power
  ident : Ident
  presence : Presence
  control : Control
  devLog : EvLog
  parts : Tab Partition
  domains : Tab Domain
  clusters : Tab Cluster
  cam : Cam
  paths : Tab PathState
  copyOrder : Nat
  ergot : Nat
  resweep : List Nat
  swept : List Nat
  ports : Tab Port
  flash : Flash
  journals : Tab Journal
  sideband : Sideband
  cxl : CxlDev
  deriving DecidableEq, Repr

/-- A command whose operands its interface cannot carry (WellFormed refuses it): no party of the device can send it,
so stopping is safe. -/
inductive Fault where
  /-- Raised by SQ_FETCH, CXL_MEM_READ and CXL_MEM_WRITE where the entry is not 64 bytes, the address no multiple of 64, or the
  line not 64 bytes. Safe: the spec gives such a command no meaning. -/
  | illFormedCommand
  deriving DecidableEq, Repr

/-- Why a command is refused by the model. -/
inductive Refusal where
  /-- Raised by an arm of `exec` that has no meaning yet. Safe: it stops. -/
  | notModelled (mnemonic : String)
  deriving DecidableEq, Repr

/-- An event log after a reset (18 Tables 18-2, 18-10): not enabled, empty. -/
def EvLog.reset : EvLog :=
  { base := 0, ctl := 0, head := 0, tail := 0, ring := [], fullRing := false, held := [], lost := 0, seq := 0
    phase := true, irqs := 0 }

/-- A mailbox at reset. -/
def Mailbox.reset : Mailbox := { sel := 0, code := 0, valid := 0, snapshot := [], window := [] }
/-- Power and clocks right after a cold reset: INITIALISING (Table 14-11), the bus and the reference good, AUXCLK as Table 14-9
gives, and the cold recovery to come. -/
def Power.reset : Power :=
  { st := .initialising, before := .initialising, perst := false, refclk := true, inRange := true, tripped := false
    configReady := false, serviceReady := false, recovery := some .cold, entering := false, wakes := [], wakeCause := 0, rate := 16
    half := false, hot := false, throttleMs := 0, p1ms := 0, p1s := 0, busMv := 0, tDie := 0, tStack := List.replicate 8 0, energy := 0
    plls := [], spread := false, thermTrip := false, aux := List.replicate 4 ⟨true, false, 15, 0⟩
    wedged := false }
/-- A device that has issued no quote and opened no window (DESIGN CHOICE, log entry 4). -/
def Ident.reset : Ident :=
  { xmssNext := 0, xmssMigNext := 1032192, quoteIn := none, migIn := none, pwrCycles := 0, dayStart := 0
    dayUsed := 0, capRaised := false, lowRaised := false, minSvn := 0, keyEpoch := List.replicate 16 0, keysIn := true
    boot := some ⟨true, 0, []⟩, running := some ⟨true, 0, []⟩, pushed := false, waiting := false, transfer := none, nonces := []
    predecessors := [], record := [] }
/-- The seal loop intact, no window open. -/
def Presence.reset : Presence :=
  { window := false, intact := true, misses := 0, broken := false, sealAction := false, breaks := 0, opened := 0 }
/-- No carrier in any slot and nothing mapped (DESIGN CHOICE, log entry 8). -/
def Flash.reset : Flash :=
  { tier := .normal, slots := [], health := [], nextCarrier := 1, sbs := [], nextSb := 0, map := [], jobs := [], wseq := 0
    bad := [], wear := [], detachEpoch := 0, cleanRecs := [], stats := List.replicate 8 0, short := false, waiting := false
    gleaning := [], reads := 0, lost := [] }

/-- The device right after a cold reset. -/
def State.reset : State :=
  { pending := [], free := 0, reply := none, stepNo := 1, power := Power.reset, ident := Ident.reset, presence := Presence.reset
    control := ⟨[], Mailbox.reset, []⟩, devLog := EvLog.reset, parts := [], domains := [], clusters := []
    cam := ⟨[], [], [], [], [], [0, 0, 0, 0]⟩, paths := [], copyOrder := 0, ergot := 0, resweep := [], swept := [], ports := []
    flash := Flash.reset, journals := [], sideband := ⟨false, none, 0⟩, cxl := ⟨[], []⟩ }

end Sys2Proof.Machine
end

