-- ==== Sys2Proof/Machine/Ops.lean ====
section
/-! DEFINITION. The shared operations: parts of the state, free values, events, counters, handles and slots,
completions. Everything that a meaning does to the state it does through these. -/

namespace Sys2Proof.Machine

/-! ### Parts of the state -/

/-- Change a partition that is configured. -/
def State.updP (s : State) (p : Part) (f : Partition → Partition) : State := { s with parts := s.parts.upd p.val f }
/-- A partition's record, if it is configured. -/
def State.prt (s : State) (p : Part) : Option Partition := s.parts.find p.val
/-- Act on a partition that is configured; nothing happens for one that is not. -/
def State.withP (s : State) (p : Part) (f : Partition → State) : State :=
  match s.prt p with
  | some t => f t
  | none => s
/-- Read something of a partition. -/
def State.getP {α : Type} (s : State) (p : Part) (d : α) (f : Partition → α) : α :=
  match s.prt p with
  | some t => f t
  | none => d
/-- A fresh index for the opaque constants: the counter, and the state that has used it. -/
def State.fresh (s : State) : Nat × State := (s.free, { s with free := s.free + 1 })
/-- Every status of Table 1-16. -/
def allStatuses : List Status :=
  [.ok, .late, .dropped, .freedEarly, .aborted, .abortedTooLate, .noPage, .lengthLimit, .tierReadOnly, .parkedByPressure
  , .recomputeRequired, .accessViolation, .staleKey, .extentRevoked, .partitionFenced, .publishConflict, .budgetExhausted
  , .poisonConsumed, .sealMismatch, .unitQuarantined, .lostToReset, .notReady, .presenceRequired, .resendAfter]
/-- Answer the sender of a command. -/
def State.answer (s : State) (st : Status) (v : Word := 0) (data : List Byte := []) (poison : Bool := false) : State :=
  { s with reply := some ⟨st, none, v, data, poison⟩ }
/-- Answer a CXL or mailbox request with a code of its own. -/
def State.mbox (s : State) (c : MboxCode) (v : Word := 0) (data : List Byte := []) (poison : Bool := false) : State :=
  { s with reply := some ⟨.ok, some c, v, data, poison⟩ }

def State.updStep (s : State) (x : StepRef) (f : Step → Step) : State :=
  s.updP x.part fun p => { p with steps := p.steps.upd x.num f }
def State.step? (s : State) (x : StepRef) : Option Step := (s.prt x.part).bind fun p => p.steps.find x.num
def State.updGroup (s : State) (p : Part) (g : Nat) (f : Group → Group) : State :=
  s.updP p fun t => { t with groups := t.groups.upd g f }
def State.group? (s : State) (p : Part) (g : Nat) : Option Group := (s.prt p).bind fun t => t.groups.find g
def State.updSeq (s : State) (p : Part) (q : Nat) (f : Sequence → Sequence) : State :=
  s.updP p fun t => { t with sequences := t.sequences.upd q f }
def State.seq? (s : State) (p : Part) (q : Nat) : Option Sequence := (s.prt p).bind fun t => t.sequences.find q
def State.updSess (s : State) (p : Part) (q : Nat) (f : Session → Session) : State :=
  s.updP p fun t => { t with sessions := t.sessions.upd q f }
def State.sess? (s : State) (p : Part) (q : Nat) : Option Session := (s.prt p).bind fun t => t.sessions.find q
def State.updRegion (s : State) (p : Part) (r : Nat) (f : Region → Region) : State :=
  s.updP p fun t => { t with regions := t.regions.upd r f }
def State.region? (s : State) (p : Part) (r : Nat) : Option Region := (s.prt p).bind fun t => t.regions.find r
def State.updQueue (s : State) (p : Part) (q : Nat) (f : Queue → Queue) : State :=
  s.updP p fun t => { t with queues := t.queues.upd q f }
def State.updTenant (s : State) (p : Part) (t : Nat) (f : Tenant → Tenant) : State :=
  s.updP p fun u => { u with tenants := u.tenants.upd t f }

/-! ### Counters (18 R407) -/

/-- Add to a 64-bit partition counter; it wraps (05 R118). -/
def Partition.count (p : Partition) (n k : Nat) : Partition :=
  if k = 0 then p else { p with counters := p.counters.put n ((p.counters.getD n 0 + k) % 2 ^ 64) }
def State.count (s : State) (p : Part) (n : Nat) (k : Nat := 1) : State := s.updP p fun t => t.count n k

/-- The counters of Table 18-6 that exist. -/
def counterExists (n : Nat) : Bool :=
  n ≤ 12 || (16 ≤ n && n ≤ 17) || (32 ≤ n && n ≤ 43) || (48 ≤ n && n ≤ 55) || (64 ≤ n && n ≤ 72)
    || (80 ≤ n && n ≤ 92) || (96 ≤ n && n ≤ 107) || (112 ≤ n && n ≤ 117) || n == 120

-- Table 5-12
def cLookups := 0
def cCamHits := 1
def cIndexHits := 2
def cFalseHits := 3
def cInserts := 4
def cInsertRefused := 5
def cImports := 6
def cCowCopies := 7
def cScrubFixes := 8
def cScrubDrops := 9
def cIdxRebuilds := 10
def cNodeLosses := 11
def cEtOverruns := 12
-- Table 7-7
def cNonfiniteIn := 16
def cSaturations := 17
-- Table 8-15
def cWaves := 32
def cWaveLanes := 33
def cRows := 34
def cRowPad := 35
def cBudgetHolds := 36
def cDraftsOffered := 37
def cDraftsAccepted := 38
def cPenaltyUntracked := 39
def cDeadlineMisses := 40
def cFetchLate := 41
def cExpertLate := 42
def cDupMsgs := 43
-- Table 9-9
def cParks := 48
def cPressureParks := 49
def cExpiries := 50
def cRevivals := 51
def cRvFetchBytes := 52
def cRvRecompute := 53
def cMigOut := 54
def cMigIn := 55
-- Table 11-9
def cMemReads := 64
def cMemWrites := 65
def cPoisonedReads := 66
def cFencedWrites := 67
def cRoWindowWrites := 68
def cT1hErrors := 69
def cExtentsAdded := 70
def cExtentsForced := 71
def cPublishConflicts := 72
-- Table 12-20
def cTxPackets := 80
def cRxPackets := 81
def cRetransmits := 82
def cEcnEchoes := 83
def cDupRx := 84
def cPsnDrops := 85
def cRxNoqp := 86
def cViolations := 87
def cStaleKeys := 88
def cStalls := 89
def cResendAfter := 90
def cTrigMiss := 91
def cPolDrops := 92
-- Table 13-14
def cResidueReplays := 96
def cPoisonDropped := 97
def cPoisonConsumed := 98
def cSweeps := 99
def cShadowSteps := 100
def cShadowMismatches := 101
def cQuarantines := 102
def cReplicaChecks := 103
def cReplicaRepairs := 104
def cReplicaFetches := 105
def cWeightRepairs := 106
def cRollbacks := 107
-- Table 18-7: 112-117 and 120
def cPromotions := 112
def cPromotedBytes := 113
def cDemotions := 114
def cDemotedBytes := 115
def cRecDrops := 116
def cOopWaits := 117
def cEventsLost := 120

/-! ### Events (18 R408, R409) -/

/-- Records the ring holds. -/
def EvLog.depth (l : EvLog) : Nat := 2 ^ (l.ctl.toNat % 16)
/-- Is the log enabled? -/
def EvLog.on (l : EvLog) : Bool := bitOf l.ctl.toNat 31
/-- Is the ring full? Every slot of it can hold a record. -/
def EvLog.full (l : EvLog) : Bool := l.fullRing
/-- Write one record at the tail, with the next sequence number and the lap's phase. -/
def EvLog.write (l : EvLog) (e : Event) : EvLog :=
  let t := (l.tail + 1) % l.depth
  { l with ring := l.ring.put l.tail { e with seq := l.seq % 2 ^ 32, phase := l.phase }
           tail := t, fullRing := t == l.head, seq := l.seq + 1, irqs := l.irqs + 1
           phase := if t = 0 then !l.phase else l.phase }
/-- The record that reports lost events. -/
def overflowEvent (time lost : Nat) : Event := ⟨0x01FF, 0, 0, time, 0, BitVec.ofNat 64 lost, false⟩
/-- Add an event: held while the log is not enabled (the oldest of 256 are lost), lost while the ring is full, and
after a loss preceded by EVENT_OVERFLOW. The number says how many were lost to a full ring. -/
def EvLog.add (l : EvLog) (e : Event) : EvLog × Nat :=
  if !l.on then ({ l with held := (l.held ++ [e]).drop (l.held.length + 1 - 256) }, 0)
  else if l.full then ({ l with lost := l.lost + 1 }, 1)
  else if l.lost = 0 then (l.write e, 0)
  else
    let l1 := { l.write (overflowEvent e.time l.lost) with lost := 0 }
    if l1.full then ({ l1 with lost := 1 }, 1) else (l1.write e, 0)

/-- Raise an event of a partition. -/
def State.event (s : State) (p : Part) (code : Nat) (status : Nat) (object : Word) (arg : Word) : State :=
  s.updP p fun t =>
    let r := t.ev.add ⟨code, status, 0, t.clock, object, arg, false⟩
    { t with ev := r.1 }.count cEventsLost r.2
/-- Raise an event in the device log: time 0 (18 R408). -/
def State.devEvent (s : State) (code : Nat) (status : Nat) (object : Word) (arg : Word) : State :=
  { s with devLog := (s.devLog.add ⟨code, status, 0, 0, object, arg, false⟩).1 }
/-- An event named after a status (18 R408). -/
def State.statusEvent (s : State) (p : Part) (st : Status) (object arg : Word) : State :=
  s.event p st.code.toNat st.code.toNat object arg

-- Event codes of 18 R408
def evSessionExpired := 0x0100
def evSessionRolledBack := 0x0101
def evPenaltySaturated := 0x0102
def evHgTimeout := 0x0103
def evMsgTimeout := 0x0104
def evQpError := 0x0105
def evDigestMismatch := 0x0106
def evSamplerFault := 0x0107
def evSessionClosed := 0x0108
def evAuthoritativeLost := 0x0110
def evT2CapacityShort := 0x0111
def evFlashDegraded := 0x0112
def evCarrierState := 0x0113
def evCarrierLost := 0x0114
def evT1hRangeFailed := 0x0115
def evCamSegmentDisabled := 0x0116
def evExtentReleased := 0x0120
def evPublished := 0x0121
def evIdeFailed := 0x0122
def evReplicaExpelled := 0x0123
def evReplicaSplit := 0x0124
def evClusterQuarantined := 0x0130
def evClusterReturned := 0x0131
def evClusterRetired := 0x0132
def evDeviceWedged := 0x0133
def evDormantEntered := 0x0134
def evDormantAbandoned := 0x0135
def evRefclkRestored := 0x0136
def evSealBroken := 0x0137
def evPortRefclkSsc := 0x0140
def evPortTimeLocked := 0x0141
def evPortTimeHoldover := 0x0142
def evPllFailed := 0x0143
def evBoardAlert := 0x0144
def evQuoteCap := 0x0145
def evXmssLow := 0x0146
def evMigrationImported := 0x0147

/-! ### Registers of a partition's BAR (18 Table 18-1) -/

/-- The reset value of a RW register of the partition map, by offset (Tables 18-2, 8-2, 9-5, 12-13). -/
def regReset (off : Nat) : Word :=
  match off with
  | 0x020 => 0xE4E1C0 | 0x028 => 0x10 | 0x030 => 0xC | 0x038 => 0x1E8480
  | 0x400 => 1 | 0x404 => 0x32 | 0x408 => 8 | 0x40C => 0x2000 | 0x410 => 0x64 | 0x414 => 2
  | 0x444 => 0x3E8 | 0x448 => 0x190 | 0x44C => 0xC8 | 0x450 => 2 | 0x454 => 5 | 0x458 => 0x78
  | 0x45C => 0x30D40 | 0x460 => 0x8000 | 0x464 => 0x3E8 | 0x468 => 0xC350 | 0x46C => 0x4C4B40
  | 0x480 => 0x40000 | 0x484 => 0x200000 | 0x488 => 0x1000 | 0x48C => 0xE0 | 0x490 => 0x80
  | 0x494 => 0x32 | 0x498 => 7 | 0x49C => 0x7D0
  | _ => 0
/-- A RW register's value. -/
def Partition.reg (p : Partition) (off : Nat) : Nat := ((p.regs.find off).getD (regReset off)).toNat

def Partition.stepLimit (p : Partition) : Nat := p.reg 0x020
def Partition.winnowMinAge (p : Partition) : Nat := p.reg 0x028
def Partition.prefillFloor (p : Partition) : Nat := p.reg 0x02C
def Partition.shadowShift (p : Partition) : Nat := p.reg 0x030
def Partition.dgForce (p : Partition) : Bool := bitOf (p.reg 0x034) 0
def Partition.bucketSpan (p : Partition) : Nat := p.reg 0x400
def Partition.maxWaves (p : Partition) : Nat := p.reg 0x408
def Partition.rowTokens (p : Partition) : Nat := p.reg 0x40C
def Partition.rowsInflight (p : Partition) : Nat := p.reg 0x414

/-- The reset value of a RW register of a port block, by offset in it (12 Tables 12-2, 12-14, 12-15). -/
def portRegReset (off : Nat) : Word :=
  if off = 8 then 1 else if off = 0xC then 0x1C4F else if off = 0x18 then 0xA
  else if 0x1C ≤ off && off < 0x3C then 0x64
  else if (0x220 ≤ off && off < 0x240) || (0x600 ≤ off && off < 0x800) then 0x100000
  else if 0x800 ≤ off && off < 0x1000 then 0xFF000003E8
  else if off = 0x1000 then 1 else if off = 0x1010 then 0x3E8 else 0
/-- The reset value of a RW register of the device map, by offset (Tables 18-10, 18-11, 14-11). -/
def devRegReset (off : Nat) : Word :=
  match off with
  | 0x028 => 1 | 0x030 => 0x1000000000 | 0x1004 => 0x3B6 | 0x1008 => 0x5F
  | _ => if off ≥ 0x10000 then portRegReset (off % 0x2000) else 0
/-- A device register's value. -/
def State.devReg (s : State) (off : Nat) : Nat := ((s.control.regs.find off).getD (devRegReset off)).toNat
/-- Is ERRINJ permitted in a partition (17 Table 17-2)? -/
def State.diag (s : State) (p : Part) : Bool := bitOf (s.devReg 0x02C) p.val

/-! ### Power states and work (14 R330 to R332) -/

/-- Does the controller fetch submission entries and start steps: SERVING, and no DORMANT entry in progress (14 R331, R343)? -/
def State.fetching (s : State) : Bool := s.power.st == .serving && s.power.serviceReady && !s.power.entering
/-- CAM rows are reloaded from their shadows (13 R320, 14 R332). -/
def Cam.reload (c : Cam) : Cam :=
  { c with rows := c.shadows.map fun kv => (kv.1, ⟨kv.2.key, kv.2.domain, kv.2.model, false⟩), hands := [], fixes := [] }
/-- A wake source of R332: a DORMANT device goes to INITIALISING, `wake_cause` names the source and every counter clears; a DORMANT
entry in progress is abandoned (Table 14-6). -/
def State.wakeDevice (s : State) (cause : Nat) : State :=
  if s.power.st = .dormant then
    { s with cam := s.cam.reload, power := { s.power with st := .initialising, wakes := [], wakeCause := cause, serviceReady := false } }
  else if s.power.entering then
    ({ s with power := { s.power with entering := false } }).answer .aborted
  else s

/-! ### Handles and slots (01 R10 to R13) -/

-- Handle kinds (Table 1-2)
def kSession := 1
def kSequence := 2
def kGroup := 3
def kRegion := 4
def kNode := 5
def kQueue := 6
def kProgram := 7

/-- A handle from its fields (Table 1-1). -/
def mkHandle (kind part gen index : Nat) : Handle :=
  BitVec.ofNat 4 kind ++ BitVec.ofNat 4 part ++ BitVec.ofNat 8 gen ++ BitVec.ofNat 48 index
def hKind (h : Handle) : Nat := (h.extractLsb' 60 4).toNat
def hPart (h : Handle) : Nat := (h.extractLsb' 56 4).toNat
def hGen (h : Handle) : Nat := (h.extractLsb' 48 8).toNat
def hIndex (h : Handle) : Nat := (h.extractLsb' 0 48).toNat

/-- A slot of a kind, as a key. -/
def slotKey (kind idx : Nat) : Nat := kind * 2 ^ 48 + idx

/-- Slots of the page-group directory: one for each MiB of the four shares, T1B without the extents (04 R75, 11 R244). -/
def Partition.dirSlots (p : Partition) : Nat :=
  p.shareT0 + (p.shareT1b - (p.ld.extents.map (·.len)).sum / 1048576) + p.shareT1h + p.shareT2
/-- Slots of a kind's table (Table 1-2). -/
def Partition.tableSize (p : Partition) (kind : Nat) : Nat :=
  match kind with
  | 1 => p.quota | 2 => 4 * p.quota | 3 => p.dirSlots | 4 => 65536 | 5 => p.dirSlots | 6 => 64 | 7 => 256 | _ => 0
/-- The current generation of a slot: 0x01 at first use (R11). -/
def Partition.genOf (p : Partition) (kind idx : Nat) : Nat := p.gens.getD (slotKey kind idx) 1
/-- Is there a live object in the slot? A queue's slot is fixed and always there (03 R46). -/
def Partition.isLive (p : Partition) (kind idx : Nat) : Bool :=
  match kind with
  | 1 => p.sessions.has idx | 2 => p.sequences.has idx | 3 => p.groups.has idx | 4 => p.regions.has idx
  | 5 => p.nodes.has idx | 6 => idx < 64 | 7 => p.programs.has idx | _ => false
/-- The handle of a slot with its current generation. -/
def Partition.handleOf (p : Partition) (num : Part) (kind idx : Nat) : Handle :=
  mkHandle kind num.val (p.genOf kind idx) idx
/-- Is a handle still held in a queue entry, a page table or a region key of the partition (R11)? -/
def Partition.holds (p : Partition) (h : Handle) : Bool :=
  p.live.any (fun l => l.ent.handle0 == h || l.ent.handle1 == h)
    || p.sequences.any (fun kv => kv.2.table.any fun e => e.2 == h)
    || (hKind h == kRegion && (p.regions.find (hIndex h)).any fun r => r.registered && r.rkey.extractLsb' 24 8 == h.extractLsb' 48 8)
/-- May a new object take the slot: not live, not reserved, its handle not held out of use (R11)? -/
def Partition.slotFree (p : Partition) (num : Part) (kind idx : Nat) : Bool :=
  !(p.isLive kind idx) && !(p.resv.has (slotKey kind idx)) && !(p.holds (p.handleOf num kind idx))
/-- The lowest slot from `i` that may be taken. -/
def lowestSlot (ok : Nat → Bool) : Nat → Nat → Option Nat
  | 0, _ => none
  | fuel + 1, i => if ok i then some i else lowestSlot ok fuel (i + 1)
/-- The lowest-numbered free slot of a kind's table (R11): one of the first `n + 1` slots is free, where n objects,
reservations and held handles stand in the way. -/
def Partition.newSlot (p : Partition) (num : Part) (kind : Nat) : Option Nat :=
  lowestSlot (fun i => p.slotFree num kind i) (p.tableSize kind) 0
/-- The generation after a free: 0xFF steps to 0x01 (R11). -/
def nextGen (g : Nat) : Nat := if g ≥ 255 then 1 else g + 1
/-- Does a logged change name an object by its slot? -/
def LogOp.names (o : LogOp) (kind idx : Nat) : Bool :=
  match o with
  | .park i _ | .revive i _ | .durability i _ _ | .close i | .migOut i _ _ _ => kind == kSession && i == idx
  | .entry i _ _ | .key i _ _ | .setLen i _ _ | .seqFree i => kind == kSequence && i == idx
  | .fork d r => kind == kSequence && (d == idx || r == idx)
  | .regFree i | .regRegister i _ | .regRevoke i | .sync i _ _ _ | .discard i _ _ | .publish i _ _ => kind == kRegion && i == idx
  | _ => false
/-- Advance a slot's generation at a free. A step that has logged a change of the object and has not committed finds it gone
(R13, 17 R391). -/
def Partition.bumpGen (p : Partition) (kind idx : Nat) : Partition :=
  { p with gens := p.gens.put (slotKey kind idx) (nextGen (p.genOf kind idx))
           steps := p.steps.mapV fun _ k => if k.st != .applied && k.log.any (·.names kind idx) then { k with stale := true } else k }

/-- The handle check of Table 1-3: none when every check passes. `kind` 0 takes any defined kind; `me` is the step
that asks, whose own reservations pass (R11); a group that another step has opened and not committed is reserved too. A handle
of the current generation whose slot holds no object is STALE_KEY (DEDUCED, log entry 15). -/
def Partition.checkHandle (p : Partition) (num : Part) (me : Option Nat) (kind : Nat) (h : Handle) : Option Status :=
  let k := hKind h
  let i := hIndex h
  if h = 0 ∨ k = 0 ∨ k ≥ 8 then some .accessViolation
  else if kind ≠ 0 ∧ k ≠ kind then some .accessViolation
  else if hPart h ≠ num.val then some .accessViolation
  else if i ≥ p.tableSize k then some .accessViolation
  else if k = kQueue then
    if hGen h ≠ 1 then some .staleKey else if p.st = .fenced then some .partitionFenced else none
  else if hGen h ≠ p.genOf k i then some .staleKey
  else if p.st = .fenced then some .partitionFenced
  else if p.isLive k i then
    match if k = kGroup then (p.groups.find i).bind (·.openedBy) else none with
    | some n => if me = some n then none else some .staleKey
    | none => none
  else match p.resv.find (slotKey k i) with
    | some n => if me = some n then none else some .staleKey
    | none => some .staleKey

/-- Does a failed check name another partition, which the partition event log records (Table 1-3)? -/
def foreignHandle (num : Part) (kind : Nat) (h : Handle) : Bool :=
  h != 0 && 1 ≤ hKind h && hKind h < 8 && (kind == 0 || hKind h == kind) && hPart h != num.val

/-- The event of a handle that names another partition. -/
def State.handleEvent (s : State) (p : Part) (kind : Nat) (h : Handle) : State :=
  if foreignHandle p kind h then s.statusEvent p .accessViolation h 0 else s

/-! ### Completions (03 R48, R51, R52) -/

def Queue.depth (q : Queue) : Nat := 2 ^ q.depthLog
/-- Slots of the completion ring neither posted nor reserved. -/
def Queue.freeSlots (q : Queue) : Nat := q.depth - q.posted.length - q.reserved

/-- A completion entry as the controller writes it into the ring: 32 bytes, little-endian (Table 3-4; 00 R6). -/
def Completion.bytes (c : Completion) : List Byte :=
  toLe c.cid.toNat 2 ++ toLe c.status.code.toNat 1 ++ toLe (2 * b2n c.more + b2n c.phase) 1 ++ toLe (c.sq % 64) 2 ++ toLe c.sqHead 2
    ++ toLe c.result0.toNat 8 ++ toLe c.result1.toNat 8 ++ toLe c.committedTokens 4 ++ toLe c.step 4
/-- Post a completion into the ring: it takes the lap's phase, and raises the vector unless `NOIRQ` (18 R405). -/
def Queue.put (q : Queue) (c : Completion) : Queue :=
  let t := (q.cqTail + 1) % q.depth
  { q with posted := q.posted ++ [{ c with phase := q.phase }]
           cqTail := t, phase := if t = 0 then !q.phase else q.phase
           irqs := if q.irq && !c.noIrq then q.irqs + 1 else q.irqs }
/-- Post waiting completions while slots are free (R52). -/
def Queue.drain : Nat → Queue → Queue
  | 0, q => q
  | n + 1, q =>
    match q.waiting with
    | [] => q
    | c :: cs => if q.freeSlots = 0 then q else Queue.drain n (Queue.put { q with waiting := cs } c)
/-- A command's completion: the first has its slot reserved, a later one waits in order while the ring is full. -/
def Queue.complete (q : Queue) (first : Bool) (c : Completion) : Queue :=
  if first then { q with reserved := q.reserved - 1 }.put c
  else if q.freeSlots = 0 || !q.waiting.isEmpty then { q with waiting := q.waiting ++ [c] }
  else q.put c

/-- `committed_tokens` of the session that a command names (Table 3-4). -/
def Partition.tokensOf (p : Partition) (h : Handle) : Nat :=
  if hKind h = kSession then ((p.sessions.find (hIndex h)).map (·.committedTokens)).getD 0 else 0

/-- Post a completion of the live command `cid` of queue `q`; of two live commands of a queue that carry the same `cid`, the one
fetched first takes it (DESIGN CHOICE, log entry 140). -/
def Partition.post (p : Partition) (q : Nat) (cid : BitVec 16) (st : Status) (more : Bool) (r0 r1 : Word)
    (step : Nat) : Partition :=
  match p.live.find? (fun l => l.q == q && l.ent.cid == cid), p.queues.find q with
  | some l, some qu =>
    -- a command without a request that was cancelled ends with its own status (08 Table 8-12)
    let st := match l.req, l.abortStatus, more with
      | none, some a, false => a
      | _, _, _ => st
    let c : Completion := { cid := cid, status := st, more := more, phase := false, sq := q, sqHead := l.sqHead
                            result0 := r0, result1 := r1, committedTokens := p.tokensOf l.ent.handle0
                            step := step % 2 ^ 32, noIrq := bitOf l.ent.flags 1 }
    { p with queues := p.queues.put q (qu.complete (!l.posted1) c)
             live := if more then p.live.map fun m => if m.order = l.order then { m with posted1 := true } else m
                     else p.live.filter fun m => m.order ≠ l.order }
  | _, _ => p
/-- Post the final completion of a command that no step produced. -/
def State.finish (s : State) (p : Part) (q : Nat) (cid : BitVec 16) (st : Status) (r0 : Word := 0) (r1 : Word := 0)
    (step : Nat := 0) : State :=
  s.updP p fun t => t.post q cid st false r0 r1 step
/-- Post an interim completion. -/
def State.interim (s : State) (p : Part) (q : Nat) (cid : BitVec 16) (r0 r1 : Word) (step : Nat) : State :=
  s.updP p fun t => t.post q cid .ok true r0 r1 step
/-- A live command of a queue. -/
def Partition.liveOf (p : Partition) (q : Nat) (cid : BitVec 16) : Option Live :=
  p.live.find? fun l => l.q == q && l.ent.cid == cid
/-- Change a live command. -/
def Partition.updLive (p : Partition) (q : Nat) (cid : BitVec 16) (f : Live → Live) : Partition :=
  { p with live := p.live.map fun l => if l.q == q && l.ent.cid == cid then f l else l }
def State.updLive (s : State) (p : Part) (q : Nat) (cid : BitVec 16) (f : Live → Live) : State :=
  s.updP p fun t => t.updLive q cid f
/-- Is the queue privileged? -/
def Partition.privQ (p : Partition) (q : Nat) : Bool := (p.queues.find q).any (·.priv)

/-! ### Tenants (08 R170, R172) -/

/-- Refill a tenant at a partition-clock time (08 R170). -/
def Tenant.refill (t : Tenant) (now : Nat) : Tenant :=
  let t1 :=
    if now > t.lastRefill then
      let acc := t.remainder + (now - t.lastRefill) * t.rate
      let lv := min (t.capacity : Int) (t.level + (acc / 1000000000 : Nat))
      { t with level := lv, remainder := if lv = t.capacity then 0 else acc % 1000000000, lastRefill := now }
    else t
  if t1.staged then
    { t1 with capacity := t1.nextCapacity, rate := t1.nextRate, staged := false
              level := min t1.level (t1.nextCapacity : Int) }
  else t1
/-- Charge tokens: the level stops at −2^39 (08 R172). -/
def Tenant.charge (t : Tenant) (n : Nat) : Tenant := { t with level := max (-(2 ^ 39 : Int)) (t.level - n) }

/-- Run an operation for each element of a list. -/
def State.forEach {α : Type} (s : State) (l : List α) (f : State → α → State) : State := l.foldl f s
/-- The time of a port (12 R262). -/
def State.portTime (s : State) (n : Nat) : Nat := ((s.ports.find n).map (·.time)).getD 0

end Sys2Proof.Machine
end

