-- ==== Sys2Proof/Machine/Pages.lean ====
section
/-! DEFINITION. The four-tier page store: portions, frames, the outer tiers, pool epochs, pins and references, freeing
and dropping of groups, the move engine's copies, Winnow and the out-of-page order (spec 02 R32, R33; 04). -/

namespace Sys2Proof.Machine

/-! ### Clusters and portions -/

/-- Does a bitmap hold cluster c? -/
def hasClu (m : BitVec 64) (c : Nat) : Bool := m.getLsbD c
/-- Clusters of a bitmap in a quadrant (02 R29). -/
def clustersIn (m : BitVec 64) (q : Nat) : List Nat := ((List.range 16).map (· + 16 * q)).filter (hasClu m)
/-- Clusters of a bitmap. -/
def clustersOf (m : BitVec 64) : List Nat := (List.range 64).filter (hasClu m)
/-- Quadrants in which a bitmap holds a cluster, ascending. -/
def quadsOf (m : BitVec 64) : List Nat := (List.range 4).filter fun q => !(clustersIn m q).isEmpty
/-- A cluster as it starts: in service, nothing counted. -/
def Cluster.fresh : Cluster := { st := .inService, quarantines := 0, passes := 0, replays := 0, stats := List.replicate 7 0 }
def State.clu (s : State) (c : Nat) : Cluster := s.clusters.getD c Cluster.fresh
def State.updClu (s : State) (c : Nat) (f : Cluster → Cluster) : State :=
  { s with clusters := s.clusters.put c (f (s.clu c)) }
/-- Count in one of a cluster's statistics (Table 2-7): 4 `local_bytes`, 5 `xq_bytes`, 6 `descriptors`. -/
def State.cluCount (s : State) (c n k : Nat) : State :=
  s.updClu c fun r => { r with stats := listSet r.stats n fun v => (v + k) % 2 ^ 64 }
/-- A quadrant's portion of a T0 share in MiB: proportional to the clusters owned there, rounded down, the remainder
to the lowest-numbered owned quadrant (02 R32). -/
def portionMiB (m : BitVec 64) (share q : Nat) : Nat :=
  let n := (clustersOf m).length
  let part := fun k => if n = 0 then 0 else share * (clustersIn m k).length / n
  let rest := share - ((List.range 4).map part).sum
  part q + if (quadsOf m).head? = some q then rest else 0

/-- 4 KiB blocks in a MiB. -/
def blocksPerMiB : Nat := 256
/-- Round up to a multiple. -/
def roundUp (n k : Nat) : Nat := (n + k - 1) / k * k

/-! ### Group sizes (04 R70, R75, R77, R80) -/

/-- `page_size` in bytes of a page-size code. -/
def pageBytes (code : Nat) : Nat := 8192 * 2 ^ code
/-- The smallest page size that holds both tiles of a page (01 Table 1-7); none above 64 KiB. -/
def pageCodeFor (fmt : Nat) (mx : Bool) (headDim : Nat) : Option Nat :=
  (List.range 4).find? fun c => 2 * tileBytes fmt mx headDim ≤ pageBytes c
/-- Pages of a group of a model. -/
def ModelDesc.pages (m : ModelDesc) : Nat := m.layers * m.kvHeads
/-- 4 KiB blocks of a T0 frame: whole 64 KiB units (04 R80). -/
def ModelDesc.frameBlocks (m : ModelDesc) : Nat := roundUp (m.pages * pageBytes m.pageCode / 4096) 16
/-- 4 KiB blocks of the metadata run: the metadata block and the page-record blocks (04 R76, R77). -/
def ModelDesc.runBlocks (m : ModelDesc) : Nat := 1 + (m.pages + 127) / 128
/-- Bytes of a group in an outer tier: pages and metadata. -/
def ModelDesc.groupBytes (m : ModelDesc) : Nat := m.pages * pageBytes m.pageCode + 4096 * m.runBlocks
/-- The live descriptor of a model identifier. -/
def Partition.model? (p : Partition) (id : BitVec 16) : Option ModelDesc :=
  (p.models.find (id.toNat % 256)).bind fun s => s.desc.bind fun d => if d.modelId = id then some d else none
/-- The descriptor a group was opened under, by slot, whatever reload came since: a reload is refused while a session
names the slot (17 R390), so a group of an older generation keeps the geometry of its own page count. -/
def Partition.groupFrame (p : Partition) (g : Group) : Nat × Nat :=
  match p.model? g.model with
  | some m => (m.frameBlocks, m.runBlocks)
  | none => (roundUp (g.pages * 2) 16, 1 + (g.pages + 127) / 128)
/-- Bytes of a group. -/
def Partition.groupBytes (p : Partition) (g : Group) : Nat :=
  match p.model? g.model with
  | some m => m.groupBytes
  | none => g.pages * 8192 + 4096 * (1 + (g.pages + 127) / 128)

/-! ### Free space -/

/-- Blocks of the tables that lie in a partition's T0 share: group directory, node table, primary index buckets, T2
map, program store, variant table and the 1,024 queue-pair contexts of each cluster (03 R41, 04 R75, 05 R104, R106, 08 R191, 10 R217,
12 R270). They are taken from the start
of the portion of the lowest owned quadrant (DESIGN CHOICE, log entry 16). -/
def Partition.indexBits (p : Partition) : Nat :=
  let n := (p.dirSlots + 3) / 4
  if n ≤ 1 then 0 else (n - 1).log2 + 1
def Partition.fixedBlocks (p : Partition) : Nat :=
  let n := p.dirSlots
  (n * 32 + n * 64 + 256 * 2 ^ p.indexBits + 8 * (4 * p.shareT2) + 2 * 1048576 + 2 * 1048576 + 1048576 * (clustersOf p.clusters).length + 4095) / 4096
/-- Does a group hold a T0 frame: homed there, or its promotion has taken one? -/
def Group.hasFrame (g : Group) : Bool := g.tier == .t0 || g.move == .promoting
/-- The number of an overflow page: its tier and its address in 4 KiB units, which in T0 holds the quadrant above bit 31 (05 R106). -/
def overKey (t : Tier) (unit : Nat) : Nat := t.code * 2 ^ 40 + unit
/-- Used runs of blocks in a quadrant portion, reservations of other allocations among them. -/
def Partition.usedT0 (p : Partition) (q : Nat) (me : Nat) : List (Nat × Nat) :=
  (if (quadsOf p.clusters).head? = some q then [(0, p.fixedBlocks)] else [])
    ++ (p.groups.filterMap fun kv =>
        if kv.2.quad = q ∧ kv.2.hasFrame then
          some ([(kv.2.frame, (p.groupFrame kv.2).1), (kv.2.run, (p.groupFrame kv.2).2)] ++ match kv.2.moveTo with
            | some d => [(d.1, if d.1 = kv.2.frame then 0 else (p.groupFrame kv.2).1), (d.2, if d.2 = kv.2.run then 0 else (p.groupFrame kv.2).2)]
            | none => [])
        else none).flatten
    ++ (p.regions.map fun kv => (kv.2.spots.filter fun c => c.2.1 == q).map fun c => (c.2.2, 512)).flatten
    ++ (p.sequences.map fun kv => (kv.2.summaries.filter fun r => r.2.quad == q).map fun r => (r.2.start, r.2.blocks)).flatten
    ++ ((p.overPages.filter fun kv => kv.2.1 == Tier.t0 && kv.1 % 2 ^ 40 / 2 ^ 32 == q).map fun kv => (kv.1 % 2 ^ 32, 1))
    ++ (p.reserves.map fun r => if r.me ≠ me ∧ r.quad = q then r.runs else []).flatten
/-- Blocks of a portion. -/
def Partition.portionBlocks (p : Partition) (q : Nat) : Nat := portionMiB p.clusters p.shareT0 q * blocksPerMiB
/-- Is a run free? -/
def runFree (used : List (Nat × Nat)) (a n : Nat) : Bool := used.all fun u => a + n ≤ u.1 || u.1 + u.2 ≤ a
/-- The lowest free run of `n` blocks at a multiple of `al` below `limit` (which run is taken is a DESIGN CHOICE, log
entry 16): it starts at 0 or right after a used run. -/
def findRun (used : List (Nat × Nat)) (limit n al : Nat) : Option Nat :=
  let cand := (0 :: used.map fun u => roundUp (u.1 + u.2) al).filter fun a => a + n ≤ limit && runFree used a n
  cand.foldl (fun b a => match b with | none => some a | some c => some (min a c)) none
/-- A frame and a metadata run in one quadrant (04 R94). -/
def Partition.findFrame (p : Partition) (q me fb rb : Nat) : Option (Nat × Nat) :=
  let u := p.usedT0 q me
  (findRun u (p.portionBlocks q) fb 16).bind fun f =>
    (findRun ((f, fb) :: u) (p.portionBlocks q) rb 1).map fun r => (f, r)
/-- Free blocks of a quadrant portion. -/
def Partition.freeBlocks (p : Partition) (q me : Nat) : Nat :=
  p.portionBlocks q - ((p.usedT0 q me).map (·.2)).sum

/-- Has every range of host memory failed, or is the range table empty (11 Table 11-2)? -/
def Partition.t1hDead (p : Partition) : Bool := (p.t1h.filter fun kv => bitOf kv.2.2.toNat 63).all fun kv => bitOf kv.2.2.toNat 32
/-- A partition's share of a tier in MiB; T1B gives up its extents (11 R244), T1H counts the valid
ranges while they total less (18 R406) and nothing once every one has failed (11 Table 11-2), T2 is the effective share (10
R229). -/
def Partition.share (p : Partition) (t : Tier) : Nat :=
  match t with
  | .t0 => p.shareT0
  | .t1b => p.shareT1b - (p.ld.extents.map (·.len)).sum / 1048576
  | .t1h => if p.t1hDead then 0
    else min p.shareT1h ((p.t1h.filter fun kv => bitOf kv.2.2.toNat 63).map fun kv => 2 * bitsOf kv.2.2.toNat 31 0).sum
  | .t2 => min p.shareT2 p.effT2
/-- Runs used in an outer tier, in 4 KiB units: groups homed there or backed there, region chunks and overflow pages. -/
def Partition.usedOuter (p : Partition) (t : Tier) : List (Nat × Nat) :=
  (p.groups.map fun kv =>
      let n := (p.groupBytes kv.2 + 4095) / 4096
      (if kv.2.tier = t then [(kv.2.loc, n)] else []) ++ (if kv.2.backing = some t then [(kv.2.backLoc, n)] else [])).flatten
    ++ (p.groups.filterMap fun kv =>
        if kv.2.move = .demoting ∧ kv.2.dest = t ∧ kv.2.backing ≠ some t ∧ kv.2.tier ≠ t
        then some (0x1000000000, (p.groupBytes kv.2 + 4095) / 4096) else none)
    ++ (p.overPages.filter fun kv => kv.2.1 == t).map fun kv => (kv.1 % 2 ^ 40, 1)
/-- Bytes of regions that lie in an outer tier; a mirrored unit counts twice in T2 (10 R217). -/
def Partition.regionBytes (p : Partition) (t : Tier) : Nat :=
  (p.regions.map fun kv =>
    let r := kv.2
    if r.binding.isSome then 0
    else
      let home : Option Tier := match r.home with
        | 0 => some .t0
        | 1 => some (if p.warmTier = 1 then .t1h else .t1b)
        | 2 => some .t2
        | _ => none
      -- a mirrored region homed in T2 lies there as its image
      let apart := 2097152 * (r.chunks.filter fun c => c.2 == t).length
      let here := if t == .t2 && r.cls == 1 then 0
        else if home = some t then r.size - 2097152 * r.chunks.length else min r.size apart
      let img := if t = .t2 ∧ r.cls = 1 then 2 * r.size else 0
      (if t = .t0 then 0 else here) + img).sum
/-- Bytes of T2 that the authoritative images of a partition take: mirrored units count twice (10 R217). -/
def Partition.imageBytes (p : Partition) : Nat := 2 * 262144 * p.imgUnits
def Partition.authBytes (p : Partition) : Nat :=
  p.imageBytes + (p.regions.map fun kv => if kv.2.cls = 1 && kv.2.binding.isNone then 2 * kv.2.size else 0).sum
/-- Free bytes of a tier's share. -/
def Partition.freeBytes (p : Partition) (t : Tier) : Nat :=
  match t with
  | .t0 => 4096 * ((quadsOf p.clusters).map fun q => p.freeBlocks q 0).sum
  | t => p.share t * 1048576 - 4096 * ((p.usedOuter t).map (·.2)).sum - p.regionBytes t - (if t = .t2 then p.imageBytes else 0)
/-- The low-water mark of a tier, one 64th of the share (04 R87). -/
def Partition.lowMark (p : Partition) (t : Tier) : Nat := p.share t * 1048576 / 64
/-- The high-water mark, one 32nd (04 R87). -/
def Partition.highMark (p : Partition) (t : Tier) : Nat := p.share t * 1048576 / 32
/-- The lowest free place in an outer tier; a T2 object begins at a map unit (10 R217). -/
def Partition.placeOuter (p : Partition) (t : Tier) (bytes : Nat) : Option Nat :=
  let n := (bytes + 4095) / 4096
  if p.freeBytes t < bytes then none
  else findRun (p.usedOuter t) (p.share t * blocksPerMiB) n (if t = .t2 then 64 else 1)

/-! ### Pool epochs (04 R85, R86) -/

/-- A tier's pool epoch. -/
def Partition.epoch (p : Partition) (t : Tier) : Nat := (p.epochs.getD t.code (0, 0)).1
/-- Count an allocation in a tier: each 256th of the share advances the epoch (R85). -/
def Partition.allocated (p : Partition) (t : Tier) (bytes : Nat) : Partition :=
  let unit := p.share t * 4096
  if unit = 0 then p
  else
    let e := p.epochs.getD t.code (0, 0)
    let c := e.2 + bytes
    { p with epochs := p.epochs.put t.code ((e.1 + c / unit) % 2 ^ 32, c % unit) }
/-- A group's age (R86). -/
def Partition.age (p : Partition) (g : Group) : Nat := (p.epoch g.tier + 2 ^ 32 - g.touch) % 2 ^ 32
/-- Touch a group (R86). -/
def Partition.touchG (p : Partition) (i : Nat) : Partition :=
  { p with groups := p.groups.upd i fun g => { g with touch := p.epoch g.tier } }

/-! ### Page records -/

/-- The dirty pages. -/
def Group.dirtyPages (g : Group) : List Nat := (g.recs.filter fun kv => kv.2.dirty).map (·.1)
/-- `dirty_count` (Table 4-6). -/
def Group.dirtyCount (g : Group) : Nat := g.dirtyPages.length
/-- `poison_count` (Table 4-6). -/
def Group.poisonCount (g : Group) : Nat := (g.recs.map fun kv => b2n kv.2.poisonK + b2n kv.2.poisonV).sum
/-- Clear every dirty bit. -/
def Group.clean (g : Group) : Group := { g with recs := g.recs.mapV fun _ r => { r with dirty := false } }
/-- Is a group pinned (04 R84)? -/
def Group.pinned (g : Group) : Bool := g.ppin || g.pins != 0

/-! ### Tile headers and seals (04 R72 to R74) -/

/-- The 32 bytes of a tile header (Table 4-4): handle, place in the model, format and flags, rows, block, model. -/
def headerBytes (h : Handle) (layer head : Nat) (v : Bool) (fmt : Nat) (mx prov : Bool) (headDim rows block : Nat) (model : BitVec 16) :
    List Byte :=
  toLe h.toNat 8 ++ toLe layer 1 ++ toLe (b2n v * 128 + head) 1 ++ toLe fmt 1
    ++ toLe (b2n mx * 128 + b2n prov * 64) 1 ++ toLe headDim 2 ++ toLe rows 1 ++ [0]
    ++ toLe block 4 ++ toLe model.toNat 2 ++ toLe (trailerBytes fmt mx headDim) 2 ++ toLe (tileBytes fmt mx headDim) 4 ++ toLe 0 4
/-- A tile header built from the group and the model, for a page of `rows` rows. -/
def tileHeader (g : Group) (m : ModelDesc) (rows layer head : Nat) (v : Bool) : List Byte :=
  headerBytes g.h layer head v m.kvFmt m.mx (rows > g.filled) m.headDim rows g.block g.model
/-- Where a tile lies in a group: page offset, and the V tile half a page on (04 R70). -/
def tileOff (m : ModelDesc) (page : Nat) (v : Bool) : Nat :=
  page * pageBytes m.pageCode + if v then pageBytes m.pageCode / 2 else 0
/-- A tile's bytes. -/
def Group.tile (g : Group) (m : ModelDesc) (page : Nat) (v : Bool) : List Byte :=
  g.data.rd (tileOff m page v) (tileBytes m.kvFmt m.mx m.headDim)
/-- The first rows of a tile in a target format, and the number of elements that saturated; none where a code is reserved (07
R149). -/
def Group.rowsOf (g : Group) (m : ModelDesc) (page : Nat) (v : Bool) (n : Nat) (t : FFmt) : Option (List (List Fl) × Nat) :=
  let rb := rowBytes m.kvFmt m.headDim
  let sb := rowScales m.kvFmt m.mx m.headDim
  let o := tileOff m page v
  let rs := (List.range n).map fun r =>
    rowRead m.kvFmt m.mx t m.headDim (g.data.rd (o + r * rb) rb) (g.data.rd (o + 64 * rb + r * sb) sb)
  if rs.all Option.isSome then some (rs.map fun r => (r.map (·.1)).getD [], (rs.map fun r => (r.map (·.2)).getD 0).sum) else none
/-- The record of a page that nothing has written. -/
def PageRec.none : PageRec := ⟨0, 0, false, false, false, 0⟩
/-- A page's record. -/
def Group.recOf (g : Group) (page : Nat) : PageRec := g.recs.getD page PageRec.none
/-- A page's tile header as its record has it. -/
def Group.header (g : Group) (m : ModelDesc) (page : Nat) (v : Bool) : List Byte :=
  tileHeader g m (g.recOf page).rows (page / m.kvHeads) (page % m.kvHeads) v
/-- A tile's seal (04 R73), as a consumer computes it afresh. -/
def Group.seal (g : Group) (m : ModelDesc) (page : Nat) (v : Bool) : Word := crc64 (g.header m page v ++ g.tile m page v)
/-- The records of a group's pages as its tiles are created, all zeros: sealed, and dirty, since they have no copy (04 R73, R83). -/
def Group.freshRecs (g : Group) (m : ModelDesc) : Tab PageRec :=
  (List.range m.pages).map fun page =>
    let k := fun v => crc64Gap (tileHeader g m 0 (page / m.kvHeads) (page % m.kvHeads) v) (tileBytes m.kvFmt m.mx m.headDim)
    (page, ⟨k false, k true, true, false, false, 0⟩)
/-- A tile's seal after a write, from the old one and the changed bytes alone (04 R74): the header, and some ranges of the tile
(offset, length). An error that stood in the tile before still shows. -/
def Group.sealFrom (old new : Group) (m : ModelDesc) (page : Nat) (v : Bool) (ranges : List (Nat × Nat)) (rows : Nat) : Word :=
  let n := tileBytes m.kvFmt m.mx m.headDim
  let o := tileOff m page v
  let k := if v then (old.recOf page).sealV else (old.recOf page).sealK
  ranges.foldl (fun (k : Word) e => k ^^^ crcDelta (old.data.rd (o + e.1) e.2) (new.data.rd (o + e.1) e.2) (n - e.1 - e.2))
    (k ^^^ crcDelta (old.header m page v) (tileHeader new m rows (page / m.kvHeads) (page % m.kvHeads) v) n)
/-- A page's record after a write of both its tiles: seals by R74, its rows, and its dirty bit where bytes were written (R82). -/
def Group.reseal (old new : Group) (m : ModelDesc) (page rows : Nat) (ranges : List (Nat × Nat)) (dirty : Bool) : Group :=
  let r := old.recOf page
  { new with recs := new.recs.put page { r with
      sealK := old.sealFrom new m page false ranges rows, sealV := old.sealFrom new m page true ranges rows
      rows := rows, dirty := r.dirty || dirty } }
/-- The bytes of a tile that rows `r0` up to `r1` take, with their scales (04 R71). -/
def ModelDesc.rowRanges (m : ModelDesc) (r0 r1 : Nat) : List (Nat × Nat) :=
  let rb := rowBytes m.kvFmt m.headDim
  let sb := rowScales m.kvFmt m.mx m.headDim
  [(r0 * rb, (r1 - r0) * rb), (64 * rb + r0 * sb, (r1 - r0) * sb)]
/-- Clear rows `r0` up to `r1` of every tile, with their scale bytes (04 R71). -/
def Group.zeroRows (g : Group) (m : ModelDesc) (r0 r1 : Nat) : Group :=
  let rb := rowBytes m.kvFmt m.headDim
  let sb := rowScales m.kvFmt m.mx m.headDim
  { g with data := (List.range m.pages).foldl (fun d pg =>
      [false, true].foldl (fun d v =>
        let o := tileOff m pg v
        (d.wr (o + r0 * rb) (List.replicate ((r1 - r0) * rb) 0)).wr (o + 64 * rb + r0 * sb)
          (List.replicate ((r1 - r0) * sb) 0)) d) g.data }

/-- A group whose pages keep no more than `rows` rows each: the rows beyond are cleared, the pages that had some are dirty (04 R82),
and every seal follows what its header and its rows now hold. `old` is the group as its seals have it. -/
def Group.trimTo (old new : Group) (m : ModelDesc) (rows : Nat) : Group :=
  let top := (new.recs.map fun kv => kv.2.rows).foldl max new.rows
  let z := if top > rows then new.zeroRows m rows top else new
  (List.range m.pages).foldl (fun g page =>
    let had := (old.recOf page).rows
    old.reseal g m page (min had rows) (if had > rows then m.rowRanges rows had else []) (had > rows)) { z with rows := min new.rows rows }

/-! ### The CAM and the index as far as removals need them (05 R105 to R110) -/

/-- Remove CAM rows and shadows that stand for a node. -/
def Cam.dropNode (c : Cam) (h : Handle) : Cam :=
  let rows := (c.shadows.filter fun kv => kv.2.node == h).map (·.1)
  { c with rows := c.rows.keep fun k _ => !rows.contains k, shadows := c.shadows.keep fun k _ => !rows.contains k }
/-- Remove a node from its index chain; an overflow bucket left empty is freed with its page's count. -/
def Partition.unindex (p : Partition) (n : Nat) : Partition :=
  { p with index := p.index.mapV fun _ c =>
      { c with buckets := c.buckets.map fun b => { b with ents := b.ents.filter (· ≠ n) } } }
/-- Free overflow buckets that hold nothing, and overflow pages none of whose buckets is in use (R106). -/
def Partition.trimChains (p : Partition) : Partition :=
  let idx := p.index.mapV fun _ c =>
    { c with buckets := match c.buckets with
        | [] => []
        | b :: bs => b :: bs.filter fun x => !x.ents.isEmpty }
  let inUse := fun pg => ((idx.map fun kv => ((kv.2.buckets.drop 1).filter fun b => b.page == pg).length).sum)
  { p with index := idx
           overPages := (p.overPages.mapV fun k v => (v.1, inUse k)).keep fun _ v => v.2 != 0 }
/-- Remove a node: its index entry and CAM row go in the same action, its slot's generation advances (05 R105). -/
def State.removeNode (s : State) (p : Part) (n : Nat) : State :=
  s.withP p fun t =>
    match t.nodes.find n with
    | none => s
    | some nd =>
      let s := { s with cam := s.cam.dropNode nd.h }
      s.updP p fun t =>
        let t := { (t.unindex n).trimChains with nodes := t.nodes.del n }
        let t := t.bumpGen kNode n
        t
/-- A domain with no node left that is CLOSING becomes FREE (05 R98). -/
def State.settleDomains (s : State) : State :=
  { s with domains := s.domains.keep fun id d =>
      d.st ≠ .closing || s.parts.any fun kv => kv.2.nodes.any fun n => n.2.domain.toNat == id }

/-! ### Copies of the move engine (04 R92) -/

/-- The path number of a copy between T0 and an outer tier in a quadrant. -/
def pathKey (t : Tier) (q : Nat) : Nat := t.code * 4 + q
/-- Pieces of 256 KiB. -/
def piecesOf (bytes : Nat) : Nat := max 1 ((bytes + 262143) / 262144)
/-- Of two copies, the one that a path serves first: by priority, then by arrival (R92). -/
def Copy.first (a b : Copy) : Copy := if b.prio < a.prio || (b.prio == a.prio && b.order < a.order) then b else a
/-- The copy of a path that its next piece belongs to. -/
def PathState.pick (ps : PathState) : Option Copy :=
  (ps.copies.filter fun c => c.left ≠ 0).foldl (fun a c => some ((a.map fun b => b.first c).getD c)) none
/-- Does a copy stand still: one on a path of T1H, while its partition is FENCED (11 R241)? -/
def State.halted (s : State) (key : Nat) (c : Copy) : Bool :=
  key / 4 == Tier.t1h.code && s.getP (Fin.ofNat 16 c.part) false fun t => t.st == .fenced
/-- A path takes up its next piece: that copy has begun, and a demotion's copy-out with it (R92, R93). -/
def State.nextPiece (s : State) (key : Nat) : State :=
  let ps := s.paths.getD key ⟨[], none⟩
  match (PathState.mk (ps.copies.filter fun c => !(s.halted key c)) ps.cur).pick with
  | none => { s with paths := s.paths.put key ⟨ps.copies, none⟩ }
  | some c =>
    let qs : PathState :=
      ⟨ps.copies.map fun (d : Copy) => if d.order = c.order then { d with begun := true } else d, some c.order⟩
    let s := { s with paths := s.paths.put key qs }
    match c.kind with
    | .demote g => s.updGroup (Fin.ofNat 16 c.part) g fun r => { r with copyOut := true }
    | _ => s
/-- Put a copy behind those that wait on a path; a path with no piece in progress takes it up at once. -/
def State.addCopy (s : State) (key : Nat) (p : Part) (k : CopyKind) (prio bytes : Nat) : State :=
  let c : Copy := ⟨p.val, k, prio, s.copyOrder, piecesOf bytes, false⟩
  let ps := s.paths.getD key ⟨[], none⟩
  let s := { s with paths := s.paths.put key ⟨ps.copies ++ [c], ps.cur⟩, copyOrder := s.copyOrder + 1 }
  if ps.copies.any fun d => some d.order = ps.cur && d.left ≠ 0 then s else s.nextPiece key
/-- Remove the copies of a partition that match. -/
def State.dropCopies (s : State) (p : Part) (f : Copy → Bool) : State :=
  { s with paths := s.paths.mapV fun _ ps => ⟨ps.copies.filter fun c => !(c.part == p.val && f c), ps.cur⟩ }
/-- A copy of a group that is under way. -/
def State.copyOf (s : State) (p : Part) (k : CopyKind) : Option Copy :=
  ((s.paths.map fun kv => kv.2.copies).flatten).find? fun c => c.part == p.val && c.kind == k
/-- Is a copy one that ends with the group's slot: a demotion, a relocation, or the fill of a group copied for its writer? -/
def CopyKind.leaves (k : CopyKind) (g : Nat) : Bool := k == .demote g || k == .relocate g || k == .cow g
/-- Does a group stand in T0 for its users: homed there, its fill ended, no free step still to be cancelled (04 R79, R93)? -/
def State.resident (s : State) (p : Part) (g : Nat) : Bool :=
  (s.group? p g).all (fun r => r.tier == .t0 && !(r.move == .demoting && r.cancelFree)) && (s.copyOf p (.cow g)).isNone
/-- Raise a promotion's priority when a step of higher rank joins it. -/
def State.hurry (s : State) (p : Part) (k : CopyKind) (prio : Nat) : State :=
  { s with paths := s.paths.mapV fun _ ps =>
      ⟨ps.copies.map fun c => if c.part == p.val && c.kind == k then { c with prio := min c.prio prio } else c, ps.cur⟩ }

/-! ### The journal (13 R313, R314) -/

/-- A journal with nothing in it: the first record takes `jseq` 1. -/
def Journal.empty : Journal :=
  { openPage := [], closed := [], next := 1, durable := 0, stopped := false, sessions := [], tenants := [], models := []
    regions := [], programs := [], domains := [], outcomes := [], layout := [], broken := false, clusters := [], pages := 0, checkpoint := 0
    map := [], images := [], newer := [] }
/-- The journal of a log number. -/
def State.journal (s : State) (j : Nat) : Journal := s.journals.getD j Journal.empty
/-- Write a record into the page being filled; it answers the record's `jseq`. -/
def State.jwrite (s : State) (j : Nat) (jtype step : Nat) (object : Handle) (body : JBody) (forced : Bool := false) :
    State × Nat :=
  let jr := s.journal j
  let r : JRec := ⟨jtype, forced, jr.next, step, object, body⟩
  ({ s with journals := s.journals.put j { jr with openPage := jr.openPage ++ [r], next := jr.next + 1 } }, jr.next)
/-- Write a record whose number nobody waits for. -/
def State.jlog (s : State) (j : Nat) (jtype step : Nat) (object : Handle) (body : JBody) : State :=
  (s.jwrite j jtype step object body).1
/-- The device journal. -/
def devJournal : Nat := 16

-- Record types (Table 13-10)
def jCommit := 0x01
def jPark := 0x02
def jRevive := 0x03
def jCreate := 0x04
def jClose := 0x05
def jDur := 0x06
def jMap := 0x10
def jMapMove := 0x11
def jRegion := 0x20
def jSync := 0x21
def jPublish := 0x22
def jObject := 0x23
def jMigration := 0x30
def jCheckpoint := 0x40
def jLayout := 0x80
def jCarrier := 0x81
def jHealth := 0x82
def jCluster := 0x83

/-! ### What frees and changes do on flash (10 R222, R228, R230) -/

/-- The key of a map unit: partition · 2^32 + unit. -/
def unitKey (part unit : Nat) : Nat := part * 2 ^ 32 + unit
def keyPart (k : Nat) : Nat := k / 2 ^ 32
/-- Bytes of a map unit (10 R217). -/
def mapUnit : Nat := 262144
/-- Add to a counter of Table 10-16. -/
def State.flashCount (s : State) (n k : Nat) : State :=
  { s with flash := { s.flash with stats := listSet s.flash.stats n fun v => (v + k) % 2 ^ 64 } }
/-- Unmap an object's units, with the record of it: the update that frees the object (10 R228). -/
def State.unmap (s : State) (p : Part) (o : FlashOwner) : State :=
  let mine := fun (k : Nat) (u : MapUnit) => decide (keyPart k = p.val) && u.owner == o
  let us := s.flash.map.filter fun kv => mine kv.1 kv.2
  if us.isEmpty then s
  else ({ s with flash := { s.flash with map := s.flash.map.keep fun k u => !(mine k u) } } : State).jlog p.val jMap 0 0
    (.map (us.map fun kv => (kv.1, none)))
/-- Units of an object whose bytes on flash are out of date (10 R222): they are written again. -/
def State.staleUnits (s : State) (p : Part) (o : FlashOwner) (is_ : List Nat) : State :=
  let mark := fun (k : Nat) (u : MapUnit) =>
    if keyPart k = p.val && u.owner == o && is_.contains u.idx then { u with stale := true } else u
  { s with flash := { s.flash with map := s.flash.map.mapV mark } }

/-! ### Freeing and dropping groups -/

/-- Free a group's slot: the record goes, the generation advances (01 Table 1-12). Its blocks go to a reservation when
one is asked for. -/
def State.freeGroup (s : State) (p : Part) (g : Nat) : State :=
  let s := match s.group? p g with
    | some r => s.unmap p (.group r.h)
    | none => s
  s.updP p fun t => { t with groups := t.groups.del g }.bumpGen kGroup g
/-- A group that nothing names, pins or copies out returns to FREE; with pins or a copy-out it is RETIRING (01 Table
1-12, 04 R84). -/
def State.settleGroup (s : State) (p : Part) (g : Nat) : State :=
  match s.group? p g with
  | none => s
  | some r =>
    if r.refcount ≠ 0 || r.openedBy.isSome then s
    else if r.pins = 0 && !r.ppin && !r.copyOut then
      (s.dropCopies p fun c => c.kind.leaves g).freeGroup p g
    else s.updGroup p g fun r => { r with st := .retiring }
/-- Free a group that a step opened and that nothing else can name. One whose fill has begun is freed when that copy ends (05 Table
5-10). -/
def State.dropOpened (s : State) (p : Part) (g : Nat) : State :=
  if (s.copyOf p (.cow g)).any (·.begun) then
    s.updGroup p g fun r => { r with openedBy := none, refcount := 0, pins := 0, copyOut := true, st := .retiring }
  else (s.dropCopies p fun c => c.kind.leaves g).freeGroup p g
/-- Take one reference. -/
def State.refUp (s : State) (p : Part) (g : Nat) : State :=
  s.updGroup p g fun r => { r with refcount := r.refcount + 1 }
/-- Drop one reference. -/
def State.refDown (s : State) (p : Part) (g : Nat) : State :=
  (s.updGroup p g fun r => { r with refcount := r.refcount - 1 }).settleGroup p g
/-- Drop a recomputable group: FREE, every naming page-table entry DROPPED, its nodes freed (01 Table 1-12, R89). -/
def State.dropGroup (s : State) (p : Part) (g : Nat) : State :=
  match s.group? p g with
  | none => s
  | some r =>
    let nodes := s.getP p [] fun t => (t.nodes.filter fun kv => kv.2.group == r.h).map (·.1)
    let s := s.forEach nodes fun s n => s.removeNode p n
    let s := s.updP p fun t =>
      { t with sequences := t.sequences.mapV fun _ q =>
          { q with table := q.table.mapV fun _ e => if e = r.h then 0 else e } }.count cRecDrops 1
    ((s.dropCopies p fun c => c.kind.leaves g || c.kind == .promote g).freeGroup p g).settleDomains

/-- A poisoned group that nothing pins any more is dropped (13 Table 13-2). -/
def State.dropPoisoned (s : State) (p : Part) (g : Nat) : State :=
  if (s.group? p g).any fun r => r.poisonCount != 0 && !r.pinned then (s.dropGroup p g).count p cPoisonDropped else s
/-- Release one step pin. -/
def State.unpin (s : State) (p : Part) (g : Nat) : State :=
  ((s.updGroup p g fun r => { r with pins := r.pins - 1 }).settleGroup p g).dropPoisoned p g

/-! ### Demotion (04 R69, R83, R93) -/

/-- The target of a demotion out of T0 (Table 4-2); T2 stands for the rows that go there. -/
def Partition.demotionTarget (p : Partition) : Tier :=
  match p.warmTier with
  | 0 => if p.share .t1b ≠ 0 then .t1b else .t2
  | 1 => if p.share .t1h ≠ 0 then .t1h else .t2
  | _ =>
    if p.share .t1b ≠ 0 && p.freeBytes .t1b > p.lowMark .t1b then .t1b
    else if p.share .t1h ≠ 0 then .t1h
    else .t2

/-- Is the flash tier READ_ONLY (10 R230)? -/
def State.flashRO (s : State) : Bool := s.flash.tier == .readOnly

/-- Candidates of a Winnow selection in a tier, in the order of Table 4-10 and R88: rank, age (oldest first),
`refcount`, slot index. Groups of an equal-time domain that their nodes name stay (05 R117). -/
def Partition.etPinned (p : Partition) (et : BitVec 16 → Bool) (g : Group) : Bool :=
  p.nodes.any fun kv => kv.2.group == g.h && !kv.2.imported && et kv.2.domain
/-- A candidate: rank, age, references, slot. -/
structure Cand where
  rank : Nat
  age : Nat
  refs : Nat
  slot : Nat
  deriving DecidableEq, Repr
/-- Which of two candidates goes first. -/
def Cand.before (a b : Cand) : Bool :=
  a.rank < b.rank || (a.rank == b.rank && (b.age < a.age || (a.age == b.age &&
    (a.refs < b.refs || (a.refs == b.refs && a.slot ≤ b.slot)))))
/-- Insert in order. -/
def insertBy {α : Type} (le : α → α → Bool) (x : α) : List α → List α
  | [] => [x]
  | y :: ys => if le x y then x :: y :: ys else y :: insertBy le x ys
/-- Sort. -/
def sortBy {α : Type} (le : α → α → Bool) : List α → List α
  | [] => []
  | x :: xs => insertBy le x (sortBy le xs)
/-- The selection of a tier (R87, R88). -/
def Partition.winnowOrder (p : Partition) (et : BitVec 16 → Bool) (t : Tier) (minAge : Nat) : List Cand :=
  sortBy Cand.before (p.groups.filterMap fun kv =>
    let g := kv.2
    let cand := fun r => some (Cand.mk r (p.age g) g.refcount kv.1)
    if g.pinned || g.move ≠ .idle || g.st = .retiring then none
    else if t = .t0 then
      if g.tier ≠ .t0 || p.age g < minAge || p.etPinned et g then none
      else cand (if g.dirtyCount = 0 && g.backing.isSome then 1 else 2)
    else if g.backing = some t then cand 1
    else if g.tier = t then cand 2
    else none)

/-- Leave T0 at once: a clean group with a backing copy gives up its frame; no page is copied (04 R83, Table 4-10). -/
def State.freeFrame (s : State) (p : Part) (g : Nat) : State :=
  s.updP p fun t =>
    { t with groups := t.groups.upd g fun r =>
        match r.backing with
        | some b => { r with tier := b, backing := none, loc := r.backLoc, backLoc := 0, frame := 0, run := 0 }
        | none => r }.touchG g |>.count cDemotions 1 |>.count cDemotedBytes 0
/-- Reclaim a backing copy (Table 4-10); one in T2 is unmapped with it. -/
def State.reclaim (s : State) (p : Part) (g : Nat) : State :=
  let s := match s.group? p g with
    | some r => if r.backing = some Tier.t2 then s.unmap p (.group r.h) else s
    | none => s
  s.updGroup p g fun r => { r with backing := none, backLoc := 0 }
/-- A backing copy that cannot be read is discarded, and every page is dirty (R83; 10 Table 10-6). -/
def State.loseBacking (s : State) (p : Part) (g : Nat) : State :=
  (s.reclaim p g).updGroup p g fun r => { r with recs := r.recs.mapV fun _ e => { e with dirty := true } }
/-- Count a refusal with TIER_READ_ONLY (10 Table 10-16). -/
def State.roRefusal (s : State) : State := s.flashCount 7 1
/-- Begin a demotion: selection phase of R93, and its copy at a priority. The destination's space is held from here. -/
def State.beginDemotion (s : State) (p : Part) (g : Nat) (dest : Tier) (prio : Nat) : State :=
  match s.group? p g with
  | none => s
  | some r =>
    let bytes := s.getP p 0 fun t =>
      if r.backing = some dest then
        4096 * (t.groupFrame r).2 + r.dirtyCount * ((t.model? r.model).map fun m => pageBytes m.pageCode).getD 8192
      else t.groupBytes r
    let s := s.updGroup p g fun r => { r with move := .demoting, dest := dest, copyOut := false, cancelFree := false }
    s.addCopy (pathKey (if r.tier = .t0 then dest else r.tier) r.quad) p (.demote g) prio bytes

/-- Can a tier take a group of this many bytes? -/
def State.canTake (s : State) (p : Part) (t : Tier) (bytes : Nat) : Bool :=
  (t ≠ .t2 || !s.flashRO) && s.getP p false fun u => u.share t ≠ 0 && (u.placeOuter t bytes).isSome

/-- Which domains are equal-time ones (05 R116). -/
def State.isEt (s : State) (d : BitVec 16) : Bool := (s.domains.find d.toNat).any (·.equalTime)

/-- A partition as it stands once the demotions under way out of T1B, T1H and T2 have ended. -/
def Partition.afterLeaving (t : Partition) : Partition :=
  { t with groups := t.groups.keep fun _ g => !(g.tier ≠ .t0 && g.move == .demoting && g.dest ≠ .t0 && !g.cancelFree) }
/-- Can a tier take a group of this many bytes, now or once what is leaving it has left (log entry 137)? -/
def State.willTake (s : State) (p : Part) (t : Tier) (bytes : Nat) : Bool :=
  s.canTake p t bytes || ((t ≠ .t2 || !s.flashRO) && s.getP p false fun u =>
    u.share t ≠ 0 && decide (u.freeBytes t + (u.groups.map fun kv =>
        if kv.2.tier = t && kv.2.move = .demoting && kv.2.dest ≠ .t0 && !kv.2.cancelFree then u.groupBytes kv.2 else 0).sum ≥ bytes)
      && (findRun (u.afterLeaving.usedOuter t) (u.share t * blocksPerMiB) ((bytes + 4095) / 4096) (if t = .t2 then 64 else 1)).isSome)
/-- T2's selection, until there is room: backing copies reclaimed, then groups homed there dropped (Table 4-10). A tier that
is READ_ONLY takes nothing whatever is dropped, so nothing is. -/
def State.winnowT2 (s : State) (p : Part) (room : State → Bool) : State :=
  if s.flashRO then s else s.forEach (s.getP p [] fun u => u.winnowOrder s.isEt .t2 0) fun s c =>
    if room s then s else if c.rank = 1 then s.reclaim p c.slot else s.dropGroup p c.slot
/-- The same, until T2 can take a group of this many bytes. -/
def State.roomT2 (s : State) (p : Part) (bytes : Nat) : State := s.winnowT2 p fun s => s.willTake p .t2 bytes
/-- Demote a group to T2, or drop it where T2 cannot take it (Table 4-2, Table 4-10). -/
def State.demoteT2 (s : State) (p : Part) (g : Nat) (prio : Nat) : State :=
  match s.group? p g with
  | none => s
  | some r =>
    let bytes := s.getP p 0 fun t => t.groupBytes r
    let s := if r.backing = some .t2 then s else s.roomT2 p bytes
    if s.flashRO then (s.dropGroup p g).flashCount 5 1
    else if r.backing = some .t2 || s.willTake p .t2 bytes then s.beginDemotion p g .t2 prio else s.dropGroup p g
/-- A tier's selection, until it can take the bytes (R69): backing copies reclaimed, then groups homed there demoted to T2. -/
def State.roomIn (s : State) (p : Part) (t : Tier) (bytes prio : Nat) : State :=
  if t = .t2 then s.roomT2 p bytes
  else if s.getP p true fun u => u.share t = 0 then s
  else s.forEach (s.getP p [] fun u => u.winnowOrder s.isEt t 0) fun s c =>
    if s.willTake p t bytes then s else if c.rank = 1 then s.reclaim p c.slot else s.demoteT2 p c.slot prio
/-- Demote a group out of T0, T1B or T1H, or drop it where no tier can take it (Table 4-2, R69). `t2` asks for T2. A
group homed in T2 that its backing tier already holds, clean, only gives up the frame. -/
def State.demote (s : State) (p : Part) (g : Nat) (t2 : Bool) (prio : Nat) : State :=
  match s.group? p g with
  | none => s
  | some r =>
    let bytes := s.getP p 0 fun t => t.groupBytes r
    let first := if t2 || r.tier ≠ .t0 then Tier.t2 else s.getP p .t2 fun t => t.demotionTarget
    if first = .t2 then s.demoteT2 p g prio
    else
      let go := fun (s : State) (t : Tier) => r.backing = some t || s.willTake p t bytes
      let s1 := if go s first then s else s.roomIn p first bytes prio
      if go s1 first then s1.beginDemotion p g first prio
      else if first = .t1b && s1.getP p false (fun t => t.warmTier == 2 && t.share .t1h != 0) then
        let s2 := if go s1 .t1h then s1 else s1.roomIn p .t1h bytes prio
        if go s2 .t1h then s2.beginDemotion p g .t1h prio else s2.demoteT2 p g prio
      else s1.demoteT2 p g prio

/-- Evict one candidate of a tier's selection (Table 4-10). -/
def State.evict (s : State) (p : Part) (t : Tier) (c : Cand) (prio : Nat) : State :=
  if t = .t0 then
    (if (s.group? p c.slot).any fun g => g.dirtyCount = 0 && g.backing.isSome then s.freeFrame p c.slot else s.demote p c.slot false prio)
  else if c.rank = 1 then s.reclaim p c.slot
  else if t = .t2 then s.dropGroup p c.slot
  else s.demote p c.slot true prio

/-! ### The out-of-page order (04 R94, Table 4-14) -/

/-- A request for a T0 frame: who waits (a step's number), its home quadrant, the frame and run it needs, the growing
sequence's session, and whether stage 6 is skipped. -/
structure FrameReq where
  me : Nat
  home : Nat
  fb : Nat
  rb : Nat
  sess : Option Nat
  noPark : Bool
  deriving DecidableEq, Repr

/-- The quadrants tried: the home quadrant, then each other in which the partition owns a cluster, ascending. -/
def Partition.tryQuads (p : Partition) (home : Nat) : List Nat :=
  home :: (quadsOf p.clusters).filter (· ≠ home)
/-- Stages 1 and 2: a free frame and run in the home quadrant, else in another owned one. -/
def Partition.stage12 (p : Partition) (r : FrameReq) : Option (Nat × Nat × Nat) :=
  (p.tryQuads r.home).findSome? fun q => (p.findFrame q r.me r.fb r.rb).map fun fr => (q, fr.1, fr.2)
/-- How an allocation stands: a frame, a wait for started moves, or no page. -/
inductive FrameRes where
  | frame (quad f r : Nat)
  | wait
  | noPage
  deriving DecidableEq, Repr
/-- The place that a relocation would give a group: its frame in a free run below, or where there is none its metadata run in one. -/
def Partition.lowerRun (p : Partition) (g : Group) : Option (Nat × Nat) :=
  let u := p.usedT0 g.quad 0
  let f := (findRun u (p.portionBlocks g.quad) (p.groupFrame g).1 16).bind fun f => if f < g.frame then some f else none
  match f with
  | some f => some (f, g.run)
  | none => (findRun u (p.portionBlocks g.quad) (p.groupFrame g).2 1).bind fun r => if r < g.run then some (g.frame, r) else none
/-- Groups of a quadrant that could be relocated: unpinned, slot idle, homed in T0 (R80), with a free run below. -/
def Partition.relocatable (p : Partition) (q : Nat) : List Nat :=
  (p.groups.filter fun kv => kv.2.tier == .t0 && kv.2.quad == q && !kv.2.pinned && kv.2.move == .idle
    && (p.lowerRun kv.2).isSome).map (·.1)
/-- Blocks of a quadrant that come free for one waiting allocation: groups on their way out of T0, or being relocated, for it
(R94: its reservation is its own). -/
def Partition.incoming (p : Partition) (q me : Nat) : Nat :=
  (p.groups.map fun kv =>
    if kv.2.tier = .t0 && kv.2.quad = q && kv.2.forAlloc = me && kv.2.move = .demoting && !kv.2.cancelFree
    then (p.groupFrame kv.2).1 + (p.groupFrame kv.2).2 else 0).sum
/-- Evict one candidate for an allocation: a demotion that this begins is for that allocation. -/
def State.evictFor (s : State) (p : Part) (me : Nat) (c : Cand) : State :=
  (s.evict p .t0 c 3).updGroup p c.slot fun g => if g.move = .demoting && g.tier = .t0 then { g with forAlloc := me } else g
/-- Evict candidates in order until the quadrant's free space, with what is coming free for the allocation, is enough for the frame. -/
def State.evictUntil (s : State) (p : Part) (r : FrameReq) (q : Nat) : List Cand → State
  | [] => s
  | c :: cs =>
    if s.getP p true fun t => t.freeBlocks q r.me + t.incoming q r.me ≥ r.fb + r.rb
        && (t.incoming q r.me ≠ 0 || (t.findFrame q r.me r.fb r.rb).isSome)
    then s
    else State.evictUntil (s.evictFor p r.me c) p r q cs
/-- Is the frame there, or will the moves started for it bring it? -/
def State.enough (s : State) (p : Part) (r : FrameReq) (q : Nat) : Bool :=
  s.getP p false fun t => (t.findFrame q r.me r.fb r.rb).isSome
    || (t.incoming q r.me ≠ 0 && t.freeBlocks q r.me + t.incoming q r.me ≥ r.fb + r.rb)
/-- Stage 3: enough free units but no run: a group moves down to close gaps. Which groups move and where is a DESIGN CHOICE (log
entry 144): the one of the highest slot that has a free run below; its slot shows DEMOTING to T0 with copy-out begun. Its new place is
held until its copy ends. -/
def State.relocate (s : State) (p : Part) (q me : Nat) : State :=
  match (s.getP p [] fun t => t.relocatable q).getLast? with
  | none => s
  | some g =>
    match s.group? p g with
    | none => s
    | some r =>
      let to_ := s.getP p none fun t => t.lowerRun r
      let bytes := s.getP p 0 fun t => match to_ with
        | some d => if d.1 = r.frame then 4096 * (t.groupFrame r).2 else t.groupBytes r
        | none => 0
      let s := s.updGroup p g fun r => { r with move := .demoting, dest := .t0, copyOut := true, moveTo := to_, forAlloc := me }
      s.addCopy (pathKey .t0 q) p (.relocate g) 3 bytes
/-- Private T0 groups of a session: unpinned or soon released, `refcount` 1, homed in T0 in the quadrant, by the order
of stage 5: those with `dirty_count` zero first, then by age, then ascending block. Groups that a node of an equal-time domain names
stay (05 R117). -/
def Partition.privateGroups (p : Partition) (et : BitVec 16 → Bool) (sess : Session) (q : Option Nat) (pinnedToo : Bool) : List Cand :=
  let gs := (sess.seqs.map fun h => ((p.sequences.find (hIndex h)).map fun sq => sq.table.map (·.2)).getD []).flatten
  sortBy Cand.before (p.groups.filterMap fun kv =>
    let g := kv.2
    if gs.contains g.h && g.tier == .t0 && g.refcount == 1 && g.move == .idle && (pinnedToo || !g.pinned)
        && (q.isNone || q == some g.quad) && !(p.etPinned et g)
    then some (Cand.mk (if g.dirtyCount = 0 then 1 else 2) (p.age g) g.block kv.1) else none)
/-- Parked sessions, oldest-parked first. -/
def Partition.parkedOldest (p : Partition) : List Nat :=
  (sortBy (fun (a b : Nat × Session) => a.2.parkedAt ≤ b.2.parkedAt)
    (p.sessions.filter fun kv => kv.2.st == .parked)).map (·.1)
/-- T0 footprint of the groups that a session alone holds. -/
def Partition.footprint (p : Partition) (et : BitVec 16 → Bool) (s : Session) : Nat :=
  ((p.privateGroups et s none true).map fun c => ((p.groups.find c.slot).map fun g => p.groupBytes g).getD 0).sum
/-- Is a session itself waiting for a frame? -/
def Partition.waitsFrame (p : Partition) (sess : Nat) : Bool :=
  p.steps.any fun kv => kv.2.sess == some sess && kv.2.st == .waiting .frame
/-- Victims of stage 6: preemptible, not the growing session, not itself waiting; lowest `priority`, then largest
own T0 footprint, then lowest slot index. -/
def Partition.victims (p : Partition) (et : BitVec 16 → Bool) (growing : Option Nat) (q : Nat) : List Nat :=
  (sortBy (fun (a b : Nat × Session) =>
      a.2.priority < b.2.priority || (a.2.priority == b.2.priority &&
        (p.footprint et b.2 < p.footprint et a.2 || (p.footprint et a.2 == p.footprint et b.2 && a.1 ≤ b.1))))
    (p.sessions.filter fun kv => kv.2.preemptible && some kv.1 != growing && !(p.waitsFrame kv.1)
      && (kv.2.st == .opened || kv.2.st == .running) && kv.2.pendPark.isNone
      && !(p.privateGroups et kv.2 (some q) true).isEmpty)).map (·.1)

end Sys2Proof.Machine
end

