-- ==== Sys2Proof/Machine/KeyTree.lean ====
section
/-! DEFINITION. The prefix store: CAM search and fill, index chains, lookups, node insertion, block keys (spec 05). -/

namespace Sys2Proof.Machine

/-! ### Domains -/

/-- Owner and number of a domain identifier (05 Table 5-1). -/
def domOwner (d : BitVec 16) : Nat := (d.extractLsb' 10 4).toNat
def domLocal (d : BitVec 16) : Nat := (d.extractLsb' 0 10).toNat
def mkDomain (owner n : Nat) : BitVec 16 := 1#1 ++ 0#1 ++ BitVec.ofNat 4 owner ++ BitVec.ofNat 10 n
/-- A domain record that is not FREE. -/
def State.domain? (s : State) (d : BitVec 16) : Option Domain :=
  if d = 0 then none else (s.domains.find d.toNat).bind fun r => if r.st = .free then none else some r
/-- Is the partition the owner or a member of the domain (05 R99)? -/
def State.domMember (s : State) (p : Part) (d : BitVec 16) : Bool :=
  (s.domain? d).any fun r => domOwner d == p.val || r.members.getLsbD p.val
/-- The domain key, 32 zero bytes for domain 0x0000 (05 R101). -/
def State.domKey (s : State) (d : BitVec 16) : Digest := ((s.domains.find d.toNat).map (·.key)).getD 0

/-! ### The CAM -/

/-- CRC-32C over bytes 0x00 to 0x1B of a shadow (Table 5-7). -/
def shadowCrc (key : Key128) (dom model : BitVec 16) (node : Handle) : BitVec 32 :=
  crc32c (toLe key.toNat 16 ++ toLe dom.toNat 2 ++ toLe model.toNat 2 ++ toLe node.toNat 8)
/-- The segment of a key (05 R109). -/
def segOf (key : Key128) : Nat := key.toNat % 4096
/-- A partition's rows of a segment: rows 4c to 4c + 3 of each cluster c it owns (05 R109). -/
def Partition.camRows (p : Partition) (seg : Nat) : List Nat :=
  ((clustersOf p.clusters).map fun c => (List.range 4).map fun i => seg * 256 + 4 * c + i).flatten
/-- Invalidate a row and its shadow. -/
def Cam.kill (c : Cam) (row : Nat) : Cam := { c with rows := c.rows.del row, shadows := c.shadows.del row }
/-- The first of some rows that holds the searched values. -/
def Cam.search (c : Cam) (rows : List Nat) (key : Key128) (dom model : BitVec 16) : Option Nat :=
  rows.find? fun r => (c.rows.find r).any fun w => w.key == key && w.domain == dom && w.model == model
/-- The clock over a partition's rows of a segment: reference bits are cleared until a clear one is found (R110). -/
def Cam.clock (c : Cam) (rows : List Nat) : Nat → Nat → Cam × Nat × Nat
  | 0, h => (c, rows.getD (h % rows.length) 0, (h + 1) % rows.length)
  | n + 1, h =>
    let r := rows.getD (h % rows.length) 0
    if (c.rows.find r).any (·.ref) then
      Cam.clock { c with rows := c.rows.upd r fun w => { w with ref := false } } rows n ((h + 1) % rows.length)
    else (c, r, (h + 1) % rows.length)
/-- Fill a row for a node: the lowest invalid row of the node's partition in the segment, else the clock's (05 R110). The new row's
reference bit is clear: only a hit sets it (DESIGN CHOICE, log entry 150). -/
def State.camFill (s : State) (p : Part) (node : Nat) : State :=
  s.withP p fun t =>
    match t.nodes.find node with
    | none => s
    | some nd =>
      let seg := segOf nd.key
      let rows := t.camRows seg
      if rows.isEmpty || s.cam.disabled.contains seg then s
      else
        let hk := p.val * 4096 + seg
        let pick : Cam × Nat :=
          match rows.find? fun r => !(s.cam.rows.has r) with
          | some r => (s.cam, r)
          | none =>
            let k := s.cam.clock rows (rows.length + 1) (s.cam.hands.getD hk 0)
            ({ k.1 with hands := k.1.hands.put hk k.2.2 }, k.2.1)
        let row := pick.2
        let old := (pick.1.shadows.find row).map (·.node)
        let cam := pick.1.kill row
        let cam := { cam with
          shadows := cam.shadows.put row ⟨nd.key, nd.domain, nd.model, nd.h, shadowCrc nd.key nd.domain nd.model nd.h⟩
          rows := cam.rows.put row ⟨nd.key, nd.domain, nd.model, false⟩ }
        let s := { s with cam := cam }
        s.updP p fun t =>
          let ns := t.nodes.mapV fun k n => if some n.h = old && k ≠ node then { n with camRow := none } else n
          { t with nodes := ns.upd node fun n => { n with camRow := some row } }

/-! ### The index (05 R106) -/

/-- The primary bucket of a key: key[12 + n − 1:12]. -/
def Partition.bucketOf (p : Partition) (key : Key128) : Nat := key.toNat / 4096 % 2 ^ p.indexBits
/-- A LIVE node of the partition under a key, as its index chain gives it; a chain that failed its check is empty
(R107). -/
def Partition.indexFind (p : Partition) (key : Key128) (dom model : BitVec 16) : Option Nat :=
  match p.index.find (p.bucketOf key) with
  | none => none
  | some c =>
    if c.bad then none
    else ((c.buckets.map (·.ents)).flatten).find? fun n =>
      (p.nodes.find n).any fun nd => nd.key == key && nd.domain == dom && nd.model == model && !nd.lost
/-- A place for one overflow page in a tier, from free space only: the first free block of the lowest owned quadrant that has one, or the
tier's lowest free place. -/
def Partition.overPageAt (p : Partition) (t : Tier) : Option Nat :=
  if t = .t0 then
    ((quadsOf p.clusters).findSome? fun q => (findRun (p.usedT0 q 0) (p.portionBlocks q) 1 1).map fun b => overKey .t0 (q * 2 ^ 32 + b))
  else if p.share t = 0 then none
  else (p.placeOuter t 4096).map (overKey t)
/-- A place for an overflow bucket (R106): tier, page, and whether the page is new. T1B comes before T1H and T1H before T0, in each a page
with a free bucket before a new one; `t0` asks for T0. -/
def Partition.overflowPlace (p : Partition) (t0 : Bool) : Option (Tier × Nat × Bool) :=
  (if t0 then [Tier.t0] else [Tier.t1b, Tier.t1h, Tier.t0]).findSome? fun t =>
    match p.overPages.find? fun kv => kv.2.1 == t && kv.2.2 < 16 with
    | some kv => some (t, kv.1, false)
    | none => (p.overPageAt t).map fun k => (t, k, true)
/-- Put a node into its chain; none where the chain is full or no overflow bucket can be had. A chain that holds a key of an equal-time
domain lies in T0 whole: its overflow buckets come from T0, and such a key finds no place in a chain that already has a bucket elsewhere
(R106; DEDUCED, log entry 152). -/
def Partition.indexAdd (p : Partition) (et : BitVec 16 → Bool) (key : Key128) (dom : BitVec 16) (n : Nat) : Option Partition :=
  let b := p.bucketOf key
  let c := p.index.getD b ⟨[⟨[], .t0, 0⟩], false⟩
  if et dom && c.buckets.any (fun k => k.tier != .t0) then none
  else match c.buckets.findIdx? fun k => k.ents.length < 7 with
  | some i =>
    some { p with index := p.index.put b { c with buckets := listSet c.buckets i fun k => { k with ents := k.ents ++ [n] } } }
  | none =>
    if c.buckets.length ≥ 4 then none
    else
      let t0 := et dom || c.buckets.any fun k => k.ents.any fun e => (p.nodes.find e).any fun nd => et nd.domain
      (p.overflowPlace t0).map fun pl =>
        let cnt := (p.overPages.getD pl.2.1 (pl.1, 0)).2
        let p := if pl.2.2 then p.allocated pl.1 4096 else p
        { p with index := p.index.put b { c with buckets := c.buckets ++ [⟨[n], pl.1, pl.2.1⟩] }
                 overPages := p.overPages.put pl.2.1 (pl.1, cnt + 1) }
/-- Every chain anew from the LIVE nodes, in slot order: the number of primary buckets has changed. A node that finds no place cannot be
reached (R106, R107). -/
def Partition.rehash (p : Partition) (et : BitVec 16 → Bool) : Partition :=
  (p.nodes.filter fun kv => !kv.2.lost).foldl (fun t kv => (t.indexAdd et kv.2.key kv.2.domain kv.1).getD t)
    { p with index := [], overPages := [] }

/-! ### Lookup (05 R111, Table 5-8) -/

/-- Does a shadow verify, and which node of which partition does it name? -/
def State.verifyHit (s : State) (row : Nat) (key : Key128) (dom model : BitVec 16) : Option (Part × Nat) × Bool :=
  match s.cam.shadows.find row with
  | none => (none, false)
  | some sh =>
    if sh.scrc ≠ shadowCrc sh.key sh.domain sh.model sh.node || sh.key ≠ key || sh.domain ≠ dom || sh.model ≠ model
    then (none, false)
    else
      let o : Part := Fin.ofNat 16 (hPart sh.node)
      match s.prt o with
      | none => (none, false)
      | some t =>
        if (t.checkHandle o none kNode sh.node).isSome then (none, false)
        else match t.nodes.find (hIndex sh.node) with
          | none => (none, false)
          | some nd =>
            if nd.lost then (none, false)
            else if nd.key ≠ key || nd.domain ≠ dom || nd.model ≠ model || (t.checkHandle o none kGroup nd.group).isSome
            then (none, true)
            else (some (o, hIndex sh.node), false)
/-- Count a lookup that returned a node; the count saturates (Table 5-4). -/
def State.hitNode (s : State) (o : Part) (n : Nat) : State :=
  s.updP o fun t => { t with nodes := t.nodes.upd n fun d => { d with hits := min (2 ^ 32 - 1) (d.hits + 1) } }
/-- Look up one key: the CAM, then on a miss or a failed verification the index chains, the requesting partition's own
before the owner's. It answers the node found and whose it is. -/
def State.lookup (s : State) (p : Part) (dom model : BitVec 16) (key : Key128) : State × Option (Part × Nat) :=
  match s.domain? dom with
  | none => (s.count p cLookups, none)
  | some d =>
    if d.st ≠ .active then (s.count p cLookups, none)
    else
      let s := s.count p cLookups
      let owner : Part := Fin.ofNat 16 (domOwner dom)
      let seg := segOf key
      let own := s.getP p [] fun t => t.camRows seg
      let oth := if d.cross && owner ≠ p then s.getP owner [] fun t => t.camRows seg else []
      let byIndex := fun (s : State) =>
        match s.getP p none fun t => t.indexFind key dom model with
        | some n => (((s.count p cIndexHits).hitNode p n).camFill p n, some (p, n))
        | none =>
          if d.cross && owner ≠ p then
            match s.getP owner none fun t => t.indexFind key dom model with
            -- the row goes to the owner, whose node it is (DEDUCED, log entry 151)
            | some n => (((s.count p cIndexHits).hitNode owner n).camFill owner n, some (owner, n))
            | none => (s, none)
          else (s, none)
      let row := if s.cam.disabled.contains seg then none
        else match s.cam.search own key dom model with
          | some r => some r
          | none => s.cam.search oth key dom model
      match row with
      | none => byIndex s
      | some r =>
        match s.verifyHit r key dom model with
        | (some (o, n), _) =>
          -- a match of the requesting partition's own table goes before the owner's (R111)
          if o ≠ p then
            match s.getP p none fun t => t.indexFind key dom model with
            | some m => (((s.count p cIndexHits).hitNode p m).camFill p m, some (p, m))
            | none =>
              let s := { s with cam := { s.cam with rows := s.cam.rows.upd r fun w => { w with ref := true } } }
              ((s.count p cCamHits).hitNode o n, some (o, n))
          else
            let s := { s with cam := { s.cam with rows := s.cam.rows.upd r fun w => { w with ref := true } } }
            ((s.count p cCamHits).hitNode o n, some (o, n))
        | (none, clearRes) =>
          let nodeH := (s.cam.shadows.find r).map (·.node)
          let s := { s with cam := s.cam.kill r }.count p cFalseHits
          let s := match clearRes, nodeH with
            | true, some h => s.updP (Fin.ofNat 16 (hPart h)) fun t =>
                { t with nodes := t.nodes.upd (hIndex h) fun n => { n with camRow := none } }
            | _, _ => s
          byIndex s

/-! ### Insertion (05 R105, Table 5-5) -/

/-- Groups that a partition's own nodes of a domain name (R117). -/
def Partition.etGroups (p : Partition) (dom : BitVec 16) : Nat :=
  ((p.nodes.filter fun kv => kv.2.domain == dom && !kv.2.imported).map fun kv => kv.2.group).eraseDups.length
/-- Insert a node for a full group, or refuse it under Table 5-5. -/
def State.insertNode (s : State) (p : Part) (g : Nat) (key : Key128) (dom model : BitVec 16) (block : Nat)
    (parent : Handle) (imported : Bool) : State :=
  match s.domain? dom, s.prt p, s.group? p g with
  | some d, some t, some gr =>
    if dom = 0 || d.st ≠ .active then s
    else if (t.indexFind key dom model).isSome || t.nodes.any (fun kv =>
        kv.2.key == key && kv.2.domain == dom && kv.2.model == model && !kv.2.lost) then s.count p cInsertRefused
    else if d.equalTime && domOwner dom = p.val && t.etGroups dom ≥ d.etMax then s.count p cInsertRefused
    else if gr.refcount ≥ 65535 then s.count p cInsertRefused
    else
      match t.newSlot p kNode with
      | none => s.count p cInsertRefused
      | some n =>
        match t.indexAdd s.isEt key dom n with
        | none => s.count p cInsertRefused
        | some t1 =>
          let nd : Node := { h := t.handleOf p kNode n, key := key, parent := parent, group := gr.h, domain := dom
                             model := model, block := block, imported := imported, camRow := none, hits := 0, lost := false }
          let s := s.updP p fun _ => { t1 with nodes := t1.nodes.put n nd }
          (((s.refUp p g).count p cInserts).camFill p n)
  | _, _, _ => s

/-- A node under a key in a partition's table. -/
def Partition.nodeOf (p : Partition) (key : Key128) (dom model : BitVec 16) : Handle :=
  ((p.nodes.find? fun kv => kv.2.key == key && kv.2.domain == dom && kv.2.model == model && !kv.2.lost).map (·.2.h)).getD 0

/-! ### Token history and block keys (08 R430, 05 R102) -/

/-- The area of a sequence in its session's token history: its first byte and its words (08 R430). -/
def Partition.historyArea (p : Partition) (sq : Sequence) : Option (Nat × Nat × Nat) :=
  (p.sessions.find (hIndex sq.sess)).bind fun ss =>
    (p.regions.find (hIndex ss.history)).map fun r =>
      (hIndex ss.history, (ss.seqs.findIdx (· == sq.h)) * (r.size / 4), r.size / 16)
/-- The token of a position (08 R430). -/
def Partition.token (p : Partition) (sq : Sequence) (pos : Nat) : Nat :=
  match p.historyArea sq with
  | some (ri, base, _) => ((p.regions.find ri).map fun r => leNat (r.data.rd (base + 4 * pos) 4)).getD 0
  | none => 0
/-- Write a token of a position. -/
def Partition.setToken (p : Partition) (sq : Sequence) (pos tok : Nat) : Partition :=
  match p.historyArea sq with
  | some (ri, base, _) =>
    { p with regions := p.regions.upd ri fun r => { r with data := r.data.wr (base + 4 * pos) (toLe tok 4) } }
  | none => p
/-- The length limit of a sequence (06 R143). -/
def Partition.limit (p : Partition) (sq : Sequence) : Nat :=
  let l := if p.compat then 1048576 else 262144
  match p.historyArea sq with
  | some (_, _, words) => min l (words - 1)
  | none => l
/-- The key of block `b`, out of the key column, or recomputed along the chain where the column has lost it (R102). -/
def State.keyOf (s : State) (p : Part) (sq : Sequence) (dom model : BitVec 16) : Nat → Key128
  | 0 =>
    match sq.keys.find 0 with
    | some k => k
    | none => blockKey (s.domKey dom) 0 model
        ((List.range 64).map fun i => BitVec.ofNat 32 (s.getP p 0 fun t => t.token sq i))
  | b + 1 =>
    match sq.keys.find (b + 1) with
    | some k => k
    | none => blockKey (s.domKey dom) (State.keyOf s p sq dom model b) model
        ((List.range 64).map fun i => BitVec.ofNat 32 (s.getP p 0 fun t => t.token sq (64 * (b + 1) + i)))

end Sys2Proof.Machine
end

