-- ==== Sys2Proof/Machine/Sessions.lean ====
section
/-! DEFINITION. Journal records, the ends of requests, parking, closing and expiry of sessions, and the out-of-page
order, which may park one (spec 04 R94, 08 R187, 09 R196 to R200, 13 R313 to R317). -/

namespace Sys2Proof.Machine

/-! ### The journal reserve (10 R215, R230) -/

/-- Pages of a journal's superblocks: used, and in all. -/
def State.journalPages (s : State) (j : Nat) : Nat × Nat :=
  let bs := (s.flash.sbs.filter fun kv => kv.2.stream == 0 && kv.2.part == j).map (·.2)
  ((bs.map (·.used)).sum, (bs.map fun b => b.rows * (b.members.length / 2)).sum)
/-- Is the tier READ_ONLY with less than one eighth of a journal's reserve free (10 Table 10-11)? -/
def State.journalShort (s : State) (j : Nat) : Bool :=
  let n := s.journalPages j
  s.flashRO && n.2 != 0 && decide (8 * n.1 > 7 * n.2)

/-! ### Token counts and images of sessions -/

/-- A session's token count: committed and pending positions of its sequences (01 Table 1-8). -/
def Partition.tokenCount (p : Partition) (ss : Session) : Nat :=
  (ss.seqs.map fun h => ((p.sequences.find (hIndex h)).map fun q =>
    if q.h = h then q.committed + q.rc else 0).getD 0).sum
/-- The sequences of a session, by slot. -/
def Partition.seqsOf (p : Partition) (ss : Session) : Tab Sequence :=
  p.sequences.filter fun kv => ss.seqs.contains kv.2.h
/-- The authoritative state of a session as a record leaves it. -/
def Partition.sessImage (p : Partition) (ss : Session) : SessImage :=
  { sess := ss, seqs := p.seqsOf ss
    regions := (p.regions.filter fun kv => kv.2.h == ss.history || kv.2.h == ss.sampler || kv.2.h == ss.scratch).map
      fun kv => (kv.1, kv.2.data)
    tenant := ss.tenant, level := ((p.tenants.find ss.tenant).map (·.level)).getD 0 }
/-- Write a session's record, which carries its token count; the session's `committed_tokens` follows once the record is durable
(01 Table 1-8, 03 Table 3-9). It answers the record's number. -/
def State.sessRecord (s : State) (p : Part) (idx jtype step : Nat) : State × Nat :=
  match s.sess? p idx with
  | none => (s, 0)
  | some ss =>
    let im := (s.prt p).map fun t => t.sessImage { ss with committedTokens := t.tokenCount ss % 2 ^ 32 }
    s.jwrite p.val jtype step ss.h (.session idx im)

/-! ### Ends of requests (08 R187) -/

/-- The words of a final completion (Table 8-10). -/
def finalWord (reason index emitted : Nat) : Word := BitVec.ofNat 64 (reason + 256 * index + 2 ^ 32 * emitted)
/-- Host commands by opcode (03 Table 3-5). -/
def ocRequest := 0x01
def ocRun := 0x02
def ocCancel := 0x03
def ocAbort := 0x04
def ocClockadv := 0x05
def ocProgLoad := 0x10
def ocProgPlace := 0x11
def ocProgUnload := 0x12
def ocQueueSet := 0x13
/-- End a command that no admitted request stands behind: a REQUEST's final completion has the words of Table 8-10 all the same,
with no seed drawn yet. -/
def State.endCmd (s : State) (p : Part) (q : Nat) (cid : BitVec 16) (st : Status) (reason : Nat) (step : Nat := 0) : State :=
  if (s.prt p).any fun t => (t.liveOf q cid).any fun l => l.ent.opcode == ocRequest then
    s.finish p q cid st (finalWord reason 0 0) 0 step
  else s.finish p q cid st 0 0 step
/-- Requests still live on a session. -/
def Partition.reqsOf (p : Partition) (sess : Nat) : List Live :=
  p.live.filter fun l => (l.req.any fun r => r.sess == sess) && !l.ended
/-- Does a session run: is a scheduled request of it live? RUNNING returns to OPEN with the last (01 Table 1-10). -/
def Partition.settleRunning (p : Partition) (sess : Nat) : Partition :=
  { p with sessions := p.sessions.upd sess fun r =>
      if r.st = .running && (p.reqsOf sess).isEmpty then { r with st := .opened } else r }
/-- End a request with its one final completion; its sequence returns to IDLE (Table 1-11). -/
def State.endReq (s : State) (p : Part) (q : Nat) (cid : BitVec 16) (st : Status) (reason : Nat) (index : Nat := 0)
    (step : Nat := 0) (word : Option Word := none) : State :=
  match (s.prt p).bind fun t => t.liveOf q cid with
  | none => s
  | some l =>
    match l.req with
    | none => s.endCmd p q cid st reason step
    | some r =>
      let s := if st = .late then s.count p cDeadlineMisses else s
      let s := s.finish p q cid st (word.getD (finalWord reason index r.emitted.length)) r.seed step
      let s := s.updSeq p r.seq fun sq => { sq with st := .idle, held := false }
      s.updP p fun t =>
        { t.settleRunning r.sess with
          prompts := t.prompts.filter fun k => k ≠ (q, cid)
          due := t.due.filter fun d => !(d.q == q && d.cid == cid && d.kind ≤ 2)
          revivals := t.revivals.mapV fun _ v => { v with waiters := v.waiters.filter (· ≠ (q, cid)) }
          waves := (t.waves.map fun w => { w with lanes := w.lanes.map fun a =>
            if a.q = q ∧ a.cid = cid ∧ a.step.isNone then { a with squashed := a.squashed.or (some st), ended := true } else a }).filter
              fun w => w.lanes.any fun a => !a.ended }

/-! ### Freeing sequences and sessions (01 R21) -/

/-- Free a sequence: its references are dropped and its slot's generation advances. -/
def State.freeSeq (s : State) (p : Part) (i : Nat) : State :=
  match s.seq? p i with
  | none => s
  | some sq =>
    let s := s.forEach sq.table fun s e => if e.2 = 0 then s else s.refDown p (hIndex e.2)
    s.updP p fun t =>
      { t with sequences := t.sequences.del i
               sessions := t.sessions.upd (hIndex sq.sess) fun r =>
                 { r with seqs := r.seqs.map fun h => if h = sq.h then 0 else h } }.bumpGen kSequence i
/-- The bytes of a window region as its extent memory holds them once the region is gone: the device's, and over them what the host
has written since the last sync. -/
def Region.toWindow (r : Region) (w : Bytes) : Bytes :=
  let base := w.filter fun c => c.1 < r.dpa || r.dpa + r.size ≤ c.1
  let base := r.data.foldl (fun m c => Bytes.wr1 m (r.dpa + c.1) c.2) base
  r.newer.foldl (fun m kv => m.wr (r.dpa + 64 * kv.1) kv.2) base
/-- Free a region: the slot's and the key's generation advance (01 Table 1-13). -/
def State.freeRegion (s : State) (p : Part) (i : Nat) : State :=
  match s.getP p none fun t => t.regions.find i with
  | some r =>
    let s := (s.unmap p (.region r.h)).unmap p (.image r.h)
    s.updP p fun t =>
      let ld := match t.regions.find i with
        | some r => if r.home = 3 then { t.ld with window := r.toWindow t.ld.window } else t.ld
        | none => t.ld
      { t with regions := t.regions.del i, ld := ld }.bumpGen kRegion i
  | none => s
/-- A promotion that nothing else wants, of at most a priority's rank, whose copy has not begun is cancelled. -/
def State.cancelPromotion (s : State) (p : Part) (prio g : Nat) : State :=
  match s.group? p g, s.copyOf p (.promote g) with
  | some r, some c =>
    if r.move = .promoting && r.pins = 0 && !c.begun && c.prio ≤ prio then
      (s.dropCopies p fun c => c.kind == .promote g).updGroup p g fun r =>
        { r with move := .idle, ppin := false, quad := r.quad0, frame := 0, run := 0, reviving := false }
    else s
  | _, _ => s
/-- Stop a revival that has not committed (Table 9-4): its copies that have not begun are cancelled, its pins and
promotion pins go, a session that was REVIVING is PARKED again with its former deadline, and each of its waiters completes
with a status; the requests among them may be left to another rule. -/
def State.stopRevival (s : State) (p : Part) (sess : Nat) (st : Status) (reqs : Bool := true) : State :=
  match (s.prt p).bind fun t => t.revivals.find sess with
  | none => s
  | some rv =>
    if rv.committed then s
    else
      let num := rv.step.getD 0
      let pins := s.getP p [] fun t => ((t.steps.find num).map (·.pins)).getD []
      let s := s.updP p fun t =>
        { t with revivals := t.revivals.del sess
                 steps := t.steps.del num
                 due := t.due.filter fun d => !(d.kind == 4 && d.lane == sess)
                 hgEarly := t.hgEarly.filter fun e => !(t.sequences.any fun kv => hIndex kv.2.sess == sess && kv.2.hgSeq == e.2.1)
                 reserves := t.reserves.filter fun x => x.me ≠ num
                 parked := if (t.sessions.find sess).any (fun r => r.st == .reviving) then t.parked ++ [sess] else t.parked
                 sessions := t.sessions.upd sess fun r =>
                   if r.st = .reviving then { r with st := .parked, ttl := rv.oldTtl } else r }
      let s := s.forEach pins fun s g => s.unpin p g
      let s := s.forEach rv.promos fun s g => s.cancelPromotion p 2 g
      s.forEach rv.waiters fun s w =>
        if s.getP p false fun t => (t.liveOf w.1 w.2).any fun l => l.req.isSome then
          (if reqs then s.endReq p w.1 w.2 st 9 else s)
        else s.finish p w.1 w.2 st
/-- A step whose completions wait for a record takes its number (03 R65). -/
def State.recFor (s : State) (p : Part) (step j : Nat) : State :=
  s.updP p fun t => { t with steps := t.steps.upd step fun k => { k with recJseq := some (max j (k.recJseq.getD 0)) } }
/-- Has a step logged the park or the close of a session? -/
def Step.leaves (k : Step) (i : Nat) : Bool :=
  k.log.any fun o => match o with
    | .park n _ => n == i
    | .close n => n == i
    | _ => false
/-- The wave or row of a due step. -/
def Partition.dueWave (t : Partition) (d : Due) : Option (Wave × Lane) :=
  (t.waves.find? fun w => w.batch == d.batch && w.row == (d.kind == 1) && w.fetch == (d.kind == 3)
      && (w.lanes[d.lane]?).any fun l => l.q == d.q && l.cid == d.cid && l.step.isNone && !l.ended).bind fun w =>
    (w.lanes[d.lane]?).map fun l => (w, l)
/-- The sequence a due step opens on. -/
def Partition.dueSeq (t : Partition) (d : Due) : Option Nat :=
  if d.kind = 0 then
    (t.liveOf d.q d.cid).bind fun l => match l.req with
      | some r => some r.seq
      | none => if hKind l.ent.handle1 = kSequence then some (hIndex l.ent.handle1) else none
  else (t.dueWave d).bind fun w => w.2.seq
/-- Is a step that a request, a wave or a row has issued on a session still due (09 R196)? A due RUN is not the session's, and a revival
is no step that a park waits for. -/
def Partition.dueOn (t : Partition) (i : Nat) : Bool :=
  t.due.any fun d => d.kind != 4 && (d.kind != 0 || (t.liveOf d.q d.cid).any fun l => l.req.isSome)
    && ((t.dueSeq d).bind t.sequences.find).any fun sq => hIndex sq.sess == i
/-- Does a session have a step in flight, other than one of that number, or one that is issued and has not opened? A step past its commit point that waits for the
session's own park or close does not count: it is that park or close that waits for the others. -/
def Partition.sessBusy (p : Partition) (i : Nat) (but : Nat := 0) : Bool :=
  p.dueOn i || p.steps.any fun kv => kv.1 != but && !(kv.2.st == .applied && kv.2.leaves i)
    && (kv.2.sess == some i && kv.2.kind != 0 || (kv.2.seq.any fun q =>
      (p.sequences.find q).any fun sq => hIndex sq.sess == i))
/-- Every step past its commit point that has logged the park or the close of a session, and still has no record to wait for,
waits for this one. -/
def State.recLeavers (s : State) (p : Part) (i j : Nat) : State :=
  s.updP p fun t => { t with steps := t.steps.mapV fun _ k =>
    if k.st == .applied && k.recDue && k.recJseq.isNone && k.leaves i then { k with recJseq := some j } else k }
/-- Free a session with its sequences and authoritative regions in one action, report it in one event, and end its
live requests with STALE_KEY and reason 5 (R21, 09 R200). -/
def State.freeSession (s : State) (p : Part) (i : Nat) (event step : Nat) : State × Nat :=
  match s.sess? p i with
  | none => (s, 0)
  | some ss =>
    let s := s.stopRevival p i (if event = evSessionExpired then .staleKey else .aborted) false
    let s := s.forEach (s.getP p [] fun t => t.reqsOf i) fun s l => s.endReq p l.q l.ent.cid .staleKey 5
    let s := s.forEach (s.getP p [] fun t => (t.seqsOf ss).map (·.1)) fun s k => s.freeSeq p k
    let s := s.forEach [ss.history, ss.sampler, ss.scratch] fun s h => if h = 0 then s else s.freeRegion p (hIndex h)
    let s := s.updP p fun t =>
      { t with sessions := t.sessions.del i, parked := t.parked.filter (· ≠ i) }.bumpGen kSession i
    let s := s.event p event 0 ss.h 0
    let r := s.jwrite p.val jClose step ss.h (.session i none)
    (((r.1.recFor p ((ss.pendPark.map (·.by_)).getD 0) r.2).recFor p (ss.pendClose.getD 0) r.2).recLeavers p i r.2, r.2)
/-- Expire the parked sessions whose deadline the clock has reached: ascending deadline, then slot index (09 R200). -/
def State.expire (s : State) (p : Part) : State :=
  let due := s.getP p [] fun t =>
    sortBy (fun (a b : Nat × Session) => a.2.ttl < b.2.ttl || (a.2.ttl == b.2.ttl && a.1 ≤ b.1))
      (t.sessions.filter fun kv => kv.2.st == .parked && kv.2.ttl != 0 && kv.2.ttl ≤ t.clock)
  s.forEach due fun s kv => ((s.freeSession p kv.1 evSessionExpired 0).1).count p cExpiries

/-! ### Parking (09 R196 to R199) -/

/-- Demote the unshared groups of a parked session at once (09 R199): `demote` 1 to the target of Table 4-2, 2 to T2,
in descending block order, skipping busy or pinned groups. -/
def State.parkDemote (s : State) (p : Part) (i demote : Nat) : State :=
  if demote ≠ 1 ∧ demote ≠ 2 then s
  else
    match s.sess? p i with
    | none => s
    | some ss =>
      let hs := s.getP p [] fun t => ((t.seqsOf ss).map fun kv => kv.2.table.reverse.map (·.2)).flatten
      s.forEach hs fun s h =>
        match s.group? p (hIndex h) with
        | none => s
        | some g =>
          if g.h = h && g.refcount = 1 && !g.pinned && g.move = .idle && !(s.getP p false fun t => t.etPinned s.isEt g) &&
              (g.tier = .t0 || (demote = 2 && (g.tier = .t1b || g.tier = .t1h)))
          then
            (if demote = 1 && g.tier = .t0 && g.dirtyCount = 0 && g.backing.isSome &&
                g.backing = s.getP p none (fun t => some t.demotionTarget)
             then s.freeFrame p (hIndex h) else s.demote p (hIndex h) (demote = 2) 5)
          else s
/-- Park a session now (09 R196): state, reason, deadline, list entry, coarse indexes discarded, a PARK record; under
pressure its live requests end (R197). `fresh` says that it is a park even where the session is PARKED already, since the park has stopped
its revival (Table 9-4), and no update of one (R198); `now` that its groups are demoted at once. It answers the record's number. -/
def State.parkNow (s : State) (p : Part) (i : Nat) (a : ParkArgs) (step : Nat) (fresh now : Bool) : State × Nat :=
  match s.sess? p i with
  | none => (s, 0)
  | some ss =>
    let clock := s.getP p 0 (·.clock)
    let upd := ss.st == .parked && !fresh
    let s := s.updP p fun t =>
      { t with
        sessions := t.sessions.upd i fun r =>
          { r with st := .parked
                   parkReason := if upd then r.parkReason else a.reason
                   ttl := if a.ttl = 0 then 0 else min (2 ^ 64 - 1) (clock + a.ttl)
                   parkedAt := if upd then r.parkedAt else clock
                   resumeHint := a.hint
                   pflags := 16 * a.demote + 4 * (if upd then r.parkReason else a.reason) + (if upd then r.pflags % 4 else 0)
                   pendPark := none, preRevived := if upd then r.preRevived else false }
        sequences := t.sequences.mapV fun _ q => if ss.seqs.contains q.h then { q with coarse := [], summaries := [] } else q
        parked := if upd then t.parked else t.parked.filter (· ≠ i) ++ [i] }
    let s := if upd then s else s.count p cParks
    let s := if a.reason = 2 && !upd then
        (s.forEach (s.getP p [] fun t => t.reqsOf i) fun s l => s.endReq p l.q l.ent.cid .parkedByPressure 5).count p cPressureParks
      else s
    let r := s.sessRecord p i jPark step
    let s := (r.1.recFor p a.by_ r.2).recLeavers p i r.2
    (if now then s.parkDemote p i a.demote else s, r.2)
/-- Park a victim of stage 6: now when it has no step in flight, else at its next boundary (04 R94). -/
def State.pressurePark (s : State) (p : Part) (i : Nat) : State :=
  let a : ParkArgs := ⟨2, 0, 0, 0, 0, 0⟩
  let s := match s.sess? p i with
    | some ss => s.statusEvent p .parkedByPressure ss.h 0
    | none => s
  if s.getP p false fun t => t.sessBusy i then s.updSess p i fun r => { r with pendPark := some a }
  else (s.parkNow p i a 0 true true).1

/-! ### The out-of-page order, stages 3 to 7 (04 Table 4-14) -/

/-- Blocks of a candidate. -/
def Partition.candBlocks (p : Partition) (c : Cand) : Nat :=
  ((p.groups.find c.slot).map fun g => (p.groupFrame g).1 + (p.groupFrame g).2).getD 0
/-- Stages 4 to 6 in one quadrant, each adding its freed space to the reservation. -/
def State.stage4 (s : State) (p : Part) (r : FrameReq) (q : Nat) : State :=
  s.evictUntil p r q (s.getP p [] fun t =>
    (t.winnowOrder s.isEt .t0 t.winnowMinAge).filter fun c => (t.groups.find c.slot).any fun g => g.quad == q)
def State.stage5 (s : State) (p : Part) (r : FrameReq) (q : Nat) : State :=
  s.forEach (s.getP p [] (·.parkedOldest)) fun s i =>
    if s.enough p r q then s
    else s.evictUntil p r q (s.getP p [] fun t =>
      ((t.sessions.find i).map fun ss => t.privateGroups s.isEt ss (some q) false).getD [])
/-- Blocks that a parking victim will release at its boundary. -/
def Partition.parkingSoon (p : Partition) (et : BitVec 16 → Bool) (q : Nat) : Nat :=
  (p.sessions.map fun kv => if kv.2.pendPark.any (fun a => a.reason == 2) then
    ((p.privateGroups et kv.2 (some q) true).map fun c => p.candBlocks c).sum else 0).sum
/-- Is the frame there, or will moves for it and victims that still have to reach their boundary bring it? -/
def State.enough6 (s : State) (p : Part) (r : FrameReq) (q : Nat) : Bool :=
  s.enough p r q || s.getP p false fun t =>
    t.parkingSoon s.isEt q ≠ 0 && t.freeBlocks q r.me + t.incoming q r.me + t.parkingSoon s.isEt q ≥ r.fb + r.rb
/-- Stage 6: a victim is parked at its next step boundary, and its groups go from that boundary on, at once where it has no step in
flight. -/
def State.stage6 (s : State) (p : Part) (r : FrameReq) (q : Nat) : State :=
  s.forEach (s.getP p [] fun t => t.victims s.isEt r.sess q) fun s i =>
    if s.enough6 p r q then s
    else
      let s := s.pressurePark p i
      if (s.sess? p i).any fun ss => ss.st == .parked then
        s.evictUntil p r q (s.getP p [] fun t =>
          ((t.sessions.find i).map fun ss => t.privateGroups s.isEt ss (some q) false).getD [])
      else s
/-- One stage over the quadrants, home first, until one holds a frame. -/
def State.overQuads (s : State) (p : Part) (r : FrameReq) (f : State → Nat → State) : State :=
  s.forEach (s.getP p [] fun t => t.tryQuads r.home) fun s q => if s.enough p r q then s else f s q
/-- The first quadrant that holds, or will hold, the frame. -/
def State.yields (s : State) (p : Part) (r : FrameReq) : Option Nat :=
  (s.getP p [] fun t => t.tryQuads r.home).find? fun q =>
    s.enough p r q || (!r.noPark && s.enough6 p r q)
/-- Under what number a step holds the T0 space of regions that it has made and not committed. -/
def regionHold (num : Nat) : Nat := num + 2 ^ 64
/-- Release a waiter's reservation. -/
def State.unreserve (s : State) (p : Part) (me : Nat) : State :=
  s.updP p fun t => { t with reserves := t.reserves.filter fun x => x.me ≠ me }
/-- Blocks of a quadrant that came free for an allocation join its reservation there; where it has none any more they are free
(R94). -/
def State.giveBlocks (s : State) (p : Part) (q me : Nat) (runs : List (Nat × Nat)) : State :=
  s.updP p fun t => { t with reserves := t.reserves.map fun (x : Reserve) =>
    if x.me = me && x.quad = q then { x with runs := x.runs ++ runs } else x }
/-- An allocation waits: it keeps its place among those that wait and what it holds, or joins behind them (R94). -/
def State.await (s : State) (p : Part) (r : FrameReq) (q : Nat) : State :=
  s.updP p fun t =>
    if t.reserves.any fun x => x.me == r.me then
      { t with reserves := t.reserves.map fun (x : Reserve) => if x.me = r.me && x.quad ≠ q then { x with quad := q, runs := [] } else x }
    else { t with reserves := t.reserves ++ [⟨r.me, q, r.fb, r.rb, []⟩] }

/-- Runs of a quadrant that groups held before and hold no longer. -/
def Partition.freedRuns (t : Partition) (after : Partition) (q : Nat) : List (Nat × Nat) :=
  (t.groups.filterMap fun kv =>
    if kv.2.quad = q && kv.2.hasFrame && !((after.groups.find kv.1).any fun g => g.h == kv.2.h && g.hasFrame)
    then some [(kv.2.frame, (t.groupFrame kv.2).1), (kv.2.run, (t.groupFrame kv.2).2)] else none).flatten
/-- Allocate a T0 frame under Table 4-14. A frame found is not yet taken; `wait` leaves a reservation for `me`. -/
def State.allocFrame (s : State) (p : Part) (r : FrameReq) : State × FrameRes :=
  match s.getP p none fun t => t.stage12 r with
  | some (q, f, m) => (s.unreserve p r.me, .frame q f m)
  | none =>
    -- stage 3: enough free units in one owned quadrant, but no run
    match (s.getP p [] fun t => t.tryQuads r.home).find? fun q =>
        s.getP p false fun t => t.freeBlocks q r.me ≥ r.fb + r.rb && !(t.relocatable q).isEmpty with
    | some q =>
      ((s.relocate p q r.me).await p r q, .wait)
    | none =>
      let s := s.count p cOopWaits
      let s0 := s
      let s := s.overQuads p r fun s q => s.stage4 p r q
      let s := s.overQuads p r fun s q => s.stage5 p r q
      let s := if r.noPark then s else s.overQuads p r fun s q => s.stage6 p r q
      match s.getP p none fun t => t.stage12 r with
      | some (q, f, m) => (s.unreserve p r.me, .frame q f m)
      | none =>
        match s.yields p r with
        | some q =>
          let s1 := s.await p r q
          -- what stages 4 to 6 have freed joins this reservation
          (s1.giveBlocks p q r.me (s0.getP p [] fun t => s1.getP p [] fun u => t.freedRuns u q), .wait)
        | none => (s.unreserve p r.me, .noPage)
/-! ### Promotion on demand (04 R90, R93) -/

/-- Take a frame for a group and start its promotion. -/
def State.startPromotion (s : State) (p : Part) (g q f m prio : Nat) : State :=
  match s.group? p g with
  | none => s
  | some r =>
    let bytes := s.getP p 0 fun t => t.groupBytes r
    let s := s.updP p fun t =>
      { t with groups := t.groups.upd g fun r =>
          { r with move := .promoting, ppin := true, dest := .t0, quad := q, quad0 := r.quad, frame := f, run := m, reviving := false } }.allocated .t0
        (4096 * ((t.groupFrame r).1 + (t.groupFrame r).2))
    s.addCopy (pathKey r.tier q) p (.promote g) prio bytes
/-- What happened to a group that a step or a promotion met (Table 4-12). -/
inductive Met where
  | ready
  | moving
  | wait
  | noPage
  | lost
  deriving DecidableEq, Repr
/-- A group is homed in T1H when no range of it is left: it is dropped as it is reached (11 Table 11-2). -/
def State.dropUnreachable (s : State) (p : Part) (g : Nat) : State :=
  let h := ((s.group? p g).map (·.h)).getD 0
  let s := s.updP p fun t => { t with steps := t.steps.mapV fun _ k => { k with pins := k.pins.filter (· ≠ g) } }
  (s.event p evT1hRangeFailed 0 h 0).dropGroup p g
/-- Is a group homed in T1H with no range left to read it from? -/
def State.unreachable (s : State) (p : Part) (g : Nat) : Bool :=
  (s.group? p g).any fun r => r.tier == .t1h && r.move == .idle && s.getP p false fun t => t.t1hDead
/-- A promotion meets a group: Table 4-12, without the step pin. -/
def State.meet (s : State) (p : Part) (g : Nat) (home prio : Nat) (me : Nat) (sess : Option Nat) (noPark : Bool) :
    State × Met :=
  match s.group? p g with
  | none => (s, .ready)
  | some r =>
    if r.tier = .t0 && r.move = .idle then (s, .ready)
    else if r.move = .promoting then (s.hurry p (.promote g) prio, .moving)
    else if r.move = .demoting && r.tier = .t0 && r.dest = .t0 then (s, .ready)      -- a relocation
    else if r.move = .demoting && r.tier = .t0 then
      if !r.copyOut then
        -- the demotion is cancelled; dirty bits stand
        ((s.dropCopies p fun c => c.kind == .demote g).updGroup p g fun r => { r with move := .idle }, .ready)
      else (s.updGroup p g fun r => { r with cancelFree := true }, .moving)
    else if r.move = .demoting then
      -- a demotion between outer tiers: cancelled before it has begun, else waited for (DESIGN CHOICE, log entry 145)
      if !r.copyOut then
        let s := (s.dropCopies p fun c => c.kind == .demote g).updGroup p g fun r => { r with move := .idle }
        let fr := s.getP p (0, 0) fun t => t.groupFrame r
        match s.allocFrame p ⟨me, home, fr.1, fr.2, sess, noPark⟩ with
        | (s, .frame q f m) => (s.startPromotion p g q f m prio, .moving)
        | (s, .wait) => (s, .wait)
        | (s, .noPage) => (s, .noPage)
      else (s, .wait)
    else if s.unreachable p g then (s.dropUnreachable p g, .lost)
    else
      let fr := s.getP p (0, 0) fun t => t.groupFrame r
      match s.allocFrame p ⟨me, home, fr.1, fr.2, sess, noPark⟩ with
      | (s, .frame q f m) => (s.startPromotion p g q f m prio, .moving)
      | (s, .wait) => (s, .wait)
      | (s, .noPage) => (s, .noPage)

end Sys2Proof.Machine
end

