-- ==== Sys2Proof/Machine/Operands.lean ====
section
/-! DEFINITION. The operands of a Criet instruction: registers of a context, local addresses, immediates (16 R365, R370,
R372; 03 R53, R54). -/

namespace Sys2Proof.Machine

/-- A list of `n` values with one position replaced; positions that the list lacks hold `d`. -/
def setAt {α : Type} (n : Nat) (d : α) (l : List α) (i : Nat) (v : α) : List α :=
  (List.range n).map fun j => if j = i then v else l.getD j d

/-- A general register; g0 reads zero (R365). -/
def Ctx.rg (c : Ctx) (r : GReg) : Word := if r = 0 then 0 else c.g.getD r.val 0
/-- Write a general register; a write to g0 is discarded (R365). -/
def Ctx.wg (c : Ctx) (r : GReg) (v : Word) : Ctx := if r = 0 then c else { c with g := setAt 32 0 c.g r.val v }
/-- A flag register; f0 reads true (R365). -/
def Ctx.rf (c : Ctx) (r : FReg) : Bool := r = 0 || c.f.getD r.val false
/-- Write a flag register; a write to f0 is discarded (R365). -/
def Ctx.wf (c : Ctx) (r : FReg) (v : Bool) : Ctx := if r = 0 then c else { c with f := setAt 8 false c.f r.val v }
/-- A handle register. -/
def Ctx.rh (c : Ctx) (r : HReg) : Handle := c.h.getD r.val 0
/-- Write a handle register. -/
def Ctx.wh (c : Ctx) (r : HReg) (v : Handle) : Ctx := { c with h := setAt 16 0 c.h r.val v }

/-- A 32-bit immediate, sign-extended (16 R370). -/
def sext (imm : BitVec 32) : Word := imm.signExtend 64
/-- A 32-bit immediate, zero-extended (16 R370). -/
def zext (imm : BitVec 32) : Word := imm.zeroExtend 64

/-- A local address: ga + sext(imm), in 64 bits (16 R372). -/
def Ctx.addr (c : Ctx) (a : GReg) (imm : BitVec 32) : Nat := (c.rg a + sext imm).toNat
/-- The rows of the local address map (16 Table 16-7): the scratch window, and the running program's data section. -/
def inScratch (a n : Nat) : Bool := a + n ≤ 0x6000
def inData (data : List Byte) (a n : Nat) : Bool := 0x10000 ≤ a && a + n ≤ 0x10000 + data.length
/-- May `n` bytes be read at a local address, aligned to `al`? -/
def localOk (data : List Byte) (a n al : Nat) : Bool := a % al == 0 && (inScratch a n || inData data a n)
/-- May they be written? The data section is read-only. -/
def localWrOk (a n al : Nat) : Bool := a % al == 0 && inScratch a n

/-- A byte of local memory: the data section, a scratch byte that the step has written, or what the window happens to
hold (03 R54; log entry 6). -/
def Step.byteAt (k : Step) (data : List Byte) (a : Nat) : Byte :=
  if 0x10000 ≤ a then data.getD (a - 0x10000) 0 else (k.scratch.find a).getD (Config.freeScratch k.epoch a)
/-- `n` bytes of local memory. -/
def Step.peek (k : Step) (data : List Byte) (a n : Nat) : List Byte :=
  (List.range n).map fun i => k.byteAt data (a + i)
/-- Write bytes into the scratch window. -/
def Step.poke (k : Step) (a : Nat) : List Byte → Step
  | [] => k
  | b :: bs => Step.poke { k with scratch := k.scratch.put a b } (a + 1) bs

/-- The lowest `n` bits of a word. -/
def lowBits (w : Word) (n : Nat) : Nat := w.toNat % 2 ^ n

end Sys2Proof.Machine
end

