-- ==== Sys2Proof/Machine/Flags.lean ====
section
/-! DEFINITION. The flag computations: comparisons (16 Tables 16-3, 16-4), flag logic, and the status latch with f7
(03 R58, 16 R367, R368). -/

namespace Sys2Proof.Machine

/-- The six comparisons of opcodes 0x0D and 0x1A. -/
def cmpEq (a b : Word) : Bool := a == b
def cmpNe (a b : Word) : Bool := a != b
def cmpLt (a b : Word) : Bool := a.slt b
def cmpLtu (a b : Word) : Bool := a.ult b
def cmpLe (a b : Word) : Bool := a.sle b
def cmpLeu (a b : Word) : Bool := a.ule b

/-- The four flag operations of opcode 0x0E. -/
def flagAnd (a b : Bool) : Bool := a && b
def flagOr (a b : Bool) : Bool := a || b
def flagXor (a b : Bool) : Bool := a != b
def flagAndNot (a b : Bool) : Bool := a && !b

/-- Record a status: the latch takes its code and f7 becomes true (03 R58). -/
def Ctx.record (c : Ctx) (st : Status) : Ctx := { c.wf 7 true with latch := st.code }
/-- Clear the latch and f7, as RDSL does. -/
def Ctx.unlatch (c : Ctx) : Ctx := { c.wf 7 false with latch := 0 }

end Sys2Proof.Machine
end

