-- ==== Sys2Proof/Machine/Steps.lean ====
section
/-! DEFINITION. Steps: the messages of a head group, the end of a step and its squash, the walk of a block, and the
issue of one Criet instruction with run-ahead (spec 03 R57 to R63, 04 R84, R90, 06 R134, 16 R366 to R376, 17 R379 to
R381). -/

namespace Sys2Proof.Machine

/-! ### Messages that leave (06 R121) -/

/-- The 16 header bytes of a message, big-endian (Table 6-2). -/
def Msg.header (m : Msg) : List Byte :=
  toBe m.mtype.toNat 1 ++ toBe (b2n m.digest * 128 + m.ofmt.toNat * 4 + m.xfmt.toNat) 1 ++ toBe m.modelId.toNat 2
    ++ toBe m.batch 4 ++ toBe m.layer 2 ++ toBe m.count 2 ++ toBe m.bytes 4
/-- The collective digest of a message (13 R306). -/
def msgDigest (m : Msg) : Word :=
  BitVec.ofNat 64 (leNat (shake256 (ascii "SK7240-DGT" ++ Msg.header { m with digest := true } ++ m.body) 8))
/-- A message with its digest trailer when asked for (13 R306). -/
def mkMsg (mtype : Nat) (model : BitVec 16) (batch layer count : Nat) (body : List Byte) (digest : Bool := false)
    (ofmt xfmt : Nat := 0) : Msg :=
  let m : Msg := { mtype := BitVec.ofNat 8 mtype, digest := digest, ofmt := BitVec.ofNat 2 ofmt, xfmt := BitVec.ofNat 2 xfmt
                   modelId := model, batch := batch, layer := layer, count := count, bytes := body.length, body := body
                   sum := 0 }
  { m with sum := if digest then msgDigest m else 0 }

/-- A message's bytes: header, body, and the digest trailer where it has one. -/
def Msg.wire (m : Msg) : List Byte := Msg.header m ++ m.body ++ if m.digest then toLe m.sum.toNat 8 else []
/-- A work request of a message that the device sends on its own account. -/
def msgWork (bytes : List Byte) : WorkReq :=
  { id := 0, op := 1, final := true, trigOn := false, areq := false, rkey := 0, region := 0, loff := 0, roff := 0
    len := bytes.length, trig := 0, tag := 0, data := some bytes, chain := none, msgNum := 0, sent := 0, psn := 0, got := []
    status := .ok, acked := false }
/-- Put a work request behind the others of a queue pair; a SEND takes the next message number. -/
def Qp.push (q : Qp) (w : WorkReq) : Qp :=
  { q with work := q.work ++ [{ w with id := q.nextId, msgNum := if w.op = 1 then q.msgOut else 0 }]
           nextId := q.nextId + 1, msgOut := if w.op = 1 then (q.msgOut + 1) % 2 ^ 32 else q.msgOut }
/-- Send an attention message: as a SEND on its queue pair, when that is READY, and into the partition's outbox where the
rules name no queue pair (log entry 19). -/
def State.sendMsg (s : State) (p : Part) (qp member : Option Nat) (m : Msg) : State :=
  s.updP p fun t =>
    match qp with
    | none => { t with outbox := t.outbox ++ [⟨qp, member, m⟩] }
    | some n => { t with qps := t.qps.upd n fun q => if q.st = .ready then q.push (msgWork (Msg.wire m)) else q }
/-- A port write to a peer's region: a WRITE request on a queue pair that carries its bytes; the last of a delivery is FINAL (06 R140, 08
R192). -/
def State.portWrite (s : State) (p : Part) (n : Nat) (rkey : BitVec 32) (roff : Nat) (bytes : List Byte) (final : Bool) : State :=
  if bytes.isEmpty then s
  else
    let w : WorkReq := { msgWork bytes with op := 2, final := final, rkey := rkey, roff := roff }
    s.updP p fun t => { t with qps := t.qps.upd n fun q => if q.st = .ready then q.push w else q }

/-- Message types (Table 6-3). -/
def mtWaveOpen := 0x01
def mtAttend := 0x02
def mtAttendOut := 0x03
def mtRowOpen := 0x04
def mtPrefillRow := 0x05
def mtPrefillOut := 0x06
def mtFetch := 0x07
def mtFetchDone := 0x08
def mtStore := 0x09
def mtHgReady := 0x10
def mtHgCommit := 0x11
def mtHgSquash := 0x12
def mtHgRevive := 0x13
def mtHgReviveK := 0x14
def mtHgDigest := 0x15
def mtHgDigestRes := 0x16
def mtLogits := 0x20
def mtRoute := 0x22
def mtRouteDone := 0x23

/-- Does this member lead its head group (06 R120)? -/
def ModelDesc.leads (m : ModelDesc) : Bool := m.hgRank == 0
/-- Send to every other member of a head group. -/
def State.toFollowers (s : State) (p : Part) (m : ModelDesc) (msg : Msg) : State :=
  s.forEach ((List.range m.hgSize).filter (· ≠ m.hgRank)) fun s r =>
    s.sendMsg p (some (m.hgQp.getD r 0xFFFF)) (some r) msg
/-- Send to the lead. -/
def State.toLead (s : State) (p : Part) (m : ModelDesc) (msg : Msg) : State :=
  s.sendMsg p (some (m.hgQp.getD 0 0xFFFF)) (some 0) msg
/-- A lane entry of HG_READY and HG_SQUASH: lane, status, RSV, `hg_seq` (Table 6-3). -/
def hgLane (lane : Nat) (st : Status) (hgSeq : Nat) : List Byte :=
  toLe lane 1 ++ toLe st.code.toNat 1 ++ toLe 0 2 ++ toLe hgSeq 4

/-! ### What a step belongs to -/

/-- The session of a step's handle, or of its sequence. -/
def Partition.stepSess (p : Partition) (k : Step) : Option Nat :=
  match k.sess with
  | some i => some i
  | none => (k.seq.bind p.sequences.find).map fun sq => hIndex sq.sess
/-- The model of a step: that of its session. -/
def Partition.stepModel (p : Partition) (k : Step) : Option ModelDesc :=
  (p.stepSess k).bind fun i => (p.sessions.find i).bind fun ss => p.model? ss.model
/-- The wave or row of a step, or the record of its FETCH. -/
def Partition.waveOf (p : Partition) (k : Step) : Option Wave :=
  p.waves.find? fun w => w.lanes.any fun l => l.step == some k.num
/-- Change the lane of a step. -/
def Partition.updLane (p : Partition) (num : Nat) (f : Lane → Lane) : Partition :=
  { p with waves := p.waves.map fun w =>
      { w with lanes := w.lanes.map fun l => if l.step = some num then f l else l } }
/-- A wave or row is over when each of its lanes is. -/
def Partition.closeWaves (p : Partition) : Partition :=
  { p with waves := p.waves.filter fun w => w.lanes.any fun l => !l.ended }
/-- Is the step a follower's (06 R133)? It then has no command of its own. -/
def Partition.follows (p : Partition) (k : Step) : Bool := (p.waveOf k).any fun w => !w.lead && !w.fetch

/-! ### Session boundaries (01 R21, 09 R196) -/

/-- A session's step boundary: a pending close, then a pending park, takes effect once no step of it is in flight. -/
def State.boundary (s : State) (p : Part) (sess : Option Nat) : State :=
  match sess with
  | none => s
  | some i =>
    match s.sess? p i with
    | none => s
    | some ss =>
      if s.getP p true fun t => t.sessBusy i then s
      else match ss.pendClose with
        | some by_ => (s.freeSession p i evSessionClosed by_).1
        | none =>
          match ss.pendPark with
          | some a => (s.parkNow p i a a.by_ true true).1
          | none => s
/-- The boundaries that the end of a due step, of a request or of a wave has brought. -/
def State.boundaries (s : State) (p : Part) : State :=
  s.forEach (s.getP p [] fun t => (t.sessions.filter fun kv => kv.2.pendPark.isSome || kv.2.pendClose.isSome).map (·.1)) fun s i =>
    s.boundary p (some i)
/-- A sequence's step boundary: a pending free takes effect (17 SQFREE, 08 R188, R189). -/
def State.seqBoundary (s : State) (p : Part) (seq : Option Nat) : State :=
  match seq with
  | none => s
  | some i => if (s.seq? p i).any fun sq => sq.freeAtEnd && sq.openStep.isNone then s.freeSeq p i else s

/-! ### Squash (03 R62) -/

/-- Trim the provisional rows of a group: rows from `filled` on are cleared, and the seals follow. -/
def State.trimGroup (s : State) (p : Part) (g : Nat) : State :=
  match (s.prt p).bind fun t => (t.groups.find g).map fun r => (r, t.model? r.model) with
  | some (r, some m) =>
    if r.rows > r.filled then s.updGroup p g fun r => r.trimTo r m r.filled else s
  | _ => s
/-- Trim every provisional slot of a sequence. -/
def State.trimSeq (s : State) (p : Part) (i : Nat) : State :=
  match s.seq? p i with
  | none => s
  | some sq =>
    let s := s.forEach sq.table fun s e => if e.2 = 0 then s else s.trimGroup p (hIndex e.2)
    s.updSeq p i fun sq => { sq with prov := 0 }
/-- Is a copy a move of a step? -/
def CopyKind.ofStep (k : CopyKind) (num : Nat) : Bool :=
  match k with
  | .regionMove n _ => n == num
  | .tierMove n _ _ _ _ => n == num
  | _ => false
/-- Release the promotion pins of region chunks that a copy holds (17 R386). -/
def State.unpinChunks (s : State) (p : Part) (k : CopyKind) : State :=
  match k with
  | .tierMove _ _ r c n => s.updRegion p r fun g =>
      { g with pins := (List.range n).foldl (fun m i => (m.upd (c + i) (· - 1)).keep fun _ v => v != 0) g.pins }
  | _ => s
/-- Cancel a step's moves that have not begun to copy. -/
def State.cancelMoves (s : State) (p : Part) (num : Nat) : State :=
  let gone := ((s.paths.map fun kv => kv.2.copies).flatten).filter fun c =>
    c.part == p.val && c.kind.ofStep num && !c.begun
  let s := s.forEach gone fun s c => s.unpinChunks p c.kind
  s.dropCopies p fun c => c.kind.ofStep num && !c.begun
/-- Release all step pins of a step. -/
def State.releasePins (s : State) (p : Part) (k : Step) : State :=
  let s := s.forEach k.pins fun s g => s.unpin p g
  s.forEach k.xpins fun s x => s.unpin (Fin.ofNat 16 x.1) x.2
/-- Release what a step has reserved: slots, domains, exclusions (01 R11, 05 R97, R98). -/
def State.releaseReserved (s : State) (p : Part) (num : Nat) : State :=
  let s := s.updP p fun t => { t with resv := t.resv.keep fun _ n => n != num }
  { s with domains := (s.domains.keep fun _ d => d.reserved != some num).mapV fun _ d =>
      if d.excluded = some num then { d with excluded := none } else d }
/-- The messages and notification words that a step took go back (17 R387, R397). -/
def Partition.giveBack (t : Partition) (k : Step) : Partition :=
  { t with qps := t.qps.mapV fun i q =>
      { q with inbox := q.inbox.map fun m => if m.takenBy = some k.num then { m with takenBy := none } else m
               notes := (k.notes.filter fun n => n.1 == i).map (·.2) ++ q.notes } }
/-- What every squash does to the state: the step is gone, with its log, rows, groups, pins, moves and descriptors. -/
def State.squashEffects (s : State) (p : Part) (k : Step) (st : Status) : State :=
  let s := s.updP p fun t =>
    { (t.updLane k.num fun l => { l with squashed := some st, ended := true }) with steps := t.steps.del k.num }
  let s := s.updP p fun t =>
    { (t.giveBack k) with sequences := t.sequences.mapV fun _ q =>
        if q.openStep = some k.num then { q with openStep := none } else q }
  let s := s.releaseReserved p k.num
  let s := s.forEach k.opened fun s g =>
    if (s.group? p g).any fun r => r.openedBy == some k.num then s.dropOpened p g else s
  let s := match k.seq with
    | some q => s.trimSeq p q
    | none => s
  let s := s.releasePins p { k with pins := k.pins.filter fun g => !k.opened.contains g }
  let s := s.forEach k.pins fun s g => s.cancelPromotion p 2 g
  let s := ((s.cancelMoves p k.num).unreserve p k.num).unreserve p (regionHold k.num)
  s.updP p fun t => t.closeWaves
/-- A FETCH_DONE record (06 R140): layer, status, failing block, head and half, tiles written. -/
def fetchDoneRec (layer : Nat) (st : Status) (block head half tiles : Nat) : List Byte :=
  toLe layer 2 ++ toLe st.code.toNat 1 ++ [0] ++ toLe block 4 ++ toLe head 1 ++ toLe half 1 ++ toLe 0 2 ++ toLe tiles 4
/-- A fetch that ends without a failing tile tells the requester with the record of its next layer (06 Table 6-8). -/
def State.fetchRefused (s : State) (p : Part) (w : Wave) (st : Status) : State :=
  if w.lanes.any fun l => l.squashed.isSome then s
  else
    let layer := fld ((w.msgs.find 0).map (·.body) |>.getD []) 4 2 + w.sent.length
    s.sendMsg p w.qp none (mkMsg mtFetchDone w.model w.batch 0xFFFF 1 (fetchDoneRec layer st 0 0 0 0) w.digest)
/-- The head group hears of a squash: the lead tells its followers, a follower its lead (06 Table 6-6). -/
def State.hgSquashed (s : State) (p : Part) (k : Step) (st : Status) : State :=
  match s.prt p with
  | none => s
  | some t =>
    match t.stepModel k, t.waveOf k with
    | some m, some w =>
      if w.fetch then s.fetchRefused p w st
      else if m.hgSize ≤ 1 then s
      else
        let hs := ((k.seq.bind t.sequences.find).map (·.hgSeq)).getD 0
        let body := hgLane k.lane st hs
        if w.lead then s.toFollowers p m (mkMsg mtHgSquash m.modelId k.batch 0xFFFF 1 body w.digest)
        else s.toLead p m (mkMsg mtHgReady m.modelId k.batch 0xFFFF 1 body w.digest)
    | _, _ => s
/-- The record of a program's slot in the partition's journal (13 Table 13-10). -/
def State.progRecord (s : State) (p : Part) (i : Nat) : State :=
  let g := (s.prt p).bind fun t => t.programs.find i
  s.jlog p.val jObject 0 ((g.map (·.h)).getD 0) (.program i g)
/-- The end of an unload: no step of the program is open; it becomes EMPTY, and the PROG_UNLOADs that named it complete
(03 R45; DEDUCED, log entry 30). -/
def State.settleProgram (s : State) (p : Part) (i : Nat) : State :=
  match (s.prt p).bind fun t => (t.programs.find i).map fun g => (t, g) with
  | none => s
  | some (t, g) =>
    if g.st ≠ .unloading || t.steps.any (fun kv => kv.2.prog == i) then s
    else
      let s := (s.updP p fun t => { t with programs := t.programs.del i }.bumpGen kProgram i).progRecord p i
      s.forEach (t.live.filter fun l => l.ent.opcode == ocProgUnload && l.started && l.ent.handle0 == g.h) fun s l =>
        s.finish p l.q l.ent.cid .ok
/-- Squash a step with a status; `logged` writes the partition event of Table 3-8. Its command completes with the
status, and `result0` holds the step index (R63), unless a final word is given. A step that fails with POISON_CONSUMED is counted as
a job (13 Table 13-14; DEDUCED, log entry 136). -/
def State.squash (s : State) (p : Part) (num : Nat) (st : Status) (logged : Bool := false) (reason : Nat := 9)
    (word : Bool := true) : State :=
  match (s.prt p).bind fun t => t.steps.find num with
  | none => s
  | some k =>
    let s := s.hgSquashed p k st
    let sess := s.getP p none fun t => t.stepSess k
    let s := s.squashEffects p k st
    let s := if st = .poisonConsumed then s.count p cPoisonConsumed else s
    let s := if logged then s.statusEvent p st 0 0 else s
    let s := match (s.prt p).bind fun t => t.liveOf k.q k.cid with
      | none => s
      | some l =>
        if l.req.isSome then
          s.endReq p k.q k.cid st reason 0 0 (if word then some (BitVec.ofNat 64 k.idx) else none)
        else s.finish p k.q k.cid st (BitVec.ofNat 64 k.idx) 0 0
    ((s.seqBoundary p k.seq).boundary p sess).settleProgram p k.prog

/-! ### Page tables as a step sees them (03 R61) -/

/-- A sequence, or one that the step has made and not committed. -/
def Partition.seqOf (p : Partition) (k : Step) (i : Nat) : Option Sequence :=
  k.log.foldl (fun a o => match o with
    | .seqCreate n r => if n = i then some r else a
    | _ => a) (p.sequences.find i)
/-- A session, or one that the step has made and not committed. -/
def Partition.sessOf (p : Partition) (k : Step) (i : Nat) : Option Session :=
  k.log.foldl (fun a o => match o with
    | .sessCreate n r => if n = i then some r else a
    | _ => a) (p.sessions.find i)
/-- The entry of a block through the step's update log: none, DROPPED (null), or a group. -/
def Partition.entryOf (p : Partition) (k : Step) (seq block : Nat) : Option Handle :=
  k.log.foldl (fun a o => match o with
    | .entry q b h => if q = seq ∧ b = block then some h else a
    | .fork d r => if d = seq then a.or ((p.sequences.find r).bind fun sq => sq.table.find block) else a
    | _ => a) ((p.sequences.find seq).bind fun sq => sq.table.find block)
/-- `committed_len` and `rc_pending` through the update log. -/
def Partition.lenOf (p : Partition) (k : Step) (seq : Nat) : Nat × Nat :=
  k.log.foldl (fun a o => match o with
    | .setLen q l r => if q = seq then (l, r) else a
    | .fork d o => if d = seq then ((p.sequences.find o).map fun sq => (sq.committed, sq.rc)).getD (0, 0) else a
    | _ => a) (((p.sequences.find seq).map fun sq => (sq.committed, sq.rc)).getD (0, 0))
/-- Would one more reference take a group past 65,535, with those that uncommitted steps have logged (04 R84)? -/
def Partition.refFull (p : Partition) (h : Handle) : Bool :=
  let g := hIndex h
  let logged := fun (o : LogOp) => match o with
    | .refUp n => b2n (n == g)
    | .fork _ r => b2n ((p.sequences.find r).any fun sq => sq.table.any fun e => e.2 == h)
    | _ => 0
  let pending := (p.steps.map fun kv => if kv.2.st = .applied then 0 else (kv.2.log.map logged).sum).sum
  (p.groups.find g).any fun r => r.refcount + pending ≥ 65535
/-- The blocks that hold rows: committed ones, and the provisional ones of this step. -/
def Partition.blocksOf (p : Partition) (k : Step) (seq : Nat) : Nat :=
  let l := (p.lenOf k seq).1
  let n := if k.seq = some seq then (k.appended.map fun a => a.1 + a.2).getD 0 else 0
  (max l n + 63) / 64

/-- The `sequences` of a session with one more: the first free of its places (01 Table 1-8). -/
def placeSeq : List Handle → Handle → List Handle
  | [], h => [h]
  | x :: xs, h => if x = 0 then h :: xs else x :: placeSeq xs h

/-! ### The walk (16 R375) -/

/-- Take one step pin on a group, or none if the step holds one. -/
def State.pinFor (s : State) (p : Part) (num g : Nat) : State :=
  if s.getP p false fun t => (t.steps.find num).any fun k => k.pins.contains g then s
  else s.updP p fun t =>
    { t with groups := t.groups.upd g fun r => { r with pins := r.pins + 1 }
             steps := t.steps.upd num fun k => { k with pins := k.pins ++ [g] } }
/-- Move priority of a step's promotions (Table 4-11). -/
def Step.prio (k : Step) : Nat := if k.kind = 2 then 1 else 2
/-- Walk one group: pin, touch, and bring it up under Table 4-12. -/
def State.walkGroup (s : State) (p : Part) (k : Step) (g : Nat) : State × Met :=
  let s := (s.pinFor p k.num g).updP p fun t => t.touchG g
  s.meet p g (k.clu / 16) k.prio k.num (s.getP p none fun t => t.stepSess k) false
/-- How a walk over blocks ended. -/
inductive WalkEnd where
  | fine
  | dropped (block : Nat)
  | wait
  | noPage
  deriving DecidableEq, Repr
/-- Walk blocks in the given order; it answers how it ended and how many groups were not homed in T0 at their walk. -/
def State.walkBlocks (s : State) (p : Part) (k : Step) (seq : Nat) : List Nat → Nat → State × WalkEnd × Nat
  | [], n => (s, .fine, n)
  | b :: bs, n =>
    match (s.prt p).bind fun t => t.entryOf k seq b with
    | none => (s, .fine, n)
    | some h =>
      if h = 0 then (s, .dropped b, n)
      else
        let out := (s.group? p (hIndex h)).any fun g => g.tier != .t0
        match s.walkGroup p k (hIndex h) with
        | (s, .wait) => (s, .wait, n)
        | (s, .noPage) => (s, .noPage, n)
        | (s, .lost) => (s, .dropped b, n)
        | (s, _) => State.walkBlocks s p k seq bs (n + b2n out)

/-! ### The issue of an instruction (03 R58 to R61, 16 R366, R367) -/

/-- What an instruction does to its step: go on with changed registers; jump to an address; fault under Table 3-8; end
with a status that traps or is recorded, with the registers that a record leaves; squash whatever `rec` holds (Table
16-2); wait, giving up the context; sleep for a frame and execute again; end the step's execution at COMMIT. -/
inductive IOut where
  | done (c : Ctx)
  | jump (c : Ctx) (target : Int)
  | fault (st : Status) (logged : Bool)
  | status (st : Status) (c : Ctx)
  | squash (st : Status)
  | wait (w : Wait)
  | hold (w : Wait)
  | stop
  deriving DecidableEq, Repr

/-- What an instruction reads and writes, as far as run-ahead needs it, and whether it may run ahead. -/
structure Deps where
  rg : List GReg := []
  rf : List FReg := []
  rh : List HReg := []
  wg : List GReg := []
  wf : List FReg := []
  wh : List HReg := []
  ahead : Bool := false
  deriving DecidableEq, Repr

/-- An instruction being issued: the state, its partition and step, the registers it works on (the shadow ones in
run-ahead), its program. -/
structure Iss where
  s : State
  p : Part
  t : Partition
  k : Step
  c : Ctx
  ahead : Bool
  prog : Program

/-- Does an instruction read a register that depends on the wait? -/
def RunAhead.blocks (r : RunAhead) (d : Deps) : Bool :=
  d.rg.any (fun i => r.taintG.contains i.val) || d.rf.any (fun i => r.taintF.contains i.val)
    || d.rh.any (fun i => r.taintH.contains i.val)
/-- One instruction further in run-ahead; a register it wrote no longer depends on the wait. -/
def RunAhead.next (r : RunAhead) (d : Deps) (c : Ctx) : RunAhead :=
  { ctx := c, count := r.count + 1
    taintG := r.taintG.filter fun i => !(d.wg.any fun j => j.val == i)
    taintF := r.taintF.filter fun i => !(d.wf.any fun j => j.val == i)
    taintH := r.taintH.filter fun i => !(d.wh.any fun j => j.val == i) }
/-- The wait's own destinations, which depend on it. -/
def RunAhead.start (c : Ctx) (d : Deps) : RunAhead :=
  { ctx := { c with pc := c.pc + 8 }, count := 0
    taintG := d.wg.map (·.val), taintF := d.wf.map (·.val), taintH := d.wh.map (·.val) }
/-- Is the word at an address of the code section defined (16 R365)? An address outside the section holds none. -/
def Program.wordOk (g : Program) (x : StepRef) (pc : Nat) : Bool :=
  pc % 8 == 0 && (g.code[pc / 8]?).any fun w => (crietDecode x w).isSome

/-- End run-ahead: the step sleeps. -/
def State.endAhead (s : State) (x : StepRef) : State := s.updStep x fun k => { k with ra := none }
/-- The registers after a status that is recorded (R367). -/
def Ctx.recorded (c : Ctx) (st : Status) : Ctx := { c.record st with pc := c.pc + 8 }

/-- Carry out what an instruction answered, for a step that holds a context. -/
def State.retire (s : State) (x : StepRef) (d : Deps) (rec_ : Bool) (codeLen : Nat) (o : IOut) : State :=
  match o with
  | .done c => s.updStep x fun k => { k with ctx := { c with pc := c.pc + 8 } }
  | .jump c t =>
    if 0 ≤ t ∧ t < codeLen ∧ t % 8 = 0 then s.updStep x fun k => { k with ctx := { c with pc := t.toNat } }
    else s.squash x.part x.num .accessViolation true
  | .fault st ev => s.squash x.part x.num st ev
  | .status st c => if rec_ then s.updStep x fun k => { k with ctx := c.recorded st } else s.squash x.part x.num st
  | .squash st => s.squash x.part x.num st
  | .wait w => s.updStep x fun k => { k with st := .waiting w, ra := some (RunAhead.start k.ctx (if rec_ then { d with wf := 7 :: d.wf } else d)), raDone := [] }
  | .hold w => s.updStep x fun k => { k with st := .waiting w, ra := none }
  | .stop => s
/-- The same in run-ahead: anything but going on ends it, and the step feels nothing of it (DEDUCED, log entry 20). -/
def State.retireAhead (s0 s : State) (x : StepRef) (d : Deps) (r : RunAhead) (codeLen : Nat) (o : IOut) : State :=
  match o with
  | .done c => s.updStep x fun k => { k with ra := some (r.next d { c with pc := c.pc + 8 }) }
  | .jump c t =>
    if 0 ≤ t ∧ t < codeLen ∧ t % 8 = 0 then s.updStep x fun k => { k with ra := some (r.next d { c with pc := t.toNat }) }
    else s0.endAhead x
  | .hold _ => s.endAhead x
  | _ => s0.endAhead x

/-- Issue one instruction of a step. A step that sleeps takes it in run-ahead, while run-ahead lasts; a step that is
not running takes nothing. A word outside the code section, or one that no format defines, squashes the step (Table
3-8, R371). -/
def State.issue (s : State) (x : StepRef) (d : Deps) (rec_ : Bool) (body : Iss → State × IOut) : State :=
  match s.prt x.part with
  | none => s
  | some t =>
    match t.steps.find x.num with
    | none => s
    | some k =>
      match t.programs.find k.prog with
      | none => s
      | some g =>
        let len := 8 * g.code.length
        match k.st with
        | .running =>
          if g.wordOk x k.ctx.pc then
            let r := body ⟨s, x.part, t, k, k.ctx, false, g⟩
            r.1.retire x d rec_ len r.2
          else s.squash x.part x.num .accessViolation true
        | .waiting _ =>
          match k.ra with
          | none => s
          | some r =>
            if r.count < 256 ∧ d.ahead ∧ !r.blocks d ∧ g.wordOk x r.ctx.pc then
              let o := body ⟨s, x.part, t, k, r.ctx, true, g⟩
              State.retireAhead s o.1 x d r len o.2
            else s.endAhead x
        | _ => s

/-- What `exec` answers. -/
abbrev Out := Host.Outcome State Fault Refusal
/-- A scalar instruction: it changes the context's registers alone. -/
def State.scalar (s : State) (x : StepRef) (d : Deps) (f : Ctx → Ctx) : State :=
  s.issue x { d with ahead := true } false fun i => (i.s, .done (f i.c))

/-- Check a handle operand for a kind (R57, R379): null fails too. -/
def Iss.check (i : Iss) (kind : Nat) (h : Handle) : Option Status := i.t.checkHandle i.p (some i.k.num) kind h
/-- Act on a handle that passes its check; one that fails ends the instruction with the status of Table 1-3. -/
def Iss.with (i : Iss) (kind : Nat) (h : Handle) (c : Ctx) (f : Unit → State × IOut) : State × IOut :=
  match i.check kind h with
  | some st => (i.s.handleEvent i.p kind h, .status st c)
  | none => f ()
/-- Finish with a status and the registers of a record. -/
def Iss.bad (i : Iss) (st : Status) (c : Ctx) : State × IOut := (i.s, .status st c)
/-- Add to the step's update log. -/
def State.log (s : State) (x : StepRef) (o : LogOp) : State := s.updStep x fun k => { k with log := k.log ++ [o] }
def Iss.ref (i : Iss) : StepRef := ⟨i.p, i.k.num⟩
/-- Is the step of a privileged queue? -/
def Iss.priv (i : Iss) : Bool := i.t.privQ (i.k.q % 64)
/-- Has run-ahead done this very page or move instruction, with these operands (R60)? -/
def Iss.taken (i : Iss) (ops : List Word) : Option RaDone :=
  if i.ahead then none else i.k.raDone.find? fun r => r.pc == i.c.pc && r.ops == ops
/-- Remember, in run-ahead, what a page or move instruction answered; outside, forget what was taken over. -/
def Iss.keep (i : Iss) (s : State) (ops vals : List Word) : State :=
  s.updStep i.ref fun k =>
    { k with raDone := if i.ahead then k.raDone ++ [⟨i.c.pc, ops, vals⟩]
                       else k.raDone.filter fun r => !(r.pc == i.c.pc && r.ops == ops) }

end Sys2Proof.Machine
end

