-- ==== Sys2Proof/Machine/Alu.lean ====
section
/-! DEFINITION. The scalar ALU group 0x0 and the immediate group 0x1 (16 R369, R370, Tables 16-3, 16-4). -/

namespace Sys2Proof.Machine

/-- Set bits of a word. -/
def popCount (w : Word) : Nat := ((List.range 64).filter fun i => w.getLsbD i).length
/-- Leading zero bits; 64 for zero. -/
def leadZeros (w : Word) : Nat := if w = 0 then 64 else 63 - w.toNat.log2
/-- Trailing zero bits; 64 for zero. -/
def trailZeros (w : Word) : Nat := ((List.range 64).find? fun i => w.getLsbD i).getD 64
/-- A shift amount: bits [5:0]. -/
def amount (w : Word) : Nat := w.toNat % 64
/-- The upper half of the unsigned 128-bit product. -/
def mulHigh (a b : Word) : Word := BitVec.ofNat 64 (a.toNat * b.toNat / 2 ^ 64)
/-- Unsigned quotient; all ones for a divisor of zero. -/
def divWord (a b : Word) : Word := if b = 0 then BitVec.allOnes 64 else a / b
/-- Unsigned remainder; the dividend for a divisor of zero. -/
def remWord (a b : Word) : Word := if b = 0 then a else a % b

/-- An ALU instruction: gd := op ga gb. -/
def State.alu (s : State) (x : StepRef) (d a b : GReg) (op : Word → Word → Word) : State :=
  s.scalar x { rg := [a, b], wg := [d] } fun c => c.wg d (op (c.rg a) (c.rg b))
/-- A comparison: fd := op ga gb. -/
def State.cmp (s : State) (x : StepRef) (d : FReg) (a b : GReg) (op : Word → Word → Bool) : State :=
  s.scalar x { rg := [a, b], wf := [d] } fun c => c.wf d (op (c.rg a) (c.rg b))
/-- A flag operation: fd := op fa fb. -/
def State.flagOp (s : State) (x : StepRef) (d a b : FReg) (op : Bool → Bool → Bool) : State :=
  s.scalar x { rf := [a, b], wf := [d] } fun c => c.wf d (op (c.rf a) (c.rf b))
/-- A count of bits: gd := op ga. -/
def State.unary (s : State) (x : StepRef) (d a : GReg) (op : Word → Word) : State :=
  s.scalar x { rg := [a], wg := [d] } fun c => c.wg d (op (c.rg a))
/-- An immediate instruction: gd := op ga. -/
def State.cmpImm (s : State) (x : StepRef) (d : FReg) (a : GReg) (imm : BitVec 32) (op : Word → Word → Bool) : State :=
  s.scalar x { rg := [a], wf := [d] } fun c => c.wf d (op (c.rg a) (sext imm))
/-- A shift by an immediate; `imm`[31:6] nonzero is an undefined format (R365, R370). -/
def State.shiftImm (s : State) (x : StepRef) (d a : GReg) (imm : BitVec 32) (op : Word → Nat → Word) : State :=
  s.issue x { rg := [a], wg := [d], ahead := true } false fun i =>
    if immShiftOk imm then (i.s, .done (i.c.wg d (op (i.c.rg a) (imm.toNat % 64)))) else (i.s, .fault .accessViolation true)

/-- NOP: nothing but the program counter. -/
def execNop (x : StepRef) (s : State) : Out := .next (s.scalar x {} id)
/-- gd := ga + gb. -/
def execAddG (x : StepRef) (d a b : GReg) (s : State) : Out := .next (s.alu x d a b (fun a b => a + b))
/-- gd := ga − gb. -/
def execSub (x : StepRef) (d a b : GReg) (s : State) : Out := .next (s.alu x d a b (fun a b => a - b))
/-- gd := the low 64 bits of ga × gb. -/
def execMul (x : StepRef) (d a b : GReg) (s : State) : Out := .next (s.alu x d a b (fun a b => a * b))
/-- gd := the high 64 bits of the unsigned product. -/
def execMulhu (x : StepRef) (d a b : GReg) (s : State) : Out := .next (s.alu x d a b mulHigh)
/-- gd := ga / gb. -/
def execDivu (x : StepRef) (d a b : GReg) (s : State) : Out := .next (s.alu x d a b divWord)
/-- gd := ga mod gb. -/
def execRemu (x : StepRef) (d a b : GReg) (s : State) : Out := .next (s.alu x d a b remWord)
/-- gd := ga and gb. -/
def execAndG (x : StepRef) (d a b : GReg) (s : State) : Out := .next (s.alu x d a b (fun a b => a &&& b))
/-- gd := ga or gb. -/
def execOrG (x : StepRef) (d a b : GReg) (s : State) : Out := .next (s.alu x d a b (fun a b => a ||| b))
/-- gd := ga xor gb. -/
def execXorG (x : StepRef) (d a b : GReg) (s : State) : Out := .next (s.alu x d a b (fun a b => a ^^^ b))
/-- gd := ga << gb[5:0]. -/
def execShl (x : StepRef) (d a b : GReg) (s : State) : Out := .next (s.alu x d a b (fun a b => a <<< amount b))
/-- gd := ga >> gb[5:0], zero fill. -/
def execShr (x : StepRef) (d a b : GReg) (s : State) : Out := .next (s.alu x d a b (fun a b => a >>> amount b))
/-- gd := ga >> gb[5:0], sign fill. -/
def execSra (x : StepRef) (d a b : GReg) (s : State) : Out := .next (s.alu x d a b (fun a b => a.sshiftRight (amount b)))
/-- CMPEQ. -/
def execCmpeq (x : StepRef) (d : FReg) (a b : GReg) (s : State) : Out := .next (s.cmp x d a b cmpEq)
/-- CMPNE. -/
def execCmpne (x : StepRef) (d : FReg) (a b : GReg) (s : State) : Out := .next (s.cmp x d a b cmpNe)
/-- CMPLT. -/
def execCmplt (x : StepRef) (d : FReg) (a b : GReg) (s : State) : Out := .next (s.cmp x d a b cmpLt)
/-- CMPLTU. -/
def execCmpltu (x : StepRef) (d : FReg) (a b : GReg) (s : State) : Out := .next (s.cmp x d a b cmpLtu)
/-- CMPLE. -/
def execCmple (x : StepRef) (d : FReg) (a b : GReg) (s : State) : Out := .next (s.cmp x d a b cmpLe)
/-- CMPLEU. -/
def execCmpleu (x : StepRef) (d : FReg) (a b : GReg) (s : State) : Out := .next (s.cmp x d a b cmpLeu)
/-- FAND. -/
def execFand (x : StepRef) (d a b : FReg) (s : State) : Out := .next (s.flagOp x d a b flagAnd)
/-- FORF. -/
def execForF (x : StepRef) (d a b : FReg) (s : State) : Out := .next (s.flagOp x d a b flagOr)
/-- FXOR. -/
def execFxor (x : StepRef) (d a b : FReg) (s : State) : Out := .next (s.flagOp x d a b flagXor)
/-- FANDN. -/
def execFandn (x : StepRef) (d a b : FReg) (s : State) : Out := .next (s.flagOp x d a b flagAndNot)
/-- POPC. -/
def execPopc (x : StepRef) (d a : GReg) (s : State) : Out := .next (s.unary x d a fun w => BitVec.ofNat 64 (popCount w))
/-- CLZ. -/
def execClz (x : StepRef) (d a : GReg) (s : State) : Out := .next (s.unary x d a fun w => BitVec.ofNat 64 (leadZeros w))
/-- CTZ. -/
def execCtz (x : StepRef) (d a : GReg) (s : State) : Out := .next (s.unary x d a fun w => BitVec.ofNat 64 (trailZeros w))
/-- RDSL: gd := the latch; latch := 0x00; f7 := false (R368). -/
def execRdsl (x : StepRef) (d : GReg) (s : State) : Out :=
  .next (s.scalar x { rf := [7], wg := [d], wf := [7] } fun c => (c.wg d (c.latch.zeroExtend 64)).unlatch)
/-- MOVI: gd := sext(imm). -/
def execMovi (x : StepRef) (d : GReg) (imm : BitVec 32) (s : State) : Out :=
  .next (s.scalar x { wg := [d] } fun c => c.wg d (sext imm))
/-- MOVHI: gd := (imm << 32) or gd[31:0]. -/
def execMovhi (x : StepRef) (d : GReg) (imm : BitVec 32) (s : State) : Out :=
  .next (s.scalar x { rg := [d], wg := [d] } fun c => c.wg d (imm ++ (c.rg d).extractLsb' 0 32))
/-- gd := ga + sext(imm). -/
def execAddi (x : StepRef) (d a : GReg) (imm : BitVec 32) (s : State) : Out := .next (s.unary x d a fun w => w + sext imm)
/-- gd := the low 64 bits of ga × sext(imm). -/
def execMuli (x : StepRef) (d a : GReg) (imm : BitVec 32) (s : State) : Out := .next (s.unary x d a fun w => w * sext imm)
/-- gd := ga and zext(imm). -/
def execAndi (x : StepRef) (d a : GReg) (imm : BitVec 32) (s : State) : Out := .next (s.unary x d a fun w => w &&& zext imm)
/-- gd := ga or zext(imm). -/
def execOri (x : StepRef) (d a : GReg) (imm : BitVec 32) (s : State) : Out := .next (s.unary x d a fun w => w ||| zext imm)
/-- gd := ga xor zext(imm). -/
def execXori (x : StepRef) (d a : GReg) (imm : BitVec 32) (s : State) : Out := .next (s.unary x d a fun w => w ^^^ zext imm)
/-- SHLI. -/
def execShli (x : StepRef) (d a : GReg) (imm : BitVec 32) (s : State) : Out := .next (s.shiftImm x d a imm fun w n => w <<< n)
/-- SHRI. -/
def execShri (x : StepRef) (d a : GReg) (imm : BitVec 32) (s : State) : Out := .next (s.shiftImm x d a imm fun w n => w >>> n)
/-- SRAI. -/
def execSrai (x : StepRef) (d a : GReg) (imm : BitVec 32) (s : State) : Out := .next (s.shiftImm x d a imm fun w n => w.sshiftRight n)
/-- CMPEQI: fd := comparison of ga with sext(imm). -/
def execCmpeqi (x : StepRef) (d : FReg) (a : GReg) (imm : BitVec 32) (s : State) : Out := .next (s.cmpImm x d a imm cmpEq)
/-- CMPNEI: fd := comparison of ga with sext(imm). -/
def execCmpnei (x : StepRef) (d : FReg) (a : GReg) (imm : BitVec 32) (s : State) : Out := .next (s.cmpImm x d a imm cmpNe)
/-- CMPLTI: fd := comparison of ga with sext(imm). -/
def execCmplti (x : StepRef) (d : FReg) (a : GReg) (imm : BitVec 32) (s : State) : Out := .next (s.cmpImm x d a imm cmpLt)
/-- CMPLTUI: fd := comparison of ga with sext(imm). -/
def execCmpltui (x : StepRef) (d : FReg) (a : GReg) (imm : BitVec 32) (s : State) : Out := .next (s.cmpImm x d a imm cmpLtu)
/-- CMPLEI: fd := comparison of ga with sext(imm). -/
def execCmplei (x : StepRef) (d : FReg) (a : GReg) (imm : BitVec 32) (s : State) : Out := .next (s.cmpImm x d a imm cmpLe)
/-- CMPLEUI: fd := comparison of ga with sext(imm). -/
def execCmpleui (x : StepRef) (d : FReg) (a : GReg) (imm : BitVec 32) (s : State) : Out := .next (s.cmpImm x d a imm cmpLeu)

end Sys2Proof.Machine
end

