-- ==== Sys2Proof/Machine/Layouts.lean ====
section
/-! DEFINITION. Byte layouts of the records that stand in memory or on the wire: group directory entry, metadata block, page records,
page descriptor, the ciphertext of the outer tiers (04 R75 to R78, R81), event records (18 R408), the VPT header (12 R268). Big-endian
on the ports, little-endian everywhere else (00 R6). -/

namespace Sys2Proof.Machine

/-! ### Groups (04 R75 to R77) -/

/-- The code of a group's state in its directory entry (Table 4-5). -/
def GroupSt.code : GroupSt → Nat
  | .opened => 1
  | .full => 2
  | .retiring => 3
/-- The code of a move slot's state (Table 4-5). -/
def MoveSt.code : MoveSt → Nat
  | .idle => 0
  | .promoting => 1
  | .demoting => 2
/-- Where a group lies, as its directory entry says it: the metadata run in T0, its place in an outer tier. -/
def Group.location (g : Group) : Nat := if g.tier = .t0 then g.run else g.loc
/-- The group directory entry (Table 4-5). -/
def Group.dirEntry (g : Group) : List Byte :=
  toLe g.h.toNat 8 ++ toLe (16 * (g.quad % 4) + g.st.code) 1 ++ toLe (16 * (g.backing.map Tier.code).getD 15 + g.tier.code) 1
    ++ toLe (64 * g.move.code + 32 * b2n g.copyOut + 16 * b2n g.ppin + g.dest.code) 1 ++ [0]
    ++ toLe g.refcount 2 ++ toLe (min g.pins 0xFFFF) 2 ++ toLe g.touch 4 ++ toLe 0 4 ++ toLe g.location 8
/-- A page record (Table 4-7). -/
def PageRec.bytes (r : PageRec) : List Byte :=
  toLe r.sealK.toNat 8 ++ toLe r.sealV.toNat 8 ++ toLe (128 * b2n r.dirty + 64 * b2n r.poisonK + 32 * b2n r.poisonV) 1
    ++ List.replicate 15 0
/-- `seal_fold`: CRC-64 over every page record's two seals in page order (Table 4-6). -/
def Group.sealFold (g : Group) : Word :=
  crc64 ((List.range g.pages).map fun i => toLe (g.recOf i).sealK.toNat 8 ++ toLe (g.recOf i).sealV.toNat 8).flatten
/-- A bit for each of 256 layers: does some page of the layer meet a test? Pages of a layer stand together (R70). -/
def Group.layerBits (g : Group) (heads : Nat) (f : PageRec → Bool) : Nat :=
  ((List.range 256).map fun l =>
    if (List.range heads).any fun h => l * heads + h < g.pages && f (g.recOf (l * heads + h)) then 2 ^ l else 0).sum
/-- The metadata block with a value in its last field: its 152 bytes of fields and the RSV bytes behind them (Table 4-6). -/
def Group.metaWith (g : Group) (m : ModelDesc) (sl : Word) : List Byte :=
  padTo (g.dirEntry ++ toLe g.model.toNat 2 ++ toLe g.domain.toNat 2 ++ [0] ++ toLe g.filled 1 ++ toLe g.pages 2
    ++ toLe (g.block % 2 ^ 20) 4 ++ toLe g.dirtyCount 4 ++ toLe g.poisonCount 4 ++ toLe 0 4
    ++ toLe (if g.tier = .t0 then g.frame / 2 else 0) 8 ++ toLe (if g.backing.isSome then g.backLoc else 0) 8
    ++ toLe g.sealFold.toNat 8 ++ toLe (g.layerBits m.kvHeads (·.dirty)) 32
    ++ toLe (g.layerBits m.kvHeads fun r => r.poisonK || r.poisonV) 32 ++ toLe sl.toNat 8) 4096
/-- The metadata block: its seal is taken over the block with that field zero (Table 4-6, R73). -/
def Group.metaBlock (g : Group) (m : ModelDesc) : List Byte := g.metaWith m (crc64 (g.metaWith m 0))
/-- The page-record blocks: 128 records a block (R77). -/
def Group.recordBlocks (g : Group) : List Byte :=
  padTo ((List.range g.pages).map fun i => (g.recOf i).bytes).flatten (4096 * ((g.pages + 127) / 128))

/-! ### The outer tiers (04 R75, R81) -/

/-- What a group takes in an outer tier, in plaintext: the pages, the metadata block, the page records. -/
def Group.outerPlain (g : Group) (m : ModelDesc) : List Byte :=
  g.data.rd 0 (m.pages * pageBytes m.pageCode) ++ g.metaBlock m ++ g.recordBlocks
/-- The tweak of a data unit: the object's handle in the high half, the unit's number in it in the low half (R81). -/
def xtsTweak (h : Handle) (i : Nat) : BitVec 128 := h ++ BitVec.ofNat 64 i
/-- The tweak of a 4 KiB unit of a partition's window: the partition in bits 59:56 of the high half, whose other bits are zero, and the
DPA's unit in the low half (11 R243). -/
def windowTweak (p : Part) (u : Nat) : BitVec 128 := BitVec.ofNat 64 (p.val * 2 ^ 56) ++ BitVec.ofNat 64 u
/-- What extent memory holds for a unit of the window whose plaintext is `bs` (11 R243). -/
def Partition.windowUnitBytes (t : Partition) (p : Part) (u : Nat) (bs : List Byte) : List Byte :=
  Config.xts t.wrapped.data (windowTweak p u) bs
/-- The bytes that an outer tier holds for a group: its 4 KiB data units under the partition's data key (R81). `Group.data` is the
plaintext of them, which is what the move engine writes to T0. -/
def Partition.outerBytes (t : Partition) (g : Group) (m : ModelDesc) : List Byte :=
  let b := g.outerPlain m
  ((List.range (b.length / 4096)).map fun i => Config.xts t.wrapped.data (xtsTweak g.h i) ((b.drop (4096 * i)).take 4096)).flatten

/-! ### Descriptors (04 R78) -/

/-- The words of a page descriptor (Table 4-8). -/
def Desc.word0 (d : Desc) : Nat :=
  d.op % 16 * 2 ^ 60 + b2n d.last * 2 ^ 59 + b2n d.shared * 2 ^ 58 + b2n d.prov * 2 ^ 57 + d.block % 2 ^ 14 * 2 ^ 42
    + (d.rows - 1) % 64 * 2 ^ 36 + d.quad % 4 * 2 ^ 34 + d.frame % 2 ^ 34
def Desc.word1 (d : Desc) : Nat :=
  d.layer % 256 * 2 ^ 56 + d.head % 64 * 2 ^ 50 + d.psize % 4 * 2 ^ 48 + d.gen % 256 * 2 ^ 40 + d.cluster % 64 * 2 ^ 34
    + d.frameId % 4096 * 2 ^ 22 + d.lane % 256 * 2 ^ 14
/-- The 32 bytes of a page descriptor. -/
def Desc.bytes (d : Desc) : List Byte :=
  toLe d.word0 8 ++ toLe d.word1 8 ++ toLe d.sealK.toNat 8 ++ toLe d.sealV.toNat 8

/-! ### Journal records (13 R313) -/

/-- A journal record with a body, whose layout is the firmware's (13 R314), and a check in its `rcrc` field: the 32-byte header of Table
13-9, then the body to a multiple of 8 bytes. -/
def JRec.with (r : JRec) (body : List Byte) (crc : BitVec 32) : List Byte :=
  let n := (32 + body.length + 7) / 8 * 8
  padTo (toLe r.jtype 1 ++ toLe (b2n r.forced) 1 ++ toLe n 2 ++ toLe crc.toNat 4 ++ toLe r.jseq 8 ++ toLe r.step 8 ++ toLe r.object.toNat 8
    ++ body) n
/-- A journal record's bytes: `rcrc` is the CRC-32C of the record with that field zero. -/
def JRec.bytes (r : JRec) (body : List Byte) : List Byte := r.with body (crc32c (r.with body 0))

/-! ### Event records and the VPT header -/

/-- The 32 bytes of an event record (18 R408). -/
def Event.bytes (e : Event) : List Byte :=
  toLe e.code 2 ++ toLe (b2n e.phase) 1 ++ toLe e.status 1 ++ toLe e.seq 4 ++ toLe e.time 8 ++ toLe e.object.toNat 8
    ++ toLe e.arg.toNat 8
/-- The VPT header of a packet of an operation, with the trigger extension where it has one (12 Table 12-4). -/
def vptHeader (k : Pkt) (op : Nat) : List Byte :=
  [0x10] ++ toBe op 1
    ++ toBe (128 * b2n k.fin + 64 * b2n k.areq + 32 * b2n k.trigOn + 16 * b2n k.first + 8 * b2n k.last + 4 * b2n k.ece + 2 * b2n k.pause) 1
    ++ toBe (k.tc % 8 * 32) 1 ++ toBe k.ptag 2 ++ toBe (k.tenant % 4096) 2 ++ toBe k.dqp 2 ++ toBe k.sqp 2
    ++ toBe k.psn.toNat 4 ++ toBe k.rkey.toNat 4 ++ toBe k.aux.toNat 4 ++ toBe k.roff.toNat 8
    ++ if k.trigOn then toBe (k.trig.toNat * 2 ^ 32) 8 else []
/-- The bytes of a packet behind the port's own framing: header, then payload. -/
def vptWire (k : Pkt) (op : Nat) : List Byte := vptHeader k op ++ k.payload

end Sys2Proof.Machine
end

