-- ==== Sys2Proof/Machine/PageGroup.lean ====
section
/-! DEFINITION. The page group 0x5: page tables, walks, descriptors, appends, promotion, demotion, forks (16 R375, R376;
04 R78; 05 R103, R114; 06 R126, R130, R131, R138, R145; 08 R183). -/

namespace Sys2Proof.Machine

/-! ### Message tokens (17 Table 17-5) -/

def mkToken (mtype layer lane slot : Nat) : Word :=
  BitVec.ofNat 64 (mtype * 2 ^ 56 + layer * 2 ^ 40 + lane * 2 ^ 32 + slot)
/-- The message that a token names, if it was delivered to the step. -/
def Step.tokenMsg (k : Step) (w : Word) : Option BufMsg :=
  (k.msgs.find (w.toNat % 2 ^ 24)).bind fun b =>
    if w = mkToken b.mtype b.layer b.lane (w.toNat % 2 ^ 24) then some b else none

/-! ### Records of lanes and rows (06 R124, R136) -/

/-- Bytes of an attend record; without queries, of a store record (R142). -/
def ModelDesc.recBytes (m : ModelDesc) (nNew : Nat) (q : Bool) : Nat :=
  16 + 4 * (nNew - 1) + 2 * m.headDim * nNew * m.kvHeads * ((if q then m.qPerKv else 0) + 2)
/-- Where the vectors begin in a record. -/
def recVec (nNew : Nat) : Nat := 16 + 4 * (nNew - 1)
/-- The K or V row of new position t and head h in a record. -/
def ModelDesc.recRow (m : ModelDesc) (nNew : Nat) (q v : Bool) (t h : Nat) : Nat :=
  let qs := if q then nNew * m.kvHeads * m.qPerKv else 0
  let vs := if v then nNew * m.kvHeads else 0
  recVec nNew + 2 * m.headDim * (qs + vs + t * m.kvHeads + h)
/-- The query of new position t, head h and query head g in a record. -/
def ModelDesc.recQuery (m : ModelDesc) (nNew t h g : Nat) : Nat :=
  recVec nNew + 2 * m.headDim * ((t * m.kvHeads + h) * m.qPerKv + g)
/-- The K or V row of row token i and head h in a PREFILL_ROW body of T tokens. -/
def ModelDesc.rowRow (m : ModelDesc) (tt : Nat) (v : Bool) (i h : Nat) : Nat :=
  2 * m.headDim * (tt * m.kvHeads * m.qPerKv + (if v then tt * m.kvHeads else 0) + i * m.kvHeads + h)
/-- The query of row token i. -/
def ModelDesc.rowQuery (m : ModelDesc) (i h g : Nat) : Nat := 2 * m.headDim * ((i * m.kvHeads + h) * m.qPerKv + g)

/-- A new position's place in its message: the row tokens of a segment in row order, or the new positions of a lane. -/
def Wave.segTokens (w : Wave) (seg : Nat) : List Nat :=
  (List.range w.tokens.length).filter fun i => (w.tokens.getD i (0, 0xFFFF)).2 == seg

/-! ### Opening and copying groups -/

/-- Record a group that the step opens: entry, reference and pin (04 R84, 06 R126). -/
def State.openGroup (s : State) (x : StepRef) (seq block : Nat) (g : Group) : State :=
  let idx := hIndex g.h
  let s := s.updP x.part fun t =>
    let t1 := { t with groups := t.groups.put idx { g with touch := t.epoch .t0 } }
    t1.allocated .t0 (4096 * ((t1.groupFrame g).1 + (t1.groupFrame g).2))
  let s := s.updStep x fun k => { k with opened := k.opened ++ [idx], log := k.log ++ [.entry seq block g.h, .refUp idx] }
  s.pinFor x.part x.num idx
/-- A fresh group in a frame: its tiles are zeros, sealed, every page dirty, with no backing copy (04 R73, R83). -/
def newGroup (h : Handle) (m : ModelDesc) (dom : BitVec 16) (block quad frame run num : Nat) : Group :=
  let g : Group :=
  { h := h, st := .opened, quad := quad, tier := .t0, backing := none, move := .idle, copyOut := false, ppin := false
    dest := .t0, cancelFree := false, refcount := 0, pins := 0, touch := 0, model := m.modelId, domain := dom
    filled := 0, rows := 0, pages := m.pages, block := block, frame := frame, run := run, loc := 0, backLoc := 0
    recs := [], openedBy := some num, moveTo := none, quad0 := quad, forAlloc := 0, reviving := false, data := [] }
  { g with recs := g.freshRecs m }
/-- What became of a request for a writable group. -/
inductive GotGroup where
  | have
  | wait
  | move (g : Nat)
  | lost
  | none
  deriving DecidableEq, Repr
/-- Allocate a frame and a group slot for a step, and open the group that `mk` makes there. -/
def State.newGroupFor (s : State) (x : StepRef) (k : Step) (m : ModelDesc) (seq block : Nat) (noPark : Bool)
    (mk : Handle → Nat → Nat → Nat → Group) : State × GotGroup :=
  match s.getP x.part none fun t => t.newSlot x.part kGroup with
  | none => (s, .none)
  | some slot =>
    match s.allocFrame x.part ⟨x.num, k.clu / 16, m.frameBlocks, m.runBlocks, s.getP x.part none fun t => t.stepSess k, noPark⟩ with
    | (s, .frame q f r) =>
      (s.openGroup x seq block (mk (s.getP x.part 0 fun t => t.handleOf x.part kGroup slot) q f r), .have)
    | (s, .wait) => (s, .wait)
    | (s, .noPage) => (s, .none)
/-- A group with the committed rows of another, under its own handle: every page dirty, seals from the old ones (04 R74, R83). -/
def Group.copyOf (g new : Group) (m : ModelDesc) : Group :=
  let n : Group := { new with filled := g.filled, rows := g.rows, data := g.data, recs := g.recs, model := g.model
                              st := if g.filled = 64 then .full else .opened }
  let n := g.trimTo n m g.filled
  { n with recs := n.recs.mapV fun _ r => { r with dirty := true } }
/-- A copy of a group for its writer (05 R114): same rows, every page dirty, no backing copy. -/
def Group.copyFor (g : Group) (m : ModelDesc) (h : Handle) (q f r num : Nat) : Group :=
  g.copyOf (newGroup h m g.domain g.block q f r num) m
/-- What a writer that stores rows itself does about a group: it waits until the group is resident, while a row's descriptors wait
in the dispatcher (04 R79, 06 R126). -/
def State.whenResident (s : State) (p : Part) (lane : Bool) (g : Nat) : State × GotGroup :=
  (s, if lane && !(s.resident p g) then .move g else .have)
/-- Copy a shared group for its writer (05 R114): a group of its own, which the move engine fills at the step's priority from the tier
that holds the old one. -/
def State.copyShared (s : State) (x : StepRef) (k : Step) (m : ModelDesc) (seq block : Nat) (g : Group) : State × GotGroup :=
  match s.newGroupFor x k m seq block false fun h q f r => g.copyFor m h q f r x.num with
  | (s, .have) =>
    match s.getP x.part none fun t => ((t.steps.find x.num).bind fun k => t.entryOf k seq block).bind fun h => (t.groups.find (hIndex h)).map fun n => (hIndex h, n) with
    | some (i, n) => (s.addCopy (pathKey g.tier n.quad) x.part (.cow i) k.prio (n.pages * pageBytes m.pageCode), .have)
    | none => (s, .have)
  | r => r
/-- Make a block of a sequence writable by the step: walk it, copy it first where it is shared, open it where it has no
group. -/
def State.writable (s : State) (x : StepRef) (k : Step) (m : ModelDesc) (dom : BitVec 16) (seq block : Nat) (draft lane : Bool) :
    State × GotGroup :=
  match s.getP x.part none fun t => (t.steps.find x.num).bind fun k => t.entryOf k seq block with
  | none => s.newGroupFor x k m seq block draft fun h q f r => newGroup h m dom block q f r x.num
  | some h =>
    match s.group? x.part (hIndex h) with
    | none => (s, .none)
    | some g =>
      if g.openedBy = some x.num then s.whenResident x.part lane (hIndex h)
      else if g.refcount > 1 then
        let s := (s.pinFor x.part x.num (hIndex h)).updP x.part fun t => t.touchG (hIndex h)
        match s.copyShared x k m seq block g with
        | (s, .have) =>
          let s := (s.log x (.refDown (hIndex h))).count x.part cCowCopies
          match s.getP x.part none fun t => (t.steps.find x.num).bind fun k => t.entryOf k seq block with
          | some h' => s.whenResident x.part lane (hIndex h')
          | none => (s, .have)
        | r => r
      else
        match s.walkGroup x.part k (hIndex h) with
        | (s, .wait) => (s, .wait)
        | (s, .noPage) => (s, .none)
        | (s, .lost) => (s, .lost)
        | (s, _) => s.whenResident x.part lane (hIndex h)
/-- Make blocks writable in order; it stops at the first that cannot be had, and answers that block. A lane's blocks behind the first
hold drafts alone and skip stage 6 (04 R94). -/
def State.writables (s : State) (x : StepRef) (k : Step) (m : ModelDesc) (dom : BitVec 16) (seq first : Nat) (drafts : Bool) :
    List Nat → State × Option (Nat × GotGroup)
  | [] => (s, none)
  | b :: bs =>
    match s.writable x k m dom seq b (drafts && b != first) drafts with
    | (s, .have) => State.writables s x k m dom seq first drafts bs
    | (s, r) => (s, some (b, r))

/-! ### Appending rows (06 R126, 07 R157) -/

/-- Write one K or V row of a position into a group: converted on its own, with its own scales. It answers how many elements
saturated. -/
def Group.writeRow (g : Group) (m : ModelDesc) (layer head row : Nat) (v : Bool) (vals : List Fl) : Group × Nat :=
  let pg := layer * m.kvHeads + head
  let r := rowWrite m.kvFmt m.mx vals
  let o := tileOff m pg v
  let d := g.data.wr (o + row * rowBytes m.kvFmt m.headDim) r.1
  let d := d.wr (o + 64 * rowBytes m.kvFmt m.headDim + row * rowScales m.kvFmt m.mx m.headDim) r.2.1
  ({ g with data := d, rows := max g.rows (row + 1) }, r.2.2)
/-- Write the K and V row of one head and position, the vectors read at the given places of a message body in element format
`fmt`; the seals of the page follow (04 R74), and it is dirty. -/
def Group.writeHead (g : Group) (m : ModelDesc) (layer hd row fmt : Nat) (body : List Byte) (at_ : Bool → Nat → Nat) : Group × Nat :=
  let k := g.writeRow m layer hd row false (arriveVec fmt body (at_ false hd) m.headDim).1
  let v := k.1.writeRow m layer hd row true (arriveVec fmt body (at_ true hd) m.headDim).1
  let pg := layer * m.kvHeads + hd
  (g.reseal v.1 m pg (max (g.recOf pg).rows (row + 1)) (m.rowRanges row (row + 1)) true, k.2 + v.2)
/-- Write the rows of one position for a layer: K and V of every local head (the row-store path of 06 R126). -/
def State.writePos (s : State) (x : StepRef) (m : ModelDesc) (seq layer pos fmt : Nat) (body : List Byte)
    (at_ : Bool → Nat → Nat) : State :=
  match s.getP x.part none fun t => (t.steps.find x.num).bind fun k => t.entryOf k seq (pos / 64) with
  | none => s
  | some h =>
    match s.group? x.part (hIndex h) with
    | none => s
    | some g =>
      let r := (List.range m.kvHeads).foldl (fun (a : Group × Nat) hd =>
        let w := a.1.writeHead m layer hd (pos % 64) fmt body at_
        (w.1, a.2 + w.2)) (g, 0)
      ((s.updGroup x.part (hIndex h) fun _ => r.1).count x.part cSaturations r.2)
/-! ### Descriptors (04 Table 4-8, 06 R130, R131) -/

/-- The cluster that a block's descriptor goes to (R131): the unquarantined clusters of the group's quadrant in turn by
chunk, or the step's own. -/
def State.recvCluster (s : State) (t : Partition) (k : Step) (quad block : Nat) : Nat :=
  let c := (clustersIn t.clusters quad).filter fun c => (s.clusters.find c).all fun r => r.st == .inService
  if c.isEmpty then k.clu else c.getD (block / 8 % c.length) k.clu
/-- One descriptor for a page of a group. -/
def Iss.desc (i : Iss) (m : ModelDesc) (op block rows layer head qtile : Nat) (g : Group) : Desc :=
  let pg := layer * m.kvHeads + head
  let r := g.recOf pg
  { op := op, last := false, shared := g.refcount > 1, prov := max rows g.rows > g.filled, block := block, rows := rows
    quad := g.quad, frame := g.frame / 2 + pg * pageBytes m.pageCode / 8192, layer := layer, head := head
    psize := m.pageCode, gen := hGen g.h, cluster := i.k.clu, frameId := i.k.frame, lane := i.k.lane
    sealK := r.sealK, sealV := r.sealV, group := hIndex g.h, qtile := qtile, st := .held }
/-- Set `last` on the final descriptor sent to each receiving cluster for a (layer, KV head). -/
def State.markLast (s : State) (t : Partition) (k : Step) : List Desc → List Desc
  | [] => []
  | d :: ds =>
    let key := fun (e : Desc) => (s.recvCluster t k e.quad e.block, e.layer, e.head)
    { d with last := !(ds.any fun e => key e == key d) } :: State.markLast s t k ds
/-- Rows of a block that hold data: committed and provisional ones of this step. -/
def Partition.rowsIn (t : Partition) (k : Step) (seq block : Nat) : Nat :=
  let l := (t.lenOf k seq).1
  let n := if k.seq = some seq then (k.appended.map fun a => a.1 + a.2).getD 0 else 0
  min 64 (max l n - 64 * block)
/-- The groups of some blocks, with their block numbers. -/
def Partition.groupsOf (t : Partition) (k : Step) (seq : Nat) (blocks : List Nat) : List (Nat × Group) :=
  blocks.filterMap fun b => (t.entryOf k seq b).bind fun h => (t.groups.find (hIndex h)).map fun g => (b, g)

/-! ### Compatibility mode: the coarse index (06 R144 to R146) -/

/-- Key of a summary tile: range, layer, local head. -/
def coarseKey (range layer head : Nat) : Nat := (range * 256 + layer) * 64 + head
/-- Bytes of a summary tile: 64 rows in BF16. -/
def ModelDesc.summaryBytes (m : ModelDesc) : Nat := tileBytes 1 false m.headDim
/-- 4 KiB blocks of the summary tiles of one range: whole allocation units. -/
def ModelDesc.summaryBlocks (m : ModelDesc) : Nat := roundUp ((m.pages * m.summaryBytes + 4095) / 4096) 16
/-- The header of a summary tile: BF16, the range's first block, and as many rows as it has FULL blocks; its handle is the sequence's
(DESIGN CHOICE, log entry 147). -/
def Sequence.summaryHeader (sq : Sequence) (m : ModelDesc) (range layer head rows : Nat) : List Byte :=
  headerBytes sq.h layer head false 1 false false m.headDim rows (64 * range) m.modelId
/-- A range whose tiles are created: zeros, sealed. -/
def Sequence.newSummary (sq : Sequence) (m : ModelDesc) (range quad start : Nat) : Summary :=
  { quad := quad, start := start, blocks := m.summaryBlocks, rows := []
    seals := (List.range m.pages).map fun pg => (pg / m.kvHeads * 64 + pg % m.kvHeads,
      crc64Gap (sq.summaryHeader m range (pg / m.kvHeads) (pg % m.kvHeads) 0) m.summaryBytes) }
/-- The mean row of a block in the coarse index, in BF16; zeros for a block that is not FULL. -/
def Sequence.meanOf (sq : Sequence) (m : ModelDesc) (block layer head : Nat) : List Fl :=
  (arriveVec 1 ((sq.coarse.getD (coarseKey (block / 64) layer head) []).rd (block % 64 * 2 * m.headDim) (2 * m.headDim)) 0 m.headDim).1
/-- The softmax scale of a model: FP32, 1/√head_dim where the image holds 0 (06 Table 6-1). -/
def isqrtScale (d : Nat) : Fl :=
  -- 1/√d rounded to FP32: the largest n with n² · d ≤ 2^80 decides
  let n := Nat.sqrt (2 ^ 120 / d)
  Fl.f32 ⟨false, 2 * n + 1, -61⟩
def ModelDesc.scaleVal (m : ModelDesc) : Fl := if m.scale = 0 then isqrtScale m.headDim else f32val m.scale.toNat
/-- The largest of some values, none for no value. -/
def flMax (l : List Fl) : Option Fl :=
  l.foldl (fun a v => match a with
    | none => some v
    | some m => some (m.maxF v)) none
/-- The score of a block for some queries of a head (R145). -/
def Sequence.score (sq : Sequence) (m : ModelDesc) (block layer head : Nat) (qs : List (List Fl)) : Option Fl :=
  flMax (qs.map fun q => f32mul m.scaleVal (dotTree q (sq.meanOf m block layer head)))
/-- Choose 256 blocks: those always attended, then the highest-scoring FULL ones, ties to the lower number (R145). -/
def pickBlocks (always : List Nat) (scored : List (Nat × Fl)) : List Nat :=
  let rest := sortBy (fun (a b : Nat × Fl) => b.2.lt a.2 || (!(a.2.lt b.2) && a.1 ≤ b.1))
    (scored.filter fun p => !always.contains p.1)
  sortBy (fun (a b : Nat) => a ≤ b) (always ++ (rest.take (256 - always.length)).map (·.1))
/-- Is the attention of a sequence of `n` blocks sparse? -/
def Partition.sparse (t : Partition) (n : Nat) : Bool := t.compat && n > 256
/-- Blocks chosen for some queries of a head, whose always-attended blocks are given. -/
def Sequence.chosen (sq : Sequence) (m : ModelDesc) (n layer head : Nat) (always : List Nat) (qs : List (List Fl))
    (full : Nat → Bool) : List Nat :=
  pickBlocks always ((List.range n).filterMap fun b =>
    if full b then (sq.score m b layer head qs).map fun v => (b, v) else none)
/-- The mean of some queries, in FP32 (R146). -/
def meanQuery (qs : List (List Fl)) (d : Nat) : List Fl :=
  (List.range d).map fun e =>
    f32div ((qs.map fun q => q.getD e Fl.zero).foldl f32add Fl.zero) (Fl.ofNat (max 1 qs.length))

/-- The mean of the 64 K rows of a page, in FP32 and rounded to BF16, as bytes, with the number of elements that saturated; none where a
code is reserved (07 R149, Table 7-4). -/
def Group.meanRow (g : Group) (m : ModelDesc) (pg : Nat) : Option (List Byte × Nat) :=
  (g.rowsOf m pg false 64 fFP32).map fun r =>
    let e := emitVec 1 (meanQuery r.1 m.headDim)
    (e.1, r.2 + e.2)
/-- Can every page of a group be read for its summary rows? -/
def Group.summable (g : Group) (m : ModelDesc) : Bool := (List.range m.pages).all fun pg => (g.meanRow m pg).isSome
/-- A sequence's coarse index with the summary rows of a FULL block, where its range has a place; the tiles' seals follow (04 R74). -/
def Sequence.summarise (sq : Sequence) (m : ModelDesc) (block : Nat) (g : Group) : Sequence :=
  let rg := block / 64
  match sq.summaries.find rg with
  | none => sq
  | some su =>
    let rows := if su.rows.contains block then su.rows else su.rows ++ [block]
    let o := block % 64 * 2 * m.headDim
    let r := (List.range m.pages).foldl (fun (a : Tab Bytes × Tab Word) pg =>
      let layer := pg / m.kvHeads
      let head := pg % m.kvHeads
      let key := coarseKey rg layer head
      let old := a.1.getD key []
      let new := ((g.meanRow m pg).map (·.1)).getD (old.rd o (2 * m.headDim))
      let sl := a.2.getD (layer * 64 + head) 0
        ^^^ crcDelta (sq.summaryHeader m rg layer head su.rows.length) (sq.summaryHeader m rg layer head rows.length) m.summaryBytes
        ^^^ crcDelta (old.rd o (2 * m.headDim)) new (m.summaryBytes - o - 2 * m.headDim)
      (a.1.put key (Bytes.wr old o new), a.2.put (layer * 64 + head) sl)) (sq.coarse, su.seals)
    { sq with coarse := r.1, summaries := sq.summaries.put rg { su with rows := rows, seals := r.2 } }
/-- Write the summary rows of a FULL block of a sequence, and count what saturated. -/
def State.summariseBlock (s : State) (p : Part) (m : ModelDesc) (seq block : Nat) (g : Group) : State :=
  if (s.seq? p seq).any fun sq => sq.summaries.has (block / 64) then
    (s.updSeq p seq fun sq => sq.summarise m block g).count p cSaturations
      ((List.range m.pages).map fun pg => ((g.meanRow m pg).map (·.2)).getD 0).sum
  else s
/-- Room in T0 for the summary tiles of some ranges of a sequence, by the out-of-page order (06 R144). -/
def State.coarseRoom (s : State) (p : Part) (me home : Nat) (sess : Option Nat) (m : ModelDesc) (seq : Nat) : List Nat → State × FrameRes
  | [] => (s, .frame 0 0 0)
  | r :: rs =>
    if (s.seq? p seq).all fun sq => sq.summaries.has r then State.coarseRoom s p me home sess m seq rs
    else match s.allocFrame p ⟨me, home, m.summaryBlocks, 0, sess, false⟩ with
      | (s, .frame q f _) =>
        let s := s.updSeq p seq fun sq => { sq with summaries := sq.summaries.put r (sq.newSummary m r q f) }
        State.coarseRoom (s.updP p fun t => t.allocated .t0 (4096 * m.summaryBlocks)) p me home sess m seq rs
      | (s, o) => (s, o)
/-- What becomes of the summary rows that an action must write. -/
inductive CoarseRes where
  | fine
  | wait
  | fail (st : Status)
  deriving DecidableEq, Repr
/-- Before FULL blocks (sequence, block, group) take their summary rows: every page can be read, and every range has a place in T0. -/
def State.coarseFor (s : State) (p : Part) (k : Step) (m : ModelDesc) (sess : Nat) (bs : List (Nat × Nat × Group)) : State × CoarseRes :=
  if bs.any fun e => !(e.2.2.summable m) then (s, .fail .poisonConsumed)
  else bs.foldl (fun (a : State × CoarseRes) e => match a with
    | (s, .fine) => (match s.coarseRoom p k.num (k.clu / 16) (some sess) m e.1 [e.2.1 / 64] with
      | (s, .frame _ _ _) => (s, .fine)
      | (s, .wait) => (s, .wait)
      | (s, .noPage) => (s, .fail .noPage))
    | r => r) (s, .fine)
/-- The coarse index of a fork: that of its parent, in places of its own; a range that has no free run in T0 is left out (DESIGN CHOICE,
log entry 147). -/
def State.forkCoarse (s : State) (p : Part) (m : ModelDesc) (dst : Nat) (o : Sequence) : State :=
  s.forEach o.summaries fun s e =>
    match s.getP p none fun t => t.stage12 ⟨0, e.2.quad, e.2.blocks, 0, none, true⟩ with
    | none => s
    | some (q, f, _) =>
      s.updSeq p dst fun sq =>
        let keys := (List.range m.pages).map fun pg => coarseKey e.1 (pg / m.kvHeads) (pg % m.kvHeads)
        let hd := fun (x : Sequence) (k : Nat) => x.summaryHeader m e.1 (k / 64) (k % 64) e.2.rows.length
        let sls := e.2.seals.mapV fun k v => v ^^^ crcDelta (hd o k) (hd sq k) m.summaryBytes
        let su : Summary := { e.2 with quad := q, start := f, seals := sls }
        { sq with summaries := sq.summaries.put e.1 su, coarse := keys.foldl (fun c k => c.put k (o.coarse.getD k [])) sq.coarse }

/-! ### Fetch requests (06 Table 6-7) -/

structure FetchReq where
  hgSeq : Nat
  layer0 : Nat
  nlayers : Nat
  head0 : Nat
  nheads : Nat
  dfmt : Nat
  fflags : Nat
  block0 : Nat
  nblocks : Nat
  rkey : BitVec 32
  base : Nat
  sKv : Nat
  sBlock : Nat
  sHead : Nat
  sLayer : Nat
  hdrBase : Nat
  needBy : Nat
  layerGap : Nat
  deriving DecidableEq, Repr
/-- The 80-byte request. -/
def fetchReq (b : List Byte) : FetchReq :=
  { hgSeq := fld b 0 4, layer0 := fld b 4 2, nlayers := fld b 6 2, head0 := fld b 8 1, nheads := fld b 9 1
    dfmt := fld b 0xA 1, fflags := fld b 0xB 1, block0 := fld b 0xC 4, nblocks := fld b 0x10 4
    rkey := BitVec.ofNat 32 (fld b 0x14 4), base := fld b 0x18 8, sKv := fld b 0x20 4, sBlock := fld b 0x24 4
    sHead := fld b 0x28 4, sLayer := fld b 0x30 8, hdrBase := fld b 0x38 8, needBy := fld b 0x40 8, layerGap := fld b 0x48 4 }
/-- Blocks that a request delivers, out of `n` blocks holding rows. -/
def FetchReq.count (r : FetchReq) (n : Nat) : Nat := if r.nblocks = 0 then n - r.block0 else r.nblocks
/-- The element format of delivered tiles. -/
def FetchReq.fmt (r : FetchReq) (m : ModelDesc) : Nat := if r.dfmt = 0 then m.kvFmt else r.dfmt
/-- Bytes of a delivered tile: as stored, or converted with no trailer. -/
def FetchReq.tileLen (r : FetchReq) (m : ModelDesc) : Nat :=
  if r.dfmt = 0 then tileBytes m.kvFmt m.mx m.headDim else 64 * rowBytes r.dfmt m.headDim
/-- Where the tile of (layer, head, block, half) goes (R140). -/
def FetchReq.place (r : FetchReq) (l h b kv : Nat) : Nat :=
  r.base + (l - r.layer0) * r.sLayer + (h - r.head0) * r.sHead + (b - r.block0) * r.sBlock + kv * r.sKv
/-- Where its header record goes. -/
def FetchReq.hdrPlace (r : FetchReq) (nb l h b kv : Nat) : Nat :=
  r.hdrBase + 64 * (((l - r.layer0) * r.nheads + (h - r.head0)) * 2 * nb + 2 * (b - r.block0) + kv)
/-- A registered region by its key: slot generation, check byte and slot (12 R268; the region is one of this partition,
DEDUCED, log entry 21). -/
def Partition.byRkey (t : Partition) (rkey : BitVec 32) : Option Nat :=
  (t.regions.find? fun kv => kv.2.registered && kv.2.rkey == rkey).map (·.1)
/-- Is the key one of an older generation of its slot? -/
def Partition.oldRkey (t : Partition) (rkey : BitVec 32) : Bool :=
  let slot := rkey.toNat % 65536
  t.gens.has (slotKey kRegion slot) && rkey.toNat / 2 ^ 24 != t.genOf kRegion slot && rkey != 0
/-- A refused destination key is reported to the owner of the region that it names: this partition's own, else the partition whose key it
is; a key that names none to the partition itself (Table 6-8; 08 Table 8-14). -/
def State.keyReport (s : State) (p : Part) (key : BitVec 32) : State :=
  let named := fun (o : Part) => (s.prt o).bind fun t => (t.byRkey key).bind t.regions.find
  match (p :: List.finRange 16).findSome? fun o => (named o).map fun g => (o, g.h) with
  | some (o, h) => s.statusEvent o .accessViolation h 0
  | none => s.statusEvent p .accessViolation 0 0
/-- Does row 2 of Table 6-8 refuse a fetch: a key that names no VALID region of the partition and is no old one? -/
def Partition.keyRefused (t : Partition) (r : FetchReq) : Bool :=
  match (t.byRkey r.rkey).bind t.regions.find with
  | some g => g.st != .valid
  | none => !(t.oldRkey r.rkey)
/-- The refusal rows of Table 6-8, in order. -/
def Partition.fetchRefusal (t : Partition) (k : Step) (m : ModelDesc) (seq : Nat) (r : FetchReq) : Option Status :=
  let n := t.blocksOf k seq
  let nb := r.count n
  match t.byRkey r.rkey with
  | none => some (if t.oldRkey r.rkey then .staleKey else .accessViolation)
  | some ri =>
    match t.regions.find ri with
    | none => some .accessViolation
    | some g =>
      if g.st ≠ .valid then some .accessViolation
      else if r.nlayers = 0 ∨ r.nlayers > 256 ∨ r.nheads = 0 ∨ nb = 0 ∨ r.layer0 + r.nlayers > m.layers
          ∨ r.head0 + r.nheads > m.kvHeads ∨ r.block0 + nb > n then some .accessViolation
      else if r.dfmt > 2 ∨ r.fflags % 64 ≠ 0 ∨ r.base % 64 ≠ 0 ∨ r.sKv % 64 ≠ 0 ∨ r.sBlock % 64 ≠ 0 ∨ r.sHead % 64 ≠ 0
          ∨ r.sLayer % 64 ≠ 0 ∨ r.sKv < r.tileLen m ∨ r.sBlock < r.tileLen m ∨ r.sHead < r.tileLen m ∨ r.sLayer < r.tileLen m
      then some .accessViolation
      else if r.place (r.layer0 + r.nlayers - 1) (r.head0 + r.nheads - 1) (r.block0 + nb - 1) 1 + r.tileLen m > g.size
          ∨ (bitOf r.fflags 6 ∧ r.hdrPlace nb (r.layer0 + r.nlayers - 1) (r.head0 + r.nheads - 1) (r.block0 + nb - 1) 1 + 64 > g.size)
      then some .accessViolation
      else if (List.range nb).any fun b => t.entryOf k seq (r.block0 + b) == some 0 then some .recomputeRequired
      else none

/-! ### The instructions -/

/-- PTLEN: `committed_len` and `rc_pending` of sequence hs, through the update log. -/
def execPtlen (x : StepRef) (r : Bool) (h : HReg) (a b : GReg) (s : State) : Out :=
  .next (s.issue x { rh := [h], wg := [a, b], ahead := true } r fun i =>
    let hs := i.c.rh h
    i.with kSequence hs ((i.c.wg a 0).wg b 0) fun _ =>
      match i.taken [hs] with
      | some o => (i.keep i.s [hs] o.vals, .done ((i.c.wg a (o.vals.getD 0 0)).wg b (o.vals.getD 1 0)))
      | none =>
        let l := i.t.lenOf i.k (hIndex hs)
        let v := [BitVec.ofNat 64 l.1, BitVec.ofNat 64 l.2]
        (if i.ahead then i.keep i.s [hs] v else i.s, .done ((i.c.wg a (v.getD 0 0)).wg b (v.getD 1 0))))
/-- PTGET: the entry of block ga of sequence hs, without a walk. -/
def execPtget (x : StepRef) (r : Bool) (d h : HReg) (a b : GReg) (s : State) : Out :=
  .next (s.issue x { rh := [h], rg := [a], wg := [b], wh := [d], ahead := true } r fun i =>
    let hs := i.c.rh h
    i.with kSequence hs ((i.c.wg b 0).wh d 0) fun _ =>
      let ops := [hs, i.c.rg a]
      match i.taken ops with
      | some o => (i.keep i.s ops o.vals, .done ((i.c.wg b (o.vals.getD 1 0)).wh d (o.vals.getD 0 0)))
      | none =>
        let v : List Word :=
          if (i.c.rg a).toNat ≥ i.t.blocksOf i.k (hIndex hs) then [0, 2]
          else match i.t.entryOf i.k (hIndex hs) (i.c.rg a).toNat with
            | none => [0, 2]
            | some e => if e = 0 then [0, 1] else [e, 0]
        (if i.ahead then i.keep i.s ops v else i.s, .done ((i.c.wg b (v.getD 1 0)).wh d (v.getD 0 0))))
/-- The word of Table 16-11. -/
def Group.infoWord (g : Group) : Word :=
  BitVec.ofNat 64 ((min g.pins 0xFFFF) * 2 ^ 40 + b2n (g.poisonCount != 0) * 2 ^ 39 + g.filled % 128 * 2 ^ 32
    + g.refcount % 65536 * 2 ^ 16 + g.quad % 4 * 2 ^ 14
    + (match g.st with | .opened => 1 | .full => 2 | .retiring => 3) * 2 ^ 12
    + b2n g.copyOut * 2 ^ 11 + b2n g.ppin * 2 ^ 10
    + (match g.move with | .idle => 0 | .promoting => 1 | .demoting => 2) * 2 ^ 8
    + ((g.backing.map Tier.code).getD 15) * 2 ^ 4 + g.tier.code)
/-- PGINFO: ga := the word of Table 16-11 of group hs, gb := its age; it neither touches nor pins. -/
def execPginfo (x : StepRef) (r : Bool) (h : HReg) (a b : GReg) (s : State) : Out :=
  .next (s.issue x { rh := [h], wg := [a, b], ahead := true } r fun i =>
    let hs := i.c.rh h
    i.with kGroup hs ((i.c.wg a 0).wg b 0) fun _ =>
      match i.taken [hs] with
      | some o => (i.keep i.s [hs] o.vals, .done ((i.c.wg a (o.vals.getD 0 0)).wg b (o.vals.getD 1 0)))
      | none =>
        let v := ((i.t.groups.find (hIndex hs)).map fun g => [g.infoWord, BitVec.ofNat 64 (i.t.age g)]).getD [0, 0]
        (if i.ahead then i.keep i.s [hs] v else i.s, .done ((i.c.wg a (v.getD 0 0)).wg b (v.getD 1 0))))
/-- WALK: blocks ga to ga + gb − 1 of sequence hs; gb := groups not homed in T0 at their walk. -/
def execWalk (x : StepRef) (r : Bool) (h : HReg) (a b : GReg) (s : State) : Out :=
  .next (s.issue x { rh := [h], rg := [a, b], wg := [a, b], ahead := true } r fun i =>
    let hs := i.c.rh h
    i.with kSequence hs ((i.c.wg a 0).wg b 0) fun _ =>
      let ops := [hs, i.c.rg a, i.c.rg b]
      match i.taken ops with
      | some o => (i.keep i.s ops o.vals, .done (i.c.wg b (o.vals.getD 0 0)))
      | none =>
        let last := min ((i.c.rg a).toNat + (i.c.rg b).toNat) (i.t.blocksOf i.k (hIndex hs))
        match i.s.walkBlocks i.p i.k (hIndex hs) ((List.range last).drop (i.c.rg a).toNat) 0 with
        | (s, .fine, n) => (if i.ahead then i.keep s ops [BitVec.ofNat 64 n] else s, .done (i.c.wg b (BitVec.ofNat 64 n)))
        | (s, .dropped bl, n) =>
          (s, .status .recomputeRequired ((i.c.wg a (BitVec.ofNat 64 bl)).wg b (BitVec.ofNat 64 n)))
        | (s, .wait, _) => (s, .hold .frame)
        | (s, .noPage, _) => (s, .squash .noPage))
/-- The queries of a lane's record for one head, as they arrive. -/
def BufMsg.rawQueries (b : BufMsg) (m : ModelDesc) (head : Nat) : List (List Fl) :=
  let n := fld b.body 1 1
  ((List.range n).map fun t => (List.range m.qPerKv).map fun g =>
    (arriveVec (b.xfmt + 1) b.body (m.recQuery n t head g) m.headDim).1).flatten
/-- The queries of a lane's record for one head, as BF16 values (07 Table 7-4). -/
def BufMsg.laneQueries (b : BufMsg) (m : ModelDesc) (head : Nat) : List (List Fl) :=
  (b.rawQueries m head).map fun q => q.map fun v => (v.conv fBF16).1
/-- The attend descriptors of a lane for a layer (R130, R145). -/
def Iss.attendDescs (i : Iss) (m : ModelDesc) (seq layer : Nat) (b : BufMsg) : List Desc :=
  let n := i.t.blocksOf i.k seq
  let gs := i.t.groupsOf i.k seq (List.range n)
  let sp := i.t.sparse n
  ((List.range m.kvHeads).map fun hd =>
    let pick := if sp then
        match i.t.sequences.find seq with
        | some sq => sq.chosen m n layer hd ((0 : Nat) :: [n - 3, n - 2, n - 1]) (b.laneQueries m hd) fun bl =>
            gs.any fun p => p.1 == bl && p.2.st == .full
        | none => []
      else List.range n
    let coarse := if sp then (List.range ((n + 63) / 64)).map fun rg =>
        let su := (i.t.sequences.find seq).bind fun sq => sq.summaries.find rg
        { op := 3, last := false, shared := false, prov := false, block := 64 * rg, rows := min 64 (n - 64 * rg)
          quad := (su.map (·.quad)).getD (i.k.clu / 16)
          frame := (su.map fun e => e.start / 2 + (layer * m.kvHeads + hd) * m.summaryBytes / 8192).getD 0
          layer := layer, head := hd, psize := 0, gen := ((i.t.sequences.find seq).map fun sq => hGen sq.h).getD 0
          cluster := i.k.clu, frameId := i.k.frame, lane := i.k.lane
          sealK := (su.map fun e => e.seals.getD (layer * 64 + hd) 0).getD 0, sealV := 0, group := 0, qtile := 0
          st := DescSt.done : Desc } else []
    coarse ++ (gs.filter fun p => pick.contains p.1).map fun p =>
      i.desc m 0 p.1 (i.t.rowsIn i.k seq p.1) layer hd 0 p.2).flatten
/-- The attend descriptors of a prefill segment for a layer (R138, R146). -/
def Iss.rowDescs (i : Iss) (m : ModelDesc) (seq layer seg : Nat) (w : Wave) (b : BufMsg) : List Desc :=
  let n := i.t.blocksOf i.k seq
  let gs := i.t.groupsOf i.k seq (List.range n)
  let toks := w.segTokens seg
  let pos0 := ((w.lanes[seg]?).map (·.pos)).getD 0
  let tiles := (List.range ((w.tokens.length + 63) / 64)).filter fun q => toks.any fun j => j / 64 == q
  (tiles.map fun q =>
    let mine := toks.filter fun j => j / 64 == q
    let first := pos0 + toks.idxOf (mine.headD 0)
    let lastP := pos0 + toks.idxOf (mine.getLastD 0)
    ((List.range m.kvHeads).map fun hd =>
      let pick := if i.t.sparse n then
          match i.t.sequences.find seq with
          | some sq =>
            let own := (List.range (lastP / 64 - first / 64 + 1)).map (· + first / 64)
            let before := (List.range 3).filterMap fun d => if first / 64 ≥ d + 1 then some (first / 64 - d - 1) else none
            let qs := (List.range m.qPerKv).map fun g => (meanQuery (mine.map fun j =>
              (arriveVec (b.xfmt + 1) b.body (m.rowQuery j hd g) m.headDim).1.map fun v => (v.conv fBF16).1) m.headDim).map fun v =>
                (v.conv fBF16).1
            sq.chosen m n layer hd (0 :: (before ++ own)).eraseDups qs fun bl => gs.any fun p => p.1 == bl && p.2.st == .full
          | none => []
        else List.range n
      (gs.filter fun p => pick.contains p.1).map fun p =>
        i.desc m 1 p.1 (i.t.rowsIn i.k seq p.1) layer hd q p.2).flatten).flatten
/-- The descriptors of a fetch for a layer: one per tile (R140). -/
def Iss.fetchDescs (i : Iss) (m : ModelDesc) (seq layer : Nat) (r : FetchReq) : List Desc :=
  let nb := r.count (i.t.blocksOf i.k seq)
  let gs := i.t.groupsOf i.k seq ((List.range nb).map (· + r.block0))
  ((List.range r.nheads).map fun hd => ((gs.map fun p => (List.range 2).map fun kv =>
    let rows := if bitOf r.fflags 7 then i.t.rowsIn i.k seq p.1 else p.2.filled
    i.desc m 2 p.1 rows layer (r.head0 + hd) kv p.2)).flatten).flatten
/-- The verify-only descriptors of a layer. -/
def Iss.verifyDescs (i : Iss) (m : ModelDesc) (seq layer : Nat) : List Desc :=
  let gs := i.t.groupsOf i.k seq (List.range (i.t.blocksOf i.k seq))
  ((List.range m.kvHeads).map fun hd => gs.map fun p => i.desc m 5 p.1 (i.t.rowsIn i.k seq p.1) layer hd 0 p.2).flatten
/-- Emit descriptors and note the layer. The selection needs the scores before the instruction goes on, so the summary tiles are read as
they are emitted (DESIGN CHOICE, log entry 146): they count here. -/
def State.emit (s : State) (x : StepRef) (layer : Nat) (m : ModelDesc) (ds : List Desc) : State :=
  let s := s.forEach (ds.filter fun d => d.op == 3) fun s d =>
    match (s.prt x.part).bind fun t => (t.steps.find x.num).map fun k => s.recvCluster t k d.quad d.block with
    | some c => (s.cluCount c 6 1).cluCount c (if c / 16 = d.quad then 4 else 5) m.summaryBytes
    | none => s
  s.updStep x fun k =>
    { k with descs := k.descs ++ s.getP x.part ds (fun t => s.markLast t k ds)
             emitted := if k.emitted.contains layer then k.emitted else k.emitted ++ [layer] }
/-- What a mode of WALKEMIT emits, or the status that refuses it. -/
def Iss.emission (i : Iss) (m : ModelDesc) (seq layer mode : Nat) (tok : Word) : Except Status (List Desc) :=
  if mode = 3 then .ok (i.verifyDescs m seq layer)
  else
    match i.k.tokenMsg tok with
    | none => .error .accessViolation
    | some b =>
      let want := if mode = 0 then mtAttend else if mode = 1 then mtPrefillRow else mtFetch
      if b.mtype ≠ want ∨ i.k.seq ≠ some seq ∨ (mode ≠ 2 ∧ b.layer ≠ layer) then .error .accessViolation
      else if mode = 0 then .ok (i.attendDescs m seq layer b)
      else if mode = 1 then
        match i.t.waveOf i.k with
        | some w => .ok (i.rowDescs m seq layer i.k.lane w b)
        | none => .error .accessViolation
      else
        let r := fetchReq b.body
        match if i.k.emitted.isEmpty then i.t.fetchRefusal i.k m seq r else none with
        | some st => .error st
        | none =>
          if layer < r.layer0 ∨ r.layer0 + r.nlayers ≤ layer then .error .accessViolation
          else .ok (i.fetchDescs m seq layer r)
/-- The report to the region owner where row 2 of Table 6-8 refuses the fetch that WALKEMIT begins. -/
def Iss.reportKey (i : Iss) (mode seq : Nat) (tok : Word) : Iss :=
  match i.k.tokenMsg tok with
  | some b =>
    let r := fetchReq b.body
    if mode = 2 && b.mtype == mtFetch && i.k.seq == some seq && i.k.emitted.isEmpty && i.t.keyRefused r then
      { i with s := i.s.keyReport i.p r.rkey } else i
  | none => i
/-- WALKEMIT: walk every block holding rows and emit the descriptors of layer ga (R376, Table 16-12). -/
def execWalkemit (x : StepRef) (r : Bool) (h : HReg) (a b : GReg) (mode : Fin 8) (s : State) : Out :=
  .next (s.issue x { rh := [h], rg := [a], ahead := true } r fun i =>
    let hs := i.c.rh h
    if mode.val ≥ 4 then (i.s, .fault .accessViolation true)
    else i.with kSequence hs i.c fun _ =>
      let seq := hIndex hs
      let ops := [hs, i.c.rg a]
      match (i.t.seqOf i.k seq).bind fun sq => (i.t.sessOf i.k (hIndex sq.sess)).bind fun ss => i.t.model? ss.model with
      | none => i.bad .accessViolation i.c
      | some m =>
        if (i.c.rg a).toNat ≥ m.layers then i.bad .accessViolation i.c
        else
          let n := i.t.blocksOf i.k seq
          if i.ahead then
            match i.s.walkBlocks i.p i.k seq (List.range n) 0 with
            | (s, .fine, _) => (i.keep s ops [], .done i.c)
            | (s, .wait, _) => (s, .hold .frame)
            | (s, .noPage, _) => (s, .squash .noPage)
            | (s, .dropped _, _) => (s, .status .recomputeRequired i.c)
          else
            match i.emission m seq (i.c.rg a).toNat mode.val (i.c.rg b) with
            | .error st => (i.reportKey mode.val seq (i.c.rg b)).bad st i.c
            | .ok _ =>
              let blocks := if (i.taken ops).isSome then [] else List.range n
              match i.s.walkBlocks i.p i.k seq blocks 0 with
              | (s, .fine, _) =>
                let s := i.keep s ops []
                -- the descriptors read the groups as the walk left them
                match s.prt i.p, s.step? x with
                | some t, some k =>
                  match ({ i with s := s, t := t, k := k } : Iss).emission m seq (i.c.rg a).toNat mode.val (i.c.rg b) with
                  | .ok ds => (s.emit x (i.c.rg a).toNat m ds, .done i.c)
                  | .error st => (s, .status st i.c)
                | _, _ => (s, .done i.c)
              | (s, .dropped _, _) => (s, .status .recomputeRequired i.c)
              | (s, .wait, _) => (s, .hold .frame)
              | (s, .noPage, _) => (s, .squash .noPage))
/-- The new positions of a message for the step: the first, how many, the place of the K and V rows of the j-th, and
the element format. -/
def Partition.newRows (t : Partition) (k : Step) (m : ModelDesc) (b : BufMsg) : Option (Nat × Nat × (Nat → Bool → Nat → Nat) × Nat) :=
  if b.mtype = mtAttend ∨ b.mtype = mtStore then
    let n := fld b.body 1 1
    let q := b.mtype == mtAttend
    some (fld b.body 8 4, n, fun j v hd => m.recRow n q v j hd, b.xfmt + 1)
  else if b.mtype = mtPrefillRow then
    (t.waveOf k).bind fun w => (w.lanes[k.lane]?).map fun l =>
      let toks := w.segTokens k.lane
      (l.pos, toks.length, fun j v hd => m.rowRow w.tokens.length v (toks.getD j 0) hd, b.xfmt + 1)
  else none
/-- The write descriptors of a row's positions for a layer: one for each page that receives rows (06 R138). -/
def Iss.writeDescs (i : Iss) (m : ModelDesc) (seq layer pos n : Nat) : List Desc :=
  let blocks := if n = 0 then [] else (List.range ((pos + n - 1) / 64 - pos / 64 + 1)).map (· + pos / 64)
  ((List.range m.kvHeads).map fun hd => (i.t.groupsOf i.k seq blocks).map fun e =>
    i.desc m 4 e.1 (min (64 * (e.1 + 1)) (pos + n) - max (64 * e.1) pos) layer hd 0 e.2).flatten
/-- APPEND: the new K and V rows of the message's layer go into provisional slots of sequence hs (06 R126): a lane's by the row-store
path, once their groups are resident, a row's with write descriptors (R138). -/
def execAppend (x : StepRef) (r : Bool) (h : HReg) (a : GReg) (s : State) : Out :=
  .next (s.issue x { rh := [h], ahead := true } r fun i =>
    let hs := i.c.rh h
    i.with kSequence hs i.c fun _ =>
      let seq := hIndex hs
      match i.t.sequences.find seq, (i.t.sequences.find seq).bind fun sq => (i.t.sessions.find (hIndex sq.sess)).bind fun ss =>
          (i.t.model? ss.model).map fun m => (ss, m) with
      | some sq, some (ss, m) =>
        if i.ahead then
          let b := (i.t.lenOf i.k seq).1 / 64
          match i.s.walkBlocks i.p i.k seq [b] 0 with
          | (s, .fine, _) => (i.keep s [hs] [], .done i.c)
          | (s, .wait, _) => (s, .hold .frame)
          | (s, .noPage, _) => (s, .squash .noPage)
          | (s, .dropped _, _) => (s, .status .recomputeRequired i.c)
        else
          match i.k.tokenMsg (i.c.rg a) with
          | none => i.bad .accessViolation i.c
          | some b =>
            match i.t.newRows i.k m b with
            | none => i.bad .accessViolation i.c
            | some (pos, cnt, at_, fmt) =>
              if i.k.seq ≠ some seq then i.bad .accessViolation i.c
              else if i.t.entryOf i.k seq (pos / 64) = some 0 then i.bad .recomputeRequired i.c
              else
                let lim := i.t.limit sq
                let fit := min cnt (lim - pos)
                let n0 := match i.k.appended with
                  | some ap => ap.2
                  | none => fit
                let blocks := if n0 = 0 then [] else (List.range ((pos + n0 - 1) / 64 - pos / 64 + 1)).map (· + pos / 64)
                let go := fun (s : State) (n : Nat) =>
                  let s := if b.mtype = mtPrefillRow then
                      match s.prt x.part, s.step? x with
                      | some t, some k => s.updStep x fun e =>
                          { e with descs := e.descs ++ ({ i with s := s, t := t, k := k } : Iss).writeDescs m seq b.layer pos n }
                      | _, _ => s
                    else (List.range n).foldl (fun s j =>
                      s.writePos x m seq b.layer (pos + j) fmt b.body fun v hd => at_ j v hd) s
                  let s := s.updStep x fun k =>
                    { k with appended := some (pos, n), nNew := n
                             appLayers := if k.appLayers.contains b.layer then k.appLayers else k.appLayers ++ [b.layer]
                             drafts := if b.layer = 0 ∧ b.mtype ≠ mtPrefillRow
                               then (List.range (cnt - 1)).map fun j => fld b.body (16 + 4 * j) 4 else k.drafts }
                  let s := i.keep s [hs] []
                  let s := s.updSeq i.p seq fun q => { q with prov := n }
                  (s, if cnt > fit then .done (i.c.record .lengthLimit) else IOut.done i.c)
                match i.s.writables x i.k m ss.domain seq (pos / 64) (b.mtype ≠ mtPrefillRow) blocks with
                | (s, none) => go s n0
                | (s, some (_, .wait)) => (s, .hold .frame)
                | (s, some (_, .move g)) => (s, .hold (.group g))
                | (s, some (_, .lost)) => (s, .status .recomputeRequired i.c)
                | (s, some (bl, _)) =>
                  if bl = pos / 64 ∨ b.mtype = mtPrefillRow then (s, .squash .noPage) else go s (64 * bl - pos)
      | _, _ => i.bad .accessViolation i.c)
/-- PGPROMOTE: walk the one group hs. -/
def execPgpromote (x : StepRef) (r : Bool) (h : HReg) (s : State) : Out :=
  .next (s.issue x { rh := [h], ahead := true } r fun i =>
    let hs := i.c.rh h
    i.with kGroup hs i.c fun _ =>
      if (i.taken [hs]).isSome then (i.keep i.s [hs] [], .done i.c)
      else match i.s.walkGroup i.p i.k (hIndex hs) with
        | (s, .wait) => (s, .hold .frame)
        | (s, .noPage) => (s, .squash .noPage)
        | (s, .lost) => (s, .squash .recomputeRequired)
        | (s, _) => (if i.ahead then i.keep s [hs] [] else s, .done i.c))
/-- PGDEMOTE: the request enters the update log; ga := 1. -/
def execPgdemote (x : StepRef) (r : Bool) (h : HReg) (a : GReg) (tgt : Bool) (s : State) : Out :=
  .next (s.issue x { rh := [h], wg := [a], ahead := true } r fun i =>
    let hs := i.c.rh h
    i.with kGroup hs (i.c.wg a 0) fun _ =>
      if (i.taken [hs]).isSome then (i.keep i.s [hs] [], .done (i.c.wg a 1))
      else
        let s := i.s.log x (.demote (hIndex hs) tgt)
        (if i.ahead then i.keep s [hs] [] else s, .done (i.c.wg a 1)))
/-- The copies of a fork: a block whose group takes no more references gets one of its own (04 R84). -/
def State.forkCopies (s : State) (x : StepRef) (k : Step) (m : ModelDesc) (dst src : Nat) : List Nat → State × GotGroup
  | [] => (s, .have)
  | b :: bs =>
    match s.getP x.part none fun t => (t.steps.find x.num).bind fun k =>
        if (t.entryOf k dst b).isSome then none
        else (t.entryOf k src b).bind fun h => if t.refFull h then t.groups.find (hIndex h) else none with
    | none => State.forkCopies s x k m dst src bs
    | some g =>
      match (s.pinFor x.part x.num (hIndex g.h)).copyShared x k m dst b g with
      | (s, .have) => State.forkCopies (s.count x.part cCowCopies) x k m dst src bs
      | r => r
/-- PTFORK: sequence hd becomes a fork of sequence hs at stage 4 (05 R103); hs counts as open in the step, which first waits for the
end of a step that is open on it (03 R66). -/
def execPtfork (x : StepRef) (r : Bool) (d h : HReg) (s : State) : Out :=
  .next (s.issue x { rh := [d, h], ahead := true } r fun i =>
    let hd := i.c.rh d
    let hs := i.c.rh h
    i.with kSequence hd i.c fun _ => i.with kSequence hs i.c fun _ =>
      if (i.taken [hd, hs]).isSome then (i.keep i.s [hd, hs] [], .done i.c)
      else
        match i.t.seqOf i.k (hIndex hd), i.t.seqOf i.k (hIndex hs) with
        | some dq, some sq =>
          let busy := i.k.log.any fun o => match o with
            | .fork q _ => q == hIndex hd
            | .entry q _ e => q == hIndex hd && !((i.t.groups.find (hIndex e)).any fun g => g.openedBy == some x.num)
            | _ => false
          if dq.sess ≠ sq.sess ∨ dq.st ≠ .idle ∨ dq.committed ≠ 0 ∨ !dq.table.isEmpty ∨ busy then i.bad .accessViolation i.c
          else
            if sq.openStep.any (· != x.num) then (i.s, .hold (.seq (hIndex hs)))
            else
              let s := i.s.updSeq i.p (hIndex hs) fun q => { q with openStep := some x.num }
              let copies := match (i.t.sessOf i.k (hIndex sq.sess)).bind fun ss => i.t.model? ss.model with
                | some m => s.forkCopies x i.k m (hIndex hd) (hIndex hs) (List.range (i.t.blocksOf i.k (hIndex hs)))
                | none => (s, .have)
              match copies with
              | (s, .have) =>
                let s := s.log x (.fork (hIndex hd) (hIndex hs))
                (if i.ahead then i.keep s [hd, hs] [] else s, .done i.c)
              | (s, .wait) => (s, .hold .frame)
              | (s, .move g) => (s, .hold (.group g))
              | (s, .lost) => (s, .squash .recomputeRequired)
              | (s, .none) => (s, .squash .noPage)
        | _, _ => i.bad .accessViolation i.c)

end Sys2Proof.Machine
end

