-- ==== Sys2Proof/Machine/PrefixGroup.lean ====
section
/-! DEFINITION. The block-key group 0x6: longest match, lookup, keys, domains (05 R96 to R102, R111, R112, R116; 16 R377,
R378). -/

namespace Sys2Proof.Machine

/-- Pin and touch a group that a lookup returned. -/
def State.pinHit (s : State) (p : Part) (num g : Nat) : State :=
  (s.pinFor p num g).updP p fun t => t.touchG g
/-- Pin and touch a group of another partition for a step (04 R86; R100). -/
def State.pinOther (s : State) (x : StepRef) (o : Part) (g : Nat) : State :=
  ((s.updGroup o g fun r => { r with pins := r.pins + 1 }).updP o fun t => t.touchG g).updStep x fun k =>
    { k with xpins := k.xpins ++ [(o.val, g)] }
/-- The block numbers' keys of a prompt: each chains the one before (R101). -/
def promptKeys (dk : Digest) (model : BitVec 16) (tok : Nat → Nat) : Nat → Nat → Key128 → List Key128
  | 0, _, _ => []
  | n + 1, b, par =>
    let k := blockKey dk par model ((List.range 64).map fun i => BitVec.ofNat 32 (tok (64 * b + i)))
    k :: promptKeys dk model tok n (b + 1) k
/-- What a hit gives: the group to name, a wait, or no page; or the session's partition may not look there (R99). -/
inductive Hit where
  | group (h : Handle)
  | wait
  | noPage
  | notMember
  deriving DecidableEq, Repr
/-- A group that a lookup returned: pinned, touched, and promoted under Table 4-12 where it is not homed in T0 (R111). Of a group whose
references are full the step takes a copy, and a lookup of a revival's stage 2 promotes nothing (R112; 09 R203): `promote` is false there. -/
def State.takeHit (s : State) (p : Part) (k : Step) (h : Handle) (promote : Bool) : State × Hit :=
  let s := s.pinHit p k.num (hIndex h)
  if !promote || (s.getP p false fun t => t.refFull h) then (s, .group h)
  else match s.meet p (hIndex h) (k.clu / 16) k.prio k.num (s.getP p none fun t => t.stepSess k) false with
    | (s, .wait) => (s, .wait)
    | (s, .noPage) => (s, .noPage)
    | (s, _) => (s, .group h)
/-- Import an owner's group into the member's own share (R100), for the allocation number `me`: a step pins both groups, a pre-revival
neither. -/
def State.importGroup (s : State) (p : Part) (me home : Nat) (sess : Option Nat) (step : Bool) (m : ModelDesc) (o : Part) (n : Nat)
    (key : Key128) (dom : BitVec 16) (parent : Handle) : State × Hit :=
  match (s.prt o).bind fun t => (t.nodes.find n).bind fun nd => (t.groups.find (hIndex nd.group)).map fun g => (nd, g) with
  | none => (s, .noPage)
  | some (nd, g) =>
    match s.getP p none fun t => t.newSlot p kGroup with
    | none => (s, .noPage)
    | some slot =>
      match s.allocFrame p ⟨me, home, m.frameBlocks, m.runBlocks, sess, false⟩ with
      | (s, .wait) => (s, .wait)
      | (s, .noPage) => (s, .noPage)
      | (s, .frame q f r) =>
        let h := s.getP p 0 fun t => t.handleOf p kGroup slot
        let ng : Group := { g.copyOf (newGroup h m dom nd.block q f r me) m with st := .full, openedBy := none }
        let s := if step then s.pinOther ⟨p, me⟩ o (hIndex nd.group) else s.updP o fun t => t.touchG (hIndex nd.group)
        let s := s.updP p fun t =>
          { t with groups := t.groups.put slot { ng with touch := t.epoch .t0 } }.allocated .t0
            (4096 * (m.frameBlocks + m.runBlocks))
        let s := if step then s.pinFor p me slot else s
        let s := (s.insertNode p slot key dom m.modelId nd.block parent true).count p cImports
        (if step then s else s.settleGroup p slot, .group h)
/-- One probe of a walk, of PXLOOK or of a revival: the node found and its group, or an import of it. -/
def State.probe (s : State) (x : StepRef) (k : Step) (m : ModelDesc) (dom : BitVec 16) (key : Key128) (parent : Handle)
    (promote : Bool) : State × Option (Part × Nat × Hit) :=
  match s.lookup x.part dom m.modelId key with
  | (s, none) => (s, none)
  | (s, some (o, n)) =>
    if o = x.part then
      match (s.prt o).bind fun t => t.nodes.find n with
      | some nd =>
        if s.unreachable o (hIndex nd.group) then (s.dropUnreachable o (hIndex nd.group), none)
        else match s.takeHit o k nd.group promote with
        | (s, h) => (s, some (o, n, h))
      | none => (s, none)
    else
      match s.importGroup x.part x.num (k.clu / 16) (s.getP x.part none fun t => t.stepSess k) true m o n key dom parent with
      | (s, h) => (s, some (o, n, h))
/-- The walk of R112: it stops at the first miss. In an equal-time domain it probes on without using what it finds: those probes neither
pin, touch nor import (DESIGN CHOICE, log entry 149). -/
def State.matchWalk (s : State) (x : StepRef) (k : Step) (m : ModelDesc) (dom : BitVec 16) (et : Bool) (seq : Nat) :
    List Key128 → Nat → Handle → State × Nat × Option Hit
  | [], b, _ => (s, b, none)
  | key :: ks, b, parent =>
    match s.probe x k m dom key parent true with
    | (s, none) =>
      if et then ((ks.foldl (fun (s : State) k' => (s.lookup x.part dom m.modelId k').1) s), b, none) else (s, b, none)
    | (s, some (_, _, .wait)) => (s, b, some .wait)
    | (s, some (_, _, .noPage)) => (s, b, some .noPage)
    | (s, some (_, _, .notMember)) => (s, b, some .notMember)
    | (s, some (_, _, .group h)) =>
      let node := s.getP x.part 0 fun t => t.nodeOf key dom m.modelId
      let full := s.getP x.part false fun t => t.refFull h
      let r : State × Option Hit :=
        if full then
          match s.group? x.part (hIndex h) with
          | none => (s, some .noPage)
          | some g =>
            match s.copyShared x k m seq b g with
            | (s, .have) => (s, none)
            | (s, .move _) => (s, none)
            | (s, .wait) => (s, some .wait)
            | (s, .lost) => (s, some .noPage)
            | (s, .none) => (s, some .noPage)
        else ((s.log x (.entry seq b h)).log x (.refUp (hIndex h)), none)
      match r with
      | (s, some hit) => (s, b, some hit)
      | (s, none) => State.matchWalk (s.log x (.key seq b key)) x k m dom et seq ks (b + 1) node
/-- Drop what an interrupted walk has logged: it is walked again from its first block, and its lookups and hits count again (DESIGN CHOICE,
log entry 148). -/
def Step.unlogWalk (k : Step) (n : Nat) : Step := { k with log := k.log.take n }

/-- PXMATCH: the longest match of the prompt of sequence hs (R112); gb := blocks matched. -/
def execPxmatch (x : StepRef) (r : Bool) (h : HReg) (a b : GReg) (s : State) : Out :=
  .next (s.issue x { rh := [h], rg := [a], wg := [b] } r fun i =>
    let hs := i.c.rh h
    let zero := i.c.wg b 0
    i.with kSequence hs zero fun _ =>
      let seq := hIndex hs
      match i.t.sequences.find seq, (i.t.sequences.find seq).bind fun sq => (i.t.sessions.find (hIndex sq.sess)).bind fun ss =>
          (i.t.model? ss.model).map fun m => (ss, m) with
      | some sq, some (ss, m) =>
        let isReq := (i.t.liveOf i.k.q i.k.cid).any fun l => l.req.isSome
        if i.k.idx ≠ 0 ∨ i.k.kind ≠ 0 ∨ !isReq ∨ sq.committed ≠ 0 ∨ !sq.table.isEmpty then i.bad .accessViolation zero
        else if ss.domain = 0 then (i.s, .done zero)
        else if !(i.s.domMember i.p ss.domain) then
          (i.s.statusEvent i.p .accessViolation hs 0, .status .accessViolation zero)
        else
          match i.taken [hs, i.c.rg a] with
          | some o => (i.keep i.s [hs, i.c.rg a] [], .done (i.c.wg b (o.vals.getD 0 0)))
          | none =>
            let et := i.s.isEt ss.domain
            let n := min (((i.c.rg a).toNat - 1) / 64) (if i.t.compat then 16384 else 4096)
            let keys := promptKeys (i.s.domKey ss.domain) m.modelId (fun pos => i.t.token sq pos) n 0 0
            match i.s.matchWalk x i.k m ss.domain et seq keys 0 0 with
            | (s, _, some .wait) => (s.updStep x fun k => k.unlogWalk i.k.log.length, .hold .frame)
            | (s, _, some _) => (s, .squash .noPage)
            | (s, mt, none) =>
              let s := s.log x (.setLen seq (64 * mt) sq.rc)
              let v := BitVec.ofNat 64 mt
              if et then
                (s.updStep x fun k => { k with raDone := k.raDone ++ [⟨i.c.pc, [hs, i.c.rg a], [v]⟩] }, .hold .equalTime)
              else (s, .done (i.c.wg b v))
      | _, _ => i.bad .accessViolation zero)
/-- PXLOOK: look up the key at local ga in the session's domain and model; hd := the node, gb := 1 on a hit. -/
def execPxlook (x : StepRef) (r : Bool) (d h : HReg) (a b : GReg) (s : State) : Out :=
  .next (s.issue x { rh := [h], rg := [a], wg := [b], wh := [d] } r fun i =>
    let hs := i.c.rh h
    let zero := (i.c.wg b 0).wh d 0
    i.with kSession hs zero fun _ =>
      let ad := (i.c.rg a).toNat
      if !(localOk i.prog.data ad 16 8) then (i.s, .fault .accessViolation false)
      else
        match i.t.sessOf i.k (hIndex hs) with
        | none => i.bad .accessViolation zero
        | some ss =>
          match i.t.model? ss.model with
          | none => (i.s, .done zero)
          | some m =>
            if ss.domain = 0 then (i.s, .done zero)
            else if !(i.s.domMember i.p ss.domain) then
              (i.s.statusEvent i.p .accessViolation hs 0, .status .accessViolation zero)
            else
              let ops := [hs, i.c.rg a]
              match i.taken ops with
              | some o => (i.keep i.s ops [], .done ((i.c.wg b (o.vals.getD 1 0)).wh d (o.vals.getD 0 0)))
              | none =>
                let key : Key128 := BitVec.ofNat 128 (leNat (i.k.peek i.prog.data ad 16))
                match i.s.probe x i.k m ss.domain key 0 true with
                | (s, some (_, _, .wait)) => (s, .hold .frame)
                | (s, some (_, _, .noPage)) => (s, .squash .noPage)
                | (s, res) =>
                  let node : Handle := match res with
                    | some _ => s.getP i.p 0 fun t => t.nodeOf key ss.domain m.modelId
                    | none => 0
                  let v : List Word := if res.isSome then [node, 1] else [0, 0]
                  if i.s.isEt ss.domain then
                    (s.updStep x fun k => { k with raDone := k.raDone ++ [⟨i.c.pc, ops, v⟩] }, .hold .equalTime)
                  else (s, .done ((i.c.wg b (v.getD 1 0)).wh d (v.getD 0 0))))
/-- PXKEY: the 16-byte key of block ga of sequence hs goes to scratch gb. -/
def execPxkey (x : StepRef) (r : Bool) (h : HReg) (a b : GReg) (s : State) : Out :=
  .next (s.issue x { rh := [h], rg := [a, b] } r fun i =>
    let hs := i.c.rh h
    i.with kSequence hs i.c fun _ =>
      let seq := hIndex hs
      let bl := (i.c.rg a).toNat
      let ad := (i.c.rg b).toNat
      if bl ≥ (i.t.lenOf i.k seq).1 / 64 then i.bad .accessViolation i.c
      else if !(localWrOk ad 16 8) then (i.s, .fault .accessViolation false)
      else
        let logged := i.k.log.foldl (fun a o => match o with
          | .key q c k => if q = seq ∧ c = bl then some k else a
          | _ => a) none
        match i.t.seqOf i.k seq, logged with
        | _, some k => (i.s.updStep x fun st => st.poke ad (toLe k.toNat 16), .done i.c)
        | some sq, none =>
          match i.t.sessOf i.k (hIndex sq.sess) with
          | none => i.bad .accessViolation i.c
          | some ss =>
            let k := i.s.keyOf i.p sq ss.domain ss.model bl
            (i.s.updStep x fun st => st.poke ad (toLe k.toNat 16), .done i.c)
        | none, none => i.bad .accessViolation i.c)
/-- DOMCREATE: reserve the lowest free number, draw the key; ACTIVE from stage 4. -/
def execDomcreate (x : StepRef) (r : Bool) (a : GReg) (s : State) : Out :=
  .next (s.issue x { wg := [a] } r fun i =>
    if !i.priv then i.bad .accessViolation (i.c.wg a 0)
    else
      match i.s.domains.lowestFree (fun k => k / 1024 == 32 + x.part.val) 1024 (mkDomain x.part.val 0).toNat with
      | none => i.bad .noPage (i.c.wg a 0)
      | some id =>
        let f := i.s.fresh
        let d : Domain := { key := Config.domainKey f.1, members := BitVec.ofNat 16 (2 ^ x.part.val), cross := false
                            equalTime := false, etMax := 0, st := .free, reserved := some x.num, excluded := none }
        let s := { f.2 with domains := f.2.domains.put id d }
        (s.log x (.domActive (BitVec.ofNat 16 id)), .done (i.c.wg a (BitVec.ofNat 64 id))))
/-- Does a session of any partition that owns or shares a domain name it, or one that a step has made and not yet committed (R98)? -/
def State.domNamed (s : State) (d : BitVec 16) : Bool :=
  s.parts.any fun kv => (kv.2.sessions.any fun e => e.2.domain == d) || kv.2.steps.any fun k =>
    k.2.st != .applied && k.2.log.any fun o => match o with
      | .sessCreate _ ss => ss.domain == d
      | _ => false
/-- DOMCLOSE: close local domain ga at stage 4; until then no session comes to name it. -/
def execDomclose (x : StepRef) (r : Bool) (a : GReg) (s : State) : Out :=
  .next (s.issue x { rg := [a] } r fun i =>
    let id := BitVec.ofNat 16 (i.c.rg a).toNat
    let own := (i.c.rg a).toNat < 65536 && domOwner id == x.part.val
    match i.s.domain? id with
    | none => i.bad .accessViolation i.c
    | some d =>
      if !i.priv || !own || d.st ≠ .active || d.cross || d.excluded.isSome || i.s.domNamed id then i.bad .accessViolation i.c
      else
        let s := { i.s with domains := i.s.domains.upd id.toNat fun d => { d with excluded := some x.num } }
        (s.log x (.domClose id), .done i.c))

end Sys2Proof.Machine
end

