-- ==== Sys2Proof/Machine/MoveGroup.lean ====
section
/-! DEFINITION. The move group 0x7: copies between regions, moves of chunks between tiers, and their tickets (17 R384 to
R386, Table 17-3), with the reads of regions that they and others make (11 R257, 10 R228). -/

namespace Sys2Proof.Machine

/-- 2 MiB. -/
def chunkBytes : Nat := 2097152
/-- Is a region this partition's device region: neither a window region nor a binding? -/
def Region.device (r : Region) : Bool := r.home != 3 && r.binding.isNone
/-- The region whose bytes a region gives: itself, or the version that its binding resolves to (11 R257). -/
def State.resolve (s : State) (p : Part) (i : Nat) : Option (Part × Nat × Region) :=
  match s.region? p i with
  | none => none
  | some r =>
    match r.binding with
    | none => some (p, i, r)
    | some b =>
      if b.follow then
        let cands := (s.parts.map fun kv => (kv.2.regions.filter fun e =>
          e.2.published && e.2.st == .valid && e.2.domain == b.domain && e.2.name == b.name).map fun e => (kv.1, e.1, e.2)).flatten
        (cands.head?).map fun c => (Fin.ofNat 16 c.1, c.2.1, c.2.2)
      else (s.region? (Fin.ofNat 16 b.owner) b.region).map fun g => (Fin.ofNat 16 b.owner, b.region, g)
/-- Bytes of a region: a discarded 256 KiB map unit reads as before or as zeros (10 R228, log entry 12), and a window line
that the host has written since the last sync reads old or new (11 R246, log entry 36). -/
def Region.read (r : Region) (off n : Nat) : List Byte :=
  (List.range n).map fun j =>
    let a := off + j
    match r.newer.find (a / 64) with
    | some l => if Config.windowReadsNew (a / 64) then l.getD (a % 64) 0 else r.data.rd1 a
    | none => if r.discarded.contains (a / 262144) && !(Config.discardReadsOld (a / 262144)) then 0 else r.data.rd1 a
/-- Does a range of a region meet a poisoned 4 KiB unit? -/
def Region.poisoned (r : Region) (off n : Nat) : Bool :=
  r.poison.any fun u => n ≠ 0 && u * 4096 < off + n && off < (u + 1) * 4096
/-- The tier of a chunk of a device region. -/
def Partition.chunkTier (t : Partition) (r : Region) (c : Nat) : Tier :=
  (r.chunks.find c).getD (match r.home with
    | 0 => .t0
    | 1 => if t.warmTier = 1 then .t1h else .t1b
    | _ => .t2)
/-- The quadrant of the step's cluster. -/
def Step.quad (k : Step) : Nat := k.clu / 16
/-- Bytes that a step has staged, in units of 4 KiB (R385). -/
def Step.staged (k : Step) : Nat := (k.moves.map fun kv => if kv.2.copy then roundUp kv.2.data.length 4096 else 0).sum
/-- A ticket of the step. -/
def Step.ticket (k : Step) (w : Word) : Option Move := k.moves.find w.toNat
/-- The next ticket. -/
def Step.newTicket (k : Step) : Nat := k.moves.length + 1
/-- What a step sees of a region: its bytes with the step's staged ones over them. -/
def Step.view (k : Step) (i : Nat) (r : Region) (off n : Nat) : List Byte :=
  let mine := k.moves.filter fun kv => kv.2.copy && kv.2.dst == i
  if mine.isEmpty then r.read off n
  else (mine.foldl (fun d kv => Bytes.wr d kv.2.dstOff kv.2.data) r.data).rd off n

/-- MVCOPY: stage a copy of region bytes; gb := ticket (R385). -/
def execMvcopy (x : StepRef) (r : Bool) (d h : HReg) (a b : GReg) (bulk : Bool) (s : State) : Out :=
  .next (s.issue x { rh := [d, h], rg := [a], wg := [b], ahead := true } r fun i =>
    let hd := i.c.rh d
    let hs := i.c.rh h
    let zero := i.c.wg b 0
    i.with kRegion hd zero fun _ => i.with kRegion hs zero fun _ =>
      let ad := (i.c.rg a).toNat
      if !(localOk i.prog.data ad 24 8) then (i.s, .fault .accessViolation false)
      else
        let blk := i.k.peek i.prog.data ad 24
        let so := fld blk 0 8
        let dof := fld blk 8 8
        let n := fld blk 16 8
        let ops := [hd, hs, i.c.rg a, BitVec.ofNat 64 so, BitVec.ofNat 64 dof, BitVec.ofNat 64 n]
        match i.taken ops with
        | some o => (i.keep i.s ops [], .done (i.c.wg b (o.vals.getD 0 0)))
        | none =>
          match i.t.regions.find (hIndex hd), i.s.resolve i.p (hIndex hs) with
          | some rd, some (_, _, rs) =>
            if rs.st = .unbindable then i.bad .poisonConsumed zero
            else if n = 0 ∨ n > 67108864 ∨ so + n > rs.size ∨ dof + n > rd.size ∨ !rd.device
                ∨ !(rd.st == .uploading || (rd.st == .valid && !rd.published)) then i.bad .accessViolation zero
            else if i.k.staged + roundUp n 4096 > 268435456 then i.bad .noPage zero
            else
              let tk := i.k.newTicket
              let bad := rs.poisoned so n
              let mv : Move := { done := false, status := if bad then .poisonConsumed else .ok, bytes := n, left := n
                                 dst := hIndex hd, src := hIndex hs, srcOff := so, dstOff := dof, bulk := bulk
                                 chunk0 := 0, chunks := 0, copy := true, data := i.k.view (hIndex hs) rs so n }
              let s := i.s.updStep x fun k => { k with moves := k.moves.put tk mv }
              let s := (s.log x (.staged tk)).addCopy (pathKey (i.t.chunkTier rs (so / chunkBytes)) i.k.quad) i.p
                (.regionMove x.num tk) (if bulk then 6 else 2) n
              let v : Word := BitVec.ofNat 64 tk
              (if i.ahead then i.keep s ops [v] else s, .done (i.c.wg b v))
          | _, _ => i.bad .accessViolation zero)
/-- Take T0 space for chunks of a region, in order; it answers those it could not have. -/
def State.takeChunks (s : State) (x : StepRef) (k : Step) (ri : Nat) : List Nat → State × FrameRes
  | [] => (s, .frame 0 0 0)
  | c :: cs =>
    if (s.region? x.part ri).any fun r => r.spots.has c then State.takeChunks s x k ri cs
    else
      match s.allocFrame x.part ⟨x.num, k.quad, 512, 0, s.getP x.part none fun t => t.stepSess k, false⟩ with
      | (s, .frame q f _) =>
        State.takeChunks (s.updRegion x.part ri fun r => { r with spots := r.spots.put c (q, f) }) x k ri cs
      | (s, o) => (s, o)
/-- MVTIER: whole chunks of region hs to another tier; gb := ticket (R386). -/
def execMvtier (x : StepRef) (r : Bool) (h : HReg) (a b : GReg) (tgt : Fin 4) (s : State) : Out :=
  .next (s.issue x { rh := [h], rg := [a], wg := [b], ahead := true } r fun i =>
    let hs := i.c.rh h
    let zero := i.c.wg b 0
    i.with kRegion hs zero fun _ =>
      let c0 := bitsOf (i.c.rg a).toNat 31 0
      let n := bitsOf (i.c.rg a).toNat 63 32
      let ops := [hs, i.c.rg a]
      match i.taken ops with
      | some o => (i.keep i.s ops [], .done (i.c.wg b (o.vals.getD 0 0)))
      | none =>
        match i.t.regions.find (hIndex hs) with
        | none => i.bad .accessViolation zero
        | some rg =>
          if tgt.val = 3 ∨ !rg.device ∨ c0 + n > (rg.size + chunkBytes - 1) / chunkBytes then i.bad .accessViolation zero
          else if tgt.val = 2 ∧ i.s.flashRO then (i.s.roRefusal, .status .tierReadOnly zero)
          else
            let tk := i.k.newTicket
            let v : Word := BitVec.ofNat 64 tk
            let mk := fun (done : Bool) (bytes : Nat) =>
              ({ done := done, status := .ok, bytes := bytes, left := bytes, dst := hIndex hs, src := hIndex hs, srcOff := 0
                 dstOff := 0, bulk := false, chunk0 := c0, chunks := n, copy := false, data := [] } : Move)
            if tgt.val ≠ 0 then
              let s := i.s.updStep x fun k => { k with moves := k.moves.put tk (mk true 0) }
              let s := s.log x (.tierDown (hIndex hs) c0 n (tgt.val == 2))
              (if i.ahead then i.keep s ops [v] else s, .done (i.c.wg b v))
            else
              let up := ((List.range n).map (· + c0)).filter fun c => i.t.chunkTier rg c != .t0
              match i.s.takeChunks x i.k (hIndex hs) up with
              | (s, .wait) => (s, .hold .frame)
              | (s, .noPage) => (s, .squash .noPage)
              | (s, _) =>
                let bytes := up.length * chunkBytes
                let s := s.updStep x fun k => { k with moves := k.moves.put tk (mk (bytes == 0) bytes) }
                let s := if bytes = 0 then s else
                  (s.updRegion i.p (hIndex hs) fun g =>
                    { g with pins := ((List.range n).map (· + c0)).foldl (fun m c => m.put c (m.getD c 0 + 1)) g.pins }).addCopy
                    (pathKey (i.t.chunkTier rg (up.headD 0)) i.k.quad) i.p (.tierMove x.num tk (hIndex hs) c0 n) 2 bytes
                (if i.ahead then i.keep s ops [v] else s, .done (i.c.wg b v)))
/-- MVWAIT: wait until ticket ga ends; fd := its status is OK. -/
def execMvwait (x : StepRef) (r : Bool) (d : FReg) (a : GReg) (s : State) : Out :=
  .next (s.issue x { rg := [a], wf := [d] } r fun i =>
    match i.k.ticket (i.c.rg a) with
    | none => i.bad .accessViolation (i.c.wf d false)
    | some m =>
      if !m.done then (i.s, .wait (.move (i.c.rg a).toNat))
      else if m.status = .ok then (i.s, .done (i.c.wf d true))
      else i.bad m.status (i.c.wf d false))
/-- MVSTAT: gd := bytes moved, ended, status of ticket ga. -/
def execMvstat (x : StepRef) (r : Bool) (d a : GReg) (s : State) : Out :=
  .next (s.issue x { rg := [a], wg := [d], ahead := true } r fun i =>
    match i.taken [i.c.rg a] with
    | some o => (i.keep i.s [i.c.rg a] [], .done (i.c.wg d (o.vals.getD 0 0)))
    | none =>
      match i.k.ticket (i.c.rg a) with
      | none => i.bad .accessViolation (i.c.wg d 0)
      | some m =>
        let v := BitVec.ofNat 64 ((m.bytes - m.left) % 2 ^ 48 * 65536 + b2n m.done * 256
          + if m.done then m.status.code.toNat else 0)
        (if i.ahead then i.keep i.s [i.c.rg a] [v] else i.s, .done (i.c.wg d v)))

end Sys2Proof.Machine
end

