-- ==== Sys2Proof/Machine/StepGroup.lean ====
section
/-! DEFINITION. The step and engine group 0x8: waits for messages and engines, STEPINFO, MODLOAD (17 R387 to R390; 06
R119, R120; 07 R154, R158). -/

namespace Sys2Proof.Machine

/-- The key under which a wave holds the LOGITS record of a lane. -/
def logitsKey (lane : Nat) : Nat := 65536 + lane
/-- The records of an attend or store message in order, each with its lane (06 R124). -/
def splitRecs (m : ModelDesc) (q : Bool) : Nat → List Byte → List (List Byte)
  | 0, _ => []
  | n + 1, bs =>
    let len := m.recBytes (fld bs 1 1) q
    bs.take len :: splitRecs m q n (bs.drop len)
/-- The lane's own record of a message. -/
def laneRec (m : ModelDesc) (b : BufMsg) (count lane : Nat) : Option (List Byte) :=
  (splitRecs m (b.mtype == mtAttend) count b.body).find? fun r => fld r 0 1 == lane
/-- Does a segment's request want logits (06 R136)? -/
def Lane.wantLogits (l : Lane) : Bool := bitOf l.flags 2

/-- What WAITMSG finds: a message, none yet, or a combination that Table 17-4 lacks. -/
inductive Found where
  | msg (b : BufMsg)
  | notYet
  | refused
  deriving DecidableEq, Repr
/-- The message that the operands select (Table 17-4), but for `src` 1. -/
def Iss.select (i : Iss) (nolayer : Bool) (layer : Nat) (bZero : Bool) : Found :=
  match i.t.waveOf i.k with
  | none => .refused
  | some w =>
    match w.lanes[i.k.lane]? with
    | none => .refused
    | some l =>
      if i.k.kind = 2 then
        if nolayer then
          if !bZero then .refused
          else match w.msgs.find (logitsKey i.k.lane) with
            | some b => .msg b
            | none => .notYet
        else match w.msgs.find layer, i.t.model? w.model with
          | some b, some m =>
            match laneRec m b w.lanes.length i.k.lane with
            | some r => .msg { b with body := r, lane := i.k.lane }
            | none => .notYet
          | _, _ => .notYet
      else if i.k.kind = 1 then
        if nolayer then
          if !bZero || !l.wantLogits then .refused
          else match w.msgs.find (logitsKey i.k.lane) with
            | some b => .msg b
            | none => .notYet
        else match w.msgs.find layer with
          | some b => .msg { b with lane := i.k.lane }
          | none => .notYet
      else if i.k.kind = 3 then
        if nolayer && bZero then
          match w.msgs.find 0 with
          | some b => .msg b
          | none => .notYet
        else .refused
      else .refused
/-- Put a message into the step's buffer; it answers the token. -/
def State.deliver (s : State) (x : StepRef) (b : BufMsg) : State × Word :=
  let slot := ((s.step? x).map fun k => k.msgs.length).getD 0
  (s.updStep x fun k => { k with msgs := k.msgs.put slot b }, mkToken b.mtype b.layer b.lane slot)
/-- WAITMSG: wait for the message of Table 17-4; ga := its token. -/
def execWaitmsg (x : StepRef) (r : Bool) (h : HReg) (a b : GReg) (nolayer src : Bool) (s : State) : Out :=
  .next (s.issue x { rh := [h], rg := [b], wg := [a] } r fun i =>
    let hs := i.c.rh h
    let zero := i.c.wg a 0
    i.with kQueue hs zero fun _ =>
      if hIndex hs ≠ i.k.q % 64 then i.bad .accessViolation zero
      else if src then
        let n := (i.c.rg b).toNat
        if nolayer || !(i.t.qps.has n) then i.bad .accessViolation zero
        else
          match (i.t.qps.find n).bind fun q => q.inbox.find? fun m => m.takenBy.isNone with
          | none => (i.s, .wait (.msg none (some n)))
          | some m =>
            let s := i.s.updP i.p fun t => { t with qps := t.qps.upd n fun q =>
              { q with inbox := q.inbox.map fun e => if e.off = m.off then { e with takenBy := some x.num } else e } }
            let d := s.deliver x ⟨0, 0xFFFF, 0, 0, 0, false, m.bytes, some n⟩
            (d.1, .done (i.c.wg a d.2))
      else
        let layer := (i.c.rg b).toNat
        match i.select nolayer layer (b == 0) with
        | .refused => i.bad .accessViolation zero
        | .notYet => (i.s, .wait (.msg (if nolayer then none else some layer) none))
        | .msg m =>
          let d := i.s.deliver x m
          (d.1, .done (i.c.wg a d.2)))
/-- Is a layer's engine work finished (R389)? -/
def Step.engDone (k : Step) (layer : Nat) : Bool :=
  k.merged.contains layer || (k.descs.all fun d => d.layer != layer || (d.st == .done && (d.op == 5 || d.op == 4 || d.op == 3 || d.op == 2)))
/-- Wait until the engine work of layer ga, or of every layer emitted, is finished; fd := no check of it failed. -/
def execWaiteng (x : StepRef) (r : Bool) (d : FReg) (a : GReg) (s : State) : Out :=
  .next (s.issue x { rg := [a], wf := [d] } r fun i =>
    let all := i.c.rg a == BitVec.allOnes 64
    let layer := (i.c.rg a).toNat
    if !all && !(i.k.emitted.contains layer) then i.bad .accessViolation (i.c.wf d false)
    else
      let ls := if all then i.k.emitted else [layer]
      if ls.all i.k.engDone then (i.s, .done (i.c.wf d !(i.k.fails.any fun f => ls.contains f.1)))
      else (i.s, .wait (.eng (if all then none else some layer))))
/-- `n_new` of the step's lane, as the lane's record of a received message says; zero before one is received. -/
def Iss.nNew (i : Iss) : Nat :=
  match i.t.waveOf i.k with
  | none => 0
  | some w =>
    match i.t.model? w.model with
    | none => 0
    | some m =>
      let ks := (List.range m.layers).filterMap fun layer => w.msgs.find layer
      match (ks.filter fun b => b.mtype == mtAttend || b.mtype == mtStore).findSome? fun b =>
          laneRec m b w.lanes.length i.k.lane with
      | some r => fld r 1 1
      | none => 0
/-- The value of a STEPINFO selector (Table 17-7). -/
def Iss.info (i : Iss) (sel : Nat) : Option Nat :=
  let w := i.t.waveOf i.k
  let l := w.bind fun w => w.lanes[i.k.lane]?
  let m := i.t.stepModel i.k
  match sel with
  | 0 => some i.k.batch
  | 1 => some i.k.lane
  | 2 => some ((l.map (·.hgSeq)).getD 0)
  | 3 => some ((l.map (·.pos)).getD 0)
  | 4 => some (if i.k.kind = 1 then (l.map (·.ntok)).getD 0 else i.nNew)
  | 5 => some (if i.k.kind = 2 then (l.map (·.maxDraft)).getD 0 else 0)
  | 6 => some ((m.map (·.modelId.toNat)).getD 0)
  | 7 => some i.k.num
  | 8 => some i.t.clock
  | 9 => some ((m.map (·.hgRank)).getD 0)
  | 10 => some (if i.k.kind = 1 then (l.map (·.flags)).getD 0 else 0)
  | _ => none
/-- STEPINFO: gd := the value of Table 17-7. -/
def execStepinfo (x : StepRef) (r : Bool) (d : GReg) (imm : BitVec 32) (s : State) : Out :=
  .next (s.issue x { wg := [d] } r fun i =>
    match i.info imm.toNat with
    | some v => (i.s, .done (i.c.wg d (BitVec.ofNat 64 v)))
    | none => i.bad .accessViolation (i.c.wg d 0))

/-- Width rank of a multiply class: 4-bit, FP8, BF16/FP16, FP32 (07 R158). -/
def classRank (c : Nat) : Nat := match c with | 2 => 0 | 1 => 1 | 0 => 2 | _ => 3
/-- The class of a storage format (06 R120). -/
def fmtClass (f : Nat) : Nat :=
  match f with
  | 0 => 3 | 1 => 0 | 2 => 0 | 3 => 1 | 4 => 1 | 5 => 1 | 6 => 1 | 8 => 1 | _ => 2
/-- Formats that may carry `mx_scales` (01 Table 1-7). -/
def mxFormat (f : Nat) : Bool := 3 ≤ f && f ≤ 9
/-- The descriptor in a 64-byte image (06 Table 6-1), with its generation; none when R17, R119, R120, R154 or R158
refuses it. -/
def modelImage (b : List Byte) (gen : Nat) : Option ModelDesc :=
  let fl := fld b 9 1
  let fmt := fld b 8 1
  let mx := bitOf fl 7
  let hd := fld b 6 2
  let qps := (List.range 8).map fun j => fld b (0x20 + 2 * j) 2
  let d : ModelDesc :=
    { modelId := BitVec.ofNat 16 (gen * 256 + fld b 0 1), layers := fld b 2 2, kvHeads := fld b 4 1, qPerKv := fld b 5 1
      headDim := hd, kvFmt := fmt, mx := mx, pfMath := fl % 4, pageCode := (pageCodeFor fmt mx hd).getD 0
      hgSize := fld b 0xB 1, hgRank := fld b 0xC 1, headBase := fld b 0xD 1, kvTotal := fld b 0xE 1
      scale := BitVec.ofNat 32 (fld b 0x10 4), vocab := fld b 0x14 4, hgTimeout := fld b 0x18 4, hgQp := qps }
  if 1 ≤ d.layers ∧ d.layers ≤ 256 ∧ 1 ≤ d.kvHeads ∧ d.kvHeads ≤ 64 ∧ 1 ≤ d.qPerKv ∧ d.qPerKv ≤ 16
      ∧ [64, 96, 128, 192, 256].contains hd ∧ fmt ≤ 10 ∧ (mx → mxFormat fmt) ∧ bitsOf fl 6 2 = 0
      ∧ (pageCodeFor fmt mx hd).isSome ∧ 1 ≤ d.hgSize ∧ d.hgSize ≤ 8 ∧ d.hgRank < d.hgSize ∧ 1 ≤ d.kvTotal
      ∧ d.kvTotal ≤ 64 ∧ d.headBase + d.kvHeads ≤ d.kvTotal ∧ d.hgSize ≤ d.kvTotal
      ∧ (d.hgSize = 1 → d.headBase = 0 ∧ d.kvHeads = d.kvTotal)
      ∧ 1 ≤ d.vocab ∧ d.vocab ≤ 1048576 ∧ (d.hgTimeout = 0 ∨ 100 ≤ d.hgTimeout ∧ d.hgTimeout ≤ 100000)
      ∧ fld b 0xF 1 = 0 ∧ fld b 0x1C 4 = 0 ∧ fld b 0x30 16 = 0
      ∧ ¬(fmt = 10 ∧ (hd = 96 ∨ hd = 192)) ∧ classRank (fmtClass fmt) ≤ classRank d.pfMath
  then some d else none
/-- The next generation of a model slot: one more, past those that a node still names (01 Table 1-7) and those that a load which has
not committed has taken. -/
def Partition.modelGen (t : Partition) (slot : Nat) : Option Nat :=
  let logged := (t.steps.map fun kv => kv.2.log.filterMap fun o => match o with
    | .model n d => if n = slot then some (d.modelId.toNat / 256) else none
    | _ => none).flatten
  let last := ((t.models.find slot).map (·.gen)).getD 0
  ((List.range 255).map fun j => (last + j) % 255 + 1).find? fun g =>
    !(logged.contains g) && !(t.nodes.any fun kv => kv.2.model.toNat == g * 256 + slot)
/-- MODLOAD: load the descriptor image at local ga; gd := the new `model_id`; live at stage 4 (R390). -/
def execModload (x : StepRef) (r : Bool) (d a : GReg) (s : State) : Out :=
  .next (s.issue x { rg := [a], wg := [d] } r fun i =>
    let zero := i.c.wg d 0
    let ad := (i.c.rg a).toNat
    if !i.priv then i.bad .accessViolation zero
    else if !(localOk i.prog.data ad 64 8) then (i.s, .fault .accessViolation false)
    else
      let b := i.k.peek i.prog.data ad 64
      let slot := fld b 0 1
      match modelImage b 0 with
      | none => i.bad .accessViolation zero
      | some m =>
        if i.t.sessions.any fun kv => kv.2.model.toNat % 256 == slot then i.bad .accessViolation zero
        else match i.t.modelGen slot with
          | none => i.bad .noPage zero
          | some g =>
            let m := { m with modelId := BitVec.ofNat 16 (g * 256 + slot) }
            (i.s.log x (.model slot m), .done (i.c.wg d (m.modelId.zeroExtend 64))))

end Sys2Proof.Machine
end

