-- ==== Sys2Proof/Machine/SessionGroup.lean ====
section
/-! DEFINITION. The session group 0x9: sessions, sequences, tenants (17 R391, Tables 17-8, 17-9; 09 R195 to R198, R208,
R211; 08 R169, R171; 17 R382). -/

namespace Sys2Proof.Machine

/-! ### What a step's log has done -/

/-- Has the step's log closed a session? -/
def Step.closed (k : Step) (i : Nat) : Bool := k.log.any fun o => match o with
  | .close n => n == i
  | _ => false
/-- Has it freed a sequence, or closed its session? -/
def Step.freed (k : Step) (i : Nat) (sess : Handle) : Bool := k.closed (hIndex sess) || k.log.any fun o => match o with
  | .seqFree n => n == i
  | _ => false
/-- A session's state as the step sees it. -/
def Iss.sessState (i : Iss) (idx : Nat) : Option SessSt :=
  i.k.log.foldl (fun a o => match o with
    | .sessCreate n _ => if n = idx then some .opened else a
    | .park n _ => if n = idx then some .parked else a
    | .revive n _ => if n = idx then some .reviving else a
    | .migOut n _ _ _ => if n = idx then some .migrating else a
    | _ => a) ((i.t.sessions.find idx).map (·.st))
/-- A region, or one that the step has made and not committed. -/
def Partition.regionOf (t : Partition) (k : Step) (i : Nat) : Option Region :=
  k.log.foldl (fun a o => match o with
    | .regCreate n r => if n = i then some r else a
    | _ => a) (t.regions.find i)
/-- A tenant record after an image is written to it (17 TENSET, 08 R171). -/
def writeTenant (old : Option Tenant) (img : List Byte) (clock : Nat) : Tenant :=
  let cap := fld img 0 4
  let rate := fld img 4 4
  let pr := fld img 0x1C 1
  let fl := fld img 0x1D 1
  match old with
  | none => { capacity := cap, rate := rate, level := cap, lastRefill := clock, remainder := 0, priority := pr
              enabled := bitOf fl 7, hold := bitOf fl 6, nextCapacity := 0, nextRate := 0, staged := false }
  | some t => { t with nextCapacity := cap, nextRate := rate, staged := true, priority := pr
                       enabled := bitOf fl 7, hold := bitOf fl 6 }
/-- A tenant as the step sees it. -/
def Iss.tenant (i : Iss) (n : Nat) : Option Tenant :=
  i.k.log.foldl (fun a o => match o with
    | .tenant m img => if m = n then some (writeTenant a img i.t.clock) else a
    | _ => a) (i.t.tenants.find n)
/-- A tenant record's 48 bytes (Table 8-3). -/
def Tenant.image (t : Tenant) : List Byte :=
  toLe t.capacity 4 ++ toLe t.rate 4 ++ toLe (if t.level < 0 then 2 ^ 64 - t.level.natAbs else t.level.natAbs) 8
    ++ toLe t.lastRefill 8 ++ toLe t.remainder 4 ++ toLe t.priority 1 ++ toLe (b2n t.enabled * 128 + b2n t.hold * 64) 1
    ++ toLe 0 2 ++ toLe t.nextCapacity 4 ++ toLe t.nextRate 4 ++ toLe (b2n t.staged) 1 ++ toLe 0 7

/-! ### Deferred outcomes (R382) -/

/-- Is the step one of a RUN that has issued no deferred instruction yet? -/
def Iss.mayDefer (i : Iss) : Bool :=
  !i.k.deferredUsed && (i.t.liveOf i.k.q i.k.cid).any fun l => l.req.isNone
/-- Log a deferred instruction. -/
def State.defer (s : State) (x : StepRef) (d : Deferred) (o : LogOp) : State :=
  (s.log x o).updStep x fun k => { k with deferredUsed := true, deferred := d }

/-! ### Parameter blocks (Table 17-9) -/

/-- The local fields of a session: tenant, domain, model, flags, RSV, N (10 bytes). The step's own new domain counts, as its other new
objects do (DEDUCED, log entry 135). -/
def Iss.localFieldsOk (i : Iss) (b : List Byte) : Bool :=
  let ten := fld b 0 2
  let dom := BitVec.ofNat 16 (fld b 2 2)
  let fl := fld b 6 1
  ten < 4096 && (i.tenant ten).isSome
    && (dom == 0 || (i.s.domMember i.p dom && (i.s.domain? dom).any fun d => d.st == .active && d.excluded.isNone)
      || (i.s.domains.find dom.toNat).any fun d => d.st == .free && d.reserved == some i.k.num && d.excluded.isNone)
    && (i.t.model? (BitVec.ofNat 16 (fld b 4 2))).isSome
    && fl < 64 && fl % 4 ≠ 3 && !(fl % 4 == 1 && fld b 8 2 == 0) && fld b 7 1 == 0
/-- A session record from its local fields. -/
def sessFrom (b : List Byte) (h hist samp scr : Handle) : Session :=
  { h := h, tenant := fld b 0 2, domain := BitVec.ofNat 16 (fld b 2 2), model := BitVec.ofNat 16 (fld b 4 2), st := .opened
    parkReason := 0, ttl := 0, durClass := fld b 6 1 % 4, durN := fld b 8 2, committedTokens := 0
    preemptible := bitOf (fld b 6 1) 2, priority := bitsOf (fld b 6 1) 5 3, seqs := [], history := hist, sampler := samp
    scratch := scr, parkedAt := 0, resumeHint := 0, pflags := 0, pendPark := none, pendClose := none, preRevived := false }
/-- Does a live session name a region, or one that a step has made? -/
def Partition.regionNamed (t : Partition) (h : Handle) : Bool :=
  (t.sessions.any fun kv => kv.2.history == h || kv.2.sampler == h || kv.2.scratch == h)
    || t.steps.any fun kv => kv.2.log.any fun o => match o with
      | .sessCreate _ r => r.history == h || r.sampler == h || r.scratch == h
      | _ => false

/-- SCREATE: a new session from the block at local ga; its slot is taken here, it is OPEN at stage 4. -/
def execScreate (x : StepRef) (r : Bool) (h : HReg) (a : GReg) (s : State) : Out :=
  .next (s.issue x { rg := [a], wh := [h] } r fun i =>
    let zero := i.c.wh h 0
    let ad := (i.c.rg a).toNat
    if !i.priv then i.bad .accessViolation zero
    else if !(localOk i.prog.data ad 40 8) then (i.s, .fault .accessViolation false)
    else
      let b := i.k.peek i.prog.data ad 40
      let hs : List Handle := (List.range 3).map fun j => BitVec.ofNat 64 (fld b (0x10 + 8 * j) 8)
      let hsOk := hs.all fun g => (i.check kRegion g).isNone && !(i.t.regionNamed g)
        && (i.t.regionOf i.k (hIndex g)).any fun r => r.cls == 1
      if !(i.localFieldsOk b) || fld b 0xA 6 ≠ 0 || !hsOk || hs.eraseDups.length ≠ 3 then i.bad .accessViolation zero
      else if i.t.sessions.length + (i.t.resv.filter fun kv => kv.1 / 2 ^ 48 == kSession).length ≥ i.t.quota then
        i.bad .noPage zero
      else match i.t.newSlot i.p kSession with
        | none => i.bad .noPage zero
        | some n =>
          let hd := i.t.handleOf i.p kSession n
          let s := i.s.updP i.p fun t => { t with resv := t.resv.put (slotKey kSession n) x.num }
          (s.log x (.sessCreate n (sessFrom b hd (hs.getD 0 0) (hs.getD 1 0) (hs.getD 2 0))), .done (i.c.wh h hd)))
/-- SSEQ: a new sequence of session hs. -/
def execSseq (x : StepRef) (r : Bool) (d h : HReg) (a : GReg) (s : State) : Out :=
  .next (s.issue x { rh := [h], rg := [a], wh := [d] } r fun i =>
    let hs := i.c.rh h
    let zero := i.c.wh d 0
    i.with kSession hs zero fun _ =>
      let hg := bitsOf (i.c.rg a).toNat 31 0
      let made := fun (f : Sequence → Bool) => (i.t.steps.map fun kv => (kv.2.log.filter fun o => match o with
        | .seqCreate _ q => f q
        | _ => false).length).sum
      if i.k.closed (hIndex hs) || (hg ≠ 0 && ((i.t.sequences.any fun kv => kv.2.hgSeq == hg)
          || made (fun q => q.hgSeq == hg) ≠ 0)) then i.bad .accessViolation zero
      else if (((i.t.sessions.find (hIndex hs)).map fun ss => (ss.seqs.filter (· ≠ 0)).length).getD 0)
          + made (fun q => q.sess == hs) ≥ 4 then i.bad .noPage zero
      else match i.t.newSlot i.p kSequence with
        | none => i.bad .noPage zero
        | some n =>
          let hd := i.t.handleOf i.p kSequence n
          let q : Sequence := { h := hd, sess := hs, committed := 0, prov := 0, table := [], keys := [], rc := 0, st := .idle
                                hgSeq := hg, openStep := none, freeAtEnd := false, readySince := 0
                                held := false, coarse := [], summaries := [] }
          let s := i.s.updP i.p fun t => { t with resv := t.resv.put (slotKey kSequence n) x.num }
          (s.log x (.seqCreate n q), .done (i.c.wh d hd)))
/-- SPARK: park session hs, or update a parked one (R196 to R198). -/
def execSpark (x : StepRef) (r : Bool) (h : HReg) (s : State) : Out :=
  .next (s.issue x { rh := [h], rg := [5, 6, 7] } r fun i =>
    let hs := i.c.rh h
    i.with kSession hs i.c fun _ =>
      let g7 := (i.c.rg 7).toNat
      let hint := (i.c.rg 6).toNat
      let st := i.sessState (hIndex hs)
      let toolWait := g7 % 4 == 1 || (st == some .parked && (i.t.sessions.find (hIndex hs)).any fun ss => ss.parkReason == 1)
      if i.k.closed (hIndex hs) || st == some .migrating || st.isNone || g7 ≥ 16 || g7 % 4 ≥ 2 || bitsOf g7 3 2 == 3
          || (hint ≠ 0 && !toolWait) then i.bad .accessViolation i.c
      else (i.s.log x (.park (hIndex hs) ⟨g7 % 4, bitsOf g7 3 2, 0, (i.c.rg 5).toNat, hint, x.num⟩), .done i.c))
/-- SREVIVE: revive the sequences of mask ga[3:0]; deferred. -/
def execSrevive (x : StepRef) (r : Bool) (h : HReg) (a : GReg) (s : State) : Out :=
  .next (s.issue x { rh := [h], rg := [a] } r fun i =>
    let hs := i.c.rh h
    i.with kSession hs i.c fun _ =>
      let st := i.sessState (hIndex hs)
      if i.k.closed (hIndex hs) || !(st == some .parked || st == some .reviving) || !i.mayDefer then i.bad .accessViolation i.c
      else (i.s.defer x (.revival (hIndex hs)) (.revive (hIndex hs) (lowBits (i.c.rg a) 4)), .done i.c))
/-- SDUR: durability class ga[1:0] with N ga[31:16] at the commit. -/
def execSdur (x : StepRef) (r : Bool) (h : HReg) (a : GReg) (s : State) : Out :=
  .next (s.issue x { rh := [h], rg := [a] } r fun i =>
    let hs := i.c.rh h
    i.with kSession hs i.c fun _ =>
      let v := (i.c.rg a).toNat
      if i.k.closed (hIndex hs) || i.sessState (hIndex hs) == some .migrating || v % 4 == 3 || (v % 4 == 1 && bitsOf v 31 16 == 0)
      then i.bad .accessViolation i.c
      else (i.s.log x (.durability (hIndex hs) (v % 4) (bitsOf v 31 16)), .done i.c))
/-- SMIGOUT: migrate session hs out with the block at local ga; deferred (09 R208). -/
def execSmigout (x : StepRef) (r : Bool) (h : HReg) (a : GReg) (s : State) : Out :=
  .next (s.issue x { rh := [h], rg := [a] } r fun i =>
    let hs := i.c.rh h
    i.with kSession hs i.c fun _ =>
      let ad := (i.c.rg a).toNat
      if !i.priv then i.bad .accessViolation i.c
      else if !(localOk i.prog.data ad 16 8) then (i.s, .fault .accessViolation false)
      else
        let b := i.k.peek i.prog.data ad 16
        let st := i.sessState (hIndex hs)
        let group := ((i.t.sessions.find (hIndex hs)).bind fun ss => i.t.model? ss.model).any fun m => m.hgSize > 1
        let f := i.s.fresh
        if i.k.closed (hIndex hs) || !(st == some .opened || st == some .parked) || !i.mayDefer
            || !(i.t.reqsOf (hIndex hs)).isEmpty || fld b 2 1 > 2 || fld b 3 5 ≠ 0 || !(i.t.qps.has (fld b 0 2))
            || (group && !(Config.batchNamed f.1)) then i.bad .accessViolation i.c
        else
          let id : Word := BitVec.ofNat 64 (fld b 8 8)
          (f.2.defer x (.migOut id) (.migOut (hIndex hs) (fld b 0 2) (fld b 2 1) id), .done i.c))
/-- SMIGIN: pre-post an inbound migration with the block at local ga; deferred. -/
def execSmigin (x : StepRef) (r : Bool) (a : GReg) (s : State) : Out :=
  .next (s.issue x { rg := [a] } r fun i =>
    let ad := (i.c.rg a).toNat
    if !i.priv then i.bad .accessViolation i.c
    else if !(localOk i.prog.data ad 32 8) then (i.s, .fault .accessViolation false)
    else
      let b := i.k.peek i.prog.data ad 32
      let rh : Handle := BitVec.ofNat 64 (fld b 8 8)
      let f := (b.drop 16).take 10
      match i.check kRegion rh with
      | some st => (i.s.handleEvent i.p kRegion rh, .status st i.c)
      | none =>
        if !i.mayDefer || !(i.localFieldsOk f) || fld b 0x1A 6 ≠ 0
            || !((i.t.regionOf i.k (hIndex rh)).any fun r => r.st == .uploading)
            || i.t.migrations.has (fld b 0 8) then i.bad .accessViolation i.c
        else
          let id : Word := BitVec.ofNat 64 (fld b 0 8)
          (i.s.defer x (.migIn id) (.migIn id (hIndex rh) f), .done i.c))
/-- SCLOSE: close session hs at its next step boundary (01 R21). -/
def execSclose (x : StepRef) (r : Bool) (h : HReg) (s : State) : Out :=
  .next (s.issue x { rh := [h] } r fun i =>
    let hs := i.c.rh h
    i.with kSession hs i.c fun _ =>
      if i.k.closed (hIndex hs) then i.bad .accessViolation i.c
      else (i.s.log x (.close (hIndex hs)), .done i.c))
/-- The code of a session's state (SINFO). -/
def SessSt.code : SessSt → Nat
  | .opened => 1 | .running => 2 | .parked => 3 | .reviving => 4 | .migrating => 5
/-- SINFO: ga := the session's state word, gb := `committed_tokens`. -/
def execSinfo (x : StepRef) (r : Bool) (h : HReg) (a b : GReg) (s : State) : Out :=
  .next (s.issue x { rh := [h], wg := [a, b] } r fun i =>
    let hs := i.c.rh h
    let zero := (i.c.wg a 0).wg b 0
    i.with kSession hs zero fun _ =>
      match i.t.sessOf i.k (hIndex hs) with
      | none => i.bad .accessViolation zero
      | some ss =>
        if i.k.closed (hIndex hs) then i.bad .accessViolation zero
        else
          let dur := i.k.log.foldl (fun a o => match o with
            | .durability n c v => if n = hIndex hs then (c, v) else a
            | _ => a) (ss.durClass, ss.durN)
          let reason := i.k.log.foldl (fun a o => match o with
            | .park n p => if n = hIndex hs then p.reason else a
            | _ => a) ss.parkReason
          let w := ((i.sessState (hIndex hs)).map SessSt.code).getD 0 + 8 * reason + 32 * dur.1
            + 128 * b2n ss.preemptible + 256 * ss.priority + 65536 * dur.2
          (i.s, .done ((i.c.wg a (BitVec.ofNat 64 w)).wg b (BitVec.ofNat 64 ss.committedTokens))))
/-- TENSET: write tenant ga from the image at local gb (08 R169, R171). -/
def execTenset (x : StepRef) (r : Bool) (a b : GReg) (s : State) : Out :=
  .next (s.issue x { rg := [a, b] } r fun i =>
    let ad := (i.c.rg b).toNat
    if !i.priv then i.bad .accessViolation i.c
    else if !(localOk i.prog.data ad 48 8) then (i.s, .fault .accessViolation false)
    else
      let img := i.k.peek i.prog.data ad 48
      let n := (i.c.rg a).toNat
      if n > 4095 ∨ fld img 0x18 4 ≥ 2 ^ 30 ∨ fld img 0x1C 1 ≥ 8 ∨ fld img 0x1D 1 % 64 ≠ 0 ∨ fld img 0x1E 2 ≠ 0
          ∨ fld img 0x28 1 > 1 ∨ fld img 0x29 7 ≠ 0 then i.bad .accessViolation i.c
      else (i.s.log x (.tenant n img), .done i.c))
/-- TENGET: copy tenant ga's record, without a refill, to local gb. -/
def execTenget (x : StepRef) (r : Bool) (a b : GReg) (s : State) : Out :=
  .next (s.issue x { rg := [a, b] } r fun i =>
    let ad := (i.c.rg b).toNat
    if !(localWrOk ad 48 8) then (i.s, .fault .accessViolation false)
    else match i.tenant (i.c.rg a).toNat with
      | none => i.bad .accessViolation i.c
      | some t => (i.s.updStep x fun k => k.poke ad t.image, .done i.c))
/-- SQFREE: free sequence hs at stage 4, or at the boundary of its open step. -/
def execSqfree (x : StepRef) (r : Bool) (h : HReg) (s : State) : Out :=
  .next (s.issue x { rh := [h] } r fun i =>
    let hs := i.c.rh h
    i.with kSequence hs i.c fun _ =>
      match i.t.seqOf i.k (hIndex hs) with
      | none => i.bad .accessViolation i.c
      | some sq =>
        if i.k.freed (hIndex hs) sq.sess then i.bad .accessViolation i.c
        else (i.s.log x (.seqFree (hIndex hs)), .done i.c))

end Sys2Proof.Machine
end

