-- ==== Sys2Proof/Machine/SampleGroup.lean ====
section
/-! DEFINITION. The sampler group 0xA: one logit row to one token, acceptance of drafts, stop conditions (08 R176 to R184;
17 R392, R393). -/

namespace Sys2Proof.Machine

/-! ### The sampling parameter block (08 Table 8-7) -/

def Req.temperature (r : Req) : Fl := f32val (fld r.spb 0 4)
def Req.topP (r : Req) : Fl := f32val (fld r.spb 4 4)
def Req.topK (r : Req) : Nat := fld r.spb 8 2
def Req.draftMax (r : Req) : Nat := fld r.spb 0xA 1
def Req.countPrompt (r : Req) : Bool := bitOf (fld r.spb 0xB 1) 6
def Req.includeStop (r : Req) : Bool := bitOf (fld r.spb 0xB 1) 5
def Req.repPenalty (r : Req) : Fl := f32val (fld r.spb 0xC 4)
def Req.presence (r : Req) : Fl := f32val (fld r.spb 0x10 4)
def Req.frequency (r : Req) : Fl := f32val (fld r.spb 0x14 4)
def Req.maxTokens (r : Req) : Nat := fld r.spb 0x18 4
def Req.stopToks (r : Req) : List Nat := (List.range (fld r.spb 0x1C 1)).map fun i => fld r.spb (0x40 + 4 * i) 4
def Req.stopSeqs (r : Req) : List (List Nat) :=
  (List.range (fld r.spb 0x1D 1)).map fun j =>
    (List.range (fld r.spb (0x140 + j) 1)).map fun i => fld r.spb (0x150 + 128 * j + 4 * i) 4

/-! ### The count table (R176, R180) -/

/-- Count one token: a count stops at 4,095; with 16,384 entries in use a new token goes uncounted. The number says
whether it went uncounted. -/
def countToken (c : Tab Nat) (tok : Nat) : Tab Nat × Nat :=
  match c.find tok with
  | some n => (c.put tok (min 4095 (n + 1)), 0)
  | none => if c.length ≥ 16384 then (c, 1) else (c.put tok 1, 0)
/-- Count several tokens. -/
def countTokens (c : Tab Nat) (ts : List Nat) : Tab Nat × Nat :=
  ts.foldl (fun a t => let r := countToken a.1 t; (r.1, a.2 + r.2)) (c, 0)

/-! ### One row (R178 to R181) -/

/-- A logit of a row: its token and its value, none where it is excluded; and whether an infinity was replaced. -/
def logitVal (lfmt v : Nat) : Option Fl × Bool :=
  let f := lfmt + 1
  if elemReserved f v then
    let c := elemCode f
    if v % 2 ^ c.mb = 0 && !(bitOf v (c.eb + c.mb)) then (some (elemFF f).big, true) else (none, false)
  else (some ((elemCode f).val v), false)
/-- Bytes of one row of a LOGITS record: padded to a multiple of 4. -/
def logitRowBytes (vocab lkind ncand : Nat) : Nat := if lkind = 0 then roundUp (2 * vocab) 4 else roundUp (6 * ncand) 4
/-- The candidates of row t of a record's rows. -/
def logitRow (vocab lkind lfmt ncand : Nat) (rows : List Byte) (t : Nat) : List (Nat × Option Fl) × Nat :=
  let o := t * logitRowBytes vocab lkind ncand
  let n := if lkind = 0 then vocab else ncand
  let r := (List.range n).map fun j =>
    let tok := if lkind = 0 then j else fld rows (o + 4 * j) 4
    let v := logitVal lfmt (fld rows (o + (if lkind = 0 then 0 else 4 * ncand) + 2 * j) 2)
    (tok, v)
  (r.map fun e => (e.1, e.2.1), (r.map fun e => b2n e.2.2).sum)
/-- Penalties (R180). -/
def Req.penalise (r : Req) (counts : Tab Nat) (tok : Nat) (x : Fl) : Fl :=
  let c := counts.getD tok 0
  if c = 0 then x
  else
    let y := if Fl.zero.lt x then f32div x r.repPenalty else f32mul x r.repPenalty
    f32sub (f32sub y r.presence) (f32mul r.frequency (Fl.ofNat c))
/-- Keep the shortest leading run whose running sum reaches a bound; at least one token. -/
def leadRun (bound : Fl) : Fl → List (Nat × Fl) → List (Nat × Fl)
  | _, [] => []
  | acc, e :: es =>
    let a := f32add acc e.2
    if bound.le a then [e] else e :: leadRun bound a es
/-- The first token whose running sum exceeds a bound, else the last. -/
def pickToken (bound : Fl) : Fl → List (Nat × Fl) → Nat
  | _, [] => 0
  | _, [e] => e.1
  | acc, e :: es =>
    let a := f32add acc e.2
    if bound.lt a then e.1 else pickToken bound a es
/-- One row to one token (R179); none where every token is excluded. -/
def Req.sampleRow (r : Req) (counts : Tab Nat) (row : Nat) (cands : List (Nat × Option Fl)) : Option Nat :=
  let xs := cands.filterMap fun e => e.2.map fun v => (e.1, r.penalise counts e.1 v.f32)
  let desc := fun (a b : Nat × Fl) => b.2.lt a.2 || (!(a.2.lt b.2) && a.1 ≤ b.1)
  let u : Fl := ⟨false, drawWord r.seed row / 2 ^ 11, -53⟩
  if xs.isEmpty then none
  else if r.temperature.m = 0 then (sortBy desc xs).head?.map (·.1)
  else
    let zs := sortBy desc (xs.map fun e => (e.1, f32div e.2 r.temperature))
    let zs := if r.topK > 0 then zs.take r.topK else zs
    let z0 := (zs.headD (0, Fl.zero)).2
    let ps := zs.map fun e => (e.1, f32exp (f32sub e.2 z0))
    let s := (ps.map (·.2)).foldl f32add Fl.zero
    let kept := leadRun (f32mul r.topP s) Fl.zero ps
    let s2 := (kept.map (·.2)).foldl f32add Fl.zero
    some (pickToken (u.mul s2) Fl.zero kept)

/-! ### Emission (R182, R184) -/

/-- Does a list end with another? -/
def endsWith (l t : List Nat) : Bool := t.length ≤ l.length && l.drop (l.length - t.length) == t
/-- The stop condition of Table 8-8 that holds after an emission: reason and index. `len` is the length the step would
commit, `lim` the length limit. -/
def Req.stopOf (r : Req) (emitted : List Nat) (tok len lim : Nat) : Option (Nat × Nat) :=
  match r.stopToks.findIdx? (· == tok) with
  | some i => some (1, i)
  | none =>
    match r.stopSeqs.findIdx? fun q => endsWith emitted q with
    | some j => some (2, j)
    | none =>
      if r.maxTokens ≠ 0 ∧ emitted.length ≥ r.maxTokens then some (3, 0)
      else if len = lim then some (4, 0)
      else none
/-- The rows of a step in turn: sample, emit, count, stop, accept the draft or break. -/
def Req.sampleRows (r : Req) (row : Nat → List (Nat × Option Fl)) (drafts : List Nat) (n : Nat) (base lim : Nat)
    (seg : Bool) : Nat → Nat → SampleRes → Option SampleRes
  | 0, _, a => some a
  | fuel + 1, t, a =>
    match r.sampleRow a.counts (r.rows + t) (row t) with
    | none => none
    | some y =>
      let c := countToken a.counts y
      let a := { a with tokens := a.tokens ++ [y], counts := c.1, untracked := a.untracked + c.2, rows := a.rows + 1 }
      let len := base + if seg then 0 else a.accepted
      match r.stopOf (r.emitted ++ a.tokens) y len lim with
      | some (reason, idx) =>
        let more := t + 1 < n && drafts.getD t 0 == y
        -- acceptance of the draft comes before the stop in R182
        some { a with reason := reason, index := idx, accepted := if more then a.accepted + 1 else a.accepted }
      | none =>
        if t + 1 < n ∧ drafts.getD t 0 = y then
          Req.sampleRows r row drafts n base lim seg fuel (t + 1) { a with accepted := a.accepted + 1 }
        else some a
/-- The checks of R178 on a record: head, drafts, candidates of the first n rows, and that none of them excludes every token. -/
def logitsOk (m : ModelDesc) (b : List Byte) (npos hgSeq pos n : Nat) (drafts : List Nat) : Bool :=
  let lkind := fld b 2 1
  let ncand := fld b 0xC 4
  let dr := (List.range (npos - 1)).map fun j => fld b (16 + 4 * j) 4
  let rows := b.drop (16 + 4 * (npos - 1))
  fld b 1 1 == npos && lkind ≤ 1 && fld b 3 1 ≤ 1 && fld b 4 4 == hgSeq && fld b 8 4 == pos
    && (if lkind == 0 then ncand == 0 else 1 ≤ ncand && ncand ≤ 4096)
    && b.length == 16 + 4 * (npos - 1) + npos * logitRowBytes m.vocab lkind ncand
    && dr == drafts
    && ((List.range n).all fun t => (logitRow m.vocab lkind (fld b 3 1) ncand rows t).1.any fun e => e.2.isSome)
    && (lkind == 0 || (List.range n).all fun t =>
      let ids := (logitRow m.vocab lkind (fld b 3 1) ncand rows t).1.map (·.1)
      ids.all (· < m.vocab) && ids.eraseDups.length == ids.length)
/-- Does the step sample at all: a decode step, or a segment that ends its prompt in a request with `gen`? -/
def Iss.samples (i : Iss) : Bool :=
  i.k.kind == 2 || (i.k.kind == 1 && ((i.t.waveOf i.k).bind fun w => w.lanes[i.k.lane]?).any fun l => bitOf l.flags 2)

/-- SAMPLE: tokens for the step's lane or segment (R392); ga := the last emitted token. -/
def execSample (x : StepRef) (r : Bool) (h : HReg) (a b : GReg) (s : State) : Out :=
  .next (s.issue x { rh := [h], rg := [b], wg := [a] } r fun i =>
    let hs := i.c.rh h
    let zero := i.c.wg a 0
    i.with kSession hs zero fun _ =>
      if !i.samples || i.k.sampled.isSome || hs ≠ i.k.h0 then i.bad .accessViolation zero
      else if i.t.follows i.k then
        (i.s.updStep x fun k => { k with sampled := some ⟨[], 0, 0, 0, 0, [], 0⟩ }, .done zero)
      else
        let live := i.t.liveOf i.k.q i.k.cid
        let lane := (i.t.waveOf i.k).bind fun w => w.lanes[i.k.lane]?
        match i.k.tokenMsg (i.c.rg b), i.t.stepModel i.k, live.bind (·.req), lane, (i.k.seq).bind i.t.sequences.find with
        | some msg, some m, some rq, some l, some sq =>
          let seg := i.k.kind == 1
          let n := if seg then 1 else (i.k.appended.map (·.2)).getD 0
          let npos := if seg then 1 else i.k.drafts.length + 1
          let pos := if seg then l.pos + l.ntok - 1 else l.pos
          if msg.mtype ≠ mtLogits ∨ n = 0 then i.bad .accessViolation zero
          else if !(logitsOk m msg.body npos l.hgSeq pos n (if seg then [] else i.k.drafts)) then (i.s, .squash .accessViolation)
          else
            let lkind := fld msg.body 2 1
            let lfmt := fld msg.body 3 1
            let ncand := fld msg.body 0xC 4
            let rows := msg.body.drop (16 + 4 * (npos - 1))
            let start : SampleRes := ⟨[], if seg then 0 else 1, 0, 0, 0, rq.counts, 0⟩
            match rq.sampleRows (fun t => (logitRow m.vocab lkind lfmt ncand rows t).1) i.k.drafts n
                (if seg then l.pos + l.ntok else l.pos) (i.t.limit sq) seg n 0 start with
            | none => (i.s, .squash .accessViolation)
            | some res =>
              let inf := ((List.range n).map fun t => (logitRow m.vocab lkind lfmt ncand rows t).2).sum
              let s := (i.s.updStep x fun k => { k with sampled := some res }).count i.p cNonfiniteIn inf
              (s, .done (i.c.wg a (BitVec.ofNat 64 (res.tokens.getLastD 0))))
        | _, _, _, _, _ => i.bad .accessViolation zero)
/-- SMPRES: gd := the word of Table 17-10 for the step's SAMPLE. -/
def execSmpres (x : StepRef) (r : Bool) (d : GReg) (s : State) : Out :=
  .next (s.issue x { wg := [d] } r fun i =>
    let v := match i.k.sampled with
      | none => 0
      | some e =>
        if i.t.follows i.k then 0
        else
          let all := (((i.t.liveOf i.k.q i.k.cid).bind (·.req)).map fun q => q.emitted.length).getD 0 + e.tokens.length
          all % 2 ^ 32 * 2 ^ 32 + e.index % 256 * 2 ^ 24 + e.reason * 65536 + e.accepted % 256 * 256 + e.tokens.length % 256
    (i.s, .done (i.c.wg d (BitVec.ofNat 64 v))))

end Sys2Proof.Machine
end

