-- ==== Sys2Proof/Machine/QueueGroup.lean ====
section
/-! DEFINITION. The queue group 0xB, the sync and commit group 0xC and the test group 0xE (17 R394 to R396, R398). -/

namespace Sys2Proof.Machine

/-- QPOST: an interim completion for the step's own command, posted at stage 6; at most four a step. -/
def execQpost (x : StepRef) (r : Bool) (h : HReg) (a b : GReg) (s : State) : Out :=
  .next (s.issue x { rh := [h], rg := [a, b] } r fun i =>
    let hs := i.c.rh h
    i.with kQueue hs i.c fun _ =>
      if hIndex hs ≠ i.k.q ∨ i.k.posts ≥ 4 then i.bad .accessViolation i.c
      else ((i.s.log x (.post (i.c.rg a) (i.c.rg b))).updStep x fun k => { k with posts := k.posts + 1 }, .done i.c))
/-- QEVENT: a program event at stage 6; at most 16 a step. A code above 0xFFFF is no code of the log either (DEDUCED, log
entry 23). -/
def execQevent (x : StepRef) (r : Bool) (a : GReg) (imm : BitVec 32) (s : State) : Out :=
  .next (s.issue x { rg := [a] } r fun i =>
    if imm.toNat < 0x8000 ∨ imm.toNat > 0xFFFF ∨ i.k.events ≥ 16 then i.bad .accessViolation i.c
    else ((i.s.log x (.event imm.toNat (i.c.rg a))).updStep x fun k => { k with events := k.events + 1 }, .done i.c))
/-- The code of a queue's state (QINFO). -/
def QSt.code : QSt → Nat
  | .disabled => 0 | .enabled => 1 | .error => 2 | .draining => 3
/-- QINFO: ga := state, privilege and depth of queue hs; gb := entries fetched and not finished. -/
def execQinfo (x : StepRef) (r : Bool) (h : HReg) (a b : GReg) (s : State) : Out :=
  .next (s.issue x { rh := [h], wg := [a, b] } r fun i =>
    let hs := i.c.rh h
    i.with kQueue hs ((i.c.wg a 0).wg b 0) fun _ =>
      let w := ((i.t.queues.find (hIndex hs)).map fun q =>
        q.st.code + 4 * b2n q.priv + 65536 * (if q.st = .disabled then 0 else q.depth)).getD 0
      let n := (i.t.live.filter fun l => l.q == hIndex hs).length
      (i.s, .done ((i.c.wg a (BitVec.ofNat 64 w)).wg b (BitVec.ofNat 64 n))))

/-- COMMIT: the step's execution ends; the stages of Table 3-9 follow. hs must equal h0 of the step; a step that should
have sampled and did not is squashed (R392, R395). -/
def execCommit (x : StepRef) (r : Bool) (h : HReg) (a : GReg) (post : Bool) (s : State) : Out :=
  .next (s.issue x { rh := [h], rg := [a] } r fun i =>
    if i.c.rh h ≠ i.k.h0 then (i.s, .squash .accessViolation)
    else if i.samples && i.k.sampled.isNone then (i.s, .squash .accessViolation)
    else (i.s.updStep x fun k => { k with st := .committing, commitArg := some (i.c.rg a, post) }, .stop))
/-- Has every asynchronous action of a step ended: moves, promotions, descriptors, staged copies (R396)? -/
def Iss.settled (i : Iss) : Bool :=
  (i.k.moves.all fun kv => kv.2.done) && (i.k.descs.all fun d => d.st == .done)
    && i.k.pins.all fun g => (i.t.groups.find g).all fun r => r.move != .promoting
/-- FENCE: wait until every asynchronous action of the step has ended; the status of the first that failed. -/
def execFence (x : StepRef) (r : Bool) (s : State) : Out :=
  .next (s.issue x {} r fun i =>
    if !i.settled then (i.s, .wait .fence)
    else match i.k.moves.find? fun kv => kv.2.status != .ok with
      | some kv => i.bad kv.2.status i.c
      | none =>
        match i.k.fails with
        | f :: _ => i.bad f.2 i.c
        | [] => (i.s, .done i.c))
/-- The statuses that SQUASH takes. -/
def squashStatus (imm : BitVec 32) : Status :=
  let c := imm.toNat % 256
  if c = Status.aborted.code.toNat then .aborted
  else if c = Status.recomputeRequired.code.toNat then .recomputeRequired
  else if c = Status.noPage.code.toNat then .noPage
  else .accessViolation
/-- SQUASH: the step ends as a squash with the named status. -/
def execSquash (x : StepRef) (r : Bool) (imm : BitVec 32) (s : State) : Out :=
  .next (s.issue x {} r fun i => (i.s, .squash (squashStatus imm)))

/-- TSTAMP: gd := the cycles the step has held a context (R59): a count that only grows, by a free amount from one reading
to the next (log entry 10). -/
def execTstamp (x : StepRef) (r : Bool) (d : GReg) (s : State) : Out :=
  .next (s.issue x { wg := [d] } r fun i =>
    let f := i.s.fresh
    let n := i.k.cycles + 1 + Config.freeCycles f.1
    (f.2.updStep x fun k => { k with cycles := n }, .done (i.c.wg d (BitVec.ofNat 64 n))))
/-- TRACE: a record in the partition's trace ring, at once; the oldest of 256 goes (18 Table 18-9). -/
def execTrace (x : StepRef) (r : Bool) (a : GReg) (imm : BitVec 32) (s : State) : Out :=
  .next (s.issue x { rg := [a] } r fun i =>
    (i.s.updP i.p fun t =>
      let l := t.trace ++ [(i.c.rg a, imm, x.num % 2 ^ 32)]
      { t with trace := l.drop (l.length - 256) }, .done i.c))
/-- CNTRD: gd := partition counter `imm` (18 R407). -/
def execCntrd (x : StepRef) (r : Bool) (d : GReg) (imm : BitVec 32) (s : State) : Out :=
  .next (s.issue x { wg := [d] } r fun i =>
    if counterExists imm.toNat then (i.s, .done (i.c.wg d (BitVec.ofNat 64 (i.t.counters.getD imm.toNat 0))))
    else i.bad .accessViolation (i.c.wg d 0))
/-- ERRINJ: the poison bit of a tile of page ga of group hs, at stage 4 (R398). -/
def execErrinj (x : StepRef) (r : Bool) (h : HReg) (a : GReg) (half : Bool) (s : State) : Out :=
  .next (s.issue x { rh := [h], rg := [a] } r fun i =>
    let hs := i.c.rh h
    i.with kGroup hs i.c fun _ =>
      if !(i.s.diag i.p) || !((i.t.groups.find (hIndex hs)).any fun g => (i.c.rg a).toNat < g.pages) then
        i.bad .accessViolation i.c
      else (i.s.log x (.poison (hIndex hs) (i.c.rg a).toNat half), .done i.c))

end Sys2Proof.Machine
end

