-- ==== Sys2Proof/Machine/Revive.lean ====
section
/-! DEFINITION. Frames of a cluster, the start of a step's record, and revival: the revival step, its split point, its
commit, and its exchange in a head group (spec 03 R53 to R56; 09 R201 to R207). -/

namespace Sys2Proof.Machine

/-! ### Frames and clusters (03 R53, Table 3-7) -/

/-- Frames of a cluster. -/
def framesPerCluster : Nat := 4096
/-- Is a cluster quarantined or retired? -/
def State.cluOut (s : State) (c : Nat) : Bool := (s.clusters.find c).any fun k => k.st != .inService
/-- Steps that hold a frame on a cluster. -/
def State.openOn (s : State) (c : Nat) : Nat := (s.parts.map fun kv => (kv.2.steps.filter fun k => k.2.clu == c).length).sum
/-- The lowest free frame of a cluster. -/
def State.frameOn (s : State) (c : Nat) : Option Nat :=
  let used := (s.parts.map fun kv => (kv.2.steps.filter fun k => k.2.clu == c).map fun k => k.2.frame).flatten
  lowestSlot (fun i => !used.contains i) framesPerCluster 0
/-- Of some clusters with a free frame, the one with the fewest open steps, then the lowest number. -/
def State.pickCluster (s : State) (cs : List Nat) : Option Nat :=
  ((cs.filter fun c => (s.frameOn c).isSome).foldl (fun a c => match a with
    | none => some (s.openOn c, c)
    | some (n, d) => if s.openOn c < n then some (s.openOn c, c) else some (n, d)) none).map (·.2)
/-- A step's record as it starts: everything of its own is empty (R53, R55). -/
def newStep (num q : Nat) (cid : BitVec 16) (kind idx prog clu frame clock : Nat) : Step :=
  { num := num, q := q, cid := cid, kind := kind, idx := idx, prog := prog, clu := clu, frame := frame, sess := none
    seq := none, batch := 0, lane := 0, clock0 := clock, cycles := 0, h0 := 0
    ctx := { g := List.replicate 32 0, h := List.replicate 16 0, f := List.replicate 8 false, latch := 0, pc := 0 }
    words := List.replicate 16 0, scratch := [], epoch := 2 * num, st := .running, ra := none, raDone := [], log := []
    msgs := [], pins := [], xpins := [], opened := [], moves := [], descs := [], emitted := [], chunks := [], merged := []
    outputs := [], fails := [], appended := none, nNew := 0, drafts := [], appLayers := [], sampled := none, posts := 0
    events := 0, deferred := .none, deferredUsed := false, commitArg := none, notes := []
    hgSent := false, recDue := false, recJseq := none, shadow := none, shadowed := false, arbSweep := false
    replayed := [], final := none, stale := false }
/-- The number of a program that no step of a program has: a revival step runs none. -/
def noProgram : Nat := 65536

/-! ### The split point (09 R205) -/

/-- The revival controls of Table 9-5 from `rv_mode` to `rc_fixed`, in the order of the table: a revival or a pre-revival reads them as it
starts (R206). -/
def Partition.rvCtl (p : Partition) : List Nat :=
  [0x440, 0x444, 0x448, 0x44C, 0x450, 0x454, 0x458, 0x45C, 0x460, 0x464].map p.reg
/-- Bytes per second of a tier's fetch bandwidth, and microseconds of its latency (Table 9-5). -/
def rvBw (ctl : List Nat) (t : Tier) : Nat :=
  100000000 * match t with
    | .t1b => ctl.getD 1 0
    | .t1h => ctl.getD 2 0
    | _ => ctl.getD 3 0
def rvLat (ctl : List Nat) (t : Tier) : Nat :=
  match t with
  | .t1b => ctl.getD 4 0
  | .t1h => ctl.getD 5 0
  | _ => ctl.getD 6 0
/-- Seconds of a number of microseconds, in binary64. -/
def f64us (n : Nat) : Fl := f64div (Fl.ofNat n) (Fl.ofNat 1000000)
/-- Bytes of the groups of some blocks that are homed in a tier. -/
def Partition.bytesIn (p : Partition) (gs : List Handle) (t : Tier) : Nat :=
  (gs.map fun h => ((p.groups.find (hIndex h)).map fun g => if g.tier = t then p.groupBytes g else 0).getD 0).sum
/-- The fetch time of some groups: the slowest tier, and the longest latency among those that hold bytes. -/
def Partition.fetchCost (p : Partition) (ctl : List Nat) (gs : List Handle) : Fl :=
  let ts := [Tier.t1b, Tier.t1h, Tier.t2]
  if ts.all fun t => p.bytesIn gs t == 0 then Fl.zero
  else
    let time := (ts.map fun t => f64div (Fl.ofNat (p.bytesIn gs t)) (Fl.ofNat (rvBw ctl t))).foldl Fl.maxF Fl.zero
    let lat := ((ts.filter fun t => p.bytesIn gs t != 0).map fun t => f64us (rvLat ctl t)).foldl Fl.maxF Fl.zero
    f64add time lat
/-- The recompute time of `n` positions from `s` on, of a sequence of length l with rc pending. -/
def recCost (ctl : List Nat) (l rc s : Nat) : Fl :=
  let n := l + rc - s
  if n = 0 then Fl.zero
  else
    let half := f64div (Fl.ofNat (s + l + rc - 1)) (Fl.ofNat (2 * ctl.getD 8 0))
    f64add (f64us (ctl.getD 9 0)) (f64mul (f64div (Fl.ofNat n) (Fl.ofNat (ctl.getD 7 0))) (f64add (Fl.ofNat 1) half))
/-- The split point k of a sequence whose blocks name these groups (R205, `rv_mode`); ties go to the larger k. -/
def Partition.splitPoint (p : Partition) (ctl : List Nat) (gs : List Handle) (l rc kmax : Nat) : Nat :=
  match ctl.getD 0 0 % 4 with
  | 1 => kmax
  | 2 => min kmax ((gs.takeWhile fun h => (p.groups.find (hIndex h)).any fun g => g.tier == .t0).length)
  | _ =>
    ((List.range (kmax + 1)).foldl (fun (a : Nat × Option Fl) k =>
      let cost := f64add (p.fetchCost ctl (gs.take k)) (recCost ctl l rc (min l (64 * k)))
      match a.2 with
      | none => (k, some cost)
      | some b => if cost.le b then (k, some cost) else a) (0, none)).1

/-! ### The stages (R203) -/

/-- Blocks of a sequence's committed length. -/
def Sequence.blocks (sq : Sequence) : Nat := (sq.committed + 63) / 64
/-- Apply the entries that a step has logged for page tables and key columns. -/
def State.applyEntry (s : State) (p : Part) (o : LogOp) : State :=
  match o with
  | .entry q b h => s.updSeq p q fun sq => { sq with table := sq.table.put b h }
  | .key q b k => s.updSeq p q fun sq => { sq with keys := sq.keys.put b k }
  | .refUp g => s.refUp p g
  | _ => s
/-- The node of the block before one, for the node that an import inserts (05 R100). -/
def State.parentNode (s : State) (p : Part) (sq : Sequence) (dom model : BitVec 16) (b : Nat) : Handle :=
  if b = 0 then 0 else s.getP p 0 fun t => t.nodeOf (s.keyOf p sq dom model (b - 1)) dom model
/-- Stage 2 for some DROPPED blocks: look each up, and log the group of a hit. It stops where an import must wait for a frame or finds
none, or where the partition may not look (05 R99). In an equal-time domain it probes on behind its first miss without using what it
finds (05 R116). -/
def State.reviveLookups (s : State) (x : StepRef) (k : Step) (m : ModelDesc) (dom : BitVec 16) (sq : Sequence) (seq : Nat) (missed : Bool) :
    List Nat → State × Option Hit
  | [] => (s, none)
  | b :: bs =>
    let key := s.keyOf x.part sq dom m.modelId b
    if !(s.domMember x.part dom) then (s, some .notMember)
    else if missed && s.isEt dom then State.reviveLookups (s.lookup x.part dom m.modelId key).1 x k m dom sq seq true bs
    else match s.probe x k m dom key (s.parentNode x.part sq dom m.modelId b) false with
    | (s, some (_, _, .group h)) =>
      if s.getP x.part true fun t => t.refFull h then State.reviveLookups s x k m dom sq seq missed bs
      else State.reviveLookups ((s.log x (.entry seq b h)).log x (.refUp (hIndex h))) x k m dom sq seq missed bs
    | (s, some (_, _, o)) => (s, some o)
    | (s, none) => State.reviveLookups s x k m dom sq seq true bs
/-- The groups that a sequence's blocks name through a step's log, block 0 first, null where a block is DROPPED. -/
def Partition.groupsThrough (t : Partition) (k : Step) (seq : Nat) (n : Nat) : List Handle :=
  (List.range n).map fun b => (t.entryOf k seq b).getD 0
/-- A revival or a pre-revival wants the promotion of a group, whose bytes count for it when it ends (R212; DEDUCED, log entry 123). -/
def State.wanted (s : State) (p : Part) (g : Nat) : State :=
  s.updGroup p g fun r => { r with reviving := r.reviving || r.move == .promoting }
/-- Promote the groups of the blocks below k, ascending: a step pin each, and a promotion where it is not in T0 (stage 4).
It answers what became of the first that could not go on. -/
def State.reviveGroups (s : State) (p : Part) (sess num quad : Nat) : List Handle → State × Met
  | [] => (s, .ready)
  | h :: hs =>
    let s := (s.pinFor p num (hIndex h)).updP p fun t => t.touchG (hIndex h)
    match s.meet p (hIndex h) quad 2 num (some sess) false with
    | (s, .wait) => (s, .wait)
    | (s, .noPage) => (s, .noPage)
    | (s, .lost) => (s, .lost)
    | (s, r) =>
      let s := if r = .moving then (s.updP p fun t =>
          { t with revivals := t.revivals.upd sess fun v => { v with promos := v.promos ++ [hIndex h] } }).wanted p (hIndex h) else s
      State.reviveGroups s p sess num quad hs
/-- The record of a revival's step. -/
def Partition.revStep (t : Partition) (sess : Nat) : Option (Revival × Step) :=
  (t.revivals.find sess).bind fun rv => rv.step.bind fun n => (t.steps.find n).map fun k => (rv, k)
/-- Stage 4 for every sequence of a revival whose k is known. An allocation without a page stops the revival (Table 9-4). -/
def State.reviveStage4 (s : State) (p : Part) (sess : Nat) : State :=
  match (s.prt p).bind fun t => (t.revStep sess).map fun r => (t, r) with
  | none => s
  | some (t, rv, k) =>
    let hs := (rv.seqs.map fun e => (t.groupsThrough k e.seq (e.k.getD 0)).filter (· ≠ 0)).flatten
    match s.reviveGroups p sess k.num (k.clu / 16) hs with
    | (s, .wait) => s.updStep ⟨p, k.num⟩ fun k => { k with st := .waiting .frame }
    | (s, .noPage) => s.stopRevival p sess .noPage
    | (s, .lost) => s.stopRevival p sess .recomputeRequired
    | (s, _) => s.updStep ⟨p, k.num⟩ fun k => { k with st := .committing }
/-- Choose k for every sequence (R205), as the member that decides. -/
def State.reviveChoose (s : State) (p : Part) (sess : Nat) : State :=
  match (s.prt p).bind fun t => (t.revStep sess).map fun r => (t, r) with
  | none => s
  | some (t, rv, k) =>
    let ch := fun (e : RevSeq) =>
      match t.sequences.find e.seq with
      | none => e
      | some sq => { e with k := some (t.splitPoint rv.ctl (t.groupsThrough k e.seq e.kmax) sq.committed sq.rc e.kmax) }
    s.updP p fun t => { t with revivals := t.revivals.upd sess fun v => { v with seqs := rv.seqs.map ch, hgWait := false } }
/-- The 8-byte records of HG_REVIVE and HG_REVIVE_K: `hg_seq` and a number (R207). -/
def hgPairs (l : List (Nat × Nat)) : List Byte := (l.map fun e => toLe e.1 4 ++ toLe e.2 4).flatten
/-- The model of a session. -/
def Partition.sessModel (t : Partition) (sess : Nat) : Option ModelDesc :=
  (t.sessions.find sess).bind fun ss => t.model? ss.model
/-- `hg_seq` of a sequence. -/
def Partition.hgSeqOf (t : Partition) (seq : Nat) : Nat := ((t.sequences.find seq).map (·.hgSeq)).getD 0
/-- Has the lead what every follower must send for a revival: for each sequence, from each other member? -/
def Partition.hgRevived (t : Partition) (m : ModelDesc) (rv : Revival) : Bool :=
  ((List.range m.hgSize).filter (· ≠ m.hgRank)).all fun r =>
    rv.seqs.all fun e => rv.hgGot.any fun g => g.1 == r && g.2.1 == t.hgSeqOf e.seq
/-- The lead, with all of it: kmax is the least over the members, k by R205, HG_REVIVE_K to all, stage 4. -/
def State.reviveLead (s : State) (p : Part) (sess : Nat) : State :=
  match (s.prt p).bind fun t => (t.revStep sess).bind fun r => (t.sessModel sess).map fun m => (t, r.1, m) with
  | none => s
  | some (t, rv, m) =>
    if !rv.hgWait || !(t.hgRevived m rv) then s
    else
      let least := fun (e : RevSeq) =>
        { e with kmax := ((rv.hgGot.filter fun g => g.2.1 == t.hgSeqOf e.seq).map fun g => g.2.2).foldl min e.kmax }
      let s := s.updP p fun t => { t with revivals := t.revivals.upd sess fun v => { v with seqs := v.seqs.map least } }
      let s := s.reviveChoose p sess
      let ks := s.getP p [] fun t => ((t.revivals.find sess).map fun v =>
        v.seqs.map fun e => (t.hgSeqOf e.seq, e.k.getD 0)).getD []
      (s.toFollowers p m (mkMsg mtHgReviveK m.modelId 0 0xFFFF ks.length (hgPairs ks))).reviveStage4 p sess
/-- A follower's revival goes on with the k that the lead gave for each sequence, where it has them all (R207). -/
def State.reviveGiven (s : State) (p : Part) (sess : Nat) (ks : List (Nat × Nat)) : State :=
  let s := s.updP p fun t => { t with revivals := t.revivals.upd sess fun v =>
    { v with seqs := v.seqs.map fun e =>
        { e with k := ((ks.find? fun k => k.1 == t.hgSeqOf e.seq).map fun k => min k.2 e.kmax).or e.k } } }
  if s.getP p false fun t => (t.revivals.find sess).any fun v => v.seqs.all fun e => e.k.isSome then
    (s.updP p fun t => { t with revivals := t.revivals.upd sess fun v => { v with hgWait := false } }).reviveStage4 p sess
  else s
/-- Stage 3: k by R205, or the exchange of a head group (R207), in which a follower may have the lead's k already (DESIGN CHOICE, log
entry 158). -/
def State.reviveStage3 (s : State) (p : Part) (sess : Nat) : State :=
  match (s.prt p).bind fun t => (t.revStep sess).bind fun r => (t.sessModel sess).map fun m => (t, r, m) with
  | none => s
  | some (t, (rv, k), m) =>
    if m.hgSize ≤ 1 || rv.seqs.isEmpty then (s.reviveChoose p sess).reviveStage4 p sess
    else
      let mine := t.hgEarly.filter fun e => rv.seqs.any fun q => t.hgSeqOf q.seq == e.2.1
      let s := s.updP p fun t =>
        { t with revivals := t.revivals.upd sess fun v => { v with hgWait := true, hgGot := v.hgGot ++ if m.leads then mine else [] }
                 hgEarly := if m.leads then t.hgEarly.filter fun e => !mine.contains e else t.hgEarly
                 steps := t.steps.upd k.num fun k => { k with st := .waiting .fence } }
      if m.leads then s.reviveLead p sess
      else if rv.seqs.all fun e => rv.hgGot.any fun g => g.2.1 == t.hgSeqOf e.seq then
        s.reviveGiven p sess (rv.hgGot.map (·.2))
      else
        let ks := rv.seqs.map fun e => (t.hgSeqOf e.seq, e.kmax)
        s.toLead p m (mkMsg mtHgRevive m.modelId 0 0xFFFF ks.length (hgPairs ks))
/-- Stages 2 to 4 of a revival that holds its step. The results of an equal-time domain's walk wait for their release (05 R116). -/
def State.reviveRun (s : State) (p : Part) (sess : Nat) : State :=
  match (s.prt p).bind fun t => (t.revStep sess).bind fun r => (t.sessions.find sess).bind fun ss =>
      (t.model? ss.model).map fun m => (t, r, ss, m) with
  | none => s
  | some (t, (rv, k), ss, m) =>
    if !rv.seqs.isEmpty then
      (if rv.seqs.all fun e => e.k.isSome then s.reviveStage4 p sess else s.reviveStage3 p sess)
    else
      -- stage 2: which blocks are DROPPED, and what the prefix store has for them
      let x : StepRef := ⟨p, k.num⟩
      let s := s.updStep x fun k => { k with log := [] }
      let idx := (List.range 4).filterMap fun i =>
        if bitOf rv.mask i then (ss.seqs[i]?).bind fun h => if h = 0 then none else some (hIndex h) else none
      let gone := fun (q : Nat) => if ss.domain = 0 then [] else
        match t.sequences.find q with
        | some sq => (List.range sq.blocks).filter fun b => (t.entryOf { k with log := [] } q b).getD 0 == 0
        | none => []
      let step := fun (a : State × Option Hit) (q : Nat) =>
        match a.2, t.sequences.find q with
        | none, some sq => a.1.reviveLookups x k m ss.domain sq q false (gone q)
        | _, _ => a
      match idx.foldl step (s, none) with
      | (s, some .wait) => s.updStep x fun k => { k with st := .waiting .frame }
      | (s, some .noPage) => s.stopRevival p sess .noPage
      | (s, some .notMember) => (s.statusEvent p .accessViolation ss.h 0).stopRevival p sess .accessViolation
      | (s, _) =>
        let seqs := s.getP p [] fun t =>
          idx.map fun q =>
            let n := ((t.sequences.find q).map Sequence.blocks).getD 0
            let k := (t.steps.find k.num).getD k
            ({ seq := q, kmax := ((List.range n).find? fun b => (t.entryOf k q b).getD 0 == 0).getD n, k := none } : RevSeq)
        let s := s.updP p fun t => { t with revivals := t.revivals.upd sess fun v => { v with seqs := seqs } }
        if s.isEt ss.domain && idx.any fun q => !(gone q).isEmpty then s.updStep x fun k => { k with st := .waiting .equalTime }
        else s.reviveStage3 p sess
/-- Begin, or join, the revival of a session for a waiter (R201, Table 9-4). -/
def State.startRevival (s : State) (p : Part) (sess mask q : Nat) (cid : BitVec 16) : State :=
  s.updP p fun t =>
    match t.revivals.find sess with
    | some _ => { t with revivals := t.revivals.upd sess fun v => { v with waiters := v.waiters ++ [(q, cid)] } }
    | none =>
      { t with revivals := t.revivals.put sess ⟨if mask = 0 then 15 else mask, none, [(q, cid)], [], [], 0, [], false, false, []⟩
               due := t.due ++ [⟨3, 4, q, cid, 0, sess, t.nextOrder, false⟩], nextOrder := t.nextOrder + 1 }
/-! ### The commit (R203 stage 6, R204) -/

/-- Put a request's sequence into the prompt list. -/
def Partition.toPrompts (t : Partition) (q : Nat) (cid : BitVec 16) : Partition :=
  if t.prompts.contains (q, cid) then t
  else { t with prompts := t.prompts ++ [(q, cid)] }
/-- The sequence's entries of blocks k and above go, with their references, and its lengths are set (stage 6). -/
def State.reviveCut (s : State) (p : Part) (e : RevSeq) : State :=
  match s.seq? p e.seq, e.k with
  | some sq, some k =>
    let gone := sq.table.filter fun b => b.1 ≥ k
    let c := min sq.committed (64 * k)
    let s := s.updSeq p e.seq fun q =>
      { q with table := q.table.keep fun b _ => b < k, keys := q.keys.keep fun b _ => b < k
               committed := c, prov := 0, rc := q.rc + (q.committed - c) }
    let s := s.forEach gone fun s b => if b.2 = 0 then s else s.refDown p (hIndex b.2)
    s.count p cRvRecompute (sq.committed - c)
  | _, _ => s
/-- The FULL blocks that a revival's sequences keep: sequence, block, group. -/
def Partition.reviveBlocks (t : Partition) (k : Step) (rv : Revival) : List (Nat × Nat × Group) :=
  (rv.seqs.map fun e => match e.k with
    | some n => (t.groupsOf k e.seq (List.range n)).filterMap fun b => if b.2.st = .full then some (e.seq, b.1, b.2) else none
    | none => []).flatten
/-- REVIVAL_APPLY: once every promotion of the revival has ended, its entries apply, lengths are cut to k, the session goes
OPEN, and its record is written; the completions wait for COMMIT_RELEASE. -/
def execRevivalApply (p : Part) (sess : Nat) (s : State) : Out :=
  .next <| match (s.prt p).bind fun t => (t.revStep sess).bind fun r => (t.sessModel sess).map fun m => (t, r, m) with
  | none => s
  | some (t, (rv, k), m) =>
    if k.st ≠ .committing ∨ rv.committed ∨ rv.promos.any (fun g => (t.groups.find g).any fun r => r.move == .promoting) then s
    else if s.journalShort p.val then s.roRefusal.stopRevival p sess .tierReadOnly
    else
     -- the coarse index is rebuilt from the pages (06 R144), which needs room for it
     match if t.compat then s.coarseFor p k m sess (t.reviveBlocks k rv) else (s, .fine) with
     | (s, .wait) => s
     | (s, .fail st) => s.stopRevival p sess st
     | (s, .fine) =>
      let s := s.forEach k.log fun s o => s.applyEntry p o
      let s := s.forEach rv.seqs fun s e => s.reviveCut p e
      let s := if t.compat then s.forEach rv.seqs fun s e =>
          match s.seq? p e.seq with
          | none => s
          | some sq => s.forEach sq.table fun s b =>
            match s.group? p (hIndex b.2) with
            | some g => if g.st = .full then s.summariseBlock p m e.seq b.1 g else s
            | none => s
        else s
      let s := s.updP p fun t =>
        { t with sessions := t.sessions.upd sess fun r => { r with st := .opened }
                 revivals := t.revivals.upd sess fun v => { v with committed := true }
                 steps := t.steps.upd k.num fun k => { k with st := .applied, recDue := true, log := [] } }
      let r := (s.count p cRevivals).sessRecord p sess jRevive k.num
      r.1.recFor p k.num r.2
/-- The end of a revival at its stage 6: the waiting RUNs complete; the waiting requests go on behind it. -/
def State.reviveDone (s : State) (p : Part) (sess : Nat) (step : Nat) : State :=
  match (s.prt p).bind fun t => t.revivals.find sess with
  | none => s
  | some rv =>
    let s := s.updP p fun t => { t with revivals := t.revivals.del sess }
    let rcs := s.getP p [] fun t => ((t.sessions.find sess).map fun ss =>
      ss.seqs.map fun h => if h = 0 then 0 else ((t.sequences.find (hIndex h)).map (·.rc)).getD 0).getD []
    let mask : Nat := ((List.range rcs.length).map fun i => if rcs.getD i 0 = 0 then (0 : Nat) else 2 ^ i).sum
    s.forEach rv.waiters fun s w =>
      if s.getP p false fun t => (t.liveOf w.1 w.2).any fun l => l.req.isSome then s
      else s.finish p w.1 w.2 (if mask = 0 then .ok else .recomputeRequired) (BitVec.ofNat 64 mask) (BitVec.ofNat 64 rcs.sum) step

/-! ### The head group (R207) -/

/-- Which member of the head group stands at the other end of a queue pair. -/
def ModelDesc.memberOf (m : ModelDesc) (qp : Nat) : Option Nat :=
  (List.range m.hgSize).find? fun r => r != m.hgRank && m.hgQp.getD r 0xFFFF == qp
/-- The argument of a refused message's event: the fields that R278 gives for a refused packet, of the SEND that carried it (06 R122;
packed as a violation's are, DESIGN CHOICE, log entry 46). -/
def Qp.refusalArg (q : Qp) (n : Nat) : Word := BitVec.ofNat 64 (n + 2 ^ 16 * q.peerQpn + 2 ^ 32 * q.tenant + 2 ^ 48)
/-- A refused message: the partition's event log takes the refusal with the region that received it (06 R122), and the sender of the
command its status. -/
def State.refuseMsg (s : State) (p : Part) (qp : Nat) (st : Status) : State :=
  (match (s.prt p).bind fun t => t.qps.find qp with
    | some q => s.statusEvent p st q.recvRegion (q.refusalArg qp)
    | none => s.statusEvent p st 0 (BitVec.ofNat 64 qp)).answer st
def msgRecs (m : Msg) (n : Nat) : List (List Byte) := (chunksOf n m.count m.body)
/-- Is a message's geometry that of `count` records of n bytes? -/
def msgSized (m : Msg) (n : Nat) : Bool := m.bytes == m.body.length && m.body.length == n * m.count
/-- The revival whose stage 2 is over and that has a sequence of this `hg_seq`. -/
def Partition.revivalBySeq (t : Partition) (hg : Nat) : Option Nat :=
  t.revivals.findKey fun _ v => v.step.isSome && v.hgWait && v.seqs.any fun e => t.hgSeqOf e.seq == hg
/-- The revival, begun or due, of the session that holds a sequence of this `hg_seq`. -/
def Partition.revivalHolding (t : Partition) (hg : Nat) : Option Nat :=
  t.revivals.findKey fun i v => !v.committed && t.sequences.any fun kv => hIndex kv.2.sess == i && kv.2.hgSeq == hg
/-- HG_REVIVE at the lead: a follower's kmax per sequence. What arrives ahead of the lead's own stage 2 is kept, the latest of a member
for a sequence, until the lead's revival takes it or stops (DESIGN CHOICE, log entry 158). -/
def State.hgReviveMsg (s : State) (p : Part) (qp : Nat) (msg : Msg) : State :=
  match (s.prt p).bind fun t => (t.model? msg.modelId).bind fun m => (m.memberOf qp).map fun r => (m, r) with
  | some (m, r) =>
    if !m.leads || msg.mtype.toNat ≠ mtHgRevive || !(msgSized msg 8) then s.refuseMsg p qp .accessViolation
    else
      let s := s.forEach (msgRecs msg 8) fun s b =>
        let e := (r, fld b 0 4, fld b 4 4)
        s.updP p fun t => match t.revivalBySeq e.2.1 with
          | some i => { t with revivals := t.revivals.upd i fun v => { v with hgGot := v.hgGot ++ [e] } }
          | none => { t with hgEarly := (t.hgEarly.filter fun o => !(o.1 == e.1 && o.2.1 == e.2.1)) ++ [e] }
      (s.forEach (s.getP p [] fun t => t.revivals.map (·.1)) fun s i => s.reviveLead p i).answer .ok
  | none => s.refuseMsg p qp .accessViolation
/-- HG_REVIVE_K at a follower: k per sequence for the revivals that wait for it, kept for one that has not reached its stage 3;
0xFFFFFFFF stops the revival, begun or due. -/
def State.hgReviveKMsg (s : State) (p : Part) (qp : Nat) (msg : Msg) : State :=
  match (s.prt p).bind fun t => (t.model? msg.modelId).bind fun m => (m.memberOf qp).map fun r => (m, r) with
  | some (m, r) =>
    if m.leads || r ≠ 0 || msg.mtype.toNat ≠ mtHgReviveK || !(msgSized msg 8) then s.refuseMsg p qp .accessViolation
    else
      let ks := (msgRecs msg 8).map fun b => (fld b 0 4, fld b 4 4)
      let ss := (s.getP p [] fun t => ks.filterMap fun e => t.revivalHolding e.1).eraseDups
      let s := s.forEach ss fun s i =>
        if ks.any fun e => e.2 == 0xFFFFFFFF then s.stopRevival p i .aborted
        else if s.getP p false fun t => (t.revivals.find i).any fun v => v.hgWait then s.reviveGiven p i ks
        else s.updP p fun t => { t with revivals := t.revivals.upd i fun v => { v with hgGot := ks.map fun e => (0, e.1, e.2) } }
      s.answer .ok
  | none => s.refuseMsg p qp .accessViolation
def execHgRevive (p : Part) (qp : Nat) (msg : Msg) (s : State) : Out := .next (s.hgReviveMsg p qp msg)
def execHgReviveK (p : Part) (qp : Nat) (msg : Msg) (s : State) : Out := .next (s.hgReviveKMsg p qp msg)
/-- HG_REVIVE_TIMEOUT: the lead stops the revival on every member and raises HG_TIMEOUT. -/
def execHgReviveTimeout (p : Part) (sess : Nat) (s : State) : Out :=
  .next <| match (s.prt p).bind fun t => (t.revStep sess).bind fun r => (t.sessModel sess).map fun m => (t, r.1, m) with
  | none => s
  | some (t, rv, m) =>
    if !m.leads || !rv.hgWait then s
    else
      let ks := rv.seqs.map fun e => (t.hgSeqOf e.seq, 0xFFFFFFFF)
      let s := s.toFollowers p m (mkMsg mtHgReviveK m.modelId 0 0xFFFF ks.length (hgPairs ks))
      (s.stopRevival p sess .aborted).event p evHgTimeout 0 ((t.sessions.find sess).map (·.h) |>.getD 0) 0

/-! ### Pre-pull and pre-revival (04 R91, 09 R201) -/

/-- The numbers under which a group's own early promotion, and a session's pre-revival, wait for frames; no step has them. -/
def aheadHold (g : Nat) : Nat := g + 2 ^ 65
def preHold (sess : Nat) : Nat := sess + 2 ^ 66
/-- Promote one group ahead, under a promotion pin only, with a frame from the out-of-page order (04 R91, R94). Where that gives none the
group is left where it is (log entry 25). `rv` says that a pre-revival wants it. -/
def State.promoteOne (s : State) (p : Part) (quad : Nat) (sess : Option Nat) (rv : Bool) (h : Handle) : State :=
  match s.group? p (hIndex h) with
  | some g =>
    if h ≠ 0 && g.h == h && g.tier != .t0 then
      let s := (s.meet p (hIndex h) quad 4 (aheadHold (hIndex h)) sess false).1
      if rv then s.wanted p (hIndex h) else s
    else s
  | none => s
/-- Promote some groups ahead, ascending. -/
def State.promoteAhead (s : State) (p : Part) (quad : Nat) (sess : Option Nat) (rv : Bool) (gs : List Handle) : State :=
  s.forEach gs fun s h => s.promoteOne p quad sess rv h
/-- A promotion ahead whose frame has come, or that may take the order up again: it goes on while its group still needs it. -/
def State.promoteAgain (s : State) (p : Part) (g : Nat) : State :=
  match s.group? p g with
  | some r =>
    let sess := s.getP p none fun t => (t.sequences.find? fun kv => kv.2.table.any fun e => e.2 == r.h).map fun kv => hIndex kv.2.sess
    if r.tier = .t0 || r.move = .promoting || r.copyOut then s.unreserve p (aheadHold g) else s.promoteOne p r.quad sess r.reviving r.h
  | none => s.unreserve p (aheadHold g)
/-- Pre-pull for a due step that waits for a frame: up to 64 groups of its sequence that are not homed in T0. The step has no cluster yet:
the quadrant is that of the first such group (DESIGN CHOICE, log entry 138). -/
def State.prePull (s : State) (p : Part) (seq : Nat) : State :=
  match s.seq? p seq with
  | none => s
  | some sq =>
    let out := (sq.table.map (·.2)).filter fun h => h != 0 && (s.group? p (hIndex h)).any fun g => g.tier != .t0
    s.promoteAhead p (s.getP p 0 fun t => ((t.groups.find (hIndex (out.headD 0))).map (·.quad)).getD 0) (some (hIndex sq.sess)) false (out.take 64)
/-- Stage 2 of a pre-revival for one block that is DROPPED: the group that a lookup finds, touched, or an import of it (05 R100, R111). -/
def State.preLook (s : State) (p : Part) (sess quad : Nat) (m : ModelDesc) (dom : BitVec 16) (sq : Sequence) (b : Nat) : State × Option Hit :=
  let key := s.keyOf p sq dom m.modelId b
  match s.lookup p dom m.modelId key with
  | (s, none) => (s, none)
  | (s, some (o, n)) =>
    if o = p then
      let g := ((s.prt p).bind fun t => (t.nodes.find n).map (·.group)).getD 0
      (s.updP p fun t => t.touchG (hIndex g), some (.group g))
    else
      match s.importGroup p (preHold sess) quad (some sess) false m o n key dom (s.parentNode p sq dom m.modelId b) with
      | (s, r) => (s, some r)
/-- Stage 2 of a pre-revival for the blocks of a sequence: the group of each, null where there is none; it stops where an import finds no
frame. Behind the first miss of an equal-time domain what is found is not used (05 R116). -/
def State.preLooks (s : State) (p : Part) (sess quad : Nat) (m : ModelDesc) (dom : BitVec 16) (sq : Sequence) (missed : Bool) :
    List Nat → State × List Handle × Option Hit
  | [] => (s, [], none)
  | b :: bs =>
    let e := sq.table.getD b 0
    let next := fun (s : State) (h : Handle) (missed : Bool) =>
      let r := State.preLooks s p sess quad m dom sq missed bs
      (r.1, h :: r.2.1, r.2.2)
    if e ≠ 0 || dom = 0 then next s e missed
    else if missed && s.isEt dom then next (s.lookup p dom m.modelId (s.keyOf p sq dom m.modelId b)).1 0 true
    else match s.preLook p sess quad m dom sq b with
      | (s, some (.group h)) => next s h missed
      | (s, some o) => (s, [], some o)
      | (s, none) => next s 0 true
/-- Stages 2 to 4 of a pre-revival for one sequence; it answers false where it must wait for a frame. -/
def State.preSeq (s : State) (p : Part) (sess : Nat) (m : ModelDesc) (ss : Session) (ctl : List Nat) (sq : Sequence) : State × Bool :=
  let quad := s.getP p 0 fun t => ((t.groups.find (hIndex (((sq.table.map (·.2)).find? (· != 0)).getD 0))).map (·.quad)).getD
    (((quadsOf t.clusters).head?).getD 0)
  match s.preLooks p sess quad m ss.domain sq false (List.range sq.blocks) with
  | (s, _, some .wait) => (s, false)
  | (s, _, some _) => (s, true)
  | (s, hs, none) =>
    let kmax := (hs.findIdx? (· == 0)).getD sq.blocks
    let k := s.getP p 0 fun t => t.splitPoint ctl (hs.take kmax) sq.committed sq.rc kmax
    (s.promoteAhead p quad (some sess) true (hs.take k), true)
/-- Pre-revival of a parked session (R201): its sequences in order; one that must wait for a frame is taken up again with it. A partition
that is not of the session's domain looks nothing up (05 R99). -/
def State.preRevive (s : State) (p : Part) (sess : Nat) : State :=
  match (s.prt p).bind fun t => (t.sessions.find sess).bind fun ss => (t.model? ss.model).map fun m => (t, ss, m) with
  | none => s
  | some (t, ss, m) =>
    if ss.st ≠ .parked || t.revivals.has sess then s.unreserve p (preHold sess)
    else if ss.domain ≠ 0 && !(s.domMember p ss.domain) then s.statusEvent p .accessViolation ss.h 0
    else
      match ((ss.seqs.filter (· ≠ 0)).filterMap fun h => t.sequences.find (hIndex h)).foldl (fun (a : State × Bool) sq =>
          if a.2 then a.1.preSeq p sess m ss t.rvCtl sq else a) (s, true) with
      | (s, true) => s.unreserve p (preHold sess)
      | (s, false) => s
/-- Pre-revivals that the partition clock has reached, `resume_hint` − `rv_lead`, each once per park. -/
def State.preRevivals (s : State) (p : Part) : State :=
  let due := s.getP p [] fun t => (t.sessions.filter fun kv =>
    kv.2.st == .parked && kv.2.resumeHint != 0 && !kv.2.preRevived && t.clock + 1000 * t.reg 0x468 ≥ kv.2.resumeHint
      && !(t.revivals.has kv.1)).map (·.1)
  s.forEach due fun s i =>
    (s.updSess p i fun r => { r with preRevived := true, pflags := r.pflags / 4 * 4 + 2 + r.pflags % 2 }).preRevive p i

end Sys2Proof.Machine
end

