-- ==== Sys2Proof/Machine/Sched.lean ====
section
/-! DEFINITION. The scheduler: the partition clock, tenants, what a request does next, waves, rows, and the start of a due
step (spec 03 R50, R55, R56; 06 R123, R136; 08 R162 to R173, R189). -/

namespace Sys2Proof.Machine

/-! ### Tenants and the clock -/

/-- A fresh order stamp. -/
def Partition.stamp (t : Partition) : Nat × Partition := (t.nextOrder, { t with nextOrder := t.nextOrder + 1 })
/-- The tenant of a sequence. -/
def Partition.tenantOf (t : Partition) (sq : Sequence) : Nat := ((t.sessions.find (hIndex sq.sess)).map (·.tenant)).getD 0
/-- Refill a tenant at the clock; sequences held for it are ready again once its level is above 0 (R170, Table 8-4). -/
def Partition.refillTenant (t : Partition) (n : Nat) : Partition :=
  let t := { t with tenants := t.tenants.upd n fun r => r.refill t.clock }
  if (t.tenants.find n).any fun r => r.level > 0 then
    let o := t.stamp
    { o.2 with sequences := t.sequences.mapV fun _ q =>
        if q.held && t.tenantOf q == n then { q with held := false, readySince := o.1 } else q }
  else t
def State.refillTenant (s : State) (p : Part) (n : Nat) : State := s.updP p fun t => t.refillTenant n
/-- Has a deadline passed? A clock equal to it has not passed it (DEDUCED, log entry 26). -/
def missed (clock deadline : Nat) : Bool := deadline != 0 && deadline < clock
/-- A request ends and its sequence is freed (R188, R189, privileged queues). -/
def State.endAndFree (s : State) (p : Part) (l : Live) (st : Status) (reason : Nat) : State :=
  let s := s.endReq p l.q l.ent.cid st reason
  match l.req with
  | some r => s.freeSeq p r.seq
  | none => s
/-- A missed deadline, or a cancellation, of a request with no step in flight (Table 8-12, R189): before its first step it
is removed; on a privileged queue it ends and its sequence is freed; else it runs to its own stop, mute. -/
def State.cutReq (s : State) (p : Part) (l : Live) (st : Status) (reason : Nat) : State :=
  match l.req with
  | none => s.finish p l.q l.ent.cid st
  | some r =>
    if r.index = 0 then s.endReq p l.q l.ent.cid st reason
    else if s.getP p false fun t => t.privQ l.q then s.endAndFree p l st reason
    else s.updLive p l.q l.ent.cid fun l => { l with req := l.req.map fun r => { r with cancelled := some st, mute := true } }
/-- Evaluate the deadlines of the requests that have no step in flight (R189). -/
def State.deadlines (s : State) (p : Part) : State :=
  s.forEach (s.getP p [] fun t => t.live.filter fun l =>
      l.step.isNone && (l.req.any fun r => r.cancelled.isNone) && missed t.clock l.ent.deadline)
    fun s l => s.cutReq p l .late 6
/-- A command's host time: the clock never goes back; expiry first, then refills of tenants with a held sequence, then
deadlines and pre-revivals (R20, R50, R170, R189, R201). -/
def State.advance (s : State) (p : Part) (time : Nat) : State :=
  if s.getP p true fun t => time ≤ t.clock then s
  else
    let s := (s.updP p fun t => { t with clock := time }).expire p
    let held := s.getP p [] fun t => ((t.sequences.filter fun kv => kv.2.held).map fun kv => t.tenantOf kv.2).eraseDups
    let s := s.forEach held fun s n => s.refillTenant p n
    ((s.deadlines p).boundaries p).preRevivals p

/-! ### Where a due step may start (03 Table 3-7) -/

/-- The program and the entry point of a due step. A step without a command of its own runs the program bound to the queue
pair's queue at its first entry point (17 R387; DESIGN CHOICE, log entry 28). -/
def Partition.dueProg (t : Partition) (d : Due) : Handle × Nat :=
  let bound := ((t.queues.find (d.q % 64)).map (·.program)).getD 0
  match t.liveOf d.q d.cid with
  | some l => (if l.req.isNone && hKind l.ent.handle0 == kProgram then l.ent.handle0 else bound, l.ent.entry)
  | none => (bound, 0)
/-- How a due step stands under Table 3-7. -/
inductive Place where
  | refuse (st : Status)
  | at (prog clu : Nat)
  | full (prog : Nat)
  deriving DecidableEq, Repr
/-- Table 3-7, on the clusters of the program's set that the partition still owns (02 R31): a layout that took all of them leaves the
program without a place (DEDUCED, log entry 143). The last page group of a sequence is that of its last block that is not DROPPED. -/
def State.placeOf (s : State) (t : Partition) (p : Part) (d : Due) : Place :=
  let pe := t.dueProg d
  match if t.checkHandle p none kProgram pe.1 = none then t.programs.find (hIndex pe.1) else none with
  | none => .refuse .staleKey
  | some g =>
    let own := clustersOf (g.clusters &&& t.clusters)
    let cs := own.filter fun c => !s.cluOut c
    if g.st ≠ .placed || own.isEmpty && g.clusters ≠ 0 then .refuse .staleKey
    else if cs.isEmpty then .refuse .unitQuarantined
    else if pe.2 ≥ g.entries.length then .refuse .accessViolation
    else
      let quad := ((t.dueSeq d).bind t.sequences.find).bind fun sq => ((sq.table.filter fun e => e.2 != 0).getLast?).bind fun e =>
        (t.groups.find (hIndex e.2)).map (·.quad)
      let home := match quad with
        | some q => s.pickCluster (cs.filter fun c => c / 16 == q)
        | none => none
      match home.or (s.pickCluster cs) with
      | some c => .at (hIndex pe.1) c
      | none => .full (hIndex pe.1)
/-- Pre-pull for the due steps that wait for a frame, once each (04 R91): as they are made due, and at the latest when the scheduler next
looks for one to start. -/
def State.pullDue (s : State) (p : Part) : State :=
  match s.prt p with
  | none => s
  | some t =>
    s.forEach (t.due.filter fun d => d.kind != 4 && !d.pulled && match s.placeOf t p d with
        | .full _ => true
        | _ => false) fun s d =>
      let s := s.updP p fun t => { t with due := t.due.map fun e => if e.order = d.order then { e with pulled := true } else e }
      match t.dueSeq d with
      | some q => s.prePull p q
      | none => s

/-! ### What a request does next (R168, R204; 16 R378) -/

/-- Positions a request still has to prefill. -/
def Partition.promptWork (t : Partition) (r : Req) : Nat :=
  ((t.sequences.find r.seq).map (·.rc)).getD 0 + r.promptLeft
/-- A request is scheduled: its session runs (01 Table 1-10). -/
def Partition.runs (t : Partition) (sess : Nat) : Partition :=
  { t with sessions := t.sessions.upd sess fun r => if r.st = .opened then { r with st := .running } else r }
/-- Add a due step. -/
def Partition.makeDue (t : Partition) (rank kind q : Nat) (cid : BitVec 16) (batch lane : Nat) : Partition :=
  { t with due := t.due ++ [⟨rank, kind, q, cid, batch, lane, t.nextOrder, false⟩], nextOrder := t.nextOrder + 1 }
/-- What follows admission, or a step's boundary: the match step, the prompt list, decode, or the end. -/
def State.routeReq (s : State) (p : Part) (q : Nat) (cid : BitVec 16) : State :=
  match (s.prt p).bind fun t => (t.liveOf q cid).bind fun l => l.req.bind fun r =>
      (t.sequences.find r.seq).bind fun sq => (t.sessions.find r.sess).map fun ss => (t, r, sq, ss) with
  | none => s
  | some (t, r, sq, ss) =>
    if t.promptWork r > 0 then
      if ss.domain ≠ 0 ∧ sq.committed = 0 ∧ sq.table = [] ∧ r.index = 0 then
        (s.updP p fun t => ((t.updLive q cid fun l => { l with req := l.req.map fun r => { r with matching := true } }).makeDue
          1 0 q cid 0 0).runs r.sess).pullDue p
      else
        s.updP p fun t =>
          let o := t.stamp
          { o.2.toPrompts q cid with sequences := t.sequences.upd r.seq fun e => { e with st := .prefill, readySince := o.1 } }
    else if r.gen then
      if sq.committed ≥ t.limit sq then s.endReq p q cid .lengthLimit 4
      else s.updP p fun t =>
        let o := t.stamp
        { o.2.updLive q cid (fun l => { l with req := l.req.map fun r => { r with resumed := false } }) with
          sequences := t.sequences.upd r.seq fun e => { e with st := .decode, readySince := o.1 } }
    else s.endReq p q cid .ok 0

/-- Sequences whose hold has ended are ready from now on (R166). -/
def Partition.restamp (t : Partition) (f : Sequence → Bool) : Partition :=
  let o := t.stamp
  { o.2 with sequences := t.sequences.mapV fun _ q => if f q then { q with readySince := o.1 } else q }
/-- A request goes on behind the revival of its session (R197, R204): one that has never been scheduled is scheduled now, and one whose
sequence has positions to recompute goes to the prompt list. -/
def State.resumeReq (s : State) (p : Part) (l : Live) : State :=
  match (s.prt p).bind fun t => (t.liveOf l.q l.ent.cid).bind fun l => l.req.bind fun r => (t.sequences.find r.seq).map fun sq => (t, r, sq) with
  | none => s
  | some (t, r, sq) =>
    if r.matching || t.prompts.contains (l.q, l.ent.cid) then s
    else if sq.st = .idle && r.index = 0 then s.routeReq p l.q l.ent.cid
    else if sq.rc ≠ 0 then
      s.updP p fun t => (t.toPrompts l.q l.ent.cid).updLive l.q l.ent.cid fun l => { l with req := l.req.map fun r =>
        { r with resumed := r.resumed || sq.st == .decode } }
    else s
/-- The requests of a revived session go on; its sequences are ready from now. -/
def State.resumeReqs (s : State) (p : Part) (sess : Nat) : State :=
  let s := s.updP p fun t => t.restamp fun q => hIndex q.sess == sess
  s.forEach (s.getP p [] fun t => t.reqsOf sess) fun s l => s.resumeReq p l

/-! ### Readiness and buckets (R165, R166) -/

/-- May a request's sequence be scheduled: session not parked or closing, not held, queue not backlogged, no step open or
due? -/
def Partition.ready (t : Partition) (l : Live) (m : BitVec 16) : Bool :=
  match l.req with
  | none => false
  | some r =>
    match t.sequences.find r.seq, t.sessions.find r.sess with
    | some sq, some ss =>
      ss.model == m && (ss.st == .opened || ss.st == .running) && ss.pendPark.isNone && ss.pendClose.isNone
        && !sq.held && sq.openStep.isNone && l.step.isNone && !r.matching && l.started
        && !(t.due.any fun d => d.q == l.q && d.cid == l.ent.cid && d.kind ≤ 2)
        && !((t.queues.find l.q).any fun k => k.waiting.length ≥ 1024)
    | _, _ => false
/-- One request as the scheduler sees it: priority, stamp, slot. -/
structure Cand8 where
  live : Live
  req : Req
  sq : Sequence
  slot : Nat
  prio : Nat
  deriving DecidableEq, Repr
/-- The order of R166: tenant priority, ready time, slot. -/
def Cand8.before (a b : Cand8) : Bool :=
  b.prio < a.prio || (a.prio == b.prio && (a.sq.readySince < b.sq.readySince
    || (a.sq.readySince == b.sq.readySince && a.slot ≤ b.slot)))
def Partition.cand8 (t : Partition) (l : Live) : Option Cand8 :=
  l.req.bind fun r => (t.sequences.find r.seq).map fun sq =>
    ⟨l, r, sq, r.seq, ((t.tenants.find (t.tenantOf sq)).map (·.priority)).getD 0⟩
/-- The ratio that `bucket_span` selects, over 16 (Table 8-2). -/
def spanOver16 (code : Nat) : Nat := [17, 18, 20, 24, 32].getD code 18
/-- The bucket of a block count: bucket k holds B_k up to B_(k+1) (R165). -/
def lengthBucket (span p : Nat) : Nat → Nat → Nat → Nat
  | 0, _, k => k
  | fuel + 1, b, k =>
    let nb := max (b + 1) ((b * span + 15) / 16)
    if p < nb then k else lengthBucket span p fuel nb (k + 1)
/-- The bucket of a sequence, by the block of its next position. -/
def Partition.bucket (t : Partition) (sq : Sequence) : Nat :=
  let n := sq.committed / 64 + 1
  lengthBucket (spanOver16 t.bucketSpan) n n 1 0
/-- The decode sequences of a model that are ready. -/
def Partition.readyDecode (t : Partition) (m : BitVec 16) : List Cand8 :=
  (t.live.filter fun l => t.ready l m && !(t.prompts.contains (l.q, l.ent.cid)) && l.req.any (·.gen)
    && (l.req.bind fun r => t.sequences.find r.seq).any fun sq => sq.st == .decode && sq.rc == 0).filterMap t.cand8
/-- The bucket to draw from: that of the longest-waiting ready sequence. -/
def Partition.nextBucket (t : Partition) (m : BitVec 16) : Option Nat :=
  ((t.readyDecode m).foldl (fun (a : Option Cand8) c => match a with
    | none => some c
    | some b => if c.sq.readySince < b.sq.readySince then some c else some b) none).map fun c => t.bucket c.sq
/-- The lanes a wave would take: up to 256 sequences of the bucket in order. -/
def Partition.waveLanes (t : Partition) (m : BitVec 16) : List Cand8 :=
  match t.nextBucket m with
  | none => []
  | some b => (sortBy Cand8.before ((t.readyDecode m).filter fun c => t.bucket c.sq == b)).take 256
/-- Waves, or rows, of a model that this member leads and that are in flight. -/
def Partition.inFlight (t : Partition) (m : BitVec 16) (row : Bool) : Nat :=
  (t.waves.filter fun w => w.model == m && w.row == row && w.lead && !w.fetch).length
/-- The next batch number of a model; waves and rows share the count (DEDUCED, log entry 27). -/
def Partition.batchNo (t : Partition) (m : BitVec 16) : Nat := t.nextBatch.getD (m.toNat % 256) 0

/-- The pending token of a sequence, or the token of a position. -/
def Partition.maxDraft (t : Partition) (c : Cand8) : Nat :=
  let room := t.limit c.sq - 1 - c.sq.committed
  let d := min c.req.draftMax room
  if c.req.maxTokens = 0 then d else min d (c.req.maxTokens - c.req.emitted.length - 1)
/-- Are digests set in the next batch of a model: forced, or one of the first 1,024 since the lead's service-ready or a
member's reconnection (13 R307)? -/
def Partition.digests (t : Partition) (m : BitVec 16) : Bool := t.dgForce || t.dgLeft.getD (m.toNat % 256) 1024 != 0
/-- Count a batch of a model. -/
def Partition.nextBatchOf (t : Partition) (m : BitVec 16) : Partition :=
  let i := m.toNat % 256
  { t with nextBatch := t.nextBatch.put i ((t.nextBatch.getD i 0 + 1) % 2 ^ 32), dgLeft := t.dgLeft.put i (t.dgLeft.getD i 1024 - 1) }
/-! ### Replica digests (13 R308) -/

/-- A window of a replica comparison. -/
def replicaSpan : Nat := 268435456
/-- The published regions that this member's variant table names, each with the table's own region slot. -/
def State.replicaList (s : State) (p : Part) : List (Nat × Region) :=
  let is := (s.getP p [] fun t => t.variants.map fun kv => fld kv.2 0 8 % 2 ^ 48).eraseDups
  is.filterMap fun i => (s.resolve p i).bind fun e => if e.2.2.published then some (i, e.2.2) else none
/-- The digest of a window of a region. -/
def Region.windowDigest (r : Region) (w : Nat) : Digest :=
  shakeDigest (r.data.rd (w * replicaSpan) (min replicaSpan (r.size - w * replicaSpan)))
/-- A record of HG_DIGEST. -/
def digestRec (name : Word) (version w : Nat) (d : Digest) : List Byte :=
  toLe name.toNat 8 ++ toLe version 4 ++ toLe w 4 ++ toLe d.toNat 32
/-- Take digests of windows and hand them to the lead: kept when this member leads. -/
def State.replicaSend (s : State) (p : Part) (m : ModelDesc) (batch : Nat) (again : Bool) (ws : List (Region × Nat)) : State :=
  if ws.isEmpty then s
  else if m.leads then
    s.updP p fun t => { t with replicas := { t.replicas with digests := t.replicas.digests ++ ws.map fun e =>
      ⟨m.modelId.toNat % 256, m.hgRank, e.1.name, e.1.version, e.2, e.1.windowDigest e.2, again⟩ } }
  else
    s.toLead p m (mkMsg mtHgDigest m.modelId batch 0xFFFF ws.length
      (ws.map fun e => digestRec e.1.name e.1.version e.2 (e.1.windowDigest e.2)).flatten)
/-- Every 1,024th batch of a head group's model, each member takes the next window of each region of the list. -/
def State.replicaRound (s : State) (p : Part) (m : ModelDesc) (batch : Nat) : State :=
  if batch % 1024 ≠ 0 || m.hgSize ≤ 1 then s
  else
    let ws := (s.replicaList p).map fun e =>
      (e.1, e.2, s.getP p 0 (fun t => t.replicas.next.getD e.1 0) % ((e.2.size + replicaSpan - 1) / replicaSpan))
    let s := s.updP p fun t => { t with replicas := { t.replicas with
      next := ws.foldl (fun n e => Tab.put n e.1 (e.2.2 + 1)) t.replicas.next } }
    s.replicaSend p m batch false (ws.map (·.2))

/-- Issue a wave of some lanes: its record, one due step a lane, WAVE_OPEN to the accelerator and the followers (R123). -/
def State.issueWave (s : State) (p : Part) (m : ModelDesc) (cs : List Cand8) : State :=
  match s.prt p with
  | none => s
  | some t =>
    let b := t.batchNo m.modelId
    let lanes := cs.map fun c =>
      ({ seq := some c.slot, q := c.live.q, cid := c.live.ent.cid, hgSeq := c.sq.hgSeq, pos := c.sq.committed
         token := t.token c.sq c.sq.committed, maxDraft := t.maxDraft c, ntok := 0, flags := 0, step := none
         squashed := none, ended := false } : Lane)
    let w : Wave := { model := m.modelId, batch := b, row := false, fetch := false, lead := true, digest := t.digests m.modelId
                      lanes := lanes, tokens := [], arrived := [], sent := [], msgs := [], qp := none, ready := [] }
    let body := ((List.range lanes.length).map fun i =>
      match lanes[i]? with
      | some l => toLe i 1 ++ toLe l.maxDraft 1 ++ toLe 0 2 ++ toLe l.hgSeq 4 ++ toLe l.pos 4 ++ toLe l.token 4
      | none => []).flatten
    let s := s.updP p fun t =>
      let t := { t with waves := t.waves ++ [w] }.nextBatchOf m.modelId
      let t := ((List.range cs.length).foldl (fun (t : Partition) i => match cs[i]? with
        | some c => (t.makeDue 2 2 c.live.q c.live.ent.cid b i).runs c.req.sess
        | none => t) t)
      (t.count cWaves 1).count cWaveLanes cs.length
    let s := s.pullDue p
    let msg := mkMsg mtWaveOpen m.modelId b 0xFFFF lanes.length body w.digest
    ((s.sendMsg p none none msg).toFollowers p m msg).replicaRound p m b
/-- Form and issue a wave when one may be in flight and enough lanes are ready. -/
def State.formWave (s : State) (p : Part) (m : BitVec 16) (least : Nat) : State :=
  match (s.prt p).bind fun t => (t.model? m).map fun d => (t, d) with
  | none => s
  | some (t, d) =>
    let cs := t.waveLanes m
    if t.st ≠ .active || !s.fetching || !d.leads || cs.length < least || t.inFlight m false ≥ t.maxWaves then s
    else s.issueWave p d cs
/-- WAVE_ISSUE: a wave of 256 lanes. -/
def execWaveIssue (p : Part) (m : BitVec 16) (s : State) : Out := .next (s.formWave p m 256)
/-- WAVE_WAIT_EXPIRY: the first sequence has waited `wave_wait`; a partial wave issues. -/
def execWaveWaitExpiry (p : Part) (m : BitVec 16) (s : State) : Out := .next (s.formWave p m 1)

/-! ### Rows (R168) -/

/-- Prompt work of a model in row order: the head of the list, then as waves. -/
def Partition.promptOrder (t : Partition) (m : BitVec 16) : List Cand8 :=
  sortBy (fun (a b : Cand8) => if a.req.inList = b.req.inList then a.before b else a.req.inList)
    ((t.live.filter fun l => t.ready l m && t.prompts.contains (l.q, l.ent.cid)).filterMap t.cand8)
/-- Pack segments: whole prompts while they fit, then a chunk of the next; at most 256. -/
def packRow (t : Partition) (size : Nat) : Nat → List Cand8 → Nat → List (Cand8 × Nat)
  | 0, _, _ => []
  | _, [], _ => []
  | fuel + 1, c :: cs, used =>
    let n := min (t.promptWork c.req) (size - used)
    if n = 0 then []
    else if n < t.promptWork c.req then [(c, n)]
    else (c, n) :: packRow t size fuel cs (used + n)
/-- Issue a row: its record, one due step a segment, ROW_OPEN to the accelerator and the followers (R136). -/
def State.issueRow (s : State) (p : Part) (m : ModelDesc) (cs : List (Cand8 × Nat)) : State :=
  match s.prt p with
  | none => s
  | some t =>
    let b := t.batchNo m.modelId
    let lanes := cs.map fun c =>
      let ends := c.2 == t.promptWork c.1.req && !c.1.req.resumed
      ({ seq := some c.1.slot, q := c.1.live.q, cid := c.1.live.ent.cid, hgSeq := c.1.sq.hgSeq, pos := c.1.sq.committed
         token := 0, maxDraft := 0, ntok := c.2, flags := b2n ends + 2 * b2n c.1.req.gen + 4 * b2n (ends && c.1.req.gen)
         step := none, squashed := none, ended := false } : Lane)
    let toks := ((List.range cs.length).map fun i => match cs[i]? with
      | some c => (List.range c.2).map fun j => (t.token c.1.sq (c.1.sq.committed + j), i)
      | none => []).flatten
    let pad := roundUp toks.length 64 - toks.length
    let toks := toks ++ List.replicate pad (0, 0xFFFF)
    let w : Wave := { model := m.modelId, batch := b, row := true, fetch := false, lead := true, digest := t.digests m.modelId
                      lanes := lanes, tokens := toks, arrived := [], sent := [], msgs := [], qp := none, ready := [] }
    let body := ((List.range lanes.length).map fun i =>
      match lanes[i]? with
      | some l => toLe i 2 ++ toLe (b2n (bitOf l.flags 2)) 1 ++ [0] ++ toLe l.hgSeq 4 ++ toLe l.pos 4 ++ toLe l.ntok 4
      | none => []).flatten ++ (toks.map fun k => toLe k.1 4 ++ toLe k.2 2 ++ toLe 0 2).flatten
    let s := s.updP p fun t =>
      let t := { t with waves := t.waves ++ [w] }.nextBatchOf m.modelId
      let t := ((List.range cs.length).foldl (fun (t : Partition) i => match cs[i]? with
        | some c =>
          let t := (t.makeDue 4 1 c.1.live.q c.1.live.ent.cid b i).runs c.1.req.sess
          { t with prompts := t.prompts.filter (· ≠ (c.1.live.q, c.1.live.ent.cid))
                   live := t.live.map fun l => if l.order = c.1.live.order then
                     { l with req := l.req.map fun r => { r with inList := c.2 < t.promptWork c.1.req } } else l }
        | none => t) t)
      (t.count cRows 1).count cRowPad pad
    let s := s.pullDue p
    let msg := mkMsg mtRowOpen m.modelId b 0xFFFF lanes.length body w.digest
    ((s.sendMsg p none none msg).toFollowers p m msg).replicaRound p m b
/-- Form and issue a row when one may be in flight and the prompt work is enough. -/
def State.formRow (s : State) (p : Part) (m : BitVec 16) (least : Nat) : State :=
  match (s.prt p).bind fun t => (t.model? m).map fun d => (t, d) with
  | none => s
  | some (t, d) =>
    let cs := packRow t t.rowTokens 256 (t.promptOrder m) 0
    if t.st ≠ .active || !s.fetching || !d.leads || cs.isEmpty || (cs.map (·.2)).sum < least || t.inFlight m true ≥ t.rowsInflight then s
    else s.issueRow p d cs
/-- ROW_ISSUE: a row of `row_tokens` tokens. -/
def execRowIssue (p : Part) (m : BitVec 16) (s : State) : Out :=
  .next (s.formRow p m (s.getP p 0 fun t => t.rowTokens))
/-- ROW_WAIT_EXPIRY: prompt work has waited `row_wait`; a partial row issues. -/
def execRowWaitExpiry (p : Part) (m : BitVec 16) (s : State) : Out := .next (s.formRow p m 1)

/-! ### The start of a due step (03 R55, R56, Table 3-7; 08 R163) -/

/-- The registers of Table 3-6. -/
def entryRegs (p : Part) (t : Partition) (d : Due) (idx clock prog : Nat) (sess : Handle) : List Word × List Handle :=
  let w := fun (n : Nat) => BitVec.ofNat 64 n
  let q := d.q % 64
  let hq := mkHandle kQueue p.val 1 q
  let hp := t.handleOf p kProgram prog
  match t.liveOf d.q d.cid with
  | some l =>
    let e := l.ent
    ([0, w (e.opcode + 256 * e.flags), w (e.cid.toNat + 65536 * q), w e.tenant, w e.deadline, e.arg0, e.arg1, e.arg2
      , w d.kind, w idx, w clock] ++ List.replicate 21 0, [sess, e.handle1, hq, hp] ++ List.replicate 12 0)
  | none =>
    let sq := (((t.dueSeq d).bind t.sequences.find).map (·.h)).getD 0
    (([0, 0, w (65536 * q), 0, 0, 0, 0, 0, w d.kind, w idx, w clock] : List Word) ++ List.replicate 21 0
      , [sess, sq, hq, hp] ++ List.replicate 12 0)
/-- Open a due step on a cluster. -/
def State.openStepAt (s : State) (p : Part) (t : Partition) (d : Due) (prog clu : Nat) : State :=
  let live := t.liveOf d.q d.cid
  let seq := t.dueSeq d
  let sess : Handle := match live with
    | some l => if hKind l.ent.handle0 = kSession then l.ent.handle0 else 0
    | none => ((seq.bind t.sequences.find).map (·.sess)).getD 0
  let idx := ((live.bind (·.req)).map (·.index)).getD 0
  let regs := entryRegs p t d idx t.clock prog sess
  let entry := (((t.programs.find prog).map (·.entries)).getD []).getD (t.dueProg d).2 0
  let k0 := newStep s.stepNo d.q d.cid d.kind idx prog clu ((s.frameOn clu).getD 0) t.clock
  let k : Step := { k0 with
    sess := if sess = 0 then none else some (hIndex sess), seq := seq, batch := d.batch, lane := d.lane, h0 := sess
    ctx := { k0.ctx with g := regs.1, h := regs.2, pc := entry } }
  { s with stepNo := s.stepNo + 1 }.updP p fun t =>
    let t := { t with steps := t.steps.put k.num k, due := t.due.filter fun e => e.order ≠ d.order
                      sequences := (match seq with
                        | some i => t.sequences.upd i fun q => { q with openStep := some k.num }
                        | none => t.sequences)
                      waves := t.waves.map fun (w : Wave) =>
                        if d.kind ≠ 0 ∧ w.batch = d.batch ∧ w.row = (d.kind == 1) ∧ w.fetch = (d.kind == 3)
                            ∧ ((w.lanes[d.lane]?).any fun (l : Lane) => l.q == d.q && l.cid == d.cid && l.step.isNone) then
                          { w with lanes := listSet w.lanes d.lane fun l => { l with step := some k.num } }
                        else w }
    t.updLive d.q d.cid fun l =>
      { l with step := some k.num, req := l.req.map fun (r : Req) => { r with index := r.index + 1 } }
/-- A due step that Table 3-7 refuses: its command completes; a head group hears of a lane; a follower answers its lead. -/
def State.refuseDue (s : State) (p : Part) (t : Partition) (d : Due) (st : Status) : State :=
  let s := s.updP p fun t => { t with due := t.due.filter fun e => e.order ≠ d.order }
  let s := match t.dueWave d with
    | none => s
    | some (w, l) =>
      let s := match t.model? w.model with
        | none => s
        | some m =>
          if w.fetch then s.fetchRefused p w st
          else if m.hgSize ≤ 1 then s
          else
            let body := hgLane d.lane st l.hgSeq
            if w.lead then s.toFollowers p m (mkMsg mtHgSquash m.modelId w.batch 0xFFFF 1 body w.digest)
            else s.toLead p m (mkMsg mtHgReady m.modelId w.batch 0xFFFF 1 body w.digest)
      s.updP p fun t =>
        { t with waves := t.waves.map fun v => if v = w then
            { v with lanes := listSet v.lanes d.lane fun l => { l with squashed := some st, ended := true } } else v }.closeWaves
  (match t.liveOf d.q d.cid with
  | some l => if l.req.isSome then s.endReq p d.q d.cid st 9 else s.finish p d.q d.cid st
  | none => s).boundaries p
/-- Does a due step wait for another step of its sequence (03 R66)? -/
def Partition.dueBlocked (t : Partition) (d : Due) : Bool :=
  ((t.dueSeq d).bind t.sequences.find).any fun sq => sq.openStep.isSome
/-- Due steps in the order of Table 8-1, privileged queues first among control steps. A fetch step ranks with revivals and
moves (DESIGN CHOICE, log entry 28). -/
def Partition.dueOrder (t : Partition) : List Due :=
  let key := fun (d : Due) => (d.rank, if d.rank = 1 && !(t.privQ (d.q % 64)) then 1 else 0)
  sortBy (fun (a b : Due) =>
    let ka := key a
    let kb := key b
    ka.1 < kb.1 || (ka.1 == kb.1 && (ka.2 < kb.2 || (ka.2 == kb.2 && a.order ≤ b.order)))) t.due
/-- Frames of a cluster that prefill steps hold. -/
def State.prefillOn (s : State) (c : Nat) : Nat :=
  (s.parts.map fun kv => (kv.2.steps.filter fun k => k.2.clu == c && k.2.kind == 1).length).sum
/-- Frames that prefill steps hold on a cluster below which a prefill step goes first there (R163). -/
def Partition.floorFrames (t : Partition) : Nat := t.prefillFloor * framesPerCluster / 256
/-- Does a placed due step go ahead of every other kind on its cluster, as prefill below its floor? -/
def State.belowFloor (s : State) (t : Partition) (d : Due) (c : Nat) : Bool := d.kind == 1 && s.prefillOn c < t.floorFrames
/-- The due steps that no step of their sequence holds back, with their places, in the order of Table 8-1; revivals apart. -/
def State.placedDues (s : State) (p : Part) (t : Partition) : List (Due × Place) :=
  (t.dueOrder.filter fun d => d.kind ≠ 4 && !(t.dueBlocked d)).map fun d => (d, s.placeOf t p d)
/-- The cluster that a revival step takes: of those of the partition in service, one that no waiting step of rank 1 or 2 and no prefill
step below its floor is to take first (R163, Table 8-1). -/
def State.revivalCluster (s : State) (p : Part) (t : Partition) : Option Nat :=
  let first := (s.placedDues p t).filterMap fun e => match e.2 with
    | .at _ c => if e.1.rank ≤ 2 || s.belowFloor t e.1 c then some c else none
    | _ => none
  s.pickCluster ((clustersOf t.clusters).filter fun c => !s.cluOut c && !first.contains c)
/-- Does a waiting revival step of a better place in Table 8-1 take a cluster first? -/
def State.revivalFirst (s : State) (p : Part) (t : Partition) (d : Due) (c : Nat) : Bool :=
  !(s.belowFloor t d c) && d.rank ≥ 3
    && (t.due.any fun e => e.kind == 4 && (e.rank < d.rank || (e.rank == d.rank && e.order < d.order)))
    && s.revivalCluster p t == some c
/-- REVIVAL_STEP_START: the revival step takes a frame on a cluster of the partition, the session becomes REVIVING
(stage 1), and stages 2 to 4 run; a step that a frame has come for goes on. A session that is PARKED no more, since SMIGOUT has taken it,
is refused as Table 9-1 says, and a partition with every cluster out of service as 02 R35 says. -/
def execRevivalStepStart (p : Part) (sess : Nat) (s : State) : Out :=
  .next <| match (s.prt p).bind fun t => (t.revivals.find sess).map fun r => (t, r) with
  | none => s
  | some (t, rv) =>
    match rv.step with
    | some n => if (t.steps.find n).any fun k => k.st == .running then s.reviveRun p sess else s
    | none =>
      if t.st ≠ .active || !s.fetching then s
      else match t.sessions.find sess with
      | none => s
      | some ss =>
        if ss.st ≠ .parked then s.stopRevival p sess .accessViolation
        else if (clustersOf t.clusters).all s.cluOut then s.stopRevival p sess .unitQuarantined
        else match s.revivalCluster p t with
        | none => s
        | some c =>
          let w := rv.waiters.headD (0, 0)
          let k := { newStep s.stepNo w.1 w.2 4 0 noProgram c ((s.frameOn c).getD 0) t.clock with sess := some sess, h0 := ss.h }
          let s := { s with stepNo := s.stepNo + 1 }.updP p fun t =>
            { t with steps := t.steps.put k.num k
                     due := t.due.filter fun d => !(d.kind == 4 && d.lane == sess)
                     revivals := t.revivals.upd sess fun v => { v with step := some k.num, oldTtl := ss.ttl, ctl := t.rvCtl }
                     sessions := t.sessions.upd sess fun r => { r with st := .reviving, ttl := 0 }
                     parked := t.parked.filter (· ≠ sess) }
          s.reviveRun p sess
/-- STEP_START: the first due step that may start takes its frame, or is refused. Prefill goes first on a cluster where it
holds less than its floor (R163). Steps that find no frame have had their groups pre-pulled (04 R91). -/
def execStepStart (p : Part) (s : State) : Out :=
  .next <|
    if !s.fetching || (s.prt p).any (fun t => t.st != .active) then s
    else
    let s := s.pullDue p
    match s.prt p with
    | none => s
    | some t =>
      let ds := s.placedDues p t
      match ds.find? fun d => match d.2 with
        | .full _ => false
        | .at _ c => !(s.revivalFirst p t d.1 c)
        | .refuse _ => true with
      | none => s
      | some (d, .refuse st) => s.refuseDue p t d st
      | some (d, .at g c) =>
        match if d.kind ≠ 1 && s.prefillOn c < t.floorFrames then ds.find? fun e => e.1.kind == 1 && (match e.2 with
            | .at _ c' => c' == c
            | _ => false) else none with
        | some (e, .at g' c') => s.openStepAt p t e g' c'
        | _ => s.openStepAt p t d g c
      | some (_, .full _) => s

end Sys2Proof.Machine
end

