-- ==== Sys2Proof/Machine/Queues.lean ====
section
/-! DEFINITION. Queues and the host commands: fetch, REQUEST, RUN, CANCEL, CLOCKADV, programs, QUEUE_SET, completions
(spec 03 R41 to R52; 08 R173 to R176, R188; 01 Table 1-14; 18 R404). -/

namespace Sys2Proof.Machine

/-! ### Entries (R47, R49) -/

/-- A submission entry from its 64 bytes (Table 3-3). -/
def parseEntry (b : List Byte) : Entry :=
  let w := fun off => BitVec.ofNat 64 (fld b off 8)
  { opcode := fld b 0 1, flags := fld b 1 1, cid := BitVec.ofNat 16 (fld b 2 2), tenant := fld b 4 2, entry := fld b 6 2
    hostTime := fld b 8 8, handle0 := w 0x10, handle1 := w 0x18, deadline := fld b 0x20 8
    arg0 := w 0x28, arg1 := w 0x30, arg2 := w 0x38 }
/-- Is an entry malformed on a queue of this class (R49)? -/
def Entry.malformed (e : Entry) (priv : Bool) : Bool :=
  !((1 ≤ e.opcode && e.opcode ≤ 5) || (0x10 ≤ e.opcode && e.opcode ≤ 0x13))
    || e.flags ≥ 4 || e.tenant ≥ 4096 || e.entry ≥ 16 || (e.opcode ≥ 0x10 && !priv)
/-- Is `ORDERED` set? -/
def Entry.ordered (e : Entry) : Bool := bitOf e.flags 0

/-! ### Fetch (R51, R52) -/

/-- May the controller fetch from a queue: enabled, an entry there, a free completion slot? -/
def Queue.fetchable (q : Queue) : Bool := q.st == .enabled && q.sqHead != q.sqTail && q.freeSlots != 0
/-- The place of a queue in the round: the privileged queues by number, then the ordinary ones by number (R51). -/
def Partition.turnPlace (t : Partition) (q : Nat) : Nat := if t.privQ q then q else 64 + q
/-- The queues that an entry can be fetched from, in the order of the round. -/
def Partition.turnOrder (t : Partition) : List Nat :=
  let can := (t.queues.filter fun kv => kv.2.fetchable).map (·.1)
  can.filter t.privQ ++ can.filter fun q => !(t.privQ q)
/-- The queue of a list that comes next in the round after a place, the first of the list where none is behind it. -/
def Partition.nextIn (t : Partition) (l : List Nat) (place : Nat) : Option Nat :=
  (l.find? fun q => place < t.turnPlace q).or l.head?
/-- The queue that the next fetch takes from. The cursor names the queue of the last fetch and how many entries its turn has
taken: a privileged queue goes on for up to eight entries, an ordinary one has one; then the next queue of the round has its turn.
A round takes every privileged queue, then every ordinary one, and begins again (DEDUCED, log entry 24). -/
def Partition.nextFetch (t : Partition) : Option Nat :=
  let cur := t.fetchAt.1
  if t.turnOrder.contains cur && t.privQ cur && t.fetchAt.2 < 8 then some cur else t.nextIn t.turnOrder (t.turnPlace cur)
/-- SQ_FETCH: one entry of the host's ring is fetched into the next queue's turn. -/
def execSqFetch (p : Part) (raw : List Byte) (poisoned : Bool) (s : State) : Out :=
  if raw.length ≠ 64 then .fault .illFormedCommand
  else .next <| match (s.prt p).bind fun t => t.nextFetch.bind fun q => (t.queues.find q).map fun k => (t, q, k) with
  | none => s
  | some (t, q, k) =>
    if t.st ≠ .active || !s.fetching then s
    else
      let e := parseEntry raw
      let head := (k.sqHead + 1) % k.depth
      let turn := if t.fetchAt.1 = q && t.fetchAt.2 < 8 then t.fetchAt.2 + 1 else 1
      let s := s.updP p fun t =>
        { t with queues := t.queues.upd q fun (k : Queue) => { k with sqHead := head, reserved := k.reserved + 1 }
                 fetchAt := (q, turn), nextOrder := t.nextOrder + 1
                 live := t.live ++ [⟨e, q, t.nextOrder, head, false, false, none, none, .none, false, none⟩] }
      if poisoned then s.endCmd p q e.cid .poisonConsumed 9
      else
        let s := s.advance p e.hostTime
        if e.malformed k.priv then
          (s.endCmd p q e.cid .accessViolation 9).updQueue p q fun (k : Queue) => { k with st := .error }
        else s

/-! ### The start of a command (R51, R66) -/

/-- Does a live request stand on a sequence? -/
def Partition.seqTaken (t : Partition) (i : Nat) : Bool := t.live.any fun l => (l.req.any fun r => r.seq == i) && !l.ended
/-- Does a REQUEST wait for the live request of its sequence to end (DEDUCED, log entry 29)? -/
def Partition.waitsSeq (t : Partition) (l : Live) : Bool :=
  l.ent.opcode == ocRequest && !l.started && hKind l.ent.handle1 == kSequence
    && (t.sequences.find (hIndex l.ent.handle1)).any (fun sq => sq.h == l.ent.handle1) && t.seqTaken (hIndex l.ent.handle1)
/-- Is a session imported and not yet released to its commands (09 Table 9-8)? -/
def Partition.importHeld (t : Partition) (h : Handle) : Bool :=
  hKind h == kSession && (t.sessions.find (hIndex h)).any (fun ss => ss.h == h && ss.st == .migrating)
    && t.migrations.any fun kv => !kv.2.source && kv.2.sess == some (hIndex h)
/-- May a fetched command start: queue order, `ORDERED`, session order, its sequence, an import? -/
def Partition.mayStart (t : Partition) (l : Live) : Bool :=
  !l.started
    && (t.live.all fun m => m.order ≥ l.order || m.q != l.q || m.started)
    && (!l.ent.ordered || ((t.live.all fun m => m.order ≥ l.order || m.q != l.q)
          && (t.queues.find l.q).all fun k => k.waiting.isEmpty))
    && (hKind l.ent.handle0 != kSession
          || t.live.all fun m => m.order ≥ l.order || m.ent.handle0 != l.ent.handle0 || m.started)
    && !(t.waitsSeq l) && !(t.importHeld l.ent.handle0)
/-- Start the oldest fetched command of a queue that carries this `cid` and opcode, if it may start. -/
def State.startCmd (s : State) (p : Part) (q : Nat) (cid : BitVec 16) (oc : Nat) (f : State → Partition → Live → State) :
    State :=
  match (s.prt p).bind fun t => (t.live.find? fun l =>
      l.q == q && l.ent.cid == cid && l.ent.opcode == oc && !l.started).map fun l => (t, l) with
  | none => s
  | some (t, l) =>
    if t.st ≠ .active || !(t.mayStart l) then s
    else
      let s := s.updP p fun t => { t with live := t.live.map fun m => if m.order = l.order then { m with started := true } else m }
      f s t l
/-- Check a handle of an entry: the kinds that its operand takes come first (Table 1-3). -/
def Partition.entryHandle (t : Partition) (p : Part) (kinds : List Nat) (h : Handle) : Option Status :=
  if kinds.contains (hKind h) then t.checkHandle p none (hKind h) h else some .accessViolation
/-- The handles of an entry in order, each with the kinds its operand takes: the first that fails, with its status. -/
def Partition.firstBad (t : Partition) (p : Part) : List (List Nat × Handle) → Option (List Nat × Handle × Status)
  | [] => none
  | (ks, h) :: r => match t.entryHandle p ks h with
    | some st => some (ks, h, st)
    | none => t.firstBad p r
/-- A handle of the right kind that names another partition is logged; one of a wrong kind is not, since its kind decides first
(Table 1-3). -/
def State.entryEvent (s : State) (p : Part) (kinds : List Nat) (h : Handle) : State :=
  if kinds.contains (hKind h) then s.handleEvent p (hKind h) h else s
/-- An operand of an entry that is left out where it is null. -/
def optHandle (kinds : List Nat) (h : Handle) : List (List Nat × Handle) := if h = 0 then [] else [(kinds, h)]

/-! ### CLOCKADV and RUN -/

/-- CLOCKADV: the clock has advanced at the fetch; nothing else. -/
def execClockadv (p : Part) (q : Qn) (cid : BitVec 16) (s : State) : Out :=
  .next (s.startCmd p q.val cid ocClockadv fun s _ l => (s.advance p l.ent.hostTime).finish p q.val cid .ok)
/-- RUN: one control step of the bound program, or of the program that `handle0` names, becomes due. -/
def execRun (p : Part) (q : Qn) (cid : BitVec 16) (s : State) : Out :=
  .next (s.startCmd p q.val cid ocRun fun s t l =>
    match t.firstBad p (optHandle [kSession, kProgram] l.ent.handle0 ++ optHandle [kSequence, kRegion] l.ent.handle1) with
    | some (ks, h, st) => (s.entryEvent p ks h).finish p q.val cid st
    | none => (s.updP p fun t => t.makeDue 1 0 q.val cid 0 0).pullDue p)

/-! ### REQUEST (08 R173 to R176) -/

/-- Is a sampling parameter block in order (R175)? -/
def spbOk (b : List Byte) (vocab : Nat) : Bool :=
  let f := fun off => f32val (fld b off 4)
  let fin := [0x000, 0x004, 0x00C, 0x010, 0x014].all fun off => !(f32special (fld b off 4))
  let one := Fl.ofNat 1
  let nt := fld b 0x1C 1
  let ns := fld b 0x1D 1
  fin && !((f 0).lt Fl.zero) && Fl.zero.lt (f 4) && (f 4).le one && Fl.zero.lt (f 0xC)
    && fld b 8 2 ≤ 4096 && fld b 0xA 1 ≤ 15 && fld b 0xB 1 % 32 == 0 && nt ≤ 64 && ns ≤ 8
    && fld b 0x1E 2 == 0 && allZero ((b.drop 0x28).take 24) && allZero ((b.drop 0x148).take 8)
    && ((List.range nt).all fun i => fld b (0x40 + 4 * i) 4 < vocab)
    && (List.range ns).all fun j =>
        let n := fld b (0x140 + j) 1
        1 ≤ n && n ≤ 32 && (List.range n).all fun i => fld b (0x150 + 128 * j + 4 * i) 4 < vocab
/-- Refuse a request at admission: its final completion says fault, or the reason given. -/
def State.refuseReq (s : State) (p : Part) (q : Nat) (cid : BitVec 16) (st : Status) (reason : Nat := 9) : State :=
  let s := if st = .late then s.count p cDeadlineMisses else s
  s.finish p q cid st (finalWord reason 0 0) 0
/-- Admission: the checks in order, the budget, the deadline, the sampler state, and what comes next. -/
def State.takeRequest (s : State) (p : Part) (q : Nat) (cid : BitVec 16) (t : Partition) (l : Live) : State :=
  let e := l.ent
  match t.firstBad p [([kSession], e.handle0), ([kSequence], e.handle1)] with
  | some (ks, h, st) => (s.entryEvent p ks h).refuseReq p q cid st
  | none =>
    match t.sessions.find (hIndex e.handle0), t.sequences.find (hIndex e.handle1) with
    | some ss, some sq =>
      let ntok := e.arg1.toNat % 2 ^ 32
      let gen := bitOf e.arg1.toNat 32
      let can := ss.st == .opened || ss.st == .running || ss.st == .parked || ss.st == .reviving
      if sq.sess ≠ ss.h || e.arg1.toNat ≥ 2 ^ 33 || e.arg2 ≠ 0 || !can then s.refuseReq p q cid .accessViolation
      else match t.model? ss.model, t.regions.find (hIndex ss.sampler) with
      | some m, some smp =>
        let off := e.arg0.toNat
        let spb := smp.data.rd off 1360
        if off % 64 ≠ 0 || off + 1360 > smp.size || !(spbOk spb m.vocab) then s.refuseReq p q cid .accessViolation
        else if sq.committed + sq.rc + ntok > t.limit sq then s.refuseReq p q cid .lengthLimit 4
        else
          let s := s.refillTenant p ss.tenant
          let t := (s.prt p).getD t
          if (t.tenants.find ss.tenant).all fun r => !r.enabled || r.level ≤ 0 then s.refuseReq p q cid .budgetExhausted 8
          else if missed t.clock e.deadline then s.refuseReq p q cid .late 6
          else
            let seeded := bitOf (fld spb 0xB 1) 7
            let fr := s.fresh
            let seed := if seeded then BitVec.ofNat 64 (fld spb 0x20 8) else Config.seed fr.1
            let s := if seeded then s else fr.2
            let hist := if bitOf (fld spb 0xB 1) 6 then
                countTokens [] ((List.range (sq.committed + sq.rc + ntok)).map fun i => t.token sq i)
              else ([], 0)
            let r : Req :=
              { sess := hIndex e.handle0, seq := hIndex e.handle1, spb := spb, seed := seed, rows := 0, counts := hist.1
                emitted := [], released := 0, satRaised := hist.2 != 0, promptLeft := ntok, gen := gen, matching := false
                inList := false, index := 0, cancelled := none, mute := false, freeSeq := false, resumed := false }
            let s := s.updLive p q cid fun l => { l with req := some r }
            let s := s.count p cPenaltyUntracked hist.2
            let s := if hist.2 ≠ 0 then s.event p evPenaltySaturated 0 ss.h 0 else s
            if ss.st = .parked || ss.st = .reviving then s.startRevival p (hIndex e.handle0) 0 q cid
            else s.routeReq p q cid
      | _, _ => s.refuseReq p q cid .accessViolation
    | _, _ => s.refuseReq p q cid .accessViolation
/-- REQUEST: admission under R12, R173, R175, R189 and R143. -/
def execRequest (p : Part) (q : Qn) (cid : BitVec 16) (s : State) : Out :=
  .next (s.startCmd p q.val cid ocRequest fun s t l => s.takeRequest p q.val cid t l)

/-! ### CANCEL (08 R188) -/

/-- A live command of the same queue that `arg[0]` names, other than the asker. -/
def Partition.targetOf (t : Partition) (l : Live) : Option Live :=
  t.live.find? fun m => m.q == l.q && BitVec.zeroExtend 64 m.ent.cid == l.ent.arg0 && m.order != l.order
/-- Is a command past cancelling: already cancelled, or its step done and its deferred operation running? -/
def Live.settled (l : Live) : Bool :=
  l.abortStatus.isSome || (l.req.any fun r => r.cancelled == some .dropped || r.cancelled == some .freedEarly)
    || (l.deferred != .none && l.step.isNone)
/-- CANCEL: Table 8-12. -/
def execCancel (p : Part) (q : Qn) (cid : BitVec 16) (s : State) : Out :=
  .next (s.startCmd p q.val cid ocCancel fun s t l =>
    match t.targetOf l with
    | none => s.finish p q.val cid .abortedTooLate
    | some m =>
      if m.settled then s.finish p q.val cid .abortedTooLate
      else
        let priv := t.privQ m.q
        let st : Status := if priv then .freedEarly else .dropped
        let s := match m.req with
          | some r =>
            if r.index = 0 && m.step.isNone then s.endReq p m.q m.ent.cid st 5
            else if !priv then s.updLive p m.q m.ent.cid fun m => { m with req := m.req.map fun (r : Req) =>
                { r with cancelled := some .dropped, mute := true } }
            else if m.step.isNone then s.endAndFree p m .freedEarly 5
            else s.updLive p m.q m.ent.cid fun m => { m with req := m.req.map fun (r : Req) =>
                { r with cancelled := some .freedEarly, freeSeq := true } }
          | none =>
            if m.step.isNone then
              (s.endCmd p m.q m.ent.cid st 5).updP p fun t => { t with due := t.due.filter fun d => !(d.q == m.q && d.cid == m.ent.cid && d.kind == 0) }
            else s.updP p fun t =>
              { (t.updLive m.q m.ent.cid fun m => { m with abortStatus := some st }) with
                sequences := if priv && hKind m.ent.handle1 == kSequence then
                  t.sequences.upd (hIndex m.ent.handle1) fun e => if e.h = m.ent.handle1 then { e with freeAtEnd := true } else e
                  else t.sequences }
        (s.boundaries p).finish p q.val cid .ok)

/-! ### Programs (R41 to R45) -/

/-- The program store in bytes. -/
def storeBytes : Nat := 2097152
/-- Bytes of a loaded program's image. -/
def Program.bytes (g : Program) : Nat := 256 + 8 * g.code.length + g.data.length
/-- The rows of Table 3-2 that look at the image: none when it is in order. -/
def imageOk (b : List Byte) (len : Nat) : Bool :=
  let n := fld b 6 2
  let cs := fld b 8 4
  let ds := fld b 0xC 4
  let code := (b.drop 256).take cs
  fld b 0 4 == 0x4B4D5831 && fld b 4 2 == 1 && fld b 0x14 4 == 0 && allZero ((b.drop 0x58).take 160)
    && 1 ≤ n && n ≤ 16 && cs % 8 == 0 && cs ≤ 1048576 && ds ≤ 16384 && fld b 0x10 4 ≤ 16 && len == 256 + cs + ds
    && b.length == len && (crc64 (setFld b 0xF8 8 0)).toNat == fld b 0xF8 8
    && ((List.range 16).all fun i =>
        let e := fld b (0x18 + 4 * i) 4
        if i < n then e < cs && e % 8 == 0 else e == 0xFFFFFFFF)
    && (List.range (cs / 8)).all fun i => definedOpcode (BitVec.ofNat 8 (fld code (8 * i + 7) 1))
/-- The program of a checked image. -/
def imageProgram (b : List Byte) (h : Handle) : Program :=
  let cs := fld b 8 4
  { h := h, st := .loaded, code := (List.range (cs / 8)).map fun i => BitVec.ofNat 64 (fld (b.drop 256) (8 * i) 8)
    data := (b.drop (256 + cs)).take (fld b 0xC 4), frameWords := fld b 0x10 4
    entries := (List.range (fld b 6 2)).map fun i => fld b (0x18 + 4 * i) 4, clusters := 0 }
/-- PROG_LOAD: the image that stands at `arg[0]` in host memory is checked and stored. -/
def execProgLoad (p : Part) (q : Qn) (cid : BitVec 16) (image : List Byte) (s : State) : Out :=
  .next (s.startCmd p q.val cid ocProgLoad fun s t l =>
    let len := l.ent.arg1.toNat
    if len > 256 + 1048576 + 16384 then s.finish p q.val cid .accessViolation
    else
      let b := padTo image len
      if !(imageOk b len) then s.finish p q.val cid .accessViolation
      else if (t.programs.map fun kv => kv.2.bytes).sum + len > storeBytes then s.finish p q.val cid .noPage
      else match t.newSlot p kProgram with
        | none => s.finish p q.val cid .noPage
        | some i =>
          let h := t.handleOf p kProgram i
          let s := s.updP p fun t => { t with programs := t.programs.put i (imageProgram b h) }
          (s.progRecord p i).finish p q.val cid .ok h)
/-- PROG_PLACE: R44. That a program which is UNLOADING is refused with ACCESS_VIOLATION, and that an empty bitmap places nothing
and completes OK, is a DESIGN CHOICE (log entry 141). -/
def execProgPlace (p : Part) (q : Qn) (cid : BitVec 16) (s : State) : Out :=
  .next (s.startCmd p q.val cid ocProgPlace fun s t l =>
    match t.entryHandle p [kProgram] l.ent.handle0 with
    | some st => (s.entryEvent p [kProgram] l.ent.handle0).finish p q.val cid st
    | none =>
      let i := hIndex l.ent.handle0
      let m : BitVec 64 := l.ent.arg0
      match t.programs.find i with
      | none => s.finish p q.val cid .staleKey
      | some g =>
        let size := fun c => (t.programs.map fun kv =>
          if hasClu kv.2.clusters c || (kv.1 == i && hasClu m c) then kv.2.data.length else 0).sum
        if m &&& ~~~t.clusters ≠ 0 || g.st = .unloading then s.finish p q.val cid .accessViolation
        else if (clustersOf m).any s.cluOut then s.finish p q.val cid .unitQuarantined
        else if (clustersOf m).any fun c => size c > 65536 then s.finish p q.val cid .noPage
        else if m = 0 then s.finish p q.val cid .ok
        else
          let s := s.updP p fun t => { t with programs := t.programs.upd i fun g => { g with st := .placed, clusters := g.clusters ||| m } }
          (s.progRecord p i).finish p q.val cid .ok)
/-- PROG_UNLOAD: R45. -/
def execProgUnload (p : Part) (q : Qn) (cid : BitVec 16) (s : State) : Out :=
  .next (s.startCmd p q.val cid ocProgUnload fun s t l =>
    match t.entryHandle p [kProgram] l.ent.handle0 with
    | some st => (s.entryEvent p [kProgram] l.ent.handle0).finish p q.val cid st
    | none =>
      let i := hIndex l.ent.handle0
      (s.updP p fun t => { t with programs := t.programs.upd i fun g => { g with st := .unloading } }).settleProgram p i)

/-! ### QUEUE_SET and queue 0 (R46, R404) -/

/-- A queue that is not enabled and was never set. -/
def Queue.fresh : Queue :=
  { st := .disabled, sqBase := 0, cqBase := 0, depthLog := 0, priv := false, irq := false, program := 0, sqHead := 0
    sqTail := 0, cqHead := 0, cqTail := 0, phase := true, posted := [], waiting := [], reserved := 0, irqs := 0
    keptSq := none, keptCq := none }
/-- Enable a queue: its rings begin empty. -/
def Queue.enable (q : Queue) : Queue :=
  { q with st := .enabled, sqHead := 0, sqTail := 0, cqHead := 0, cqTail := 0, phase := true, posted := [], waiting := []
           reserved := 0 }
/-- The last accepted command of a draining queue has completed, and nothing waits for the ring (Table 1-14). -/
def State.settleQueue (s : State) (p : Part) (q : Nat) : State :=
  s.updP p fun t =>
    if t.live.any (fun l => l.q == q) then t
    else { t with queues := t.queues.upd q fun k => if k.st = .draining && k.waiting.isEmpty then { k with st := .disabled } else k }
/-- Disable a queue: DRAINING; a queue with no accepted command left goes on at QUEUE_DRAINED. -/
def Queue.disable (q : Queue) : Queue :=
  if q.st = .enabled || q.st = .error then { q with st := .draining } else q
/-- Privileged queues of a partition, queue 0 among them, besides one (Table 1-14). -/
def Partition.privCount (t : Partition) (but : Nat) : Nat :=
  1 + (t.queues.filter fun kv => kv.1 != 0 && kv.1 != but && kv.2.priv && kv.2.st != .disabled).length
/-- The completions of commands that a warm reset ended go out on their queue once it is enabled again (13 R322). -/
def State.lostPosts (s : State) (p : Part) (q : Nat) : State :=
  s.updP p fun t =>
    let cs := (t.lostCmds.filter fun c => c.1 == q).map fun c =>
      ({ cid := c.2.1, status := .lostToReset, more := false, phase := false, sq := q, sqHead := 0, result0 := c.2.2.2.1
         result1 := c.2.2.2.2, committedTokens := t.tokensOf c.2.2.1, step := 0, noIrq := false } : Completion)
    if (t.queues.find q).any fun k => k.st == .enabled then
      { t with lostCmds := t.lostCmds.filter fun c => c.1 != q
               queues := t.queues.upd q fun k => cs.foldl (fun k c => k.complete false c) k }
    else t
/-- QUEUE_SET: enable, disable or rebind the queue of `handle0`. `arg[1]` has the layout of `q_ctl` and the completion
ring base is 0 (DESIGN CHOICE, log entry 31). A queue that is not DISABLED, a depth outside R46 and a misaligned base are refused
with ACCESS_VIOLATION (DESIGN CHOICE, log entry 142). -/
def execQueueSet (p : Part) (q : Qn) (cid : BitVec 16) (s : State) : Out :=
  .next (s.startCmd p q.val cid ocQueueSet fun s t l =>
    let e := l.ent
    let bad := fun st => s.finish p q.val cid st
    match t.firstBad p (([kQueue], e.handle0) :: optHandle [kProgram] e.handle1) with
    | some (ks, h, st) => (s.entryEvent p ks h).finish p q.val cid st
    | none =>
      let i := hIndex e.handle0
      let a := e.arg1.toNat
      let k := t.queues.getD i Queue.fresh
      let en := bitOf a 31
      let priv := bitOf a 30
      let set := fun (f : Queue → Queue) => (s.updP p fun t => { t with queues := t.queues.put i (f k) }).finish p q.val cid .ok
      if i = 0 then set fun (k : Queue) => { k with program := e.handle1 }
      else if !en then set Queue.disable
      else if k.st = .enabled then set fun (k : Queue) => { k with program := e.handle1 }
      else if k.st ≠ .disabled || a % 16 = 0 || a % 16 > 12 || e.arg0.toNat % 64 ≠ 0 then bad .accessViolation
      else if priv && t.privCount i ≥ 4 then bad .accessViolation
      else (set fun (k : Queue) =>
        { k with sqBase := e.arg0, cqBase := 0, depthLog := a % 16, priv := priv, irq := bitOf a 16, program := e.handle1 }.enable).lostPosts p i)
/-- QUEUE0_ENABLE: `q_en` of queue 0 is set while the partition is ACTIVE and the queue DISABLED. -/
def execQueue0Enable (p : Part) (s : State) : Out :=
  .next (((s.wakeDevice (0x20 + p.val)).updP p fun t => if t.st = .active then
    { t with queues := t.queues.upd 0 fun k => if k.st = .disabled && 1 ≤ k.depthLog && k.depthLog ≤ 12 then k.enable else k } else t).lostPosts p 0)
/-- QUEUE0_DISABLE: `q_en` of queue 0 is cleared. -/
def execQueue0Disable (p : Part) (s : State) : Out :=
  .next ((s.wakeDevice (0x20 + p.val)).updP p fun t =>
    if t.st = .fenced then t else { t with queues := t.queues.upd 0 Queue.disable })
/-- QUEUE_DRAINED: the last accepted command of a draining queue has completed. -/
def execQueueDrained (p : Part) (q : Qn) (s : State) : Out := .next (s.settleQueue p q.val)
/-- Is a completion queue backlogged: 1,024 completions wait for its ring (R52)? -/
def Partition.backlogged (t : Partition) (q : Nat) : Bool := (t.queues.find q).any fun k => k.waiting.length ≥ 1024
/-- COMPLETION_DRAIN: the oldest waiting completion goes into a freed slot of the ring (R52). With the end of a backlog the sequences of
the queue's requests are ready again (08 R166). -/
def execCompletionDrain (p : Part) (q : Qn) (s : State) : Out :=
  let was := s.getP p false fun t => t.backlogged q.val
  let s := s.updQueue p q.val (Queue.drain 1)
  .next (s.updP p fun t => if was && !(t.backlogged q.val) then
    t.restamp fun e => t.live.any fun l => l.q == q.val && l.req.any fun r => (t.sequences.find r.seq).any fun o => o.h == e.h else t)

end Sys2Proof.Machine
end

