-- ==== Sys2Proof/Machine/Clusters.lean ====
section
/-! DEFINITION. Clusters in quarantine, ergot sweeps, and the shadow of a step (spec 13 R296, R301 to R305; 02 R35, R40). -/

namespace Sys2Proof.Machine

/-! ### Cluster records -/

/-- The partition that owns a cluster. -/
def State.ownerOf (s : State) (c : Nat) : Option Part :=
  (s.parts.find? fun kv => hasClu kv.2.clusters c).map fun kv => Fin.ofNat 16 kv.1
/-- Raise an event about a cluster in the device log and in the log of the partition that owns it (where such an event goes is
a DESIGN CHOICE, log entry 33). -/
def State.cluEvent (s : State) (code c : Nat) : State :=
  let s := s.devEvent code 0 0 (BitVec.ofNat 64 c)
  match s.ownerOf c with
  | some p => s.event p code 0 0 (BitVec.ofNat 64 c)
  | none => s
/-- Squash every step on a cluster (Table 13-5); a revival on it stops. -/
def State.squashOn (s : State) (c : Nat) (st : Status) : State :=
  s.forEach s.parts fun s kv =>
    let p : Part := Fin.ofNat 16 kv.1
    s.forEach (kv.2.steps.filter fun k => k.2.clu == c) fun s k =>
      if k.2.kind = 4 then (match k.2.sess with
        | some i => s.stopRevival p i st
        | none => s) else s.squash p k.1 st
/-- Quarantine a cluster (R305): RETIRED at the third quarantine since the last cold reset, otherwise QUARANTINED; its steps are
squashed, it leaves every placement set, and the device journal takes a record. -/
def State.quarantine (s : State) (c : Nat) : State :=
  if (s.clu c).st ≠ .inService then s
  else
    let n := (s.clu c).quarantines + 1
    let s := s.updClu c fun r =>
      { r with st := if n ≥ 3 then .retired else .quarantined, quarantines := n, passes := 0, replays := 0 }
    let s := match s.ownerOf c with
      | some p => s.count p cQuarantines
      | none => s
    let had := (s.parts.map fun kv => (kv.2.programs.filter fun g => hasClu g.2.clusters c).map fun g => (kv.1, g.1)).flatten
    let s := { s with parts := s.parts.mapV fun _ t => { t with programs := t.programs.mapV fun _ g =>
        { g with clusters := g.clusters &&& ~~~(1#64 <<< c) } } }
    let s := s.forEach had fun s e => s.progRecord (Fin.ofNat 16 e.1) e.2
    let s := (s.squashOn c .unitQuarantined).cluEvent evClusterQuarantined c
    let s := if n ≥ 3 then s.cluEvent evClusterRetired c else s
    s.jlog devJournal jCluster 0 0 (.cluster c (s.clu c).st)
/-- A residue mismatch of a chunk (R296): the chunk is replayed once; its second mismatch, or the cluster's 16th replay in an
ergot period, quarantines the cluster. -/
def State.residue (s : State) (p : Part) (c : Nat) (again : Bool) : State :=
  if again then s.quarantine c
  else
    let s := (s.count p cResidueReplays).updClu c fun r => { r with replays := r.replays + 1 }
    if (s.clu c).replays ≥ 16 then s.quarantine c else s

/-! ### Ergot sweeps (R301, R302) -/

/-- The pairing of a round in a quadrant: with c XOR m where that one is in service, else the lowest cluster left unpaired. -/
def State.ergotPairs (s : State) (q : Nat) : List (Nat × Nat) :=
  let ins := ((List.range 16).map (· + 16 * q)).filter fun c => (s.clu c).st == .inService
  let m := 1 + s.ergot % 15
  let mate := fun c => 16 * q + ((c % 16) ^^^ m)
  let own := (ins.filter fun c => c < mate c && ins.contains (mate c)).map fun c => (c, mate c)
  let left := ins.filter fun c => !ins.contains (mate c)
  own ++ ((List.range (left.length / 2)).map fun i => (left.getD (2 * i) 0, left.getD (2 * i + 1) 0))
/-- ERGOT_ROUND: a round starts; every count of replays returns to zero. -/
def execErgotRound (s : State) : Out :=
  .next { s with ergot := s.ergot + 1, swept := [], clusters := s.clusters.mapV fun _ r => { r with replays := 0 } }
/-- The kernel's operands for a pair: `n` bytes of SHAKE256 over the ASCII bytes, the 8-byte round number and the lower cluster number
(R301; the number is one byte, a DESIGN CHOICE, log entry 167). -/
def ergotOperands (round lower n : Nat) : List Byte := shake256 (ascii "SK7240-ERG" ++ toLe round 8 ++ toLe lower 1) n
/-- The arbiter of a pair: the lowest cluster of the quadrant outside it whose own sweep passed in the round, else the lowest such one of
the device (R302). -/
def State.arbiter (s : State) (a b : Nat) : Option Nat :=
  let ok := (List.range 64).filter fun e => (s.clu e).st == .inService && e != a && e != b && s.swept.contains e
  (ok.find? fun e => e / 16 == a / 16).or ok.head?
/-- A cluster passes a sweep. -/
def State.sweepPass (s : State) (c : Nat) : State :=
  let s := { s with swept := (s.swept ++ [c]).eraseDups }
  match s.ownerOf c with
  | some p => s.count p cSweeps
  | none => s
/-- A shadowed step without a third cluster whose pair has been swept again: it goes on where the partner was quarantined; where its own
cluster was, it is squashed already; where both passed, nothing agrees with it and it is squashed (R304, Table 13-4; DEDUCED, log entry
168). -/
def State.settleArb (s : State) (c : Nat) : State :=
  let ks := (s.parts.map fun kv => (kv.2.steps.filter fun k => k.2.arbSweep && (k.2.clu == c || k.2.shadow == some c)).map fun k => (kv.1, k.2)).flatten
  s.forEach ks fun s e =>
    let x : StepRef := ⟨Fin.ofNat 16 e.1, e.2.num⟩
    let mate := e.2.shadow.getD e.2.clu
    if mate ≠ e.2.clu && (s.clu mate).st ≠ .inService then s.updStep x fun k => { k with shadowed := true, arbSweep := false }
    else if s.resweep.contains e.2.clu || s.resweep.contains mate then s
    else s.squash x.part x.num .unitQuarantined
/-- ERGOT_RESULT: the digests of the pair of cluster c, with the arbiter's where it was asked; `badA` and `badB` say that a
residue mismatch met the cluster or its partner (Table 13-3). Where the arbiter agrees with neither, the three are swept
again: for such a cluster the result carries its own digest and those of its two fresh partners (DESIGN CHOICE, log entry
32). -/
def execErgotResult (c : Clu) (dA dB : Digest) (arb : Option Digest) (badA badB : Bool) (s : State) : Out :=
  .next <|
    if s.resweep.contains c.val then
      let s := { s with resweep := s.resweep.filter (· ≠ c.val) }
      (if badA || (dA ≠ dB && arb != some dA) then s.quarantine c.val else s.sweepPass c.val).settleArb c.val
    else
      match (s.ergotPairs (c.val / 16)).find? fun e => e.1 == c.val || e.2 == c.val with
      | none => s
      | some (a, b) =>
        let a' := if a = c.val then a else b
        let b' := if a = c.val then b else a
        if badA || badB then
          let s := if badA then s.quarantine a' else s.sweepPass a'
          if badB then s.quarantine b' else s.sweepPass b'
        else if dA = dB then (s.sweepPass a').sweepPass b'
        else if arb = some dA then (s.quarantine b').sweepPass a'
        else if arb = some dB then (s.quarantine a').sweepPass b'
        else
          { s with resweep := (s.resweep ++ [a', b'] ++ (s.arbiter a' b').toList).eraseDups }
/-- QUARANTINE_SWEEP: four passing sweeps in a row return a quarantined cluster to service; a failing one starts the count
again (Table 13-5). -/
def execQuarantineSweep (c : Clu) (pass : Bool) (s : State) : Out :=
  .next <|
    if (s.clu c.val).st ≠ .quarantined then s
    else if !pass then s.updClu c.val fun r => { r with passes := 0 }
    else
      let s := (s.updClu c.val fun r => { r with passes := r.passes + 1 }).sweepPass c.val
      if (s.clu c.val).passes ≥ 4 then
        ((s.updClu c.val fun r => { r with st := .inService, passes := 0 }).cluEvent evClusterReturned c.val).jlog
          devJournal jCluster 0 0 (.cluster c.val .inService)
      else s

/-! ### Shadow re-execution (R303, R304) -/

/-- The partner of a step's cluster: the next cluster in service of the partition in ascending cyclic order, within the home
quadrant first; the cluster itself where there is no other. -/
def State.shadowPartner (s : State) (t : Partition) (c : Nat) : Nat :=
  let ins := (clustersOf t.clusters).filter fun e => (s.clu e).st == .inService && e != c
  let near := ins.filter fun e => e / 16 == c / 16
  let next := fun (l : List Nat) => (l.find? (c < ·)).or l.head?
  ((next near).or (next ins)).getD c
/-- Must a committing step be shadowed? -/
def Partition.mustShadow (t : Partition) (k : Step) : Bool :=
  k.kind == 2 && !k.shadowed && (t.decodes + 1) % 2 ^ t.shadowShift == 0
/-- SHADOW_COMPARE: the digests of the step's cluster and of its partner, and the arbiter's where they differ (Table 13-4). -/
def execShadowCompare (x : StepRef) (own partner : Digest) (arb : Option Digest) (s : State) : Out :=
  .next <| match s.step? x with
  | none => s
  | some k =>
    match k.shadow with
    | none => s
    | some c =>
      if k.st ≠ .committing || k.shadowed || k.arbSweep then s
      else
        let s := s.count x.part cShadowSteps
        let pass := fun (s : State) => s.updStep x fun k => { k with shadowed := true }
        if own = partner then pass s
        else
          let s := s.count x.part cShadowMismatches
          if arb = some own then pass (s.quarantine c)
          else if arb = some partner then (s.squash x.part x.num .unitQuarantined).quarantine k.clu
          else
            let third := s.getP x.part none fun t => ((clustersOf t.clusters).filter fun e =>
              (s.clu e).st == .inService && e != c && e != k.clu).head?
            let s := match third with
              | none => s.updStep x fun k => { k with arbSweep := true }
              | some _ => s.squash x.part x.num .unitQuarantined
            { s with resweep := (s.resweep ++ [k.clu, c] ++ third.toList).eraseDups }

end Sys2Proof.Machine
end

