-- ==== Sys2Proof/Machine/Engine.lean ====
section
/-! DEFINITION. The attention engines: acceptance of descriptors, chunks, the merge of a layer and its output, fetched tiles;
the resumption of waits and the limits of a step (spec 04 R79; 06 R127, R128, R131, R132, R137, R138, R140; 07 R155 to
R160; 03 R59; 17 R380). -/

namespace Sys2Proof.Machine

/-! ### Acceptance (04 Table 4-9) -/

/-- The record of a layer for a step: the message, and whether the step decodes. -/
def Partition.layerMsg (t : Partition) (k : Step) (layer : Nat) : Option (Wave × Lane × BufMsg) :=
  (t.waveOf k).bind fun w => (w.lanes[k.lane]?).bind fun l => (w.msgs.find layer).map fun b => (w, l, b)
/-- A write descriptor is consumed: the rows of its page are written, its seals follow from those before the write (06 R138). -/
def State.consumeWrite (s : State) (x : StepRef) (d : Desc) : State :=
  match (s.prt x.part).bind fun t => (t.steps.find x.num).bind fun k => (t.stepModel k).bind fun m =>
      (t.layerMsg k d.layer).bind fun e => (t.newRows k m e.2.2).bind fun r => (t.groups.find d.group).map fun g => (k, m, e.2.2, r, g) with
  | none => s
  | some (k, m, b, (pos, _, at_, fmt), g) =>
    let n := (k.appended.map (·.2)).getD 0
    let r := ((List.range n).filter fun j => (pos + j) / 64 == d.block).foldl (fun (a : Group × Nat) j =>
      let w := a.1.writeHead m d.layer d.head ((pos + j) % 64) fmt b.body fun v hd => at_ j v hd
      (w.1, a.2 + w.2)) (g, 0)
    (s.updGroup x.part d.group fun _ => r.1).count x.part cSaturations r.2
/-- Does a descriptor wait: for its group to stand in T0, or for the step's writes to the same page (R79, 06 R138)? -/
def State.descWaits (s : State) (x : StepRef) (e : Step) (d : Desc) : Bool :=
  !(s.resident x.part d.group) || (d.op != 4 && e.descs.any fun w =>
    w.op == 4 && w.st == .held && w.group == d.group && w.layer == d.layer && w.head == d.head)
/-- The outcome of Table 4-9 for a descriptor: the status that squashes its step, and whether the partition's log hears of it. -/
def Partition.descRefusal (t : Partition) (p : Part) (d : Desc) : Option (Status × Bool) :=
  if d.op > 5 then some (.accessViolation, false)
  else match t.groups.find d.group with
    | none => some (.staleKey, false)
    | some g =>
      if hGen g.h ≠ d.gen then some (.staleKey, false)
      else if hPart g.h ≠ p.val then some (.accessViolation, true)
      else if d.op = 4 ∧ (d.shared ∨ g.refcount > 1) then some (.accessViolation, false)
      else none
/-- DESCRIPTOR_ACCEPT: the dispatcher takes descriptor k of a step once its group is resident in T0. A write descriptor is consumed
as it is accepted (DESIGN CHOICE, log entry 146). -/
def execDescriptorAccept (x : StepRef) (k : Nat) (s : State) : Out :=
  .next <| match (s.prt x.part).bind fun t => (t.steps.find x.num).bind fun e => e.descs[k]?.map fun d => (t, e, d) with
  | none => s
  | some (t, e, d) =>
    if d.st ≠ .held then s
    else match t.descRefusal x.part d with
      | some (st, log) => s.squash x.part x.num st log
      | none =>
        if s.descWaits x e d then s
        else
          let to_ : DescSt := if d.op = 4 then .done else .accepted
          let s := (s.updStep x fun e => { e with descs := listSet e.descs k fun d => { d with st := to_ } }).cluCount
            (s.recvCluster t e d.quad d.block) 6 1
          if d.op = 4 then s.consumeWrite x d else s

/-! ### The arithmetic (06 R127, R132; 07 R158 to R160) -/

/-- No partial yet. -/
def Partial.none (d : Nat) : Partial := { m := Option.none, l := Fl.zero, o := List.replicate d Fl.zero }
/-- One page joined to a partial: the first `vis` rows count, the others are masked. `cw` converts the weights and counts what
saturates. The weights are added in ascending row order; the products of a weighted sum are the leaves of the pairwise tree, in row
order (DEDUCED, log entry 34). -/
def Partial.page (a : Partial) (scale : Fl) (grn : Bool) (q : List Fl) (ks vs : List (List Fl)) (vis : Nat)
    (cw : List Fl → List Fl × Nat) : Partial × Nat :=
  let s := (ks.take vis).map fun k => f32mul scale (dotClass grn q k)
  match flMax s with
  | Option.none => (a, 0)
  | some ms =>
    let m2 := match a.m with
      | Option.none => ms
      | some m => m.maxF ms
    let al := match a.m with
      | Option.none => Fl.zero
      | some m => f32exp (f32sub m m2)
    let c := cw (s.map fun v => f32exp (f32sub v m2))
    let w := c.1
    ({ m := some m2, l := f32add (f32mul a.l al) (w.foldl f32add Fl.zero)
       o := (List.range a.o.length).map fun d =>
         let ps := (w.zip vs).map fun wv => classMul grn wv.1 (wv.2.getD d Fl.zero)
         f32add (f32mul (a.o.getD d Fl.zero) al) (treeSum 7 (ps ++ List.replicate (64 - ps.length) Fl.zero)).f32 }, c.2)
/-- Merge two partials (R132). -/
def Partial.merge (a b : Partial) : Partial :=
  match a.m, b.m with
  | Option.none, Option.none => { a with l := Fl.zero, o := a.o.map fun _ => Fl.zero }
  | ma, mb =>
    let m := match ma, mb with
      | some x, some y => x.maxF y
      | some x, Option.none => x
      | Option.none, some y => y
      | _, _ => Fl.zero
    let wt := fun (e : Option Fl) => match e with
      | some v => f32exp (f32sub v m)
      | Option.none => Fl.zero
    { m := some m, l := f32add (f32mul a.l (wt ma)) (f32mul b.l (wt mb))
      o := (a.o.zip b.o).map fun p => f32add (f32mul p.1 (wt ma)) (f32mul p.2 (wt mb)) }
/-- Quantise a vector to a format with its block scales and read it back as it is stored (07 R152, R153), with the number of
elements that saturated. -/
def quantVia (fmt : Nat) (xs : List Fl) : List Fl × Nat :=
  let n := roundUp xs.length 64
  let w := rowWrite fmt true (xs ++ List.replicate (n - xs.length) Fl.zero)
  (((rowRead fmt true fWide n w.1 w.2.1).map (·.1)).getD (List.replicate n Fl.zero) |>.take xs.length, w.2.2)
/-- The multiply class of an attend: BF16 on the decode path (02 R38), or a `pf_math` class (07 Tables 7-4, 7-5), in which classes 1 and
2 take their operands as stored. -/
def ModelDesc.mathTarget (m : ModelDesc) (decode : Bool) : FFmt :=
  if decode then fBF16
  else match m.pfMath with
    | 0 => if m.kvFmt = 2 then fFP16 else fBF16
    | 3 => fFP32
    | _ => fWide
/-- Does the class multiply GRN5 operands as stored? -/
def ModelDesc.grnClass (m : ModelDesc) (decode : Bool) : Bool := !decode && m.pfMath == 2 && m.kvFmt == 10
/-- Queries and weights in the multiply class, with the number of elements that saturated. Along the rows, weights take their scales in
row order. -/
def ModelDesc.mathVec (m : ModelDesc) (decode : Bool) (xs : List Fl) : List Fl × Nat :=
  let t := m.mathTarget decode
  if decode || m.pfMath = 0 then
    let r := xs.map fun v => v.conv t
    (r.map (·.1), (r.map fun p => b2n p.2).sum)
  else match m.pfMath with
    | 1 => quantVia 3 xs
    | 2 => quantVia m.kvFmt xs
    | _ => (xs, 0)
/-- Does a tile's seal match its header and its bytes (04 R74)? -/
def Group.sealOk (g : Group) (m : ModelDesc) (page : Nat) (v : Bool) : Bool :=
  (if v then (g.recOf page).sealV else (g.recOf page).sealK) == g.seal m page v
/-- Is a tile poisoned? -/
def Group.poisonedTile (g : Group) (page : Nat) (v : Bool) : Bool :=
  (g.recs.find page).any fun r => if v then r.poisonV else r.poisonK
/-- Set a tile's poison bit (13 Table 13-2). -/
def Group.setPoison (g : Group) (page : Nat) (v : Bool) : Group :=
  let r := g.recOf page
  { g with recs := g.recs.put page (if v then { r with poisonV := true } else { r with poisonK := true }) }
/-- How a tile that is read fails, if it does (R128). -/
def Group.tileFails (g : Group) (m : ModelDesc) (page : Nat) (v : Bool) (rows : Nat) : Option Status :=
  if g.poisonedTile page v then some .poisonConsumed
  else if !(g.sealOk m page v) then some .sealMismatch
  else if (g.rowsOf m page v rows fFP32).isNone then some .poisonConsumed
  else Option.none

/-! ### Chunks (R131, R137, R138) -/

/-- The queries of a step's layer for a head, with the position of each: new positions by query head, or the segment's tokens
by query head, each with its query tile; and how many elements saturated. -/
def queriesOf (m : ModelDesc) (w : Wave) (l : Lane) (b : BufMsg) (lane head : Nat) : List (List Fl × Nat × Nat) × Nat :=
  let qs : List (List Fl × Nat × Nat) :=
    if w.row then
      let toks := w.segTokens lane
      ((List.range toks.length).map fun i => (List.range m.qPerKv).map fun g =>
        ((arriveVec (b.xfmt + 1) b.body (m.rowQuery (toks.getD i 0) head g) m.headDim).1, l.pos + i, toks.getD i 0 / 64)).flatten
    else
      match laneRec m b w.lanes.length lane with
      | Option.none => []
      | some r =>
        let qs := BufMsg.rawQueries { b with body := r } m head
        (List.range qs.length).map fun i => (qs.getD i [], l.pos + i / m.qPerKv, 0)
  let cs := qs.map fun q => (m.mathVec (!w.row) q.1, q.2)
  (cs.map fun c => (c.1.1, c.2), (cs.map fun c => c.1.2).sum)
/-- The partials of one chunk for one layer and head: each query over the pages that its descriptors name, in ascending
block order. It answers how many elements its conversions saturated too (07 R155). -/
def Partition.chunkParts (t : Partition) (m : ModelDesc) (w : Wave) (l : Lane) (b : BufMsg) (k : Step)
    (layer head : Nat) (ds : List Desc) : List Partial × Nat :=
  let dec := !w.row
  let pages := ds.filterMap fun d => (t.groups.find d.group).map fun g =>
    let pg := layer * m.kvHeads + head
    let tgt := m.mathTarget dec
    (d, (g.rowsOf m pg false d.rows tgt).getD ([], 0), (g.rowsOf m pg true d.rows tgt).getD ([], 0))
  let qs := queriesOf m w l b k.lane head
  let rs := qs.1.map fun q =>
    pages.foldl (fun (a : Partial × Nat) p =>
      if p.1.qtile = q.2.2 then
        let r := a.1.page m.scaleVal (m.grnClass dec) q.1 p.2.1.1 p.2.2.1 (min p.1.rows (q.2.1 + 1 - 64 * p.1.block)) (m.mathVec dec)
        (r.1, a.2 + r.2)
      else a) (Partial.none m.headDim, 0)
  (rs.map (·.1), qs.2 + (rs.map (·.2)).sum + (pages.map fun p => p.2.1.2 + p.2.2.2).sum)
/-- A tile of a fetch as it is delivered: its bytes, the 32-byte header and its seal (R140), and how many elements saturated. -/
def Group.delivered (g : Group) (m : ModelDesc) (page : Nat) (v : Bool) (rows dfmt : Nat) : List Byte × List Byte × Word × Nat :=
  let g' := { g with rows := rows, filled := min rows g.filled }
  if dfmt = 0 then
    let z := if rows < g.rows then g'.zeroRows m rows g.rows else g
    let hd := tileHeader g' m rows (page / m.kvHeads) (page % m.kvHeads) v
    let bs := z.tile m page v
    (bs, hd, if rows < g.rows then crc64 (hd ++ bs) else
      ((g.recs.find page).map fun r => if v then r.sealV else r.sealK).getD (crc64 (hd ++ bs)), 0)
  else
    let rs := (g.rowsOf m page v rows (elemFF dfmt)).getD ([], 0)
    let bs := (rs.1.map fun r => (emitVec dfmt r).1).flatten
    let bs := padTo bs (64 * rowBytes dfmt m.headDim)
    let hd := tileHeader g' { m with kvFmt := dfmt, mx := false } rows (page / m.kvHeads) (page % m.kvHeads) v
    (bs, hd, crc64 (hd ++ bs), rs.2)
/-- Write one fetched tile into the destination region of the request and send it there by port writes; a failing tile and its header
are written as zeros. `last` marks the last tile of a layer, whose last write is FINAL. -/
def State.deliverTile (s : State) (p : Part) (m : ModelDesc) (k : Step) (seq : Nat) (qp : Option Nat) (r : FetchReq) (d : Desc)
    (bad last : Bool) : State :=
  match (s.prt p).bind fun t => (t.byRkey r.rkey).bind fun ri => (t.groups.find d.group).map fun g => (t, ri, g) with
  | some (t, ri, g) =>
    let o := g.delivered m (d.layer * m.kvHeads + d.head) (d.qtile == 1) d.rows r.dfmt
    let z := fun (bs : List Byte) => if bad then bs.map fun _ => 0 else bs
    let hdr := bitOf r.fflags 6
    let ws : List (Nat × List Byte) := [(r.place d.layer d.head d.block d.qtile, z o.1)]
      ++ if hdr then [(r.hdrPlace (r.count (t.blocksOf k seq)) d.layer d.head d.block d.qtile, z (o.2.1 ++ toLe o.2.2.1.toNat 8 ++ toLe 0 24))]
         else []
    let s := (s.count p cSaturations (if bad then 0 else o.2.2.2)).forEach ws fun s w =>
      s.updRegion p ri fun e => { e with data := e.data.wr w.1 w.2 }
    match qp with
    | some n =>
      let s := s.portWrite p n r.rkey ((ws.headD (0, [])).1) ((ws.headD (0, [])).2) (last && !hdr)
      s.forEach (ws.drop 1) fun s w => s.portWrite p n r.rkey w.1 w.2 last
    | Option.none => s
  | Option.none => s
/-- Where a fetch stands at a port: the port, the due time of its next layer, and whether the slices have that layer's pages (R140). -/
def Partition.fetchAtPort (t : Partition) (k : Step) : Option (Nat × Nat × Bool) :=
  (t.waveOf k).bind fun w => if !w.fetch then Option.none else
    (w.qp.bind t.qps.find).bind fun q => (k.descs.find? fun d => d.op == 2 && d.st != .done).map fun d =>
      let r := fetchReq ((w.msgs.find 0).map (·.body) |>.getD [])
      (q.port, r.needBy + (d.layer - r.layer0) * r.layerGap,
        k.descs.all fun e => e.op != 2 || e.layer != d.layer || e.st != .held)
/-- Is it the turn of a fetch at its port: among the fetches whose next layer is ready, its due time is the earliest? -/
def State.fetchTurn (s : State) (t : Partition) (k : Step) : Bool :=
  match t.fetchAtPort k with
  | Option.none => true
  | some me => s.parts.all fun kv => kv.2.steps.all fun e => match kv.2.fetchAtPort e.2 with
    | some o => o.1 != me.1 || !o.2.2 || me.2.1 < o.2.1 || (me.2.1 == o.2.1 && k.num ≤ e.2.num)
    | Option.none => true
/-- Send the FETCH_DONE of every layer of a fetch that is wholly delivered, in order; a layer that failed is the last. -/
def State.fetchLayers (s : State) (x : StepRef) (m : ModelDesc) : Nat → State
  | 0 => s
  | fuel + 1 =>
    match (s.prt x.part).bind fun t => (t.steps.find x.num).bind fun k => (t.waveOf k).map fun w => (t, k, w) with
    | Option.none => s
    | some (_, k, w) =>
      let r := fetchReq ((w.msgs.find 0).map (·.body) |>.getD [])
      let layer := r.layer0 + w.sent.length
      let ds := k.descs.filter fun d => d.op == 2 && d.layer == layer
      let over_ := w.lanes.any fun l => l.squashed.isSome
      if over_ || w.sent.length ≥ r.nlayers || !(k.emitted.contains layer) || !(ds.all fun d => d.st == .done) then s
      else
        let fail := k.fails.find? fun f => f.1 == layer
        let c := ((k.chunks.filter fun c => c.layer == layer).map (·.bad)).flatten
        let first := (sortBy (fun (a b : Nat × Nat × Bool × Status) =>
          a.1 < b.1 || (a.1 == b.1 && (a.2.1 < b.2.1 || (a.2.1 == b.2.1 && !(a.2.2.1 && !b.2.2.1))))) c).head?
        let body := match fail, first with
          | some f, some b => fetchDoneRec layer f.2 b.1 b.2.1 (b2n b.2.2.1) ds.length
          | _, _ => fetchDoneRec layer .ok 0 0 0 ds.length
        let late := (w.qp.bind fun n => (s.prt x.part).bind fun t => t.qps.find n).any fun q =>
          s.portTime q.port > r.needBy + (layer - r.layer0) * r.layerGap
        let s := s.count x.part cFetchLate (b2n late)
        let s := s.sendMsg x.part w.qp Option.none (mkMsg mtFetchDone w.model w.batch layer 1 body w.digest)
        let s := s.updP x.part fun t => { t with waves := t.waves.map fun (v : Wave) => if v = w then
            { v with sent := v.sent ++ [layer]
                     lanes := if fail.isSome then v.lanes.map fun l => { l with squashed := fail.map (·.2) } else v.lanes } else v }
        State.fetchLayers s x m fuel
/-- Note the first failing tile of a layer, in the order of R128. -/
def Step.noteFail (k : Step) (layer : Nat) : Step :=
  let bad := ((k.chunks.filter fun c => c.layer == layer).map (·.bad)).flatten
  let le := fun (a b : Nat × Nat × Bool × Status) =>
    a.1 < b.1 || (a.1 == b.1 && (a.2.1 < b.2.1 || (a.2.1 == b.2.1 && !(a.2.2.1 && !b.2.2.1))))
  match (sortBy le bad).head? with
  | Option.none => k
  | some b =>
    let others := k.fails.filter fun f => f.1 ≠ layer
    { k with fails := sortBy (fun (a b : Nat × Status) => a.1 ≤ b.1) (others ++ [(layer, b.2.2.2)]) }
/-- CHUNK_COMPLETE: a slice has finished the chunk of a layer and head. `residue` reports a residue mismatch, which discards
the chunk (13 R296); `bad` lists the tiles that read uncorrectable. A fetch delivers its tiles in order. -/
def execChunkComplete (x : StepRef) (layer head chunk : Nat) (residue : Bool) (bad : List (Nat × Bool)) (s : State) : Out :=
  .next <| match (s.prt x.part).bind fun t => (t.steps.find x.num).bind fun k => (t.stepModel k).map fun m => (t, k, m) with
  | Option.none => s
  | some (t, k, m) =>
    let mine := fun (d : Desc) => d.layer == layer && d.head == head && d.block / 8 == chunk && d.op != 3 && d.op != 4
    let ds := sortBy (fun (a b : Desc) => a.block < b.block || (a.block == b.block && a.qtile ≤ b.qtile)) (k.descs.filter mine)
    let inTurn := match k.descs.find? fun d => d.op == 2 && d.st != .done with
      | some d => mine d
      | Option.none => true
    if k.kind = 4 || ds.isEmpty || !(ds.all fun d => d.st == .accepted) || !inTurn || !(s.fetchTurn t k) then s
    else
      let bytes := 2 * tileBytes m.kvFmt m.mx m.headDim
      let s := s.forEach ds fun s d =>
        let c := s.recvCluster t k d.quad d.block
        s.cluCount c (if c / 16 = d.quad then 4 else 5) (if d.op = 2 then bytes / 2 else bytes)
      let first := ds.headD (k.descs.headD ⟨0, false, false, false, 0, 0, 0, 0, 0, 0, 0, 0, 0, 0, 0, 0, 0, 0, 0, .held⟩)
      let clu := s.recvCluster t k first.quad first.block
      if residue then
        let again := k.replayed.contains (layer, head, chunk)
        (s.updStep x fun k => { k with replayed := (layer, head, chunk) :: k.replayed }).residue x.part clu again
      else
        let pg := layer * m.kvHeads + head
        let s := s.forEach bad fun s e => s.forEach (ds.filter fun d => d.block == e.1) fun s d =>
          s.updGroup x.part d.group fun g => g.setPoison pg e.2
        match s.prt x.part with
        | Option.none => s
        | some t =>
          let halves := fun (d : Desc) => if d.op = 2 then [d.qtile == 1] else [false, true]
          let fails := (ds.map fun d => (halves d).filterMap fun v =>
            ((t.groups.find d.group).bind fun g => g.tileFails m pg v d.rows).map fun st => (d.block, head, v, st)).flatten.eraseDups
          let parts := if first.op ≤ 1 then
              match t.layerMsg k layer with
              | some (w, l, b) => t.chunkParts m w l b k layer head ds
              | Option.none => ([], 0)
            else ([], 0)
          let res : ChunkRes := ⟨layer, head, chunk, parts.1, fails⟩
          let s := s.count x.part cSaturations parts.2
          let s := s.updStep x fun k =>
            { k with descs := k.descs.map (fun d => if mine d then { d with st := .done } else d), chunks := k.chunks ++ [res] }
          let s := s.updStep x fun k => k.noteFail layer
          if first.op = 2 then
            match k.seq, t.waveOf k with
            | some seq, some w =>
              let r := fetchReq ((w.msgs.find 0).map (·.body) |>.getD [])
              let dead := k.fails.any fun f => f.1 < layer
              let lastD := (k.descs.filter fun e => e.op == 2 && e.layer == layer).getLast?
              let s := if dead then s else s.forEach ds fun s d =>
                s.deliverTile x.part m k seq w.qp r d (fails.any fun f => f.1 == d.block && f.2.2.1 == (d.qtile == 1)) (some d == lastD)
              s.fetchLayers x m (r.nlayers + 1)
            | _, _ => s
          else s

/-! ### The merge of a layer and its output (R128, R132, R135) -/

/-- The merged partials of a step for a layer and head, chunk by chunk in ascending order. -/
def Step.mergedHead (k : Step) (layer head n d : Nat) : List Partial :=
  let cs := sortBy (fun (a b : ChunkRes) => a.chunk ≤ b.chunk) (k.chunks.filter fun c => c.layer == layer && c.head == head)
  cs.foldl (fun acc c => (List.range n).map fun i =>
    (acc.getD i (Partial.none d)).merge (c.parts.getD i (Partial.none d))) (List.replicate n (Partial.none d))
/-- The results of partials: out := o / l in `ofmt`, and the log-sum-exp; with the number that saturated. -/
def Partial.out (a : Partial) (ofmt : Nat) : List Byte × Nat :=
  let xs := if a.l.m = 0 then a.o.map fun _ => Fl.zero else a.o.map fun v => f32div v a.l
  emitVec (if ofmt = 2 then 0 else ofmt + 1) xs
def Partial.lse (a : Partial) : List Byte :=
  match a.m, f32ln a.l with
  | some m, some v => toLe (f32enc (f32add m v)) 4
  | _, _ => toLe 0xFF800000 4
/-- Width of an output element. -/
def outWidth (ofmt : Nat) : Nat := if ofmt = 2 then 4 else 2
/-- Is every chunk of a step's layer complete? -/
def Step.layerDone (k : Step) (layer : Nat) : Bool :=
  k.emitted.contains layer && k.descs.all fun d => d.layer != layer || d.st == .done
/-- Is a lane ready for the output of a layer: merged, or out of the wave? -/
def Partition.laneDone (t : Partition) (l : Lane) (layer : Nat) : Bool :=
  l.squashed.isSome || l.ended || (l.step.bind t.steps.find).any fun k => k.layerDone layer
/-- Reorder results that are indexed by (head, position, query head) into the order position, head, query head. -/
def byPosition (m : ModelDesc) (n : Nat) (f : Nat → Nat → Nat → List Byte) : List Byte :=
  ((List.range n).map fun t => ((List.range m.kvHeads).map fun h => ((List.range m.qPerKv).map fun g => f t h g).flatten).flatten).flatten
/-- The output record of a lane (R128): head, outputs, log-sum-exps; zeros where the lane was squashed or a tile failed. It
answers the number of saturated elements too. -/
def Partition.laneOut (t : Partition) (m : ModelDesc) (w : Wave) (b : BufMsg) (i : Nat) (l : Lane) : List Byte × Nat :=
  let nNew := ((laneRec m b w.lanes.length i).map fun r => fld r 1 1).getD 1
  let k := l.step.bind t.steps.find
  let layer := b.layer
  let fail := (k.bind fun k => (k.fails.find? fun f => f.1 == layer).map (·.2))
  let st := l.squashed.or fail
  let dead := st.isSome || k.isNone
  let blocks := (k.map fun k => ((k.descs.filter fun d => d.op == 0 && d.layer == layer && d.head == 0).length)).getD 0
  let sp := k.any fun k => k.descs.any fun d => d.op == 3 && d.layer == layer
  let size := nNew * m.kvHeads * m.qPerKv
  let head := toLe i 1 ++ toLe nNew 1 ++ toLe (st.getD .ok).code.toNat 1 ++ toLe (2 * b2n dead + b2n (sp && !dead)) 1
    ++ toLe l.hgSeq 4 ++ toLe l.pos 4 ++ toLe (if dead then 0 else blocks) 4
  match if dead then Option.none else k with
  | Option.none => (head ++ List.replicate (size * (m.headDim * outWidth b.ofmt + 4)) 0, 0)
  | some k =>
    let ps := (List.range m.kvHeads).map fun h => k.mergedHead layer h (nNew * m.qPerKv) m.headDim
    let at_ := fun tt h g => (ps.getD h []).getD (tt * m.qPerKv + g) (Partial.none m.headDim)
    let live := fun tt => tt < k.nNew
    let out := byPosition m nNew fun tt h g =>
      if live tt then ((at_ tt h g).out b.ofmt).1 else List.replicate (m.headDim * outWidth b.ofmt) 0
    let lse := byPosition m nNew fun tt h g => if live tt then (at_ tt h g).lse else [0, 0, 0, 0]
    let sat := ((List.range (min nNew k.nNew)).map fun tt => ((List.range m.kvHeads).map fun h =>
      ((List.range m.qPerKv).map fun g => ((at_ tt h g).out b.ofmt).2).sum).sum).sum
    (head ++ out ++ lse, sat)
/-- The body of PREFILL_OUT: one status byte a segment (the width is a DESIGN CHOICE, log entry 35), the outputs of every row
token, and their log-sum-exps; a padding token gives zeros and −∞. -/
def Partition.rowOut (t : Partition) (m : ModelDesc) (w : Wave) (b : BufMsg) : List Byte × Nat :=
  let seg := fun (l : Lane) => l.step.bind t.steps.find
  let failOf := fun (l : Lane) => l.squashed.or ((seg l).bind fun k => (k.fails.find? fun f => f.1 == b.layer).map (·.2))
  let sts := (w.lanes.map fun l => toLe ((failOf l).getD .ok).code.toNat 1).flatten
  let n := w.tokens.length
  let ps := (List.range w.lanes.length).map fun j => match w.lanes[j]? with
    | some l => match if (failOf l).isSome then Option.none else seg l with
      | some k => some ((List.range m.kvHeads).map fun h => k.mergedHead b.layer h (l.ntok * m.qPerKv) m.headDim)
      | Option.none => Option.none
    | Option.none => Option.none
  let at_ := fun i h g =>
    let sgm := (w.tokens.getD i (0, 0xFFFF)).2
    match (ps[sgm]?).join with
    | some hs => some ((hs.getD h []).getD ((w.segTokens sgm).idxOf i * m.qPerKv + g) (Partial.none m.headDim))
    | Option.none => Option.none
  let zero := List.replicate (m.headDim * outWidth b.ofmt) (0 : Byte)
  let out := byPosition m n fun i h g => match at_ i h g with
    | some a => (a.out b.ofmt).1
    | Option.none => zero
  let lse := byPosition m n fun i h g => match at_ i h g with
    | some a => a.lse
    | Option.none => if (w.tokens.getD i (0, 0xFFFF)).2 = 0xFFFF then toLe 0xFF800000 4 else toLe 0 4
  let sat := ((List.range n).map fun i => ((List.range m.kvHeads).map fun h => ((List.range m.qPerKv).map fun g =>
    match at_ i h g with
    | some a => (a.out b.ofmt).2
    | Option.none => 0).sum).sum).sum
  (sts ++ out ++ lse, sat)
/-- LAYER_MERGED: every lane of a layer has merged; the member's output message leaves, and each step's layer is done. A
message of the STORE kind has no output (R142). -/
def execLayerMerged (p : Part) (m : BitVec 16) (batch layer : Nat) (s : State) : Out :=
  .next <| match (s.prt p).bind fun t => (t.model? m).bind fun d =>
      (t.waves.find? fun w => w.model == m && w.batch == batch && !w.fetch && !(w.sent.contains layer)).bind fun w =>
        (w.msgs.find layer).map fun b => (t, d, w, b) with
  | Option.none => s
  | some (t, d, w, b) =>
    if b.mtype = mtStore || !(w.lanes.all fun l => t.laneDone l layer) then s
    else
      let r := if w.row then t.rowOut d w b
        else
          let rs := (List.range w.lanes.length).map fun i => match w.lanes[i]? with
            | some l => t.laneOut d w b i l
            | Option.none => ([], 0)
          ((rs.map (·.1)).flatten, (rs.map (·.2)).sum)
      let s := s.count p cSaturations r.2
      let msg := mkMsg (if w.row then mtPrefillOut else mtAttendOut) m batch layer w.lanes.length r.1 w.digest b.ofmt b.xfmt
      let dg := shakeDigest r.1
      let s := s.sendMsg p b.qp Option.none msg
      s.updP p fun t =>
        { t with waves := t.waves.map (fun (v : Wave) => if v.model = m ∧ v.batch = batch ∧ v.row = w.row ∧ !v.fetch then { v with sent := v.sent ++ [layer] } else v)
                 steps := t.steps.mapV fun n k => if w.lanes.any fun l => l.step == some n then
                   { k with merged := k.merged ++ [layer], outputs := k.outputs ++ [dg] } else k }

/-! ### Waits and limits (17 R380, 03 R59, 05 R116) -/

/-- Has what a step waits for come about? -/
def State.waitOver (s : State) (x : StepRef) (t : Partition) (k : Step) (g : Program) (w : Wait) : Bool :=
  let i : Iss := ⟨s, x.part, t, k, k.ctx, false, g⟩
  match w with
  | .msg layer Option.none => match i.select layer.isNone (layer.getD 0) true with
    | .msg _ => true
    | _ => false
  | .msg _ (some n) => (t.qps.find n).any fun q => q.inbox.any fun m => m.takenBy.isNone
  | .eng layer => ((layer.map fun l => [l]).getD k.emitted).all k.engDone
  | .move n => (k.moves.find n).all fun m => m.done
  | .fence => i.settled
  | .group n => s.resident x.part n
  | .seq n => (t.sequences.find n).all fun q => q.openStep.all (· == k.num)
  | .note n => (t.qps.find n).any fun q => !q.notes.isEmpty
  | .frame => !(t.reserves.any fun r => r.me == k.num)
  | .equalTime => false
/-- A step takes a context again: run-ahead is over, and its scratch window holds nothing of its own (03 R54, R60). -/
def State.wake (s : State) (x : StepRef) : State :=
  let f := s.fresh
  f.2.updStep x fun k => { k with st := .running, ra := Option.none, scratch := [], epoch := 2 * f.1 + 1 }
/-- STEP_RESUME: what a sleeping step waits for is there; it executes again at the wait. -/
def execStepResume (x : StepRef) (s : State) : Out :=
  .next <| match (s.prt x.part).bind fun t => (t.steps.find x.num).bind fun k => (t.programs.find k.prog).map fun g => (t, k, g) with
  | Option.none => s
  | some (t, k, g) =>
    match k.st with
    | .waiting w => if s.waitOver x t k g w then s.wake x else s
    | _ => s
/-- ET_RELEASE: the results of an equal-time walk are released together. -/
def execEtRelease (x : StepRef) (s : State) : Out :=
  .next <| if (s.step? x).any fun k => k.st == .waiting .equalTime then s.wake x else s
/-- MSG_TIMEOUT: a wait for a message has lasted `msg_wait_max`; the step is squashed with ABORTED. -/
def execMsgTimeout (x : StepRef) (s : State) : Out :=
  .next <| match s.step? x with
  | Option.none => s
  | some k =>
    let isMsg := match k.st with
      | .waiting (.msg _ _) => true
      | .waiting (.note _) => true
      | _ => false
    if isMsg then (s.squash x.part x.num .aborted).event x.part evMsgTimeout 0 0 0 else s
/-- STEP_CYCLE_LIMIT: the step has held a context for its limit without reaching COMMIT. -/
def execStepCycleLimit (x : StepRef) (s : State) : Out :=
  .next <| if (s.step? x).any fun k => (k.st == .running || k.ra.isSome) && k.kind != 4 then s.squash x.part x.num .aborted true else s

end Sys2Proof.Machine
end

