-- ==== Sys2Proof/Machine/MoveEvents.lean ====
section
/-! DEFINITION. The move engine's events: pieces, the ends of promotions, demotions and relocations, waiting allocations,
Winnow sweeps, the rebuild of index chains and the CAM scrubber (spec 04 R80 to R95; 05 R107, R113; 17 R386). -/

namespace Sys2Proof.Machine

/-- The tier of a chunk, written: a chunk in its region's home is not listed. -/
def Partition.setChunk (t : Partition) (ri c : Nat) (tier : Tier) : Partition :=
  { t with regions := t.regions.upd ri fun r =>
      let r1 := { r with chunks := r.chunks.del c }
      { r1 with chunks := if t.chunkTier r1 c = tier then r1.chunks else r.chunks.put c tier
                spots := if tier = .t0 then r.spots else r.spots.del c } }
/-- A move of a step has ended. -/
def State.endMove (s : State) (p : Part) (num tk : Nat) : State :=
  s.updP p fun t => { t with steps := t.steps.upd num fun k =>
    { k with moves := k.moves.upd tk fun m => { m with done := true, left := 0 } } }
/-- What the end of a copy's last piece does at once: the copies of MVCOPY and MVTIER end here, and their tickets with
them; promotions, demotions and relocations end in steps of their own. -/
def State.copyEnded (s : State) (c : Copy) : State :=
  let p : Part := Fin.ofNat 16 c.part
  match c.kind with
  | .regionMove n tk => (s.endMove p n tk).dropCopies p fun d => d.order == c.order
  | .tierMove n tk ri c0 cn =>
    let s := s.updP p fun t => (List.range cn).foldl (fun t i => t.setChunk ri (c0 + i) .t0) t
    ((s.unpinChunks p c.kind).endMove p n tk).dropCopies p fun d => d.order == c.order
  | .fault ri ch => (s.updP p fun t => if (t.regions.find ri).any fun r => r.spots.has ch then t.setChunk ri ch .t0 else t).dropCopies p
      fun d => d.order == c.order
  | .background => s.dropCopies p fun d => d.order == c.order
  | .cow g => ((s.dropCopies p fun d => d.order == c.order).updGroup p g fun r => { r with copyOut := false }).settleGroup p g
  | _ => s
/-- Bytes of a move still to come, from its pieces still to come. -/
def State.noteLeft (s : State) (c : Copy) : State :=
  match c.kind with
  | .regionMove n tk => s.updP (Fin.ofNat 16 c.part) fun t => { t with steps := t.steps.upd n fun k =>
      { k with moves := k.moves.upd tk fun m => { m with left := min m.left (c.left * 262144) } } }
  | .tierMove n tk _ _ _ => s.updP (Fin.ofNat 16 c.part) fun t => { t with steps := t.steps.upd n fun k =>
      { k with moves := k.moves.upd tk fun m => { m with left := min m.left (c.left * 262144) } } }
  | _ => s
/-- MOVE_PIECE: the piece in progress on a path ends, and the path goes to the highest-priority copy waiting on it. -/
def execMovePiece (path : Path) (s : State) : Out :=
  let key := pathKey path.tier path.quad.val
  let ps := s.paths.getD key ⟨[], none⟩
  .next <| match ps.copies.find? fun c => some c.order = ps.cur && c.left ≠ 0 && !(s.halted key c) with
  | none => s.nextPiece key
  | some c =>
    let c1 := { c with left := c.left - 1 }
    let qs : PathState := ⟨ps.copies.map fun (d : Copy) => if d.order = c.order then c1 else d, none⟩
    let s := { s with paths := s.paths.put key qs }
    let s := s.noteLeft c1
    (if c1.left = 0 then s.copyEnded c1 else s).nextPiece key

/-- The copy of a group whose last piece has ended. -/
def State.copied (s : State) (p : Part) (k : CopyKind) : Bool := (s.copyOf p k).any fun c => c.left == 0
/-- Squash every step that pins a group; a revival that pins it stops. -/
def State.squashPinners (s : State) (p : Part) (g : Nat) (st : Status) : State :=
  s.forEach (s.getP p [] fun t => (t.steps.filter fun kv => kv.2.pins.contains g).map (·.2)) fun s k =>
    if k.kind = 4 then (match k.sess with
      | some i => s.stopRevival p i st
      | none => s) else s.squash p k.num st
/-- A copy's source read uncorrectable: the group is dropped, and the steps that need it are squashed (Table 4-12). -/
def State.sourceLost (s : State) (p : Part) (g : Nat) : State :=
  let h := ((s.group? p g).map (·.h)).getD 0
  let rv := s.getP p [] fun t => (t.revivals.filter fun kv => kv.2.promos.contains g && !kv.2.committed).map (·.1)
  let s := s.squashPinners p g .recomputeRequired
  let s := s.forEach rv fun s i => s.stopRevival p i .recomputeRequired
  if (s.group? p g).any fun r => r.h == h then s.dropGroup p g else s
/-- PROMOTION_DONE: the group is homed in T0, clean, and its source copy is its backing copy; the promotion pin goes. -/
def execPromotionDone (p : Part) (g : Nat) (good : Bool) (s : State) : Out :=
  .next <| match s.prt p, s.group? p g with
  | some t, some r =>
    if r.move ≠ .promoting ∨ !(s.copied p (.promote g)) then s
    else if !good then s.sourceLost p g
    else
      let bytes := t.groupBytes r
      let s := (s.dropCopies p fun c => c.kind == .promote g).updP p fun t =>
        { t with groups := t.groups.upd g fun r =>
            { r.clean with tier := .t0, backing := some r.tier, backLoc := r.loc, loc := 0, move := .idle, ppin := false, reviving := false } }.touchG g
      let s := (s.count p cPromotions).count p cPromotedBytes bytes
      let s := if r.reviving then s.count p cRvFetchBytes bytes else s
      (s.settleGroup p g).dropPoisoned p g
  | _, _ => s
/-- The map units of a group that a demotion onto its copy in T2 writes: those of dirty pages, the metadata block, the page records (R83). -/
def Partition.dirtyUnits (t : Partition) (r : Group) : List Nat :=
  let pb := ((t.model? r.model).map fun m => pageBytes m.pageCode).getD 8192
  let n := (t.groupBytes r + mapUnit - 1) / mapUnit
  (List.range n).filter fun u => decide (r.pages * pb < (u + 1) * mapUnit) || (List.range r.pages).any fun i =>
    (r.recOf i).dirty && decide (i * pb < (u + 1) * mapUnit) && decide (u * mapUnit < (i + 1) * pb)
/-- The destination commit and the free step of a demotion (R93): a cancelled free step leaves the group in T0, clean,
backed at the destination; otherwise the destination is its home and its T0 blocks come free, for the first allocation
that waits for them. -/
def State.demoted (s : State) (p : Part) (g place : Nat) (t : Partition) (r : Group) : State :=
  let bytes := t.groupBytes r
  let s := if r.backing = some r.dest then (if r.dest = .t2 then s.staleUnits p (.group r.h) (t.dirtyUnits r) else s)
    else s.updP p fun t => t.allocated r.dest bytes
  -- the old backing copy elsewhere is reclaimed (R83)
  let s := if r.backing = some .t2 && r.dest ≠ .t2 then s.unmap p (.group r.h) else s
  let s := (s.count p cDemotions).count p cDemotedBytes bytes
  if r.cancelFree then
    s.updGroup p g fun r => { r.clean with backing := some r.dest, backLoc := place, move := .idle, copyOut := false, cancelFree := false, forAlloc := 0 }
  else
    let s := s.updP p fun t =>
      { t with groups := t.groups.upd g fun r =>
          { r.clean with tier := r.dest, loc := place, backing := none, backLoc := 0, move := .idle, copyOut := false
                         frame := 0, run := 0, forAlloc := 0 } }.touchG g
    if r.tier = .t0 then s.giveBlocks p r.quad r.forAlloc [(r.frame, (t.groupFrame r).1), (r.run, (t.groupFrame r).2)] else s
/-- Where a demotion's copy comes to lie: the backing copy's place, or a free one, none while the groups that leave the tier for it
are still there (log entry 137). -/
def Partition.destPlace (t : Partition) (g : Nat) (r : Group) : Option Nat :=
  if r.backing = some r.dest then some r.backLoc else ({ t with groups := t.groups.del g }).placeOuter r.dest (t.groupBytes r)
/-- A demotion whose tier cannot take the group after all goes on to the next target, or drops the group: it never waits for space
(R69). A group that a step waits for stays in T0, its dirty bits as they were. -/
def State.demoteOn (s : State) (p : Part) (g : Nat) (r : Group) : State :=
  let s := (s.dropCopies p fun c => c.kind == .demote g).updGroup p g fun r => { r with move := .idle, copyOut := false, cancelFree := false }
  if r.cancelFree then s
  else
    let again := fun (s : State) => s.updGroup p g fun e => if e.move = .demoting then { e with forAlloc := r.forAlloc } else e
    if r.dest = .t2 then s.dropGroup p g
    else if r.dest = .t1b && s.getP p false (fun t => t.warmTier == 2 && t.share .t1h != 0 && (t.placeOuter .t1h (t.groupBytes r)).isSome) then
      again (s.beginDemotion p g .t1h 5)
    else again (s.demoteT2 p g 5)
/-- DEMOTION_DONE: a demotion's copy-out has ended. -/
def State.demotionDone (s : State) (p : Part) (g : Nat) (good : Bool) : State :=
  match s.prt p, s.group? p g with
  | some t, some r =>
    if r.move ≠ .demoting ∨ r.dest = .t0 ∨ !(s.copied p (.demote g)) then s
    else if !good then s.sourceLost p g
    else match t.destPlace g r with
      | none => s.demoteOn p g r
      | some place =>
        let s := (s.dropCopies p fun c => c.kind == .demote g).demoted p g place t r
        (s.settleGroup p g).dropPoisoned p g
  | _, _ => s
/-- RELOCATION_DONE: the group is read from its new place from here on; its old run is free. -/
def execRelocationDone (p : Part) (g : Nat) (s : State) : Out :=
  .next <| match s.prt p, s.group? p g with
  | some t, some r =>
    if r.move ≠ .demoting ∨ r.dest ≠ .t0 ∨ !(s.copied p (.relocate g)) then s
    else
      let d := r.moveTo.getD (r.frame, r.run)
      let s := (s.dropCopies p fun c => c.kind == .relocate g).updGroup p g fun r =>
        { r with frame := d.1, run := d.2, moveTo := none, forAlloc := 0, move := .idle, copyOut := false }
      let old := (if d.1 = r.frame then [] else [(r.frame, (t.groupFrame r).1)]) ++ if d.2 = r.run then [] else [(r.run, (t.groupFrame r).2)]
      ((s.giveBlocks p r.quad r.forAlloc old).settleGroup p g).dropPoisoned p g
  | _, _ => s

/-! ### Waiting allocations (R94) -/

/-- Can a waiting allocation go on? Its reservation holds a frame, or nothing that would bring one is still to come, so that
it takes the order up again. -/
def State.reserveReady (s : State) (p : Part) (r : Reserve) : Bool :=
  s.getP p false fun t =>
    (t.findFrame r.quad r.me r.fb r.rb).isSome
      || (t.incoming r.quad r.me == 0 && t.parkingSoon s.isEt r.quad == 0)
/-- FRAME_RESERVED: the first waiting allocation, in arrival order, that can go on does so: its instruction executes again, or its
promotion ahead or its pre-revival goes on. -/
def execFrameReserved (p : Part) (s : State) : Out :=
  .next <| match (s.prt p).bind fun t => t.reserves.find? fun r =>
      s.reserveReady p r && (r.me ≥ aheadHold 0 || (t.steps.find r.me).any fun k => k.st == .waiting .frame) with
  | none => s
  | some r =>
    if r.me ≥ preHold 0 then s.preRevive p (r.me - preHold 0)
    else if r.me ≥ aheadHold 0 then s.promoteAgain p (r.me - aheadHold 0)
    else s.wake ⟨p, r.me⟩

/-! ### Winnow (R85 to R88) -/

/-- Ages beyond 2^30 are brought back to it (R86). -/
def Partition.clampAges (t : Partition) (tier : Tier) : Partition :=
  { t with groups := t.groups.mapV fun _ g =>
      if g.tier = tier && t.age g > 2 ^ 30 then { g with touch := (t.epoch tier + 2 ^ 32 - 2 ^ 30) % 2 ^ 32 } else g }
/-- Bytes of a tier that demotions under way will free. -/
def Partition.leaving (t : Partition) (tier : Tier) : Nat :=
  (t.groups.map fun kv => if kv.2.tier = tier && kv.2.move = .demoting && kv.2.dest ≠ .t0 && !kv.2.cancelFree
    then t.groupBytes kv.2 else 0).sum
/-- Evict candidates in order until the tier has its high-water mark free, with what is leaving. -/
def State.sweepTo (s : State) (p : Part) (tier : Tier) : List Cand → State
  | [] => s
  | c :: cs =>
    if s.getP p true fun t => t.freeBytes tier + t.leaving tier ≥ t.highMark tier then s
    else State.sweepTo (s.evict p tier c 5) p tier cs
/-- The groups of a tier that only nodes of CLOSING domains name, and that nothing holds there (05 R98, Table 4-12). -/
def Partition.closingOnly (t : Partition) (closing : BitVec 16 → Bool) (tier : Tier) : List Nat :=
  (t.groups.filter fun kv =>
    let n := (t.nodes.filter fun e => e.2.group == kv.2.h && closing e.2.domain).length
    kv.2.tier == tier && !kv.2.pinned && kv.2.move == .idle && kv.2.st != .retiring && n != 0 && n == kv.2.refcount).map (·.1)
/-- WINNOW_SWEEP: it starts below the low-water mark, drops what only CLOSING domains name whatever its age (05 R98), and goes on to the
high-water mark. -/
def execWinnowSweep (p : Part) (tier : Tier) (s : State) : Out :=
  .next <| match s.prt p with
  | none => s
  | some t =>
    if t.share tier = 0 ∨ !(t.freeBytes tier < t.lowMark tier ∨ t.winnowOn.contains tier.code) then s
    else
      let s := s.updP p fun t => t.clampAges tier
      let closing := fun (d : BitVec 16) => (s.domains.find d.toNat).any fun r => r.st == .closing
      let s := s.forEach (s.getP p [] fun t => t.closingOnly closing tier) fun s g => s.dropGroup p g
      let cands := s.getP p [] fun t => t.winnowOrder s.isEt tier (if tier = .t0 then t.winnowMinAge else 0)
      let s := (s.sweepTo p tier cands).settleDomains
      s.updP p fun t =>
        { t with winnowOn := (t.winnowOn.filter (· ≠ tier.code))
                   ++ if t.freeBytes tier < t.highMark tier then [tier.code] else [] }

/-! ### The index and the CAM (05 R107, R113) -/

/-- INDEX_REBUILD: a chain that failed its check is built again from the LIVE nodes whose keys hash to it. -/
def execIndexRebuild (p : Part) (bucket : Nat) (s : State) : Out :=
  .next <| if s.getP p false fun t => (t.index.find bucket).any (·.bad) then
      let s := s.updP p fun t =>
        let ns := t.nodes.filter fun kv => !kv.2.lost && t.bucketOf kv.2.key == bucket
        let t := { t with index := t.index.put bucket ⟨[⟨[], .t0, 0⟩], false⟩ }.trimChains
        ns.foldl (fun t kv => (t.indexAdd s.isEt kv.2.key kv.2.domain kv.1).getD t) t
      s.count p cIdxRebuilds
    else s
/-- The partition whose row a CAM row is. -/
def State.rowOwner (s : State) (row : Nat) : Option Part := s.ownerOf (row % 256 / 4)
/-- A fix or a drop in a segment: the sixteenth of a pass disables it. -/
def State.camFix (s : State) (row counter : Nat) : State :=
  let seg := row / 256
  let n := s.cam.fixes.getD seg 0 + 1
  let s := match s.rowOwner row with
    | some p => s.count p counter
    | none => s
  let s := { s with cam := { s.cam with fixes := s.cam.fixes.put seg n } }
  if n < 16 ∨ s.cam.disabled.contains seg then s
  else
    let s := { s with cam := { s.cam with disabled := s.cam.disabled ++ [seg] } }
    let s := s.devEvent evCamSegmentDisabled 0 0 (BitVec.ofNat 64 seg)
    s.forEach (s.parts.filter fun kv => (clustersOf kv.2.clusters) ≠ []) fun s kv =>
      s.event (Fin.ofNat 16 kv.1) evCamSegmentDisabled 0 0 (BitVec.ofNat 64 seg)
/-- A node's `cam_resident` is cleared. -/
def State.camLeft (s : State) (h : Handle) : State :=
  s.updP (Fin.ofNat 16 (hPart h)) fun t => { t with nodes := t.nodes.mapV fun _ n => if n.h = h then { n with camRow := none } else n }
/-- CAM_SCRUB: one row of a quadrant against its shadow, under Table 5-9. -/
def execCamScrub (q : Quad) (s : State) : Out :=
  let n := s.cam.scrub.getD q.val 0
  let row := q.val * 262144 + n
  -- a pass begins with no fixes counted in the quadrant's segments
  let s := if n = 0 then { s with cam := { s.cam with fixes := s.cam.fixes.keep fun k _ => k / 1024 ≠ q.val } } else s
  let s := { s with cam := { s.cam with scrub := listSet s.cam.scrub q.val fun _ => (n + 1) % 262144 } }
  .next <| match s.cam.rows.find row, s.cam.shadows.find row with
  | none, none => s
  | none, some _ => { s with cam := s.cam.kill row }
  | some _, none => { s with cam := s.cam.kill row }.camFix row cScrubDrops
  | some w, some sh =>
    if sh.scrc ≠ shadowCrc sh.key sh.domain sh.model sh.node then
      ({ s with cam := s.cam.kill row }.camLeft sh.node).camFix row cScrubDrops
    else if w.key ≠ sh.key ∨ w.domain ≠ sh.domain ∨ w.model ≠ sh.model then
      { s with cam := { s.cam with rows := s.cam.rows.put row ⟨sh.key, sh.domain, sh.model, w.ref⟩ } }.camFix row cScrubFixes
    else s

end Sys2Proof.Machine
end

