-- ==== Sys2Proof/Machine/RegionGroup.lean ====
section
/-! DEFINITION. The region and transport group 0xD: regions, bindings, variants, queue pairs, work requests, armed chains,
notification words (17 R397, Tables 17-14, 17-15; 10 R228; 11 R247, R255 to R257; 12 R270 to R272, R280 to R282; 08 R191). -/

namespace Sys2Proof.Machine

/-! ### Regions as a step sees them -/

/-- A region as the step sees it: its log's creations, keys, syncs, revocations and frees included. -/
def Iss.rgn (i : Iss) (idx : Nat) : Option Region :=
  i.k.log.foldl (fun a o => match o with
    | .regCreate n r => if n = idx then some r else a
    | .regFree n => if n = idx then none else a
    | .regRegister n key => if n = idx then a.map fun r => { r with registered := true, rkey := key } else a
    | .regRevoke n => if n = idx then a.map fun r => { r with st := .revoking } else a
    | .sync n _ _ v => if n = idx && v then a.map fun r => { r with st := .valid } else a
    | _ => a) (i.t.regions.find idx)
/-- Is a domain a cross-partition one, ACTIVE, of which the partition is owner or member? -/
def State.crossMember (s : State) (p : Part) (d : BitVec 16) : Bool :=
  s.domMember p d && (s.domain? d).any fun r => r.cross && r.st == .active
/-- Does an entry of the variant table name a region? -/
def Partition.variantNames (t : Partition) (h : Handle) : Bool :=
  t.variants.any fun kv => BitVec.ofNat 64 (fld kv.2 0 8) == h && bitOf (fld kv.2 0x1C 1) 0
/-- Does a range lie in one accepted extent? -/
def Ld.inExtent (l : Ld) (a n : Nat) : Bool :=
  l.extents.any fun e => e.st == .accepted && e.dpa ≤ a && a + n ≤ e.dpa + e.len
/-- Chunks of 2 MiB of a size. -/
def chunkCount (size : Nat) : Nat := (size + chunkBytes - 1) / chunkBytes
/-- Take T0 space for some chunks, held under a number until the region is live. -/
def Partition.takeSpots (t : Partition) (me quad : Nat) : List Nat → Option (Partition × Tab (Nat × Nat))
  | [] => some (t, [])
  | c :: cs =>
    match t.stage12 ⟨0, quad, 512, 0, none, true⟩ with
    | none => none
    | some (q, f, _) =>
      (Partition.takeSpots { t with reserves := t.reserves ++ [⟨me, q, 0, 0, [(f, 512)]⟩] } me quad cs).map fun r =>
        (r.1, r.2.put c (q, f))
/-- The tier of a `tier` field (Table 17-15), none for the window. -/
def Partition.homeTier (t : Partition) (home : Nat) : Option Tier :=
  match home with
  | 0 => some .t0
  | 1 => some (if t.warmTier = 1 then .t1h else .t1b)
  | 2 => some .t2
  | _ => none
/-- Is there room for a region outside T0: in its home's share, and in T2 for the image of an authoritative one? -/
def Partition.regionRoom (t : Partition) (home cls size : Nat) : Bool :=
  let img := cls = 0 || t.freeBytes .t2 ≥ 2 * size
  let own := match t.homeTier home with
    | some .t0 => true
    | some .t2 => cls == 1 || t.freeBytes .t2 ≥ size
    | some u => t.share u ≠ 0 && t.freeBytes u ≥ size
    | none => true
  img && own
/-- The lines of the window that hold bytes in a range, as lines of a region placed there. -/
def Ld.linesIn (l : Ld) (dpa size : Nat) : Tab (List Byte) :=
  let ns := ((l.window.filter fun c => dpa ≤ c.1 && c.1 < dpa + size).map fun c => (c.1 - dpa) / 64).eraseDups
  ns.foldl (fun m n => Tab.put m n (l.window.rd (dpa + 64 * n) 64)) []
/-- A new region, UPLOADING. -/
def freshRegion (h : Handle) (size cls use_ : Nat) (resend : Bool) (home : Nat) (dom : BitVec 16) (dpa : Nat) : Region :=
  { h := h, size := size, cls := cls, use := use_, resend := resend, home := home, domain := dom, dpa := dpa, st := .uploading
    version := 0, digest := 0, name := 0, published := false, rkey := 0, registered := false, chunks := [], pins := [], spots := []
    poison := [], discarded := [], binding := none, newer := [], data := [], image := [], synced := false, warned := false
    touched := [] }

/-- RGCREATE: a new region from the block at local ga. -/
def execRgcreate (x : StepRef) (r : Bool) (h : HReg) (a : GReg) (s : State) : Out :=
  .next (s.issue x { rg := [a], wh := [h] } r fun i =>
    let zero := i.c.wh h 0
    let ad := (i.c.rg a).toNat
    if !(localOk i.prog.data ad 24 8) then (i.s, .fault .accessViolation false)
    else
      let b := i.k.peek i.prog.data ad 24
      let size := fld b 0 8
      let cls := fld b 8 1
      let fl := fld b 9 1
      let use_ := bitsOf fl 3 1
      let home := fld b 0xA 1
      let dom := BitVec.ofNat 16 (fld b 0xC 2)
      let dpa := fld b 0x10 8
      if size = 0 ∨ size % 4096 ≠ 0 ∨ cls > 1 ∨ fl ≥ 16 ∨ use_ > 5 ∨ (use_ ≠ 0 ∧ cls ≠ 1) ∨ home > 3 ∨ fld b 0xB 1 ≠ 0
          ∨ fld b 0xE 2 ≠ 0 ∨ (home ≠ 3 ∧ dpa ≠ 0) ∨ (home = 3 ∧ (dpa % 4096 ≠ 0 ∨ !(i.t.ld.inExtent dpa size)))
          ∨ (dom ≠ 0 ∧ !(i.s.crossMember i.p dom)) then i.bad .accessViolation zero
      else if cls = 1 ∧ i.s.flashRO then (i.s.roRefusal.statusEvent i.p .tierReadOnly 0 0, .status .tierReadOnly zero)
      else
        -- Winnow drops what it may before an authoritative region is refused for want of T2 (10 R229)
        let s := if cls = 1 then i.s.winnowT2 i.p fun s => s.getP i.p true fun t => t.regionRoom home cls size else i.s
        match s.prt i.p with
        | none => i.bad .noPage zero
        | some t =>
          if !(t.regionRoom home cls size) then (s, .status .noPage zero)
          else
            match t.newSlot i.p kRegion,
                if home = 0 then t.takeSpots (regionHold x.num) i.k.quad (List.range (chunkCount size)) else some (t, []) with
            | some n, some (t', spots) =>
              let hd := t.handleOf i.p kRegion n
              let rg := freshRegion hd size cls use_ (bitOf fl 0) home dom dpa
              let rg := { rg with spots := spots, newer := if home = 3 then t.ld.linesIn dpa size else [] }
              let s := s.updP i.p fun _ => { t' with resv := t'.resv.put (slotKey kRegion n) x.num }
              (s.log x (.regCreate n rg), .done (i.c.wh h hd))
            | _, _ => (s, .status .noPage zero))
/-- RGFREE: free region hs at stage 4. -/
def execRgfree (x : StepRef) (r : Bool) (h : HReg) (s : State) : Out :=
  .next (s.issue x { rh := [h] } r fun i =>
    let hs := i.c.rh h
    i.with kRegion hs i.c fun _ =>
      match i.rgn (hIndex hs) with
      | none => i.bad .accessViolation i.c
      | some g =>
        let ok := g.binding.isSome || g.st == .uploading || g.st == .revoked || g.st == .unbindable
          || (g.st == .valid && !g.published && !g.registered)
        if !ok || i.t.regionNamed hs || i.t.variantNames hs then i.bad .accessViolation i.c
        else (i.s.log x (.regFree (hIndex hs)), .done i.c))
/-- RGREG: register hs for remote access; ga := its key, with the slot's generation, a fresh check byte and the slot. -/
def execRgreg (x : StepRef) (r : Bool) (h : HReg) (a : GReg) (s : State) : Out :=
  .next (s.issue x { rh := [h], wg := [a] } r fun i =>
    let hs := i.c.rh h
    let zero := i.c.wg a 0
    i.with kRegion hs zero fun _ =>
      match i.rgn (hIndex hs) with
      | none => i.bad .accessViolation zero
      | some g =>
        if g.registered then i.bad .accessViolation zero
        else
          let f := i.s.fresh
          let key : BitVec 32 := BitVec.ofNat 8 (hGen hs) ++ Config.checkByte f.1 ++ BitVec.ofNat 16 (hIndex hs)
          (f.2.log x (.regRegister (hIndex hs) key), .done (i.c.wg a (key.zeroExtend 64))))
/-- RGREVOKE: VALID to REVOKING at the commit; deferred. -/
def execRgrevoke (x : StepRef) (r : Bool) (h : HReg) (s : State) : Out :=
  .next (s.issue x { rh := [h] } r fun i =>
    let hs := i.c.rh h
    i.with kRegion hs i.c fun _ =>
      if !i.mayDefer || !((i.rgn (hIndex hs)).any fun g => g.registered && g.st == .valid) then i.bad .accessViolation i.c
      else (i.s.defer x (.revoke (hIndex hs)) (.regRevoke (hIndex hs)), .done i.c))
/-- RSYNC: sync of bytes ga to ga + gb − 1 of hs at the commit; `validate` makes the whole region VALID. -/
def execRsync (x : StepRef) (r : Bool) (h : HReg) (a b : GReg) (validate : Bool) (s : State) : Out :=
  .next (s.issue x { rh := [h], rg := [a, b] } r fun i =>
    let hs := i.c.rh h
    let off := (i.c.rg a).toNat
    let n := (i.c.rg b).toNat
    i.with kRegion hs i.c fun _ =>
      match i.rgn (hIndex hs) with
      | none => i.bad .accessViolation i.c
      | some g =>
        if off + n > g.size ∨ g.binding.isSome ∨ (validate ∧ (g.st ≠ .uploading ∨ g.domain ≠ 0)) then i.bad .accessViolation i.c
        else if g.cls = 1 ∧ i.s.flashRO then (i.s.roRefusal.statusEvent i.p .tierReadOnly hs 0, .status .tierReadOnly i.c)
        else (i.s.log x (.sync (hIndex hs) off n validate), .done i.c))
/-- RGDISCARD: discard of bytes ga to ga + gb − 1 of a recomputable region homed in T2. -/
def execRgdiscard (x : StepRef) (r : Bool) (h : HReg) (a b : GReg) (s : State) : Out :=
  .next (s.issue x { rh := [h], rg := [a, b] } r fun i =>
    let hs := i.c.rh h
    let off := (i.c.rg a).toNat
    let n := (i.c.rg b).toNat
    i.with kRegion hs i.c fun _ =>
      match i.rgn (hIndex hs) with
      | none => i.bad .accessViolation i.c
      | some g =>
        if g.cls ≠ 0 ∨ g.home ≠ 2 ∨ g.binding.isSome ∨ off + n > g.size then i.bad .accessViolation i.c
        else (i.s.log x (.discard (hIndex hs) off n), .done i.c))
/-- RGPUBLISH: publish hs under name ga as version gb[31:0]; deferred, decided at the commit. -/
def execRgpublish (x : StepRef) (r : Bool) (h : HReg) (a b : GReg) (s : State) : Out :=
  .next (s.issue x { rh := [h], rg := [a, b] } r fun i =>
    let hs := i.c.rh h
    i.with kRegion hs i.c fun _ =>
      match i.rgn (hIndex hs) with
      | none => i.bad .accessViolation i.c
      | some g =>
        if !i.mayDefer || g.st ≠ .uploading || g.cls ≠ 1 || g.domain = 0 || !(i.s.crossMember i.p g.domain) then
          i.bad .accessViolation i.c
        else (i.s.defer x .none (.publish (hIndex hs) (i.c.rg a) ((i.c.rg b).toNat % 2 ^ 32)), .done i.c))
/-- The newest VALID version of a publication: whose it is, and its region. -/
def State.published (s : State) (dom : BitVec 16) (name : Word) : Option (Nat × Nat × Region) :=
  ((s.parts.map fun kv => (kv.2.regions.filter fun e =>
    e.2.published && e.2.st == .valid && e.2.domain == dom && e.2.name == name).map fun e => (kv.1, e.1, e.2)).flatten).head?
/-- RGBIND: a binding region from the block at local ga. -/
def execRgbind (x : StepRef) (r : Bool) (h : HReg) (a : GReg) (s : State) : Out :=
  .next (s.issue x { rg := [a], wh := [h] } r fun i =>
    let zero := i.c.wh h 0
    let ad := (i.c.rg a).toNat
    if !(localOk i.prog.data ad 16 8) then (i.s, .fault .accessViolation false)
    else
      let b := i.k.peek i.prog.data ad 16
      let dom := BitVec.ofNat 16 (fld b 0 2)
      let mode := fld b 2 1
      let name := BitVec.ofNat 64 (fld b 8 8)
      match i.s.published dom name, i.t.newSlot i.p kRegion with
      | some (o, n, g), some slot =>
        if mode > 1 ∨ fld b 3 5 ≠ 0 ∨ !(i.s.crossMember i.p dom) then i.bad .accessViolation zero
        else
          let hd := i.t.handleOf i.p kRegion slot
          let rg := { freshRegion hd g.size g.cls g.use g.resend 2 dom 0 with
            st := .valid, name := name, version := g.version, binding := some ⟨o, name, dom, n, mode == 1⟩ }
          let s := i.s.updP i.p fun t => { t with resv := t.resv.put (slotKey kRegion slot) x.num }
          (s.log x (.regCreate slot rg), .done (i.c.wh h hd))
      | some _, none => if i.s.crossMember i.p dom then i.bad .noPage zero else i.bad .accessViolation zero
      | none, _ => i.bad .accessViolation zero)
/-- VARSET: variant entry of expert gb[15:0] of variant gb[21:16] := the 32-byte image at local ga, at stage 4. -/
def execVarset (x : StepRef) (r : Bool) (a b : GReg) (s : State) : Out :=
  .next (s.issue x { rg := [a, b] } r fun i =>
    let ad := (i.c.rg a).toNat
    let w := (i.c.rg b).toNat
    if !i.priv then i.bad .accessViolation i.c
    else if !(localOk i.prog.data ad 32 8) then (i.s, .fault .accessViolation false)
    else
      let b := i.k.peek i.prog.data ad 32
      let fl := fld b 0x1C 1
      let hd : Handle := BitVec.ofNat 64 (fld b 0 8)
      let okRegion := !(bitOf fl 0) || ((i.check kRegion hd).isNone && (i.rgn (hIndex hd)).any fun g =>
        if g.binding.isSome then i.s.crossMember i.p g.domain else g.use == 4 || (g.published && i.s.crossMember i.p g.domain))
      if w ≥ 2 ^ 22 ∨ w % 65536 ≥ 1024 ∨ fl ≥ 4 ∨ fld b 0x1D 3 ≠ 0 ∨ !okRegion then i.bad .accessViolation i.c
      else (i.s.log x (.varset (w / 65536) (w % 65536) b), .done i.c))

/-! ### Queue pairs (12 R270 to R272) -/

/-- A queue pair's reservation by a step is kept under kind 8. -/
def kQp := 8
/-- The connection controls at their reset values (12 Table 12-13). -/
def QpCtl.reset : QpCtl :=
  { wSsMax := 0x40000, wMax := 0x200000, wAi := 0x1000, mdEcn := 0xE0, mdLoss := 0x80, rtoMin := 0x32, retryMax := 7 }
/-- The connection controls as a partition's registers have them. -/
def Partition.qpCtl (t : Partition) : QpCtl :=
  { wSsMax := t.reg 0x480, wMax := t.reg 0x484, wAi := t.reg 0x488, mdEcn := t.reg 0x48C, mdLoss := t.reg 0x490
    rtoMin := t.reg 0x494, retryMax := t.reg 0x498 }
/-- A new queue pair from its block (Table 17-15). -/
def qpFrom (b : List Byte) : Qp :=
  { queue := 0, st := .init, passive := bitOf (fld b 2 1) 0, port := fld b 0 1, tc := fld b 1 1, tenant := fld b 4 2
    peerAddr := BitVec.ofNat 128 (beNat ((b.drop 0x10).take 16)), peerQpn := fld b 6 2, payload := 0
    recvRegion := BitVec.ofNat 64 (fld b 8 8), sndNxt := 0, sndUna := 0, rcvEpsn := 0, rcvLog := [], msgNext := 0, msgOut := 0
    msgs := [], ringAt := 0, ringUsed := 0, inbox := [], notes := [], held := [], stalledAt := none, unacked := 0
    eceDue := false, work := [], nextId := 1, out := [], cwnd := 0, inflight := 0, ss := true, srtt := 0, rttvar := 0, rto := 0
    timeouts := 0, pausedUntil := none, cutEcn := none, cutLoss := none, tries := 0, retryAt := 0, why := .ok, waiter := none
    violAt := [], ctl := QpCtl.reset }
/-- A queue pair as the step sees it. -/
def Iss.qp (i : Iss) (n : Nat) : Option Qp :=
  i.k.log.foldl (fun a o => match o with
    | .qpCreate m b => if m = n then some (qpFrom b) else a
    | .qpConnect m => if m = n then a.map fun q => { q with st := .connecting } else a
    | .qpDisc m => if m = n then a.map fun q => { q with st := .draining } else a
    | .qpDestroy m => if m = n then none else a
    | _ => a) (i.t.qps.find n)
/-- Queue-pair numbers of a partition: 1 to 1,024 · c − 1. -/
def Partition.qpLimit (t : Partition) : Nat := 1024 * (clustersOf t.clusters).length
/-- QPCREATE: ga := a new queue pair in INIT, from the block at local gb. -/
def execQpcreate (x : StepRef) (r : Bool) (a b : GReg) (s : State) : Out :=
  .next (s.issue x { rg := [b], wg := [a] } r fun i =>
    let zero := i.c.wg a 0
    let ad := (i.c.rg b).toNat
    if !(localOk i.prog.data ad 32 8) then (i.s, .fault .accessViolation false)
    else
      let b := i.k.peek i.prog.data ad 32
      let port := fld b 0 1
      let tc := fld b 1 1
      let rr : Handle := BitVec.ofNat 64 (fld b 8 8)
      let rrOk := rr = 0 || ((i.check kRegion rr).isNone && (i.rgn (hIndex rr)).any Region.device)
      if port ≥ 16 ∨ !(i.t.binding.ports.getLsbD port) ∨ tc > 6 ∨ !(i.t.binding.tcAllow.getLsbD tc) ∨ fld b 2 1 ≥ 2 ∨ fld b 3 1 ≠ 0
          ∨ fld b 4 2 ≥ 4096 ∨ (i.tenant (fld b 4 2)).isNone ∨ !rrOk then i.bad .accessViolation zero
      else if (i.s.parts.map fun kv => kv.2.qps.length).sum ≥ 65536 then i.bad .noPage zero
      else
        match lowestSlot (fun n => !(i.t.qps.has n) && !(i.t.resv.has (slotKey kQp n))) (i.t.qpLimit - 1) 1 with
        | none => i.bad .noPage zero
        | some n =>
          let s := i.s.updP i.p fun t => { t with resv := t.resv.put (slotKey kQp n) x.num }
          (s.log x (.qpCreate n b), .done (i.c.wg a (BitVec.ofNat 64 n))))
/-- QPCONNECT: connect queue pair ga, in INIT and not passive; deferred. -/
def execQpconnect (x : StepRef) (r : Bool) (a : GReg) (s : State) : Out :=
  .next (s.issue x { rg := [a] } r fun i =>
    let n := (i.c.rg a).toNat
    if !i.mayDefer || !((i.qp n).any fun q => q.st == .init && !q.passive) then i.bad .accessViolation i.c
    else (i.s.defer x (.connect n) (.qpConnect n), .done i.c))
/-- QPDISC: disconnect queue pair ga from READY; deferred. -/
def execQpdisc (x : StepRef) (r : Bool) (a : GReg) (s : State) : Out :=
  .next (s.issue x { rg := [a] } r fun i =>
    let n := (i.c.rg a).toNat
    if !i.mayDefer || !((i.qp n).any fun q => q.st == .ready) then i.bad .accessViolation i.c
    else (i.s.defer x (.disconnect n) (.qpDisc n), .done i.c))
/-- QPDESTROY: queue pair ga from INIT or ERROR to FREE at stage 4. -/
def execQpdestroy (x : StepRef) (r : Bool) (a : GReg) (s : State) : Out :=
  .next (s.issue x { rg := [a] } r fun i =>
    let n := (i.c.rg a).toNat
    if !((i.qp n).any fun q => q.st == .init || q.st == .error) then i.bad .accessViolation i.c
    else (i.s.log x (.qpDestroy n), .done i.c))

/-! ### Work requests and chains (12 R281, 17 R397) -/

/-- A work request from its 48 bytes. -/
def workFrom (b : List Byte) : WorkReq :=
  { id := 0, op := fld b 0 1, final := bitOf (fld b 1 1) 0, trigOn := bitOf (fld b 1 1) 1, areq := bitOf (fld b 1 1) 2
    rkey := BitVec.ofNat 32 (fld b 4 4), region := BitVec.ofNat 64 (fld b 8 8), loff := fld b 0x10 8, roff := fld b 0x18 8
    len := fld b 0x20 4, trig := BitVec.ofNat 32 (fld b 0x24 4), tag := BitVec.ofNat 32 (fld b 0x28 4), data := none
    chain := none, msgNum := 0, sent := 0, psn := 0, got := [], status := .ok, acked := false }
/-- The request rules: the status that refuses a work request, if one does. -/
def Iss.workBad (i : Iss) (b : List Byte) : Option Status :=
  let w := workFrom b
  let fl := fld b 1 1
  if w.op = 0 ∨ w.op > 3 ∨ fl ≥ 8 ∨ (w.trigOn ∧ !w.final) ∨ fld b 2 2 ≠ 0 ∨ fld b 0x2C 4 ≠ 0 ∨ w.len = 0 ∨ w.len > 1048576
      ∨ (w.op = 1 ∧ w.rkey ≠ 0) then some .accessViolation
  else
    match i.check kRegion w.region with
    | some st => some st
    | none =>
      if (i.rgn (hIndex w.region)).any fun g => w.loff + w.len ≤ g.size && (w.op != 3 || g.device) then none
      else some .accessViolation
/-- QPPOST: post the work request at local gb on queue pair ga, at stage 6 or now. -/
def execQppost (x : StepRef) (r : Bool) (a b : GReg) (now : Bool) (s : State) : Out :=
  .next (s.issue x { rg := [a, b] } r fun i =>
    let n := (i.c.rg a).toNat
    let ad := (i.c.rg b).toNat
    if !(localOk i.prog.data ad 48 8) then (i.s, .fault .accessViolation false)
    else
      let b := i.k.peek i.prog.data ad 48
      match i.workBad b with
      | some st => (i.s.handleEvent i.p kRegion (workFrom b).region, .status st i.c)
      | none =>
        if !((i.qp n).any fun q => q.st == .ready) then i.bad .accessViolation i.c
        else if now then
          (i.s.updP i.p fun t => { t with qps := t.qps.upd n fun q => q.push (workFrom b) }, .done i.c)
        else (i.s.log x (.qpPost n b), .done i.c))
/-- The key of an armed chain. -/
def chainKey (trigger : Nat) (tag : BitVec 32) : Nat := trigger * 2 ^ 32 + tag.toNat
/-- CHARM, arming: a chain on trigger queue pair ga from the block at local gb; deferred. -/
def execCharmArm (x : StepRef) (r : Bool) (a b : GReg) (s : State) : Out :=
  .next (s.issue x { rg := [a, b] } r fun i =>
    let n := (i.c.rg a).toNat
    let ad := (i.c.rg b).toNat
    if !(localOk i.prog.data ad 16 8) then (i.s, .fault .accessViolation false)
    else
      let b := i.k.peek i.prog.data ad 16
      let cq := fld b 0 2
      let cnt := fld b 2 1
      let tag := BitVec.ofNat 32 (fld b 4 4)
      let wa := fld b 8 8
      if !(localOk i.prog.data wa (48 * cnt) 8) then (i.s, .fault .accessViolation false)
      else
        let wrs := i.k.peek i.prog.data wa (48 * cnt)
        match ((List.range cnt).filterMap fun j => i.workBad ((wrs.drop (48 * j)).take 48)).head? with
        | some st => i.bad st i.c
        | none =>
          let armed := i.t.chains.filter fun kv => kv.2.armed
          if !i.mayDefer || cnt = 0 || cnt > 32 || fld b 3 1 ≠ 0 || tag = 0 || (i.qp n).isNone || (i.qp cq).isNone
              || armed.any (fun kv => kv.1 == chainKey n tag) then i.bad .accessViolation i.c
          else if armed.length ≥ 4096 || (armed.filter fun kv => kv.1 / 2 ^ 32 == n).length ≥ 64 then i.bad .noPage i.c
          else (i.s.defer x (.chain n tag) (.chainArm n b wrs), .done i.c))
/-- CHARM, disarming: the chain of trigger ga with tag gb[31:0], resolved at the commit. A chain that is no longer armed has
met its trigger. -/
def execCharmDisarm (x : StepRef) (r : Bool) (a b : GReg) (s : State) : Out :=
  .next (s.issue x { rg := [a, b] } r fun i =>
    let n := (i.c.rg a).toNat
    let tag := (i.c.rg b).setWidth 32
    if (i.qp n).isNone then i.bad .accessViolation i.c
    else if !((i.t.chains.find (chainKey n tag)).any (·.armed)) then i.bad .abortedTooLate i.c
    else (i.s.log x (.chainDisarm n tag), .done i.c))
/-- QPNOTE: gb := the next notification word of queue pair ga, or 0; with `wait`, it waits for one. -/
def execQpnote (x : StepRef) (r : Bool) (a b : GReg) (wait : Bool) (s : State) : Out :=
  .next (s.issue x { rg := [a], wg := [b] } r fun i =>
    let n := (i.c.rg a).toNat
    let zero := i.c.wg b 0
    match i.qp n with
    | none => i.bad .accessViolation zero
    | some _ =>
      match ((i.t.qps.find n).map (·.notes)).getD [] with
      | [] => if wait then (i.s, .wait (.note n)) else (i.s, .done zero)
      | w :: ws =>
        let s := i.s.updP i.p fun t =>
          { t with qps := t.qps.upd n fun q => { q with notes := ws }
                   steps := t.steps.upd x.num fun k => { k with notes := k.notes ++ [(n, w)] } }
        (s, .done (i.c.wg b w)))

end Sys2Proof.Machine
end

