-- ==== Sys2Proof/Machine/Regions.lean ====
section
/-! DEFINITION. What the commit of a step does to regions: creation, free, sync, discard, publication, the variant table
(spec 10 R228; 11 R246 to R250, R255 to R257; 01 Table 1-13; 08 R191). -/

namespace Sys2Proof.Machine

/-! ### Versions and their holds (11 R257) -/

/-- Does a use in flight read a region: a work request that a queue pair of some partition has not completed? -/
def State.versionUsed (s : State) (h : Handle) : Bool :=
  s.parts.any fun kv => kv.2.qps.any fun q => q.2.work.any fun w => w.region == h
/-- Is a version held: does a PINNED binding resolve to it, or a use in flight? -/
def State.versionHeld (s : State) (owner idx : Nat) (h : Handle) : Bool :=
  s.versionUsed h || s.parts.any fun kv => kv.2.regions.any fun e =>
    e.2.binding.any fun b => b.owner == owner && b.region == idx && !b.follow
/-- Every SUPERSEDED version that nothing holds any more becomes FREE. -/
def State.settleVersions (s : State) : State :=
  let gone := (s.parts.map fun kv => (kv.2.regions.filter fun e =>
    e.2.published && e.2.st == .superseded && !(s.versionHeld kv.1 e.1 e.2.h)).map fun e => (kv.1, e.1, e.2.h)).flatten
  s.forEach gone fun s g =>
    (s.freeRegion (Fin.ofNat 16 g.1) g.2.1).jlog g.1 jPublish 0 g.2.2 (.region g.2.1 none)

/-! ### Creation, registration, free -/

/-- Journal a region's record as it stands. -/
def State.regionRecord (s : State) (p : Part) (i jtype step : Nat) : State :=
  match s.region? p i with
  | none => s
  | some r => s.jlog p.val jtype step r.h (.region i (some r))
/-- A region comes to life (Table 1-13): what it takes in its tier counts there, its record is journaled. -/
def State.regCreate (s : State) (p : Part) (step i : Nat) (r : Region) : State :=
  let s := s.updP p fun t =>
    let t := { t with regions := t.regions.put i r, resv := t.resv.del (slotKey kRegion i) }
    let t := match if r.binding.isSome then none else t.homeTier r.home with
      | some u => t.allocated u r.size
      | none => t
    if r.cls = 1 && r.binding.isNone then t.allocated .t2 (2 * r.size) else t
  (s.unreserve p (regionHold step)).regionRecord p i jRegion step
/-- A region is freed; a binding lets its version go. -/
def State.regFree (s : State) (p : Part) (step i : Nat) : State :=
  match s.region? p i with
  | none => s
  | some r => ((s.freeRegion p i).jlog p.val jRegion step r.h (.region i none)).settleVersions
/-- A region is registered for remote access under a key. -/
def State.regRegister (s : State) (p : Part) (step i : Nat) (key : BitVec 32) : State :=
  (s.updRegion p i fun r => { r with registered := true, rkey := key }).regionRecord p i jRegion step

/-! ### Sync and discard (11 R247, R250; 10 R228) -/

/-- Take over the host's newer bytes of a range of a window region; a line wholly in the range is current then. -/
def Region.settleLines (r : Region) (off n : Nat) : Region :=
  { r with
    data := r.newer.foldl (fun d kv =>
      (List.range 64).foldl (fun d j =>
        let a := 64 * kv.1 + j
        if off ≤ a && a < off + n then Bytes.wr1 d a (kv.2.getD j 0) else d) d) r.data
    newer := r.newer.keep fun l _ => !(off ≤ 64 * l && 64 * l + 64 ≤ off + n) }
/-- Write the map units that a range touches back to the image; those that changed are written again on flash (10 R222). -/
def Region.writeBack (r : Region) (off n : Nat) : Region :=
  if n = 0 then r
  else
    let us := (List.range ((off + n - 1) / mapUnit - off / mapUnit + 1)).map (· + off / mapUnit)
    let touched := fun (a : Nat) => us.contains (a / mapUnit)
    let kept := r.image.filter fun c => !(touched c.1)
    let new := us.filter fun u => r.data.rd (u * mapUnit) mapUnit != r.image.rd (u * mapUnit) mapUnit
    { r with image := (r.data.filter fun c => touched c.1).foldl (fun m c => Bytes.wr1 m c.1 c.2) kept, synced := true
             touched := (r.touched ++ new).eraseDups }
/-- The sync of a range: the host's writes become visible, an authoritative region's units go to flash, and the interval of
R249 begins anew. -/
def Region.sync (r : Region) (off n : Nat) : Region :=
  let r := r.settleLines off n
  { (if r.cls = 1 then r.writeBack off n else r) with warned := false }
/-- RSYNC's effect. An image write drops recomputable groups first where the effective share is full (10 R229). -/
def State.regSync (s : State) (p : Part) (step i off n : Nat) (validate : Bool) : State :=
  let s := if (s.region? p i).any fun r => r.cls == 1 then
    s.winnowT2 p fun s => s.getP p true fun t => decide (t.share .t2 * 1048576 ≥ 4096 * ((t.usedOuter .t2).map (·.2)).sum + t.regionBytes .t2 + t.imageBytes)
    else s
  let s := s.updRegion p i fun r =>
    let r := r.sync off n
    if validate && r.st = .uploading then { r with st := .valid } else r
  s.regionRecord p i jSync step
/-- RGDISCARD's effect: the map units wholly inside the range. -/
def State.regDiscard (s : State) (p : Part) (i off n : Nat) : State :=
  s.updRegion p i fun r =>
    let us := (List.range (n / mapUnit + 2)).map (· + off / mapUnit)
    { r with discarded := (r.discarded ++ us.filter fun u => off ≤ u * mapUnit && (u + 1) * mapUnit ≤ off + n).eraseDups }
/-- A write to a unit ends its discard; it clears the lines it covers of the host's newer bytes too. -/
def Region.write (r : Region) (off : Nat) (bs : List Byte) : Region :=
  let hit := fun (u : Nat) => off < (u + 1) * mapUnit && u * mapUnit < off + bs.length
  let known := r.discarded.filter hit
  -- the bytes of such a unit that the write leaves keep what they read as
  let base := known.foldl (fun d u => if Config.discardReadsOld u then d else d.filter fun c => c.1 / mapUnit ≠ u) r.data
  let here := if r.cls = 0 && r.home = 2 then
    (List.range ((off + bs.length + mapUnit - 1) / mapUnit - off / mapUnit)).map (· + off / mapUnit) else []
  { r with data := base.wr off bs, discarded := r.discarded.filter fun u => !(hit u), touched := (r.touched ++ here).eraseDups }

/-! ### Publication (11 R256, Table 11-6) -/

/-- The versions of a publication: whose, which slot, and the region. -/
def State.versions (s : State) (dom : BitVec 16) (name : Word) : List (Nat × Nat × Region) :=
  (s.parts.map fun kv => (kv.2.regions.filter fun e =>
    e.2.published && (e.2.st == .valid || e.2.st == .superseded) && e.2.domain == dom && e.2.name == name).map
      fun e => (kv.1, e.1, e.2)).flatten
/-- The names of a domain that hold a slot. -/
def State.slotNames (s : State) (dom : BitVec 16) : List Word :=
  ((s.parts.map fun kv => (kv.2.regions.filter fun e =>
    e.2.published && (e.2.st == .valid || e.2.st == .superseded) && e.2.domain == dom).map fun e => e.2.name).flatten).eraseDups
/-- The owner and the members of a domain. -/
def State.domParts (s : State) (dom : BitVec 16) : List Part :=
  (List.finRange 16).filter fun p => s.domMember p dom
/-- The digest of a region: SHAKE256 over its bytes in offset order. -/
def Region.digestOf (r : Region) : Digest := shakeDigest (r.data.rd 0 r.size)
/-- What a publish decided: the status, the version, and the region's handle or null. -/
abbrev PubEnd := Status × Word × Word
/-- Count and report a lost publish. -/
def State.pubConflict (s : State) (p : Part) (i : Nat) (others : List Part) : State :=
  let s := (s.freeRegion p i).count p cPublishConflicts
  s.forEach others fun s o => s.statusEvent o .publishConflict 0 0
/-- A publish at its step's commit: the sync of the whole region, its digest, and the first row of Table 11-6 that holds. A name that has
no VALID version but a SUPERSEDED one takes the publish (DESIGN CHOICE, log entry 171). -/
def State.regPublish (s : State) (p : Part) (step i : Nat) (name : Word) (version : Nat) : State × PubEnd :=
  let v : Word := BitVec.ofNat 64 version
  match s.region? p i with
  | none => (s, .staleKey, v, 0)
  | some r =>
    if s.flashRO then (s.roRefusal, .tierReadOnly, v, r.h)
    else
      let s := s.updRegion p i fun r => r.sync 0 r.size
      let dg := ((s.region? p i).map Region.digestOf).getD 0
      let vs := s.versions r.domain name
      let live := fun (s : State) => (s.updRegion p i fun r =>
        { r with st := .valid, published := true, name := name, version := version, digest := dg }).regionRecord p i jPublish step
      match vs.find? fun e => e.2.2.st == .valid with
      | none =>
        if vs.isEmpty && (s.slotNames r.domain).length ≥ 4096 then (s, .noPage, v, r.h)
        else (live s, .ok, v, r.h)
      | some (o, n, old) =>
        if version = old.version then
          if dg = old.digest then (s.freeRegion p i, .ok, v, 0)
          else (s.pubConflict p i [p, Fin.ofNat 16 o].eraseDups, .publishConflict, v, 0)
        else if version < old.version then (s.pubConflict p i [], .publishConflict, v, 0)
        else
          match vs.find? fun e => e.2.2.st == .superseded with
          | some (so, sn, _) =>
            let holder := (s.parts.filter fun kv => kv.2.regions.any fun e =>
              e.2.binding.any fun b => b.owner == so && b.region == sn && !b.follow).map fun kv => (Fin.ofNat 16 kv.1 : Part)
            (s.pubConflict p i (holder.take 1), .publishConflict, v, 0)
          | none =>
            let s := (live s).updRegion (Fin.ofNat 16 o) n fun r => { r with st := .superseded }
            let s := s.forEach (s.domParts r.domain) fun s q => s.event q evPublished 0 0 0
            (s.settleVersions, .ok, v, r.h)

/-! ### The variant table (08 R191) -/

/-- VARSET's effect: the entry of an expert; `valid` 0 clears it. -/
def Partition.varSet (t : Partition) (variant expert : Nat) (img : List Byte) : Partition :=
  let k := variant * 1024 + expert
  { t with variants := if bitOf (fld img 0x1C 1) 0 then t.variants.put k img else t.variants.del k }

end Sys2Proof.Machine
end

