-- ==== Sys2Proof/Machine/Transport.lean ====
section
/-! DEFINITION. Ports and queue pairs: addresses and frames, class queues, packets cut from work requests, the end of work
requests, of chains and of queue pairs, connecting and disconnecting (spec 12 R261 to R272, R281 to R283, R290; 17 R397). -/

namespace Sys2Proof.Machine

/-! ### Ports -/

/-- The offset of a port's block in the device map (18 Table 18-10). -/
def portBase (n : Nat) : Nat := 0x10000 + 0x2000 * n
/-- A port's register. -/
def State.portReg (s : State) (n off : Nat) : Nat := s.devReg (portBase n + off)
/-- The gate list at reset: one entry of 1,000 ns with every gate open (12 R291). -/
def GateList.reset : GateList := { entries := [(0xFF, 1000)], base := 0, cycle := 1000 }
/-- A port at reset. Buckets start full (DESIGN CHOICE, log entry 3). -/
def Port.reset : Port :=
  { up := false, time := 0, locked := false, everLocked := false, holdover := false, good := 0, queues := []
    turns := List.replicate 8 0, tokens := List.replicate 8 0x100000, rates := List.replicate 8 0
    bursts := List.replicate 8 0x100000, polTokens := [], polRates := [], polBursts := [], devTokens := 65536, refillAt := 0
    replies := 128, oper := GateList.reset, staged := none, samples := [], dequeues := List.replicate 8 0
    latMax := List.replicate 8 (0, 0), stats := List.replicate 10 0, sent := none }
/-- A port's record. -/
def State.prtNo (s : State) (n : Nat) : Port := s.ports.getD n Port.reset
/-- Change a port. -/
def State.updPort (s : State) (n : Nat) (f : Port → Port) : State := { s with ports := s.ports.put n (f (s.prtNo n)) }
-- Counters of Table 12-19, in order
def pTxFrames := 0
def pRxFrames := 1
def pRxMalformed := 2
def pRxBadtag := 3
def pRxEarly := 4
def pRxPause := 5
def pNrDropped := 6
def pGateOversize := 7
def pCeMarked := 8
def pFaultFull := 9
/-- Count on a port. -/
def Port.count (q : Port) (c : Nat) : Port := { q with stats := listSet q.stats c fun v => (v + 1) % 2 ^ 64 }
def State.portCount (s : State) (n c : Nat) : State := s.updPort n fun q => q.count c
/-- The device sub-queue of a class queue. -/
def devSub : Nat := 16
/-- The key of a sub-queue. -/
def subKey (tc sub : Nat) : Nat := 32 * tc + sub
/-- Put a frame into a sub-queue; it carries the port time. -/
def State.enqueue (s : State) (n tc sub op : Nat) (pkt : Option Pkt) (bytes : Nat) : State :=
  s.updPort n fun q =>
    let k := subKey tc sub
    let e := q.queues.getD k ⟨[], 0⟩
    { q with queues := q.queues.put k { e with frames := e.frames ++ [⟨op, pkt, bytes, q.time⟩] } }

/-! ### Packets (12 R267 to R269) -/

-- Operations of Table 12-5
def opSend := 0x01
def opWrite := 0x02
def opReadReq := 0x03
def opReadResp := 0x04
def opAck := 0x05
def opNak := 0x06
def opConnectReq := 0x10
def opConnectRep := 0x11
def opDisconnect := 0x12

/-- Is an address an IPv4-mapped one? -/
def isV4 (a : BitVec 128) : Bool := a.toNat / 2 ^ 32 == 0xFFFF
/-- A partition's address on a port, of the peer's kind. -/
def bindAddr (b : PortBinding) (port : Nat) (v4 : Bool) : BitVec 128 :=
  if v4 then BitVec.ofNat 128 (0xFFFF * 2 ^ 32 + (b.ip4.getD port 0).toNat) else b.ip6.getD port 0
/-- Bytes of line time of a packet: Ethernet, VLAN tag, IP, UDP, VPT header, trigger, payload, ICRC, FCS, preamble and gap
(R267). -/
def lineBytes (b : PortBinding) (k : Pkt) : Nat :=
  14 + (if b.vlan = 0 then 0 else 4) + (if isV4 k.dst then 20 else 40) + 8 + 32 + (if k.trigOn then 8 else 0)
    + k.payload.length + 4 + 4 + 20
/-- A UDP source port: constant for a connection (R267). -/
def udpSource (k : Pkt) : Nat := 49152 + (k.sqp ^^^ k.dqp) % 16384
/-- The one's-complement sum of 16-bit words. -/
def inetSum : List Byte → Nat → Nat
  | [], a => a
  | [x], a => (a + x.toNat * 256) % 65535
  | x :: y :: bs, a => inetSum bs ((a + x.toNat * 256 + y.toNat) % 65535)
/-- The UDP checksum of a datagram over IPv6, which is never zero. -/
def udpSum6 (src dst : BitVec 128) (sport dport : Nat) (body : List Byte) : Nat :=
  let n := body.length + 8
  65535 - inetSum (toBe src.toNat 16 ++ toBe dst.toNat 16 ++ toBe n 4 ++ toBe 17 4 ++ toBe sport 2 ++ toBe dport 2 ++ toBe n 2 ++ [0, 0] ++ body) 0
/-- The frame of a VPT packet, layer by layer (R267): the 802.1Q tag as priority and VLAN, addresses with DF and without options on IPv4,
DSCP and ECN, UDP ports and checksum, the VPT packet, its ICRC. -/
structure VptFrame where
  tag : Option (Nat × Nat)
  v4 : Bool
  df : Bool
  src : BitVec 128
  dst : BitVec 128
  dscp : Nat
  ecn : Nat
  sport : Nat
  dport : Nat
  sum : Nat
  wire : List Byte
  icrc : List Byte
  deriving DecidableEq, Repr
/-- The frame in which a port sends a packet of a partition: ECT(0), or CE where it is marked. -/
def PortBinding.frame (b : PortBinding) (udpPort op : Nat) (k : Pkt) : VptFrame :=
  let v4 := isV4 k.dst
  let wire := vptWire k op
  let icrc := toBe (crc32c wire).toNat 4
  { tag := if b.vlan = 0 then none else some (k.tc, b.vlan), v4 := v4, df := v4, src := k.src, dst := k.dst
    dscp := b.dscp.getD k.tc 0, ecn := if k.ce then 3 else 2, sport := udpSource k, dport := udpPort
    sum := if v4 then 0 else udpSum6 k.src k.dst (udpSource k) udpPort (wire ++ icrc), wire := wire, icrc := icrc }
/-- A packet of a queue pair with nothing in it. -/
def Qp.blank (q : Qp) (b : PortBinding) (n : Nat) : Pkt :=
  { src := bindAddr b q.port (isV4 q.peerAddr), dst := q.peerAddr, fin := false, areq := false, trigOn := false, first := false
    last := false, ece := false, pause := false, tc := q.tc, ptag := b.ptag, tenant := q.tenant, dqp := q.peerQpn, sqp := n
    psn := 0, rkey := 0, aux := 0, roff := 0, trig := 0, ce := false, payload := [] }
/-- The answer to a packet: addresses and numbers changed about. -/
def Pkt.back (k : Pkt) : Pkt :=
  { k with src := k.dst, dst := k.src, dqp := k.sqp, sqp := k.dqp, fin := false, areq := false, trigOn := false, first := false
           last := false, ece := false, pause := false, psn := 0, rkey := 0, aux := 0, roff := 0, trig := 0, ce := false
           payload := [] }
/-- Send a packet on a port in a partition's sub-queue. -/
def State.emitPkt (s : State) (p : Part) (port op : Nat) (k : Pkt) : State :=
  match s.prt p with
  | none => s
  | some t => (s.enqueue port k.tc p.val op (some k) (lineBytes t.binding k)).count p cTxPackets
/-- Largest payload of a port (Table 12-2). -/
def State.portPayload (s : State) (n : Nat) : Nat := if s.portReg n 8 % 2 = 1 then 8192 else 4096
/-- A PSN some places on. -/
def psnAdd (a : BitVec 24) (n : Nat) : BitVec 24 := a + BitVec.ofNat 24 n
/-- How far a PSN is from another, signed (R269). -/
def psnDiff (a b : BitVec 24) : Int := (a - b).toInt

/-! ### The end of work requests, chains and queue pairs (R274, R281, R282; Table 12-7) -/

/-- A notification word: kind, status and tag (17 R397). -/
def noteWord (kind : Nat) (st : Status) (tag : Nat) : Word :=
  BitVec.ofNat 64 (kind * 2 ^ 56 + st.code.toNat * 2 ^ 48 + tag)
def State.updQp (s : State) (p : Part) (n : Nat) (f : Qp → Qp) : State := s.updP p fun t => { t with qps := t.qps.upd n f }
def State.qp? (s : State) (p : Part) (n : Nat) : Option Qp := (s.prt p).bind fun t => t.qps.find n
/-- The first status that is not OK. -/
def firstBadSt (a b : Status) : Status := if a = .ok then b else a
/-- One work request of a fired chain has completed; with the last, the arming RUN does. -/
def State.chainStep (s : State) (p : Part) (key : Nat) (st : Status) : State :=
  match (s.prt p).bind fun t => t.chains.find key with
  | none => s
  | some c =>
    let c := { c with done := c.done + 1, status := firstBadSt c.status st }
    if c.done ≥ c.wrs.length then
      (s.updP p fun t => { t with chains := t.chains.del key }).finish p c.q c.cid c.status (BitVec.ofNat 64 (key % 2 ^ 32))
        (BitVec.ofNat 64 c.done)
    else s.updP p fun t => { t with chains := t.chains.put key c }
/-- A work request completes: a chain's counts there, a posted one enters the notification ring. -/
def State.endWork (s : State) (p : Part) (n : Nat) (w : WorkReq) (st : Status) : State :=
  let s := s.updQp p n fun q => { q with work := q.work.filter fun e => e.id ≠ w.id }
  match w.chain with
  | some k => s.chainStep p k st
  | none => if w.data.isSome then s else s.updQp p n fun q => { q with notes := q.notes ++ [noteWord 1 st w.tag.toNat] }
/-- A chain is freed while armed: its RUN ends. -/
def State.dropChain (s : State) (p : Part) (key : Nat) (st : Status) : State :=
  match (s.prt p).bind fun t => t.chains.find key with
  | none => s
  | some c => if c.armed then
      (s.updP p fun t => { t with chains := t.chains.del key }).finish p c.q c.cid st (BitVec.ofNat 64 (key % 2 ^ 32)) 0
    else s
/-- A queue pair becomes FREE: the chains it triggers are freed. -/
def State.freeQp (s : State) (p : Part) (n : Nat) : State :=
  let ks := s.getP p [] fun t => (t.chains.filter fun kv => kv.2.armed && kv.1 / 2 ^ 32 == n).map (·.1)
  let s := s.updP p fun t => { t with qps := t.qps.del n }
  s.forEach ks fun s k => s.dropChain p k .aborted
/-- A queue pair stops carrying work: each request not completed ends with a status. -/
def State.stopWork (s : State) (p : Part) (n : Nat) (st : Status) : State :=
  let ws := ((s.qp? p n).map (·.work)).getD []
  let s := s.forEach ws fun s w => s.endWork p n w st
  (s.updQp p n fun q => { q with out := [], inflight := 0, held := [], stalledAt := none, pausedUntil := none, eceDue := false
                                 unacked := 0 }).settleVersions
/-- The RUN that waits for a queue pair's connection or end completes. -/
def State.endWaiter (s : State) (p : Part) (n : Nat) (st : Status) (r1 : Nat) : State :=
  match (s.qp? p n).bind (·.waiter) with
  | none => s
  | some w => (s.updQp p n fun q => { q with waiter := none }).finish p w.1 w.2 st (BitVec.ofNat 64 n) (BitVec.ofNat 64 r1)
/-- A queue pair enters ERROR with a status. -/
def State.failQp (s : State) (p : Part) (n : Nat) (st : Status) : State :=
  let s := (s.stopWork p n st).updQp p n fun q => { q with st := .error, why := st }
  s.endWaiter p n st 0
/-- A queue pair that disconnects, or is disconnected, becomes FREE: what is outstanding ends ABORTED. -/
def State.closeQp (s : State) (p : Part) (n : Nat) : State :=
  let k := ((s.qp? p n).map (·.work.length)).getD 0
  (((s.stopWork p n .aborted).endWaiter p n .ok k).freeQp p n)
/-- The status with which requests end that meet a queue pair which is not READY. -/
def Partition.deadStatus (t : Partition) (n : Nat) : Status :=
  match t.qps.find n with
  | some q => if q.st = .error && q.why ≠ .ok then q.why else .aborted
  | none => .aborted
/-- A chain fires: its requests join the chain queue pair's send queue; where that is not READY they complete at once. The
fired chain moves out of its tag's way. -/
def State.fireChain (s : State) (p : Part) (key : Nat) : State :=
  match (s.prt p).bind fun t => (t.chains.find key).map fun c => (t, c) with
  | none => s
  | some (t, c) =>
    let nk := ((List.range (t.chains.length + 1)).map fun j => key + 2 ^ 48 * (j + 1)).find? (fun k => !(t.chains.has k)) |>.getD key
    let s := s.updP p fun t => { t with chains := (t.chains.del key).put nk { c with armed := false } }
    if (t.qps.find c.qp).any fun q => q.st == .ready then
      s.updQp p c.qp fun q => c.wrs.foldl (fun q w => q.push { w with chain := some nk }) q
    else s.forEach c.wrs fun s _ => s.chainStep p nk (t.deadStatus c.qp)

/-! ### Cutting work requests into packets (R269, R283, R284) -/

/-- The bytes of a request's local region, or the status that stops it: a region freed since, poison, or no such version. -/
def State.workBytes (s : State) (p : Part) (w : WorkReq) (off n : Nat) : Except Status (List Byte) :=
  match w.data with
  | some bs => .ok ((bs.drop off).take n)
  | none =>
    if s.getP p true fun t => t.genOf kRegion (hIndex w.region) ≠ hGen w.region then .error .staleKey
    else match s.resolve p (hIndex w.region) with
      | none => .error .staleKey
      | some (_, _, r) =>
        if r.st = .unbindable || r.poisoned (w.loff + off) n then .error .poisonConsumed
        else .ok (r.read (w.loff + off) n)
/-- The packet of a place in a request (Table 12-5). -/
def State.workPkt (s : State) (p : Part) (n : Nat) (q : Qp) (w : WorkReq) (psn : BitVec 24) (off len : Nat) (last : Bool) :
    Except Status (Nat × Pkt) :=
  let b := s.getP p ⟨0, 0, 0, [], [], [], 0⟩ fun t => t.binding
  let fin := last && w.final
  let k := { q.blank b n with
    fin := fin, areq := last && w.areq, trigOn := fin && w.trigOn, trig := if fin && w.trigOn then w.trig else 0
    first := off == 0, last := last, psn := psn }
  match w.op with
  | 1 => (s.workBytes p w off len).map fun bs =>
      (opSend, { k with aux := BitVec.ofNat 32 w.msgNum, roff := BitVec.ofNat 64 (w.len * 2 ^ 32 + off), payload := bs })
  | 2 => (s.workBytes p w off len).map fun bs =>
      (opWrite, { k with rkey := w.rkey, aux := if fin then w.tag else 0, roff := BitVec.ofNat 64 (w.roff + off), payload := bs })
  | _ => .ok (opReadReq, { k with rkey := w.rkey, aux := BitVec.ofNat 32 w.len, roff := BitVec.ofNat 64 w.roff })
/-- Packets sent and not acknowledged: PSNs in use by the sender (R277). -/
def Qp.span (q : Qp) : Nat := (q.sndNxt - q.sndUna).toNat
/-- Send packets of a READY queue pair while its window allows: `inflight` and the packet's payload within `cwnd`, or nothing
in flight; at most 256 PSNs open; nothing new while it is paused. -/
def State.pump (s : State) (p : Part) (n : Nat) : Nat → State
  | 0 => s
  | fuel + 1 =>
    match s.qp? p n with
    | none => s
    | some q =>
      match q.work.find? fun w => w.sent < (if w.op = 3 then 1 else w.len) with
      | none => s
      | some w =>
        let len := if w.op = 3 then 0 else min q.payload (w.len - w.sent)
        let now := (s.prtNo q.port).time
        if q.st ≠ .ready || q.span ≥ 256 || (q.pausedUntil.any fun u => now < u)
            || !(q.inflight = 0 || q.inflight + len ≤ q.cwnd) then s
        else
          let last := w.op = 3 || w.sent + len = w.len
          match s.workPkt p n q w q.sndNxt w.sent len last with
          | .error st => State.pump (s.endWork p n w st) p n fuel
          | .ok (op, k) =>
            let o : OutPkt := { psn := q.sndNxt, wr := w.id, off := w.sent, len := len, last := last, sentAt := now, times := 1
                                acked := false, holeSent := false, notBefore := 0 }
            let s := s.updQp p n fun q =>
              { q with sndNxt := psnAdd q.sndNxt 1, out := q.out ++ [o], inflight := q.inflight + len
                       work := q.work.map fun e => if e.id = w.id then
                         { e with sent := if w.op = 3 then 1 else e.sent + len, psn := q.sndNxt } else e }
            State.pump (s.emitPkt p q.port op k) p n fuel
/-- Send what the queue pairs of a port may send. -/
def State.pumpPort (s : State) (port : Nat) : State :=
  s.forEach (s.parts.map fun kv => (kv.2.qps.filter fun q => q.2.port == port).map fun q => (kv.1, q.1)).flatten fun s e =>
    s.pump (Fin.ofNat 16 e.1) e.2 256

/-! ### Connecting (R271, R272, R283) -/

/-- A connection opens: windows and numbers as R283 and R284 start them. The first timeout is `rto_min` (DESIGN CHOICE, log
entry 41). -/
def Qp.opened (q : Qp) (payload : Nat) (peer : BitVec 24) (ctl : QpCtl) : Qp :=
  { q with st := .ready, payload := payload, rcvEpsn := peer, rcvLog := [], cwnd := payload, inflight := 0, ss := true, srtt := 0
           rttvar := 0, rto := ctl.rtoMin * 1000, timeouts := 0, sndUna := q.sndNxt, tries := 0, ctl := ctl }
/-- A member's queue pair number n leads to another member of the model's head group. -/
def ModelDesc.reaches (m : ModelDesc) (n : Nat) : Bool :=
  (List.range m.hgSize).any fun r => r != m.hgRank && m.hgQp.getD r 0xFFFF == n
/-- A queue pair of a partition has become READY: a member's one to its lead counts the digests of 1,024 batches again (13 R307). -/
def State.reconnected (s : State) (p : Part) (n : Nat) : State :=
  s.updP p fun t =>
    let gone := (t.models.filter fun kv => kv.2.desc.any (·.reaches n)).map (·.1)
    { t with dgLeft := gone.foldl (fun d k => d.del k) t.dgLeft }
/-- Send a CONNECT_REQ of a connecting queue pair; its initial PSN is drawn with the first. -/
def State.sendConnect (s : State) (p : Part) (n : Nat) : State :=
  match s.qp? p n with
  | none => s
  | some q =>
    let s := if q.tries = 0 then
        let f := s.fresh
        f.2.updQp p n fun q => { q with sndNxt := Config.psn f.1, sndUna := Config.psn f.1 }
      else s
    let s := s.updQp p n fun q => { q with tries := q.tries + 1 }
    match s.qp? p n with
    | none => s
    | some q =>
      let b := s.getP p ⟨0, 0, 0, [], [], [], 0⟩ fun t => t.binding
      s.emitPkt p q.port opConnectReq { q.blank b n with aux := q.sndNxt.zeroExtend 32, roff := BitVec.ofNat 64 (s.portPayload q.port) }
/-- QPCONNECT's effect: CONNECTING, and the first request goes out; its RUN waits. -/
def State.qpConnect (s : State) (p : Part) (n q : Nat) (cid : BitVec 16) : State :=
  (s.updQp p n fun e => { e with st := .connecting, waiter := some (q, cid), tries := 0 }).sendConnect p n
/-- A READY queue pair disconnects: DRAINING, and a DISCONNECT goes out behind the packets sent. -/
def State.sendDisconnect (s : State) (p : Part) (n : Nat) : State :=
  match s.qp? p n with
  | none => s
  | some e =>
    let b := s.getP p ⟨0, 0, 0, [], [], [], 0⟩ fun t => t.binding
    let o : OutPkt := { psn := e.sndNxt, wr := 0, off := 0, len := 0, last := true, sentAt := (s.prtNo e.port).time, times := 1
                        acked := false, holeSent := false, notBefore := 0 }
    let s := s.updQp p n fun e => { e with st := .draining, sndNxt := psnAdd e.sndNxt 1, out := e.out ++ [o] }
    s.emitPkt p e.port opDisconnect { e.blank b n with psn := e.sndNxt }
/-- QPDISC's effect: the queue pair disconnects, and its RUN waits. -/
def State.qpDisc (s : State) (p : Part) (n q : Nat) (cid : BitVec 16) : State :=
  let s := s.updQp p n fun e => { e with waiter := some (q, cid) }
  if (s.qp? p n).any fun e => e.st == .ready then s.sendDisconnect p n else s.endWaiter p n .ok 0
/-- QPPOST's effect at stage 6: the request joins the send queue; a queue pair that has left READY completes it with its
status in the ring (17 Table 17-14). -/
def State.qpPost (s : State) (p : Part) (n : Nat) (w : WorkReq) : State :=
  if (s.qp? p n).any fun q => q.st == .ready then s.updQp p n fun q => q.push w
  else
    let st := s.getP p .aborted fun t => t.deadStatus n
    s.updQp p n fun q => { q with notes := q.notes ++ [noteWord 1 st w.tag.toNat] }
/-- CHARM's effect: the chain is armed for its RUN. -/
def Partition.chainArm (t : Partition) (trigger : Nat) (blk wrs : List Byte) (q : Nat) (cid : BitVec 16) : Partition :=
  let ws := (List.range (fld blk 2 1)).map fun j => workFrom ((wrs.drop (48 * j)).take 48)
  let c : Chain32 := { armed := true, qp := fld blk 0 2, wrs := ws, q := q, cid := cid, done := 0, status := .ok }
  { t with chains := t.chains.put (chainKey trigger (BitVec.ofNat 32 (fld blk 4 4))) c }

end Sys2Proof.Machine
end

