-- ==== Sys2Proof/Machine/Migration.lean ====
section
/-! DEFINITION. Migration of a session, its start: the source's stream of records and the successor's receiving record
(spec 09 R208, R209; 15 R363). -/

namespace Sys2Proof.Machine

/-! ### The stream (R209). The bodies are the model's own layout (DESIGN CHOICE, log entry 38). -/

/-- Body of the session record: geometry of its model, then the fields of Table 1-8 in order. -/
def sessBody (m : ModelDesc) (ss : Session) : List Byte :=
  toLe m.layers 2 ++ toLe m.kvHeads 1 ++ toLe m.qPerKv 1 ++ toLe m.headDim 2 ++ toLe m.kvFmt 1
    ++ toLe (b2n ss.preemptible + 2 * ss.priority) 1
    ++ toLe ss.h.toNat 8 ++ toLe ss.tenant 2 ++ toLe ss.domain.toNat 2 ++ toLe ss.model.toNat 2 ++ toLe ss.parkReason 2
    ++ toLe ss.ttl 8 ++ toLe (ss.durClass + 65536 * ss.durN) 4 ++ toLe ss.committedTokens 4
    ++ (ss.seqs.map fun h => toLe h.toNat 8).flatten ++ toLe ss.history.toNat 8 ++ toLe ss.sampler.toNat 8 ++ toLe ss.scratch.toNat 8
/-- Body of a sequence record: its place in the session, `hg_seq`, lengths, then the page table and the key column over its blocks. -/
def seqBody (i : Nat) (sq : Sequence) : List Byte :=
  let bs := List.range ((sq.committed + 63) / 64)
  toLe i 1 ++ toLe 0 3 ++ toLe sq.hgSeq 4 ++ toLe sq.committed 4 ++ toLe sq.rc 4
    ++ (bs.map fun b => toLe (sq.table.getD b 0).toNat 8).flatten ++ (bs.map fun b => toLe (sq.keys.getD b 0).toNat 16).flatten
/-- Body of a region record: 0 history, 1 sampler, 2 scratch; its size and its bytes. -/
def regionBody (i : Nat) (r : Region) : List Byte := toLe i 1 ++ toLe 0 7 ++ toLe r.size 8 ++ r.data.rd 0 r.size
/-- A tile as it travels: header, seal, bytes (R72). -/
def Group.sentTile (g : Group) (m : ModelDesc) (page : Nat) (v : Bool) : List Byte :=
  let r := g.recOf page
  g.header m page v ++ toLe (if v then r.sealV else r.sealK).toNat 8 ++ g.tile m page v
/-- Body of a page group: the sequence's place, the block, the metadata block, then K and V tile of each page. -/
def groupBody (i : Nat) (g : Group) (m : ModelDesc) : List Byte :=
  toLe i 1 ++ toLe 0 3 ++ toLe g.block 4 ++ g.metaBlock m
    ++ ((List.range m.pages).map fun pg => g.sentTile m pg false ++ g.sentTile m pg true).flatten
/-- Bytes of a tile as it travels, and where a page's tile lies in the body of its group. -/
def ModelDesc.sentBytes (m : ModelDesc) : Nat := 40 + tileBytes m.kvFmt m.mx m.headDim
def ModelDesc.sentAt (m : ModelDesc) (page : Nat) (v : Bool) : Nat := 4104 + (2 * page + b2n v) * m.sentBytes
/-- The group that a body describes, under its own handle: committed rows from the metadata block, rows and seals from the tiles. -/
def sentGroup (m : ModelDesc) (body : List Byte) (blank : Handle → Group) : Group :=
  let f := fun (pg : Nat) (v : Bool) => body.drop (m.sentAt pg v)
  let n := tileBytes m.kvFmt m.mx m.headDim
  let g := blank (BitVec.ofNat 64 (fld body 8 8))
  let rows := fun (pg : Nat) => min 64 (fld (f pg false) 0xE 1)
  { g with
    filled := min 64 (fld body 0x2D 1), rows := ((List.range m.pages).map rows).foldl max 0
    recs := (List.range m.pages).map fun pg =>
      (pg, (⟨BitVec.ofNat 64 (fld (f pg false) 32 8), BitVec.ofNat 64 (fld (f pg true) 32 8), true, false, false, rows pg⟩ : PageRec))
    data := (List.range m.pages).foldl (fun d pg =>
      [false, true].foldl (fun d v => Bytes.wr d (tileOff m pg v) (((f pg v).drop 40).take n)) d) [] }
/-- Do the headers of a body's tiles describe what came, and do the seals hold (R209)? The tiles' model is the source's. -/
def sentSealsOk (m : ModelDesc) (body : List Byte) (g : Group) : Bool :=
  (List.range m.pages).all fun pg => [false, true].all fun v =>
    (body.drop (m.sentAt pg v)).take 32 == g.header m pg v
      && g.seal m pg v == if v then (g.recOf pg).sealV else (g.recOf pg).sealK
/-- Does the page mode send a group (R208)? -/
def sendsGroup (pmode : Nat) (g : Group) : Bool := pmode == 1 || (pmode == 2 && g.tier != .t2)
/-- The groups that a stream carries. -/
def Partition.sentGroups (t : Partition) (ss : Session) (pmode : Nat) : List Group :=
  (((t.seqsOf ss).map fun kv => kv.2.table.map (·.2)).flatten).filterMap fun h =>
    (t.groups.find (hIndex h)).bind fun g => if h ≠ 0 && g.h = h && sendsGroup pmode g then some g else none
/-- The records of a stream in order: type and body. -/
def Partition.migRecords (t : Partition) (m : ModelDesc) (ss : Session) (pmode : Nat) : List (Nat × List Byte) :=
  let seqs := (List.range ss.seqs.length).filterMap fun i =>
    (ss.seqs[i]?).bind fun h => (t.sequences.find (hIndex h)).bind fun q => if q.h = h then some (i, q) else none
  let regs := (List.range 3).filterMap fun i =>
    (t.regions.find (hIndex ([ss.history, ss.sampler, ss.scratch].getD i 0))).map fun r => (3, regionBody i r)
  let groups := (seqs.map fun e => (e.2.table.filterMap fun b => (t.groups.find (hIndex b.2)).bind fun g =>
    if b.2 ≠ 0 && g.h = b.2 && sendsGroup pmode g then some (4, groupBody e.1 g m) else none)).flatten
  [(1, sessBody m ss)] ++ (seqs.map fun e => (2, seqBody e.1 e.2)) ++ regs ++ groups ++ [(5, [])]
/-- A record as it travels: header, then the body encrypted under the stored migration key with its tag; the nonce is `mig_id` and the
record's number, the associated data the header (R209, R363). -/
def migWire (key : List Byte) (id : Word) (n kind : Nat) (body : List Byte) : List Byte :=
  let hdr := toLe kind 1 ++ toLe 0 3 ++ toLe (body.length + 16) 4 ++ toLe id.toNat 8
  hdr ++ Config.gcm key (toLe id.toNat 8 ++ toLe n 4) hdr body
/-- The write of a record into the successor's receiving region; the end record's is FINAL. -/
def migWork (id : Word) (off : Nat) (bytes : List Byte) (fin : Bool) : WorkReq :=
  { msgWork bytes with op := 2, final := fin, rkey := Config.migKey id, roff := off }
/-- Put the records of a stream on a queue pair, one behind the other in the region. -/
def Qp.pushStream (q : Qp) (key : List Byte) (id : Word) : Nat → Nat → List (Nat × List Byte) → Qp
  | _, _, [] => q
  | n, off, (kind, body) :: rs =>
    let w := migWire key id n kind body
    Qp.pushStream (q.push (migWork id off w (kind == 5))) key id (n + 1) (off + w.length) rs
/-- The record of a migration (09 R208), at its start. -/
def Migration.fresh (source : Bool) (id : Word) (sess : Option Nat) (hSess : Handle) (qp pmode q : Nat) (cid : BitVec 16) (region : Nat)
    (fields : List Byte) (hadReason : Nat) : Migration :=
  { source := source, id := id, sess := sess, hSess := hSess, qp := qp, pmode := pmode, q := q, cid := cid, region := region, fields := fields
    records := [], imported := false, confirmed := false, jseq := none, hadReason := hadReason }
/-- SMIGOUT's start: the session is MIGRATING, off the parked list, and its records go out; the move engine reads the groups among them at
priority 6 (04 R92). -/
def State.migOutStart (s : State) (p : Part) (sess qp pmode : Nat) (id : Word) (q : Nat) (cid : BitVec 16) : State :=
  match (s.prt p).bind fun t => (t.sessions.find sess).map fun ss => (t, ss) with
  | none => s.finish p q cid .staleKey id 0
  | some (t, ss) =>
    let mg := Migration.fresh true id (some sess) ss.h qp pmode q cid 0 [] (if ss.st = .parked then ss.parkReason else 0)
    let recs := ((t.model? ss.model).map fun m => t.migRecords m ss pmode).getD []
    let gone := fun (r : Session) => { r with st := .migrating, ttl := 0 }
    let push := fun (e : Qp) => if e.st = .ready then e.pushStream t.wrapped.mig id 0 0 recs else e
    let s := s.forEach (t.sentGroups ss pmode) fun s g => s.addCopy (pathKey g.tier g.quad) p .background 6 (t.groupBytes g)
    s.updP p fun t =>
      { t with migrations := t.migrations.put id.toNat mg, sessions := t.sessions.upd sess gone
               parked := t.parked.filter (· ≠ sess), qps := t.qps.upd qp push }
/-- SMIGIN's start: the partition waits for the stream. -/
def State.migInStart (s : State) (p : Part) (id : Word) (region : Nat) (fields : List Byte) (q : Nat) (cid : BitVec 16) : State :=
  s.updP p fun t =>
    { t with migrations := t.migrations.put id.toNat (Migration.fresh false id none 0 0 0 q cid region fields 0) }

end Sys2Proof.Machine
end

