-- ==== Sys2Proof/Machine/Commit.lean ====
section
/-! DEFINITION. The commit of a step, stages 1 to 5: what it waits for, what squashes it, the lengths it advances, the rows it
trims, the log it applies, the records it writes (spec 03 Table 3-9; 06 Table 6-6; 08 R172, R182; 09 R211; 13 R303, R317). -/

namespace Sys2Proof.Machine

/-! ### Stage 3: lengths and rows -/

/-- Positions that a step commits on its sequence: the first and how many. A follower takes the lead's new length. -/
def Step.advanceOf (k : Step) (given : Option Nat) : Option (Nat × Nat) :=
  if k.kind = 1 || k.kind = 2 then
    k.appended.map fun a =>
      match given with
      | some len => (a.1, min a.2 (len - a.1))
      | none => if k.kind = 1 then a else (a.1, min a.2 ((k.sampled.map (·.accepted)).getD 0))
  else none
/-- The committed rows of a block when its sequence is `len` long. -/
def rowsAt (len block : Nat) : Nat := min 64 (len - 64 * block)
/-- Give a block of the step's append its committed rows: rejected rows go, a block filled is FULL; a group opened only for
rejected rows is freed, and the log forgets it. -/
def State.settleBlock (s : State) (x : StepRef) (m : ModelDesc) (seq len block : Nat) : State :=
  match (s.prt x.part).bind fun t => (t.steps.find x.num).bind fun k => (t.entryOf k seq block).map fun h => (k, h) with
  | none => s
  | some (_, h) =>
    let g := hIndex h
    if rowsAt len block = 0 then
      let s := s.updStep x fun k =>
        { k with opened := k.opened.filter (· ≠ g), pins := k.pins.filter (· ≠ g)
                 log := k.log.filter fun o => match o with
                   | .entry q b e => !(q == seq && b == block && e == h)
                   | .refUp n => n != g
                   | _ => true }
      if (s.group? x.part g).any fun r => r.openedBy == some x.num then
        s.dropOpened x.part g
      else s.trimGroup x.part g
    else
      s.updGroup x.part g fun r =>
        let n := rowsAt len block
        { r.trimTo { r with filled := n } m n with rows := n, st := if n = 64 then .full else r.st }
/-- Stage 3 for the blocks that the step appended to. -/
def State.settleRows (s : State) (x : StepRef) (m : ModelDesc) (seq first cnt len : Nat) : State :=
  if cnt = 0 then s
  else s.forEach ((List.range ((first + cnt - 1) / 64 - first / 64 + 1)).map (· + first / 64)) fun s b =>
    s.settleBlock x m seq len b

/-! ### Stage 4: the log -/

/-- End the live requests of a sequence. -/
def State.endSeqReqs (s : State) (p : Part) (seq : Nat) (st : Status) : State :=
  s.forEach (s.getP p [] fun t => t.live.filter fun l => l.req.any fun r => r.seq == seq) fun s l =>
    s.endReq p l.q l.ent.cid st 9
/-- SQFREE's effect: now, or at the boundary of the sequence's open step. -/
def State.seqFreeAt (s : State) (p : Part) (num seq : Nat) : State :=
  match s.seq? p seq with
  | none => s
  | some sq =>
    if sq.openStep.isSome && sq.openStep ≠ some num then s.updSeq p seq fun q => { q with freeAtEnd := true }
    else (s.endSeqReqs p seq .staleKey).freeSeq p seq
/-- SPARK's effect: an update of a PARKED session at once (09 R198), a park now or at the session's next boundary; a revival that has
begun and not committed stops first (Table 9-4). What a new `demote` asks for starts at stage 6. -/
def State.parkAt (s : State) (p : Part) (num sess : Nat) (a : ParkArgs) : State :=
  let s := s.updStep ⟨p, num⟩ fun k => { k with recDue := true }
  if (s.sess? p sess).any fun r => r.st == .parked then (s.parkNow p sess a num false false).1
  else
    let s := if (s.sess? p sess).any fun r => r.st == .reviving then s.stopRevival p sess .aborted else s
    if s.getP p false fun t => t.sessBusy sess num then s.updSess p sess fun r => { r with pendPark := some a }
    else (s.parkNow p sess a num true false).1
/-- SCLOSE's effect: a revival that has not committed stops (Table 9-4), and the session is freed now or at its next boundary. -/
def State.closeAt (s : State) (p : Part) (num sess : Nat) : State :=
  let s := (s.updStep ⟨p, num⟩ fun k => { k with recDue := true }).stopRevival p sess .aborted false
  if s.getP p false fun t => t.sessBusy sess num then s.updSess p sess fun r => { r with pendClose := some num }
  else
    let r := s.freeSession p sess evSessionClosed num
    r.1.recFor p num r.2
/-- Journal an object's record (13 Table 13-10). -/
def State.objRecord (s : State) (p : Part) (step : Nat) (b : JBody) : State := s.jlog p.val jObject step 0 b
/-- PTFORK's effect (05 R103, 08 R430): references, entries, keys, lengths, coarse index, and the parent's words. A block that has an
entry of its own, a copy made where no reference could be taken (04 R84), keeps it. -/
def State.forkSeq (s : State) (p : Part) (dst src : Nat) : State :=
  match s.seq? p src, s.seq? p dst with
  | some o, some d =>
    let new := o.table.filter fun e => !(d.table.has e.1)
    let s := s.forEach new fun s e => if e.2 = 0 then s else s.refUp p (hIndex e.2)
    let s := s.updSeq p dst fun q =>
      { q with table := new.foldl (fun tb e => tb.put e.1 e.2) q.table, keys := o.keys, committed := o.committed, rc := o.rc }
    let s := match (s.sess? p (hIndex o.sess)).bind fun ss => s.getP p none fun t => t.model? ss.model with
      | some m => s.forkCoarse p m dst o
      | none => s
    s.updP p fun t => (List.range (o.committed + o.rc + 1)).foldl (fun (t : Partition) i => t.setToken d i (t.token o i)) t
  | _, _ => s
/-- MVCOPY's effect: the staged bytes replace the destination's. -/
def State.unstage (s : State) (p : Part) (k : Step) (ticket : Nat) : State :=
  match k.moves.find ticket with
  | none => s
  | some m => if m.status = .ok then s.updRegion p m.dst fun r => r.write m.dstOff m.data else s
/-- Apply one change of a step's log at stage 4. -/
def State.applyOp (s : State) (x : StepRef) (k : Step) (o : LogOp) : State :=
  let p := x.part
  match o with
  | .entry q b h => s.updSeq p q fun sq => { sq with table := sq.table.put b h }
  | .refUp g => s.refUp p g
  | .refDown g => s.refDown p g
  | .key q b key => s.updSeq p q fun sq => { sq with keys := sq.keys.put b key }
  | .setLen q len rc => s.updSeq p q fun sq => { sq with committed := len, rc := rc }
  | .demote _ _ => s
  | .fork d r => s.forkSeq p d r
  | .domActive id =>
    let s := { s with domains := s.domains.upd id.toNat fun d => { d with st := .active, reserved := none } }
    s.objRecord p k.num (.domain id.toNat (s.domains.find id.toNat))
  | .domClose id =>
    let s := { s with domains := s.domains.upd id.toNat fun d => { d with st := .closing, excluded := none } }.settleDomains
    s.objRecord p k.num (.domain id.toNat (s.domains.find id.toNat))
  | .model slot d =>
    let r : ModelSlot := ⟨d.modelId.toNat / 256, some d⟩
    (s.updP p fun t => { t with models := t.models.put slot r }).objRecord p k.num (.model slot r)
  | .sessCreate i r =>
    let s := s.updP p fun t => { t with sessions := t.sessions.put i r, resv := t.resv.del (slotKey kSession i) }
    let j := s.sessRecord p i jCreate k.num
    j.1.recFor p k.num j.2
  | .seqCreate i r =>
    s.updP p fun t => { t with sequences := t.sequences.put i r, resv := t.resv.del (slotKey kSequence i)
                               sessions := t.sessions.upd (hIndex r.sess) fun e => { e with seqs := placeSeq e.seqs r.h } }
  | .park i a => s.parkAt p k.num i a
  | .revive i mask => s.startRevival p i mask k.q k.cid
  | .durability i c n =>
    let s := s.updSess p i fun r => { r with durClass := c, durN := n }
    let j := s.sessRecord p i jDur k.num
    j.1.recFor p k.num j.2
  | .close i => s.closeAt p k.num i
  | .seqFree i => s.seqFreeAt p k.num i
  | .tenant n img =>
    let s := s.updP p fun t => { t with tenants := t.tenants.put n (writeTenant (t.tenants.find n) img t.clock) }
    match (s.prt p).bind fun t => t.tenants.find n with
    | some r => s.objRecord p k.num (.tenant n r)
    | none => s
  | .migOut i qp pm id => s.migOutStart p i qp pm id k.q k.cid
  | .migIn id r f => s.migInStart p id r f k.q k.cid
  | .regCreate i r => s.regCreate p k.num i r
  | .regFree i => s.regFree p k.num i
  | .regRegister i key => s.regRegister p k.num i key
  | .regRevoke i => (s.updRegion p i fun r => { r with st := .revoking }).regionRecord p i jRegion k.num
  | .sync i off n v => s.regSync p k.num i off n v
  | .discard i off n => s.regDiscard p i off n
  | .publish i name v =>
    let r := s.regPublish p k.num i name v
    r.1.updStep x fun k => { k with final := some r.2 }
  | .varset v e img => s.updP p fun t => t.varSet v e img
  | .qpCreate n b => s.updP p fun t => { t with qps := t.qps.put n { qpFrom b with queue := k.q % 64 }, resv := t.resv.del (slotKey kQp n) }
  | .qpConnect n => s.qpConnect p n k.q k.cid
  | .qpDisc n => s.qpDisc p n k.q k.cid
  | .qpDestroy n => s.freeQp p n
  | .qpPost _ _ => s
  | .chainArm n b w => s.updP p fun t => t.chainArm n b w k.q k.cid
  | .chainDisarm n tag =>
    let key := chainKey n tag
    if s.getP p false fun t => (t.chains.find key).any (·.armed) then s.dropChain p key .aborted
    else s.updStep x fun k => { k with final := some (.abortedTooLate, 0, 0) }
  | .staged tk => s.unstage p k tk
  | .tierDown _ _ _ _ => s
  | .post _ _ => s
  | .event _ _ => s
  | .poison g pg v => (s.updGroup p g fun r => r.setPoison pg v).dropPoisoned p g

/-- Does a step's commit write a record: a logged operation, a session of class 0, or one of class 1 whose interval ends with it (09 Table
9-8)? -/
def Partition.writesRecord (t : Partition) (k : Step) (given : Option Nat) : Bool :=
  !k.log.isEmpty || ((t.stepSess k).bind t.sessions.find).any fun ss =>
    let n := t.tokenCount ss
    let adv := ((k.advanceOf given).map (·.2)).getD 0
    ss.durClass == 0 || (ss.durClass == 1 && ss.durN != 0 && (n + adv) / ss.durN != n / ss.durN)

/-! ### Stage 2: what may not commit -/

/-- Does a logged operation on a session or sequence still find what it names, in a state that takes it (09 Table 9-1)? The
status that squashes the step, if not. Another step may have changed it since the instruction ran. -/
def State.opStands (s : State) (p : Part) (k : Step) (o : LogOp) : Option Status :=
  let t := s.prt p
  let mine := fun (i : Nat) => k.log.any fun o => match o with
    | .sessCreate n _ => n == i
    | _ => false
  let st := fun (i : Nat) (ok : SessSt → Bool) =>
    if mine i then none
    else match t.bind fun t => t.sessions.find i with
      | none => some Status.staleKey
      | some r => if ok r.st then none else some .accessViolation
  match o with
  | .park i _ => if s.journalShort p.val then some .tierReadOnly else st i fun e => e != .migrating
  | .revive i _ => if s.journalShort p.val then some .tierReadOnly else st i fun e => e == .parked || e == .reviving
  | .durability i _ _ => st i fun e => e != .migrating
  | .close i => st i fun _ => true
  | .migOut i _ _ _ => st i fun e => e == .opened || e == .parked
  | .seqFree i => if (t.any fun t => t.sequences.has i) || k.log.any (fun o => match o with
      | .seqCreate n _ => n == i
      | _ => false) then none else some .staleKey
  | .regFree i => if (t.any fun t => t.regions.has i) || k.log.any (fun o => match o with
      | .regCreate n _ => n == i
      | _ => false) then none else some .staleKey
  | .sync i _ _ _ =>
    if !((t.bind fun t => t.regions.find i).any fun r => r.cls == 1) then none
    else if s.flashRO then some .tierReadOnly
    else if t.any fun t => t.share .t2 * 1048576 < t.authBytes then some .noPage else none
  | _ => none

/-! ### Stages 3 to 5 -/

/-- Write the emitted tokens into the history, behind the position they follow (08 R182). -/
def Partition.putTokens (t : Partition) (seq first : Nat) (toks : List Nat) : Partition :=
  match t.sequences.find seq with
  | none => t
  | some sq => (List.range toks.length).foldl (fun (t : Partition) i => t.setToken sq (first + i) (toks.getD i 0)) t
/-- A block that a commit fills takes its key (05 R102), its node (R105), and its summary row in compatibility mode. -/
def State.fillBlock (s : State) (p : Part) (m : ModelDesc) (dom : BitVec 16) (seq b : Nat) : State :=
  match s.seq? p seq with
  | none => s
  | some sq =>
    let key := s.keyOf p { sq with keys := sq.keys.del b } dom m.modelId b
    let s := s.updSeq p seq fun q => { q with keys := q.keys.put b key }
    let g := hIndex (sq.table.getD b 0)
    let parent := if b = 0 then 0 else s.getP p 0 fun t => t.nodeOf (s.keyOf p sq dom m.modelId (b - 1)) dom m.modelId
    let s := if dom = 0 then s else s.insertNode p g key dom m.modelId b parent false
    if s.getP p false (·.compat) then
      match s.group? p g with
      | some r => s.summariseBlock p m seq b r
      | none => s
    else s
/-- In compatibility mode the FULL groups that a match attached have their summary rows too (06 R144). -/
def State.fillMatched (s : State) (p : Part) (m : ModelDesc) (o : LogOp) : State :=
  match o with
  | .entry q b h =>
    match s.group? p (hIndex h) with
    | some r => if r.st = .full then s.summariseBlock p m q b r else s
    | none => s
  | _ => s
/-- The sampler state, the counters and the event of what SAMPLE decided (08 R176, R180). -/
def State.commitSample (s : State) (p : Part) (k : Step) (r : SampleRes) : State :=
  let first := (s.getP p none fun t => t.liveOf k.q k.cid).any fun l => l.req.any fun q => !q.satRaised
  let s := s.updLive p k.q k.cid fun l => { l with req := l.req.map fun q =>
    { q with rows := q.rows + r.rows, counts := r.counts, emitted := q.emitted ++ r.tokens
             satRaised := q.satRaised || r.untracked != 0 } }
  let s := s.count p cPenaltyUntracked r.untracked
  if first && r.untracked ≠ 0 then s.event p evPenaltySaturated 0 k.h0 0 else s
/-- Charge the tenant of a sequence for positions and tokens, after its refill (08 R172). -/
def State.chargeFor (s : State) (p : Part) (seq n : Nat) : State :=
  if n = 0 then s
  else
    match (s.prt p).bind fun t => (t.sequences.find seq).map fun sq => t.tenantOf sq with
    | none => s
    | some tn => (s.refillTenant p tn).updTenant p tn fun r => r.charge n
/-- Bytes of a session's authoritative regions that a step's staged copies change (13 R317). -/
def Step.undoBytes (k : Step) (ss : Session) : Nat :=
  (k.moves.map fun kv => if kv.2.copy && [ss.history, ss.sampler, ss.scratch].any (fun h => hIndex h == kv.2.dst) then
    kv.2.data.length else 0).sum + 4 * ((k.sampled.map fun r => r.tokens.length).getD 0)
/-- Stage 5: the record that the session's durability class asks for (09 Table 9-8), or one that its undo log forces (13 R317).
The step waits for it in class 0. -/
def State.classRecord (s : State) (p : Part) (k : Step) (before : Nat) : State :=
  match (s.prt p).bind fun t => (t.stepSess k).bind fun i => (t.sessions.find i).map fun ss => (t, i, ss) with
  | none => s
  | some (t, i, ss) =>
    let forced := t.undo.getD i 0 > 1048576
    let after := t.tokenCount ss
    let due := ss.durClass = 0 || (ss.durClass = 1 && ss.durN ≠ 0 && after / ss.durN ≠ before / ss.durN)
    if due || forced then
      let r := s.sessRecord p i jCommit k.num
      let s := r.1.updP p fun t => { t with undo := t.undo.del i }
      if ss.durClass = 0 then s.recFor p k.num r.2 else s
    else s.updP p fun t => { t with undo := t.undo.put i (t.undo.getD i 0 + k.undoBytes ss) }
/-- The lead's word to its followers (06 Table 6-3): lane, accepted positions, RSV, `hg_seq`, new `committed_len`. The widths of
the first two are a DESIGN CHOICE (log entry 37). -/
def hgCommitLane (lane acc hgSeq len : Nat) : List Byte := toLe lane 1 ++ toLe acc 2 ++ [0] ++ toLe hgSeq 4 ++ toLe len 4
/-- Stages 3 to 5 of a step. `given` is the length that a follower commits to. -/
def State.commitStages (s : State) (x : StepRef) (given : Option Nat) : State :=
  let p := x.part
  match (s.prt p).bind fun t => (t.steps.find x.num).map fun k => (t, k) with
  | none => s
  | some (t, k) =>
    let before := ((t.stepSess k).bind t.sessions.find).map (fun ss => t.tokenCount ss) |>.getD 0
    let adv := k.advanceOf given
    let model := t.stepModel k
    let dom := (((t.stepSess k).bind t.sessions.find).map (·.domain)).getD 0
    let c0 := ((k.seq.bind t.sequences.find).map (·.committed)).getD 0
    let rc0 := ((k.seq.bind t.sequences.find).map (·.rc)).getD 0
    let left0 := ((t.liveOf k.q k.cid).bind (·.req)).map (·.promptLeft) |>.getD 0
    let toks := ((k.sampled.map (·.tokens)).getD [])
    -- stage 3
    let s : State := match k.seq, adv, model with
      | some q, some (first, n), some m =>
        let s := s.settleRows x m q first ((k.appended.map (·.2)).getD 0) (first + n)
        let s := s.updSeq p q fun sq => { sq with committed := first + n, prov := 0, rc := sq.rc - min n sq.rc }
        s.updP p fun t => t.putTokens q (if k.kind = 1 then first + n else first + 1) toks
      | _, _, _ => s
    -- stage 4
    let log := ((s.step? x).map (·.log)).getD []
    let opened := ((s.step? x).map (·.opened)).getD []
    let s := s.forEach opened fun s g => s.updGroup p g fun r => { r with openedBy := none }
    let s := s.forEach log fun s o => s.applyOp x k o
    let c1 := ((k.seq.bind fun q => s.seq? p q).map (·.committed)).getD c0
    let s : State := match k.seq, model with
      | some q, some m =>
        let s : State := match adv with
          | some (first, n) => s.forEach ((List.range ((first + n) / 64 - first / 64)).map (· + first / 64)) fun s b =>
              s.fillBlock p m dom q b
          | none => s
        if t.compat then s.forEach log fun s o => s.fillMatched p m o else s
      | _, _ => s
    let s : State := match k.sampled with
      | some r => if t.follows k then s else s.commitSample p k r
      | none => s
    let s := s.updLive p k.q k.cid fun l =>
      { l with deferred := if k.deferred = .none then l.deferred else k.deferred
               req := l.req.map fun r =>
                 { r with promptLeft := (c0 + rc0 + left0) - (c1 + (rc0 - min (c1 - c0) rc0)), matching := false } }
    let s : State := if k.kind = 2 then
        let offered := (k.appended.map (·.2)).getD 0 - 1
        ((s.updP p fun t => { t with decodes := t.decodes + 1 }).count p cDraftsOffered offered).count p cDraftsAccepted
          ((adv.map (·.2)).getD 0 - 1)
      else s
    let s : State := match k.seq with
      | some q => if t.follows k then s else
          s.chargeFor p q ((if k.kind = 1 then (adv.map (·.2)).getD 0 else 0) + toks.length)
      | none => s
    -- stage 5
    let s := if k.kind = 3 then s else s.classRecord p k before
    let s := s.updStep x fun k => { k with st := .applied }
    match model, t.waveOf k with
    | some m, some w =>
      if w.lead && !w.fetch && m.hgSize > 1 then
        let hs := ((k.seq.bind t.sequences.find).map (·.hgSeq)).getD 0
        s.toFollowers p m (mkMsg mtHgCommit m.modelId k.batch 0xFFFF 1 (hgCommitLane k.lane ((adv.map (·.2)).getD 0) hs c1) w.digest)
      else s
    | _, _ => s

/-! ### Stages 1 and 2 -/

/-- What a lead knows of its followers for a lane: the first bad status, or that some have not answered. -/
def Wave.followers (w : Wave) (m : ModelDesc) (lane : Nat) : Option Status × Bool :=
  let others := (List.range m.hgSize).filter (· ≠ m.hgRank)
  let got := fun (r : Nat) => w.ready.find? fun e => e.1 == r && e.2.1 == lane
  (others.findSome? fun r => (got r).bind fun e =>
      if e.2.2 = Status.ok.code.toNat then none
      else allStatuses.find? fun st => st.code.toNat == e.2.2
    , others.all fun r => (got r).isSome)
/-- A status code that Table 1-16 does not list stands for ACCESS_VIOLATION. -/
def Wave.followerBad (w : Wave) (m : ModelDesc) (lane : Nat) : Option Status :=
  if w.ready.any fun e => e.2.1 == lane && e.2.2 != Status.ok.code.toNat then
    some (((w.followers m lane).1).getD .accessViolation) else none
/-- Was the step's command cancelled on a privileged queue, which squashes it at its boundary (08 Table 8-12)? -/
def Partition.freedEarly (t : Partition) (k : Step) : Bool :=
  (t.liveOf k.q k.cid).any fun l => l.abortStatus == some .freedEarly || l.req.any fun r => r.cancelled == some .freedEarly
/-- In compatibility mode, the FULL blocks whose summary rows a commit writes: those that it fills, to the length given or to all that
was appended, and those that a match attached (06 R144). -/
def Partition.commitBlocks (t : Partition) (k : Step) (given : Option Nat) : List (Nat × Nat × Group) :=
  let filled := match k.seq, k.advanceOf given with
    | some q, some (first, n) =>
      (t.groupsOf k q ((List.range ((first + n) / 64 - first / 64)).map (· + first / 64))).map fun b => (q, b.1, b.2)
    | _, _ => []
  filled ++ k.log.filterMap fun o => match o with
    | .entry q b h => (t.groups.find (hIndex h)).bind fun g => if g.st = .full then some (q, b, g) else none
    | _ => none
/-- What a commit's summary rows need, before its stage 3. A follower, which does not know the length yet, asks for all that it
appended. -/
def State.coarseCommit (s : State) (x : StepRef) (t : Partition) (k : Step) : State × CoarseRes :=
  if !t.compat then (s, .fine)
  else match t.stepSess k, t.stepModel k with
    | some i, some m =>
      s.coarseFor x.part k m i (t.commitBlocks k (if t.follows k then k.appended.map fun a => a.1 + a.2 else none))
    | _, _ => (s, .fine)
/-- Does a commit fill blocks of a session whose partition is not, or no longer, of its domain (05 R99)? -/
def State.insertBarred (s : State) (x : StepRef) (t : Partition) (k : Step) : Bool :=
  match (t.stepSess k).bind t.sessions.find, k.advanceOf none with
  | some ss, some (first, n) => ss.domain != 0 && (first + n) / 64 != first / 64 && !(s.domMember x.part ss.domain)
  | _, _ => false
/-- COMMIT_APPLY: stage 1 waits for descriptors, merges and, in a head group, for the followers; a decode step whose turn it is
is shadowed first; stage 2 squashes with the first failure; then stages 3 to 5 run in one action. A follower that has passed
stage 2 tells its lead and waits for HG_COMMIT. -/
def State.commitApply (s : State) (x : StepRef) : State :=
  match (s.prt x.part).bind fun t => (t.steps.find x.num).map fun k => (t, k) with
  | none => s
  | some (t, k) =>
    if k.st ≠ .committing || k.kind = 4 || k.hgSent then s
    else if !((k.descs.all fun d => d.st == .done) && k.emitted.all k.engDone)
        || k.opened.any (fun g => (s.copyOf x.part (.cow g)).isSome) then s
    else
      let hg := (t.stepModel k).bind fun m => (t.waveOf k).bind fun w =>
        if m.hgSize > 1 && !w.fetch then some (m, w) else none
      match hg.bind fun e => if e.2.lead then e.2.followerBad e.1 k.lane else none with
      | some st => s.squash x.part x.num st
      | none =>
        if hg.any fun e => e.2.lead && !(e.2.followers e.1 k.lane).2 then s
        else if t.freedEarly k then
          let s : State := match k.seq with
            | some q => s.updSeq x.part q fun e => { e with freeAtEnd := true }
            | none => s
          s.squash x.part x.num .freedEarly false 5 false
        else match k.fails with
        | f :: _ => s.squash x.part x.num f.2
        | [] =>
          if t.mustShadow k && k.shadow.isNone then
            s.updStep x fun e => { e with shadow := some (s.shadowPartner t k.clu) }
          else if k.shadow.isSome && !k.shadowed then s
          else if k.stale then s.squash x.part x.num .staleKey
          else match k.log.findSome? fun o => s.opStands x.part k o with
          | some st =>
            let s := if st = .tierReadOnly then s.roRefusal.statusEvent x.part st k.h0 0 else s
            s.squash x.part x.num st
          | none =>
           if s.journalShort x.part.val && t.writesRecord k none then s.roRefusal.squash x.part x.num .tierReadOnly
           else if s.insertBarred x t k then (s.statusEvent x.part .accessViolation k.h0 0).squash x.part x.num .accessViolation
           else match s.coarseCommit x t k with
           | (s, .wait) => s
           | (s, .fail st) => s.squash x.part x.num st
           | (s, .fine) =>
            match hg with
            | some (m, w) =>
              if w.lead then s.commitStages x none
              else
                let hs := ((k.seq.bind t.sequences.find).map (·.hgSeq)).getD 0
                (s.toLead x.part m (mkMsg mtHgReady m.modelId k.batch 0xFFFF 1 (hgLane k.lane .ok hs) w.digest)).updStep x
                  fun e => { e with hgSent := true }
            | none => s.commitStages x none

end Sys2Proof.Machine
end

