-- ==== Sys2Proof/Machine/Migrate.lean ====
section
/-! DEFINITION. Migration of a session, its outcome: the successor's import, the control messages, the timers (spec 09 R208 to
R210, Table 9-7; 15 R363; 17 Table 17-1). -/

namespace Sys2Proof.Machine

/-! ### Control messages (R210) -/

def mtMigConfirm := 0x30
def mtMigRelease := 0x31
def mtMigCancel := 0x32
def mtMigQuery := 0x33
def mtMigAnswer := 0x34
/-- A control message: `mig_id`, status, RSV. -/
def migMsg (mt : Nat) (id : Word) (st : Status) : Msg :=
  mkMsg mt 0 0 0xFFFF 1 (toLe id.toNat 8 ++ toLe st.code.toNat 1 ++ toLe 0 7)
/-- Send a control message: the source's on the migration's queue pair; the rules name none for the successor's, which leave
through the outbox (log entry 19). -/
def State.sendMig (s : State) (p : Part) (g : Migration) (mt : Nat) (st : Status) : State :=
  s.sendMsg p (if g.source then some g.qp else none) none (migMsg mt g.id st)
/-- The statuses that a migration can end with. -/
def migStatus (c : Nat) : Status :=
  ([Status.ok, .aborted, .sealMismatch, .accessViolation, .noPage].find? fun st => st.code.toNat == c).getD .aborted
/-- Keep an outcome: the last 4,096, in the partition's list and in its journal; RELEASED names the session that it frees. -/
def State.migOutcome (s : State) (p : Part) (id : Word) (st : Status) (gone : Handle) : State × Nat :=
  let s := s.updP p fun t =>
    let l := t.migHistory.filter (·.1 ≠ id) ++ [(id, st)]
    { t with migHistory := l.drop (l.length - 4096) }
  s.jwrite p.val jMigration 0 gone (.migration id st gone)
def State.migration? (s : State) (p : Part) (id : Word) : Option Migration :=
  (s.prt p).bind fun t => t.migrations.find id.toNat

/-! ### Ends -/

/-- The session of a migration, while its slot still holds it. -/
def State.migSess (s : State) (p : Part) (g : Migration) : Option Nat :=
  g.sess.bind fun i => if (s.sess? p i).any fun r => r.h == g.hSess then some i else none
/-- The source keeps its session: PARKED, on the list as the youngest, with the record that makes a parked session durable (R211). -/
def State.migKeep (s : State) (p : Part) (g : Migration) : State :=
  match s.migSess p g with
  | none => s
  | some i =>
    (State.sessRecord (s.updP p fun t =>
      { t with sessions := t.sessions.upd i fun r =>
                 { r with st := .parked, parkReason := g.hadReason, parkedAt := t.clock, pflags := 4 * g.hadReason, preRevived := false }
               parked := t.parked.filter (· ≠ i) ++ [i] }) p i jPark 0).1
/-- A migration ends without the session having moved: the source keeps it, the successor frees what it imported; the RUN
completes with the status. The other side hears of it when this side has decided. -/
def State.migAbandon (s : State) (p : Part) (id : Word) (st : Status) (tell : Bool := true) : State :=
  match s.migration? p id with
  | none => s
  | some g =>
    let s := s.updP p fun t => { t with migrations := t.migrations.del id.toNat }
    let s := if g.source then ((s.migKeep p g).migOutcome p id .aborted 0).1
      else match s.migSess p g with
        | some i => (s.freeSession p i evSessionClosed 0).1
        | none => s
    let s := if tell then s.sendMig p g mtMigCancel st else s
    s.finish p g.q g.cid st id 0
/-- RELEASED is durable: the source's session is FREE, the successor is told, the RUN completes. -/
def State.migReleased (s : State) (p : Part) (g : Migration) : State :=
  let s := s.updP p fun t => { t with migrations := t.migrations.del g.id.toNat }
  let s := match s.migSess p g with
    | some i => (s.freeSession p i evSessionClosed 0).1
    | none => s
  ((s.sendMig p g mtMigRelease .ok).count p cMigOut).finish p g.q g.cid .ok g.id 0
/-- The source's migrations whose RELEASED record the journal has made durable end. -/
def State.settleMigrations (s : State) (p : Part) : State :=
  let d := (s.journal p.val).durable
  s.forEach (s.getP p [] fun t => (t.migrations.filter fun kv =>
      kv.2.source && kv.2.confirmed && kv.2.jseq.any (· ≤ d)).map (·.2)) fun s g => s.migReleased p g
/-- The successor owns the session: PARKED, reason HOST; its held commands go on. -/
def State.migTaken (s : State) (p : Part) (g : Migration) : State :=
  match s.migSess p g with
  | none => s
  | some i =>
    let s := s.updP p fun t =>
      { t with migrations := t.migrations.del g.id.toNat
               sessions := t.sessions.upd i fun r => { r with st := .parked, parkReason := 0, parkedAt := t.clock, pflags := 0 }
               parked := t.parked ++ [i] }
    let s := (s.sessRecord p i jPark 0).1
    let h := ((s.sess? p i).map (·.h)).getD 0
    (s.count p cMigIn).finish p g.q g.cid .ok g.id h

/-! ### The import (R209) -/

/-- The bodies of the records of a type. -/
def Migration.bodies (g : Migration) (kind : Nat) : List (List Byte) := (g.records.filter fun r => r.kind == kind).map (·.body)
/-- A region of the session, in T2 with its image (log entry 38). -/
def State.importRegion (s : State) (p : Part) (body : List Byte) : State × Option Handle :=
  let size := fld body 8 8
  match (s.prt p).bind fun t => (t.newSlot p kRegion).bind fun n => if t.regionRoom 2 1 size then some (n, t.handleOf p kRegion n) else none with
  | none => (s, none)
  | some (n, h) =>
    let rg := { freshRegion h size 1 (fld body 0 1 + 1) false 2 0 0 with st := .valid, data := Bytes.wr [] 0 ((body.drop 16).take size) }
    (s.regCreate p 0 n (rg.sync 0 size), some h)
/-- Where an imported group goes: the target of Table 4-2, else T2; none where neither takes it. -/
def State.importPlace (s : State) (p : Part) (bytes : Nat) : Option (Tier × Nat) :=
  let w := s.getP p .t2 fun t => t.demotionTarget
  [w, .t2].findSome? fun u => if s.canTake p u bytes then s.getP p none fun t => (t.placeOuter u bytes).map fun l => (u, l) else none
/-- The group of a body as its source had it, in the successor's geometry: the model number in its headers is the source's. -/
def importSource (m : ModelDesc) (dom : BitVec 16) (b : Nat) (body : List Byte) : Group :=
  sentGroup m body fun h => newGroup h { m with modelId := BitVec.ofNat 16 (fld body 0x28 2) } dom b 0 0 0 0
/-- The leading groups of a sequence, as copies of its own under new handles, whose seals follow from those that came (04 R74). The home
quadrant is the lowest that the partition owns (DESIGN CHOICE, log entry 139). -/
def State.importGroups (s : State) (p : Part) (m : ModelDesc) (dom : BitVec 16) : List (Nat × List Byte) → State × List (Nat × Handle)
  | [] => (s, [])
  | (b, body) :: rest =>
    match s.importPlace p m.groupBytes, s.getP p none fun t => t.newSlot p kGroup with
    | some (u, l), some slot =>
      let h := s.getP p 0 fun t => t.handleOf p kGroup slot
      let quad := s.getP p 0 fun t => ((quadsOf t.clusters).head?).getD 0
      let g0 := (importSource m dom b body).copyOf (newGroup h m dom b quad 0 0 0) m
      let g : Group := { g0.clean with model := m.modelId, tier := u, loc := l, refcount := 1, openedBy := none }
      let s := s.updP p fun t =>
        { t with groups := t.groups.put slot { g with touch := t.epoch u } }.allocated u m.groupBytes
      let r := State.importGroups s p m dom rest
      (r.1, (b, h) :: r.2)
    | _, _ => (s, [])
/-- One sequence: its leading blocks that came are mapped, the rest is pending for recompute, its keys are made anew. -/
def State.importSeq (s : State) (p : Part) (g : Migration) (m : ModelDesc) (sess : Handle) (dom : BitVec 16) (body : List Byte) :
    State × Option Handle :=
  match s.getP p none fun t => t.newSlot p kSequence with
  | none => (s, none)
  | some n =>
    let h := s.getP p 0 fun t => t.handleOf p kSequence n
    let place := fld body 0 1
    let len := fld body 8 4
    let came := fun (b : Nat) => (g.records.find? fun r =>
      r.kind == 4 && r.tagOk && r.sealsOk && fld r.body 0 1 == place && fld r.body 4 4 == b
        && sentSealsOk m r.body (importSource m dom b r.body)).map fun r => (b, r.body)
    let run := ((List.range ((len + 63) / 64)).map came).takeWhile (·.isSome) |>.filterMap id
    let r := s.importGroups p m dom run
    let c := min len (64 * r.2.length)
    let q : Sequence := { h := h, sess := sess, committed := c, prov := 0, table := r.2, keys := [], rc := fld body 12 4 + (len - c)
                          st := .idle, hgSeq := fld body 4 4, openStep := none, freeAtEnd := false, readySince := 0
                          held := false, coarse := [], summaries := [] }
    let s := r.1.updP p fun t => { t with sequences := t.sequences.put n q }
    (s, some h)
/-- The key columns of an imported session under its own domain. -/
def State.importKeys (s : State) (p : Part) (m : ModelDesc) (dom : BitVec 16) (h : Handle) : State :=
  match s.seq? p (hIndex h) with
  | none => s
  | some sq => s.forEach (List.range (sq.committed / 64)) fun s b =>
      match s.seq? p (hIndex h) with
      | some q => s.updSeq p (hIndex h) fun e => { e with keys := e.keys.put b (s.keyOf p q dom m.modelId b) }
      | none => s
/-- Import several things in turn; none where one cannot be had. -/
def State.importAll (s : State) (f : State → List Byte → State × Option Handle) : List (List Byte) → State × Option (List Handle)
  | [] => (s, some [])
  | b :: bs =>
    match f s b with
    | (s, some h) => match State.importAll s f bs with
      | (s, some hs) => (s, some (h :: hs))
      | (s, none) => (s, none)
    | (s, none) => (s, none)
/-- The import of a complete stream: the session's slot, or the status that discards it (Table 9-7). -/
def State.importSession (s : State) (p : Part) (g : Migration) : Except Status (State × Nat) :=
  match (s.prt p).bind fun t => (t.model? (BitVec.ofNat 16 (fld g.fields 4 2))).map fun m => (t, m) with
  | none => .error .accessViolation
  | some (t, m) =>
    let head := (g.bodies 1).headD []
    let dom := BitVec.ofNat 16 (fld g.fields 2 2)
    let geo := fld head 0 2 == m.layers && fld head 2 1 == m.kvHeads && fld head 3 1 == m.qPerKv && fld head 4 2 == m.headDim
      && fld head 6 1 == m.kvFmt
    if g.records.any (fun r => r.kind != 4 && !(r.tagOk && r.sealsOk)) || (g.bodies 1).length ≠ 1 || (g.bodies 3).length ≠ 3
        || (g.bodies 2).length > 4 then .error .sealMismatch
    else if !geo then .error .accessViolation
    else if t.sessions.length + (t.resv.filter fun kv => kv.1 / 2 ^ 48 == kSession).length ≥ t.quota then .error .noPage
    else match t.newSlot p kSession with
      | none => .error .noPage
      | some n =>
        let h := t.handleOf p kSession n
        match s.importAll (fun s b => s.importRegion p b) (g.bodies 3) with
        | (_, none) => .error .noPage
        | (s, some rs) =>
          let ss : Session := { sessFrom g.fields h (rs.getD 0 0) (rs.getD 1 0) (rs.getD 2 0) with st := .migrating }
          let s := s.updP p fun t => { t with sessions := t.sessions.put n ss }
          match s.importAll (fun s b => s.importSeq p g m h dom b) (g.bodies 2) with
          | (_, none) => .error .noPage
          | (s, some qs) =>
            let places := (List.range 4).map fun i =>
              (((List.range qs.length).find? fun j => fld ((g.bodies 2).getD j []) 0 1 == i).map fun j => qs.getD j 0).getD 0
            let s := s.updSess p n fun r => { r with seqs := places }
            .ok (s.forEach qs fun s q => s.importKeys p m dom q, n)
/-- MIG_STREAM_RECORD: a record arrives at the successor; with the end record the session is imported and its record written, or
the import is discarded. -/
def execMigStreamRecord (p : Part) (rec : MigStreamRec) (s : State) : Out :=
  .next <| match s.migration? p rec.migId with
  | none => s
  | some g =>
    if g.source || g.imported then s
    else
      let g := { g with records := g.records ++ [rec] }
      let s := s.updP p fun t => { t with migrations := t.migrations.put rec.migId.toNat g }
      if rec.kind ≠ 5 then s
      else match s.importSession p g with
        | .error st => s.migAbandon p rec.migId st
        | .ok (s, n) =>
          let r := s.sessRecord p n jMigration 0
          let g := { g with imported := true, sess := some n, hSess := ((r.1.sess? p n).map (·.h)).getD 0, jseq := some r.2, records := [] }
          r.1.updP p fun t => { t with migrations := t.migrations.put rec.migId.toNat g }
/-- MIG_IMPORT_DURABLE: the import's record is durable, and the source is told. -/
def execMigImportDurable (p : Part) (migId : Word) (s : State) : Out :=
  .next <| match s.migration? p migId with
  | none => s
  | some g =>
    if g.source || !g.imported || g.confirmed || !(g.jseq.any (· ≤ (s.journal p.val).durable)) then s
    else
      let g := { g with confirmed := true }
      (s.updP p fun t => { t with migrations := t.migrations.put migId.toNat g }).sendMig p g mtMigConfirm .ok

/-! ### The messages as they arrive -/

/-- The `mig_id` and the status of a control message of this type, in order. -/
def migRead (mt : Nat) (m : Msg) : Option (Word × Nat) :=
  if m.mtype.toNat = mt && msgSized m 16 && m.count == 1 && allZero (m.body.drop 9) then
    some (BitVec.ofNat 64 (fld m.body 0 8), fld m.body 8 1) else none
/-- Act on a control message; one out of form, or that names no migration of this side, is refused. -/
def State.migMessage (s : State) (p : Part) (qp mt : Nat) (m : Msg) (ok : Migration → Bool) (f : Migration → Nat → State) : State :=
  match migRead mt m with
  | none => s.refuseMsg p qp .accessViolation
  | some (id, st) =>
    match s.migration? p id with
    | some g => if ok g then (f g st).answer .ok else s.refuseMsg p qp .accessViolation
    | none => s.refuseMsg p qp .accessViolation
/-- MIG_CONFIRM at the source: RELEASED is written; the migration ends when it is durable. -/
def State.migConfirmMsg (s : State) (p : Part) (qp : Nat) (m : Msg) : State :=
  s.migMessage p qp mtMigConfirm m (fun g => g.source && !g.confirmed) fun g _ =>
    let r := s.migOutcome p g.id .ok g.hSess
    let g := { g with confirmed := true, jseq := some r.2 }
    r.1.updP p fun t => { t with migrations := t.migrations.put g.id.toNat g }
/-- MIG_RELEASE at the successor. -/
def State.migReleaseMsg (s : State) (p : Part) (qp : Nat) (m : Msg) : State :=
  s.migMessage p qp mtMigRelease m (fun g => !g.source && g.confirmed) fun g _ => s.migTaken p g
/-- MIG_CANCEL: at the successor the import goes and its RUN ends ABORTED; at the source the session stays, with the
successor's reason. After RELEASED is written it comes too late. -/
def State.migCancelMsg (s : State) (p : Part) (qp : Nat) (m : Msg) : State :=
  s.migMessage p qp mtMigCancel m (fun g => !g.source || !g.confirmed) fun g st =>
    s.migAbandon p g.id (if g.source then migStatus st else .aborted) false
/-- MIG_QUERY at the source: its outcome, ABORTED where the id is unknown; a migration that is still undecided is not answered
(DEDUCED, log entry 43). -/
def State.migQueryMsg (s : State) (p : Part) (qp : Nat) (m : Msg) : State :=
  match migRead mtMigQuery m with
  | none => s.refuseMsg p qp .accessViolation
  | some (id, _) =>
    match s.migration? p id with
    | some _ => s.answer .ok
    | none =>
      let st := (s.getP p none fun t => (t.migHistory.find? fun e => e.1 == id).map (·.2)).getD .aborted
      (s.sendMsg p (some qp) none (migMsg mtMigAnswer id st)).answer .ok
/-- MIG_ANSWER at the successor: OK releases, ABORTED cancels. -/
def State.migAnswerMsg (s : State) (p : Part) (qp : Nat) (m : Msg) : State :=
  s.migMessage p qp mtMigAnswer m (fun g => !g.source && g.confirmed) fun g st =>
    if st = Status.ok.code.toNat then s.migTaken p g else s.migAbandon p g.id .aborted false
def execMigConfirm (p : Part) (qp : Nat) (msg : Msg) (s : State) : Out := .next (s.migConfirmMsg p qp msg)
def execMigRelease (p : Part) (qp : Nat) (msg : Msg) (s : State) : Out := .next (s.migReleaseMsg p qp msg)
def execMigCancel (p : Part) (qp : Nat) (msg : Msg) (s : State) : Out := .next (s.migCancelMsg p qp msg)
def execMigQuery (p : Part) (qp : Nat) (msg : Msg) (s : State) : Out := .next (s.migQueryMsg p qp msg)
def execMigAnswer (p : Part) (qp : Nat) (msg : Msg) (s : State) : Out := .next (s.migAnswerMsg p qp msg)
/-- MIG_TIMEOUT: no MIG_CONFIRM within `mig_timeout`. -/
def execMigTimeout (p : Part) (migId : Word) (s : State) : Out :=
  .next <| match s.migration? p migId with
  | some g => if g.source && !g.confirmed then s.migAbandon p migId .aborted else s
  | none => s
/-- MIG_QUERY_TIMER: a confirmed successor that has heard nothing asks. -/
def execMigQueryTimer (p : Part) (migId : Word) (s : State) : Out :=
  .next <| match s.migration? p migId with
  | some g => if !g.source && g.confirmed then s.sendMig p g mtMigQuery .ok else s
  | none => s

end Sys2Proof.Machine
end

