-- ==== Sys2Proof/Machine/Release.lean ====
section
/-! DEFINITION. Stage 6 of a step: pins, demotions, completions, tokens, and what a request does at its boundary (spec 03 Table
3-9, R65; 08 R173, R184 to R190; 16 PGDEMOTE; 17 R386, R394, R395), and ABORT. -/

namespace Sys2Proof.Machine

/-! ### Demotions that were logged -/

/-- Does a step in flight use a chunk of a region: a promotion pin on it, or a copy from it that has not ended? -/
def Partition.chunkUsed (t : Partition) (ri c : Nat) : Bool :=
  ((t.regions.find ri).any fun r => r.pins.getD c 0 != 0)
    || t.steps.any fun kv => kv.2.moves.any fun m => !m.2.done && m.2.copy && m.2.src == ri
        && c * chunkBytes < m.2.srcOff + m.2.bytes && m.2.srcOff < (c + 1) * chunkBytes
/-- How deep a tier lies, for demotions. -/
def tierDepth : Tier → Nat
  | .t0 => 0
  | .t1b => 1
  | .t1h => 1
  | .t2 => 2
/-- One chunk goes down (R386): it is skipped when it lies there already, when a step uses it, and when the tier has no room. The
working copy of an authoritative region gives way to its image in T2 without a copy. -/
def State.chunkDown (s : State) (p : Part) (ri : Nat) (toT2 : Bool) (c : Nat) : State :=
  match (s.prt p).bind fun t => (t.regions.find ri).map fun r => (t, r) with
  | none => s
  | some (t, r) =>
    let tgt := if toT2 then Tier.t2 else t.demotionTarget
    let image := tgt = .t2 && r.cls == 1
    let quad := ((r.spots.find c).map (·.1)).getD (((quadsOf t.clusters).head?).getD 0)
    let now := t.chunkTier r c
    if tierDepth tgt ≤ tierDepth now || t.chunkUsed ri c || (!image && (t.freeBytes tgt < chunkBytes || (tgt = .t2 && s.flashRO))) then s
    else
      let s := s.updP p fun t => t.setChunk ri c tgt
      if image then s else s.addCopy (pathKey (if now = .t0 then tgt else now) quad) p .background 5 chunkBytes
/-- PGDEMOTE after stage 6: only a group that still meets its conditions. -/
def State.pageDown (s : State) (p : Part) (g : Nat) (toT2 : Bool) : State :=
  if (s.group? p g).any fun r => (r.tier == .t0 || (toT2 && r.tier != .t2)) && !r.pinned && r.refcount == 1 && r.move == .idle
      && !(s.getP p false fun t => t.etPinned s.isEt r) then
    s.demote p g toT2 5
  else s
/-- What a step's log does at stage 6: demotions and work requests start, interim completions and program events go out. -/
def State.releaseOp (s : State) (p : Part) (k : Step) (o : LogOp) : State :=
  match o with
  | .demote g t2 => s.pageDown p g t2
  | .tierDown ri c n t2 => s.forEach ((List.range n).map (· + c)) fun s c => s.chunkDown p ri t2 c
  | .qpPost n b => s.qpPost p n (workFrom b)
  | .post a b => s.interim p k.q k.cid a b k.num
  | .event c v => s.event p c 0 (BitVec.ofNat 64 k.num) v
  | .park i a => if (s.sess? p i).any fun r => r.st == .parked then s.parkDemote p i a.demote else s
  | _ => s

/-! ### The stream (R185, R186) -/

/-- How many of the latest emitted tokens are withheld: the longest run that is a proper beginning of a stop sequence. -/
def Req.withheld (r : Req) : Nat :=
  ((List.range 32).filter fun k => k ≤ r.emitted.length && r.stopSeqs.any fun q =>
    k < q.length && r.emitted.drop (r.emitted.length - k) == q.take k).foldl max 0
/-- How many of the emitted tokens may have been streamed once this step's reason is known. -/
def Req.streamTo (r : Req) (reason index : Nat) : Nat :=
  let n := r.emitted.length
  match reason with
  | 1 => if r.includeStop then n else n - 1
  | 2 => if r.includeStop then n else n - (r.stopSeqs.getD index []).length
  | 3 => n
  | 4 => n
  | _ => n - r.withheld
/-- The words of a token completion (Table 8-9). -/
def tokenWords (ts : List Nat) : Word × Word :=
  let w := fun (l : List Nat) => l.getD 0 0 + 2 ^ 20 * l.getD 1 0 + 2 ^ 40 * l.getD 2 0
  (BitVec.ofNat 64 (w ts), BitVec.ofNat 64 (w (ts.drop 3) + 2 ^ 60 * ts.length))
/-- Post the token completions of a step, six tokens each. -/
def State.streamTokens (s : State) (p : Part) (k : Step) (ts : List Nat) : State :=
  s.forEach (chunksOf 6 ((ts.length + 5) / 6) ts) fun s c =>
    let w := tokenWords c
    s.interim p k.q k.cid w.1 w.2 k.num
/-- The tokens that a step of a request releases go out. -/
def State.stream (s : State) (p : Part) (k : Step) : State :=
  match (s.prt p).bind fun t => (t.liveOf k.q k.cid).bind (·.req) with
  | none => s
  | some r =>
    let upTo := max r.released (r.streamTo ((k.sampled.map (·.reason)).getD 0) ((k.sampled.map (·.index)).getD 0))
    let s := s.updLive p k.q k.cid fun l => { l with req := l.req.map fun r => { r with released := upTo } }
    s.streamTokens p k ((r.emitted.drop r.released).take (upTo - r.released))

/-! ### The boundary of a request's step (R173, R184, R187 to R190) -/

/-- The end of a request whose own stop, limit or budget ends it; a cancellation or missed deadline gives its own status. -/
def State.stopReq (s : State) (p : Part) (k : Step) (r : Req) (st : Status) (reason index : Nat) : State :=
  match r.cancelled with
  | some c => s.endReq p k.q k.cid c (if c = .late then 6 else 5) 0 k.num
  | none => s.endReq p k.q k.cid st reason index k.num
/-- What a request does at the boundary of a step that stands; one that a privileged queue cancelled after its commit point ends there
and its sequence is freed (Table 8-12). -/
def State.reqBoundary (s : State) (p : Part) (k : Step) (l : Live) (r0 : Req) : State :=
  if l.abortStatus = some .abortedTooLate then (s.stream p k).endReq p k.q k.cid .ok 7 0 k.num
  else if r0.freeSeq then s.endAndFree p l .freedEarly 5
  else
    let late := r0.cancelled.isNone && s.getP p false fun t => missed t.clock l.ent.deadline
    if late && s.getP p false fun t => t.privQ k.q then s.endAndFree p l .late 6
    else
      let r := if late then { r0 with cancelled := some .late, mute := true } else r0
      let s := s.updLive p k.q k.cid fun l => { l with req := l.req.map fun q => { q with cancelled := r.cancelled, mute := r.mute } }
      let s := if r.mute then s else s.stream p k
      match k.sampled.bind fun d => if d.reason = 0 then none else some d with
      | some d => s.stopReq p k r (if d.reason = 4 then .lengthLimit else .ok) d.reason d.index
      | none =>
        match (s.prt p).bind fun t => (t.sessions.find r.sess).bind fun ss => t.tenants.find ss.tenant with
        | none => s.routeReq p k.q k.cid
        | some tn =>
          if !tn.enabled || (tn.level ≤ 0 && !tn.hold) then s.stopReq p k r .budgetExhausted 8 0
          else
            let s := if tn.level ≤ 0 then (s.updSeq p r.seq fun q => { q with held := true }).count p cBudgetHolds else s
            s.routeReq p k.q k.cid
/-- The completions of a step's command (R395). -/
def State.completeStep (s : State) (p : Part) (k : Step) : State :=
  match (s.prt p).bind fun t => t.liveOf k.q k.cid with
  | none => s
  | some l =>
    let s := s.updLive p k.q k.cid fun l => { l with step := none }
    let word := (k.commitArg.map (·.1)).getD 0
    match l.req with
    | some r =>
      let s := if k.kind = 0 && (k.commitArg.map (·.2)).getD false then s.interim p k.q k.cid word 0 k.num else s
      s.reqBoundary p k l r
    | none =>
      match k.final with
      | some f => s.finish p k.q k.cid f.1 f.2.1 f.2.2 k.num
      | none => if k.deferredUsed then s else s.finish p k.q k.cid .ok word 0 k.num

/-! ### The release -/

/-- May a step's completions go out: the record it waits for, if it waits for one, is durable (R65)? -/
def State.recDurable (s : State) (p : Part) (k : Step) : Bool :=
  !k.recDue && k.recJseq.isNone || k.recJseq.any fun j => j ≤ (s.journal p.val).durable
/-- The messages that a step has taken leave their rings (17 R387). -/
def Partition.dropTaken (t : Partition) (num : Nat) : Partition :=
  { t with qps := t.qps.mapV fun _ q =>
      { q with inbox := q.inbox.filter fun m => m.takenBy ≠ some num
               ringUsed := q.ringUsed - ((q.inbox.filter fun m => m.takenBy == some num).map (·.len)).sum } }
/-- The frame of a step is free: it is gone, its lane is over, its sequence is open to the next step (R66). -/
def State.endStep (s : State) (p : Part) (k : Step) : State :=
  s.updP p fun t =>
    let t := (t.updLane k.num fun l => { l with ended := true }).dropTaken k.num
    { t.closeWaves with
      steps := t.steps.del k.num
      reserves := t.reserves.filter fun r => r.me ≠ k.num
      sequences := t.sequences.mapV fun _ q => if q.openStep = some k.num then { q with openStep := none } else q }
/-- COMMIT_RELEASE: stage 6, once the record that the step waits for is durable. -/
def State.commitRelease (s : State) (x : StepRef) : State :=
  let p := x.part
  match (s.prt p).bind fun t => (t.steps.find x.num).map fun k => (t, k) with
  | none => s
  | some (t, k) =>
    if k.st ≠ .applied || !(s.recDurable p k) then s
    else
      let sess := t.stepSess k
      let s := s.releasePins p k
      if k.kind = 4 then
        let s := match k.sess with
          | some i => (s.reviveDone p i k.num).resumeReqs p i
          | none => s
        (s.endStep p k).boundary p sess
      else
        let s := s.forEach k.log fun s o => s.releaseOp p k o
        let s := s.endStep p k
        let s := s.completeStep p k
        ((s.seqBoundary p k.seq).boundary p sess).settleProgram p k.prog

/-! ### ABORT (R190, Table 8-13) -/

/-- A deferred operation is told to stop (Tables 8-13, 9-7, 11-5, 12-12): what has passed its commit point cannot. -/
def State.abortDeferred (s : State) (p : Part) (m : Live) : Option State :=
  match m.deferred with
  | .none => none
  | .revival i =>
    if s.getP p true fun t => (t.revivals.find i).all (·.committed) then none else some (s.stopRevival p i .aborted)
  | .migOut id =>
    match (s.prt p).bind fun t => t.migrations.find id.toNat with
    | some g => if g.source then some (s.migAbandon p id .aborted) else none
    | none => none
  | .migIn id =>
    match (s.prt p).bind fun t => t.migrations.find id.toNat with
    | some g => if !g.source && !g.imported then some (s.migAbandon p id .aborted) else none
    | none => none
  | .revoke _ => none
  | .connect n =>
    if (s.qp? p n).any fun e => e.st == .connecting then
      some (s.failQp p n .aborted)
    else none
  | .disconnect _ => none
  | .chain n tag =>
    if s.getP p false fun t => (t.chains.find (chainKey n tag)).any (·.armed) then some (s.dropChain p (chainKey n tag) .aborted)
    else none
/-- ABORT of a live command: Table 8-13. -/
def State.abortLive (s : State) (p : Part) (m : Live) : State × Status :=
  match m.step.bind fun n => (s.prt p).bind fun t => t.steps.find n with
  | some k =>
    if k.st = .applied then
      (if m.req.isSome then s.updLive p m.q m.ent.cid fun l => { l with abortStatus := some .abortedTooLate } else s, .abortedTooLate)
    else (s.squash p k.num .aborted false 9 false, .ok)
  | none =>
    if m.req.isSome then (s.endReq p m.q m.ent.cid .aborted 9, .ok)
    else if m.deferred ≠ .none then
      match s.abortDeferred p m with
      | some s => (s, .ok)
      | none => (s, .abortedTooLate)
    else
      ((s.endCmd p m.q m.ent.cid .aborted 9).updP p fun t =>
        { t with due := t.due.filter fun d => !(d.q == m.q && d.cid == m.ent.cid && d.kind == 0) }, .ok)
/-- ABORT: the command `arg[0]` of the same queue. One that a cancellation or an abort has decided already is left to it (R190). -/
def execAbort (p : Part) (q : Qn) (cid : BitVec 16) (s : State) : Out :=
  .next (s.startCmd p q.val cid ocAbort fun s t l =>
    match t.targetOf l with
    | none => s.finish p q.val cid .abortedTooLate
    | some m =>
      if m.abortStatus.isSome || (m.req.any fun r => r.cancelled == some .dropped || r.cancelled == some .freedEarly) then s.finish p q.val cid .abortedTooLate
      else
        let r := s.abortLive p m
        (r.1.boundaries p).finish p q.val cid r.2)

end Sys2Proof.Machine
end

