-- ==== Sys2Proof/Machine/AttentionMsgs.lean ====
section
/-! DEFINITION. Attention messages as they arrive: waves and rows at a follower, attend, store and prefill vectors, logits, fetch
requests, the head group's commit, replica digests, expert delivery (spec 06 R121 to R142; 08 R177, R178, R192, R193; 13 R306 to
R310). -/

namespace Sys2Proof.Machine

/-! ### What every message meets (R122, R307) -/

/-- The wave or row of a batch. -/
def Partition.batchOf (t : Partition) (m : BitVec 16) (batch : Nat) : Option Wave :=
  t.waves.find? fun w => w.model == m && w.batch == batch && !w.fetch
/-- Squash the step of a lane, or what is due for it; a lane that is over stays so, and a step past its commit point stands. -/
def State.squashLane (s : State) (p : Part) (m : BitVec 16) (batch i : Nat) (st : Status) : State :=
  match (s.prt p).bind fun t => (t.batchOf m batch).bind fun w => (w.lanes[i]?).map fun l => (t, w, l) with
  | none => s
  | some (t, w, l) =>
    if l.squashed.isSome || l.ended then s
    else match l.step with
      | some n => if (t.steps.find n).any fun k => k.st == .applied then s else s.squash p n st
      | none =>
        match t.due.find? fun d => d.batch == batch && d.lane == i && d.kind == (if w.row then 1 else 2) with
        | some d => s.refuseDue p t d st
        | none => s
/-- Squash every lane of a batch. -/
def State.squashBatch (s : State) (p : Part) (m : BitVec 16) (batch : Nat) (st : Status) : State :=
  let n := s.getP p 0 fun t => ((t.batchOf m batch).map fun w => w.lanes.length).getD 0
  s.forEach (List.range n) fun s i => s.squashLane p m batch i st
/-- Was a message altered on its way (R306)? -/
def digestBad (m : Msg) : Bool := m.digest && m.sum != msgDigest m
/-- The lanes that a message carries: those of its batch for vectors, those of its entries for the head group's and for logits. -/
def Partition.carried (t : Partition) (m : Msg) : List Nat :=
  match t.batchOf m.modelId m.batch with
  | none => []
  | some w =>
    let mt := m.mtype.toNat
    if mt = mtAttend || mt = mtStore || mt = mtPrefillRow then List.range w.lanes.length
    else if mt = mtHgReady || mt = mtHgSquash then (chunksOf 8 m.count m.body).map fun b => fld b 0 1
    else if mt = mtHgCommit then (chunksOf 12 m.count m.body).map fun b => fld b 0 1
    else if mt = mtLogits then (List.range w.lanes.length).filter fun i => (w.lanes[i]?).any fun l => !w.row || l.wantLogits
    else []
/-- The checks of every attention message: its type is one that this member takes, its model is loaded, its length is its body's,
its digest holds. -/
def State.attention (s : State) (p : Part) (qp mt : Nat) (msg : Msg) (f : Partition → ModelDesc → State) : State :=
  match (s.prt p).bind fun t => (t.model? msg.modelId).map fun m => (t, m) with
  | none => s.refuseMsg p qp .accessViolation
  | some (t, m) =>
    if msg.mtype.toNat ≠ mt || msg.bytes ≠ msg.body.length || msg.xfmt.toNat > 1 || msg.ofmt.toNat > 2 then
      s.refuseMsg p qp .accessViolation
    else if digestBad msg then
      let s := s.forEach (t.carried msg) fun s i => s.squashLane p msg.modelId msg.batch i .sealMismatch
      (s.event p evDigestMismatch 0 0 (BitVec.ofNat 64 qp)).refuseMsg p qp .sealMismatch
    else f t m
/-- An accelerator's message: it does not come from a member of the head group. -/
def State.fromAccelerator (s : State) (p : Part) (qp mt : Nat) (msg : Msg) (f : Partition → ModelDesc → State) : State :=
  s.attention p qp mt msg fun t m => if (m.memberOf qp).isSome then s.refuseMsg p qp .accessViolation else f t m
/-- A message of the lead to a follower. -/
def State.fromLead (s : State) (p : Part) (qp mt : Nat) (msg : Msg) (f : Partition → ModelDesc → State) : State :=
  s.attention p qp mt msg fun t m =>
    if m.leads || m.memberOf qp ≠ some 0 then s.refuseMsg p qp .accessViolation else f t m
/-- A message of a follower to the lead. -/
def State.fromFollower (s : State) (p : Part) (qp mt : Nat) (msg : Msg) (f : Partition → ModelDesc → Nat → State) : State :=
  s.attention p qp mt msg fun t m =>
    match if m.leads then m.memberOf qp else none with
    | some r => f t m r
    | none => s.refuseMsg p qp .accessViolation

/-! ### Waves and rows at a follower (R123, R136) -/

/-- The sequence of an `hg_seq`. -/
def Partition.byHgSeq (t : Partition) (hs : Nat) : Option Nat := t.sequences.findKey fun _ q => q.hgSeq == hs
/-- The command number under which steps without a command of their own run: that of the queue pair's queue. -/
def Partition.qpQueue (t : Partition) (qp : Nat) : Nat := 64 + ((t.qps.find qp).map (·.queue)).getD 0
/-- Rows of a group that its sequences still need. -/
def Partition.rowsNeeded (t : Partition) (h : Handle) : Nat :=
  ((t.sequences.map fun kv => (kv.2.table.map fun e => if e.2 = h then min 64 (kv.2.committed - 64 * e.1) else 0).foldl max 0)).foldl max 0
/-- Rows that no sequence and no node needs are trimmed from a group. -/
def State.trimUnneeded (s : State) (p : Part) (g : Nat) : State :=
  match (s.prt p).bind fun t => (t.groups.find g).map fun r => (t, r) with
  | none => s
  | some (t, r) =>
    let n := t.rowsNeeded r.h
    if t.nodes.any fun kv => kv.2.group == r.h then s
    else if n < r.filled then (s.updGroup p g fun r => { r with filled := n, st := .opened, rows := max r.rows (n + 1) }).trimGroup p g
    else s.trimGroup p g
/-- A commit for a step that this follower no longer holds: the blocks whose rows it lacks are DROPPED. -/
def State.lostCommit (s : State) (p : Part) (seq len : Nat) : State :=
  match s.seq? p seq with
  | none => s
  | some sq =>
    if len ≤ sq.committed then s
    else
      let bs := (List.range ((len - 1) / 64 + 1 - sq.committed / 64)).map (· + sq.committed / 64)
      let old := bs.map fun b => sq.table.getD b 0
      let s := s.updSeq p seq fun q => { q with table := bs.foldl (fun t b => Tab.put t b 0) q.table, committed := len }
      s.forEach old fun s h => if h = 0 then s else s.refDown p (hIndex h)
/-- A follower's sequence is ahead of its lead, which only a recovery leaves: it is trimmed to the lead's length, as a warm recovery trims
(13 R320, R321). -/
def State.trimToLead (s : State) (p : Part) (seq len : Nat) : State :=
  match s.seq? p seq with
  | none => s
  | some sq =>
    let nb := (len + 63) / 64
    let gone := (sq.table.filter fun e => nb ≤ e.1 && e.2 != 0).map (·.2)
    let s := s.updSeq p seq fun q =>
      { q with committed := len, table := q.table.keep fun b _ => b < nb, keys := q.keys.keep fun b _ => (b + 1) * 64 ≤ len }
    let s := s.forEach gone fun s h => s.refDown p (hIndex h)
    match sq.table.find (nb - 1) with
    | some h => if h = 0 then s else s.trimUnneeded p (hIndex h)
    | none => s
/-- A lane of a follower at its lead's position: trimmed where it is ahead, its missing blocks DROPPED where it is behind (13 R321). The
sequence of a step in flight is left as it is. -/
def State.meetLead (s : State) (p : Part) (l : Lane) : State :=
  match l.seq.bind fun q => (s.seq? p q).map fun e => (q, e) with
  | none => s
  | some (q, e) =>
    if e.openStep.isSome || e.committed = l.pos then s
    else if l.pos < e.committed then s.trimToLead p q l.pos
    else s.lostCommit p q l.pos
/-- Take a batch in at a follower: its record, one due step a lane; a lane whose sequence is not here, or stands behind, is
refused to the lead. -/
def State.openBatch (s : State) (p : Part) (m : ModelDesc) (w : Wave) : State :=
  let bad := (List.range w.lanes.length).filterMap fun i => (w.lanes[i]?).bind fun l =>
    match l.seq with
    | none => some (i, Status.accessViolation)
    | some q => if (s.seq? p q).any fun e => e.committed == l.pos || (e.openStep.isNone && decide (l.pos < e.committed)) then none
      else some (i, .recomputeRequired)
  let s := s.forEach w.lanes fun s l => s.meetLead p l
  let s := s.updP p fun t =>
    let t := { t with waves := t.waves ++ [w] }
    (List.range w.lanes.length).foldl (fun (t : Partition) i => match w.lanes[i]? with
      | some l => t.makeDue (if w.row then 4 else 2) (if w.row then 1 else 2) l.q l.cid w.batch i
      | none => t) t
  let s := s.forEach bad fun s e => s.squashLane p w.model w.batch e.1 e.2
  (s.pullDue p).replicaRound p m w.batch
/-- A batch's record at a follower. -/
def Wave.follower (m : ModelDesc) (msg : Msg) (row : Bool) (qp : Nat) (lanes : List Lane) (tokens : List (Nat × Nat)) : Wave :=
  { model := m.modelId, batch := msg.batch, row := row, fetch := false, lead := false, digest := msg.digest, lanes := lanes
    tokens := tokens, arrived := [], sent := [], msgs := [], qp := some qp, ready := [] }
/-- A lane of a follower's record. -/
def Lane.follower (seq : Option Nat) (q hs pos token maxDraft ntok flags : Nat) : Lane :=
  { seq := seq, q := q, cid := 0, hgSeq := hs, pos := pos, token := token, maxDraft := maxDraft, ntok := ntok, flags := flags
    step := none, squashed := none, ended := false }
/-- Are the sequences of a batch's entries all different? -/
def distinct (l : List Nat) : Bool := l.eraseDups.length == l.length
/-- WAVE_OPEN at a follower. -/
def State.waveOpenMsg (s : State) (p : Part) (qp : Nat) (msg : Msg) : State :=
  s.fromLead p qp mtWaveOpen msg fun t m =>
    let es := msgRecs msg 16
    let ok := msgSized msg 16 && 1 ≤ msg.count && msg.count ≤ 256 && (t.batchOf m.modelId msg.batch).isNone
      && ((List.range es.length).all fun i => let b := es.getD i []
          fld b 0 1 == i && fld b 1 1 ≤ 15 && fld b 2 2 == 0)
      && distinct (es.map fun b => fld b 4 4)
    if !ok then s.refuseMsg p qp .accessViolation
    else
      let lanes := es.map fun b =>
        Lane.follower (t.byHgSeq (fld b 4 4)) (t.qpQueue qp) (fld b 4 4) (fld b 8 4) (fld b 0xC 4) (fld b 1 1) 0 0
      (s.openBatch p m (Wave.follower m msg false qp lanes [])).answer .ok
/-- ROW_OPEN at a follower. -/
def State.rowOpenMsg (s : State) (p : Part) (qp : Nat) (msg : Msg) : State :=
  s.fromLead p qp mtRowOpen msg fun t m =>
    let es := msgRecs msg 16
    let rest := msg.body.drop (16 * msg.count)
    let n := rest.length / 8
    let toks := (chunksOf 8 n rest).map fun b => (fld b 0 4, fld b 4 2)
    let ok := 1 ≤ msg.count && msg.count ≤ 256 && rest.length % 8 == 0 && n % 64 == 0 && 64 ≤ n && n ≤ 8192
      && (t.batchOf m.modelId msg.batch).isNone
      && ((List.range es.length).all fun i => let b := es.getD i []
          fld b 0 2 == i && fld b 2 1 ≤ 1 && fld b 3 1 == 0
            && fld b 0xC 4 == (toks.filter fun e => e.2 == i).length)
      && (toks.all fun e => e.2 < msg.count || e.2 == 0xFFFF)
      && ((chunksOf 8 n rest).all fun b => fld b 6 2 == 0) && distinct (es.map fun b => fld b 4 4)
    if !ok then s.refuseMsg p qp .accessViolation
    else
      let lanes := es.map fun b =>
        Lane.follower (t.byHgSeq (fld b 4 4)) (t.qpQueue qp) (fld b 4 4) (fld b 8 4) 0 0 (fld b 0xC 4) (4 * fld b 2 1)
      (s.openBatch p m (Wave.follower m msg true qp lanes toks)).answer .ok

/-! ### The vectors of a layer (R124, R125, R136, R142) -/

/-- A message's record in the wave's buffer. -/
def Msg.buffered (msg : Msg) (qp lane : Nat) (body : List Byte) : BufMsg :=
  { mtype := msg.mtype.toNat, layer := msg.layer, lane := lane, xfmt := msg.xfmt.toNat, ofmt := msg.ofmt.toNat, digest := msg.digest
    body := body, qp := some qp }
/-- Keep something under a key in a batch's buffer. -/
def State.bufferAt (s : State) (p : Part) (m : BitVec 16) (batch key : Nat) (b : BufMsg) (arrive : Bool) : State :=
  s.updP p fun t => { t with waves := t.waves.map fun (v : Wave) =>
    if v.model = m ∧ v.batch = batch ∧ !v.fetch then
      { v with msgs := v.msgs.put key b, arrived := if arrive then v.arrived ++ [b.layer] else v.arrived }
    else v }
/-- Rows 2 and 3 of Table 6-4: what the layer of a message asks for. -/
def State.layerTurn (s : State) (p : Part) (qp : Nat) (m : ModelDesc) (w : Wave) (layer : Nat) (f : Unit → State) : State :=
  if w.arrived.contains layer then (s.count p cDupMsgs).answer .ok
  else if layer ≠ w.arrived.length || layer ≥ m.layers then s.refuseMsg p qp .accessViolation
  else f ()
/-- The count of new positions and the drafts of a record. -/
def recDrafts (r : List Byte) : List Byte := (r.drop 16).take (4 * (fld r 1 1 - 1))
/-- The record rows of Table 6-4: is a lane's record wrong? -/
def laneBad (w : Wave) (first : Option (List Byte)) (recs : List (List Byte)) (i : Nat) (l : Lane) : Bool :=
  match recs.find? fun r => fld r 0 1 == i with
  | none => true
  | some r =>
    fld r 4 4 != l.hgSeq || fld r 8 4 != l.pos || fld r 1 1 > 1 + l.maxDraft
      || (w.arrived != [] && first.any fun f => fld f 1 1 != fld r 1 1 || recDrafts f != recDrafts r)
/-- ATTEND and STORE: one layer's records of a wave. -/
def State.attendMsg (s : State) (p : Part) (qp mt : Nat) (msg : Msg) : State :=
  s.fromAccelerator p qp mt msg fun t m =>
    match (t.batchOf m.modelId msg.batch).bind fun w => if w.row then none else some w with
    | none => s.refuseMsg p qp .accessViolation
    | some w =>
      let q := mt == mtAttend
      let recs := splitRecs m q msg.count msg.body
      let fits := msg.count == w.lanes.length && (recs.map List.length).sum == msg.body.length
        && recs.all fun r => 1 ≤ fld r 1 1 && r.length == m.recBytes (fld r 1 1) q
      if !fits then s.refuseMsg p qp .accessViolation
      else s.layerTurn p qp m w msg.layer fun _ =>
        let first := fun (i : Nat) => (w.msgs.find 0).bind fun b => laneRec m b w.lanes.length i
        let bad := (List.range w.lanes.length).filter fun i => (w.lanes[i]?).any fun l => laneBad w (first i) recs i l
        let live := fun (i : Nat) => !(bad.contains i) && (w.lanes[i]?).any fun l => l.squashed.isNone && !l.ended
        let nf := (recs.map fun r => if live (fld r 0 1) then
          (arriveVec (msg.xfmt.toNat + 1) r (recVec (fld r 1 1)) ((r.length - recVec (fld r 1 1)) / 2)).2 else 0).sum
        let s := (s.bufferAt p m.modelId msg.batch msg.layer (Msg.buffered msg qp 0 msg.body) true).count p cNonfiniteIn nf
        (s.forEach bad fun s i => s.squashLane p m.modelId msg.batch i .accessViolation).answer .ok
/-- PREFILL_ROW: one layer's vectors of a row; those of padding tokens are ignored. -/
def State.prefillMsg (s : State) (p : Part) (qp : Nat) (msg : Msg) : State :=
  s.fromAccelerator p qp mtPrefillRow msg fun t m =>
    match (t.batchOf m.modelId msg.batch).bind fun w => if w.row then some w else none with
    | none => s.refuseMsg p qp .accessViolation
    | some w =>
      let n := w.tokens.length
      if msg.body.length ≠ 2 * m.headDim * n * m.kvHeads * (m.qPerKv + 2) then s.refuseMsg p qp .accessViolation
      else s.layerTurn p qp m w msg.layer fun _ =>
        let at_ := fun (off len : Nat) => (arriveVec (msg.xfmt.toNat + 1) msg.body off len).2
        let nf := ((List.range n).map fun i => if (w.tokens.getD i (0, 0xFFFF)).2 = 0xFFFF then 0 else
          at_ (m.rowQuery i 0 0) (m.kvHeads * m.qPerKv * m.headDim) + at_ (m.rowRow n false i 0) (m.kvHeads * m.headDim)
            + at_ (m.rowRow n true i 0) (m.kvHeads * m.headDim)).sum
        ((s.bufferAt p m.modelId msg.batch msg.layer (Msg.buffered msg qp 0 msg.body) true).count p cNonfiniteIn nf).answer .ok
/-- Bytes of a LOGITS record by its head; none where the head's count of positions or kind gives no length. -/
def logitsLen (vocab : Nat) (bs : List Byte) : Option Nat :=
  let np := fld bs 1 1
  if np = 0 || fld bs 2 1 > 1 then none else some (16 + 4 * (np - 1) + np * logitRowBytes vocab (fld bs 2 1) (fld bs 0xC 4))
/-- The records of a LOGITS message, and whether they are `count` and fill the body. A record whose head gives no length, or more than there
is, takes the rest of the body (DESIGN CHOICE, log entry 154). -/
def splitLogits (vocab : Nat) : Nat → List Byte → List (List Byte) × Bool
  | 0, bs => ([], bs.isEmpty)
  | n + 1, bs =>
    if bs.length < 16 then ([], false)
    else match (logitsLen vocab bs).filter fun len => len ≤ bs.length with
      | none => ([bs], true)
      | some len =>
        let r := splitLogits vocab n (bs.drop len)
        (bs.take len :: r.1, r.2)
/-- Is the geometry of a record's head wrong (R177, R178)? -/
def logitsHeadBad (vocab : Nat) (r : List Byte) : Bool :=
  logitsLen vocab r != some r.length || fld r 1 1 > 16 || fld r 0xC 4 > 4096
/-- LOGITS at the lead: one record a lane, or a segment that wants them; a record whose geometry is wrong, or that disagrees with the
batch, squashes its lane. The rest of R178 is checked when the step samples. -/
def State.logitsMsg (s : State) (p : Part) (qp : Nat) (msg : Msg) : State :=
  s.fromAccelerator p qp mtLogits msg fun t m =>
    match t.batchOf m.modelId msg.batch with
    | some w =>
      let recs := splitLogits m.vocab msg.count msg.body
      if !m.leads || msg.layer ≠ 0xFFFF || !recs.2 then s.refuseMsg p qp .accessViolation
      else
        (s.forEach recs.1 fun s r =>
          let i := fld r 0 1
          match w.lanes[i]? with
          | none => s
          | some l =>
            if logitsHeadBad m.vocab r || fld r 4 4 ≠ l.hgSeq || (w.row && !l.wantLogits) then
              s.squashLane p m.modelId msg.batch i .accessViolation
            else if w.msgs.has (logitsKey i) then s
            else s.bufferAt p m.modelId msg.batch (logitsKey i) (Msg.buffered msg qp i r) false).answer .ok
    | none => s.refuseMsg p qp .accessViolation
/-- FETCH: one request; its step becomes due (R139; 17 R387). -/
def State.fetchMsg (s : State) (p : Part) (qp : Nat) (msg : Msg) : State :=
  s.fromAccelerator p qp mtFetch msg fun t m =>
    let r := fetchReq msg.body
    match t.byHgSeq r.hgSeq with
    | none => s.refuseMsg p qp .accessViolation
    | some q =>
      if !(msgSized msg 80) || msg.count ≠ 1 || fld msg.body 0x2C 4 ≠ 0 || fld msg.body 0x4C 4 ≠ 0 then
        s.refuseMsg p qp .accessViolation
      else
        let l := Lane.follower (some q) (t.qpQueue qp) r.hgSeq 0 0 0 0 0
        let w : Wave := { Wave.follower m msg false qp [l] [] with
          fetch := true, lead := true, msgs := [(0, Msg.buffered msg qp 0 msg.body)] }
        ((s.updP p fun t => { t with waves := t.waves ++ [w] }.makeDue 3 3 l.q 0 msg.batch 0).pullDue p).answer .ok

/-! ### The head group's commit (R134, Table 6-6) -/

/-- HG_READY at the lead: a follower's lanes; a status that is not OK squashes the lane. A batch that is over hears nothing. -/
def State.hgReadyMsg (s : State) (p : Part) (qp : Nat) (msg : Msg) : State :=
  s.fromFollower p qp mtHgReady msg fun t m r =>
    if !(msgSized msg 8) then s.refuseMsg p qp .accessViolation
    else match t.batchOf m.modelId msg.batch with
      | none => s.answer .ok
      | some w =>
        let es := (msgRecs msg 8).map fun b =>
          let i := fld b 0 1
          let same := (w.lanes[i]?).any fun l => l.hgSeq == fld b 4 4
          (r, i, if same then fld b 1 1 else Status.accessViolation.code.toNat)
        let fresh := es.filter fun e => e.2.1 < w.lanes.length && !(w.ready.any fun o => o.1 == e.1 && o.2.1 == e.2.1)
        let s := s.updP p fun t => { t with waves := t.waves.map fun (v : Wave) =>
          if v.model = m.modelId ∧ v.batch = msg.batch ∧ !v.fetch then { v with ready := v.ready ++ fresh } else v }
        (s.forEach fresh fun s e =>
          match (s.prt p).bind fun t => t.batchOf m.modelId msg.batch with
          | none => s
          | some w => match w.followerBad m e.2.1 with
            | some st => s.squashLane p m.modelId msg.batch e.2.1 st
            | none => s).answer .ok
/-- HG_COMMIT at a follower: stages 3 to 5 of each lane's step, to the length given. -/
def State.hgCommitMsg (s : State) (p : Part) (qp : Nat) (msg : Msg) : State :=
  s.fromLead p qp mtHgCommit msg fun _ m =>
    if !(msgSized msg 12) then s.refuseMsg p qp .accessViolation
    else
      (s.forEach (msgRecs msg 12) fun s b =>
        let len := fld b 8 4
        match s.prt p with
        | none => s
        | some t =>
          let mine := ((t.batchOf m.modelId msg.batch).bind fun w => w.lanes[fld b 0 1]?).bind fun l =>
            if l.hgSeq = fld b 4 4 then l.step.bind t.steps.find else none
          match mine with
          | some k => if k.st = .committing && k.hgSent then s.commitStages ⟨p, k.num⟩ (some len) else s
          | none => match t.byHgSeq (fld b 4 4) with
            | some q => s.lostCommit p q len
            | none => s).answer .ok
/-- HG_SQUASH at a follower: the lanes' steps are squashed with the lead's status; the lead hears nothing back. -/
def State.hgSquashMsg (s : State) (p : Part) (qp : Nat) (msg : Msg) : State :=
  s.fromLead p qp mtHgSquash msg fun _ m =>
    if !(msgSized msg 8) then s.refuseMsg p qp .accessViolation
    else
      (s.forEach (msgRecs msg 8) fun s b =>
        let i := fld b 0 1
        let st := (allStatuses.find? fun e => e.code.toNat == fld b 1 1).getD .aborted
        match (s.prt p).bind fun t => (t.batchOf m.modelId msg.batch).bind fun w => (w.lanes[i]?).map fun l => (t, l) with
        | none => s
        | some (t, l) =>
          if l.hgSeq ≠ fld b 4 4 || l.ended then s
          else match l.step.bind t.steps.find with
            | some k =>
              let sess := t.stepSess k
              ((s.squashEffects p k st).seqBoundary p k.seq).boundary p sess
            | none => (s.updP p fun t =>
              let t := { t with due := t.due.filter fun d => !(d.batch == msg.batch && d.lane == i && d.q ≥ 64 && d.kind != 3 && d.kind != 4) }
              { t with waves := t.waves.map fun (v : Wave) =>
                if v.model = m.modelId ∧ v.batch = msg.batch ∧ !v.fetch then
                  { v with lanes := listSet v.lanes i fun l => { l with squashed := some st, ended := true } } else v }.closeWaves).boundaries p).answer .ok
/-- HG_READY_TIMEOUT: a follower has not answered within `hg_timeout` of the lead's own stage 1. -/
def execHgReadyTimeout (p : Part) (m : BitVec 16) (batch : Nat) (s : State) : Out :=
  .next <| match (s.prt p).bind fun t => (t.model? m).bind fun d => (t.batchOf m batch).map fun w => (t, d, w) with
  | none => s
  | some (t, d, w) =>
    let late := (List.range w.lanes.length).any fun i => (w.lanes[i]?).any fun l =>
      !l.ended && ((l.step.bind t.steps.find).any fun k => k.st == .committing) && !(w.followers d i).2
    if !d.leads || d.hgSize ≤ 1 || !w.lead || !late then s
    else (s.squashBatch p m batch .aborted).event p evHgTimeout 0 0 0

/-! ### Replicas (13 R308, R310, Table 13-6) -/

/-- A region is lost: UNBINDABLE, and its owner hears of it. -/
def State.unbindable (s : State) (p : Part) (i : Nat) : State :=
  match s.region? p i with
  | none => s
  | some r =>
    if r.st = .unbindable then s
    else ((s.updRegion p i fun r => { r with st := .unbindable }).regionRecord p i jRegion 0).event p evAuthoritativeLost 0 r.h 0
/-- A 4 KiB unit of a region: repaired from its image, or fetched from a replica that agreed, or poisoned with its region UNBINDABLE (Table
13-7). A recomputable region is poisoned. -/
def State.regionUnit (s : State) (p : Part) (i u : Nat) (readable agrees : Bool) : State :=
  match s.region? p i with
  | none => s
  | some r =>
    let n := min 4096 (r.size - 4096 * u)
    let cure := fun (r : Region) (bs : List Byte) => { r with data := r.data.wr (4096 * u) bs, poison := r.poison.filter (· ≠ u) }
    let poison := s.updRegion p i fun r => { r with poison := if r.poison.contains u then r.poison else r.poison ++ [u] }
    if r.cls ≠ 1 then poison
    else if readable && r.synced then (s.updRegion p i fun r => cure r (r.image.rd (4096 * u) n)).count p cWeightRepairs
    else if r.published && agrees then
      let bs := (List.range n).map fun j => Config.replicaByte r.name r.version (4096 * u + j)
      -- the image's unit is written again with what was fetched
      ((s.updRegion p i fun r => { cure r bs with image := r.image.wr (4096 * u) bs, touched := (r.touched ++ [u / 64]).eraseDups }).regionRecord p i
        jSync 0).count p cReplicaFetches
    else poison.unbindable p i
/-- The replica that a record names: whose region it is, which, and the region. -/
def State.replicaNamed (s : State) (p : Part) (name : Word) (version : Nat) : Option (Part × Nat × Region) :=
  ((s.replicaList p).find? fun e => e.2.name == name && e.2.version == version).bind fun e => s.resolve p e.1
/-- Fetch a window from a majority member: its bytes become that member's (DEDUCED, log entry 42). -/
def State.replicaFetch (s : State) (p : Part) (name : Word) (version w : Nat) : State :=
  match s.replicaNamed p name version with
  | none => s
  | some (o, i, r) =>
    let n := min replicaSpan (r.size - w * replicaSpan)
    let bs := (List.range n).map fun j => Config.replicaByte name version (w * replicaSpan + j)
    s.updRegion o i fun r => { r with data := r.data.wr (w * replicaSpan) bs }
/-- Reload a window from the flash image; a digest that changes counts a repair. It answers the window's region. -/
def State.replicaReload (s : State) (p : Part) (name : Word) (version w : Nat) : State × Option Region :=
  match s.replicaNamed p name version with
  | none => (s, none)
  | some (o, i, r) =>
    let n := min replicaSpan (r.size - w * replicaSpan)
    let s1 := s.updRegion o i fun r => { r with data := r.data.wr (w * replicaSpan) (r.image.rd (w * replicaSpan) n) }
    match s1.region? o i with
    | none => (s1, none)
    | some r2 => (if r2.windowDigest w = r.windowDigest w then s1 else s1.count p cReplicaRepairs, some r2)
/-- What an outcome does at one member. -/
def State.replicaOutcome (s : State) (p : Part) (m : ModelDesc) (batch : Nat) (name : Word) (version w expelled outcome : Nat) :
    State :=
  let forget := fun (s : State) => s.updP p fun t => { t with replicas := { t.replicas with
    expelled := t.replicas.expelled.filter fun e => !(e.2.1 == name && e.2.2.1 == version && e.2.2.2 == w) } }
  match outcome with
  | 0 => forget (s.count p cReplicaChecks)
  | 1 =>
    let ranks := (List.range m.hgSize).filter fun r => bitOf expelled r
    let s := s.updP p fun t => { t with replicas := { t.replicas with
      expelled := t.replicas.expelled ++ ranks.map fun r => (r, name, version, w) } }
    let s := s.event p evReplicaExpelled 0 0 0
    if ranks.contains m.hgRank then s.replicaFetch p name version w else s
  | 2 =>
    match s.replicaReload p name version w with
    | (s, some r) => s.replicaSend p m batch true [(r, w)]
    | (s, none) => s
  | _ =>
    let s := s.event p evReplicaSplit 0 0 0
    match s.replicaNamed p name version with
    | some (o, i, _) => s.unbindable o i
    | none => s
/-- The lead's decision on one window, once every member's digest is there. -/
def State.replicaDecide (s : State) (p : Part) (m : ModelDesc) (batch : Nat) (name : Word) (version w : Nat) : State :=
  match s.prt p with
  | none => s
  | some t =>
    let again := t.replicas.again.contains (name, version, w)
    let mine := fun (d : ReplicaDigest) => d.slot == m.modelId.toNat % 256 && d.name == name && d.version == version && d.window == w
    let of := fun (r : Nat) (a : Bool) => t.replicas.digests.find? fun d => mine d && d.rank == r && d.again == a
    let ds := (List.range m.hgSize).filterMap fun r => (of r again).map fun d => (r, d.digest)
    if ds.length < m.hgSize then s
    else
      let votes := fun (d : Digest) => (ds.filter fun e => e.2 == d).length
      let best := ds.find? fun e => 2 * votes e.2 > m.hgSize
      let expelled : Nat := match best with
        | some b => ((ds.filter fun e => e.2 != b.2).map fun e => 2 ^ e.1).sum
        | none => 0
      let repaired : Nat := if again then ((ds.filter fun e => (of e.1 false).any fun d => d.digest != e.2).map fun e => 2 ^ e.1).sum else 0
      let outcome := match best with
        | some _ => if expelled = 0 then 0 else 1
        | none => if again then 3 else 2
      let key := (name, version, w)
      let s := s.updP p fun t => { t with replicas := { t.replicas with
        digests := if outcome = 2 then t.replicas.digests else t.replicas.digests.filter fun d => !(mine d)
        again := if outcome = 2 then t.replicas.again ++ [key] else t.replicas.again.filter (· ≠ key) } }
      let body := toLe name.toNat 8 ++ toLe version 4 ++ toLe w 4 ++ toLe expelled 1 ++ toLe repaired 1 ++ toLe outcome 1 ++ toLe 0 5
      let s := s.toFollowers p m (mkMsg mtHgDigestRes m.modelId batch 0xFFFF 1 body)
      s.replicaOutcome p m batch name version w expelled outcome
/-- HG_DIGEST at the lead. -/
def State.hgDigestMsg (s : State) (p : Part) (qp : Nat) (msg : Msg) : State :=
  s.fromFollower p qp mtHgDigest msg fun _ m r =>
    if !(msgSized msg 48) then s.refuseMsg p qp .accessViolation
    else
      (s.forEach (msgRecs msg 48) fun s b =>
        let name : Word := BitVec.ofNat 64 (fld b 0 8)
        let v := fld b 8 4
        let w := fld b 0xC 4
        let again := s.getP p false fun t => t.replicas.again.contains (name, v, w)
        let d : ReplicaDigest := ⟨m.modelId.toNat % 256, r, name, v, w, BitVec.ofNat 256 (fld b 0x10 32), again⟩
        let s := s.updP p fun t => { t with replicas := { t.replicas with
          digests := (t.replicas.digests.filter fun e => !(e.slot == d.slot && e.rank == r && e.name == name && e.version == v
            && e.window == w && e.again == again)) ++ [d] } }
        s.replicaDecide p m msg.batch name v w).answer .ok
/-- HG_DIGEST_RES at a follower. -/
def State.hgDigestResMsg (s : State) (p : Part) (qp : Nat) (msg : Msg) : State :=
  s.fromLead p qp mtHgDigestRes msg fun _ m =>
    if !(msgSized msg 24) then s.refuseMsg p qp .accessViolation
    else
      (s.forEach (msgRecs msg 24) fun s b =>
        s.replicaOutcome p m msg.batch (BitVec.ofNat 64 (fld b 0 8)) (fld b 8 4) (fld b 0xC 4) (fld b 0x10 1) (fld b 0x12 1)).answer .ok

/-! ### Expert delivery (08 R192, R193) -/

/-- What a ROUTE record delivers: the source bytes, and the key and offset of their destination (R192). -/
structure Delivery where
  src : Nat
  region : Nat
  off : Nat
  len : Nat
  key : BitVec 32
  dest : Nat
  deriving DecidableEq, Repr
/-- The refusal rows of Table 8-14 in order, before any write; else what the record delivers. -/
def State.routeFind (s : State) (p : Part) (m : ModelDesc) (b : List Byte) : State × Except Status Delivery :=
  let variant := fld b 0 1
  let layer := fld b 2 2
  let expert := fld b 4 2
  let key : BitVec 32 := BitVec.ofNat 32 (fld b 8 4)
  let dest := fld b 0x10 8
  let ent := if variant < 64 && expert < 1024 then s.getP p none fun t => t.variants.find (variant * 1024 + expert) else none
  match if layer < m.layers then ent else none with
  | none => (s, .error .accessViolation)
  | some e =>
    let h : Handle := BitVec.ofNat 64 (fld e 0 8)
    let off := fld e 8 8 + layer * fld e 0x10 8
    let len := fld e 0x18 4
    let fresh := s.getP p false fun t => t.genOf kRegion (hIndex h) == hGen h
    match if fresh then s.resolve p (hIndex h) else none with
    | none => (s, .error .accessViolation)
    | some (src, i, r) =>
      if s.getP p false fun t => (t.byRkey key).isNone && t.oldRkey key then (s, .error .staleKey)
      else if !((s.getP p none fun t => (t.byRkey key).bind t.regions.find).any fun d => d.st == .valid && dest + len ≤ d.size)
          || off + len > r.size then (s.keyReport p key, .error .accessViolation)
      else if r.st = .unbindable then (s.statusEvent src .poisonConsumed r.h 0, .error .poisonConsumed)
      else (s, .ok ⟨src.val, i, off, len, key, dest⟩)
/-- Write a delivery's bytes into its destination, and send them there by a port write (R192). -/
def State.routeWrite (s : State) (p : Part) (qp : Nat) (d : Delivery) (n : Nat) (final : Bool) : State :=
  let bs := ((s.region? (Fin.ofNat 16 d.src) d.region).map fun r => r.read d.off n).getD []
  let s := match s.getP p none fun t => t.byRkey d.key with
    | some i => s.updRegion p i fun g => { g with data := g.data.wr d.dest bs }
    | none => s
  s.portWrite p qp d.key d.dest bs final
/-- Has a replica member other than this one agreed at the last comparison of a unit's window (13 R309)? One that was not expelled from
the window counts (DEDUCED, log entry 155). -/
def Partition.replicaAgrees (t : Partition) (m : ModelDesc) (r : Region) (u : Nat) : Bool :=
  (List.range m.hgSize).any fun k => k != m.hgRank && !(t.replicas.expelled.contains (k, r.name, r.version, 4096 * u / replicaSpan))
/-- Deliver a record: units of the source that read uncorrectable are repaired or make the region UNBINDABLE (13 Table 13-7), and then
the bytes before the first of those are all that is written (Table 8-14). -/
def State.routeDeliver (s : State) (p : Part) (m : ModelDesc) (qp : Nat) (d : Delivery) : State × Status × Nat :=
  let src : Part := Fin.ofNat 16 d.src
  let bad := ((s.region? src d.region).map fun r => r.poison.filter fun u => d.len ≠ 0 && u * 4096 < d.off + d.len && d.off < (u + 1) * 4096).getD []
  let s := s.forEach bad fun s u =>
    match s.region? src d.region with
    | some r => s.regionUnit src d.region u true (s.getP p false fun t => t.replicaAgrees m r u)
    | none => s
  match (s.region? src d.region).bind fun r => (bad.filter fun u => r.poison.contains u).min? with
  | some u => (s.routeWrite p qp d (4096 * u - d.off) false, .poisonConsumed, 4096 * u - d.off)
  | none => (s.routeWrite p qp d d.len true, .ok, d.len)
/-- The outcome of one ROUTE record. Records of one message that resolve alike are delivered once; one that is finished after its
`need_by` counts. -/
def State.routeOne (s : State) (p : Part) (m : ModelDesc) (qp : Nat) (done : List (Delivery × Status × Nat)) (b : List Byte) :
    State × Status × Nat × List (Delivery × Status × Nat) :=
  match s.routeFind p m b with
  | (s, .error st) => (s, st, 0, done)
  | (s, .ok d) =>
    match done.find? fun e => e.1 == d with
    | some e => (s, e.2.1, e.2.2, done)
    | none =>
      let o := s.routeDeliver p m qp d
      let late := o.1.getP p false fun t => (t.qps.find qp).any fun q => o.1.portTime q.port > fld b 0x18 8
      (if late then o.1.count p cExpertLate else o.1, o.2.1, o.2.2, done ++ [(d, o.2.1, o.2.2)])
/-- Are the reserved bytes of a ROUTE record zero? -/
def routeRsvOk (b : List Byte) : Bool := fld b 1 1 == 0 && fld b 6 2 == 0 && fld b 0xC 4 == 0
/-- ROUTE: each record is delivered, or refused, and one message answers them all. The bytes are delivered as the message is taken in
(DESIGN CHOICE, log entry 156). -/
def State.routeMsg (s : State) (p : Part) (qp : Nat) (msg : Msg) : State :=
  s.fromAccelerator p qp mtRoute msg fun _ m =>
    if !(msgSized msg 32) || !((msgRecs msg 32).all routeRsvOk) then s.refuseMsg p qp .accessViolation
    else
      let r := (msgRecs msg 32).foldl (fun (a : State × List Byte × List (Delivery × Status × Nat)) b =>
        let o := a.1.routeOne p m qp a.2.2 b
        (o.1, a.2.1 ++ toLe (fld b 2 2) 2 ++ toLe (fld b 4 2) 2 ++ toLe o.2.1.code.toNat 1 ++ toLe 0 3 ++ toLe o.2.2.1 8, o.2.2.2))
        (s, [], [])
      (r.1.sendMsg p (some qp) none (mkMsg mtRouteDone m.modelId msg.batch 0xFFFF msg.count r.2.1 msg.digest)).answer .ok

/-! ### The commands, and what a complete SEND message does -/

def execWaveOpen (p : Part) (qp : Nat) (msg : Msg) (s : State) : Out := .next (s.waveOpenMsg p qp msg)
def execRowOpen (p : Part) (qp : Nat) (msg : Msg) (s : State) : Out := .next (s.rowOpenMsg p qp msg)
def execAttend (p : Part) (qp : Nat) (msg : Msg) (s : State) : Out := .next (s.attendMsg p qp mtAttend msg)
def execStore (p : Part) (qp : Nat) (msg : Msg) (s : State) : Out := .next (s.attendMsg p qp mtStore msg)
def execPrefillRow (p : Part) (qp : Nat) (msg : Msg) (s : State) : Out := .next (s.prefillMsg p qp msg)
def execLogits (p : Part) (qp : Nat) (msg : Msg) (s : State) : Out := .next (s.logitsMsg p qp msg)
def execFetch (p : Part) (qp : Nat) (msg : Msg) (s : State) : Out := .next (s.fetchMsg p qp msg)
def execHgReady (p : Part) (qp : Nat) (msg : Msg) (s : State) : Out := .next (s.hgReadyMsg p qp msg)
def execHgCommit (p : Part) (qp : Nat) (msg : Msg) (s : State) : Out := .next (s.hgCommitMsg p qp msg)
def execHgSquash (p : Part) (qp : Nat) (msg : Msg) (s : State) : Out := .next (s.hgSquashMsg p qp msg)
def execHgDigest (p : Part) (qp : Nat) (msg : Msg) (s : State) : Out := .next (s.hgDigestMsg p qp msg)
def execHgDigestRes (p : Part) (qp : Nat) (msg : Msg) (s : State) : Out := .next (s.hgDigestResMsg p qp msg)
def execRoute (p : Part) (qp : Nat) (msg : Msg) (s : State) : Out := .next (s.routeMsg p qp msg)
/-- An attention message out of its bytes: none where they are too short for its header or do not hold its body. -/
def readMsg (bs : List Byte) : Option Msg :=
  let fl := fld bs 1 1
  let n := beNat ((bs.drop 0xC).take 4)
  let dg := bitOf fl 7
  if bs.length < 16 || bitsOf fl 6 4 ≠ 0 || bs.length < 16 + n + (if dg then 8 else 0) then none
  else some
    { mtype := BitVec.ofNat 8 (fld bs 0 1), digest := dg, ofmt := BitVec.ofNat 2 (bitsOf fl 3 2), xfmt := BitVec.ofNat 2 (bitsOf fl 1 0)
      modelId := BitVec.ofNat 16 (beNat ((bs.drop 2).take 2)), batch := beNat ((bs.drop 4).take 4), layer := beNat ((bs.drop 8).take 2)
      count := beNat ((bs.drop 0xA).take 2), bytes := n, body := (bs.drop 16).take n
      sum := if dg then BitVec.ofNat 64 (fld bs (16 + n) 8) else 0 }
/-- What a message does by its type; one of no type that this member takes is refused (R122). -/
def State.attentionMsg (s : State) (p : Part) (qp : Nat) (m : Msg) : State :=
  match m.mtype.toNat with
  | 0x01 => s.waveOpenMsg p qp m
  | 0x02 => s.attendMsg p qp mtAttend m
  | 0x04 => s.rowOpenMsg p qp m
  | 0x05 => s.prefillMsg p qp m
  | 0x07 => s.fetchMsg p qp m
  | 0x09 => s.attendMsg p qp mtStore m
  | 0x10 => s.hgReadyMsg p qp m
  | 0x11 => s.hgCommitMsg p qp m
  | 0x12 => s.hgSquashMsg p qp m
  | 0x13 => s.hgReviveMsg p qp m
  | 0x14 => s.hgReviveKMsg p qp m
  | 0x15 => s.hgDigestMsg p qp m
  | 0x16 => s.hgDigestResMsg p qp m
  | 0x20 => s.logitsMsg p qp m
  | 0x22 => s.routeMsg p qp m
  | 0x30 => s.migConfirmMsg p qp m
  | 0x31 => s.migReleaseMsg p qp m
  | 0x32 => s.migCancelMsg p qp m
  | 0x33 => s.migQueryMsg p qp m
  | 0x34 => s.migAnswerMsg p qp m
  | _ => s.refuseMsg p qp .accessViolation

end Sys2Proof.Machine
end

