-- ==== Sys2Proof/Machine/Packets.lean ====
section
/-! DEFINITION. The receiving side of the transport: policing, the checks of an arriving packet, execution, acknowledgement,
stalls, and accepting a connection (spec 12 R272 to R281, R287 to R289, R292). -/

namespace Sys2Proof.Machine

/-! ### Who a packet is for, and policing (R273, R287, R289, R292) -/

/-- Does a partition own an address on a port? Zero is no address. -/
def bindOwns (b : PortBinding) (port : Nat) (a : BitVec 128) : Bool :=
  bitOf b.ports.toNat port && bindAddr b port (isV4 a) == a
    && (if isV4 a then b.ip4.getD port 0 != 0 else a != 0)
/-- The partition that owns an address on a port. -/
def State.addrOwner (s : State) (port : Nat) (a : BitVec 128) : Option Part :=
  (s.parts.find? fun kv => bindOwns kv.2.binding port a).map fun kv => Fin.ofNat 16 kv.1
/-- Is the device service-ready? -/
def State.ready (s : State) : Bool := s.power.serviceReady
/-- The key of a policer. -/
def polKey (p tc : Nat) : Nat := 8 * p + tc
/-- Let a frame pass the policer of its partition and class, or not. -/
def Port.police (q : Port) (p tc len : Nat) : Option Port :=
  let k := polKey p tc
  if q.polRates.getD k 0 = 0 then some q
  else
    let n := q.polTokens.getD k (q.polBursts.getD k 0x100000)
    if n < len then none else some { q with polTokens := q.polTokens.put k (n - len) }
/-- Let a frame that belongs to no partition pass the device policer, or not (R292). -/
def State.devPolice (s : State) (n len : Nat) : Option State :=
  if (s.prtNo n).devTokens < len then none else some (s.updPort n fun q => { q with devTokens := q.devTokens - len })
/-- Bytes of an arriving packet's frame, without preamble and gap. -/
def State.frameLen (s : State) (port : Nat) (k : Pkt) : Nat :=
  lineBytes (((s.addrOwner port k.dst).bind fun p => (s.prt p).map (·.binding)).getD ⟨0, 0, 0, [], [], [], 0⟩) (Pkt.back k)
    + (if k.trigOn then 8 else 0) + k.payload.length - 20
/-- The largest frame that a MAC accepts (R262). -/
def maxFrame : Nat := 9216
/-- What row 1 of Table 12-8 finds in a packet that the interface's operands can spell: `TRIG` without `FINAL`, and reserved bits set in a
NAK. -/
def failsRow1 (op : Nat) (k : Pkt) : Bool := (k.trigOn && !k.fin) || (op == opNak && decide (2 ^ 32 ≤ k.roff.toNat))
/-- Send a frame of the device's own, or a reply of the bucket, in the device sub-queue of class 7 (R290). -/
def State.deviceFrame (s : State) (port op : Nat) (k : Option Pkt) (bytes : Nat) : State := s.enqueue port 7 devSub op k bytes
/-- A reply that draws on the port's reply bucket (R289). -/
def State.bucketReply (s : State) (port op : Nat) (k : Pkt) (b : PortBinding) : State :=
  let q := s.prtNo port
  if q.replies = 0 then s.portCount port pNrDropped
  else (s.updPort port fun q => { q with replies := q.replies - 1 }).deviceFrame port op (some k) (lineBytes b k)

/-! ### Answers (Table 12-5, R276) -/

/-- A refusal in a NAK: status, PSN, hint in microseconds. -/
def nakPkt (k : Pkt) (st : Status) (hint : Nat) : Pkt :=
  { Pkt.back k with aux := BitVec.ofNat 32 (st.code.toNat * 2 ^ 24 + k.psn.toNat), roff := BitVec.ofNat 64 hint }
/-- A CONNECT_REP: status, initial PSN, hint, payload. -/
def repPkt (k : Pkt) (st : Status) (psn hint payload : Nat) : Pkt :=
  { Pkt.back k with aux := BitVec.ofNat 32 (st.code.toNat * 2 ^ 24 + psn), roff := BitVec.ofNat 64 (hint * 2 ^ 32 + payload) }
/-- Refuse a packet to its sender. -/
def State.nakTo (s : State) (p : Part) (port : Nat) (k : Pkt) (st : Status) (hint : Nat := 0) : State :=
  let s := s.emitPkt p port opNak (nakPkt k st hint)
  if st = .resendAfter then s.count p cResendAfter else s
/-- PSNs beyond `rcv_epsn` that have been executed or refused, as a bitmap of 64. -/
def Qp.ackMap (q : Qp) : Nat :=
  ((List.range 64).map fun i =>
    if (q.rcvLog.getD (psnAdd q.rcvEpsn (1 + i)).toNat 0xFE) = 0xFE then 0 else 2 ^ i).sum
/-- Send an ACK on a queue pair; while it stalls, with `PAUSE` and the hint, which stands in the field of `rkey` (DESIGN CHOICE,
log entry 45). -/
def State.sendAck (s : State) (p : Part) (n : Nat) (hint : Nat := 0) : State :=
  match s.qp? p n with
  | none => s
  | some q =>
    let b := s.getP p ⟨0, 0, 0, [], [], [], 0⟩ fun t => t.binding
    let k := { q.blank b n with aux := q.rcvEpsn.zeroExtend 32, roff := BitVec.ofNat 64 q.ackMap, ece := q.eceDue
                                pause := q.stalledAt.isSome, rkey := BitVec.ofNat 32 hint }
    (s.emitPkt p q.port opAck k).updQp p n fun q => { q with unacked := 0, eceDue := false }

/-! ### Violations (R278) -/

/-- The argument of a violation's event: the queue pairs, the tenant and the operation (which of R278's fields the 8-byte
argument holds is a DESIGN CHOICE, log entry 46). -/
def violationArg (op : Nat) (k : Pkt) : Word :=
  BitVec.ofNat 64 (k.dqp + 2 ^ 16 * k.sqp + 2 ^ 32 * k.tenant + 2 ^ 48 * op)
/-- A refusal under rows 7, 11 and 12: counted, and for one queue pair and region at most one event a millisecond. -/
def State.violation (s : State) (p : Part) (n op : Nat) (k : Pkt) (object : Handle) : State :=
  let s := s.count p cViolations
  match s.qp? p n with
  | none => s
  | some q =>
    let r := k.rkey.toNat % 65536
    let now := (s.prtNo q.port).time
    if (q.violAt.find r).any fun v => now < v + 1000000 then s
    else (s.updQp p n fun q => { q with violAt := q.violAt.put r now }).statusEvent p .accessViolation object (violationArg op k)

/-! ### The region of a packet (rows 10 to 14) -/

/-- What the rows from 10 on say. -/
inductive RowEnd where
  | bad (st : Status) (event : Bool) (object : Handle)
  | lost (object : Handle)
  | fault (region : Nat) (chunks : List Nat)
  | full
  | run (region : Nat)
  deriving DecidableEq, Repr

/-- The chunks of a range that lie in T2. -/
def Partition.cold (t : Partition) (r : Region) (off n : Nat) : List Nat :=
  if n = 0 || !r.device then []
  else ((List.range ((off + n - 1) / chunkBytes - off / chunkBytes + 1)).map (· + off / chunkBytes)).filter fun c => t.chunkTier r c == .t2
/-- The message that a SEND packet belongs to, if its room is reserved. -/
def Qp.msgOf (q : Qp) (num : Nat) : Option RingMsg := q.msgs.find? fun m => m.num == num
/-- Row 14 for the chunks of a range that lie in T2: a chunk with a unit that could not be read or repaired is lost (Table 12-10). -/
def Partition.resident (_ : Partition) (r : Region) (i : Nat) (cs : List Nat) : RowEnd :=
  if cs.isEmpty then .run i
  else if cs.any fun c => r.poisoned (c * chunkBytes) (min chunkBytes (r.size - c * chunkBytes)) then .lost r.h
  else .fault i cs
/-- Rows 10 to 15 for an operation that reaches a region. -/
def Partition.rowsFrom10 (t : Partition) (q : Qp) (op : Nat) (k : Pkt) : RowEnd :=
  let ranged := fun (i : Nat) (r : Region) (off n : Nat) (ok : Bool) =>
    if off + n > r.size || !ok then RowEnd.bad .accessViolation true r.h
    else if r.st = .unbindable || (op = opReadReq && r.poisoned off n) then RowEnd.bad .poisonConsumed false r.h
    else t.resident r i (t.cold r off n)
  if op = opSend then
    let len := k.roff.toNat / 2 ^ 32
    let off := k.roff.toNat % 2 ^ 32
    match if q.recvRegion = 0 || t.genOf kRegion (hIndex q.recvRegion) ≠ hGen q.recvRegion then none
        else t.regions.find (hIndex q.recvRegion) with
    | none => .bad .accessViolation true 0
    | some r =>
      if len > r.size || off + k.payload.length > len then .bad .accessViolation true r.h
      else
        if r.st = .unbindable then .bad .poisonConsumed false r.h
        else
          -- the message's place in the ring, which wraps
          let a := (((q.msgOf k.aux.toNat).map (·.off)).getD q.ringAt + off) % r.size
          let n := min k.payload.length (r.size - a)
          match t.resident r (hIndex q.recvRegion) (t.cold r a n ++ t.cold r 0 (k.payload.length - n)).eraseDups with
          | .run i =>
            match q.msgOf k.aux.toNat with
            | some _ => .run i
            | none => if q.ringUsed + len > r.size then .full else .run i
          | o => o
  else
    let i := k.rkey.toNat % 65536
    let gen := k.rkey.toNat / 2 ^ 24
    if t.genOf kRegion i ≠ gen then .bad .staleKey false 0
    else match t.regions.find i with
      | none => .bad .accessViolation true 0
      | some r =>
        if !r.registered || r.rkey ≠ k.rkey then .bad .accessViolation true r.h
        else if op = opWrite then
          ranged i r k.roff.toNat k.payload.length (r.st == .uploading || (r.st == .valid && !r.published))
        else ranged i r k.roff.toNat k.aux.toNat (r.st == .uploading || r.st == .valid || r.st == .superseded)

/-! ### Execution (R274, R275, row 16) -/

/-- Log a PSN's status and move `rcv_epsn` over what has been executed or refused; the log keeps 256 places below it. -/
def Qp.advance : Nat → Qp → Qp
  | 0, q => q
  | n + 1, q =>
    match q.rcvLog.find q.rcvEpsn.toNat with
    | some v => if v = 0xFE then q
        else Qp.advance n { q with rcvEpsn := psnAdd q.rcvEpsn 1, rcvLog := q.rcvLog.del (q.rcvEpsn - 256).toNat }
    | none => q
def Qp.logPsn (q : Qp) (psn : BitVec 24) (v : Nat) : Qp := Qp.advance 512 { q with rcvLog := q.rcvLog.put psn.toNat v }
/-- Place message bytes in the receive ring, which wraps. -/
def Region.ringWrite (r : Region) (at_ : Nat) (bs : List Byte) : Region :=
  let a := at_ % r.size
  let n := min bs.length (r.size - a)
  (r.write a (bs.take n)).write 0 (bs.drop n)
/-- Bytes of the receive ring. -/
def Region.ringRead (r : Region) (at_ n : Nat) : List Byte := (List.range n).map fun j => r.data.rd1 ((at_ + j) % r.size)
/-- A SEND packet's bytes: its message's room is reserved by the first of its packets to arrive. -/
def State.placeSend (s : State) (p : Part) (n : Nat) (k : Pkt) : State :=
  let num := k.aux.toNat
  let len := k.roff.toNat / 2 ^ 32
  let s := s.updQp p n fun q =>
    if (q.msgOf num).isSome then q
    else { q with msgs := q.msgs ++ [⟨num, q.ringAt, len⟩], ringAt := q.ringAt + len, ringUsed := q.ringUsed + len }
  match s.qp? p n with
  | none => s
  | some q =>
    match q.msgOf num with
    | none => s
    | some m => s.updRegion p (hIndex q.recvRegion) fun r => r.ringWrite (m.off + k.roff.toNat % 2 ^ 32) k.payload
/-- A message is complete: an attention message is checked and gives its answer, another is delivered to the step that waits
(R275). -/
def State.endSend (s : State) (p : Part) (n : Nat) (k : Pkt) : State × Status :=
  match s.qp? p n with
  | none => (s, .ok)
  | some q =>
    match q.msgOf k.aux.toNat, s.region? p (hIndex q.recvRegion) with
    | some m, some r =>
      let bs := r.ringRead m.off m.len
      let s := s.updQp p n fun q => { q with msgs := q.msgs.filter fun e => e.num ≠ m.num, msgNext := k.aux.toNat + 1 }
      match readMsg bs with
      | some msg =>
        let before := s.reply
        let s := (s.updQp p n fun q => { q with ringUsed := q.ringUsed - m.len }).attentionMsg p n msg
        let st := (s.reply.map (·.status)).getD .ok
        ({ s with reply := before }, st)
      | none => (s.updQp p n fun q => { q with inbox := q.inbox ++ [⟨m.off, m.len, bs, none⟩] }, .ok)
    | _, _ => (s, .ok)
/-- The data of a read goes back in packets of the connection's payload. -/
def State.serveRead (s : State) (p : Part) (n region : Nat) (k : Pkt) : State :=
  match s.qp? p n, s.region? p region with
  | some q, some r =>
    let len := k.aux.toNat
    s.forEach (List.range ((len + q.payload - 1) / q.payload)) fun s i =>
      let off := i * q.payload
      let bs := r.read (k.roff.toNat + off) (min q.payload (len - off))
      s.emitPkt p q.port opReadResp { Pkt.back k with aux := k.psn.zeroExtend 32, roff := BitVec.ofNat 64 off, payload := bs }
  | _, _ => s
/-- Fire the chain of a trigger, or count the miss (R281, Table 12-12). -/
def State.trigger (s : State) (p : Part) (n : Nat) (k : Pkt) : State :=
  if !k.trigOn then s
  else
    let key := chainKey n k.trig
    if s.getP p false fun t => (t.chains.find key).any (·.armed) then s.fireChain p key else s.count p cTrigMiss
/-- Row 16: a packet executes; the answer is the status that is logged, and whether an ACK is due at once. -/
def State.execPkt (s : State) (p : Part) (n op region : Nat) (k : Pkt) : State × Status :=
  let s := s.count p cRxPackets
  if op = opSend then
    let s := s.placeSend p n k
    if k.fin then
      let e := s.endSend p n k
      if e.2 = .ok then (e.1.trigger p n k, .ok) else e
    else (s, .ok)
  else if op = opWrite then
    let s := s.updRegion p region fun r => r.write k.roff.toNat k.payload
    if k.fin then
      ((s.updQp p n fun q => { q with notes := q.notes ++ [noteWord 2 .ok k.aux.toNat] }).trigger p n k, .ok)
    else (s, .ok)
  else if op = opReadReq then
    let s := s.serveRead p n region k
    (if k.fin then s.trigger p n k else s, .ok)
  else (s, .ok)
/-- An executed or refused packet is logged and acknowledged: at once, or after every fourth (R276). -/
def State.settled (s : State) (p : Part) (n : Nat) (k : Pkt) (st : Status) (beyond : Bool) : State :=
  let s := s.updQp p n fun q => { q.logPsn k.psn st.code.toNat with unacked := q.unacked + 1, eceDue := q.eceDue || k.ce }
  match s.qp? p n with
  | none => s
  | some q =>
    if st ≠ .ok then s.nakTo p q.port k st
    else if k.fin || k.areq || k.ce || beyond || q.unacked ≥ 4 then s.sendAck p n
    else s
/-- The promotion of a cold chunk starts at move priority 2: it takes T0 space in the first owned quadrant that has it, and
none is started where none has (log entry 47). -/
def State.faultIn (s : State) (p : Part) (ri c : Nat) : State :=
  match s.prt p with
  | none => s
  | some t =>
    if (t.regions.find ri).any fun r => r.spots.has c then s
    else
      match (quadsOf t.clusters).findSome? fun q => (t.findFrame q 0 512 0).map fun f => (q, f.1) with
      | none => s
      | some (q, f) =>
        (s.updRegion p ri fun r => { r with spots := r.spots.put c (q, f) }).addCopy (pathKey .t2 q) p (.fault ri c) 2 chunkBytes
/-- A hint for a chunk that is coming: the device's estimate, at least 10 µs. -/
def State.faultHint (s : State) : Nat × State :=
  let f := s.fresh
  (max 10 (Config.hint f.1).toNat, f.2)
/-- Bytes held in a port's fault buffer (Table 12-10). -/
def State.faultBytes (s : State) (port : Nat) : Nat :=
  (s.parts.map fun kv => (kv.2.qps.map fun q => if q.2.port = port then
    ((q.2.held.filter (·.stalled)).map fun h => h.pkt.payload.length + 40).sum else 0).sum).sum
/-- Hold a packet while its queue pair stalls; a full buffer refuses it. -/
def State.holdPkt (s : State) (p : Part) (n op : Nat) (k : Pkt) : State :=
  match s.qp? p n with
  | none => s
  | some q =>
    if s.faultBytes q.port + k.payload.length + 40 > 8388608 then
      let h := s.faultHint
      (h.2.portCount q.port pFaultFull).nakTo p q.port k .resendAfter h.1
    else s.updQp p n fun q => { q with rcvLog := q.rcvLog.put k.psn.toNat 0xFE, held := q.held ++ [⟨op, k, true⟩] }
/-- Rows 10 to 16 for a packet: refused, held, or executed. -/
def State.fromRow10 (s : State) (p : Part) (n op : Nat) (k : Pkt) (beyond : Bool) : State :=
  match (s.prt p).bind fun t => (t.qps.find n).map fun q => (t, q) with
  | none => s
  | some (t, q) =>
    if op = opDisconnect then (s.settled p n k .ok beyond).closeQp p n
    else match t.rowsFrom10 q op k with
      | .bad st ev h =>
        let s := if ev then s.violation p n op k h else if st = .staleKey then s.count p cStaleKeys else s
        s.settled p n k st beyond
      | .lost h => (s.statusEvent p .poisonConsumed h (violationArg op k)).settled p n k .poisonConsumed beyond
      | .full => s.nakTo p q.port k .resendAfter 20
      | .fault ri cs =>
        let s := s.forEach cs fun s c => s.faultIn p ri c
        let h := s.faultHint
        if (t.regions.find ri).any (·.resend) then h.2.nakTo p q.port k .resendAfter h.1
        else
          let s := (h.2.count p cStalls).updQp p n fun q => { q with stalledAt := some (h.2.prtNo q.port).time }
          (s.holdPkt p n op k).sendAck p n h.1
      | .run ri =>
        let e := s.execPkt p n op ri k
        e.1.settled p n k e.2 beyond
/-- A FINAL packet, or a DISCONNECT, that waits for the packets before it executes once they have (R274). -/
def State.runHeld (s : State) (p : Part) (n : Nat) : Nat → State
  | 0 => s
  | fuel + 1 =>
    match s.qp? p n with
    | none => s
    | some q =>
      if q.stalledAt.isSome then s
      else match q.held.find? fun h => !h.stalled && h.pkt.psn == q.rcvEpsn with
        | none => s
        | some h =>
          let s := s.updQp p n fun q => { q with held := q.held.filter (· ≠ h), rcvLog := q.rcvLog.del h.pkt.psn.toNat }
          State.runHeld (s.fromRow10 p n h.op h.pkt false) p n fuel
/-- A packet that is new to its queue pair: held behind a stall, held as FINAL behind earlier ones, or taken through the rows. -/
def State.takePkt (s : State) (p : Part) (n op : Nat) (k : Pkt) : State :=
  match s.qp? p n with
  | none => s
  | some q =>
    let beyond := k.psn ≠ q.rcvEpsn
    if q.stalledAt.isSome then s.holdPkt p n op k
    else if (k.fin || op = opDisconnect) && beyond then
      (s.updQp p n fun q => { q with rcvLog := q.rcvLog.put k.psn.toNat 0xFE, held := q.held ++ [⟨op, k, false⟩]
                                     eceDue := q.eceDue || k.ce }).sendAck p n
    else (s.fromRow10 p n op k beyond).runHeld p n (q.held.length + 1)

/-! ### Rows 1 to 9 -/

/-- Does a packet come from the peer of a queue pair, of its operation's states (row 6)? An acknowledgement or an answer also
reaches a queue pair that is DRAINING, a CONNECT_REP one that is CONNECTING (DEDUCED, log entry 48). -/
def Qp.fromPeer (q : Qp) (op : Nat) (k : Pkt) : Bool :=
  (q.st == .ready || (q.st == .draining && (op == opAck || op == opNak || op == opReadResp))
      || (q.st == .connecting && op == opConnectRep))
    && q.peerAddr == k.src && q.peerQpn == k.sqp
/-- Does an operation consume a PSN (R269)? -/
def usesPsn (op : Nat) : Bool := op == opSend || op == opWrite || op == opReadReq || op == opDisconnect
/-- A duplicate: its stored status is answered again, a read is served again (row 9). -/
def State.duplicate (s : State) (p : Part) (n op : Nat) (k : Pkt) (v : Nat) : State :=
  let s := s.count p cDupRx
  match (s.prt p).bind fun t => (t.qps.find n).map fun q => (t, q) with
  | none => s
  | some (t, q) =>
    if v = 0xFE then s
    else if v ≠ 0 then s.nakTo p q.port k ((allStatuses.find? fun st => st.code.toNat == v).getD .accessViolation)
    else if op = opReadReq then
      match t.rowsFrom10 q op k with
      | .run ri => (s.serveRead p n ri k).sendAck p n
      | _ => s.sendAck p n
    else s.sendAck p n
/-- Does a passive queue pair accept a connection request (R272)? -/
def Partition.accepts (t : Partition) (k : Pkt) : Option Qp :=
  (t.qps.find k.dqp).bind fun q =>
    if q.passive && q.st == .init && (q.peerAddr == 0 || q.peerAddr == k.src) && (q.peerQpn == 0 || q.peerQpn == k.sqp)
        && q.tenant == k.tenant && (t.tenants.find k.tenant).any (·.enabled) && q.tc == k.tc then some q
    else none
/-- A connection request: accepted, or answered with ACCESS_VIOLATION (row 5). -/
def State.connectMsg (s : State) (p : Part) (port : Nat) (k : Pkt) : State :=
  match (s.prt p).bind fun t => (t.accepts k).map fun q => (t, q) with
  | none => (s.emitPkt p port opConnectRep (repPkt k .accessViolation 0 0 0)).statusEvent p .accessViolation 0 (violationArg opConnectReq k)
  | some (t, _) =>
    let f := s.fresh
    let mine := Config.psn f.1
    let pay := min (k.roff.toNat % 65536) (s.portPayload port)
    let s := f.2.updQp p k.dqp fun q =>
      Qp.opened { q with peerAddr := k.src, peerQpn := k.sqp, sndNxt := mine } pay (k.aux.truncate 24) t.qpCtl
    (s.reconnected p k.dqp).emitPkt p port opConnectRep (repPkt k .ok mine.toNat 0 pay)
/-- The checks of Table 12-8 from row 2 on. `then_` is what a packet without a PSN does once row 7 has passed it. What the rows leave
open of it is a DESIGN CHOICE (log entry 172). -/
def State.arrive (s : State) (port : PortNo) (op : Nat) (k : Pkt) (then_ : State → Part → Nat → State) : State :=
  let q := s.prtNo port.val
  let len := s.frameLen port.val k
  if !q.up || maxFrame < len then s
  else
    let s := s.portCount port.val pRxFrames
    match (s.addrOwner port.val k.dst).bind fun p => (s.prt p).map fun t => (p, t) with
    | none =>
      if !s.ready && op != opConnectReq then s.portCount port.val pRxEarly
      else ((s.devPolice port.val len).map fun s => s.portCount port.val pRxMalformed).getD s
    | some (p, t) =>
      if !s.ready && op != opConnectReq then s.portCount port.val pRxEarly
      else match (s.prtNo port.val).police p.val k.tc len with
      | none => s.count p cPolDrops
      | some q =>
        let s := s.updPort port.val fun _ => q
        if failsRow1 op k then s.portCount port.val pRxMalformed
        else if k.ptag ≠ t.binding.ptag then s.portCount port.val pRxBadtag
        else if !s.ready then
          let f := s.fresh
          let est := max 1000 (Config.hint f.1).toNat
          f.2.bucketReply port.val opConnectRep (repPkt k .notReady 0 (est + Config.arbiter f.1 % (est / 4 + 1)) 0) t.binding
        else if t.st = .fenced then
          if op = opConnectReq then s.bucketReply port.val opConnectRep (repPkt k .partitionFenced 0 0 0) t.binding
          else if usesPsn op then s.bucketReply port.val opNak (nakPkt k .partitionFenced 0) t.binding
          else s
        else if op = opConnectReq then s.connectMsg p port.val k
        else match t.qps.find k.dqp with
          | none => s.count p cRxNoqp
          | some e =>
            if !(e.fromPeer op k) then s.count p cRxNoqp
            else if e.tenant ≠ k.tenant || e.tc ≠ k.tc then
              let s := s.violation p k.dqp op k 0
              if !(usesPsn op) then s
              else
                let d := psnDiff k.psn e.rcvEpsn
                let s := if -256 ≤ d && d ≤ 255 && !(e.rcvLog.has k.psn.toNat) then
                    s.updQp p k.dqp fun q => q.logPsn k.psn Status.accessViolation.code.toNat
                  else s
                s.nakTo p port.val k .accessViolation
            else if !(usesPsn op) then then_ s p k.dqp
            else
              let d := psnDiff k.psn e.rcvEpsn
              if d < -256 || d > 255 then s.count p cPsnDrops
              else match e.rcvLog.find k.psn.toNat with
                | some v => s.duplicate p k.dqp op k v
                | none => if d < 0 then s.duplicate p k.dqp op k 0 else s.takePkt p k.dqp op k

/-! ### The commands -/

/-- SEND. -/
def execSend (port : PortNo) (k : Pkt) (s : State) : Out := .next (s.arrive port opSend k fun s _ _ => s)
/-- WRITE. -/
def execWrite (port : PortNo) (k : Pkt) (s : State) : Out := .next (s.arrive port opWrite k fun s _ _ => s)
/-- READ_REQ. -/
def execReadReq (port : PortNo) (k : Pkt) (s : State) : Out := .next (s.arrive port opReadReq k fun s _ _ => s)
/-- DISCONNECT: ordered as a FINAL packet (Table 12-5). -/
def execDisconnect (port : PortNo) (k : Pkt) (s : State) : Out := .next (s.arrive port opDisconnect k fun s _ _ => s)
/-- CONNECT_REQ. -/
def execConnectReq (port : PortNo) (k : Pkt) (s : State) : Out := .next (s.arrive port opConnectReq k fun s _ _ => s)
/-- MALFORMED_FRAME: a frame that fails policing, comes before service-ready, or fails row 1 or 2 is dropped and counted. -/
def execMalformedFrame (port : PortNo) (why : BadFrame) (s : State) : Out :=
  let n := port.val
  let s := s.portCount n pRxFrames
  .next (match why with
    | .policed part _ _ => (match part with
      | some p => s.count p cPolDrops
      | none => s)
    | .row1 => s.portCount n pRxMalformed
    | .badTag => s.portCount n pRxBadtag
    | .early => s.portCount n pRxEarly)
/-- ACK_TIMER: 2 µs have passed since a packet that is not yet acknowledged. -/
def execAckTimer (p : Part) (n : Nat) (s : State) : Out :=
  .next (if (s.qp? p n).any fun q => q.st == .ready && q.unacked != 0 then s.sendAck p n else s)
/-- STALLED_PACKETS_RELEASE: a faulted chunk is resident; the held packets are checked again from row 10 in PSN order. -/
def execStalledPacketsRelease (p : Part) (n : Nat) (s : State) : Out :=
  .next (match s.qp? p n with
    | none => s
    | some q =>
      if q.stalledAt.isNone then s
      else
        let hs := (q.held.filter (·.stalled)).mergeSort fun a b => psnDiff a.pkt.psn q.rcvEpsn ≤ psnDiff b.pkt.psn q.rcvEpsn
        let s := s.updQp p n fun q => { q with stalledAt := none, held := q.held.filter fun h => !h.stalled
                                               rcvLog := hs.foldl (fun l h => l.del h.pkt.psn.toNat) q.rcvLog }
        let s := s.forEach hs fun s h => s.takePkt p n h.op h.pkt
        s.sendAck p n)
/-- STALL_TIMEOUT: the stall has lasted `stall_max`; every held packet is refused with what is left of the hint. -/
def execStallTimeout (p : Part) (n : Nat) (s : State) : Out :=
  .next (match s.qp? p n with
    | none => s
    | some q =>
      if q.stalledAt.isNone then s
      else
        let hs := q.held.filter (·.stalled)
        let h := s.faultHint
        let s := h.2.updQp p n fun q => { q with stalledAt := none, held := q.held.filter fun h => !h.stalled
                                                 rcvLog := hs.foldl (fun l h => l.del h.pkt.psn.toNat) q.rcvLog }
        s.forEach hs fun s e => s.nakTo p q.port e.pkt .resendAfter h.1)

end Sys2Proof.Machine
end

