-- ==== Sys2Proof/Machine/Requester.lean ====
section
/-! DEFINITION. The sending side of the transport: acknowledgements, refusals, read responses, timers, the window, and the ends
of connections (spec 12 R271, R274, R279, R283 to R285). -/

namespace Sys2Proof.Machine

/-! ### The window (R283, R285) -/

/-- The largest window: `w_max` and 256 payloads, never less than one payload. -/
def Qp.winCap (q : Qp) (w : Nat) : Nat := max q.payload (min w (min q.ctl.wMax (256 * q.payload)))
/-- Acknowledged bytes open the window: by as many in the start phase, which ends at `w_ss_max`, else by the increase. -/
def Qp.winGrow (q : Qp) (a : Nat) : Qp :=
  if a = 0 then q
  else if q.ss then
    let w := q.winCap (q.cwnd + a)
    { q with cwnd := w, ss := w < q.ctl.wSsMax }
  else { q with cwnd := q.winCap (q.cwnd + q.ctl.wAi * a / q.cwnd) }
/-- An `ECE` closes it, at most once in a round trip. -/
def Qp.winEcn (q : Qp) (now : Nat) : Qp :=
  if q.cutEcn.any fun c => now < c + q.srtt then { q with ss := false }
  else { q with ss := false, cutEcn := some now, cwnd := q.winCap (q.cwnd * q.ctl.mdEcn / 256) }
/-- A loss closes it, at most once in a round trip. -/
def Qp.winLoss (q : Qp) (now : Nat) : Qp :=
  if q.cutLoss.any fun c => now < c + q.srtt then { q with ss := false }
  else { q with ss := false, cutLoss := some now, cwnd := q.winCap (q.cwnd * q.ctl.mdLoss / 256) }
/-- A round-trip sample, in ns: gains of 1/8 and 1/4; the first sample starts both (R284; the start is DEDUCED, log entry 49). -/
def Qp.rttSample (q : Qp) (r : Nat) : Qp :=
  let q := if q.srtt = 0 then { q with srtt := r, rttvar := r / 2 }
    else
      let d := if q.srtt ≥ r then q.srtt - r else r - q.srtt
      { q with rttvar := (3 * q.rttvar + d) / 4, srtt := (7 * q.srtt + r) / 8 }
  { q with rto := max (q.ctl.rtoMin * 1000) (q.srtt + 4 * q.rttvar) }

/-! ### The ends of work requests (R274) -/

/-- Has a request had all that it asked for: its last packet answered, and for a read that succeeded, all its bytes? -/
def WorkReq.whole (w : WorkReq) (payload : Nat) : Bool :=
  w.acked && (w.op != 3 || w.status != .ok || (w.len + payload - 1) / (max payload 1) ≤ w.got.length)
/-- The requests of the oldest transfer: up to and with the first that ends one. -/
def firstTransfer : List WorkReq → Option (List WorkReq)
  | [] => none
  | w :: ws => if w.final then some [w] else (firstTransfer ws).map (w :: ·)
/-- Complete transfers, oldest first: a transfer's requests complete together with its first status that is not OK (which status
a request of a longer transfer takes is DEDUCED, log entry 50). -/
def State.settleWork (s : State) (p : Part) (n : Nat) : Nat → State
  | 0 => s
  | fuel + 1 =>
    match s.qp? p n with
    | none => s
    | some q =>
      match firstTransfer q.work with
      | none => s
      | some ws =>
        if ws.all fun w => w.whole q.payload then
          let st := ws.foldl (fun a w => firstBadSt a w.status) Status.ok
          State.settleWork (s.forEach ws fun s w => s.endWork p n w st) p n fuel
        else s
/-- Take answered packets from the front: `snd_una` moves, and progress clears `timeouts`. -/
def Qp.moveUna (q : Qp) : Qp :=
  let rest := q.out.dropWhile (·.acked)
  let una := ((rest.head?).map (·.psn)).getD q.sndNxt
  { q with out := rest, sndUna := una, timeouts := if una = q.sndUna then q.timeouts else 0 }
/-- Note that packets have been answered: what is in flight shrinks, the requests whose last packet they are know it. -/
def Qp.answered (q : Qp) (hit : OutPkt → Bool) (st : Status) : Qp :=
  let new := q.out.filter fun o => !o.acked && hit o
  { q with out := q.out.map fun o => if hit o then { o with acked := true } else o
           inflight := q.inflight - (new.map (·.len)).sum
           work := q.work.map fun w =>
             match new.filter fun o => o.wr == w.id with
             | [] => w
             | os => { w with acked := w.acked || os.any (·.last), status := firstBadSt w.status st } }
/-- Send a packet again (R284). -/
def State.resend (s : State) (p : Part) (n : Nat) (o : OutPkt) : State :=
  match s.qp? p n with
  | none => s
  | some q =>
    let now := (s.prtNo q.port).time
    let s := (s.updQp p n fun q => { q with out := q.out.map fun e =>
      if e.psn = o.psn then { e with sentAt := now, times := e.times + 1, notBefore := 0 } else e }).count p cRetransmits
    if o.wr = 0 then
      let b := s.getP p ⟨0, 0, 0, [], [], [], 0⟩ fun t => t.binding
      s.emitPkt p q.port opDisconnect { q.blank b n with psn := o.psn }
    else match q.work.find? fun w => w.id == o.wr with
      | none => s
      | some w =>
        match s.workPkt p n q w o.psn o.off o.len o.last with
        | .ok (op, k) => s.emitPkt p q.port op k
        | .error st => (s.updQp p n fun q => (q.answered (fun e => e.psn == o.psn) st).moveUna).settleWork p n 64

/-! ### Answers that arrive -/

/-- Is the DISCONNECT of a draining queue pair answered? -/
def Qp.discDone (q : Qp) : Bool := q.st == .draining && !(q.out.any fun o => o.wr == 0 && !o.acked)
/-- After an answer: requests complete, a draining queue pair whose DISCONNECT is answered is FREE, another sends on. -/
def State.afterAnswer (s : State) (p : Part) (n : Nat) : State :=
  let s := s.settleWork p n (((s.qp? p n).map (·.work.length)).getD 0 + 1)
  match s.qp? p n with
  | none => s
  | some q => if q.discDone then s.closeQp p n else s.pump p n 256
/-- An acknowledgement (R276, R279, R283, R284). -/
def State.ackMsg (s : State) (k : Pkt) (p : Part) (n : Nat) : State :=
  match (s.prt p).bind fun t => (t.qps.find n).map fun q => (t, q) with
  | none => s
  | some (t, q) =>
    let epsn : BitVec 24 := k.aux.truncate 24
    let inMap := fun (o : OutPkt) =>
      let d := psnDiff o.psn epsn
      d < 0 || (1 ≤ d && d ≤ 64 && bitOf k.roff.toNat (d - 1).toNat)
    let now := (s.prtNo q.port).time
    let q := { q with ctl := t.qpCtl }
    let new := q.out.filter fun o => !o.acked && inMap o
    let bytes := (new.map (·.len)).sum
    let q := new.foldl (fun q o => if o.times = 1 then q.rttSample (now - o.sentAt) else q) q
    let q := (q.answered inMap .ok).moveUna
    let q := q.winGrow bytes
    let q := if k.ece then q.winEcn now else q
    let q := { q with pausedUntil := if k.pause then some (now + k.rkey.toNat * 1000) else none }
    -- a hole below three later packets that have arrived is a loss, resent once
    let holes := q.out.filter fun o => !o.acked && !o.holeSent && o.notBefore = 0
      && 3 ≤ (q.out.filter fun e => e.acked && 0 < psnDiff e.psn o.psn).length
    let q := if holes.isEmpty then q else q.winLoss now
    let q := { q with out := q.out.map fun o => if holes.any fun h => h.psn == o.psn then { o with holeSent := true } else o }
    let s := if k.ece then s.count p cEcnEchoes else s
    let s := (s.updQp p n fun _ => q).forEach holes fun s o => s.resend p n o
    s.afterAnswer p n
/-- A refusal: `RESEND_AFTER` asks for the packet again after its hint, any other status ends it. -/
def State.nakMsg (s : State) (k : Pkt) (p : Part) (n : Nat) : State :=
  match s.qp? p n with
  | none => s
  | some q =>
    let psn : BitVec 24 := k.aux.truncate 24
    let code := k.aux.toNat / 2 ^ 24
    match allStatuses.find? fun st => st.code.toNat == code with
    | none => s
    | some st =>
      if st = .resendAfter then
        let till := (s.prtNo q.port).time + (k.roff.toNat % 2 ^ 32) * 1000
        s.updQp p n fun q => { q with out := q.out.map fun o => if o.psn = psn && !o.acked then { o with notBefore := till } else o }
      else (s.updQp p n fun q => (q.answered (fun o => o.psn == psn) st).moveUna).afterAnswer p n
/-- Data of a read: it goes into the request's local region; data that came before is not counted twice. -/
def State.readRespMsg (s : State) (k : Pkt) (p : Part) (n : Nat) : State :=
  match s.qp? p n with
  | none => s
  | some q =>
    match q.work.find? fun w => w.op == 3 && w.sent != 0 && w.psn == BitVec.truncate 24 k.aux with
    | none => s
    | some w =>
      let off := k.roff.toNat
      if off + k.payload.length > w.len || w.got.contains off then s
      else
        let fresh := s.getP p false fun t => t.genOf kRegion (hIndex w.region) == hGen w.region
        let s := if fresh then s.updRegion p (hIndex w.region) fun r => r.write (w.loff + off) k.payload else s
        (s.updQp p n fun q => { q with work := q.work.map fun e => if e.id = w.id then { e with got := e.got ++ [off] } else e }).afterAnswer p n
/-- A connection reply (Table 12-7). -/
def State.connectRepMsg (s : State) (k : Pkt) (p : Part) (n : Nat) : State :=
  match (s.prt p).bind fun t => (t.qps.find n).map fun q => (t, q) with
  | none => s
  | some (t, q) =>
    if q.st ≠ .connecting then s
    else
      let code := k.aux.toNat / 2 ^ 24
      let pay := k.roff.toNat % 65536
      if code = 0 then
        let s := s.updQp p n fun q => q.opened pay (k.aux.truncate 24) t.qpCtl
        ((s.reconnected p n).endWaiter p n .ok pay).pump p n 256
      else if code = Status.notReady.code.toNat then
        s.updQp p n fun q => { q with tries := 0, retryAt := (s.prtNo q.port).time + (k.roff.toNat / 2 ^ 32) * 1000 }
      else s.failQp p n ((allStatuses.find? fun st => st.code.toNat == code).getD .aborted)
/-- ACK. -/
def execAck (port : PortNo) (k : Pkt) (s : State) : Out := .next (s.arrive port opAck k fun s p n => s.ackMsg k p n)
/-- NAK. -/
def execNak (port : PortNo) (k : Pkt) (s : State) : Out := .next (s.arrive port opNak k fun s p n => s.nakMsg k p n)
/-- READ_RESP. -/
def execReadResp (port : PortNo) (k : Pkt) (s : State) : Out := .next (s.arrive port opReadResp k fun s p n => s.readRespMsg k p n)
/-- CONNECT_REP. -/
def execConnectRep (port : PortNo) (k : Pkt) (s : State) : Out :=
  .next (s.arrive port opConnectRep k fun s p n => s.connectRepMsg k p n)

/-! ### Timers -/

/-- RTO_EXPIRY: the oldest packet goes out again, as a loss; with `retry_max` timeouts in a row the queue pair fails. A queue
pair that is paused, or whose oldest packet may not be resent yet, keeps its timer (R279, R284). -/
def execRtoExpiry (p : Part) (n : Nat) (s : State) : Out :=
  .next (match s.qp? p n with
    | none => s
    | some q =>
      let now := (s.prtNo q.port).time
      match q.out.head? with
      | none => s
      | some o =>
        if !(q.st == .ready || q.st == .draining) || (q.pausedUntil.any fun u => now < u) || now < o.notBefore then s
        else
          let s := s.updQp p n fun q =>
            { q.winLoss now with rto := min (2 * q.rto) (64 * q.ctl.rtoMin * 1000), timeouts := q.timeouts + 1 }
          if q.timeouts + 1 ≥ q.ctl.retryMax && q.st = .ready then
            (s.failQp p n .aborted).event p evQpError 0 0 (BitVec.ofNat 64 n)
          else s.resend p n o)
/-- PAUSE_EXPIRY: a PAUSE or RESEND_AFTER hint is over; packets that waited for it go out again, and sending resumes. -/
def execPauseExpiry (p : Part) (n : Nat) (s : State) : Out :=
  .next (match s.qp? p n with
    | none => s
    | some q =>
      -- the hint that is over is the earliest of those that have not been taken yet
      let hints := q.pausedUntil.toList ++ ((q.out.filter fun o => !o.acked && o.notBefore ≠ 0).map (·.notBefore))
      let done := max (s.prtNo q.port).time (hints.min?.getD 0)
      let late := q.out.filter fun o => !o.acked && o.notBefore ≠ 0 && o.notBefore ≤ done
      let s := s.updQp p n fun q => { q with pausedUntil := q.pausedUntil.filter fun u => done < u }
      (s.forEach late fun s o => s.resend p n o).pump p n 256)
/-- CONNECT_RETRY: the request goes out again each 1 ms, or after a hint; the eighth unanswered one was the last. -/
def execConnectRetry (p : Part) (n : Nat) (s : State) : Out :=
  .next (match s.qp? p n with
    | none => s
    | some q =>
      if q.st ≠ .connecting || (s.prtNo q.port).time < q.retryAt then s
      else if q.tries ≥ 8 then s.failQp p n .aborted
      else s.sendConnect p n)
/-- DRAIN_TIMEOUT: 10 ms of DRAINING have passed. -/
def execDrainTimeout (p : Part) (n : Nat) (s : State) : Out :=
  .next (if (s.qp? p n).any fun q => q.st == .draining then s.closeQp p n else s)
/-- REVOKE_DRAINED: every packet that the drain counts has finished; the region is REVOKED and the revoke completes (R280). -/
def execRevokeDrained (p : Part) (i : Nat) (s : State) : Out :=
  .next (match s.region? p i with
    | none => s
    | some r =>
      if r.st ≠ .revoking then s
      else
        let s := (s.updRegion p i fun r => { r with st := .revoked, registered := false }).regionRecord p i jRegion 0
        match s.getP p none fun t => t.live.find? fun l => l.deferred == .revoke i with
        | none => s
        | some l => s.finish p l.q l.ent.cid .ok (r.rkey.zeroExtend 64) 0)

end Sys2Proof.Machine
end

