-- ==== Sys2Proof/Machine/Ports.lean ====
section
/-! DEFINITION. Ports: gate lists, class queues, shapers and policers, latency samples, port time, links and spread spectrum
(spec 12 R261 to R265, R286 to R294; 14 R338). -/

namespace Sys2Proof.Machine

/-! ### Gate lists (R291) -/

/-- The operational list's entries as (gates, length in ns): the last one holds for the rest of the cycle. -/
def GateList.segments (l : GateList) : List (Nat × Nat) :=
  let sum := (l.entries.map (·.2)).sum
  match l.entries.reverse with
  | [] => []
  | e :: es => (es.reverse) ++ [(e.1, e.2 + (l.cycle - sum))]
/-- How far into its cycle a list is at a time. -/
def GateList.phase (l : GateList) (time : Nat) : Nat := (((time : Int) - (l.base : Int)) % (l.cycle : Int)).toNat
/-- The segment that a phase falls into, with what is left of it. -/
def findSegment : List (Nat × Nat) → Nat → Nat → Nat × Nat
  | [], i, _ => (i, 0)
  | e :: es, i, ph => if ph < e.2 then (i, e.2 - ph) else findSegment es (i + 1) (ph - e.2)
/-- How long a class stays open over segments that follow each other. -/
def openRun (c : Nat) : List (Nat × Nat) → Nat
  | [] => 0
  | e :: es => if bitOf e.1 c then e.2 + openRun c es else 0
/-- How long the gate of a class stays open from a time on: none where it never closes. -/
def GateList.openFor (l : GateList) (c time : Nat) : Option Nat :=
  let g := l.segments
  if g.all fun e => bitOf e.1 c then none
  else
    let at_ := findSegment g 0 (l.phase time)
    if bitOf ((g.getD at_.1 (0, 0)).1) c then some (at_.2 + openRun c (g.drop (at_.1 + 1) ++ g)) else some 0
/-- The longest open interval of a class in a cycle: none where it never closes. -/
def GateList.longest (l : GateList) (c : Nat) : Option Nat :=
  let g := l.segments
  if g.all fun e => bitOf e.1 c then none
  else some (((List.range g.length).map fun i => openRun c (g.drop i ++ g)).foldl max 0)
/-- Is a port's gate list operational? -/
def State.gated (s : State) (n : Nat) : Bool := bitOf (s.portReg n 0x14) 0 && (s.prtNo n).everLocked
/-- Picoseconds of a byte on a port's line: 1.6 Tb/s, or 800 Gb/s in mode 1 (Table 12-1). -/
def State.byteTime (s : State) (n : Nat) : Nat := if s.portReg (n / 2 * 2) 4 % 2 = 1 then 10 else 5
/-- May a frame of a class start: its gate open, and its last bit and gap gone before the gate closes, by the list or by the list
that takes over at its change time? -/
def State.gateAllows (s : State) (n c time bytes : Nat) : Bool :=
  if !(s.gated n) then true
  else
    let q := s.prtNo n
    let need := bytes * s.byteTime n
    let fits := match q.oper.openFor c time with
      | none => true
      | some d => need ≤ d * 1000 && d ≠ 0
    let cut := match q.staged with
      | none => true
      | some (l, t) => bitOf (((l.segments).getD (findSegment l.segments 0 (l.phase t)).1 (0xFF, 0)).1) c || time * 1000 + need ≤ t * 1000
    fits && cut
/-- Is a frame of a class too long for every open interval of a whole cycle? -/
def State.oversize (s : State) (n c bytes : Nat) : Bool :=
  s.gated n && ((s.prtNo n).oper.longest c).any fun d => d * 1000 < bytes * s.byteTime n

/-! ### Class queues (R290) -/

/-- The sub-queues of a class that hold frames, by number. -/
def Port.busy (q : Port) (c : Nat) : List Nat :=
  ((q.queues.filter fun kv => kv.1 / 32 == c && !kv.2.frames.isEmpty).map fun kv => kv.1 % 32)
/-- Deficit round robin among partitions: the sub-queue whose turn it is goes on while its deficit lasts, then the next one takes
its quantum. -/
def Port.drr (quantum : Nat → Nat) (c : Nat) : Nat → Port → Option (Nat × Port)
  | 0, _ => none
  | fuel + 1, q =>
    let bs := (q.busy c).filter (· ≠ devSub)
    let cur := q.turns.getD c 0
    let head := ((q.queues.find (subKey c cur)).bind fun e => e.frames.head?.map fun f => (e, f))
    match head with
    | some (e, f) =>
      if f.bytes ≤ e.deficit then some (cur, q)
      else match ((bs.filter (cur < ·)) ++ bs.filter (· ≤ cur)).head? with
        | none => none
        | some b => Port.drr quantum c fuel
            { q with turns := listSet q.turns c fun _ => b
                     queues := q.queues.upd (subKey c b) fun e => { e with deficit := e.deficit + quantum b } }
    | none =>
      match ((bs.filter (cur < ·)) ++ bs.filter (· ≤ cur)).head? with
      | none => none
      | some b => Port.drr quantum c fuel
          { q with turns := listSet q.turns c fun _ => b
                   queues := (q.queues.upd (subKey c cur) fun e => { e with deficit := 0 }).upd (subKey c b) fun e =>
                     { e with deficit := e.deficit + quantum b } }
/-- The sub-queue that a class serves next: the device's first. -/
def State.candidate (s : State) (n c : Nat) : Option (Nat × Port) :=
  let q := s.prtNo n
  if (q.busy c).contains devSub then some (devSub, q)
  else q.drr (fun p => 8192 * s.getP (Fin.ofNat 16 p) 0 fun t => popCount t.clusters) c 40
/-- The head frame of a sub-queue. -/
def Port.head (q : Port) (c sub : Nat) : Option OutFrame := (q.queues.find (subKey c sub)).bind fun e => e.frames.head?
/-- Remove the head frame of a sub-queue; a partition's deficit pays for it, and is lost when the sub-queue empties. -/
def Port.popHead (q : Port) (c sub bytes : Nat) : Port :=
  { q with queues := q.queues.upd (subKey c sub) fun e =>
      let rest := e.frames.drop 1
      { frames := rest, deficit := if rest.isEmpty then 0 else e.deficit - bytes } }
/-- Drop the head frames of a class that fit no open interval. -/
def State.dropOversize (s : State) (n c : Nat) : Nat → State
  | 0 => s
  | fuel + 1 =>
    match s.candidate n c with
    | none => s
    | some (sub, q) =>
      match q.head c sub with
      | none => s
      | some f =>
        if s.oversize n c f.bytes then
          State.dropOversize ((s.updPort n fun _ => q.popHead c sub f.bytes).portCount n pGateOversize) n c fuel
        else s
/-- Does a class shaper let a frame start? -/
def Port.shaped (q : Port) (c : Nat) : Bool := q.rates.getD c 0 = 0 || q.tokens.getD c 0 ≥ 0
/-- Bytes waiting in a class queue. -/
def Port.depth (q : Port) (c : Nat) : Nat :=
  ((q.queues.filter fun kv => kv.1 / 32 == c).map fun kv => (kv.2.frames.map (·.bytes)).sum).sum
/-- A latency sample (Table 12-16). -/
def sampleBytes (time sojourn depth c : Nat) (locked : Bool) : List Byte :=
  toLe time 8 ++ toLe (min sojourn (2 ^ 32 - 1)) 4 ++ toLe (depth / 64) 3 ++ toLe (c * 32 + b2n (!locked) * 16) 1
/-- A frame starts: it is marked, counted, sampled and pays its tokens (R286, R290, R292, R293). -/
def State.startFrame (s : State) (n c sub time : Nat) (q : Port) (f : OutFrame) : State :=
  let soj := time - f.queuedAt
  let mark := f.pkt.isSome && soj > 100 * s.portReg n (0x1C + 4 * c)
  let f : OutFrame := if mark then { f with pkt := f.pkt.map fun k => { k with ce := true } } else f
  let q := q.popHead c sub f.bytes
  let d := q.depth c
  let cnt := q.dequeues.getD c 0 + 1
  let q : Port := { q with
    tokens := if q.rates.getD c 0 = 0 then q.tokens else listSet q.tokens c fun v => v - (f.bytes : Int)
    dequeues := listSet q.dequeues c fun _ => cnt
    samples := if cnt % 2 ^ s.portReg n 0x18 = 0 then (q.samples ++ [sampleBytes time soj d c q.locked]).drop (q.samples.length + 1 - 4096) else q.samples
    latMax := listSet q.latMax c fun m => (max m.1 (min soj (2 ^ 32 - 1)), max m.2 (d / 64))
    sent := some f }
  let q := (if mark then q.count pCeMarked else q).count pTxFrames
  s.updPort n fun _ => q
/-- EGRESS_FRAME_START: at a frame boundary the port starts the head frame of the highest class that may go. -/
def execEgressFrameStart (port : PortNo) (time : Nat) (s : State) : Out :=
  let n := port.val
  .next (if !(s.prtNo n).up then s
    else
      let s := (s.pumpPort n).updPort n fun q => { q with time := time }
      let s := s.forEach (List.range 8) fun s c => s.dropOversize n c (((s.prtNo n).queues.map fun kv => kv.2.frames.length).sum)
      match (List.range 8).reverse.findSome? fun c =>
          (s.candidate n c).bind fun o => (o.2.head c o.1).bind fun f =>
            if s.gateAllows n c time f.bytes && o.2.shaped c then some (c, o.1, o.2, f) else none with
      | none => s
      | some (c, sub, q, f) => s.startFrame n c sub time q f)

/-! ### Buckets (R289, R292) -/

/-- Bytes that a rate in Mb/s gives in some ns. -/
def earned (rate ns : Nat) : Nat := rate * ns / 8000
/-- BUCKET_REFILL: shapers and policers gain the elapsed port time at their rates, never above the burst; then the staged controls
take effect, and a smaller burst clamps the tokens. -/
def execBucketRefill (port : PortNo) (time : Nat) (s : State) : Out :=
  let n := port.val
  let bound := s.parts.filter fun kv => bitOf kv.2.binding.ports.toNat n
  let keys := (bound.map fun kv => (List.range 8).map fun c => (kv.1, c)).flatten
  let reg := fun off => s.portReg n off
  .next (s.updPort n fun q =>
    let dt := time - q.refillAt
    let grown := (List.range 8).map fun c =>
      min ((q.bursts.getD c 0 : Nat) : Int) (q.tokens.getD c 0 + (earned (q.rates.getD c 0) dt : Int))
    let bursts := (List.range 8).map fun c => reg (0x220 + 4 * c)
    let pol := keys.foldl (fun (m : Tab Nat) (e : Nat × Nat) =>
      let k := polKey e.1 e.2
      let b := q.polBursts.getD k 0x100000
      let v := min b (q.polTokens.getD k b + earned (q.polRates.getD k 0) dt)
      m.put k (min v (reg (0x600 + 32 * e.1 + 4 * e.2)))) q.polTokens
    { q with time := max q.time time, refillAt := time
             tokens := (List.range 8).map fun c => min (grown.getD c 0) ((bursts.getD c 0 : Nat) : Int)
             rates := (List.range 8).map fun c => reg (0x200 + 4 * c), bursts := bursts, polTokens := pol
             polRates := keys.foldl (fun m e => m.put (polKey e.1 e.2) (reg (0x400 + 32 * e.1 + 4 * e.2))) q.polRates
             polBursts := keys.foldl (fun m e => m.put (polKey e.1 e.2) (reg (0x600 + 32 * e.1 + 4 * e.2))) q.polBursts
             devTokens := min 65536 (q.devTokens + earned 10 dt) })
/-- REPLY_BUCKET_REFILL: replies earned since, up to 128. -/
def execReplyBucketRefill (port : PortNo) (replies : Nat) (s : State) : Out :=
  .next (s.updPort port.val fun q => { q with replies := min 128 (q.replies + replies) })

/-! ### The gate list's life (R291) -/

/-- The administrative list in the registers (Table 12-14). -/
def State.adminList (s : State) (n : Nat) : GateList :=
  { entries := (List.range (s.portReg n 0x1000)).map fun i =>
      (bitsOf (s.portReg n (0x800 + 8 * i)) 39 32, bitsOf (s.portReg n (0x800 + 8 * i)) 31 0)
    base := s.portReg n 0x1008, cycle := s.portReg n 0x1010 }
/-- May a list be staged? -/
def GateList.fits (l : GateList) : Bool :=
  1 ≤ l.entries.length && l.entries.length ≤ 256 && 1000 ≤ l.cycle && l.cycle ≤ 1000000000
    && (l.entries.all fun e => 100 ≤ e.2) && decide ((l.entries.map (·.2)).sum ≤ l.cycle)
/-- The change time: the earliest start of a cycle at least 10 µs after the write. -/
def GateList.changeTime (l : GateList) (now : Nat) : Nat :=
  if now + 10000 ≤ l.base then l.base else l.base + (now + 10000 - l.base + l.cycle - 1) / l.cycle * l.cycle
/-- The administrative list is staged, if it fits its ranges, for its change time. -/
def State.gclGo (s : State) (n time : Nat) : State :=
  let l := s.adminList n
  if l.fits then s.updPort n fun q => { q with staged := some (l, l.changeTime time) } else s
/-- GCL_GO. -/
def execGclGo (port : PortNo) (time : Nat) (s : State) : Out := .next (s.gclGo port.val time)
/-- GCL_CHANGE_TIME: the staged list takes over. -/
def execGclChangeTime (port : PortNo) (s : State) : Out :=
  .next (s.updPort port.val fun q =>
    match q.staged with
    | none => q
    | some (l, t) => { q with oper := l, staged := none, time := max q.time t })
/-- GCL_ENTRY_ADVANCE: the interval of the entry that runs has ended; port time stands at the next entry's start. -/
def execGclEntryAdvance (port : PortNo) (s : State) : Out :=
  .next (if !(s.gated port.val) then s
    else s.updPort port.val fun q => { q with time := q.time + (findSegment q.oper.segments 0 (q.oper.phase q.time)).2 })

/-! ### Port time, links and spread (R262 to R264, R287, R338) -/

/-- Does a port exist in its mode: sub-port 1 only in mode 1? -/
def State.portExists (s : State) (n : Nat) : Bool := n % 2 = 0 || s.portReg (n / 2 * 2) 4 % 2 = 1
/-- A port goes down: its lock is lost. -/
def Port.down (q : Port) : Port := { q with up := false, locked := false, good := 0 }
/-- PORT_LINK_CHANGE: a port trains up, if it is enabled and the reference is free of spread, or goes down. Until the first lock
port time counts from link-up. -/
def execPortLinkChange (port : PortNo) (up : Bool) (s : State) : Out :=
  let n := port.val
  .next (if !up then s.updPort n Port.down
    else if s.power.spread || !(s.portExists n) || !(bitOf (s.portReg (n / 2 * 2) 0) 0) then s
    else s.updPort n fun q =>
      if q.up then q else { q with up := true, time := if q.everLocked then q.time else 0, refillAt := if q.everLocked then q.refillAt else 0 })
/-- SPREAD_CHECK: an excursion above 1,000 ppm is spread: every port goes down. -/
def execSpreadCheck (ppm : Nat) (s : State) : Out :=
  .next (if ppm ≤ 1000 then s
    else
      let first := !s.power.spread
      let s := { s with power := { s.power with spread := true }, ports := s.ports.mapV fun _ q => q.down }
      if first then s.devEvent evPortRefclkSsc 0 0 0 else s)
/-- SPREAD_CLEARED: spread has been absent for 65,536 reference cycles; the ports may train. -/
def execSpreadCleared (s : State) : Out := .next { s with power := { s.power with spread := false } }
/-- RX_PAUSE_FRAME: discarded and counted. -/
def execRxPauseFrame (port : PortNo) (s : State) : Out :=
  .next (if (s.prtNo port.val).up then (s.portCount port.val pRxFrames).portCount port.val pRxPause else s)
/-- What the device policer takes for a frame whose command does not tell its length: the least frame (DESIGN CHOICE, log entry 166). -/
def minFrame : Nat := 64
/-- PTP_MESSAGE: the follower takes a Sync message of its domain; sixteen in a row within 100 ns lock it. -/
def execPtpMessage (port : PortNo) (domain : BitVec 8) (sync : Bool) (offset time : Nat) (s : State) : Out :=
  let n := port.val
  .next (if !(s.prtNo n).up then s
    else
      ((s.portCount n pRxFrames).devPolice n minFrame).elim (s.portCount n pRxFrames) fun s =>
      if domain.toNat ≠ s.portReg n 0x10 || !sync then s
      else
        let q := s.prtNo n
        let good := if offset < 100 then q.good + 1 else 0
        let lock := good ≥ 16 && !q.locked
        let s := s.updPort n fun q =>
          { q with good := good, time := time, locked := q.locked || good ≥ 16, everLocked := q.everLocked || good ≥ 16
                   holdover := q.holdover && !(good ≥ 16) }
        if lock then s.devEvent evPortTimeLocked 0 0 (BitVec.ofNat 64 n) else s)
/-- PTP_HOLDOVER: eight Sync intervals without a Sync message; port time holds over. -/
def execPtpHoldover (port : PortNo) (s : State) : Out :=
  let n := port.val
  .next (if !(s.prtNo n).up || (s.prtNo n).holdover then s
    else (s.updPort n fun q => { q with locked := false, good := 0, holdover := true }).devEvent evPortTimeHoldover 0 0
      (BitVec.ofNat 64 n))
/-- ARP_ND_LLDP_FRAME: processed before service-ready too; a question for an address bound to the port is answered in the device
sub-queue, in a frame of 84 bytes of line time (DESIGN CHOICE, log entry 51). -/
def execArpNdLldpFrame (port : PortNo) (asks : Option (BitVec 128)) (s : State) : Out :=
  let n := port.val
  .next (if !(s.prtNo n).up then s
    else
      ((s.portCount n pRxFrames).devPolice n minFrame).elim (s.portCount n pRxFrames) fun s =>
      match asks with
      | none => s
      | some a => if (s.addrOwner n a).isSome then s.deviceFrame n 0 none 84 else s)

end Sys2Proof.Machine
end

