-- ==== Sys2Proof/Machine/Flash.lean ====
section
/-! DEFINITION. The flash tier: superblocks, the map, parity and verification, repair, garbage collection, capacity and the tier's
state (spec 10 R213 to R230, R236). -/

namespace Sys2Proof.Machine

/-- The package serial of the identity die (15 Table 15-2). -/
def deviceSerial : BitVec 128 := BitVec.ofNat 128 (leNat ((List.range 16).map fun i => Config.identityByte (0x18 + i)))
/-- Change the flash tier. -/
def State.updFlash (s : State) (f : Flash → Flash) : State := { s with flash := f s.flash }
/-- Raise an event in every partition's log and in the device log. -/
def State.eventAll (s : State) (code status : Nat) (arg : Word) : State :=
  (s.forEach s.parts fun s kv => s.event (Fin.ofNat 16 kv.1) code status 0 arg).devEvent code status 0 arg
/-- Raise an event in every partition's log. -/
def State.eventParts (s : State) (code status : Nat) (arg : Word) : State :=
  s.forEach s.parts fun s kv => s.event (Fin.ofNat 16 kv.1) code status 0 arg

/-! ### Blocks and superblocks (R213, R214) -/

/-- Bytes of a piece. -/
def pieceBytes : Nat := 16384
/-- A block: its carrier, the carrier's channel, its number on that channel. -/
abbrev BlockId := Nat × Nat × Nat
/-- Blocks of one channel of a carrier. -/
def Carrier.blocks (c : Carrier) : Nat := c.geo.dies * c.geo.blocks
/-- The key of a block's wear. -/
def wearKey (id j b : Nat) : Nat := (id * 4 + j) * 2 ^ 24 + b
/-- Block 0 of die 0 on channels 0 and 2 holds the identity record. -/
def reservedBlock (j b : Nat) : Bool := b == 0 && (j == 0 || j == 2)
/-- The carriers in service, by slot. -/
def Flash.inService (f : Flash) : List (Nat × Carrier) := f.slots.filter fun kv => kv.2.st == .inService
/-- The carrier of an identifier. -/
def Flash.carrier? (f : Flash) (id : Nat) : Option Carrier := (f.slots.find? fun kv => kv.2.id == id && kv.2.st != .absent).map (·.2)
/-- Blocks of a carrier's channel that superblocks and their parity hold. -/
def Flash.taken (f : Flash) (id j : Nat) : List Nat :=
  ((f.sbs.map fun kv => ((kv.2.members ++ kv.2.parity).filter fun m => m.1 == id && m.2.1 == j).map (·.2.2)).flatten)
/-- Good blocks of a carrier's channel. -/
def Flash.goodBlocks (f : Flash) (c : Carrier) (j : Nat) : Nat :=
  c.blocks - (if j = 0 || j = 2 then 1 else 0) - (f.bad.filter fun b => b.1 == c.id && b.2.1 == j).length
/-- Free good blocks of a carrier's channel; a retired block that a superblock still holds is no good one already. -/
def Flash.freeBlocks (f : Flash) (c : Carrier) (j : Nat) : Nat :=
  f.goodBlocks c j - ((f.taken c.id j).filter fun b => !(f.bad.contains (c.id, j, b))).length
/-- The least-worn free block of a carrier's channel that passes a test. -/
def Flash.pickBlock (f : Flash) (c : Carrier) (j : Nat) (ok : Nat → Bool := fun _ => true) : Option Nat :=
  let used := f.taken c.id j
  ((List.range c.blocks).filter fun b => !(reservedBlock j b) && !(used.contains b) && !(f.bad.contains (c.id, j, b)) && ok b).foldl
    (fun (best : Option Nat) b => match best with
      | none => some b
      | some a => if f.wear.getD (wearKey c.id j b) 0 < f.wear.getD (wearKey c.id j a) 0 then some b else some a) none
/-- The channels of the carriers in service, in ascending order. -/
def Flash.channels (f : Flash) : List (Carrier × Nat) :=
  (f.inService.map fun kv => (List.range (min 4 kv.2.geo.channels)).map fun j => (kv.2, j)).flatten
/-- Usable channels: a free good block above the reserve of eight; `more` asks for that many beyond the first. -/
def Flash.usable (f : Flash) (more : Nat := 0) : List (Carrier × Nat) :=
  f.channels.filter fun e => f.freeBlocks e.1 e.2 > 8 + more
/-- The width of a superblock opened now. -/
def Flash.width (f : Flash) : Nat := f.usable.length / 2 * 2
/-- The least width: 8, or half of the channels in service if that is more (Table 10-10). -/
def Flash.minWidth (f : Flash) : Nat := max 8 (f.channels.length / 2)
/-- Is a stream mirrored (Table 10-2)? -/
def mirrored (stream : Nat) : Bool := stream ≤ 3 || stream == 7
/-- Columns that carry data of their own. -/
def Superblock.cols (b : Superblock) : Nat := if mirrored b.stream then b.members.length / 2 else b.members.length
/-- Slots of a superblock. -/
def Superblock.slots (b : Superblock) : Nat := b.rows * b.cols
/-- The column of a slot, or of its mirror copy (R218). -/
def Superblock.colOf (b : Superblock) (slot : Nat) (mirror : Bool) : Nat := slot % b.cols + if mirror then b.cols else 0
/-- The carrier that holds a slot's piece. -/
def Superblock.carrierAt (b : Superblock) (slot : Nat) (mirror : Bool) : Nat := (b.members.getD (b.colOf slot mirror) (0, 0, 0)).1
/-- Valid slots of a superblock: those of units that the map names there. -/
def Flash.valid (f : Flash) (sb : Nat) : Nat := 16 * (f.map.filter fun kv => kv.2.sb == sb && !kv.2.disc).length
/-- A parity block on a die outside some blocks, and the rows that it serves: in single-level mode where that is offered (R220). -/
def Flash.parityBlock (f : Flash) (ms : List BlockId) : Option (BlockId × Nat) :=
  f.usable.findSome? fun e =>
    let c := e.1
    let dies := (ms.filter fun m => m.1 == c.id && m.2.1 == e.2).map fun m => m.2.2 / max 1 c.geo.blocks
    (f.pickBlock c e.2 fun b => !(dies.contains (b / max 1 c.geo.blocks))).map fun b =>
      ((c.id, e.2, b), if c.geo.slcPages = 0 then c.geo.pages else c.geo.slcPages)
/-- The parity blocks for some rows, each on a die of its own; none where the dies do not suffice. -/
def Flash.parityBlocks (f : Flash) (ms : List BlockId) : Nat → Nat → List BlockId → Option (List BlockId)
  | _, 0, acc => some acc
  | 0, _, _ => none
  | n + 1, rows, acc =>
    match f.parityBlock (ms ++ acc) with
    | none => none
    | some (m, k) => f.parityBlocks ms n (rows - k) (acc ++ [m])
/-- Open a superblock, its blocks the least-worn ones, with its parity blocks (R214, R220); none where none can be formed. -/
def Flash.openSb (f : Flash) (part stream : Nat) : Option (Flash × Nat) :=
  let us := f.usable.take f.width
  if us.length < f.minWidth then none
  else
    let ms := us.filterMap fun e => (f.pickBlock e.1 e.2).map fun b => (e.1.id, e.2, b)
    let rows := (us.map fun e => e.1.geo.pages).foldl min 3072
    (f.parityBlocks ms rows rows []).map fun ps =>
      let b : Superblock := { st := .opened, part := part, stream := stream, members := ms, rows := rows, used := 0, wseq := 0
                              marked := false, parity := ps, lastRead := f.reads }
      ({ f with sbs := f.sbs.put f.nextSb b, nextSb := f.nextSb + 1 }, f.nextSb)
/-- Close a superblock (Table 10-3). -/
def Flash.closeSb (f : Flash) (n : Nat) : Flash :=
  { f with sbs := f.sbs.upd n fun b => if b.st = .opened then { b with st := .closed, wseq := f.wseq } else b }
/-- Pieces are programmed on a superblock: the device's `wseq`, `nand_bytes` and the carriers' `bytes_written` advance. -/
def Flash.programmed (f : Flash) (b : Superblock) (pieces : Nat) : Flash :=
  { f with wseq := f.wseq + pieces, stats := listSet f.stats 1 fun v => (v + pieces * pieceBytes) % 2 ^ 64
           health := b.members.foldl (fun (h : Tab CarLog) m => h.upd m.1 fun l =>
             { l with bytesWritten := l.bytesWritten + pieces * pieceBytes / b.members.length }) f.health }
/-- Take sixteen slots of a partition's stream, in its open superblock or in a new one (R216, R218). -/
def Flash.takeSlots (f : Flash) (part stream : Nat) : Option (Flash × Nat × Nat) :=
  let cur := f.sbs.findKey fun _ b => b.st == .opened && b.part == part && b.stream == stream
  let fits := cur.bind fun n => (f.sbs.find n).bind fun b => if b.used + 16 ≤ b.slots then some (n, b) else none
  let open_ := match fits with
    | some (n, b) => some (f, n, b)
    | none =>
      let f := match cur with
        | some n => f.closeSb n
        | none => f
      (f.openSb part stream).bind fun r => (r.1.sbs.find r.2).bind fun b => if b.used + 16 ≤ b.slots then some (r.1, r.2, b) else none
  open_.map fun e =>
    let b := e.2.2
    let rowsOf := fun (n : Nat) => (n + b.cols - 1) / b.cols
    let pieces := (if mirrored b.stream then 32 else 16) + (rowsOf (b.used + 16) - rowsOf b.used)
    let f := { e.1 with sbs := e.1.sbs.upd e.2.1 fun b => { b with used := b.used + 16 } }
    (f.programmed b pieces, e.2.1, b.used)
/-- Fill the last rows that a partition's open superblocks have begun, so that their parity is programmed before the map record that names
their pieces (R220; DESIGN CHOICE, log entry 159). -/
def Flash.fillRows (f : Flash) (part : Nat) : Flash :=
  (f.sbs.filter fun kv => kv.2.st == .opened && kv.2.part == part && kv.2.stream != 0 && kv.2.used % kv.2.cols != 0).foldl (fun f kv =>
    let b := kv.2
    let n := b.cols - b.used % b.cols
    ({ f with sbs := f.sbs.upd kv.1 fun b => { b with used := b.used + n } }).programmed b (if mirrored b.stream then 2 * n else n)) f

/-! ### The want of a superblock (Table 10-10) -/

/-- Blocks of a channel that garbage collection can free: those of superblocks that hold something invalid, or that it has already taken. -/
def Flash.freeable (f : Flash) (c : Carrier) (j : Nat) : Nat :=
  ((f.sbs.filter fun kv => kv.2.stream != 0 && (kv.2.st == .erasing || kv.2.st == .victim
      || (kv.2.st == .verified && f.valid kv.1 < kv.2.slots))).map fun kv =>
    (kv.2.members.filter fun m => m.1 == c.id && m.2.1 == j).length).sum
/-- Can garbage collection free blocks on enough channels for a superblock? -/
def Flash.couldForm (f : Flash) : Bool :=
  decide ((f.channels.filter fun e => f.freeBlocks e.1 e.2 + f.freeable e.1 e.2 > 8).length / 2 * 2 ≥ f.minWidth)
/-- A stream finds no superblock: it waits for garbage collection where that can free enough, and the tier is READ_ONLY where not. -/
def Flash.starve (f : Flash) : Flash :=
  if f.couldForm then { f with waiting := true } else { f with waiting := true, tier := .readOnly }
/-- Can superblocks be formed, so many of them? -/
def Flash.canForm (f : Flash) (n : Nat) : Bool := decide ((f.usable (n - 1)).length / 2 * 2 ≥ f.minWidth)

/-! ### The map (R217 to R219, R222) -/

/-- The 8 bytes of a map entry (Table 10-4). -/
def MapUnit.entry (u : MapUnit) : List Byte :=
  toLe ((if u.disc then 3 else if mirrored u.stream then 2 else 1) * 2 ^ 62 + u.stream % 16 * 2 ^ 56 + u.sb % 2 ^ 24 * 2 ^ 32
    + u.slot % 2 ^ 24 * 2 ^ 8) 8
/-- The spare record of a piece (Table 10-5): the unit's key, the piece, whether the mirror copy. -/
def MapUnit.spare (u : MapUnit) (k i : Nat) (mirror : Bool) : List Byte :=
  let w := u.wseq + i + if mirror then 16 else 0
  toLe (keyPart k % 16) 1 ++ toLe (u.stream % 16) 1 ++ toLe (128 * b2n mirror + i % 16) 1 ++ List.replicate 5 0 ++ toLe (k % 2 ^ 32) 8
    ++ toLe w 8 ++ toLe (Config.pieceCrc w).toNat 4 ++ toLe 0 4
/-- Does a piece agree with the entry that led to it, and its bytes with their check (R219)? -/
def MapUnit.agrees (u : MapUnit) (k : Nat) (pc : Piece) : Bool :=
  let g := fld pc.spare
  g 0 1 == keyPart k && g 1 1 == u.stream && g 2 1 == 128 * b2n pc.mirror + pc.num && g 8 8 == k % 2 ^ 32 && g 0x18 4 == pc.crc.toNat
/-- The carriers that hold pieces of a unit: of its first copies, and of its mirrors. -/
def Flash.carriersOf (f : Flash) (u : MapUnit) : List Nat × List Nat :=
  match if u.disc then none else f.sbs.find u.sb with
  | none => ([], [])
  | some b => ((List.range 16).map fun i => b.carrierAt (u.slot + i) false,
      if mirrored b.stream then (List.range 16).map fun i => b.carrierAt (u.slot + i) true else [])
/-- Does a unit have a piece on a carrier? -/
def Flash.onCarrier (f : Flash) (u : MapUnit) (id : Nat) : Bool :=
  let c := f.carriersOf u
  c.1.contains id || c.2.contains id
/-- The pieces of a unit on a carrier: 0 to 15, and 16 to 31 the mirror copies. -/
def Flash.piecesAt (f : Flash) (u : MapUnit) (id : Nat) : List Nat :=
  let c := f.carriersOf u
  (List.range 32).filter fun i => if i < 16 then c.1.getD i 0 == id else c.2.getD (i - 16) 0 == id
/-- An object as its partition wants it on flash: its first unit where it has a fixed place, its units, those discarded, its stream. -/
structure FlashWant where
  owner : FlashOwner
  place : Option Nat
  n : Nat
  disc : List Nat
  stream : Nat
  deriving DecidableEq, Repr
/-- The stream of a page group: 4 when a session parked with TOOL_WAIT names it (Table 10-2). -/
def Partition.groupStream (t : Partition) (h : Handle) : Nat :=
  if t.sessions.any fun kv => kv.2.st == .parked && kv.2.parkReason == 1
      && (t.seqsOf kv.2).any fun q => q.2.table.any fun e => e.2 == h then 4 else 5
/-- Map units of so many bytes. -/
def unitsOf (bytes : Nat) : Nat := (bytes + mapUnit - 1) / mapUnit
/-- Bytes of a session's image: its record, and each sequence's record, page table and keys; its regions have images of their own. -/
def SessImage.bytes (im : SessImage) : Nat := 4096 + (im.seqs.map fun q => 4096 + 24 * q.2.table.length + 16 * q.2.keys.length).sum
/-- What a partition has on flash. A recomputable region lies there where its home is T2; an authoritative one once it has been synced; a
session, the program store and the records once a park or a checkpoint has written their image (13 R315, R316). -/
def State.onFlash (s : State) (p : Part) (t : Partition) : List FlashWant :=
  let j := s.journal p.val
  let there := fun (o : FlashOwner) => j.images.contains o && !(s.flash.lost.contains (p.val, o))
  (t.groups.filterMap fun kv =>
      let w := fun (loc : Nat) => some (FlashWant.mk (.group kv.2.h) (some (loc / 64)) (unitsOf (t.groupBytes kv.2)) [] (t.groupStream kv.2.h))
      if kv.2.tier = .t2 then w kv.2.loc else if kv.2.backing = some Tier.t2 then w kv.2.backLoc else none)
    ++ (t.regions.filterMap fun kv =>
      let r := kv.2
      if r.binding.isSome then none
      else if r.cls = 1 then (if r.synced then
        some ⟨.image r.h, none, unitsOf r.size, [], if 1 ≤ r.use && r.use ≤ 3 then 1 else if r.use = 5 then 2 else 3⟩ else none)
      else if r.home = 2 then some ⟨.region r.h, none, unitsOf r.size, r.discarded, 5⟩ else none)
    ++ (j.sessions.filterMap fun kv =>
      if there (.session kv.2.sess.h) then some ⟨.session kv.2.sess.h, none, unitsOf kv.2.bytes, [], 1⟩ else none)
    ++ (if there .programs then
        [⟨.programs, none, max 1 (unitsOf (t.programs.map fun kv => kv.2.bytes).sum), [], 3⟩] else [])
    ++ (if there .records then
        [⟨.records, none, unitsOf (64 + 64 * j.tenants.length + 64 * j.domains.length + 512 * j.models.length), [], 3⟩] else [])
/-- The lowest run of `n` unmapped units of a partition from `lo` on: it starts there or behind a mapped unit. -/
def Flash.freeRun (f : Flash) (part lo n : Nat) : Nat :=
  let ends := (f.map.filter fun kv => keyPart kv.1 == part && kv.1 % 2 ^ 32 ≥ lo).map fun kv => kv.1 % 2 ^ 32 + 1
  ((lo :: ends).find? fun a => (List.range n).all fun i => !(f.map.has (unitKey part (a + i)))).getD lo
/-- Place one unit; `user_bytes` counts what is written. -/
def Flash.placeUnit (f : Flash) (k : Nat) (o : FlashOwner) (idx stream : Nat) : Flash × Bool :=
  match f.takeSlots (keyPart k) stream with
  | none => (f.starve, false)
  | some (g, sb, slot) =>
    ({ g with map := g.map.put k ⟨o, idx, stream, sb, slot, false, [], false, f.wseq⟩
              stats := listSet g.stats 0 fun v => (v + mapUnit) % 2 ^ 64 }, true)
/-- The entries of an object, and its units that have none. -/
def Flash.entriesOf (f : Flash) (part : Nat) (o : FlashOwner) : Tab MapUnit := f.map.filter fun kv => keyPart kv.1 == part && kv.2.owner == o
def Flash.missing (f : Flash) (part : Nat) (w : FlashWant) : List Nat :=
  let mine := f.entriesOf part w.owner
  (List.range w.n).filter fun i => !(mine.any fun kv => kv.2.idx == i)
/-- Place what is missing of an object, as one run of consecutive units; it says whether all of it has a place. -/
def Flash.placeObj (f : Flash) (part lo : Nat) (w : FlashWant) : Flash × Bool :=
  let missing := f.missing part w
  if missing.isEmpty then (f, true)
  else
    let mayLie := fun (b : Nat) => (List.range w.n).all fun i =>
      (f.map.find (unitKey part (b + i))).all fun u => u.owner == w.owner && u.idx == i
    let old := (w.place.or (((f.entriesOf part w.owner).head?).map fun kv => kv.1 % 2 ^ 32 - kv.2.idx)).filter mayLie
    let away := { f with map := f.map.keep fun k u => !(keyPart k == part && u.owner == w.owner) }
    let st := match old with
      | some b => (f, b, missing)
      | none => (away, (w.place.getD (away.freeRun part lo w.n)), List.range w.n)
    st.2.2.foldl (fun (a : Flash × Bool) i =>
      if !a.2 then a
      else if w.disc.contains i then
        ({ a.1 with map := a.1.map.put (unitKey part (st.2.1 + i)) ⟨w.owner, i, w.stream, 0, 0, true, [], false, 0⟩ }, true)
      else a.1.placeUnit (unitKey part (st.2.1 + i)) w.owner i w.stream) (st.1, true)
/-- Write a unit again, in a stream, in its open superblock or a new one (R216); where none is found it stays where it is. -/
def Flash.rewrite (f : Flash) (k stream : Nat) : Flash :=
  match f.map.find k with
  | none => f
  | some u =>
    match f.takeSlots (keyPart k) stream with
    | none => f.starve
    | some (g, sb, slot) =>
      { g with map := g.map.put k { u with sb := sb, slot := slot, stream := stream, gone := [], stale := false, wseq := f.wseq } }
/-- The changes of a partition's entries from one map to another, as a MAP record carries them. -/
def mapChanges (part : Nat) (was now : Tab MapUnit) : List (Nat × Option MapUnit) :=
  let same := fun (a b : MapUnit) => { a with gone := [], stale := false } == { b with gone := [], stale := false }
  ((was.filter fun kv => keyPart kv.1 == part && !(now.has kv.1)).map fun kv => (kv.1, none))
    ++ (now.filter fun kv => keyPart kv.1 == part && !((was.find kv.1).any fun u => same u kv.2)).map fun kv =>
      (kv.1, some { kv.2 with gone := [], stale := false })
/-- Journal the changes of a partition's map, its rows filled first. -/
def State.mapRecord (s : State) (p : Part) (was : Tab MapUnit) : State :=
  let ups := mapChanges p.val was s.flash.map
  if ups.isEmpty then s else (s.updFlash fun f => f.fillRows p.val).jlog p.val jMap 0 0 (.map ups)
/-- Of a partition's entries: those of objects that are gone are unmapped, discarded units keep an entry without pieces (`mstate` 3), and a
unit written since its discard is to be placed anew. -/
def Flash.unmapGone (f : Flash) (part : Nat) (ws : List FlashWant) : Flash :=
  let want := fun (k : Nat) (u : MapUnit) => ws.find? fun w => w.owner == u.owner && decide (u.idx < w.n)
    && (w.place.map fun b => unitKey part (b + u.idx)).all (· == k)
  let mine := fun (k : Nat) => keyPart k == part
  let keep := fun (k : Nat) (u : MapUnit) => !(mine k) || (want k u).any fun w => !u.disc || w.disc.contains u.idx
  let drop := fun (k : Nat) (u : MapUnit) => mine k && !u.disc && (want k u).any fun w => w.disc.contains u.idx
  let n := (f.map.filter fun kv => drop kv.1 kv.2).length
  { f with map := (f.map.keep keep).mapV fun k u => if drop k u then { u with disc := true, sb := 0, slot := 0, gone := [], stale := false } else u
           stats := listSet f.stats 4 fun v => (v + n) % 2 ^ 64 }
/-- Units of which a copy is lost are written from the other one, ahead of what has changed since it was written (Table 10-15, R222); no
image is written back while the tier is READ_ONLY (Table 10-11). -/
def Flash.rewriteOld (f : Flash) (part : Nat) (ws : List FlashWant) : Flash :=
  let mine := f.map.filter fun kv => keyPart kv.1 == part && !kv.2.disc
  let f := (mine.filter fun kv => !kv.2.gone.isEmpty).foldl (fun f kv => f.rewrite kv.1 7) f
  (mine.filter fun kv => kv.2.stale).foldl (fun (f : Flash) kv =>
    if f.tier = .readOnly then f
    else
      let g := f.rewrite kv.1 (((ws.find? fun w => w.owner == kv.2.owner).map (·.stream)).getD kv.2.stream)
      if g.map.find kv.1 = f.map.find kv.1 then g else { g with stats := listSet g.stats 0 fun v => (v + mapUnit) % 2 ^ 64 }) f
/-- Bring the map of one partition up to date: units whose object is gone are unmapped, changed ones and ones with one copy left are written
again, new objects are placed. Images and regions, which have no place of their own, take units above the share (DESIGN CHOICE, log entry
53). An object that finds no superblock waits for garbage collection; on a READ_ONLY tier a page group or backing copy is dropped (Table
10-11). -/
def State.settleMap (s : State) (p : Part) : State :=
  match s.prt p with
  | none => s.updFlash fun f => { f with map := f.map.keep fun k _ => keyPart k != p.val, lost := f.lost.filter fun e => e.1 != p.val }
  | some t =>
    let was := s.flash.map
    let ws := s.onFlash p t
    let s := s.forEach (t.regions.filter fun kv => !kv.2.touched.isEmpty) fun s kv =>
      (((s.staleUnits p (.image kv.2.h) kv.2.touched).staleUnits p (.region kv.2.h) kv.2.touched).updRegion p kv.1 fun r => { r with touched := [] })
    let f := (s.flash.unmapGone p.val ws).rewriteOld p.val ws
    let r := ws.foldl (fun (a : Flash × List FlashOwner) w =>
      let o := if a.1.tier = .readOnly && !(a.1.missing p.val w).isEmpty then (a.1, false) else a.1.placeObj p.val (4 * t.shareT2) w
      if o.2 || o.1.tier ≠ .readOnly then (o.1, a.2) else (o.1, a.2 ++ [w.owner])) (f, [])
    let n := (r.1.map.filter fun kv => keyPart kv.1 == p.val && (match kv.2.owner with
      | .session _ | .programs | .records => true
      | _ => false)).length
    let s := ({ s with flash := r.1 }).mapRecord p was
    let s := if n = t.imgUnits then s else s.updP p fun t => { t with imgUnits := n }
    s.forEach r.2 fun s o =>
      match o with
      | .group h => (match s.group? p (hIndex h) with
        | some g => if g.tier = .t2 then (s.dropGroup p (hIndex h)).flashCount 5 1 else s.loseBacking p (hIndex h)
        | none => s)
      | _ => s

/-! ### Capacity and the tier's state (R215, R229, R230) -/

/-- Bytes of the superblocks of the journal reserve: two for each partition and two for the device. -/
def State.reserveBytes (s : State) : Nat :=
  let rows := (s.flash.inService.map fun kv => kv.2.geo.pages).foldl min 3072
  2 * (s.parts.length + 1) * s.flash.channels.length * rows * pieceBytes
/-- The superblocks of the journal reserve: two for each partition's journal and two for the device's, formed as soon as there are blocks for
them (R215). They stand outside the shares and the read-only rule. -/
def State.settleReserve (s : State) : State :=
  s.forEach (s.parts.map (·.1) ++ [devJournal]) fun s j =>
    let n := (s.flash.sbs.filter fun kv => kv.2.stream == 0 && kv.2.part == j && kv.2.st != .erasing).length
    s.updFlash fun f => (List.range (2 - n)).foldl (fun f _ => ((f.openSb j 0).map (·.1)).getD f) f
/-- A journal page is programmed on both copies, in the journal's open superblock (13 R314). -/
def Flash.journalPage (f : Flash) (j : Nat) : Flash :=
  match f.sbs.findKey fun _ b => b.stream == 0 && b.part == j && b.st == .opened && decide (b.used < b.slots) with
  | none => f
  | some n =>
    match f.sbs.find n with
    | none => f
    | some b =>
      let g := ({ f with sbs := f.sbs.upd n fun b => { b with used := b.used + 1 }
                         stats := listSet f.stats 0 fun v => (v + pieceBytes) % 2 ^ 64 }).programmed b 2
      if b.used + 1 = b.slots then g.closeSb n else g
/-- A block has been erased once more. -/
def Flash.worn (f : Flash) (ms : List BlockId) : Flash :=
  { f with wear := ms.foldl (fun (w : Tab Nat) m => w.put (wearKey m.1 m.2.1 m.2.2) (w.getD (wearKey m.1 m.2.1 m.2.2) 0 + 1)) f.wear }
/-- Superblocks of a journal that hold only records before a durable CHECKPOINT return to the reserve, erased (13 R315). -/
def Flash.journalRecycle (f : Flash) (j : Nat) : Flash :=
  (f.sbs.filter fun kv => kv.2.stream == 0 && kv.2.part == j && kv.2.st != .opened && kv.2.st != .erasing).foldl (fun f kv =>
    { f.worn kv.2.members with sbs := f.sbs.upd kv.1 fun b => { b with st := .opened, used := 0, marked := false } }) f
/-- Data capacity of the good blocks on carriers in service. -/
def Flash.rawBytes (f : Flash) : Nat :=
  (f.channels.map fun e => f.goodBlocks e.1 e.2 * e.1.geo.pages * pieceBytes).sum
/-- Usable capacity U. -/
def State.usableBytes (s : State) : Nat := s.flash.rawBytes * 93 / 100 - s.reserveBytes
/-- Mirrored units of which one copy is left. -/
def Flash.loneUnits (f : Flash) : Nat := (f.map.filter fun kv => !kv.2.gone.isEmpty).length
/-- Do any of the conditions of DEGRADED hold? A channel is worn when it has no free block above its reserve (DEDUCED, log entry
54). -/
def State.flashWorn (s : State) : Bool :=
  (s.flash.channels.any fun e => s.flash.freeBlocks e.1 e.2 ≤ 8) || s.flash.loneUnits != 0 || s.flash.short
/-- Effective shares (R229): when U falls below the sum of the shares each partition's becomes its part of U, in whole MiB. -/
def State.settleShares (s : State) : State :=
  let sum := (s.parts.map fun kv => kv.2.shareT2).sum
  let u := s.usableBytes
  let short := decide (u < sum * 1048576)
  let was := s.flash.short
  let s := { s with parts := s.parts.mapV fun _ t => { t with effT2 := if short then t.shareT2 * u / sum / 1048576 else t.shareT2 } }
  let s := s.updFlash fun f => { f with short := short }
  if short && !was then s.eventParts evT2CapacityShort 0 0 else s
/-- The tier's next state (Table 10-10). -/
def State.settleTier (s : State) (before : FlashSt) : State :=
  let f := s.flash
  let next : FlashSt :=
    if f.tier = .readOnly && !(before = .readOnly && f.canForm 4) then .readOnly
    else if s.flashWorn then .degraded else .normal
  let s := s.updFlash fun f => { f with tier := next }
  if next = before then s
  else match next with
    | .readOnly => s.eventAll Status.tierReadOnly.code.toNat Status.tierReadOnly.code.toNat 0
    | .degraded => s.eventAll evFlashDegraded 0 1
    | .normal => if before = .readOnly then s.eventAll evFlashDegraded 0 0 else s
/-- While an allocation waits, the copies of garbage collection run at priority 3, and otherwise at 6 (R225). -/
def State.gleanPrio (s : State) : State :=
  let n := if s.flash.waiting then 3 else 6
  { s with paths := s.paths.mapV fun _ ps => ⟨ps.copies.map fun c => match c.kind with
      | .glean _ => { c with prio := n }
      | _ => c, ps.cur⟩ }

/-! ### Clean detach (R233) -/

/-- A slot with no carrier. -/
def Carrier.empty : Carrier :=
  { st := .absent, level := false, pwren := false, pgood := false, released := false, id := 0, geo := ⟨0, 0, 0, 0, 0, false, 0, 0, []⟩
    serial := 0, epoch := 0, iseq := 0, copies := [], detachJseq := none }
/-- A slot's record. -/
def State.slot (s : State) (k : Slot) : Carrier := s.flash.slots.getD k.val Carrier.empty
/-- Change a slot. -/
def State.updSlot (s : State) (k : Slot) (f : Carrier → Carrier) : State :=
  s.updFlash fun g => { g with slots := g.slots.put k.val (f (s.slot k)) }
/-- The geometry field of an identity record: dies, pages of a block, blocks of a die (Table 10-12; DESIGN CHOICE, log entry 160). -/
def geometryField (g : Geometry) : List Byte := toLe (g.channels * g.dies) 2 ++ toLe g.pages 2 ++ toLe g.blocks 4
/-- The fields of an identity record with a value in the last of them. -/
def Carrier.identWith (c : Carrier) (sum : Word) : List Byte :=
  toLe 0x47524E59 4 ++ toLe 1 2 ++ toLe 0 2 ++ toLe c.id 8 ++ toLe c.serial.toNat 16 ++ toLe c.epoch 4 ++ toLe c.iseq 4 ++ geometryField c.geo
    ++ toLe 0 8 ++ toLe sum.toNat 8
/-- The identity record of a carrier (Table 10-12). -/
def Carrier.identity (c : Carrier) : List Byte := c.identWith (crc64 (c.identWith 0))
/-- Rewrite both copies of a carrier's identity record, `iseq` advanced. -/
def Carrier.writeIdentity (c : Carrier) : Carrier :=
  let c := { c with iseq := (c.iseq + 1) % 2 ^ 32 }
  { c with copies := [c.identity, c.identity] }
/-- The units of every partition with a piece on a carrier. -/
def Flash.unitsOnCarrier (f : Flash) (id : Nat) : Tab MapUnit := f.map.filter fun kv => f.onCarrier kv.2 id
/-- A detach that has not come to its record goes on: the mirrored units with a piece on the carrier are written elsewhere, and once none
is left both identity copies take the advanced epoch and the record is written (R233, 3 to 6). -/
def State.goOnDetach (s : State) (k : Slot) : State :=
  let c := s.slot k
  if c.st ≠ .detaching || c.detachJseq.isSome then s
  else
    let was := s.flash.map
    let us := (s.flash.unitsOnCarrier c.id).filter fun kv => mirrored kv.2.stream
    let s := s.updFlash fun f => us.foldl (fun (f : Flash) kv => f.rewrite kv.1 kv.2.stream) f
    let s := s.forEach (us.map fun kv => keyPart kv.1).eraseDups fun s p => s.mapRecord (Fin.ofNat 16 p) was
    if (s.flash.unitsOnCarrier c.id).any fun kv => mirrored kv.2.stream then s
    else
      let s := s.updFlash fun f => { f with detachEpoch := f.detachEpoch + 1 }
      let s := s.updSlot k fun c => ({ c with epoch := s.flash.detachEpoch }).writeIdentity
      let r := s.jwrite devJournal jCarrier 0 0 .plain
      r.1.updSlot k fun c => { c with detachJseq := some r.2 }
/-- Bring the flash tier up to date after a command: the journal reserve, shares, maps, detaches under way and the tier's state. -/
def State.settleFlash (s : State) : State :=
  let before := s.flash.tier
  let s := (s.updFlash fun f => { f with waiting := false }).settleReserve.settleShares
  let s := s.forEach (List.finRange 16) fun s p => s.settleMap p
  let s := s.forEach (List.finRange 8) fun s k => s.goOnDetach k
  s.gleanPrio.settleTier before

/-! ### Pieces that fail (R219, R221, R223, Table 10-6) -/

/-- Count on a carrier's record. -/
def Flash.log (f : Flash) (id : Nat) (g : CarLog → CarLog) : Flash := { f with health := f.health.upd id g }
/-- The unit that holds a slot of a superblock. -/
def Flash.unitAt (f : Flash) (sb slot : Nat) : Option Nat :=
  f.map.findKey fun _ u => !u.disc && u.sb == sb && u.slot ≤ slot && slot < u.slot + 16
/-- Retire a block that failed. -/
def Flash.retire (f : Flash) (m : BlockId) : Flash :=
  ({ f with bad := if f.bad.contains m then f.bad else f.bad ++ [m] }).log m.1 fun l => { l with grownBad := l.grownBad + 1 }
/-- The units with a piece on a column of a superblock. -/
def Flash.unitsOn (f : Flash) (sb col : Nat) : List Nat :=
  (f.map.filter fun kv => !kv.2.disc && kv.2.sb == sb && (f.sbs.find sb).any fun b =>
    (List.range 16).any fun i => (kv.2.slot + i) % b.cols == col % b.cols).map (·.1)
/-- Does an object have a working copy in T0 or T1 (Table 10-6)? -/
def Partition.workingCopy (t : Partition) (u : MapUnit) : Bool :=
  match u.owner with
  | .image h => (t.regions.find (hIndex h)).any fun r => r.h == h && (r.home == 3 || t.chunkTier r (u.idx / 8) != .t2)
  | .session h => (t.sessions.find (hIndex h)).any fun r => r.h == h && r.st != .parked && r.st != .migrating
  | .programs | .records => true
  | .group _ | .region _ => false
/-- A single-copy unit cannot be read: its group is dropped, its backing copy discarded, its part of a region poisoned. -/
def State.flashLost (s : State) (p : Part) (k : Nat) (u : MapUnit) : State :=
  match u.owner with
  | .group h =>
    (match s.group? p (hIndex h) with
    | some g => if g.h ≠ h then s.unmap p u.owner
      else if g.tier = .t2 then (s.dropGroup p (hIndex h)).flashCount 5 1 else s.loseBacking p (hIndex h)
    | none => s.unmap p u.owner)
  | .region h => ((s.updFlash fun f => { f with map := f.map.del k }).jlog p.val jMap 0 0 (.map [(k, none)])).updRegion p (hIndex h)
      fun g => { g with poison := (g.poison ++ (List.range 64).map (· + 64 * u.idx)).eraseDups }
  | _ => s
/-- Both copies of an authoritative unit are gone, and no working copy stands: the object is marked lost, a region is UNBINDABLE, and the loss
is told to the partition and the management core. -/
def State.imageLost (s : State) (p : Part) (u : MapUnit) : State :=
  let h : Handle := match u.owner with
    | .image h | .session h => h
    | _ => 0
  let s := ((s.unmap p u.owner).updFlash fun f => { f with lost := f.lost ++ [(p.val, u.owner)] }).flashCount 6 1
  let s := s.devEvent evAuthoritativeLost 0 h 0
  match u.owner with
  | .image h => (s.updRegion p (hIndex h) fun g => { g with synced := false, image := [] }).unbindable p (hIndex h)
  | _ => s.event p evAuthoritativeLost 0 h 0
/-- Is an object lost? -/
def State.isLost (s : State) (p : Part) (o : FlashOwner) : Bool := s.flash.lost.contains (p.val, o)
/-- No copy of a mirrored unit is left on flash: it is written from the working copy, or lost. It says whether it was written. -/
def State.mirrorGone (s : State) (p : Part) (k : Nat) (u : MapUnit) (working : Bool) : State × Bool :=
  if !working then (s.imageLost p u, false)
  else
    let f := s.flash.rewrite k u.stream
    let ok := f.map.find k != s.flash.map.find k
    (({ s with flash := if ok then f else { f with map := f.map.upd k fun u => { u with stale := true } } }).mapRecord p s.flash.map, ok)
/-- A superblock has been read: it is the last read, and one more than half of whose correction capability a piece used is marked (R224). -/
def Flash.readSb (f : Flash) (sb : Nat) (overHalf : Bool) : Flash :=
  { f with reads := f.reads + 1, sbs := f.sbs.upd sb fun b =>
      { b with lastRead := f.reads + 1, marked := b.marked || (overHalf && (b.st == .closed || b.st == .verified)) } }
/-- The superblock that the patrol reads next: of those closed or verified, the one whose last read is oldest (R224). -/
def Flash.patrolNext (f : Flash) : Option Nat :=
  ((f.sbs.filter fun kv => kv.2.st == .closed || kv.2.st == .verified).foldl (fun (o : Option (Nat × Superblock)) e => match o with
    | none => some e
    | some b => if e.2.lastRead < b.2.lastRead then some e else some b) none).map (·.1)
/-- A piece that cannot be read is repaired in the order of Table 10-6; `id` is its carrier. -/
def State.repairPiece (s : State) (p : Part) (k : Nat) (u : MapUnit) (id : Nat) (other working : Bool) : State :=
  let was := s.flash.map
  let s := s.updFlash fun f => f.log id fun l => { l with uncorrectable := l.uncorrectable + 1 }
  let mirrorDone := fun (s : State) => s.updFlash fun f => f.log id fun l => { l with mirrorRepairs := l.mirrorRepairs + 1 }
  if (s.flash.sbs.find u.sb).any fun b => b.st == .opened || b.st == .closed then
    (s.updFlash fun f => (f.rewrite k u.stream).log id fun l => { l with parityRebuilds := l.parityRebuilds + 1 }).mapRecord p was
  else if !(mirrored u.stream) then s.flashLost p k u
  else if other then
    -- served from the other copy in any case; where the unit finds no place, that copy is its only one
    let s := mirrorDone (s.updFlash fun f => f.rewrite k 7)
    (if s.flash.map.find k = some u then s.updFlash fun f => { f with map := f.map.upd k fun u => { u with gone := u.gone ++ (f.piecesAt u id) } }
      else s).mapRecord p was
  else
    let r := s.mirrorGone p k u working
    if r.2 then mirrorDone r.1 else r.1
/-- FLASH_READ_DONE: a read of a piece of a unit has ended (R223). A piece whose spare record or check disagrees is an unreadable one
(R219). -/
def execFlashReadDone (p : Part) (unit : Nat) (res : PieceRead) (s : State) : Out :=
  let k := unitKey p.val unit
  let piece := res.piece
  .next (match s.flash.map.find k with
    | none => s
    | some u =>
      if u.disc then s
      else
        let id := ((s.flash.sbs.find u.sb).map fun b => b.carrierAt (u.slot + piece.num) piece.mirror).getD 0
        let half := match res.ended with
          | .corrected _ o => o
          | _ => false
        let s := s.updFlash fun f => (f.readSb u.sb half).log id fun l => { l with bytesRead := l.bytesRead + pieceBytes }
        let other := !(u.gone.contains (piece.num + if piece.mirror then 0 else 16))
        let seen := fun (s : State) => if u.agrees k piece then s
          else (s.repairPiece p k u id other (s.getP p false fun t => t.workingCopy u)).settleFlash
        match res.ended with
        | .clean => seen s
        | .corrected bits _ => seen (s.updFlash fun f => f.log id fun l => { l with correctedBits := l.correctedBits + bits })
        | .retried => seen (s.updFlash fun f => f.log id fun l => { l with retryReads := l.retryReads + 1 })
        | .unreadable readable working => (s.repairPiece p k u id (other && readable) working).settleFlash)

/-! ### Superblocks' lives (Table 10-3) -/

/-- SUPERBLOCK_CLOSE: the last row and its parity are programmed. -/
def execSuperblockClose (sb : Nat) (s : State) : Out := .next (s.updFlash fun f => f.closeSb sb)
/-- SUPERBLOCK_VERIFY: every piece of a closed superblock has been read back; those that fail (slot, and whether the mirror copy) are rebuilt
from parity and written into the stream's open superblock. When each has passed or been rewritten it is VERIFIED, and its parity
blocks are erased and returned; one that finds no place leaves it CLOSED. -/
def execSuperblockVerify (sb : Nat) (bad : List (Nat × Bool)) (s : State) : Out :=
  .next (match s.flash.sbs.find sb with
    | none => s
    | some b =>
      if b.st ≠ .closed then s
      else
        let f := bad.foldl (fun (f : Flash) e =>
          let id := b.carrierAt e.1 e.2
          match f.unitAt sb e.1 with
          | some k => (f.rewrite k ((f.map.find k).map (·.stream) |>.getD b.stream)).log id fun l => { l with parityRebuilds := l.parityRebuilds + 1 }
          | none => f) s.flash
        let done := bad.all fun e => (f.unitAt sb e.1).isNone
        let f := if done then { f.worn b.parity with sbs := f.sbs.upd sb fun b => { b with st := .verified, parity := [] } } else f
        (({ s with flash := f }).mapRecord (Fin.ofNat 16 b.part) s.flash.map).settleFlash)
/-- FLASH_PROGRAM_FAIL: the pieces of the failed die are rebuilt from parity and rewritten, and the block is retired; the
superblock takes no more rows (DEDUCED, log entry 55). -/
def execFlashProgramFail (sb col : Nat) (s : State) : Out :=
  .next (match s.flash.sbs.find sb with
    | none => s
    | some b =>
      if !(b.st == .opened || b.st == .closed) || col ≥ b.members.length then s
      else
        let m := b.members.getD col (0, 0, 0)
        let f := (s.flash.closeSb sb).retire m
        let f := f.log m.1 fun l => { l with programFails := l.programFails + 1 }
        let f := (f.unitsOn sb col).foldl (fun (f : Flash) k => (f.rewrite k ((f.map.find k).map (·.stream) |>.getD b.stream)).log m.1
          fun l => { l with parityRebuilds := l.parityRebuilds + 1 }) f
        (({ s with flash := f }).mapRecord (Fin.ofNat 16 b.part) s.flash.map).settleFlash)
/-- FLASH_PATROL: a superblock comes due for its patrol read, which runs at priority 6 behind other copies (R224; 04 R92). -/
def execFlashPatrol (sb : Nat) (overHalf : Bool) (s : State) : Out :=
  .next (match s.flash.sbs.find sb with
    | none => s
    | some b =>
      if !(b.st == .closed || b.st == .verified) then s
      else (s.updFlash fun f => f.readSb sb overHalf).addCopy (pathKey .t2 0) (Fin.ofNat 16 b.part) .background 6 (b.slots * pieceBytes))

/-! ### Garbage collection (R225, R226, Table 10-7) -/

/-- Does a superblock span a carrier that is out of service? -/
def Flash.spansOut (f : Flash) (b : Superblock) : Bool :=
  b.members.any fun m => !(f.inService.any fun kv => kv.2.id == m.1)
/-- May a superblock be chosen: VERIFIED, not the journal's, and spanning no carrier that is out unless an allocation waits? -/
def Flash.choosable (f : Flash) (b : Superblock) : Bool :=
  b.st == .verified && b.stream != 0 && (!(f.spansOut b) || f.waiting || f.tier == .readOnly)
/-- Is the first of two superblocks the better victim by score (1 − v) · a / (1 + v)? -/
def Flash.betterVictim (f : Flash) (x y : Nat × Superblock) : Bool :=
  let sc := fun (e : Nat × Superblock) =>
    let n := e.2.slots
    let v := f.valid e.1
    ((n - v) * (f.wseq - e.2.wseq), n + v)
  let a := sc x
  let b := sc y
  decide (a.1 * b.2 > b.1 * a.2) || (a.1 * b.2 == b.1 * a.2 && decide (x.1 < y.1))
/-- The superblock that holds a channel's least-worn block, when the channel's counts differ by more than 1,000. -/
def Flash.wearVictim (f : Flash) (c : Carrier) (j : Nat) : Option Nat :=
  let w := fun b => f.wear.getD (wearKey c.id j b) 0
  let bs := (List.range c.blocks).filter fun b => !(reservedBlock j b) && !(f.bad.contains (c.id, j, b))
  let mx := (bs.map w).foldl max 0
  match bs.foldl (fun (o : Option Nat) b => match o with
      | none => some b
      | some a => if w b < w a then some b else some a) none with
  | none => none
  | some b => if mx > w b + 1000 then f.sbs.findKey fun _ e => f.choosable e && e.members.contains (c.id, j, b) else none
/-- The victim of a job (R225). -/
def Flash.victim (f : Flash) (c : Carrier) (j : Nat) : Option Nat :=
  let vs := f.sbs.filter fun kv => f.choosable kv.2
  match vs.find? fun kv => kv.2.marked with
  | some kv => some kv.1
  | none => match f.wearVictim c j with
    | some n => some n
    | none => (vs.foldl (fun (o : Option (Nat × Superblock)) e => match o with
        | none => some e
        | some b => if f.betterVictim e b then some e else some b) none).map (·.1)
/-- A channel's carrier and its number there. -/
def Flash.channel? (f : Flash) (ch : Nat) : Option (Carrier × Nat) :=
  (f.slots.find (ch / 4)).bind fun c => if c.st = .inService && ch % 4 < c.geo.channels then some (c, ch % 4) else none
/-- Does garbage collection run on a channel: it begins below 2% of free good blocks and stops at 3%? -/
def Flash.gleans (f : Flash) (ch : Nat) : Bool :=
  (f.channel? ch).any fun e =>
    if f.gleaning.contains ch then decide (100 * f.freeBlocks e.1 e.2 < 3 * f.goodBlocks e.1 e.2)
    else decide (50 * f.freeBlocks e.1 e.2 < f.goodBlocks e.1 e.2)
/-- Begin a job on the victim of a channel, if there is one; its copies run at move priority 3 while an allocation waits, else at 6. -/
def State.gleanJob (s : State) (ch : Nat) : State :=
  match (s.flash.channel? ch).bind fun e => s.flash.victim e.1 e.2 with
  | none => s
  | some v =>
    let n := s.flash.valid v / 16
    let p : Part := Fin.ofNat 16 (((s.flash.sbs.find v).map (·.part)).getD 0)
    let s := s.updFlash fun f => { f with sbs := f.sbs.upd v fun b => { b with st := .victim }, jobs := f.jobs.put v ⟨.copy, [], [], none⟩ }
    if n = 0 then s else s.addCopy (pathKey .t2 0) p (.glean v) (if s.flash.waiting then 3 else 6) (n * mapUnit)
/-- GLEAN_START: a channel's free good blocks have fallen below 2% of its good blocks; a victim is chosen. -/
def execGleanStart (ch : Fin 32) (s : State) : Out :=
  .next (if !(s.flash.gleans ch.val) then s
    else
      let s := s.updFlash fun f => { f with gleaning := if f.gleaning.contains ch.val then f.gleaning else f.gleaning ++ [ch.val] }
      s.gleanJob ch.val)
/-- Garbage collection goes on until its channels have 3% of free good blocks: with no job left the next begins. -/
def State.gleanNext (s : State) : State :=
  let s := s.updFlash fun f => { f with gleaning := f.gleaning.filter fun ch => f.gleans ch }
  if s.flash.jobs.isEmpty then (match s.flash.gleaning.head? with
    | some ch => s.gleanJob ch
    | none => s) else s
/-- GLEAN_COPY_DONE: every unit mapped into the victim has been copied, in ascending order, within its partition: single-copy
units to stream 6, mirrored ones to stream 7. While a unit finds no superblock the job stays in this phase. -/
def execGleanCopyDone (sb : Nat) (s : State) : Out :=
  .next (match s.flash.jobs.find sb, s.flash.sbs.find sb with
    | some j, some b =>
      let p : Part := Fin.ofNat 16 b.part
      if j.ph ≠ .copy || (s.copyOf p (.glean sb)).any fun c => c.left != 0 then s
      else
        let us := s.flash.map.filter fun kv => !kv.2.disc && kv.2.sb == sb && !(j.copies.has kv.1)
        let r := us.foldl (fun (a : Flash × Tab MapUnit × Bool) kv =>
          if !a.2.2 then a
          else
            let st := if mirrored kv.2.stream then 7 else 6
            match a.1.takeSlots (keyPart kv.1) st with
            | none => (a.1.starve, a.2.1, false)
            | some (g, n, slot) => (g, a.2.1.put kv.1 { kv.2 with sb := n, slot := slot, stream := st, gone := [], stale := false, wseq := a.1.wseq }, true))
          (s.flash, j.copies, true)
        let before := s.flash.tier
        let f := r.1.fillRows b.part
        let s := { s with flash := { f with jobs := f.jobs.upd sb fun j => { j with ph := if r.2.2 then .verify else .copy, copies := r.2.1 } } }
        if r.2.2 then s.dropCopies p fun c => c.kind == .glean sb else s.gleanPrio.settleTier before
    | _, _ => s)
/-- A copied piece that fails verification is written again, up to three times; then the target block is retired and the unit rewritten in
another superblock (Table 10-7). -/
def Flash.copyFailed (f : Flash) (sb k piece : Nat) (mirror : Bool) : Flash :=
  match f.jobs.find sb with
  | none => f
  | some j =>
    match j.copies.find k with
    | none => f
    | some u =>
      match f.sbs.find u.sb with
      | none => f
      | some t =>
        let m := t.members.getD (t.colOf (u.slot + piece) mirror) (0, 0, 0)
        let n := j.retries.getD k 0
        let f := f.log m.1 fun l => { l with programFails := l.programFails + 1 }
        if n < 3 then { f with jobs := f.jobs.upd sb fun j => { j with retries := j.retries.put k (n + 1) } }
        else
          let f := (f.closeSb u.sb).retire m
          match f.takeSlots (keyPart k) u.stream with
          -- without a place it is copied again when there is one
          | none => { f.starve with jobs := f.jobs.upd sb fun j => { j with ph := .copy, copies := j.copies.del k, retries := j.retries.del k } }
          | some (g, n, slot) => { g with jobs := g.jobs.upd sb fun j =>
              { j with copies := j.copies.put k { u with sb := n, slot := slot, wseq := f.wseq }, retries := j.retries.del k } }
/-- GLEAN_VERIFY_DONE: the copies have been read back; `bad` names the pieces that failed (map unit, piece, whether the mirror copy).
When all pass, `MAP_MOVE` is written for the units that still name the victim. -/
def execGleanVerifyDone (sb : Nat) (bad : List (Nat × Nat × Bool)) (s : State) : Out :=
  .next (match s.flash.jobs.find sb, s.flash.sbs.find sb with
    | some j, some b =>
      if j.ph ≠ .verify then s
      else if bad.isEmpty then
        let cs := j.copies.keep fun k _ => (s.flash.map.find k).any fun u => u.sb == sb && !u.disc
        let r := s.jwrite b.part jMapMove 0 0 (.mapMove sb (cs.map fun kv => (kv.1, some kv.2)))
        r.1.updFlash fun f => { f with jobs := f.jobs.upd sb fun j => { j with ph := .commit, jseq := some r.2, copies := cs } }
      else s.updFlash fun f => bad.foldl (fun f e => f.copyFailed sb (unitKey b.part e.1) e.2.1 e.2.2) f
    | _, _ => s)
/-- GLEAN_COMMIT: the move record is durable: the entries switch, and the erase begins once reads have drained. -/
def execGleanCommit (sb : Nat) (s : State) : Out :=
  .next (match s.flash.jobs.find sb, s.flash.sbs.find sb with
    | some j, some b =>
      if j.ph ≠ .commit || !(j.jseq.any (· ≤ (s.journal b.part).durable)) then s
      else s.updFlash fun f =>
        let r := j.copies.foldl (fun (a : Tab MapUnit × Nat) c =>
          match a.1.find c.1 with
          | some u => if u.sb = sb && !u.disc then (a.1.put c.1 { c.2 with stale := u.stale }, a.2 + 1) else a
          | none => a) (f.map, 0)
        { f with map := r.1, stats := listSet f.stats 2 fun v => (v + r.2) % 2 ^ 64
                 sbs := f.sbs.upd sb fun b => { b with st := .erasing }, jobs := f.jobs.upd sb fun j => { j with ph := .erase } }
    | _, _ => s)
/-- GLEAN_ERASE_DONE: the victim's blocks join the free pools; those that failed to erase (by column) are retired. -/
def execGleanEraseDone (sb : Nat) (bad : List Nat) (s : State) : Out :=
  .next (match s.flash.sbs.find sb with
    | none => s
    | some b =>
      if b.st ≠ .erasing then s
      else
        let f := bad.foldl (fun (f : Flash) c =>
          let m := b.members.getD c (0, 0, 0)
          (f.retire m).log m.1 fun l => { l with eraseFails := l.eraseFails + 1 }) s.flash
        let f := f.worn (b.members ++ b.parity)
        (({ s with flash := { f with sbs := f.sbs.del sb, jobs := f.jobs.del sb } }).settleFlash).gleanNext)
/-- Abandon the jobs that pass a test and have not come to their erase: the victim is VERIFIED, the copies are invalid (Table 10-7). A move
record already written is followed by one that names the units where they are. -/
def State.abandonJobs (s : State) (gone : Nat → GleanJob → Bool) : State :=
  let js := s.flash.jobs.filter fun kv => kv.2.ph != .erase && gone kv.1 kv.2
  s.forEach js fun s kv =>
    let part := ((s.flash.sbs.find kv.1).map (·.part)).getD 0
    let ups := if kv.2.jseq.isNone then [] else kv.2.copies.map fun c => (c.1, s.flash.map.find c.1)
    let s := (s.dropCopies (Fin.ofNat 16 part) fun c => c.kind == .glean kv.1).updFlash fun f =>
      { f with jobs := f.jobs.del kv.1, sbs := f.sbs.upd kv.1 fun b => { b with st := .verified } }
    if ups.isEmpty then s else s.jlog part jMap 0 0 (.map ups)
/-- Abandon jobs whose victim or target spans a carrier. -/
def State.abandon (s : State) (id : Nat) : State :=
  let on := fun (n : Nat) => (s.flash.sbs.find n).any fun b => b.members.any fun m => m.1 == id
  s.abandonJobs fun n j => on n || j.copies.any fun c => on c.2.sb
/-- A partition is removed: its open superblocks are closed, its jobs abandoned, and every superblock of it is erased in the background
(Tables 10-3, 10-7). -/
def State.eraseSbs (s : State) (p : Part) : State :=
  let mine := fun (n : Nat) => (s.flash.sbs.find n).any fun b => b.part == p.val
  (s.abandonJobs fun n _ => mine n).updFlash fun f =>
    { f with map := f.map.keep fun k _ => keyPart k != p.val, lost := f.lost.filter fun e => e.1 != p.val
             sbs := f.sbs.mapV fun _ b => if b.part = p.val then { b with st := .erasing } else b }

/-! ### The health log (R236) -/

/-- The device summary (Table 10-16). -/
def State.healthSummary (s : State) : List Byte :=
  let f := s.flash
  let st := fun i => toLe (f.stats.getD i 0) 8
  let mapped := (f.map.map fun kv => if kv.2.disc then 0 else if mirrored kv.2.stream then 2 * mapUnit else mapUnit).sum
  let js := (s.parts.map (·.1) ++ [devJournal]).map s.journalPages
  let jfree := 1000 - (js.map (·.1)).sum * 1000 / max 1 (js.map (·.2)).sum
  toLe (match f.tier with | .normal => 0 | .degraded => 1 | .readOnly => 2) 1 ++ toLe f.inService.length 1 ++ toLe f.width 1 ++ [0]
    ++ toLe f.detachEpoch 4 ++ toLe s.usableBytes 8 ++ toLe (s.usableBytes - mapped) 8 ++ st 0 ++ st 1 ++ st 2 ++ st 3 ++ st 4 ++ st 5
    ++ st 6 ++ toLe f.loneUnits 8 ++ st 7 ++ toLe jfree 4 ++ List.replicate 28 0
/-- The code of a carrier state (Table 10-17). -/
def CarSt.code : CarSt → Nat
  | .absent => 0 | .present => 1 | .qualifying => 2 | .blank => 3 | .recognised => 4 | .foreign => 5 | .inService => 6
  | .detaching => 7 | .detached => 8 | .failed => 9
/-- A slot's carrier record (Table 10-17): zero while no carrier was ever recognised or blanked in it. -/
def Flash.carrierRecord (f : Flash) (slot : Nat) : List Byte :=
  match f.health.find? fun kv => kv.2.slot == slot with
  | none => List.replicate 128 0
  | some (id, l) =>
    let c := f.slots.find slot
    let st := if c.any fun c => c.id == id then (c.map fun c => CarSt.code c.st).getD 0 else 0
    let n := l.geo.dies * l.geo.blocks
    let ws := ((List.range (4 * n)).map fun i => f.wear.getD (wearKey id (i / n) (i % n)) 0)
    let free := match c with
      | some c => ((List.range 4).map fun j => f.freeBlocks c j - 8).sum
      | none => 0
    let good := match c with
      | some c => ((List.range 4).map fun j => f.goodBlocks c j).sum
      | none => 0
    toLe id 8 ++ toLe st 1 ++ toLe slot 1 ++ toLe (2 ^ l.geo.channels - 1) 1 ++ toLe (Config.shown id) 1 ++ toLe (4 * l.geo.dies) 4
      ++ toLe (ws.sum / max 1 ws.length) 4 ++ toLe (ws.foldl max 0) 4 ++ toLe l.geo.rated 4
      ++ toLe ((free - good * 7 / 100) * 1000 / max 1 good) 4 ++ toLe l.geo.factoryBad.length 4 ++ toLe l.grownBad 4 ++ toLe l.programFails 4 ++ toLe l.eraseFails 4
      ++ toLe l.bytesRead 8 ++ toLe l.bytesWritten 8 ++ toLe l.correctedBits 8 ++ toLe l.retryReads 8 ++ toLe l.uncorrectable 8
      ++ toLe l.parityRebuilds 8 ++ toLe l.mirrorRepairs 8 ++ toLe l.joins 4 ++ toLe l.lastDetach 4 ++ toLe (Config.shown (id + 2 ^ 32)) 8
      ++ toLe 0 8

end Sys2Proof.Machine
end

