-- ==== Sys2Proof/Machine/Carriers.lean ====
section
/-! DEFINITION. Carriers: presence of the operator as their commands need it, slots and their power, qualification, clean detach
and loss (spec 10 R231 to R235; 15 R358; 19 R422 to R424). -/

namespace Sys2Proof.Machine

/-- A command that needs presence, which as a management command wakes a DORMANT device: without an open window, or in the broken-seal state, it changes nothing (15 R358, R360). -/
def State.withPresence (s : State) (f : State → State) : State :=
  let s := s.wakeDevice 0x30
  if s.presence.window && !s.presence.broken then f s else s.answer .presenceRequired

/-- The event of a slot's state. -/
def State.carrierEvent (s : State) (k : Slot) : State := s.devEvent evCarrierState 0 0 (BitVec.ofNat 64 k.val)
/-- A slot fails: its power goes (R423). -/
def State.failSlot (s : State) (k : Slot) : State :=
  (s.updSlot k fun c => { c with st := .failed, pwren := false, released := false }).carrierEvent k
/-- What an identity record says (Table 10-12): carrier, serial, detach epoch, `iseq`. -/
structure IdentRec where
  id : Nat
  serial : BitVec 128
  epoch : Nat
  iseq : Nat
  deriving DecidableEq, Repr
/-- Read an identity record: one is valid when its `magic` and `icrc` are correct (R231). -/
def readIdentity (bs : List Byte) : Option IdentRec :=
  let g := fld bs
  if bs.length ≠ 64 || g 0 4 ≠ 0x47524E59 || g 0x38 8 ≠ (crc64 (bs.take 0x38 ++ List.replicate 8 0)).toNat then none
  else some ⟨g 8 8, BitVec.ofNat 128 (g 0x10 16), g 0x20 4, g 0x24 4⟩
/-- The identity of a carrier from what stands on its two reserved blocks: of two valid copies the one with the higher `iseq`. -/
def pickIdentity (a b : List Byte) : Option IdentRec :=
  match readIdentity a, readIdentity b with
  | some x, some y => some (if x.iseq < y.iseq then y else x)
  | x, y => x.or y
/-- A carrier enters service: its record follows it to the slot (R236), its identity names this device with no detach epoch. Blocks marked bad
at manufacture are no good ones. -/
def State.enterService (s : State) (k : Slot) : State :=
  let s := s.updSlot k fun c => ({ c with st := .inService, epoch := 0, serial := deviceSerial, detachJseq := none }).writeIdentity
  let c := s.slot k
  let s := s.updFlash fun f =>
    let l := f.health.getD c.id ⟨k.val, c.geo, 0, 0, 0, 0, 0, 0, 0, 0, 0, 0, 0, 0⟩
    let h := f.health.mapV fun id e => if e.slot = k.val && id ≠ c.id then { e with slot := 8 } else e
    { f with health := h.put c.id { l with slot := k.val, geo := c.geo, joins := l.joins + 1 }
             bad := (f.bad ++ c.geo.factoryBad.map fun b => (c.id, b.1, b.2)).eraseDups }
  (s.jlog devJournal jCarrier 0 0 .plain).settleFlash
/-- A carrier without a past here: a new identifier, and its identity written. Its blocks are erased before they join a free pool; how long
that takes is time (log entry 100). -/
def State.blankJoin (s : State) (k : Slot) : State :=
  let id := s.flash.nextCarrier
  ((s.updSlot k fun c => { c with st := .blank, id := id, iseq := 0 }).updFlash fun f => { f with nextCarrier := id + 1 }).enterService k

/-! ### Detaching and loss (R233, R234) -/

/-- Close the open superblocks that span a carrier; those of the journal reserve give way to others (R233, Table 10-3). -/
def Flash.closeSpanning (f : Flash) (id : Nat) : Flash :=
  let on := fun (b : Superblock) => b.members.any fun m => m.1 == id
  let f := (f.sbs.filter fun kv => kv.2.st == .opened && kv.2.stream != 0 && on kv.2).foldl (fun f kv => f.closeSb kv.1) f
  { f with sbs := f.sbs.keep fun _ b => !(b.stream == 0 && on b) }
/-- A clean detach begins: jobs that span the carrier are abandoned, open superblocks that span it close, and the rest follows as
`State.goOnDetach` gives, at once where there is room (R233). -/
def State.startDetach (s : State) (k : Slot) : State :=
  let id := (s.slot k).id
  let s := (s.updSlot k fun c => { c with st := .detaching }).abandon id
  (s.updFlash fun f => f.closeSpanning id).goOnDetach k
/-- One unit of a lost carrier (Table 10-15): rebuilt from parity, dropped, marked for its surviving copy, or lost with its object. -/
def State.unitLost (s : State) (id : Nat) (k : Nat) (u : MapUnit) : State :=
  let p : Part := Fin.ofNat 16 (keyPart k)
  let gone := s.flash.piecesAt u id
  let on := fun (m : BlockId) => m.1 == id
  let parity := (s.flash.sbs.find u.sb).any fun b => b.st == .closed && !b.parity.isEmpty && !(b.parity.any on) && (b.members.filter on).length ≤ 1
  if parity then (s.updFlash fun f => f.rewrite k u.stream).mapRecord p s.flash.map
  else if !(mirrored u.stream) then s.flashLost p k u
  else
    let all := (u.gone ++ gone).eraseDups
    if (List.range 16).any fun i => all.contains i && all.contains (i + 16) then
      (s.mirrorGone p k u (s.getP p false fun t => t.workingCopy u)).1
    else s.updFlash fun f => { f with map := f.map.upd k fun u => { u with gone := all } }
/-- The carrier of a slot is lost (Table 10-15); what has one copy left is then written again. -/
def State.loseCarrier (s : State) (k : Slot) : State :=
  let id := (s.slot k).id
  let s := (s.updSlot k fun c => { c with st := .absent, pwren := false, released := false, detachJseq := none }).abandon id
  let s := s.updFlash fun f => f.closeSpanning id
  let us := s.flash.unitsOnCarrier id
  let s := s.eventAll evCarrierLost 0 (BitVec.ofNat 64 k.val)
  let s := s.jlog devJournal jCarrier 0 0 .plain
  let s := s.forEach us fun s kv => s.unitLost id kv.1 kv.2
  -- DEGRADED is entered for the units with one copy before they are written again
  let s := s.settleTier s.flash.tier
  s.settleFlash
/-- The record of a clean detach is durable: the carrier may return as RECOGNISED (R233). -/
def State.detachNoted (s : State) (k : Slot) : State :=
  let c := s.slot k
  s.updFlash fun f => ({ f with cleanRecs := f.cleanRecs ++ [(c.id, c.epoch)] }).log c.id fun l => { l with lastDetach := c.epoch }
/-- Is the record of a slot's detach durable? -/
def State.detachDurable (s : State) (k : Slot) : Bool :=
  (s.slot k).st == .detaching && (s.slot k).detachJseq.any (· ≤ (s.journal devJournal).durable)
/-- A slot's present input is away for good: with a durable clean-detach record the slot is ABSENT and CARRIER_STATE raised, a carrier in
service or detaching without one is lost (19 Table 19-4). -/
def State.slotGone (s : State) (k : Slot) : State :=
  let c := s.slot k
  let away := fun (s : State) => s.updSlot k fun c => { c with st := .absent, pwren := false, released := false, detachJseq := none }
  if c.st = .absent then s
  else if s.detachDurable k then (away (s.detachNoted k)).carrierEvent k
  else if c.st = .inService || c.st = .detaching then s.loseCarrier k
  else if c.st = .detached then (away s).carrierEvent k
  else away s

/-! ### Indicators (Table 10-14) -/

/-- What an indicator shows: dark, lit, or blinking so many times in two seconds. -/
inductive Lamp where
  | off
  | on
  | blink (per2s : Nat)
  deriving DecidableEq, Repr
/-- A slot's green and amber indicators. -/
def CarSt.lamps : CarSt → Lamp × Lamp
  | .absent => (.off, .off)
  | .present | .qualifying | .recognised => (.blink 4, .off)
  | .blank | .inService => (.on, .off)
  | .detaching => (.blink 4, .blink 4)
  | .detached => (.off, .on)
  | .foreign => (.off, .blink 2)
  | .failed => (.off, .blink 8)
/-- A slot's indicators; a slot without a record is ABSENT. -/
def State.slotLamps (s : State) (k : Slot) : Lamp × Lamp := (s.slot k).st.lamps

/-! ### The commands -/

/-- CARRIER_PRESENT: a slot's present input changes (`level`: asserted). -/
def execCarrierPresent (k : Slot) (level : Bool) (s : State) : Out :=
  .next ((s.updSlot k fun c => { c with level := level }).wakeDevice 0x50)
/-- CARRIER_PRESENT_DEBOUNCED: the input has held its level for 100 ms. -/
def execCarrierPresentDebounced (k : Slot) (s : State) : Out :=
  let c := s.slot k
  .next (if c.level then (if c.st = .absent then s.updSlot k fun c => { c with st := .present, pwren := true } else s)
    else s.slotGone k)
/-- CARRIER_PGOOD: good power rises, and the slot qualifies; or it falls, which is taken as removal. -/
def execCarrierPgood (k : Slot) (level : Bool) (s : State) : Out :=
  let c := s.slot k
  let s := s.updSlot k fun c => { c with pgood := level }
  .next (if level then (if c.st = .present && c.pwren then s.updSlot k fun c => { c with st := .qualifying } else s)
    else if c.level && c.pgood && c.pwren then s.slotGone k else s)
/-- CARRIER_PGOOD_TIMEOUT: no good power 50 ms after FCn_PWREN. -/
def execCarrierPgoodTimeout (k : Slot) (s : State) : Out :=
  let c := s.slot k
  .next (if c.st = .present && !c.pgood then s.failSlot k else s)
/-- CARRIER_RESET_RELEASE: FCn_RESET_N is released 1 ms after good power. -/
def execCarrierResetRelease (k : Slot) (s : State) : Out :=
  .next (if (s.slot k).pgood then s.updSlot k fun c => { c with released := true } else s)
/-- Does a geometry qualify (R213, Table 10-1): up to 4 dies behind each of a channel's 8 chip enables? -/
def geometryFits (g : Geometry) : Bool :=
  g.pageBytes == 16384 && g.pages ≤ 3072 && g.pages != 0 && g.nvLpddr4 && g.channels ≤ 4 && g.channels != 0 && g.dies ≤ 32 && g.dies != 0
/-- CARRIER_QUALIFY_DONE: the carrier is classified (Table 10-13). -/
def execCarrierQualifyDone (k : Slot) (res : Qualify) (s : State) : Out :=
  .next (if (s.slot k).st ≠ .qualifying then s
    else match res with
      | .failed => s.failSlot k
      | .blank g => if geometryFits g then (s.updSlot k fun c => { c with geo := g }).blankJoin k else s.failSlot k
      | .identity a b g =>
        if !(geometryFits g) then s.failSlot k
        else
          let s := s.updSlot k fun c => { c with geo := g, copies := [a, b] }
          match pickIdentity a b with
          | none => s.blankJoin k
          | some r =>
            let s := s.updSlot k fun c => { c with id := r.id, serial := r.serial, epoch := r.epoch, iseq := r.iseq }
            if s.ident.predecessors.contains (r.serial, r.id, r.epoch) then (s.updSlot k fun c => { c with st := .recognised }).enterService k
            else if r.serial ≠ deviceSerial then s.updSlot k fun c => { c with st := .foreign }
            else if r.epoch ≠ 0 && s.flash.cleanRecs.contains (r.id, r.epoch) then
              ((s.updSlot k fun c => { c with st := .recognised }).updFlash fun f =>
                { f with cleanRecs := f.cleanRecs.filter (· ≠ (r.id, r.epoch)) }).enterService k
            else s.blankJoin k)
/-- CARRIER_QUALIFY_TIMEOUT: more than 2 s. -/
def execCarrierQualifyTimeout (k : Slot) (s : State) : Out :=
  .next (if (s.slot k).st = .qualifying then s.failSlot k else s)
/-- CARRIER_ATTENTION: a press detaches, cancels a detach, or qualifies again. -/
def execCarrierAttention (k : Slot) (s : State) : Out :=
  let s := s.wakeDevice 0x50
  let c := s.slot k
  .next (match c.st with
    | .inService => s.startDetach k
    | .detaching =>
      if s.detachDurable k then s
      else s.updSlot k fun c =>
        -- once the epoch has been written, both copies are rewritten without it
        let c := if c.detachJseq.isSome then ({ c with epoch := 0 }).writeIdentity else c
        { c with st := .inService, detachJseq := none }
    | .detached => s.updSlot k fun c => { c with st := .qualifying, pwren := true }
    | .failed => s.updSlot k fun c => { c with st := .qualifying, pwren := true }
    | _ => s)
/-- CARRIER_DETACH: the management's detach command; a slot that is not in service refuses it (DESIGN CHOICE, log entry 56). -/
def execCarrierDetach (k : Slot) (s : State) : Out :=
  let s := s.wakeDevice 0x30
  .next (if (s.slot k).st = .inService then (s.startDetach k).answer .ok else s.answer .accessViolation)
/-- CLEAN_DETACH_DURABLE: the record is durable; the carrier is powered down. -/
def execCleanDetachDurable (k : Slot) (s : State) : Out :=
  .next (if !(s.detachDurable k) then s
    else
      let s := (s.detachNoted k).updSlot k fun c => { c with st := .detached, pwren := false, released := false, detachJseq := none }
      s.settleShares.settleTier s.flash.tier)
/-- ERASE_FOREIGN_CARRIER: with presence, a foreign carrier becomes a blank one, which joins. -/
def execEraseForeignCarrier (k : Slot) (s : State) : Out :=
  .next (s.withPresence fun s => if (s.slot k).st = .foreign then (s.blankJoin k).answer .ok else s.answer .accessViolation)

end Sys2Proof.Machine
end

