-- ==== Sys2Proof/Machine/Recovery.lean ====
section
/-! DEFINITION. Journals becoming durable, fences, and recovery after resets (spec 01 Table 1-6; 11 R240, R241; 13 R311 to
R322). -/

namespace Sys2Proof.Machine

/-! ### The commands that change what is on flash -/

/-- DEMOTION_DONE: the demotion of a group ends, and its units are mapped. -/
def execDemotionDone (p : Part) (g : Nat) (good : Bool) (s : State) : Out := .next ((s.demotionDone p g good).settleFlash)
/-- COMMIT_APPLY. -/
def execCommitApply (x : StepRef) (s : State) : Out := .next ((s.commitApply x).settleFlash)
/-- COMMIT_RELEASE. -/
def execCommitRelease (x : StepRef) (s : State) : Out := .next ((s.commitRelease x).settleFlash)

/-! ### Journals (R313 to R317) -/

/-- A session's image after a record: page tables and key columns are written at a park and a revival, at creation and at a
checkpoint, not at each commit (R316). -/
def SessImage.over (new : SessImage) (jtype : Nat) (old : Option SessImage) : SessImage :=
  if jtype ≠ jCommit then new
  else { new with seqs := new.seqs.mapV fun i q =>
    match (old.bind fun o => o.seqs.find i) with
    | some o => if o.h = q.h then { q with table := o.table, keys := o.keys } else { q with table := [], keys := [] }
    | none => { q with table := [], keys := [] } }
/-- An object has a durable record newer than its image (10 R222). -/
def Journal.changed (j : Journal) (o : FlashOwner) : Journal :=
  { j with newer := if j.newer.contains o then j.newer else j.newer ++ [o] }
/-- An object's image holds all that is durable of it. -/
def Journal.written (j : Journal) (o : FlashOwner) : Journal :=
  { j with newer := j.newer.filter (· != o), images := if j.images.contains o then j.images else j.images ++ [o] }
/-- Map-entry changes become durable. -/
def Journal.mapped (j : Journal) (ups : List (Nat × Option MapUnit)) : Journal :=
  { j with map := ups.foldl (fun (m : Tab MapUnit) e => match e.2 with
      | some u => m.put e.1 u
      | none => m.del e.1) j.map }
/-- A record becomes durable: the object's durable state is the one it carries. A park writes the session's image (13 R316). -/
def Journal.apply (j : Journal) (r : JRec) : Journal :=
  match r.body with
  | .session i (some im) =>
    let k := { j with sessions := j.sessions.put i (im.over r.jtype (j.sessions.find i)) }
    if r.jtype = jPark then k.written (.session im.sess.h) else k.changed (.session im.sess.h)
  | .session i none =>
    let o : FlashOwner := .session (((j.sessions.find i).map (·.sess.h)).getD 0)
    { j with sessions := j.sessions.del i, images := j.images.filter (· != o), newer := j.newer.filter (· != o) }
  | .tenant n t => { j with tenants := j.tenants.put n t }.changed .records
  | .model n m => { j with models := j.models.put n m }.changed .records
  | .region i (some g) => { j with regions := j.regions.put i g }
  | .region i none => { j with regions := j.regions.del i }
  | .program i (some g) => { j with programs := j.programs.put i g }.changed .programs
  | .program i none => { j with programs := j.programs.del i }.changed .programs
  | .domain n (some d) => { j with domains := j.domains.put n d }.changed .records
  | .domain n none => { j with domains := j.domains.del n }.changed .records
  | .migration id st gone => { j with
      sessions := if gone = 0 then j.sessions else j.sessions.keep fun _ im => im.sess.h != gone
      outcomes := (j.outcomes ++ [(id, st)]).drop (j.outcomes.length + 1 - 4096) }
  | .layout ps b => { j with layout := ps, broken := b }
  | .cluster c st => { j with clusters := j.clusters.put c st }
  | .map ups => j.mapped ups
  | .mapMove _ ups => j.mapped ups
  | .plain => if r.jtype = jCheckpoint then { j with checkpoint := r.jseq } else j
/-- Program the oldest closed page on both copies. -/
def Journal.program (j : Journal) : Journal :=
  match j.closed with
  | [] => j
  | pg :: ps =>
    let j := pg.foldl Journal.apply { j with closed := ps, pages := j.pages + 1 }
    { j with durable := ((pg.getLast?).map (·.jseq)).getD j.durable }
/-- Change a journal. -/
def State.updJournal (s : State) (j : Nat) (f : Journal → Journal) : State :=
  { s with journals := s.journals.put j (f (s.journal j)) }
/-- The partition whose journal a number names. -/
def journalPart (j : LogId) : Option Part := if h : j.val < 16 then some ⟨j.val, h⟩ else none
/-- JOURNAL_PAGE_TIMEOUT: a page closes 8 µs after its first record. -/
def execJournalPageTimeout (j : LogId) (s : State) : Out :=
  .next (s.updJournal j.val fun r =>
    if r.openPage.isEmpty || r.stopped then r else { r with closed := r.closed ++ [r.openPage], openPage := [] })
/-- The `committed_tokens` of the sessions whose records a page has made durable (01 Table 1-8; 03 Table 3-9, stage 5). -/
def State.creditTokens (s : State) (p : Part) (pg : List JRec) : State :=
  s.forEach pg fun s r => match r.body with
    | .session i (some im) => s.updSess p i fun ss =>
        if ss.h = im.sess.h then { ss with committedTokens := im.sess.committedTokens } else ss
    | _ => s
/-- A page with these records has been programmed in the journal reserve; a CHECKPOINT among them returns the superblocks of earlier records to
it (13 R315). -/
def State.onReserve (s : State) (j : Nat) (pg : List JRec) : State :=
  if pg.isEmpty then s
  else s.updFlash fun f =>
    let f := f.journalPage j
    if pg.any fun r => r.jtype == jCheckpoint then f.journalRecycle j else f
/-- The images of the sessions whose parks a page has made durable are written (13 R316). -/
def State.parkImages (s : State) (p : Part) (pg : List JRec) : State :=
  s.forEach pg fun s r => match r.body with
    | .session _ (some im) => if r.jtype = jPark then s.staleUnits p (.session im.sess.h) (List.range (unitsOf im.bytes)) else s
    | _ => s
/-- JOURNAL_PAGE_PROGRAMMED: the oldest closed page is on both copies: its records are durable, and the outcomes that waited for
them follow. -/
def execJournalPageProgrammed (j : LogId) (s : State) : Out :=
  let pg := (s.journal j.val).closed.headD []
  let s := (s.updJournal j.val Journal.program).onReserve j.val pg
  .next ((match journalPart j with
    | some p => ((s.creditTokens p pg).parkImages p pg).settleMigrations p
    | none => s).settleFlash)
/-- Every image with journaled changes is written back, with the page tables as they stand (13 R315, R316). -/
def State.writeImages (s : State) (p : Part) : State :=
  let j := s.journal p.val
  let all := (j.sessions.map fun kv => FlashOwner.session kv.2.sess.h) ++ (if j.programs.isEmpty then [] else [.programs]) ++ [.records]
  let s := s.forEach j.newer fun s o =>
    s.staleUnits p o ((s.flash.map.filter fun kv => keyPart kv.1 == p.val && kv.2.owner == o).map (·.2.idx))
  s.updJournal p.val fun r =>
    all.foldl Journal.written { r with sessions := r.sessions.mapV fun _ im =>
      { im with seqs := im.seqs.mapV fun i q =>
        match s.seq? p i with
        | some c => if c.h = q.h then { q with table := c.table, keys := c.keys } else q
        | none => q } }
/-- JOURNAL_CHECKPOINT: every image is written back, and a CHECKPOINT record follows. No image is written while the tier is READ_ONLY (10
Table 10-11). -/
def execJournalCheckpoint (j : LogId) (s : State) : Out :=
  .next (match journalPart j with
    | some p =>
      if s.flashRO then s.roRefusal.statusEvent p .tierReadOnly 0 0
      else (((s.writeImages p).jlog j.val jCheckpoint 0 0 .plain).updJournal j.val fun r => { r with pages := 0 }).settleFlash
    | none => (s.jlog j.val jCheckpoint 0 0 .plain).updJournal j.val fun r => { r with pages := 0 })
/-- Pages already started are completed, and no page is started after that (R314). -/
def Journal.finishStarted : Nat → Journal → Journal
  | 0, j => j
  | n + 1, j => Journal.finishStarted n j.program
/-- Every journal stops as R314 gives. -/
def State.stopJournals (s : State) : State :=
  let s := s.forEach (s.journals.map fun kv => kv.2.closed.map fun pg => (kv.1, pg)).flatten fun s e => s.onReserve e.1 e.2
  let s := { s with journals := s.journals.mapV fun _ j => { j.finishStarted j.closed.length with openPage := [], stopped := true } }
  s.forEach (List.finRange 16) fun s p => s.settleMigrations p

/-! ### Fences (01 Table 1-6, 03 R62, 12 Table 12-7) -/

/-- Fence an ACTIVE partition: its steps before their commit point are squashed, its queue pairs fail. -/
def State.fencePart (s : State) (cause : Nat) (p : Part) : State :=
  match s.prt p with
  | none => s
  | some t =>
    if t.st ≠ .active then s
    else
      let s := s.forEach t.steps fun s kv =>
        if kv.2.st = .applied then s
        else if kv.2.kind = 4 then (match kv.2.sess with
          | some i => s.stopRevival p i .partitionFenced
          | none => s)
        else s.squash p kv.1 .partitionFenced
      let s := s.forEach t.qps fun s kv => if kv.2.st = .error then s else s.failQp p kv.1 .partitionFenced
      s.updP p fun t => { t with st := .fenced, fenceCause := cause }
/-- Queues restart empty; those that were in ERROR or DRAINING too. -/
def Queue.restart (q : Queue) : Queue :=
  { q with sqHead := 0, sqTail := 0, cqHead := 0, cqTail := 0, phase := true, posted := [], waiting := [], reserved := 0
           keptSq := none, keptCq := none }
/-- End every step of a partition without a completion: only what it had applied stays. -/
def State.endSteps (s : State) (p : Part) (st : Status) : State :=
  let ks := s.getP p [] fun t => t.steps
  s.forEach ks fun s kv =>
    if kv.2.kind = 4 then (match kv.2.sess with
      | some i => s.stopRevival p i st
      | none => s)
    else if kv.2.st = .applied then (s.releasePins p kv.2).endStep p kv.2
    else s.squashEffects p kv.2 st
/-- Unfence a partition: its queues restart empty, its commands in flight complete PARTITION_FENCED. -/
def State.unfencePart (s : State) (p : Part) : State :=
  match s.prt p with
  | none => s
  | some t =>
    if t.st ≠ .fenced || (t.fenceCause = 5 && s.presence.broken) then s
    else
      let s := s.endSteps p .partitionFenced
      let s := s.updP p fun t => { t with queues := t.queues.mapV fun _ q => q.restart, st := .active, fenceCause := 0 }
      let s := s.forEach (s.getP p [] fun t => t.live) fun s l => s.endReq p l.q l.ent.cid .partitionFenced 9
      s.forEach (s.getP p [] fun t => t.programs.map (·.1)) fun s i => s.settleProgram p i
/-- PT_FENCE: bit 0 written to `pt_fence` fences the partition. -/
def execPtFence (p : Part) (val : BitVec 32) (s : State) : Out :=
  let s := s.wakeDevice (0x20 + p.val)
  .next (if bitOf val.toNat 0 then s.fencePart 1 p else s)
/-- UNFENCE: bit p unfences partition p. -/
def execUnfence (mask : BitVec 16) (s : State) : Out :=
  .next ((s.wakeDevice 0x30).forEach ((List.finRange 16).filter fun p => bitOf mask.toNat p.val) fun s p => s.unfencePart p)
/-- FLR: fences the partition of the LD and touches no other. -/
def execFlr (p : Part) (s : State) : Out := .next ((s.wakeDevice (0x20 + p.val)).fencePart 2 p)
/-- CXL_RESET: of one LD; it is confined to the LD as an FLR is (DEDUCED, log entry 58). -/
def execCxlReset (p : Part) (s : State) : Out := .next ((s.wakeDevice (0x20 + p.val)).fencePart 2 p)
/-- A CONFIGURED partition becomes ACTIVE: after a warm reset the T1H range table is compared with its record first (13 R320). In the
broken-seal state with `seal_action` 1 it is fenced at once (15 R360). -/
def State.activate (s : State) (p : Part) : State :=
  match s.prt p with
  | none => s
  | some t =>
    if t.st ≠ .configured then s
    else
      let changed := t.t1hSeen.any fun seen => seen.any fun e => bitOf e.2.2.toNat 63 &&
        !((t.t1h.find e.1).any fun n => n.1 == e.2.1 && bitOf n.2.toNat 63 && bitsOf n.2.toNat 31 0 == bitsOf e.2.2.toNat 31 0
          && !(bitOf n.2.toNat 32))
      let gs := if changed then (t.groups.filter fun kv => kv.2.tier == .t1h).map (·.1) else []
      let s := s.forEach gs fun s g => s.dropGroup p g
      let s := s.updP p fun t => { t with st := .active, t1hSeen := none }
      if s.presence.broken && s.presence.sealAction then s.fencePart 5 p else s
/-- LD_ENABLE: the bound host sets its LD's memory space and bus master enables; with both a CONFIGURED partition is ACTIVE (01
Table 1-6). -/
def execLdEnable (p : Part) (mem master : Bool) (s : State) : Out :=
  let s := s.wakeDevice (0x20 + p.val)
  .next (match s.prt p with
    | none => s
    | some t =>
      let s := s.updP p fun t => { t with ld := { t.ld with mem := mem, master := master } }
      if t.ld.bound && mem && master then s.activate p else s)

/-! ### Recovery (R318 to R322) -/

/-- The state of a session once nothing runs. -/
def SessSt.settled : SessSt → SessSt
  | .running => .opened
  | .reviving => .parked
  | .opened => .opened
  | .parked => .parked
  | .migrating => .parked
/-- A recovered sequence: lengths from its image, entries for its blocks where the group they name is kept. -/
def recoveredSeq (keep : Handle → Bool) (cur : Option Sequence) (im : Sequence) (warm : Bool) : Sequence :=
  let live := cur.bind fun c => if warm && c.h == im.h then some c else none
  let src := ((live.map (·.table)).getD im.table)
  let keys := ((live.map (·.keys)).getD im.keys)
  { im with
    table := (List.range ((im.committed + 63) / 64)).map fun b =>
      let h := src.getD b 0
      (b, if h ≠ 0 && keep h then h else 0)
    keys := keys.keep fun b _ => (b + 1) * 64 ≤ im.committed
    coarse := (live.map (·.coarse)).getD [], summaries := (live.map (·.summaries)).getD [], prov := 0, st := .idle, openStep := none, freeAtEnd := false, held := false, readySince := 0 }
/-- Positions of a session: the unit of its charges. -/
def positions (seqs : Tab Sequence) : Nat := (seqs.map fun kv => kv.2.committed + kv.2.rc).sum
/-- Does the durable map name every unit of a group (10 R227)? -/
def State.durableUnits (s : State) (p : Part) (r : Group) : Bool :=
  let m := (s.journal p.val).map
  let n := s.getP p 0 fun t => unitsOf (t.groupBytes r)
  n != 0 && (List.range n).all fun i => m.any fun kv => kv.2.owner == .group r.h && kv.2.idx == i
/-- Is a group kept: with T0 and T1 after a warm reset unless an absent step opened it, from T2 with durable map entries after
either (R227, R319, R320)? -/
def State.keepsGroup (s : State) (p : Part) (warm : Bool) (r : Group) : Bool :=
  if r.tier = .t2 then s.durableUnits p r && r.st != .retiring
  else warm && r.openedBy.isNone && r.st != .retiring
/-- A recovered region: an authoritative one from its image after a cold reset, or where it stands after a warm one. -/
def recoveredRegion (warm : Bool) (cur : Option Region) (r : Region) : Option Region :=
  let still := cur.bind fun c => if c.h == r.h then some c else none
  let base := { r with registered := r.registered && still.any (·.registered), pins := [], newer := [] }
  match warm, still with
  | true, some c => some { c with st := r.st, pins := [] }
  | _, _ =>
    if r.binding.isSome then some base
    else if r.cls = 1 then
      if r.home = 3 && !r.synced then none
      else some { base with home := (if r.home = 3 then 2 else r.home), chunks := [], spots := [], data := r.image }
    else if r.home = 2 then some { base with chunks := [], spots := [], data := (still.getD r).data }
    else none
/-- What a reset does to an event log: its registers and counts start again, the records written stay in the host's memory, and
held events are kept where the unit that holds them is (DESIGN CHOICE, log entry 59). -/
def EvLog.restart (l : EvLog) (keep : Bool) : EvLog := { EvLog.reset with ring := l.ring, held := if keep then l.held else [], irqs := l.irqs }
/-- The result words of a live command that a reset ends: a request's final completion says fault (08 Table 8-10). -/
def Live.lostWords (l : Live) : Word × Word :=
  if l.ent.opcode = ocRequest then
    (finalWord 9 0 ((l.req.map fun r => r.emitted.length).getD 0), (l.req.map (·.seed)).getD 0)
  else (0, 0)
/-- What a reset does to a partition's interface and to its work in flight (Table 13-8, R322; 12 R271): registers and queues as after
reset, step frames, waves, queue pairs, arming and revivals gone. A warm reset keeps the clock, the counters, the T1H table and the
extents, and remembers the live commands. -/
def Partition.restart (t : Partition) (warm : Bool) : Partition :=
  { t with
    st := if t.st = .fenced && warm then .fenced else .configured
    fenceCause := if warm then t.fenceCause else 0
    clock := if warm then t.clock else 0
    regs := [], latch := [], ev := t.ev.restart warm
    counters := if warm then t.counters else []
    resv := []
    queues := t.queues.mapV fun i q => { st := .disabled, sqBase := 0, cqBase := 0, depthLog := 0, priv := i == 0, irq := false
                                         program := q.program, sqHead := 0, sqTail := 0, cqHead := 0, cqTail := 0, phase := true
                                         posted := [], waiting := [], reserved := 0, irqs := 0, keptSq := none, keptCq := none }
    live := [], steps := [], waves := [], due := [], prompts := [], dgLeft := [], winnowOn := [], fetchAt := (0, 0), reserves := []
    epochs := if warm then t.epochs else [], revivals := [], hgEarly := [], replicas := ⟨[], [], [], []⟩
    qps := [], chains := [], mailbox := Mailbox.reset, trace := if warm then t.trace else []
    report := { kind := 0, jseq := 0, entries := [] }
    t1h := if warm then t.t1h else [], t1hSeen := if warm then some t.t1h else none
    lostCmds := if warm then t.lostCmds ++ t.live.map fun l => (l.q, l.ent.cid, l.ent.handle0, l.lostWords) else []
    ld := if warm then { t.ld with mem := false, master := false, hdm := false, hdmErr := false }
      else { t.ld with mem := false, master := false, hdm := false, hdmErr := false, extents := [], dcEvents := [], window := [], poison := [] }
    outbox := [] }
/-- What recovery makes of the objects of a partition's record, before its groups are settled. -/
def State.recovered (s : State) (p : Part) (warm : Bool) (t : Partition) : Partition :=
  let j := s.journal p.val
  let keep := fun (h : Handle) => (t.groups.find (hIndex h)).any fun r => r.h == h && s.keepsGroup p warm r
  let ims := j.sessions
  let seqs : Tab Sequence := ((ims.map fun kv => kv.2.seqs.map fun q =>
    (q.1, recoveredSeq keep (t.sequences.find q.1) q.2 warm)).flatten).foldl (fun m e => m.put e.1 e.2) []
  let regs : Tab Region := ((j.regions.map fun kv => (kv.1, recoveredRegion warm (t.regions.find kv.1) kv.2)).filterMap fun e =>
    e.2.map fun r => (e.1, r)).foldl (fun m e => m.put e.1 e.2) []
  let regs := (ims.map fun kv => kv.2.regions).flatten.foldl (fun (m : Tab Region) e => m.upd e.1 fun r => { r with data := e.2 }) regs
  let credit := fun (n : Nat) => (t.sessions.map fun kv =>
    if kv.2.tenant = n then positions (t.seqsOf kv.2) - positions (((ims.find kv.1).map (·.seqs)).getD []) else 0).sum
  let tens := j.tenants.mapV fun n (d : Tenant) =>
    match t.tenants.find n with
    | some c => { d with level := min (d.capacity : Int) (c.level + (credit n : Int)), lastRefill := c.lastRefill, remainder := c.remainder }
    | none => d
  -- an import whose record is durable stays MIGRATING with its migration (09 R210)
  let migs := t.migrations.keep fun _ g => !g.source && g.imported && g.jseq.any (· ≤ j.durable)
  let sess : Tab Session := ims.map fun kv => (kv.1, { kv.2.sess with
    st := if migs.any fun e => e.2.sess == some kv.1 && e.2.hSess == kv.2.sess.h then .migrating else kv.2.sess.st.settled
    pendPark := none, pendClose := none, preRevived := false
    committedTokens := positions kv.2.seqs % 2 ^ 32 })
  let ents := (t.sessions.map fun kv =>
    let now := positions (((ims.find kv.1).map (·.seqs)).getD [])
    let rolled := decide (now < positions (t.seqsOf kv.2))
    let dropped := (t.seqsOf kv.2).any fun q => q.2.table.any fun e => e.2 != 0 && !(keep e.2)
    let lost := s.isLost p (.session kv.2.h)
    (kv.2.h, now, b2n rolled + 2 * b2n dropped + 4 * b2n lost)).filter fun e => e.2.2 != 0
  let r : Partition := { t with
    tenants := tens, models := j.models, sessions := sess, sequences := seqs, regions := regs
    nodes := if warm then t.nodes else [], index := if warm then t.index else [], overPages := if warm then t.overPages else []
    programs := j.programs.mapV fun i g =>
      match t.programs.find i with
      | some c => if warm && c.h = g.h then { g with clusters := g.clusters &&& c.clusters } else g
      | none => g
    parked := (t.parked.filter fun i => (sess.find i).any fun r => r.st == .parked)
      ++ ((sess.filter fun kv => kv.2.st == .parked && !(t.parked.contains kv.1)).map (·.1))
    migrations := migs, migHistory := j.outcomes, undo := []
    report := { kind := if warm then 1 else 2, jseq := j.durable, entries := ents } }
  r.count cRollbacks (ents.filter fun e => e.2.2 % 2 == 1).length
/-- The groups of a recovered partition: those not kept are gone, references of page tables and of nodes are counted anew, rows beyond what is recovered are
trimmed, moves in flight are undone, and nodes of groups that are not FULL go. -/
def State.settleRecovered (s : State) (p : Part) (warm : Bool) (gone : List Nat) : State :=
  let s := s.forEach gone fun s g => s.freeGroup p g
  let s := s.updP p fun t => { t with groups := t.groups.mapV fun _ r =>
    { r with refcount := (t.sequences.map fun kv => (kv.2.table.filter fun e => e.2 == r.h).length).sum
               + (t.nodes.filter fun e => e.2.group == r.h).length
             pins := 0, ppin := false, openedBy := none
             move := .idle, copyOut := false, cancelFree := false
             backing := if !warm || (r.backing = some .t2 && !(s.durableUnits p r)) then none else r.backing
             recs := if warm && r.backing = some .t2 && !(s.durableUnits p r) then r.recs.mapV fun _ e => { e with dirty := true } else r.recs
             st := if r.st = .retiring then .full else r.st
             frame := if r.move = .promoting then 0 else r.frame, run := if r.move = .promoting then 0 else r.run } }
  let s := s.forEach (s.getP p [] fun t => t.groups.map (·.1)) fun s g => s.settleGroup p g
  let s := s.forEach (s.getP p [] fun t => t.groups) fun s kv =>
    let n := s.getP p 0 fun t => t.rowsNeeded kv.2.h
    if n < kv.2.filled then
      (s.updGroup p kv.1 fun r => { r with filled := n, st := .opened, rows := max r.rows (n + 1) }).trimGroup p kv.1
    else s.trimGroup p kv.1
  let bad := s.getP p [] fun t => (t.nodes.filter fun kv =>
    !((t.groups.find (hIndex kv.2.group)).any fun r => r.h == kv.2.group && r.st == .full)).map (·.1)
  s.forEach bad fun s n =>
    let g := s.getP p 0 fun t => ((t.nodes.find n).map fun nd => hIndex nd.group).getD 0
    let held := s.getP p false fun t => (t.nodes.find n).any fun nd => (t.groups.find g).any fun r => r.h == nd.group
    let s := s.removeNode p n
    if held then s.refDown p g else s
/-- Slot generations after a recovery: an object that is lost is a free of its slot, and a recovered one has the generation of its
handle (01 R11). -/
def Partition.settleGens (old new : Partition) : Partition :=
  let slots := fun {α : Type} (kind : Nat) (h : α → Handle) (a b : Tab α) =>
    ((a.filter fun kv => !((b.find kv.1).any fun e => h e == h kv.2)).map fun kv => (slotKey kind kv.1, nextGen (hGen (h kv.2))))
      ++ b.map fun kv => (slotKey kind kv.1, hGen (h kv.2))
  let all := slots kSession (·.h) old.sessions new.sessions ++ slots kSequence (·.h) old.sequences new.sequences
    ++ slots kRegion (·.h) old.regions new.regions ++ slots kProgram (·.h) old.programs new.programs
  { new with gens := all.foldl (fun g e => g.put e.1 e.2) new.gens }
/-- Recover one partition. -/
def State.recoverPart (s : State) (p : Part) (warm : Bool) : State :=
  match s.prt p with
  | none => s
  | some t =>
    let gone := (t.groups.filter fun kv => !(s.keepsGroup p warm kv.2)).map (·.1)
    (s.updP p fun _ => Partition.settleGens t (s.recovered p warm t)).settleRecovered p warm gone
/-- What any reset does to a journal: what is durable stays, what was being written is gone. -/
def Journal.restart (j : Journal) : Journal := { j with openPage := [], closed := [], next := j.durable + 1, stopped := false }
/-- The domains that the partitions' journals hold. -/
def State.recoveredDomains (s : State) : Tab Domain :=
  ((s.parts.map fun kv => (s.journal kv.1).domains).flatten).foldl (fun m e => m.put e.1 { e.2 with reserved := none, excluded := none }) []
/-- Steps in flight are over, what they had not committed is undone, and each partition's interface starts again. -/
def State.dropWork (s : State) (warm : Bool) : State :=
  let s := s.forEach (List.finRange 16) fun s p => s.endSteps p .lostToReset
  { s with parts := s.parts.mapV fun _ t => t.restart warm, paths := [] }
/-- Ports lose their links; after a cold reset their counters begin anew (12 R294). -/
def State.resetPorts (s : State) (warm : Bool) : State :=
  { s with ports := if warm then s.ports.mapV fun _ q => { Port.reset with stats := q.stats } else [] }
/-- The device's RW registers at a reset: port controls are kept in the boot flash (14 R342), the others return to their reset
values (log entry 52). -/
def Control.restart (c : Control) : Control :=
  { regs := c.regs.keep fun off _ => off ≥ 0x10000, mailbox := Mailbox.reset, latch := [] }
/-- The flash tier as recovery finds it (10 R227, Table 10-8): the journals alone decide where each unit lives. A job whose move record is
durable has moved its units, and its victim is erased again; any other leaves its victim as it was, its target closed. After a loss of
power the other open superblocks are closed too. -/
def State.resolveFlash (s : State) (warm : Bool) : State :=
  s.updFlash fun f =>
    let done := fun (n : Nat) (j : GleanJob) => j.ph == .erase
      || (j.ph == .commit && j.jseq.any (· ≤ (s.journal (((f.sbs.find n).map (·.part)).getD 16)).durable))
    let targets := (f.jobs.map fun kv => kv.2.copies.map fun c => c.2.sb).flatten
    let now : Tab MapUnit := ((s.journals.map fun kv => kv.2.map).flatten).foldl (fun m e => m.put e.1
      (match f.map.find e.1 with
      | some u => if { u with gone := [], stale := false } == e.2 then u else e.2
      | none => e.2)) []
    { f with map := now, stats := listSet f.stats 3 fun v => (v + f.jobs.length) % 2 ^ 64
             sbs := f.sbs.mapV fun n b =>
               match f.jobs.find n with
               | some j => { b with st := if done n j then .erasing else .verified }
               | none => if b.st = .opened && b.stream ≠ 0 && (!warm || targets.contains n) then { b with st := .closed, wseq := f.wseq } else b
             jobs := (f.jobs.keep fun n j => done n j).mapV fun _ j => { j with ph := .erase }
             gleaning := [] }
/-- Warm recovery (R320): undo logs, trims, frees, and the CAM reloaded from its shadows. -/
def State.warmRecover (s : State) : State :=
  let s := (s.dropWork true).resolveFlash true
  let s := { s with journals := s.journals.mapV fun _ j => j.restart }
  let s := s.forEach (List.finRange 16) fun s p => s.recoverPart p true
  let s := { s with domains := s.recoveredDomains, cam := s.cam.reload }
  (s.resetPorts true).settleFlash
/-- Cold recovery (R319): the layout from the device journal, then each partition from its own journal and its images. -/
def State.coldRecover (s : State) : State :=
  let s := s.resolveFlash false
  let dj := s.journal devJournal
  let parts := s.parts.keep fun n _ => dj.layout.any fun e => e.1.num.val == n
  let s := { s with parts := parts, presence := { s.presence with broken := dj.broken || !s.presence.intact } }
  let s := s.forEach (List.finRange 16) fun s p => s.recoverPart p false
  let s := { s with journals := s.journals.mapV fun _ j => j.restart }
  ({ s with domains := s.recoveredDomains }).settleFlash

end Sys2Proof.Machine
end

