-- ==== Sys2Proof/Machine/Doorbells.lean ====
section
/-! DEFINITION. What hosts write into the partition map besides its plain registers: doorbells, event-log registers, the T1H range
table, queue 0 (spec 18 R403 to R409). -/

namespace Sys2Proof.Machine

/-! ### Doorbells (Table 18-5) -/

/-- A submission tail that reaches an enabled queue. -/
def Queue.ringSq (q : Queue) (idx : Nat) : Queue := { q with sqTail := idx }
/-- Slots that a completion head frees: an unchanged index on a full ring frees all of it (DEDUCED, log entry 64). -/
def Queue.freed (q : Queue) (idx : Nat) : Nat :=
  let n := (idx + q.depth - q.cqHead) % q.depth
  if n = 0 && q.posted.length = q.depth then q.depth else n
/-- A completion head that reaches an enabled queue. -/
def Queue.ringCq (q : Queue) (idx : Nat) : Queue := { q with cqHead := idx, posted := q.posted.drop (q.freed idx) }
/-- A doorbell of a device that serves, by the rows of Table 18-5 from the third on. -/
def State.doorbell (s : State) (p : Part) (n : Nat) (cq : Bool) (val : BitVec 32) : State :=
  let idx := bitsOf val.toNat 11 0
  match (s.prt p).bind fun t => t.queues.find n with
  | none => s
  | some q =>
    let ev := fun (s : State) => s.statusEvent p .accessViolation 0 (BitVec.ofNat 64 n)
    if q.st ≠ .enabled then ev s
    else if idx ≥ q.depth then ev (s.updQueue p n fun q => { q with st := .error })
    else if !cq then s.updQueue p n fun q => q.ringSq idx
    else if q.freed idx > q.posted.length then ev s
    else s.updQueue p n fun q => q.ringCq idx
/-- A doorbell write: ignored while the partition is FENCED, kept before service-ready. -/
def State.ringDoorbell (s : State) (p : Part) (n : Nat) (cq : Bool) (val : BitVec 32) : State :=
  match s.prt p with
  | none => s
  | some t =>
    if t.st = .fenced then s
    else if !s.power.serviceReady then
      s.updQueue p n fun q => if cq then { q with keptCq := some val } else { q with keptSq := some val }
    else s.doorbell p n cq val
/-- The doorbells kept for service-ready are acted on. -/
def State.keptDoorbells (s : State) (p : Part) (n : Nat) : State :=
  match (s.prt p).bind fun t => t.queues.find n with
  | none => s
  | some q =>
    let s := s.updQueue p n fun q => { q with keptSq := none, keptCq := none }
    if s.getP p true fun t => t.st == .fenced then s
    else
      let s := match q.keptCq with
        | some v => s.doorbell p n true v
        | none => s
      match q.keptSq with
      | some v => s.doorbell p n false v
      | none => s
/-- SQ_DOORBELL. -/
def execSqDoorbell (p : Part) (q : Qn) (val : BitVec 32) (s : State) : Out :=
  .next ((s.wakeDevice (0x20 + p.val)).ringDoorbell p q.val false val)
/-- CQ_DOORBELL. -/
def execCqDoorbell (p : Part) (q : Qn) (val : BitVec 32) (s : State) : Out :=
  .next ((s.wakeDevice (0x20 + p.val)).ringDoorbell p q.val true val)

/-! ### Event logs (R408, R409) -/

/-- Change the event log of a partition that answers, or the device log. -/
def State.updLog (s : State) (log : LogId) (f : EvLog → EvLog) : State :=
  match journalPart log with
  | some p => s.updP p fun t => if t.st = .fenced then t else
      let l := f t.ev
      { t with ev := l }.count cEventsLost (if l.lost > t.ev.lost then l.lost - t.ev.lost else 0)
  | none => { s with devLog := f s.devLog }
/-- The events held while the log was not enabled are written, oldest first. -/
def EvLog.release (l : EvLog) : EvLog := l.held.foldl (fun l e => (l.add e).1) { l with held := [] }
/-- A write to `ev_ctl`: a depth outside 4 to 12 leaves the register unchanged; another depth starts the ring again (DESIGN CHOICE,
log entry 65); enabling writes what was held. -/
def EvLog.setCtl (l : EvLog) (val : BitVec 32) : EvLog :=
  let d := bitsOf val.toNat 3 0
  if d < 4 || 12 < d then l
  else
    let n := { l with ctl := val &&& 0x8000000F }
    let n := if d = bitsOf l.ctl.toNat 3 0 then n else { n with head := 0, tail := 0, fullRing := false, phase := true }
    if n.on && !l.on then n.release else n
/-- Records in the ring that the host has not freed. -/
def EvLog.used (l : EvLog) : Nat := if l.fullRing then l.depth else (l.tail + l.depth - l.head) % l.depth
/-- A write to `ev_head`: the host frees the records up to the index; an unchanged index on a full ring frees all of it (DEDUCED, log
entry 64), and an index beyond the records written is ignored. -/
def EvLog.setHead (l : EvLog) (val : BitVec 32) : EvLog :=
  let i := bitsOf val.toNat 11 0
  let n := (i + l.depth - l.head) % l.depth
  let n := if n = 0 && l.fullRing then l.depth else n
  if i ≥ l.depth || n > l.used then l else { l with head := i, fullRing := l.fullRing && n == 0 }
/-- What a write to a log's registers wakes: a partition's is a BAR write, the device log's comes from management. -/
def wakeOf (log : LogId) : Nat := if log.val < 16 then 0x20 + log.val else 0x30
/-- EV_CTL_WRITE. -/
def execEvCtlWrite (log : LogId) (val : BitVec 32) (s : State) : Out :=
  .next ((s.wakeDevice (wakeOf log)).updLog log fun l => l.setCtl val)
/-- EV_HEAD_WRITE. -/
def execEvHeadWrite (log : LogId) (val : BitVec 32) (s : State) : Out :=
  .next ((s.wakeDevice (wakeOf log)).updLog log fun l => l.setHead val)

/-! ### The T1H range table (R406) -/

/-- May the host rewrite valid entries: while FENCED (DEDUCED over R403, log entry 66), or between a warm reset and ACTIVE? -/
def Partition.t1hOpen (t : Partition) : Bool := t.st == .fenced || (t.st == .configured && t.t1hSeen.isSome)
/-- The first entry with `valid` clear. -/
def Partition.t1hFirst (t : Partition) : Nat :=
  ((List.range 256).find? fun i => !(bitOf (t.t1h.getD i (0, 0)).2.toNat 63)).getD 256
/-- Write half an entry: `base` is 2 MiB aligned, `failed` stays as the device set it. -/
def Partition.t1hWrite (t : Partition) (i : Nat) (high : Bool) (v : Word) : Partition :=
  let old := t.t1h.getD i (0, 0)
  if !(t.t1hOpen) && (bitOf old.2.toNat 63 || t.t1hFirst ≠ i) then t
  else if high then { t with t1h := t.t1h.put i (old.1, (v &&& 0x80000000FFFFFFFF) ||| (old.2 &&& 0x100000000)) }
  else if v.toNat % 2097152 ≠ 0 then t
  else { t with t1h := t.t1h.put i (v, old.2) }
/-- T1H_RANGE_APPEND: base and length, then `valid`. -/
def execT1hRangeAppend (p : Part) (idx : Fin 256) (base rng : Word) (s : State) : Out :=
  .next ((s.wakeDevice (0x20 + p.val)).updP p fun t => (t.t1hWrite idx.val false base).t1hWrite idx.val true rng)

/-! ### Queue 0 (R404) -/

/-- A write to one of queue 0's registers (Table 18-3). -/
def Queue.setBase (q : Queue) (cq : Bool) (v : Word) : Queue :=
  if q.st ≠ .disabled then q
  else if cq then (if v.toNat % 32 = 0 then { q with cqBase := v } else q)
  else if v.toNat % 64 = 0 then { q with sqBase := v } else q
/-- A write to `q_ctl` of queue 0: a depth outside 1 to 12 leaves the register unchanged. -/
def Queue.setCtl (q : Queue) (v : Nat) : Queue :=
  let d := bitsOf v 3 0
  if d = 0 || 12 < d then q
  else
    let q := { q with irq := bitOf v 16, depthLog := if q.st = .disabled then d else q.depthLog }
    if bitOf v 31 then (if q.st = .disabled then q.enable else q) else q.disable
/-- What the registers of a queue read. -/
def Queue.ctlWord (q : Queue) : Nat :=
  b2n (q.st != .disabled && q.st != .draining) * 2 ^ 31 + b2n q.priv * 2 ^ 30 + b2n q.irq * 2 ^ 16 + q.depthLog
end Sys2Proof.Machine
end

