-- ==== Sys2Proof/Machine/Power.lean ====
section
/-! DEFINITION. Power states, resets, clocks, temperature, the DORMANT state and the way to service-ready (spec 13 R311, R312; 14 R324
to R343; 19 R420, R427, R428). -/

namespace Sys2Proof.Machine

def State.updPower (s : State) (f : Power → Power) : State := { s with power := f s.power }

/-! ### Losing and starting the die (Table 13-8, Table 14-4) -/

/-- A slot at a reset: a detach whose record is durable is done, another one has not happened (DEDUCED, log entry 60). -/
def State.settleSlot (s : State) (k : Slot) : State :=
  if (s.slot k).st ≠ .detaching then s
  else if s.detachDurable k then
    (s.detachNoted k).updSlot k fun c => { c with st := .detached, pwren := false, released := false, detachJseq := none }
  else s.updSlot k fun c =>
    let c := if c.detachJseq.isSome then ({ c with epoch := 0 }).writeIdentity else c
    { c with st := .inService, detachJseq := none }
/-- Everything on the die is lost, as a cold reset or a loss of power leaves it: journal pages already started are completed (R314),
and what recovery does not bring back is gone. The device stands in `st`, with the cold recovery to come. -/
def State.loseDie (s : State) (st : PwrSt) : State :=
  let s := s.stopJournals.dropWork false
  let s := s.forEach (List.finRange 8) fun s k => s.settleSlot k
  { s with
    power := { s.power with
      st := st, before := st, configReady := false, serviceReady := false, recovery := some .cold, entering := false, wakes := []
      wakeCause := 0, rate := 16, throttleMs := 0, p1ms := 0, p1s := 0, busMv := 0, tDie := 0, tStack := List.replicate 8 0
      energy := 0, plls := s.power.plls.keep fun n _ => n ≥ 38, wedged := false }
    ident := { s.ident with quoteIn := none, migIn := none, transfer := none, running := none, pushed := false, waiting := false }
    presence := { s.presence with window := false, opened := 0 }
    control := s.control.restart, devLog := s.devLog.restart true, ports := [], paths := [], cam := ⟨[], [], [], [], [], [0, 0, 0, 0]⟩
    ergot := 0, resweep := [], swept := [], sideband := ⟨false, none, 0⟩, cxl := ⟨[], []⟩
    clusters := s.clusters.mapV fun n _ => { Cluster.fresh with st := (s.journal devJournal).clusters.getD n .inService } }
/-- Does an image pass steps 1 and 2 of R351 (15)? -/
def State.bootable (s : State) (i : FwImage) : Bool := i.sigOk && decide (s.ident.minSvn ≤ i.svn)
/-- The boot ROM (15 R351): the image of the boot flash runs, or host-pushed recovery waits for one; the keys are derived at the first
boot after the bus rises, and kept otherwise. The check of the derived key against `kem_pub` passes (DEDUCED, log entry 4). -/
def State.boot (s : State) : State :=
  match s.ident.boot.filter s.bootable with
  | some i => { s with ident := { s.ident with running := some i, pushed := false, waiting := false, keysIn := true } }
  | none => { s with ident := { s.ident with running := none, pushed := false, waiting := true, transfer := none } }
/-- A cold reset begins: INITIALISING. -/
def State.startUp (s : State) : State := (s.updPower fun w => { w with st := .initialising, before := .initialising }).boot
/-- A device in STANDBY starts when PERST_N is deasserted, the reference runs and no hold is left. -/
def State.tryStart (s : State) : State :=
  if s.power.st = .standby && !s.power.perst && s.power.refclk && !s.power.tripped then s.startUp else s
/-- The warm reset itself: started pages complete, the work in flight goes, memories are kept, and recovery follows (R320). An
updated image runs from here (15 R353). -/
def State.warm (s : State) : State :=
  let s := s.stopJournals.warmRecover
  let img := s.ident.boot.filter s.bootable
  { s with
    power := { s.power with st := .initialising, before := .initialising, serviceReady := false, entering := false, wakes := [], rate := 16
                            wedged := false, plls := s.power.plls.keep fun n _ => n ≥ 38 }
    ident := { s.ident with quoteIn := none, migIn := none, running := img.or s.ident.running, pushed := s.ident.pushed && img.isNone }
    presence := { s.presence with window := false }
    control := s.control.restart, devLog := s.devLog.restart true, resweep := [], swept := [], cxl := ⟨[], []⟩ }
/-- A warm reset, which only a serving device takes (Table 14-4). -/
def State.warmReset (s : State) : State := if s.power.st = .serving then s.warm else s
/-- A cold reset by the management interface. -/
def State.coldReset (s : State) : State :=
  if s.power.st = .serving || s.power.st = .initialising then (s.loseDie .initialising).startUp else s
/-- Enter HALTED: outputs safe, slots without power. -/
def State.halt (s : State) (thermal : Bool) : State :=
  let s := (s.loseDie .halted).updPower fun w => { w with thermTrip := thermal }
  s.updFlash fun f => { f with slots := f.slots.mapV fun _ c => { c with pwren := false } }
/-- WARM_RESET: bit 0 of `dev_ctl`. -/
def execWarmReset (s : State) : Out := .next (s.wakeDevice 0x30).warmReset
/-- COLD_RESET: bit 1 of `dev_ctl`. -/
def execColdReset (s : State) : Out := .next (s.wakeDevice 0x30).coldReset
/-- Fence every ACTIVE partition. -/
def State.fenceAll (s : State) (cause : Nat) : State := s.forEach (List.finRange 16) fun s p => s.fencePart cause p
/-- WEDGE_DETECT: DEVICE_WEDGED to every partition; then a warm reset, or every partition is fenced (R312). -/
def execWedgeDetect (_ : Unit7) (s : State) : Out :=
  .next (if s.power.st ≠ .serving then s
    else
      let s := (s.eventParts evDeviceWedged 0 0).updPower fun w => { w with wedged := true }
      if bitOf (s.devReg 0x028) 0 then s.warmReset else s.fenceAll 6)

/-! ### The 54 V input (R324 to R326, R330) -/

/-- A trip of comparator 2 or 3. -/
def State.trip (s : State) : State :=
  match s.power.st with
  | .initialising | .serving | .dormant | .frozen => (s.loseDie .standby).updPower fun w => { w with tripped := true, inRange := false }
  | .standby => s.updPower fun w => { w with tripped := true, inRange := false }
  | .off | .halted => s.updPower fun w => { w with inRange := false }
/-- POWER_FAIL: the bus falls through 44.0 V. -/
def execPowerFail (s : State) : Out := .next s.trip
/-- OVERVOLTAGE: the bus above 60.0 V for 10 µs, handled as a power-fail trip. -/
def execOvervoltage (s : State) : Out := .next s.trip
/-- POWER_RESTORE_HOLD: the bus has stayed within 46 to 58 V for 100 ms. -/
def execPowerRestoreHold (s : State) : Out :=
  .next ((s.updPower fun w => { w with inRange := true, tripped := false }).tryStart)
/-- BUS_COLLAPSE: the bus falls below 40.0 V: OFF, and the key store is empty (15 R347). A bus that falls passes the power-fail
threshold on its way. -/
def execBusCollapse (s : State) : Out :=
  let s := s.trip
  let s := if s.power.st = .halted then s.loseDie .off else s
  .next { s.updPower fun w => { w with st := .off, before := .off, tripped := false, thermTrip := false, half := false, hot := false, plls := [] } with
    ident := { s.ident with keysIn := false } }
/-- BUS_RISE: the bus rises through 45.0 V: the AUXCLK registers take their reset values (R339), and an OFF device is in STANDBY. A
seal loop found open enters the broken-seal state (15 R360). -/
def execBusRise (s : State) : Out :=
  let s := s.updPower fun w => { w with aux := List.replicate 4 ⟨true, false, 15, 0⟩ }
  .next (if s.power.st ≠ .off then s
    else { s.updPower fun w => { w with st := .standby, before := .standby, inRange := true } with
      presence := { s.presence with broken := s.presence.broken || !s.presence.intact, misses := 0 } })
/-- PERST_ASSERT: a cold reset into STANDBY. A halted device follows only once its temperature has fallen below `t_throttle` (R329). -/
def execPerstAssert (s : State) : Out :=
  let s := s.updPower fun w => { w with perst := true }
  .next (match s.power.st with
    | .off | .standby => s
    | .halted => if s.power.hot then s else (s.loseDie .standby).updPower fun w => { w with thermTrip := false }
    | _ => s.loseDie .standby)
/-- PERST_DEASSERT: the first second begins, where the reference runs. -/
def execPerstDeassert (s : State) : Out := .next ((s.updPower fun w => { w with perst := false }).tryStart)

/-! ### The way to service-ready (R342) -/

/-- COLD_RECOVERY: R319 has run. -/
def execColdRecovery (s : State) : Out :=
  .next (if s.power.st = .initialising && s.power.recovery = some .cold && !s.ident.waiting then
    (s.coldRecover).updPower fun w => { w with recovery := none } else s)
/-- Power-up self-test: clusters that pass are in service with no quarantine counted, one in service that fails is quarantined
(Table 13-5). -/
def State.selfTest (s : State) (failed : BitVec 64) : State :=
  let s := { s with clusters := s.clusters.mapV fun c r =>
    { r with st := if failed.getLsbD c then r.st else .inService, quarantines := 0, passes := 0 } }
  s.forEach ((List.range 64).filter fun c => failed.getLsbD c) fun s c => s.quarantine c
/-- CONFIG_READY: self-test has ended. -/
def execConfigReady (failed : BitVec 64) (s : State) : Out :=
  .next (if s.power.st = .initialising && !s.power.configReady && !s.ident.waiting then
    let s := (s.selfTest failed).updPower fun w => { w with configReady := true }
    { s with cam := { s.cam with disabled := [] } }
  else s)
/-- Is a carrier still to qualify? -/
def State.qualifying (s : State) : Bool := s.flash.slots.any fun kv => kv.2.st == .present || kv.2.st == .qualifying
/-- What service-ready does: SERVING, and the doorbells kept so far are acted on (18 Table 18-5). -/
def State.serve (s : State) : State :=
  let s := s.updPower fun w => { w with st := .serving, serviceReady := true }
  s.forEach s.parts fun s kv => s.forEach kv.2.queues fun s q => s.keptDoorbells (Fin.ofNat 16 kv.1) q.1
/-- SERVICE_READY: recovery, config-ready and the qualification of every present carrier are behind. -/
def execServiceReady (s : State) : Out :=
  .next (if s.power.st = .initialising && s.power.configReady && s.power.recovery.isNone && !s.ident.waiting && !s.qualifying then s.serve
    else s)

/-! ### DORMANT (R331 to R333) -/

/-- Insert a wake request behind those that are not later. -/
def insertWake (e : Nat × Int) : List (Nat × Int) → List (Nat × Int)
  | [] => [e]
  | f :: fs => if e.2 < f.2 then e :: f :: fs else f :: insertWake e fs
/-- The wake requests in order: management requests first among equals, then lower partitions (R333). -/
def State.wakeRequests (s : State) : List (Nat × Int) :=
  let mg := (List.range 8).filterMap fun k =>
    let v := s.devReg (0x1010 + 8 * k)
    if v = 0 then none else some (16 + k, (v : Int) - 18000000)
  let ps := s.parts.filterMap fun kv =>
    let v := kv.2.reg 0x040
    if v = 0 then none else some (kv.1, ((v : Int) - (kv.2.clock : Int)) / 10 - 18000000)
  (mg ++ ps).foldl (fun l e => insertWake e l) []
/-- Does a request lie less than 180 ms ahead? -/
def State.wakeTooSoon (s : State) : Bool := s.wakeRequests.any fun e => e.2 ≤ 0
/-- The decision of Table 14-6 at `dormant_go`: nothing is answered to an accepted request before the entry ends. A device that is not
SERVING answers NOT_READY (DESIGN CHOICE, log entry 61). -/
def State.dormantGo (s : State) : State :=
  if s.power.st ≠ .serving then s.answer .notReady
  else if s.parts.any fun kv => kv.2.st == .active && !(bitOf (kv.2.reg 0x03C) 0) then s.answer .accessViolation
  else if s.flash.slots.any fun kv => kv.2.st == .detaching || kv.2.st == .qualifying then s.answer .notReady
  else if s.wakeTooSoon then s.answer .notReady
  else { s.updPower fun w => { w with entering := true } with reply := none }
/-- DORMANT_GO. -/
def execDormantGo (s : State) : Out := .next (s.wakeDevice 0x30).dormantGo
/-- Has every step in flight passed stage 6? -/
def State.drained (s : State) : Bool := s.parts.all fun kv => kv.2.steps.all fun k => k.2.st == .applied
/-- What DORMANT does to the device: a DISCONNECT on every READY queue pair, started pages complete, ports go down, CAM rows and cluster
memory are lost, and the eight earliest wake requests are loaded. -/
def State.sleep (s : State) : State :=
  let qs := (s.parts.map fun kv => (kv.2.qps.filter fun q => q.2.st == .ready).map fun q => (kv.1, q.1)).flatten
  let s := s.forEach qs fun s e => s.sendDisconnect (Fin.ofNat 16 e.1) e.2
  let s := { s with journals := s.journals.mapV fun _ j => j.finishStarted j.closed.length }
  let s := s.forEach (List.finRange 16) fun s p => s.settleMigrations p
  let ws := (s.wakeRequests.take 8).map fun e => (e.1, e.2.toNat)
  let s := { s.updPower fun w => { w with st := .dormant, entering := false, wakes := ws } with
    ports := s.ports.mapV fun _ q => q.down, cam := { s.cam with rows := [] } }
  (s.eventParts evDormantEntered 0 0).answer .ok
/-- DORMANT_ENTER: the steps in flight have drained. -/
def execDormantEnter (s : State) : Out :=
  .next (if !s.power.entering || !s.drained then s
    else if s.wakeTooSoon then (s.updPower fun w => { w with entering := false }).answer .notReady
    else s.sleep)
/-- DORMANT_ABANDON_TIMEOUT: the steps have not drained within 100 ms. -/
def execDormantAbandonTimeout (s : State) : Out :=
  .next (if s.power.entering then
    ((s.updPower fun w => { w with entering := false }).eventParts evDormantAbandoned 0 0).answer .aborted else s)
/-- DORMANT_OK_WRITE: a host writes `dormant_ok`; as a BAR write it wakes the device or ends an entry in progress. -/
def State.dormantOk (s : State) (p : Part) (val : BitVec 32) : State :=
  s.updP p fun t => if t.st = .fenced then t else { t with regs := t.regs.put 0x03C (val.zeroExtend 64 &&& 1) }
def execDormantOkWrite (p : Part) (val : BitVec 32) (s : State) : Out := .next ((s.wakeDevice (0x20 + p.val)).dormantOk p val)
/-- WAKE_COUNTER: a loaded counter reaches zero. -/
def execWakeCounter (k : Fin 8) (s : State) : Out :=
  .next (if s.power.st = .dormant && k.val < s.power.wakes.length then s.wakeDevice k.val else s)
/-- HOST_WAKE: comparator 14, ignored outside DORMANT (Table 14-7). -/
def execHostWake (s : State) : Out := .next (if s.power.st = .dormant then s.wakeDevice 0x10 else s)
/-- BOARD_ALERT: an event to the management interface, and nothing else. -/
def execBoardAlert (s : State) : Out := .next (s.devEvent evBoardAlert 0 0 0)

/-! ### Clocks (R335 to R340) -/

/-- The number of a PLL. -/
def pllNo : Pll → Nat
  | .root => 0
  | .hbm k => 1 + k.val
  | .ddr k => 9 + k.val
  | .onfi k => 21 + k.val
  | .cxl => 29
  | .eth k => 30 + k.val
  | .aux k => 38 + k.val
def State.pll (s : State) (n : Nat) : PllState := s.power.plls.getD n ⟨0, false, false⟩
def State.updPll (s : State) (n : Nat) (f : PllState → PllState) : State :=
  s.updPower fun w => { w with plls := w.plls.put n (f (s.pll n)) }
/-- PLL_QUALIFIED: lock has held for 65,536 reference cycles. -/
def execPllQualified (k : Pll) (s : State) : Out :=
  .next (if s.power.refclk && !(s.pll (pllNo k)).failed then s.updPll (pllNo k) fun p => { p with qualified := true, tries := 0 } else s)
/-- A PLL that has failed eight attempts takes its block out of service: a carrier's slot fails, a port goes down (the memory
channels' and the CXL port's own part is the flag). -/
def State.pllBlock (s : State) : Pll → State
  | .onfi k => if (s.slot k).st = .absent then s else s.failSlot k
  | .eth k => { s with ports := s.ports.mapV fun n q => if n / 2 = k.val then q.down else q }
  | .root | .hbm _ | .ddr _ | .cxl | .aux _ => s
/-- PLL_LOCK_TIMEOUT: the PLL starts again; at the eighth attempt in a row the root PLL halts the device, and any other raises
PLL_FAILED. -/
def execPllLockTimeout (k : Pll) (s : State) : Out :=
  let n := pllNo k
  .next (if (s.pll n).failed then s
    else
      let s := s.updPll n fun p => { p with tries := p.tries + 1, qualified := false }
      if (s.pll n).tries < 8 then s
      else match k with
        | .root => if s.power.st = .off then s else (s.halt false).devEvent evPllFailed 0 0 0
        | .hbm _ | .ddr _ | .onfi _ | .cxl | .eth _ | .aux _ =>
          ((s.updPll n fun p => { p with failed := true }).pllBlock k).devEvent evPllFailed 0 0 0)
/-- REFCLK_LOSS: FROZEN with every state held; the presence window closes (15 R357), port times hold over. -/
def execRefclkLoss (s : State) : Out :=
  let s := { s with presence := { s.presence with window := false } }
  let s := s.updPower fun w => { w with refclk := false, plls := w.plls.mapV fun _ p => { p with qualified := false } }
  .next (match s.power.st with
    | .serving | .initialising | .dormant =>
      { s.updPower fun w => { w with st := .frozen, before := w.st } with
        ports := s.ports.mapV fun _ q => { q.down with holdover := q.everLocked } }
    | _ => s)
/-- REFCLK_RETURN: edges are back and the root PLL qualifies: work resumes where it stopped, or a device kept in STANDBY starts. -/
def execRefclkReturn (s : State) : Out :=
  let s := (s.updPower fun w => { w with refclk := true }).updPll 0 fun p => { p with qualified := true, tries := 0 }
  .next (if s.power.st = .frozen then (s.updPower fun w => { w with st := w.before }).eventAll evRefclkRestored 0 0
    else s.tryStart)
/-- AUXCLK_CTL_WRITE: `aux_en` starts or stops the output; `aux_rate` up to 30 and `aux_spread` up to 20 are taken, another code leaves
its field and sets `aux_err`, which a written one clears (Table 14-9). -/
def State.auxWrite (s : State) (k : Nat) (val : Nat) : State :=
  let rate := bitsOf val 12 8
  let spread := bitsOf val 4 0
  s.updPower fun w => { w with aux := listSet w.aux k fun (a : AuxClk) =>
    { en := bitOf val 31, err := (a.err && !(bitOf val 17)) || rate > 30 || spread > 20
      rate := if rate > 30 then a.rate else rate, spread := if spread > 20 then a.spread else spread } }
def execAuxclkCtlWrite (k : Fin 4) (val : BitVec 32) (s : State) : Out := .next ((s.wakeDevice 0x30).auxWrite k.val val.toNat)
/-- What an AUXCLK register reads. -/
def State.auxRead (s : State) (k : Nat) : Nat :=
  let a := s.power.aux.getD k ⟨true, false, 15, 0⟩
  b2n a.en * 2 ^ 31 + b2n a.err * 2 ^ 17 + b2n (s.pll (38 + k)).qualified * 2 ^ 16 + a.rate * 256 + a.spread

/-! ### Power and temperature (R328, R329) -/

/-- POWER_SAMPLE: the measurements of the last millisecond and second, in 0.1 W, and the temperatures; the issue rate goes down a
sixteenth above `pwr_cap`, to 4/16, and up a sixteenth below `pwr_cap` − 25 W. A millisecond counts as throttled when the rate after
it is below the full one (DEDUCED, log entry 62). -/
def execPowerSample (p1ms p1s busMv : Nat) (tDie : BitVec 16) (tStack : List (BitVec 16)) (s : State) : Out :=
  let cap := s.devReg 0x1004
  let w := s.power
  let rate := if p1s > 10 * cap then max 4 (w.rate - 1) else if p1s + 250 < 10 * cap then min 16 (w.rate + 1) else w.rate
  .next (s.updPower fun w => { w with
    p1ms := p1ms, p1s := p1s, busMv := busMv, tDie := tDie, tStack := (List.range 8).map fun i => tStack.getD i 0
    energy := w.energy + p1ms, rate := rate, throttleMs := if rate < 16 then (w.throttleMs + 1) % 2 ^ 64 else w.throttleMs
    hot := w.hot && !(decide (tDie.toInt < 8 * (s.devReg 0x1008 : Int))) })
/-- THERMAL_THROTTLE: the die has reached `t_throttle`: half the issue rate. -/
def execThermalThrottle (s : State) : Out := .next (s.updPower fun w => { w with half := true, hot := true })
/-- THERMAL_RECOVER: 5 °C below `t_throttle`: the full rate again. -/
def execThermalRecover (s : State) : Out := .next (s.updPower fun w => { w with half := false, hot := false })
/-- THERMAL_HALT: 110 °C: started journal pages complete, HALTED, THERMTRIP_N asserted (19 R428). -/
def execThermalHalt (s : State) : Out :=
  .next (if s.power.st = .off then s else (s.halt true).updPower fun w => { w with half := true, hot := true })

/-! ### Boundary scan (19 R427) -/

/-- BOUNDARY_SCAN_INSTRUCTION: the port reads and writes no internal state; an instruction that drives pins is refused outside
STANDBY. The answer says which (DESIGN CHOICE, log entry 63). -/
def execBoundaryScanInstruction (drivesPins : Bool) (s : State) : Out :=
  .next (if drivesPins && s.power.st != .standby then s.mbox .unsupported else s.mbox .success)

end Sys2Proof.Machine
end

