-- ==== Sys2Proof/Machine/Cxl.lean ====
section
/-! DEFINITION. Logical devices and the window: binding, decoder, CXL.mem, Dynamic Capacity, poison commands, T1H failures, IDE and
the host's other requests (spec 11; 14 R343; 15 R352). -/

namespace Sys2Proof.Machine

/-! ### Configuration, binding, decoder (R239 to R241) -/

/-- What a host's request wakes with. -/
def hostWake (p : Part) : Nat := 0x20 + p.val
def requesterWake : Requester → Nat
  | .fm => 0x30
  | .ld p => hostWake p
/-- Does a requester's function answer: after config-ready, or LD 0 in host-pushed recovery (15 R352)? -/
def State.answers (s : State) (who : Requester) : Bool := s.power.configReady || (s.ident.waiting && who == .ld 0)
/-- Features of CXL 3.1 that the port does not implement (R238). -/
inductive CxlAbsent where
  | cxlCache | backInvalidation | hdmDb | hdmD | fabricMemory | portBasedRouting | multiHeaded
  deriving DecidableEq, Repr
/-- The capability fields of an LD's configuration space, one byte each in the order of R238: each absent feature reports 0, with
`Cache_Capable` first and the count of BI decoders second (R237, R238; the form of the answer is a DESIGN CHOICE, log entry 173). -/
def absentCaps : List (CxlAbsent × Byte) :=
  [(.cxlCache, 0), (.backInvalidation, 0), (.hdmDb, 0), (.hdmD, 0), (.fabricMemory, 0), (.portBasedRouting, 0), (.multiHeaded, 0)]
/-- CONFIG_REQUEST: retry status before config-ready (R239, Table 14-13); then it completes, with the capability fields. -/
def execConfigRequest (ld : Requester) (s : State) : Out :=
  let s := s.wakeDevice (requesterWake ld)
  .next (if s.answers ld then s.mbox .success 0 (absentCaps.map (·.2)) else s.mbox .retryStatus)
/-- FM_BIND: only the attachment that the layout names may bind an LD, and none that of an UNCONFIGURED partition (R240). -/
def execFmBind (p : Part) (vppb : Nat) (s : State) : Out :=
  let s := s.wakeDevice 0x30
  .next (match s.prt p with
    | none => s.mbox .invalidInput
    | some t => if t.ld.vppb ≠ vppb then s.mbox .invalidInput
      else (s.updP p fun t => { t with ld := { t.ld with bound := true } }).mbox .success)
/-- HDM_DECODER_COMMIT: not before service-ready, when Error Not Committed is set (Table 14-13). -/
def execHdmDecoderCommit (p : Part) (s : State) : Out :=
  let s := s.wakeDevice (hostWake p)
  .next (s.updP p fun t => { t with ld := { t.ld with hdm := t.ld.hdm || s.power.serviceReady, hdmErr := !s.power.serviceReady } })

/-! ### The window (R242 to R250) -/

/-- The extent that holds a DPA. -/
def Ld.extentAt (l : Ld) (dpa : Nat) : Option Extent := l.extents.find? fun e => e.dpa ≤ dpa && dpa < e.dpa + e.len
/-- Does a DPA lie in the host's window? -/
def Ld.inWindow (l : Ld) (dpa : Nat) : Bool := (l.extentAt dpa).any fun e => e.st == .accepted
/-- The window region that a DPA lies in. -/
def Partition.windowRegion (t : Partition) (dpa : Nat) : Option (Nat × Region) :=
  t.regions.find? fun kv => kv.2.home == 3 && kv.2.binding.isNone && kv.2.dpa ≤ dpa && dpa < kv.2.dpa + kv.2.size
/-- The bytes of a line of the window as the host reads them. -/
def Partition.windowLine (t : Partition) (dpa : Nat) : List Byte :=
  match t.windowRegion dpa with
  | some (_, r) =>
    match r.newer.find ((dpa - r.dpa) / 64) with
    | some l => l
    | none => r.data.rd (dpa - r.dpa) 64
  | none => t.ld.window.rd dpa 64
/-- Do CXL.mem requests of an LD arrive: is its decoder committed? -/
def State.memArrives (s : State) (p : Part) : Bool := s.getP p false fun t => t.ld.hdm
/-- CXL_MEM_READ: a line of 64 bytes: poison outside the window and while the partition is FENCED, and where a unit is poisoned. -/
def execCxlMemRead (p : Part) (dpa : Nat) (s : State) : Out :=
  if dpa % 64 ≠ 0 then .fault .illFormedCommand
  else
    let s := s.wakeDevice (hostWake p)
    .next (match s.prt p with
      | none => s
      | some t =>
        if !t.ld.hdm then s
        else
          let s := s.count p cMemReads
          if t.st = .fenced || !(t.ld.inWindow dpa) then (s.count p cPoisonedReads).answer .ok 0 (List.replicate 64 0) true
          else if t.ld.poison.contains (dpa / 4096) then s.answer .ok 0 (List.replicate 64 0) true
          else s.answer .ok 0 (t.windowLine dpa))
/-- CXL_MEM_WRITE: dropped and counted while FENCED and in an extent on its way out, dropped outside the window, and dropped, counted and
logged once a sync interval where a region is VALID or SUPERSEDED (R249). -/
def execCxlMemWrite (p : Part) (dpa : Nat) (data : List Byte) (s : State) : Out :=
  if data.length ≠ 64 ∨ dpa % 64 ≠ 0 then .fault .illFormedCommand
  else
    let s := s.wakeDevice (hostWake p)
    .next (match s.prt p with
      | none => s
      | some t =>
        if !t.ld.hdm then s
        else
          let s := s.count p cMemWrites
          if t.st = .fenced then s.count p cFencedWrites
          else if !(t.ld.inWindow dpa) then
            (if (t.ld.extentAt dpa).any fun e => e.st == .releasing || e.st == .fenced then s.count p cFencedWrites else s)
          else match t.windowRegion dpa with
            | none => s.updP p fun t => { t with ld := { t.ld with window := t.ld.window.wr dpa data } }
            | some (i, r) =>
              if r.st = .valid || r.st = .superseded then
                let s := s.count p cRoWindowWrites
                if r.warned then s
                else (s.statusEvent p .accessViolation r.h (BitVec.ofNat 64 dpa)).updRegion p i fun r => { r with warned := true }
              else s.updRegion p i fun r => { r with newer := r.newer.put ((dpa - r.dpa) / 64) data })

/-! ### The LD's primary mailbox (Table 11-1, Table 14-13; 15 R352) -/

/-- A command of an LD's primary mailbox: Busy before service-ready, Unsupported in host-pushed recovery, no answer from an LD that is
not config-ready. -/
def State.mailboxCmd (s : State) (p : Part) (f : State → State) : State :=
  let s := s.wakeDevice (hostWake p)
  if !(s.answers (.ld p)) then s.mbox .noResponse
  else if s.ident.waiting then s.mbox .unsupported
  else if !s.power.serviceReady then s.mbox .busy
  else f s
/-! ### Dynamic Capacity (R251 to R254) -/

/-- A block of Dynamic Capacity, in bytes. -/
def dcBlock : Nat := 268435456
/-- Bytes of an LD's DC region: `share_t1b` in whole blocks (R242). -/
def Partition.dcRegion (t : Partition) : Nat := t.shareT1b * 1048576 / dcBlock * dcBlock
/-- Bytes of all extents of an LD. -/
def Ld.extentBytes (l : Ld) : Nat := (l.extents.map (·.len)).sum
/-- Insert an extent by ascending DPA. -/
def insertExtent (e : Extent) : List Extent → List Extent
  | [] => [e]
  | f :: fs => if e.dpa < f.dpa then e :: f :: fs else f :: insertExtent e fs
/-- May an extent be added: aligned, in the region, overlapping none, seven eighths of the share and 512 extents at most? -/
def Partition.mayAdd (t : Partition) (dpa len : Nat) : Bool :=
  dpa % dcBlock == 0 && len != 0 && decide (dpa + len ≤ t.dcRegion) && decide (t.ld.extents.length < 512)
    && (t.ld.extents.all fun e => decide (dpa + len ≤ e.dpa) || decide (e.dpa + e.len ≤ dpa))
    && decide (8 * (t.ld.extentBytes + len) ≤ 7 * (t.shareT1b * 1048576))
/-- Bytes that groups and regions take in T1B beyond its share, which is what an extent waits for. -/
def Partition.overT1b (t : Partition) : Nat :=
  4096 * ((t.usedOuter .t1b).map (·.2)).sum + t.regionBytes .t1b - t.share .t1b * 1048576
/-- Free T1B space for an extent: candidates of its Winnow selection in order, at priority 3 (R252). -/
def State.freeT1b (s : State) (p : Part) : List Cand → State
  | [] => s
  | c :: cs => if s.getP p true fun t => t.overT1b ≤ t.leaving .t1b then s else State.freeT1b (s.evict p .t1b c 3) p cs
/-- INITIATE_DC_ADD: RESERVING, refused with Invalid Input (Table 11-3). -/
def execInitiateDcAdd (p : Part) (dpa blocks : Nat) (tag : BitVec 128) (s : State) : Out :=
  let s := s.wakeDevice 0x30
  .next (match s.prt p with
    | none => s.mbox .invalidInput
    | some t =>
      if !(t.mayAdd dpa (blocks * dcBlock)) then s.mbox .invalidInput
      else
        let s := s.updP p fun t => { t with ld := { t.ld with extents := insertExtent ⟨dpa, blocks * dcBlock, tag, .reserving⟩ t.ld.extents } }
        let cs := s.getP p [] fun t => t.winnowOrder s.isEt .t1b 0
        (s.freeT1b p cs).mbox .success)
/-- Change the extent that begins at a DPA, when it is in a state. -/
def State.updExtent (s : State) (p : Part) (dpa : Nat) (st : ExtentSt) (f : Extent → Option Extent) : State :=
  s.updP p fun t => { t with ld := { t.ld with extents := t.ld.extents.filterMap fun e => if e.dpa = dpa && e.st = st then f e else some e } }
/-- The extent that begins at a DPA, when it is in a state. -/
def State.extent? (s : State) (p : Part) (dpa : Nat) (st : ExtentSt) : Option Extent :=
  (s.prt p).bind fun t => t.ld.extents.find? fun e => e.dpa == dpa && e.st == st
/-- A range of the window is zeroed, its poison gone. -/
def Ld.zero (l : Ld) (dpa len : Nat) : Ld :=
  { l with window := l.window.filter fun c => c.1 < dpa || dpa + len ≤ c.1
           poison := l.poison.filter fun u => u * 4096 < dpa || dpa + len ≤ u * 4096 }
/-- DC_CAPACITY_FREED: the space is free and zeroed: OFFERED, with a DC event record for the host. -/
def execDcCapacityFreed (p : Part) (dpa : Nat) (s : State) : Out :=
  .next (match s.extent? p dpa .reserving with
    | none => s
    | some e =>
      if s.getP p true fun t => t.overT1b ≠ 0 then s
      else (s.updExtent p dpa .reserving fun e => some { e with st := .offered }).updP p fun t =>
        { t with ld := { t.ld.zero e.dpa e.len with dcEvents := t.ld.dcEvents ++ [⟨false, e.dpa, e.len, e.tag, 0, 0, 0⟩] } })
/-- DC_RESERVE_TIMEOUT: not freed within 1 s: the add fails. -/
def execDcReserveTimeout (p : Part) (dpa : Nat) (s : State) : Out :=
  .next (if (s.extent? p dpa .reserving).isSome then (s.updExtent p dpa .reserving fun _ => none).mbox .resourcesExhausted else s)
/-- ADD_DC_RESPONSE: the host accepts the offer, and its window grows, or rejects it. -/
def execAddDcResponse (p : Part) (dpa : Nat) (accept : Bool) (s : State) : Out :=
  .next (s.mailboxCmd p fun s => if (s.extent? p dpa .offered).isNone then s.mbox .invalidExtentList
    else if accept then ((s.updExtent p dpa .offered fun e => some { e with st := .accepted }).count p cExtentsAdded).mbox .success
    else (s.updExtent p dpa .offered fun _ => none).mbox .success)
/-- DC_OFFER_TIMEOUT: no response within 10 s. -/
def execDcOfferTimeout (p : Part) (dpa : Nat) (s : State) : Out := .next (s.updExtent p dpa .offered fun _ => none)
/-- Is a region one that keeps its extent from being released (Table 11-4)? -/
def Region.keepsExtent (r : Region) : Bool :=
  r.st == .uploading || r.st == .valid || r.st == .superseded || r.st == .revoking || r.st == .unbindable
/-- Window regions in a range of DPA. -/
def Partition.regionsIn (t : Partition) (dpa len : Nat) : List (Nat × Region) :=
  t.regions.filter fun kv => kv.2.home == 3 && kv.2.binding.isNone && kv.2.dpa < dpa + len && dpa < kv.2.dpa + kv.2.size
/-- RELEASE_DC: the host's release (Table 11-4); a range names the extents it meets, whole (DESIGN CHOICE, log entry 164). -/
def execReleaseDc (p : Part) (ranges : List (Nat × Nat)) (s : State) : Out :=
  .next (s.mailboxCmd p fun s => match s.prt p with
    | none => s.mbox .invalidExtentList
    | some t =>
      let named := t.ld.extents.filter fun e => e.st == .accepted && ranges.any fun r => r.1 < e.dpa + e.len && e.dpa < r.1 + r.2
      let inside := fun (r : Nat × Nat) => decide ((named.map fun e => min (r.1 + r.2) (e.dpa + e.len) - max r.1 e.dpa).sum = r.2)
      if named.any fun e => (t.regionsIn e.dpa e.len).any fun r => r.2.keepsExtent then s.mbox .invalidInput
      else if ranges.any fun r => !(inside r) || r.2 == 0 then s.mbox .invalidExtentList
      else
        let s := s.forEach named fun s e => (s.updExtent p e.dpa .accepted fun e => some { e with st := .releasing }).event p
          evExtentReleased 0 0 (BitVec.ofNat 64 e.dpa)
        s.mbox .success)
/-- Does a region whose extent is taken away move to its flash image: an authoritative one with a durable image (Table 11-5)? -/
def Region.rehomes (r : Region) : Bool := r.cls == 1 && r.synced && r.st != .uploading
/-- A region whose extent is taken away (Table 11-5): an authoritative one with a durable image moves to it, any other is FREE, its uses
in flight end EXTENT_REVOKED, and so does a publish of it that is still to be decided. -/
def State.revokeRegion (s : State) (p : Part) (i : Nat) (r : Region) : State :=
  if r.rehomes then
    (s.updRegion p i fun r => { r with home := 2, dpa := 0, data := r.image, newer := [] }).regionRecord p i jRegion 0
  else
    let ws := (s.getP p [] fun t => t.qps.map fun q => (q.2.work.filter fun w => w.region == r.h).map fun w => (q.1, w)).flatten
    let s := s.forEach ws fun s e => s.endWork p e.1 e.2 .extentRevoked
    let s := s.updP p fun t => { t with steps := t.steps.mapV fun _ k =>
      let pub := k.log.findSome? fun o => match o with
        | .publish n _ v => if n = i then some v else none
        | _ => none
      { k with moves := k.moves.mapV fun _ m => if (m.dst = i || m.src = i) && !m.done then { m with done := true, status := .extentRevoked } else m
               log := k.log.filter fun o => match o with
                 | .publish n _ _ => n ≠ i
                 | _ => true
               final := match pub with
                 | some v => some (.extentRevoked, BitVec.ofNat 64 v, 0)
                 | none => k.final } }
    (s.freeRegion p i).jlog p.val jRegion 0 r.h (.region i none)
/-- INITIATE_DC_FORCED_RELEASE: the fence point of Table 11-5. The event's `arg` is the extent's DPA (DESIGN CHOICE, log entry 67). -/
def execInitiateDcForcedRelease (p : Part) (dpa : Nat) (s : State) : Out :=
  let s := s.wakeDevice 0x30
  .next (match s.extent? p dpa .accepted with
    | none => s.mbox .invalidInput
    | some e =>
      let rs := s.getP p [] fun t => t.regionsIn e.dpa e.len
      let s := (s.updExtent p dpa .accepted fun e => some { e with st := .fenced }).count p cExtentsForced
      let up := (rs.filter fun r => r.2.st == .uploading).length
      let moved := (rs.filter fun r => r.2.rehomes).length
      let s := s.updP p fun t =>
        { t with ld := { t.ld with dcEvents := t.ld.dcEvents ++ [⟨true, e.dpa, e.len, e.tag, moved, up, rs.length - moved - up⟩] } }
      let s := s.forEach rs fun s r => s.revokeRegion p r.1 r.2
      ((s.statusEvent p .extentRevoked 0 (BitVec.ofNat 64 e.dpa)).settleVersions.settleFlash).mbox .success)
/-- EXTENT_DRAINED: accepted requests have drained and regions are resolved: the capacity is zeroed and goes back to device use. -/
def execExtentDrained (p : Part) (dpa : Nat) (s : State) : Out :=
  .next (match (s.extent? p dpa .releasing).or (s.extent? p dpa .fenced) with
    | none => s
    | some e => s.updP p fun t =>
        let ld := { t.ld with extents := t.ld.extents.filter fun f => f.dpa ≠ dpa }
        { t with ld := ld.zero e.dpa e.len })

/-! ### Poison, firmware and table commands (Tables 11-1, 11-8; 15 R352) -/

/-- IDENTIFY: answered before service-ready too. -/
def execIdentify (p : Part) (s : State) : Out :=
  let s := s.wakeDevice (hostWake p)
  .next (s.mbox (if !(s.answers (.ld p)) then .noResponse else if s.ident.waiting then .unsupported else .success))
/-- A DPA of the window's units. -/
def State.windowUnit (s : State) (p : Part) (dpa : Nat) : Bool := s.getP p false fun t => t.ld.inWindow dpa
/-- Poison or cure a unit of the window, and of the window regions on it. -/
def Partition.setUnit (t : Partition) (u : Nat) (on : Bool) : Partition :=
  let put := fun (l : List Nat) (v : Nat) => if on then (if l.contains v then l else l ++ [v]) else l.filter (· ≠ v)
  { t with ld := { t.ld with poison := put t.ld.poison u }
           regions := t.regions.mapV fun _ r =>
             if r.home = 3 && r.binding.isNone && r.dpa ≤ u * 4096 && u * 4096 < r.dpa + r.size then
               { r with poison := put r.poison (u - r.dpa / 4096) } else r }
/-- INJECT_POISON. -/
def execInjectPoison (p : Part) (dpa : Nat) (s : State) : Out :=
  .next (s.mailboxCmd p fun s => if s.windowUnit p dpa then (s.updP p fun t => t.setUnit (dpa / 4096) true).mbox .success
    else s.mbox .invalidInput)
/-- CLEAR_POISON. -/
def execClearPoison (p : Part) (dpa : Nat) (s : State) : Out :=
  .next (s.mailboxCmd p fun s => if s.windowUnit p dpa then (s.updP p fun t => t.setUnit (dpa / 4096) false).mbox .success
    else s.mbox .invalidInput)
/-- GET_POISON_LIST: the DPA of each poisoned unit, 8 bytes each. -/
def execGetPoisonList (p : Part) (s : State) : Out :=
  .next (s.mailboxCmd p fun s =>
    let us := s.getP p [] fun t => t.ld.poison
    s.mbox .success (BitVec.ofNat 64 us.length) ((us.map fun u => toLe (4096 * u) 8).flatten))
/-- A firmware command: only host-pushed recovery takes it, on LD 0 (15 R352). -/
def State.fwCmd (s : State) (p : Part) (f : State → State) : State :=
  let s := s.wakeDevice (hostWake p)
  if s.ident.waiting && p == 0 then f s
  else if !(s.answers (.ld p)) then s.mbox .noResponse
  else if !s.power.serviceReady then s.mbox .busy
  else s.mbox .unsupported
/-- GET_FW_INFO. -/
def execGetFwInfo (p : Part) (s : State) : Out := .next (s.fwCmd p fun s => s.mbox .success)
/-- TRANSFER_FW: the pushed image waits in cluster SRAM. -/
def execTransferFw (p : Part) (img : FwImage) (s : State) : Out :=
  .next (s.fwCmd p fun s => ({ s with ident := { s.ident with transfer := some img } }).mbox .success)
/-- ACTIVATE_FW: an image that passes steps 1 and 2 of R351 runs; another is refused, and the ROM waits again. -/
def execActivateFw (p : Part) (s : State) : Out :=
  .next (s.fwCmd p fun s =>
    match s.ident.transfer.filter s.bootable with
    | some i => ({ s with ident := { s.ident with running := some i, pushed := true, waiting := false, transfer := none, keysIn := true } }).mbox
        .success
    | none => ({ s with ident := { s.ident with transfer := none } }).mbox .invalidInput)
/-- CDAT_TABLE_ACCESS: the entries of Table 11-8 in its order, 8 bytes a value: DPA base and length, the flags non-volatile,
shareable and read-only, the EFI memory type, latencies in ns, bandwidths in GB/s, handle. The FM-owned LD has none. The number of the
specific-purpose memory type is PRESUMED (log entry 165). -/
def execCdatTableAccess (who : Requester) (s : State) : Out :=
  let s := s.wakeDevice (requesterWake who)
  .next (if !s.power.configReady then s.mbox .noResponse
    else match who with
      | .fm => s.mbox .success
      | .ld p =>
        let len := s.getP p 0 fun t => t.dcRegion
        s.mbox .success (BitVec.ofNat 64 len) ((([0, len, 0, 0, 0, 1, 420, 450, 121, 121, 0] : List Nat).map fun v => toLe v 8).flatten))

/-! ### T1H failures (Table 11-2) -/

/-- A group whose read from T1H failed: a copy homed there is an uncorrectable source, a backing copy there is discarded. -/
def State.t1hReadLost (s : State) (p : Part) (g : Nat) : State :=
  match s.group? p g with
  | none => s
  | some r =>
    if r.tier = .t1h then s.sourceLost p g
    else if r.backing = some .t1h then
      s.loseBacking p g
    else s
/-- A demotion into T1H that failed before destination commit: the group stays in T0, dirty. -/
def State.t1hWriteLost (s : State) (p : Part) (g : Nat) : State :=
  if (s.group? p g).any fun r => r.move == .demoting && r.dest == .t1h then
    (s.dropCopies p fun c => c.kind == .demote g).updGroup p g fun r =>
      { r with move := .idle, copyOut := false, cancelFree := false, recs := r.recs.mapV fun _ e => { e with dirty := true } }
  else s
/-- T1H_ACCESS_FAILURE: a read counts and loses its copy or makes its index chain empty; a write fails its demotion, marks the range
and takes no new placement there. -/
def execT1hAccessFailure (p : Part) (range : Fin 256) (use : T1hUse) (isWrite : Bool) (s : State) : Out :=
  .next (
    let s := s.count p cT1hErrors
    if isWrite then
      let s := match use with
        | .copy g => s.t1hWriteLost p g
        | .bucket _ => s
      (s.updP p fun t => { t with t1h := t.t1h.upd range.val fun e => (e.1, e.2 ||| 0x100000000) }).event p evT1hRangeFailed 0 0
        (BitVec.ofNat 64 range.val)
    else match use with
      | .copy g => s.t1hReadLost p g
      | .bucket i => s.updP p fun t => { t with index := t.index.upd i fun c => { c with bad := true } })

/-! ### IDE (R258) -/

/-- Who may establish a stream: the link streams the fabric manager, or the host of LD 0 with direct attachment; a selective stream its
LD's host. -/
def ideMay (who : Requester) (st : IdeStream) : Bool :=
  match st with
  | .cachemem | .ioLink => who == .fm || who == .ld 0
  | .sel p => who == .ld p
/-- IDE_STREAM_ESTABLISH: under a secured SPDM session; a stream in the insecure state is secure again. -/
def execIdeStreamEstablish (who : Requester) (st : IdeStream) (sessionSecured : Bool) (s : State) : Out :=
  let s := s.wakeDevice (requesterWake who)
  .next (if !s.power.configReady then s.mbox .noResponse
    else if !(ideMay who st) || !sessionSecured then s.mbox .unsupported
    else ({ s with cxl := { secure := if s.cxl.secure.contains st then s.cxl.secure else s.cxl.secure ++ [st]
                            insecure := s.cxl.insecure.filter (· ≠ st) } }).mbox .success)
/-- Does a partition's traffic travel in a stream? CXL.io of an LD with a selective stream travels in that one (DEDUCED, log entry 68). -/
def State.carries (s : State) (st : IdeStream) (p : Part) : Bool :=
  match st with
  | .cachemem => true
  | .ioLink => !(s.cxl.secure.contains (.sel p))
  | .sel q => q == p
/-- IDE_FAILURE: the stream is insecure, every partition whose traffic it carried is fenced, and the management core is told. -/
def execIdeFailure (st : IdeStream) (s : State) : Out :=
  .next (if !(s.cxl.secure.contains st) then s
    else
      let ps := (List.finRange 16).filter fun p => s.carries st p
      let s := { s with cxl := { secure := s.cxl.secure.filter (· ≠ st), insecure := s.cxl.insecure ++ [st] } }
      (s.forEach ps fun s p => s.fencePart 4 p).devEvent evIdeFailed 0 0 0)

end Sys2Proof.Machine
end

