-- ==== Sys2Proof/Machine/Identity.lean ====
section
/-! DEFINITION. The layout, keys, firmware, attestation, presence and the seal loop, migration records (spec 01 R14, R15; 02 R32; 05 R97,
R98; 10 R229; 12 R266; 15; 19 R419, R420). -/

namespace Sys2Proof.Machine

/-! ### The layout (01 R14, Table 1-6) -/

/-- A layout record's fields of a partition. -/
def Partition.layout (t : Partition) (p : Part) : PartLayout :=
  { num := p, grade := t.grade, clusters := t.clusters, shareT0 := t.shareT0, shareT1b := t.shareT1b, shareT1h := t.shareT1h
    shareT2 := t.shareT2, warmTier := t.warmTier, sessionQuota := t.quota, compat := t.compat, vppb := t.ld.vppb, binding := t.binding }
/-- The LAYOUT record of the device journal: the partitions with their wrapped keys, and the broken-seal state. -/
def State.layoutBody (s : State) : JBody :=
  .layout (s.parts.map fun kv => (kv.2.layout (Fin.ofNat 16 kv.1), kv.2.wrapped)) s.presence.broken
/-- Journal the layout. -/
def State.layoutRecord (s : State) : State := s.jlog devJournal jLayout 0 0 s.layoutBody
/-- A partition just created: CONFIGURED, nothing in it, queue 0 its only privileged queue. -/
def Partition.fresh (l : PartLayout) (epoch : Nat) (keys : PartKeys) : Partition :=
  { grade := l.grade, clusters := l.clusters, shareT0 := l.shareT0, shareT1b := l.shareT1b, shareT1h := l.shareT1h, shareT2 := l.shareT2
    effT2 := l.shareT2, warmTier := l.warmTier, quota := l.sessionQuota, compat := l.compat, keyEpoch := epoch, st := .configured
    fenceCause := 0, clock := 0, regs := [], latch := [], counters := [], ev := EvLog.reset, gens := [], resv := [], tenants := []
    models := [], sessions := [], sequences := [], groups := [], regions := [], nodes := [], index := [], overPages := []
    queues := (List.range 64).map fun i => (i, { Queue.fresh with priv := i == 0 }), programs := [], live := [], nextOrder := 0
    steps := [], waves := [], due := [], prompts := [], nextBatch := [], dgLeft := [], decodes := 0, winnowOn := [], fetchAt := (0, 0)
    epochs := [], reserves := [], parked := [], revivals := [], hgEarly := [], migrations := [], migHistory := [], variants := []
    replicas := ⟨[], [], [], []⟩, qps := [], chains := [], trace := [], mailbox := Mailbox.reset
    report := { kind := 0, jseq := 0, entries := [] }, t1h := [], t1hSeen := none, lostCmds := []
    ld := { vppb := l.vppb, bound := false, mem := false, master := false, hdm := false, hdmErr := false, extents := [], dcEvents := []
            window := [], poison := [] }
    binding := l.binding, outbox := [], undo := [], wrapped := keys, imgUnits := 0 }
/-- The layout fields of a partition change; what it holds stays. -/
def Partition.relayout (t : Partition) (l : PartLayout) : Partition :=
  { t with grade := l.grade, clusters := l.clusters, shareT0 := l.shareT0, shareT1b := l.shareT1b, shareT1h := l.shareT1h
           shareT2 := l.shareT2, warmTier := l.warmTier, quota := l.sessionQuota, compat := l.compat
           ld := { t.ld with vppb := l.vppb, bound := t.ld.bound && t.ld.vppb == l.vppb }, binding := l.binding }
/-- Keys that the management core derives from the device root secret (15 Table 15-3): `dkek`, the seeds of the signing key and of the
ML-KEM pair, and a partition's `pkek`. -/
def keyCustom : List Byte := ascii "SK7240-KEY"
def rootSecret : List Byte := toLe Config.drs.toNat 32
def dkek : List Byte := kmac256 rootSecret (ascii "kek") keyCustom 32
def xmssSeeds (n : Nat) : List Byte := shake256 (rootSecret ++ ascii "xmss") n
def kemSeeds : List Byte := kmac256 rootSecret (ascii "kem") keyCustom 64
def pkek (p : Part) (epoch : Nat) : Digest :=
  BitVec.ofNat 256 (leNat (kmac256 dkek (toLe p.val 2 ++ toLe epoch 2) (ascii "SK7240-PKEK") 32))
/-- The data key and the migration key of a new partition, as they are stored (15 R347, R348; log entry 5). -/
def State.newKeys (s : State) (p : Part) (epoch : Nat) : PartKeys × State :=
  let a := s.fresh
  let b := a.2.fresh
  let c := b.2.fresh
  (⟨Config.keyWrap (pkek p epoch) (toLe (Config.key a.1).toNat 32 ++ toLe (Config.key b.1).toNat 32),
    Config.keyWrap (pkek p epoch) (toLe (Config.key c.1).toNat 32)⟩, c.2)
/-- The CAM rows of some clusters, and their shadows, are invalidated; nodes that stood in them are in no row (05 R109). -/
def State.dropRows (s : State) (gone : List Nat) : State :=
  let out := fun (row : Nat) => gone.contains (row % 256 / 4)
  { s with
    cam := { s.cam with rows := s.cam.rows.keep fun r _ => !(out r), shadows := s.cam.shadows.keep fun r _ => !(out r) }
    parts := s.parts.mapV fun _ t => { t with nodes := t.nodes.mapV fun _ n => if n.camRow.any out then { n with camRow := none } else n } }
/-- Remove a partition (15 R349): its key epoch is incremented, its keys and its data are gone, its domains and superblocks with it. -/
def State.removePart (s : State) (p : Part) : State :=
  let keep := fun (id : Nat) => domOwner (BitVec.ofNat 16 id) ≠ p.val
  let s := (s.dropRows (clustersOf (s.getP p (0 : BitVec 64) fun t => t.clusters))).eraseSbs p
  { s with
    ident := { s.ident with keyEpoch := listSet s.ident.keyEpoch p.val fun e => min 0xFFFF (e + 1) }
    parts := s.parts.del p.val
    journals := s.journals.del p.val
    paths := s.paths.mapV fun _ ps => ⟨ps.copies.filter fun c => c.part ≠ p.val, ps.cur⟩
    domains := (s.domains.keep fun id _ => keep id).mapV fun _ d => { d with members := d.members &&& ~~~(1#16 <<< p.val) } }
/-- Create a partition, or change one: the CAM rows of clusters that it loses go, and its index has the buckets of its new directory (05
R106, R109). -/
def State.putPart (s : State) (l : PartLayout) : State :=
  match s.prt l.num with
  | some t =>
    let s := s.dropRows ((clustersOf t.clusters).filter fun c => !(clustersOf l.clusters).contains c)
    s.updP l.num fun t =>
      let n := t.relayout l
      if n.indexBits = t.indexBits then n else n.rehash s.isEt
  | none =>
    let epoch := s.ident.keyEpoch.getD l.num.val 0
    let k := s.newKeys l.num epoch
    { k.2 with parts := k.2.parts.put l.num.val (Partition.fresh l epoch k.1) }
/-- T0 capacity of a quadrant in MiB: two stacks of 72 GB (02 Table 2-2). -/
def quadMib : Nat := 137329
/-- A partition's portion of `share_t0` in a quadrant (02 R32). -/
def Partition.portionOf (t : Partition) (q : Nat) : Nat := portionMiB t.clusters t.shareT0 q
/-- Is a layout within its rules: clusters disjoint and not empty, quotas, portions, the page-group directory, T2, tags, addresses, ports (01
Table 1-5; 02 R32; 04 R75; 10 R229; 12 R266)? -/
def State.layoutOk (s : State) : Bool :=
  let ps := s.parts
  let pairs := (ps.map fun a => (ps.filter fun b => a.1 < b.1).map fun b => (a.2, b.2)).flatten
  let shared := fun (a b : PortBinding) => (List.range 16).any fun n => bitOf a.ports.toNat n && bitOf b.ports.toNat n
    && ((a.ip6.getD n 0 != 0 && a.ip6.getD n 0 == b.ip6.getD n 0) || (a.ip4.getD n 0 != 0 && a.ip4.getD n 0 == b.ip4.getD n 0))
  (ps.all fun kv => kv.2.clusters != 0 && kv.2.warmTier ≤ 2 && kv.2.quota ≤ 16777216 && kv.2.grade < 256
      && kv.2.shareT0 < 2 ^ 32 && kv.2.shareT1b < 2 ^ 32 && kv.2.shareT1h < 2 ^ 32 && kv.2.shareT2 < 2 ^ 32
      && decide (kv.2.dirSlots ≤ 4096 * kv.2.shareT0) && kv.2.binding.ptag != 0 && kv.2.binding.ptag < 65536
      && (List.range 16).all fun n => !(bitOf kv.2.binding.ports.toNat n) || (s.portExists n && bitOf (s.portReg (n / 2 * 2) 0) 0))
    && decide ((ps.map fun kv => kv.2.quota).sum ≤ 16777216)
    && (pairs.all fun e => e.1.clusters &&& e.2.clusters == 0 && e.1.binding.ptag != e.2.binding.ptag && !(shared e.1.binding e.2.binding))
    && ((List.range 4).all fun q => decide ((ps.map fun kv => kv.2.portionOf q).sum ≤ quadMib))
    && decide ((ps.map fun kv => kv.2.shareT2).sum * 1048576 ≤ s.usableBytes)
/-- The device with a layout command's changes made, if none of them is refused for the partition it names: an ACTIVE one is fenced first,
and a number whose key epoch has reached 0xFFFF is not configured again. -/
def State.applyLayout (s : State) (l : LayoutCmd) : Option State :=
  let active := fun (p : Part) => (s.prt p).any fun t => t.st == .active
  if l.remove.any (fun p => (s.prt p).isNone || active p) || l.put.any (fun e => active e.num)
      || !(decide (l.put.map (·.num)).Nodup) || !(decide l.remove.Nodup) then none
  else
    let s := s.forEach l.remove fun s p => s.removePart p
    if l.put.any fun e => (s.prt e.num).isNone && s.ident.keyEpoch.getD e.num.val 0 ≥ 0xFFFF then none
    else
      let s := s.forEach l.put fun s e => s.putPart e
      some { s with presence := { s.presence with sealAction := l.sealAction } }
/-- LAYOUT: partitions are removed, changed and created together, or ACCESS_VIOLATION and no change. -/
def execLayout (l : LayoutCmd) (s : State) : Out :=
  .next (s.withPresence fun s =>
    match (s.applyLayout l).filter State.layoutOk with
    | none => s.answer .accessViolation
    | some n => (n.settleFlash.layoutRecord).answer .ok)

/-! ### Cross-partition domains (01 R15; 05 R97, R98) -/

/-- DECLARE_CROSS_DOMAIN: over partitions of one grade; the answer carries the domain's identifier. -/
def execDeclareCrossDomain (owner : Part) (members : BitVec 16) (equalTime : Bool) (etMax : Nat) (s : State) : Out :=
  .next (s.withPresence fun s =>
    let all := members ||| (1#16 <<< owner.val)
    let ms := (List.finRange 16).filter fun p => bitOf all.toNat p.val
    let grade := (s.prt owner).map (·.grade)
    if grade.isNone || (ms.any fun p => (s.prt p).map (·.grade) != grade) || (equalTime && !(1 ≤ etMax && etMax ≤ 65536)) then
      s.answer .accessViolation
    else match s.domains.lowestFree (fun k => k / 1024 == 32 + owner.val) 1024 (mkDomain owner.val 0).toNat with
      | none => s.answer .noPage
      | some id =>
        let f := s.fresh
        let d : Domain := { key := Config.domainKey f.1, members := all, cross := true, equalTime := equalTime
                            etMax := if equalTime then etMax else 0, st := .active, reserved := none, excluded := none }
        ((({ f.2 with domains := f.2.domains.put id d }).objRecord owner 0 (.domain id (some d))).layoutRecord).answer .ok (BitVec.ofNat 64 id))
/-- WITHDRAW_CROSS_DOMAIN: refused while a session of any member names the domain. -/
def execWithdrawCrossDomain (dom : BitVec 16) (s : State) : Out :=
  .next (s.withPresence fun s =>
    match s.domain? dom with
    | none => s.answer .accessViolation
    | some d =>
      if !d.cross || d.st ≠ .active || s.domNamed dom then s.answer .accessViolation
      else
        let s := { s with domains := s.domains.upd dom.toNat fun d => { d with st := .closing } }.settleDomains
        ((s.objRecord (Fin.ofNat 16 (domOwner dom)) 0 (.domain dom.toNat (s.domains.find dom.toNat))).layoutRecord).answer .ok)

/-! ### Firmware and keys (15 R350, R353) -/

/-- FIRMWARE_UPDATE: the image is checked and written; it runs from the next reset. An image that fails is refused (which status is a DESIGN
CHOICE, log entry 69). -/
def execFirmwareUpdate (img : FwImage) (s : State) : Out :=
  .next (s.withPresence fun s =>
    if !img.sigOk then s.answer .sealMismatch
    else if img.svn < s.ident.minSvn then s.answer .accessViolation
    else ({ s with ident := { s.ident with boot := some img } }).answer .ok)
/-- VERSION_COMMIT: `min_svn` rises to the running image's version. -/
def execVersionCommit (s : State) : Out :=
  .next (s.withPresence fun s =>
    let v := (s.ident.running.map (·.svn)).getD 0
    ({ s with ident := { s.ident with minSvn := max s.ident.minSvn v } }).answer .ok)
/-- KEY_ENROLMENT: a partition's migration key is replaced by the one that the operator's bytes carry (15 R350). -/
def execKeyEnrolment (p : Part) (wrapped : List Byte) (s : State) : Out :=
  .next (s.withPresence fun s =>
    if (s.prt p).isNone then s.answer .accessViolation
    else ((s.updP p fun t =>
      { t with wrapped := ⟨t.wrapped.data, Config.keyWrap (pkek p t.keyEpoch) (Config.enrolled wrapped)⟩ }).layoutRecord).answer .ok)

/-! ### Presence and the seal loop (15 R357, R358, R360; 19 R419, R420) -/

/-- PRESENCE_PRESS: a window of 120 s opens, or starts again, while the seal loop is intact; in the broken-seal state it serves the clear
command only. -/
def execPresencePress (s : State) : Out :=
  let s := s.wakeDevice 0x40
  .next (if s.power.st = .off || !s.presence.intact then s
    else { s with presence := { s.presence with window := true, opened := s.presence.opened + b2n (!s.presence.window) } })
/-- PRESENCE_EXPIRY. -/
def execPresenceExpiry (s : State) : Out := .next { s with presence := { s.presence with window := false } }
/-- CLOSE_PRESENCE_WINDOW: bit 2 of `dev_ctl`. -/
def State.closeWindow (s : State) : State := { s with presence := { s.presence with window := false } }
def execClosePresenceWindow (s : State) : Out := .next (s.wakeDevice 0x30).closeWindow
/-- The seal loop opens: the broken-seal state, journaled and told to all; with `seal_action` 1 every partition is fenced. While the device
is OFF the loop is not watched. -/
def State.breakSeal (s : State) : State :=
  if !s.presence.intact then s
  else if s.power.st = .off then { s with presence := { s.presence with intact := false } }
  else
    let s := { s with presence := { s.presence with intact := false, broken := true, breaks := s.presence.breaks + 1, window := false, misses := 0 } }
    let s := (s.layoutRecord).eventAll evSealBroken 0 0
    if s.presence.sealAction then s.fenceAll 5 else s
/-- SEAL_BREAK: comparator 4 reports the loop open. -/
def execSealBreak (s : State) : Out := .next s.breakSeal
/-- SEAL_BIT_CHECK: one bit each 100 µs; a matching one shows the loop intact, ten mismatches in a row are the millisecond after which it
is open. -/
def execSealBitCheck (good : Bool) (s : State) : Out :=
  .next (if s.power.st = .off then s
    else if good then { s with presence := { s.presence with misses := 0, intact := true } }
    else if s.presence.misses + 1 ≥ 10 then ({ s with presence := { s.presence with misses := 0 } }).breakSeal
    else { s with presence := { s.presence with misses := s.presence.misses + 1 } })
/-- CLEAR_BROKEN_SEAL: the one command that a window of the broken-seal state serves. -/
def execClearBrokenSeal (s : State) : Out :=
  let s := s.wakeDevice 0x30
  .next (if !s.presence.window then s.answer .presenceRequired
    else (({ s with presence := { s.presence with broken := false } }).layoutRecord).answer .ok)

/-! ### Attestation (15 R354 to R356) -/

/-- The quote day as `pwr_cycles` stands: whole days that have passed are taken off, and the count of the day begins anew. -/
def Ident.newDay (i : Ident) : Ident :=
  let d := i.pwrCycles - i.dayStart
  if d ≥ 126 then { i with dayStart := i.dayStart + 126 * (d / 126), dayUsed := 0, capRaised := false } else i
/-- PWR_CYCLES_TICK: 2^36 powered reference cycles have passed. -/
def execPwrCyclesTick (s : State) : Out :=
  .next { s with ident := ({ s.ident with pwrCycles := s.ident.pwrCycles + 1 }).newDay }
/-- Quote indices for life, and those reserved when XMSS_LOW is raised (90%). -/
def quoteRange : Nat := 1032192
def quoteLow : Nat := 928973
/-- Take the next quote index: of the block in hand, or of a new block of 64, of which at most 256 indices are reserved in a quote day. -/
def State.quote (s : State) : State × Option Nat :=
  let s := { s with ident := s.ident.newDay }
  let i := s.ident
  match i.quoteIn with
  | some n => ({ s with ident := { i with quoteIn := if (n + 1) % 64 = 0 then none else some (n + 1) } }, some n)
  | none =>
    if i.dayUsed + 64 > 256 then
      let t := { s with ident := { i with capRaised := true } }
      (if i.capRaised then t else t.devEvent evQuoteCap 0 0 0, none)
    else if i.xmssNext + 64 > quoteRange then (s, none)
    else
      let low := i.xmssNext + 64 ≥ quoteLow && !i.lowRaised
      let t := { s with ident := { i with xmssNext := i.xmssNext + 64, dayUsed := i.dayUsed + 64, quoteIn := some (i.xmssNext + 1)
                                          lowRaised := i.lowRaised || low } }
      (if low then t.devEvent evXmssLow 0 0 0 else t, some i.xmssNext)
/-- A response that carries a device signature: Busy when no index may be used (R355). -/
def State.signed (s : State) (data : List Byte) : State :=
  match s.quote with
  | (s, none) => s.mbox .busy
  | (s, some n) => s.mbox .success (BitVec.ofNat 64 n) (data ++ Config.signature n)
/-- An SPDM request at a DOE mailbox: no response before config-ready (Table 14-13). -/
def State.spdm (s : State) (who : Requester) (f : State → State) : State :=
  let s := s.wakeDevice (requesterWake who)
  if !s.power.configReady then s.mbox .noResponse else f s
/-- SPDM_CHALLENGE. -/
def execSpdmChallenge (who : Requester) (s : State) : Out := .next (s.spdm who fun s => s.signed [])
/-- SPDM_KEY_EXCHANGE. -/
def execSpdmKeyExchange (who : Requester) (s : State) : Out := .next (s.spdm who fun s => s.signed [])
/-- A measurement's digest: what it covers is given (Table 15-4), its encoding is not, so that the digest is open (log entry 70); index 5 is
zero on the FM-owned LD. -/
def State.measurement (s : State) (who : Requester) (idx : Nat) : List Byte × State :=
  if idx = 5 && who == .fm then (List.replicate 32 0, s)
  else
    let f := s.fresh
    ((List.range 32).map (Config.openByte f.1), f.2)
/-- SPDM_GET_MEASUREMENTS: indices 1 to 7 (Table 15-4); a signed answer is a quote. -/
def execSpdmGetMeasurements (who : Requester) (idx : Nat) (signed : Bool) (s : State) : Out :=
  .next (s.spdm who fun s =>
    if !(1 ≤ idx && idx ≤ 7) then s.mbox .invalidInput
    else
      let m := s.measurement who idx
      if signed then m.2.signed m.1 else m.2.mbox .success 0 m.1)

/-! ### Migration records (15 R361, R362) -/

/-- Take the next index of the migration range. -/
def State.migIndex (s : State) : State × Option Nat :=
  let i := s.ident
  match i.migIn with
  | some n => ({ s with ident := { i with migIn := if (n + 1) % 64 = 0 then none else some (n + 1) } }, some n)
  | none =>
    if i.xmssMigNext + 64 > 1048576 then (s, none)
    else ({ s with ident := { i with xmssMigNext := i.xmssMigNext + 64, migIn := some (i.xmssMigNext + 1) } }, some i.xmssMigNext)
/-- The bytes of a migration record (Table 15-7): its ciphertext, body and signature are open, the body's length too (log entry 70). -/
def migBytes (parts : BitVec 16) (dst nonce : BitVec 128) (srcJseq index f : Nat) : List Byte :=
  let body := 16 * (Config.shown f % 65536)
  toLe 0x534B4D52 4 ++ toLe 1 2 ++ toLe parts.toNat 2 ++ toLe dst.toNat 16 ++ toLe nonce.toNat 16 ++ toLe srcJseq 8 ++ toLe index 4
    ++ toLe body 4 ++ toLe 0 16 ++ (List.range 1568).map (Config.openByte f) ++ (List.range 4628).map Config.identityByte ++ toLe 0 4
    ++ (List.range body).map (fun j => Config.openByte f (j + 1568)) ++ Config.signature index
/-- EXPORT_MIGRATION_RECORD: a snapshot of the named partitions for one successor; the source keeps serving. A chain that does not verify
and a partition that is not configured are refused (which status is a DESIGN CHOICE, log entry 69). -/
def execExportMigrationRecord (parts : BitVec 16) (dstSerial : BitVec 128) (chainOk : Bool) (s : State) : Out :=
  .next (s.withPresence fun s =>
    if !chainOk then s.answer .sealMismatch
    else if (List.finRange 16).any fun p => bitOf parts.toNat p.val && (s.prt p).isNone then s.answer .accessViolation
    else match s.migIndex with
      | (s, none) => s.answer .budgetExhausted
      | (s, some n) =>
        let f := s.fresh
        let rec_ := migBytes parts dstSerial (Config.nonce f.1) ((f.2.journal devJournal).next - 1) n f.1
        ({ f.2 with ident := { f.2.ident with record := rec_ } }).answer .ok (BitVec.ofNat 64 rec_.length) rec_)
/-- An imported object of a partition takes its place. -/
def State.importObject (s : State) (p : Part) (o : MigObj) : State :=
  match o with
  | .model gen img =>
    match modelImage img gen with
    | some m => (s.updP p fun t => { t with models := t.models.put (fld img 0 1) ⟨gen, some m⟩ }).objRecord p 0 (.model (fld img 0 1) ⟨gen, some m⟩)
    | none => s
  | .program slot img =>
    if imageOk img img.length && slot < 256 then
      (s.updP p fun t => { t with programs := t.programs.put slot (imageProgram img (t.handleOf p kProgram slot)) }).progRecord p slot
    else s
  | .tenant n img =>
    let r := writeTenant none img 0
    if n < 4096 then (s.updP p fun t => { t with tenants := t.tenants.put n r }).objRecord p 0 (.tenant n r) else s
  | .queue n priv prog => s.updQueue p n fun q => { q with priv := priv || n == 0, program := (prog.map fun i => mkHandle kProgram p.val 1 i).getD 0 }
  | .domain loc members cross equalTime etMax =>
    let f := s.fresh
    let id := (mkDomain p.val 0).toNat + loc % 1024
    let d : Domain := { key := Config.domainKey f.1, members := members, cross := cross, equalTime := equalTime, etMax := etMax, st := .active
                        reserved := none, excluded := none }
    ({ f.2 with domains := f.2.domains.put id d }).objRecord p 0 (.domain id (some d))
  | .control off v => s.updP p fun t => { t with regs := t.regs.put off v }
/-- IMPORT_MIGRATION_RECORD: the first row of Table 15-8 that holds. -/
def execImportMigrationRecord (r : MigRecord) (s : State) : Out :=
  .next (s.withPresence fun s =>
    if r.dstSerial ≠ deviceSerial then s.answer .accessViolation
    else if !r.sigsOk then s.answer .sealMismatch
    else if s.ident.nonces.contains r.nonce then s.answer .staleKey
    else if r.parts.any fun l => (s.prt l.num).isSome then s.answer .accessViolation
    else match (s.applyLayout ⟨[], r.parts, s.presence.sealAction⟩).filter State.layoutOk with
      | none => s.answer .accessViolation
      | some n =>
        let n := n.forEach r.objects fun s o => s.importObject o.1 o.2
        let n := { n with ident := { n.ident with nonces := n.ident.nonces ++ [r.nonce]
                                                  predecessors := n.ident.predecessors ++ r.carriers.map fun (c : Nat × Nat) => (r.srcSerial, c.1, c.2) } }
        ((n.settleFlash.layoutRecord).devEvent evMigrationImported 0 0 0).answer .ok)

end Sys2Proof.Machine
end

