-- ==== Sys2Proof/Machine/Control.lean ====
section
/-! DEFINITION. The register maps: which registers there are, what they read and what a write does, mailboxes and the sideband (spec 18). -/

namespace Sys2Proof.Machine

/-! ### Where registers lie (R400, R402)

A register is given as its offset, its bytes, and whether the high half of a 64-bit one is latched by a read of its low half. -/

/-- A register of 4 bytes. -/
def reg4 (off : Nat) : Option (Nat × Nat × Bool) := some (off, 4, false)
/-- A register of 8 bytes. -/
def reg8 (off : Nat) (ro : Bool) : Option (Nat × Nat × Bool) := some (off / 8 * 8, 8, ro)
/-- The register of the partition map that holds the dword at an offset (Tables 18-1 to 18-4). -/
def partReg (off : Nat) : Option (Nat × Nat × Bool) :=
  if off < 0x5C then
    if 0x10 ≤ off && off < 0x20 then reg8 off true
    else if (0x20 ≤ off && off < 0x28) || (0x40 ≤ off && off < 0x50) then reg8 off false
    else reg4 off
  else if (0x400 ≤ off && off < 0x418) || (0x440 ≤ off && off < 0x470) || (0x480 ≤ off && off < 0x4A0) then reg4 off
  else if 0x1000 ≤ off && off < 0x1200 then reg4 off
  else if 0x2000 ≤ off && off < 0x2800 then (if off % 32 < 0x10 then reg8 off (off ≥ 0x2020) else reg4 off)
  else if 0x3000 ≤ off && off < 0x4000 then reg8 off false
  else if 0x8000 ≤ off && off < 0xB000 then reg8 off true
  else if 0xC000 ≤ off && off < 0xC00C then reg4 off
  else if 0xD000 ≤ off && off < 0xE000 then reg4 off
  else if 0xE000 ≤ off && off < 0xE410 then reg4 off
  else if 0xF000 ≤ off && off < 0xF010 then reg8 off true
  else none
/-- The register of a port block that holds the dword at an offset in it (Table 18-10). -/
def portRegAt (base off : Nat) : Option (Nat × Nat × Bool) :=
  if off < 0x3C || (0x200 ≤ off && off < 0x240) || (0x400 ≤ off && off < 0x800) then reg4 (base + off)
  else if (0x800 ≤ off && off < 0x1000) || (0x1008 ≤ off && off < 0x1010) then reg8 (base + off) false
  else if off = 0x1000 || (0x1010 ≤ off && off < 0x101C) || off = 0x1300 then reg4 (base + off)
  else if 0x1100 ≤ off && off < 0x1150 then reg8 (base + off) true
  else if 0x1200 ≤ off && off < 0x1240 then reg8 (base + off) false
  else none
/-- The register of the device map that holds the dword at an offset (Tables 18-10 to 18-12); the serial counts as two of 64 bits. -/
def devRegAt (off : Nat) : Option (Nat × Nat × Bool) :=
  if off = 0 || (0x20 ≤ off && off < 0x30) || off = 0x38 then reg4 off
  else if (0x10 ≤ off && off < 0x20) || (0x40 ≤ off && off < 0x50) then reg8 off true
  else if 0x30 ≤ off && off < 0x38 then reg8 off false
  else if (0x1000 ≤ off && off < 0x100C) || (0x1050 ≤ off && off < 0x1058) then reg4 off
  else if 0x1010 ≤ off && off < 0x1050 then reg8 off false
  else if 0x1058 ≤ off && off < 0x1060 then reg8 off true
  else if 0x1100 ≤ off && off < 0x1130 then reg4 off
  else if 0x1130 ≤ off && off < 0x1138 then reg8 off true
  else if 0x2000 ≤ off && off < 0x2010 then reg4 off
  else if 0x3000 ≤ off && off < 0x3008 then reg8 off false
  else if (0x3008 ≤ off && off < 0x3014) || (0x8000 ≤ off && off < 0x800C) || (0x9000 ≤ off && off < 0xA000) then reg4 off
  else if 0x10000 ≤ off && off < 0x30000 then portRegAt (off / 0x2000 * 0x2000) (off % 0x2000)
  else none

/-! ### What registers read -/

/-- `pt_status` and the power state (Tables 18-2, 14-11). -/
def PwrSt.code : PwrSt → Nat
  | .off => 0 | .standby => 1 | .initialising => 2 | .serving => 3 | .dormant => 4 | .frozen => 5 | .halted => 6
def PartSt.code : PartSt → Nat
  | .configured => 1 | .active => 2 | .fenced => 3
/-- `pt_status` of a partition in a state, 0 for UNCONFIGURED. -/
def State.ptStatus (s : State) (st : Nat) : Nat :=
  st + 16 * s.power.st.code + 256 * b2n s.power.configReady + 512 * b2n s.power.serviceReady
/-- `mb_status` (Table 18-8): a snapshot is taken with the go, so that `busy` always reads 0. -/
def Mailbox.status (m : Mailbox) : Nat := m.code * 2 + m.valid * 65536
/-- A queue's registers (Table 18-3). -/
def Queue.readReg (q : Queue) (off : Nat) : Nat :=
  match off with
  | 0 => q.sqBase.toNat
  | 8 => q.cqBase.toNat
  | 0x10 => q.ctlWord
  | 0x14 => q.st.code
  | 0x18 => q.sqHead + 65536 * q.cqTail
  | _ => 0
/-- An event log's registers, by offset from `ev_base`. -/
def EvLog.readReg (l : EvLog) (off : Nat) : Nat :=
  match off with
  | 0 => l.base.toNat
  | 8 => l.ctl.toNat
  | 0x10 => l.tail
  | _ => 0
/-- A counter of a cluster (Table 2-7). -/
def State.cluStat (s : State) (c k : Nat) : Nat := ((s.clusters.find c).bind fun r => r.stats[k]?).getD 0
/-- What a register of a configured partition's map reads. -/
def State.partValue (s : State) (p : Part) (t : Partition) (base : Nat) : Nat :=
  if base = 0 then 0x100 + p.val
  else if base = 4 then s.ptStatus t.st.code
  else if base = 0xC then t.fenceCause
  else if base = 0x10 then t.clock % 2 ^ 64
  else if base = 0x18 then t.clusters.toNat
  else if base = 0x48 || base = 0x50 || base = 0x58 then t.ev.readReg (base - 0x48)
  else if base = 8 || base = 0x54 then 0
  else if base < 0x1000 then t.reg base
  else if base < 0x2000 then 0
  else if base < 0x3000 then ((t.queues.find ((base - 0x2000) / 32)).map fun q => q.readReg (base % 32)).getD 0
  else if base < 0x4000 then
    let e := t.t1h.getD ((base - 0x3000) / 16) (0, 0)
    (if base % 16 = 0 then e.1 else e.2).toNat
  else if base < 0xA000 then (if counterExists ((base - 0x8000) / 8) then t.counters.getD ((base - 0x8000) / 8) 0 else 0)
  else if base < 0xB000 then (if hasClu t.clusters ((base - 0xA000) / 64) then s.cluStat ((base - 0xA000) / 64) (base % 64 / 8) else 0)
  else if base = 0xC000 then t.mailbox.sel.toNat
  else if base = 0xC008 then t.mailbox.status
  else if 0xD000 ≤ base && base < 0xE000 then fld t.mailbox.window (base - 0xD000) 4
  else if 0xE000 ≤ base && base < 0xF000 then ((t.regs.find base).getD (if base % 16 = 12 then 1 else 0)).toNat
  else 0
/-- `pres_status`: the time left is shown by the device and by no rule, so it is open (log entry 44). -/
def State.presStatus (s : State) : Nat :=
  let w := s.presence
  b2n w.window + 2 * b2n w.intact + 4 * b2n w.broken + 8 * b2n w.sealAction + (if w.window then Config.shown s.free % 2 ^ 24 else 0) * 256
/-- The clusters in a state, one bit each. -/
def State.cluMap (s : State) (st : CluSt) : Nat := ((s.clusters.filter fun kv => kv.2.st == st).map fun kv => 2 ^ kv.1).sum
/-- What a register of a port block reads. -/
def State.portValue (s : State) (n off base : Nat) : Nat :=
  let q := s.prtNo n
  if off = 0x1014 then 0
  else if off = 0x1018 then b2n q.staged.isSome
  else if 0x1100 ≤ off && off < 0x1200 then q.stats.getD ((off - 0x1100) / 8) 0
  else if 0x1200 ≤ off && off < 0x1300 then
    let m := q.latMax.getD ((off - 0x1200) / 8) (0, 0)
    m.1 * 2 ^ 32 + m.2
  else if off = 0x1300 then b2n q.up + 2 * b2n q.locked + 4 * b2n q.holdover + 8 * b2n s.power.spread
  else s.devReg base
/-- What a register of the device map reads. -/
def State.devValue (s : State) (base : Nat) : Nat :=
  let w := s.power
  if base = 0 then 0x72400001
  else if base = 0x10 then deviceSerial.toNat % 2 ^ 64
  else if base = 0x18 then deviceSerial.toNat / 2 ^ 64
  else if base = 0x20 || base = 0x24 || base = 0x1050 || base = 0x300C || base = 0x8004 then 0
  else if base = 0x38 then s.presStatus
  else if base = 0x40 then s.cluMap .quarantined
  else if base = 0x48 then s.cluMap .retired
  else if base = 0x1000 then w.st.code
  else if base = 0x1054 then w.wakeCause
  else if base = 0x1058 then w.throttleMs
  else if base = 0x1100 then w.tDie.toNat
  else if 0x1104 ≤ base && base < 0x1124 then (w.tStack.getD ((base - 0x1104) / 4) 0).toNat
  else if base = 0x1124 then w.busMv
  else if base = 0x1128 then w.p1ms
  else if base = 0x112C then w.p1s
  else if base = 0x1130 then w.energy / 10 % 2 ^ 64
  else if 0x2000 ≤ base && base < 0x2010 then s.auxRead ((base - 0x2000) / 4)
  else if 0x3000 ≤ base && base < 0x3014 then s.devLog.readReg (base - 0x3000)
  else if base = 0x8000 then s.control.mailbox.sel.toNat
  else if base = 0x8008 then s.control.mailbox.status
  else if 0x9000 ≤ base && base < 0xA000 then fld s.control.mailbox.window (base - 0x9000) 4
  else if 0x10000 ≤ base then s.portValue ((base - 0x10000) / 0x2000) (base % 0x2000) base
  else s.devReg base

/-! ### What a write of a register without behaviour of its own accepts -/

/-- The bits of a RW register of the partition map and the range of its value (Tables 18-2, 8-2, 9-5, 12-13, 17-2). -/
def partRule (base : Nat) : Option (Nat × (Nat → Bool)) :=
  let any_ := fun (_ : Nat) => true
  let nz := fun (v : Nat) => v != 0
  match base with
  | 0x020 => some (64, fun v => 65536 ≤ v && v ≤ 2 ^ 32)
  | 0x028 => some (8, any_) | 0x02C => some (8, any_) | 0x030 => some (5, fun v => 8 ≤ v && v ≤ 16) | 0x034 => some (1, any_)
  | 0x038 => some (32, fun v => 1000 ≤ v && v ≤ 60000000) | 0x040 => some (64, any_)
  | 0x400 => some (3, fun v => v ≤ 4) | 0x404 => some (16, any_) | 0x408 => some (5, fun v => 1 ≤ v && v ≤ 16)
  | 0x40C => some (14, fun v => 64 ≤ v && v ≤ 8192 && v % 64 == 0) | 0x410 => some (16, any_)
  | 0x414 => some (4, fun v => 1 ≤ v && v ≤ 8)
  | 0x440 => some (2, fun v => v ≤ 2) | 0x444 => some (16, nz) | 0x448 => some (16, nz) | 0x44C => some (16, nz)
  | 0x450 => some (16, any_) | 0x454 => some (16, any_) | 0x458 => some (16, any_) | 0x45C => some (32, nz) | 0x460 => some (32, nz)
  | 0x464 => some (32, any_) | 0x468 => some (32, any_) | 0x46C => some (32, any_)
  | 0x480 => some (32, any_) | 0x484 => some (32, any_) | 0x488 => some (32, any_) | 0x48C => some (8, any_) | 0x490 => some (8, any_)
  | 0x494 => some (16, any_) | 0x498 => some (4, fun v => 1 ≤ v && v ≤ 15) | 0x49C => some (16, any_)
  | _ =>
    if 0xE000 ≤ base && base < 0xE410 then some (32, any_) else none
/-- The bits of a RW register of a port block and the range of its value (Tables 12-2, 12-14, 12-15). -/
def portRule (off : Nat) : Option (Nat × (Nat → Bool)) :=
  let any_ := fun (_ : Nat) => true
  let burst := fun (v : Nat) => 2048 ≤ v && v ≤ 16777216
  if off = 0 || off = 4 || off = 8 || off = 0x14 then some (1, any_)
  else if off = 0xC then some (16, any_)
  else if off = 0x10 then some (8, any_)
  else if off = 0x18 then some (5, fun v => v ≤ 16)
  else if 0x1C ≤ off && off < 0x3C then some (16, any_)
  else if (0x200 ≤ off && off < 0x220) || (0x400 ≤ off && off < 0x600) then some (32, any_)
  else if (0x220 ≤ off && off < 0x240) || (0x600 ≤ off && off < 0x800) then some (32, burst)
  else if 0x800 ≤ off && off < 0x1000 then some (40, fun v => 100 ≤ v % 2 ^ 32)
  else if off = 0x1000 then some (9, fun v => 1 ≤ v && v ≤ 256)
  else if off = 0x1008 then some (64, any_)
  else if off = 0x1010 then some (32, fun v => 1000 ≤ v && v ≤ 1000000000)
  else none
/-- The bits of a RW register of the device map and the range of its value (Tables 18-11, 14-11). -/
def devRule (base : Nat) : Option (Nat × (Nat → Bool)) :=
  if base = 0x28 then some (1, fun _ => true)
  else if base = 0x2C then some (16, fun _ => true)
  else if base = 0x30 then some (64, fun v => 2 ^ 30 ≤ v && v ≤ 2 ^ 40)
  else if base = 0x1004 then some (11, fun v => 300 ≤ v && v ≤ 950)
  else if base = 0x1008 then some (7, fun v => 85 ≤ v && v ≤ 105)
  else if 0x1010 ≤ base && base < 0x1050 then some (48, fun _ => true)
  else if 0x10000 ≤ base then portRule (base % 0x2000)
  else none
/-- The value that a rule lets a register take: one that its field can hold and that is in range (R400; 09 R206). -/
def ruled (r : Option (Nat × (Nat → Bool))) (v : Nat) : Option Word :=
  r.bind fun e => if v < 2 ^ e.1 && e.2 v then some (BitVec.ofNat 64 v) else none

/-! ### Mailboxes (R410) -/

/-- The recovery report (13 Table 13-11). -/
def Report.bytes (r : Report) : List Byte :=
  toLe r.kind 8 ++ toLe r.jseq 8 ++ toLe r.entries.length 4 ++ List.replicate 12 0
    ++ (r.entries.map fun e => toLe e.1.toNat 8 ++ toLe e.2.1 4 ++ toLe e.2.2 4).flatten
/-- An object of a mailbox (Table 18-9), or the code that refuses it. A number that is no slot is unknown. -/
def State.mailObject (s : State) (map : RegMap) (obj inst : Nat) : Nat ⊕ List Byte :=
  match obj, map with
  | 1, _ => .inr s.healthSummary
  | 2, _ => if inst < 8 then .inr (s.flash.carrierRecord inst) else .inl 1
  | 3, .part p => .inr (s.getP p [] fun t => t.report.bytes)
  | 4, .part p => .inr (padTo ((s.getP p [] fun t => t.trace.map fun e =>
      toLe e.1.toNat 8 ++ toLe e.2.1.toNat 4 ++ toLe e.2.2 4).flatten) 4096)
  | 5, .dev => .inr (padTo ((s.prtNo inst).samples.flatten) 65536)
  | 3, .dev | 4, .dev | 5, .part _ => .inl 2
  | _, _ => .inl 1
/-- A go: page 0 takes a snapshot of the object, a later page is served from the snapshot. -/
def Mailbox.go (m : Mailbox) (obj : Nat → Nat → Nat ⊕ List Byte) : Mailbox :=
  let page := bitsOf m.sel.toNat 31 16
  match obj (bitsOf m.sel.toNat 7 0) (bitsOf m.sel.toNat 11 8) with
  | .inl c => { m with code := c, valid := 0, window := [] }
  | .inr bs =>
    let snap := if page = 0 then bs else m.snapshot
    let w := (snap.drop (4096 * page)).take 4096
    if page ≠ 0 && w.isEmpty then { m with code := 3, valid := 0, window := [] }
    else { m with code := 0, valid := w.length, snapshot := snap, window := padTo w 4096 }
/-- A go of a map's mailbox. -/
def State.mailGo (s : State) (map : RegMap) : State :=
  match map with
  | .part p => s.updP p fun t => { t with mailbox := t.mailbox.go (s.mailObject map) }
  | .dev => { s with control := { s.control with mailbox := s.control.mailbox.go (s.mailObject map) } }
/-- `mb_sel` as it is kept. -/
def mailSel (v : Nat) : BitVec 32 := BitVec.ofNat 32 v &&& 0xFFFF0FFF
/-- Does a partition's map answer beyond its first registers (R403)? -/
def State.mapOpen (s : State) (p : Part) : Bool := s.getP p false fun t => t.st != .fenced
/-- MAILBOX_GO. -/
def execMailboxGo (map : RegMap) (s : State) : Out :=
  .next (match map with
    | .part p =>
      let s := s.wakeDevice (hostWake p)
      if s.mapOpen p then s.mailGo map else s
    | .dev => (s.wakeDevice 0x30).mailGo map)

/-! ### Writes -/

/-- A write to queue 0's registers: it configures the queue once the partition is ACTIVE (R404, 03 R46). -/
def State.queue0Write (s : State) (p : Part) (off v : Nat) : State :=
  let s1 := s.updP p fun t => if t.st ≠ .active then t else
    { t with queues := t.queues.upd 0 fun q =>
        if off = 0 then q.setBase false (BitVec.ofNat 64 v) else if off = 8 then q.setBase true (BitVec.ofNat 64 v)
        else if off = 0x10 then q.setCtl v else q }
  s1.lostPosts p 0
/-- Write a whole register of a partition's map. -/
def State.partStore (s : State) (p : Part) (base v : Nat) : State :=
  let w := BitVec.ofNat 32 v
  if base = 8 then (if bitOf v 0 then s.fencePart 1 p else s)
  else if base = 0x3C then s.dormantOk p w
  else if base = 0x48 then (if v % 4096 = 0 then s.updP p fun t => { t with ev := { t.ev with base := BitVec.ofNat 64 v } } else s)
  else if base = 0x50 then s.updLog (Fin.ofNat 17 p.val) fun l => l.setCtl w
  else if base = 0x54 then s.updLog (Fin.ofNat 17 p.val) fun l => l.setHead w
  else if 0x1000 ≤ base && base < 0x2000 then s.ringDoorbell p ((base - 0x1000) / 8) (base % 8 == 4) w
  else if 0x2000 ≤ base && base < 0x2020 then s.queue0Write p (base - 0x2000) v
  else if 0x3000 ≤ base && base < 0x4000 then
    s.updP p fun t => t.t1hWrite ((base - 0x3000) / 16) (base % 16 == 8) (BitVec.ofNat 64 v)
  else if base = 0xC000 then s.updP p fun t => { t with mailbox := { t.mailbox with sel := mailSel v } }
  else if base = 0xC004 then (if bitOf v 0 then s.mailGo (.part p) else s)
  -- of a vector's control word only the mask bit is kept (DESIGN CHOICE, log entry 170)
  else match ruled (partRule base) (if 0xE000 ≤ base && base % 16 = 12 then v % 2 else v) with
    | some x => s.updP p fun t => { t with regs := t.regs.put base x }
    | none => s
/-- A write to a port's mode: the port and the other one of its pair retrain (R265). -/
def State.setMode (s : State) (n v : Nat) : State :=
  let s := { s with control := { s.control with regs := s.control.regs.put (portBase n + 4) (BitVec.ofNat 64 (v % 2)) } }
  let both := fun (m : Nat) => if n % 2 = 0 then m / 2 == n / 2 else m == n
  { s with ports := s.ports.mapV fun m q => if both m then q.down else q }
/-- Writing ones clears bits of a latency maximum. -/
def clearMax (m : Nat × Nat) (v : Nat) : Nat × Nat :=
  ((BitVec.ofNat 32 m.1 &&& ~~~(BitVec.ofNat 32 (v / 2 ^ 32))).toNat, (BitVec.ofNat 32 m.2 &&& ~~~(BitVec.ofNat 32 v)).toNat)
/-- Write a whole register of the device map. -/
def State.devStore (s : State) (base v : Nat) : State :=
  let w := BitVec.ofNat 32 v
  let n := (base - 0x10000) / 0x2000
  if base = 0x20 then
    let s := if bitOf v 2 then s.closeWindow else s
    if bitOf v 1 then s.coldReset else if bitOf v 0 then s.warmReset else s
  else if base = 0x24 then s.forEach ((List.finRange 16).filter fun p => bitOf v p.val) fun s p => s.unfencePart p
  else if base = 0x1050 then (if bitOf v 0 then s.dormantGo else s)
  else if 0x2000 ≤ base && base < 0x2010 then s.auxWrite ((base - 0x2000) / 4) v
  else if base = 0x3000 then (if v % 4096 = 0 then { s with devLog := { s.devLog with base := BitVec.ofNat 64 v } } else s)
  else if base = 0x3008 then s.updLog 16 fun l => l.setCtl w
  else if base = 0x300C then s.updLog 16 fun l => l.setHead w
  else if base = 0x8000 then { s with control := { s.control with mailbox := { s.control.mailbox with sel := mailSel v } } }
  else if base = 0x8004 then (if bitOf v 0 then s.mailGo .dev else s)
  else if 0x10000 ≤ base && !(s.portExists n) then s
  else if 0x10000 ≤ base && base % 0x2000 = 4 then s.setMode n v
  else if 0x10000 ≤ base && base % 0x2000 = 0x1014 then (if bitOf v 0 then s.gclGo n (s.prtNo n).time else s)
  else if 0x10000 ≤ base && 0x1200 ≤ base % 0x2000 && base % 0x2000 < 0x1240 then
    s.updPort n fun q => { q with latMax := listSet q.latMax ((base % 0x2000 - 0x1200) / 8) fun m => clearMax m v }
  else match ruled (devRule base) v with
    | some x => { s with control := { s.control with regs := s.control.regs.put base x } }
    | none => s

/-! ### Accesses (R400) -/

/-- The register of a map that holds a dword. -/
def regAt (map : RegMap) (off : Nat) : Option (Nat × Nat × Bool) :=
  match map with
  | .part _ => partReg off
  | .dev => devRegAt off
/-- What a register of a map reads. An UNCONFIGURED partition's map shows `pt_id` and `pt_status`, and a FENCED one's its first 16 bytes;
the block of a port that its mode leaves out reads zero. -/
def State.regValue (s : State) (map : RegMap) (base : Nat) : Nat :=
  match map with
  | .dev => if 0x10000 ≤ base && !(s.portExists ((base - 0x10000) / 0x2000)) then 0 else s.devValue base
  | .part p =>
    match s.prt p with
    | none => if base = 0 then 0x100 + p.val else if base = 4 then s.ptStatus 0 else 0
    | some t => if t.st = .fenced && 0x10 ≤ base then 0 else s.partValue p t base
/-- The latched high halves of a map. -/
def State.latch (s : State) (map : RegMap) : Tab Nat :=
  match map with
  | .part p => s.getP p [] fun t => t.latch
  | .dev => s.control.latch
def State.setLatch (s : State) (map : RegMap) (f : Tab Nat → Tab Nat) : State :=
  match map with
  | .part p => s.updP p fun t => { t with latch := f t.latch }
  | .dev => { s with control := { s.control with latch := f s.control.latch } }
/-- Read a dword: the low half of a 64-bit RO register latches its high half, which the next read of that half returns. -/
def State.read4 (s : State) (map : RegMap) (off : Nat) : State × Nat :=
  match regAt map off with
  | none => (s, 0)
  | some (base, n, ro) =>
    let v := s.regValue map base
    if n = 4 then (s, v % 2 ^ 32)
    else if off = base then (if ro then s.setLatch map fun l => l.put base (v / 2 ^ 32) else s, v % 2 ^ 32)
    else match if ro then (s.latch map).find base else none with
      | some h => (s.setLatch map fun l => l.del base, h)
      | none => (s, v / 2 ^ 32)
/-- Is an access of 4 or 8 bytes and naturally aligned? -/
def accessOk (off size : Nat) : Bool := (size == 4 || size == 8) && off % size == 0
/-- Read a register: 8 bytes over two 32-bit registers are two reads. -/
def State.readReg (s : State) (map : RegMap) (off size : Nat) : State × Nat :=
  if !(accessOk off size) then (s, 0)
  else if size = 4 then s.read4 map off
  else match regAt map off with
    | some (base, 8, _) => (s, s.regValue map base)
    | _ =>
      let a := s.read4 map off
      let b := a.1.read4 map (off + 4)
      (b.1, a.2 + b.2 * 2 ^ 32)
/-- Write a whole register of a map. A FENCED partition's map ignores writes beyond its first 16 bytes, the T1H range table's apart (DEDUCED,
log entry 66). -/
def State.storeReg (s : State) (map : RegMap) (base v : Nat) : State :=
  match map with
  | .dev => s.devStore base v
  | .part p =>
    match s.prt p with
    | none => s
    | some t => if t.st = .fenced && 0x10 ≤ base && !(0x3000 ≤ base && base < 0x4000) then s else s.partStore p base v
/-- Does writing ones clear a register's bits? -/
def isW1c (map : RegMap) (base : Nat) : Bool :=
  map == .dev && decide (0x10000 ≤ base) && decide (0x1200 ≤ base % 0x2000) && decide (base % 0x2000 < 0x1240)
/-- Write a dword; the other half of a 64-bit register stays as it is. -/
def State.write4 (s : State) (map : RegMap) (off v : Nat) : State :=
  match regAt map off with
  | none => s
  | some (base, n, _) =>
    let old := if isW1c map base then 0 else s.regValue map base
    if n = 4 then s.storeReg map base (v % 2 ^ 32)
    else if off = base then s.storeReg map base (old / 2 ^ 32 * 2 ^ 32 + v % 2 ^ 32)
    else s.storeReg map base (v % 2 ^ 32 * 2 ^ 32 + old % 2 ^ 32)
/-- Write a register: 8 bytes over two 32-bit registers are two writes. -/
def State.writeReg (s : State) (map : RegMap) (off size v : Nat) : State :=
  if !(accessOk off size) then s
  else if size = 4 then s.write4 map off v
  else match regAt map off with
    | some (base, 8, _) => s.storeReg map base v
    | _ => (s.write4 map off v).write4 map (off + 4) (v / 2 ^ 32)
/-- Do the BARs answer in the device's state? -/
def State.barUp (s : State) : Bool := s.power.st == .initialising || s.power.st == .serving || s.power.st == .dormant
/-- What a BAR write of a map wakes with. -/
def mapWake (map : RegMap) : Nat :=
  match map with
  | .part p => hostWake p
  | .dev => 0x30
/-- REGISTER_WRITE: a BAR write, which wakes a DORMANT device (14 R332); a write that R400 excludes is ignored. -/
def execRegisterWrite (map : RegMap) (off size : Nat) (val : Word) (s : State) : Out :=
  .next (if s.barUp then (s.wakeDevice (mapWake map)).writeReg map off size val.toNat else s)
/-- Does a read reach the counters of a cluster that the partition does not own (02 R40)? -/
def State.foreignCluster (s : State) (map : RegMap) (off size : Nat) : Option (Part × Nat) :=
  match map with
  | .dev => none
  | .part p =>
    let c := (off - 0xA000) / 64
    if accessOk off size && 0xA000 ≤ off && off < 0xB000 && s.mapOpen p && s.getP p false (fun t => !(hasClu t.clusters c)) then some (p, c) else none
/-- REGISTER_READ: a BAR read is no wake source. A read of the counters of a cluster that is not the partition's reads zero and is
logged. -/
def execRegisterRead (map : RegMap) (off size : Nat) (s : State) : Out :=
  .next (if !s.barUp then s.mbox .noResponse
    else
      let r := s.readReg map off size
      let s := match s.foreignCluster map off size with
        | some (p, c) => r.1.statusEvent p .accessViolation 0 (BitVec.ofNat 64 c)
        | none => r.1
      s.answer .ok (BitVec.ofNat 64 r.2))
/-- PORT_MODE_WRITE: by the management interface; the port retrains. -/
def execPortModeWrite (port : PortNo) (val : BitVec 32) (s : State) : Out :=
  .next ((s.wakeDevice 0x30).devStore (portBase port.val + 4) val.toNat)

/-! ### The sideband (R412, R413) -/

/-- A transaction on the sideband: the target does not acknowledge its address until the device initialises (Table 14-13), and host-pushed
recovery does not serve it (15 R352). -/
def State.sidebandUp (s : State) : Bool := s.barUp && !s.ident.waiting
/-- Read dwords one after the other. -/
def State.readDwords (s : State) (off : Nat) : Nat → State × List Byte
  | 0 => (s, [])
  | n + 1 =>
    let a := s.read4 .dev off
    let b := a.1.readDwords (off + 4) n
    (b.1, toLe a.2 4 ++ b.2)
/-- Write dwords one after the other: the two halves of a 64-bit register that stand together are one write. -/
def State.writeDwords (s : State) (off : Nat) : List (BitVec 32) → State
  | [] => s
  | [a] => s.write4 .dev off a.toNat
  | a :: b :: ds =>
    match devRegAt off with
    | some (base, 8, _) =>
      if base = off then State.writeDwords (s.writeReg .dev off 8 (a.toNat + 2 ^ 32 * b.toNat)) (off + 8) ds
      else State.writeDwords (s.write4 .dev off a.toNat) (off + 4) (b :: ds)
    | _ => State.writeDwords (s.write4 .dev off a.toNat) (off + 4) (b :: ds)
/-- Is a sideband access over defined registers, a dword at a time, of 1 to 16 dwords? Only an offset that is no multiple of 4 lets a
dword cross a register (DEDUCED, log entry 169). -/
def dwordsOk (off n : Nat) : Bool :=
  off % 4 == 0 && decide (1 ≤ n) && decide (n ≤ 16) && (List.range n).all fun i => (devRegAt (off + 4 * i)).isSome
/-- REG_READ: 1 to 16 dwords of the device map. -/
def execRegRead (off count : Nat) (s : State) : Out :=
  .next (if !s.sidebandUp then s.mbox .noResponse
    else
      let s := s.wakeDevice 0x30
      if !(dwordsOk off count) then s.answer .accessViolation
      else
        let r := s.readDwords off count
        r.1.answer .ok 0 r.2)
/-- REG_WRITE: 1 to 16 dwords of the device map. -/
def execRegWrite (off : Nat) (data : List (BitVec 32)) (s : State) : Out :=
  .next (if !s.sidebandUp then s.mbox .noResponse
    else
      let s := s.wakeDevice 0x30
      if !(dwordsOk off data.length) then s.answer .accessViolation else (s.answer .ok).writeDwords off data)
/-- MCTP_SET_ENDPOINT_ID: the bus owner sets the endpoint's EID. -/
def execMctpSetEndpointId (eid : Byte) (s : State) : Out :=
  .next (if !s.sidebandUp then s.mbox .noResponse
    else ({ s.wakeDevice 0x30 with sideband := { s.sideband with eid := eid } }).answer .ok)
/-- I3C_ADDRESS_ASSIGN: the static address 0x4C through SETDASA, or a dynamic address through ENTDAA. -/
def execI3cAddressAssign (dynamic : Option (BitVec 7)) (s : State) : Out :=
  .next (if !s.sidebandUp then s.mbox .noResponse
    else ({ s with sideband := { s.sideband with staticAddr := dynamic.isNone, dynAddr := dynamic } }).answer .ok)

end Sys2Proof.Machine
end

