-- ==== Sys2Proof/Machine/Flow.lean ====
section
/-! DEFINITION. The branch group 0x2 and the local memory group 0x3 (16 R371 to R373, Tables 16-5, 16-7, 16-8). -/

namespace Sys2Proof.Machine

/-- A branch target: the address of the branch plus 8 × sext(off) (R371). -/
def target (c : Ctx) (off : BitVec 40) : Int := (c.pc : Int) + 8 * off.toInt
/-- A branch taken when a test of the registers holds. -/
def State.branch (s : State) (x : StepRef) (d : Deps) (off : BitVec 40) (taken : Ctx → Bool) : State :=
  s.issue x { d with ahead := true } false fun i =>
    (i.s, if taken i.c then .jump i.c (target i.c off) else .done i.c)

/-- BR: pc := target. -/
def execBr (x : StepRef) (off : BitVec 40) (s : State) : Out := .next (s.branch x {} off fun _ => true)
/-- BRT: if fc, pc := target. -/
def execBrt (x : StepRef) (c : FReg) (off : BitVec 40) (s : State) : Out := .next (s.branch x { rf := [c] } off (·.rf c))
/-- BRF: if not fc, pc := target. -/
def execBrf (x : StepRef) (c : FReg) (off : BitVec 40) (s : State) : Out := .next (s.branch x { rf := [c] } off fun r => !r.rf c)
/-- BRZ: if gc = 0, pc := target. -/
def execBrz (x : StepRef) (c : GReg) (off : BitVec 40) (s : State) : Out := .next (s.branch x { rg := [c] } off (·.rg c == 0))
/-- BRNZ: if gc ≠ 0, pc := target. -/
def execBrnz (x : StepRef) (c : GReg) (off : BitVec 40) (s : State) : Out := .next (s.branch x { rg := [c] } off (·.rg c != 0))
/-- CALL: gc := pc + 8; pc := target. -/
def execCall (x : StepRef) (c : GReg) (off : BitVec 40) (s : State) : Out :=
  .next (s.issue x { wg := [c], ahead := true } false fun i =>
    (i.s, .jump (i.c.wg c (BitVec.ofNat 64 (i.c.pc + 8))) (target i.c off)))
/-- JR: t := ga; gd := pc + 8; pc := t. -/
def execJr (x : StepRef) (d a : GReg) (s : State) : Out :=
  .next (s.issue x { rg := [a], wg := [d], ahead := true } false fun i =>
    (i.s, .jump (i.c.wg d (BitVec.ofNat 64 (i.c.pc + 8))) (i.c.rg a).toNat))

/-- A load of `n` bytes, zero-extended; an access that Table 16-7 does not allow squashes the step. -/
def State.load (s : State) (x : StepRef) (d a : GReg) (imm : BitVec 32) (n : Nat) : State :=
  s.issue x { rg := [a], wg := [d], ahead := true } false fun i =>
    let ad := i.c.addr a imm
    if localOk i.prog.data ad n n then (i.s, .done (i.c.wg d (BitVec.ofNat 64 (leNat (i.k.peek i.prog.data ad n)))))
    else (i.s, .fault .accessViolation false)
/-- A store of the low `n` bytes of gd; a store ends run-ahead without executing (R373). -/
def State.store (s : State) (x : StepRef) (d a : GReg) (imm : BitVec 32) (n : Nat) : State :=
  s.issue x { rg := [d, a] } false fun i =>
    let ad := i.c.addr a imm
    if localWrOk ad n n then (i.s.updStep x fun k => k.poke ad (toLe (i.c.rg d).toNat n), .done i.c)
    else (i.s, .fault .accessViolation false)

/-- LD: gd := zext(8 bytes at ga + imm). -/
def execLd (x : StepRef) (d a : GReg) (imm : BitVec 32) (s : State) : Out := .next (s.load x d a imm 8)
/-- LDW: gd := zext(4 bytes at ga + imm). -/
def execLdw (x : StepRef) (d a : GReg) (imm : BitVec 32) (s : State) : Out := .next (s.load x d a imm 4)
/-- LDH: gd := zext(2 bytes at ga + imm). -/
def execLdh (x : StepRef) (d a : GReg) (imm : BitVec 32) (s : State) : Out := .next (s.load x d a imm 2)
/-- LDB: gd := zext(1 bytes at ga + imm). -/
def execLdb (x : StepRef) (d a : GReg) (imm : BitVec 32) (s : State) : Out := .next (s.load x d a imm 1)
/-- ST: 8 bytes at ga + imm := gd. -/
def execSt (x : StepRef) (d a : GReg) (imm : BitVec 32) (s : State) : Out := .next (s.store x d a imm 8)
/-- STW: 4 bytes at ga + imm := gd. -/
def execStw (x : StepRef) (d a : GReg) (imm : BitVec 32) (s : State) : Out := .next (s.store x d a imm 4)
/-- STH: 2 bytes at ga + imm := gd. -/
def execSth (x : StepRef) (d a : GReg) (imm : BitVec 32) (s : State) : Out := .next (s.store x d a imm 2)
/-- STB: 1 bytes at ga + imm := gd. -/
def execStb (x : StepRef) (d a : GReg) (imm : BitVec 32) (s : State) : Out := .next (s.store x d a imm 1)
/-- LDF: gd := frame word imm; `imm` not below `frame_words` is an undefined format (R372). -/
def execLdf (x : StepRef) (d : GReg) (imm : BitVec 32) (s : State) : Out :=
  .next (s.issue x { wg := [d], ahead := true } false fun i =>
    if imm.toNat < i.prog.frameWords then (i.s, .done (i.c.wg d (i.k.words.getD imm.toNat 0)))
    else (i.s, .fault .accessViolation true))
/-- STF: frame word imm := gd. -/
def execStf (x : StepRef) (d : GReg) (imm : BitVec 32) (s : State) : Out :=
  .next (s.issue x { rg := [d] } false fun i =>
    if imm.toNat < i.prog.frameWords then
      (i.s.updStep x fun k => { k with words := setAt 16 0 k.words imm.toNat (i.c.rg d) }, .done i.c)
    else (i.s, .fault .accessViolation true))

end Sys2Proof.Machine
end

