-- ==== Sys2Proof/Machine/Handles.lean ====
section
/-! DEFINITION. The handle group 0x4 (16 R374, Tables 16-9, 16-10). -/

namespace Sys2Proof.Machine

/-- The handle in a field of an object's record (Table 16-10), through the step's update log; none for a selector that
the table lacks. -/
def Iss.hField (i : Iss) (h : Handle) (sel : Nat) : Option Handle :=
  let idx := hIndex h
  if sel = 0 then some h
  else if hKind h = kSession then
    let ss := (i.k.log.foldl (fun a o => match o with
      | .sessCreate n r => if n = idx then some r else a
      | _ => a) (i.t.sessions.find idx))
    let made := i.k.log.filterMap fun o => match o with
      | .seqCreate _ r => if r.sess = h then some r.h else none
      | _ => none
    if 1 ≤ sel ∧ sel ≤ 4 then some ((made.foldl placeSeq ((ss.map (·.seqs)).getD [])).getD (sel - 1) 0)
    else if sel = 5 then some ((ss.map (·.history)).getD 0)
    else if sel = 6 then some ((ss.map (·.sampler)).getD 0)
    else if sel = 7 then some ((ss.map (·.scratch)).getD 0)
    else none
  else if hKind h = kSequence ∧ sel = 1 then
    some ((i.k.log.foldl (fun a o => match o with
      | .seqCreate n r => if n = idx then r.sess else a
      | _ => a) (((i.t.sequences.find idx).map (·.sess)).getD 0)))
  else if hKind h = kNode ∧ sel = 1 then some (((i.t.nodes.find idx).map (·.parent)).getD 0)
  else if hKind h = kNode ∧ sel = 2 then some (((i.t.nodes.find idx).map (·.group)).getD 0)
  else if hKind h = kQueue ∧ sel = 1 then some (((i.t.queues.find idx).map (·.program)).getD 0)
  else none

/-- HLOADS: hd := the handle in field `sel` of the record of hs; it passes R12, and a null field gives null. -/
def execHloads (x : StepRef) (r : Bool) (d h : HReg) (imm : BitVec 32) (s : State) : Out :=
  .next (s.issue x { rh := [h], wh := [d] } r fun i =>
    i.with 0 (i.c.rh h) (i.c.wh d 0) fun _ =>
      match i.hField (i.c.rh h) imm.toNat with
      | none => i.bad .accessViolation (i.c.wh d 0)
      | some v =>
        if v = 0 then (i.s, .done (i.c.wh d 0))
        else i.with 0 v (i.c.wh d 0) fun _ => (i.s, .done (i.c.wh d v)))
/-- HLD: hd := 8 bytes of local memory, which pass R12 with any defined kind. -/
def execHld (x : StepRef) (r : Bool) (d : HReg) (a : GReg) (imm : BitVec 32) (s : State) : Out :=
  .next (s.issue x { rg := [a], wh := [d] } r fun i =>
    let ad := i.c.addr a imm
    if !(localOk i.prog.data ad 8 8) then (i.s, .fault .accessViolation false)
    else
      let v := BitVec.ofNat 64 (leNat (i.k.peek i.prog.data ad 8))
      i.with 0 v (i.c.wh d 0) fun _ => (i.s, .done (i.c.wh d v)))
/-- HST: 8 bytes of scratch := hs. -/
def execHst (x : StepRef) (r : Bool) (d : HReg) (a : GReg) (imm : BitVec 32) (s : State) : Out :=
  .next (s.issue x { rg := [a], rh := [d] } r fun i =>
    let ad := i.c.addr a imm
    if localWrOk ad 8 8 then (i.s.updStep x fun k => k.poke ad (toLe (i.c.rh d).toNat 8), .done i.c)
    else (i.s, .fault .accessViolation false))
/-- HMOV: hd := hs. -/
def execHmov (x : StepRef) (r : Bool) (d h : HReg) (s : State) : Out :=
  .next (s.issue x { rh := [h], wh := [d] } r fun i => (i.s, .done (i.c.wh d (i.c.rh h))))
/-- HGET: gd := the 64 bits of hs. -/
def execHget (x : StepRef) (r : Bool) (d : GReg) (h : HReg) (s : State) : Out :=
  .next (s.issue x { rh := [h], wg := [d] } r fun i => (i.s, .done (i.c.wg d (i.c.rh h))))
/-- HMAKE: hd := kind ‖ running partition ‖ ga[55:0], checked by R12. -/
def execHmake (x : StepRef) (r : Bool) (d : HReg) (a : GReg) (imm : BitVec 32) (s : State) : Out :=
  .next (s.issue x { rg := [a], wh := [d] } r fun i =>
    if !(immKindOk imm) then (i.s, .fault .accessViolation true)
    else
      let v : Handle := BitVec.ofNat 4 imm.toNat ++ BitVec.ofNat 4 x.part.val ++ (i.c.rg a).extractLsb' 0 56
      i.with 0 v (i.c.wh d 0) fun _ => (i.s, .done (i.c.wh d v)))
/-- HCHK: fd := hs passes R12 for `kind`; it never traps. -/
def execHchk (x : StepRef) (r : Bool) (d : FReg) (h : HReg) (imm : BitVec 32) (s : State) : Out :=
  .next (s.issue x { rh := [h], wf := [d] } r fun i =>
    if immKindOk imm then (i.s, .done (i.c.wf d (i.check imm.toNat (i.c.rh h)).isNone))
    else (i.s, .fault .accessViolation true))
/-- HNULL: hd := null. -/
def execHnull (x : StepRef) (r : Bool) (d : HReg) (s : State) : Out :=
  .next (s.issue x { wh := [d] } r fun i => (i.s, .done (i.c.wh d 0)))
/-- HEQ: fd := all 64 bits equal. -/
def execHeq (x : StepRef) (r : Bool) (d : FReg) (a b : HReg) (s : State) : Out :=
  .next (s.issue x { rh := [a, b], wf := [d] } r fun i => (i.s, .done (i.c.wf d (i.c.rh a == i.c.rh b))))

end Sys2Proof.Machine
end

