-- ==== Sys2Proof/Machine/Patrol.lean ====
section
/-! DEFINITION. The memory patrol and what it finds (spec 13 R297 to R300, R309). -/

namespace Sys2Proof.Machine

/-- Steps of a partition that have not been applied and pass a test end POISON_CONSUMED; a revival among them stops. -/
def State.poisonSteps (s : State) (p : Part) (f : Nat → Step → Bool) : State :=
  let ks := s.getP p [] fun t => t.steps.filter fun kv => kv.2.st != .applied && f kv.1 kv.2
  s.forEach ks fun s kv =>
    if kv.2.kind = 4 then (match kv.2.sess with
      | some i => s.stopRevival p i .poisonConsumed
      | none => s)
    else s.squash p kv.1 .poisonConsumed
/-- A tile of a recomputable group: its poison bit is set, and a group without pins is dropped. -/
def State.poisonTile (s : State) (p : Part) (g page : Nat) (v : Bool) : State :=
  (s.updGroup p g fun r => r.setPoison page v).dropPoisoned p g
/-- A metadata block or page record: an unpinned group is dropped; steps that pin it fail at stage 2, and the poison bit of its first
page has it dropped with its last pin (DEDUCED, log entry 71). -/
def State.poisonMeta (s : State) (p : Part) (g : Nat) : State :=
  match s.group? p g with
  | none => s
  | some r =>
    if !r.pinned then (s.dropGroup p g).count p cPoisonDropped
    else
      let fail := fun (k : Step) => if k.pins.contains g then { k with fails := k.fails ++ [(65535, .poisonConsumed)] } else k
      let s := s.updP p fun t => { t with steps := t.steps.mapV fun _ k => fail k }
      s.updGroup p g fun r => r.setPoison 0 false
/-- A node record: its index entry and CAM row go, and it is unreachable (05 R107). -/
def State.loseNode (s : State) (p : Part) (n : Nat) : State :=
  match s.getP p none fun t => t.nodes.find n with
  | none => s
  | some r =>
    if r.lost then s
    else
      let s := s.updP p fun t => t.unindex n
      let s := s.updP p fun t => { t with nodes := t.nodes.upd n fun r => { r with lost := true, camRow := none } }
      { s with cam := s.cam.dropNode r.h }.count p cNodeLosses
/-- A session stands again as its durable record leaves it, with its positions credited to its tenant (R300, R319). -/
def State.restoreSession (s : State) (p : Part) (i : Nat) (t : Partition) (ss : Session) (im : SessImage) : State :=
  let keep := fun (h : Handle) => (t.groups.find (hIndex h)).any fun r => r.h == h
  let old := t.seqsOf ss
  let new : Tab Sequence := im.seqs.map fun q => (q.1, recoveredSeq keep (t.sequences.find q.1) q.2 true)
  let named := ((new.map fun q => q.2.table.map (·.2)).flatten).filter (· ≠ 0)
  let was := ((old.map fun q => q.2.table.map (·.2)).flatten).filter (· ≠ 0)
  let back : Int := (positions old : Int) - (positions new : Int)
  let st := im.sess.st.settled
  let r : Session := { im.sess with st := st, pendPark := none, pendClose := none, preRevived := false, committedTokens := positions new % 2 ^ 32 }
  let s := s.forEach named fun s h => s.refUp p (hIndex h)
  let s := s.updP p fun t =>
    { t with
      sequences := new.foldl (fun m e => m.put e.1 e.2) (old.foldl (fun m e => m.del e.1) t.sequences)
      sessions := t.sessions.put i r
      regions := im.regions.foldl (fun (m : Tab Region) e => m.upd e.1 fun g => { g with data := e.2 }) t.regions
      tenants := t.tenants.upd im.tenant fun n => { n with level := min (n.capacity : Int) (n.level + back) }
      parked := if st = .parked then (if t.parked.contains i then t.parked else t.parked ++ [i]) else t.parked.filter (· ≠ i) }
  let s := s.forEach was fun s h => s.refDown p (hIndex h)
  let s := s.forEach (named.map hIndex).eraseDups fun s g => s.trimUnneeded p g
  (s.count p cRollbacks).event p evSessionRolledBack 0 ss.h (BitVec.ofNat 64 r.committedTokens)
/-- The working copy of a session's authoritative data is unreadable (R300): its requests end, and it is rebuilt from its image and the
journal; a session without a durable record is gone; one whose image is lost too is reported. -/
def State.rollSession (s : State) (p : Part) (i : Nat) (readable : Bool) : State :=
  match s.sess? p i with
  | none => s
  | some ss =>
    let s := s.stopRevival p i .poisonConsumed
    let s := s.poisonSteps p fun _ k => k.sess == some i
    let s := s.forEach (s.getP p [] fun t => t.reqsOf i) fun s l => s.endReq p l.q l.ent.cid .poisonConsumed 9
    if !readable then (s.event p evAuthoritativeLost 0 ss.h 0).devEvent evAuthoritativeLost 0 ss.h 0
    else match s.prt p, (s.journal p.val).sessions.find i with
      | some t, some im => s.restoreSession p i t ss im
      | _, _ => (s.freeSession p i evSessionRolledBack 0).1
/-- An authoritative object whose image is unreadable too is reported lost (R300). -/
def State.reportLost (s : State) (p : Part) : State := (s.event p evAuthoritativeLost 0 0 0).devEvent evAuthoritativeLost 0 0 0
/-- The working copy of a partition's tenant and model records is unreadable: they are rebuilt from their image and the journal, with the
levels that their charges leave (R300). -/
def State.rebuildRecords (s : State) (p : Part) (readable : Bool) : State :=
  if !readable then s.reportLost p
  else
    let j := s.journal p.val
    s.updP p fun t => { t with
      models := j.models
      tenants := j.tenants.mapV fun n (d : Tenant) => match t.tenants.find n with
        | some c => { d with level := min (d.capacity : Int) c.level, lastRefill := c.lastRefill, remainder := c.remainder }
        | none => d }
/-- The working copy of the program store is unreadable: it is rebuilt from its image and the journal; a program that is still there keeps its
placement (R300). -/
def State.rebuildPrograms (s : State) (p : Part) (readable : Bool) : State :=
  if !readable then s.reportLost p
  else
    let j := s.journal p.val
    s.updP p fun t => { t with programs := j.programs.mapV fun i g => match t.programs.find i with
      | some c => if c.h = g.h then { g with clusters := g.clusters &&& c.clusters, st := c.st } else g
      | none => g }
/-- MEMORY_PATROL: a line that reads or is corrected changes nothing that can be seen; an uncorrectable one goes the way of Table 13-2. -/
def execMemoryPatrol (f : Finding) (s : State) : Out :=
  .next (match f with
    | .clean | .corrected => s
    | .tile p g page v => s.poisonTile p g page v
    | .metadata p g => s.poisonMeta p g
    | .bucket p i => s.updP p fun t => { t with index := t.index.upd i fun c => { c with bad := true } }
    | .node p i => s.loseNode p i
    | .stepData p n => s.poisonSteps p fun m _ => m == n
    -- the row is repeated with the same logits and draw; a second mismatch ends the step (R296)
    | .sampler p n again => if again && (s.step? ⟨p, n⟩).any (fun k => k.st != .applied) then
        (s.poisonSteps p fun m _ => m == n).event p evSamplerFault 0 0 0 else s
    | .records p readable => s.rebuildRecords p readable
    | .programs p readable => s.rebuildPrograms p readable
    | .window p u => s.updP p fun t => if (t.ld.extentAt (4096 * u)).isSome then t.setUnit u true else t
    | .session p i readable => s.rollSession p i readable
    | .region p i u readable agrees => s.regionUnit p i u readable agrees)

end Sys2Proof.Machine
end

