-- ==== Sys2Proof/Machine/Dispatch.lean ====
section
/-! DEFINITION. The dispatch: one arm per command, each one call of its meaning. -/

namespace Sys2Proof.Machine

def exec (i : Instr) (s : State) : Host.Outcome State Fault Refusal :=
  match i with
  | .request p q cid => Sys2Proof.Machine.execRequest p q cid s
  | .run p q cid => Sys2Proof.Machine.execRun p q cid s
  | .cancel p q cid => Sys2Proof.Machine.execCancel p q cid s
  | .abort p q cid => Sys2Proof.Machine.execAbort p q cid s
  | .clockadv p q cid => Sys2Proof.Machine.execClockadv p q cid s
  | .progPlace p q cid => Sys2Proof.Machine.execProgPlace p q cid s
  | .progUnload p q cid => Sys2Proof.Machine.execProgUnload p q cid s
  | .queueSet p q cid => Sys2Proof.Machine.execQueueSet p q cid s
  | .progLoad p q cid image => Sys2Proof.Machine.execProgLoad p q cid image s
  | .sqFetch p raw poisoned => Sys2Proof.Machine.execSqFetch p raw poisoned s
  | .completionDrain p q => Sys2Proof.Machine.execCompletionDrain p q s
  | .queueDrained p q => Sys2Proof.Machine.execQueueDrained p q s
  | .stepStart p => Sys2Proof.Machine.execStepStart p s
  | .frameReserved p => Sys2Proof.Machine.execFrameReserved p s
  | .queue0Enable p => Sys2Proof.Machine.execQueue0Enable p s
  | .queue0Disable p => Sys2Proof.Machine.execQueue0Disable p s
  | .waveIssue p m => Sys2Proof.Machine.execWaveIssue p m s
  | .waveWaitExpiry p m => Sys2Proof.Machine.execWaveWaitExpiry p m s
  | .rowIssue p m => Sys2Proof.Machine.execRowIssue p m s
  | .rowWaitExpiry p m => Sys2Proof.Machine.execRowWaitExpiry p m s
  | .stepResume x => Sys2Proof.Machine.execStepResume x s
  | .msgTimeout x => Sys2Proof.Machine.execMsgTimeout x s
  | .stepCycleLimit x => Sys2Proof.Machine.execStepCycleLimit x s
  | .commitApply x => Sys2Proof.Machine.execCommitApply x s
  | .commitRelease x => Sys2Proof.Machine.execCommitRelease x s
  | .etRelease x => Sys2Proof.Machine.execEtRelease x s
  | .descriptorAccept x k => Sys2Proof.Machine.execDescriptorAccept x k s
  | .chunkComplete x layer head chunk residue bad => Sys2Proof.Machine.execChunkComplete x layer head chunk residue bad s
  | .layerMerged p m batch layer => Sys2Proof.Machine.execLayerMerged p m batch layer s
  | .shadowCompare x own partner arb => Sys2Proof.Machine.execShadowCompare x own partner arb s
  | .promotionDone p g good => Sys2Proof.Machine.execPromotionDone p g good s
  | .demotionDone p g good => Sys2Proof.Machine.execDemotionDone p g good s
  | .movePiece path => Sys2Proof.Machine.execMovePiece path s
  | .relocationDone p g => Sys2Proof.Machine.execRelocationDone p g s
  | .winnowSweep p t => Sys2Proof.Machine.execWinnowSweep p t s
  | .indexRebuild p bucket => Sys2Proof.Machine.execIndexRebuild p bucket s
  | .camScrub q => Sys2Proof.Machine.execCamScrub q s
  | .memoryPatrol f => Sys2Proof.Machine.execMemoryPatrol f s
  | .ergotRound  => Sys2Proof.Machine.execErgotRound  s
  | .ergotResult c dA dB arb badA badB => Sys2Proof.Machine.execErgotResult c dA dB arb badA badB s
  | .quarantineSweep c pass => Sys2Proof.Machine.execQuarantineSweep c pass s
  | .nop x => Sys2Proof.Machine.execNop x s
  | .addG x d a b => Sys2Proof.Machine.execAddG x d a b s
  | .sub x d a b => Sys2Proof.Machine.execSub x d a b s
  | .mul x d a b => Sys2Proof.Machine.execMul x d a b s
  | .mulhu x d a b => Sys2Proof.Machine.execMulhu x d a b s
  | .divu x d a b => Sys2Proof.Machine.execDivu x d a b s
  | .remu x d a b => Sys2Proof.Machine.execRemu x d a b s
  | .andG x d a b => Sys2Proof.Machine.execAndG x d a b s
  | .orG x d a b => Sys2Proof.Machine.execOrG x d a b s
  | .xorG x d a b => Sys2Proof.Machine.execXorG x d a b s
  | .shl x d a b => Sys2Proof.Machine.execShl x d a b s
  | .shr x d a b => Sys2Proof.Machine.execShr x d a b s
  | .sra x d a b => Sys2Proof.Machine.execSra x d a b s
  | .cmpeq x d a b => Sys2Proof.Machine.execCmpeq x d a b s
  | .cmpne x d a b => Sys2Proof.Machine.execCmpne x d a b s
  | .cmplt x d a b => Sys2Proof.Machine.execCmplt x d a b s
  | .cmpltu x d a b => Sys2Proof.Machine.execCmpltu x d a b s
  | .cmple x d a b => Sys2Proof.Machine.execCmple x d a b s
  | .cmpleu x d a b => Sys2Proof.Machine.execCmpleu x d a b s
  | .fand x d a b => Sys2Proof.Machine.execFand x d a b s
  | .forF x d a b => Sys2Proof.Machine.execForF x d a b s
  | .fxor x d a b => Sys2Proof.Machine.execFxor x d a b s
  | .fandn x d a b => Sys2Proof.Machine.execFandn x d a b s
  | .popc x d a => Sys2Proof.Machine.execPopc x d a s
  | .clz x d a => Sys2Proof.Machine.execClz x d a s
  | .ctz x d a => Sys2Proof.Machine.execCtz x d a s
  | .jr x d a => Sys2Proof.Machine.execJr x d a s
  | .rdsl x d => Sys2Proof.Machine.execRdsl x d s
  | .movi x d imm => Sys2Proof.Machine.execMovi x d imm s
  | .movhi x d imm => Sys2Proof.Machine.execMovhi x d imm s
  | .addi x d a imm => Sys2Proof.Machine.execAddi x d a imm s
  | .muli x d a imm => Sys2Proof.Machine.execMuli x d a imm s
  | .andi x d a imm => Sys2Proof.Machine.execAndi x d a imm s
  | .ori x d a imm => Sys2Proof.Machine.execOri x d a imm s
  | .xori x d a imm => Sys2Proof.Machine.execXori x d a imm s
  | .shli x d a imm => Sys2Proof.Machine.execShli x d a imm s
  | .shri x d a imm => Sys2Proof.Machine.execShri x d a imm s
  | .srai x d a imm => Sys2Proof.Machine.execSrai x d a imm s
  | .ld x d a imm => Sys2Proof.Machine.execLd x d a imm s
  | .ldw x d a imm => Sys2Proof.Machine.execLdw x d a imm s
  | .ldh x d a imm => Sys2Proof.Machine.execLdh x d a imm s
  | .ldb x d a imm => Sys2Proof.Machine.execLdb x d a imm s
  | .st x d a imm => Sys2Proof.Machine.execSt x d a imm s
  | .stw x d a imm => Sys2Proof.Machine.execStw x d a imm s
  | .sth x d a imm => Sys2Proof.Machine.execSth x d a imm s
  | .stb x d a imm => Sys2Proof.Machine.execStb x d a imm s
  | .cmpeqi x d a imm => Sys2Proof.Machine.execCmpeqi x d a imm s
  | .cmpnei x d a imm => Sys2Proof.Machine.execCmpnei x d a imm s
  | .cmplti x d a imm => Sys2Proof.Machine.execCmplti x d a imm s
  | .cmpltui x d a imm => Sys2Proof.Machine.execCmpltui x d a imm s
  | .cmplei x d a imm => Sys2Proof.Machine.execCmplei x d a imm s
  | .cmpleui x d a imm => Sys2Proof.Machine.execCmpleui x d a imm s
  | .br x off => Sys2Proof.Machine.execBr x off s
  | .brt x c off => Sys2Proof.Machine.execBrt x c off s
  | .brf x c off => Sys2Proof.Machine.execBrf x c off s
  | .brz x c off => Sys2Proof.Machine.execBrz x c off s
  | .brnz x c off => Sys2Proof.Machine.execBrnz x c off s
  | .call x c off => Sys2Proof.Machine.execCall x c off s
  | .ldf x d imm => Sys2Proof.Machine.execLdf x d imm s
  | .stf x d imm => Sys2Proof.Machine.execStf x d imm s
  | .hloads x r d h imm => Sys2Proof.Machine.execHloads x r d h imm s
  | .hld x r d a imm => Sys2Proof.Machine.execHld x r d a imm s
  | .hst x r d a imm => Sys2Proof.Machine.execHst x r d a imm s
  | .hmov x r d h => Sys2Proof.Machine.execHmov x r d h s
  | .hget x r d h => Sys2Proof.Machine.execHget x r d h s
  | .hmake x r d a imm => Sys2Proof.Machine.execHmake x r d a imm s
  | .hchk x r d h imm => Sys2Proof.Machine.execHchk x r d h imm s
  | .hnull x r d => Sys2Proof.Machine.execHnull x r d s
  | .heq x r d a b => Sys2Proof.Machine.execHeq x r d a b s
  | .ptlen x r h a b => Sys2Proof.Machine.execPtlen x r h a b s
  | .pginfo x r h a b => Sys2Proof.Machine.execPginfo x r h a b s
  | .walk x r h a b => Sys2Proof.Machine.execWalk x r h a b s
  | .pxmatch x r h a b => Sys2Proof.Machine.execPxmatch x r h a b s
  | .pxkey x r h a b => Sys2Proof.Machine.execPxkey x r h a b s
  | .sinfo x r h a b => Sys2Proof.Machine.execSinfo x r h a b s
  | .qpost x r h a b => Sys2Proof.Machine.execQpost x r h a b s
  | .qinfo x r h a b => Sys2Proof.Machine.execQinfo x r h a b s
  | .rgdiscard x r h a b => Sys2Proof.Machine.execRgdiscard x r h a b s
  | .rgpublish x r h a b => Sys2Proof.Machine.execRgpublish x r h a b s
  | .ptget x r d h a b => Sys2Proof.Machine.execPtget x r d h a b s
  | .pxlook x r d h a b => Sys2Proof.Machine.execPxlook x r d h a b s
  | .walkemit x r h a b mode => Sys2Proof.Machine.execWalkemit x r h a b mode s
  | .append x r h a => Sys2Proof.Machine.execAppend x r h a s
  | .screate x r h a => Sys2Proof.Machine.execScreate x r h a s
  | .srevive x r h a => Sys2Proof.Machine.execSrevive x r h a s
  | .sdur x r h a => Sys2Proof.Machine.execSdur x r h a s
  | .smigout x r h a => Sys2Proof.Machine.execSmigout x r h a s
  | .rgcreate x r h a => Sys2Proof.Machine.execRgcreate x r h a s
  | .rgreg x r h a => Sys2Proof.Machine.execRgreg x r h a s
  | .rgbind x r h a => Sys2Proof.Machine.execRgbind x r h a s
  | .pgpromote x r h => Sys2Proof.Machine.execPgpromote x r h s
  | .spark x r h => Sys2Proof.Machine.execSpark x r h s
  | .sclose x r h => Sys2Proof.Machine.execSclose x r h s
  | .sqfree x r h => Sys2Proof.Machine.execSqfree x r h s
  | .rgfree x r h => Sys2Proof.Machine.execRgfree x r h s
  | .rgrevoke x r h => Sys2Proof.Machine.execRgrevoke x r h s
  | .pgdemote x r h a tgt => Sys2Proof.Machine.execPgdemote x r h a tgt s
  | .ptfork x r d h => Sys2Proof.Machine.execPtfork x r d h s
  | .domcreate x r a => Sys2Proof.Machine.execDomcreate x r a s
  | .domclose x r a => Sys2Proof.Machine.execDomclose x r a s
  | .smigin x r a => Sys2Proof.Machine.execSmigin x r a s
  | .qpconnect x r a => Sys2Proof.Machine.execQpconnect x r a s
  | .qpdisc x r a => Sys2Proof.Machine.execQpdisc x r a s
  | .qpdestroy x r a => Sys2Proof.Machine.execQpdestroy x r a s
  | .mvcopy x r d h a b bulk => Sys2Proof.Machine.execMvcopy x r d h a b bulk s
  | .mvtier x r h a b tgt => Sys2Proof.Machine.execMvtier x r h a b tgt s
  | .mvwait x r d a => Sys2Proof.Machine.execMvwait x r d a s
  | .waiteng x r d a => Sys2Proof.Machine.execWaiteng x r d a s
  | .mvstat x r d a => Sys2Proof.Machine.execMvstat x r d a s
  | .modload x r d a => Sys2Proof.Machine.execModload x r d a s
  | .waitmsg x r h a b nolayer src => Sys2Proof.Machine.execWaitmsg x r h a b nolayer src s
  | .stepinfo x r d imm => Sys2Proof.Machine.execStepinfo x r d imm s
  | .cntrd x r d imm => Sys2Proof.Machine.execCntrd x r d imm s
  | .sseq x r d h a => Sys2Proof.Machine.execSseq x r d h a s
  | .tenset x r a b => Sys2Proof.Machine.execTenset x r a b s
  | .tenget x r a b => Sys2Proof.Machine.execTenget x r a b s
  | .varset x r a b => Sys2Proof.Machine.execVarset x r a b s
  | .qpcreate x r a b => Sys2Proof.Machine.execQpcreate x r a b s
  | .charmArm x r a b => Sys2Proof.Machine.execCharmArm x r a b s
  | .charmDisarm x r a b => Sys2Proof.Machine.execCharmDisarm x r a b s
  | .sample x r h a b => Sys2Proof.Machine.execSample x r h a b s
  | .smpres x r d => Sys2Proof.Machine.execSmpres x r d s
  | .tstamp x r d => Sys2Proof.Machine.execTstamp x r d s
  | .qevent x r a imm => Sys2Proof.Machine.execQevent x r a imm s
  | .trace x r a imm => Sys2Proof.Machine.execTrace x r a imm s
  | .commit x r h a post => Sys2Proof.Machine.execCommit x r h a post s
  | .fence x r => Sys2Proof.Machine.execFence x r s
  | .squash x r imm => Sys2Proof.Machine.execSquash x r imm s
  | .rsync x r h a b validate => Sys2Proof.Machine.execRsync x r h a b validate s
  | .qppost x r a b now => Sys2Proof.Machine.execQppost x r a b now s
  | .qpnote x r a b wait => Sys2Proof.Machine.execQpnote x r a b wait s
  | .errinj x r h a half => Sys2Proof.Machine.execErrinj x r h a half s
  | .waveOpen p qp msg => Sys2Proof.Machine.execWaveOpen p qp msg s
  | .attend p qp msg => Sys2Proof.Machine.execAttend p qp msg s
  | .rowOpen p qp msg => Sys2Proof.Machine.execRowOpen p qp msg s
  | .prefillRow p qp msg => Sys2Proof.Machine.execPrefillRow p qp msg s
  | .fetch p qp msg => Sys2Proof.Machine.execFetch p qp msg s
  | .store p qp msg => Sys2Proof.Machine.execStore p qp msg s
  | .hgReady p qp msg => Sys2Proof.Machine.execHgReady p qp msg s
  | .hgCommit p qp msg => Sys2Proof.Machine.execHgCommit p qp msg s
  | .hgSquash p qp msg => Sys2Proof.Machine.execHgSquash p qp msg s
  | .hgRevive p qp msg => Sys2Proof.Machine.execHgRevive p qp msg s
  | .hgReviveK p qp msg => Sys2Proof.Machine.execHgReviveK p qp msg s
  | .hgDigest p qp msg => Sys2Proof.Machine.execHgDigest p qp msg s
  | .hgDigestRes p qp msg => Sys2Proof.Machine.execHgDigestRes p qp msg s
  | .logits p qp msg => Sys2Proof.Machine.execLogits p qp msg s
  | .route p qp msg => Sys2Proof.Machine.execRoute p qp msg s
  | .migConfirm p qp msg => Sys2Proof.Machine.execMigConfirm p qp msg s
  | .migRelease p qp msg => Sys2Proof.Machine.execMigRelease p qp msg s
  | .migCancel p qp msg => Sys2Proof.Machine.execMigCancel p qp msg s
  | .migQuery p qp msg => Sys2Proof.Machine.execMigQuery p qp msg s
  | .migAnswer p qp msg => Sys2Proof.Machine.execMigAnswer p qp msg s
  | .hgReadyTimeout p m batch => Sys2Proof.Machine.execHgReadyTimeout p m batch s
  | .hgReviveTimeout p sess => Sys2Proof.Machine.execHgReviveTimeout p sess s
  | .revivalStepStart p sess => Sys2Proof.Machine.execRevivalStepStart p sess s
  | .revivalApply p sess => Sys2Proof.Machine.execRevivalApply p sess s
  | .migStreamRecord p rec => Sys2Proof.Machine.execMigStreamRecord p rec s
  | .migImportDurable p migId => Sys2Proof.Machine.execMigImportDurable p migId s
  | .migTimeout p migId => Sys2Proof.Machine.execMigTimeout p migId s
  | .migQueryTimer p migId => Sys2Proof.Machine.execMigQueryTimer p migId s
  | .send port k => Sys2Proof.Machine.execSend port k s
  | .write port k => Sys2Proof.Machine.execWrite port k s
  | .readReq port k => Sys2Proof.Machine.execReadReq port k s
  | .readResp port k => Sys2Proof.Machine.execReadResp port k s
  | .ack port k => Sys2Proof.Machine.execAck port k s
  | .nak port k => Sys2Proof.Machine.execNak port k s
  | .connectReq port k => Sys2Proof.Machine.execConnectReq port k s
  | .connectRep port k => Sys2Proof.Machine.execConnectRep port k s
  | .disconnect port k => Sys2Proof.Machine.execDisconnect port k s
  | .stalledPacketsRelease p qp => Sys2Proof.Machine.execStalledPacketsRelease p qp s
  | .stallTimeout p qp => Sys2Proof.Machine.execStallTimeout p qp s
  | .pauseExpiry p qp => Sys2Proof.Machine.execPauseExpiry p qp s
  | .ackTimer p qp => Sys2Proof.Machine.execAckTimer p qp s
  | .rtoExpiry p qp => Sys2Proof.Machine.execRtoExpiry p qp s
  | .connectRetry p qp => Sys2Proof.Machine.execConnectRetry p qp s
  | .drainTimeout p qp => Sys2Proof.Machine.execDrainTimeout p qp s
  | .rxPauseFrame port => Sys2Proof.Machine.execRxPauseFrame port s
  | .ptpHoldover port => Sys2Proof.Machine.execPtpHoldover port s
  | .gclChangeTime port => Sys2Proof.Machine.execGclChangeTime port s
  | .gclEntryAdvance port => Sys2Proof.Machine.execGclEntryAdvance port s
  | .arpNdLldpFrame port asks => Sys2Proof.Machine.execArpNdLldpFrame port asks s
  | .ptpMessage port domain sync offset time => Sys2Proof.Machine.execPtpMessage port domain sync offset time s
  | .egressFrameStart port time => Sys2Proof.Machine.execEgressFrameStart port time s
  | .bucketRefill port time => Sys2Proof.Machine.execBucketRefill port time s
  | .gclGo port time => Sys2Proof.Machine.execGclGo port time s
  | .replyBucketRefill port replies => Sys2Proof.Machine.execReplyBucketRefill port replies s
  | .portLinkChange port up => Sys2Proof.Machine.execPortLinkChange port up s
  | .spreadCheck ppm => Sys2Proof.Machine.execSpreadCheck ppm s
  | .spreadCleared  => Sys2Proof.Machine.execSpreadCleared  s
  | .superblockClose sb => Sys2Proof.Machine.execSuperblockClose sb s
  | .gleanCopyDone sb => Sys2Proof.Machine.execGleanCopyDone sb s
  | .gleanCommit sb => Sys2Proof.Machine.execGleanCommit sb s
  | .superblockVerify sb bad => Sys2Proof.Machine.execSuperblockVerify sb bad s
  | .gleanVerifyDone sb bad => Sys2Proof.Machine.execGleanVerifyDone sb bad s
  | .gleanEraseDone sb bad => Sys2Proof.Machine.execGleanEraseDone sb bad s
  | .flashProgramFail sb col => Sys2Proof.Machine.execFlashProgramFail sb col s
  | .flashReadDone p unit res => Sys2Proof.Machine.execFlashReadDone p unit res s
  | .flashPatrol sb overHalf => Sys2Proof.Machine.execFlashPatrol sb overHalf s
  | .gleanStart ch => Sys2Proof.Machine.execGleanStart ch s
  | .journalPageTimeout j => Sys2Proof.Machine.execJournalPageTimeout j s
  | .journalPageProgrammed j => Sys2Proof.Machine.execJournalPageProgrammed j s
  | .journalCheckpoint j => Sys2Proof.Machine.execJournalCheckpoint j s
  | .carrierPresent k level => Sys2Proof.Machine.execCarrierPresent k level s
  | .carrierPgood k level => Sys2Proof.Machine.execCarrierPgood k level s
  | .carrierPresentDebounced k => Sys2Proof.Machine.execCarrierPresentDebounced k s
  | .carrierAttention k => Sys2Proof.Machine.execCarrierAttention k s
  | .carrierPgoodTimeout k => Sys2Proof.Machine.execCarrierPgoodTimeout k s
  | .carrierResetRelease k => Sys2Proof.Machine.execCarrierResetRelease k s
  | .carrierQualifyTimeout k => Sys2Proof.Machine.execCarrierQualifyTimeout k s
  | .carrierDetach k => Sys2Proof.Machine.execCarrierDetach k s
  | .cleanDetachDurable k => Sys2Proof.Machine.execCleanDetachDurable k s
  | .eraseForeignCarrier k => Sys2Proof.Machine.execEraseForeignCarrier k s
  | .carrierQualifyDone k res => Sys2Proof.Machine.execCarrierQualifyDone k res s
  | .layout l => Sys2Proof.Machine.execLayout l s
  | .declareCrossDomain owner members equalTime etMax => Sys2Proof.Machine.execDeclareCrossDomain owner members equalTime etMax s
  | .withdrawCrossDomain dom => Sys2Proof.Machine.execWithdrawCrossDomain dom s
  | .firmwareUpdate img => Sys2Proof.Machine.execFirmwareUpdate img s
  | .versionCommit  => Sys2Proof.Machine.execVersionCommit  s
  | .clearBrokenSeal  => Sys2Proof.Machine.execClearBrokenSeal  s
  | .keyEnrolment p wrapped => Sys2Proof.Machine.execKeyEnrolment p wrapped s
  | .exportMigrationRecord parts dstSerial chainOk => Sys2Proof.Machine.execExportMigrationRecord parts dstSerial chainOk s
  | .importMigrationRecord r => Sys2Proof.Machine.execImportMigrationRecord r s
  | .regRead off count => Sys2Proof.Machine.execRegRead off count s
  | .regWrite off data => Sys2Proof.Machine.execRegWrite off data s
  | .mctpSetEndpointId eid => Sys2Proof.Machine.execMctpSetEndpointId eid s
  | .i3cAddressAssign dynamic => Sys2Proof.Machine.execI3cAddressAssign dynamic s
  | .ptFence p val => Sys2Proof.Machine.execPtFence p val s
  | .dormantOkWrite p val => Sys2Proof.Machine.execDormantOkWrite p val s
  | .unfence mask => Sys2Proof.Machine.execUnfence mask s
  | .warmReset  => Sys2Proof.Machine.execWarmReset  s
  | .coldReset  => Sys2Proof.Machine.execColdReset  s
  | .closePresenceWindow  => Sys2Proof.Machine.execClosePresenceWindow  s
  | .dormantGo  => Sys2Proof.Machine.execDormantGo  s
  | .dormantEnter  => Sys2Proof.Machine.execDormantEnter  s
  | .dormantAbandonTimeout  => Sys2Proof.Machine.execDormantAbandonTimeout  s
  | .sqDoorbell p q val => Sys2Proof.Machine.execSqDoorbell p q val s
  | .cqDoorbell p q val => Sys2Proof.Machine.execCqDoorbell p q val s
  | .evHeadWrite log val => Sys2Proof.Machine.execEvHeadWrite log val s
  | .evCtlWrite log val => Sys2Proof.Machine.execEvCtlWrite log val s
  | .t1hRangeAppend p idx base rng => Sys2Proof.Machine.execT1hRangeAppend p idx base rng s
  | .mailboxGo map => Sys2Proof.Machine.execMailboxGo map s
  | .portModeWrite port val => Sys2Proof.Machine.execPortModeWrite port val s
  | .auxclkCtlWrite k val => Sys2Proof.Machine.execAuxclkCtlWrite k val s
  | .wakeCounter k => Sys2Proof.Machine.execWakeCounter k s
  | .registerWrite map off size val => Sys2Proof.Machine.execRegisterWrite map off size val s
  | .registerRead map off size => Sys2Proof.Machine.execRegisterRead map off size s
  | .configRequest ld => Sys2Proof.Machine.execConfigRequest ld s
  | .ldEnable p mem master => Sys2Proof.Machine.execLdEnable p mem master s
  | .flr p => Sys2Proof.Machine.execFlr p s
  | .cxlReset p => Sys2Proof.Machine.execCxlReset p s
  | .identify p => Sys2Proof.Machine.execIdentify p s
  | .getFwInfo p => Sys2Proof.Machine.execGetFwInfo p s
  | .activateFw p => Sys2Proof.Machine.execActivateFw p s
  | .getPoisonList p => Sys2Proof.Machine.execGetPoisonList p s
  | .hdmDecoderCommit p => Sys2Proof.Machine.execHdmDecoderCommit p s
  | .fmBind p vppb => Sys2Proof.Machine.execFmBind p vppb s
  | .cxlMemRead p dpa => Sys2Proof.Machine.execCxlMemRead p dpa s
  | .cxlMemWrite p dpa data => Sys2Proof.Machine.execCxlMemWrite p dpa data s
  | .initiateDcAdd p dpa blocks tag => Sys2Proof.Machine.execInitiateDcAdd p dpa blocks tag s
  | .dcCapacityFreed p dpa => Sys2Proof.Machine.execDcCapacityFreed p dpa s
  | .dcReserveTimeout p dpa => Sys2Proof.Machine.execDcReserveTimeout p dpa s
  | .dcOfferTimeout p dpa => Sys2Proof.Machine.execDcOfferTimeout p dpa s
  | .initiateDcForcedRelease p dpa => Sys2Proof.Machine.execInitiateDcForcedRelease p dpa s
  | .extentDrained p dpa => Sys2Proof.Machine.execExtentDrained p dpa s
  | .injectPoison p dpa => Sys2Proof.Machine.execInjectPoison p dpa s
  | .clearPoison p dpa => Sys2Proof.Machine.execClearPoison p dpa s
  | .addDcResponse p dpa accept => Sys2Proof.Machine.execAddDcResponse p dpa accept s
  | .releaseDc p ranges => Sys2Proof.Machine.execReleaseDc p ranges s
  | .revokeDrained p region => Sys2Proof.Machine.execRevokeDrained p region s
  | .t1hAccessFailure p range use isWrite => Sys2Proof.Machine.execT1hAccessFailure p range use isWrite s
  | .ideFailure st => Sys2Proof.Machine.execIdeFailure st s
  | .ideStreamEstablish who st sessionSecured => Sys2Proof.Machine.execIdeStreamEstablish who st sessionSecured s
  | .transferFw p img => Sys2Proof.Machine.execTransferFw p img s
  | .spdmChallenge who => Sys2Proof.Machine.execSpdmChallenge who s
  | .spdmKeyExchange who => Sys2Proof.Machine.execSpdmKeyExchange who s
  | .cdatTableAccess who => Sys2Proof.Machine.execCdatTableAccess who s
  | .spdmGetMeasurements who idx signed => Sys2Proof.Machine.execSpdmGetMeasurements who idx signed s
  | .busRise  => Sys2Proof.Machine.execBusRise  s
  | .powerFail  => Sys2Proof.Machine.execPowerFail  s
  | .overvoltage  => Sys2Proof.Machine.execOvervoltage  s
  | .powerRestoreHold  => Sys2Proof.Machine.execPowerRestoreHold  s
  | .busCollapse  => Sys2Proof.Machine.execBusCollapse  s
  | .perstAssert  => Sys2Proof.Machine.execPerstAssert  s
  | .perstDeassert  => Sys2Proof.Machine.execPerstDeassert  s
  | .coldRecovery  => Sys2Proof.Machine.execColdRecovery  s
  | .serviceReady  => Sys2Proof.Machine.execServiceReady  s
  | .refclkLoss  => Sys2Proof.Machine.execRefclkLoss  s
  | .refclkReturn  => Sys2Proof.Machine.execRefclkReturn  s
  | .thermalThrottle  => Sys2Proof.Machine.execThermalThrottle  s
  | .thermalRecover  => Sys2Proof.Machine.execThermalRecover  s
  | .thermalHalt  => Sys2Proof.Machine.execThermalHalt  s
  | .pwrCyclesTick  => Sys2Proof.Machine.execPwrCyclesTick  s
  | .presencePress  => Sys2Proof.Machine.execPresencePress  s
  | .presenceExpiry  => Sys2Proof.Machine.execPresenceExpiry  s
  | .sealBreak  => Sys2Proof.Machine.execSealBreak  s
  | .hostWake  => Sys2Proof.Machine.execHostWake  s
  | .boardAlert  => Sys2Proof.Machine.execBoardAlert  s
  | .configReady failed => Sys2Proof.Machine.execConfigReady failed s
  | .pllQualified k => Sys2Proof.Machine.execPllQualified k s
  | .pllLockTimeout k => Sys2Proof.Machine.execPllLockTimeout k s
  | .powerSample p1ms p1s busMv tDie tStack => Sys2Proof.Machine.execPowerSample p1ms p1s busMv tDie tStack s
  | .wedgeDetect u => Sys2Proof.Machine.execWedgeDetect u s
  | .sealBitCheck good => Sys2Proof.Machine.execSealBitCheck good s
  | .boundaryScanInstruction drivesPins => Sys2Proof.Machine.execBoundaryScanInstruction drivesPins s
  | .malformedFrame port why => Sys2Proof.Machine.execMalformedFrame port why s

end Sys2Proof.Machine
end

