-- ==== Sys2Proof/Certificates/Slice0/Obligations.lean ====
section
/-! DEFINITION. The statements for the provers, and the few definitions that they are stated with. -/

namespace Sys2Proof.Cert
open Sys2Proof.Machine

/-- Step `x` of partition record `t` runs: its record is `k`, its program `g`, and the word at its address is defined (16
R365). -/
abbrev Running (s : State) (x : StepRef) (t : Partition) (k : Step) (g : Program) : Prop :=
  s.prt x.part = some t ∧ t.steps.find x.num = some k ∧ t.programs.find k.prog = some g ∧ k.st = .running
    ∧ g.wordOk x k.ctx.pc = true
/-- The step goes on behind its instruction with the registers `c`; nothing else of the device changes. -/
def goesOn (s : State) (x : StepRef) (k : Step) (c : Ctx) : Out :=
  .next (s.updStep x fun e => { e with ctx := { c with pc := k.ctx.pc + 8 } })
/-- The step goes on at another address. -/
def goesTo (s : State) (x : StepRef) (c : Ctx) (pc : Nat) : Out :=
  .next (s.updStep x fun e => { e with ctx := { c with pc := pc } })
/-- `n` is the number of leading zero bits of a word. -/
def IsClz (w : Word) (n : Nat) : Prop := n ≤ 64 ∧ (∀ i, i < n → w.getMsbD i = false) ∧ (n < 64 → w.getMsbD n = true)
/-- `n` is the number of trailing zero bits of a word. -/
def IsCtz (w : Word) (n : Nat) : Prop := n ≤ 64 ∧ (∀ i, i < n → w.getLsbD i = false) ∧ (n < 64 → w.getLsbD n = true)
/-- The issue of an instruction of step `x`. -/
def iss (s : State) (x : StepRef) (t : Partition) (k : Step) (g : Program) : Iss := ⟨s, x.part, t, k, k.ctx, false, g⟩
/-- The step goes on with the registers `c`, and `ops` at the end of its update log (03 R61). -/
def goesLogging (s : State) (x : StepRef) (k : Step) (c : Ctx) (ops : List LogOp) : Out :=
  .next (s.updStep x fun e => { e with log := e.log ++ ops, ctx := { c with pc := k.ctx.pc + 8 } })
/-- The same for a deferred instruction, whose outcome completes the command (17 R382). -/
def goesDeferring (s : State) (x : StepRef) (k : Step) (d : Deferred) (o : LogOp) : Out :=
  .next (s.updStep x fun e =>
    { e with log := e.log ++ [o], deferredUsed := true, deferred := d, ctx := { k.ctx with pc := k.ctx.pc + 8 } })
/-- A step of a RUN that has issued no deferred instruction. -/
def MayDefer (t : Partition) (k : Step) : Prop :=
  k.deferredUsed = false ∧ ∃ l, t.liveOf k.q k.cid = some l ∧ l.req = none
/-- The lowest slot of a kind that a new object may take (01 R11). -/
abbrev LowestSlot (t : Partition) (p : Part) (kind n : Nat) : Prop :=
  n < t.tableSize kind ∧ t.slotFree p kind n = true ∧ ∀ j, j < n → t.slotFree p kind j = false
/-- An instruction that ends with a status: it traps, or with `rec` it is recorded in the latch and f7 (16 R367); `c` are the
registers with null and zero results. -/
def refused (s : State) (x : StepRef) (k : Step) (r : Bool) (st : Status) (c : Ctx) : Out :=
  .next (if r then s.updStep x fun e => { e with ctx := { (c.wf 7 true) with latch := st.code, pc := k.ctx.pc + 8 } }
    else s.squash x.part x.num st)
/-- A handle passes the checks of Table 1-3 for a kind; kind 0 is any defined one. -/
abbrev Passes (t : Partition) (x : StepRef) (k : Step) (kind : Nat) (h : Handle) : Prop :=
  t.checkHandle x.part (some k.num) kind h = none
/-- No run-ahead result of this instruction with these operands is kept (03 R60). -/
abbrev Fresh (k : Step) (ops : List Word) : Prop := ∀ e ∈ k.raDone, ¬ (e.pc = k.ctx.pc ∧ e.ops = ops)
/-- Block `b` of a sequence, as the step sees it, has a group that is homed in T0 and not in a move. -/
def HomeBlock (t : Partition) (k : Step) (seq b : Nat) (h : Handle) : Prop :=
  t.entryOf k seq b = some h ∧ h ≠ 0 ∧ ∃ r, t.groups.find (hIndex h) = some r ∧ r.tier = .t0 ∧ r.move = .idle
/-- A step of state `u` stands behind its instruction with the registers `c`. -/
def Stands (u : State) (x : StepRef) (k e : Step) (c : Ctx) : Prop :=
  u.step? x = some e ∧ e.ctx = { c with pc := k.ctx.pc + 8 }
/-- `l` is a fetched command of queue `q`, of opcode `oc`, that may start (03 R51); `k` is its queue's record. -/
abbrev CanStart (s : State) (p : Part) (q : Qn) (cid : BitVec 16) (oc : Nat) (t : Partition) (k : Queue) (l : Live) : Prop :=
  s.prt p = some t ∧ t.st = .active ∧ t.queues.find q.val = some k ∧ t.liveOf q.val cid = some l ∧ l.ent.opcode = oc
    ∧ l.started = false ∧ t.mayStart l = true ∧ l.posted1 = false ∧ l.req = none ∧ l.abortStatus = none
/-- One completion stands behind those that stood in the completion ring of queue `q`, and its command is over (03 R51). -/
def Completes (u : State) (p : Part) (q : Qn) (k : Queue) (l : Live) (st : Status) (r0 : Word) : Prop :=
  ∃ (t : Partition) (k' : Queue) (c : Completion), u.prt p = some t ∧ t.queues.find q.val = some k'
    ∧ k'.posted = k.posted ++ [c] ∧ c.cid = l.ent.cid ∧ c.status = st ∧ c.more = false ∧ c.sq = q.val ∧ c.sqHead = l.sqHead ∧ c.phase = k.phase
      ∧ c.result0 = r0
    ∧ ∀ m ∈ t.live, m.order ≠ l.order
/-- The device answers its sender with a status. -/
def Answers (u : State) (st : Status) : Prop := ∃ r, u.reply = some r ∧ r.status = st ∧ r.mbox = none
/-- No session of a partition waits for a boundary to park or to close. -/
abbrev Unpended (t : Partition) : Prop := ∀ e ∈ t.sessions, e.2.pendPark = none ∧ e.2.pendClose = none
/-- Every cluster has a free frame, so that no due step waits for one. -/
abbrev FramesFree (s : State) : Prop := ∀ c, c < 64 → (s.frameOn c).isSome = true
/-- A message of type `mt` that every check of R122 and R307 passes: `t` is its partition, `m` its model. -/
abbrev GoodMsg (s : State) (p : Part) (mt : Nat) (msg : Msg) (t : Partition) (m : ModelDesc) : Prop :=
  s.prt p = some t ∧ t.model? msg.modelId = some m ∧ m.modelId = msg.modelId ∧ msg.mtype.toNat = mt
    ∧ msg.bytes = msg.body.length ∧ msg.xfmt.toNat ≤ 1 ∧ msg.ofmt.toNat ≤ 2 ∧ digestBad msg = false
/-- `v` holds `n` local bytes from `a` on, the first in its lowest bits, and zeros above (00 R4). -/
abbrev HoldsBytes (k : Step) (g : Program) (a n : Nat) (v : Word) : Prop :=
  (∀ i, i < n → v.extractLsb' (8 * i) 8 = k.byteAt g.data (a + i)) ∧ v.toNat < 2 ^ (8 * n)
/-- `e` is step `k` with the lowest `n` bytes of `v` at `a` in its scratch window, behind its instruction, and otherwise as it
was: every other byte of local memory reads as before. -/
def Stored {w : Nat} (k e : Step) (g : Program) (a n : Nat) (v : BitVec w) : Prop :=
  (∀ i, i < n → e.byteAt g.data (a + i) = v.extractLsb' (8 * i) 8)
    ∧ (∀ b, b < a ∨ a + n ≤ b → e.byteAt g.data b = k.byteAt g.data b)
    ∧ e = { k with scratch := e.scratch, ctx := { k.ctx with pc := k.ctx.pc + 8 } }
/-- A packet on a port that is up passes rows 1 to 4 of Table 12-8: its frame is no longer than a frame may be, it is for partition `p`,
whose record is `t`; its class is not policed, its tag is the partition's, and it triggers a chain only with its last packet. -/
abbrev Admitted (s : State) (port : PortNo) (pk : Pkt) (p : Part) (t : Partition) : Prop :=
  (s.prtNo port.val).up = true ∧ s.addrOwner port.val pk.dst = some p ∧ s.prt p = some t ∧ s.ready = true
    ∧ (s.prtNo port.val).polRates.getD (polKey p.val pk.tc) 0 = 0 ∧ pk.ptag = t.binding.ptag ∧ t.st ≠ .fenced
    ∧ s.frameLen port.val pk ≤ 9216 ∧ (pk.trigOn = true → pk.fin = true)
/-- It passes rows 5 to 8 as well: it comes from the peer of queue pair `q`, of its tenant and class; a NAK's hint lies in its low half. -/
abbrev FromPeer (s : State) (port : PortNo) (op : Nat) (pk : Pkt) (p : Part) (t : Partition) (q : Qp) : Prop :=
  Admitted s port pk p t ∧ t.qps.find pk.dqp = some q ∧ q.fromPeer op pk = true ∧ q.tenant = pk.tenant ∧ q.tc = pk.tc
    ∧ (op = opNak → pk.roff.toNat < 2 ^ 32)
/-- It is the packet that its queue pair expects, and nothing is held or stalled there. -/
abbrev InOrder (s : State) (port : PortNo) (op : Nat) (pk : Pkt) (p : Part) (t : Partition) (q : Qp) : Prop :=
  FromPeer s port op pk p t q ∧ pk.psn = q.rcvEpsn ∧ q.rcvLog.find pk.psn.toNat = none ∧ q.stalledAt = none ∧ q.held = []
    ∧ q.rcvLog.find (psnAdd pk.psn 1).toNat = none
/-- The device is not DORMANT and enters it not: a management or host access wakes nothing. -/
abbrev Awake (s : State) : Prop := s.power.st ≠ .dormant ∧ s.power.entering = false
/-- The signature indices of 15 R354 and R355 in their ranges: at most 256 reserved in a quote day, a life's quotes in the first 1,032,192,
migration records in those above. -/
abbrev IndicesInRange (s : State) : Prop :=
  s.ident.dayUsed ≤ 256 ∧ s.ident.xmssNext ≤ 1032192 ∧ 1032192 ≤ s.ident.xmssMigNext ∧ s.ident.xmssMigNext ≤ 1048576

end Sys2Proof.Cert

open Sys2Proof Sys2Proof.Machine Sys2Proof.Cert

/-- R369: NOP, ADD, SUB, MUL, MULHU, DIVU and REMU of a running step write their 64-bit result and nothing else. -/
def Obligations.ScalarArithmeticResults : Prop :=
  ∀ (s : State) (x : StepRef) (t : Partition) (k : Step) (g : Program) (d a b : GReg), Running s x t k g →
    exec (.nop x) s = goesOn s x k k.ctx
    ∧ exec (.addG x d a b) s = goesOn s x k (k.ctx.wg d (k.ctx.rg a + k.ctx.rg b))
    ∧ exec (.sub x d a b) s = goesOn s x k (k.ctx.wg d (k.ctx.rg a - k.ctx.rg b))
    ∧ exec (.mul x d a b) s = goesOn s x k (k.ctx.wg d (k.ctx.rg a * k.ctx.rg b))
    ∧ exec (.mulhu x d a b) s
        = goesOn s x k (k.ctx.wg d (((k.ctx.rg a).zeroExtend 128 * (k.ctx.rg b).zeroExtend 128).extractLsb' 64 64))
    ∧ exec (.divu x d a b) s = goesOn s x k (k.ctx.wg d (if k.ctx.rg b = 0 then BitVec.allOnes 64
        else BitVec.ofNat 64 ((k.ctx.rg a).toNat / (k.ctx.rg b).toNat)))
    ∧ exec (.remu x d a b) s = goesOn s x k (k.ctx.wg d (if k.ctx.rg b = 0 then k.ctx.rg a
        else BitVec.ofNat 64 ((k.ctx.rg a).toNat % (k.ctx.rg b).toNat)))

/-- R369: AND, OR, XOR, the shifts by bits [5:0] of a register, and the bit counts. -/
def Obligations.ScalarLogicAndShifts : Prop :=
  ∀ (s : State) (x : StepRef) (t : Partition) (k : Step) (g : Program) (d a b : GReg), Running s x t k g →
    exec (.andG x d a b) s = goesOn s x k (k.ctx.wg d (k.ctx.rg a &&& k.ctx.rg b))
    ∧ exec (.orG x d a b) s = goesOn s x k (k.ctx.wg d (k.ctx.rg a ||| k.ctx.rg b))
    ∧ exec (.xorG x d a b) s = goesOn s x k (k.ctx.wg d (k.ctx.rg a ^^^ k.ctx.rg b))
    ∧ exec (.shl x d a b) s = goesOn s x k (k.ctx.wg d (k.ctx.rg a <<< (k.ctx.rg b).extractLsb' 0 6))
    ∧ exec (.shr x d a b) s = goesOn s x k (k.ctx.wg d (k.ctx.rg a >>> (k.ctx.rg b).extractLsb' 0 6))
    ∧ exec (.sra x d a b) s = goesOn s x k (k.ctx.wg d ((k.ctx.rg a).sshiftRight' ((k.ctx.rg b).extractLsb' 0 6)))
    ∧ exec (.popc x d a) s
        = goesOn s x k (k.ctx.wg d (BitVec.ofNat 64 ((List.range 64).map fun i => ((k.ctx.rg a).getLsbD i).toNat).sum))
    ∧ (∃ n, IsClz (k.ctx.rg a) n ∧ exec (.clz x d a) s = goesOn s x k (k.ctx.wg d (BitVec.ofNat 64 n)))
    ∧ (∃ n, IsCtz (k.ctx.rg a) n ∧ exec (.ctz x d a) s = goesOn s x k (k.ctx.wg d (BitVec.ofNat 64 n)))

/-- R369: the six comparisons of two registers, signed and unsigned, set or clear one flag. -/
def Obligations.ComparisonResults : Prop :=
  ∀ (s : State) (x : StepRef) (t : Partition) (k : Step) (g : Program) (d : FReg) (a b : GReg),
    Running s x t k g →
    let u := k.ctx.rg a
    let v := k.ctx.rg b
    exec (.cmpeq x d a b) s = goesOn s x k (k.ctx.wf d (decide (u = v)))
    ∧ exec (.cmpne x d a b) s = goesOn s x k (k.ctx.wf d (decide (u ≠ v)))
    ∧ exec (.cmplt x d a b) s = goesOn s x k (k.ctx.wf d (decide (u.toInt < v.toInt)))
    ∧ exec (.cmpltu x d a b) s = goesOn s x k (k.ctx.wf d (decide (u.toNat < v.toNat)))
    ∧ exec (.cmple x d a b) s = goesOn s x k (k.ctx.wf d (decide (u.toInt ≤ v.toInt)))
    ∧ exec (.cmpleu x d a b) s = goesOn s x k (k.ctx.wf d (decide (u.toNat ≤ v.toNat)))

/-- R368, R369: the flag operations; RDSL reads the latch, clears it and makes f7 false. -/
def Obligations.FlagLogicAndLatch : Prop :=
  ∀ (s : State) (x : StepRef) (t : Partition) (k : Step) (g : Program) (d a b : FReg) (e : GReg), Running s x t k g →
    exec (.fand x d a b) s = goesOn s x k (k.ctx.wf d (k.ctx.rf a && k.ctx.rf b))
    ∧ exec (.forF x d a b) s = goesOn s x k (k.ctx.wf d (k.ctx.rf a || k.ctx.rf b))
    ∧ exec (.fxor x d a b) s = goesOn s x k (k.ctx.wf d (xor (k.ctx.rf a) (k.ctx.rf b)))
    ∧ exec (.fandn x d a b) s = goesOn s x k (k.ctx.wf d (k.ctx.rf a && !k.ctx.rf b))
    ∧ exec (.rdsl x e) s = goesOn s x k { (k.ctx.wg e (k.ctx.latch.zeroExtend 64)).wf 7 false with latch := 0 }

/-- R370, Table 16-4: the immediate group, its comparisons among it; a shift whose `imm`[31:6] is not zero is an undefined format and
squashes the step. -/
def Obligations.ImmediateResults : Prop :=
  ∀ (s : State) (x : StepRef) (t : Partition) (k : Step) (g : Program) (d a : GReg) (fd : FReg) (imm : BitVec 32), Running s x t k g →
    let n := imm.extractLsb' 0 6
    let u := k.ctx.rg a
    let w := imm.signExtend 64
    exec (.movi x d imm) s = goesOn s x k (k.ctx.wg d (imm.signExtend 64))
    ∧ exec (.movhi x d imm) s
        = goesOn s x k (k.ctx.wg d ((imm.zeroExtend 64 <<< 32) ||| (k.ctx.rg d &&& 0xFFFFFFFF)))
    ∧ exec (.addi x d a imm) s = goesOn s x k (k.ctx.wg d (k.ctx.rg a + imm.signExtend 64))
    ∧ exec (.muli x d a imm) s = goesOn s x k (k.ctx.wg d (k.ctx.rg a * imm.signExtend 64))
    ∧ exec (.andi x d a imm) s = goesOn s x k (k.ctx.wg d (k.ctx.rg a &&& imm.zeroExtend 64))
    ∧ exec (.ori x d a imm) s = goesOn s x k (k.ctx.wg d (k.ctx.rg a ||| imm.zeroExtend 64))
    ∧ exec (.xori x d a imm) s = goesOn s x k (k.ctx.wg d (k.ctx.rg a ^^^ imm.zeroExtend 64))
    ∧ (imm.toNat < 64 → exec (.shli x d a imm) s = goesOn s x k (k.ctx.wg d (k.ctx.rg a <<< n)))
    ∧ (imm.toNat < 64 → exec (.shri x d a imm) s = goesOn s x k (k.ctx.wg d (k.ctx.rg a >>> n)))
    ∧ (imm.toNat < 64 → exec (.srai x d a imm) s = goesOn s x k (k.ctx.wg d ((k.ctx.rg a).sshiftRight' n)))
    ∧ (64 ≤ imm.toNat → exec (.shli x d a imm) s = .next (s.squash x.part x.num .accessViolation true)
        ∧ exec (.shri x d a imm) s = .next (s.squash x.part x.num .accessViolation true)
        ∧ exec (.srai x d a imm) s = .next (s.squash x.part x.num .accessViolation true))
    ∧ exec (.cmpeqi x fd a imm) s = goesOn s x k (k.ctx.wf fd (decide (u = w)))
    ∧ exec (.cmpnei x fd a imm) s = goesOn s x k (k.ctx.wf fd (decide (u ≠ w)))
    ∧ exec (.cmplti x fd a imm) s = goesOn s x k (k.ctx.wf fd (decide (u.toInt < w.toInt)))
    ∧ exec (.cmpltui x fd a imm) s = goesOn s x k (k.ctx.wf fd (decide (u.toNat < w.toNat)))
    ∧ exec (.cmplei x fd a imm) s = goesOn s x k (k.ctx.wf fd (decide (u.toInt ≤ w.toInt)))
    ∧ exec (.cmpleui x fd a imm) s = goesOn s x k (k.ctx.wf fd (decide (u.toNat ≤ w.toNat)))

/-- R365: g0 reads zero, f0 reads true, writes to them are discarded, and a register written is read back. -/
def Obligations.RegisterFiles : Prop :=
  ∀ (c : Ctx),
    (∀ (r w : GReg) (v : Word), c.rg 0 = 0 ∧ c.wg 0 v = c
      ∧ (c.wg r v).rg w = if w = 0 then 0 else if w = r then v else c.rg w)
    ∧ (∀ (r w : FReg) (v : Bool), c.rf 0 = true ∧ c.wf 0 v = c
      ∧ (c.wf r v).rf w = if w = 0 then true else if w = r then v else c.rf w)
    ∧ (∀ (r w : HReg) (v : Handle), (c.wh r v).rh w = if w = r then v else c.rh w)
    ∧ ∀ (r : GReg) (q : FReg) (h : HReg) (v : Word) (b : Bool),
        (c.wg r v).f = c.f ∧ (c.wg r v).h = c.h ∧ (c.wg r v).latch = c.latch ∧ (c.wg r v).pc = c.pc
        ∧ (c.wf q b).g = c.g ∧ (c.wf q b).h = c.h ∧ (c.wf q b).latch = c.latch ∧ (c.wf q b).pc = c.pc
        ∧ (c.wh h v).g = c.g ∧ (c.wh h v).f = c.f ∧ (c.wh h v).latch = c.latch ∧ (c.wh h v).pc = c.pc

/-- The frame of an instruction that goes on: every other step, every other object of the partition and every other part of
the device is as it was, and so is the step but for its context. -/
def Obligations.GoingOnChangesOneContext : Prop :=
  ∀ (s u : State) (x : StepRef) (k : Step) (c : Ctx), s.step? x = some k → goesOn s x k c = .next u →
    u.step? x = some { k with ctx := { c with pc := k.ctx.pc + 8 } }
    ∧ (∀ y, y ≠ x → u.step? y = s.step? y)
    ∧ (∀ p t, s.prt p = some t → ∃ t', u.prt p = some t' ∧ t' = { t with steps := t'.steps }
        ∧ t'.steps.map (·.1) = t.steps.map (·.1))
    ∧ u = { s with parts := u.parts } ∧ u.parts.map (·.1) = s.parts.map (·.1)

/-- R371: a branch goes to its address plus 8 times its signed offset when it is taken, else on; a target outside the code
section or not a multiple of 8 squashes the step. -/
def Obligations.BranchTargets : Prop :=
  ∀ (s : State) (x : StepRef) (t : Partition) (k : Step) (g : Program) (f : FReg) (c d a : GReg) (off : BitVec 40),
    Running s x t k g →
    let tgt : Int := k.ctx.pc + 8 * off.toInt
    let link := BitVec.ofNat 64 (k.ctx.pc + 8)
    (0 ≤ tgt ∧ tgt < 8 * g.code.length →
      exec (.br x off) s = goesTo s x k.ctx tgt.toNat
      ∧ exec (.call x c off) s = goesTo s x (k.ctx.wg c link) tgt.toNat
      ∧ (k.ctx.rf f = true → exec (.brt x f off) s = goesTo s x k.ctx tgt.toNat)
      ∧ (k.ctx.rf f = false → exec (.brf x f off) s = goesTo s x k.ctx tgt.toNat)
      ∧ (k.ctx.rg c = 0 → exec (.brz x c off) s = goesTo s x k.ctx tgt.toNat)
      ∧ (k.ctx.rg c ≠ 0 → exec (.brnz x c off) s = goesTo s x k.ctx tgt.toNat))
    ∧ (k.ctx.rf f = false → exec (.brt x f off) s = goesOn s x k k.ctx)
    ∧ (k.ctx.rf f = true → exec (.brf x f off) s = goesOn s x k k.ctx)
    ∧ (k.ctx.rg c ≠ 0 → exec (.brz x c off) s = goesOn s x k k.ctx)
    ∧ (k.ctx.rg c = 0 → exec (.brnz x c off) s = goesOn s x k k.ctx)
    ∧ ((k.ctx.rg a).toNat < 8 * g.code.length ∧ (k.ctx.rg a).toNat % 8 = 0 →
        exec (.jr x d a) s = goesTo s x (k.ctx.wg d link) (k.ctx.rg a).toNat)
    ∧ (tgt < 0 ∨ 8 * g.code.length ≤ tgt →
        exec (.br x off) s = .next (s.squash x.part x.num .accessViolation true)
        ∧ exec (.call x c off) s = .next (s.squash x.part x.num .accessViolation true)
        ∧ (k.ctx.rf f = true → exec (.brt x f off) s = .next (s.squash x.part x.num .accessViolation true))
        ∧ (k.ctx.rf f = false → exec (.brf x f off) s = .next (s.squash x.part x.num .accessViolation true))
        ∧ (k.ctx.rg c = 0 → exec (.brz x c off) s = .next (s.squash x.part x.num .accessViolation true))
        ∧ (k.ctx.rg c ≠ 0 → exec (.brnz x c off) s = .next (s.squash x.part x.num .accessViolation true)))
    ∧ (8 * g.code.length ≤ (k.ctx.rg a).toNat ∨ (k.ctx.rg a).toNat % 8 ≠ 0 →
        exec (.jr x d a) s = .next (s.squash x.part x.num .accessViolation true))

/-- R372: a load of 8, 4, 2 or 1 bytes that is aligned and lies in one row of the local address map gives those bytes,
zero-extended; any other squashes the step. LDF gives a frame word. -/
def Obligations.LoadResults : Prop :=
  ∀ (s : State) (x : StepRef) (t : Partition) (k : Step) (g : Program) (d a : GReg) (imm : BitVec 32), Running s x t k g →
    let ad := (k.ctx.rg a + imm.signExtend 64).toNat
    let inRow := fun (n : Nat) => ad % n = 0 ∧ (ad + n ≤ 0x6000 ∨ (0x10000 ≤ ad ∧ ad + n ≤ 0x10000 + g.data.length))
    let squashed := Host.Outcome.next (s.squash x.part x.num .accessViolation false)
    (inRow 8 → ∃ v, HoldsBytes k g ad 8 v ∧ exec (.ld x d a imm) s = goesOn s x k (k.ctx.wg d v))
    ∧ (inRow 4 → ∃ v, HoldsBytes k g ad 4 v ∧ exec (.ldw x d a imm) s = goesOn s x k (k.ctx.wg d v))
    ∧ (inRow 2 → ∃ v, HoldsBytes k g ad 2 v ∧ exec (.ldh x d a imm) s = goesOn s x k (k.ctx.wg d v))
    ∧ (inRow 1 → ∃ v, HoldsBytes k g ad 1 v ∧ exec (.ldb x d a imm) s = goesOn s x k (k.ctx.wg d v))
    ∧ (¬ inRow 8 → exec (.ld x d a imm) s = squashed) ∧ (¬ inRow 4 → exec (.ldw x d a imm) s = squashed)
    ∧ (¬ inRow 2 → exec (.ldh x d a imm) s = squashed) ∧ (¬ inRow 1 → exec (.ldb x d a imm) s = squashed)
    ∧ (imm.toNat < g.frameWords → exec (.ldf x d imm) s = goesOn s x k (k.ctx.wg d (k.words.getD imm.toNat 0)))
    ∧ (g.frameWords ≤ imm.toNat →
        exec (.ldf x d imm) s = .next (s.squash x.part x.num .accessViolation true))

/-- R372: a store of 8, 4, 2 or 1 bytes writes exactly the bytes at ga + imm of the scratch window; outside it, or not aligned,
it squashes the step. HST stores a handle, STF a frame word. -/
def Obligations.StoreResults : Prop :=
  ∀ (s : State) (x : StepRef) (t : Partition) (k : Step) (g : Program) (d a : GReg) (h : HReg) (r : Bool) (imm : BitVec 32),
    Running s x t k g →
    let ad := (k.ctx.rg a + imm.signExtend 64).toNat
    let v := k.ctx.rg d
    let inRow := fun (n : Nat) => ad % n = 0 ∧ ad + n ≤ 0x6000
    let squashed := Host.Outcome.next (s.squash x.part x.num .accessViolation false)
    (inRow 8 → ∃ e, Stored k e g ad 8 v ∧ exec (.st x d a imm) s = .next (s.updStep x fun _ => e))
    ∧ (inRow 4 → ∃ e, Stored k e g ad 4 v ∧ exec (.stw x d a imm) s = .next (s.updStep x fun _ => e))
    ∧ (inRow 2 → ∃ e, Stored k e g ad 2 v ∧ exec (.sth x d a imm) s = .next (s.updStep x fun _ => e))
    ∧ (inRow 1 → ∃ e, Stored k e g ad 1 v ∧ exec (.stb x d a imm) s = .next (s.updStep x fun _ => e))
    ∧ (inRow 8 → ∃ e, Stored k e g ad 8 (k.ctx.rh h) ∧ exec (.hst x r h a imm) s = .next (s.updStep x fun _ => e))
    ∧ (¬ inRow 8 → exec (.st x d a imm) s = squashed ∧ exec (.hst x r h a imm) s = squashed)
    ∧ (¬ inRow 4 → exec (.stw x d a imm) s = squashed)
    ∧ (¬ inRow 2 → exec (.sth x d a imm) s = squashed) ∧ (¬ inRow 1 → exec (.stb x d a imm) s = squashed)
    ∧ (imm.toNat < g.frameWords → imm.toNat < 16 → ∃ ws : List Word,
        (∀ i, i < 16 → ws.getD i 0 = if i = imm.toNat then v else k.words.getD i 0)
        ∧ exec (.stf x d imm) s = .next (s.updStep x fun e =>
            { e with words := ws, ctx := { k.ctx with pc := k.ctx.pc + 8 } }))
    ∧ (g.frameWords ≤ imm.toNat → exec (.stf x d imm) s = .next (s.squash x.part x.num .accessViolation true))

/-- R374: the handle group. A handle that fails a check of R12 traps or, with `rec`, is recorded with null (R367). -/
def Obligations.HandleResults : Prop :=
  ∀ (s : State) (x : StepRef) (t : Partition) (k : Step) (g : Program) (d h h2 : HReg) (e a : GReg) (f : FReg) (r : Bool)
      (imm : BitVec 32), Running s x t k g →
    let passes := fun (kind : Nat) (v : Handle) => t.checkHandle x.part (some k.num) kind v = none
    let made := BitVec.ofNat 4 imm.toNat ++ BitVec.ofNat 4 x.part.val ++ (k.ctx.rg e).extractLsb' 0 56
    let ad := (k.ctx.rg a + imm.signExtend 64).toNat
    exec (.hmov x r d h) s = goesOn s x k (k.ctx.wh d (k.ctx.rh h))
    ∧ exec (.hget x r e h) s = goesOn s x k (k.ctx.wg e (k.ctx.rh h))
    ∧ exec (.hnull x r d) s = goesOn s x k (k.ctx.wh d 0)
    ∧ exec (.heq x r f h h2) s = goesOn s x k (k.ctx.wf f (decide (k.ctx.rh h = k.ctx.rh h2)))
    ∧ (imm.toNat < 16 → passes 0 made → exec (.hmake x r d e imm) s = goesOn s x k (k.ctx.wh d made))
    ∧ (imm.toNat < 16 → passes imm.toNat (k.ctx.rh h) → exec (.hchk x r f h imm) s = goesOn s x k (k.ctx.wf f true))
    ∧ (imm.toNat < 16 → ¬ passes imm.toNat (k.ctx.rh h) → exec (.hchk x r f h imm) s = goesOn s x k (k.ctx.wf f false))
    ∧ (∀ v, ad % 8 = 0 → ad + 8 ≤ 0x6000 → HoldsBytes k g ad 8 v → passes 0 v →
        exec (.hld x r d a imm) s = goesOn s x k (k.ctx.wh d v))
    ∧ (passes 0 (k.ctx.rh h) → k.ctx.rh h ≠ 0 →
        exec (.hloads x r d h 0) s = goesOn s x k (k.ctx.wh d (k.ctx.rh h)))
    ∧ (∀ st, t.checkHandle x.part (some k.num) 0 made = some st → imm.toNat < 16 →
        exec (.hmake x true d e imm) s
          = .next ((s.handleEvent x.part 0 made).updStep x fun e' =>
              { e' with ctx := { (k.ctx.wh d 0).wf 7 true with latch := st.code, pc := k.ctx.pc + 8 } })
        ∧ exec (.hmake x false d e imm) s = .next ((s.handleEvent x.part 0 made).squash x.part x.num st))


/-- R375: PTLEN gives the committed length and `rc_pending` of a sequence as the step's log leaves them, PTGET the entry of a
block, PGINFO the word of Table 16-11; none of them changes anything but the registers. -/
def Obligations.PageTableReads : Prop :=
  ∀ (s : State) (x : StepRef) (t : Partition) (k : Step) (g : Program) (h d : HReg) (a b : GReg) (r : Bool),
    Running s x t k g →
    let hs := k.ctx.rh h
    let seq := hIndex hs
    let n := (k.ctx.rg a).toNat
    (Passes t x k kSequence hs → Fresh k [hs] →
      (∀ sq, k.log = [] → t.sequences.find seq = some sq → exec (.ptlen x r h a b) s
        = goesOn s x k ((k.ctx.wg a (BitVec.ofNat 64 sq.committed)).wg b (BitVec.ofNat 64 sq.rc)))
      ∧ (∀ l len rc, k.log = l ++ [.setLen seq len rc] → exec (.ptlen x r h a b) s
        = goesOn s x k ((k.ctx.wg a (BitVec.ofNat 64 len)).wg b (BitVec.ofNat 64 rc))))
    ∧ (Passes t x k kSequence hs → Fresh k [hs, k.ctx.rg a] →
      (t.blocksOf k seq ≤ n → exec (.ptget x r d h a b) s = goesOn s x k ((k.ctx.wg b 2).wh d 0))
      ∧ (∀ e, n < t.blocksOf k seq → t.entryOf k seq n = some e → exec (.ptget x r d h a b) s
        = goesOn s x k ((k.ctx.wg b (if e = 0 then 1 else 0)).wh d e)))
    ∧ (∀ q, Passes t x k kGroup hs → Fresh k [hs] → t.groups.find seq = some q → ∃ w : Word,
      exec (.pginfo x r h a b) s = goesOn s x k ((k.ctx.wg a w).wg b (BitVec.ofNat 64 (t.age q)))
      ∧ w.extractLsb' 0 4 = BitVec.ofNat 4 q.tier.code ∧ w.extractLsb' 14 2 = BitVec.ofNat 2 q.quad
      ∧ w.extractLsb' 16 16 = BitVec.ofNat 16 q.refcount ∧ w.extractLsb' 32 7 = BitVec.ofNat 7 q.filled
      ∧ w.getLsbD 10 = q.ppin ∧ w.getLsbD 11 = q.copyOut ∧ w.extractLsb' 40 16 = BitVec.ofNat 16 (min q.pins 0xFFFF))

/-- R375: a walk over blocks that are homed in T0 pins and touches each group and counts none; PGPROMOTE does the same for one
group; a block that is dropped ends the walk with RECOMPUTE_REQUIRED. PGDEMOTE enters the update log. -/
def Obligations.WalkResults : Prop :=
  ∀ (s : State) (x : StepRef) (t : Partition) (k : Step) (g : Program) (h : HReg) (a b : GReg) (r tgt : Bool),
    Running s x t k g → k.num = x.num →
    let hs := k.ctx.rh h
    let seq := hIndex hs
    let lo := (k.ctx.rg a).toNat
    let hi := min (lo + (k.ctx.rg b).toNat) (t.blocksOf k seq)
    (Passes t x k kSequence hs → Fresh k [hs, k.ctx.rg a, k.ctx.rg b] →
      (∀ n, lo ≤ n → n < hi → ∃ e, HomeBlock t k seq n e) →
      ∃ u e, exec (.walk x r h a b) s = .next u ∧ Stands u x k e (k.ctx.wg b 0)
        ∧ ∀ n v, lo ≤ n → n < hi → HomeBlock t k seq n v →
          hIndex v ∈ e.pins ∧ ∃ q, u.group? x.part (hIndex v) = some q ∧ q.touch = t.epoch .t0)
    ∧ (Passes t x k kSequence hs → Fresh k [hs, k.ctx.rg a, k.ctx.rg b] → lo < hi → t.entryOf k seq lo = some 0 →
      exec (.walk x r h a b) s = refused s x k r .recomputeRequired ((k.ctx.wg a (BitVec.ofNat 64 lo)).wg b 0))
    ∧ (∀ q, Passes t x k kGroup hs → Fresh k [hs] → t.groups.find seq = some q → q.tier = .t0 → q.move = .idle →
      ∃ u e, exec (.pgpromote x r h) s = .next u ∧ Stands u x k e k.ctx ∧ seq ∈ e.pins
        ∧ u.group? x.part seq = some { q with touch := t.epoch .t0, pins := q.pins + if seq ∈ k.pins then 0 else 1 })
    ∧ (Passes t x k kGroup hs → Fresh k [hs] →
      exec (.pgdemote x r h a tgt) s = goesLogging s x k (k.ctx.wg a 1) [.demote seq tgt])

/-- R376, Table 16-12: WALKEMIT of a layer whose blocks are all homed in T0 emits its descriptors, notes the layer, and goes
on; mode 3 emits one for each block with a group and each head. A mode from 4 on is no encoding of Table 16-12. -/
def Obligations.WalkemitResults : Prop :=
  ∀ (s : State) (x : StepRef) (t : Partition) (k : Step) (g : Program) (h : HReg) (a b : GReg) (r : Bool) (mode : Fin 8)
      (sq : Sequence) (ss : Session) (m : ModelDesc) (ds0 : List Desc),
    Running s x t k g → k.num = x.num →
    let hs := k.ctx.rh h
    let seq := hIndex hs
    let layer := (k.ctx.rg a).toNat
    (Passes t x k kSequence hs → Fresh k [hs, k.ctx.rg a] →
      t.seqOf k seq = some sq → t.sessOf k (hIndex sq.sess) = some ss → t.model? ss.model = some m → layer < m.layers →
      mode.val < 4 → (iss s x t k g).emission m seq layer mode.val (k.ctx.rg b) = .ok ds0 →
      (∀ n, n < t.blocksOf k seq → ∃ e, HomeBlock t k seq n e) →
      ∃ u e ds, exec (.walkemit x r h a b mode) s = .next u ∧ Stands u x k e k.ctx ∧ layer ∈ e.emitted
        ∧ e.descs = k.descs ++ ds ∧ (∀ q ∈ ds, q.layer = layer ∧ q.lane = k.lane ∧ q.frameId = k.frame)
        ∧ (mode.val = 3 → ds.length = m.kvHeads * t.blocksOf k seq ∧ ∀ q ∈ ds, q.op = 5))
    ∧ (4 ≤ mode.val → exec (.walkemit x r h a b mode) s = .next (s.squash x.part x.num .accessViolation true))

/-- R375, 06 R126, R138: APPEND into a block that the step has opened records its rows; a lane's it writes there, a row's it hands to
one write descriptor for each head. PTFORK of a sequence that no other step has open logs the fork and leaves the source open in the
step (05 R103, 03 R66). -/
def Obligations.AppendAndFork : Prop :=
  ∀ (s : State) (x : StepRef) (t : Partition) (k : Step) (g : Program) (h d : HReg) (a : GReg) (r : Bool) (sq dq : Sequence)
      (ss : Session) (m : ModelDesc) (b : BufMsg) (pos cnt fmt : Nat) (pl : Nat → Bool → Nat → Nat) (v : Handle) (q : Group),
    Running s x t k g → k.num = x.num →
    let hs := k.ctx.rh h
    let hd := k.ctx.rh d
    let seq := hIndex hs
    (Passes t x k kSequence hs → t.sequences.find seq = some sq → t.sessions.find (hIndex sq.sess) = some ss →
      t.model? ss.model = some m → 0 < m.kvHeads → k.tokenMsg (k.ctx.rg a) = some b →
      t.newRows k m b = some (pos, cnt, pl, fmt) → k.seq = some seq → k.appended = none → 0 < cnt →
      pos % 64 + cnt ≤ 64 → pos + cnt ≤ t.limit sq → t.entryOf k seq (pos / 64) = some v → v ≠ 0 →
      t.groups.find (hIndex v) = some q → q.openedBy = some x.num → (b.mtype ≠ mtPrefillRow → s.resident x.part (hIndex v) = true) →
      ∃ u e, exec (.append x r h a) s = .next u ∧ Stands u x k e k.ctx ∧ e.appended = some (pos, cnt) ∧ e.nNew = cnt
        ∧ b.layer ∈ e.appLayers ∧ u.seq? x.part seq = some { sq with prov := cnt }
        ∧ ∃ q', u.group? x.part (hIndex v) = some q' ∧ q'.filled = q.filled
          ∧ (b.mtype ≠ mtPrefillRow → q'.rows = max q.rows (pos % 64 + cnt) ∧ e.descs = k.descs)
          ∧ (b.mtype = mtPrefillRow → q' = q ∧ ∃ ds, e.descs = k.descs ++ ds ∧ ds.length = m.kvHeads
            ∧ ∀ w ∈ ds, w.op = 4 ∧ w.block = pos / 64 ∧ w.rows = cnt ∧ w.layer = b.layer ∧ w.st = .held))
    ∧ (Passes t x k kSequence hs → Passes t x k kSequence hd → Fresh k [hd, hs] → k.log = [] →
      t.sequences.find seq = some sq → t.sequences.find (hIndex hd) = some dq → dq.sess = sq.sess → dq.st = .idle →
      dq.committed = 0 → dq.table = [] → (∀ n, sq.openStep = some n → n = x.num) →
      (∀ n e, t.entryOf k seq n = some e → t.refFull e = false) →
      ∃ u e, exec (.ptfork x r d h) s = .next u ∧ Stands u x k e k.ctx ∧ e.log = [.fork (hIndex hd) seq]
        ∧ u.seq? x.part seq = some { sq with openStep := some x.num })

/-- R377, R378, 05 R111, R112: a match stops at the first block that the prefix store lacks; a lookup of a node whose group is homed in T0
gives it, one that finds none gives null; a
key of a committed block is stored. A session without a domain finds nothing. -/
def Obligations.PrefixResults : Prop :=
  ∀ (s s' : State) (x : StepRef) (t t' : Partition) (k : Step) (g : Program) (h d : HReg) (a b : GReg) (r : Bool)
      (sq : Sequence) (ss : Session) (m : ModelDesc) (l : Live), Running s x t k g →
    let hs := k.ctx.rh h
    let ix := hIndex hs
    let ad := (k.ctx.rg a).toNat
    let zero := (k.ctx.wg b 0).wh d 0
    let key := BitVec.ofNat 128 (leNat (k.peek g.data ad 16))
    (Passes t x k kSequence hs → t.sequences.find ix = some sq → t.sessions.find (hIndex sq.sess) = some ss →
      t.model? ss.model = some m → k.idx = 0 → k.kind = 0 → t.liveOf k.q k.cid = some l → l.req.isSome → sq.committed = 0 →
      sq.table = [] →
      (ss.domain = 0 → exec (.pxmatch x r h a b) s = goesOn s x k (k.ctx.wg b 0))
      ∧ (s.domMember x.part ss.domain = true → Fresh k [hs, k.ctx.rg a] → ss.domain ≠ 0 → s.isEt ss.domain = false →
        ad ≤ 64 → exec (.pxmatch x r h a b) s = goesLogging s x k (k.ctx.wg b 0) [.setLen ix 0 sq.rc]))
    ∧ (Passes t x k kSession hs → ad % 8 = 0 → ad + 16 ≤ 0x6000 → t.sessOf k ix = some ss → t.model? ss.model = some m →
      (ss.domain = 0 → exec (.pxlook x r d h a b) s = goesOn s x k zero)
      ∧ (ss.domain ≠ 0 → s.domMember x.part ss.domain = true → s.isEt ss.domain = false → Fresh k [hs, k.ctx.rg a] →
        s.lookup x.part ss.domain m.modelId key = (s', none) →
        exec (.pxlook x r d h a b) s = .next (s'.updStep x fun e => { e with ctx := { zero with pc := k.ctx.pc + 8 } }))
      ∧ (∀ n nd, ss.domain ≠ 0 → s.domMember x.part ss.domain = true → s.isEt ss.domain = false →
        Fresh k [hs, k.ctx.rg a] → s.lookup x.part ss.domain m.modelId key = (s', some (x.part, n)) →
        s'.prt x.part = some t' → t'.nodes.find n = some nd → s'.step? x = some k →
        (∀ q, t'.groups.find (hIndex nd.group) = some q → q.tier = .t0 ∧ q.move = .idle) →
        ∃ u e, exec (.pxlook x r d h a b) s = .next u
          ∧ Stands u x k e ((k.ctx.wg b 1).wh d (t'.nodeOf key ss.domain m.modelId))))
    ∧ (∀ kk, Passes t x k kSequence hs → ad < (t.lenOf k ix).1 / 64 → k.log = [] → t.sequences.find ix = some sq →
      t.sessions.find (hIndex sq.sess) = some ss → sq.keys.find ad = some kk → (k.ctx.rg b).toNat % 8 = 0 →
      (k.ctx.rg b).toNat + 16 ≤ 0x6000 →
      ∃ e, Stored k e g (k.ctx.rg b).toNat 16 kk ∧ exec (.pxkey x r h a b) s = .next (s.updStep x fun _ => e))

/-- 05 R97, R98, R377: DOMCREATE reserves the lowest free number of the partition with a drawn key, DOMCLOSE excludes an
active domain of the partition that no session names; both act at the commit, and both are for privileged queues. -/
def Obligations.DomainResults : Prop :=
  ∀ (s : State) (x : StepRef) (t : Partition) (k : Step) (g : Program) (a : GReg) (r : Bool), Running s x t k g →
    let base := 32768 + 1024 * x.part.val
    let id := BitVec.ofNat 16 (k.ctx.rg a).toNat
    (∀ n, t.privQ (k.q % 64) = true → base ≤ n → n < base + 1024 → s.domains.find n = none →
      (∀ j, base ≤ j → j < n → s.domains.find j ≠ none) →
      ∃ u e c, exec (.domcreate x r a) s = .next u ∧ Stands u x k e (k.ctx.wg a (BitVec.ofNat 64 n))
        ∧ e.log = k.log ++ [.domActive (BitVec.ofNat 16 n)] ∧ u.domains.find n = some c ∧ c.st = .free
        ∧ c.members = BitVec.ofNat 16 (2 ^ x.part.val) ∧ c.reserved = some x.num ∧ c.cross = false
        ∧ c.equalTime = false ∧ ∀ j, j ≠ n → u.domains.find j = s.domains.find j)
    ∧ (∀ c, t.privQ (k.q % 64) = true → (k.ctx.rg a).toNat < 65536 → domOwner id = x.part.val → s.domain? id = some c →
      c.st = .active → c.cross = false → c.excluded = none → s.domNamed id = false →
      ∃ u e, exec (.domclose x r a) s = .next u ∧ Stands u x k e k.ctx ∧ e.log = k.log ++ [.domClose id]
        ∧ u.domains.find id.toNat = some { c with excluded := some x.num }
        ∧ ∀ j, j ≠ id.toNat → u.domains.find j = s.domains.find j)
    ∧ (t.privQ (k.q % 64) = false →
      exec (.domcreate x r a) s = refused s x k r .accessViolation (k.ctx.wg a 0)
      ∧ exec (.domclose x r a) s = refused s x k r .accessViolation k.ctx)

/-- R384 to R386: MVCOPY stages a copy under the next ticket, MVTIER of a demotion logs it, MVWAIT gives true for a ticket that
ended well and MVSTAT the word of a ticket. -/
def Obligations.MoveResults : Prop :=
  ∀ (s : State) (x : StepRef) (t : Partition) (k : Step) (g : Program) (h d : HReg) (a b : GReg) (f : FReg) (r bulk : Bool)
      (tgt : Fin 4), Running s x t k g →
    let hs := k.ctx.rh h
    let hd := k.ctx.rh d
    let ad := (k.ctx.rg a).toNat
    let blk := k.peek g.data ad 24
    let so := fld blk 0 8
    let dof := fld blk 8 8
    let n := fld blk 16 8
    let tk := k.moves.length + 1
    (∀ rd rs, Passes t x k kRegion hd → Passes t x k kRegion hs → ad % 8 = 0 → ad + 24 ≤ 0x6000 →
      Fresh k [hd, hs, k.ctx.rg a, BitVec.ofNat 64 so, BitVec.ofNat 64 dof, BitVec.ofNat 64 n] →
      t.regions.find (hIndex hd) = some rd → t.regions.find (hIndex hs) = some rs → rs.binding = none → rs.st ≠ .unbindable →
      0 < n → n ≤ 67108864 → so + n ≤ rs.size → dof + n ≤ rd.size → rd.device = true → rd.st = .uploading →
      k.staged + roundUp n 4096 ≤ 268435456 →
      ∃ u e m, exec (.mvcopy x r d h a b bulk) s = .next u ∧ Stands u x k e (k.ctx.wg b (BitVec.ofNat 64 tk))
        ∧ e.log = k.log ++ [.staged tk] ∧ e.moves.find tk = some m ∧ m.done = false ∧ m.bytes = n ∧ m.left = n
        ∧ m.dst = hIndex hd ∧ m.dstOff = dof ∧ m.data = k.view (hIndex hs) rs so n
        ∧ m.status = (if rs.poisoned so n then .poisonConsumed else .ok)
        ∧ ∀ i q, u.region? x.part i = some q → s.region? x.part i = some q)
    ∧ (∀ rg, Passes t x k kRegion hs → Fresh k [hs, k.ctx.rg a] → t.regions.find (hIndex hs) = some rg → rg.device = true →
      bitsOf ad 31 0 + bitsOf ad 63 32 ≤ (rg.size + chunkBytes - 1) / chunkBytes → (tgt = 1 ∨ tgt = 2 ∧ s.flashRO = false) →
      ∃ u e m, exec (.mvtier x r h a b tgt) s = .next u ∧ Stands u x k e (k.ctx.wg b (BitVec.ofNat 64 tk))
        ∧ e.log = k.log ++ [.tierDown (hIndex hs) (bitsOf ad 31 0) (bitsOf ad 63 32) (tgt == 2)]
        ∧ e.moves.find tk = some m ∧ m.done = true ∧ m.status = .ok)
    ∧ (∀ m, k.moves.find ad = some m → m.done = true → m.status = .ok →
      exec (.mvwait x r f a) s = goesOn s x k (k.ctx.wf f true))
    ∧ (∀ m, k.moves.find ad = some m → m.done = true → m.status ≠ .ok →
      exec (.mvwait x r f a) s = refused s x k r m.status (k.ctx.wf f false))
    ∧ (∀ m, k.moves.find ad = some m → Fresh k [k.ctx.rg a] → ∃ w : Word,
      exec (.mvstat x r b a) s = goesOn s x k (k.ctx.wg b w) ∧ w.getLsbD 8 = m.done
        ∧ w.extractLsb' 0 8 = (if m.done then m.status.code else 0) ∧ w.extractLsb' 16 48 = BitVec.ofNat 48 (m.bytes - m.left))

/-- R387 to R389, Table 17-7: a wait whose message or engine work is there goes on with it; one whose message is not there yet
leaves the step waiting; STEPINFO gives the values of Table 17-7. -/
def Obligations.WaitAndInfoResults : Prop :=
  ∀ (s : State) (x : StepRef) (t : Partition) (k : Step) (g : Program) (h : HReg) (a b : GReg) (f : FReg) (r : Bool)
      (w : Wave) (l : Lane) (m : ModelDesc), Running s x t k g →
    let hs := k.ctx.rh h
    let layer := (k.ctx.rg a).toNat
    let slot := k.msgs.length
    (∀ q e, Passes t x k kQueue hs → hIndex hs = k.q % 64 → t.qps.find (k.ctx.rg b).toNat = some q →
      q.inbox.find? (fun m => m.takenBy.isNone) = some e →
      ∃ u e', exec (.waitmsg x r h a b false true) s = .next u
        ∧ Stands u x k e' (k.ctx.wg a (BitVec.ofNat 64 (0xFFFF * 2 ^ 40 + slot)))
        ∧ ∃ c, e'.msgs.find slot = some c ∧ c.body = e.bytes ∧ c.qp = some (k.ctx.rg b).toNat)
    ∧ (∀ q, Passes t x k kQueue hs → hIndex hs = k.q % 64 → t.qps.find (k.ctx.rg b).toNat = some q →
      q.inbox.all (fun m => m.takenBy.isSome) = true →
      ∃ u e, exec (.waitmsg x r h a b false true) s = .next u ∧ u.step? x = some e
        ∧ e.st = .waiting (.msg none (some (k.ctx.rg b).toNat)) ∧ e.ctx = k.ctx)
    ∧ (Passes t x k kQueue hs → hIndex hs = k.q % 64 → t.waveOf k = some w → w.lanes[k.lane]? = some l → k.kind = 2 →
      b = 0 →
      (∀ c, w.msgs.find (logitsKey k.lane) = some c →
        ∃ u e, exec (.waitmsg x r h a b true false) s = .next u
          ∧ Stands u x k e (k.ctx.wg a (mkToken c.mtype c.layer c.lane slot)) ∧ e.msgs = k.msgs.put slot c)
      ∧ (w.msgs.find (logitsKey k.lane) = none → ∃ u e, exec (.waitmsg x r h a b true false) s = .next u
        ∧ u.step? x = some e ∧ e.st = .waiting (.msg none none) ∧ e.ctx = k.ctx))
    ∧ (layer ∈ k.emitted → layer ∈ k.merged → k.ctx.rg a ≠ BitVec.allOnes 64 →
      exec (.waiteng x r f a) s = goesOn s x k (k.ctx.wf f (decide (∀ e ∈ k.fails, e.1 ≠ layer))))
    ∧ (t.waveOf k = some w → w.lanes[k.lane]? = some l → t.stepModel k = some m →
      exec (.stepinfo x r b 0) s = goesOn s x k (k.ctx.wg b (BitVec.ofNat 64 k.batch))
      ∧ exec (.stepinfo x r b 1) s = goesOn s x k (k.ctx.wg b (BitVec.ofNat 64 k.lane))
      ∧ exec (.stepinfo x r b 2) s = goesOn s x k (k.ctx.wg b (BitVec.ofNat 64 l.hgSeq))
      ∧ exec (.stepinfo x r b 3) s = goesOn s x k (k.ctx.wg b (BitVec.ofNat 64 l.pos))
      ∧ (k.kind = 1 → exec (.stepinfo x r b 4) s = goesOn s x k (k.ctx.wg b (BitVec.ofNat 64 l.ntok)))
      ∧ (k.kind = 2 → exec (.stepinfo x r b 5) s = goesOn s x k (k.ctx.wg b (BitVec.ofNat 64 l.maxDraft)))
      ∧ exec (.stepinfo x r b 6) s = goesOn s x k (k.ctx.wg b (m.modelId.zeroExtend 64))
      ∧ exec (.stepinfo x r b 7) s = goesOn s x k (k.ctx.wg b (BitVec.ofNat 64 k.num))
      ∧ exec (.stepinfo x r b 8) s = goesOn s x k (k.ctx.wg b (BitVec.ofNat 64 t.clock))
      ∧ exec (.stepinfo x r b 9) s = goesOn s x k (k.ctx.wg b (BitVec.ofNat 64 m.hgRank))
      ∧ ∀ imm : BitVec 32, 11 ≤ imm.toNat → exec (.stepinfo x r b imm) s = refused s x k r .accessViolation (k.ctx.wg b 0))

/-- R383, R391: what the creating instructions log, and the handles they give: sessions and sequences in the lowest slots that
may be taken, models in the next generation of their slot. -/
def Obligations.CreationResults : Prop :=
  ∀ (s : State) (x : StepRef) (t : Partition) (k : Step) (g : Program) (h d : HReg) (a b : GReg) (r : Bool) (n gen : Nat)
      (ss : Session) (m : ModelDesc), Running s x t k g →
    let hs := k.ctx.rh h
    let ad := (k.ctx.rg a).toNat
    let blk := k.peek g.data ad 40
    let reg := fun j => (BitVec.ofNat 64 (fld blk (0x10 + 8 * j) 8) : Handle)
    let hg := bitsOf ad 31 0
    let img := k.peek g.data ad 64
    let id := BitVec.ofNat 16 (gen * 256 + fld img 0 1)
    (t.privQ (k.q % 64) = true → ad % 8 = 0 → ad + 40 ≤ 0x6000 → (iss s x t k g).localFieldsOk blk = true →
      fld blk 0xA 6 = 0 →
      (∀ j, j < 3 → Passes t x k kRegion (reg j) ∧ t.regionNamed (reg j) = false
        ∧ ∃ q, t.regionOf k (hIndex (reg j)) = some q ∧ q.cls = 1) →
      reg 0 ≠ reg 1 → reg 0 ≠ reg 2 → reg 1 ≠ reg 2 →
      t.sessions.length + (t.resv.filter fun e => e.1 / 2 ^ 48 == kSession).length < t.quota →
      LowestSlot t x.part kSession n →
      ∃ (u : State) (e : Step) (c : Session), exec (.screate x r h a) s = .next u ∧ Stands u x k e (k.ctx.wh h (t.handleOf x.part kSession n))
        ∧ e.log = k.log ++ [.sessCreate n c] ∧ c.h = t.handleOf x.part kSession n ∧ c.st = .opened ∧ c.seqs = []
        ∧ c.committedTokens = 0 ∧ c.tenant = fld blk 0 2 ∧ c.domain = BitVec.ofNat 16 (fld blk 2 2)
        ∧ c.model = BitVec.ofNat 16 (fld blk 4 2) ∧ c.history = reg 0 ∧ c.sampler = reg 1 ∧ c.scratch = reg 2
        ∧ ∃ t', u.prt x.part = some t' ∧ t'.resv.find (slotKey kSession n) = some x.num ∧ t'.sessions = t.sessions)
    ∧ (Passes t x k kSession hs → k.closed (hIndex hs) = false → t.sessions.find (hIndex hs) = some ss → hg = 0 →
      (ss.seqs.filter (· ≠ 0)).length < 4 → (∀ y ∈ t.steps, y.2.log = []) → LowestSlot t x.part kSequence n →
      ∃ (u : State) (e : Step) (c : Sequence), exec (.sseq x r d h a) s = .next u ∧ Stands u x k e (k.ctx.wh d (t.handleOf x.part kSequence n))
        ∧ e.log = k.log ++ [.seqCreate n c] ∧ c.h = t.handleOf x.part kSequence n ∧ c.sess = hs ∧ c.st = .idle
        ∧ c.committed = 0 ∧ c.table = [] ∧ c.rc = 0
        ∧ ∃ t', u.prt x.part = some t' ∧ t'.resv.find (slotKey kSequence n) = some x.num
          ∧ t'.sequences = t.sequences)
    ∧ (t.privQ (k.q % 64) = true → ad % 8 = 0 → ad + 64 ≤ 0x6000 → modelImage img 0 = some m →
      (∀ e ∈ t.sessions, e.2.model.toNat % 256 ≠ fld img 0 1) → t.modelGen (fld img 0 1) = some gen →
      exec (.modload x r b a) s
        = goesLogging s x k (k.ctx.wg b (id.zeroExtend 64)) [.model (fld img 0 1) { m with modelId := id }])
    ∧ (t.privQ (k.q % 64) = false → exec (.screate x r h a) s = refused s x k r .accessViolation (k.ctx.wh h 0)
      ∧ exec (.modload x r b a) s = refused s x k r .accessViolation (k.ctx.wg b 0))

/-- R391, R382: what the session instructions log at their issue; SREVIVE, SMIGOUT and SMIGIN are deferred. -/
def Obligations.SessionChanges : Prop :=
  ∀ (s : State) (x : StepRef) (t : Partition) (k : Step) (g : Program) (h : HReg) (a : GReg) (r : Bool) (ss : Session)
      (sq : Sequence) (m : ModelDesc), Running s x t k g → k.log = [] →
    let hs := k.ctx.rh h
    let ix := hIndex hs
    let v := (k.ctx.rg a).toNat
    let g7 := (k.ctx.rg 7).toNat
    let b16 := k.peek g.data v 16
    let b32 := k.peek g.data v 32
    let rh := (BitVec.ofNat 64 (fld b32 8 8) : Handle)
    (Passes t x k kSession hs → t.sessions.find ix = some ss →
      (ss.st ≠ .migrating → g7 < 16 → g7 % 4 < 2 → bitsOf g7 3 2 ≠ 3 → (k.ctx.rg 6 ≠ 0 → g7 % 4 = 1) →
        exec (.spark x r h) s = goesLogging s x k k.ctx
          [.park ix ⟨g7 % 4, bitsOf g7 3 2, 0, (k.ctx.rg 5).toNat, (k.ctx.rg 6).toNat, x.num⟩])
      ∧ (ss.st = .parked ∨ ss.st = .reviving → MayDefer t k →
        exec (.srevive x r h a) s = goesDeferring s x k (.revival ix) (.revive ix (v % 16)))
      ∧ (ss.st ≠ .migrating → v % 4 ≠ 3 → (v % 4 = 1 → bitsOf v 31 16 ≠ 0) →
        exec (.sdur x r h a) s = goesLogging s x k k.ctx [.durability ix (v % 4) (bitsOf v 31 16)])
      ∧ exec (.sclose x r h) s = goesLogging s x k k.ctx [.close ix]
      ∧ (t.privQ (k.q % 64) = true → v % 8 = 0 → v + 16 ≤ 0x6000 → ss.st = .opened ∨ ss.st = .parked → MayDefer t k →
        t.reqsOf ix = [] → fld b16 2 1 ≤ 2 → fld b16 3 5 = 0 → t.qps.has (fld b16 0 2) = true →
        t.model? ss.model = some m → m.hgSize ≤ 1 →
        exec (.smigout x r h a) s = goesDeferring { s with free := s.free + 1 } x k (.migOut (BitVec.ofNat 64 (fld b16 8 8)))
          (.migOut ix (fld b16 0 2) (fld b16 2 1) (BitVec.ofNat 64 (fld b16 8 8)))))
    ∧ (∀ q, t.privQ (k.q % 64) = true → v % 8 = 0 → v + 32 ≤ 0x6000 → Passes t x k kRegion rh → MayDefer t k →
      (iss s x t k g).localFieldsOk ((b32.drop 16).take 10) = true → fld b32 0x1A 6 = 0 →
      t.regions.find (hIndex rh) = some q → q.st = .uploading → t.migrations.find (fld b32 0 8) = none →
      exec (.smigin x r a) s = goesDeferring s x k (.migIn (BitVec.ofNat 64 (fld b32 0 8)))
        (.migIn (BitVec.ofNat 64 (fld b32 0 8)) (hIndex rh) ((b32.drop 16).take 10)))
    ∧ (Passes t x k kSequence hs → t.sequences.find ix = some sq →
      exec (.sqfree x r h) s = goesLogging s x k k.ctx [.seqFree ix])

/-- R391: SINFO gives the state word of a session and its committed tokens, TENGET stores a tenant's record, TENSET and VARSET
log an image that satisfies their rules; the writers are for privileged queues. -/
def Obligations.RecordsOfTenantsAndVariants : Prop :=
  ∀ (s : State) (x : StepRef) (t : Partition) (k : Step) (g : Program) (h : HReg) (a b : GReg) (r : Bool) (ss : Session)
      (tn : Tenant), Running s x t k g → k.log = [] →
    let hs := k.ctx.rh h
    let aa := (k.ctx.rg a).toNat
    let bb := (k.ctx.rg b).toNat
    let img := k.peek g.data bb 48
    let ent := k.peek g.data aa 32
    (Passes t x k kSession hs → t.sessions.find (hIndex hs) = some ss → ∃ w : Word,
      exec (.sinfo x r h a b) s = goesOn s x k ((k.ctx.wg a w).wg b (BitVec.ofNat 64 ss.committedTokens))
      ∧ (ss.parkReason < 4 → ss.durClass < 4 → ss.priority < 8 → ss.durN < 65536 →
        w.extractLsb' 0 3 = BitVec.ofNat 3 ss.st.code ∧ w.extractLsb' 3 2 = BitVec.ofNat 2 ss.parkReason
        ∧ w.extractLsb' 5 2 = BitVec.ofNat 2 ss.durClass ∧ w.getLsbD 7 = ss.preemptible
        ∧ w.extractLsb' 8 3 = BitVec.ofNat 3 ss.priority ∧ w.extractLsb' 16 16 = BitVec.ofNat 16 ss.durN))
    ∧ (t.tenants.find aa = some tn → bb % 8 = 0 → bb + 48 ≤ 0x6000 →
      ∃ e : Step, (∀ i, i < 48 → e.byteAt g.data (bb + i) = tn.image.getD i 0)
        ∧ (∀ i, i < bb ∨ bb + 48 ≤ i → e.byteAt g.data i = k.byteAt g.data i)
        ∧ e = { k with scratch := e.scratch, ctx := { k.ctx with pc := k.ctx.pc + 8 } }
        ∧ exec (.tenget x r a b) s = .next (s.updStep x fun _ => e))
    ∧ (t.privQ (k.q % 64) = true → bb % 8 = 0 → bb + 48 ≤ 0x6000 → aa ≤ 4095 → fld img 0x18 4 < 2 ^ 30 → fld img 0x1C 1 < 8 →
      fld img 0x1D 1 % 64 = 0 → fld img 0x1E 2 = 0 → fld img 0x28 1 ≤ 1 → fld img 0x29 7 = 0 →
      exec (.tenset x r a b) s = goesLogging s x k k.ctx [.tenant aa img])
    ∧ (t.privQ (k.q % 64) = true → aa % 8 = 0 → aa + 32 ≤ 0x6000 → bb < 2 ^ 22 → bb % 65536 < 1024 →
      fld ent 0x1C 1 = 0 → fld ent 0x1D 3 = 0 →
      exec (.varset x r a b) s = goesLogging s x k k.ctx [.varset (bb / 65536) (bb % 65536) ent])
    ∧ (t.privQ (k.q % 64) = false → exec (.tenset x r a b) s = refused s x k r .accessViolation k.ctx
      ∧ exec (.varset x r a b) s = refused s x k r .accessViolation k.ctx)

/-- R392, R393: SAMPLE in a follower's step emits no token (06 R133); in a lead's it stores what the rows of its LOGITS record
decide under the request's parameters; SMPRES gives the word of Table 17-10. -/
def Obligations.SamplerResults : Prop :=
  ∀ (s : State) (x : StepRef) (t : Partition) (k : Step) (g : Program) (h : HReg) (a b : GReg) (r : Bool) (rq : Req) (l : Live)
      (ln : Lane) (w : Wave) (m : ModelDesc) (sq : Sequence) (c : BufMsg) (n : Nat) (res : SampleRes),
    Running s x t k g → k.kind = 2 →
    let hs := k.ctx.rh h
    let npos := k.drafts.length + 1
    let body := c.body
    let rows := body.drop (16 + 4 * k.drafts.length)
    (Passes t x k kSession hs → k.sampled = none → hs = k.h0 → t.follows k = true →
      ∃ u e, exec (.sample x r h a b) s = .next u ∧ Stands u x k e (k.ctx.wg a 0)
        ∧ e.sampled = some ⟨[], 0, 0, 0, 0, [], 0⟩)
    ∧ (Passes t x k kSession hs → k.sampled = none → hs = k.h0 → t.follows k = false →
      k.tokenMsg (k.ctx.rg b) = some c → c.mtype = mtLogits → t.stepModel k = some m → t.liveOf k.q k.cid = some l →
      l.req = some rq → t.waveOf k = some w → w.lanes[k.lane]? = some ln → k.seq.bind t.sequences.find = some sq →
      k.appended.map (·.2) = some n → 0 < n → logitsOk m body npos ln.hgSeq ln.pos n k.drafts = true →
      rq.sampleRows (fun i => (logitRow m.vocab (fld body 2 1) (fld body 3 1) (fld body 0xC 4) rows i).1) k.drafts n ln.pos
        (t.limit sq) false n 0 ⟨[], 1, 0, 0, 0, rq.counts, 0⟩ = some res →
      ∃ u e, exec (.sample x r h a b) s = .next u ∧ e.sampled = some res
        ∧ Stands u x k e (k.ctx.wg a (BitVec.ofNat 64 (res.tokens.getLastD 0))))
    ∧ (k.sampled = none → exec (.smpres x r a) s = goesOn s x k (k.ctx.wg a 0))
    ∧ (t.follows k = false → k.sampled = some res → t.liveOf k.q k.cid = some l → l.req = some rq → res.reason < 256 →
      ∃ v : Word, exec (.smpres x r a) s = goesOn s x k (k.ctx.wg a v) ∧ v.extractLsb' 0 8 = BitVec.ofNat 8 res.tokens.length
        ∧ v.extractLsb' 8 8 = BitVec.ofNat 8 res.accepted ∧ v.extractLsb' 16 8 = BitVec.ofNat 8 res.reason
        ∧ v.extractLsb' 24 8 = BitVec.ofNat 8 res.index
        ∧ v.extractLsb' 32 32 = BitVec.ofNat 32 (rq.emitted.length + res.tokens.length))

/-- R394, R398: interim completions and program events go into the update log, up to four and sixteen a step; QINFO, CNTRD and
TSTAMP read; TRACE appends to the trace ring of 256 records; ERRINJ logs a poison bit when diagnostics are enabled. -/
def Obligations.QueueAndTestResults : Prop :=
  ∀ (s : State) (x : StepRef) (t : Partition) (k : Step) (g : Program) (h : HReg) (a b : GReg) (r half : Bool) (imm : BitVec 32),
    Running s x t k g →
    let hs := k.ctx.rh h
    let ix := hIndex hs
    (Passes t x k kQueue hs → ix = k.q → k.posts < 4 → ∃ u e, exec (.qpost x r h a b) s = .next u ∧ Stands u x k e k.ctx
      ∧ e.log = k.log ++ [.post (k.ctx.rg a) (k.ctx.rg b)] ∧ e.posts = k.posts + 1)
    ∧ (Passes t x k kQueue hs → ix ≠ k.q ∨ 4 ≤ k.posts → exec (.qpost x r h a b) s = refused s x k r .accessViolation k.ctx)
    ∧ (0x8000 ≤ imm.toNat → imm.toNat ≤ 0xFFFF → k.events < 16 → ∃ u e, exec (.qevent x r a imm) s = .next u
      ∧ Stands u x k e k.ctx ∧ e.log = k.log ++ [.event imm.toNat (k.ctx.rg a)] ∧ e.events = k.events + 1)
    ∧ (imm.toNat < 0x8000 ∨ 16 ≤ k.events → exec (.qevent x r a imm) s = refused s x k r .accessViolation k.ctx)
    ∧ (∀ q, Passes t x k kQueue hs → t.queues.find ix = some q → q.st ≠ .disabled → exec (.qinfo x r h a b) s
      = goesOn s x k ((k.ctx.wg a (BitVec.ofNat 64 (q.st.code + 4 * b2n q.priv + 65536 * 2 ^ q.depthLog))).wg b
          (BitVec.ofNat 64 (t.live.filter fun l => l.q == ix).length)))
    ∧ (∃ u e, exec (.tstamp x r a) s = .next u ∧ Stands u x k e (k.ctx.wg a (BitVec.ofNat 64 e.cycles)) ∧ k.cycles < e.cycles)
    ∧ (∃ u t' e, exec (.trace x r a imm) s = .next u ∧ Stands u x k e k.ctx ∧ u.prt x.part = some t'
      ∧ (t.trace.length < 256 → t'.trace = t.trace ++ [(k.ctx.rg a, imm, x.num % 2 ^ 32)])
      ∧ (t.trace.length = 256 → t'.trace = t.trace.drop 1 ++ [(k.ctx.rg a, imm, x.num % 2 ^ 32)]))
    ∧ (counterExists imm.toNat = true → exec (.cntrd x r a imm) s
      = goesOn s x k (k.ctx.wg a (BitVec.ofNat 64 (t.counters.getD imm.toNat 0))))
    ∧ (counterExists imm.toNat = false → exec (.cntrd x r a imm) s = refused s x k r .accessViolation (k.ctx.wg a 0))
    ∧ (∀ q, Passes t x k kGroup hs → s.diag x.part = true → t.groups.find ix = some q → (k.ctx.rg a).toNat < q.pages →
      exec (.errinj x r h a half) s = goesLogging s x k k.ctx [.poison ix (k.ctx.rg a).toNat half])
    ∧ (Passes t x k kGroup hs → s.diag x.part = false →
      exec (.errinj x r h a half) s = refused s x k r .accessViolation k.ctx)

/-- R395, R396: COMMIT ends the step's execution when its handle is h0 of the step, and is squashed with another; a step that
has to sample first is squashed too. FENCE goes on when every action of the step has ended well. SQUASH squashes with one of three
statuses, and with ACCESS_VIOLATION for every other value. -/
def Obligations.CommitFenceSquash : Prop :=
  ∀ (s : State) (x : StepRef) (t : Partition) (k : Step) (g : Program) (h : HReg) (a : GReg) (r post : Bool)
      (imm : BitVec 32), Running s x t k g →
    (k.ctx.rh h = k.h0 → (k.sampled.isSome = true ∨ k.kind = 0 ∨ k.kind = 3) → exec (.commit x r h a post) s
      = .next (s.updStep x fun e => { e with st := .committing, commitArg := some (k.ctx.rg a, post) }))
    ∧ (k.ctx.rh h ≠ k.h0 → exec (.commit x r h a post) s = .next (s.squash x.part x.num .accessViolation))
    ∧ (k.kind = 2 → k.sampled = none → exec (.commit x r h a post) s = .next (s.squash x.part x.num .accessViolation))
    ∧ ((∀ e ∈ k.moves, e.2.done = true ∧ e.2.status = .ok) → (∀ e ∈ k.descs, e.st = .done) → k.fails = [] →
      (∀ n ∈ k.pins, ∀ q, t.groups.find n = some q → q.move ≠ .promoting) →
      exec (.fence x r) s = goesOn s x k k.ctx)
    ∧ (∀ e ∈ k.moves, e.2.done = false → exec (.fence x r) s = .next (s.updStep x fun e =>
        { e with st := .waiting .fence, raDone := [], ra := some ⟨{ k.ctx with pc := k.ctx.pc + 8 }, [], [], if r then [7] else [], 0⟩ }))
    ∧ (imm.extractLsb' 0 8 = Status.aborted.code →
      exec (.squash x r imm) s = .next (s.squash x.part x.num .aborted))
    ∧ (imm.extractLsb' 0 8 = Status.noPage.code →
      exec (.squash x r imm) s = .next (s.squash x.part x.num .noPage))
    ∧ (imm.extractLsb' 0 8 = Status.recomputeRequired.code →
      exec (.squash x r imm) s = .next (s.squash x.part x.num .recomputeRequired))
    ∧ ((∀ st ∈ [Status.aborted, .noPage, .recomputeRequired], imm.extractLsb' 0 8 ≠ st.code) →
      exec (.squash x r imm) s = .next (s.squash x.part x.num .accessViolation))

/-- R397, R255: what the region instructions log at their issue, and the keys and handles that they give. -/
def Obligations.RegionResults : Prop :=
  ∀ (s : State) (x : StepRef) (t : Partition) (k : Step) (g : Program) (h : HReg) (a b : GReg) (r validate : Bool) (q : Region)
      (n : Nat), Running s x t k g → k.log = [] →
    let hs := k.ctx.rh h
    let ix := hIndex hs
    let aa := (k.ctx.rg a).toNat
    let bb := (k.ctx.rg b).toNat
    let blk := k.peek g.data aa 24
    let size := fld blk 0 8
    (aa % 8 = 0 → aa + 24 ≤ 0x6000 → 0 < size → size % 4096 = 0 → fld blk 8 1 = 1 → fld blk 9 1 < 12 → fld blk 0xA 1 = 2 →
      fld blk 0xB 1 = 0 → fld blk 0xC 2 = 0 → fld blk 0xE 2 = 0 → fld blk 0x10 8 = 0 → s.flashRO = false →
      2 * size ≤ t.freeBytes .t2 → LowestSlot t x.part kRegion n →
      ∃ u e c, exec (.rgcreate x r h a) s = .next u ∧ Stands u x k e (k.ctx.wh h (t.handleOf x.part kRegion n))
        ∧ e.log = [.regCreate n c] ∧ c.h = t.handleOf x.part kRegion n ∧ c.st = .uploading ∧ c.size = size ∧ c.cls = 1
        ∧ c.home = 2 ∧ c.registered = false ∧ c.published = false ∧ c.data = []
        ∧ ∃ t', u.prt x.part = some t' ∧ t'.resv.find (slotKey kRegion n) = some x.num ∧ t'.regions = t.regions)
    ∧ (Passes t x k kRegion hs → t.regions.find ix = some q →
      (q.st = .uploading ∨ q.st = .revoked ∨ q.st = .unbindable ∨ q.st = .valid ∧ q.published = false ∧ q.registered = false →
        t.regionNamed hs = false → t.variantNames hs = false →
        exec (.rgfree x r h) s = goesLogging s x k k.ctx [.regFree ix])
      ∧ (q.registered = false → ∃ key : BitVec 32, key.extractLsb' 24 8 = hs.extractLsb' 48 8
        ∧ key.extractLsb' 0 16 = BitVec.ofNat 16 ix
        ∧ exec (.rgreg x r h a) s
          = goesLogging { s with free := s.free + 1 } x k (k.ctx.wg a (key.zeroExtend 64)) [.regRegister ix key])
      ∧ (q.registered = true → q.st = .valid → MayDefer t k →
        exec (.rgrevoke x r h) s = goesDeferring s x k (.revoke ix) (.regRevoke ix))
      ∧ (aa + bb ≤ q.size → q.binding = none → (validate = true → q.st = .uploading ∧ q.domain = 0) →
        q.cls = 0 ∨ s.flashRO = false →
        exec (.rsync x r h a b validate) s = goesLogging s x k k.ctx [.sync ix aa bb validate])
      ∧ (q.cls = 0 → q.home = 2 → q.binding = none → aa + bb ≤ q.size →
        exec (.rgdiscard x r h a b) s = goesLogging s x k k.ctx [.discard ix aa bb])
      ∧ (MayDefer t k → q.st = .uploading → q.cls = 1 → q.domain ≠ 0 → s.crossMember x.part q.domain = true →
        exec (.rgpublish x r h a b) s = goesDeferring s x k .none (.publish ix (k.ctx.rg a) (bb % 2 ^ 32))))
    ∧ (∀ o j, let b16 := k.peek g.data aa 16
      aa % 8 = 0 → aa + 16 ≤ 0x6000 → fld b16 2 1 ≤ 1 → fld b16 3 5 = 0 →
      s.crossMember x.part (BitVec.ofNat 16 (fld b16 0 2)) = true →
      s.published (BitVec.ofNat 16 (fld b16 0 2)) (BitVec.ofNat 64 (fld b16 8 8)) = some (o, j, q) →
      LowestSlot t x.part kRegion n →
      ∃ u e c, exec (.rgbind x r h a) s = .next u ∧ Stands u x k e (k.ctx.wh h (t.handleOf x.part kRegion n))
        ∧ e.log = [.regCreate n c] ∧ c.st = .valid ∧ c.size = q.size
        ∧ c.binding = some ⟨o, BitVec.ofNat 64 (fld b16 8 8), BitVec.ofNat 16 (fld b16 0 2), j, decide (fld b16 2 1 = 1)⟩)

/-- R397, 12 R270 to R272, R280 to R282: what the queue-pair instructions log, post and arm. -/
def Obligations.QueuePairResults : Prop :=
  ∀ (s : State) (x : StepRef) (t : Partition) (k : Step) (g : Program) (a b : GReg) (r : Bool) (q : Qp) (n : Nat),
    Running s x t k g → k.log = [] →
    let aa := (k.ctx.rg a).toNat
    let bb := (k.ctx.rg b).toNat
    let blk := k.peek g.data bb 32
    let wr := k.peek g.data bb 48
    let cb := k.peek g.data bb 16
    let tag := BitVec.ofNat 32 (fld cb 4 4)
    let wrs := k.peek g.data (fld cb 8 8) (48 * fld cb 2 1)
    (bb % 8 = 0 → bb + 32 ≤ 0x6000 → fld blk 0 1 < 16 → t.binding.ports.getLsbD (fld blk 0 1) = true → fld blk 1 1 ≤ 6 →
      t.binding.tcAllow.getLsbD (fld blk 1 1) = true → fld blk 2 1 < 2 → fld blk 3 1 = 0 → fld blk 4 2 < 4096 →
      t.tenants.has (fld blk 4 2) = true → fld blk 8 8 = 0 → (s.parts.map fun e => e.2.qps.length).sum < 65536 →
      0 < n → n < 1024 * (clustersOf t.clusters).length → t.qps.find n = none → t.resv.find (slotKey kQp n) = none →
      (∀ j, 0 < j → j < n → t.qps.has j = true ∨ t.resv.has (slotKey kQp j) = true) →
      ∃ u e, exec (.qpcreate x r a b) s = .next u ∧ Stands u x k e (k.ctx.wg a (BitVec.ofNat 64 n))
        ∧ e.log = [.qpCreate n blk] ∧ ∃ t', u.prt x.part = some t' ∧ t'.qps = t.qps
          ∧ t'.resv.find (slotKey kQp n) = some x.num)
    ∧ (t.qps.find aa = some q →
      (q.st = .init → q.passive = false → MayDefer t k →
        exec (.qpconnect x r a) s = goesDeferring s x k (.connect aa) (.qpConnect aa))
      ∧ (q.st = .ready → MayDefer t k → exec (.qpdisc x r a) s = goesDeferring s x k (.disconnect aa) (.qpDisc aa))
      ∧ (q.st = .init ∨ q.st = .error → exec (.qpdestroy x r a) s = goesLogging s x k k.ctx [.qpDestroy aa])
      ∧ (bb % 8 = 0 → bb + 48 ≤ 0x6000 → (iss s x t k g).workBad wr = none → q.st = .ready →
        exec (.qppost x r a b false) s = goesLogging s x k k.ctx [.qpPost aa wr]
        ∧ ∃ u e t' q', exec (.qppost x r a b true) s = .next u ∧ Stands u x k e k.ctx ∧ u.prt x.part = some t'
          ∧ t'.qps.find aa = some q' ∧ q'.work = q.work ++ [{ workFrom wr with
              id := q.nextId, msgNum := if (workFrom wr).op = 1 then q.msgOut else 0 }])
      ∧ (q.notes = [] → exec (.qpnote x r a b false) s = goesOn s x k (k.ctx.wg b 0)
        ∧ ∃ u e, exec (.qpnote x r a b true) s = .next u ∧ u.step? x = some e ∧ e.st = .waiting (.note aa) ∧ e.ctx = k.ctx)
      ∧ (∀ w ws, q.notes = w :: ws → ∃ u e t', exec (.qpnote x r a b true) s = .next u ∧ Stands u x k e (k.ctx.wg b w)
        ∧ e.notes = k.notes ++ [(aa, w)] ∧ u.prt x.part = some t' ∧ t'.qps.find aa = some { q with notes := ws })
      ∧ (bb % 8 = 0 → bb + 16 ≤ 0x6000 → fld cb 8 8 % 8 = 0 → fld cb 8 8 + 48 * fld cb 2 1 ≤ 0x6000 → 0 < fld cb 2 1 →
        fld cb 2 1 ≤ 32 → fld cb 3 1 = 0 → tag ≠ 0 → t.qps.has (fld cb 0 2) = true → MayDefer t k →
        (∀ j, j < fld cb 2 1 → (iss s x t k g).workBad ((wrs.drop (48 * j)).take 48) = none) →
        t.chains.find (chainKey aa tag) = none → t.chains.length < 64 →
        exec (.charmArm x r a b) s = goesDeferring s x k (.chain aa tag) (.chainArm aa cb wrs))
      ∧ (∀ c, t.chains.find (chainKey aa ((k.ctx.rg b).setWidth 32)) = some c →
        exec (.charmDisarm x r a b) s = (if c.armed
          then goesLogging s x k k.ctx [.chainDisarm aa ((k.ctx.rg b).setWidth 32)]
          else refused s x k r .abortedTooLate k.ctx)))

/-- R47, R49, R51, 08 R188, R190: SQ_FETCH takes the entry into the queue whose turn it is, a malformed one ends with ACCESS_VIOLATION
and leaves its queue in ERROR, a poisoned one ends with POISON_CONSUMED; CLOCKADV only advances the clock, which never goes back (R50);
RUN makes a control step due, and completes at once when a handle of its entry fails; CANCEL and ABORT of a command without a step end
it, and with no live command to name they complete with ABORTED_TOO_LATE. -/
def Obligations.HostCommandResults : Prop :=
  ∀ (s : State) (p : Part) (q : Qn) (cid : BitVec 16) (t : Partition) (k : Queue) (l : Live),
    (∀ raw n e, raw.length = 64 → s.prt p = some t → t.st = .active → s.fetching = true → t.nextFetch = some n →
      t.queues.find n = some k → parseEntry raw = e →
      (e.malformed k.priv = false → e.hostTime ≤ t.clock →
        ∃ (u : State) (t' : Partition) (m : Live), exec (.sqFetch p raw false) s = .next u ∧ u.prt p = some t' ∧ t'.live = t.live ++ [m]
          ∧ m.ent = e ∧ m.q = n
          ∧ m.started = false ∧ m.req = none ∧ m.order = t.nextOrder ∧ m.sqHead = (k.sqHead + 1) % 2 ^ k.depthLog
          ∧ t'.queues.find n = some { k with sqHead := (k.sqHead + 1) % 2 ^ k.depthLog, reserved := k.reserved + 1 }
          ∧ t'.clock = t.clock)
      ∧ (e.malformed k.priv = true → e.hostTime ≤ t.clock → t.liveOf n e.cid = none →
        ∃ (u : State) (t' : Partition) (k' : Queue) (c : Completion), exec (.sqFetch p raw false) s = .next u ∧ u.prt p = some t'
          ∧ t'.queues.find n = some k' ∧ k'.st = .error
          ∧ k'.posted = k.posted ++ [c] ∧ c.cid = e.cid ∧ c.status = .accessViolation ∧ c.more = false)
      ∧ (t.liveOf n e.cid = none → ∃ (u : State) (t' : Partition) (k' : Queue) (c : Completion), exec (.sqFetch p raw true) s = .next u
        ∧ u.prt p = some t'
        ∧ t'.queues.find n = some k' ∧ k'.posted = k.posted ++ [c] ∧ c.cid = e.cid ∧ c.status = .poisonConsumed ∧ k'.st = k.st))
    ∧ (CanStart s p q cid ocClockadv t k l → (∀ e ∈ t.sessions, e.2.st ≠ .parked) → (∀ e ∈ t.sequences, e.2.held = false) →
      (∀ m ∈ t.live, m.req = none) → Unpended t →
      ∃ u t', exec (.clockadv p q cid) s = .next u ∧ Completes u p q k l .ok 0 ∧ u.prt p = some t'
        ∧ t'.clock = max t.clock l.ent.hostTime)
    ∧ (let hs := optHandle [kSession, kProgram] l.ent.handle0 ++ optHandle [kSequence, kRegion] l.ent.handle1
      CanStart s p q cid ocRun t k l →
      (t.firstBad p hs = none → FramesFree s →
        ∃ (u : State) (t' : Partition) (d : Due) (m : Live), exec (.run p q cid) s = .next u ∧ u.prt p = some t' ∧ t'.due = t.due ++ [d]
          ∧ d = ⟨1, 0, q.val, cid, 0, 0, t.nextOrder, false⟩ ∧ t'.liveOf q.val cid = some m ∧ m = { l with started := true })
      ∧ (∀ ks h st, t.firstBad p hs = some (ks, h, st) → ∃ u, exec (.run p q cid) s = .next u ∧ Completes u p q k l st 0))
    ∧ (CanStart s p q cid ocCancel t k l → t.targetOf l = none →
      ∃ u, exec (.cancel p q cid) s = .next u ∧ Completes u p q k l .abortedTooLate 0)
    ∧ (CanStart s p q cid ocAbort t k l → t.targetOf l = none →
      ∃ u, exec (.abort p q cid) s = .next u ∧ Completes u p q k l .abortedTooLate 0)
    ∧ (∀ m, t.targetOf l = some m → t.liveOf m.q m.ent.cid = some m → (∀ a b, a ∈ t.live → b ∈ t.live → a.order = b.order → a = b) →
      m.step = none → m.req = none → m.abortStatus = none → m.deferred = .none → m.posted1 = false → Unpended t →
      (CanStart s p q cid ocCancel t k l → ∃ (u : State) (t' : Partition) (k' : Queue) (a b : Completion), exec (.cancel p q cid) s = .next u
        ∧ u.prt p = some t'
        ∧ t'.queues.find q.val = some k' ∧ k'.posted = k.posted ++ [a, b] ∧ a.cid = m.ent.cid ∧ b.cid = cid
        ∧ a.status = (if k.priv then .freedEarly else .dropped) ∧ b.status = .ok ∧ ∀ e ∈ t'.live, e ≠ m)
      ∧ (CanStart s p q cid ocAbort t k l → ∃ (u : State) (t' : Partition) (k' : Queue) (a b : Completion), exec (.abort p q cid) s = .next u
        ∧ u.prt p = some t'
        ∧ t'.queues.find q.val = some k' ∧ k'.posted = k.posted ++ [a, b] ∧ a.cid = m.ent.cid ∧ b.cid = cid
        ∧ a.status = .aborted ∧ b.status = .ok ∧ ∀ e ∈ t'.live, e ≠ m))

/-- R173, R175, R189: a REQUEST that every check of its admission passes is live with its prompt to do: its sequence is on the prompt
list in PREFILL, or decodes, or a match step is due, or its parked session is to be revived. One that a check refuses completes at
once: with the status of its handle, with ACCESS_VIOLATION for its operands or its sampling block, with LENGTH_LIMIT, with
BUDGET_EXHAUSTED or with LATE; one with nothing to do completes with OK. -/
def Obligations.RequestAdmission : Prop :=
  ∀ (s : State) (p : Part) (q : Qn) (cid : BitVec 16) (t : Partition) (k : Queue) (l : Live), CanStart s p q cid ocRequest t k l →
    let e := l.ent
    let off := e.arg0.toNat
    let ntok := e.arg1.toNat % 2 ^ 32
    let gen := e.arg1.getLsbD 32
    let hs := [([kSession], e.handle0), ([kSequence], e.handle1)]
    let ends := fun (st : Status) (reason : Nat) =>
      ∃ u, exec (.request p q cid) s = .next u ∧ Completes u p q k l st (finalWord reason 0 0)
    (∀ ks h st, t.firstBad p hs = some (ks, h, st) → ends st 9)
    ∧ ∀ (ss : Session) (sq : Sequence) (m : ModelDesc) (smp : Region) (tn : Tenant), t.firstBad p hs = none →
      t.sessions.find (hIndex e.handle0) = some ss → t.sequences.find (hIndex e.handle1) = some sq → t.model? ss.model = some m →
      t.regions.find (hIndex ss.sampler) = some smp → t.tenants.find ss.tenant = some tn →
      let spb := smp.data.rd off 1360
      let fine := sq.sess = ss.h ∧ e.arg1.toNat < 2 ^ 33 ∧ e.arg2 = 0 ∧ ss.st ≠ .migrating
        ∧ off % 64 = 0 ∧ off + 1360 ≤ smp.size ∧ spbOk spb m.vocab = true
      let fits := fine ∧ sq.committed + sq.rc + ntok ≤ t.limit sq
      let paid := fits ∧ (tn.refill t.clock).enabled = true ∧ 0 < (tn.refill t.clock).level
      let taken := paid ∧ missed t.clock e.deadline = false
      let up := ss.st = .opened ∨ ss.st = .running
      let match_ := ss.domain ≠ 0 ∧ sq.committed = 0 ∧ sq.table = []
      (¬ fine → ends .accessViolation 9)
      ∧ (fine → t.limit sq < sq.committed + sq.rc + ntok → ends .lengthLimit 4)
      ∧ (fits → ((tn.refill t.clock).enabled = false ∨ (tn.refill t.clock).level ≤ 0) → ends .budgetExhausted 8)
      ∧ (paid → missed t.clock e.deadline = true → ends .late 6)
      ∧ (taken → up → sq.rc + ntok = 0 → gen = false → ends .ok 0)
      ∧ (taken → up → sq.rc + ntok = 0 → gen = true → sq.committed = t.limit sq → ends .lengthLimit 4)
      ∧ (taken → (up → 0 < sq.rc + ntok ∨ gen = true ∧ sq.committed < t.limit sq) → (match_ → FramesFree s) →
        ∃ u t' m' r sq', exec (.request p q cid) s = .next u ∧ u.prt p = some t' ∧ t'.liveOf q.val cid = some m' ∧ m'.req = some r
          ∧ r.promptLeft = ntok ∧ r.seq = hIndex e.handle1 ∧ r.sess = hIndex e.handle0 ∧ r.spb = spb ∧ r.emitted = []
          ∧ r.gen = gen ∧ r.cancelled = none
          ∧ (bitOf (fld spb 0xB 1) 7 = true → r.seed = BitVec.ofNat 64 (fld spb 0x20 8))
          ∧ (bitOf (fld spb 0xB 1) 6 = false → r.counts = [])
          ∧ t'.sequences.find (hIndex e.handle1) = some sq' ∧ sq'.committed = sq.committed
          ∧ (up → 0 < sq.rc + ntok → ¬ match_ → (q.val, cid) ∈ t'.prompts ∧ sq'.st = .prefill)
          ∧ (up → 0 < sq.rc + ntok → match_ → r.matching = true ∧ ∃ d ∈ t'.due, d.q = q.val ∧ d.cid = cid ∧ d.kind = 0)
          ∧ (up → sq.rc + ntok = 0 → sq'.st = .decode)
          ∧ (¬ up → ∃ v, t'.revivals.find (hIndex e.handle0) = some v ∧ (q.val, cid) ∈ v.waiters))

/-- R41 to R46, 18 R404: loading, placing and unloading a program; setting, rebinding, enabling, disabling and draining a queue; a
handle that fails its checks completes the command with its status; the completion that waits longest goes into a free slot of the
ring (R52). -/
def Obligations.ProgramAndQueueResults : Prop :=
  ∀ (s : State) (p : Part) (q : Qn) (cid : BitVec 16) (t : Partition) (k : Queue) (l : Live),
    (∀ image n, CanStart s p q cid ocProgLoad t k l → l.ent.arg1.toNat ≤ 256 + 1048576 + 16384 →
      imageOk (padTo image l.ent.arg1.toNat) l.ent.arg1.toNat = true →
      (t.programs.map fun e => e.2.bytes).sum + l.ent.arg1.toNat ≤ 2097152 → LowestSlot t p kProgram n →
      ∃ u t' g, exec (.progLoad p q cid image) s = .next u ∧ Completes u p q k l .ok (t.handleOf p kProgram n)
        ∧ u.prt p = some t' ∧ t'.programs = t.programs.put n g ∧ g.st = .loaded ∧ g.clusters = 0
        ∧ g.h = t.handleOf p kProgram n)
    ∧ (∀ image, CanStart s p q cid ocProgLoad t k l → l.ent.arg1.toNat ≤ 256 + 1048576 + 16384 →
      (imageOk (padTo image l.ent.arg1.toNat) l.ent.arg1.toNat = false →
        ∃ u, exec (.progLoad p q cid image) s = .next u ∧ Completes u p q k l .accessViolation 0)
      ∧ (imageOk (padTo image l.ent.arg1.toNat) l.ent.arg1.toNat = true →
        2097152 < (t.programs.map fun e => e.2.bytes).sum + l.ent.arg1.toNat →
        ∃ u, exec (.progLoad p q cid image) s = .next u ∧ Completes u p q k l .noPage 0))
    ∧ (∀ st, t.entryHandle p [kProgram] l.ent.handle0 = some st →
      (CanStart s p q cid ocProgPlace t k l → ∃ u, exec (.progPlace p q cid) s = .next u ∧ Completes u p q k l st 0)
      ∧ (CanStart s p q cid ocProgUnload t k l → ∃ u, exec (.progUnload p q cid) s = .next u ∧ Completes u p q k l st 0))
    ∧ (∀ g, t.entryHandle p [kProgram] l.ent.handle0 = none → t.programs.find (hIndex l.ent.handle0) = some g →
      (CanStart s p q cid ocProgPlace t k l → l.ent.arg0 &&& ~~~t.clusters = 0 → g.st ≠ .unloading →
        (l.ent.arg0 ≠ 0 → (∀ c ∈ clustersOf l.ent.arg0, s.cluOut c = false) →
          (t.programs.map fun e => e.2.data.length).sum ≤ 65536 →
          ∃ u t', exec (.progPlace p q cid) s = .next u ∧ Completes u p q k l .ok 0 ∧ u.prt p = some t'
            ∧ t'.programs.find (hIndex l.ent.handle0) = some { g with st := .placed, clusters := g.clusters ||| l.ent.arg0 })
        ∧ ((∃ c ∈ clustersOf l.ent.arg0, s.cluOut c = true) →
          ∃ u, exec (.progPlace p q cid) s = .next u ∧ Completes u p q k l .unitQuarantined 0))
      ∧ (CanStart s p q cid ocProgPlace t k l → l.ent.arg0 &&& ~~~t.clusters ≠ 0 →
        ∃ u, exec (.progPlace p q cid) s = .next u ∧ Completes u p q k l .accessViolation 0)
      ∧ (CanStart s p q cid ocProgUnload t k l → (∃ e ∈ t.steps, e.2.prog = hIndex l.ent.handle0) →
        ∃ u t', exec (.progUnload p q cid) s = .next u ∧ u.prt p = some t'
          ∧ t'.programs.find (hIndex l.ent.handle0) = some { g with st := .unloading })
      ∧ (CanStart s p q cid ocProgUnload t k l → (∀ e ∈ t.steps, e.2.prog ≠ hIndex l.ent.handle0) → g.h = l.ent.handle0 →
        (t.live.filter fun m => m.order == l.order) = [l] → (∀ m ∈ t.live, m.started = true → m.ent.opcode ≠ ocProgUnload) →
        ∃ u t', exec (.progUnload p q cid) s = .next u ∧ Completes u p q k l .ok 0 ∧ u.prt p = some t'
          ∧ t'.programs = t.programs.del (hIndex l.ent.handle0)))
    ∧ (let i := hIndex l.ent.handle0
      let hs := ([kQueue], l.ent.handle0) :: optHandle [kProgram] l.ent.handle1
      CanStart s p q cid ocQueueSet t k l →
      (∀ ks h st, t.firstBad p hs = some (ks, h, st) → ∃ u, exec (.queueSet p q cid) s = .next u ∧ Completes u p q k l st 0)
      ∧ ∀ j, t.firstBad p hs = none → t.queues.find i = some j →
        (i = 0 ∨ j.st = .enabled ∧ l.ent.arg1.getLsbD 31 = true → ∃ u t' j', exec (.queueSet p q cid) s = .next u
          ∧ Completes u p q k l .ok 0 ∧ u.prt p = some t' ∧ t'.queues.find i = some j' ∧ j'.program = l.ent.handle1 ∧ j'.st = j.st
          ∧ (i ≠ q.val → j' = { j with program := l.ent.handle1 }))
        ∧ (i ≠ 0 → l.ent.arg1.getLsbD 31 = false → ∃ u t' j', exec (.queueSet p q cid) s = .next u ∧ Completes u p q k l .ok 0
          ∧ u.prt p = some t' ∧ t'.queues.find i = some j'
          ∧ j'.st = (if j.st = .enabled ∨ j.st = .error then .draining else j.st) ∧ (i ≠ q.val → j' = { j with st := j'.st }))
        ∧ (i ≠ 0 → i ≠ q.val → l.ent.arg1.getLsbD 31 = true → j.st = .disabled → 1 ≤ l.ent.arg1.toNat % 16 →
          l.ent.arg1.toNat % 16 ≤ 12 → l.ent.arg0.toNat % 64 = 0 → (l.ent.arg1.getLsbD 30 = true → t.privCount i < 4) →
          ∃ u t' j', exec (.queueSet p q cid) s = .next u ∧ Completes u p q k l .ok 0
            ∧ u.prt p = some t' ∧ t'.queues.find i = some j' ∧ j'.st = .enabled ∧ j'.sqBase = l.ent.arg0
            ∧ j'.depthLog = l.ent.arg1.toNat % 16 ∧ j'.priv = l.ent.arg1.getLsbD 30 ∧ j'.irq = l.ent.arg1.getLsbD 16
            ∧ j'.program = l.ent.handle1 ∧ j'.sqHead = 0 ∧ j'.sqTail = 0 ∧ j'.cqHead = 0
            ∧ (t.lostCmds = [] → j'.cqTail = 0 ∧ j'.phase = true ∧ j'.posted = [])))
    ∧ (∀ j, s.prt p = some t → t.queues.find 0 = some j → Awake s →
      (t.st = .active → j.st = .disabled → 1 ≤ j.depthLog → j.depthLog ≤ 12 → ∃ u t' j', exec (.queue0Enable p) s = .next u
        ∧ u.prt p = some t' ∧ t'.queues.find 0 = some j' ∧ j'.st = .enabled ∧ j'.sqHead = 0 ∧ j'.sqTail = 0
        ∧ (t.lostCmds = [] → j'.posted = []))
      ∧ (t.st ≠ .fenced → j.st = .enabled ∨ j.st = .error → ∃ u t', exec (.queue0Disable p) s = .next u ∧ u.prt p = some t'
        ∧ t'.queues.find 0 = some { j with st := .draining }))
    ∧ (s.prt p = some t → t.queues.find q.val = some k →
      (k.st = .draining → k.waiting = [] → (∀ m ∈ t.live, m.q ≠ q.val) → ∃ u t', exec (.queueDrained p q) s = .next u
        ∧ u.prt p = some t' ∧ t'.queues.find q.val = some { k with st := .disabled })
      ∧ (∀ c cs, k.waiting = c :: cs → k.posted.length + k.reserved < 2 ^ k.depthLog → ∃ u t' j,
        exec (.completionDrain p q) s = .next u ∧ u.prt p = some t' ∧ t'.queues.find q.val = some j ∧ j.waiting = cs
        ∧ j.posted = k.posted ++ [{ c with phase := k.phase }]))

/-- 08 R164 to R168, 06 R123, R136, 03 R55, R56: a wave of the lanes that the scheduler takes is issued when 256 are ready or its
wait expires, a row likewise, where a frame is free on every cluster; a due step takes a frame on a cluster of its program under the next
step number. -/
def Obligations.SchedulerResults : Prop :=
  ∀ (s : State) (p : Part) (t : Partition) (m : BitVec 16) (d : ModelDesc), s.prt p = some t → t.st = .active →
    s.fetching = true →
    (FramesFree s → t.model? m = some d → d.hgRank = 0 → d.hgSize = 1 → t.inFlight m false < t.maxWaves →
      (∀ e, (e = .waveIssue p m ∧ 256 ≤ (t.waveLanes m).length) ∨ (e = .waveWaitExpiry p m ∧ 1 ≤ (t.waveLanes m).length) →
        ∃ (u : State) (t' : Partition) (w : Wave), exec e s = .next u ∧ u.prt p = some t' ∧ t'.waves = t.waves ++ [w] ∧ w.model = d.modelId
          ∧ w.row = false
          ∧ w.lead = true ∧ w.batch = t.batchNo d.modelId ∧ w.lanes.map (·.seq) = (t.waveLanes m).map (fun c => some c.slot)
          ∧ w.lanes.map (·.pos) = (t.waveLanes m).map (·.sq.committed)
          ∧ t'.batchNo d.modelId = (t.batchNo d.modelId + 1) % 2 ^ 32
          ∧ t'.outbox.length = t.outbox.length + 1 ∧ t'.due.length = t.due.length + (t.waveLanes m).length))
    ∧ (FramesFree s → t.model? m = some d → d.hgRank = 0 → d.hgSize = 1 → t.inFlight m true < t.rowsInflight →
      let cs := packRow t t.rowTokens 256 (t.promptOrder m) 0
      cs ≠ [] →
      (∀ e, (e = .rowIssue p m ∧ t.rowTokens ≤ (cs.map (·.2)).sum) ∨ (e = .rowWaitExpiry p m ∧ 1 ≤ (cs.map (·.2)).sum) →
        ∃ (u : State) (t' : Partition) (w : Wave), exec e s = .next u ∧ u.prt p = some t' ∧ t'.waves = t.waves ++ [w] ∧ w.model = d.modelId
          ∧ w.row = true
          ∧ w.batch = t.batchNo d.modelId ∧ w.lanes.map (·.ntok) = cs.map (·.2)
          ∧ w.lanes.map (·.pos) = cs.map (·.1.sq.committed) ∧ w.tokens.length % 64 = 0
          ∧ t'.outbox.length = t.outbox.length + 1 ∧ t'.due.length = t.due.length + cs.length))
    ∧ (∀ e g c, t.due = [e] → e.kind ≠ 4 → t.dueBlocked e = false → s.placeOf t p e = .at g c →
      ∃ (u : State) (k : Step) (t' : Partition), exec (.stepStart p) s = .next u ∧ u.stepNo = s.stepNo + 1 ∧ u.step? ⟨p, s.stepNo⟩ = some k
        ∧ k.num = s.stepNo
        ∧ k.st = .running ∧ k.kind = e.kind ∧ k.prog = g ∧ k.clu = c ∧ k.q = e.q ∧ k.cid = e.cid ∧ k.log = []
        ∧ u.prt p = some t' ∧ t'.due = [])
    ∧ (∀ e st l, t.due = [e] → e.kind = 0 → t.dueBlocked e = false → s.placeOf t p e = .refuse st → t.liveOf e.q e.cid = some l →
      l.req = none → t.dueWave e = none → exec (.stepStart p) s
        = .next (((s.updP p fun t => { t with due := [] }).finish p e.q e.cid st).boundaries p))

/-- 17 R380, 03 R59, 04 R94, 05 R116: a sleeping step goes on when what it waits for is there; with the limit of a wait or of a
context passed it is squashed with ABORTED. -/
def Obligations.WaitsAndLimits : Prop :=
  ∀ (s : State) (x : StepRef) (t : Partition) (k : Step) (g : Program), s.prt x.part = some t → t.steps.find x.num = some k →
    t.programs.find k.prog = some g →
    let awake := Host.Outcome.next ({ s with free := s.free + 1 }.updStep x fun e =>
      { e with st := .running, ra := none, scratch := [], epoch := 2 * s.free + 1 })
    (∀ n m, k.st = .waiting (.move n) → k.moves.find n = some m → m.done = true → exec (.stepResume x) s = awake)
    ∧ (∀ n m, k.st = .waiting (.move n) → k.moves.find n = some m → m.done = false → exec (.stepResume x) s = .next s)
    ∧ (∀ n q, k.st = .waiting (.note n) → t.qps.find n = some q → q.notes ≠ [] → exec (.stepResume x) s = awake)
    ∧ (∀ layer, k.st = .waiting (.eng (some layer)) → layer ∈ k.merged → exec (.stepResume x) s = awake)
    ∧ (k.st = .waiting .equalTime → exec (.etRelease x) s = awake)
    ∧ (k.st = .running → exec (.etRelease x) s = .next s)
    ∧ (∀ r, t.reserves = [r] → r.me = x.num → x.num < aheadHold 0 → k.st = .waiting .frame → s.reserveReady x.part r = true →
      exec (.frameReserved x.part) s = awake)
    ∧ (∀ a b, k.st = .waiting (.msg a b) →
      exec (.msgTimeout x) s = .next ((s.squash x.part x.num .aborted).event x.part evMsgTimeout 0 0 0))
    ∧ (k.st = .running → exec (.msgTimeout x) s = .next s)
    ∧ (k.st = .running → k.kind ≠ 4 → exec (.stepCycleLimit x) s = .next (s.squash x.part x.num .aborted true))
    ∧ (k.ra.isSome = true → k.kind ≠ 4 → exec (.stepCycleLimit x) s = .next (s.squash x.part x.num .aborted true))
    ∧ (k.st = .committing → k.ra = none → exec (.stepCycleLimit x) s = .next s)

/-- Table 3-9: a committing step whose engine work has ended and failed is squashed with the first failure; a control step of a
RUN is applied, and released with its command's completion; before its record is durable it is not released (R65). The
flash tier is brought up to date after each. -/
def Obligations.CommitResults : Prop :=
  ∀ (s : State) (x : StepRef) (t : Partition) (k : Step), s.prt x.part = some t → t.steps.find x.num = some k → k.num = x.num →
    (k.st = .committing → k.kind = 0 ∨ k.kind = 3 → k.hgSent = false → (∀ d ∈ k.descs, d.st = .done) →
      (∀ n ∈ k.emitted, n ∈ k.merged) → t.waveOf k = none → t.freedEarly k = false →
      (∀ n ∈ k.opened, s.copyOf x.part (.cow n) = none) →
      (∀ f fs, k.fails = f :: fs → exec (.commitApply x) s = .next (s.squash x.part x.num f.2).settleFlash)
      ∧ (k.fails = [] → k.log = [] → k.sess = none → k.seq = none → k.opened = [] → k.sampled = none → k.shadow = none → k.stale = false →
        ∃ (v : State) (e : Step), exec (.commitApply x) s = .next v.settleFlash ∧ v.step? x = some e ∧ e = { k with st := .applied }
          ∧ v.journals = s.journals ∧ v.domains = s.domains))
    ∧ (k.st = .committing → (∃ d ∈ k.descs, d.st ≠ .done) → exec (.commitApply x) s = .next s.settleFlash)
    ∧ (∀ l q w post, k.st = .applied → t.steps.wf → k.kind = 0 → k.recDue = false → k.recJseq = none → k.pins = [] → k.xpins = [] →
      k.log = [] → k.sess = none → k.seq = none → t.liveOf k.q k.cid = some l → l.req = none → l.abortStatus = none →
      l.posted1 = false → k.final = none → k.deferredUsed = false → k.commitArg = some (w, post) → t.queues.find k.q = some q →
      (∀ g, t.programs.find k.prog = some g → g.st ≠ .unloading) →
      ∃ (v : State) (t' : Partition) (q' : Queue) (c : Completion), exec (.commitRelease x) s = .next v.settleFlash ∧ v.prt x.part = some t'
        ∧ t'.steps.find x.num = none
        ∧ t'.queues.find k.q = some q' ∧ q'.posted = q.posted ++ [c] ∧ c.cid = l.ent.cid ∧ c.status = .ok ∧ c.result0 = w
        ∧ c.step = k.num % 2 ^ 32 ∧ ∀ e ∈ t'.live, e.order ≠ l.order)
    ∧ (k.st = .applied → k.recDue = true → k.recJseq = none → exec (.commitRelease x) s = .next s.settleFlash)

/-- 04 Table 4-9, 06 R128, R131, R132, R138, 13 R303: a held descriptor of a resident group is accepted, a write behind which nothing
stands consumes its rows; one of a reserved operation, of another generation or partition, or a write to a shared group squashes its
step; a chunk whose descriptors are all accepted is done with its result recorded; a layer whose lanes have merged is sent and noted; a
shadow that agrees passes, and one that nothing decides without a third cluster waits for the pair's sweep. -/
def Obligations.EngineResults : Prop :=
  ∀ (s : State) (x : StepRef) (t : Partition) (k : Step), s.prt x.part = some t → t.steps.find x.num = some k →
    (∀ n d g, k.descs[n]? = some d → d.st = .held → d.op ≤ 5 → t.groups.find d.group = some g → hGen g.h = d.gen →
      (hPart g.h = x.part.val →
        (s.resident x.part d.group = true → d.op ≠ 4 →
          (∀ w ∈ k.descs, ¬ (w.op = 4 ∧ w.st = .held ∧ w.group = d.group ∧ w.layer = d.layer ∧ w.head = d.head)) →
          ∃ u, exec (.descriptorAccept x n) s = .next u
            ∧ u.step? x = some { k with descs := k.descs.modify n fun d => { d with st := .accepted } })
        ∧ (s.resident x.part d.group = true → d.op = 4 → d.shared = false → g.refcount ≤ 1 →
          ∃ u, exec (.descriptorAccept x n) s = .next u
            ∧ u.step? x = some { k with descs := k.descs.modify n fun d => { d with st := .done } })
        ∧ (s.resident x.part d.group = false → d.op ≠ 4 → exec (.descriptorAccept x n) s = .next s)
        ∧ (d.op = 4 → d.shared = true ∨ 1 < g.refcount →
          exec (.descriptorAccept x n) s = .next (s.squash x.part x.num .accessViolation)))
      ∧ (hPart g.h ≠ x.part.val → exec (.descriptorAccept x n) s = .next (s.squash x.part x.num .accessViolation true)))
    ∧ (∀ n d g, k.descs[n]? = some d → d.st = .held → d.op ≤ 5 → t.groups.find d.group = some g → hGen g.h ≠ d.gen →
      exec (.descriptorAccept x n) s = .next (s.squash x.part x.num .staleKey))
    ∧ (∀ n d, k.descs[n]? = some d → d.st = .held → 5 < d.op →
      exec (.descriptorAccept x n) s = .next (s.squash x.part x.num .accessViolation))
    ∧ (∀ m layer head chunk, let mine := fun (d : Desc) => d.layer == layer && d.head == head && d.block / 8 == chunk && d.op != 3 && d.op != 4
      t.stepModel k = some m → k.kind ≠ 4 → (∃ d ∈ k.descs, mine d = true) → (∀ d ∈ k.descs, mine d = true → d.st = .accepted) →
      (∀ d ∈ k.descs, d.op ≠ 2) → s.fetchTurn t k = true →
      ∃ u e r, exec (.chunkComplete x layer head chunk false []) s = .next u ∧ u.step? x = some e
        ∧ e.descs = k.descs.map (fun d => if mine d then { d with st := .done } else d) ∧ e.chunks = k.chunks ++ [r]
        ∧ r.layer = layer ∧ r.head = head ∧ r.chunk = chunk)
    ∧ (∀ p m d w b batch layer, s.prt p = some t → t.model? m = some d →
      t.waves.find? (fun w => w.model == m && w.batch == batch && !w.fetch && !(w.sent.contains layer)) = some w →
      w.msgs.find layer = some b → b.mtype ≠ mtStore → (∀ l ∈ w.lanes, t.laneDone l layer = true) →
      ∃ u t' w', exec (.layerMerged p m batch layer) s = .next u ∧ u.prt p = some t' ∧ w' ∈ t'.waves
        ∧ w' = { w with sent := w.sent ++ [layer] }
        ∧ (∀ l ∈ w.lanes, ∀ n e, l.step = some n → t.steps.find n = some e →
          ∃ e', t'.steps.find n = some e' ∧ e'.merged = e.merged ++ [layer] ∧ e'.outputs.length = e.outputs.length + 1)
        ∧ ∀ n q, b.qp = some n → t.qps.find n = some q → q.st = .ready →
          ∃ q', t'.qps.find n = some q' ∧ q'.work.length = q.work.length + 1)
    ∧ (∀ c d1 d2 arb, k.shadow = some c → k.st = .committing → k.shadowed = false → k.arbSweep = false →
      (d1 = d2 → ∃ u, exec (.shadowCompare x d1 d2 arb) s = .next u ∧ u.step? x = some { k with shadowed := true })
      ∧ (d1 ≠ d2 → arb = some d2 → ∃ v : State, exec (.shadowCompare x d1 d2 arb) s
        = .next ((v.squash x.part x.num .unitQuarantined).quarantine k.clu) ∧ v.step? x = some k)
      ∧ (d1 ≠ d2 → arb ≠ some d1 → arb ≠ some d2 →
        (∀ e ∈ clustersOf t.clusters, e ≠ c → e ≠ k.clu → (s.clu e).st ≠ .inService) →
        ∃ u, exec (.shadowCompare x d1 d2 arb) s = .next u ∧ u.step? x = some { k with arbSweep := true }
          ∧ k.clu ∈ u.resweep ∧ c ∈ u.resweep))

/-- 04 R80, R90 to R93: the end of a good promotion, demotion or relocation sets the group's home and backing copy and clears its
move; a piece that ends leaves one piece fewer to its copy; a sweep that finds nothing to evict goes on later (R85). -/
def Obligations.MoveEventResults : Prop :=
  ∀ (s : State) (p : Part) (t : Partition) (n : Nat) (r : Group), s.prt p = some t → t.groups.find n = some r →
    r.refcount ≠ 0 → r.poisonCount = 0 →
    (r.move = .promoting → s.copied p (.promote n) = true → ∃ u q, exec (.promotionDone p n true) s = .next u
      ∧ u.group? p n = some q ∧ q.tier = .t0 ∧ q.backing = some r.tier ∧ q.backLoc = r.loc ∧ q.move = .idle ∧ q.ppin = false
      ∧ q.dirtyCount = 0 ∧ q.touch = t.epoch .t0 ∧ q.data = r.data)
    ∧ (r.move = .demoting → r.dest ≠ .t0 → r.cancelFree = false → r.backing = some r.dest → s.copied p (.demote n) = true →
      ∃ (v : State) (q : Group), exec (.demotionDone p n true) s = .next v.settleFlash ∧ v.group? p n = some q ∧ q.tier = r.dest
        ∧ q.loc = r.backLoc ∧ q.backing = none ∧ q.move = .idle ∧ q.copyOut = false ∧ q.dirtyCount = 0 ∧ q.data = r.data)
    ∧ (r.move = .demoting → r.dest ≠ .t0 → r.cancelFree = true → r.backing = some r.dest → s.copied p (.demote n) = true →
      ∃ (v : State) (q : Group), exec (.demotionDone p n true) s = .next v.settleFlash ∧ v.group? p n = some q ∧ q.tier = r.tier
        ∧ q.backing = some r.dest ∧ q.backLoc = r.backLoc ∧ q.move = .idle ∧ q.cancelFree = false ∧ q.dirtyCount = 0)
    ∧ (r.move = .demoting → r.dest = .t0 → s.copied p (.relocate n) = true → ∃ u, exec (.relocationDone p n) s = .next u
      ∧ u.group? p n = some { r with
          frame := (r.moveTo.getD (r.frame, r.run)).1, run := (r.moveTo.getD (r.frame, r.run)).2
          moveTo := none, forAlloc := 0, move := .idle, copyOut := false })
    ∧ (r.move = .idle → exec (.promotionDone p n true) s = .next s ∧ exec (.relocationDone p n) s = .next s
      ∧ exec (.demotionDone p n true) s = .next s.settleFlash)
    ∧ (∀ (path : Path) ps c, s.paths.find (pathKey path.tier path.quad.val) = some ps →
      ps.copies.find? (fun c => some c.order = ps.cur && c.left ≠ 0) = some c → 2 ≤ c.left → c.kind = .background →
      s.halted (pathKey path.tier path.quad.val) c = false → ∃ u qs, exec (.movePiece path) s = .next u ∧ u.paths.find (pathKey path.tier path.quad.val) = some qs
        ∧ qs.copies.map (·.order) = ps.copies.map (·.order)
        ∧ qs.copies.map (·.left) = ps.copies.map (fun e => if e.order = c.order then c.left - 1 else e.left))
    ∧ (∀ tier, t.share tier ≠ 0 → t.freeBytes tier < t.lowMark tier → t.lowMark tier ≤ t.highMark tier →
      (∀ e ∈ t.groups, e.2.pins ≠ 0) → ∃ u t', exec (.winnowSweep p tier) s = .next u ∧ u.prt p = some t'
        ∧ tier.code ∈ t'.winnowOn ∧ t'.groups.map (·.2.tier) = t.groups.map (·.2.tier))
    ∧ (∀ tier, t.share tier = 0 → exec (.winnowSweep p tier) s = .next s)

/-- 05 R107, R113, 13 R297 to R302, Table 13-5: a chain that failed its check is rebuilt; the scrubber compares one row with its
shadow; the memory patrol poisons what it finds and takes records from the journal; an ergot round, a result and a quarantine sweep count. -/
def Obligations.PatrolAndScrubResults : Prop :=
  ∀ (s : State) (p : Part) (t : Partition), s.prt p = some t →
    (∀ b c, t.index.find b = some c → c.bad = true → ∃ u t' c', exec (.indexRebuild p b) s = .next u ∧ u.prt p = some t'
      ∧ t'.index.find b = some c' ∧ c'.bad = false ∧ t'.nodes = t.nodes
      ∧ t'.counters.getD cIdxRebuilds 0 = (t.counters.getD cIdxRebuilds 0 + 1) % 2 ^ 64)
    ∧ (∀ (q : Quad) n w sh, let row := q.val * 262144 + n
      s.cam.scrub[q.val]? = some n → n ≠ 0 → s.cam.rows.find row = some w → s.cam.shadows.find row = some sh →
      sh.scrc = shadowCrc sh.key sh.domain sh.model sh.node →
      (w.key = sh.key → w.domain = sh.domain → w.model = sh.model → exec (.camScrub q) s
        = .next { s with cam := { s.cam with scrub := s.cam.scrub.modify q.val fun _ => (n + 1) % 262144 } })
      ∧ (w.key ≠ sh.key → ∃ u, exec (.camScrub q) s = .next u ∧ u.cam.rows.find row = some ⟨sh.key, sh.domain, sh.model, w.ref⟩
        ∧ u.cam.shadows = s.cam.shadows))
    ∧ (∀ (q : Quad) n w, let row := q.val * 262144 + n
      s.cam.scrub[q.val]? = some n → n ≠ 0 → s.cam.rows.find row = some w → s.cam.rows.wf → s.cam.shadows.find row = none →
      ∃ u, exec (.camScrub q) s = .next u ∧ u.cam.rows.find row = none)
    ∧ exec (.memoryPatrol .clean) s = .next s ∧ exec (.memoryPatrol .corrected) s = .next s
    ∧ (∀ n r pg v, t.groups.find n = some r → r.pinned = true → ∃ u q, exec (.memoryPatrol (.tile p n pg v)) s = .next u
      ∧ u.group? p n = some q ∧ q.poisonedTile pg v = true ∧ q.data = r.data ∧ q.tier = r.tier)
    ∧ (∀ b c, t.index.find b = some c → ∃ u t', exec (.memoryPatrol (.bucket p b)) s = .next u ∧ u.prt p = some t'
      ∧ t'.index.find b = some { c with bad := true })
    ∧ (∃ u t', exec (.memoryPatrol (.records p true)) s = .next u ∧ u.prt p = some t' ∧ t'.models = (s.journal p.val).models
      ∧ t'.sessions = t.sessions ∧ t'.groups = t.groups)
    ∧ (∃ u t', exec (.memoryPatrol (.records p false)) s = .next u ∧ u.prt p = some t' ∧ t'.models = t.models
      ∧ t'.tenants = t.tenants)
    ∧ (∃ u, exec .ergotRound s = .next u ∧ u.ergot = s.ergot + 1 ∧ (∀ c r, s.clusters.find c = some r →
      u.clusters.find c = some { r with replays := 0 }) ∧ u.swept = [] ∧ u.parts = s.parts)
    ∧ (∀ (c : Clu) a b d arb, s.resweep.contains c.val = false →
      (s.ergotPairs (c.val / 16)).find? (fun e => e.1 == c.val || e.2 == c.val) = some (a, b) → a ≠ b →
      (∃ u, exec (.ergotResult c d d arb false false) s = .next u ∧ u.clusters = s.clusters ∧ u.resweep = s.resweep
        ∧ a ∈ u.swept ∧ b ∈ u.swept)
      ∧ (∀ d', d ≠ d' → arb = some d → (s.clu (if a = c.val then b else a)).st = .inService →
        ∃ u, exec (.ergotResult c d d' arb false false) s = .next u
          ∧ (u.clu (if a = c.val then b else a)).quarantines = (s.clu (if a = c.val then b else a)).quarantines + 1
          ∧ (u.clu (if a = c.val then b else a)).st ≠ .inService))
    ∧ (∀ c : Clu, (s.clu c.val).st = .quarantined →
      (∃ u, exec (.quarantineSweep c false) s = .next u ∧ (u.clu c.val).passes = 0 ∧ (u.clu c.val).st = .quarantined)
      ∧ ((s.clu c.val).passes < 3 → ∃ u, exec (.quarantineSweep c true) s = .next u
        ∧ (u.clu c.val).passes = (s.clu c.val).passes + 1 ∧ (u.clu c.val).st = .quarantined)
      ∧ ((s.clu c.val).passes = 3 → ∃ u, exec (.quarantineSweep c true) s = .next u ∧ (u.clu c.val).st = .inService))

/-- 06 R123 to R125, R136, R139, R142, 08 R178: what a wave's or row's messages leave: its record at a follower, the vectors of the
next layer, its logits, and the record of a fetch with its due step, while a frame is free on every cluster; each is answered OK. -/
def Obligations.WaveMessageResults : Prop :=
  ∀ (s : State) (p : Part) (qp : Nat) (msg : Msg) (t : Partition) (m : ModelDesc) (w : Wave),
    (GoodMsg s p mtWaveOpen msg t m → m.leads = false → m.memberOf qp = some 0 → msgSized msg 16 = true → 1 ≤ msg.count →
      msg.count ≤ 256 → t.batchOf m.modelId msg.batch = none → msg.batch % 1024 ≠ 0 →
      (∀ i, i < msg.count →
        let b := (msgRecs msg 16).getD i []
        fld b 0 1 = i ∧ fld b 1 1 ≤ 15 ∧ fld b 2 2 = 0
        ∧ ∃ q sq, t.byHgSeq (fld b 4 4) = some q ∧ t.sequences.find q = some sq ∧ sq.committed = fld b 8 4) →
      distinct ((msgRecs msg 16).map fun b => fld b 4 4) = true →
      FramesFree s → ∃ (u : State) (t' : Partition) (v : Wave), exec (.waveOpen p qp msg) s = .next u ∧ Answers u .ok ∧ u.prt p = some t'
        ∧ t'.waves = t.waves ++ [v]
        ∧ v.model = m.modelId ∧ v.batch = msg.batch ∧ v.lead = false ∧ v.row = false ∧ v.lanes.length = msg.count
        ∧ v.lanes.map (·.pos) = (msgRecs msg 16).map (fun b => fld b 8 4) ∧ t'.due.length = t.due.length + msg.count)
    ∧ (GoodMsg s p mtRowOpen msg t m → m.leads = false → m.memberOf qp = some 0 → msg.count = 1 → msg.body.length = 16 + 8 * 64 →
      t.batchOf m.modelId msg.batch = none → msg.batch % 1024 ≠ 0 →
      (let b := (msgRecs msg 16).getD 0 []
       fld b 0 2 = 0 ∧ fld b 2 1 ≤ 1 ∧ fld b 3 1 = 0 ∧ fld b 0xC 4 = 64
        ∧ ∃ q sq, t.byHgSeq (fld b 4 4) = some q ∧ t.sequences.find q = some sq ∧ sq.committed = fld b 8 4) →
      (∀ b ∈ chunksOf 8 64 (msg.body.drop 16), fld b 4 4 = 0) →
      FramesFree s → ∃ (u : State) (t' : Partition) (v : Wave), exec (.rowOpen p qp msg) s = .next u ∧ Answers u .ok ∧ u.prt p = some t'
        ∧ t'.waves = t.waves ++ [v]
        ∧ v.batch = msg.batch ∧ v.lead = false ∧ v.row = true ∧ v.lanes.length = 1 ∧ v.tokens.length = 64
        ∧ t'.due.length = t.due.length + 1)
    ∧ (∀ mt e, (mt = mtAttend ∧ e = Instr.attend p qp msg) ∨ (mt = mtStore ∧ e = Instr.store p qp msg) →
      GoodMsg s p mt msg t m → m.memberOf qp = none → t.batchOf m.modelId msg.batch = some w → w.row = false →
      let recs := splitRecs m (mt == mtAttend) msg.count msg.body
      msg.count = w.lanes.length → (recs.map List.length).sum = msg.body.length →
      (∀ r ∈ recs, 1 ≤ fld r 1 1 ∧ r.length = m.recBytes (fld r 1 1) (mt == mtAttend)) →
      (msg.layer ∈ w.arrived → ∃ u, exec e s = .next u ∧ Answers u .ok ∧ ∀ p', (u.prt p').map (·.waves) = (s.prt p').map (·.waves))
      ∧ (msg.layer = w.arrived.length → msg.layer < m.layers →
        (∀ i l, w.lanes[i]? = some l →
          laneBad w ((w.msgs.find 0).bind fun b => laneRec m b w.lanes.length i) recs i l = false) →
        ∃ (u : State) (t' : Partition) (v : Wave) (b : BufMsg), exec e s = .next u ∧ Answers u .ok ∧ u.prt p = some t' ∧ v ∈ t'.waves
          ∧ v = { w with msgs := w.msgs.put msg.layer b, arrived := w.arrived ++ [msg.layer] } ∧ b.body = msg.body
          ∧ b.mtype = mt ∧ b.qp = some qp))
    ∧ (GoodMsg s p mtPrefillRow msg t m → m.memberOf qp = none → t.batchOf m.modelId msg.batch = some w → w.row = true →
      msg.body.length = 2 * m.headDim * w.tokens.length * m.kvHeads * (m.qPerKv + 2) → msg.layer = w.arrived.length →
      msg.layer < m.layers → ∃ (u : State) (t' : Partition) (v : Wave) (b : BufMsg), exec (.prefillRow p qp msg) s = .next u ∧ Answers u .ok
        ∧ u.prt p = some t' ∧ v ∈ t'.waves
        ∧ v = { w with msgs := w.msgs.put msg.layer b, arrived := w.arrived ++ [msg.layer] } ∧ b.body = msg.body)
    ∧ (∀ r l, GoodMsg s p mtLogits msg t m → m.memberOf qp = none → m.leads = true → msg.layer = 0xFFFF →
      t.batchOf m.modelId msg.batch = some w → splitLogits m.vocab msg.count msg.body = ([r], true) → logitsHeadBad m.vocab r = false →
      w.lanes[fld r 0 1]? = some l → fld r 4 4 = l.hgSeq → w.row = false → w.msgs.find (logitsKey (fld r 0 1)) = none →
      ∃ (u : State) (t' : Partition) (v : Wave) (b : BufMsg), exec (.logits p qp msg) s = .next u ∧ Answers u .ok ∧ u.prt p = some t' ∧ v ∈ t'.waves
        ∧ v = { w with msgs := w.msgs.put (logitsKey (fld r 0 1)) b } ∧ b.body = r ∧ b.lane = fld r 0 1)
    ∧ (∀ q, GoodMsg s p mtFetch msg t m → m.memberOf qp = none → t.byHgSeq (fetchReq msg.body).hgSeq = some q →
      msg.body.length = 80 → msg.count = 1 → fld msg.body 0x2C 4 = 0 → fld msg.body 0x4C 4 = 0 → FramesFree s →
      ∃ (u : State) (t' : Partition) (v : Wave) (d : Due), exec (.fetch p qp msg) s = .next u ∧ Answers u .ok ∧ u.prt p = some t'
        ∧ t'.waves = t.waves ++ [v]
        ∧ v.fetch = true ∧ v.batch = msg.batch ∧ v.lanes.map (·.seq) = [some q] ∧ t'.due = t.due ++ [d] ∧ d.kind = 3
        ∧ d.rank = 3 ∧ d.batch = msg.batch)

/-- 06 R120, R122, R307: a message of another type, of no loaded model or with a wrong length is refused with ACCESS_VIOLATION, and
nothing of a wave, a step or a sequence changes. -/
def Obligations.MessagesAreChecked : Prop :=
  ∀ (s : State) (p : Part) (qp : Nat) (msg : Msg) (t : Partition) (mt : Nat) (c : Instr), s.prt p = some t →
    (mt, c) ∈ [(mtWaveOpen, .waveOpen p qp msg), (mtRowOpen, .rowOpen p qp msg), (mtAttend, .attend p qp msg),
      (mtStore, .store p qp msg), (mtPrefillRow, .prefillRow p qp msg), (mtLogits, .logits p qp msg),
      (mtFetch, .fetch p qp msg), (mtHgReady, .hgReady p qp msg), (mtHgCommit, .hgCommit p qp msg),
      (mtHgSquash, .hgSquash p qp msg), (mtHgDigest, .hgDigest p qp msg), (mtHgDigestRes, .hgDigestRes p qp msg),
      (mtRoute, Instr.route p qp msg)] →
    (t.model? msg.modelId = none ∨ msg.mtype.toNat ≠ mt ∨ msg.bytes ≠ msg.body.length) →
    ∃ u t', exec c s = .next u ∧ Answers u .accessViolation ∧ u.prt p = some t'
      ∧ t' = { t with ev := t'.ev, counters := t'.counters } ∧ ∀ o, o ≠ p → u.prt o = s.prt o

/-- 06 R134, Table 6-6, 13 R308, 08 R192: what the messages of a head group do to its lanes, what a digest adds and an outcome
counts, and the expert bytes that a ROUTE delivers. -/
def Obligations.HeadGroupResults : Prop :=
  ∀ (s : State) (p : Part) (qp : Nat) (msg : Msg) (t : Partition) (m : ModelDesc) (w : Wave) (l : Lane),
    (∀ r b, GoodMsg s p mtHgReady msg t m → m.leads = true → m.memberOf qp = some r → msgSized msg 8 = true →
      t.batchOf m.modelId msg.batch = some w → msgRecs msg 8 = [b] → w.lanes[fld b 0 1]? = some l → l.hgSeq = fld b 4 4 →
      fld b 1 1 = Status.ok.code.toNat → w.ready = [] →
      ∃ u t' v, exec (.hgReady p qp msg) s = .next u ∧ Answers u .ok ∧ u.prt p = some t' ∧ v ∈ t'.waves
        ∧ v = { w with ready := [(r, fld b 0 1, Status.ok.code.toNat)] })
    ∧ (∀ b n k, GoodMsg s p mtHgCommit msg t m → m.leads = false → m.memberOf qp = some 0 → msgSized msg 12 = true →
      msgRecs msg 12 = [b] → t.batchOf m.modelId msg.batch = some w → w.lanes[fld b 0 1]? = some l → l.hgSeq = fld b 4 4 →
      l.step = some n → t.steps.find n = some k → k.num = n → k.st = .committing → k.hgSent = true →
      exec (.hgCommit p qp msg) s = .next ((s.commitStages ⟨p, n⟩ (some (fld b 8 4))).answer .ok))
    ∧ (∀ b n k, GoodMsg s p mtHgSquash msg t m → m.leads = false → m.memberOf qp = some 0 → msgSized msg 8 = true →
      msgRecs msg 8 = [b] → t.batchOf m.modelId msg.batch = some w → w.lanes[fld b 0 1]? = some l → l.hgSeq = fld b 4 4 →
      l.ended = false → l.step = some n → t.steps.find n = some k → fld b 1 1 = Status.aborted.code.toNat →
      exec (.hgSquash p qp msg) s
        = .next ((((s.squashEffects p k .aborted).seqBoundary p k.seq).boundary p (t.stepSess k)).answer .ok))
    ∧ (∀ batch i n k, s.prt p = some t → t.model? m.modelId = some m → m.leads = true → 1 < m.hgSize →
      t.batchOf m.modelId batch = some w → w.lead = true → w.lanes[i]? = some l → l.ended = false → l.step = some n →
      t.steps.find n = some k → k.st = .committing → (w.followers m i).2 = false →
      exec (.hgReadyTimeout p m.modelId batch) s
        = .next ((s.squashBatch p m.modelId batch .aborted).event p evHgTimeout 0 0 0))
    ∧ (∀ b, let name := (BitVec.ofNat 64 (fld b 0 8) : Word)
      GoodMsg s p mtHgDigestRes msg t m → m.leads = false → m.memberOf qp = some 0 → msgSized msg 24 = true →
      msgRecs msg 24 = [b] → fld b 0x12 1 = 0 →
      ∃ u t', exec (.hgDigestRes p qp msg) s = .next u ∧ Answers u .ok ∧ u.prt p = some t'
        ∧ t'.counters.getD cReplicaChecks 0 = (t.counters.getD cReplicaChecks 0 + 1) % 2 ^ 64
        ∧ ∀ r, (r, name, fld b 8 4, fld b 0xC 4) ∉ t'.replicas.expelled)
    ∧ (∀ r b, GoodMsg s p mtHgDigest msg t m → m.leads = true → m.memberOf qp = some r → msgSized msg 48 = true →
      msgRecs msg 48 = [b] → t.replicas.digests = [] → t.replicas.again = [] → 2 < m.hgSize →
      ∃ u t' d, exec (.hgDigest p qp msg) s = .next u ∧ Answers u .ok ∧ u.prt p = some t' ∧ t'.replicas.digests = [d]
        ∧ d.rank = r ∧ d.name = BitVec.ofNat 64 (fld b 0 8) ∧ d.digest = BitVec.ofNat 256 (fld b 0x10 32))
    ∧ (∀ b ent src i rg di dst, GoodMsg s p mtRoute msg t m → m.memberOf qp = none → msgSized msg 32 = true →
      msgRecs msg 32 = [b] → routeRsvOk b = true → fld b 2 2 < m.layers → fld b 0 1 < 64 → fld b 4 2 < 1024 →
      t.variants.find (fld b 0 1 * 1024 + fld b 4 2) = some ent →
      let h := (BitVec.ofNat 64 (fld ent 0 8) : Handle)
      let off := fld ent 8 8 + fld b 2 2 * fld ent 0x10 8
      let len := fld ent 0x18 4
      t.genOf kRegion (hIndex h) = hGen h → s.resolve p (hIndex h) = some (src, i, rg) →
      t.byRkey (BitVec.ofNat 32 (fld b 8 4)) = some di → t.regions.find di = some dst → dst.st = .valid →
      fld b 0x10 8 + len ≤ dst.size → off + len ≤ rg.size → rg.st ≠ .unbindable → rg.poisoned off len = false →
      ∃ u, exec (.route p qp msg) s = .next u ∧ Answers u .ok
        ∧ u.region? p di = some { dst with data := dst.data.wr (fld b 0x10 8) (rg.read off len) })

/-- 09 R203 to R207: a revival step takes a frame, with the controls as they stand, and the session is REVIVING; one whose session is
PARKED no more is refused, and so is one without a cluster in service (02 R35); its commit cuts each sequence to k and opens the session;
what the members of a head group send is kept, and a member that is told to stop stops. What comes before its revival is log entry 158. -/
def Obligations.RevivalResults : Prop :=
  ∀ (s : State) (p : Part) (t : Partition) (sess : Nat) (rv : Revival) (ss : Session) (m : ModelDesc), s.prt p = some t →
    t.model? ss.model = some m → t.sessions.find sess = some ss →
    (∀ c, t.revivals.find sess = some rv → rv.step = none → rv.seqs = [] → t.st = .active → s.fetching = true → m.hgSize ≤ 1 →
      ss.st = .parked → s.revivalCluster p t = some c →
      (∀ i h, i < 4 → bitOf rv.mask i = true → ss.seqs[i]? = some h → h ≠ 0 →
        ∃ sq, t.sequences.find (hIndex h) = some sq ∧ ∀ b, b < sq.blocks →
          ∃ g r, sq.table.find b = some g ∧ g ≠ 0 ∧ t.groups.find (hIndex g) = some r ∧ r.tier = .t0 ∧ r.move = .idle) →
      ∃ u t' k v, exec (.revivalStepStart p sess) s = .next u ∧ u.prt p = some t' ∧ t'.steps.find s.stepNo = some k ∧ k.kind = 4
        ∧ k.clu = c ∧ k.st = .committing ∧ u.stepNo = s.stepNo + 1 ∧ t'.sessions.find sess = some { ss with st := .reviving, ttl := 0 }
        ∧ t'.revivals.find sess = some v ∧ v.step = some s.stepNo ∧ v.oldTtl = ss.ttl
        ∧ v.ctl = t.rvCtl ∧ sess ∉ t'.parked)
    ∧ (t.revivals.find sess = some rv → rv.step = none → rv.committed = false → t.st = .active → s.fetching = true → t.revivals.wf →
      (ss.st ≠ .parked → ∃ u t', exec (.revivalStepStart p sess) s = .next u ∧ u = s.stopRevival p sess .accessViolation
        ∧ u.prt p = some t' ∧ t'.revivals.find sess = none)
      ∧ (ss.st = .parked → (∀ c ∈ clustersOf t.clusters, s.cluOut c = true) → ∃ u t', exec (.revivalStepStart p sess) s = .next u
        ∧ u = s.stopRevival p sess .unitQuarantined ∧ u.prt p = some t' ∧ t'.revivals.find sess = none)
      ∧ (ss.st = .parked → (∃ c ∈ clustersOf t.clusters, s.cluOut c = false) → s.revivalCluster p t = none →
        exec (.revivalStepStart p sess) s = .next s))
    ∧ (t.revivals.find sess = some rv → rv.step = none → s.fetching = false → exec (.revivalStepStart p sess) s = .next s)
    ∧ (∀ n k e kk sq, t.revivals.find sess = some rv → rv.step = some n → t.steps.find n = some k → k.num = n → k.st = .committing →
      rv.committed = false → k.log = [] → rv.seqs = [e] → e.k = some kk → t.sequences.find e.seq = some sq → t.compat = false →
      s.journalShort p.val = false →
      (∀ g ∈ rv.promos, ∀ r, t.groups.find g = some r → r.move ≠ .promoting) →
      ∃ u t' sq' ss' k' rec', exec (.revivalApply p sess) s = .next u ∧ u.prt p = some t'
        ∧ t'.sequences.find e.seq = some sq' ∧ sq'.committed = min sq.committed (64 * kk) ∧ sq'.prov = 0
        ∧ sq'.rc = sq.rc + (sq.committed - min sq.committed (64 * kk)) ∧ sq'.table = sq.table.keep (fun b _ => b < kk)
        ∧ t'.sessions.find sess = some ss' ∧ ss'.st = .opened ∧ t'.steps.find n = some k' ∧ k'.st = .applied
        ∧ (u.journal p.val).openPage.getLast? = some rec' ∧ rec'.jtype = jRevive ∧ rec'.step = n)
    ∧ (∀ n k, t.revivals.find sess = some rv → rv.step = some n → t.steps.find n = some k → k.st ≠ .committing →
      exec (.revivalApply p sess) s = .next s)
    ∧ (∀ qp msg r b, t.model? msg.modelId = some m → m.leads = true → m.memberOf qp = some r → msg.mtype.toNat = mtHgRevive →
      msgSized msg 8 = true → msgRecs msg 8 = [b] → t.revivals = [] →
      ∃ u, exec (.hgRevive p qp msg) s = .next u ∧ Answers u .ok ∧ u.prt p = some { t with
        hgEarly := (t.hgEarly.filter fun o => !(o.1 == r && o.2.1 == fld b 0 4)) ++ [(r, fld b 0 4, fld b 4 4)] })
    ∧ (∀ qp msg r b i v, t.model? msg.modelId = some m → m.leads = true → m.memberOf qp = some r → msg.mtype.toNat = mtHgRevive →
      msgSized msg 8 = true → msgRecs msg 8 = [b] → t.revivalBySeq (fld b 0 4) = some i → t.revivals.find i = some v →
      (∀ e ∈ t.revivals, e.1 ≠ i → e.2.hgWait = false) →
      (∀ d, t.sessModel i = some d → t.hgRevived d { v with hgGot := v.hgGot ++ [(r, fld b 0 4, fld b 4 4)] } = false) →
      ∃ u t', exec (.hgRevive p qp msg) s = .next u ∧ Answers u .ok ∧ u.prt p = some t'
        ∧ t'.revivals.find i = some { v with hgGot := v.hgGot ++ [(r, fld b 0 4, fld b 4 4)] })
    ∧ (∀ qp msg b i v n k e, t.model? msg.modelId = some m → m.leads = false → m.memberOf qp = some 0 →
      msg.mtype.toNat = mtHgReviveK → msgSized msg 8 = true → msgRecs msg 8 = [b] → t.revivalHolding (fld b 0 4) = some i →
      t.revivals.find i = some v →
      (fld b 4 4 = 0xFFFFFFFF → exec (.hgReviveK p qp msg) s = .next ((s.stopRevival p i .aborted).answer .ok))
      ∧ (fld b 4 4 ≠ 0xFFFFFFFF → v.hgWait = false → ∃ u, exec (.hgReviveK p qp msg) s = .next u ∧ Answers u .ok ∧ u.prt p = some
          { t with revivals := t.revivals.upd i fun v => { v with hgGot := [(0, fld b 0 4, fld b 4 4)] } })
      ∧ (fld b 4 4 ≠ 0xFFFFFFFF → v.hgWait = true → v.step = some n → t.steps.find n = some k → k.num = n → v.seqs = [e] →
        t.hgSeqOf e.seq = fld b 0 4 → (∀ h ∈ t.groupsThrough k e.seq (min (fld b 4 4) e.kmax), h ≠ 0 →
          ∃ r, t.groups.find (hIndex h) = some r ∧ r.tier = .t0 ∧ r.move = .idle) →
        ∃ u t' k', exec (.hgReviveK p qp msg) s = .next u ∧ Answers u .ok ∧ u.prt p = some t'
          ∧ t'.revivals.find i = some { v with hgWait := false, seqs := [{ e with k := some (min (fld b 4 4) e.kmax) }] }
          ∧ t'.steps.find n = some k' ∧ k'.st = .committing))
    ∧ (∀ n k, t.revivals.find sess = some rv → rv.step = some n → t.steps.find n = some k → m.leads = true →
      (rv.hgWait = false → exec (.hgReviveTimeout p sess) s = .next s)
      ∧ (rv.hgWait = true → rv.committed = false → t.revivals.wf → ∃ u t', exec (.hgReviveTimeout p sess) s = .next u
        ∧ u.prt p = some t' ∧ t'.revivals.find sess = none))

/-- 09 R208 to R210, Table 9-7: what a migration's stream, its control messages and its timers do at the source and at the
successor. -/
def Obligations.MigrationResults : Prop :=
  ∀ (s : State) (p : Part) (t : Partition) (g : Migration) (q : Qn) (k : Queue) (l : Live), s.prt p = some t →
    t.migrations.find g.id.toNat = some g → t.migrations.wf → g.q = q.val → t.queues.find q.val = some k →
    t.liveOf q.val g.cid = some l → l.req = none → l.abortStatus = none → l.posted1 = false →
    (∀ rec', rec'.migId = g.id → g.source = false → g.imported = false →
      (rec'.kind ≠ 5 → exec (.migStreamRecord p rec') s = .next (s.updP p fun t =>
        { t with migrations := t.migrations.put g.id.toNat { g with records := g.records ++ [rec'] } }))
      ∧ (∀ m, rec'.kind = 5 → g.sess = none → t.model? (BitVec.ofNat 16 (fld g.fields 4 2)) = some m →
        (∃ r ∈ g.records ++ [rec'], r.kind ≠ 4 ∧ (r.tagOk && r.sealsOk) = false) →
        ∃ u, exec (.migStreamRecord p rec') s = .next u ∧ u.migration? p g.id = none ∧ Completes u p q k l .sealMismatch g.id))
    ∧ (∀ j, g.source = false → g.imported = true → g.confirmed = false → g.jseq = some j → j ≤ (s.journal p.val).durable →
      ∃ u t', exec (.migImportDurable p g.id) s = .next u ∧ u.prt p = some t'
        ∧ t'.migrations.find g.id.toNat = some { g with confirmed := true }
        ∧ t'.outbox = t.outbox ++ [⟨none, none, migMsg mtMigConfirm g.id .ok⟩])
    ∧ (∀ j, g.jseq = some j → (s.journal p.val).durable < j → exec (.migImportDurable p g.id) s = .next s)
    ∧ (∀ qp m n, migRead mtMigConfirm m = some (g.id, n) → g.source = true → g.confirmed = false →
      ∃ u t', exec (.migConfirm p qp m) s = .next u ∧ Answers u .ok ∧ u.prt p = some t'
        ∧ t'.migrations.find g.id.toNat = some { g with confirmed := true, jseq := some (s.journal p.val).next }
        ∧ t'.migHistory.getLast? = some (g.id, .ok) ∧ (u.journal p.val).next = (s.journal p.val).next + 1)
    ∧ (∀ qp m c i ss, (migRead mtMigRelease m ≠ none ∧ (migRead mtMigRelease m).map (·.1) = some g.id ∧ c = Instr.migRelease p qp m)
        ∨ (migRead mtMigAnswer m = some (g.id, Status.ok.code.toNat) ∧ c = Instr.migAnswer p qp m) →
      g.source = false → g.confirmed = true → g.sess = some i → t.sessions.find i = some ss → ss.h = g.hSess →
      ∃ u t' ss', exec c s = .next u ∧ Answers u .ok ∧ u.prt p = some t' ∧ t'.migrations.find g.id.toNat = none
        ∧ t'.sessions.find i = some ss' ∧ ss'.st = .parked ∧ ss'.parkReason = 0 ∧ ss'.parkedAt = t.clock
        ∧ t'.parked = t.parked ++ [i] ∧ Completes u p q k l .ok g.id)
    ∧ (∀ qp m c n, (migRead mtMigCancel m = some (g.id, n) ∧ c = Instr.migCancel p qp m)
        ∨ (migRead mtMigAnswer m = some (g.id, n) ∧ n ≠ Status.ok.code.toNat ∧ g.confirmed = true ∧ c = Instr.migAnswer p qp m) →
      g.source = false → g.sess = none → ∃ u, exec c s = .next u ∧ Answers u .ok ∧ u.migration? p g.id = none
        ∧ Completes u p q k l .aborted g.id)
    ∧ (∀ qp m n, migRead mtMigCancel m = some (g.id, n) → g.source = true → g.confirmed = true →
      ∃ u, exec (.migCancel p qp m) s = .next u ∧ Answers u .accessViolation ∧ u.migration? p g.id = some g)
    ∧ (∀ qp m id n, migRead mtMigQuery m = some (id, n) → t.migrations.find id.toNat = none →
      (∀ st, t.migHistory.find? (fun e => e.1 == id) = some (id, st) →
        exec (.migQuery p qp m) s = .next ((s.sendMsg p (some qp) none (migMsg mtMigAnswer id st)).answer .ok))
      ∧ ((∀ e ∈ t.migHistory, e.1 ≠ id) →
        exec (.migQuery p qp m) s = .next ((s.sendMsg p (some qp) none (migMsg mtMigAnswer id .aborted)).answer .ok)))
    ∧ (∀ i ss, g.source = true → g.sess = some i → t.sessions.find i = some ss → ss.h = g.hSess → t.sessions.wf →
      (g.confirmed = false → ∃ u t', exec (.migTimeout p g.id) s = .next u ∧ u.prt p = some t'
        ∧ t'.migrations.find g.id.toNat = none ∧ t'.migHistory.getLast? = some (g.id, .aborted)
        ∧ t'.sessions.find i = some
          { ss with st := .parked, parkReason := g.hadReason, parkedAt := t.clock, pflags := 4 * g.hadReason, preRevived := false }
        ∧ t'.parked.getLast? = some i ∧ Completes u p q k l .aborted g.id)
      ∧ (g.confirmed = true → exec (.migTimeout p g.id) s = .next s))
    ∧ (g.source = false → g.confirmed = true → exec (.migQueryTimer p g.id) s
      = .next (s.updP p fun t => { t with outbox := t.outbox ++ [⟨none, none, migMsg mtMigQuery g.id .ok⟩] }))
    ∧ (g.confirmed = false → exec (.migQueryTimer p g.id) s = .next s)

/-- 12 R268 to R272, R274, R276, Table 12-8: the expected packet of a peer executes: a WRITE writes its region, a SEND fills the ring, a
READ_REQ is answered with the bytes, a DISCONNECT frees the queue pair; a connection request that fits is accepted. -/
def Obligations.PacketResults : Prop :=
  ∀ (s : State) (port : PortNo) (pk : Pkt) (p : Part) (t : Partition) (q : Qp),
    (∀ r, let i := pk.rkey.toNat % 65536
      InOrder s port opWrite pk p t q → t.genOf kRegion i = pk.rkey.toNat / 2 ^ 24 → t.regions.find i = some r → r.registered = true →
      r.rkey = pk.rkey → (r.st = .uploading ∨ (r.st = .valid ∧ r.published = false)) →
      pk.roff.toNat + pk.payload.length ≤ r.size → t.cold r pk.roff.toNat pk.payload.length = [] → pk.trigOn = false →
      ∃ (u : State) (t' : Partition) (q' : Qp), exec (.write port pk) s = .next u ∧ u.prt p = some t'
        ∧ t'.regions.find i = some (r.write pk.roff.toNat pk.payload) ∧ t'.qps.find pk.dqp = some q'
        ∧ q'.rcvEpsn = psnAdd pk.psn 1 ∧ q'.notes = q.notes ++ if pk.fin then [noteWord 2 .ok pk.aux.toNat] else [])
    ∧ (InOrder s port opWrite pk p t q → pk.trigOn = false →
      t.regions.find (pk.rkey.toNat % 65536) = none → t.genOf kRegion (pk.rkey.toNat % 65536) = pk.rkey.toNat / 2 ^ 24 →
      ∃ u t', exec (.write port pk) s = .next u ∧ u.prt p = some t' ∧ t'.regions = t.regions)
    ∧ (∀ r, let i := hIndex q.recvRegion
      InOrder s port opSend pk p t q → pk.fin = false → q.recvRegion ≠ 0 → t.genOf kRegion i = hGen q.recvRegion →
      t.regions.find i = some r → r.st ≠ .unbindable → pk.roff.toNat / 2 ^ 32 ≤ r.size →
      pk.roff.toNat % 2 ^ 32 + pk.payload.length ≤ pk.roff.toNat / 2 ^ 32 → q.msgOf pk.aux.toNat = none →
      let a := (q.ringAt + pk.roff.toNat % 2 ^ 32) % r.size
      let n := min pk.payload.length (r.size - a)
      t.cold r a n = [] → t.cold r 0 (pk.payload.length - n) = [] →
      q.ringUsed + pk.roff.toNat / 2 ^ 32 ≤ r.size → ∃ (u : State) (t' : Partition) (q' : Qp), exec (.send port pk) s = .next u ∧ u.prt p = some t'
        ∧ t'.regions.find i = some (r.ringWrite (q.ringAt + pk.roff.toNat % 2 ^ 32) pk.payload) ∧ t'.qps.find pk.dqp = some q'
        ∧ q'.msgs = q.msgs ++ [⟨pk.aux.toNat, q.ringAt, pk.roff.toNat / 2 ^ 32⟩]
        ∧ q'.ringUsed = q.ringUsed + pk.roff.toNat / 2 ^ 32 ∧ q'.rcvEpsn = psnAdd pk.psn 1)
    ∧ (∀ r, let i := pk.rkey.toNat % 65536
      InOrder s port opReadReq pk p t q → pk.fin = false → pk.areq = false → pk.ce = false → q.unacked = 0 →
      t.genOf kRegion i = pk.rkey.toNat / 2 ^ 24 → t.regions.find i = some r → r.registered = true → r.rkey = pk.rkey → r.st = .valid →
      0 < pk.aux.toNat → pk.aux.toNat ≤ q.payload → pk.roff.toNat + pk.aux.toNat ≤ r.size →
      r.poisoned pk.roff.toNat pk.aux.toNat = false → t.cold r pk.roff.toNat pk.aux.toNat = [] →
      ∃ (u : State) (f : OutFrame) (k' : Pkt), exec (.readReq port pk) s = .next u
        ∧ ((u.prtNo q.port).queues.getD (subKey pk.tc p.val) ⟨[], 0⟩).frames
          = ((s.prtNo q.port).queues.getD (subKey pk.tc p.val) ⟨[], 0⟩).frames ++ [f]
        ∧ f.op = opReadResp ∧ f.pkt = some k' ∧ k'.payload = r.read pk.roff.toNat pk.aux.toNat ∧ k'.dst = pk.src ∧ k'.dqp = pk.sqp
        ∧ k'.aux = pk.psn.zeroExtend 32)
    ∧ (InOrder s port opDisconnect pk p t q → t.qps.wf → ∃ u t', exec (.disconnect port pk) s = .next u ∧ u.prt p = some t'
      ∧ t'.qps.find pk.dqp = none)
    ∧ (Admitted s port pk p t → t.accepts pk = some q → ∃ (u : State) (t' : Partition) (q' : Qp), exec (.connectReq port pk) s = .next u
      ∧ u.prt p = some t'
      ∧ t'.qps.find pk.dqp = some q' ∧ q'.st = .ready ∧ q'.peerAddr = pk.src ∧ q'.peerQpn = pk.sqp
      ∧ q'.payload = min (pk.roff.toNat % 65536) (s.portPayload port.val) ∧ q'.rcvEpsn = pk.aux.truncate 24
      ∧ q'.sndNxt = Config.psn s.free ∧ q'.sndUna = q'.sndNxt ∧ q'.cwnd = q'.payload)
    ∧ (Admitted s port pk p t → t.accepts pk = none → ∃ u t', exec (.connectReq port pk) s = .next u ∧ u.prt p = some t'
      ∧ t'.qps = t.qps)
    ∧ ((s.prtNo port.val).up = true → 9216 < s.frameLen port.val pk → exec (.send port pk) s = .next s ∧ exec (.write port pk) s = .next s)
    ∧ ((s.prtNo port.val).up = false → ∀ c ∈ [Instr.send port pk, .write port pk, .readReq port pk, .readResp port pk, .ack port pk,
      .nak port pk, .connectReq port pk, .connectRep port pk, .disconnect port pk], exec c s = .next s)
    ∧ (Admitted s port pk p t → pk.roff.toNat < 2 ^ 32 → t.qps.find pk.dqp = none → ∀ c ∈ [Instr.send port pk, .write port pk, .readReq port pk,
      .readResp port pk, .ack port pk, .nak port pk, .connectRep port pk, .disconnect port pk],
      ∃ u, exec c s = .next u ∧ u.prt p = some (t.count cRxNoqp 1))

/-- 12 R274, R276, R279, R283, R284, Table 12-7: what an answer does to a sender: an ACK of the last packet completes the request, a
refusal ends it or holds its packet back, read data goes to its region, and a connection opens or fails. -/
def Obligations.AnswerResults : Prop :=
  ∀ (s : State) (port : PortNo) (pk : Pkt) (p : Part) (t : Partition) (q : Qp),
    (∀ o w, FromPeer s port opAck pk p t q → q.st = .ready → q.out = [o] → q.work = [w] → o.acked = false → o.wr = w.id →
      o.last = true → w.final = true → w.op ≠ 3 → w.chain = none → w.data = none → w.status = .ok →
      psnDiff o.psn (pk.aux.truncate 24) < 0 → pk.pause = false → ∃ u t' q', exec (.ack port pk) s = .next u ∧ u.prt p = some t'
        ∧ t'.qps.find pk.dqp = some q' ∧ q'.work = [] ∧ q'.out = [] ∧ q'.sndUna = q.sndNxt ∧ q'.inflight = q.inflight - o.len
        ∧ q'.notes = q.notes ++ [noteWord 1 .ok w.tag.toNat] ∧ q'.pausedUntil = none)
    ∧ (FromPeer s port opAck pk p t q → q.out = [] → q.work = [] → q.st = .ready → pk.pause = true →
      ∃ u t' q', exec (.ack port pk) s = .next u ∧ u.prt p = some t' ∧ t'.qps.find pk.dqp = some q'
        ∧ q'.pausedUntil = some ((s.prtNo q.port).time + pk.rkey.toNat * 1000))
    ∧ (FromPeer s port opNak pk p t q → pk.aux.toNat / 2 ^ 24 = Status.resendAfter.code.toNat →
      ∃ u t', exec (.nak port pk) s = .next u ∧ u.prt p = some t' ∧ t'.qps.find pk.dqp = some { q with
        out := q.out.map fun o => if o.psn = pk.aux.truncate 24 ∧ o.acked = false then
          { o with notBefore := (s.prtNo q.port).time + (pk.roff.toNat % 2 ^ 32) * 1000 } else o })
    ∧ (∀ o w, FromPeer s port opNak pk p t q → q.st = .ready → q.out = [o] → q.work = [w] → o.acked = false → o.wr = w.id →
      o.psn = pk.aux.truncate 24 → o.last = true → w.final = true → w.op ≠ 3 → w.chain = none → w.data = none → w.status = .ok →
      pk.aux.toNat / 2 ^ 24 = Status.accessViolation.code.toNat → ∃ u t' q', exec (.nak port pk) s = .next u ∧ u.prt p = some t'
        ∧ t'.qps.find pk.dqp = some q' ∧ q'.work = [] ∧ q'.out = []
        ∧ q'.notes = q.notes ++ [noteWord 1 .accessViolation w.tag.toNat])
    ∧ (∀ w r, FromPeer s port opReadResp pk p t q → q.st = .ready → (∀ e ∈ q.work, e.final = false) →
      (∀ e ∈ q.work, (if e.op = 3 then 1 else e.len) ≤ e.sent) →
      q.work.find? (fun w => w.op == 3 && w.sent != 0 && w.psn == BitVec.truncate 24 pk.aux) = some w →
      pk.roff.toNat + pk.payload.length ≤ w.len → w.got.contains pk.roff.toNat = false →
      t.genOf kRegion (hIndex w.region) = hGen w.region → t.regions.find (hIndex w.region) = some r →
      ∃ u t' q', exec (.readResp port pk) s = .next u ∧ u.prt p = some t'
        ∧ t'.regions.find (hIndex w.region) = some (r.write (w.loff + pk.roff.toNat) pk.payload) ∧ t'.qps.find pk.dqp = some q'
        ∧ q'.work = q.work.map fun e => if e.id = w.id then { e with got := e.got ++ [pk.roff.toNat] } else e)
    ∧ (∀ (qn : Qn) cid k l, FromPeer s port opConnectRep pk p t q → q.st = .connecting → q.work = [] →
      q.waiter = some (qn.val, cid) → t.queues.find qn.val = some k → t.liveOf qn.val cid = some l → l.req = none →
      l.abortStatus = none → l.posted1 = false →
      (pk.aux.toNat / 2 ^ 24 = 0 → ∃ u t' q', exec (.connectRep port pk) s = .next u ∧ u.prt p = some t'
        ∧ t'.qps.find pk.dqp = some q' ∧ q'.st = .ready ∧ q'.payload = pk.roff.toNat % 65536 ∧ q'.rcvEpsn = pk.aux.truncate 24
        ∧ q'.cwnd = q'.payload ∧ q'.waiter = none ∧ Completes u p qn k l .ok (BitVec.ofNat 64 pk.dqp))
      ∧ (pk.aux.toNat / 2 ^ 24 = Status.notReady.code.toNat → ∃ u t', exec (.connectRep port pk) s = .next u ∧ u.prt p = some t'
        ∧ t'.qps.find pk.dqp = some
          { q with tries := 0, retryAt := (s.prtNo q.port).time + (pk.roff.toNat / 2 ^ 32) * 1000 }))

/-- 12 R271, R274, R276, R279, R280, R284, Tables 12-7, 12-19: what the timers of a queue pair do, a revoke's drain, and a frame that
is dropped. -/
def Obligations.TransportTimers : Prop :=
  ∀ (s : State) (p : Part) (n : Nat) (t : Partition) (q : Qp), s.prt p = some t → t.qps.find n = some q →
    (∀ v, q.stalledAt = some v → (∀ h ∈ q.held, h.stalled = false) → ∃ u t' q', exec (.stalledPacketsRelease p n) s = .next u
      ∧ u.prt p = some t' ∧ t'.qps.find n = some q' ∧ q'.stalledAt = none ∧ q'.held = q.held ∧ q'.unacked = 0)
    ∧ (∀ v, q.stalledAt = some v → ∃ u t' q', exec (.stallTimeout p n) s = .next u ∧ u.prt p = some t'
      ∧ t'.qps.find n = some q' ∧ q'.stalledAt = none ∧ q'.held = q.held.filter fun h => !h.stalled)
    ∧ (q.stalledAt = none → exec (.stalledPacketsRelease p n) s = .next s ∧ exec (.stallTimeout p n) s = .next s)
    ∧ ((∀ o ∈ q.out, o.notBefore = 0) → q.work = [] →
      exec (.pauseExpiry p n) s = .next (s.updQp p n fun q => { q with pausedUntil := none }))
    ∧ (q.st = .ready → q.unacked ≠ 0 → ∃ u t', exec (.ackTimer p n) s = .next u ∧ u.prt p = some t'
      ∧ t'.qps.find n = some { q with unacked := 0, eceDue := false })
    ∧ (q.unacked = 0 → exec (.ackTimer p n) s = .next s)
    ∧ (∀ o, q.out.head? = some o → q.st = .ready → q.pausedUntil = none → o.notBefore ≤ (s.prtNo q.port).time →
      (q.ctl.retryMax ≤ q.timeouts + 1 → ∃ u t' q', exec (.rtoExpiry p n) s = .next u ∧ u.prt p = some t' ∧ t'.qps.find n = some q'
        ∧ q'.st = .error ∧ q'.why = .aborted)
      ∧ (∀ w bs, q.timeouts + 1 < q.ctl.retryMax → o.wr ≠ 0 → q.work.find? (fun w => w.id == o.wr) = some w → w.op = 1 →
        w.data = some bs → ∃ u t' q', exec (.rtoExpiry p n) s = .next u ∧ u.prt p = some t' ∧ t'.qps.find n = some q' ∧ q'.st = .ready
          ∧ q'.timeouts = q.timeouts + 1 ∧ q'.rto = min (2 * q.rto) (64 * q.ctl.rtoMin * 1000)
          ∧ t'.counters.getD cRetransmits 0 = (t.counters.getD cRetransmits 0 + 1) % 2 ^ 64))
    ∧ (q.out = [] → exec (.rtoExpiry p n) s = .next s)
    ∧ (q.st = .connecting → q.retryAt ≤ (s.prtNo q.port).time →
      (q.tries < 8 → ∃ u t' q', exec (.connectRetry p n) s = .next u ∧ u.prt p = some t' ∧ t'.qps.find n = some q'
        ∧ q'.st = .connecting ∧ q'.tries = q.tries + 1)
      ∧ (8 ≤ q.tries → ∃ u t' q', exec (.connectRetry p n) s = .next u ∧ u.prt p = some t' ∧ t'.qps.find n = some q'
        ∧ q'.st = .error ∧ q'.why = .aborted))
    ∧ (q.st = .draining → t.qps.wf → ∃ u t', exec (.drainTimeout p n) s = .next u ∧ u.prt p = some t' ∧ t'.qps.find n = none)
    ∧ (q.st ≠ .draining → exec (.drainTimeout p n) s = .next s)
    ∧ (∀ i r, t.regions.find i = some r →
      (r.st = .revoking → ∃ u, exec (.revokeDrained p i) s = .next u
        ∧ u.region? p i = some { r with st := .revoked, registered := false })
      ∧ (r.st ≠ .revoking → exec (.revokeDrained p i) s = .next s))
    ∧ (∀ port : PortNo, ∃ u, exec (.malformedFrame port .row1) s = .next u ∧ u.parts = s.parts
      ∧ (u.prtNo port.val).stats.getD pRxMalformed 0
        = if pRxMalformed < (s.prtNo port.val).stats.length then ((s.prtNo port.val).stats.getD pRxMalformed 0 + 1) % 2 ^ 64 else 0)

/-- 12 R262 to R265, R286, R287, R289 to R292, R294, 14 R338: what the events and timers of a port do: PAUSE frames, port time, gate
lists, buckets, a frame that starts, links and spread. -/
def Obligations.PortResults : Prop :=
  ∀ (s : State) (port : PortNo), let n := port.val
    let q := s.prtNo n
    (q.up = true → exec (.rxPauseFrame port) s = .next ((s.portCount n pRxFrames).portCount n pRxPause))
    ∧ (q.up = false → ∀ c ∈ [Instr.rxPauseFrame port, .ptpHoldover port, .arpNdLldpFrame port none, .ptpMessage port 0 true 0 0,
      .egressFrameStart port 0], exec c s = .next s)
    ∧ (q.up = true → q.holdover = false → ∃ u, exec (.ptpHoldover port) s = .next u
      ∧ u.prtNo n = { q with locked := false, good := 0, holdover := true } ∧ u.parts = s.parts)
    ∧ (q.up = true → q.devTokens < 64 → ∀ d offset time, exec (.ptpMessage port d true offset time) s = .next (s.portCount n pRxFrames)
      ∧ exec (.arpNdLldpFrame port none) s = .next (s.portCount n pRxFrames))
    ∧ (∀ d offset time, q.up = true → 64 ≤ q.devTokens → d.toNat = s.portReg n 0x10 → ∃ u q', exec (.ptpMessage port d true offset time) s = .next u
      ∧ u.prtNo n = q' ∧ q'.devTokens = q.devTokens - 64 ∧ q'.time = time ∧ q'.good = (if offset < 100 then q.good + 1 else 0)
      ∧ (q'.locked = true ↔ q.locked = true ∨ (offset < 100 ∧ 16 ≤ q.good + 1)) ∧ u.parts = s.parts)
    ∧ (∀ a p t, q.up = true → 64 ≤ q.devTokens → s.addrOwner n a = some p → s.prt p = some t → ∃ u f, exec (.arpNdLldpFrame port (some a)) s = .next u
      ∧ ((u.prtNo n).queues.getD (subKey 7 devSub) ⟨[], 0⟩).frames = (q.queues.getD (subKey 7 devSub) ⟨[], 0⟩).frames ++ [f]
      ∧ f.pkt = none ∧ u.parts = s.parts)
    ∧ (∀ time, let l := s.adminList n
      (l.fits = true → ∃ u, exec (.gclGo port time) s = .next u ∧ u.prtNo n = { q with staged := some (l, l.changeTime time) }
        ∧ time + 10000 ≤ l.changeTime time ∧ (∃ k, l.changeTime time = l.base + k * l.cycle)
        ∧ ∀ k, time + 10000 ≤ l.base + k * l.cycle → l.changeTime time ≤ l.base + k * l.cycle)
      ∧ (l.fits = false → exec (.gclGo port time) s = .next s))
    ∧ (∀ l tm, q.staged = some (l, tm) → ∃ u, exec (.gclChangeTime port) s = .next u
      ∧ u.prtNo n = { q with oper := l, staged := none, time := max q.time tm })
    ∧ (s.gated n = true → ∃ u, exec (.gclEntryAdvance port) s = .next u
      ∧ u.prtNo n = { q with time := q.time + (findSegment q.oper.segments 0 (q.oper.phase q.time)).2 })
    ∧ (s.gated n = false → exec (.gclEntryAdvance port) s = .next s)
    ∧ (∀ f d time, q.up = true → (∀ e ∈ s.parts, e.2.qps = []) → q.queues = [(subKey 7 devSub, ⟨[f], d⟩)] → s.gated n = false →
      q.rates.getD 7 0 = 0 → f.pkt = none → ∃ u, exec (.egressFrameStart port time) s = .next u ∧ (u.prtNo n).sent = some f
        ∧ (u.prtNo n).queues = [(subKey 7 devSub, ⟨[], 0⟩)] ∧ (u.prtNo n).time = time)
    ∧ (∀ time, ∃ u, exec (.bucketRefill port time) s = .next u ∧ (u.prtNo n).refillAt = time ∧ u.parts = s.parts
      ∧ (u.prtNo n).devTokens = min 65536 (q.devTokens + earned 10 (time - q.refillAt))
      ∧ ∀ c, c < 8 → (u.prtNo n).rates.getD c 0 = s.portReg n (0x200 + 4 * c)
        ∧ (u.prtNo n).bursts.getD c 0 = s.portReg n (0x220 + 4 * c)
        ∧ (u.prtNo n).tokens.getD c 0 = min (min ((q.bursts.getD c 0 : Nat) : Int)
            (q.tokens.getD c 0 + (earned (q.rates.getD c 0) (time - q.refillAt) : Int))) ((s.portReg n (0x220 + 4 * c) : Nat) : Int))
    ∧ (∀ k, ∃ u, exec (.replyBucketRefill port k) s = .next u ∧ u.prtNo n = { q with replies := min 128 (q.replies + k) })
    ∧ (∃ u, exec (.portLinkChange port false) s = .next u ∧ u.prtNo n = { q with up := false, locked := false, good := 0 })
    ∧ (s.power.spread = false → s.portExists n = true → bitOf (s.portReg (n / 2 * 2) 0) 0 = true →
      ∃ u, exec (.portLinkChange port true) s = .next u ∧ (u.prtNo n).up = true ∧ (q.everLocked = true → (u.prtNo n).time = q.time))
    ∧ (s.power.spread = true → exec (.portLinkChange port true) s = .next s)
    ∧ (∀ ppm, ppm ≤ 1000 → exec (.spreadCheck ppm) s = .next s)
    ∧ (∀ ppm, 1000 < ppm → ∃ u, exec (.spreadCheck ppm) s = .next u ∧ u.power = { s.power with spread := true }
      ∧ ∀ e ∈ u.ports, e.2.up = false)
    ∧ exec .spreadCleared s = .next { s with power := { s.power with spread := false } }

/-- 10 R214 to R226, Tables 10-3, 10-6, 10-7: superblocks close, verify and wear; a read of a piece is counted and is its superblock's last, and
one without a copy left unmaps its unit; a garbage collection copies, verifies, commits by its durable record and erases. The tier is
brought up to date after the commands that change its map. -/
def Obligations.FlashResults : Prop :=
  ∀ (s : State) (n : Nat) (b : Superblock), let f := s.flash
    f.sbs.find n = some b → f.map.wf →
    (b.st = .opened → ∃ u, exec (.superblockClose n) s = .next u ∧ u.flash.sbs.find n = some { b with st := .closed, wseq := f.wseq }
      ∧ u.flash.map = f.map)
    ∧ (∀ bad, b.st = .closed → (∀ e ∈ bad, f.unitAt n e.1 = none) → exec (.superblockVerify n bad) s
      = .next (s.updFlash fun f => { f.worn b.parity with
          sbs := f.sbs.upd n fun b => { b with st := .verified, parity := [] } }).settleFlash)
    ∧ (b.st ≠ .closed → ∀ bad, exec (.superblockVerify n bad) s = .next s)
    ∧ (∀ col m, (b.st = .opened ∨ b.st = .closed) → b.members[col]? = some m → (∀ e ∈ f.map, e.2.sb ≠ n) →
      ∃ (v : State) (b' : Superblock), exec (.flashProgramFail n col) s = .next v.settleFlash ∧ m ∈ v.flash.bad
        ∧ v.flash.sbs.find n = some b' ∧ b'.st = .closed ∧ b'.members = b.members ∧ v.flash.map = f.map)
    ∧ (∀ (p : Part) unit piece bits half w l, f.map.find (unitKey p.val unit) = some w → w.disc = false → w.sb = n →
      w.agrees (unitKey p.val unit) piece = true → f.health.find (b.carrierAt (w.slot + piece.num) piece.mirror) = some l →
      (∃ u, exec (.flashReadDone p unit ⟨piece, .clean⟩) s = .next u ∧ u.flash.map = f.map
        ∧ u.flash.health.find (b.carrierAt (w.slot + piece.num) piece.mirror) = some { l with bytesRead := l.bytesRead + 16384 }
        ∧ u.flash.sbs.find n = some { b with lastRead := f.reads + 1 } ∧ u.flash.reads = f.reads + 1)
      ∧ (∃ u, exec (.flashReadDone p unit ⟨piece, .corrected bits half⟩) s = .next u ∧ u.flash.map = f.map
        ∧ u.flash.health.find (b.carrierAt (w.slot + piece.num) piece.mirror)
          = some { l with bytesRead := l.bytesRead + 16384, correctedBits := l.correctedBits + bits }
        ∧ u.flash.sbs.find n = some { b with
            lastRead := f.reads + 1, marked := b.marked || (half && (b.st == .closed || b.st == .verified)) }))
    ∧ (∀ (p : Part) unit piece w, f.map.find (unitKey p.val unit) = some w → w.disc = false → w.sb = n → b.st = .verified →
      (mirrored w.stream = true ∨ (∃ h, w.owner = .group h) ∨ ∃ h, w.owner = .region h) →
      (∀ h g, w.owner = .group h → s.group? p (hIndex h) = some g → g.h = h → g.tier = .t2 ∨ g.backing = some .t2) →
      ∃ v : State, exec (.flashReadDone p unit ⟨piece, .unreadable false false⟩) s = .next v.settleFlash
        ∧ v.flash.map.find (unitKey p.val unit) = none)
    ∧ (∀ (p : Part) unit res, (∀ w, f.map.find (unitKey p.val unit) = some w → w.disc = true) →
      exec (.flashReadDone p unit res) s = .next s)
    ∧ (∀ half, (b.st = .closed ∨ b.st = .verified) → ∃ u, exec (.flashPatrol n half) s = .next u
      ∧ u.flash.sbs.find n = some { b with lastRead := f.reads + 1, marked := b.marked || half })
    ∧ (∀ half, b.st ≠ .closed → b.st ≠ .verified → exec (.flashPatrol n half) s = .next s)
    ∧ (∀ (ch : Fin 32) c j, f.channel? ch.val = some (c, j) →
      (f.gleans ch.val = true → f.victim c j = some n → ∃ u, exec (.gleanStart ch) s = .next u
        ∧ u.flash.sbs.find n = some { b with st := .victim } ∧ u.flash.jobs.find n = some ⟨.copy, [], [], none⟩)
      ∧ (f.gleaning = [] → f.goodBlocks c j ≤ 50 * f.freeBlocks c j → exec (.gleanStart ch) s = .next s)
      ∧ (ch.val ∈ f.gleaning → 3 * f.goodBlocks c j ≤ 100 * f.freeBlocks c j → exec (.gleanStart ch) s = .next s))
    ∧ (∀ j, f.jobs.find n = some j → let p : Part := Fin.ofNat 16 b.part
      (j.ph = .copy → j.copies = [] → (∀ c, s.copyOf p (.glean n) = some c → c.left = 0) → ∃ u j', exec (.gleanCopyDone n) s = .next u
        ∧ u.flash.jobs.find n = some j' ∧ u.flash.map = f.map
        ∧ (j'.ph = .verify ↔ ∀ e ∈ f.map, e.2.sb = n → e.2.disc = false → (j'.copies.find e.1).isSome = true)
        ∧ ∀ c ∈ j'.copies, ∃ w, (c.1, w) ∈ f.map ∧ w.sb = n ∧ c.2.owner = w.owner ∧ c.2.idx = w.idx
          ∧ c.2.stream = if mirrored w.stream then 7 else 6)
      ∧ (∀ c, s.copyOf p (.glean n) = some c → c.left ≠ 0 → exec (.gleanCopyDone n) s = .next s)
      ∧ (j.ph = .verify → ∃ u j' r, exec (.gleanVerifyDone n []) s = .next u ∧ u.flash.jobs.find n = some j' ∧ j'.ph = .commit
        ∧ j'.jseq = some (s.journal b.part).next ∧ (u.journal b.part).openPage = (s.journal b.part).openPage ++ [r]
        ∧ r.jtype = jMapMove ∧ r.jseq = (s.journal b.part).next)
      ∧ (∀ unit piece mirror w b2 m, j.ph = .verify → j.copies.find (unitKey b.part unit) = some w → f.sbs.find w.sb = some b2 →
        b2.members[b2.colOf (w.slot + piece) mirror]? = some m →
        (j.retries.getD (unitKey b.part unit) 0 < 3 → ∃ u, exec (.gleanVerifyDone n [(unit, piece, mirror)]) s = .next u
          ∧ u.flash.jobs.find n = some { j with
              retries := j.retries.put (unitKey b.part unit) (j.retries.getD (unitKey b.part unit) 0 + 1) }
          ∧ u.flash.map = f.map ∧ u.flash.bad = f.bad)
        ∧ (3 ≤ j.retries.getD (unitKey b.part unit) 0 → ∃ u, exec (.gleanVerifyDone n [(unit, piece, mirror)]) s = .next u
          ∧ m ∈ u.flash.bad ∧ u.flash.map = f.map))
      ∧ (∀ m k to_ w, j.ph = .commit → j.jseq = some m → j.copies = [(k, to_)] → f.map.find k = some w → w.sb = n → w.disc = false →
        (m ≤ (s.journal b.part).durable → ∃ u, exec (.gleanCommit n) s = .next u
          ∧ u.flash.sbs.find n = some { b with st := .erasing } ∧ u.flash.jobs.find n = some { j with ph := .erase }
          ∧ u.flash.map.find k = some { to_ with stale := w.stale })
        ∧ ((s.journal b.part).durable < m → exec (.gleanCommit n) s = .next s))
      ∧ (b.st = .erasing → f.sbs.wf → f.jobs.wf → ∃ v : State, exec (.gleanEraseDone n []) s = .next v.settleFlash.gleanNext
        ∧ v.flash.sbs.find n = none ∧ v.flash.jobs.find n = none ∧ v.flash.map = f.map))

/-- 13 R314 to R317: a page closes, a programmed page makes its records durable, a checkpoint writes its record behind the images, which a
READ_ONLY tier refuses (10 Table 10-11). -/
def Obligations.JournalResults : Prop :=
  ∀ (s : State) (j : LogId), let r := s.journal j.val
    (r.openPage ≠ [] → r.stopped = false → ∃ u, exec (.journalPageTimeout j) s = .next u
      ∧ u.journal j.val = { r with closed := r.closed ++ [r.openPage], openPage := [] }
      ∧ ∀ i, i ≠ j.val → u.journal i = s.journal i)
    ∧ (r.openPage = [] ∨ r.stopped = true → ∃ u, exec (.journalPageTimeout j) s = .next u ∧ u.journal j.val = r)
    ∧ (∀ pg ps last, r.closed = pg :: ps → pg.getLast? = some last → ∃ v : State,
      exec (.journalPageProgrammed j) s = .next v.settleFlash ∧ (v.journal j.val).durable = last.jseq
        ∧ (v.journal j.val).closed = ps ∧ (v.journal j.val).pages = r.pages + 1)
    ∧ (∀ m i im t, j.val < 16 → s.prt (Fin.ofNat 16 j.val) = some t → t.migrations = [] → r.closed = [[m]] →
      m.body = .session i (some im) → m.jtype ≠ jCommit → ∃ v : State,
        exec (.journalPageProgrammed j) s = .next v.settleFlash ∧ (v.journal j.val).sessions.find i = some im)
    ∧ (∀ (p : Part), journalPart j = some p →
      (s.flashRO = false → ∃ (v : State) (e : JRec), exec (.journalCheckpoint j) s = .next v.settleFlash ∧ (v.journal j.val).pages = 0
        ∧ (v.journal j.val).openPage = r.openPage ++ [e] ∧ e.jtype = jCheckpoint ∧ e.jseq = r.next
        ∧ (v.journal j.val).next = r.next + 1 ∧ (v.journal j.val).durable = r.durable ∧ (v.journal j.val).newer = [] ∧ v.parts = s.parts)
      ∧ (s.flashRO = true → ∃ u, exec (.journalCheckpoint j) s = .next u ∧ u.journals = s.journals ∧ u.flash.map = s.flash.map))
    ∧ (journalPart j = none → ∃ u e, exec (.journalCheckpoint j) s = .next u ∧ (u.journal j.val).pages = 0
      ∧ (u.journal j.val).openPage = r.openPage ++ [e] ∧ e.jtype = jCheckpoint ∧ e.jseq = r.next
      ∧ (u.journal j.val).next = r.next + 1 ∧ (u.journal j.val).durable = r.durable ∧ u.parts = s.parts)

/-- 10 R231 to R235, 15 R358, Table 10-13, 19 R422 to R424: the states of a carrier's slot, its power and its classification. A
carrier that joins with a past here, or as a new one, is in service. -/
def Obligations.CarrierResults : Prop :=
  ∀ (s : State) (k : Slot), let c := s.slot k
    (∀ b, Awake s → ∃ u, exec (.carrierPresent k b) s = .next u ∧ u.slot k = { c with level := b } ∧ u.power = s.power)
    ∧ (∀ b, s.power.st = .dormant → ∃ u, exec (.carrierPresent k b) s = .next u ∧ u.slot k = { c with level := b }
      ∧ u.power.st = .initialising ∧ u.power.wakeCause = 0x50)
    ∧ (c.level = true → c.st = .absent → ∃ u, exec (.carrierPresentDebounced k) s = .next u
      ∧ u.slot k = { c with st := .present, pwren := true })
    ∧ (c.level = false → c.st = .qualifying → ∃ u, exec (.carrierPresentDebounced k) s = .next u
      ∧ u.slot k = { c with st := .absent, pwren := false, released := false, detachJseq := none })
    ∧ (c.st = .present → c.pwren = true → ∃ u, exec (.carrierPgood k true) s = .next u
      ∧ u.slot k = { c with pgood := true, st := .qualifying })
    ∧ (c.st = .present → c.pgood = false → ∃ u, exec (.carrierPgoodTimeout k) s = .next u
      ∧ u.slot k = { c with st := .failed, pwren := false, released := false })
    ∧ (c.pgood = true → exec (.carrierPgoodTimeout k) s = .next s
      ∧ ∃ u, exec (.carrierResetRelease k) s = .next u ∧ u.slot k = { c with released := true })
    ∧ (c.pgood = false → exec (.carrierResetRelease k) s = .next s)
    ∧ (c.st = .qualifying → ∀ x ∈ [Instr.carrierQualifyTimeout k, .carrierQualifyDone k .failed],
      ∃ u, exec x s = .next u ∧ u.slot k = { c with st := .failed, pwren := false, released := false })
    ∧ (∀ x y r g, c.st = .qualifying → geometryFits g = true → pickIdentity x y = some r → r.serial ≠ deviceSerial →
      s.ident.predecessors.contains (r.serial, r.id, r.epoch) = false →
      ∃ u, exec (.carrierQualifyDone k (.identity x y g)) s = .next u ∧ u.slot k
        = { c with geo := g, copies := [x, y], serial := r.serial, epoch := r.epoch, iseq := r.iseq, st := .foreign, id := r.id })
    ∧ (∀ q g, c.st = .qualifying → geometryFits g = true →
      (q = .blank g ∨ ∃ x y, q = .identity x y g ∧ pickIdentity x y = none) → ∃ v : State,
      exec (.carrierQualifyDone k q) s = .next v.settleFlash ∧ (v.slot k).st = .inService
        ∧ (v.slot k).id = s.flash.nextCarrier ∧ (v.slot k).geo = g ∧ v.flash.nextCarrier = s.flash.nextCarrier + 1)
    ∧ (∀ x y g, c.st = .qualifying → geometryFits g = false → ∀ q ∈ [Qualify.blank g, .identity x y g],
      ∃ u, exec (.carrierQualifyDone k q) s = .next u ∧ u.slot k = { c with st := .failed, pwren := false, released := false })
    ∧ (c.st ≠ .qualifying → exec (.carrierQualifyTimeout k) s = .next s ∧ ∀ r, exec (.carrierQualifyDone k r) s = .next s)
    ∧ (Awake s → c.st = .inService → (∀ e ∈ s.flash.map, mirrored e.2.stream = true → s.flash.onCarrier e.2 c.id = false) →
      ∀ x ∈ [Instr.carrierAttention k, .carrierDetach k], ∃ u c' j, exec x s = .next u
      ∧ u.slot k = c' ∧ c'.st = .detaching ∧ c'.detachJseq = some j ∧ c'.id = c.id ∧ c'.epoch = s.flash.detachEpoch + 1
      ∧ c'.iseq = (c.iseq + 1) % 2 ^ 32 ∧ c'.copies = [c'.identity, c'.identity])
    ∧ (Awake s → c.st = .detached ∨ c.st = .failed → ∃ u, exec (.carrierAttention k) s = .next u
      ∧ u.slot k = { c with st := .qualifying, pwren := true })
    ∧ (Awake s → c.st ≠ .inService → ∃ u, exec (.carrierDetach k) s = .next u ∧ Answers u .accessViolation ∧ u.flash = s.flash)
    ∧ (∀ j, c.st = .detaching → c.detachJseq = some j →
      (j ≤ (s.journal devJournal).durable → ∃ u, exec (.cleanDetachDurable k) s = .next u
        ∧ u.slot k = { c with st := .detached, pwren := false, released := false, detachJseq := none }
        ∧ u.flash.cleanRecs = s.flash.cleanRecs ++ [(c.id, c.epoch)])
      ∧ ((s.journal devJournal).durable < j → exec (.cleanDetachDurable k) s = .next s))
    ∧ (Awake s →
      (s.presence.window = false ∨ s.presence.broken = true → ∃ u, exec (.eraseForeignCarrier k) s = .next u
        ∧ Answers u .presenceRequired ∧ u.flash = s.flash)
      ∧ (s.presence.window = true → s.presence.broken = false → c.st ≠ .foreign → ∃ u, exec (.eraseForeignCarrier k) s = .next u
        ∧ Answers u .accessViolation ∧ u.flash = s.flash)
      ∧ (s.presence.window = true → s.presence.broken = false → c.st = .foreign → ∃ v : State,
        exec (.eraseForeignCarrier k) s = .next (v.settleFlash.answer .ok) ∧ (v.slot k).st = .inService
          ∧ (v.slot k).id = s.flash.nextCarrier))

/-- 01 R14, R15, 02 R32, 05 R98, 15 R349, R350, R353, R358, R361, R362: the commands that need presence are refused without it; with it a
layout creates, changes and removes partitions, and domains, firmware, keys and migration records take their effect. -/
def Obligations.PresenceCommands : Prop :=
  ∀ (s : State), Awake s →
    ((s.presence.window = false ∨ s.presence.broken = true) → ∀ l p mem et mx dom img w d ok r,
      ∀ c ∈ [Instr.layout l, .declareCrossDomain p mem et mx, .withdrawCrossDomain dom, .firmwareUpdate img, .versionCommit,
        .keyEnrolment p w, .exportMigrationRecord mem d ok, .importMigrationRecord r],
      ∃ u, exec c s = .next u ∧ Answers u .presenceRequired ∧ u = { s with reply := u.reply })
    ∧ (s.presence.window = true → s.presence.broken = false →
      (∀ l, (∀ n, s.applyLayout l = some n → n.layoutOk = false) → ∃ u, exec (.layout l) s = .next u ∧ Answers u .accessViolation
        ∧ u = { s with reply := u.reply })
      ∧ (∀ l n, s.applyLayout l = some n → n.layoutOk = true →
        exec (.layout l) s = .next ((n.settleFlash.layoutRecord).answer .ok))
      ∧ (∀ e b n, s.applyLayout ⟨[], [e], b⟩ = some n → s.prt e.num = none → ∃ t, n.prt e.num = some t ∧ t.st = .configured
        ∧ t.clusters = e.clusters ∧ t.quota = e.sessionQuota ∧ t.shareT0 = e.shareT0 ∧ t.sessions = [] ∧ t.groups = []
        ∧ ∀ o, o ≠ e.num → n.prt o = s.prt o)
      ∧ (∀ p b n, s.applyLayout ⟨[p], [], b⟩ = some n → s.parts.wf → n.prt p = none
        ∧ (∀ o t, o ≠ p → s.prt o = some t → ∃ ns, n.prt o = some { t with nodes := ns }) ∧ (∀ e ∈ n.flash.map, keyPart e.1 ≠ p.val)
        ∧ (∀ e ∈ n.flash.sbs, e.2.part = p.val → e.2.st = .erasing)
        ∧ (s.ident.keyEpoch.length = 16 →
          n.ident.keyEpoch.getD p.val 0 = min 0xFFFF (s.ident.keyEpoch.getD p.val 0 + 1)))
      ∧ (∀ p b t, s.prt p = some t → t.st = .active → s.applyLayout ⟨[p], [], b⟩ = none)
      ∧ (∀ owner mem t id, s.prt owner = some t →
        (∀ p : Part, bitOf (mem ||| (1#16 <<< owner.val)).toNat p.val = true → (s.prt p).map (·.grade) = some t.grade) →
        s.domains.lowestFree (fun k => k / 1024 == 32 + owner.val) 1024 (mkDomain owner.val 0).toNat = some id →
        ∃ u d, exec (.declareCrossDomain owner mem false 0) s = .next u ∧ Answers u .ok ∧ u.domains.find id = some d
          ∧ d.cross = true ∧ d.members = mem ||| (1#16 <<< owner.val) ∧ d.st = .active ∧ d.key = Config.domainKey s.free)
      ∧ (∀ dom d, s.domain? dom = some d → d.cross = true → d.st = .active →
        (s.domNamed dom = true → ∃ u, exec (.withdrawCrossDomain dom) s = .next u ∧ Answers u .accessViolation ∧ u.domains = s.domains)
        ∧ (s.domNamed dom = false → s.domains.wf → ∃ u, exec (.withdrawCrossDomain dom) s = .next u ∧ Answers u .ok
          ∧ ∀ d', u.domains.find dom.toNat = some d' → d'.st = .closing))
      ∧ (∀ img, img.sigOk = true → s.ident.minSvn ≤ img.svn → exec (.firmwareUpdate img) s
        = .next ({ s with ident := { s.ident with boot := some img } }.answer .ok))
      ∧ (∀ img, img.sigOk = true → img.svn < s.ident.minSvn → ∃ u, exec (.firmwareUpdate img) s = .next u ∧ u.ident = s.ident)
      ∧ (∀ i, s.ident.running = some i → exec .versionCommit s
        = .next ({ s with ident := { s.ident with minSvn := max s.ident.minSvn i.svn } }.answer .ok))
      ∧ (∀ p t w, s.prt p = some t → ∃ u, exec (.keyEnrolment p w) s = .next u ∧ Answers u .ok
        ∧ u.prt p = some { t with wrapped := ⟨t.wrapped.data, Config.keyWrap (pkek p t.keyEpoch) (Config.enrolled w)⟩ })
      ∧ (∀ parts d n, s.ident.migIn = some n → (∀ p : Part, bitOf parts.toNat p.val = true → (s.prt p).isSome = true) →
        ∃ u r, exec (.exportMigrationRecord parts d true) s = .next u ∧ u.reply = some r ∧ r.status = .ok ∧ r.data = u.ident.record
          ∧ u.ident.migIn = (if (n + 1) % 64 = 0 then none else some (n + 1)) ∧ u.parts = s.parts)
      ∧ (∀ r, r.dstSerial ≠ deviceSerial → ∃ u, exec (.importMigrationRecord r) s = .next u ∧ Answers u .accessViolation
        ∧ u = { s with reply := u.reply })
      ∧ (∀ r, r.dstSerial = deviceSerial → r.sigsOk = false → ∃ u, exec (.importMigrationRecord r) s = .next u
        ∧ Answers u .sealMismatch ∧ u = { s with reply := u.reply })
      ∧ (∀ r, r.dstSerial = deviceSerial → r.sigsOk = true → s.ident.nonces.contains r.nonce = true →
        ∃ u, exec (.importMigrationRecord r) s = .next u ∧ Answers u .staleKey ∧ u = { s with reply := u.reply })
      ∧ (∀ r n, r.dstSerial = deviceSerial → r.sigsOk = true → s.ident.nonces.contains r.nonce = false →
        (∀ l ∈ r.parts, s.prt l.num = none) → s.applyLayout ⟨[], r.parts, s.presence.sealAction⟩ = some n → n.layoutOk = true →
        r.objects = [] → ∃ v : State,
          exec (.importMigrationRecord r) s = .next (((v.settleFlash.layoutRecord).devEvent evMigrationImported 0 0 0).answer .ok)
            ∧ v.ident.nonces = s.ident.nonces ++ [r.nonce] ∧ v.parts = n.parts
            ∧ v.ident.predecessors = s.ident.predecessors ++ r.carriers.map (fun (c : Nat × Nat) => (r.srcSerial, c.1, c.2))))

/-- 01 Table 1-6, 13 R312, R320, 14 R331 to R333, R343, 15 R357, R360: fences and unfences, resets, the way into DORMANT and out of it, the
presence window and the broken-seal state. -/
def Obligations.ControlResults : Prop :=
  ∀ (s : State),
    (∀ (p : Part) t, Awake s → s.prt p = some t → t.st = .active → t.steps = [] → (∀ q ∈ t.qps, q.2.st = .error) →
      (∀ v, bitOf v.toNat 0 = true → exec (.ptFence p v) s = .next (s.updP p fun t => { t with st := .fenced, fenceCause := 1 }))
      ∧ ∀ c ∈ [Instr.flr p, .cxlReset p], exec c s = .next (s.updP p fun t => { t with st := .fenced, fenceCause := 2 }))
    ∧ (∀ (p : Part) v, Awake s → bitOf v.toNat 0 = false → exec (.ptFence p v) s = .next s)
    ∧ (∀ (p : Part) t, Awake s → s.prt p = some t → t.st ≠ .active → ∀ c ∈ [Instr.ptFence p 1, .flr p, .cxlReset p], exec c s = .next s)
    ∧ (∀ (p : Part) t, Awake s → s.prt p = some t → t.st = .fenced → (t.fenceCause ≠ 5 ∨ s.presence.broken = false) → t.steps = [] →
      t.live = [] → (∀ g ∈ t.programs, g.2.st ≠ .unloading) → exec (.unfence (1#16 <<< p.val)) s = .next (s.updP p fun t =>
        { t with queues := t.queues.mapV fun _ q => q.restart, st := .active, fenceCause := 0 }))
    ∧ (∀ (p : Part) t mem bus, Awake s → s.prt p = some t → t.ld.bound = true → t.st = .configured → t.t1hSeen = none →
      (s.presence.broken && s.presence.sealAction) = false →
      ∃ u t', exec (.ldEnable p mem bus) s = .next u ∧ u.prt p = some t' ∧ t'.ld = { t.ld with mem := mem, master := bus }
        ∧ (t'.st = if mem && bus then .active else .configured))
    ∧ (s.power.st = .serving → Awake s → ∃ u, exec .warmReset s = .next u ∧ u.power.st = .initialising ∧ u.power.serviceReady = false
      ∧ u.presence.window = false ∧ u.ident.quoteIn = none ∧ u.cxl = ⟨[], []⟩)
    ∧ (s.power.st ≠ .serving → Awake s → exec .warmReset s = .next s)
    ∧ ((s.power.st = .serving ∨ s.power.st = .initialising) → Awake s → ∃ u, exec .coldReset s = .next u
      ∧ u.power.st = .initialising ∧ u.power.configReady = false ∧ u.power.serviceReady = false ∧ u.power.recovery = some .cold
      ∧ u.presence.window = false ∧ u.ports = [] ∧ u.cxl = ⟨[], []⟩ ∧ u.sideband = ⟨false, none, 0⟩)
    ∧ (s.power.st = .standby → Awake s → exec .coldReset s = .next s)
    ∧ (Awake s → exec .closePresenceWindow s = .next { s with presence := { s.presence with window := false } })
    ∧ (Awake s → s.power.st = .serving →
      ((∃ e ∈ s.parts, e.2.st = .active ∧ bitOf (e.2.reg 0x03C) 0 = false) → ∃ u, exec .dormantGo s = .next u
        ∧ Answers u .accessViolation ∧ u.power = s.power)
      ∧ ((∀ e ∈ s.parts, e.2.st = .active → bitOf (e.2.reg 0x03C) 0 = true) →
        (∀ e ∈ s.flash.slots, e.2.st ≠ .detaching ∧ e.2.st ≠ .qualifying) →
        (s.wakeTooSoon = true → ∃ u, exec .dormantGo s = .next u ∧ Answers u .notReady ∧ u.power = s.power)
        ∧ (s.wakeTooSoon = false → exec .dormantGo s
          = .next { s with power := { s.power with entering := true }, reply := none })))
    ∧ (s.power.entering = true →
      (s.drained = false → exec .dormantEnter s = .next s)
      ∧ (s.drained = true → s.wakeTooSoon = false → ∃ u, exec .dormantEnter s = .next u ∧ Answers u .ok ∧ u.power.st = .dormant
        ∧ u.power.entering = false ∧ u.cam.rows = [])
      ∧ (s.drained = true → s.wakeTooSoon = true → ∃ u, exec .dormantEnter s = .next u ∧ Answers u .notReady
        ∧ u.power = { s.power with entering := false })
      ∧ ∃ u, exec .dormantAbandonTimeout s = .next u ∧ Answers u .aborted ∧ u.power = { s.power with entering := false })
    ∧ (s.power.entering = false → exec .dormantEnter s = .next s ∧ exec .dormantAbandonTimeout s = .next s)
    ∧ (∀ (p : Part) t v, Awake s → s.prt p = some t → t.st ≠ .fenced → exec (.dormantOkWrite p v) s
      = .next (s.updP p fun t => { t with regs := t.regs.put 0x03C (v.zeroExtend 64 &&& 1) }))
    ∧ (s.power.st = .dormant → (∀ k : Fin 8, k.val < s.power.wakes.length → ∃ u, exec (.wakeCounter k) s = .next u
        ∧ u.power.st = .initialising ∧ u.power.wakeCause = k.val ∧ u.power.wakes = [] ∧ u.power.serviceReady = false)
      ∧ (∃ u, exec .hostWake s = .next u ∧ u.power.st = .initialising ∧ u.power.wakeCause = 0x10 ∧ u.power.wakes = [])
      ∧ (∀ (p : Part) v, ∃ u, exec (.dormantOkWrite p v) s = .next u ∧ u.power.st = .initialising ∧ u.power.wakeCause = 0x20 + p.val))
    ∧ (s.power.st ≠ .dormant → exec .hostWake s = .next s ∧ ∀ k, exec (.wakeCounter k) s = .next s)
    ∧ (Awake s →
      (s.presence.window = false → ∃ u, exec .clearBrokenSeal s = .next u ∧ Answers u .presenceRequired ∧ u.presence = s.presence)
      ∧ (s.presence.window = true → ∃ u, exec .clearBrokenSeal s = .next u ∧ Answers u .ok
        ∧ u.presence = { s.presence with broken := false }))

/-- 18 R400, R403 to R412, Tables 18-3, 18-5, 18-9, 14 Table 14-9, 12 R265: doorbells, event logs, the T1H table, mailboxes, and reads and
writes of registers by a BAR and on the sideband. -/
def Obligations.RegisterResults : Prop :=
  ∀ (s : State), Awake s →
    (∀ (p : Part) t (n : Qn) q v, let idx := bitsOf v.toNat 11 0
      s.prt p = some t → t.st ≠ .fenced → t.queues.find n.val = some q →
      (s.power.serviceReady = true → q.st = .enabled → idx < q.depth → exec (.sqDoorbell p n v) s
        = .next (s.updQueue p n.val fun q => { q with sqTail := idx }))
      ∧ (s.power.serviceReady = true → q.st = .enabled → idx < q.depth → q.freed idx ≤ q.posted.length →
        exec (.cqDoorbell p n v) s
          = .next (s.updQueue p n.val fun q => { q with cqHead := idx, posted := q.posted.drop (q.freed idx) }))
      ∧ (s.power.serviceReady = true → q.st = .enabled → q.depth ≤ idx → ∃ u t', exec (.sqDoorbell p n v) s = .next u
        ∧ u.prt p = some t' ∧ t'.queues.find n.val = some { q with st := .error })
      ∧ (s.power.serviceReady = true → q.st = .disabled → ∃ u t', exec (.sqDoorbell p n v) s = .next u
        ∧ u.prt p = some t' ∧ t'.queues = t.queues)
      ∧ (s.power.serviceReady = false → exec (.sqDoorbell p n v) s = .next (s.updQueue p n.val fun q => { q with keptSq := some v })
        ∧ exec (.cqDoorbell p n v) s = .next (s.updQueue p n.val fun q => { q with keptCq := some v })))
    ∧ (∀ (p : Part) t (n : Qn) v, s.prt p = some t → t.st = .fenced →
      exec (.sqDoorbell p n v) s = .next s ∧ exec (.cqDoorbell p n v) s = .next s)
    ∧ (∀ (p : Part) t v, let log : LogId := ⟨p.val, by omega⟩
      s.prt p = some t → t.st ≠ .fenced →
      (∀ i, i = bitsOf v.toNat 11 0 → t.ev.fullRing = false → i < t.ev.depth →
        (i + t.ev.depth - t.ev.head) % t.ev.depth ≤ (t.ev.tail + t.ev.depth - t.ev.head) % t.ev.depth →
        ∃ u t', exec (.evHeadWrite log v) s = .next u ∧ u.prt p = some t' ∧ t'.ev = { t.ev with head := i })
      ∧ (∀ d, d = bitsOf v.toNat 3 0 → (d < 4 ∨ 12 < d) → ∃ u t', exec (.evCtlWrite log v) s = .next u ∧ u.prt p = some t'
        ∧ t'.ev = t.ev)
      ∧ (∀ d, d = bitsOf v.toNat 3 0 → 4 ≤ d → d ≤ 12 → d = bitsOf t.ev.ctl.toNat 3 0 → t.ev.held = [] →
        ∃ u t', exec (.evCtlWrite log v) s = .next u ∧ u.prt p = some t' ∧ t'.ev = { t.ev with ctl := v &&& 0x8000000F }))
    ∧ (∀ (p : Part) t (i : Fin 256) b r, s.prt p = some t → t.st = .active →
      (t.t1hFirst = i.val → bitOf (t.t1h.getD i.val (0, 0)).2.toNat 63 = false → b.toNat % 2097152 = 0 →
        ∃ u t' o, exec (.t1hRangeAppend p i b r) s = .next u ∧ u.prt p = some t' ∧ t'.t1h.find i.val = some o ∧ o.1 = b
          ∧ bitOf o.2.toNat 63 = bitOf r.toNat 63 ∧ bitsOf o.2.toNat 31 0 = bitsOf r.toNat 31 0)
      ∧ (bitOf (t.t1h.getD i.val (0, 0)).2.toNat 63 = true → ∃ u, exec (.t1hRangeAppend p i b r) s = .next u ∧ u.prt p = some t))
    ∧ (∀ (p : Part) t, s.prt p = some t → t.st ≠ .fenced → t.mailbox.sel = 3 → ∃ u t', exec (.mailboxGo (.part p)) s = .next u
      ∧ u.prt p = some t' ∧ t'.mailbox.code = 0 ∧ t'.mailbox.valid = min 4096 t.report.bytes.length
      ∧ t'.mailbox.window.take t'.mailbox.valid = t.report.bytes.take 4096)
    ∧ (∀ (port : PortNo) v, s.portExists port.val = true → ∃ u, exec (.portModeWrite port v) s = .next u
      ∧ u.portReg port.val 4 = v.toNat % 2 ∧ (u.prtNo port.val).up = false
      ∧ (port.val % 2 = 0 → (u.prtNo (port.val + 1)).up = false))
    ∧ (∀ (k : Fin 4) (a : AuxClk) v, s.power.aux[k.val]? = some a → ∃ u b, exec (.auxclkCtlWrite k v) s = .next u
      ∧ u.power.aux[k.val]? = some b ∧ b.en = bitOf v.toNat 31
      ∧ b.rate = (if bitsOf v.toNat 12 8 ≤ 30 then bitsOf v.toNat 12 8 else a.rate)
      ∧ b.spread = (if bitsOf v.toNat 4 0 ≤ 20 then bitsOf v.toNat 4 0 else a.spread)
      ∧ (30 < bitsOf v.toNat 12 8 ∨ 20 < bitsOf v.toNat 4 0 → b.err = true))
    ∧ (∀ (p : Part) t v, s.barUp = true → s.prt p = some t → t.st = .active →
      (65536 ≤ v.toNat → v.toNat ≤ 2 ^ 32 → exec (.registerWrite (.part p) 0x020 8 v) s
        = .next (s.updP p fun t => { t with regs := t.regs.put 0x020 v }))
      ∧ (v.toNat < 65536 → exec (.registerWrite (.part p) 0x020 8 v) s = .next s)
      ∧ exec (.registerWrite (.part p) 0x021 4 v) s = .next s
      ∧ exec (.registerRead (.part p) 0x020 8) s = .next (s.answer .ok (BitVec.ofNat 64 (t.reg 0x020)))
      ∧ exec (.registerRead (.part p) 0x000 4) s = .next (s.answer .ok (BitVec.ofNat 64 (0x100 + p.val)))
      ∧ exec (.registerRead (.part p) 0x002 4) s = .next (s.answer .ok 0))
    ∧ (∀ map off size v, s.barUp = false → exec (.registerWrite map off size v) s = .next s
      ∧ exec (.registerRead map off size) s = .next (s.mbox .noResponse))
    ∧ (s.sidebandUp = true →
      (∃ u r, exec (.regRead 0 1) s = .next u ∧ u.reply = some r ∧ r.status = .ok ∧ r.data = toLe 0x72400001 4)
      ∧ (∀ n, n = 0 ∨ 16 < n → ∃ u, exec (.regRead 0 n) s = .next u ∧ Answers u .accessViolation)
      ∧ (∀ v : BitVec 32, 300 ≤ v.toNat → v.toNat ≤ 950 → ∃ u, exec (.regWrite 0x1004 [v]) s = .next u ∧ Answers u .ok
        ∧ u.devReg 0x1004 = v.toNat)
      ∧ (∀ v : BitVec 32, (v.toNat < 300 ∨ 950 < v.toNat) → ∃ u, exec (.regWrite 0x1004 [v]) s = .next u
        ∧ u.devReg 0x1004 = s.devReg 0x1004)
      ∧ (∀ e, ∃ u, exec (.mctpSetEndpointId e) s = .next u ∧ Answers u .ok ∧ u.sideband = { s.sideband with eid := e })
      ∧ (∀ d, ∃ u, exec (.i3cAddressAssign d) s = .next u ∧ Answers u .ok
        ∧ u.sideband = { s.sideband with staticAddr := d.isNone, dynAddr := d }))
    ∧ (s.sidebandUp = false → ∀ c ∈ [Instr.regRead 0 1, .regWrite 0x1004 [0], .mctpSetEndpointId 0, .i3cAddressAssign none],
      exec c s = .next (s.mbox .noResponse))

/-- 11 R239 to R241, R243, R246, R249, Tables 11-1, 11-2, 14-13, 15 R352: configuration, binding, the decoder, CXL.mem, the commands of an
LD's mailbox, poison, and T1H failures. A line address or a line of another size is no command (the model's own stop). -/
def Obligations.WindowResults : Prop :=
  ∀ (s : State) (p : Part) (t : Partition), Awake s → s.prt p = some t →
    (s.power.configReady = true → exec (.configRequest (.ld p)) s = .next (s.mbox .success 0 (List.replicate 7 0)))
    ∧ (s.power.configReady = false → s.ident.waiting = false →
      exec (.configRequest (.ld p)) s = .next (s.mbox .retryStatus) ∧ exec (.identify p) s = .next (s.mbox .noResponse)
        ∧ exec (.getPoisonList p) s = .next (s.mbox .noResponse))
    ∧ (s.power.configReady = true → s.ident.waiting = false → exec (.identify p) s = .next (s.mbox .success))
    ∧ (∀ n, (n = t.ld.vppb → exec (.fmBind p n) s
        = .next ((s.updP p fun t => { t with ld := { t.ld with bound := true } }).mbox .success))
      ∧ (n ≠ t.ld.vppb → exec (.fmBind p n) s = .next (s.mbox .invalidInput)))
    ∧ (exec (.hdmDecoderCommit p) s = .next (s.updP p fun t => { t with ld := { t.ld with
        hdm := t.ld.hdm || s.power.serviceReady, hdmErr := !s.power.serviceReady } }))
    ∧ (∀ dpa, dpa % 64 ≠ 0 → exec (.cxlMemRead p dpa) s = .fault .illFormedCommand)
    ∧ (∀ dpa data, (dpa % 64 ≠ 0 ∨ data.length ≠ 64) → exec (.cxlMemWrite p dpa data) s = .fault .illFormedCommand)
    ∧ (∀ dpa, dpa % 64 = 0 → t.ld.hdm = true →
      (t.st ≠ .fenced → t.ld.inWindow dpa = true → t.ld.poison.contains (dpa / 4096) = false →
        exec (.cxlMemRead p dpa) s = .next ((s.count p cMemReads).answer .ok 0 (t.windowLine dpa)))
      ∧ ((t.st = .fenced ∨ t.ld.inWindow dpa = false) → ∃ u r, exec (.cxlMemRead p dpa) s = .next u ∧ u.reply = some r
        ∧ r.poison = true)
      ∧ (t.ld.poison.contains (dpa / 4096) = true → ∃ u r, exec (.cxlMemRead p dpa) s = .next u ∧ u.reply = some r
        ∧ r.poison = true))
    ∧ (∀ dpa data, dpa % 64 = 0 → data.length = 64 → t.ld.hdm = true →
      (t.st ≠ .fenced → t.ld.inWindow dpa = true → t.windowRegion dpa = none →
        ∃ u t', exec (.cxlMemWrite p dpa data) s = .next u ∧ u.prt p = some t' ∧ t'.ld.window = t.ld.window.wr dpa data
          ∧ t'.regions = t.regions)
      ∧ (∀ i r, t.st ≠ .fenced → t.ld.inWindow dpa = true → t.windowRegion dpa = some (i, r) → t.regions.find i = some r →
        (r.st = .uploading → ∃ u, exec (.cxlMemWrite p dpa data) s = .next u
          ∧ u.region? p i = some { r with newer := r.newer.put ((dpa - r.dpa) / 64) data })
        ∧ (r.st = .valid ∨ r.st = .superseded → ∃ u, exec (.cxlMemWrite p dpa data) s = .next u
          ∧ u.region? p i = some { r with warned := true }))
      ∧ (t.st = .fenced → ∃ u t', exec (.cxlMemWrite p dpa data) s = .next u ∧ u.prt p = some t' ∧ t'.ld = t.ld
        ∧ t'.regions = t.regions ∧ t'.counters.getD cFencedWrites 0 = (t.counters.getD cFencedWrites 0 + 1) % 2 ^ 64))
    ∧ (s.power.configReady = true → s.ident.waiting = false → s.power.serviceReady = true →
      (∀ dpa, t.ld.inWindow dpa = true →
        (∃ u t', exec (.injectPoison p dpa) s = .next u ∧ u.reply = some ⟨.ok, some .success, 0, [], false⟩ ∧ u.prt p = some t'
          ∧ dpa / 4096 ∈ t'.ld.poison ∧ ∀ n ∈ t.ld.poison, n ∈ t'.ld.poison)
        ∧ (∃ u t', exec (.clearPoison p dpa) s = .next u ∧ u.reply = some ⟨.ok, some .success, 0, [], false⟩ ∧ u.prt p = some t'
          ∧ t'.ld.poison = t.ld.poison.filter (· ≠ dpa / 4096)))
      ∧ (∀ dpa, t.ld.inWindow dpa = false → exec (.injectPoison p dpa) s = .next (s.mbox .invalidInput)
        ∧ exec (.clearPoison p dpa) s = .next (s.mbox .invalidInput))
      ∧ (∃ u r, exec (.getPoisonList p) s = .next u ∧ u.reply = some r ∧ r.mbox = some .success
        ∧ r.data = (t.ld.poison.map fun n => toLe (4096 * n) 8).flatten)
      ∧ (∀ img, ∀ c ∈ [Instr.getFwInfo p, .transferFw p img, .activateFw p], exec c s = .next (s.mbox .unsupported)))
    ∧ (∀ (k : Fin 256) e, t.t1h.find k.val = some e → ∀ use, use = T1hUse.bucket 0 →
      ∃ u t', exec (.t1hAccessFailure p k use true) s = .next u ∧ u.prt p = some t'
        ∧ t'.t1h.find k.val = some (e.1, e.2 ||| 0x100000000)
        ∧ t'.counters.getD cT1hErrors 0 = (t.counters.getD cT1hErrors 0 + 1) % 2 ^ 64)
    ∧ (∀ (k : Fin 256) b c, t.index.find b = some c → ∃ u t', exec (.t1hAccessFailure p k (.bucket b) false) s = .next u
      ∧ u.prt p = some t' ∧ t'.index.find b = some { c with bad := true })

/-- 11 R251 to R254, Tables 11-3 to 11-5: an extent is reserved, offered once its space is free, accepted or rejected, released unless a
region keeps it, taken by force, and gone once it has drained. -/
def Obligations.ExtentResults : Prop :=
  ∀ (s : State) (p : Part) (t : Partition), Awake s → s.prt p = some t →
    (∀ dpa n tag, t.mayAdd dpa (n * 268435456) = false → exec (.initiateDcAdd p dpa n tag) s = .next (s.mbox .invalidInput))
    ∧ (∀ dpa n tag, t.mayAdd dpa (n * 268435456) = true → t.groups = [] → t.regions = [] → t.index = [] → t.overPages = [] →
      ∃ u t', exec (.initiateDcAdd p dpa n tag) s = .next u ∧ u.reply = some ⟨.ok, some .success, 0, [], false⟩ ∧ u.prt p = some t'
        ∧ t'.ld.extents = insertExtent ⟨dpa, n * 268435456, tag, .reserving⟩ t.ld.extents)
    ∧ (∀ e, t.ld.extents = [e] → e.st = .reserving →
      (t.overT1b = 0 → ∃ u t', exec (.dcCapacityFreed p e.dpa) s = .next u ∧ u.prt p = some t'
        ∧ t'.ld.extents = [{ e with st := .offered }] ∧ t'.ld.dcEvents = t.ld.dcEvents ++ [⟨false, e.dpa, e.len, e.tag, 0, 0, 0⟩]
        ∧ ∀ a, e.dpa ≤ a → a < e.dpa + e.len → t'.ld.window.rd a 1 = [0])
      ∧ (t.overT1b ≠ 0 → exec (.dcCapacityFreed p e.dpa) s = .next s)
      ∧ (∃ u t', exec (.dcReserveTimeout p e.dpa) s = .next u ∧ u.prt p = some t' ∧ t'.ld.extents = []
        ∧ u.reply = some ⟨.ok, some .resourcesExhausted, 0, [], false⟩))
    ∧ (s.power.serviceReady = false → s.power.configReady = true → s.ident.waiting = false → ∀ dpa b l,
      exec (.addDcResponse p dpa b) s = .next (s.mbox .busy) ∧ exec (.releaseDc p l) s = .next (s.mbox .busy))
    ∧ (∀ e, t.ld.extents = [e] → e.st = .offered → s.power.configReady = true → s.ident.waiting = false → s.power.serviceReady = true →
      (∃ u t', exec (.addDcResponse p e.dpa true) s = .next u ∧ u.prt p = some t' ∧ t'.ld.extents = [{ e with st := .accepted }]
        ∧ u.reply = some ⟨.ok, some .success, 0, [], false⟩
        ∧ t'.counters.getD cExtentsAdded 0 = (t.counters.getD cExtentsAdded 0 + 1) % 2 ^ 64)
      ∧ (∃ u t', exec (.addDcResponse p e.dpa false) s = .next u ∧ u.prt p = some t' ∧ t'.ld.extents = []
        ∧ u.reply = some ⟨.ok, some .success, 0, [], false⟩)
      ∧ (∃ u t', exec (.dcOfferTimeout p e.dpa) s = .next u ∧ u.prt p = some t' ∧ t'.ld.extents = []))
    ∧ (∀ dpa b, (∀ e ∈ t.ld.extents, ¬ (e.dpa = dpa ∧ e.st = .offered)) →
      s.power.configReady = true → s.ident.waiting = false → s.power.serviceReady = true →
      exec (.addDcResponse p dpa b) s = .next (s.mbox .invalidExtentList))
    ∧ (∀ e, t.ld.extents = [e] → e.st = .accepted → 0 < e.len →
      s.power.configReady = true → s.ident.waiting = false → s.power.serviceReady = true →
      ((∀ r ∈ t.regions, r.2.home ≠ 3) → ∃ u t', exec (.releaseDc p [(e.dpa, e.len)]) s = .next u ∧ u.prt p = some t'
        ∧ t'.ld.extents = [{ e with st := .releasing }] ∧ u.reply = some ⟨.ok, some .success, 0, [], false⟩)
      ∧ (∀ r ∈ t.regions, r.2.home = 3 → r.2.binding = none → r.2.dpa < e.dpa + e.len → e.dpa < r.2.dpa + r.2.size → r.2.st = .valid →
        exec (.releaseDc p [(e.dpa, e.len)]) s = .next (s.mbox .invalidInput))
      ∧ ((∀ r ∈ t.regions, r.2.home ≠ 3) →
        exec (.releaseDc p [(e.dpa, e.len + 64)]) s = .next (s.mbox .invalidExtentList))
      ∧ ((∀ r ∈ t.regions, r.2.home ≠ 3) → ∃ (v : State) (t' : Partition),
        exec (.initiateDcForcedRelease p e.dpa) s = .next (v.settleVersions.settleFlash.mbox .success) ∧ v.prt p = some t'
          ∧ t'.ld.extents = [{ e with st := .fenced }] ∧ t'.ld.dcEvents = t.ld.dcEvents ++ [⟨true, e.dpa, e.len, e.tag, 0, 0, 0⟩]
          ∧ t'.counters.getD cExtentsForced 0 = (t.counters.getD cExtentsForced 0 + 1) % 2 ^ 64))
    ∧ (∀ e, t.ld.extents = [e] → e.st = .releasing ∨ e.st = .fenced → ∃ u t', exec (.extentDrained p e.dpa) s = .next u
      ∧ u.prt p = some t' ∧ t'.ld.extents = [] ∧ ∀ a, e.dpa ≤ a → a < e.dpa + e.len → t'.ld.window.rd a 1 = [0])
    ∧ (∀ e, t.ld.extents = [e] → e.st = .accepted → exec (.extentDrained p e.dpa) s = .next s)

/-- 11 R258, 14 Table 14-13, 15 R347, R351, R352, R354 to R358, R360, 19 R419, R420: streams, pushed firmware, attestation and its quote
budget, presence and the seal loop. -/
def Obligations.SecurityResults : Prop :=
  ∀ (s : State),
    (∀ st who, Awake s → s.power.configReady = true →
      (ideMay who st = true → ∃ u, exec (.ideStreamEstablish who st true) s = .next u
        ∧ u.reply = some ⟨.ok, some .success, 0, [], false⟩ ∧ st ∈ u.cxl.secure ∧ st ∉ u.cxl.insecure)
      ∧ ((ideMay who st = false) → exec (.ideStreamEstablish who st true) s = .next (s.mbox .unsupported))
      ∧ exec (.ideStreamEstablish who st false) s = .next (s.mbox .unsupported))
    ∧ (∀ st, (st ∈ s.cxl.secure → (∀ e ∈ s.parts, e.2.st ≠ .active) → ∃ u, exec (.ideFailure st) s = .next u
        ∧ st ∉ u.cxl.secure ∧ st ∈ u.cxl.insecure ∧ u.parts = s.parts)
      ∧ (st ∉ s.cxl.secure → exec (.ideFailure st) s = .next s))
    ∧ (∀ (p : Part) t, s.cxl.secure = [.sel p] → s.prt p = some t → t.st = .active → t.steps = [] → t.qps = [] → s.parts.wf →
      ∃ u, exec (.ideFailure (.sel p)) s = .next u ∧ u.prt p = some { t with st := .fenced, fenceCause := 4 }
        ∧ ∀ o, o ≠ p → u.prt o = s.prt o)
    ∧ (Awake s → s.ident.waiting = true → ∀ img,
      (exec (.getFwInfo 0) s = .next (s.mbox .success))
      ∧ (exec (.transferFw 0 img) s = .next ({ s with ident := { s.ident with transfer := some img } }.mbox .success))
      ∧ (s.ident.transfer = some img → img.sigOk = true → s.ident.minSvn ≤ img.svn → ∃ u, exec (.activateFw 0) s = .next u
        ∧ u.ident.running = some img ∧ u.ident.pushed = true ∧ u.ident.waiting = false
        ∧ u.reply = some ⟨.ok, some .success, 0, [], false⟩)
      ∧ (s.ident.transfer = some img → img.sigOk = false → ∃ u, exec (.activateFw 0) s = .next u
        ∧ u.ident = { s.ident with transfer := none } ∧ u.reply = some ⟨.ok, some .invalidInput, 0, [], false⟩))
    ∧ (∀ who, Awake s → s.power.configReady = false →
      ∀ c ∈ [Instr.spdmChallenge who, .spdmKeyExchange who, .spdmGetMeasurements who 1 true, .cdatTableAccess who,
        .ideStreamEstablish who .cachemem true], exec c s = .next (s.mbox .noResponse))
    ∧ (∀ who, Awake s → s.power.configReady = true →
      (∀ c ∈ [Instr.spdmChallenge who, .spdmKeyExchange who], s.ident.pwrCycles < s.ident.dayStart + 126 →
        (∀ n, s.ident.quoteIn = some n → ∃ u r, exec c s = .next u ∧ u.reply = some r ∧ r.mbox = some .success
          ∧ r.value = BitVec.ofNat 64 n ∧ u.ident.quoteIn = (if (n + 1) % 64 = 0 then none else some (n + 1))
          ∧ u.ident.dayUsed = s.ident.dayUsed)
        ∧ (s.ident.quoteIn = none → 256 < s.ident.dayUsed + 64 → ∃ u r, exec c s = .next u ∧ u.reply = some r
          ∧ r.mbox = some .busy ∧ u.ident.capRaised = true ∧ u.ident.xmssNext = s.ident.xmssNext)
        ∧ (s.ident.quoteIn = none → s.ident.dayUsed + 64 ≤ 256 → s.ident.xmssNext + 64 ≤ 1032192 → ∃ u r, exec c s = .next u
          ∧ u.reply = some r ∧ r.mbox = some .success ∧ r.value = BitVec.ofNat 64 s.ident.xmssNext
          ∧ u.ident.xmssNext = s.ident.xmssNext + 64 ∧ u.ident.dayUsed = s.ident.dayUsed + 64))
      ∧ (∀ idx, (idx = 0 ∨ 7 < idx) → exec (.spdmGetMeasurements who idx false) s = .next (s.mbox .invalidInput))
      ∧ (∀ idx, 1 ≤ idx → idx ≤ 7 → ∃ u r, exec (.spdmGetMeasurements who idx false) s = .next u ∧ u.reply = some r
        ∧ r.mbox = some .success ∧ r.data.length = 32 ∧ u.ident = s.ident)
      ∧ (exec (.spdmGetMeasurements .fm 5 false) s = .next (s.mbox .success 0 (List.replicate 32 0)))
      ∧ (∃ u r, exec (.cdatTableAccess who) s = .next u ∧ u.reply = some r ∧ r.mbox = some .success))
    ∧ (∀ i, i = s.ident → ∃ u, exec .pwrCyclesTick s = .next u ∧ u.ident.pwrCycles = i.pwrCycles + 1
      ∧ (i.pwrCycles + 1 < i.dayStart + 126 → u.ident.dayUsed = i.dayUsed)
      ∧ (i.pwrCycles + 1 = i.dayStart + 126 → u.ident.dayUsed = 0 ∧ u.ident.dayStart = i.dayStart + 126))
    ∧ (Awake s → s.power.st ≠ .off →
      (s.presence.intact = true → ∃ u, exec .presencePress s = .next u ∧ u.presence.window = true
        ∧ u.presence.opened = s.presence.opened + (if s.presence.window then 0 else 1))
      ∧ (s.presence.intact = false → exec .presencePress s = .next s))
    ∧ exec .presenceExpiry s = .next { s with presence := { s.presence with window := false } }
    ∧ (s.presence.intact = true → s.power.st ≠ .off → s.presence.sealAction = false →
      (∃ u, exec .sealBreak s = .next u ∧ u.presence = { s.presence with
        intact := false, broken := true, breaks := s.presence.breaks + 1, window := false, misses := 0 })
      ∧ (s.presence.misses = 9 → ∃ u, exec (.sealBitCheck false) s = .next u ∧ u.presence.broken = true ∧ u.presence.intact = false
        ∧ u.presence.window = false)
      ∧ (s.presence.misses < 9 → exec (.sealBitCheck false) s
        = .next { s with presence := { s.presence with misses := s.presence.misses + 1 } }))
    ∧ (s.power.st ≠ .off → exec (.sealBitCheck true) s
      = .next { s with presence := { s.presence with misses := 0, intact := true } })
    ∧ (s.presence.intact = false → exec .sealBreak s = .next s)

/-- 13 R311, R312, 14 R324 to R326, R328 to R332, R335 to R342, 19 R427, R428: what the bus, PERST, the reference, PLLs, temperature
and power samples do to the device's state, and the way to service-ready. -/
def Obligations.PowerResults : Prop :=
  ∀ (s : State),
    (s.power.st = .off → ∃ u, exec .busRise s = .next u ∧ u.power.st = .standby ∧ u.power.inRange = true
      ∧ u.power.aux = List.replicate 4 ⟨true, false, 15, 0⟩ ∧ (s.presence.intact = false → u.presence.broken = true))
    ∧ (s.power.st = .serving ∨ s.power.st = .initialising ∨ s.power.st = .dormant ∨ s.power.st = .frozen →
      ∀ c ∈ [Instr.powerFail, .overvoltage], ∃ u, exec c s = .next u ∧ u.power.st = .standby ∧ u.power.tripped = true
        ∧ u.power.serviceReady = false ∧ u.power.configReady = false ∧ u.power.recovery = some .cold ∧ u.presence.window = false
        ∧ u.ports = [])
    ∧ (s.power.st = .standby → ∃ u, exec .powerFail s = .next u ∧ u.power = { s.power with tripped := true, inRange := false }
      ∧ u.parts = s.parts)
    ∧ (s.power.st = .standby → s.power.refclk = true →
      (s.power.perst = false → ∃ u, exec .powerRestoreHold s = .next u ∧ u.power.st = .initialising ∧ u.power.tripped = false)
      ∧ (s.power.perst = true → exec .powerRestoreHold s
        = .next { s with power := { s.power with inRange := true, tripped := false } })
      ∧ (s.power.tripped = false → ∃ u, exec .perstDeassert s = .next u ∧ u.power.st = .initialising ∧ u.power.perst = false
        ∧ (∀ img, s.ident.boot = some img → img.sigOk = true → s.ident.minSvn ≤ img.svn → u.ident.running = some img
          ∧ u.ident.waiting = false)
        ∧ (∀ img, s.ident.boot = some img → img.sigOk = false → u.ident.running = none ∧ u.ident.waiting = true)))
    ∧ (∃ u, exec .busCollapse s = .next u ∧ u.power.st = .off ∧ u.ident.keysIn = false ∧ u.power.plls = [])
    ∧ (s.power.st = .serving → ∃ u, exec .perstAssert s = .next u ∧ u.power.st = .standby
      ∧ u.power.serviceReady = false ∧ u.power.recovery = some .cold)
    ∧ (s.power.st = .halted → s.power.hot = true → exec .perstAssert s = .next { s with power := { s.power with perst := true } })
    ∧ (s.power.st = .initialising → s.ident.waiting = false →
      (s.power.recovery = some .cold → ∃ u, exec .coldRecovery s = .next u ∧ u.power.recovery = none)
      ∧ (s.power.recovery = none → exec .coldRecovery s = .next s)
      ∧ (s.power.configReady = false → ∃ u, exec (.configReady 0) s = .next u ∧ u.power = { s.power with configReady := true }
        ∧ u.cam.disabled = [] ∧ ∀ e ∈ u.clusters, e.2.st = .inService ∧ e.2.quarantines = 0)
      ∧ (s.power.configReady = true → s.power.recovery = none → s.qualifying = false →
        ∃ u, exec .serviceReady s = .next u ∧ u.power = { s.power with st := .serving, serviceReady := true })
      ∧ (s.power.configReady = false → exec .serviceReady s = .next s))
    ∧ (s.power.st = .serving → ∃ u, exec .refclkLoss s = .next u ∧ u.power.st = .frozen ∧ u.power.before = .serving
      ∧ u.power.refclk = false ∧ u.presence.window = false ∧ u.parts = s.parts)
    ∧ (s.power.st = .frozen → ∃ u, exec .refclkReturn s = .next u ∧ u.power.st = s.power.before ∧ u.power.refclk = true
      ∧ (u.pll 0).qualified = true)
    ∧ exec .thermalThrottle s = .next { s with power := { s.power with half := true, hot := true } }
    ∧ exec .thermalRecover s = .next { s with power := { s.power with half := false, hot := false } }
    ∧ (s.power.st ≠ .off → ∃ u, exec .thermalHalt s = .next u ∧ u.power.st = .halted ∧ u.power.thermTrip = true
      ∧ ∀ e ∈ u.flash.slots, e.2.pwren = false)
    ∧ (∃ u, exec .boardAlert s = .next u ∧ u = { s with devLog := u.devLog })
    ∧ (∀ k, s.power.refclk = true → (s.pll (pllNo k)).failed = false → ∃ u, exec (.pllQualified k) s = .next u
      ∧ u.pll (pllNo k) = { s.pll (pllNo k) with qualified := true, tries := 0 })
    ∧ (∀ k, (s.pll (pllNo k)).failed = false → (s.pll (pllNo k)).tries < 7 → ∃ u, exec (.pllLockTimeout k) s = .next u
      ∧ u.pll (pllNo k) = { s.pll (pllNo k) with tries := (s.pll (pllNo k)).tries + 1, qualified := false })
    ∧ (∀ k : Pll, k ≠ .root → (s.pll (pllNo k)).failed = false → 7 ≤ (s.pll (pllNo k)).tries → ∃ u, exec (.pllLockTimeout k) s = .next u
      ∧ (u.pll (pllNo k)).failed = true)
    ∧ ((s.pll 0).failed = false → 7 ≤ (s.pll 0).tries → s.power.st ≠ .off → ∃ u, exec (.pllLockTimeout .root) s = .next u
      ∧ u.power.st = .halted)
    ∧ (∀ a b v td ts, ∃ u, exec (.powerSample a b v td ts) s = .next u ∧ u.power.p1ms = a ∧ u.power.p1s = b ∧ u.power.busMv = v
      ∧ u.power.tDie = td ∧ u.power.energy = s.power.energy + a
      ∧ (10 * s.devReg 0x1004 < b → u.power.rate = max 4 (s.power.rate - 1))
      ∧ (b + 250 < 10 * s.devReg 0x1004 → u.power.rate = min 16 (s.power.rate + 1))
      ∧ (b ≤ 10 * s.devReg 0x1004 → 10 * s.devReg 0x1004 ≤ b + 250 → u.power.rate = s.power.rate))
    ∧ (∀ n, (s.power.st ≠ .serving → exec (.wedgeDetect n) s = .next s)
      ∧ (s.power.st = .serving → bitOf (s.devReg 0x028) 0 = true → ∃ u, exec (.wedgeDetect n) s = .next u
        ∧ u.power.st = .initialising ∧ u.power.serviceReady = false)
      ∧ (s.power.st = .serving → bitOf (s.devReg 0x028) 0 = false → (∀ e ∈ s.parts, e.2.st ≠ .active) →
        ∃ u, exec (.wedgeDetect n) s = .next u ∧ u.power = { s.power with wedged := true }))
    ∧ (∀ b, (b = false ∨ s.power.st = .standby) → exec (.boundaryScanInstruction b) s = .next (s.mbox .success))
    ∧ (s.power.st ≠ .standby → exec (.boundaryScanInstruction true) s = .next (s.mbox .unsupported))

/-- 03 R46, R47 and the order of the queue: the command at the front of the queue is executed on the state with the queue's rest; with no
command waiting the device idles (the model's choice, log entry 17). -/
def Obligations.StepTakesTheFront : Prop :=
  (∀ (s : State) (c : Instr) (rest : List Instr), step { s with pending := c :: rest } = exec c { s with pending := rest })
    ∧ (∀ s : State, s.pending = [] → step s = .next s)
    ∧ ∀ p raw a, raw.length ≠ 64 → ∀ s, exec (.sqFetch p raw a) s = .fault .illFormedCommand

/-- 14 R342, Tables 14-9, 14-11, 18-2, 18-10, 18-11, 8-2, 9-5, 12-2, 12-13: what a cold reset leaves: the power state, the RW registers of
the device map and of a port block, and those of a partition that is just configured. -/
def Obligations.ResetValues : Prop :=
  State.reset.pending = [] ∧ State.reset.power.st = .initialising ∧ State.reset.power.configReady = false
    ∧ State.reset.power.serviceReady = false ∧ State.reset.power.rate = 16
    ∧ State.reset.power.aux = List.replicate 4 ⟨true, false, 15, 0⟩ ∧ State.reset.presence.window = false
    ∧ (∀ e ∈ [(0x028, 1), (0x02C, 0), (0x030, 0x1000000000), (0x1004, 0x3B6), (0x1008, 0x5F)], State.reset.devReg e.1 = e.2)
    ∧ (∀ n, n < 16 → ∀ e ∈ [(0x00, 0), (0x04, 0), (0x08, 1), (0x0C, 0x1C4F), (0x10, 0), (0x14, 0), (0x18, 0xA), (0x1000, 1), (0x1010, 0x3E8)],
      State.reset.portReg n e.1 = e.2)
    ∧ (∀ l epoch keys, ∀ e ∈ [(0x020, 0xE4E1C0), (0x028, 0x10), (0x02C, 0), (0x030, 0xC), (0x034, 0), (0x038, 0x1E8480), (0x03C, 0),
        (0x040, 0), (0x400, 1), (0x404, 0x32), (0x408, 8), (0x40C, 0x2000), (0x410, 0x64), (0x414, 2), (0x440, 0), (0x444, 0x3E8),
        (0x448, 0x190), (0x44C, 0xC8), (0x45C, 0x30D40), (0x460, 0x8000), (0x480, 0x40000), (0x484, 0x200000), (0x488, 0x1000),
        (0x494, 0x32), (0x498, 7), (0x49C, 0x7D0)], (Partition.fresh l epoch keys).reg e.1 = e.2)
    ∧ EvLog.reset.on = false ∧ EvLog.reset.held = []

/-- 15 R354, R355: after a reset no signature index is used, and the first migration index is 1,032,192 (which counters a device leaves
its maker with is the model's choice, log entry 4). -/
def Obligations.IndicesAtReset : Prop :=
  IndicesInRange State.reset ∧ State.reset.ident.dayUsed = 0 ∧ State.reset.ident.xmssMigNext = 1032192

/-- 15 R354, R355: every step keeps the signature indices in their ranges: quotes in the first 1,032,192, at most 256 reserved in a quote
day, migration records in the rest of the 1,048,576. -/
def Obligations.IndicesStayInRange : Prop :=
  ∀ s t : State, IndicesInRange s → step s = .next t → IndicesInRange t

/-- 16 R364 to R366: every Criet word decodes to the instruction that it encodes, for every operand, and a word that decodes is the
encoding of what it decodes to. -/
def Obligations.CrietRoundTrip : Prop :=
  (∀ (i : Instr) (w : Word), crietEncode i = some w → i.wf = true → ∃ x, crietDecode x w = some i)
    ∧ (∀ (x : StepRef) (w : Word) (i : Instr), crietDecode x w = some i → crietEncode i = some w ∧ i.wf = true)
    ∧ ∀ (x y : StepRef) (w : Word), (crietDecode x w).isSome = (crietDecode y w).isSome
end

