-- ==== Sys2Proof/Laws/Tab.lean ====
section
/-! SUPPORT. What the operations of a table do: what is read after a write, and that every one of them keeps the keys
strictly rising. -/

namespace Sys2Proof.Machine

variable {α : Type}

/-- Every key of a table is above a bound. -/
abbrev Tab.above (t : Tab α) (i : Nat) : Prop := ∀ e ∈ t, i < e.1

@[simp] theorem Tab.find_nil (i : Nat) : Tab.find ([] : Tab α) i = none := rfl
theorem Tab.find_cons (k : Nat) (v : α) (t : Tab α) (i : Nat) :
    Tab.find ((k, v) :: t) i = if k = i then some v else Tab.find t i := rfl

theorem Tab.find_none_of_above {t : Tab α} {i : Nat} (h : Tab.above t i) : Tab.find t i = none := by
  induction t with
  | nil => rfl
  | cons e t ih =>
    obtain ⟨k, v⟩ := e
    have hk : i < k := h (k, v) (by simp)
    have ht : Tab.above t i := fun e he => h e (by simp [he])
    simp [Tab.find_cons, ih ht, Nat.ne_of_gt hk]

@[simp] theorem Tab.find_put_self (t : Tab α) (i : Nat) (v : α) : (Tab.put t i v).find i = some v := by
  induction t with
  | nil => simp [Tab.put, Tab.find_cons]
  | cons e t ih =>
    obtain ⟨k, w⟩ := e
    unfold Tab.put
    split
    · simp [Tab.find_cons]
    · split
      · simp [Tab.find_cons]
      · rename_i h1 h2
        simp [Tab.find_cons, ih, Ne.symm h2]

theorem Tab.find_put_ne (t : Tab α) {i j : Nat} (v : α) (h : j ≠ i) : (Tab.put t i v).find j = t.find j := by
  induction t with
  | nil => simp [Tab.put, Tab.find_cons, Ne.symm h]
  | cons e t ih =>
    obtain ⟨k, w⟩ := e
    unfold Tab.put
    split
    · simp [Tab.find_cons, Ne.symm h]
    · split
      · rename_i h2
        simp [Tab.find_cons, ← h2, Ne.symm h]
      · simp [Tab.find_cons, ih]

theorem Tab.find_upd (t : Tab α) (i j : Nat) (f : α → α) :
    (Tab.upd t i f).find j = if j = i then (t.find j).map f else t.find j := by
  induction t with
  | nil => simp [Tab.upd]
  | cons e t ih =>
    obtain ⟨k, w⟩ := e
    unfold Tab.upd
    split
    · rename_i h
      by_cases hj : j = i
      · simp [Tab.find_cons, h, hj]
      · have : k ≠ j := fun hk => hj (by omega)
        simp [Tab.find_cons, hj, this]
    · rename_i h
      simp only [Tab.find_cons, ih]
      by_cases hk : k = j
      · have : j ≠ i := fun hj => h (by omega)
        simp [hk, this]
      · simp [hk]

@[simp] theorem Tab.find_upd_self (t : Tab α) (i : Nat) (f : α → α) : (Tab.upd t i f).find i = (t.find i).map f := by
  simp [Tab.find_upd]

theorem Tab.find_upd_ne (t : Tab α) {i j : Nat} (f : α → α) (h : j ≠ i) : (Tab.upd t i f).find j = t.find j := by
  simp [Tab.find_upd, h]

theorem Tab.find_del_ne (t : Tab α) {i j : Nat} (h : j ≠ i) : (Tab.del t i).find j = t.find j := by
  induction t with
  | nil => rfl
  | cons e t ih =>
    obtain ⟨k, w⟩ := e
    unfold Tab.del
    split
    · rename_i hk
      have : k ≠ j := fun h2 => h (by omega)
      simp [Tab.find_cons, this]
    · simp [Tab.find_cons, ih]

theorem Tab.find_del_self {t : Tab α} (i : Nat) (h : t.wf) : (Tab.del t i).find i = none := by
  induction t with
  | nil => rfl
  | cons e t ih =>
    obtain ⟨k, w⟩ := e
    have hw := List.pairwise_cons.1 h
    unfold Tab.del
    split
    · rename_i hk
      exact Tab.find_none_of_above fun e he => by have := hw.1 e he; simp only at this; omega
    · rename_i hk
      simp [Tab.find_cons, hk, ih hw.2]

theorem Tab.find_mapV (t : Tab α) (f : Nat → α → α) (i : Nat) : (Tab.mapV t f).find i = (t.find i).map (f i) := by
  induction t with
  | nil => rfl
  | cons e t ih =>
    obtain ⟨k, w⟩ := e
    have : Tab.mapV ((k, w) :: t) f = (k, f k w) :: Tab.mapV t f := rfl
    rw [this, Tab.find_cons, Tab.find_cons, ih]
    by_cases h : k = i
    · simp [h]
    · simp [h]

@[simp] theorem Tab.keys_upd (t : Tab α) (i : Nat) (f : α → α) : (Tab.upd t i f).map (·.1) = t.map (·.1) := by
  induction t with
  | nil => rfl
  | cons e t ih =>
    obtain ⟨k, w⟩ := e
    unfold Tab.upd
    split <;> simp [ih]

@[simp] theorem Tab.keys_mapV (t : Tab α) (f : Nat → α → α) : (Tab.mapV t f).map (·.1) = t.map (·.1) := by
  simp [Tab.mapV]

theorem Tab.wf_iff_keys (t : Tab α) : t.wf ↔ (t.map (·.1)).Pairwise (· < ·) := by
  simp [Tab.wf, List.pairwise_map]

theorem Tab.wf_upd {t : Tab α} (i : Nat) (f : α → α) (h : t.wf) : (Tab.upd t i f).wf := by
  rw [Tab.wf_iff_keys, Tab.keys_upd, ← Tab.wf_iff_keys]; exact h

theorem Tab.wf_mapV {t : Tab α} (f : Nat → α → α) (h : t.wf) : (Tab.mapV t f).wf := by
  rw [Tab.wf_iff_keys, Tab.keys_mapV, ← Tab.wf_iff_keys]; exact h

theorem Tab.wf_keep {t : Tab α} (f : Nat → α → Bool) (h : t.wf) : (Tab.keep t f).wf := List.Pairwise.filter _ h

theorem Tab.mem_put {t : Tab α} {i : Nat} {v : α} {e : Nat × α} (h : e ∈ Tab.put t i v) : e = (i, v) ∨ e ∈ t := by
  induction t with
  | nil => simpa [Tab.put] using h
  | cons c t ih =>
    obtain ⟨k, w⟩ := c
    unfold Tab.put at h
    split at h
    · simpa using h
    · split at h
      · rcases List.mem_cons.1 h with h | h
        · exact .inl h
        · exact .inr (by simp [h])
      · rcases List.mem_cons.1 h with h | h
        · exact .inr (by simp [h])
        · rcases ih h with h | h
          · exact .inl h
          · exact .inr (by simp [h])

theorem Tab.wf_put {t : Tab α} (i : Nat) (v : α) (h : t.wf) : (Tab.put t i v).wf := by
  induction t with
  | nil => simp [Tab.put, Tab.wf]
  | cons c t ih =>
    obtain ⟨k, w⟩ := c
    have hw := List.pairwise_cons.1 h
    unfold Tab.put
    split
    · rename_i hi
      refine List.pairwise_cons.2 ⟨fun e he => ?_, h⟩
      rcases List.mem_cons.1 he with he | he
      · subst he; exact hi
      · exact Nat.lt_trans hi (hw.1 e he)
    · split
      · rename_i h1 h2
        refine List.pairwise_cons.2 ⟨fun e he => ?_, hw.2⟩
        have := hw.1 e he
        simp only at this ⊢
        omega
      · rename_i h1 h2
        refine List.pairwise_cons.2 ⟨fun e he => ?_, ih hw.2⟩
        rcases Tab.mem_put he with he | he
        · subst he; simp only; omega
        · exact hw.1 e he

theorem Tab.mem_del {t : Tab α} {i : Nat} {e : Nat × α} (h : e ∈ Tab.del t i) : e ∈ t := by
  induction t with
  | nil => exact h
  | cons c t ih =>
    obtain ⟨k, w⟩ := c
    unfold Tab.del at h
    split at h
    · simp [h]
    · rcases List.mem_cons.1 h with h | h
      · simp [h]
      · simp [ih h]

theorem Tab.wf_del {t : Tab α} (i : Nat) (h : t.wf) : (Tab.del t i).wf := by
  induction t with
  | nil => exact h
  | cons c t ih =>
    obtain ⟨k, w⟩ := c
    have hw := List.pairwise_cons.1 h
    unfold Tab.del
    split
    · exact hw.2
    · exact List.pairwise_cons.2 ⟨fun e he => hw.1 e (Tab.mem_del he), ih hw.2⟩

end Sys2Proof.Machine
end

