-- ==== Sys2Proof/Laws/State.lean ====
section
/-! SUPPORT. One lemma per field per update of the state, true by rfl; and what is read of a partition, a step or an object after
each update. -/

namespace Sys2Proof.Machine

@[simp] theorem State.updP_pending (s : State) (p : Part) (f : Partition → Partition) : (s.updP p f).pending = s.pending := rfl
@[simp] theorem State.updP_free (s : State) (p : Part) (f : Partition → Partition) : (s.updP p f).free = s.free := rfl
@[simp] theorem State.updP_reply (s : State) (p : Part) (f : Partition → Partition) : (s.updP p f).reply = s.reply := rfl
@[simp] theorem State.updP_stepNo (s : State) (p : Part) (f : Partition → Partition) : (s.updP p f).stepNo = s.stepNo := rfl
@[simp] theorem State.updP_power (s : State) (p : Part) (f : Partition → Partition) : (s.updP p f).power = s.power := rfl
@[simp] theorem State.updP_ident (s : State) (p : Part) (f : Partition → Partition) : (s.updP p f).ident = s.ident := rfl
@[simp] theorem State.updP_presence (s : State) (p : Part) (f : Partition → Partition) : (s.updP p f).presence = s.presence := rfl
@[simp] theorem State.updP_control (s : State) (p : Part) (f : Partition → Partition) : (s.updP p f).control = s.control := rfl
@[simp] theorem State.updP_devLog (s : State) (p : Part) (f : Partition → Partition) : (s.updP p f).devLog = s.devLog := rfl
@[simp] theorem State.updP_domains (s : State) (p : Part) (f : Partition → Partition) : (s.updP p f).domains = s.domains := rfl
@[simp] theorem State.updP_clusters (s : State) (p : Part) (f : Partition → Partition) : (s.updP p f).clusters = s.clusters := rfl
@[simp] theorem State.updP_cam (s : State) (p : Part) (f : Partition → Partition) : (s.updP p f).cam = s.cam := rfl
@[simp] theorem State.updP_paths (s : State) (p : Part) (f : Partition → Partition) : (s.updP p f).paths = s.paths := rfl
@[simp] theorem State.updP_copyOrder (s : State) (p : Part) (f : Partition → Partition) : (s.updP p f).copyOrder = s.copyOrder := rfl
@[simp] theorem State.updP_ergot (s : State) (p : Part) (f : Partition → Partition) : (s.updP p f).ergot = s.ergot := rfl
@[simp] theorem State.updP_resweep (s : State) (p : Part) (f : Partition → Partition) : (s.updP p f).resweep = s.resweep := rfl
@[simp] theorem State.updP_ports (s : State) (p : Part) (f : Partition → Partition) : (s.updP p f).ports = s.ports := rfl
@[simp] theorem State.updP_flash (s : State) (p : Part) (f : Partition → Partition) : (s.updP p f).flash = s.flash := rfl
@[simp] theorem State.updP_journals (s : State) (p : Part) (f : Partition → Partition) : (s.updP p f).journals = s.journals := rfl
@[simp] theorem State.updP_sideband (s : State) (p : Part) (f : Partition → Partition) : (s.updP p f).sideband = s.sideband := rfl
@[simp] theorem State.updP_cxl (s : State) (p : Part) (f : Partition → Partition) : (s.updP p f).cxl = s.cxl := rfl

@[simp] theorem State.updStep_pending (s : State) (x : StepRef) (f : Step → Step) : (s.updStep x f).pending = s.pending := rfl
@[simp] theorem State.updStep_free (s : State) (x : StepRef) (f : Step → Step) : (s.updStep x f).free = s.free := rfl
@[simp] theorem State.updStep_reply (s : State) (x : StepRef) (f : Step → Step) : (s.updStep x f).reply = s.reply := rfl
@[simp] theorem State.updStep_stepNo (s : State) (x : StepRef) (f : Step → Step) : (s.updStep x f).stepNo = s.stepNo := rfl
@[simp] theorem State.updStep_power (s : State) (x : StepRef) (f : Step → Step) : (s.updStep x f).power = s.power := rfl
@[simp] theorem State.updStep_ident (s : State) (x : StepRef) (f : Step → Step) : (s.updStep x f).ident = s.ident := rfl
@[simp] theorem State.updStep_presence (s : State) (x : StepRef) (f : Step → Step) : (s.updStep x f).presence = s.presence := rfl
@[simp] theorem State.updStep_control (s : State) (x : StepRef) (f : Step → Step) : (s.updStep x f).control = s.control := rfl
@[simp] theorem State.updStep_devLog (s : State) (x : StepRef) (f : Step → Step) : (s.updStep x f).devLog = s.devLog := rfl
@[simp] theorem State.updStep_domains (s : State) (x : StepRef) (f : Step → Step) : (s.updStep x f).domains = s.domains := rfl
@[simp] theorem State.updStep_clusters (s : State) (x : StepRef) (f : Step → Step) : (s.updStep x f).clusters = s.clusters := rfl
@[simp] theorem State.updStep_cam (s : State) (x : StepRef) (f : Step → Step) : (s.updStep x f).cam = s.cam := rfl
@[simp] theorem State.updStep_paths (s : State) (x : StepRef) (f : Step → Step) : (s.updStep x f).paths = s.paths := rfl
@[simp] theorem State.updStep_copyOrder (s : State) (x : StepRef) (f : Step → Step) : (s.updStep x f).copyOrder = s.copyOrder := rfl
@[simp] theorem State.updStep_ergot (s : State) (x : StepRef) (f : Step → Step) : (s.updStep x f).ergot = s.ergot := rfl
@[simp] theorem State.updStep_resweep (s : State) (x : StepRef) (f : Step → Step) : (s.updStep x f).resweep = s.resweep := rfl
@[simp] theorem State.updStep_ports (s : State) (x : StepRef) (f : Step → Step) : (s.updStep x f).ports = s.ports := rfl
@[simp] theorem State.updStep_flash (s : State) (x : StepRef) (f : Step → Step) : (s.updStep x f).flash = s.flash := rfl
@[simp] theorem State.updStep_journals (s : State) (x : StepRef) (f : Step → Step) : (s.updStep x f).journals = s.journals := rfl
@[simp] theorem State.updStep_sideband (s : State) (x : StepRef) (f : Step → Step) : (s.updStep x f).sideband = s.sideband := rfl
@[simp] theorem State.updStep_cxl (s : State) (x : StepRef) (f : Step → Step) : (s.updStep x f).cxl = s.cxl := rfl

@[simp] theorem State.updGroup_pending (s : State) (p : Part) (i : Nat) (f : Group → Group) : (s.updGroup p i f).pending = s.pending := rfl
@[simp] theorem State.updGroup_free (s : State) (p : Part) (i : Nat) (f : Group → Group) : (s.updGroup p i f).free = s.free := rfl
@[simp] theorem State.updGroup_reply (s : State) (p : Part) (i : Nat) (f : Group → Group) : (s.updGroup p i f).reply = s.reply := rfl
@[simp] theorem State.updGroup_stepNo (s : State) (p : Part) (i : Nat) (f : Group → Group) : (s.updGroup p i f).stepNo = s.stepNo := rfl
@[simp] theorem State.updGroup_power (s : State) (p : Part) (i : Nat) (f : Group → Group) : (s.updGroup p i f).power = s.power := rfl
@[simp] theorem State.updGroup_ident (s : State) (p : Part) (i : Nat) (f : Group → Group) : (s.updGroup p i f).ident = s.ident := rfl
@[simp] theorem State.updGroup_presence (s : State) (p : Part) (i : Nat) (f : Group → Group) : (s.updGroup p i f).presence = s.presence := rfl
@[simp] theorem State.updGroup_control (s : State) (p : Part) (i : Nat) (f : Group → Group) : (s.updGroup p i f).control = s.control := rfl
@[simp] theorem State.updGroup_devLog (s : State) (p : Part) (i : Nat) (f : Group → Group) : (s.updGroup p i f).devLog = s.devLog := rfl
@[simp] theorem State.updGroup_domains (s : State) (p : Part) (i : Nat) (f : Group → Group) : (s.updGroup p i f).domains = s.domains := rfl
@[simp] theorem State.updGroup_clusters (s : State) (p : Part) (i : Nat) (f : Group → Group) : (s.updGroup p i f).clusters = s.clusters := rfl
@[simp] theorem State.updGroup_cam (s : State) (p : Part) (i : Nat) (f : Group → Group) : (s.updGroup p i f).cam = s.cam := rfl
@[simp] theorem State.updGroup_paths (s : State) (p : Part) (i : Nat) (f : Group → Group) : (s.updGroup p i f).paths = s.paths := rfl
@[simp] theorem State.updGroup_copyOrder (s : State) (p : Part) (i : Nat) (f : Group → Group) : (s.updGroup p i f).copyOrder = s.copyOrder := rfl
@[simp] theorem State.updGroup_ergot (s : State) (p : Part) (i : Nat) (f : Group → Group) : (s.updGroup p i f).ergot = s.ergot := rfl
@[simp] theorem State.updGroup_resweep (s : State) (p : Part) (i : Nat) (f : Group → Group) : (s.updGroup p i f).resweep = s.resweep := rfl
@[simp] theorem State.updGroup_ports (s : State) (p : Part) (i : Nat) (f : Group → Group) : (s.updGroup p i f).ports = s.ports := rfl
@[simp] theorem State.updGroup_flash (s : State) (p : Part) (i : Nat) (f : Group → Group) : (s.updGroup p i f).flash = s.flash := rfl
@[simp] theorem State.updGroup_journals (s : State) (p : Part) (i : Nat) (f : Group → Group) : (s.updGroup p i f).journals = s.journals := rfl
@[simp] theorem State.updGroup_sideband (s : State) (p : Part) (i : Nat) (f : Group → Group) : (s.updGroup p i f).sideband = s.sideband := rfl
@[simp] theorem State.updGroup_cxl (s : State) (p : Part) (i : Nat) (f : Group → Group) : (s.updGroup p i f).cxl = s.cxl := rfl

@[simp] theorem State.updSeq_pending (s : State) (p : Part) (i : Nat) (f : Sequence → Sequence) : (s.updSeq p i f).pending = s.pending := rfl
@[simp] theorem State.updSeq_free (s : State) (p : Part) (i : Nat) (f : Sequence → Sequence) : (s.updSeq p i f).free = s.free := rfl
@[simp] theorem State.updSeq_reply (s : State) (p : Part) (i : Nat) (f : Sequence → Sequence) : (s.updSeq p i f).reply = s.reply := rfl
@[simp] theorem State.updSeq_stepNo (s : State) (p : Part) (i : Nat) (f : Sequence → Sequence) : (s.updSeq p i f).stepNo = s.stepNo := rfl
@[simp] theorem State.updSeq_power (s : State) (p : Part) (i : Nat) (f : Sequence → Sequence) : (s.updSeq p i f).power = s.power := rfl
@[simp] theorem State.updSeq_ident (s : State) (p : Part) (i : Nat) (f : Sequence → Sequence) : (s.updSeq p i f).ident = s.ident := rfl
@[simp] theorem State.updSeq_presence (s : State) (p : Part) (i : Nat) (f : Sequence → Sequence) : (s.updSeq p i f).presence = s.presence := rfl
@[simp] theorem State.updSeq_control (s : State) (p : Part) (i : Nat) (f : Sequence → Sequence) : (s.updSeq p i f).control = s.control := rfl
@[simp] theorem State.updSeq_devLog (s : State) (p : Part) (i : Nat) (f : Sequence → Sequence) : (s.updSeq p i f).devLog = s.devLog := rfl
@[simp] theorem State.updSeq_domains (s : State) (p : Part) (i : Nat) (f : Sequence → Sequence) : (s.updSeq p i f).domains = s.domains := rfl
@[simp] theorem State.updSeq_clusters (s : State) (p : Part) (i : Nat) (f : Sequence → Sequence) : (s.updSeq p i f).clusters = s.clusters := rfl
@[simp] theorem State.updSeq_cam (s : State) (p : Part) (i : Nat) (f : Sequence → Sequence) : (s.updSeq p i f).cam = s.cam := rfl
@[simp] theorem State.updSeq_paths (s : State) (p : Part) (i : Nat) (f : Sequence → Sequence) : (s.updSeq p i f).paths = s.paths := rfl
@[simp] theorem State.updSeq_copyOrder (s : State) (p : Part) (i : Nat) (f : Sequence → Sequence) : (s.updSeq p i f).copyOrder = s.copyOrder := rfl
@[simp] theorem State.updSeq_ergot (s : State) (p : Part) (i : Nat) (f : Sequence → Sequence) : (s.updSeq p i f).ergot = s.ergot := rfl
@[simp] theorem State.updSeq_resweep (s : State) (p : Part) (i : Nat) (f : Sequence → Sequence) : (s.updSeq p i f).resweep = s.resweep := rfl
@[simp] theorem State.updSeq_ports (s : State) (p : Part) (i : Nat) (f : Sequence → Sequence) : (s.updSeq p i f).ports = s.ports := rfl
@[simp] theorem State.updSeq_flash (s : State) (p : Part) (i : Nat) (f : Sequence → Sequence) : (s.updSeq p i f).flash = s.flash := rfl
@[simp] theorem State.updSeq_journals (s : State) (p : Part) (i : Nat) (f : Sequence → Sequence) : (s.updSeq p i f).journals = s.journals := rfl
@[simp] theorem State.updSeq_sideband (s : State) (p : Part) (i : Nat) (f : Sequence → Sequence) : (s.updSeq p i f).sideband = s.sideband := rfl
@[simp] theorem State.updSeq_cxl (s : State) (p : Part) (i : Nat) (f : Sequence → Sequence) : (s.updSeq p i f).cxl = s.cxl := rfl

@[simp] theorem State.updSess_pending (s : State) (p : Part) (i : Nat) (f : Session → Session) : (s.updSess p i f).pending = s.pending := rfl
@[simp] theorem State.updSess_free (s : State) (p : Part) (i : Nat) (f : Session → Session) : (s.updSess p i f).free = s.free := rfl
@[simp] theorem State.updSess_reply (s : State) (p : Part) (i : Nat) (f : Session → Session) : (s.updSess p i f).reply = s.reply := rfl
@[simp] theorem State.updSess_stepNo (s : State) (p : Part) (i : Nat) (f : Session → Session) : (s.updSess p i f).stepNo = s.stepNo := rfl
@[simp] theorem State.updSess_power (s : State) (p : Part) (i : Nat) (f : Session → Session) : (s.updSess p i f).power = s.power := rfl
@[simp] theorem State.updSess_ident (s : State) (p : Part) (i : Nat) (f : Session → Session) : (s.updSess p i f).ident = s.ident := rfl
@[simp] theorem State.updSess_presence (s : State) (p : Part) (i : Nat) (f : Session → Session) : (s.updSess p i f).presence = s.presence := rfl
@[simp] theorem State.updSess_control (s : State) (p : Part) (i : Nat) (f : Session → Session) : (s.updSess p i f).control = s.control := rfl
@[simp] theorem State.updSess_devLog (s : State) (p : Part) (i : Nat) (f : Session → Session) : (s.updSess p i f).devLog = s.devLog := rfl
@[simp] theorem State.updSess_domains (s : State) (p : Part) (i : Nat) (f : Session → Session) : (s.updSess p i f).domains = s.domains := rfl
@[simp] theorem State.updSess_clusters (s : State) (p : Part) (i : Nat) (f : Session → Session) : (s.updSess p i f).clusters = s.clusters := rfl
@[simp] theorem State.updSess_cam (s : State) (p : Part) (i : Nat) (f : Session → Session) : (s.updSess p i f).cam = s.cam := rfl
@[simp] theorem State.updSess_paths (s : State) (p : Part) (i : Nat) (f : Session → Session) : (s.updSess p i f).paths = s.paths := rfl
@[simp] theorem State.updSess_copyOrder (s : State) (p : Part) (i : Nat) (f : Session → Session) : (s.updSess p i f).copyOrder = s.copyOrder := rfl
@[simp] theorem State.updSess_ergot (s : State) (p : Part) (i : Nat) (f : Session → Session) : (s.updSess p i f).ergot = s.ergot := rfl
@[simp] theorem State.updSess_resweep (s : State) (p : Part) (i : Nat) (f : Session → Session) : (s.updSess p i f).resweep = s.resweep := rfl
@[simp] theorem State.updSess_ports (s : State) (p : Part) (i : Nat) (f : Session → Session) : (s.updSess p i f).ports = s.ports := rfl
@[simp] theorem State.updSess_flash (s : State) (p : Part) (i : Nat) (f : Session → Session) : (s.updSess p i f).flash = s.flash := rfl
@[simp] theorem State.updSess_journals (s : State) (p : Part) (i : Nat) (f : Session → Session) : (s.updSess p i f).journals = s.journals := rfl
@[simp] theorem State.updSess_sideband (s : State) (p : Part) (i : Nat) (f : Session → Session) : (s.updSess p i f).sideband = s.sideband := rfl
@[simp] theorem State.updSess_cxl (s : State) (p : Part) (i : Nat) (f : Session → Session) : (s.updSess p i f).cxl = s.cxl := rfl

@[simp] theorem State.updRegion_pending (s : State) (p : Part) (i : Nat) (f : Region → Region) : (s.updRegion p i f).pending = s.pending := rfl
@[simp] theorem State.updRegion_free (s : State) (p : Part) (i : Nat) (f : Region → Region) : (s.updRegion p i f).free = s.free := rfl
@[simp] theorem State.updRegion_reply (s : State) (p : Part) (i : Nat) (f : Region → Region) : (s.updRegion p i f).reply = s.reply := rfl
@[simp] theorem State.updRegion_stepNo (s : State) (p : Part) (i : Nat) (f : Region → Region) : (s.updRegion p i f).stepNo = s.stepNo := rfl
@[simp] theorem State.updRegion_power (s : State) (p : Part) (i : Nat) (f : Region → Region) : (s.updRegion p i f).power = s.power := rfl
@[simp] theorem State.updRegion_ident (s : State) (p : Part) (i : Nat) (f : Region → Region) : (s.updRegion p i f).ident = s.ident := rfl
@[simp] theorem State.updRegion_presence (s : State) (p : Part) (i : Nat) (f : Region → Region) : (s.updRegion p i f).presence = s.presence := rfl
@[simp] theorem State.updRegion_control (s : State) (p : Part) (i : Nat) (f : Region → Region) : (s.updRegion p i f).control = s.control := rfl
@[simp] theorem State.updRegion_devLog (s : State) (p : Part) (i : Nat) (f : Region → Region) : (s.updRegion p i f).devLog = s.devLog := rfl
@[simp] theorem State.updRegion_domains (s : State) (p : Part) (i : Nat) (f : Region → Region) : (s.updRegion p i f).domains = s.domains := rfl
@[simp] theorem State.updRegion_clusters (s : State) (p : Part) (i : Nat) (f : Region → Region) : (s.updRegion p i f).clusters = s.clusters := rfl
@[simp] theorem State.updRegion_cam (s : State) (p : Part) (i : Nat) (f : Region → Region) : (s.updRegion p i f).cam = s.cam := rfl
@[simp] theorem State.updRegion_paths (s : State) (p : Part) (i : Nat) (f : Region → Region) : (s.updRegion p i f).paths = s.paths := rfl
@[simp] theorem State.updRegion_copyOrder (s : State) (p : Part) (i : Nat) (f : Region → Region) : (s.updRegion p i f).copyOrder = s.copyOrder := rfl
@[simp] theorem State.updRegion_ergot (s : State) (p : Part) (i : Nat) (f : Region → Region) : (s.updRegion p i f).ergot = s.ergot := rfl
@[simp] theorem State.updRegion_resweep (s : State) (p : Part) (i : Nat) (f : Region → Region) : (s.updRegion p i f).resweep = s.resweep := rfl
@[simp] theorem State.updRegion_ports (s : State) (p : Part) (i : Nat) (f : Region → Region) : (s.updRegion p i f).ports = s.ports := rfl
@[simp] theorem State.updRegion_flash (s : State) (p : Part) (i : Nat) (f : Region → Region) : (s.updRegion p i f).flash = s.flash := rfl
@[simp] theorem State.updRegion_journals (s : State) (p : Part) (i : Nat) (f : Region → Region) : (s.updRegion p i f).journals = s.journals := rfl
@[simp] theorem State.updRegion_sideband (s : State) (p : Part) (i : Nat) (f : Region → Region) : (s.updRegion p i f).sideband = s.sideband := rfl
@[simp] theorem State.updRegion_cxl (s : State) (p : Part) (i : Nat) (f : Region → Region) : (s.updRegion p i f).cxl = s.cxl := rfl

@[simp] theorem State.updQueue_pending (s : State) (p : Part) (i : Nat) (f : Queue → Queue) : (s.updQueue p i f).pending = s.pending := rfl
@[simp] theorem State.updQueue_free (s : State) (p : Part) (i : Nat) (f : Queue → Queue) : (s.updQueue p i f).free = s.free := rfl
@[simp] theorem State.updQueue_reply (s : State) (p : Part) (i : Nat) (f : Queue → Queue) : (s.updQueue p i f).reply = s.reply := rfl
@[simp] theorem State.updQueue_stepNo (s : State) (p : Part) (i : Nat) (f : Queue → Queue) : (s.updQueue p i f).stepNo = s.stepNo := rfl
@[simp] theorem State.updQueue_power (s : State) (p : Part) (i : Nat) (f : Queue → Queue) : (s.updQueue p i f).power = s.power := rfl
@[simp] theorem State.updQueue_ident (s : State) (p : Part) (i : Nat) (f : Queue → Queue) : (s.updQueue p i f).ident = s.ident := rfl
@[simp] theorem State.updQueue_presence (s : State) (p : Part) (i : Nat) (f : Queue → Queue) : (s.updQueue p i f).presence = s.presence := rfl
@[simp] theorem State.updQueue_control (s : State) (p : Part) (i : Nat) (f : Queue → Queue) : (s.updQueue p i f).control = s.control := rfl
@[simp] theorem State.updQueue_devLog (s : State) (p : Part) (i : Nat) (f : Queue → Queue) : (s.updQueue p i f).devLog = s.devLog := rfl
@[simp] theorem State.updQueue_domains (s : State) (p : Part) (i : Nat) (f : Queue → Queue) : (s.updQueue p i f).domains = s.domains := rfl
@[simp] theorem State.updQueue_clusters (s : State) (p : Part) (i : Nat) (f : Queue → Queue) : (s.updQueue p i f).clusters = s.clusters := rfl
@[simp] theorem State.updQueue_cam (s : State) (p : Part) (i : Nat) (f : Queue → Queue) : (s.updQueue p i f).cam = s.cam := rfl
@[simp] theorem State.updQueue_paths (s : State) (p : Part) (i : Nat) (f : Queue → Queue) : (s.updQueue p i f).paths = s.paths := rfl
@[simp] theorem State.updQueue_copyOrder (s : State) (p : Part) (i : Nat) (f : Queue → Queue) : (s.updQueue p i f).copyOrder = s.copyOrder := rfl
@[simp] theorem State.updQueue_ergot (s : State) (p : Part) (i : Nat) (f : Queue → Queue) : (s.updQueue p i f).ergot = s.ergot := rfl
@[simp] theorem State.updQueue_resweep (s : State) (p : Part) (i : Nat) (f : Queue → Queue) : (s.updQueue p i f).resweep = s.resweep := rfl
@[simp] theorem State.updQueue_ports (s : State) (p : Part) (i : Nat) (f : Queue → Queue) : (s.updQueue p i f).ports = s.ports := rfl
@[simp] theorem State.updQueue_flash (s : State) (p : Part) (i : Nat) (f : Queue → Queue) : (s.updQueue p i f).flash = s.flash := rfl
@[simp] theorem State.updQueue_journals (s : State) (p : Part) (i : Nat) (f : Queue → Queue) : (s.updQueue p i f).journals = s.journals := rfl
@[simp] theorem State.updQueue_sideband (s : State) (p : Part) (i : Nat) (f : Queue → Queue) : (s.updQueue p i f).sideband = s.sideband := rfl
@[simp] theorem State.updQueue_cxl (s : State) (p : Part) (i : Nat) (f : Queue → Queue) : (s.updQueue p i f).cxl = s.cxl := rfl

@[simp] theorem State.updTenant_pending (s : State) (p : Part) (i : Nat) (f : Tenant → Tenant) : (s.updTenant p i f).pending = s.pending := rfl
@[simp] theorem State.updTenant_free (s : State) (p : Part) (i : Nat) (f : Tenant → Tenant) : (s.updTenant p i f).free = s.free := rfl
@[simp] theorem State.updTenant_reply (s : State) (p : Part) (i : Nat) (f : Tenant → Tenant) : (s.updTenant p i f).reply = s.reply := rfl
@[simp] theorem State.updTenant_stepNo (s : State) (p : Part) (i : Nat) (f : Tenant → Tenant) : (s.updTenant p i f).stepNo = s.stepNo := rfl
@[simp] theorem State.updTenant_power (s : State) (p : Part) (i : Nat) (f : Tenant → Tenant) : (s.updTenant p i f).power = s.power := rfl
@[simp] theorem State.updTenant_ident (s : State) (p : Part) (i : Nat) (f : Tenant → Tenant) : (s.updTenant p i f).ident = s.ident := rfl
@[simp] theorem State.updTenant_presence (s : State) (p : Part) (i : Nat) (f : Tenant → Tenant) : (s.updTenant p i f).presence = s.presence := rfl
@[simp] theorem State.updTenant_control (s : State) (p : Part) (i : Nat) (f : Tenant → Tenant) : (s.updTenant p i f).control = s.control := rfl
@[simp] theorem State.updTenant_devLog (s : State) (p : Part) (i : Nat) (f : Tenant → Tenant) : (s.updTenant p i f).devLog = s.devLog := rfl
@[simp] theorem State.updTenant_domains (s : State) (p : Part) (i : Nat) (f : Tenant → Tenant) : (s.updTenant p i f).domains = s.domains := rfl
@[simp] theorem State.updTenant_clusters (s : State) (p : Part) (i : Nat) (f : Tenant → Tenant) : (s.updTenant p i f).clusters = s.clusters := rfl
@[simp] theorem State.updTenant_cam (s : State) (p : Part) (i : Nat) (f : Tenant → Tenant) : (s.updTenant p i f).cam = s.cam := rfl
@[simp] theorem State.updTenant_paths (s : State) (p : Part) (i : Nat) (f : Tenant → Tenant) : (s.updTenant p i f).paths = s.paths := rfl
@[simp] theorem State.updTenant_copyOrder (s : State) (p : Part) (i : Nat) (f : Tenant → Tenant) : (s.updTenant p i f).copyOrder = s.copyOrder := rfl
@[simp] theorem State.updTenant_ergot (s : State) (p : Part) (i : Nat) (f : Tenant → Tenant) : (s.updTenant p i f).ergot = s.ergot := rfl
@[simp] theorem State.updTenant_resweep (s : State) (p : Part) (i : Nat) (f : Tenant → Tenant) : (s.updTenant p i f).resweep = s.resweep := rfl
@[simp] theorem State.updTenant_ports (s : State) (p : Part) (i : Nat) (f : Tenant → Tenant) : (s.updTenant p i f).ports = s.ports := rfl
@[simp] theorem State.updTenant_flash (s : State) (p : Part) (i : Nat) (f : Tenant → Tenant) : (s.updTenant p i f).flash = s.flash := rfl
@[simp] theorem State.updTenant_journals (s : State) (p : Part) (i : Nat) (f : Tenant → Tenant) : (s.updTenant p i f).journals = s.journals := rfl
@[simp] theorem State.updTenant_sideband (s : State) (p : Part) (i : Nat) (f : Tenant → Tenant) : (s.updTenant p i f).sideband = s.sideband := rfl
@[simp] theorem State.updTenant_cxl (s : State) (p : Part) (i : Nat) (f : Tenant → Tenant) : (s.updTenant p i f).cxl = s.cxl := rfl

@[simp] theorem State.updQp_pending (s : State) (p : Part) (i : Nat) (f : Qp → Qp) : (s.updQp p i f).pending = s.pending := rfl
@[simp] theorem State.updQp_free (s : State) (p : Part) (i : Nat) (f : Qp → Qp) : (s.updQp p i f).free = s.free := rfl
@[simp] theorem State.updQp_reply (s : State) (p : Part) (i : Nat) (f : Qp → Qp) : (s.updQp p i f).reply = s.reply := rfl
@[simp] theorem State.updQp_stepNo (s : State) (p : Part) (i : Nat) (f : Qp → Qp) : (s.updQp p i f).stepNo = s.stepNo := rfl
@[simp] theorem State.updQp_power (s : State) (p : Part) (i : Nat) (f : Qp → Qp) : (s.updQp p i f).power = s.power := rfl
@[simp] theorem State.updQp_ident (s : State) (p : Part) (i : Nat) (f : Qp → Qp) : (s.updQp p i f).ident = s.ident := rfl
@[simp] theorem State.updQp_presence (s : State) (p : Part) (i : Nat) (f : Qp → Qp) : (s.updQp p i f).presence = s.presence := rfl
@[simp] theorem State.updQp_control (s : State) (p : Part) (i : Nat) (f : Qp → Qp) : (s.updQp p i f).control = s.control := rfl
@[simp] theorem State.updQp_devLog (s : State) (p : Part) (i : Nat) (f : Qp → Qp) : (s.updQp p i f).devLog = s.devLog := rfl
@[simp] theorem State.updQp_domains (s : State) (p : Part) (i : Nat) (f : Qp → Qp) : (s.updQp p i f).domains = s.domains := rfl
@[simp] theorem State.updQp_clusters (s : State) (p : Part) (i : Nat) (f : Qp → Qp) : (s.updQp p i f).clusters = s.clusters := rfl
@[simp] theorem State.updQp_cam (s : State) (p : Part) (i : Nat) (f : Qp → Qp) : (s.updQp p i f).cam = s.cam := rfl
@[simp] theorem State.updQp_paths (s : State) (p : Part) (i : Nat) (f : Qp → Qp) : (s.updQp p i f).paths = s.paths := rfl
@[simp] theorem State.updQp_copyOrder (s : State) (p : Part) (i : Nat) (f : Qp → Qp) : (s.updQp p i f).copyOrder = s.copyOrder := rfl
@[simp] theorem State.updQp_ergot (s : State) (p : Part) (i : Nat) (f : Qp → Qp) : (s.updQp p i f).ergot = s.ergot := rfl
@[simp] theorem State.updQp_resweep (s : State) (p : Part) (i : Nat) (f : Qp → Qp) : (s.updQp p i f).resweep = s.resweep := rfl
@[simp] theorem State.updQp_ports (s : State) (p : Part) (i : Nat) (f : Qp → Qp) : (s.updQp p i f).ports = s.ports := rfl
@[simp] theorem State.updQp_flash (s : State) (p : Part) (i : Nat) (f : Qp → Qp) : (s.updQp p i f).flash = s.flash := rfl
@[simp] theorem State.updQp_journals (s : State) (p : Part) (i : Nat) (f : Qp → Qp) : (s.updQp p i f).journals = s.journals := rfl
@[simp] theorem State.updQp_sideband (s : State) (p : Part) (i : Nat) (f : Qp → Qp) : (s.updQp p i f).sideband = s.sideband := rfl
@[simp] theorem State.updQp_cxl (s : State) (p : Part) (i : Nat) (f : Qp → Qp) : (s.updQp p i f).cxl = s.cxl := rfl

@[simp] theorem State.updLive_pending (s : State) (p : Part) (q : Nat) (cid : BitVec 16) (f : Live → Live) : (s.updLive p q cid f).pending = s.pending := rfl
@[simp] theorem State.updLive_free (s : State) (p : Part) (q : Nat) (cid : BitVec 16) (f : Live → Live) : (s.updLive p q cid f).free = s.free := rfl
@[simp] theorem State.updLive_reply (s : State) (p : Part) (q : Nat) (cid : BitVec 16) (f : Live → Live) : (s.updLive p q cid f).reply = s.reply := rfl
@[simp] theorem State.updLive_stepNo (s : State) (p : Part) (q : Nat) (cid : BitVec 16) (f : Live → Live) : (s.updLive p q cid f).stepNo = s.stepNo := rfl
@[simp] theorem State.updLive_power (s : State) (p : Part) (q : Nat) (cid : BitVec 16) (f : Live → Live) : (s.updLive p q cid f).power = s.power := rfl
@[simp] theorem State.updLive_ident (s : State) (p : Part) (q : Nat) (cid : BitVec 16) (f : Live → Live) : (s.updLive p q cid f).ident = s.ident := rfl
@[simp] theorem State.updLive_presence (s : State) (p : Part) (q : Nat) (cid : BitVec 16) (f : Live → Live) : (s.updLive p q cid f).presence = s.presence := rfl
@[simp] theorem State.updLive_control (s : State) (p : Part) (q : Nat) (cid : BitVec 16) (f : Live → Live) : (s.updLive p q cid f).control = s.control := rfl
@[simp] theorem State.updLive_devLog (s : State) (p : Part) (q : Nat) (cid : BitVec 16) (f : Live → Live) : (s.updLive p q cid f).devLog = s.devLog := rfl
@[simp] theorem State.updLive_domains (s : State) (p : Part) (q : Nat) (cid : BitVec 16) (f : Live → Live) : (s.updLive p q cid f).domains = s.domains := rfl
@[simp] theorem State.updLive_clusters (s : State) (p : Part) (q : Nat) (cid : BitVec 16) (f : Live → Live) : (s.updLive p q cid f).clusters = s.clusters := rfl
@[simp] theorem State.updLive_cam (s : State) (p : Part) (q : Nat) (cid : BitVec 16) (f : Live → Live) : (s.updLive p q cid f).cam = s.cam := rfl
@[simp] theorem State.updLive_paths (s : State) (p : Part) (q : Nat) (cid : BitVec 16) (f : Live → Live) : (s.updLive p q cid f).paths = s.paths := rfl
@[simp] theorem State.updLive_copyOrder (s : State) (p : Part) (q : Nat) (cid : BitVec 16) (f : Live → Live) : (s.updLive p q cid f).copyOrder = s.copyOrder := rfl
@[simp] theorem State.updLive_ergot (s : State) (p : Part) (q : Nat) (cid : BitVec 16) (f : Live → Live) : (s.updLive p q cid f).ergot = s.ergot := rfl
@[simp] theorem State.updLive_resweep (s : State) (p : Part) (q : Nat) (cid : BitVec 16) (f : Live → Live) : (s.updLive p q cid f).resweep = s.resweep := rfl
@[simp] theorem State.updLive_ports (s : State) (p : Part) (q : Nat) (cid : BitVec 16) (f : Live → Live) : (s.updLive p q cid f).ports = s.ports := rfl
@[simp] theorem State.updLive_flash (s : State) (p : Part) (q : Nat) (cid : BitVec 16) (f : Live → Live) : (s.updLive p q cid f).flash = s.flash := rfl
@[simp] theorem State.updLive_journals (s : State) (p : Part) (q : Nat) (cid : BitVec 16) (f : Live → Live) : (s.updLive p q cid f).journals = s.journals := rfl
@[simp] theorem State.updLive_sideband (s : State) (p : Part) (q : Nat) (cid : BitVec 16) (f : Live → Live) : (s.updLive p q cid f).sideband = s.sideband := rfl
@[simp] theorem State.updLive_cxl (s : State) (p : Part) (q : Nat) (cid : BitVec 16) (f : Live → Live) : (s.updLive p q cid f).cxl = s.cxl := rfl

@[simp] theorem State.count_pending (s : State) (p : Part) (n k : Nat) : (s.count p n k).pending = s.pending := rfl
@[simp] theorem State.count_free (s : State) (p : Part) (n k : Nat) : (s.count p n k).free = s.free := rfl
@[simp] theorem State.count_reply (s : State) (p : Part) (n k : Nat) : (s.count p n k).reply = s.reply := rfl
@[simp] theorem State.count_stepNo (s : State) (p : Part) (n k : Nat) : (s.count p n k).stepNo = s.stepNo := rfl
@[simp] theorem State.count_power (s : State) (p : Part) (n k : Nat) : (s.count p n k).power = s.power := rfl
@[simp] theorem State.count_ident (s : State) (p : Part) (n k : Nat) : (s.count p n k).ident = s.ident := rfl
@[simp] theorem State.count_presence (s : State) (p : Part) (n k : Nat) : (s.count p n k).presence = s.presence := rfl
@[simp] theorem State.count_control (s : State) (p : Part) (n k : Nat) : (s.count p n k).control = s.control := rfl
@[simp] theorem State.count_devLog (s : State) (p : Part) (n k : Nat) : (s.count p n k).devLog = s.devLog := rfl
@[simp] theorem State.count_domains (s : State) (p : Part) (n k : Nat) : (s.count p n k).domains = s.domains := rfl
@[simp] theorem State.count_clusters (s : State) (p : Part) (n k : Nat) : (s.count p n k).clusters = s.clusters := rfl
@[simp] theorem State.count_cam (s : State) (p : Part) (n k : Nat) : (s.count p n k).cam = s.cam := rfl
@[simp] theorem State.count_paths (s : State) (p : Part) (n k : Nat) : (s.count p n k).paths = s.paths := rfl
@[simp] theorem State.count_copyOrder (s : State) (p : Part) (n k : Nat) : (s.count p n k).copyOrder = s.copyOrder := rfl
@[simp] theorem State.count_ergot (s : State) (p : Part) (n k : Nat) : (s.count p n k).ergot = s.ergot := rfl
@[simp] theorem State.count_resweep (s : State) (p : Part) (n k : Nat) : (s.count p n k).resweep = s.resweep := rfl
@[simp] theorem State.count_ports (s : State) (p : Part) (n k : Nat) : (s.count p n k).ports = s.ports := rfl
@[simp] theorem State.count_flash (s : State) (p : Part) (n k : Nat) : (s.count p n k).flash = s.flash := rfl
@[simp] theorem State.count_journals (s : State) (p : Part) (n k : Nat) : (s.count p n k).journals = s.journals := rfl
@[simp] theorem State.count_sideband (s : State) (p : Part) (n k : Nat) : (s.count p n k).sideband = s.sideband := rfl
@[simp] theorem State.count_cxl (s : State) (p : Part) (n k : Nat) : (s.count p n k).cxl = s.cxl := rfl

@[simp] theorem State.event_pending (s : State) (p : Part) (code st : Nat) (o a : Word) : (s.event p code st o a).pending = s.pending := rfl
@[simp] theorem State.event_free (s : State) (p : Part) (code st : Nat) (o a : Word) : (s.event p code st o a).free = s.free := rfl
@[simp] theorem State.event_reply (s : State) (p : Part) (code st : Nat) (o a : Word) : (s.event p code st o a).reply = s.reply := rfl
@[simp] theorem State.event_stepNo (s : State) (p : Part) (code st : Nat) (o a : Word) : (s.event p code st o a).stepNo = s.stepNo := rfl
@[simp] theorem State.event_power (s : State) (p : Part) (code st : Nat) (o a : Word) : (s.event p code st o a).power = s.power := rfl
@[simp] theorem State.event_ident (s : State) (p : Part) (code st : Nat) (o a : Word) : (s.event p code st o a).ident = s.ident := rfl
@[simp] theorem State.event_presence (s : State) (p : Part) (code st : Nat) (o a : Word) : (s.event p code st o a).presence = s.presence := rfl
@[simp] theorem State.event_control (s : State) (p : Part) (code st : Nat) (o a : Word) : (s.event p code st o a).control = s.control := rfl
@[simp] theorem State.event_devLog (s : State) (p : Part) (code st : Nat) (o a : Word) : (s.event p code st o a).devLog = s.devLog := rfl
@[simp] theorem State.event_domains (s : State) (p : Part) (code st : Nat) (o a : Word) : (s.event p code st o a).domains = s.domains := rfl
@[simp] theorem State.event_clusters (s : State) (p : Part) (code st : Nat) (o a : Word) : (s.event p code st o a).clusters = s.clusters := rfl
@[simp] theorem State.event_cam (s : State) (p : Part) (code st : Nat) (o a : Word) : (s.event p code st o a).cam = s.cam := rfl
@[simp] theorem State.event_paths (s : State) (p : Part) (code st : Nat) (o a : Word) : (s.event p code st o a).paths = s.paths := rfl
@[simp] theorem State.event_copyOrder (s : State) (p : Part) (code st : Nat) (o a : Word) : (s.event p code st o a).copyOrder = s.copyOrder := rfl
@[simp] theorem State.event_ergot (s : State) (p : Part) (code st : Nat) (o a : Word) : (s.event p code st o a).ergot = s.ergot := rfl
@[simp] theorem State.event_resweep (s : State) (p : Part) (code st : Nat) (o a : Word) : (s.event p code st o a).resweep = s.resweep := rfl
@[simp] theorem State.event_ports (s : State) (p : Part) (code st : Nat) (o a : Word) : (s.event p code st o a).ports = s.ports := rfl
@[simp] theorem State.event_flash (s : State) (p : Part) (code st : Nat) (o a : Word) : (s.event p code st o a).flash = s.flash := rfl
@[simp] theorem State.event_journals (s : State) (p : Part) (code st : Nat) (o a : Word) : (s.event p code st o a).journals = s.journals := rfl
@[simp] theorem State.event_sideband (s : State) (p : Part) (code st : Nat) (o a : Word) : (s.event p code st o a).sideband = s.sideband := rfl
@[simp] theorem State.event_cxl (s : State) (p : Part) (code st : Nat) (o a : Word) : (s.event p code st o a).cxl = s.cxl := rfl

@[simp] theorem State.finish_pending (s : State) (p : Part) (q : Nat) (cid : BitVec 16) (st : Status) (r0 r1 : Word) (n : Nat) : (s.finish p q cid st r0 r1 n).pending = s.pending := rfl
@[simp] theorem State.finish_free (s : State) (p : Part) (q : Nat) (cid : BitVec 16) (st : Status) (r0 r1 : Word) (n : Nat) : (s.finish p q cid st r0 r1 n).free = s.free := rfl
@[simp] theorem State.finish_reply (s : State) (p : Part) (q : Nat) (cid : BitVec 16) (st : Status) (r0 r1 : Word) (n : Nat) : (s.finish p q cid st r0 r1 n).reply = s.reply := rfl
@[simp] theorem State.finish_stepNo (s : State) (p : Part) (q : Nat) (cid : BitVec 16) (st : Status) (r0 r1 : Word) (n : Nat) : (s.finish p q cid st r0 r1 n).stepNo = s.stepNo := rfl
@[simp] theorem State.finish_power (s : State) (p : Part) (q : Nat) (cid : BitVec 16) (st : Status) (r0 r1 : Word) (n : Nat) : (s.finish p q cid st r0 r1 n).power = s.power := rfl
@[simp] theorem State.finish_ident (s : State) (p : Part) (q : Nat) (cid : BitVec 16) (st : Status) (r0 r1 : Word) (n : Nat) : (s.finish p q cid st r0 r1 n).ident = s.ident := rfl
@[simp] theorem State.finish_presence (s : State) (p : Part) (q : Nat) (cid : BitVec 16) (st : Status) (r0 r1 : Word) (n : Nat) : (s.finish p q cid st r0 r1 n).presence = s.presence := rfl
@[simp] theorem State.finish_control (s : State) (p : Part) (q : Nat) (cid : BitVec 16) (st : Status) (r0 r1 : Word) (n : Nat) : (s.finish p q cid st r0 r1 n).control = s.control := rfl
@[simp] theorem State.finish_devLog (s : State) (p : Part) (q : Nat) (cid : BitVec 16) (st : Status) (r0 r1 : Word) (n : Nat) : (s.finish p q cid st r0 r1 n).devLog = s.devLog := rfl
@[simp] theorem State.finish_domains (s : State) (p : Part) (q : Nat) (cid : BitVec 16) (st : Status) (r0 r1 : Word) (n : Nat) : (s.finish p q cid st r0 r1 n).domains = s.domains := rfl
@[simp] theorem State.finish_clusters (s : State) (p : Part) (q : Nat) (cid : BitVec 16) (st : Status) (r0 r1 : Word) (n : Nat) : (s.finish p q cid st r0 r1 n).clusters = s.clusters := rfl
@[simp] theorem State.finish_cam (s : State) (p : Part) (q : Nat) (cid : BitVec 16) (st : Status) (r0 r1 : Word) (n : Nat) : (s.finish p q cid st r0 r1 n).cam = s.cam := rfl
@[simp] theorem State.finish_paths (s : State) (p : Part) (q : Nat) (cid : BitVec 16) (st : Status) (r0 r1 : Word) (n : Nat) : (s.finish p q cid st r0 r1 n).paths = s.paths := rfl
@[simp] theorem State.finish_copyOrder (s : State) (p : Part) (q : Nat) (cid : BitVec 16) (st : Status) (r0 r1 : Word) (n : Nat) : (s.finish p q cid st r0 r1 n).copyOrder = s.copyOrder := rfl
@[simp] theorem State.finish_ergot (s : State) (p : Part) (q : Nat) (cid : BitVec 16) (st : Status) (r0 r1 : Word) (n : Nat) : (s.finish p q cid st r0 r1 n).ergot = s.ergot := rfl
@[simp] theorem State.finish_resweep (s : State) (p : Part) (q : Nat) (cid : BitVec 16) (st : Status) (r0 r1 : Word) (n : Nat) : (s.finish p q cid st r0 r1 n).resweep = s.resweep := rfl
@[simp] theorem State.finish_ports (s : State) (p : Part) (q : Nat) (cid : BitVec 16) (st : Status) (r0 r1 : Word) (n : Nat) : (s.finish p q cid st r0 r1 n).ports = s.ports := rfl
@[simp] theorem State.finish_flash (s : State) (p : Part) (q : Nat) (cid : BitVec 16) (st : Status) (r0 r1 : Word) (n : Nat) : (s.finish p q cid st r0 r1 n).flash = s.flash := rfl
@[simp] theorem State.finish_journals (s : State) (p : Part) (q : Nat) (cid : BitVec 16) (st : Status) (r0 r1 : Word) (n : Nat) : (s.finish p q cid st r0 r1 n).journals = s.journals := rfl
@[simp] theorem State.finish_sideband (s : State) (p : Part) (q : Nat) (cid : BitVec 16) (st : Status) (r0 r1 : Word) (n : Nat) : (s.finish p q cid st r0 r1 n).sideband = s.sideband := rfl
@[simp] theorem State.finish_cxl (s : State) (p : Part) (q : Nat) (cid : BitVec 16) (st : Status) (r0 r1 : Word) (n : Nat) : (s.finish p q cid st r0 r1 n).cxl = s.cxl := rfl

@[simp] theorem State.interim_pending (s : State) (p : Part) (q : Nat) (cid : BitVec 16) (r0 r1 : Word) (n : Nat) : (s.interim p q cid r0 r1 n).pending = s.pending := rfl
@[simp] theorem State.interim_free (s : State) (p : Part) (q : Nat) (cid : BitVec 16) (r0 r1 : Word) (n : Nat) : (s.interim p q cid r0 r1 n).free = s.free := rfl
@[simp] theorem State.interim_reply (s : State) (p : Part) (q : Nat) (cid : BitVec 16) (r0 r1 : Word) (n : Nat) : (s.interim p q cid r0 r1 n).reply = s.reply := rfl
@[simp] theorem State.interim_stepNo (s : State) (p : Part) (q : Nat) (cid : BitVec 16) (r0 r1 : Word) (n : Nat) : (s.interim p q cid r0 r1 n).stepNo = s.stepNo := rfl
@[simp] theorem State.interim_power (s : State) (p : Part) (q : Nat) (cid : BitVec 16) (r0 r1 : Word) (n : Nat) : (s.interim p q cid r0 r1 n).power = s.power := rfl
@[simp] theorem State.interim_ident (s : State) (p : Part) (q : Nat) (cid : BitVec 16) (r0 r1 : Word) (n : Nat) : (s.interim p q cid r0 r1 n).ident = s.ident := rfl
@[simp] theorem State.interim_presence (s : State) (p : Part) (q : Nat) (cid : BitVec 16) (r0 r1 : Word) (n : Nat) : (s.interim p q cid r0 r1 n).presence = s.presence := rfl
@[simp] theorem State.interim_control (s : State) (p : Part) (q : Nat) (cid : BitVec 16) (r0 r1 : Word) (n : Nat) : (s.interim p q cid r0 r1 n).control = s.control := rfl
@[simp] theorem State.interim_devLog (s : State) (p : Part) (q : Nat) (cid : BitVec 16) (r0 r1 : Word) (n : Nat) : (s.interim p q cid r0 r1 n).devLog = s.devLog := rfl
@[simp] theorem State.interim_domains (s : State) (p : Part) (q : Nat) (cid : BitVec 16) (r0 r1 : Word) (n : Nat) : (s.interim p q cid r0 r1 n).domains = s.domains := rfl
@[simp] theorem State.interim_clusters (s : State) (p : Part) (q : Nat) (cid : BitVec 16) (r0 r1 : Word) (n : Nat) : (s.interim p q cid r0 r1 n).clusters = s.clusters := rfl
@[simp] theorem State.interim_cam (s : State) (p : Part) (q : Nat) (cid : BitVec 16) (r0 r1 : Word) (n : Nat) : (s.interim p q cid r0 r1 n).cam = s.cam := rfl
@[simp] theorem State.interim_paths (s : State) (p : Part) (q : Nat) (cid : BitVec 16) (r0 r1 : Word) (n : Nat) : (s.interim p q cid r0 r1 n).paths = s.paths := rfl
@[simp] theorem State.interim_copyOrder (s : State) (p : Part) (q : Nat) (cid : BitVec 16) (r0 r1 : Word) (n : Nat) : (s.interim p q cid r0 r1 n).copyOrder = s.copyOrder := rfl
@[simp] theorem State.interim_ergot (s : State) (p : Part) (q : Nat) (cid : BitVec 16) (r0 r1 : Word) (n : Nat) : (s.interim p q cid r0 r1 n).ergot = s.ergot := rfl
@[simp] theorem State.interim_resweep (s : State) (p : Part) (q : Nat) (cid : BitVec 16) (r0 r1 : Word) (n : Nat) : (s.interim p q cid r0 r1 n).resweep = s.resweep := rfl
@[simp] theorem State.interim_ports (s : State) (p : Part) (q : Nat) (cid : BitVec 16) (r0 r1 : Word) (n : Nat) : (s.interim p q cid r0 r1 n).ports = s.ports := rfl
@[simp] theorem State.interim_flash (s : State) (p : Part) (q : Nat) (cid : BitVec 16) (r0 r1 : Word) (n : Nat) : (s.interim p q cid r0 r1 n).flash = s.flash := rfl
@[simp] theorem State.interim_journals (s : State) (p : Part) (q : Nat) (cid : BitVec 16) (r0 r1 : Word) (n : Nat) : (s.interim p q cid r0 r1 n).journals = s.journals := rfl
@[simp] theorem State.interim_sideband (s : State) (p : Part) (q : Nat) (cid : BitVec 16) (r0 r1 : Word) (n : Nat) : (s.interim p q cid r0 r1 n).sideband = s.sideband := rfl
@[simp] theorem State.interim_cxl (s : State) (p : Part) (q : Nat) (cid : BitVec 16) (r0 r1 : Word) (n : Nat) : (s.interim p q cid r0 r1 n).cxl = s.cxl := rfl

@[simp] theorem State.log_pending (s : State) (x : StepRef) (o : LogOp) : (s.log x o).pending = s.pending := rfl
@[simp] theorem State.log_free (s : State) (x : StepRef) (o : LogOp) : (s.log x o).free = s.free := rfl
@[simp] theorem State.log_reply (s : State) (x : StepRef) (o : LogOp) : (s.log x o).reply = s.reply := rfl
@[simp] theorem State.log_stepNo (s : State) (x : StepRef) (o : LogOp) : (s.log x o).stepNo = s.stepNo := rfl
@[simp] theorem State.log_power (s : State) (x : StepRef) (o : LogOp) : (s.log x o).power = s.power := rfl
@[simp] theorem State.log_ident (s : State) (x : StepRef) (o : LogOp) : (s.log x o).ident = s.ident := rfl
@[simp] theorem State.log_presence (s : State) (x : StepRef) (o : LogOp) : (s.log x o).presence = s.presence := rfl
@[simp] theorem State.log_control (s : State) (x : StepRef) (o : LogOp) : (s.log x o).control = s.control := rfl
@[simp] theorem State.log_devLog (s : State) (x : StepRef) (o : LogOp) : (s.log x o).devLog = s.devLog := rfl
@[simp] theorem State.log_domains (s : State) (x : StepRef) (o : LogOp) : (s.log x o).domains = s.domains := rfl
@[simp] theorem State.log_clusters (s : State) (x : StepRef) (o : LogOp) : (s.log x o).clusters = s.clusters := rfl
@[simp] theorem State.log_cam (s : State) (x : StepRef) (o : LogOp) : (s.log x o).cam = s.cam := rfl
@[simp] theorem State.log_paths (s : State) (x : StepRef) (o : LogOp) : (s.log x o).paths = s.paths := rfl
@[simp] theorem State.log_copyOrder (s : State) (x : StepRef) (o : LogOp) : (s.log x o).copyOrder = s.copyOrder := rfl
@[simp] theorem State.log_ergot (s : State) (x : StepRef) (o : LogOp) : (s.log x o).ergot = s.ergot := rfl
@[simp] theorem State.log_resweep (s : State) (x : StepRef) (o : LogOp) : (s.log x o).resweep = s.resweep := rfl
@[simp] theorem State.log_ports (s : State) (x : StepRef) (o : LogOp) : (s.log x o).ports = s.ports := rfl
@[simp] theorem State.log_flash (s : State) (x : StepRef) (o : LogOp) : (s.log x o).flash = s.flash := rfl
@[simp] theorem State.log_journals (s : State) (x : StepRef) (o : LogOp) : (s.log x o).journals = s.journals := rfl
@[simp] theorem State.log_sideband (s : State) (x : StepRef) (o : LogOp) : (s.log x o).sideband = s.sideband := rfl
@[simp] theorem State.log_cxl (s : State) (x : StepRef) (o : LogOp) : (s.log x o).cxl = s.cxl := rfl

@[simp] theorem State.answer_pending (s : State) (st : Status) (v : Word) (data : List Byte) (b : Bool) : (s.answer st v data b).pending = s.pending := rfl
@[simp] theorem State.answer_free (s : State) (st : Status) (v : Word) (data : List Byte) (b : Bool) : (s.answer st v data b).free = s.free := rfl
@[simp] theorem State.answer_stepNo (s : State) (st : Status) (v : Word) (data : List Byte) (b : Bool) : (s.answer st v data b).stepNo = s.stepNo := rfl
@[simp] theorem State.answer_power (s : State) (st : Status) (v : Word) (data : List Byte) (b : Bool) : (s.answer st v data b).power = s.power := rfl
@[simp] theorem State.answer_ident (s : State) (st : Status) (v : Word) (data : List Byte) (b : Bool) : (s.answer st v data b).ident = s.ident := rfl
@[simp] theorem State.answer_presence (s : State) (st : Status) (v : Word) (data : List Byte) (b : Bool) : (s.answer st v data b).presence = s.presence := rfl
@[simp] theorem State.answer_control (s : State) (st : Status) (v : Word) (data : List Byte) (b : Bool) : (s.answer st v data b).control = s.control := rfl
@[simp] theorem State.answer_devLog (s : State) (st : Status) (v : Word) (data : List Byte) (b : Bool) : (s.answer st v data b).devLog = s.devLog := rfl
@[simp] theorem State.answer_parts (s : State) (st : Status) (v : Word) (data : List Byte) (b : Bool) : (s.answer st v data b).parts = s.parts := rfl
@[simp] theorem State.answer_domains (s : State) (st : Status) (v : Word) (data : List Byte) (b : Bool) : (s.answer st v data b).domains = s.domains := rfl
@[simp] theorem State.answer_clusters (s : State) (st : Status) (v : Word) (data : List Byte) (b : Bool) : (s.answer st v data b).clusters = s.clusters := rfl
@[simp] theorem State.answer_cam (s : State) (st : Status) (v : Word) (data : List Byte) (b : Bool) : (s.answer st v data b).cam = s.cam := rfl
@[simp] theorem State.answer_paths (s : State) (st : Status) (v : Word) (data : List Byte) (b : Bool) : (s.answer st v data b).paths = s.paths := rfl
@[simp] theorem State.answer_copyOrder (s : State) (st : Status) (v : Word) (data : List Byte) (b : Bool) : (s.answer st v data b).copyOrder = s.copyOrder := rfl
@[simp] theorem State.answer_ergot (s : State) (st : Status) (v : Word) (data : List Byte) (b : Bool) : (s.answer st v data b).ergot = s.ergot := rfl
@[simp] theorem State.answer_resweep (s : State) (st : Status) (v : Word) (data : List Byte) (b : Bool) : (s.answer st v data b).resweep = s.resweep := rfl
@[simp] theorem State.answer_ports (s : State) (st : Status) (v : Word) (data : List Byte) (b : Bool) : (s.answer st v data b).ports = s.ports := rfl
@[simp] theorem State.answer_flash (s : State) (st : Status) (v : Word) (data : List Byte) (b : Bool) : (s.answer st v data b).flash = s.flash := rfl
@[simp] theorem State.answer_journals (s : State) (st : Status) (v : Word) (data : List Byte) (b : Bool) : (s.answer st v data b).journals = s.journals := rfl
@[simp] theorem State.answer_sideband (s : State) (st : Status) (v : Word) (data : List Byte) (b : Bool) : (s.answer st v data b).sideband = s.sideband := rfl
@[simp] theorem State.answer_cxl (s : State) (st : Status) (v : Word) (data : List Byte) (b : Bool) : (s.answer st v data b).cxl = s.cxl := rfl

@[simp] theorem State.mbox_pending (s : State) (c : MboxCode) (v : Word) (data : List Byte) (b : Bool) : (s.mbox c v data b).pending = s.pending := rfl
@[simp] theorem State.mbox_free (s : State) (c : MboxCode) (v : Word) (data : List Byte) (b : Bool) : (s.mbox c v data b).free = s.free := rfl
@[simp] theorem State.mbox_stepNo (s : State) (c : MboxCode) (v : Word) (data : List Byte) (b : Bool) : (s.mbox c v data b).stepNo = s.stepNo := rfl
@[simp] theorem State.mbox_power (s : State) (c : MboxCode) (v : Word) (data : List Byte) (b : Bool) : (s.mbox c v data b).power = s.power := rfl
@[simp] theorem State.mbox_ident (s : State) (c : MboxCode) (v : Word) (data : List Byte) (b : Bool) : (s.mbox c v data b).ident = s.ident := rfl
@[simp] theorem State.mbox_presence (s : State) (c : MboxCode) (v : Word) (data : List Byte) (b : Bool) : (s.mbox c v data b).presence = s.presence := rfl
@[simp] theorem State.mbox_control (s : State) (c : MboxCode) (v : Word) (data : List Byte) (b : Bool) : (s.mbox c v data b).control = s.control := rfl
@[simp] theorem State.mbox_devLog (s : State) (c : MboxCode) (v : Word) (data : List Byte) (b : Bool) : (s.mbox c v data b).devLog = s.devLog := rfl
@[simp] theorem State.mbox_parts (s : State) (c : MboxCode) (v : Word) (data : List Byte) (b : Bool) : (s.mbox c v data b).parts = s.parts := rfl
@[simp] theorem State.mbox_domains (s : State) (c : MboxCode) (v : Word) (data : List Byte) (b : Bool) : (s.mbox c v data b).domains = s.domains := rfl
@[simp] theorem State.mbox_clusters (s : State) (c : MboxCode) (v : Word) (data : List Byte) (b : Bool) : (s.mbox c v data b).clusters = s.clusters := rfl
@[simp] theorem State.mbox_cam (s : State) (c : MboxCode) (v : Word) (data : List Byte) (b : Bool) : (s.mbox c v data b).cam = s.cam := rfl
@[simp] theorem State.mbox_paths (s : State) (c : MboxCode) (v : Word) (data : List Byte) (b : Bool) : (s.mbox c v data b).paths = s.paths := rfl
@[simp] theorem State.mbox_copyOrder (s : State) (c : MboxCode) (v : Word) (data : List Byte) (b : Bool) : (s.mbox c v data b).copyOrder = s.copyOrder := rfl
@[simp] theorem State.mbox_ergot (s : State) (c : MboxCode) (v : Word) (data : List Byte) (b : Bool) : (s.mbox c v data b).ergot = s.ergot := rfl
@[simp] theorem State.mbox_resweep (s : State) (c : MboxCode) (v : Word) (data : List Byte) (b : Bool) : (s.mbox c v data b).resweep = s.resweep := rfl
@[simp] theorem State.mbox_ports (s : State) (c : MboxCode) (v : Word) (data : List Byte) (b : Bool) : (s.mbox c v data b).ports = s.ports := rfl
@[simp] theorem State.mbox_flash (s : State) (c : MboxCode) (v : Word) (data : List Byte) (b : Bool) : (s.mbox c v data b).flash = s.flash := rfl
@[simp] theorem State.mbox_journals (s : State) (c : MboxCode) (v : Word) (data : List Byte) (b : Bool) : (s.mbox c v data b).journals = s.journals := rfl
@[simp] theorem State.mbox_sideband (s : State) (c : MboxCode) (v : Word) (data : List Byte) (b : Bool) : (s.mbox c v data b).sideband = s.sideband := rfl
@[simp] theorem State.mbox_cxl (s : State) (c : MboxCode) (v : Word) (data : List Byte) (b : Bool) : (s.mbox c v data b).cxl = s.cxl := rfl

@[simp] theorem State.devEvent_pending (s : State) (code st : Nat) (o a : Word) : (s.devEvent code st o a).pending = s.pending := rfl
@[simp] theorem State.devEvent_free (s : State) (code st : Nat) (o a : Word) : (s.devEvent code st o a).free = s.free := rfl
@[simp] theorem State.devEvent_reply (s : State) (code st : Nat) (o a : Word) : (s.devEvent code st o a).reply = s.reply := rfl
@[simp] theorem State.devEvent_stepNo (s : State) (code st : Nat) (o a : Word) : (s.devEvent code st o a).stepNo = s.stepNo := rfl
@[simp] theorem State.devEvent_power (s : State) (code st : Nat) (o a : Word) : (s.devEvent code st o a).power = s.power := rfl
@[simp] theorem State.devEvent_ident (s : State) (code st : Nat) (o a : Word) : (s.devEvent code st o a).ident = s.ident := rfl
@[simp] theorem State.devEvent_presence (s : State) (code st : Nat) (o a : Word) : (s.devEvent code st o a).presence = s.presence := rfl
@[simp] theorem State.devEvent_control (s : State) (code st : Nat) (o a : Word) : (s.devEvent code st o a).control = s.control := rfl
@[simp] theorem State.devEvent_parts (s : State) (code st : Nat) (o a : Word) : (s.devEvent code st o a).parts = s.parts := rfl
@[simp] theorem State.devEvent_domains (s : State) (code st : Nat) (o a : Word) : (s.devEvent code st o a).domains = s.domains := rfl
@[simp] theorem State.devEvent_clusters (s : State) (code st : Nat) (o a : Word) : (s.devEvent code st o a).clusters = s.clusters := rfl
@[simp] theorem State.devEvent_cam (s : State) (code st : Nat) (o a : Word) : (s.devEvent code st o a).cam = s.cam := rfl
@[simp] theorem State.devEvent_paths (s : State) (code st : Nat) (o a : Word) : (s.devEvent code st o a).paths = s.paths := rfl
@[simp] theorem State.devEvent_copyOrder (s : State) (code st : Nat) (o a : Word) : (s.devEvent code st o a).copyOrder = s.copyOrder := rfl
@[simp] theorem State.devEvent_ergot (s : State) (code st : Nat) (o a : Word) : (s.devEvent code st o a).ergot = s.ergot := rfl
@[simp] theorem State.devEvent_resweep (s : State) (code st : Nat) (o a : Word) : (s.devEvent code st o a).resweep = s.resweep := rfl
@[simp] theorem State.devEvent_ports (s : State) (code st : Nat) (o a : Word) : (s.devEvent code st o a).ports = s.ports := rfl
@[simp] theorem State.devEvent_flash (s : State) (code st : Nat) (o a : Word) : (s.devEvent code st o a).flash = s.flash := rfl
@[simp] theorem State.devEvent_journals (s : State) (code st : Nat) (o a : Word) : (s.devEvent code st o a).journals = s.journals := rfl
@[simp] theorem State.devEvent_sideband (s : State) (code st : Nat) (o a : Word) : (s.devEvent code st o a).sideband = s.sideband := rfl
@[simp] theorem State.devEvent_cxl (s : State) (code st : Nat) (o a : Word) : (s.devEvent code st o a).cxl = s.cxl := rfl

@[simp] theorem State.updPower_pending (s : State) (f : Power → Power) : (s.updPower f).pending = s.pending := rfl
@[simp] theorem State.updPower_free (s : State) (f : Power → Power) : (s.updPower f).free = s.free := rfl
@[simp] theorem State.updPower_reply (s : State) (f : Power → Power) : (s.updPower f).reply = s.reply := rfl
@[simp] theorem State.updPower_stepNo (s : State) (f : Power → Power) : (s.updPower f).stepNo = s.stepNo := rfl
@[simp] theorem State.updPower_ident (s : State) (f : Power → Power) : (s.updPower f).ident = s.ident := rfl
@[simp] theorem State.updPower_presence (s : State) (f : Power → Power) : (s.updPower f).presence = s.presence := rfl
@[simp] theorem State.updPower_control (s : State) (f : Power → Power) : (s.updPower f).control = s.control := rfl
@[simp] theorem State.updPower_devLog (s : State) (f : Power → Power) : (s.updPower f).devLog = s.devLog := rfl
@[simp] theorem State.updPower_parts (s : State) (f : Power → Power) : (s.updPower f).parts = s.parts := rfl
@[simp] theorem State.updPower_domains (s : State) (f : Power → Power) : (s.updPower f).domains = s.domains := rfl
@[simp] theorem State.updPower_clusters (s : State) (f : Power → Power) : (s.updPower f).clusters = s.clusters := rfl
@[simp] theorem State.updPower_cam (s : State) (f : Power → Power) : (s.updPower f).cam = s.cam := rfl
@[simp] theorem State.updPower_paths (s : State) (f : Power → Power) : (s.updPower f).paths = s.paths := rfl
@[simp] theorem State.updPower_copyOrder (s : State) (f : Power → Power) : (s.updPower f).copyOrder = s.copyOrder := rfl
@[simp] theorem State.updPower_ergot (s : State) (f : Power → Power) : (s.updPower f).ergot = s.ergot := rfl
@[simp] theorem State.updPower_resweep (s : State) (f : Power → Power) : (s.updPower f).resweep = s.resweep := rfl
@[simp] theorem State.updPower_ports (s : State) (f : Power → Power) : (s.updPower f).ports = s.ports := rfl
@[simp] theorem State.updPower_flash (s : State) (f : Power → Power) : (s.updPower f).flash = s.flash := rfl
@[simp] theorem State.updPower_journals (s : State) (f : Power → Power) : (s.updPower f).journals = s.journals := rfl
@[simp] theorem State.updPower_sideband (s : State) (f : Power → Power) : (s.updPower f).sideband = s.sideband := rfl
@[simp] theorem State.updPower_cxl (s : State) (f : Power → Power) : (s.updPower f).cxl = s.cxl := rfl

@[simp] theorem State.updClu_pending (s : State) (c : Nat) (f : Cluster → Cluster) : (s.updClu c f).pending = s.pending := rfl
@[simp] theorem State.updClu_free (s : State) (c : Nat) (f : Cluster → Cluster) : (s.updClu c f).free = s.free := rfl
@[simp] theorem State.updClu_reply (s : State) (c : Nat) (f : Cluster → Cluster) : (s.updClu c f).reply = s.reply := rfl
@[simp] theorem State.updClu_stepNo (s : State) (c : Nat) (f : Cluster → Cluster) : (s.updClu c f).stepNo = s.stepNo := rfl
@[simp] theorem State.updClu_power (s : State) (c : Nat) (f : Cluster → Cluster) : (s.updClu c f).power = s.power := rfl
@[simp] theorem State.updClu_ident (s : State) (c : Nat) (f : Cluster → Cluster) : (s.updClu c f).ident = s.ident := rfl
@[simp] theorem State.updClu_presence (s : State) (c : Nat) (f : Cluster → Cluster) : (s.updClu c f).presence = s.presence := rfl
@[simp] theorem State.updClu_control (s : State) (c : Nat) (f : Cluster → Cluster) : (s.updClu c f).control = s.control := rfl
@[simp] theorem State.updClu_devLog (s : State) (c : Nat) (f : Cluster → Cluster) : (s.updClu c f).devLog = s.devLog := rfl
@[simp] theorem State.updClu_parts (s : State) (c : Nat) (f : Cluster → Cluster) : (s.updClu c f).parts = s.parts := rfl
@[simp] theorem State.updClu_domains (s : State) (c : Nat) (f : Cluster → Cluster) : (s.updClu c f).domains = s.domains := rfl
@[simp] theorem State.updClu_cam (s : State) (c : Nat) (f : Cluster → Cluster) : (s.updClu c f).cam = s.cam := rfl
@[simp] theorem State.updClu_paths (s : State) (c : Nat) (f : Cluster → Cluster) : (s.updClu c f).paths = s.paths := rfl
@[simp] theorem State.updClu_copyOrder (s : State) (c : Nat) (f : Cluster → Cluster) : (s.updClu c f).copyOrder = s.copyOrder := rfl
@[simp] theorem State.updClu_ergot (s : State) (c : Nat) (f : Cluster → Cluster) : (s.updClu c f).ergot = s.ergot := rfl
@[simp] theorem State.updClu_resweep (s : State) (c : Nat) (f : Cluster → Cluster) : (s.updClu c f).resweep = s.resweep := rfl
@[simp] theorem State.updClu_ports (s : State) (c : Nat) (f : Cluster → Cluster) : (s.updClu c f).ports = s.ports := rfl
@[simp] theorem State.updClu_flash (s : State) (c : Nat) (f : Cluster → Cluster) : (s.updClu c f).flash = s.flash := rfl
@[simp] theorem State.updClu_journals (s : State) (c : Nat) (f : Cluster → Cluster) : (s.updClu c f).journals = s.journals := rfl
@[simp] theorem State.updClu_sideband (s : State) (c : Nat) (f : Cluster → Cluster) : (s.updClu c f).sideband = s.sideband := rfl
@[simp] theorem State.updClu_cxl (s : State) (c : Nat) (f : Cluster → Cluster) : (s.updClu c f).cxl = s.cxl := rfl

@[simp] theorem State.updPort_pending (s : State) (n : Nat) (f : Port → Port) : (s.updPort n f).pending = s.pending := rfl
@[simp] theorem State.updPort_free (s : State) (n : Nat) (f : Port → Port) : (s.updPort n f).free = s.free := rfl
@[simp] theorem State.updPort_reply (s : State) (n : Nat) (f : Port → Port) : (s.updPort n f).reply = s.reply := rfl
@[simp] theorem State.updPort_stepNo (s : State) (n : Nat) (f : Port → Port) : (s.updPort n f).stepNo = s.stepNo := rfl
@[simp] theorem State.updPort_power (s : State) (n : Nat) (f : Port → Port) : (s.updPort n f).power = s.power := rfl
@[simp] theorem State.updPort_ident (s : State) (n : Nat) (f : Port → Port) : (s.updPort n f).ident = s.ident := rfl
@[simp] theorem State.updPort_presence (s : State) (n : Nat) (f : Port → Port) : (s.updPort n f).presence = s.presence := rfl
@[simp] theorem State.updPort_control (s : State) (n : Nat) (f : Port → Port) : (s.updPort n f).control = s.control := rfl
@[simp] theorem State.updPort_devLog (s : State) (n : Nat) (f : Port → Port) : (s.updPort n f).devLog = s.devLog := rfl
@[simp] theorem State.updPort_parts (s : State) (n : Nat) (f : Port → Port) : (s.updPort n f).parts = s.parts := rfl
@[simp] theorem State.updPort_domains (s : State) (n : Nat) (f : Port → Port) : (s.updPort n f).domains = s.domains := rfl
@[simp] theorem State.updPort_clusters (s : State) (n : Nat) (f : Port → Port) : (s.updPort n f).clusters = s.clusters := rfl
@[simp] theorem State.updPort_cam (s : State) (n : Nat) (f : Port → Port) : (s.updPort n f).cam = s.cam := rfl
@[simp] theorem State.updPort_paths (s : State) (n : Nat) (f : Port → Port) : (s.updPort n f).paths = s.paths := rfl
@[simp] theorem State.updPort_copyOrder (s : State) (n : Nat) (f : Port → Port) : (s.updPort n f).copyOrder = s.copyOrder := rfl
@[simp] theorem State.updPort_ergot (s : State) (n : Nat) (f : Port → Port) : (s.updPort n f).ergot = s.ergot := rfl
@[simp] theorem State.updPort_resweep (s : State) (n : Nat) (f : Port → Port) : (s.updPort n f).resweep = s.resweep := rfl
@[simp] theorem State.updPort_flash (s : State) (n : Nat) (f : Port → Port) : (s.updPort n f).flash = s.flash := rfl
@[simp] theorem State.updPort_journals (s : State) (n : Nat) (f : Port → Port) : (s.updPort n f).journals = s.journals := rfl
@[simp] theorem State.updPort_sideband (s : State) (n : Nat) (f : Port → Port) : (s.updPort n f).sideband = s.sideband := rfl
@[simp] theorem State.updPort_cxl (s : State) (n : Nat) (f : Port → Port) : (s.updPort n f).cxl = s.cxl := rfl


/-- The free counter alone changes. -/
@[simp] theorem State.fresh_fst (s : State) : s.fresh.1 = s.free := rfl
@[simp] theorem State.fresh_snd (s : State) : s.fresh.2 = { s with free := s.free + 1 } := rfl

/-! ### Partitions -/

theorem State.prt_updP (s : State) (p q : Part) (f : Partition → Partition) :
    (s.updP p f).prt q = if q = p then (s.prt q).map f else s.prt q := by
  simp only [State.updP, State.prt, Tab.find_upd]
  by_cases h : q = p
  · simp [h]
  · have : ¬ q.val = p.val := fun e => h (Fin.ext e)
    simp [h, this]
@[simp] theorem State.prt_updP_self (s : State) (p : Part) (f : Partition → Partition) :
    (s.updP p f).prt p = (s.prt p).map f := by simp [State.prt_updP]
theorem State.prt_updP_ne (s : State) {p q : Part} (f : Partition → Partition) (h : q ≠ p) : (s.updP p f).prt q = s.prt q := by
  simp [State.prt_updP, h]
theorem State.getP_updP {β : Type} (s : State) (p q : Part) (f : Partition → Partition) (d : β) (g : Partition → β) :
    (s.updP p f).getP q d g = if q = p then s.getP q d (fun t => g (f t)) else s.getP q d g := by
  simp only [State.getP, State.prt_updP]
  by_cases h : q = p
  · simp only [h, if_true]; cases s.prt p <;> rfl
  · simp [h]

/-- The keys of the partition table: no update of a partition changes which are configured. -/
@[simp] theorem State.updP_keys (s : State) (p : Part) (f : Partition → Partition) :
    (s.updP p f).parts.map (·.1) = s.parts.map (·.1) := by simp [State.updP]
theorem State.updP_wf {s : State} (p : Part) (f : Partition → Partition) (h : s.parts.wf) : (s.updP p f).parts.wf :=
  Tab.wf_upd _ _ h

/-! ### Objects of a partition -/

theorem State.prt_updStep (s : State) (x : StepRef) (p : Part) (f : Step → Step) :
    (s.updStep x f).prt p = if p = x.part then (s.prt p).map fun t => { t with steps := t.steps.upd x.num f } else s.prt p :=
  State.prt_updP _ _ _ _
theorem State.step?_updStep (s : State) (x y : StepRef) (f : Step → Step) :
    (s.updStep x f).step? y = if y = x then (s.step? y).map f else s.step? y := by
  obtain ⟨xp, xn⟩ := x
  obtain ⟨yp, yn⟩ := y
  simp only [State.step?, State.prt_updStep]
  by_cases hp : yp = xp
  · subst hp
    by_cases hn : yn = xn
    · subst hn
      cases s.prt yp <;> simp
    · cases s.prt yp <;> simp [hn, Tab.find_upd]
  · simp [hp]
@[simp] theorem State.step?_updStep_self (s : State) (x : StepRef) (f : Step → Step) :
    (s.updStep x f).step? x = (s.step? x).map f := by simp [State.step?_updStep]
theorem State.group?_updGroup (s : State) (p q : Part) (i j : Nat) (f : Group → Group) :
    (s.updGroup p i f).group? q j = if q = p ∧ j = i then (s.group? q j).map f else s.group? q j := by
  simp only [State.group?, State.updGroup, State.prt_updP]
  by_cases hp : q = p
  · subst hp
    by_cases hj : j = i
    · subst hj
      cases s.prt q <;> simp
    · cases s.prt q <;> simp [hj, Tab.find_upd]
  · simp [hp]
theorem State.seq?_updSeq (s : State) (p q : Part) (i j : Nat) (f : Sequence → Sequence) :
    (s.updSeq p i f).seq? q j = if q = p ∧ j = i then (s.seq? q j).map f else s.seq? q j := by
  simp only [State.seq?, State.updSeq, State.prt_updP]
  by_cases hp : q = p
  · subst hp
    by_cases hj : j = i
    · subst hj
      cases s.prt q <;> simp
    · cases s.prt q <;> simp [hj, Tab.find_upd]
  · simp [hp]
theorem State.sess?_updSess (s : State) (p q : Part) (i j : Nat) (f : Session → Session) :
    (s.updSess p i f).sess? q j = if q = p ∧ j = i then (s.sess? q j).map f else s.sess? q j := by
  simp only [State.sess?, State.updSess, State.prt_updP]
  by_cases hp : q = p
  · subst hp
    by_cases hj : j = i
    · subst hj
      cases s.prt q <;> simp
    · cases s.prt q <;> simp [hj, Tab.find_upd]
  · simp [hp]
theorem State.region?_updRegion (s : State) (p q : Part) (i j : Nat) (f : Region → Region) :
    (s.updRegion p i f).region? q j = if q = p ∧ j = i then (s.region? q j).map f else s.region? q j := by
  simp only [State.region?, State.updRegion, State.prt_updP]
  by_cases hp : q = p
  · subst hp
    by_cases hj : j = i
    · subst hj
      cases s.prt q <;> simp
    · cases s.prt q <;> simp [hj, Tab.find_upd]
  · simp [hp]

/-! ### Runs over a list -/

@[simp] theorem State.forEach_nil {β : Type} (s : State) (f : State → β → State) : s.forEach [] f = s := rfl
@[simp] theorem State.forEach_cons {β : Type} (s : State) (b : β) (l : List β) (f : State → β → State) :
    s.forEach (b :: l) f = (f s b).forEach l f := rfl
/-- What every turn keeps, the run keeps. -/
theorem State.forEach_keeps {β γ : Type} (g : State → γ) (l : List β) (f : State → β → State)
    (h : ∀ s b, g (f s b) = g s) (s : State) : g (s.forEach l f) = g s := by
  induction l generalizing s with
  | nil => rfl
  | cons b l ih => rw [State.forEach_cons, ih, h]
/-- A property that every turn keeps holds after the run. -/
theorem State.forEach_inv {β : Type} (P : State → Prop) (l : List β) (f : State → β → State)
    (h : ∀ s b, P s → P (f s b)) (s : State) (hs : P s) : P (s.forEach l f) := by
  induction l generalizing s with
  | nil => exact hs
  | cons b l ih => exact ih _ (h _ _ hs)

end Sys2Proof.Machine
end

