-- ==== Sys2Proof/Laws/Steps.lean ====
section
/-! SUPPORT. What the issue of an instruction does to a step that runs, and what a change of the step's own record does to
the device. -/

namespace Sys2Proof.Machine

/-- A step that runs, with a defined word at its address, executes the instruction's body on its registers. -/
theorem State.issue_running {s : State} {x : StepRef} {t : Partition} {k : Step} {g : Program} (d : Deps) (r : Bool)
    (body : Iss → State × IOut) (hp : s.prt x.part = some t) (hk : t.steps.find x.num = some k)
    (hg : t.programs.find k.prog = some g) (hr : k.st = .running) (hw : g.wordOk x k.ctx.pc = true) :
    s.issue x d r body = (body ⟨s, x.part, t, k, k.ctx, false, g⟩).1.retire x d r (8 * g.code.length)
      (body ⟨s, x.part, t, k, k.ctx, false, g⟩).2 := by
  unfold State.issue
  rw [hp]; dsimp only
  rw [hk]; dsimp only
  rw [hg]; dsimp only
  rw [hr]; dsimp only
  rw [if_pos hw]

/-- A partition that is not configured, or a step that is not in flight, is not touched. -/
theorem State.issue_of_none {s : State} {x : StepRef} (d : Deps) (r : Bool) (body : Iss → State × IOut)
    (h : s.step? x = none) : s.issue x d r body = s := by
  unfold State.issue
  simp only [State.step?] at h
  cases hp : s.prt x.part with
  | none => rfl
  | some t =>
    rw [hp] at h
    simp only [Option.bind_some] at h
    dsimp only
    rw [h]

@[simp] theorem State.retire_done (s : State) (x : StepRef) (d : Deps) (r : Bool) (n : Nat) (c : Ctx) :
    s.retire x d r n (.done c) = s.updStep x fun k => { k with ctx := { c with pc := c.pc + 8 } } := rfl
@[simp] theorem State.retire_fault (s : State) (x : StepRef) (d : Deps) (r : Bool) (n : Nat) (st : Status) (ev : Bool) :
    s.retire x d r n (.fault st ev) = s.squash x.part x.num st ev := rfl
@[simp] theorem State.retire_squash (s : State) (x : StepRef) (d : Deps) (r : Bool) (n : Nat) (st : Status) :
    s.retire x d r n (.squash st) = s.squash x.part x.num st := rfl
@[simp] theorem State.retire_stop (s : State) (x : StepRef) (d : Deps) (r : Bool) (n : Nat) : s.retire x d r n .stop = s := rfl
@[simp] theorem State.retire_status_trap (s : State) (x : StepRef) (d : Deps) (n : Nat) (st : Status) (c : Ctx) :
    s.retire x d false n (.status st c) = s.squash x.part x.num st := rfl
@[simp] theorem State.retire_status_rec (s : State) (x : StepRef) (d : Deps) (n : Nat) (st : Status) (c : Ctx) :
    s.retire x d true n (.status st c) = s.updStep x fun k => { k with ctx := c.recorded st } := rfl
theorem State.retire_jump_in (s : State) (x : StepRef) (d : Deps) (r : Bool) (n : Nat) (c : Ctx) (a : Int)
    (h : 0 ≤ a ∧ a < n ∧ a % 8 = 0) :
    s.retire x d r n (.jump c a) = s.updStep x fun k => { k with ctx := { c with pc := a.toNat } } := by
  unfold State.retire; exact if_pos h
theorem State.retire_jump_out (s : State) (x : StepRef) (d : Deps) (r : Bool) (n : Nat) (c : Ctx) (a : Int)
    (h : ¬ (0 ≤ a ∧ a < n ∧ a % 8 = 0)) : s.retire x d r n (.jump c a) = s.squash x.part x.num .accessViolation true := by
  unfold State.retire; exact if_neg h

/-- Writing a general register leaves the rest of a context. -/
@[simp] theorem Ctx.wg_f (c : Ctx) (r : GReg) (v : Word) : (c.wg r v).f = c.f := by unfold Ctx.wg; split <;> rfl
@[simp] theorem Ctx.wg_h (c : Ctx) (r : GReg) (v : Word) : (c.wg r v).h = c.h := by unfold Ctx.wg; split <;> rfl
@[simp] theorem Ctx.wg_latch (c : Ctx) (r : GReg) (v : Word) : (c.wg r v).latch = c.latch := by unfold Ctx.wg; split <;> rfl
@[simp] theorem Ctx.wg_pc (c : Ctx) (r : GReg) (v : Word) : (c.wg r v).pc = c.pc := by unfold Ctx.wg; split <;> rfl
/-- Writing a flag leaves the rest of a context. -/
@[simp] theorem Ctx.wf_g (c : Ctx) (r : FReg) (v : Bool) : (c.wf r v).g = c.g := by unfold Ctx.wf; split <;> rfl
@[simp] theorem Ctx.wf_h (c : Ctx) (r : FReg) (v : Bool) : (c.wf r v).h = c.h := by unfold Ctx.wf; split <;> rfl
@[simp] theorem Ctx.wf_latch (c : Ctx) (r : FReg) (v : Bool) : (c.wf r v).latch = c.latch := by unfold Ctx.wf; split <;> rfl
@[simp] theorem Ctx.wf_pc (c : Ctx) (r : FReg) (v : Bool) : (c.wf r v).pc = c.pc := by unfold Ctx.wf; split <;> rfl
/-- Writing a handle register leaves the rest of a context. -/
@[simp] theorem Ctx.wh_g (c : Ctx) (r : HReg) (v : Handle) : (c.wh r v).g = c.g := rfl
@[simp] theorem Ctx.wh_f (c : Ctx) (r : HReg) (v : Handle) : (c.wh r v).f = c.f := rfl
@[simp] theorem Ctx.wh_latch (c : Ctx) (r : HReg) (v : Handle) : (c.wh r v).latch = c.latch := rfl
@[simp] theorem Ctx.wh_pc (c : Ctx) (r : HReg) (v : Handle) : (c.wh r v).pc = c.pc := rfl
/-- A position of a list that was replaced. -/
theorem setAt_getD {α : Type} (n : Nat) (d : α) (l : List α) (i j : Nat) (v e : α) (h : j < n) :
    (setAt n d l i v).getD j e = if j = i then v else l.getD j d := by
  simp [setAt, List.getD_eq_getElem?_getD, h]

/-- Changing the step's own record twice is one change. -/
theorem State.updStep_updStep (s : State) (x : StepRef) (f h : Step → Step) :
    (s.updStep x f).updStep x h = s.updStep x fun k => h (f k) := by
  have tab : ∀ (t : Tab Step), (Tab.upd t x.num f).upd x.num h = Tab.upd t x.num fun k => h (f k) := by
    intro t
    induction t with
    | nil => rfl
    | cons e t ih =>
      obtain ⟨k, w⟩ := e
      by_cases hk : k = x.num
      · simp [Tab.upd, hk]
      · simp [Tab.upd, hk, ih]
  have ptab : ∀ (t : Tab Partition) (f h : Partition → Partition), (Tab.upd t x.part.val f).upd x.part.val h
      = Tab.upd t x.part.val fun k => h (f k) := by
    intro t f h
    induction t with
    | nil => rfl
    | cons e t ih =>
      obtain ⟨k, w⟩ := e
      by_cases hk : k = x.part.val
      · simp [Tab.upd, hk]
      · simp [Tab.upd, hk, ih]
  simp only [State.updStep, State.updP, ptab, tab]

end Sys2Proof.Machine
end

