-- ==== Sys2Proof/Machine/Indicators.lean ====
section
/-! DEFINITION. The status indicators of the board and the pins whose level follows the device's state (spec 19 R417, R420, R421, R428,
Tables 19-2, 19-3; 14 R339; 18 R412). They show what stands in `State`; none of them holds anything of its own. -/

namespace Sys2Proof.Machine

/-- The four status indicators, as a row of Table 19-3 names them. -/
structure Leds where
  pwr : Option Lamp
  ready : Option Lamp
  pres : Option Lamp
  fault : Option Lamp
  deriving DecidableEq, Repr

/-- The rows of Table 19-3 in order: whether the device matches one, and what it names. -/
def State.ledRows (s : State) : List (Bool × Leds) :=
  let st := s.power.st
  [ (st == .off, ⟨some .off, some .off, some .off, some .off⟩)
  , (st == .halted, ⟨some .on, some .off, some .off, some .on⟩)
  , (s.ident.waiting, ⟨some .on, some .off, none, some (.blink 2)⟩)
  , (s.presence.broken, ⟨none, none, some (.blink 2), none⟩)
  , (s.presence.window, ⟨none, none, some .on, none⟩)
  , (st == .standby || st == .frozen, ⟨some .on, some .off, some .off, some .off⟩)
  , (st == .initialising, ⟨some .on, some (.blink 4), some .off, some .off⟩)
  , (st == .dormant, ⟨some (.blink 1), some .off, some .off, some .off⟩)
  , (st == .serving, ⟨some .on, some .on, some .off, some .off⟩) ]
/-- An indicator takes its value from the first row that the device matches and that names it (R421). -/
def State.led (s : State) (which : Leds → Option Lamp) : Lamp :=
  (s.ledRows.findSome? fun r => if r.1 then which r.2 else none).getD .off
/-- LED_PWR, LED_READY, LED_PRES and LED_FAULT. -/
def State.ledPwr (s : State) : Lamp := s.led Leds.pwr
def State.ledReady (s : State) : Lamp := s.led Leds.ready
def State.ledPres (s : State) : Lamp := s.led Leds.pres
def State.ledFault (s : State) : Lamp := s.led Leds.fault

/-- Does the controller drive its pins to the safe states of Table 19-2 (R417)? A power-fail or overvoltage trip leaves the device in
STANDBY. -/
def State.pinsSafe (s : State) : Bool :=
  s.power.perst || s.power.st == .standby || s.power.st == .frozen || s.power.st == .halted
/-- SEAL_OUT is driven in every state but OFF. -/
def State.sealOut (s : State) : Bool := s.power.st != .off
/-- Does AUXCLK output k run (14 R339)? Otherwise both legs are low. -/
def State.auxRuns (s : State) (k : Fin 4) : Bool :=
  (s.power.aux.getD k.val ⟨true, false, 15, 0⟩).en && s.power.refclk && (s.pll (38 + k.val)).qualified
    && !(s.power.st == .off || s.power.st == .frozen || s.power.st == .halted)
/-- THERMTRIP_N is asserted (R428). -/
def State.thermtrip (s : State) : Bool := s.power.thermTrip
/-- FCn_PWREN of slot n is high (R423). -/
def State.fcPwren (s : State) (n : Fin 8) : Bool := (s.slot n).pwren
/-- FCn_RESET_N of slot n is released (R423). -/
def State.fcReleased (s : State) (n : Fin 8) : Bool := (s.slot n).released
/-- The sideband's in-band interrupt: the device event log holds an unread record (18 R412). -/
def State.inBandIrq (s : State) : Bool :=
  s.devLog.fullRing || s.devLog.tail != s.devLog.head || !s.devLog.held.isEmpty

end Sys2Proof.Machine
end

