-- ==== Sys2Proof/Tests/Slice0.lean ====
section
/-! SUPPORT. Tests: what WellFormed refuses, words of the Criet reference written out from its encoding tables, small cases
of the manual's rules, and for each statement a state and operands that meet its hypotheses. -/

-- one theorem after the other: many kernel evaluations side by side take a stack each
set_option Elab.async false

namespace Sys2Proof.Test
open Sys2Proof.Machine Sys2Proof.Cert

/-! ### Small objects -/

def lay : PartLayout :=
  { num := 0, grade := 0, clusters := 1, shareT0 := 1024, shareT1b := 64, shareT1h := 64, shareT2 := 64, warmTier := 1
    sessionQuota := 4, compat := false, vppb := 1, binding := ⟨1, 5, 0, [1], [], [], 0xFF⟩ }
/-- A partition that is ACTIVE and holds nothing. -/
def part0 : Partition := { Partition.fresh lay 1 ⟨[], []⟩ with st := .active }
def power0 : Power := { Power.reset with st := .serving, configReady := true, serviceReady := true, recovery := none }
/-- A SERVING device with one partition. -/
def dev (t : Partition) : State := { State.reset with power := power0, parts := [(0, t)] }
def ctx0 : Ctx := ⟨List.replicate 32 0, List.replicate 16 0, List.replicate 8 false, 0, 0⟩
/-- A program of two NOPs and eight bytes of data. -/
def prog0 : Program :=
  { h := mkHandle 7 0 1 1, st := .placed, code := [0, 0], data := [1, 2, 3, 4, 5, 6, 7, 8], frameWords := 4, entries := [0], clusters := 1 }
/-- A control step of a RUN that has just started. -/
def step0 : Step :=
  { num := 7, q := 1, cid := 5, kind := 0, idx := 0, prog := 1, clu := 0, frame := 0, sess := none, seq := none, batch := 0, lane := 0
    clock0 := 0, cycles := 0, h0 := 0, ctx := ctx0, words := [], scratch := [], epoch := 1, st := .running, ra := none, raDone := []
    log := [], msgs := [], pins := [], xpins := [], opened := [], moves := [], descs := [], emitted := [], chunks := [], merged := []
    outputs := [], fails := [], appended := none, nNew := 0, drafts := [], appLayers := [], sampled := none, posts := 0, events := 0
    deferred := .none, deferredUsed := false, commitArg := none, notes := [], hgSent := false, recDue := false, recJseq := none
    shadow := none, shadowed := false, arbSweep := false, replayed := [], final := none, stale := false }
def x0 : StepRef := ⟨0, 7⟩
/-- The partition with that step and program. -/
def own (t : Partition) (k : Step) : Partition := { t with steps := [(7, k)], programs := [(1, prog0)] }
def rig (t : Partition) (k : Step) : State := dev (own t k)
/-- The handle of a slot in its first generation. -/
def hd (kind n : Nat) : Handle := mkHandle kind 0 1 n
/-- A step with registers set. -/
def withG (k : Step) (l : List (GReg × Word)) : Step := { k with ctx := l.foldl (fun c e => c.wg e.1 e.2) k.ctx }
def withH (k : Step) (l : List (HReg × Handle)) : Step := { k with ctx := l.foldl (fun c e => c.wh e.1 e.2) k.ctx }
/-- Bytes at a place of the scratch window. -/
def scr (a : Nat) (bs : List Byte) : Tab Byte := (List.range bs.length).map fun i => (a + i, bs.getD i 0)

theorem run (t : Partition) (k : Step) (h1 : k.prog = 1) (h2 : k.st = .running) (h3 : k.ctx.pc = 0) :
    Running (rig t k) x0 (own t k) k prog0 := by
  refine ⟨rfl, rfl, ?_, h2, ?_⟩
  · rw [h1]; rfl
  · rw [h3]; decide +kernel

/-- A model of one KV head and two layers, in slot 3. -/
def mod0 : ModelDesc :=
  { modelId := 0x103, layers := 2, kvHeads := 1, qPerKv := 1, headDim := 64, kvFmt := 1, mx := false, pfMath := 0, pageCode := 0
    hgSize := 1, hgRank := 0, headBase := 0, kvTotal := 1, scale := 0, vocab := 16, hgTimeout := 0, hgQp := List.replicate 8 0 }
def ten0 : Tenant :=
  { capacity := 100, rate := 0, level := 100, lastRefill := 0, remainder := 0, priority := 0, enabled := true, hold := false
    nextCapacity := 0, nextRate := 0, staged := false }
/-- A session of tenant 2 in no domain, and its sequence: one block committed. -/
def sess0 : Session :=
  { h := hd 1 0, tenant := 2, domain := 0, model := 0x103, st := .opened, parkReason := 0, ttl := 0, durClass := 0, durN := 0
    committedTokens := 64, preemptible := false, priority := 0, seqs := [hd 2 0, 0, 0, 0], history := hd 4 0, sampler := hd 4 1
    scratch := hd 4 2, parkedAt := 0, resumeHint := 0, pflags := 0, pendPark := none, pendClose := none, preRevived := false }
def seq0 : Sequence :=
  { h := hd 2 0, sess := hd 1 0, committed := 64, prov := 0, table := [(0, hd 3 0)], keys := [(0, 9)], rc := 0, st := .idle, hgSeq := 0
    openStep := none, freeAtEnd := false, readySince := 0, held := false, coarse := [], summaries := [] }
/-- A FULL page group homed in T0. -/
def grp0 : Group :=
  { h := hd 3 0, st := .full, quad := 0, tier := .t0, backing := none, move := .idle, copyOut := false, ppin := false, dest := .t0
    cancelFree := false, refcount := 1, pins := 0, touch := 0, model := 0x103, domain := 0, filled := 64, rows := 64, pages := 4
    block := 0, frame := 0, run := 16, loc := 0, backLoc := 0, recs := [], openedBy := none, moveTo := none, quad0 := 0
    forAlloc := 0, reviving := false, data := [] }
/-- A region of 8 KiB, of class 1, in UPLOADING. -/
def reg0 : Region :=
  { h := hd 4 0, size := 8192, cls := 1, use := 0, resend := false, home := 2, domain := 0, dpa := 0, st := .uploading, version := 0
    digest := 0, name := 0, published := false, rkey := 0, registered := false, chunks := [], pins := [], spots := [], poison := []
    discarded := [], binding := none, newer := [], data := [], image := [], synced := false, warned := false, touched := [] }
def ent0 : Entry :=
  { opcode := 2, flags := 0, cid := 5, tenant := 2, entry := 0, hostTime := 0, handle0 := 0, handle1 := 0, deadline := 0, arg0 := 0
    arg1 := 0, arg2 := 0 }
def live0 : Live :=
  { ent := ent0, q := 1, order := 3, sqHead := 1, started := false, posted1 := false, req := none, step := none, deferred := .none
    ended := false, abortStatus := none }
def queue0 : Queue := { Queue.fresh with st := .enabled, depthLog := 4, reserved := 1 }
def req0 : Req :=
  { sess := 0, seq := 0, spb := [], seed := 0, rows := 0, counts := [], emitted := [], released := 0, satRaised := false
    promptLeft := 0, gen := true, matching := false, inList := false, index := 0, cancelled := none, mute := false, freeSeq := false
    resumed := false }
def qp0 : Qp :=
  { queue := 1, st := .ready, passive := false, port := 0, tc := 0, tenant := 2, peerAddr := 2, peerQpn := 9, payload := 4096
    recvRegion := 0, sndNxt := 1, sndUna := 1, rcvEpsn := 1, rcvLog := [], msgNext := 0, msgOut := 0, msgs := [], ringAt := 0
    ringUsed := 0, inbox := [], notes := [], held := [], stalledAt := none, unacked := 0, eceDue := false, work := [], nextId := 1
    out := [], cwnd := 4096, inflight := 0, ss := true, srtt := 0, rttvar := 0, rto := 50000, timeouts := 0, pausedUntil := none
    cutEcn := none, cutLoss := none, tries := 0, retryAt := 0, why := .ok, waiter := none, violAt := [], ctl := QpCtl.reset }
/-- A partition with one of each of these. -/
def full0 : Partition :=
  { part0 with
    tenants := [(2, ten0)], models := [(3, ⟨1, some mod0⟩)], sessions := [(0, sess0)], sequences := [(0, seq0)], groups := [(0, grp0)]
    regions := [(0, reg0), (1, { reg0 with h := hd 4 1 }), (2, { reg0 with h := hd 4 2 })], qps := [(1, qp0)], live := [live0]
    queues := [(0, { queue0 with priv := true }), (1, queue0)], nextOrder := 4 }
/-- The same step in a privileged queue. -/
def stepP : Step := { step0 with q := 0 }
def full1 : Partition := { full0 with live := [{ live0 with q := 0 }] }

end Sys2Proof.Test

namespace Sys2Proof.Test
open Sys2Proof.Machine Sys2Proof.Cert

/-! ### A state and operands that meet the hypotheses of each statement -/

theorem test_witness_ScalarArithmeticResults : ∃ s x t k g, Running s x t k g := ⟨_, _, _, _, _, run part0 step0 rfl rfl rfl⟩
theorem test_witness_ScalarLogicAndShifts : ∃ s x t k g, Running s x t k g := ⟨_, _, _, _, _, run full0 step0 rfl rfl rfl⟩
theorem test_witness_ComparisonResults : ∃ s x t k g, Running s x t k g := ⟨_, _, _, _, _, run full0 stepP rfl rfl rfl⟩
theorem test_witness_FlagLogicAndLatch : ∃ s x t k g, Running s x t k g ∧ k.ctx.latch = 0x20 :=
  ⟨_, _, _, { step0 with ctx := { ctx0 with latch := 0x20 } }, _, run part0 _ rfl rfl rfl, rfl⟩
theorem test_witness_ImmediateResults :
    Running (rig part0 step0) x0 (own part0 step0) step0 prog0 ∧ (63 : BitVec 32).toNat < 64 ∧ 64 ≤ (64 : BitVec 32).toNat := by
  decide +kernel
theorem test_witness_GoingOnChangesOneContext :
    (rig part0 step0).step? x0 = some step0 ∧ ∃ u, goesOn (rig part0 step0) x0 step0 ctx0 = .next u := ⟨by decide +kernel, _, rfl⟩
def kB : Step := withG step0 [(1, 8), (2, 16), (3, 4)]
/-- Targets 0 and 8 lie in the code, 16 and −8 outside; f0 is true and f1 false; g1, g2, g3 are addresses for JR. -/
theorem test_witness_BranchTargets :
    Running (rig part0 kB) x0 (own part0 kB) kB prog0
    ∧ (0 ≤ (kB.ctx.pc : Int) + 8 * (0 : BitVec 40).toInt ∧ (kB.ctx.pc : Int) + 8 * (1 : BitVec 40).toInt < 8 * prog0.code.length)
    ∧ kB.ctx.rf 0 = true ∧ kB.ctx.rf 1 = false ∧ kB.ctx.rg 0 = 0 ∧ kB.ctx.rg 1 ≠ 0
    ∧ ((kB.ctx.pc : Int) + 8 * (-1 : BitVec 40).toInt < 0 ∧ (8 * prog0.code.length : Int) ≤ kB.ctx.pc + 8 * (2 : BitVec 40).toInt)
    ∧ ((kB.ctx.rg 1).toNat < 8 * prog0.code.length ∧ (kB.ctx.rg 1).toNat % 8 = 0)
    ∧ 8 * prog0.code.length ≤ (kB.ctx.rg 2).toNat ∧ (kB.ctx.rg 3).toNat % 8 ≠ 0 := by decide +kernel
def kL : Step := withG step0 [(1, 0x5FF8), (2, 0x10000), (3, 0x6000)]
/-- The last 8 bytes of the scratch window, the data section, and addresses in no row or not aligned. -/
theorem test_witness_LoadResults :
    Running (rig part0 kL) x0 (own part0 kL) kL prog0
    ∧ ((kL.ctx.rg 1 + (0 : BitVec 32).signExtend 64).toNat % 8 = 0 ∧ (kL.ctx.rg 1 + (0 : BitVec 32).signExtend 64).toNat + 8 ≤ 0x6000)
    ∧ (0x10000 ≤ (kL.ctx.rg 2).toNat ∧ (kL.ctx.rg 2).toNat + 8 ≤ 0x10000 + prog0.data.length)
    ∧ (kL.ctx.rg 1 + (7 : BitVec 32).signExtend 64).toNat + 1 ≤ 0x6000
    ∧ ¬ (kL.ctx.rg 1 + (1 : BitVec 32).signExtend 64).toNat % 2 = 0
    ∧ ¬ ((kL.ctx.rg 3).toNat + 1 ≤ 0x6000 ∨ 0x10000 ≤ (kL.ctx.rg 3).toNat)
    ∧ (3 : BitVec 32).toNat < prog0.frameWords ∧ prog0.frameWords ≤ (4 : BitVec 32).toNat := by decide +kernel
theorem test_witness_StoreResults :
    Running (rig part0 kL) x0 (own part0 kL) kL prog0
    ∧ ((kL.ctx.rg 1 + (0 : BitVec 32).signExtend 64).toNat % 8 = 0 ∧ (kL.ctx.rg 1 + (0 : BitVec 32).signExtend 64).toNat + 8 ≤ 0x6000)
    ∧ (kL.ctx.rg 1 + (7 : BitVec 32).signExtend 64).toNat + 1 ≤ 0x6000 ∧ ¬ (kL.ctx.rg 3).toNat + 1 ≤ 0x6000
    ∧ ((3 : BitVec 32).toNat < prog0.frameWords ∧ (3 : BitVec 32).toNat < 16) ∧ prog0.frameWords ≤ (4 : BitVec 32).toNat := by
  decide +kernel
def kH : Step := { withH (withG step0 [(1, 0x1000000000000), (2, 0x100)]) [(1, hd 6 0)] with scratch := scr 0x100 (toLe (hd 6 0).toNat 8) }
/-- h1 and the made handle name queue 0; h2 is null; scratch holds the handle; kind 0 makes none. -/
theorem test_witness_HandleResults :
    Running (rig full0 kH) x0 (own full0 kH) kH prog0 ∧ (15 : BitVec 32).toNat < 16
    ∧ Passes (own full0 kH) x0 kH 0 (6#4 ++ 0#4 ++ (kH.ctx.rg 1).extractLsb' 0 56) ∧ Passes (own full0 kH) x0 kH 6 (kH.ctx.rh 1)
    ∧ ¬ Passes (own full0 kH) x0 kH 6 (kH.ctx.rh 2) ∧ kH.ctx.rh 1 ≠ 0
    ∧ (HoldsBytes kH prog0 0x100 8 (hd 6 0) ∧ (kH.ctx.rg 2 + (0 : BitVec 32).signExtend 64).toNat = 0x100 ∧ 0x100 + 8 ≤ 0x6000)
    ∧ (own full0 kH).checkHandle 0 (some 7) 0 (0#4 ++ 0#4 ++ (kH.ctx.rg 1).extractLsb' 0 56) = some .accessViolation := by
  decide +kernel

end Sys2Proof.Test

namespace Sys2Proof.Test
open Sys2Proof.Machine Sys2Proof.Cert

/-- h1 names the sequence, h2 its page group, h3 its session, h4 and h5 regions; g2 is 1. -/
def kP : Step := withH (withG step0 [(2, 1)]) [(1, hd 2 0), (2, hd 3 0), (3, hd 1 0), (4, hd 4 0), (5, hd 4 1)]
theorem test_witness_PageTableReads :
    let t := own full0 kP
    let kS : Step := { kP with log := [.setLen 0 32 1] }
    Running (rig full0 kP) x0 t kP prog0 ∧ Passes t x0 kP kSequence (kP.ctx.rh 1) ∧ Fresh kP [kP.ctx.rh 1]
    ∧ (kP.log = [] ∧ t.sequences.find (hIndex (kP.ctx.rh 1)) = some seq0)
    ∧ (Running (rig full0 kS) x0 (own full0 kS) kS prog0 ∧ Passes (own full0 kS) x0 kS kSequence (kS.ctx.rh 1)
      ∧ kS.log = [] ++ [.setLen (hIndex (kS.ctx.rh 1)) 32 1])
    ∧ t.blocksOf kP (hIndex (kP.ctx.rh 1)) ≤ (kP.ctx.rg 2).toNat
    ∧ ((kP.ctx.rg 1).toNat < t.blocksOf kP (hIndex (kP.ctx.rh 1)) ∧ t.entryOf kP (hIndex (kP.ctx.rh 1)) 0 = some (hd 3 0))
    ∧ (Passes t x0 kP kGroup (kP.ctx.rh 2) ∧ t.groups.find (hIndex (kP.ctx.rh 2)) = some grp0) := by decide +kernel
/-- Block 0 is walked from 0 for one block; it may stand in T0, or be dropped. -/
theorem test_witness_WalkResults :
    let t := own full0 kP
    let f : Partition := { full0 with sequences := [(0, { seq0 with table := [(0, 0)] })] }
    (Running (rig full0 kP) x0 t kP prog0 ∧ kP.num = x0.num ∧ Passes t x0 kP kSequence (kP.ctx.rh 1)
      ∧ Fresh kP [kP.ctx.rh 1, kP.ctx.rg 1, kP.ctx.rg 2]
      ∧ min ((kP.ctx.rg 1).toNat + (kP.ctx.rg 2).toNat) (t.blocksOf kP (hIndex (kP.ctx.rh 1))) = 1)
    ∧ HomeBlock t kP (hIndex (kP.ctx.rh 1)) (kP.ctx.rg 1).toNat (hd 3 0)
    ∧ (Running (rig f kP) x0 (own f kP) kP prog0 ∧ Passes (own f kP) x0 kP kSequence (kP.ctx.rh 1)
      ∧ (kP.ctx.rg 1).toNat < min ((kP.ctx.rg 1).toNat + (kP.ctx.rg 2).toNat) ((own f kP).blocksOf kP (hIndex (kP.ctx.rh 1)))
      ∧ (own f kP).entryOf kP (hIndex (kP.ctx.rh 1)) (kP.ctx.rg 1).toNat = some 0)
    ∧ (Passes t x0 kP kGroup (kP.ctx.rh 2) ∧ Fresh kP [kP.ctx.rh 2] ∧ t.groups.find (hIndex (kP.ctx.rh 2)) = some grp0
      ∧ grp0.tier = .t0 ∧ grp0.move = .idle) :=
  ⟨by decide +kernel, ⟨by decide +kernel, by decide +kernel, grp0, by decide +kernel, rfl, rfl⟩, by decide +kernel, by decide +kernel⟩
/-- Layer 0, in mode 3, which emits what the walk finds; mode 4 is none. -/
theorem test_witness_WalkemitResults :
    let t := own full0 kP
    let i := iss (rig full0 kP) x0 t kP prog0
    (Running (rig full0 kP) x0 t kP prog0 ∧ kP.num = x0.num ∧ Passes t x0 kP kSequence (kP.ctx.rh 1)
      ∧ Fresh kP [kP.ctx.rh 1, kP.ctx.rg 1] ∧ t.seqOf kP (hIndex (kP.ctx.rh 1)) = some seq0
      ∧ t.sessOf kP (hIndex seq0.sess) = some sess0 ∧ t.model? sess0.model = some mod0 ∧ (kP.ctx.rg 1).toNat < mod0.layers
      ∧ (3 : Fin 8).val < 4 ∧ t.blocksOf kP (hIndex (kP.ctx.rh 1)) = 1 ∧ 4 ≤ (4 : Fin 8).val)
    ∧ (∃ ds, i.emission mod0 (hIndex (kP.ctx.rh 1)) (kP.ctx.rg 1).toNat 3 (kP.ctx.rg 0) = .ok ds)
    ∧ HomeBlock t kP (hIndex (kP.ctx.rh 1)) 0 (hd 3 0) :=
  ⟨by decide +kernel, ⟨_, rfl⟩, by decide +kernel, by decide +kernel, grp0, by decide +kernel, rfl, rfl⟩
/-- A STORE record of one new position, 1, of layer 0: head, K row, V row. -/
def msgS : BufMsg :=
  { mtype := mtStore, layer := 0, lane := 0, xfmt := 0, ofmt := 0, digest := false
    body := [0, 1] ++ List.replicate 6 0 ++ [1] ++ List.replicate 263 0, qp := none }
/-- A decode step of the sequence, whose message stands in slot 0 and whose block 0 it has opened. -/
def kA : Step := { withG kP [(1, mkToken mtStore 0 0 0)] with seq := some 0, kind := 2, msgs := [(0, msgS)] }
def fullA : Partition :=
  { full0 with
    sequences := [(0, { seq0 with committed := 1 }), (1, { seq0 with h := hd 2 1, committed := 0, table := [], keys := [] })]
    groups := [(0, { grp0 with st := .opened, openedBy := some 7, filled := 1, rows := 1 })] }
def kF : Step := withH step0 [(1, hd 2 0), (2, hd 2 1)]
theorem test_witness_AppendAndFork :
    let t := own fullA kA
    let f := own fullA kF
    (Running (rig fullA kA) x0 t kA prog0 ∧ kA.num = x0.num ∧ Passes t x0 kA kSequence (kA.ctx.rh 1)
      ∧ t.sequences.find 0 = some { seq0 with committed := 1 } ∧ t.sessions.find (hIndex seq0.sess) = some sess0
      ∧ t.model? sess0.model = some mod0 ∧ 0 < mod0.kvHeads ∧ kA.tokenMsg (kA.ctx.rg 1) = some msgS ∧ kA.seq = some 0
      ∧ kA.appended = none ∧ 1 % 64 + 1 ≤ 64 ∧ 1 + 1 ≤ t.limit { seq0 with committed := 1 }
      ∧ t.entryOf kA 0 (1 / 64) = some (hd 3 0) ∧ hd 3 0 ≠ 0
      ∧ (t.groups.find (hIndex (hd 3 0))).map (·.openedBy) = some (some x0.num) ∧ (rig fullA kA).resident 0 (hIndex (hd 3 0)) = true)
    ∧ (∃ pl, t.newRows kA mod0 msgS = some (1, 1, pl, 1))
    ∧ (Running (rig fullA kF) x0 f kF prog0 ∧ Passes f x0 kF kSequence (kF.ctx.rh 1) ∧ Passes f x0 kF kSequence (kF.ctx.rh 2)
      ∧ Fresh kF [kF.ctx.rh 2, kF.ctx.rh 1] ∧ kF.log = [] ∧ f.sequences.find 0 = some { seq0 with committed := 1 }
      ∧ f.sequences.find (hIndex (kF.ctx.rh 2)) = some { seq0 with h := hd 2 1, committed := 0, table := [], keys := [] }
      ∧ seq0.openStep = none ∧ f.entryOf kF 0 0 = some (hd 3 0) ∧ f.refFull (hd 3 0) = false) :=
  ⟨by decide +kernel, ⟨_, rfl⟩, by decide +kernel⟩
/-- Partition 0's domain number 1, ACTIVE. -/
def dom0 : Domain :=
  { key := 7, members := 1, cross := false, equalTime := false, etMax := 0, st := .active, reserved := none, excluded := none }
def devD (t : Partition) : State := { dev t with domains := [(32769, dom0)] }
/-- The first step of a request on an empty sequence. -/
def fullX (dom : BitVec 16) (len : Nat) : Partition :=
  { full0 with sessions := [(0, { sess0 with domain := dom })], sequences := [(0, { seq0 with committed := len, table := [] })]
               live := [{ live0 with req := some req0, started := true }] }
def kX : Step := { withH (withG step0 [(1, 64), (2, 0x100), (3, 0x108)]) [(1, hd 2 0), (2, hd 1 0)] with scratch := scr 0x100 (toLe 77 16) }
def domX : BitVec 16 := 0x8001
/-- A LIVE node with key 77, number 4, in its index chain. -/
def nodX : Node :=
  { h := hd 5 4, key := 77, parent := 0, group := hd 3 0, domain := domX, model := 0x103, block := 0, imported := false
    camRow := none, hits := 0, lost := false }
def fullN : Partition := { fullX domX 0 with nodes := [(4, nodX)], index := [(0, ⟨[⟨[4], .t0, 0⟩], false⟩)] }
theorem test_witness_PrefixResults :
    let t := own (fullX 0 0) kX
    let d := own (fullX domX 0) kX
    let s := devD d
    let n := own fullN kX
    let v := devD n
    let y := withG kX [(1, 0)]
    let f := own (fullX domX 64) y
    (Running (rig (fullX 0 0) kX) x0 t kX prog0 ∧ Passes t x0 kX kSequence (kX.ctx.rh 1) ∧ Passes t x0 kX kSession (kX.ctx.rh 2)
      ∧ t.model? sess0.model = some mod0 ∧ kX.idx = 0 ∧ kX.kind = 0 ∧ (t.liveOf kX.q kX.cid).any (·.req.isSome) = true
      ∧ t.sequences.find 0 = some { seq0 with committed := 0, table := [] })
    ∧ (Running s x0 d kX prog0 ∧ Passes d x0 kX kSequence (kX.ctx.rh 1) ∧ s.domMember 0 domX = true
      ∧ Fresh kX [kX.ctx.rh 1, kX.ctx.rg 1] ∧ domX ≠ 0 ∧ s.isEt domX = false ∧ (kX.ctx.rg 1).toNat ≤ 64)
    ∧ (Passes d x0 kX kSession (kX.ctx.rh 2) ∧ 0x100 % 8 = 0 ∧ 0x100 + 16 ≤ 0x6000 ∧ Fresh kX [kX.ctx.rh 2, kX.ctx.rg 2]
      ∧ BitVec.ofNat 128 (leNat (kX.peek prog0.data 0x100 16)) = 77 ∧ (s.lookup 0 domX 0x103 77).2 = none)
    ∧ (Running v x0 n kX prog0 ∧ Passes n x0 kX kSession (kX.ctx.rh 2) ∧ v.domMember 0 domX = true
      ∧ (v.lookup 0 domX 0x103 77).2 = some (0, 4) ∧ ((v.lookup 0 domX 0x103 77).1.prt 0).isSome
      ∧ (v.lookup 0 domX 0x103 77).1.step? x0 = some kX)
    ∧ (Running (devD f) x0 f y prog0 ∧ Passes f x0 y kSequence (y.ctx.rh 1) ∧ (y.ctx.rg 1).toNat < (f.lenOf y 0).1 / 64 ∧ y.log = []
      ∧ ((f.sequences.find 0).bind fun q => q.keys.find 0) = some 9 ∧ (y.ctx.rg 3).toNat % 8 = 0
      ∧ (y.ctx.rg 3).toNat + 16 ≤ 0x6000) :=
  ⟨by decide +kernel, by decide +kernel, by decide +kernel, by decide +kernel, by decide +kernel⟩
/-- 32769 is taken, 32768 is the lowest free number; only a privileged queue may. -/
theorem test_witness_DomainResults :
    let k := withG stepP [(1, 32769)]
    let t := own full1 k
    (Running (devD t) x0 t k prog0 ∧ t.privQ (k.q % 64) = true ∧ (devD t).domains.find 32768 = none)
    ∧ ((k.ctx.rg 1).toNat < 65536 ∧ domOwner (BitVec.ofNat 16 (k.ctx.rg 1).toNat) = x0.part.val
      ∧ (devD t).domain? (BitVec.ofNat 16 (k.ctx.rg 1).toNat) = some dom0 ∧ dom0.st = .active ∧ dom0.cross = false
      ∧ dom0.excluded = none ∧ (devD t).domNamed (BitVec.ofNat 16 (k.ctx.rg 1).toNat) = false)
    ∧ (Running (rig full0 step0) x0 (own full0 step0) step0 prog0 ∧ (own full0 step0).privQ (step0.q % 64) = false) := by decide +kernel

end Sys2Proof.Test

namespace Sys2Proof.Test
open Sys2Proof.Machine Sys2Proof.Cert

def b8 (n : Nat) : List Byte := toLe n 8
/-- A staged move of 4,096 bytes, whole. -/
def move0 : Move :=
  { done := true, status := .ok, bytes := 4096, left := 0, dst := 0, src := 1, srcOff := 0, dstOff := 0, bulk := false, chunk0 := 0
    chunks := 0, copy := false, data := [] }
/-- MVCOPY of the whole of region 1 to region 0, and a step with two tickets. -/
def kM : Step := { withH (withG step0 [(1, 0x100), (2, 0x100000000), (3, 1), (4, 2)]) [(1, hd 4 0), (2, hd 4 1)] with
                   scratch := scr 0x100 (b8 0 ++ b8 0 ++ b8 8192) }
def kM2 : Step := { kM with moves := [(1, move0), (2, { move0 with status := .poisonConsumed })] }
theorem test_witness_MoveResults :
    let t := own full0 kM
    (Running (rig full0 kM) x0 t kM prog0 ∧ Passes t x0 kM kRegion (kM.ctx.rh 1) ∧ Passes t x0 kM kRegion (kM.ctx.rh 2)
      ∧ (0x100 % 8 = 0 ∧ 0x100 + 24 ≤ 0x6000) ∧ kM.raDone = [] ∧ fld (kM.peek prog0.data 0x100 24) 16 8 = 8192
      ∧ fld (kM.peek prog0.data 0x100 24) 0 8 + 8192 ≤ reg0.size ∧ fld (kM.peek prog0.data 0x100 24) 8 8 + 8192 ≤ reg0.size
      ∧ t.regions.find (hIndex (kM.ctx.rh 1)) = some reg0 ∧ t.regions.find (hIndex (kM.ctx.rh 2)) = some { reg0 with h := hd 4 1 }
      ∧ reg0.device = true ∧ reg0.binding = none ∧ reg0.st = .uploading ∧ kM.staged + roundUp 8192 4096 ≤ 268435456)
    ∧ (Fresh kM [kM.ctx.rh 1, kM.ctx.rg 2]
      ∧ bitsOf (kM.ctx.rg 2).toNat 31 0 + bitsOf (kM.ctx.rg 2).toNat 63 32 ≤ (reg0.size + chunkBytes - 1) / chunkBytes)
    ∧ (Running (rig full0 kM2) x0 (own full0 kM2) kM2 prog0 ∧ kM2.moves.find (kM2.ctx.rg 3).toNat = some move0
      ∧ move0.done = true ∧ Fresh kM2 [kM2.ctx.rg 3]
      ∧ (kM2.moves.find (kM2.ctx.rg 4).toNat).map (·.status) = some .poisonConsumed) :=
  ⟨by decide +kernel, by decide +kernel, by decide +kernel⟩
def lane0 : Lane :=
  { seq := some 0, q := 1, cid := 5, hgSeq := 0, pos := 64, token := 3, maxDraft := 1, ntok := 1, flags := 4, step := some 7
    squashed := none, ended := false }
def wave0 : Wave :=
  { model := 0x103, batch := 1, row := false, fetch := false, lead := true, digest := false, lanes := [lane0], tokens := []
    arrived := [], sent := [], msgs := [], qp := none, ready := [] }
def msgL : BufMsg := { mtype := mtLogits, layer := 0xFFFF, lane := 0, xfmt := 0, ofmt := 0, digest := false, body := [], qp := some 2 }
/-- A decode step of lane 0, layer 0 emitted and merged. -/
def kW : Step := { withH (withG step0 [(2, 1)]) [(1, hd 6 1)] with kind := 2, seq := some 0, emitted := [0], merged := [0] }
def inMsg : InMsg := { off := 0, len := 4, bytes := [1, 2, 3, 4], takenBy := none }
def fullW (msgs : Tab BufMsg) (inbox : List InMsg) : Partition :=
  { full0 with waves := [{ wave0 with msgs := msgs }], qps := [(1, { qp0 with inbox := inbox })] }
theorem test_witness_WaitAndInfoResults :
    let a := fullW [] [inMsg]
    let e := fullW [] []
    let m := fullW [(logitsKey 0, msgL)] []
    (Running (rig a kW) x0 (own a kW) kW prog0 ∧ Passes (own a kW) x0 kW kQueue (kW.ctx.rh 1)
      ∧ hIndex (kW.ctx.rh 1) = kW.q % 64 ∧ (own a kW).qps.find (kW.ctx.rg 2).toNat = some { qp0 with inbox := [inMsg] }
      ∧ [inMsg].find? (fun m => m.takenBy.isNone) = some inMsg)
    ∧ (Running (rig e kW) x0 (own e kW) kW prog0 ∧ (own e kW).qps.find (kW.ctx.rg 2).toNat = some qp0
      ∧ qp0.inbox.all (fun m => m.takenBy.isSome) = true ∧ (own e kW).waveOf kW = some wave0 ∧ wave0.lanes[kW.lane]? = some lane0
      ∧ kW.kind = 2 ∧ wave0.msgs.find (logitsKey kW.lane) = none)
    ∧ (Running (rig m kW) x0 (own m kW) kW prog0 ∧ ((own m kW).waveOf kW).map (·.msgs.find (logitsKey kW.lane)) = some (some msgL))
    ∧ ((kW.ctx.rg 1).toNat ∈ kW.emitted ∧ (kW.ctx.rg 1).toNat ∈ kW.merged ∧ kW.ctx.rg 1 ≠ BitVec.allOnes 64)
    ∧ ((own e kW).stepModel kW = some mod0 ∧ { kW with kind := 1 }.kind = 1 ∧ 11 ≤ (11 : BitVec 32).toNat) :=
  ⟨by decide +kernel, by decide +kernel, by decide +kernel, by decide +kernel, by decide +kernel⟩
/-- SCREATE's block: tenant 2, no domain, model 0x103, and the three regions. -/
def blkC : List Byte :=
  toLe 2 2 ++ toLe 0 2 ++ toLe 0x103 2 ++ List.replicate 10 0 ++ b8 (hd 4 0).toNat ++ b8 (hd 4 1).toNat ++ b8 (hd 4 2).toNat
/-- MODLOAD's image of a model in slot 5: one layer, one KV head of 64 elements in BF16. -/
def imgM : List Byte :=
  [5, 0, 1, 0, 1, 1, 64, 0, 1, 0, 0, 1, 0, 0, 1, 0, 0, 0, 0, 0, 16, 0, 0, 0] ++ List.replicate 40 0
def kC : Step := { withH (withG stepP [(1, 0x100), (2, 0x200)]) [(1, hd 1 0)] with scratch := scr 0x100 blkC ++ scr 0x200 imgM }
def fullC : Partition :=
  { full1 with sessions := [(0, { sess0 with history := 0, sampler := 0, scratch := 0 })] }
theorem test_witness_CreationResults :
    let t := own fullC kC
    let i := iss (rig fullC kC) x0 t kC prog0
    (Running (rig fullC kC) x0 t kC prog0 ∧ t.privQ (kC.q % 64) = true ∧ i.localFieldsOk (kC.peek prog0.data 0x100 40) = true
      ∧ fld (kC.peek prog0.data 0x100 40) 0xA 6 = 0)
    ∧ (∀ j, j < 3 → Passes t x0 kC kRegion (BitVec.ofNat 64 (fld (kC.peek prog0.data 0x100 40) (0x10 + 8 * j) 8))
      ∧ t.regionNamed (BitVec.ofNat 64 (fld (kC.peek prog0.data 0x100 40) (0x10 + 8 * j) 8)) = false
      ∧ (t.regionOf kC (hIndex (BitVec.ofNat 64 (fld (kC.peek prog0.data 0x100 40) (0x10 + 8 * j) 8)))).map (·.cls) = some 1)
    ∧ (t.sessions.length + (t.resv.filter fun e => e.1 / 2 ^ 48 == kSession).length < t.quota ∧ LowestSlot t 0 kSession 1)
    ∧ (Passes t x0 kC kSession (kC.ctx.rh 1) ∧ kC.closed 0 = false ∧ bitsOf (kC.ctx.rg 3).toNat 31 0 = 0
      ∧ (sess0.seqs.filter (· ≠ 0)).length < 4 ∧ (∀ y ∈ t.steps, y.2.log = []) ∧ LowestSlot t 0 kSequence 1)
    ∧ ((modelImage (kC.peek prog0.data 0x200 64) 0).isSome = true
      ∧ (∀ e ∈ t.sessions, e.2.model.toNat % 256 ≠ fld (kC.peek prog0.data 0x200 64) 0 1) ∧ t.modelGen 5 = some 1)
    ∧ (Running (rig full0 step0) x0 (own full0 step0) step0 prog0 ∧ (own full0 step0).privQ (step0.q % 64) = false) :=
  ⟨by decide +kernel, by decide +kernel, by decide +kernel, by decide +kernel, by decide +kernel, by decide +kernel⟩
/-- g1 points at SMIGOUT's block, g2 at SMIGIN's; g6 and g7 are SPARK's arguments. -/
def kS : Step :=
  { withH (withG stepP [(1, 0x100), (2, 0x200), (3, 0x10001), (6, 5), (7, 9)]) [(1, hd 1 0), (2, hd 2 0)] with
    scratch := scr 0x100 (toLe 1 2 ++ [0, 0, 0, 0, 0, 0] ++ b8 77)
      ++ scr 0x200 (b8 78 ++ b8 (hd 4 0).toNat ++ toLe 2 2 ++ toLe 0 2 ++ toLe 0x103 2 ++ List.replicate 10 0) }
def fullP : Partition := { full1 with sessions := [(0, { sess0 with st := .parked })] }
theorem test_witness_SessionChanges :
    let t := own full1 kS
    let i := iss (rig full1 kS) x0 t kS prog0
    (Running (rig full1 kS) x0 t kS prog0 ∧ kS.log = [] ∧ Passes t x0 kS kSession (kS.ctx.rh 1) ∧ t.sessions.find 0 = some sess0
      ∧ sess0.st ≠ .migrating ∧ (kS.ctx.rg 7).toNat < 16 ∧ (kS.ctx.rg 7).toNat % 4 < 2 ∧ bitsOf (kS.ctx.rg 7).toNat 3 2 ≠ 3
      ∧ kS.ctx.rg 6 ≠ 0 ∧ (kS.ctx.rg 7).toNat % 4 = 1)
    ∧ (Running (rig fullP kS) x0 (own fullP kS) kS prog0 ∧ MayDefer (own fullP kS) kS
      ∧ ((own fullP kS).sessions.find 0).map (·.st) = some .parked)
    ∧ ((kS.ctx.rg 3).toNat % 4 = 1 ∧ bitsOf (kS.ctx.rg 3).toNat 31 16 ≠ 0)
    ∧ (t.privQ (kS.q % 64) = true ∧ sess0.st = .opened ∧ MayDefer t kS ∧ t.reqsOf 0 = []
      ∧ fld (kS.peek prog0.data 0x100 16) 2 1 ≤ 2 ∧ fld (kS.peek prog0.data 0x100 16) 3 5 = 0
      ∧ t.qps.has (fld (kS.peek prog0.data 0x100 16) 0 2) = true ∧ t.model? sess0.model = some mod0 ∧ mod0.hgSize ≤ 1)
    ∧ (Passes t x0 kS kRegion (BitVec.ofNat 64 (fld (kS.peek prog0.data 0x200 32) 8 8))
      ∧ i.localFieldsOk (((kS.peek prog0.data 0x200 32).drop 16).take 10) = true ∧ fld (kS.peek prog0.data 0x200 32) 0x1A 6 = 0
      ∧ t.regions.find 0 = some reg0 ∧ reg0.st = .uploading ∧ t.migrations.find (fld (kS.peek prog0.data 0x200 32) 0 8) = none)
    ∧ (Passes t x0 kS kSequence (kS.ctx.rh 2) ∧ t.sequences.find 0 = some seq0) :=
  ⟨by decide +kernel, ⟨by decide +kernel, ⟨rfl, _, rfl, rfl⟩, rfl⟩, by decide +kernel,
   ⟨by decide +kernel, rfl, ⟨rfl, _, rfl, rfl⟩, by decide +kernel⟩, by decide +kernel, by decide +kernel⟩
/-- g1 is a tenant, g2 the place of its image, g3 that of a variant's entry, g4 its variant and expert. -/
def kT : Step :=
  { withH (withG stepP [(1, 2), (2, 0x100), (3, 0x200), (4, 0x3F03FF)]) [(1, hd 1 0)] with
    scratch := scr 0x100 (toLe 5 4 ++ List.replicate 44 0) ++ scr 0x200 (List.replicate 32 0) }
theorem test_witness_RecordsOfTenantsAndVariants :
    let t := own full1 kT
    (Running (rig full1 kT) x0 t kT prog0 ∧ Passes t x0 kT kSession (kT.ctx.rh 1) ∧ t.sessions.find 0 = some sess0
      ∧ sess0.parkReason < 4 ∧ sess0.durClass < 4 ∧ sess0.priority < 8 ∧ sess0.durN < 65536)
    ∧ (t.tenants.find (kT.ctx.rg 1).toNat = some ten0 ∧ (kT.ctx.rg 2).toNat % 8 = 0 ∧ (kT.ctx.rg 2).toNat + 48 ≤ 0x6000)
    ∧ (t.privQ (kT.q % 64) = true ∧ (kT.ctx.rg 1).toNat ≤ 4095 ∧ fld (kT.peek prog0.data 0x100 48) 0x18 4 < 2 ^ 30
      ∧ fld (kT.peek prog0.data 0x100 48) 0x1C 1 < 8 ∧ fld (kT.peek prog0.data 0x100 48) 0x1D 1 % 64 = 0
      ∧ fld (kT.peek prog0.data 0x100 48) 0x1E 2 = 0 ∧ fld (kT.peek prog0.data 0x100 48) 0x28 1 ≤ 1
      ∧ fld (kT.peek prog0.data 0x100 48) 0x29 7 = 0)
    ∧ ((kT.ctx.rg 3).toNat + 32 ≤ 0x6000 ∧ (kT.ctx.rg 4).toNat < 2 ^ 22 ∧ (kT.ctx.rg 4).toNat % 65536 < 1024
      ∧ fld (kT.peek prog0.data 0x200 32) 0x1C 1 = 0 ∧ fld (kT.peek prog0.data 0x200 32) 0x1D 3 = 0)
    ∧ (Running (rig full0 step0) x0 (own full0 step0) step0 prog0 ∧ (own full0 step0).privQ (step0.q % 64) = false) :=
  ⟨by decide +kernel, by decide +kernel, by decide +kernel, by decide +kernel, by decide +kernel⟩
/-- A LOGITS record of position 64 of the lane: one candidate, token 3 with the value 1 in BF16. -/
def recL : List Byte := [0, 1, 1, 0] ++ toLe 0 4 ++ toLe 64 4 ++ toLe 1 4 ++ toLe 3 4 ++ toLe 0x3F80 2 ++ [0, 0]
/-- The decode step of a REQUEST with temperature 0, which samples that record. -/
def kY : Step :=
  { withH (withG step0 [(1, mkToken mtLogits 0xFFFF 0 0)]) [(1, hd 1 0)] with
    kind := 2, seq := some 0, h0 := hd 1 0, msgs := [(0, { msgL with body := recL })], appended := some (64, 1) }
def reqY : Req := { req0 with spb := List.replicate 1360 0 }
def fullY (lead : Bool) : Partition :=
  { full0 with waves := [{ wave0 with lead := lead }], live := [{ live0 with req := some reqY, started := true }] }
def resY : SampleRes := ⟨[3], 1, 0, 0, 1, [(3, 1)], 0⟩
theorem test_witness_SamplerResults :
    let t := own (fullY true) kY
    let f := own (fullY false) kY
    let z : Step := { kY with sampled := some resY }
    (Running (rig (fullY false) kY) x0 f kY prog0 ∧ kY.kind = 2 ∧ Passes f x0 kY kSession (kY.ctx.rh 1) ∧ kY.sampled = none
      ∧ kY.ctx.rh 1 = kY.h0 ∧ f.follows kY = true)
    ∧ (Running (rig (fullY true) kY) x0 t kY prog0 ∧ t.follows kY = false ∧ kY.tokenMsg (kY.ctx.rg 1) = some { msgL with body := recL }
      ∧ t.stepModel kY = some mod0 ∧ t.liveOf kY.q kY.cid = some { live0 with req := some reqY, started := true }
      ∧ t.waveOf kY = some wave0 ∧ wave0.lanes[kY.lane]? = some lane0 ∧ kY.seq.bind t.sequences.find = some seq0
      ∧ kY.appended.map (·.2) = some 1)
    ∧ logitsOk mod0 recL 1 lane0.hgSeq lane0.pos 1 kY.drafts = true
    ∧ reqY.sampleRows (fun i => (logitRow mod0.vocab (fld recL 2 1) (fld recL 3 1) (fld recL 0xC 4) (recL.drop 16) i).1) kY.drafts 1
        lane0.pos (t.limit seq0) false 1 0 ⟨[], 1, 0, 0, 0, reqY.counts, 0⟩ = some resY
    ∧ (Running (rig (fullY true) z) x0 (own (fullY true) z) z prog0 ∧ (own (fullY true) z).follows z = false
      ∧ z.sampled = some resY ∧ resY.reason < 256) :=
  ⟨by decide +kernel, by decide +kernel, by decide +kernel, by decide +kernel, by decide +kernel⟩
/-- h1 and h2 are the step's queue and another, h3 a page group. -/
def kQ : Step := withH (withG step0 [(1, 3)]) [(1, hd 6 1), (2, hd 6 0), (3, hd 3 0)]
def diag0 (t : Partition) : State := { dev t with control := ⟨[(0x02C, 1)], Mailbox.reset, []⟩ }
def kQ4 : Step := { kQ with posts := 4, events := 16 }
theorem test_witness_QueueAndTestResults :
    let t := own full0 kQ
    let u := own { full0 with trace := List.replicate 256 (0, 0, 0) } kQ
    (Running (rig full0 kQ) x0 t kQ prog0 ∧ Passes t x0 kQ kQueue (kQ.ctx.rh 1) ∧ hIndex (kQ.ctx.rh 1) = kQ.q ∧ kQ.posts < 4)
    ∧ (Passes t x0 kQ kQueue (kQ.ctx.rh 2) ∧ hIndex (kQ.ctx.rh 2) ≠ kQ.q)
    ∧ (Running (rig full0 kQ4) x0 (own full0 kQ4) kQ4 prog0 ∧ 4 ≤ kQ4.posts ∧ 16 ≤ kQ4.events)
    ∧ (0x8000 ≤ (0x8000 : BitVec 32).toNat ∧ (0xFFFF : BitVec 32).toNat ≤ 0xFFFF ∧ kQ.events < 16 ∧ (0x7FFF : BitVec 32).toNat < 0x8000)
    ∧ (t.queues.find (hIndex (kQ.ctx.rh 1)) = some queue0 ∧ queue0.st ≠ .disabled)
    ∧ (t.trace.length < 256 ∧ u.trace.length = 256 ∧ counterExists 0 = true ∧ counterExists 13 = false)
    ∧ (Running (diag0 t) x0 t kQ prog0 ∧ Passes t x0 kQ kGroup (kQ.ctx.rh 3) ∧ (diag0 t).diag 0 = true
      ∧ t.groups.find (hIndex (kQ.ctx.rh 3)) = some grp0 ∧ (kQ.ctx.rg 1).toNat < grp0.pages)
    ∧ (rig full0 kQ).diag 0 = false :=
  ⟨by decide +kernel, by decide +kernel, by decide +kernel, by decide +kernel, by decide +kernel, by decide +kernel, by decide +kernel,
   by decide +kernel⟩
theorem test_witness_CommitFenceSquash :
    let k : Step := { withH step0 [(1, hd 1 0)] with h0 := hd 1 0 }
    let d : Step := { k with kind := 2 }
    let w : Step := { k with moves := [(1, { move0 with done := false })] }
    (Running (rig full0 k) x0 (own full0 k) k prog0 ∧ k.ctx.rh 1 = k.h0 ∧ k.kind = 0 ∧ k.ctx.rh 2 ≠ k.h0
      ∧ (∀ e ∈ k.moves, e.2.done = true ∧ e.2.status = .ok) ∧ (∀ e ∈ k.descs, e.st = .done) ∧ k.fails = [] ∧ k.pins = [])
    ∧ (Running (rig full0 d) x0 (own full0 d) d prog0 ∧ d.kind = 2 ∧ d.sampled = none)
    ∧ (Running (rig full0 w) x0 (own full0 w) w prog0 ∧ (1, { move0 with done := false }) ∈ w.moves)
    ∧ (0x04 : BitVec 32).extractLsb' 0 8 = Status.aborted.code ∧ (0x10 : BitVec 32).extractLsb' 0 8 = Status.noPage.code
    ∧ (0x14 : BitVec 32).extractLsb' 0 8 = Status.recomputeRequired.code
    ∧ (∀ st ∈ [Status.aborted, .noPage, .recomputeRequired], (0x20 : BitVec 32).extractLsb' 0 8 ≠ st.code) :=
  ⟨by decide +kernel, by decide +kernel, by decide +kernel, by decide +kernel⟩

end Sys2Proof.Test

namespace Sys2Proof.Test
open Sys2Proof.Machine Sys2Proof.Cert

/-- g1 points at RGCREATE's block, g4 at RGBIND's; h1 names region 0; g2 and g3 are an offset and a length. -/
def kR : Step :=
  { withH (withG step0 [(1, 0x100), (2, 4096), (3, 4096), (4, 0x200)]) [(1, hd 4 0)] with
    scratch := scr 0x100 (b8 8192 ++ [1, 11, 2] ++ List.replicate 13 0) ++ scr 0x200 (toLe 0x8001 2 ++ List.replicate 6 0 ++ b8 55) }
def fullR (r : Region) : Partition := { fullC with regions := [(0, r)], live := [live0] }
def domR : Domain := { dom0 with cross := true }
def devR (t : Partition) : State := { dev t with domains := [(32769, domR)] }
def pubR : Region := { reg0 with st := .valid, published := true, domain := 0x8001, name := 55 }
theorem test_witness_RegionResults :
    let t := own (fullR reg0) kR
    let v : Region := { reg0 with st := .valid, registered := true }
    let c : Region := { reg0 with cls := 0 }
    let d : Region := { reg0 with domain := 0x8001 }
    (Running (rig (fullR reg0) kR) x0 t kR prog0 ∧ kR.log = [] ∧ fld (kR.peek prog0.data 0x100 24) 0 8 = 8192 ∧ 8192 % 4096 = 0
      ∧ fld (kR.peek prog0.data 0x100 24) 8 1 = 1 ∧ fld (kR.peek prog0.data 0x100 24) 9 1 < 12
      ∧ fld (kR.peek prog0.data 0x100 24) 0xA 1 = 2 ∧ fld (kR.peek prog0.data 0x100 24) 0xB 1 = 0
      ∧ fld (kR.peek prog0.data 0x100 24) 0xC 2 = 0 ∧ fld (kR.peek prog0.data 0x100 24) 0xE 2 = 0
      ∧ fld (kR.peek prog0.data 0x100 24) 0x10 8 = 0 ∧ (rig (fullR reg0) kR).flashRO = false)
    ∧ (2 * 8192 ≤ t.freeBytes .t2 ∧ LowestSlot t 0 kRegion 1)
    ∧ (Passes t x0 kR kRegion (kR.ctx.rh 1) ∧ t.regions.find (hIndex (kR.ctx.rh 1)) = some reg0 ∧ reg0.st = .uploading
      ∧ reg0.registered = false ∧ t.regionNamed (kR.ctx.rh 1) = false ∧ t.variantNames (kR.ctx.rh 1) = false)
    ∧ (Running (rig (fullR v) kR) x0 (own (fullR v) kR) kR prog0 ∧ Passes (own (fullR v) kR) x0 kR kRegion (kR.ctx.rh 1)
      ∧ (own (fullR v) kR).regions.find 0 = some v ∧ v.registered = true ∧ v.st = .valid) ∧ MayDefer (own (fullR v) kR) kR
    ∧ ((kR.ctx.rg 2).toNat + (kR.ctx.rg 3).toNat ≤ reg0.size ∧ reg0.binding = none ∧ reg0.domain = 0)
    ∧ (Running (rig (fullR c) kR) x0 (own (fullR c) kR) kR prog0 ∧ Passes (own (fullR c) kR) x0 kR kRegion (kR.ctx.rh 1)
      ∧ (own (fullR c) kR).regions.find 0 = some c ∧ c.cls = 0 ∧ c.home = 2 ∧ c.binding = none)
    ∧ (Running (devR (own (fullR d) kR)) x0 (own (fullR d) kR) kR prog0 ∧ Passes (own (fullR d) kR) x0 kR kRegion (kR.ctx.rh 1)
      ∧ d.st = .uploading ∧ d.cls = 1 ∧ d.domain ≠ 0 ∧ (devR (own (fullR d) kR)).crossMember 0 d.domain = true)
    ∧ (Running (devR (own (fullR pubR) kR)) x0 (own (fullR pubR) kR) kR prog0 ∧ fld (kR.peek prog0.data 0x200 16) 2 1 ≤ 1
      ∧ fld (kR.peek prog0.data 0x200 16) 3 5 = 0
      ∧ (devR (own (fullR pubR) kR)).crossMember 0 (BitVec.ofNat 16 (fld (kR.peek prog0.data 0x200 16) 0 2)) = true
      ∧ (devR (own (fullR pubR) kR)).published (BitVec.ofNat 16 (fld (kR.peek prog0.data 0x200 16) 0 2))
          (BitVec.ofNat 64 (fld (kR.peek prog0.data 0x200 16) 8 8)) = some (0, 0, pubR)
      ∧ LowestSlot (own (fullR pubR) kR) 0 kRegion 1) :=
  ⟨by decide +kernel, by decide +kernel, by decide +kernel, by decide +kernel, ⟨rfl, _, rfl, rfl⟩, by decide +kernel, by decide +kernel,
   by decide +kernel, by decide +kernel⟩
/-- A work request: a SEND of 4,096 bytes of region 0. -/
def wrBytes : List Byte := [1, 1] ++ List.replicate 6 0 ++ b8 (hd 4 0).toNat ++ b8 0 ++ b8 0 ++ toLe 4096 4 ++ List.replicate 12 0
/-- g1 names queue pair 1; g2, g3, g4 point at a creation's, a request's and a chain's block; g5 is a tag. -/
def kV : Step :=
  { withG step0 [(1, 1), (2, 0x100), (3, 0x200), (4, 0x300), (5, 6)] with
    scratch := scr 0x100 ([0, 6, 1, 0] ++ toLe 2 2 ++ List.replicate 26 0) ++ scr 0x200 wrBytes
      ++ scr 0x300 (toLe 1 2 ++ [1, 0] ++ toLe 6 4 ++ b8 0x200) }
def chain0 : Chain32 := { armed := true, qp := 1, wrs := [], q := 1, cid := 5, done := 0, status := .ok }
def fullV (q : Qp) (cs : Tab Chain32) : Partition := { full0 with qps := [(1, q)], chains := cs }
theorem test_witness_QueuePairResults :
    let t := own (fullV qp0 []) kV
    let s := rig (fullV qp0 []) kV
    let n : Qp := { qp0 with st := .init, notes := [5] }
    (Running s x0 t kV prog0 ∧ kV.log = [] ∧ fld (kV.peek prog0.data 0x100 32) 0 1 < 16
      ∧ t.binding.ports.getLsbD (fld (kV.peek prog0.data 0x100 32) 0 1) = true ∧ fld (kV.peek prog0.data 0x100 32) 1 1 ≤ 6
      ∧ t.binding.tcAllow.getLsbD (fld (kV.peek prog0.data 0x100 32) 1 1) = true ∧ fld (kV.peek prog0.data 0x100 32) 2 1 < 2
      ∧ fld (kV.peek prog0.data 0x100 32) 3 1 = 0 ∧ fld (kV.peek prog0.data 0x100 32) 4 2 < 4096)
    ∧ (t.tenants.has (fld (kV.peek prog0.data 0x100 32) 4 2) = true ∧ fld (kV.peek prog0.data 0x100 32) 8 8 = 0
      ∧ (s.parts.map fun e => e.2.qps.length).sum < 65536 ∧ 2 < 1024 * (clustersOf t.clusters).length ∧ t.qps.find 2 = none
      ∧ t.resv.find (slotKey kQp 2) = none ∧ (∀ j, j < 2 → 0 < j → t.qps.has j = true ∨ t.resv.has (slotKey kQp j) = true))
    ∧ (t.qps.find (kV.ctx.rg 1).toNat = some qp0 ∧ qp0.st = .ready ∧ qp0.notes = []
      ∧ (iss s x0 t kV prog0).workBad (kV.peek prog0.data 0x200 48) = none)
    ∧ MayDefer t kV
    ∧ (Running (rig (fullV n []) kV) x0 (own (fullV n []) kV) kV prog0 ∧ (own (fullV n []) kV).qps.find 1 = some n ∧ n.st = .init
      ∧ n.passive = false ∧ n.notes = 5 :: [])
    ∧ (fld (kV.peek prog0.data 0x300 16) 8 8 = 0x200 ∧ 0x200 % 8 = 0 ∧ fld (kV.peek prog0.data 0x300 16) 2 1 = 1
      ∧ 0x200 + 48 * 1 ≤ 0x6000 ∧ fld (kV.peek prog0.data 0x300 16) 3 1 = 0
      ∧ BitVec.ofNat 32 (fld (kV.peek prog0.data 0x300 16) 4 4) ≠ 0 ∧ t.qps.has (fld (kV.peek prog0.data 0x300 16) 0 2) = true
      ∧ t.chains.find (chainKey 1 6) = none ∧ t.chains.length < 64)
    ∧ (Running (rig (fullV qp0 [(chainKey 1 6, chain0)]) kV) x0 (own (fullV qp0 [(chainKey 1 6, chain0)]) kV) kV prog0
      ∧ (own (fullV qp0 [(chainKey 1 6, chain0)]) kV).chains.find (chainKey (kV.ctx.rg 1).toNat ((kV.ctx.rg 5).setWidth 32))
        = some chain0) :=
  ⟨by decide +kernel, by decide +kernel, by decide +kernel, ⟨rfl, _, rfl, rfl⟩, by decide +kernel, by decide +kernel, by decide +kernel⟩

end Sys2Proof.Test

namespace Sys2Proof.Test
open Sys2Proof.Machine Sys2Proof.Cert

/-- A live command of queue 1 with an opcode. -/
def cmd (oc : Nat) (e : Entry := ent0) : Live := { live0 with ent := { e with opcode := oc } }
def fullO (l : Live) : Partition := { part0 with queues := full0.queues, live := [l], nextOrder := 4, programs := [(1, prog0)] }
/-- A 64-byte entry: RUN, cid 6, host time 0. -/
def rawE : List Byte := [2, 0, 6, 0] ++ List.replicate 60 0
def queueF : Queue := { queue0 with sqTail := 1, reserved := 0 }
def partF : Partition := { part0 with queues := [(0, { queue0 with priv := true }), (1, queueF)] }
/-- Two live commands of queue 1; the later names the earlier. -/
def liveM : Live := { live0 with ent := { ent0 with cid := 9 }, order := 2, started := true }
def cmdOn (oc : Nat) : Live := cmd oc { ent0 with arg0 := 9 }
def partT (oc : Nat) : Partition := { fullO live0 with live := [liveM, cmdOn oc] }
/-- An entry of an opcode that is none, and a handle that names no program. -/
def rawM : List Byte := [0xEE, 0, 6, 0] ++ List.replicate 60 0
def cmdB (oc : Nat) : Live := cmd oc { ent0 with handle0 := hd 7 9 }
theorem test_witness_HostCommandResults :
    (rawE.length = 64 ∧ (dev partF).prt 0 = some partF ∧ partF.st = .active ∧ (dev partF).fetching = true ∧ partF.nextFetch = some 1
      ∧ partF.queues.find 1 = some queueF ∧ (parseEntry rawE).malformed queueF.priv = false ∧ (parseEntry rawE).hostTime ≤ partF.clock)
    ∧ (rawM.length = 64 ∧ (parseEntry rawM).malformed queueF.priv = true ∧ (parseEntry rawM).hostTime ≤ partF.clock
      ∧ partF.liveOf 1 (parseEntry rawM).cid = none)
    ∧ (CanStart (dev (fullO (cmd 5))) 0 1 5 ocClockadv (fullO (cmd 5)) queue0 (cmd 5) ∧ (∀ e ∈ (fullO (cmd 5)).sessions, e.2.st ≠ .parked)
      ∧ (∀ e ∈ (fullO (cmd 5)).sequences, e.2.held = false) ∧ (∀ m ∈ (fullO (cmd 5)).live, m.req = none) ∧ Unpended (fullO (cmd 5)))
    ∧ (CanStart (dev (fullO (cmd 2))) 0 1 5 ocRun (fullO (cmd 2)) queue0 (cmd 2) ∧ FramesFree (dev (fullO (cmd 2)))
      ∧ (fullO (cmd 2)).firstBad 0 (optHandle [kSession, kProgram] (cmd 2).ent.handle0 ++ optHandle [kSequence, kRegion] (cmd 2).ent.handle1)
        = none)
    ∧ (CanStart (dev (fullO (cmdB 2))) 0 1 5 ocRun (fullO (cmdB 2)) queue0 (cmdB 2)
      ∧ (fullO (cmdB 2)).firstBad 0 (optHandle [kSession, kProgram] (hd 7 9)) = some ([1, 7], hd 7 9, .staleKey))
    ∧ (CanStart (dev (fullO (cmd 3))) 0 1 5 ocCancel (fullO (cmd 3)) queue0 (cmd 3) ∧ (fullO (cmd 3)).targetOf (cmd 3) = none)
    ∧ (CanStart (dev (fullO (cmd 4))) 0 1 5 ocAbort (fullO (cmd 4)) queue0 (cmd 4) ∧ (fullO (cmd 4)).targetOf (cmd 4) = none)
    ∧ (CanStart (dev (partT 3)) 0 1 5 ocCancel (partT 3) queue0 (cmdOn 3) ∧ (partT 3).targetOf (cmdOn 3) = some liveM
      ∧ (partT 3).liveOf liveM.q liveM.ent.cid = some liveM ∧ (∀ a ∈ (partT 3).live, ∀ b ∈ (partT 3).live, a.order = b.order → a = b)
      ∧ liveM.step = none ∧ liveM.req = none ∧ liveM.abortStatus = none ∧ liveM.deferred = .none ∧ liveM.posted1 = false
      ∧ Unpended (partT 3))
    ∧ (CanStart (dev (partT 4)) 0 1 5 ocAbort (partT 4) queue0 (cmdOn 4) ∧ (partT 4).targetOf (cmdOn 4) = some liveM) :=
  ⟨by decide +kernel, by decide +kernel, by decide +kernel, by decide +kernel, by decide +kernel, by decide +kernel, by decide +kernel,
   by decide +kernel, by decide +kernel⟩
/-- A sampling block of a seeded request: top_p and the repetition penalty are 1. -/
def spb0 : List Byte :=
  setFld (setFld (setFld (List.replicate 1360 0) 4 4 0x3F800000) 0xC 4 0x3F800000) 0xB 1 128
def entR (n : Nat) : Entry := { ent0 with opcode := 1, handle0 := hd 1 0, handle1 := hd 2 0, arg1 := BitVec.ofNat 64 n }
def regS : Region := { reg0 with h := hd 4 1, data := Bytes.wr [] 0 spb0 }
def fullQ (e : Entry) (ss : Session) (sq : Sequence) (tn : Tenant) : Partition :=
  { full0 with live := [cmd 1 e], regions := [(0, reg0), (1, regS), (2, reg0)], tenants := [(2, tn)], sessions := [(0, ss)]
               sequences := [(0, sq)] }
/-- A REQUEST that may start, with its session, sequence, tenant and sampling region. -/
abbrev Asked (e : Entry) (ss : Session) (sq : Sequence) (tn : Tenant) : Prop :=
  let t := fullQ e ss sq tn
  CanStart (dev t) 0 1 5 ocRequest t queue0 (cmd 1 e) ∧ t.firstBad 0 [([kSession], e.handle0), ([kSequence], e.handle1)] = none
    ∧ t.sessions.find (hIndex e.handle0) = some ss ∧ t.sequences.find (hIndex e.handle1) = some sq ∧ t.model? ss.model = some mod0
    ∧ t.regions.find (hIndex ss.sampler) = some regS ∧ t.tenants.find ss.tenant = some tn
/-- Its operands and its sampling block are in order. -/
abbrev AskedFine (e : Entry) (ss : Session) (sq : Sequence) : Prop :=
  sq.sess = ss.h ∧ e.arg1.toNat < 2 ^ 33 ∧ e.arg2 = 0 ∧ ss.st ≠ .migrating ∧ e.arg0.toNat % 64 = 0 ∧ e.arg0.toNat + 1360 ≤ regS.size
    ∧ spbOk (regS.data.rd e.arg0.toNat 1360) mod0.vocab = true
/-- It fits, and its tenant has budget. -/
abbrev AskedPaid (e : Entry) (ss : Session) (sq : Sequence) (tn : Tenant) : Prop :=
  Asked e ss sq tn ∧ AskedFine e ss sq ∧ sq.committed + sq.rc + e.arg1.toNat % 2 ^ 32 ≤ (fullQ e ss sq tn).limit sq
    ∧ (tn.refill (fullQ e ss sq tn).clock).enabled = true ∧ 0 < (tn.refill (fullQ e ss sq tn).clock).level
def seqM : Sequence := { seq0 with committed := 0, table := [], keys := [] }
def sessM : Session := { sess0 with domain := 0x8001 }
def sessP : Session := { sess0 with st := .parked }
/-- 447 tokens fill the sequence up to its limit of 511; 448 do not fit. -/
theorem test_witness_RequestAdmission :
    (let e : Entry := { entR 447 with handle0 := hd 1 9 }
      let t := fullQ e sess0 seq0 ten0
      CanStart (dev t) 0 1 5 ocRequest t queue0 (cmd 1 e)
        ∧ t.firstBad 0 [([kSession], e.handle0), ([kSequence], e.handle1)] = some ([1], hd 1 9, .accessViolation))
    ∧ (let e : Entry := { entR 447 with arg2 := 1 }
      Asked e sess0 seq0 ten0 ∧ ¬ AskedFine e sess0 seq0)
    ∧ (Asked (entR 448) sess0 seq0 ten0 ∧ AskedFine (entR 448) sess0 seq0
      ∧ (fullQ (entR 448) sess0 seq0 ten0).limit seq0 < seq0.committed + seq0.rc + (entR 448).arg1.toNat % 2 ^ 32)
    ∧ (let o : Tenant := { ten0 with enabled := false }
      Asked (entR 447) sess0 seq0 o ∧ AskedFine (entR 447) sess0 seq0 ∧ (o.refill 0).enabled = false)
    ∧ (let e : Entry := { entR 447 with deadline := 3 }
      let t := { fullQ e sess0 seq0 ten0 with clock := 4 }
      AskedPaid e sess0 seq0 ten0 ∧ CanStart (dev t) 0 1 5 ocRequest t queue0 (cmd 1 e) ∧ missed 4 e.deadline = true)
    ∧ (AskedPaid (entR 0) sess0 seq0 ten0 ∧ (entR 0).arg1.getLsbD 32 = false ∧ seq0.rc + (entR 0).arg1.toNat % 2 ^ 32 = 0)
    ∧ (let q : Sequence := { seq0 with committed := 511 }
      AskedPaid (entR (2 ^ 32)) sess0 q ten0 ∧ (entR (2 ^ 32)).arg1.getLsbD 32 = true
        ∧ q.committed = (fullQ (entR (2 ^ 32)) sess0 q ten0).limit q)
    ∧ (AskedPaid (entR 447) sess0 seq0 ten0 ∧ 0 < seq0.rc + (entR 447).arg1.toNat % 2 ^ 32 ∧ sess0.st = .opened ∧ sess0.domain = 0
      ∧ missed 0 (entR 447).deadline = false)
    ∧ (AskedPaid (entR 447) sessM seqM ten0 ∧ sessM.domain ≠ 0 ∧ seqM.committed = 0 ∧ seqM.table = []
      ∧ FramesFree (dev (fullQ (entR 447) sessM seqM ten0)))
    ∧ (AskedPaid (entR (2 ^ 32)) sess0 seq0 ten0 ∧ seq0.committed < (fullQ (entR (2 ^ 32)) sess0 seq0 ten0).limit seq0)
    ∧ (AskedPaid (entR 447) sessP seq0 ten0 ∧ sessP.st ≠ .opened ∧ sessP.st ≠ .running) :=
  ⟨by decide +kernel, by decide +kernel, by decide +kernel, by decide +kernel, by decide +kernel, by decide +kernel, by decide +kernel,
   by decide +kernel, by decide +kernel, by decide +kernel, by decide +kernel⟩
/-- The header of a program image of one NOP (03 Table 3-1), and the image with its CRC. -/
def imgH : List Byte :=
  toLe 0x4B4D5831 4 ++ [1, 0, 1, 0] ++ toLe 8 4 ++ toLe 0 4 ++ toLe 4 4 ++ toLe 0 4 ++ toLe 0 4 ++ List.replicate 60 0xFF
def imgZ (n : Nat) : List Byte := List.replicate n 0
def imgQ : List Byte := imgH ++ imgZ 160 ++ toLe 1084771105187267431 8 ++ imgZ 8
/-- The CRC of the image, in three parts. -/
theorem crc_imgQ : crc64 (setFld (padTo imgQ 264) 0xF8 8 0) = 1084771105187267431 := by
  have h0 : setFld (padTo imgQ 264) 0xF8 8 0 = imgH ++ (imgZ 80 ++ imgZ 96) := by decide +kernel
  have h1 : imgH.foldl (crcByte 0xC96C5795D7870F42) 0xFFFFFFFFFFFFFFFF = 13910269358779694080 := by decide +kernel
  have h2 : (imgZ 80).foldl (crcByte 0xC96C5795D7870F42) 13910269358779694080 = 8384991000285187006 := by decide +kernel
  have h3 : (imgZ 96).foldl (crcByte 0xC96C5795D7870F42) 8384991000285187006 = 1084771105187267431 ^^^ 0xFFFFFFFFFFFFFFFF := by
    decide +kernel
  rw [h0, crc64, List.foldl_append, List.foldl_append, h1, h2, h3]
  decide +kernel
def entP : Entry := { ent0 with arg1 := 264 }
def entH (a : Word) : Entry := { ent0 with handle0 := hd 7 1, arg0 := a }
/-- QUEUE_SET of queue 2: disable, or enable with 2^12 entries. -/
def entQ (arg1 : Word) : Entry := { ent0 with handle0 := hd 6 2, arg1 := arg1 }
def cmpl0 : Completion :=
  { cid := 9, status := .ok, more := false, phase := false, sq := 1, sqHead := 0, result0 := 0, result1 := 0, committedTokens := 0
    step := 0, noIrq := false }
def fullK (l : Live) : Partition := { fullO l with queues := full0.queues ++ [(2, Queue.fresh)] }
/-- A partition whose program store is full. -/
def progZ : Program := { prog0 with code := List.replicate 262144 0 }
def fullZ (l : Live) : Partition := { fullO l with programs := [(1, progZ)] }
theorem size_fullZ (l : Live) : 2097152 < ((fullZ l).programs.map fun e => e.2.bytes).sum + 264 := by
  simp only [fullZ, List.map_cons, List.map_nil, List.sum_cons, List.sum_nil, Program.bytes, progZ, List.length_replicate]
  omega
/-- QUEUE_SET of queue 0, of one that is enabled, and with a handle that fails. -/
def entQ0 : Entry := { ent0 with handle0 := hd 6 0, handle1 := hd 7 1 }
def entQ1 : Entry := { ent0 with handle0 := hd 6 1, handle1 := hd 7 1, arg1 := 0x80000004 }
def entQB : Entry := { ent0 with handle0 := hd 6 2, handle1 := hd 7 9 }
abbrev hsQ (e : Entry) : List (List Nat × Handle) := ([kQueue], e.handle0) :: optHandle [kProgram] e.handle1
theorem test_witness_ProgramAndQueueResults :
    (let l := cmd 0x10 entP
    CanStart (dev (fullO l)) 0 1 5 ocProgLoad (fullO l) queue0 l ∧ l.ent.arg1.toNat ≤ 256 + 1048576 + 16384
      ∧ ((fullO l).programs.map fun e => e.2.bytes).sum + l.ent.arg1.toNat ≤ 2097152 ∧ LowestSlot (fullO l) 0 kProgram 0)
    ∧ imageOk (padTo imgQ 264) 264 = true ∧ imageOk (padTo [] 264) 264 = false
    ∧ (let l := cmd 0x10 entP
      CanStart (dev (fullZ l)) 0 1 5 ocProgLoad (fullZ l) queue0 l)
    ∧ ((fullO (cmdB 0x11)).entryHandle 0 [kProgram] (hd 7 9) = some .staleKey
      ∧ CanStart (dev (fullO (cmdB 0x11))) 0 1 5 ocProgPlace (fullO (cmdB 0x11)) queue0 (cmdB 0x11)
      ∧ CanStart (dev (fullO (cmdB 0x12))) 0 1 5 ocProgUnload (fullO (cmdB 0x12)) queue0 (cmdB 0x12))
    ∧ (let l := cmd 0x11 (entH 1)
      CanStart (dev (fullO l)) 0 1 5 ocProgPlace (fullO l) queue0 l ∧ (fullO l).entryHandle 0 [kProgram] l.ent.handle0 = none
      ∧ (fullO l).programs.find (hIndex l.ent.handle0) = some prog0 ∧ l.ent.arg0 &&& ~~~(fullO l).clusters = 0 ∧ prog0.st ≠ .unloading
      ∧ l.ent.arg0 ≠ 0 ∧ (∀ c ∈ clustersOf l.ent.arg0, (dev (fullO l)).cluOut c = false)
      ∧ ((fullO l).programs.map fun e => e.2.data.length).sum ≤ 65536)
    ∧ (let l := cmd 0x11 (entH 1)
      let s : State := { dev (fullO l) with clusters := [(0, { Cluster.fresh with st := .quarantined })] }
      CanStart s 0 1 5 ocProgPlace (fullO l) queue0 l ∧ ∃ c ∈ clustersOf l.ent.arg0, s.cluOut c = true)
    ∧ (let l := cmd 0x11 (entH 2)
      CanStart (dev (fullO l)) 0 1 5 ocProgPlace (fullO l) queue0 l ∧ l.ent.arg0 &&& ~~~(fullO l).clusters ≠ 0)
    ∧ (let l := cmd 0x12 (entH 0)
      let t := { fullO l with steps := [(7, { step0 with prog := 1 })] }
      CanStart (dev t) 0 1 5 ocProgUnload t queue0 l ∧ ∃ e ∈ t.steps, e.2.prog = hIndex l.ent.handle0)
    ∧ (let l := cmd 0x12 (entH 0)
      let t := fullO l
      CanStart (dev t) 0 1 5 ocProgUnload t queue0 l ∧ (∀ e ∈ t.steps, e.2.prog ≠ hIndex l.ent.handle0) ∧ prog0.h = l.ent.handle0
      ∧ (t.live.filter fun m => m.order == l.order) = [l] ∧ ∀ m ∈ t.live, m.started = true → m.ent.opcode ≠ ocProgUnload)
    ∧ (let l := cmd 0x13 entQB
      CanStart (dev (fullK l)) 0 1 5 ocQueueSet (fullK l) queue0 l
        ∧ (fullK l).firstBad 0 (hsQ l.ent) = some ([7], hd 7 9, .staleKey))
    ∧ ((let l := cmd 0x13 entQ0
        CanStart (dev (fullK l)) 0 1 5 ocQueueSet (fullK l) queue0 l ∧ (fullK l).firstBad 0 (hsQ l.ent) = none
          ∧ (fullK l).queues.find 0 = some { queue0 with priv := true })
      ∧ (let l := cmd 0x13 entQ1
        CanStart (dev (fullK l)) 0 1 5 ocQueueSet (fullK l) queue0 l ∧ (fullK l).firstBad 0 (hsQ l.ent) = none
          ∧ (fullK l).queues.find 1 = some queue0 ∧ queue0.st = .enabled ∧ l.ent.arg1.getLsbD 31 = true))
    ∧ (let l := cmd 0x13 (entQ 0)
      CanStart (dev (fullK l)) 0 1 5 ocQueueSet (fullK l) queue0 l ∧ (fullK l).firstBad 0 (hsQ l.ent) = none
      ∧ hIndex l.ent.handle0 = 2 ∧ (fullK l).queues.find 2 = some Queue.fresh ∧ l.ent.arg1.getLsbD 31 = false)
    ∧ (let l := cmd 0x13 (entQ 0xC000000C)
      CanStart (dev (fullK l)) 0 1 5 ocQueueSet (fullK l) queue0 l ∧ (fullK l).firstBad 0 (hsQ l.ent) = none
      ∧ l.ent.arg1.getLsbD 31 = true ∧ (fullK l).privCount 2 < 4
      ∧ Queue.fresh.st = .disabled ∧ l.ent.arg1.toNat % 16 = 12 ∧ l.ent.arg0.toNat % 64 = 0 ∧ (fullK l).lostCmds = [])
    ∧ (let j : Queue := { queue0 with st := .disabled }
      let t := { part0 with queues := [(0, j)] }
      (dev t).prt 0 = some t ∧ t.queues.find 0 = some j ∧ Awake (dev t) ∧ t.lostCmds = [] ∧ t.st = .active
      ∧ j.st = .disabled ∧ 1 ≤ j.depthLog ∧ j.depthLog ≤ 12)
    ∧ ((dev full1).prt 0 = some full1 ∧ (full1.queues.find 0).map (·.st) = some .enabled ∧ full1.st ≠ .fenced)
    ∧ (let k : Queue := { queue0 with st := .draining, reserved := 0 }
      let t := { part0 with queues := [(1, k)] }
      (dev t).prt 0 = some t ∧ t.queues.find 1 = some k ∧ k.waiting = [] ∧ ∀ m ∈ t.live, m.q ≠ 1)
    ∧ (let k : Queue := { queue0 with waiting := [cmpl0], posted := List.replicate 14 cmpl0 }
      let t := { part0 with queues := [(1, k)] }
      (dev t).prt 0 = some t ∧ t.queues.find 1 = some k ∧ k.waiting = cmpl0 :: [] ∧ k.posted.length + k.reserved < 2 ^ k.depthLog) :=
  ⟨by decide +kernel, by unfold imageOk; rw [crc_imgQ]; decide +kernel, by decide +kernel,
   ⟨rfl, rfl, rfl, rfl, rfl, rfl, rfl, rfl, rfl, rfl⟩, by decide +kernel, by decide +kernel,
   by decide +kernel, by decide +kernel, by decide +kernel, by decide +kernel, by decide +kernel, by decide +kernel, by decide +kernel,
   by decide +kernel, by decide +kernel, by decide +kernel, by decide +kernel, by decide +kernel⟩
/-- One request whose sequence is ready to decode, and one with a prompt of 100 tokens. -/
def reqD : Req := { req0 with spb := spb0 }
def fullD : Partition :=
  { full0 with live := [{ live0 with started := true, req := some reqD }], sequences := [(0, { seq0 with st := .decode })]
               sessions := [(0, { sess0 with st := .running })] }
def fullE : Partition :=
  { fullD with live := [{ live0 with started := true, req := some { reqD with promptLeft := 100 } }], prompts := [(1, 5)] }
def due0 : Due := ⟨1, 0, 1, 5, 0, 0, 3, false⟩
def fullG (h : Handle) : Partition :=
  { fullO { live0 with started := true, ent := { ent0 with handle0 := h } } with due := [due0] }
theorem test_witness_SchedulerResults :
    ((dev fullD).prt 0 = some fullD ∧ fullD.st = .active ∧ (dev fullD).fetching = true ∧ fullD.model? 0x103 = some mod0
      ∧ mod0.hgRank = 0 ∧ mod0.hgSize = 1 ∧ fullD.inFlight 0x103 false < fullD.maxWaves ∧ (fullD.waveLanes 0x103).length = 1
      ∧ FramesFree (dev fullD))
    ∧ ((dev fullE).prt 0 = some fullE ∧ FramesFree (dev fullE) ∧ fullE.inFlight 0x103 true < fullE.rowsInflight
      ∧ ((packRow fullE fullE.rowTokens 256 (fullE.promptOrder 0x103) 0).map (·.2)) = [100])
    ∧ ((dev (fullG (hd 7 1))).prt 0 = some (fullG (hd 7 1)) ∧ (fullG (hd 7 1)).due = [due0] ∧ due0.kind ≠ 4
      ∧ (fullG (hd 7 1)).dueBlocked due0 = false ∧ (dev (fullG (hd 7 1))).placeOf (fullG (hd 7 1)) 0 due0 = .at 1 0)
    ∧ ((dev (fullG (hd 7 2))).placeOf (fullG (hd 7 2)) 0 due0 = .refuse .staleKey ∧ due0.kind = 0
      ∧ ((fullG (hd 7 2)).liveOf due0.q due0.cid).map (·.req) = some none ∧ (fullG (hd 7 2)).dueWave due0 = none) :=
  ⟨by decide +kernel, by decide +kernel, by decide +kernel, by decide +kernel⟩
def sleeper (w : Wait) : Step := { step0 with st := .waiting w, moves := [(1, move0), (2, { move0 with done := false })], merged := [0] }
def partW (w : Wait) : Partition :=
  own { part0 with qps := [(1, { qp0 with notes := [5] })], reserves := [⟨7, 0, 16, 2, []⟩] } (sleeper w)
theorem test_witness_WaitsAndLimits :
    (∀ w ∈ [Wait.move 1, .move 2, .note 1, .eng (some 0), .equalTime, .frame, .msg none none],
      (dev (partW w)).prt 0 = some (partW w) ∧ (partW w).steps.find 7 = some (sleeper w)
      ∧ (partW w).programs.find (sleeper w).prog = some prog0 ∧ (sleeper w).st = .waiting w)
    ∧ ((sleeper (.move 1)).moves.find 1 = some move0 ∧ move0.done = true
      ∧ ((sleeper (.move 2)).moves.find 2).map (·.done) = some false
      ∧ ((partW (.note 1)).qps.find 1).map (·.notes) = some [5] ∧ 0 ∈ (sleeper (.eng (some 0))).merged)
    ∧ ((partW .frame).reserves = [⟨7, 0, 16, 2, []⟩] ∧ (dev (partW .frame)).reserveReady 0 ⟨7, 0, 16, 2, []⟩ = true
      ∧ x0.num < aheadHold 0)
    ∧ ((dev (own part0 step0)).prt 0 = some (own part0 step0) ∧ step0.st = .running ∧ step0.kind ≠ 4
      ∧ { step0 with st := .committing }.st = .committing ∧ { step0 with st := .committing }.ra = none
      ∧ { step0 with st := .waiting (.move 1), ra := some ⟨ctx0, [], [], [], 0⟩ }.ra.isSome = true) :=
  ⟨by decide +kernel, by decide +kernel, by decide +kernel, by decide +kernel⟩
def kZ : Step := { step0 with st := .committing }
def kApp : Step := { step0 with st := .applied, commitArg := some (9, false) }
def desc0 : Desc :=
  { op := 1, last := false, shared := false, prov := false, block := 0, rows := 64, quad := 0, frame := 0, layer := 0, head := 0, psize := 0
    gen := 1, cluster := 0, frameId := 0, lane := 0, sealK := 0, sealV := 0, group := 0, qtile := 0, st := .held }
theorem test_witness_CommitResults :
    (let t := own full0 kZ
     (dev t).prt 0 = some t ∧ t.steps.find 7 = some kZ ∧ kZ.num = 7 ∧ kZ.st = .committing ∧ kZ.kind = 0 ∧ kZ.hgSent = false
     ∧ (∀ d ∈ kZ.descs, d.st = .done) ∧ kZ.stale = false ∧ (∀ n ∈ kZ.emitted, n ∈ kZ.merged) ∧ t.waveOf kZ = none ∧ t.freedEarly kZ = false
       ∧ kZ.fails = []
     ∧ kZ.log = [] ∧ kZ.sess = none ∧ kZ.seq = none ∧ kZ.opened = [] ∧ kZ.sampled = none ∧ kZ.shadow = none)
    ∧ (let k : Step := { kZ with fails := [(0, .poisonConsumed)], emitted := [0], merged := [0] }
     let t := own full0 k
     (dev t).prt 0 = some t ∧ t.steps.find 7 = some k ∧ k.fails = (0, .poisonConsumed) :: [] ∧ (∀ n ∈ k.emitted, n ∈ k.merged)
     ∧ t.freedEarly k = false)
    ∧ (desc0 ∈ { kZ with descs := [desc0] }.descs ∧ desc0.st ≠ .done)
    ∧ (let l : Live := { live0 with started := true, step := some 7 }
     let t := own { full0 with live := [l] } kApp
     (dev t).prt 0 = some t ∧ t.steps.find 7 = some kApp ∧ kApp.st = .applied ∧ t.steps.wf ∧ kApp.kind = 0 ∧ kApp.recDue = false
     ∧ kApp.recJseq = none ∧ kApp.pins = [] ∧ kApp.xpins = [] ∧ kApp.log = [] ∧ t.liveOf kApp.q kApp.cid = some l ∧ l.req = none
     ∧ l.abortStatus = none ∧ l.posted1 = false ∧ kApp.final = none ∧ kApp.deferredUsed = false ∧ kApp.commitArg = some (9, false)
     ∧ t.queues.find kApp.q = some queue0 ∧ prog0.st ≠ .unloading)
    ∧ ({ kApp with recDue := true }.recDue = true ∧ { kApp with recDue := true }.recJseq = none) :=
  ⟨by decide +kernel, by decide +kernel, by decide +kernel, by decide +kernel, by decide +kernel⟩

end Sys2Proof.Test

namespace Sys2Proof.Test
open Sys2Proof.Machine Sys2Proof.Cert

def fullS (g : Group) : Partition := { full0 with groups := [(0, g)] }
def kD (d : Desc) : Step := { step0 with seq := some 0, descs := [d] }
def grpOut : Group := { grp0 with tier := .t1b, refcount := 2 }
/-- A step that has emitted layer 0 and whose one descriptor is done; its lane's message stands in the wave. -/
def kE : Step := { kD { desc0 with st := .done } with kind := 2, emitted := [0] }
def msgA : BufMsg := { mtype := mtAttend, layer := 0, lane := 0, xfmt := 0, ofmt := 0, digest := false, body := List.replicate 400 0, qp := some 1 }
def waveE : Wave := { wave0 with msgs := [(0, msgA)], arrived := [0] }
def kSh : Step := { step0 with st := .committing, shadow := some 1 }
theorem test_witness_EngineResults :
    (let t := own (fullS grp0) (kD desc0)
     (dev t).prt 0 = some t ∧ t.steps.find 7 = some (kD desc0) ∧ (kD desc0).descs[0]? = some desc0 ∧ desc0.st = .held ∧ desc0.op ≤ 5
     ∧ t.groups.find desc0.group = some grp0 ∧ hGen grp0.h = desc0.gen ∧ hPart grp0.h = x0.part.val
     ∧ (dev t).resident 0 desc0.group = true ∧ desc0.op ≠ 4 ∧ ∀ w ∈ (kD desc0).descs, w.op ≠ 4)
    ∧ (let d : Desc := { desc0 with op := 4 }
     let t := own (fullS grp0) (kD d)
     (dev t).prt 0 = some t ∧ t.steps.find 7 = some (kD d) ∧ t.groups.find d.group = some grp0 ∧ hGen grp0.h = d.gen
     ∧ hPart grp0.h = x0.part.val ∧ (dev t).resident 0 d.group = true ∧ d.op = 4 ∧ d.shared = false ∧ grp0.refcount ≤ 1)
    ∧ (let t := own (fullS grpOut) (kD desc0)
     (dev t).prt 0 = some t ∧ t.groups.find desc0.group = some grpOut ∧ hGen grpOut.h = desc0.gen ∧ hPart grpOut.h = x0.part.val
     ∧ (dev t).resident 0 desc0.group = false)
    ∧ (let g : Group := { grp0 with h := mkHandle 3 1 1 0 }
     let t := own (fullS g) (kD desc0)
     (dev t).prt 0 = some t ∧ t.groups.find desc0.group = some g ∧ hGen g.h = desc0.gen ∧ hPart g.h ≠ x0.part.val)
    ∧ (let d : Desc := { desc0 with op := 6 }
     let t := own (fullS grp0) (kD d)
     (dev t).prt 0 = some t ∧ t.steps.find 7 = some (kD d) ∧ (kD d).descs[0]? = some d ∧ d.st = .held ∧ 5 < d.op)
    ∧ (let d : Desc := { desc0 with op := 4 }
     let t := own (fullS grpOut) (kD d)
     (dev t).prt 0 = some t ∧ t.steps.find 7 = some (kD d) ∧ t.groups.find d.group = some grpOut ∧ hGen grpOut.h = d.gen
     ∧ d.st = .held ∧ hPart grpOut.h = x0.part.val ∧ d.op = 4 ∧ 1 < grpOut.refcount)
    ∧ (let d : Desc := { desc0 with gen := 2 }
     let t := own (fullS grp0) (kD d)
     (dev t).prt 0 = some t ∧ t.steps.find 7 = some (kD d) ∧ t.groups.find d.group = some grp0 ∧ hGen grp0.h ≠ d.gen ∧ d.st = .held)
    ∧ (let d : Desc := { desc0 with st := .accepted }
     let k := kD d
     let t := own (fullS grp0) k
     (dev t).prt 0 = some t ∧ t.steps.find 7 = some k ∧ t.stepModel k = some mod0 ∧ k.kind ≠ 4
     ∧ (∃ d ∈ k.descs, (d.layer == 0 && d.head == 0 && d.block / 8 == 0 && d.op != 3 && d.op != 4) = true)
     ∧ (∀ d ∈ k.descs, (d.layer == 0 && d.head == 0 && d.block / 8 == 0 && d.op != 3 && d.op != 4) = true → d.st = .accepted)
     ∧ (∀ d ∈ k.descs, d.op ≠ 2) ∧ (dev t).fetchTurn t k = true)
    ∧ (let t := own { full0 with waves := [waveE] } kE
     (dev t).prt 0 = some t ∧ t.model? 0x103 = some mod0
     ∧ t.waves.find? (fun w => w.model == 0x103 && w.batch == 1 && !w.fetch && !(w.sent.contains 0)) = some waveE
     ∧ waveE.msgs.find 0 = some msgA ∧ msgA.mtype ≠ mtStore ∧ ∀ l ∈ waveE.lanes, t.laneDone l 0 = true)
    ∧ ((dev (own part0 kSh)).prt 0 = some (own part0 kSh) ∧ (own part0 kSh).steps.find 7 = some kSh ∧ kSh.shadow = some 1
      ∧ kSh.st = .committing ∧ kSh.shadowed = false ∧ kSh.arbSweep = false
      ∧ ∀ e ∈ clustersOf (own part0 kSh).clusters, e ≠ 1 → e ≠ kSh.clu → ((dev (own part0 kSh)).clu e).st ≠ .inService) :=
  ⟨by decide +kernel, by decide +kernel, by decide +kernel, by decide +kernel, by decide +kernel, by decide +kernel, by decide +kernel,
   by decide +kernel, by decide +kernel, by decide +kernel⟩
def grpP : Group := { grp0 with tier := .t1b, move := .promoting, dest := .t0 }
def grpM (cancel : Bool) : Group := { grp0 with move := .demoting, dest := .t1b, backing := some .t1b, cancelFree := cancel }
def grpL : Group := { grp0 with move := .demoting, dest := .t0 }
def copy0 (kind : CopyKind) (left : Nat) : Copy := { part := 0, kind := kind, prio := 3, order := 1, left := left, begun := true }
def devC (t : Partition) (c : Copy) : State := { dev t with paths := [(pathKey .t1b 0, ⟨[c], some 1⟩)] }
def lowT : Partition := { full0 with groups := [(0, { grp0 with tier := .t1b, pins := 1, loc := 0 })], shareT1b := 1
                                     regions := [(0, { reg0 with home := 1, cls := 0, size := 1044480 })], warmTier := 0 }
theorem test_witness_MoveEventResults :
    (let t := fullS grpP
     let s := devC t (copy0 (.promote 0) 0)
     s.prt 0 = some t ∧ t.groups.find 0 = some grpP ∧ grpP.refcount ≠ 0 ∧ grpP.poisonCount = 0 ∧ grpP.move = .promoting
     ∧ s.copied 0 (.promote 0) = true)
    ∧ (∀ c ∈ [false, true], (devC (fullS (grpM c)) (copy0 (.demote 0) 0)).prt 0 = some (fullS (grpM c))
     ∧ (fullS (grpM c)).groups.find 0 = some (grpM c) ∧ (grpM c).refcount ≠ 0 ∧ (grpM c).poisonCount = 0 ∧ (grpM c).move = .demoting
     ∧ (grpM c).dest ≠ .t0 ∧ (grpM c).cancelFree = c ∧ (grpM c).backing = some (grpM c).dest
     ∧ (devC (fullS (grpM c)) (copy0 (.demote 0) 0)).copied 0 (.demote 0) = true)
    ∧ ((fullS grpL).groups.find 0 = some grpL ∧ grpL.move = .demoting ∧ grpL.dest = .t0 ∧ grpL.poisonCount = 0
     ∧ (devC (fullS grpL) (copy0 (.relocate 0) 0)).copied 0 (.relocate 0) = true)
    ∧ ((dev full0).prt 0 = some full0 ∧ full0.groups.find 0 = some grp0 ∧ grp0.move = .idle ∧ grp0.refcount ≠ 0 ∧ grp0.poisonCount = 0)
    ∧ (let s := devC full0 (copy0 .background 2)
     s.paths.find (pathKey .t1b 0) = some ⟨[copy0 .background 2], some 1⟩
     ∧ [copy0 .background 2].find? (fun c => some c.order = some 1 && c.left ≠ 0) = some (copy0 .background 2)
     ∧ 2 ≤ (copy0 .background 2).left ∧ (copy0 .background 2).kind = .background
     ∧ s.halted (pathKey .t1b 0) (copy0 .background 2) = false)
    ∧ ((dev lowT).prt 0 = some lowT ∧ lowT.share .t1b ≠ 0 ∧ lowT.freeBytes .t1b < lowT.lowMark .t1b ∧ lowT.lowMark .t1b ≤ lowT.highMark .t1b
     ∧ (∀ e ∈ lowT.groups, e.2.pins ≠ 0) ∧ (lowT.groups.find 0).map (·.refcount) = some 1)
    ∧ { full0 with shareT1b := 0 }.share .t1b = 0 :=
  ⟨by decide +kernel, by decide +kernel, by decide +kernel, by decide +kernel, by decide +kernel, by decide +kernel, by decide +kernel⟩
def row0 : CamRow := { key := 77, domain := 0x8001, model := 0x103, ref := false }
def shadow0 : Shadow :=
  { key := 77, domain := 0x8001, model := 0x103, node := hd 5 4, scrc := shadowCrc 77 0x8001 0x103 (hd 5 4) }
/-- Row 5 of quadrant 0 is the next to scrub; its row and shadow are given. -/
def cam0 (r : CamRow) (sh : Tab Shadow) : State := { dev full0 with cam := ⟨[(5, r)], sh, [], [], [], [5, 0, 0, 0]⟩ }
def devU (st : CluSt) (passes : Nat) : State := { dev full0 with clusters := [(0, { Cluster.fresh with st := st, passes := passes })] }
def fullI (bad : Bool) : Partition := { full0 with index := [(3, ⟨[⟨[], .t0, 0⟩], bad⟩)], groups := [(0, { grp0 with pins := 1 })] }
theorem test_witness_PatrolAndScrubResults :
    ((dev (fullI true)).prt 0 = some (fullI true) ∧ ((fullI true).index.find 3).map (·.bad) = some true)
    ∧ (let s := cam0 row0 [(5, shadow0)]
     s.prt 0 = some full0 ∧ s.cam.scrub[(0 : Quad).val]? = some 5 ∧ s.cam.rows.find (0 * 262144 + 5) = some row0
     ∧ s.cam.shadows.find (0 * 262144 + 5) = some shadow0 ∧ shadow0.scrc = shadowCrc shadow0.key shadow0.domain shadow0.model shadow0.node
     ∧ row0.key = shadow0.key ∧ row0.domain = shadow0.domain ∧ row0.model = shadow0.model)
    ∧ ((cam0 { row0 with key := 76 } [(5, shadow0)]).cam.rows.find 5 = some { row0 with key := 76 } ∧ (76 : Key128) ≠ shadow0.key)
    ∧ ((cam0 row0 []).cam.rows.find 5 = some row0 ∧ (cam0 row0 []).cam.rows.wf ∧ (cam0 row0 []).cam.shadows.find 5 = none)
    ∧ ((fullI false).groups.find 0 = some { grp0 with pins := 1 } ∧ { grp0 with pins := 1 }.pinned = true ∧ (fullI false).index.has 3 = true)
    ∧ ((devU .inService 0).resweep.contains (0 : Clu).val = false
     ∧ ((devU .inService 0).ergotPairs ((0 : Clu).val / 16)).find? (fun e => e.1 == (0 : Clu).val || e.2 == (0 : Clu).val) = some (0, 1)
     ∧ ((devU .inService 0).clu 1).st = .inService)
    ∧ (((devU .quarantined 2).clu 0).st = .quarantined ∧ ((devU .quarantined 2).clu 0).passes < 3
     ∧ ((devU .quarantined 3).clu 0).st = .quarantined ∧ ((devU .quarantined 3).clu 0).passes = 3) :=
  ⟨by decide +kernel, by decide +kernel, by decide +kernel, by decide +kernel, by decide +kernel, by decide +kernel, by decide +kernel⟩
/-- A message of batch 1 for model 0x103. -/
def msg0 (mt layer count : Nat) (body : List Byte) : Msg :=
  { mtype := BitVec.ofNat 8 mt, digest := false, ofmt := 0, xfmt := 0, modelId := 0x103, batch := 1, layer := layer, count := count
    bytes := body.length, body := body, sum := 0 }
/-- A head group: queue pair 5 leads to the other member. -/
def modH (rank : Nat) : ModelDesc := { mod0 with hgSize := 2, hgRank := rank, hgQp := List.replicate 8 5 }
def fullH (rank : Nat) (ws : List Wave) : Partition := { full0 with models := [(3, ⟨1, some (modH rank)⟩)], waves := ws }
def laneRecH : List Byte := [0, 15, 0, 0] ++ toLe 0 4 ++ toLe 64 4 ++ toLe 3 4
def rowBody : List Byte := [0, 0, 1, 0] ++ toLe 0 4 ++ toLe 64 4 ++ toLe 64 4 ++ List.replicate 512 0
def recA : List Byte := [0, 1, 0, 0] ++ toLe 0 4 ++ toLe 64 4 ++ toLe 3 4 ++ List.replicate 384 0
def waveR : Wave := { wave0 with row := true, tokens := [(3, 0)] }
def fullB (w : Wave) : Partition := { full0 with waves := [w] }
/-- A prefill row's segment of one token at position 1, whose message stands in slot 0. -/
def msgR : BufMsg := { msgS with mtype := mtPrefillRow }
def kAR : Step :=
  { kA with ctx := (withG kA [(1, mkToken mtPrefillRow 0 0 0)]).ctx, kind := 1, batch := 1, msgs := [(0, msgR)] }
def fullAR : Partition := { fullA with waves := [{ waveR with lanes := [{ lane0 with pos := 1 }] }] }
theorem test_witness_AppendOfARow :
    let t := own fullAR kAR
    (Running (rig fullAR kAR) x0 t kAR prog0 ∧ kAR.num = x0.num ∧ Passes t x0 kAR kSequence (kAR.ctx.rh 1)
      ∧ kAR.tokenMsg (kAR.ctx.rg 1) = some msgR ∧ kAR.seq = some 0 ∧ kAR.appended = none
      ∧ t.entryOf kAR 0 (1 / 64) = some (hd 3 0)
      ∧ (t.groups.find (hIndex (hd 3 0))).map (·.openedBy) = some (some x0.num))
    ∧ ∃ pl, t.newRows kAR mod0 msgR = some (1, 1, pl, 1) :=
  ⟨by decide +kernel, _, rfl⟩
theorem test_witness_WaveMessageResults :
    (let t := fullH 1 []
     let m := msg0 mtWaveOpen 0xFFFF 1 laneRecH
     GoodMsg (dev t) 0 mtWaveOpen m t (modH 1) ∧ (modH 1).leads = false ∧ (modH 1).memberOf 5 = some 0 ∧ msgSized m 16 = true
     ∧ 1 ≤ m.count ∧ m.count ≤ 256 ∧ t.batchOf (modH 1).modelId m.batch = none ∧ m.batch % 1024 ≠ 0 ∧ msgRecs m 16 = [laneRecH]
     ∧ fld laneRecH 0 1 = 0 ∧ fld laneRecH 1 1 ≤ 15 ∧ fld laneRecH 2 2 = 0 ∧ t.byHgSeq (fld laneRecH 4 4) = some 0
     ∧ t.sequences.find 0 = some seq0 ∧ seq0.committed = fld laneRecH 8 4
     ∧ distinct ((msgRecs m 16).map fun b => fld b 4 4) = true ∧ FramesFree (dev t))
    ∧ (let t := fullH 1 []
     let m := msg0 mtRowOpen 0xFFFF 1 rowBody
     GoodMsg (dev t) 0 mtRowOpen m t (modH 1) ∧ m.body.length = 16 + 8 * 64 ∧ (msgRecs m 16).getD 0 [] = rowBody.take 16
     ∧ fld (rowBody.take 16) 0 2 = 0 ∧ fld (rowBody.take 16) 2 1 ≤ 1 ∧ fld (rowBody.take 16) 3 1 = 0 ∧ fld (rowBody.take 16) 0xC 4 = 64
     ∧ t.byHgSeq (fld (rowBody.take 16) 4 4) = some 0 ∧ seq0.committed = fld (rowBody.take 16) 8 4
     ∧ (∀ b ∈ chunksOf 8 64 (m.body.drop 16), fld b 4 4 = 0) ∧ FramesFree (dev t))
    ∧ (let t := fullB wave0
     let m := msg0 mtAttend 0 1 recA
     GoodMsg (dev t) 0 mtAttend m t mod0 ∧ mod0.memberOf 1 = none ∧ t.batchOf mod0.modelId m.batch = some wave0 ∧ wave0.row = false
     ∧ m.count = wave0.lanes.length ∧ splitRecs mod0 true m.count m.body = [recA] ∧ ([recA].map List.length).sum = m.body.length
     ∧ 1 ≤ fld recA 1 1 ∧ recA.length = mod0.recBytes (fld recA 1 1) true ∧ m.layer = wave0.arrived.length
     ∧ m.layer < mod0.layers ∧ laneBad wave0 none [recA] 0 lane0 = false)
    ∧ (let w : Wave := { wave0 with arrived := [0] }
     let m := msg0 mtAttend 0 1 recA
     GoodMsg (dev (fullB w)) 0 mtAttend m (fullB w) mod0 ∧ (fullB w).batchOf mod0.modelId m.batch = some w ∧ m.layer ∈ w.arrived)
    ∧ (let t := fullB waveR
     let m := msg0 mtPrefillRow 0 1 (List.replicate 384 0)
     GoodMsg (dev t) 0 mtPrefillRow m t mod0 ∧ t.batchOf mod0.modelId m.batch = some waveR ∧ waveR.row = true
     ∧ m.body.length = 2 * mod0.headDim * waveR.tokens.length * mod0.kvHeads * (mod0.qPerKv + 2) ∧ m.layer = waveR.arrived.length)
    ∧ (let t := fullB wave0
     let m := msg0 mtLogits 0xFFFF 1 recL
     GoodMsg (dev t) 0 mtLogits m t mod0 ∧ mod0.leads = true ∧ m.layer = 0xFFFF ∧ t.batchOf mod0.modelId m.batch = some wave0
     ∧ splitLogits mod0.vocab m.count m.body = ([recL], true) ∧ logitsHeadBad mod0.vocab recL = false ∧ wave0.lanes[fld recL 0 1]? = some lane0
       ∧ fld recL 4 4 = lane0.hgSeq
     ∧ wave0.msgs.find (logitsKey (fld recL 0 1)) = none)
    ∧ (let m := msg0 mtFetch 0xFFFF 1 (List.replicate 80 0)
     GoodMsg (dev full0) 0 mtFetch m full0 mod0 ∧ mod0.memberOf 1 = none ∧ full0.byHgSeq (fetchReq m.body).hgSeq = some 0
     ∧ m.body.length = 80 ∧ m.count = 1 ∧ fld m.body 0x2C 4 = 0 ∧ fld m.body 0x4C 4 = 0 ∧ FramesFree (dev full0)) :=
  ⟨by decide +kernel, by decide +kernel, by decide +kernel, by decide +kernel, by decide +kernel, by decide +kernel, by decide +kernel⟩
theorem test_witness_MessagesAreChecked :
    (dev full0).prt 0 = some full0 ∧ full0.model? { msg0 mtFetch 0 1 [] with modelId := 0x203 }.modelId = none
    ∧ (msg0 mtFetch 0 1 []).mtype.toNat ≠ mtRoute ∧ { msg0 mtFetch 0 1 [] with bytes := 1 }.bytes ≠ 0 := by decide +kernel
def kHg : Step := { step0 with st := .committing, hgSent := true }
/-- A variant's entry: 16 bytes of region 0. -/
def entV : List Byte := b8 (hd 4 0).toNat ++ b8 0 ++ b8 0 ++ toLe 16 4 ++ [1, 0, 0, 0]
def regK : Region := { reg0 with h := hd 4 1, st := .valid, registered := true, rkey := 0x1000001 }
def fullV2 : Partition := { full0 with variants := [(0, entV)], regions := [(0, reg0), (1, regK)] }
theorem test_witness_HeadGroupResults :
    (let t := fullH 0 [wave0]
     let b : List Byte := [0, 0, 0, 0, 0, 0, 0, 0]
     let m := msg0 mtHgReady 0xFFFF 1 b
     GoodMsg (dev t) 0 mtHgReady m t (modH 0) ∧ (modH 0).leads = true ∧ (modH 0).memberOf 5 = some 1 ∧ msgSized m 8 = true
     ∧ t.batchOf (modH 0).modelId m.batch = some wave0 ∧ msgRecs m 8 = [b] ∧ wave0.lanes[fld b 0 1]? = some lane0
     ∧ lane0.hgSeq = fld b 4 4 ∧ fld b 1 1 = Status.ok.code.toNat ∧ wave0.ready = [])
    ∧ (let t := own (fullH 1 [wave0]) kHg
     let b : List Byte := List.replicate 8 0 ++ toLe 65 4
     let m := msg0 mtHgCommit 0xFFFF 1 b
     GoodMsg (dev t) 0 mtHgCommit m t (modH 1) ∧ (modH 1).memberOf 5 = some 0 ∧ msgSized m 12 = true ∧ msgRecs m 12 = [b]
     ∧ lane0.step = some 7 ∧ t.steps.find 7 = some kHg ∧ kHg.num = 7 ∧ kHg.st = .committing ∧ kHg.hgSent = true)
    ∧ (let t := own (fullH 1 [wave0]) kHg
     let b : List Byte := [0, 4, 0, 0, 0, 0, 0, 0]
     let m := msg0 mtHgSquash 0xFFFF 1 b
     GoodMsg (dev t) 0 mtHgSquash m t (modH 1) ∧ msgSized m 8 = true ∧ msgRecs m 8 = [b] ∧ lane0.ended = false
     ∧ fld b 1 1 = Status.aborted.code.toNat)
    ∧ (let t := own (fullH 0 [wave0]) kHg
     (dev t).prt 0 = some t ∧ t.model? (modH 0).modelId = some (modH 0) ∧ 1 < (modH 0).hgSize ∧ t.batchOf (modH 0).modelId 1 = some wave0
     ∧ wave0.lead = true ∧ wave0.lanes[0]? = some lane0 ∧ t.steps.find 7 = some kHg ∧ (wave0.followers (modH 0) 0).2 = false)
    ∧ (let t := fullH 1 []
     let b := List.replicate 24 (0 : Byte)
     let m := msg0 mtHgDigestRes 0xFFFF 1 b
     GoodMsg (dev t) 0 mtHgDigestRes m t (modH 1) ∧ msgSized m 24 = true ∧ msgRecs m 24 = [b] ∧ fld b 0x12 1 = 0)
    ∧ (let h : ModelDesc := { modH 0 with hgSize := 3 }
     let t : Partition := { full0 with models := [(3, ⟨1, some h⟩)] }
     let b := List.replicate 48 (0 : Byte)
     let m := msg0 mtHgDigest 0xFFFF 1 b
     GoodMsg (dev t) 0 mtHgDigest m t h ∧ h.leads = true ∧ h.memberOf 5 = some 1 ∧ msgSized m 48 = true ∧ msgRecs m 48 = [b]
     ∧ t.replicas.digests = [] ∧ t.replicas.again = [] ∧ 2 < h.hgSize)
    ∧ (let b : List Byte := List.replicate 8 0 ++ toLe 0x1000001 4 ++ List.replicate 20 0
     let m := msg0 mtRoute 0xFFFF 1 b
     GoodMsg (dev fullV2) 0 mtRoute m fullV2 mod0 ∧ msgSized m 32 = true ∧ msgRecs m 32 = [b] ∧ routeRsvOk b = true ∧ fld b 2 2 < mod0.layers
       ∧ fld b 0 1 < 64
     ∧ fld b 4 2 < 1024 ∧ fullV2.variants.find (fld b 0 1 * 1024 + fld b 4 2) = some entV
     ∧ fullV2.genOf kRegion 0 = hGen (BitVec.ofNat 64 (fld entV 0 8)) ∧ (dev fullV2).resolve 0 0 = some (0, 0, reg0)
     ∧ fullV2.byRkey (BitVec.ofNat 32 (fld b 8 4)) = some 1 ∧ fullV2.regions.find 1 = some regK ∧ regK.st = .valid
     ∧ fld b 0x10 8 + fld entV 0x18 4 ≤ regK.size ∧ 0 + fld entV 0x18 4 ≤ reg0.size ∧ reg0.st ≠ .unbindable
     ∧ reg0.poisoned 0 (fld entV 0x18 4) = false) :=
  ⟨by decide +kernel, by decide +kernel, by decide +kernel, by decide +kernel, by decide +kernel, by decide +kernel, by decide +kernel⟩

end Sys2Proof.Test

namespace Sys2Proof.Test
open Sys2Proof.Machine Sys2Proof.Cert

def rev0 (step : Option Nat) (seqs : List RevSeq) (hg : Bool) : Revival :=
  { mask := 1, step := step, waiters := [], seqs := seqs, promos := [], oldTtl := 0, hgGot := [], hgWait := hg, committed := false
    ctl := [] }
def kV4 (st : StepSt) : Step := { step0 with kind := 4, st := st, sess := some 0 }
def fullL (rank size : Nat) (rv : Tab Revival) (st : StepSt) : Partition :=
  own { full0 with models := [(3, ⟨1, some { modH rank with hgSize := size }⟩)], revivals := rv
                   sessions := [(0, { sess0 with st := .reviving })] } (kV4 st)
def sessV : Session := { sess0 with st := .reviving }
/-- The session is PARKED and its revival waits for a frame. -/
def revZ : Partition := { fullL 0 1 [(0, rev0 none [] false)] .running with sessions := [(0, sessP)] }
/-- A RUN waits for a frame of the one cluster. -/
def revZ2 : Partition :=
  { revZ with due := [due0], live := [{ live0 with started := true, ent := { ent0 with handle0 := hd 7 1 } }] }
def bodyV (n : Nat) : List Byte := toLe 0 4 ++ toLe n 4
theorem test_witness_RevivalResults :
    (let t := revZ
     (dev t).prt 0 = some t ∧ t.model? sessP.model = some { modH 0 with hgSize := 1 } ∧ t.sessions.find 0 = some sessP
     ∧ t.revivals.find 0 = some (rev0 none [] false) ∧ t.st = .active ∧ (dev t).fetching = true ∧ sessP.st = .parked
     ∧ (dev t).revivalCluster 0 t = some 0
     ∧ bitOf (rev0 none [] false).mask 0 = true ∧ sessP.seqs[0]? = some (hd 2 0) ∧ (∀ i, i < 4 → 1 ≤ i → bitOf (rev0 none [] false).mask i = false)
     ∧ t.sequences.find (hIndex (hd 2 0)) = some seq0 ∧ seq0.blocks = 1 ∧ seq0.table.find 0 = some (hd 3 0)
     ∧ t.groups.find (hIndex (hd 3 0)) = some grp0 ∧ grp0.tier = .t0 ∧ grp0.move = .idle)
    ∧ (let t := fullL 0 1 [(0, rev0 none [] false)] .running
     t.sessions.find 0 = some sessV ∧ sessV.st ≠ .parked ∧ t.revivals.wf ∧ (rev0 none [] false).committed = false
     ∧ t.st = .active ∧ (dev t).fetching = true)
    ∧ (∀ c ∈ clustersOf revZ.clusters, { dev revZ with clusters := [(0, { Cluster.fresh with st := .quarantined })] }.cluOut c = true)
    ∧ (0 ∈ clustersOf revZ2.clusters ∧ (dev revZ2).cluOut 0 = false ∧ (dev revZ2).revivalCluster 0 revZ2 = none
     ∧ revZ2.sessions.find 0 = some sessP ∧ revZ2.revivals.find 0 = some (rev0 none [] false))
    ∧ ({ dev part0 with power := { power0 with serviceReady := false } }.fetching = false)
    ∧ (let e : RevSeq := ⟨0, 1, some 0⟩
     let t := fullL 0 1 [(0, rev0 (some 7) [e] false)] .committing
     (dev t).prt 0 = some t ∧ t.revivals.find 0 = some (rev0 (some 7) [e] false) ∧ t.steps.find 7 = some (kV4 .committing)
     ∧ (kV4 .committing).log = [] ∧ t.sequences.find e.seq = some seq0
     ∧ t.compat = false ∧ (dev t).journalShort 0 = false)
    ∧ ((fullL 0 1 [(0, rev0 (some 7) [] false)] .applied).steps.find 7 = some (kV4 .applied) ∧ (kV4 .applied).st ≠ .committing)
    ∧ (let t := fullL 0 2 [] .committing
     let m := msg0 mtHgRevive 0xFFFF 1 (bodyV 3)
     (dev t).prt 0 = some t ∧ t.model? m.modelId = some (modH 0) ∧ (modH 0).leads = true ∧ (modH 0).memberOf 5 = some 1
     ∧ m.mtype.toNat = mtHgRevive ∧ msgSized m 8 = true ∧ t.revivals = [])
    ∧ (let t := fullL 0 3 [(0, rev0 (some 7) [⟨0, 1, none⟩] true)] .committing
     let m := msg0 mtHgRevive 0xFFFF 1 (bodyV 3)
     let d : ModelDesc := { modH 0 with hgSize := 3 }
     (dev t).prt 0 = some t ∧ t.model? m.modelId = some d ∧ d.leads = true ∧ d.memberOf 5 = some 1 ∧ msgSized m 8 = true
     ∧ msgRecs m 8 = [bodyV 3] ∧ t.revivalBySeq (fld (bodyV 3) 0 4) = some 0
     ∧ t.revivals.find 0 = some (rev0 (some 7) [⟨0, 1, none⟩] true) ∧ t.sessModel 0 = some d
     ∧ t.hgRevived d { rev0 (some 7) [⟨0, 1, none⟩] true with hgGot := [(1, 0, 3)] } = false)
    ∧ (let t := fullL 1 2 [(0, rev0 none [] false)] .committing
     let m := msg0 mtHgReviveK 0xFFFF 1 (bodyV 1)
     (dev t).prt 0 = some t ∧ t.model? m.modelId = some (modH 1) ∧ msgRecs m 8 = [bodyV 1]
     ∧ t.revivalHolding (fld (bodyV 1) 0 4) = some 0 ∧ t.revivals.find 0 = some (rev0 none [] false) ∧ (rev0 none [] false).hgWait = false)
    ∧ (∀ n ∈ [0xFFFFFFFF, 1], let t := fullL 1 2 [(0, rev0 (some 7) [⟨0, 1, none⟩] true)] .committing
     let m := msg0 mtHgReviveK 0xFFFF 1 (bodyV n)
     (dev t).prt 0 = some t ∧ t.model? m.modelId = some (modH 1) ∧ (modH 1).leads = false ∧ (modH 1).memberOf 5 = some 0
     ∧ m.mtype.toNat = mtHgReviveK ∧ msgSized m 8 = true ∧ msgRecs m 8 = [bodyV n] ∧ t.revivalHolding (fld (bodyV n) 0 4) = some 0
     ∧ t.steps.find 7 = some (kV4 .committing) ∧ t.hgSeqOf 0 = fld (bodyV n) 0 4 ∧ fld (bodyV n) 4 4 = n
     ∧ t.groupsThrough (kV4 .committing) 0 1 = [hd 3 0] ∧ t.groups.find (hIndex (hd 3 0)) = some grp0)
    ∧ (let t := fullL 0 2 [(0, rev0 (some 7) [⟨0, 1, none⟩] true)] .committing
     (dev t).prt 0 = some t ∧ (modH 0).leads = true ∧ (rev0 (some 7) [⟨0, 1, none⟩] true).hgWait = true ∧ t.revivals.wf) :=
  ⟨by decide +kernel, by decide +kernel, by decide +kernel, by decide +kernel, by decide +kernel, by decide +kernel, by decide +kernel,
   by decide +kernel, by decide +kernel, by decide +kernel, by decide +kernel, by decide +kernel⟩
/-- Migration 77 of queue 1's command 5. -/
def mig0 (source imported confirmed : Bool) (sess : Option Nat) (jseq : Option Nat) : Migration :=
  { source := source, id := 77, sess := sess, hSess := hd 1 0, qp := 1, pmode := 0, q := 1, cid := 5, region := 0, fields := toLe 0 4 ++ toLe 0x103 2
    records := [], imported := imported, confirmed := confirmed, jseq := jseq, hadReason := 0 }
def fullJ (g : Migration) : Partition := { full0 with migrations := [(77, g)], sessions := [(0, { sess0 with st := .migrating })] }
def migB (st : Nat) : List Byte := b8 77 ++ toLe st 8
theorem test_witness_MigrationResults :
    (∀ g ∈ [mig0 false false false none none, mig0 false true false (some 0) (some 1), mig0 true false false (some 0) none,
        mig0 false true true (some 0) (some 0), mig0 true false true (some 0) (some 1)],
      (dev (fullJ g)).prt 0 = some (fullJ g) ∧ (fullJ g).migrations.find g.id.toNat = some g ∧ (fullJ g).migrations.wf ∧ g.q = 1
      ∧ (fullJ g).queues.find 1 = some queue0 ∧ (fullJ g).liveOf 1 g.cid = some live0 ∧ live0.req = none ∧ live0.abortStatus = none
      ∧ live0.posted1 = false)
    ∧ (let g := mig0 false false false none none
     g.source = false ∧ g.imported = false ∧ (∀ r ∈ ([⟨1, 77, true, true, []⟩, ⟨5, 77, false, true, []⟩] : List MigStreamRec), r.migId = g.id)
     ∧ (fullJ g).model? (BitVec.ofNat 16 (fld g.fields 4 2)) = some mod0)
    ∧ (let g := mig0 false true false (some 0) (some 1)
     let s := { dev (fullJ g) with journals := [(0, { Journal.empty with durable := 1 })] }
     g.jseq = some 1 ∧ 1 ≤ (s.journal 0).durable ∧ ((dev (fullJ g)).journal 0).durable < 1)
    ∧ (∀ e ∈ [mtMigConfirm, mtMigRelease, mtMigCancel, mtMigQuery, mtMigAnswer], migRead e (msg0 e 0xFFFF 1 (migB 4)) = some (77, 4))
    ∧ (migRead mtMigAnswer (msg0 mtMigAnswer 0xFFFF 1 (migB 0)) = some (77, Status.ok.code.toNat) ∧ 4 ≠ Status.ok.code.toNat)
    ∧ (let g := mig0 false true true (some 0) (some 0)
     g.confirmed = true ∧ (fullJ g).sessions.find 0 = some { sess0 with st := .migrating } ∧ sess0.h = g.hSess ∧ (fullJ g).sessions.wf)
    ∧ (let g := mig0 false false true none none
     g.source = false ∧ g.sess = none ∧ g.confirmed = true ∧ (dev (fullJ g)).prt 0 = some (fullJ g))
    ∧ (let t : Partition := { full0 with migHistory := [(77, .ok)] }
     t.migrations.find 77 = none ∧ t.migHistory.find? (fun e => e.1 == 77) = some (77, .ok) ∧ ∀ e ∈ t.migHistory, e.1 ≠ (78 : Word)) :=
  ⟨by decide +kernel, by decide +kernel, by decide +kernel, by decide +kernel, by decide +kernel, by decide +kernel, by decide +kernel,
   by decide +kernel⟩

end Sys2Proof.Test

namespace Sys2Proof.Test
open Sys2Proof.Machine Sys2Proof.Cert

/-- A packet from the peer of queue pair 1, the one it expects. -/
def pkt0 : Pkt :=
  { src := 2, dst := 1, fin := false, areq := false, trigOn := false, first := true, last := true, ece := false, pause := false, tc := 0
    ptag := 5, tenant := 2, dqp := 1, sqp := 9, psn := 1, rkey := 0, aux := 0, roff := 0, trig := 0, ce := false, payload := [1, 2, 3, 4] }
/-- A device whose port 0 is up. -/
def devN (t : Partition) : State := { dev t with ports := [(0, { Port.reset with up := true })] }
/-- Region 1 lies in T0, is registered, and 4 bytes of it end at its end. -/
def regW : Region := { reg0 with h := hd 4 1, home := 0, cls := 0, registered := true, rkey := 0x1000001 }
def regV : Region := { regW with st := .valid }
def fullT (q : Qp) (r : Region) : Partition := { full0 with qps := [(1, q)], regions := [(1, r)] }
def pktW : Pkt := { pkt0 with rkey := 0x1000001, roff := 8188 }
theorem test_witness_PacketResults :
    (let t := fullT qp0 regW
     InOrder (devN t) 0 opWrite pktW 0 t qp0 ∧ t.genOf kRegion (pktW.rkey.toNat % 65536) = pktW.rkey.toNat / 2 ^ 24
     ∧ t.regions.find (pktW.rkey.toNat % 65536) = some regW ∧ regW.registered = true ∧ regW.rkey = pktW.rkey ∧ regW.st = .uploading
     ∧ pktW.roff.toNat + pktW.payload.length ≤ regW.size ∧ t.cold regW pktW.roff.toNat pktW.payload.length = [] ∧ pktW.trigOn = false)
    ∧ (let t := { full0 with regions := [] }
     let k : Pkt := { pkt0 with rkey := 0x1000009 }
     InOrder (devN t) 0 opWrite k 0 t qp0 ∧ t.regions.find (k.rkey.toNat % 65536) = none
     ∧ t.genOf kRegion (k.rkey.toNat % 65536) = k.rkey.toNat / 2 ^ 24)
    ∧ (let q : Qp := { qp0 with recvRegion := hd 4 1 }
     let t := fullT q regW
     let k : Pkt := { pkt0 with roff := 0x200000000000 }
     InOrder (devN t) 0 opSend k 0 t q ∧ k.fin = false ∧ q.recvRegion ≠ 0 ∧ t.genOf kRegion (hIndex q.recvRegion) = hGen q.recvRegion
     ∧ t.regions.find (hIndex q.recvRegion) = some regW ∧ regW.st ≠ .unbindable ∧ k.roff.toNat / 2 ^ 32 = regW.size
     ∧ k.roff.toNat % 2 ^ 32 + k.payload.length ≤ k.roff.toNat / 2 ^ 32 ∧ q.msgOf k.aux.toNat = none ∧ q.ringUsed + k.roff.toNat / 2 ^ 32 ≤ regW.size
     ∧ t.cold regW ((q.ringAt + k.roff.toNat % 2 ^ 32) % regW.size) 4 = [] ∧ t.cold regW 0 0 = [] ∧ regW.size = 8192)
    ∧ (let t := fullT qp0 regV
     let k : Pkt := { pktW with payload := [], aux := 4 }
     InOrder (devN t) 0 opReadReq k 0 t qp0 ∧ k.fin = false ∧ k.areq = false ∧ k.ce = false ∧ qp0.unacked = 0
     ∧ t.regions.find (k.rkey.toNat % 65536) = some regV ∧ regV.registered = true ∧ regV.rkey = k.rkey ∧ regV.st = .valid ∧ 0 < k.aux.toNat
     ∧ k.aux.toNat ≤ qp0.payload ∧ k.roff.toNat + k.aux.toNat ≤ regV.size ∧ regV.poisoned k.roff.toNat k.aux.toNat = false
     ∧ t.cold regV k.roff.toNat k.aux.toNat = [])
    ∧ (InOrder (devN full0) 0 opDisconnect pkt0 0 full0 qp0 ∧ full0.qps.wf)
    ∧ (let q : Qp := { qp0 with passive := true, st := .init, peerAddr := 0, peerQpn := 0 }
     Admitted (devN (fullT q regW)) 0 pkt0 0 (fullT q regW) ∧ (fullT q regW).accepts pkt0 = some q)
    ∧ (Admitted (devN full0) 0 pkt0 0 full0 ∧ full0.accepts pkt0 = none)
    ∧ ((dev full0).prtNo (0 : PortNo).val).up = false
    ∧ (((devN full0).prtNo (0 : PortNo).val).up = true ∧ 9216 < (devN full0).frameLen 0 { pkt0 with payload := List.replicate 9217 0 })
    ∧ (Admitted (devN full0) 0 { pkt0 with dqp := 2 } 0 full0 ∧ { pkt0 with dqp := 2 }.roff.toNat < 2 ^ 32
      ∧ full0.qps.find 2 = none) :=
  ⟨by decide +kernel, by decide +kernel, by decide +kernel, by decide +kernel, by decide +kernel, by decide +kernel, by decide +kernel, by decide +kernel,
   by decide +kernel, by decide +kernel⟩
def work0 : WorkReq :=
  { id := 1, op := 2, final := true, trigOn := false, areq := false, rkey := 0, region := hd 4 1, loff := 0, roff := 0, len := 4, trig := 0
    tag := 6, data := none, chain := none, msgNum := 0, sent := 4, psn := 1, got := [], status := .ok, acked := false }
def out0 : OutPkt :=
  { psn := 1, wr := 1, off := 0, len := 4, last := true, sentAt := 0, times := 1, acked := false, holeSent := false, notBefore := 0 }
def qpO : Qp := { qp0 with work := [work0], out := [out0], sndNxt := 2, inflight := 4 }
def workR : WorkReq := { work0 with op := 3, final := false, len := 8, sent := 1, psn := 1 }
def qpC : Qp := { qp0 with st := .connecting, waiter := some (1, 5) }
theorem test_witness_AnswerResults :
    (let t := fullT qpO regW
     let k : Pkt := { pkt0 with aux := 2 }
     FromPeer (devN t) 0 opAck k 0 t qpO ∧ qpO.st = .ready ∧ out0.acked = false ∧ out0.wr = work0.id ∧ out0.last = true
     ∧ work0.final = true ∧ work0.op ≠ 3 ∧ work0.chain = none ∧ work0.data = none ∧ work0.status = .ok
     ∧ psnDiff out0.psn (k.aux.truncate 24) < 0 ∧ k.pause = false)
    ∧ (let k : Pkt := { pkt0 with pause := true }
     FromPeer (devN full0) 0 opAck k 0 full0 qp0 ∧ qp0.out = [] ∧ qp0.work = [] ∧ qp0.st = .ready ∧ k.pause = true)
    ∧ (let k : Pkt := { pkt0 with aux := 0x42000001 }
     FromPeer (devN full0) 0 opNak k 0 full0 qp0 ∧ k.aux.toNat / 2 ^ 24 = Status.resendAfter.code.toNat)
    ∧ (let t := fullT qpO regW
     let k : Pkt := { pkt0 with aux := 0x20000001 }
     FromPeer (devN t) 0 opNak k 0 t qpO ∧ out0.psn = k.aux.truncate 24 ∧ k.aux.toNat / 2 ^ 24 = Status.accessViolation.code.toNat)
    ∧ (let q : Qp := { qp0 with work := [workR] }
     let t := fullT q regW
     let k : Pkt := { pkt0 with aux := 1, roff := 4 }
     FromPeer (devN t) 0 opReadResp k 0 t q ∧ (∀ e ∈ q.work, e.final = false) ∧ (∀ e ∈ q.work, (if e.op = 3 then 1 else e.len) ≤ e.sent)
     ∧ q.work.find? (fun w => w.op == 3 && w.sent != 0 && w.psn == BitVec.truncate 24 k.aux) = some workR
     ∧ k.roff.toNat + k.payload.length ≤ workR.len ∧ workR.got.contains k.roff.toNat = false
     ∧ t.genOf kRegion (hIndex workR.region) = hGen workR.region ∧ t.regions.find (hIndex workR.region) = some regW)
    ∧ (let t := fullT qpC regW
     let k : Pkt := { pkt0 with aux := 0 }
     FromPeer (devN t) 0 opConnectRep k 0 t qpC ∧ qpC.st = .connecting ∧ qpC.work = [] ∧ qpC.waiter = some (1, 5)
     ∧ t.queues.find 1 = some queue0 ∧ t.liveOf 1 5 = some live0 ∧ live0.req = none ∧ live0.abortStatus = none ∧ live0.posted1 = false
     ∧ k.aux.toNat / 2 ^ 24 = 0)
    ∧ (let t := fullT qpC regW
     let k : Pkt := { pkt0 with aux := 0x40000000 }
     FromPeer (devN t) 0 opConnectRep k 0 t qpC ∧ k.aux.toNat / 2 ^ 24 = Status.notReady.code.toNat) :=
  ⟨by decide +kernel, by decide +kernel, by decide +kernel, by decide +kernel, by decide +kernel, by decide +kernel, by decide +kernel⟩
def outM : OutPkt := { out0 with wr := 1 }
def workM : WorkReq := { work0 with op := 1, data := some [1, 2] }
theorem test_witness_TransportTimers :
    (∀ q ∈ [{ qp0 with stalledAt := some 0 }, { qp0 with stalledAt := some 0, held := [⟨opWrite, pkt0, true⟩] }, qp0,
        { qp0 with unacked := 2 }, { qp0 with out := [outM], timeouts := 6 }, { qp0 with out := [outM], work := [workM] },
        { qp0 with st := .connecting, tries := 7 }, { qp0 with st := .connecting, tries := 8 }, { qp0 with st := .draining }],
      (devN (fullT q regW)).prt 0 = some (fullT q regW) ∧ (fullT q regW).qps.find 1 = some q ∧ (fullT q regW).qps.wf)
    ∧ (qp0.stalledAt = none ∧ (∀ o ∈ qp0.out, o.notBefore = 0) ∧ qp0.work = [] ∧ qp0.unacked = 0 ∧ qp0.out = [] ∧ qp0.st ≠ .draining)
    ∧ (outM.notBefore ≤ ((devN full0).prtNo 0).time ∧ qp0.ctl.retryMax ≤ 6 + 1 ∧ qp0.timeouts + 1 < qp0.ctl.retryMax ∧ outM.wr ≠ 0
      ∧ [workM].find? (fun w => w.id == outM.wr) = some workM ∧ workM.op = 1 ∧ workM.data = some [1, 2])
    ∧ (qp0.retryAt ≤ ((devN full0).prtNo 0).time)
    ∧ ((fullT qp0 { regW with st := .revoking }).regions.find 1 = some { regW with st := .revoking }
      ∧ (fullT qp0 regW).regions.find 1 = some regW ∧ regW.st ≠ .revoking) :=
  ⟨by decide +kernel, by decide +kernel, by decide +kernel, by decide +kernel, by decide +kernel⟩

end Sys2Proof.Test

namespace Sys2Proof.Test
open Sys2Proof.Machine Sys2Proof.Cert

def devP (q : Port) : State := { dev full0 with ports := [(0, q)] }
def portU : Port := { Port.reset with up := true }
def frame0 : OutFrame := ⟨0, none, 64, 0⟩
def gates0 : GateList := ⟨[(0xFF, 500)], 100, 1000⟩
/-- Port 0 with its gate list enabled, with a staged list that does not fit, or enabled for its link. -/
def devR8 (regs : Tab Word) (q : Port) : State := { devP q with control := ⟨regs, Mailbox.reset, []⟩ }
def portBase : Nat := 0x10000
theorem test_witness_PortResults :
    (((devP portU).prtNo 0).up = true ∧ 64 ≤ ((devP portU).prtNo 0).devTokens ∧ ((devP { portU with devTokens := 63 }).prtNo 0).up = true
      ∧ ((devP { portU with devTokens := 63 }).prtNo 0).devTokens < 64 ∧ ((devP portU).prtNo 0).holdover = false ∧ ((devP Port.reset).prtNo 0).up = false
      ∧ (0 : BitVec 8).toNat = (devP portU).portReg 0 0x10 ∧ (devP portU).addrOwner 0 1 = some 0 ∧ (devP portU).prt 0 = some full0)
    ∧ ((devP portU).adminList 0).fits = true
    ∧ ((devR8 [(portBase + 0x1010, 999)] portU).adminList 0).fits = false
    ∧ ((devP { portU with staged := some (gates0, 20000) }).prtNo 0).staged = some (gates0, 20000)
    ∧ ((devR8 [(portBase + 0x14, 1)] { portU with everLocked := true }).gated 0 = true ∧ (devP portU).gated 0 = false)
    ∧ (let q := { portU with queues := [(subKey 7 devSub, ⟨[frame0], 0⟩)] }
     let s := { devP q with parts := [] }
     (s.prtNo 0).up = true ∧ (∀ e ∈ s.parts, e.2.qps = []) ∧ (s.prtNo 0).queues = [(subKey 7 devSub, ⟨[frame0], 0⟩)] ∧ s.gated 0 = false
     ∧ (s.prtNo 0).rates.getD 7 0 = 0 ∧ frame0.pkt = none)
    ∧ (let s := devR8 [(portBase, 1)] portU
     s.power.spread = false ∧ s.portExists 0 = true ∧ bitOf (s.portReg (0 / 2 * 2) 0) 0 = true)
    ∧ ({ power0 with spread := true }.spread = true ∧ 1000 ≤ 1000 ∧ 1000 < 1001) :=
  ⟨by decide +kernel, by decide +kernel, by decide +kernel, by decide +kernel, by decide +kernel, by decide +kernel, by decide +kernel,
   by decide +kernel⟩
def geo0 : Geometry := ⟨4, 1, 100, 16, 16384, true, 1000, 0, []⟩
def carIn : Carrier := { Carrier.empty with st := .inService, level := true, pwren := true, pgood := true, id := 1, geo := geo0 }
/-- A superblock of block 5 of two channels of carrier 1. -/
def sb0 (st : SbSt) : Superblock :=
  { st := st, part := 0, stream := 5, members := [(1, 0, 5), (1, 1, 5)], rows := 1, used := 1, wseq := 0, marked := false, parity := []
    lastRead := 0 }
def unit0 : MapUnit :=
  { owner := .region (hd 4 0), idx := 0, stream := 5, sb := 2, slot := 0, disc := false, gone := [], stale := false, wseq := 0 }
def carLog0 : CarLog :=
  { slot := 0, geo := geo0, grownBad := 0, programFails := 0, eraseFails := 0, bytesRead := 0, bytesWritten := 0, correctedBits := 0
    retryReads := 0, uncorrectable := 0, parityRebuilds := 0, mirrorRepairs := 0, joins := 1, lastDetach := 0 }
def flash0 (st : SbSt) (map : Tab MapUnit) (jobs : Tab GleanJob) : Flash :=
  { Flash.reset with
    slots := [(0, carIn)], health := [(1, carLog0)], sbs := [(2, sb0 st), (4, { sb0 .opened with stream := 6, members := [(1, 2, 6)] })]
    map := map, jobs := jobs, nextCarrier := 2 }
def devF (st : SbSt) (map : Tab MapUnit) (jobs : Tab GleanJob) : State := { dev full0 with flash := flash0 st map jobs }
def map0 : Tab MapUnit := [(unitKey 0 3, unit0)]
/-- The spare record of piece 0 of unit 3. -/
def piece0 : Piece := ⟨0, false, [0, 5, 0, 0, 0, 0, 0, 0] ++ toLe 3 8 ++ List.replicate 16 0, 0⟩
/-- Unit 3's copy in superblock 4. -/
def unitC : MapUnit := { unit0 with stream := 6, sb := 4 }
def jobAt (ph : GleanPh) (n : Nat) : GleanJob := ⟨ph, [(unitKey 0 3, unitC)], [(unitKey 0 3, n)], some 1⟩
/-- A group's unit: the group's T2 copy is its home. -/
def mapG : Tab MapUnit := [(unitKey 0 3, { unit0 with owner := .group (hd 3 0) })]
def devFG : State :=
  { devF .verified mapG [] with parts := [(0, { full0 with groups := [(0, { grp0 with tier := .t2, loc := 3 })] })] }
theorem test_witness_FlashResults :
    (∀ st ∈ [SbSt.opened, .closed, .verified, .victim, .erasing], (devF st [] []).flash.sbs.find 2 = some (sb0 st)
      ∧ (devF st [] []).flash.map.wf ∧ (devF st [] []).flash.unitAt 2 0 = none)
    ∧ ((sb0 .opened).members[0]? = some (1, 0, 5) ∧ ∀ e ∈ (devF .opened [] []).flash.map, e.2.sb ≠ 2)
    ∧ (let f := (devF .verified map0 []).flash
     f.map.find (unitKey (0 : Part).val 3) = some unit0 ∧ unit0.disc = false ∧ unit0.sb = 2 ∧ f.map.wf
     ∧ unit0.agrees (unitKey (0 : Part).val 3) piece0 = true
     ∧ f.health.find ((sb0 .verified).carrierAt (unit0.slot + piece0.num) piece0.mirror) = some carLog0
     ∧ (sb0 .verified).st = .verified ∧ f.map.find (unitKey (0 : Part).val 4) = none)
    ∧ (devFG.flash.map.find (unitKey (0 : Part).val 3) = some { unit0 with owner := .group (hd 3 0) } ∧ devFG.flash.map.wf
     ∧ (devFG.group? 0 (hIndex (hd 3 0))).map (fun g => (g.h, g.tier)) = some (hd 3 0, .t2))
    ∧ (let f := (devF .verified map0 []).flash
     f.channel? (0 : Fin 32).val = some (carIn, 0) ∧ f.gleaning = [] ∧ f.goodBlocks carIn 0 ≤ 50 * f.freeBlocks carIn 0)
    ∧ (let f := { flash0 .verified [] [] with bad := (List.range 100).filterMap fun i => if i = 5 then none else some (1, 1, i) }
     f.channel? (1 : Fin 32).val = some (carIn, 1) ∧ f.gleans (1 : Fin 32).val = true ∧ f.victim carIn 1 = some 2)
    ∧ (let f := { flash0 .verified [] [] with gleaning := [1] }
     f.channel? (1 : Fin 32).val = some (carIn, 1) ∧ (1 : Fin 32).val ∈ f.gleaning
     ∧ 3 * f.goodBlocks carIn 1 ≤ 100 * f.freeBlocks carIn 1)
    ∧ (let s := devF .victim map0 [(2, ⟨.copy, [], [], none⟩)]
     s.flash.jobs.find 2 = some ⟨.copy, [], [], none⟩ ∧ s.copyOf 0 (.glean 2) = none)
    ∧ (let c := copy0 (.glean 2) 3
     let s := { devF .victim map0 [(2, ⟨.copy, [], [], none⟩)] with paths := [(pathKey .t2 0, ⟨[c], some 1⟩)] }
     s.copyOf 0 (.glean 2) = some c ∧ c.left ≠ 0)
    ∧ (∀ n ∈ [0, 3], let s := devF .victim map0 [(2, jobAt .verify n)]
     s.flash.jobs.find 2 = some (jobAt .verify n) ∧ (jobAt .verify n).copies.find (unitKey 0 3) = some unitC
     ∧ s.flash.sbs.find unitC.sb = some { sb0 .opened with stream := 6, members := [(1, 2, 6)] }
     ∧ ({ sb0 .opened with stream := 6, members := [(1, 2, 6)] } : Superblock).members[
       ({ sb0 .opened with stream := 6, members := [(1, 2, 6)] } : Superblock).colOf (unitC.slot + 0) false]? = some (1, 2, 6)
     ∧ (jobAt .verify n).retries.getD (unitKey 0 3) 0 = n)
    ∧ (let s := devF .victim map0 [(2, jobAt .commit 0)]
     s.flash.jobs.find 2 = some (jobAt .commit 0) ∧ (jobAt .commit 0).copies = [(unitKey 0 3, unitC)]
     ∧ s.flash.map.find (unitKey 0 3) = some unit0 ∧ unit0.sb = 2 ∧ (s.journal (sb0 .victim).part).durable < 1
     ∧ 1 ≤ ({ s with journals := [(0, { Journal.empty with durable := 1 })] }.journal (sb0 .victim).part).durable)
    ∧ ((devF .erasing [] [(2, jobAt .erase 0)]).flash.sbs.wf ∧ (devF .erasing [] [(2, jobAt .erase 0)]).flash.jobs.wf
      ∧ (devF .erasing [] [(2, jobAt .erase 0)]).flash.jobs.has 2 = true) :=
  ⟨by decide +kernel, by decide +kernel, by decide +kernel, by decide +kernel, by decide +kernel, by decide +kernel, by decide +kernel,
   by decide +kernel, by decide +kernel, by decide +kernel, by decide +kernel, by decide +kernel⟩
def jrec0 (b : JBody) : JRec := { jtype := 1, forced := false, jseq := 4, step := 0, object := 0, body := b }
def devJ (j : Journal) : State := { dev full0 with journals := [(0, j)] }
def image0 : SessImage := { sess := sess0, seqs := [], regions := [], tenant := 2, level := 0 }
theorem test_witness_JournalResults :
    (let j : Journal := { Journal.empty with openPage := [jrec0 .plain], next := 5 }
     ((devJ j).journal 0).openPage ≠ [] ∧ ((devJ j).journal 0).stopped = false)
    ∧ ((devJ Journal.empty).journal 0).openPage = []
    ∧ (let j : Journal := { Journal.empty with closed := [[jrec0 .plain]] }
     ((devJ j).journal 0).closed = [jrec0 .plain] :: [] ∧ [jrec0 .plain].getLast? = some (jrec0 .plain))
    ∧ (let m : JRec := { jrec0 (.session 0 (some image0)) with jtype := jCreate }
     let s := devJ { Journal.empty with closed := [[m]] }
     (0 : LogId).val < 16 ∧ s.prt (Fin.ofNat 16 (0 : LogId).val) = some full0 ∧ full0.migrations = [] ∧ (s.journal 0).closed = [[m]]
     ∧ m.body = .session 0 (some image0) ∧ m.jtype ≠ jCommit)
    ∧ (journalPart 3 = some 3 ∧ (dev full0).flashRO = false
     ∧ { dev full0 with flash := { Flash.reset with tier := .readOnly } }.flashRO = true ∧ journalPart 16 = none) :=
  ⟨by decide +kernel, by decide +kernel, by decide +kernel, by decide +kernel, by decide +kernel⟩
/-- A carrier's identity, as another device wrote it. -/
def ident0 (serial iseq : Nat) : List Byte := { carIn with serial := BitVec.ofNat 128 serial, iseq := iseq }.identity
theorem test_identity_of_the_later_copy : pickIdentity (ident0 7 1) (ident0 7 2) = some ⟨1, 7, 0, 2⟩
    ∧ pickIdentity (ident0 7 1) (List.replicate 64 0) = some ⟨1, 7, 0, 1⟩ ∧ pickIdentity [] (List.replicate 64 0) = none := by
  decide +kernel
def devK (c : Carrier) : State := { dev full0 with flash := { Flash.reset with slots := [(0, c)] } }
theorem test_witness_CarrierResults :
    (Awake (dev full0) ∧ { dev full0 with power := { power0 with st := .dormant } }.power.st = .dormant)
    ∧ (∀ c ∈ [{ Carrier.empty with level := true }, { Carrier.empty with st := .qualifying }, { Carrier.empty with st := .present, pwren := true },
        carIn, { carIn with st := .detached }, { carIn with st := .foreign }], (devK c).slot 0 = c)
    ∧ (∃ serial, geometryFits geo0 = true ∧ pickIdentity (ident0 serial 1) (ident0 serial 2) = some ⟨1, BitVec.ofNat 128 serial, 0, 2⟩
      ∧ BitVec.ofNat 128 serial ≠ deviceSerial
      ∧ (devK Carrier.empty).ident.predecessors.contains (BitVec.ofNat 128 serial, 1, 0) = false)
    ∧ (pickIdentity [] [] = none ∧ geometryFits { geo0 with dies := 33 } = false)
    ∧ (∀ e ∈ (devK carIn).flash.map, mirrored e.2.stream = true → (devK carIn).flash.onCarrier e.2 carIn.id = false)
    ∧ (let c : Carrier := { carIn with st := .detaching, detachJseq := some 1 }
     (devK c).slot 0 = c ∧ c.detachJseq = some 1 ∧ ((devK c).journal devJournal).durable < 1
     ∧ 1 ≤ ({ devK c with journals := [(devJournal, { Journal.empty with durable := 1 })] }.journal devJournal).durable)
    ∧ ((dev full0).presence.window = false ∧ { Presence.reset with window := true }.window = true ∧ Presence.reset.broken = false
      ∧ carIn.st ≠ .foreign) :=
  ⟨by decide +kernel, by decide +kernel, by
    by_cases h : BitVec.ofNat 128 0 = deviceSerial
    · exact ⟨1, by decide +kernel, by decide +kernel, by rw [← h]; decide +kernel, by decide +kernel⟩
    · exact ⟨0, by decide +kernel, by decide +kernel, h, by decide +kernel⟩, by decide +kernel, by decide +kernel, by decide +kernel,
    by decide +kernel⟩

end Sys2Proof.Test

namespace Sys2Proof.Test
open Sys2Proof.Machine Sys2Proof.Cert

def present0 : Presence := { Presence.reset with window := true }
/-- A device with a presence window open. -/
def devW (t : Partition) : State := { dev t with presence := present0 }
/-- A layout that needs no port and no flash. -/
def layF (n : Part) : PartLayout := { lay with num := n, clusters := 1#64 <<< n.val, shareT2 := 0, binding := ⟨0, 5 + n.val, 0, [], [], [], 0xFF⟩ }
def idle0 : Partition := { part0 with st := .fenced, shareT2 := 0, binding := (layF 0).binding }
def domCross : Domain :=
  { key := 0, members := 1, cross := true, equalTime := false, etMax := 0, st := .active, reserved := none, excluded := none }
def devX (named : Bool) : State :=
  { devW { part0 with sessions := if named then [(0, { sess0 with domain := 0x8000 })] else [] } with domains := [(0x8000, domCross)] }
def recM (dst : BitVec 128) (ok : Bool) : MigRecord :=
  { dstSerial := dst, sigsOk := ok, nonce := 77, parts := [layF 1], objects := [], carriers := [(1, 2)], srcSerial := 9 }
theorem test_witness_PresenceCommands :
    (Awake (dev full0) ∧ (dev full0).presence.window = false)
    ∧ (Awake (devW full0) ∧ (devW full0).presence.window = true ∧ (devW full0).presence.broken = false)
    ∧ ((devW part0).applyLayout ⟨[0], [], false⟩ = none ∧ (devW part0).prt 0 = some part0 ∧ part0.st = .active)
    ∧ (((devW idle0).applyLayout ⟨[], [layF 1], false⟩).any State.layoutOk = true ∧ (devW idle0).prt (layF 1).num = none)
    ∧ (((devW idle0).applyLayout ⟨[0], [], false⟩).isSome = true ∧ (devW idle0).parts.wf ∧ (devW idle0).ident.keyEpoch.length = 16)
    ∧ ((devW part0).prt 0 = some part0
      ∧ (∀ p : Part, bitOf ((1 : BitVec 16) ||| (1#16 <<< (0 : Part).val)).toNat p.val = true → ((devW part0).prt p).map (·.grade) = some part0.grade)
      ∧ (devW part0).domains.lowestFree (fun k => k / 1024 == 32 + (0 : Part).val) 1024 (mkDomain 0 0).toNat = some 0x8000)
    ∧ ((devX true).domain? 0x8000 = some domCross ∧ domCross.cross = true ∧ domCross.st = .active ∧ (devX true).domNamed 0x8000 = true
      ∧ (devX false).domain? 0x8000 = some domCross ∧ (devX false).domNamed 0x8000 = false ∧ (devX false).domains.wf)
    ∧ ((FwImage.mk true 0 []).sigOk = true ∧ (devW part0).ident.minSvn ≤ (FwImage.mk true 0 []).svn
      ∧ (FwImage.mk true 0 []).svn < { Ident.reset with minSvn := 1 }.minSvn ∧ (devW part0).ident.running = some ⟨true, 0, []⟩)
    ∧ ({ Ident.reset with migIn := some 1032192 }.migIn = some 1032192
      ∧ ∀ p : Part, bitOf (1 : BitVec 16).toNat p.val = true → ((devW part0).prt p).isSome = true)
    ∧ (∃ d, (recM d true).dstSerial ≠ deviceSerial)
    ∧ ((recM deviceSerial false).dstSerial = deviceSerial ∧ (recM deviceSerial false).sigsOk = false)
    ∧ ((recM deviceSerial true).dstSerial = deviceSerial ∧ (recM deviceSerial true).sigsOk = true
      ∧ { Ident.reset with nonces := [77] }.nonces.contains (recM deviceSerial true).nonce = true
      ∧ (devW idle0).ident.nonces.contains (recM deviceSerial true).nonce = false
      ∧ (∀ l ∈ (recM deviceSerial true).parts, (devW idle0).prt l.num = none)
      ∧ ((devW idle0).applyLayout ⟨[], (recM deviceSerial true).parts, (devW idle0).presence.sealAction⟩).any State.layoutOk = true
      ∧ (recM deviceSerial true).objects = []) :=
  ⟨by decide +kernel, by decide +kernel, by decide +kernel, by decide +kernel, by decide +kernel, by decide +kernel, by decide +kernel,
   by decide +kernel, by decide +kernel, by
     by_cases h : (0 : BitVec 128) = deviceSerial
     · exact ⟨1, fun e => absurd (h.trans e.symm) (by decide +kernel)⟩
     · exact ⟨0, h⟩,
   ⟨rfl, rfl⟩, ⟨rfl, rfl, by decide +kernel, by decide +kernel, by decide +kernel, by decide +kernel, rfl⟩⟩
def qpErr : Qp := { qp0 with st := .error }
def bound0 : Partition := { part0 with st := .configured, ld := { part0.ld with bound := true } }
def devSt (st : PwrSt) (t : Partition) : State := { dev t with power := { power0 with st := st } }
def devEn (t : Partition) : State := { dev t with power := { power0 with entering := true } }
/-- A partition that may sleep, and one that asks to be woken in a moment. -/
def sleepy : Partition := { part0 with regs := part0.regs.put 0x03C 1 }
def hasty : Partition := { part0 with regs := (part0.regs.put 0x03C 1).put 0x040 1 }
theorem test_witness_ControlResults :
    (let t := { part0 with qps := [(1, qpErr)] }
     Awake (dev t) ∧ (dev t).prt 0 = some t ∧ t.st = .active ∧ t.steps = [] ∧ (∀ q ∈ t.qps, q.2.st = .error)
     ∧ bitOf (1 : BitVec 32).toNat 0 = true ∧ bitOf (2 : BitVec 32).toNat 0 = false)
    ∧ (let t := { part0 with st := .fenced }
     Awake (dev t) ∧ (dev t).prt 0 = some t ∧ t.st = .fenced ∧ t.st ≠ .active ∧ t.fenceCause ≠ 5 ∧ t.steps = [] ∧ t.live = []
     ∧ ∀ g ∈ t.programs, g.2.st ≠ .unloading)
    ∧ (let t := { part0 with st := .fenced, fenceCause := 5 }
     (dev t).prt 0 = some t ∧ t.fenceCause = 5 ∧ (dev t).presence.broken = false)
    ∧ (Awake (dev bound0) ∧ (dev bound0).prt 0 = some bound0 ∧ bound0.ld.bound = true ∧ bound0.st = .configured ∧ bound0.t1hSeen = none
      ∧ ((dev bound0).presence.broken && (dev bound0).presence.sealAction) = false)
    ∧ (∀ st ∈ [PwrSt.serving, .initialising, .standby], Awake (devSt st part0) ∧ (devSt st part0).power.st = st)
    ∧ ((devSt .dormant part0).power.st = .dormant ∧ { power0 with wakes := [(16, 5)] }.wakes.length = 1)
    ∧ (Awake (dev part0) ∧ (dev part0).power.st = .serving ∧ (0, part0) ∈ (dev part0).parts ∧ part0.st = .active
      ∧ bitOf (part0.reg 0x03C) 0 = false)
    ∧ (Awake (dev sleepy) ∧ (∀ e ∈ (dev sleepy).parts, e.2.st = .active → bitOf (e.2.reg 0x03C) 0 = true)
      ∧ (∀ e ∈ (dev sleepy).flash.slots, e.2.st ≠ .detaching ∧ e.2.st ≠ .qualifying) ∧ (dev sleepy).wakeTooSoon = false)
    ∧ ((∀ e ∈ (dev hasty).parts, e.2.st = .active → bitOf (e.2.reg 0x03C) 0 = true) ∧ (dev hasty).wakeTooSoon = true)
    ∧ ((devEn sleepy).power.entering = true ∧ (devEn sleepy).drained = true ∧ (devEn sleepy).wakeTooSoon = false
      ∧ (devEn hasty).drained = true ∧ (devEn hasty).wakeTooSoon = true ∧ (devEn (own sleepy step0)).drained = false
      ∧ (dev sleepy).power.entering = false)
    ∧ (Awake (dev part0) ∧ (dev part0).presence.window = false ∧ (devW part0).presence.window = true) :=
  ⟨by decide +kernel, by decide +kernel, by decide +kernel, by decide +kernel, by decide +kernel, by decide +kernel, by decide +kernel,
   by decide +kernel, by decide +kernel, by decide +kernel, by decide +kernel⟩
def devB (t : Partition) : State := { dev t with power := { power0 with serviceReady := false } }
def logged : Partition := { part0 with ev := { EvLog.reset with ctl := 0x80000004, tail := 3, ring := [] } }
theorem test_witness_RegisterResults :
    (Awake (dev full0) ∧ (dev full0).prt 0 = some full0 ∧ full0.st ≠ .fenced ∧ full0.queues.find 1 = some queue0
      ∧ (dev full0).power.serviceReady = true ∧ queue0.st = .enabled ∧ bitsOf (15 : BitVec 32).toNat 11 0 < queue0.depth
      ∧ queue0.depth ≤ bitsOf (16 : BitVec 32).toNat 11 0 ∧ queue0.freed (bitsOf (0 : BitVec 32).toNat 11 0) ≤ queue0.posted.length)
    ∧ (let t := { full0 with queues := [(1, { queue0 with st := .disabled })] }
     (dev t).prt 0 = some t ∧ t.queues.find 1 = some { queue0 with st := .disabled })
    ∧ (Awake (devB full0) ∧ (devB full0).power.serviceReady = false)
    ∧ ({ part0 with st := .fenced }.st = .fenced)
    ∧ (logged.ev.fullRing = false ∧ bitsOf (2 : BitVec 32).toNat 11 0 < logged.ev.depth
      ∧ (2 + logged.ev.depth - logged.ev.head) % logged.ev.depth ≤ (logged.ev.tail + logged.ev.depth - logged.ev.head) % logged.ev.depth
      ∧ bitsOf (3 : BitVec 32).toNat 3 0 < 4 ∧ 12 < bitsOf (13 : BitVec 32).toNat 3 0
      ∧ bitsOf (0x80000004 : BitVec 32).toNat 3 0 = bitsOf logged.ev.ctl.toNat 3 0 ∧ logged.ev.held = [])
    ∧ (part0.t1hFirst = (0 : Fin 256).val ∧ bitOf (part0.t1h.getD (0 : Fin 256).val (0, 0)).2.toNat 63 = false
      ∧ (2097152 : Word).toNat % 2097152 = 0
      ∧ bitOf ({ part0 with t1h := [(0, (0, 0x8000000000000001))] }.t1h.getD 0 (0, 0)).2.toNat 63 = true)
    ∧ ({ part0 with mailbox := { Mailbox.reset with sel := 3 } }.mailbox.sel = 3)
    ∧ ((dev part0).portExists (0 : PortNo).val = true ∧ (dev part0).power.aux[(0 : Fin 4).val]? = some ⟨true, false, 15, 0⟩
      ∧ 30 < bitsOf (0x1F00 : BitVec 32).toNat 12 8)
    ∧ ((dev part0).barUp = true ∧ (dev part0).prt 0 = some part0 ∧ part0.st = .active ∧ 65536 ≤ (2 ^ 32 : Word).toNat
      ∧ (2 ^ 32 : Word).toNat ≤ 2 ^ 32 ∧ (65535 : Word).toNat < 65536)
    ∧ ((devSt .standby part0).barUp = false ∧ Awake (devSt .standby part0) ∧ (devSt .standby part0).sidebandUp = false)
    ∧ ((dev part0).sidebandUp = true ∧ 300 ≤ (300 : BitVec 32).toNat ∧ (950 : BitVec 32).toNat ≤ 950
      ∧ 950 < (951 : BitVec 32).toNat ∧ (2047 : BitVec 32).toNat < 2048) :=
  ⟨by decide +kernel, by decide +kernel, by decide +kernel, by decide +kernel, by decide +kernel, by decide +kernel, by decide +kernel,
   by decide +kernel, by decide +kernel, by decide +kernel, by decide +kernel⟩

end Sys2Proof.Test

namespace Sys2Proof.Test
open Sys2Proof.Machine Sys2Proof.Cert

def ext0 (st : ExtentSt) : Extent := ⟨0, 268435456, 0, st⟩
def winT (regs : Tab Region) (bad : List Nat) : Partition :=
  { part0 with shareT1b := 1024, regions := regs, ld := { part0.ld with hdm := true, extents := [ext0 .accepted], poison := bad } }
/-- A region of the window. -/
def regX (st : RegionSt) : Region := { reg0 with home := 3, dpa := 0, st := st }
def devG (cfg svc wait : Bool) (t : Partition) : State :=
  { dev t with power := { power0 with configReady := cfg, serviceReady := svc }, ident := { Ident.reset with waiting := wait } }
theorem test_witness_WindowResults :
    (let s := devG true true false (winT [] [])
     Awake s ∧ s.prt 0 = some (winT [] []) ∧ s.power.configReady = true ∧ s.ident.waiting = false ∧ s.power.serviceReady = true)
    ∧ (let s := devG false false false part0
     Awake s ∧ s.prt 0 = some part0 ∧ s.power.configReady = false ∧ s.ident.waiting = false)
    ∧ (1 % 64 ≠ 0 ∧ ([] : List Byte).length ≠ 64 ∧ 64 % 64 = 0 ∧ (List.replicate 64 (7 : Byte)).length = 64)
    ∧ ((winT [] []).ld.hdm = true ∧ (winT [] []).st ≠ .fenced ∧ (winT [] []).ld.inWindow 268435392 = true
      ∧ (winT [] []).ld.poison.contains (268435392 / 4096) = false ∧ (winT [] []).ld.inWindow 268435456 = false
      ∧ (winT [] [0]).ld.poison.contains (64 / 4096) = true ∧ (winT [] []).windowRegion 64 = none)
    ∧ (∀ st ∈ [RegionSt.uploading, .valid, .superseded], (winT [(0, regX st)] []).windowRegion 64 = some (0, regX st)
      ∧ (winT [(0, regX st)] []).regions.find 0 = some (regX st) ∧ (winT [(0, regX st)] []).ld.inWindow 64 = true)
    ∧ ((1 : Nat) = part0.ld.vppb ∧ 2 ≠ part0.ld.vppb)
    ∧ (let t := { part0 with t1h := [(0, (0, 0x8000000000000001))], index := [(5, ⟨[⟨[], .t0, 0⟩], false⟩)] }
     (dev t).prt 0 = some t ∧ t.t1h.find 0 = some (0, 0x8000000000000001) ∧ t.index.find 5 = some ⟨[⟨[], .t0, 0⟩], false⟩) :=
  ⟨by decide +kernel, by decide +kernel, by decide +kernel, by decide +kernel, by decide +kernel, by decide +kernel, by decide +kernel⟩
def extT (l : List Extent) (regs : Tab Region := []) : Partition :=
  { part0 with shareT1b := 1024, regions := regs, ld := { part0.ld with extents := l } }
/-- A partition whose groups take more of T1B than its share. -/
def fullBeyond : Partition :=
  { part0 with shareT1b := 0, groups := [(0, { grp0 with tier := .t1b })], ld := { part0.ld with extents := [ext0 .reserving] } }
theorem test_witness_ExtentResults :
    (Awake (dev (extT [])) ∧ (dev (extT [])).prt 0 = some (extT []) ∧ (dev (extT [])).power.configReady = true
      ∧ (dev (extT [])).ident.waiting = false ∧ (dev (extT [])).power.serviceReady = true
      ∧ { power0 with serviceReady := false }.serviceReady = false ∧ { power0 with serviceReady := false }.configReady = true)
    ∧ ((extT []).mayAdd 64 (1 * 268435456) = false ∧ (extT []).mayAdd 0 (1 * 268435456) = true ∧ (extT []).groups = []
      ∧ (extT []).regions = [] ∧ (extT []).index = [] ∧ (extT []).overPages = [])
    ∧ (∀ st ∈ [ExtentSt.reserving, .offered, .accepted, .releasing, .fenced], (extT [ext0 st]).ld.extents = [ext0 st])
    ∧ ((extT [ext0 .reserving]).overT1b = 0 ∧ fullBeyond.ld.extents = [ext0 .reserving] ∧ fullBeyond.overT1b ≠ 0)
    ∧ (∀ e ∈ (extT []).ld.extents, ¬ (e.dpa = 0 ∧ e.st = .offered))
    ∧ (0 < (ext0 .accepted).len ∧ ∀ r ∈ (extT [ext0 .accepted]).regions, r.2.home ≠ 3)
    ∧ (∀ r ∈ (extT [ext0 .accepted] [(0, regX .valid)]).regions, r.2.home = 3 ∧ r.2.binding = none ∧ r.2.dpa < 268435456
      ∧ 0 < r.2.dpa + r.2.size ∧ r.2.st = .valid) :=
  ⟨by decide +kernel, by decide +kernel, by decide +kernel, by decide +kernel, by decide +kernel, by decide +kernel, by decide +kernel⟩
def devI (i : Ident) : State := { dev part0 with ident := i }
def img0 (ok : Bool) : FwImage := ⟨ok, 0, []⟩
def devQ (x : Presence) : State := { dev part0 with presence := x }
theorem test_witness_SecurityResults :
    (Awake (dev part0) ∧ (dev part0).power.configReady = true ∧ ideMay .fm .cachemem = true ∧ ideMay .fm (.sel 0) = false)
    ∧ (let s := { dev { part0 with st := .configured } with cxl := ⟨[.cachemem], []⟩ }
     IdeStream.cachemem ∈ s.cxl.secure ∧ (∀ e ∈ s.parts, e.2.st ≠ .active) ∧ IdeStream.ioLink ∉ s.cxl.secure)
    ∧ (let s := { dev part0 with cxl := ⟨[.sel 0], []⟩ }
     s.cxl.secure = [.sel 0] ∧ s.prt 0 = some part0 ∧ part0.st = .active ∧ part0.steps = [] ∧ part0.qps = [] ∧ s.parts.wf)
    ∧ (∀ ok ∈ [true, false], let s := devI { Ident.reset with waiting := true, transfer := some (img0 ok) }
     Awake s ∧ s.ident.waiting = true ∧ s.ident.transfer = some (img0 ok) ∧ (img0 ok).sigOk = ok ∧ s.ident.minSvn ≤ (img0 ok).svn)
    ∧ (let s := devG false false false part0
     Awake s ∧ s.power.configReady = false)
    ∧ (let i : Ident := { Ident.reset with quoteIn := some 5 }
     i.pwrCycles < i.dayStart + 126 ∧ i.quoteIn = some 5)
    ∧ (let i : Ident := { Ident.reset with dayUsed := 193 }
     i.quoteIn = none ∧ 256 < i.dayUsed + 64)
    ∧ (let i : Ident := { Ident.reset with dayUsed := 192, xmssNext := 1032128 }
     i.quoteIn = none ∧ i.dayUsed + 64 ≤ 256 ∧ i.xmssNext + 64 ≤ 1032192)
    ∧ (1 ≤ 7 ∧ 7 ≤ 7 ∧ 7 < 8)
    ∧ (Ident.reset.pwrCycles + 1 < Ident.reset.dayStart + 126
      ∧ { Ident.reset with pwrCycles := 125 }.pwrCycles + 1 = { Ident.reset with pwrCycles := 125 }.dayStart + 126)
    ∧ (Awake (dev part0) ∧ (dev part0).power.st ≠ .off ∧ (dev part0).presence.intact = true ∧ (dev part0).presence.sealAction = false
      ∧ (dev part0).presence.misses < 9)
    ∧ ((devQ { Presence.reset with misses := 9 }).presence.misses = 9 ∧ (devQ { Presence.reset with intact := false }).presence.intact = false) :=
  ⟨by decide +kernel, by decide +kernel, by decide +kernel, by decide +kernel, by decide +kernel, by decide +kernel, by decide +kernel,
   by decide +kernel, by decide +kernel, by decide +kernel, by decide +kernel, by decide +kernel⟩
def devP2 (w : Power) : State := { dev part0 with power := w }
theorem test_witness_PowerResults :
    (∀ st ∈ [PwrSt.off, .serving, .initialising, .dormant, .frozen, .standby, .halted], (devP2 { power0 with st := st }).power.st = st)
    ∧ (let w := { power0 with st := PwrSt.standby }
     w.refclk = true ∧ w.perst = false ∧ w.tripped = false ∧ { w with perst := true }.perst = true)
    ∧ (∀ ok ∈ [true, false], (devI { Ident.reset with boot := some (img0 ok) }).ident.boot = some (img0 ok) ∧ (img0 ok).sigOk = ok)
    ∧ (let w := { power0 with st := PwrSt.halted, hot := true }
     w.st = .halted ∧ w.hot = true)
    ∧ (State.reset.power.st = .initialising ∧ State.reset.ident.waiting = false ∧ State.reset.power.recovery = some .cold
      ∧ State.reset.power.configReady = false)
    ∧ (let s := devP2 { power0 with st := .initialising, serviceReady := false }
     s.power.st = .initialising ∧ s.ident.waiting = false ∧ s.power.recovery = none ∧ s.power.configReady = true ∧ s.qualifying = false)
    ∧ ((dev part0).power.refclk = true ∧ ((dev part0).pll 0).failed = false ∧ ((dev part0).pll 0).tries < 7
      ∧ ((devP2 { power0 with plls := [(pllNo .cxl, ⟨7, false, false⟩)] }).pll (pllNo .cxl)).tries = 7
      ∧ ((devP2 { power0 with plls := [(pllNo .cxl, ⟨7, false, false⟩)] }).pll (pllNo .cxl)).failed = false
      ∧ ((devP2 { power0 with plls := [(0, ⟨7, false, false⟩)] }).pll 0).tries = 7)
    ∧ (10 * (dev part0).devReg 0x1004 < 9501 ∧ 0 + 250 < 10 * (dev part0).devReg 0x1004 ∧ 10 * (dev part0).devReg 0x1004 ≤ 9500 + 250)
    ∧ (bitOf ((dev part0).devReg 0x028) 0 = true
      ∧ bitOf ({ dev { part0 with st := .configured } with control := ⟨[(0x028, 0)], Mailbox.reset, []⟩ }.devReg 0x028) 0 = false
      ∧ ∀ e ∈ (dev { part0 with st := .configured }).parts, e.2.st ≠ .active) :=
  ⟨by decide +kernel, by decide +kernel, by decide +kernel, by decide +kernel, by decide +kernel, by decide +kernel, by decide +kernel,
   by decide +kernel, by decide +kernel⟩

end Sys2Proof.Test

namespace Sys2Proof.Test
open Sys2Proof.Machine Sys2Proof.Cert

theorem test_witness_RegisterFiles : ctx0.rg 0 = 0 ∧ ctx0.rf 0 = true := by decide +kernel
theorem test_witness_StepTakesTheFront :
    State.reset.pending = [] ∧ ([] : List Byte).length ≠ 64
    ∧ ∃ t, step { State.reset with pending := [.closePresenceWindow] } = .next t := ⟨rfl, by decide, _, rfl⟩
theorem test_witness_IndicesStayInRange :
    IndicesInRange State.reset ∧ (∃ t, step { State.reset with pending := [.pwrCyclesTick] } = .next t)
    ∧ IndicesInRange (devI { Ident.reset with dayUsed := 256, xmssNext := 1032192, xmssMigNext := 1048576 })
    ∧ ∃ t, step { devI { Ident.reset with dayUsed := 256, xmssNext := 1032192, xmssMigNext := 1048576 } with
      pending := [.spdmChallenge .fm] } = .next t :=
  ⟨by decide, ⟨_, rfl⟩, by decide +kernel, _, rfl⟩
theorem test_witness_CrietRoundTrip :
    crietEncode (.shli x0 1 2 63) = some 0x170880000000003F ∧ (Instr.shli x0 1 2 63).wf = true
    ∧ crietDecode x0 0x170880000000003F = some (.shli x0 1 2 63) := ⟨by decide +kernel, by decide +kernel, rfl⟩

/-! ### What WellFormed refuses, one term a check -/

theorem test_wf_shli : (Instr.shli x0 1 2 64).wf = false := by decide
theorem test_wf_shri : (Instr.shri x0 1 2 0x80000000).wf = false := by decide
theorem test_wf_srai : (Instr.srai x0 1 2 64).wf = false := by decide
theorem test_wf_hmake : (Instr.hmake x0 false 1 2 16).wf = false := by decide
theorem test_wf_hchk : (Instr.hchk x0 false 1 2 16).wf = false := by decide
theorem test_wf_walkemit : (Instr.walkemit x0 false 1 2 3 4).wf = false := by decide
theorem test_wf_sqFetch : (Instr.sqFetch 0 (List.replicate 63 0) false).wf = false := by decide
theorem test_wf_cxlMemWrite_length : (Instr.cxlMemWrite 0 0 [0]).wf = false := by decide
theorem test_wf_cxlMemWrite_address : (Instr.cxlMemWrite 0 32 (List.replicate 64 0)).wf = false := by decide
theorem test_wf_cxlMemRead : (Instr.cxlMemRead 0 1).wf = false := by decide
def bigPkt : Pkt := { pkt0 with payload := List.replicate 8193 0 }
theorem test_wf_send : (Instr.send 0 bigPkt).wf = false := by decide +kernel
theorem test_wf_write : (Instr.write 0 bigPkt).wf = false := by decide +kernel
theorem test_wf_readResp : (Instr.readResp 0 bigPkt).wf = false := by decide +kernel
theorem test_wf_regRead_none : (Instr.regRead 0 0).wf = false := by decide
theorem test_wf_regRead_many : (Instr.regRead 0 17).wf = false := by decide
theorem test_wf_regWrite_none : (Instr.regWrite 0 []).wf = false := by decide
theorem test_wf_regWrite_many : (Instr.regWrite 0 (List.replicate 17 0)).wf = false := by decide
theorem test_wf_powerSample : (Instr.powerSample 0 0 0 0 [0]).wf = false := by decide
theorem test_wf_accepts : (Instr.sqFetch 0 (List.replicate 64 0) false).wf = true ∧ (Instr.shli x0 1 2 63).wf = true := by decide

/-! ### Words of the Criet reference -/

/-- The words of 16 Table 16-6. -/
theorem test_words_table_16_6 :
    crietDecode x0 0x1060000000000000 = some (.movi x0 12 0) ∧ crietDecode x0 0x1263000000000001 = some (.addi x0 12 12 1)
    ∧ crietDecode x0 0x1A0B000200000030 = some (.cmplti x0 1 12 48) ∧ crietDecode x0 0x210800FFFFFFFFFA = some (.brt x0 1 (-6)) :=
  ⟨rfl, rfl, rfl, rfl⟩
/-- The words of 17 Table 17-17. -/
theorem test_words_table_17_17 :
    crietDecode x0 0x8026B00000000000 = some (.waitmsg x0 false 2 13 12 false false)
    ∧ crietDecode x0 0x8113000000000000 = some (.waiteng x0 false 2 12)
    ∧ crietDecode x0 0x8026800000000010 = some (.waitmsg x0 false 2 13 0 true false)
    ∧ crietDecode x0 0xA007340000000000 = some (.sample x0 false 0 14 13)
    ∧ crietDecode x0 0xC007000000000000 = some (.commit x0 false 0 14 false) := ⟨rfl, rfl, rfl, rfl, rfl⟩
/-- Written out bit by bit from the formats of 16 Table 16-1: ADD g1, g2, g3; LD g4, g5, 8; HMOV h1, h2. -/
theorem test_words_by_hand_a :
    crietDecode x0 (0x01#8 ++ 1#5 ++ 2#5 ++ 3#5 ++ 0#41) = some (.addG x0 1 2 3)
    ∧ crietDecode x0 (0x30#8 ++ 4#5 ++ 5#5 ++ 0#14 ++ 8#32) = some (.ld x0 4 5 8)
    ∧ crietDecode x0 (0x43#8 ++ 1#5 ++ 2#5 ++ 0#46) = some (.hmov x0 false 1 2) := ⟨rfl, rfl, rfl⟩
/-- Format C: PTLEN h1, g2, g3; PXLOOK.R h4, h1, g2, g3; SINFO h1, g2, g3; QPOST h2, g1, g3; RGFREE h1. -/
theorem test_words_by_hand_c :
    crietDecode x0 (0x50#8 ++ 1#4 ++ 2#5 ++ 3#5 ++ 0#42) = some (.ptlen x0 false 1 2 3)
    ∧ crietDecode x0 (0x61#8 ++ 1#4 ++ 2#5 ++ 3#5 ++ 0#26 ++ 1#1 ++ 0#11 ++ 4#4) = some (.pxlook x0 true 4 1 2 3)
    ∧ crietDecode x0 (0x98#8 ++ 1#4 ++ 2#5 ++ 3#5 ++ 0#42) = some (.sinfo x0 false 1 2 3)
    ∧ crietDecode x0 (0xB0#8 ++ 2#4 ++ 1#5 ++ 3#5 ++ 0#42) = some (.qpost x0 false 2 1 3)
    ∧ crietDecode x0 (0xD1#8 ++ 1#4 ++ 0#52) = some (.rgfree x0 false 1) := ⟨rfl, rfl, rfl, rfl, rfl⟩
/-- MVWAIT f2, g12; TSTAMP g1. -/
theorem test_words_by_hand_d :
    crietDecode x0 (0x72#8 ++ 2#5 ++ 12#5 ++ 0#46) = some (.mvwait x0 false 2 12)
    ∧ crietDecode x0 (0xE0#8 ++ 1#5 ++ 0#51) = some (.tstamp x0 false 1) := ⟨rfl, rfl⟩
/-- Undefined: group 0xF, a hole of group 0x1, a RSV bit, a handle field with bit [4] set, a shift of 64 (16 R364, R365, R370). -/
theorem test_words_undefined :
    crietDecode x0 0xF000000000000000 = none ∧ crietDecode x0 0x1B00000000000000 = none ∧ crietDecode x0 0x0108860000000001 = none
    ∧ crietDecode x0 (0x43#8 ++ 17#5 ++ 2#5 ++ 0#46) = none ∧ crietDecode x0 (0x17#8 ++ 1#5 ++ 2#5 ++ 0#14 ++ 64#32) = none :=
  ⟨rfl, rfl, rfl, rfl, rfl⟩

/-! ### Cases of the manual -/

/-- 01 R10: the handle of the worked example, and the handle of the slot's next occupant. -/
theorem test_handle_example :
    hKind 0x3502000000012A4C = 3 ∧ hPart 0x3502000000012A4C = 5 ∧ hGen 0x3502000000012A4C = 2 ∧ hIndex 0x3502000000012A4C = 76364
    ∧ mkHandle 3 5 3 76364 = 0x3503000000012A4C := by decide +kernel
def modG : ModelDesc := { mod0 with layers := 48, kvHeads := 8, headDim := 128, kvFmt := 10, pageCode := 1 }
/-- 01 R22, 04 R77: 384 pages of 16 KiB, tiles of 5,248 bytes, groups of 6,307,840 bytes. -/
theorem test_group_bytes_example :
    modG.pages = 384 ∧ pageCodeFor 10 false 128 = some modG.pageCode ∧ tileBytes 10 false 128 = 5248 ∧ modG.groupBytes = 6307840 := by
  decide +kernel
def ten57 : Tenant := { ten0 with capacity := 40000, rate := 2500, level := 1200, lastRefill := 1800000000000, hold := true }
/-- 08 Table 8-5: a refill of one token, a charge of 3,001, and 125 tokens after 50 ms. -/
theorem test_refill_example :
    (ten57.refill 1800000400000).level = 1201 ∧ ((ten57.refill 1800000400000).charge 3001).level = -1800
    ∧ (((ten57.refill 1800000400000).charge 3001).refill 1800050400000).level = -1675 := by decide +kernel
/-- 07 Table 7-6: the four elements as E4M3 under scale 0x78 and as GRN5 under scale 0x81. -/
theorem test_elements_example :
    (elemWrite 3 true 0x78 ⟨false, 63, -4⟩).1 = 0x7E ∧ (elemWrite 3 true 0x78 ⟨true, 11, -4⟩).1 = 0xEB
    ∧ (elemWrite 3 true 0x78 ⟨false, 3, -7⟩).1 = 0x44 ∧ (elemWrite 3 true 0x78 ⟨false, 3, -18⟩).1 = 0x01
    ∧ (elemWrite 10 false 0x81 ⟨false, 63, -4⟩).1 = 0x0F ∧ (elemWrite 10 false 0x81 ⟨true, 11, -4⟩).1 = 0x1A
    ∧ (elemWrite 10 false 0x81 ⟨false, 3, -7⟩).1 = 0x01 ∧ (elemWrite 10 false 0x81 ⟨false, 3, -18⟩).1 = 0x00 := by decide +kernel
/-- The value of a register of the step after a command. -/
def after (o : Out) (r : GReg) : Option Word :=
  match o with
  | .next u => (u.step? x0).map fun k => k.ctx.rg r
  | _ => none
def rigG (l : List (GReg × Word)) : State := rig part0 (withG step0 l)
/-- 16 R369: arithmetic wraps, a divisor of zero gives all ones and the dividend, an amount of 64 shifts by 0, the sign fills. -/
theorem test_add_wraps : after (exec (.addG x0 3 1 2) (rigG [(1, 0xFFFFFFFFFFFFFFFF), (2, 1)])) 3 = some 0 := by decide +kernel
theorem test_sub_order : after (exec (.sub x0 3 1 2) (rigG [(1, 5), (2, 7)])) 3 = some 0xFFFFFFFFFFFFFFFE := by decide +kernel
theorem test_mulhu : after (exec (.mulhu x0 3 1 2) (rigG [(1, 0x8000000000000000), (2, 4)])) 3 = some 2 := by decide +kernel
theorem test_divu_by_zero : after (exec (.divu x0 3 1 2) (rigG [(1, 9)])) 3 = some 0xFFFFFFFFFFFFFFFF := by decide +kernel
theorem test_remu_by_zero : after (exec (.remu x0 3 1 2) (rigG [(1, 9)])) 3 = some 9 := by decide +kernel
theorem test_shl_amount : after (exec (.shl x0 3 1 2) (rigG [(1, 9), (2, 64)])) 3 = some 9 := by decide +kernel
theorem test_sra_sign : after (exec (.sra x0 3 1 2) (rigG [(1, 0x8000000000000000), (2, 63)])) 3 = some 0xFFFFFFFFFFFFFFFF := by
  decide +kernel
theorem test_clz_zero : after (exec (.clz x0 3 1) (rigG [])) 3 = some 64 := by decide +kernel
theorem test_movhi_keeps_low : after (exec (.movhi x0 1 0x12345678) (rigG [(1, 0xFFFFFFFF9ABCDEF0)])) 1 = some 0x123456789ABCDEF0 := by
  decide +kernel
theorem test_andi_zero_extends : after (exec (.andi x0 3 1 0xFFFFFFFF) (rigG [(1, 0x1FFFFFFFF)])) 3 = some 0xFFFFFFFF := by decide +kernel
theorem test_g0_discards : after (exec (.movi x0 0 7) (rigG [])) 0 = some 0 := by decide +kernel

end Sys2Proof.Test
end

section
/-! SUPPORT. The commands that need the operator's presence (15 R358): what each does without presence and with it, and what a layout
command changes. -/

namespace Sys2Proof.Machine
open Sys2Proof.Cert

/-! ### The arms of the commands that need presence -/

theorem exec_layout (l : LayoutCmd) (s : State) : exec (.layout l) s = execLayout l s := rfl
theorem exec_declareCrossDomain (p : Part) (m : BitVec 16) (et : Bool) (mx : Nat) (s : State) :
    exec (.declareCrossDomain p m et mx) s = execDeclareCrossDomain p m et mx s := rfl
theorem exec_withdrawCrossDomain (dom : BitVec 16) (s : State) :
    exec (.withdrawCrossDomain dom) s = execWithdrawCrossDomain dom s := rfl
theorem exec_firmwareUpdate (img : FwImage) (s : State) : exec (.firmwareUpdate img) s = execFirmwareUpdate img s := rfl
theorem exec_versionCommit (s : State) : exec .versionCommit s = execVersionCommit s := rfl
theorem exec_keyEnrolment (p : Part) (w : List Byte) (s : State) : exec (.keyEnrolment p w) s = execKeyEnrolment p w s := rfl
theorem exec_exportMigrationRecord (ps : BitVec 16) (d : BitVec 128) (ok : Bool) (s : State) :
    exec (.exportMigrationRecord ps d ok) s = execExportMigrationRecord ps d ok s := rfl
theorem exec_importMigrationRecord (r : MigRecord) (s : State) :
    exec (.importMigrationRecord r) s = execImportMigrationRecord r s := rfl

/-! ### Tables -/

theorem Tab.mem_of_find {α : Type} {t : Tab α} {i : Nat} {v : α} (h : t.find i = some v) : (i, v) ∈ t := by
  induction t with
  | nil => simp at h
  | cons e t ih =>
    obtain ⟨k, w⟩ := e
    rw [Tab.find_cons] at h
    split at h
    · next hk =>
      cases h
      simp [hk]
    · exact List.mem_cons_of_mem _ (ih h)

theorem Tab.find_of_mem {α : Type} {t : Tab α} {i : Nat} {v : α} (hw : t.wf) (h : (i, v) ∈ t) : t.find i = some v := by
  induction t with
  | nil => simp at h
  | cons e t ih =>
    obtain ⟨k, w⟩ := e
    obtain ⟨hk, ht⟩ := List.pairwise_cons.1 hw
    rcases List.mem_cons.1 h with h | h
    · cases h
      simp [Tab.find_cons]
    · have hlt : k < i := hk _ h
      simp [Tab.find_cons, Nat.ne_of_lt hlt, ih ht h]

/-- What a filtered table finds, the table finds too. -/
theorem Tab.find_of_find_keep {α : Type} {t : Tab α} {f : Nat → α → Bool} {i : Nat} {v : α} (hw : t.wf)
    (h : (Tab.keep t f).find i = some v) : t.find i = some v :=
  Tab.find_of_mem hw (List.mem_filter.1 (Tab.mem_of_find h)).1

/-! ### Answers -/

theorem answers_answer (s : State) (st : Status) (v : Word) (data : List Byte) (poison : Bool) :
    Answers (s.answer st v data poison) st := ⟨_, rfl, rfl, rfl⟩

/-- A command that only answers changes nothing but the reply. -/
theorem answers_only {o : Out} {s : State} {st : Status} (h : o = .next (s.answer st)) :
    ∃ u, o = .next u ∧ Answers u st ∧ u = { s with reply := u.reply } := ⟨_, h, answers_answer .., rfl⟩

/-! ### Presence (15 R358, R360) -/

/-- The device is awake, a presence window is open and the seal is whole: the commands that need presence are served. -/
abbrev OperatorPresent (s : State) : Prop := Awake s ∧ s.presence.window = true ∧ s.presence.broken = false

theorem State.wakeDevice_of_awake {s : State} (h : Awake s) (cause : Nat) : s.wakeDevice cause = s := by
  obtain ⟨hd, he⟩ := h
  simp [State.wakeDevice, hd, he]

theorem State.withPresence_absent {s : State} (ha : Awake s) (hp : s.presence.window = false ∨ s.presence.broken = true)
    (f : State → State) : s.withPresence f = s.answer .presenceRequired := by
  rcases hp with hp | hp <;> simp [State.withPresence, State.wakeDevice_of_awake ha, hp]

theorem State.withPresence_present {s : State} (h : OperatorPresent s) (f : State → State) : s.withPresence f = f s := by
  obtain ⟨ha, hw, hb⟩ := h
  simp [State.withPresence, State.wakeDevice_of_awake ha, hw, hb]

/-- Each of the eight commands does whatever it does under the presence guard. -/
theorem exec_withPresence {c : Instr} {l : LayoutCmd} {p : Part} {mem dom : BitVec 16} {et ok : Bool} {mx : Nat} {img : FwImage}
    {w : List Byte} {d : BitVec 128} {r : MigRecord}
    (hc : c ∈ [Instr.layout l, .declareCrossDomain p mem et mx, .withdrawCrossDomain dom, .firmwareUpdate img, .versionCommit,
      .keyEnrolment p w, .exportMigrationRecord mem d ok, .importMigrationRecord r]) (s : State) :
    ∃ f, exec c s = .next (s.withPresence f) := by
  simp only [List.mem_cons, List.not_mem_nil, or_false] at hc
  obtain rfl | rfl | rfl | rfl | rfl | rfl | rfl | rfl := hc
  · exact ⟨_, exec_layout l s⟩
  · exact ⟨_, exec_declareCrossDomain p mem et mx s⟩
  · exact ⟨_, exec_withdrawCrossDomain dom s⟩
  · exact ⟨_, exec_firmwareUpdate img s⟩
  · exact ⟨_, exec_versionCommit s⟩
  · exact ⟨_, exec_keyEnrolment p w s⟩
  · exact ⟨_, exec_exportMigrationRecord mem d ok s⟩
  · exact ⟨_, exec_importMigrationRecord r s⟩

/-! ### What the layout's operations change -/

@[simp] theorem State.abandonJobs_parts (s : State) (gone : Nat → GleanJob → Bool) : (s.abandonJobs gone).parts = s.parts :=
  State.forEach_keeps (·.parts) _ _ (fun s kv => by dsimp only; split_ifs <;> rfl) s
@[simp] theorem State.abandonJobs_ident (s : State) (gone : Nat → GleanJob → Bool) : (s.abandonJobs gone).ident = s.ident :=
  State.forEach_keeps (·.ident) _ _ (fun s kv => by dsimp only; split_ifs <;> rfl) s
@[simp] theorem State.eraseSbs_parts (s : State) (p : Part) : (s.eraseSbs p).parts = s.parts := State.abandonJobs_parts ..
@[simp] theorem State.eraseSbs_ident (s : State) (p : Part) : (s.eraseSbs p).ident = s.ident := State.abandonJobs_ident ..
/-- No unit of an erased partition stays mapped. -/
theorem State.eraseSbs_map {s : State} {p : Part} {e : Nat × MapUnit} (h : e ∈ (s.eraseSbs p).flash.map) : keyPart e.1 ≠ p.val := by
  simpa using (List.mem_filter.1 h).2
/-- Every superblock of an erased partition is in erasure. -/
theorem State.eraseSbs_sbs {s : State} {p : Part} {e : Nat × Superblock} (h : e ∈ (s.eraseSbs p).flash.sbs)
    (hp : e.2.part = p.val) : e.2.st = .erasing := by
  obtain ⟨a, -, rfl⟩ := List.mem_map.1 h
  by_cases ha : a.2.part = p.val
  · simp [ha]
  · simp [ha] at hp

/-- Losing CAM rows changes nothing of a partition but its nodes. -/
theorem State.dropRows_parts (s : State) (gone : List Nat) :
    ∃ ns : Partition → Tab Node, (s.dropRows gone).parts = s.parts.mapV fun _ t => { t with nodes := ns t } :=
  ⟨fun t => t.nodes.mapV fun _ n => if n.camRow.any fun row => gone.contains (row % 256 / 4) then { n with camRow := none } else n, rfl⟩
theorem State.prt_dropRows {s : State} {p : Part} {t : Partition} (gone : List Nat) (h : s.prt p = some t) :
    ∃ ns, (s.dropRows gone).prt p = some { t with nodes := ns } := by
  obtain ⟨ns, hns⟩ := State.dropRows_parts s gone
  rw [State.prt] at h
  exact ⟨ns t, by rw [State.prt, hns, Tab.find_mapV, h, Option.map_some]⟩
theorem State.dropRows_wf {s : State} (gone : List Nat) (h : s.parts.wf) : (s.dropRows gone).parts.wf := by
  obtain ⟨ns, hns⟩ := State.dropRows_parts s gone
  rw [hns]
  exact Tab.wf_mapV _ h
@[simp] theorem State.dropRows_ident (s : State) (gone : List Nat) : (s.dropRows gone).ident = s.ident := rfl

theorem State.removePart_parts (s : State) (p : Part) : (s.removePart p).parts
    = (s.dropRows (clustersOf (s.getP p (0 : BitVec 64) fun t => t.clusters))).parts.del p.val := by
  simp [State.removePart]
theorem State.removePart_keyEpoch (s : State) (p : Part) : (s.removePart p).ident.keyEpoch
    = listSet s.ident.keyEpoch p.val fun e => min 0xFFFF (e + 1) := by
  simp [State.removePart]
theorem State.prt_removePart_self {s : State} (p : Part) (h : s.parts.wf) : (s.removePart p).prt p = none := by
  rw [State.prt, State.removePart_parts]
  exact Tab.find_del_self _ (State.dropRows_wf _ h)
theorem State.prt_removePart_ne {s : State} {p o : Part} {t : Partition} (ho : o ≠ p) (h : s.prt o = some t) :
    ∃ ns, (s.removePart p).prt o = some { t with nodes := ns } := by
  rw [State.prt, State.removePart_parts, Tab.find_del_ne _ fun e => ho (Fin.ext e)]
  exact State.prt_dropRows _ h

@[simp] theorem State.putPart_ident (s : State) (l : PartLayout) : (s.putPart l).ident = s.ident := by
  unfold State.putPart
  split <;> rfl
/-- A number that is not configured gets a fresh partition; no other is touched. -/
theorem State.putPart_new {s : State} {l : PartLayout} (h : s.prt l.num = none) :
    ∃ keys, (s.putPart l).parts = s.parts.put l.num.val (Partition.fresh l (s.ident.keyEpoch.getD l.num.val 0) keys) := by
  unfold State.putPart
  rw [h]
  exact ⟨_, rfl⟩
theorem State.prt_putPart_new_self {s : State} {l : PartLayout} (h : s.prt l.num = none) :
    ∃ keys, (s.putPart l).prt l.num = some (Partition.fresh l (s.ident.keyEpoch.getD l.num.val 0) keys) := by
  obtain ⟨keys, hk⟩ := State.putPart_new h
  exact ⟨keys, by rw [State.prt, hk, Tab.find_put_self]⟩
theorem State.prt_putPart_new_ne {s : State} {l : PartLayout} {o : Part} (h : s.prt l.num = none) (ho : o ≠ l.num) :
    (s.putPart l).prt o = s.prt o := by
  obtain ⟨keys, hk⟩ := State.putPart_new h
  rw [State.prt, hk, Tab.find_put_ne _ _ fun e => ho (Fin.ext e), State.prt]

/-! ### The layout (01 R14, Table 1-6) -/

/-- The device behind a layout command's removals and writes. -/
def State.relaid (s : State) (l : LayoutCmd) : State :=
  (s.forEach l.remove fun s p => s.removePart p).forEach l.put fun s e => s.putPart e

/-- A layout command that is not refused removes, then writes, then sets `seal_action`. -/
theorem State.applyLayout_some {s n : State} {l : LayoutCmd} (h : s.applyLayout l = some n) :
    n = { s.relaid l with presence := { (s.relaid l).presence with sealAction := l.sealAction } } := by
  unfold State.applyLayout at h
  dsimp only at h
  split_ifs at h
  exact (Option.some.inj h).symm

theorem State.applyLayout_remove_active {s : State} {p : Part} {t : Partition} (b : Bool) (h : s.prt p = some t)
    (ha : t.st = .active) : s.applyLayout ⟨[p], [], b⟩ = none := by
  simp [State.applyLayout, h, ha]

theorem State.applyLayout_creates {s n : State} {e : PartLayout} {b : Bool} (h : s.applyLayout ⟨[], [e], b⟩ = some n)
    (hn : s.prt e.num = none) : ∃ t, n.prt e.num = some t ∧ t.st = .configured ∧ t.clusters = e.clusters ∧ t.quota = e.sessionQuota
      ∧ t.shareT0 = e.shareT0 ∧ t.sessions = [] ∧ t.groups = [] ∧ ∀ o, o ≠ e.num → n.prt o = s.prt o := by
  obtain ⟨keys, hk⟩ := State.prt_putPart_new_self hn
  rw [State.applyLayout_some h]
  exact ⟨_, hk, rfl, rfl, rfl, rfl, rfl, rfl, fun o ho => State.prt_putPart_new_ne hn ho⟩

theorem State.applyLayout_removes {s n : State} {p : Part} {b : Bool} (h : s.applyLayout ⟨[p], [], b⟩ = some n) (hw : s.parts.wf) :
    n.prt p = none ∧ (∀ o t, o ≠ p → s.prt o = some t → ∃ ns, n.prt o = some { t with nodes := ns })
      ∧ (∀ e ∈ n.flash.map, keyPart e.1 ≠ p.val) ∧ (∀ e ∈ n.flash.sbs, e.2.part = p.val → e.2.st = .erasing)
      ∧ (s.ident.keyEpoch.length = 16 → n.ident.keyEpoch.getD p.val 0 = min 0xFFFF (s.ident.keyEpoch.getD p.val 0 + 1)) := by
  rw [State.applyLayout_some h]
  refine ⟨State.prt_removePart_self p hw, fun o t ho ht => State.prt_removePart_ne ho ht, fun e he => State.eraseSbs_map he,
    fun e he hp => State.eraseSbs_sbs he hp, fun hlen => ?_⟩
  have hp : p.val < s.ident.keyEpoch.length := by omega
  change (s.removePart p).ident.keyEpoch.getD p.val 0 = _
  rw [State.removePart_keyEpoch]
  simp [listSet, List.getD_eq_getElem?_getD, hp]

/-- Writing partitions leaves the device's identity. -/
theorem State.applyLayout_put_ident {s n : State} {ps : List PartLayout} {b : Bool} (h : s.applyLayout ⟨[], ps, b⟩ = some n) :
    n.ident = s.ident := by
  rw [State.applyLayout_some h]
  exact State.forEach_keeps (·.ident) ps _ State.putPart_ident s

theorem exec_layout_refused {s : State} {l : LayoutCmd} (h : OperatorPresent s)
    (hn : ∀ n, s.applyLayout l = some n → n.layoutOk = false) : exec (.layout l) s = .next (s.answer .accessViolation) := by
  have hf : (s.applyLayout l).filter State.layoutOk = none := by simpa using hn
  rw [exec_layout, execLayout, State.withPresence_present h, hf]

theorem exec_layout_applied {s n : State} {l : LayoutCmd} (h : OperatorPresent s) (hn : s.applyLayout l = some n)
    (hok : n.layoutOk = true) : exec (.layout l) s = .next ((n.settleFlash.layoutRecord).answer .ok) := by
  have hf : (s.applyLayout l).filter State.layoutOk = some n := by simp [hn, hok]
  rw [exec_layout, execLayout, State.withPresence_present h, hf]

/-! ### Cross-partition domains (05 R97, R98) -/

theorem exec_declareCrossDomain_makes {s : State} {owner : Part} {mem : BitVec 16} {t : Partition} {id : Nat} (h : OperatorPresent s)
    (ht : s.prt owner = some t)
    (hg : ∀ p : Part, bitOf (mem ||| (1#16 <<< owner.val)).toNat p.val = true → (s.prt p).map (·.grade) = some t.grade)
    (hid : s.domains.lowestFree (fun k => k / 1024 == 32 + owner.val) 1024 (mkDomain owner.val 0).toNat = some id) :
    ∃ u d, exec (.declareCrossDomain owner mem false 0) s = .next u ∧ Answers u .ok ∧ u.domains.find id = some d
      ∧ d.cross = true ∧ d.members = mem ||| (1#16 <<< owner.val) ∧ d.st = .active ∧ d.key = Config.domainKey s.free := by
  have hsame : (((List.finRange 16).filter fun p => bitOf (mem ||| (1#16 <<< owner.val)).toNat p.val).any fun p =>
      (s.prt p).map (·.grade) != some t.grade) = false := by
    rw [List.any_eq_false]
    intro p hp
    simp [hg p (List.mem_filter.1 hp).2]
  rw [exec_declareCrossDomain, execDeclareCrossDomain, State.withPresence_present h]
  simp only [ht, Option.map_some, hsame, hid]
  exact ⟨_, _, rfl, answers_answer .., Tab.find_put_self .., rfl, rfl, rfl, rfl⟩

theorem exec_withdrawCrossDomain_named {s : State} {dom : BitVec 16} {d : Domain} (h : OperatorPresent s) (hd : s.domain? dom = some d)
    (hn : s.domNamed dom = true) : exec (.withdrawCrossDomain dom) s = .next (s.answer .accessViolation) := by
  rw [exec_withdrawCrossDomain, execWithdrawCrossDomain, State.withPresence_present h]
  simp [hd, hn]

theorem State.settleDomains_domains (s : State) : s.settleDomains.domains = s.domains.keep fun id d =>
    d.st ≠ .closing || s.parts.any fun kv => kv.2.nodes.any fun n => n.2.domain.toNat == id := rfl

/-- No domain appears when those that are CLOSING and have no node left go. -/
theorem State.find_of_find_settleDomains {s : State} {i : Nat} {d : Domain} (hw : s.domains.wf)
    (h : s.settleDomains.domains.find i = some d) : s.domains.find i = some d := by
  rw [State.settleDomains_domains] at h
  exact Tab.find_of_find_keep hw h

/-- A withdrawn domain is CLOSING where it is not gone at once. -/
theorem State.settleDomains_closing {s : State} {i : Nat} {d : Domain} (hw : s.domains.wf)
    (h : ({ s with domains := s.domains.upd i fun d => { d with st := .closing } } : State).settleDomains.domains.find i = some d) :
    d.st = .closing := by
  have hu := State.find_of_find_settleDomains (Tab.wf_upd i _ hw) h
  rw [Tab.find_upd_self] at hu
  obtain ⟨a, -, rfl⟩ := Option.map_eq_some_iff.1 hu
  rfl

theorem exec_withdrawCrossDomain_closes {s : State} {dom : BitVec 16} {d : Domain} (h : OperatorPresent s) (hd : s.domain? dom = some d)
    (hc : d.cross = true) (hst : d.st = .active) (hn : s.domNamed dom = false) (hw : s.domains.wf) :
    ∃ u, exec (.withdrawCrossDomain dom) s = .next u ∧ Answers u .ok ∧ ∀ d', u.domains.find dom.toNat = some d' → d'.st = .closing := by
  rw [exec_withdrawCrossDomain, execWithdrawCrossDomain, State.withPresence_present h]
  simp only [hd, hc, hst, hn]
  exact ⟨_, rfl, answers_answer .., fun d' hd' => State.settleDomains_closing hw hd'⟩

/-! ### Firmware and keys (15 R350, R353) -/

theorem exec_firmwareUpdate_boots {s : State} {img : FwImage} (h : OperatorPresent s) (hsig : img.sigOk = true)
    (hv : s.ident.minSvn ≤ img.svn) :
    exec (.firmwareUpdate img) s = .next ({ s with ident := { s.ident with boot := some img } }.answer .ok) := by
  rw [exec_firmwareUpdate, execFirmwareUpdate, State.withPresence_present h]
  simp [hsig, Nat.not_lt.2 hv]

theorem exec_firmwareUpdate_old {s : State} {img : FwImage} (h : OperatorPresent s) (hsig : img.sigOk = true)
    (hv : img.svn < s.ident.minSvn) : exec (.firmwareUpdate img) s = .next (s.answer .accessViolation) := by
  rw [exec_firmwareUpdate, execFirmwareUpdate, State.withPresence_present h]
  simp [hsig, hv]

theorem exec_versionCommit_raises {s : State} {i : FwImage} (h : OperatorPresent s) (hi : s.ident.running = some i) :
    exec .versionCommit s = .next ({ s with ident := { s.ident with minSvn := max s.ident.minSvn i.svn } }.answer .ok) := by
  rw [exec_versionCommit, execVersionCommit, State.withPresence_present h]
  simp [hi]

theorem exec_keyEnrolment_replaces {s : State} {p : Part} {t : Partition} (w : List Byte) (h : OperatorPresent s) (ht : s.prt p = some t) :
    ∃ u, exec (.keyEnrolment p w) s = .next u ∧ Answers u .ok
      ∧ u.prt p = some { t with wrapped := ⟨t.wrapped.data, Config.keyWrap (pkek p t.keyEpoch) (Config.enrolled w)⟩ } := by
  rw [exec_keyEnrolment, execKeyEnrolment, State.withPresence_present h]
  simp only [ht]
  exact ⟨_, rfl, answers_answer .., (State.prt_updP_self s p _).trans (by rw [ht]; rfl)⟩

/-! ### Migration records (15 R361, R362) -/

/-- An index of the block in hand is taken: nothing but the block changes. -/
theorem State.migIndex_in_hand {s : State} {n : Nat} (h : s.ident.migIn = some n) :
    s.migIndex = ({ s with ident := { s.ident with migIn := if (n + 1) % 64 = 0 then none else some (n + 1) } }, some n) := by
  simp [State.migIndex, h]

theorem exec_exportMigrationRecord_signs {s : State} {parts : BitVec 16} {n : Nat} (d : BitVec 128) (h : OperatorPresent s)
    (hn : s.ident.migIn = some n) (hp : ∀ p : Part, bitOf parts.toNat p.val = true → (s.prt p).isSome = true) :
    ∃ u r, exec (.exportMigrationRecord parts d true) s = .next u ∧ u.reply = some r ∧ r.status = .ok ∧ r.data = u.ident.record
      ∧ u.ident.migIn = (if (n + 1) % 64 = 0 then none else some (n + 1)) ∧ u.parts = s.parts := by
  have hall : ((List.finRange 16).any fun p => bitOf parts.toNat p.val && (s.prt p).isNone) = false := by
    rw [List.any_eq_false]
    intro p _ hb
    obtain ⟨hbit, hnone⟩ := Bool.and_eq_true_iff.1 hb
    exact absurd (hp p hbit) (by simpa using hnone)
  rw [exec_exportMigrationRecord, execExportMigrationRecord, State.withPresence_present h]
  simp only [hall, State.migIndex_in_hand hn]
  exact ⟨_, _, rfl, rfl, rfl, rfl, rfl, rfl⟩

section
variable {s : State} {r : MigRecord} (h : OperatorPresent s)
include h

theorem exec_importMigrationRecord_other_device (hd : r.dstSerial ≠ deviceSerial) :
    exec (.importMigrationRecord r) s = .next (s.answer .accessViolation) := by
  rw [exec_importMigrationRecord, execImportMigrationRecord, State.withPresence_present h, if_pos hd]

theorem exec_importMigrationRecord_unsigned (hd : r.dstSerial = deviceSerial) (hs : r.sigsOk = false) :
    exec (.importMigrationRecord r) s = .next (s.answer .sealMismatch) := by
  rw [exec_importMigrationRecord, execImportMigrationRecord, State.withPresence_present h]
  simp [hd, hs]

theorem exec_importMigrationRecord_replayed (hd : r.dstSerial = deviceSerial) (hs : r.sigsOk = true)
    (hn : s.ident.nonces.contains r.nonce = true) : exec (.importMigrationRecord r) s = .next (s.answer .staleKey) := by
  rw [exec_importMigrationRecord, execImportMigrationRecord, State.withPresence_present h]
  rw [if_neg (not_not.2 hd), if_neg (by simp [hs]), if_pos hn]

theorem exec_importMigrationRecord_lays_out {n : State} (hd : r.dstSerial = deviceSerial) (hs : r.sigsOk = true)
    (hn : s.ident.nonces.contains r.nonce = false) (hp : ∀ l ∈ r.parts, s.prt l.num = none)
    (hl : s.applyLayout ⟨[], r.parts, s.presence.sealAction⟩ = some n) (hok : n.layoutOk = true) (ho : r.objects = []) :
    ∃ v : State, exec (.importMigrationRecord r) s = .next (((v.settleFlash.layoutRecord).devEvent evMigrationImported 0 0 0).answer .ok)
      ∧ v.ident.nonces = s.ident.nonces ++ [r.nonce] ∧ v.parts = n.parts
      ∧ v.ident.predecessors = s.ident.predecessors ++ r.carriers.map (fun (c : Nat × Nat) => (r.srcSerial, c.1, c.2)) := by
  have hfree : (r.parts.any fun l => (s.prt l.num).isSome) = false := by
    rw [List.any_eq_false]
    intro l hl
    simp [hp l hl]
  have hf : (s.applyLayout ⟨[], r.parts, s.presence.sealAction⟩).filter State.layoutOk = some n := by simp [hl, hok]
  rw [exec_importMigrationRecord, execImportMigrationRecord, State.withPresence_present h]
  rw [if_neg (not_not.2 hd), if_neg (by simp [hs]), if_neg (ne_true_of_eq_false hn), if_neg (ne_true_of_eq_false hfree), hf, ho,
    ← State.applyLayout_put_ident hl]
  exact ⟨_, rfl, rfl, rfl, rfl⟩
end

/-! ### The obligation -/

/-- Settles O49: without presence the guard refuses all eight commands; with it each command's own lemma says what it does. -/
theorem presenceCommands : Obligations.PresenceCommands := by
  unfold Obligations.PresenceCommands
  intro s ha
  constructor
  · intro hp l p mem et mx dom img w d ok r c hc
    obtain ⟨f, hf⟩ := exec_withPresence hc s
    exact answers_only (hf.trans (by rw [State.withPresence_absent ha hp]))
  · intro hw hb
    have h : OperatorPresent s := ⟨ha, hw, hb⟩
    refine ⟨fun l hn => answers_only (exec_layout_refused h hn), fun l n hn hok => exec_layout_applied h hn hok,
      fun e b n hn he => State.applyLayout_creates hn he, fun p b n hn hwf => State.applyLayout_removes hn hwf,
      fun p b t ht hst => State.applyLayout_remove_active b ht hst, fun owner mem t id ht hg hid => exec_declareCrossDomain_makes h ht hg hid,
      fun dom d hd hc hst => ⟨fun hn => ⟨_, exec_withdrawCrossDomain_named h hd hn, answers_answer .., rfl⟩,
        fun hn hwf => exec_withdrawCrossDomain_closes h hd hc hst hn hwf⟩,
      fun img hs hv => exec_firmwareUpdate_boots h hs hv, fun img hs hv => ⟨_, exec_firmwareUpdate_old h hs hv, rfl⟩,
      fun i hi => exec_versionCommit_raises h hi, fun p t w ht => exec_keyEnrolment_replaces w h ht,
      fun parts d n hn hp => exec_exportMigrationRecord_signs d h hn hp,
      fun r hd => answers_only (exec_importMigrationRecord_other_device h hd),
      fun r hd hs => answers_only (exec_importMigrationRecord_unsigned h hd hs),
      fun r hd hs hn => answers_only (exec_importMigrationRecord_replayed h hd hs hn),
      fun r n hd hs hn hp hl hok ho => exec_importMigrationRecord_lays_out h hd hs hn hp hl hok ho⟩

end Sys2Proof.Machine
end

section
/-! SUPPORT. Revivals (09 R203 to R207): what the shared operations leave of a partition apart from its groups, what each stage of a revival
does, and what stops one. -/

namespace Sys2Proof.Machine
open Sys2Proof.Cert

/-! ### The arms of the revival commands -/

theorem exec_revivalStepStart (p : Part) (sess : Nat) (s : State) :
    exec (.revivalStepStart p sess) s = execRevivalStepStart p sess s := rfl
theorem exec_revivalApply (p : Part) (sess : Nat) (s : State) : exec (.revivalApply p sess) s = execRevivalApply p sess s := rfl
theorem exec_hgRevive (p : Part) (qp : Nat) (msg : Msg) (s : State) : exec (.hgRevive p qp msg) s = .next (s.hgReviveMsg p qp msg) := rfl
theorem exec_hgReviveK (p : Part) (qp : Nat) (msg : Msg) (s : State) :
    exec (.hgReviveK p qp msg) s = .next (s.hgReviveKMsg p qp msg) := rfl
theorem exec_hgReviveTimeout (p : Part) (sess : Nat) (s : State) :
    exec (.hgReviveTimeout p sess) s = execHgReviveTimeout p sess s := rfl

/-! ### Tables -/

/-- A change that a later change of every entry hides. -/
theorem Tab.mapV_upd {α : Type} (t : Tab α) (i : Nat) {f : α → α} {g : Nat → α → α} (h : ∀ k v, g k (f v) = g k v) :
    (t.upd i f).mapV g = t.mapV g := by
  induction t with
  | nil => rfl
  | cons e t ih =>
    obtain ⟨k, v⟩ := e
    unfold Tab.upd
    split
    · simp [Tab.mapV, h]
    · simpa [Tab.mapV] using ih

theorem Tab.mapV_mapV {α : Type} (t : Tab α) {f g : Nat → α → α} (h : ∀ k v, g k (f k v) = g k v) :
    (t.mapV f).mapV g = t.mapV g := by
  simp [Tab.mapV, h]

/-! ### A partition apart from its groups -/

/-- A step's record without what frees and pins of groups change. -/
def Step.apart (k : Step) : Step := { k with pins := [], stale := false }
/-- A partition without what frees and pins of groups change: the groups, the slots' generations, the pins and stale marks of steps. -/
def Partition.apart (t : Partition) : Partition :=
  { t with groups := [], gens := [], steps := t.steps.mapV fun _ k => k.apart }
/-- The same of a configured partition of the device. -/
def State.apart (s : State) (p : Part) : Option Partition := (s.prt p).map Partition.apart

theorem Partition.find_steps_apart (t : Partition) (n : Nat) : t.apart.steps.find n = (t.steps.find n).map Step.apart :=
  Tab.find_mapV t.steps (fun _ k => k.apart) n

/-- Partitions that are alike apart from their groups hold the same sessions, sequences, revivals and parked sessions. -/
theorem Partition.of_apart {u t : Partition} (h : u.apart = t.apart) :
    u.sessions = t.sessions ∧ u.sequences = t.sequences ∧ u.revivals = t.revivals ∧ u.parked = t.parked :=
  ⟨(congrArg (fun a => a.sessions) h :), (congrArg (fun a => a.sequences) h :), (congrArg (fun a => a.revivals) h :),
    (congrArg (fun a => a.parked) h :)⟩
theorem Partition.step_of_apart {u t : Partition} {n : Nat} {k : Step} (h : u.apart = t.apart) (hk : t.steps.find n = some k) :
    ∃ k', u.steps.find n = some k' ∧ k'.apart = k.apart := by
  have hu := Partition.find_steps_apart u n
  rw [h, Partition.find_steps_apart, hk, Option.map_some] at hu
  exact Option.map_eq_some_iff.1 hu.symm

theorem State.apart_eq_some {s : State} {p : Part} {a : Partition} (h : s.apart p = some a) : ∃ t, s.prt p = some t ∧ t.apart = a :=
  Option.map_eq_some_iff.1 h

theorem State.apart_updP {s : State} {p : Part} {f : Partition → Partition} (h : ∀ t, (f t).apart = t.apart) :
    (s.updP p f).apart p = s.apart p := by
  simp only [State.apart, State.prt_updP_self]
  cases s.prt p with
  | none => rfl
  | some t => simp [h]

theorem Partition.apart_bumpGen (t : Partition) (kind i : Nat) : (t.bumpGen kind i).apart = t.apart := by
  unfold Partition.apart Partition.bumpGen
  dsimp only
  rw [Tab.mapV_mapV _ fun _ _ => by split_ifs <;> rfl]

@[simp] theorem State.apart_updGroup (s : State) (p : Part) (g : Nat) (f : Group → Group) : (s.updGroup p g f).apart p = s.apart p :=
  State.apart_updP fun _ => rfl
@[simp] theorem State.prt_unmap (s : State) (p q : Part) (o : FlashOwner) : (s.unmap q o).prt p = s.prt p := by
  unfold State.unmap
  dsimp only
  split_ifs <;> rfl
@[simp] theorem State.prt_dropCopies (s : State) (p q : Part) (f : Copy → Bool) : (s.dropCopies q f).prt p = s.prt p := rfl
@[simp] theorem State.apart_freeGroup (s : State) (p : Part) (g : Nat) : (s.freeGroup p g).apart p = s.apart p := by
  unfold State.freeGroup
  dsimp only
  rw [State.apart_updP fun t => Partition.apart_bumpGen { t with groups := t.groups.del g } kGroup g]
  split <;> simp [State.apart]
@[simp] theorem State.apart_settleGroup (s : State) (p : Part) (g : Nat) : (s.settleGroup p g).apart p = s.apart p := by
  unfold State.settleGroup
  split
  · rfl
  · split_ifs
    · rfl
    · rw [State.apart_freeGroup, State.apart, State.prt_dropCopies, State.apart]
    · exact State.apart_updGroup ..
@[simp] theorem State.apart_refDown (s : State) (p : Part) (g : Nat) : (s.refDown p g).apart p = s.apart p := by
  simp [State.refDown]

@[simp] theorem State.apart_pinFor (s : State) (p : Part) (num g : Nat) : (s.pinFor p num g).apart p = s.apart p := by
  unfold State.pinFor
  split
  · rfl
  · refine State.apart_updP fun t => ?_
    unfold Partition.apart
    dsimp only
    rw [Tab.mapV_upd]
    exact fun _ _ => rfl
@[simp] theorem State.apart_touch (s : State) (p : Part) (g : Nat) : (s.updP p fun t => t.touchG g).apart p = s.apart p :=
  State.apart_updP fun _ => rfl
@[simp] theorem State.pinFor_stepNo (s : State) (p : Part) (num g : Nat) : (s.pinFor p num g).stepNo = s.stepNo := by
  unfold State.pinFor
  split <;> rfl

/-! ### The revivals of a partition -/

/-- The revivals of a configured partition. -/
def State.revivalsOf (s : State) (p : Part) : Option (Tab Revival) := (s.prt p).map (·.revivals)
/-- No revival of a session is begun or due in a configured partition. -/
def State.Unrevived (s : State) (p : Part) (sess : Nat) : Prop := ∃ rs, s.revivalsOf p = some rs ∧ rs.find sess = none

theorem State.revivalsOf_of_prt {s : State} {p : Part} {t : Partition} (h : s.prt p = some t) : s.revivalsOf p = some t.revivals := by
  rw [State.revivalsOf, h, Option.map_some]
theorem State.Unrevived.prt {s : State} {p : Part} {sess : Nat} (h : s.Unrevived p sess) :
    ∃ t, s.prt p = some t ∧ t.revivals.find sess = none := by
  obtain ⟨rs, hrs, hf⟩ := h
  obtain ⟨t, ht, rfl⟩ := Option.map_eq_some_iff.1 hrs
  exact ⟨t, ht, hf⟩
theorem State.Unrevived.of_eq {s u : State} {p : Part} {sess : Nat} (h : s.Unrevived p sess) (hu : u.revivalsOf p = s.revivalsOf p) :
    u.Unrevived p sess := by
  rwa [State.Unrevived, hu]

theorem State.revivalsOf_of_apart {s u : State} {p : Part} (h : u.apart p = s.apart p) : u.revivalsOf p = s.revivalsOf p := by
  simpa [State.apart, State.revivalsOf, Function.comp_def, Partition.apart] using congrArg (Option.map fun t => t.revivals) h

theorem State.revivalsOf_updP {s : State} {p : Part} {f : Partition → Partition} (h : ∀ t, (f t).revivals = t.revivals) :
    (s.updP p f).revivalsOf p = s.revivalsOf p := by
  simp only [State.revivalsOf, State.prt_updP_self]
  cases s.prt p with
  | none => rfl
  | some t => simp [h]

section
variable (s : State) (p : Part)

@[simp] theorem State.revivalsOf_updGroup (g : Nat) (f : Group → Group) : (s.updGroup p g f).revivalsOf p = s.revivalsOf p :=
  State.revivalsOf_updP fun _ => rfl
@[simp] theorem State.revivalsOf_updSeq (q : Nat) (f : Sequence → Sequence) : (s.updSeq p q f).revivalsOf p = s.revivalsOf p :=
  State.revivalsOf_updP (f := fun t => { t with sequences := t.sequences.upd q f }) fun _ => rfl
@[simp] theorem State.revivalsOf_dropCopies (f : Copy → Bool) : (s.dropCopies p f).revivalsOf p = s.revivalsOf p := rfl
@[simp] theorem State.revivalsOf_settleDomains : s.settleDomains.revivalsOf p = s.revivalsOf p := rfl
@[simp] theorem State.revivalsOf_freeGroup (g : Nat) : (s.freeGroup p g).revivalsOf p = s.revivalsOf p :=
  State.revivalsOf_of_apart (State.apart_freeGroup ..)
@[simp] theorem State.revivalsOf_settleGroup (g : Nat) : (s.settleGroup p g).revivalsOf p = s.revivalsOf p :=
  State.revivalsOf_of_apart (State.apart_settleGroup ..)
@[simp] theorem State.revivalsOf_count (n k : Nat) : (s.count p n k).revivalsOf p = s.revivalsOf p :=
  State.revivalsOf_updP fun t => by unfold Partition.count; split <;> rfl
@[simp] theorem State.revivalsOf_event (code status : Nat) (object arg : Word) :
    (s.event p code status object arg).revivalsOf p = s.revivalsOf p :=
  State.revivalsOf_updP fun t => by unfold Partition.count; dsimp only; split <;> rfl
@[simp] theorem State.revivalsOf_removeNode (n : Nat) : (s.removeNode p n).revivalsOf p = s.revivalsOf p := by
  unfold State.removeNode State.withP
  split
  · dsimp only
    split
    · rfl
    · exact State.revivalsOf_updP fun _ => rfl
  · rfl
@[simp] theorem State.revivalsOf_dropGroup (g : Nat) : (s.dropGroup p g).revivalsOf p = s.revivalsOf p := by
  unfold State.dropGroup
  split
  · rfl
  · have h : ∀ f : Partition → Tab Sequence,
        ∀ u : State, (u.updP p fun t => { t with sequences := f t }.count cRecDrops 1).revivalsOf p = u.revivalsOf p :=
      fun f u => State.revivalsOf_updP fun _ => rfl
    simp only [State.revivalsOf_settleDomains, State.revivalsOf_freeGroup, State.revivalsOf_dropCopies, h]
    exact State.forEach_keeps (fun s => s.revivalsOf p) _ _ (fun s n => State.revivalsOf_removeNode s p n) s
@[simp] theorem State.revivalsOf_dropPoisoned (g : Nat) : (s.dropPoisoned p g).revivalsOf p = s.revivalsOf p := by
  unfold State.dropPoisoned
  split <;> simp
@[simp] theorem State.revivalsOf_unpin (g : Nat) : (s.unpin p g).revivalsOf p = s.revivalsOf p := by simp [State.unpin]
@[simp] theorem State.revivalsOf_cancelPromotion (prio g : Nat) : (s.cancelPromotion p prio g).revivalsOf p = s.revivalsOf p := by
  unfold State.cancelPromotion
  split
  · split <;> simp
  · rfl
@[simp] theorem State.revivalsOf_sendMsg (qp member : Option Nat) (m : Msg) :
    (s.sendMsg p qp member m).revivalsOf p = s.revivalsOf p :=
  State.revivalsOf_updP fun t => by split <;> rfl
@[simp] theorem State.revivalsOf_toFollowers (m : ModelDesc) (msg : Msg) :
    (s.toFollowers p m msg).revivalsOf p = s.revivalsOf p :=
  State.forEach_keeps (fun s => s.revivalsOf p) _ _ (fun s _ => State.revivalsOf_sendMsg s p ..) s
@[simp] theorem State.revivalsOf_finish (q : Nat) (cid : BitVec 16) (st : Status) (r0 r1 : Word) (step : Nat) :
    (s.finish p q cid st r0 r1 step).revivalsOf p = s.revivalsOf p :=
  State.revivalsOf_updP fun t => by unfold Partition.post; split <;> rfl
@[simp] theorem State.revivalsOf_endCmd (q : Nat) (cid : BitVec 16) (st : Status) (reason step : Nat) :
    (s.endCmd p q cid st reason step).revivalsOf p = s.revivalsOf p := by
  unfold State.endCmd
  split <;> simp
end

/-- The end of a request takes its command from the waiters of every revival, and begins none. -/
theorem State.Unrevived.endReq {s : State} {p : Part} {sess : Nat} (h : s.Unrevived p sess) (q : Nat) (cid : BitVec 16) (st : Status)
    (reason : Nat) : (s.endReq p q cid st reason).Unrevived p sess := by
  unfold State.endReq
  split
  · exact h
  · split
    · exact h.of_eq (State.revivalsOf_endCmd ..)
    · next l r _ =>
      have hdone : (((if st = .late then s.count p cDeadlineMisses else s).finish p q cid st
          (finalWord reason 0 r.emitted.length) r.seed 0).updSeq p r.seq fun sq => { sq with st := .idle, held := false }).revivalsOf p
          = s.revivalsOf p := by
        rw [State.revivalsOf_updSeq, State.revivalsOf_finish]
        split <;> simp
      obtain ⟨t, ht, hf⟩ := (h.of_eq hdone).prt
      exact ⟨_, State.revivalsOf_of_prt ((State.prt_updP_self ..).trans (congrArg (Option.map _) ht)), by simp [Tab.find_mapV, hf]⟩

/-- A revival that has not committed is gone when it is stopped. -/
theorem State.stopRevival_removes {s : State} {p : Part} {rs : Tab Revival} {sess : Nat} {rv : Revival} (st : Status)
    (hp : s.revivalsOf p = some rs) (hrv : rs.find sess = some rv) (hc : rv.committed = false) (hw : rs.wf) :
    (s.stopRevival p sess st).Unrevived p sess := by
  obtain ⟨t, ht, rfl⟩ := Option.map_eq_some_iff.1 hp
  simp only [State.stopRevival, ht, Option.bind_some, hrv, hc]
  refine State.forEach_inv (fun s => s.Unrevived p sess) _ _ (fun s w hs => ?_) _ ?_
  · split
    · exact hs.endReq ..
    · exact hs.of_eq (State.revivalsOf_finish ..)
  · refine ⟨t.revivals.del sess, ?_, Tab.find_del_self sess hw⟩
    rw [State.forEach_keeps (fun s => s.revivalsOf p) _ _ fun s g => State.revivalsOf_cancelPromotion s p ..,
      State.forEach_keeps (fun s => s.revivalsOf p) _ _ fun s g => State.revivalsOf_unpin s p g]
    exact State.revivalsOf_of_prt ((State.prt_updP_self ..).trans (congrArg (Option.map _) ht))

/-! ### Groups that stand in T0 (R203 stage 4) -/

/-- The group of a handle stands in T0 and in no move. -/
def State.Resident (s : State) (p : Part) (h : Handle) : Prop :=
  ∃ r, s.group? p (hIndex h) = some r ∧ r.tier = .t0 ∧ r.move = .idle

theorem State.meet_resident {s : State} {p : Part} {h : Handle} (hr : s.Resident p h) (home prio me : Nat) (sess : Option Nat) (b : Bool) :
    s.meet p (hIndex h) home prio me sess b = (s, .ready) := by
  obtain ⟨r, hg, ht, hm⟩ := hr
  simp [State.meet, hg, ht, hm]

/-- Pins and touches of any group leave a group where it stands. -/
theorem State.Resident.updP {s : State} {p : Part} {h : Handle} {f : Partition → Partition} {g : Nat} {φ : Partition → Group → Group}
    (hr : s.Resident p h) (hf : ∀ t, (f t).groups = t.groups.upd g (φ t))
    (hφ : ∀ t r, (φ t r).tier = r.tier ∧ (φ t r).move = r.move) : (s.updP p f).Resident p h := by
  obtain ⟨r, hg, ht, hm⟩ := hr
  obtain ⟨t, hp, hr⟩ := Option.bind_eq_some_iff.1 hg
  by_cases hi : hIndex h = g
  · exact ⟨φ t r, by simp [State.group?, hp, hf, ← hi, hr], (hφ t r).1.trans ht, (hφ t r).2.trans hm⟩
  · exact ⟨r, by simp [State.group?, hp, hf, Tab.find_upd, hi, hr], ht, hm⟩
theorem State.Resident.pinFor {s : State} {p : Part} {h : Handle} (hr : s.Resident p h) (num g : Nat) : (s.pinFor p num g).Resident p h := by
  unfold State.pinFor
  split
  · exact hr
  · exact hr.updP (fun _ => rfl) fun _ _ => ⟨rfl, rfl⟩
theorem State.Resident.touch {s : State} {p : Part} {h : Handle} (hr : s.Resident p h) (g : Nat) :
    (s.updP p fun t => t.touchG g).Resident p h := hr.updP (fun _ => rfl) fun _ _ => ⟨rfl, rfl⟩

/-- Groups that stand in T0 are pinned for the revival's step and touched; nothing else changes. -/
theorem State.reviveGroups_resident (p : Part) (sess num quad : Nat) (hs : List Handle) (s : State) (hr : ∀ h ∈ hs, s.Resident p h) :
    ∃ u, s.reviveGroups p sess num quad hs = (u, .ready) ∧ u.apart p = s.apart p ∧ u.stepNo = s.stepNo := by
  induction hs generalizing s with
  | nil => exact ⟨s, rfl, rfl, rfl⟩
  | cons h hs ih =>
    have hres : ∀ x ∈ h :: hs, ((s.pinFor p num (hIndex h)).updP p fun t => t.touchG (hIndex h)).Resident p x :=
      fun x hx => ((hr x hx).pinFor ..).touch ..
    obtain ⟨u, hu, ha, hn⟩ := ih _ fun x hx => hres x (List.mem_cons_of_mem _ hx)
    refine ⟨u, ?_, ?_, ?_⟩
    · simpa [State.reviveGroups, State.meet_resident (hres h List.mem_cons_self)] using hu
    · rw [ha, State.apart_touch, State.apart_pinFor]
    · rw [hn, State.updP_stepNo, State.pinFor_stepNo]

/-- Stage 4 of a revival whose groups stand in T0: its step `n` may commit. -/
theorem State.reviveStage4_resident {s : State} {p : Part} {t : Partition} {sess n : Nat} {rv : Revival} {k : Step} (hp : s.prt p = some t)
    (hrv : t.revivals.find sess = some rv) (hstep : rv.step = some n) (hk : t.steps.find n = some k) (hnum : k.num = n)
    (hr : ∀ e ∈ rv.seqs, ∀ h ∈ t.groupsThrough k e.seq (e.k.getD 0), h ≠ 0 → s.Resident p h) :
    ∃ t' k', (s.reviveStage4 p sess).prt p = some t' ∧ (s.reviveStage4 p sess).stepNo = s.stepNo ∧ t'.revivals = t.revivals
      ∧ t'.sessions = t.sessions ∧ t'.parked = t.parked ∧ t'.steps.find n = some k' ∧ k'.apart = { k.apart with st := .committing } := by
  obtain ⟨u, hu, ha, hn⟩ := State.reviveGroups_resident p sess k.num (k.clu / 16)
    (rv.seqs.map fun e => (t.groupsThrough k e.seq (e.k.getD 0)).filter (· ≠ 0)).flatten s fun h hh => by
      obtain ⟨l, hl, hh⟩ := List.mem_flatten.1 hh
      obtain ⟨e, he, rfl⟩ := List.mem_map.1 hl
      obtain ⟨hh, hne⟩ := List.mem_filter.1 hh
      exact hr e he h hh (of_decide_eq_true hne)
  have hstage : s.reviveStage4 p sess = u.updStep ⟨p, n⟩ fun k => { k with st := .committing } := by
    simp only [State.reviveStage4, hp, Option.bind_some, Partition.revStep, hrv, hstep, hk, Option.map_some]
    rw [hu, hnum]
  obtain ⟨v, hv, hva⟩ := State.apart_eq_some (ha.trans (by rw [State.apart, hp, Option.map_some]))
  obtain ⟨hsess, -, hrev, hpark⟩ := Partition.of_apart hva
  obtain ⟨k', hk', hka⟩ := Partition.step_of_apart hva hk
  rw [hstage]
  exact ⟨{ v with steps := v.steps.upd n fun k => { k with st := .committing } }, { k' with st := .committing },
    by simp [State.prt_updStep, hv], hn, hrev, hsess, hpark, by simp [hk'], congrArg (fun a : Step => { a with st := .committing }) hka⟩

/-! ### The split point (R205) -/

theorem Partition.splitPoint_le (t : Partition) (ctl : List Nat) (gs : List Handle) (l rc kmax : Nat) :
    t.splitPoint ctl gs l rc kmax ≤ kmax := by
  unfold Partition.splitPoint
  split
  · exact le_rfl
  · exact min_le_left ..
  · refine List.foldlRecOn (motive := fun a : Nat × Option Fl => a.1 ≤ kmax) _ _ (Nat.zero_le _) fun a ha k hk => ?_
    have hk : k ≤ kmax := Nat.lt_succ_iff.1 (List.mem_range.1 hk)
    dsimp only
    split
    · exact hk
    · split
      · exact hk
      · exact ha

/-- A sequence of a revival with the split point that the member which decides gives it. -/
def Partition.chosen (t : Partition) (rv : Revival) (k : Step) (e : RevSeq) : RevSeq :=
  match t.sequences.find e.seq with
  | none => e
  | some sq => { e with k := some (t.splitPoint rv.ctl (t.groupsThrough k e.seq e.kmax) sq.committed sq.rc e.kmax) }

theorem Partition.chosen_seq (t : Partition) (rv : Revival) (k : Step) (e : RevSeq) : (t.chosen rv k e).seq = e.seq := by
  unfold Partition.chosen
  split <;> rfl
theorem Partition.chosen_k_le {t : Partition} {rv : Revival} {k : Step} {e : RevSeq} (h : e.k = none) :
    (t.chosen rv k e).k.getD 0 ≤ e.kmax := by
  unfold Partition.chosen
  split
  · simp [h]
  · exact Partition.splitPoint_le ..

theorem State.reviveChoose_eq {s : State} {p : Part} {t : Partition} {sess : Nat} {rv : Revival} {k : Step} (hp : s.prt p = some t)
    (hk : t.revStep sess = some (rv, k)) : s.reviveChoose p sess = s.updP p fun u =>
      { u with revivals := u.revivals.upd sess fun v => { v with seqs := rv.seqs.map (t.chosen rv k), hgWait := false } } := by
  simp only [State.reviveChoose, hp, Option.bind_some, hk, Option.map_some]
  rfl

/-! ### Stages 2 and 3 (R203, R205) -/

theorem foldl_eq_of_fixed {α β : Type} {f : α → β → α} {a : α} {l : List β} (h : ∀ b ∈ l, f a b = a) : l.foldl f a = a :=
  List.foldlRecOn (motive := (· = a)) l f rfl fun _ hc b hb => by rw [hc]; exact h b hb

theorem getD_find?_range_le (f : Nat → Bool) (n : Nat) : ((List.range n).find? f).getD n ≤ n := by
  cases h : (List.range n).find? f with
  | none => exact le_rfl
  | some b => exact (List.mem_range.1 (List.mem_of_find?_eq_some h)).le

/-- A step that has logged nothing sees the page tables as they stand. -/
theorem Partition.entryOf_of_log_nil (t : Partition) {k : Step} (h : k.log = []) (q b : Nat) :
    t.entryOf k q b = (t.sequences.find q).bind fun sq => sq.table.find b := by
  rw [Partition.entryOf, h]
  rfl

/-- The sequences of a session that a revival takes up. -/
def Session.masked (ss : Session) (mask : Nat) : List Nat :=
  (List.range 4).filterMap fun i =>
    if bitOf mask i then (ss.seqs[i]?).bind fun h => if h = 0 then none else some (hIndex h) else none
theorem Session.of_mem_masked {ss : Session} {mask q : Nat} (h : q ∈ ss.masked mask) :
    ∃ i h, i < 4 ∧ bitOf mask i = true ∧ ss.seqs[i]? = some h ∧ h ≠ 0 ∧ hIndex h = q := by
  obtain ⟨i, hi, hq⟩ := List.mem_filterMap.1 h
  split_ifs at hq with hb
  obtain ⟨h, hh, hq⟩ := Option.bind_eq_some_iff.1 hq
  split_ifs at hq with h0
  exact ⟨i, h, List.mem_range.1 hi, hb, hh, h0, Option.some.inj hq⟩

/-- Every block of a sequence names a group. -/
def Partition.Whole (t : Partition) (q : Nat) : Prop :=
  ∀ sq, t.sequences.find q = some sq → ∀ b, b < sq.blocks → ∃ g, sq.table.find b = some g ∧ g ≠ 0

/-- Stage 2 of a revival whose sequences have no block DROPPED: nothing is looked up. -/
theorem State.reviveRun_whole {s : State} {p : Part} {t : Partition} {sess : Nat} {rv : Revival} {k : Step} {ss : Session} {m : ModelDesc}
    (hp : s.prt p = some t) (hk : t.revStep sess = some (rv, k)) (hs : t.sessions.find sess = some ss) (hm : t.model? ss.model = some m)
    (hseqs : rv.seqs = []) (hw : ∀ q ∈ ss.masked rv.mask, t.Whole q) :
    ∃ seqs : List RevSeq, s.reviveRun p sess = ((s.updStep ⟨p, k.num⟩ fun k => { k with log := [] }).updP p fun t =>
        { t with revivals := t.revivals.upd sess fun v => { v with seqs := seqs } }).reviveStage3 p sess
      ∧ ∀ e ∈ seqs, e.seq ∈ ss.masked rv.mask ∧ e.k = none ∧ ∀ sq, t.sequences.find e.seq = some sq → e.kmax ≤ sq.blocks := by
  have hgone : ∀ q ∈ ss.masked rv.mask, ∀ sq, t.sequences.find q = some sq →
      ((List.range sq.blocks).filter fun b => (t.entryOf { k with log := [] } q b).getD 0 == 0) = [] := by
    intro q hq sq hsq
    refine List.filter_eq_nil_iff.2 fun b hb => ?_
    obtain ⟨g, hg, h0⟩ := hw q hq sq hsq b (List.mem_range.1 hb)
    rw [Partition.entryOf_of_log_nil _ rfl, hsq, Option.bind_some, hg]
    simpa using h0
  unfold State.reviveRun
  simp only [hp, Option.bind_some, hk, hs, hm, Option.map_some, hseqs, List.isEmpty_nil, Bool.not_true, Bool.false_eq_true, if_false]
  rw [foldl_eq_of_fixed]
  · dsimp only
    rw [if_neg]
    · refine ⟨_, rfl, fun e he => ?_⟩
      have ht : (s.updStep ⟨p, k.num⟩ fun k => { k with log := [] }).prt p
          = some { t with steps := t.steps.upd k.num fun k => { k with log := [] } } := by simp [State.prt_updStep, hp]
      simp only [State.getP, ht] at he
      obtain ⟨q, hq, rfl⟩ := List.mem_map.1 he
      refine ⟨hq, rfl, fun sq hsq => ?_⟩
      dsimp only at hsq ⊢
      simp only [hsq, Option.map_some, Option.getD_some]
      exact getD_find?_range_le ..
    · refine fun h => absurd (List.any_eq_true.1 (Bool.and_eq_true_iff.1 h).2) ?_
      rintro ⟨q, hq, hne⟩
      split_ifs at hne
      · simp at hne
      · split at hne
        · next sq hsq =>
          rw [hgone q hq sq hsq] at hne
          simp at hne
        · simp at hne
  · intro q hq
    dsimp only
    split
    · next sq _ hsq =>
      split_ifs
      · rfl
      · simp only [hsq, hgone q hq sq hsq]
        rfl
    · rfl

/-- Stages 3 and 4 of a revival alone in its head group. -/
theorem State.reviveStage3_alone {s : State} {p : Part} {t : Partition} {sess : Nat} {rv : Revival} {k : Step} {m : ModelDesc}
    (hp : s.prt p = some t) (hk : t.revStep sess = some (rv, k)) (hm : t.sessModel sess = some m) (h1 : m.hgSize ≤ 1) :
    s.reviveStage3 p sess = (s.reviveChoose p sess).reviveStage4 p sess := by
  simp [State.reviveStage3, hp, hk, hm, h1]

/-- Every block of a sequence names a group that stands in T0 and in no move. -/
def Partition.InPlace (t : Partition) (q : Nat) : Prop :=
  ∃ sq, t.sequences.find q = some sq ∧ ∀ b, b < sq.blocks →
    ∃ g r, sq.table.find b = some g ∧ g ≠ 0 ∧ t.groups.find (hIndex g) = some r ∧ r.tier = .t0 ∧ r.move = .idle

theorem Partition.InPlace.whole {t : Partition} {q : Nat} (h : t.InPlace q) : t.Whole q := by
  obtain ⟨sq, hsq, hb⟩ := h
  intro sq' hsq' b hlt
  obtain rfl : sq = sq' := Option.some.inj (hsq.symm.trans hsq')
  obtain ⟨g, _, hg, h0, _⟩ := hb b hlt
  exact ⟨g, hg, h0⟩

/-- What a step with nothing logged sees of a sequence's blocks stands in T0. -/
theorem Partition.InPlace.resident {s : State} {p : Part} {t : Partition} {q n : Nat} {k : Step} {h : Handle} {sq : Sequence}
    (hp : s.prt p = some t) (hq : t.InPlace q) (hlog : k.log = []) (hsq : t.sequences.find q = some sq) (hn : n ≤ sq.blocks)
    (hh : h ∈ t.groupsThrough k q n) : s.Resident p h := by
  obtain ⟨sq', hsq', hb⟩ := hq
  obtain rfl : sq = sq' := Option.some.inj (hsq.symm.trans hsq')
  obtain ⟨b, hlt, rfl⟩ := List.mem_map.1 hh
  obtain ⟨g, r, hg, -, hr, ht, hm⟩ := hb b ((List.mem_range.1 hlt).trans_le hn)
  rw [Partition.entryOf_of_log_nil _ hlog, hsq, Option.bind_some, hg]
  exact ⟨r, by simp [State.group?, hp, hr], ht, hm⟩

theorem Partition.revStep_eq {t : Partition} {sess n : Nat} {rv : Revival} {k : Step} (hrv : t.revivals.find sess = some rv)
    (hstep : rv.step = some n) (hk : t.steps.find n = some k) : t.revStep sess = some (rv, k) := by
  simp [Partition.revStep, hrv, hstep, hk]

/-- Stages 3 and 4 of a revival alone in its head group, whose blocks all stand in T0: every k is chosen, and its step may commit. -/
theorem State.reviveStage3_in_place {s : State} {p : Part} {t : Partition} {sess n : Nat} {rv : Revival} {k : Step} {m : ModelDesc}
    (hp : s.prt p = some t) (hrv : t.revivals.find sess = some rv) (hstep : rv.step = some n) (hk : t.steps.find n = some k)
    (hnum : k.num = n) (hlog : k.log = []) (hm : t.sessModel sess = some m) (h1 : m.hgSize ≤ 1)
    (hin : ∀ e ∈ rv.seqs, e.k = none ∧ ∃ sq, t.sequences.find e.seq = some sq ∧ e.kmax ≤ sq.blocks ∧ t.InPlace e.seq) :
    ∃ t' k', (s.reviveStage3 p sess).prt p = some t' ∧ (s.reviveStage3 p sess).stepNo = s.stepNo
      ∧ t'.revivals.find sess = some { rv with seqs := rv.seqs.map (t.chosen rv k), hgWait := false }
      ∧ t'.sessions = t.sessions ∧ t'.parked = t.parked ∧ t'.steps.find n = some k' ∧ k'.apart = { k.apart with st := .committing } := by
  have hk₀ := Partition.revStep_eq hrv hstep hk
  rw [State.reviveStage3_alone hp hk₀ hm h1, State.reviveChoose_eq hp hk₀]
  have hp' := State.prt_updP_self s p fun u =>
    { u with revivals := u.revivals.upd sess fun v => { v with seqs := rv.seqs.map (t.chosen rv k), hgWait := false } }
  rw [hp, Option.map_some] at hp'
  have hrv' : (t.revivals.upd sess fun v => { v with seqs := rv.seqs.map (t.chosen rv k), hgWait := false }).find sess
      = some { rv with seqs := rv.seqs.map (t.chosen rv k), hgWait := false } := by
    rw [Tab.find_upd_self, hrv, Option.map_some]
  obtain ⟨t', k', hu, hno, hrev, hsess, hpark, hk', hka⟩ := State.reviveStage4_resident hp' hrv' hstep hk hnum fun e he h hh _ => by
    obtain ⟨e₀, he₀, rfl⟩ := List.mem_map.1 he
    obtain ⟨hnone, sq, hsq, hle, hq⟩ := hin e₀ he₀
    rw [Partition.chosen_seq] at hh
    exact Partition.InPlace.resident hp' hq hlog hsq ((Partition.chosen_k_le hnone).trans hle) hh
  exact ⟨t', k', hu, hno, by rw [hrev]; exact hrv', hsess, hpark, hk', hka⟩

/-- Stages 2 to 4 of a revival whose blocks all stand in T0: its step may commit, and what stage 1 has set stands. -/
theorem State.reviveRun_in_place {s : State} {p : Part} {t : Partition} {sess n : Nat} {rv : Revival} {k : Step} {ss : Session}
    {m : ModelDesc} (hp : s.prt p = some t) (hrv : t.revivals.find sess = some rv) (hstep : rv.step = some n)
    (hk : t.steps.find n = some k) (hnum : k.num = n) (hs : t.sessions.find sess = some ss) (hm : t.model? ss.model = some m)
    (hseqs : rv.seqs = []) (h1 : m.hgSize ≤ 1) (hw : ∀ q ∈ ss.masked rv.mask, t.InPlace q) :
    ∃ t' k' seqs, (s.reviveRun p sess).prt p = some t' ∧ (s.reviveRun p sess).stepNo = s.stepNo
      ∧ t'.revivals.find sess = some { rv with seqs := seqs, hgWait := false } ∧ t'.sessions = t.sessions ∧ t'.parked = t.parked
      ∧ t'.steps.find n = some k' ∧ k'.apart = { k.apart with log := [], st := .committing } := by
  subst hnum
  obtain ⟨seqs, hrun, hin⟩ := State.reviveRun_whole hp (Partition.revStep_eq hrv hstep hk) hs hm hseqs fun q hq => (hw q hq).whole
  have hp' : ((s.updStep ⟨p, k.num⟩ fun k => { k with log := [] }).updP p fun t =>
      { t with revivals := t.revivals.upd sess fun v => { v with seqs := seqs } }).prt p
      = some { t with steps := t.steps.upd k.num fun k => { k with log := [] }
                      revivals := t.revivals.upd sess fun v => { v with seqs := seqs } } := by
    simp [State.prt_updStep, hp]
  have hm' : t.sessModel sess = some m := by rw [Partition.sessModel, hs, Option.bind_some, hm]
  obtain ⟨t', k', hu, hno, hrev, hsess, hpark, hk', hka⟩ := State.reviveStage3_in_place (n := k.num) (rv := { rv with seqs := seqs })
    (k := { k with log := [] }) hp' (by simp [hrv]) hstep (by simp [hk]) rfl rfl hm' h1 fun e he => by
      obtain ⟨hmask, hnone, hle⟩ := hin e he
      obtain ⟨sq, hsq, -⟩ := hw _ hmask
      exact ⟨hnone, sq, hsq, hle sq hsq, hw _ hmask⟩
  rw [hrun]
  exact ⟨t', k', _, hu, hno, hrev, hsess, hpark, hk', hka⟩

/-! ### Stage 1 (R203) -/

/-- A partition as stage 1 leaves it: the step `k` is in flight, and the session is REVIVING with no deadline. -/
def Partition.begun (t : Partition) (sess : Nat) (ss : Session) (k : Step) : Partition :=
  { t with steps := t.steps.put k.num k
           due := t.due.filter fun d => !(d.kind == 4 && d.lane == sess)
           revivals := t.revivals.upd sess fun v => { v with step := some k.num, oldTtl := ss.ttl, ctl := t.rvCtl }
           sessions := t.sessions.upd sess fun r => { r with st := .reviving, ttl := 0 }
           parked := t.parked.filter (· ≠ sess) }

theorem Partition.begun_revivals {t : Partition} {sess : Nat} {rv : Revival} {ss : Session} {k : Step}
    (h : t.revivals.find sess = some rv) :
    (t.begun sess ss k).revivals.find sess = some { rv with step := some k.num, oldTtl := ss.ttl, ctl := t.rvCtl } := by
  simp [Partition.begun, h]
theorem Partition.begun_sessions {t : Partition} {sess : Nat} {ss : Session} {k : Step} (h : t.sessions.find sess = some ss) :
    (t.begun sess ss k).sessions.find sess = some { ss with st := .reviving, ttl := 0 } := by
  simp [Partition.begun, h]

/-- The record of a revival's step as it starts. -/
def State.revivalStep (s : State) (t : Partition) (sess : Nat) (rv : Revival) (ss : Session) (c : Nat) : Step :=
  { newStep s.stepNo (rv.waiters.headD (0, 0)).1 (rv.waiters.headD (0, 0)).2 4 0 noProgram c ((s.frameOn c).getD 0) t.clock with
    sess := some sess, h0 := ss.h }

section
variable {s : State} {p : Part} {t : Partition} {sess : Nat} {rv : Revival} {ss : Session}

/-- A cluster is found only where one is in service. -/
theorem State.revivalCluster_of_all_out (h : ∀ c ∈ clustersOf t.clusters, s.cluOut c = true) : s.revivalCluster p t = none := by
  unfold State.revivalCluster
  dsimp only
  rw [List.filter_eq_nil_iff.2 fun c hc => by simp [h c hc]]
  rfl

theorem exec_revivalStepStart_not_fetching (hp : s.prt p = some t) (hrv : t.revivals.find sess = some rv) (hstep : rv.step = none)
    (hf : s.fetching = false) : exec (.revivalStepStart p sess) s = .next s := by
  simp [exec_revivalStepStart, execRevivalStepStart, hp, hrv, hstep, hf]

variable (hp : s.prt p = some t) (hs : t.sessions.find sess = some ss) (hrv : t.revivals.find sess = some rv) (hstep : rv.step = none)
  (ha : t.st = .active) (hf : s.fetching = true)
include hp hs hrv hstep ha hf

theorem exec_revivalStepStart_not_parked (hst : ss.st ≠ .parked) :
    exec (.revivalStepStart p sess) s = .next (s.stopRevival p sess .accessViolation) := by
  simp [exec_revivalStepStart, execRevivalStepStart, hp, hrv, hstep, hf, ha, hs, hst]

theorem exec_revivalStepStart_all_out (hst : ss.st = .parked) (hc : ∀ c ∈ clustersOf t.clusters, s.cluOut c = true) :
    exec (.revivalStepStart p sess) s = .next (s.stopRevival p sess .unitQuarantined) := by
  simp [exec_revivalStepStart, execRevivalStepStart, hp, hrv, hstep, hf, ha, hs, hst, List.all_eq_true.2 hc]

theorem exec_revivalStepStart_no_frame (hst : ss.st = .parked) (hc : ∃ c ∈ clustersOf t.clusters, s.cluOut c = false)
    (hn : s.revivalCluster p t = none) : exec (.revivalStepStart p sess) s = .next s := by
  have hall : (clustersOf t.clusters).all s.cluOut = false := by simpa using hc
  simp [exec_revivalStepStart, execRevivalStepStart, hp, hrv, hstep, hf, ha, hs, hst, hall, hn]

theorem exec_revivalStepStart_begins {c : Nat} (hst : ss.st = .parked) (hc : s.revivalCluster p t = some c) :
    exec (.revivalStepStart p sess) s = .next (({ s with stepNo := s.stepNo + 1 }.updP p fun u =>
      u.begun sess ss (s.revivalStep t sess rv ss c)).reviveRun p sess) := by
  have hall : (clustersOf t.clusters).all s.cluOut = false := by
    rw [← Bool.not_eq_true]
    intro h
    rw [State.revivalCluster_of_all_out (List.all_eq_true.1 h)] at hc
    cases hc
  rw [exec_revivalStepStart, execRevivalStepStart]
  simp only [hp, Option.bind_some, hrv, Option.map_some, hstep, ha, hf, hs, hst, hall, hc]
  rfl

/-- A revival step whose session's blocks all stand in T0 takes its frame and runs through to its commit. -/
theorem exec_revivalStepStart_runs {c : Nat} {m : ModelDesc} (hst : ss.st = .parked) (hc : s.revivalCluster p t = some c)
    (hm : t.model? ss.model = some m) (hseqs : rv.seqs = []) (h1 : m.hgSize ≤ 1) (hw : ∀ q ∈ ss.masked rv.mask, t.InPlace q) :
    ∃ u t' k v, exec (.revivalStepStart p sess) s = .next u ∧ u.prt p = some t' ∧ t'.steps.find s.stepNo = some k ∧ k.kind = 4
        ∧ k.clu = c ∧ k.st = .committing ∧ u.stepNo = s.stepNo + 1 ∧ t'.sessions.find sess = some { ss with st := .reviving, ttl := 0 }
        ∧ t'.revivals.find sess = some v ∧ v.step = some s.stepNo ∧ v.oldTtl = ss.ttl
        ∧ v.ctl = t.rvCtl ∧ sess ∉ t'.parked := by
  obtain ⟨t', k', seqs, hu, hno, hrev, hsess, hpark, hk', hka⟩ := State.reviveRun_in_place (s := { s with stepNo := s.stepNo + 1 }.updP p
      fun u => u.begun sess ss (s.revivalStep t sess rv ss c)) (p := p) (sess := sess) (n := s.stepNo) (m := m)
    (rv := { rv with step := some s.stepNo, oldTtl := ss.ttl, ctl := t.rvCtl }) (ss := { ss with st := .reviving, ttl := 0 })
    ((State.prt_updP_self ..).trans (congrArg (Option.map _) hp)) (Partition.begun_revivals hrv) rfl (Tab.find_put_self ..) rfl
    (Partition.begun_sessions hs) hm hseqs h1 hw
  refine ⟨_, t', k', _, exec_revivalStepStart_begins hp hs hrv hstep ha hf hst hc, hu, hk', (congrArg (fun a => a.kind) hka :),
    (congrArg (fun a => a.clu) hka :), (congrArg (fun a => a.st) hka :), hno, ?_, hrev, rfl, rfl, rfl, ?_⟩
  · rw [hsess]
    exact Partition.begun_sessions hs
  · rw [hpark]
    simp [Partition.begun]
end

/-! ### The commit (R203 stage 6, R204) -/

/-- A sequence cut to its blocks below `k` and to a length; what is cut off is to be recomputed. -/
def Sequence.cut (sq : Sequence) (k len : Nat) : Sequence :=
  { sq with table := sq.table.keep fun b _ => b < k, keys := sq.keys.keep fun b _ => b < k, committed := len, prov := 0
            rc := sq.rc + (sq.committed - len) }

@[simp] theorem Partition.count_steps (t : Partition) (n k : Nat) : (t.count n k).steps = t.steps := by
  unfold Partition.count
  split <;> rfl
@[simp] theorem Partition.count_sessions (t : Partition) (n k : Nat) : (t.count n k).sessions = t.sessions := by
  unfold Partition.count
  split <;> rfl
@[simp] theorem Partition.count_sequences (t : Partition) (n k : Nat) : (t.count n k).sequences = t.sequences := by
  unfold Partition.count
  split <;> rfl

theorem State.prt_refsDown {s : State} {p : Part} {t : Partition} (gone : Tab Handle) (hp : s.prt p = some t) :
    ∃ u, (s.forEach gone fun s b => if b.2 = 0 then s else s.refDown p (hIndex b.2)).prt p = some u ∧ u.apart = t.apart :=
  State.apart_eq_some ((State.forEach_keeps (fun s => s.apart p) _ _ (fun s b => by split <;> simp) s).trans
    (congrArg (Option.map Partition.apart) hp))

/-- The cut of a sequence leaves the sessions and the steps, but for pins and stale marks. -/
theorem State.prt_reviveCut {s : State} {p : Part} {t : Partition} {e : RevSeq} {sq : Sequence} {kk : Nat} (hp : s.prt p = some t)
    (hsq : t.sequences.find e.seq = some sq) (hkk : e.k = some kk) :
    ∃ t', (s.reviveCut p e).prt p = some t' ∧ t'.sequences.find e.seq = some (sq.cut kk (min sq.committed (64 * kk)))
      ∧ t'.sessions = t.sessions ∧ ∀ n k, t.steps.find n = some k → ∃ k', t'.steps.find n = some k' ∧ k'.apart = k.apart := by
  have hq : s.seq? p e.seq = some sq := by rw [State.seq?, hp, Option.bind_some, hsq]
  have hcut := State.prt_updP_self s p fun t =>
    { t with sequences := t.sequences.upd e.seq fun q => q.cut kk (min sq.committed (64 * kk)) }
  rw [hp, Option.map_some] at hcut
  obtain ⟨u, hu, hua⟩ := State.prt_refsDown (sq.table.filter fun b => b.1 ≥ kk) hcut
  obtain ⟨hsess, hseq, -, -⟩ := Partition.of_apart hua
  unfold State.reviveCut
  simp only [hq, hkk]
  refine ⟨_, (State.prt_updP_self ..).trans (congrArg (Option.map _) hu), ?_, ?_, fun n k hk => ?_⟩
  · rw [Partition.count_sequences, hseq, Tab.find_upd_self, hsq, Option.map_some]
  · rw [Partition.count_sessions, hsess]
  · rw [Partition.count_steps]
    exact Partition.step_of_apart hua hk

theorem State.prt_sessRecord (s : State) (p q : Part) (i jtype step : Nat) : (s.sessRecord q i jtype step).1.prt p = s.prt p := by
  unfold State.sessRecord
  split <;> rfl
theorem State.journal_jwrite (s : State) (j jtype step : Nat) (object : Handle) (body : JBody) (forced : Bool) :
    (s.jwrite j jtype step object body forced).1.journal j = { s.journal j with
      openPage := (s.journal j).openPage ++ [⟨jtype, forced, (s.journal j).next, step, object, body⟩], next := (s.journal j).next + 1 } := by
  simp [State.jwrite, State.journal, Tab.getD]
/-- The record of a session that is there stands last in the journal's open page. -/
theorem State.journal_sessRecord {s : State} {p : Part} {i : Nat} {ss : Session} (h : s.sess? p i = some ss) (jtype step : Nat) :
    ∃ r, ((s.sessRecord p i jtype step).1.journal p.val).openPage.getLast? = some r ∧ r.jtype = jtype ∧ r.step = step := by
  unfold State.sessRecord
  simp only [h]
  exact ⟨_, (congrArg (fun j => j.openPage.getLast?) (State.journal_jwrite ..)).trans (List.getLast?_concat ..), rfl, rfl⟩

/-- A partition as a revival's commit leaves it: the session is OPEN, and the step has applied. -/
def Partition.revived (t : Partition) (sess n : Nat) : Partition :=
  { t with sessions := t.sessions.upd sess fun r => { r with st := .opened }
           revivals := t.revivals.upd sess fun v => { v with committed := true }
           steps := t.steps.upd n fun k => { k with st := .applied, recDue := true, log := [] } }

section
variable {s : State} {p : Part} {t : Partition} {sess n : Nat} {rv : Revival} {k : Step} {m : ModelDesc}
  (hp : s.prt p = some t) (hk : t.revStep sess = some (rv, k)) (hm : t.sessModel sess = some m)
include hp hk hm

theorem exec_revivalApply_not_committing (hst : k.st ≠ .committing) : exec (.revivalApply p sess) s = .next s := by
  simp [exec_revivalApply, execRevivalApply, hp, hk, hm, hst]

theorem exec_revivalApply_one {e : RevSeq} (hst : k.st = .committing) (hc : rv.committed = false) (hlog : k.log = [])
    (hseqs : rv.seqs = [e]) (hcompat : t.compat = false) (hj : s.journalShort p.val = false)
    (hpro : ∀ g ∈ rv.promos, ∀ r, t.groups.find g = some r → r.move ≠ .promoting) :
    exec (.revivalApply p sess) s = .next
      (let r := (((s.reviveCut p e).updP p fun t => t.revived sess k.num).count p cRevivals).sessRecord p sess jRevive k.num
       r.1.recFor p k.num r.2) := by
  have hany : (rv.promos.any fun g => (t.groups.find g).any fun r => r.move == .promoting) = false := by
    rw [List.any_eq_false]
    intro g hg
    cases hr : t.groups.find g with
    | none => simp
    | some r => simpa using hpro g hg r hr
  rw [exec_revivalApply, execRevivalApply]
  simp only [hp, Option.bind_some, hk, hm, Option.map_some, hst, hc, hlog, hseqs, hcompat, hj, hany]
  rfl

/-- The commit of a revival of one sequence. -/
theorem exec_revivalApply_commits {e : RevSeq} {kk : Nat} {sq : Sequence} {ss : Session} (hs : t.sessions.find sess = some ss)
    (hn : t.steps.find n = some k) (hnum : k.num = n) (hst : k.st = .committing) (hc : rv.committed = false) (hlog : k.log = [])
    (hseqs : rv.seqs = [e]) (hkk : e.k = some kk) (hsq : t.sequences.find e.seq = some sq) (hcompat : t.compat = false)
    (hj : s.journalShort p.val = false) (hpro : ∀ g ∈ rv.promos, ∀ r, t.groups.find g = some r → r.move ≠ .promoting) :
    ∃ u t' ss' k' rec', exec (.revivalApply p sess) s = .next u ∧ u.prt p = some t'
      ∧ t'.sequences.find e.seq = some (sq.cut kk (min sq.committed (64 * kk)))
      ∧ t'.sessions.find sess = some ss' ∧ ss'.st = .opened ∧ t'.steps.find n = some k' ∧ k'.st = .applied
      ∧ (u.journal p.val).openPage.getLast? = some rec' ∧ rec'.jtype = jRevive ∧ rec'.step = n := by
  subst hnum
  obtain ⟨v, hv, hvseq, hvsess, hvstep⟩ := State.prt_reviveCut hp hsq hkk
  obtain ⟨k', hk', -⟩ := hvstep _ k hn
  have hp' : (((s.reviveCut p e).updP p fun t => t.revived sess k.num).count p cRevivals).prt p
      = some ((v.revived sess k.num).count cRevivals 1) := by
    simp [State.count, hv]
  have hsess : ((v.revived sess k.num).count cRevivals 1).sessions.find sess = some { ss with st := .opened } := by
    simp [Partition.revived, hvsess, hs]
  have hstep : ((v.revived sess k.num).count cRevivals 1).steps.find k.num
      = some { k' with st := .applied, recDue := true, log := [] } := by
    simp [Partition.revived, hk']
  obtain ⟨rec', hrec, hty, hrs⟩ := State.journal_sessRecord (i := sess) (by rw [State.sess?, hp', Option.bind_some, hsess]) jRevive k.num
  refine ⟨_, _, _, _, rec', exec_revivalApply_one hp hk hm hst hc hlog hseqs hcompat hj hpro,
    (State.prt_updP_self ..).trans (congrArg (Option.map _) ((State.prt_sessRecord ..).trans hp')), ?_, hsess, rfl,
    (Tab.find_upd_self ..).trans (congrArg (Option.map _) hstep), rfl, hrec, hty, hrs⟩
  exact (congrArg (fun a : Tab Sequence => a.find e.seq) (Partition.count_sequences ..)).trans hvseq
end

/-! ### The head group (R207) -/

theorem Partition.find_of_revStep {t : Partition} {i : Nat} {r : Revival × Step} (h : t.revStep i = some r) :
    t.revivals.find i = some r.1 := by
  obtain ⟨v, hv, h⟩ := Option.bind_eq_some_iff.1 h
  obtain ⟨n, -, h⟩ := Option.bind_eq_some_iff.1 h
  obtain ⟨k, -, rfl⟩ := Option.map_eq_some_iff.1 h
  exact hv

/-- The lead does not go on with a revival that waits for no member, or has not yet what each must send. -/
theorem State.reviveLead_waits {s : State} {p : Part} {t : Partition} {i : Nat} (hp : s.prt p = some t)
    (hw : ∀ v d, t.revivals.find i = some v → t.sessModel i = some d → v.hgWait = false ∨ t.hgRevived d v = false) :
    s.reviveLead p i = s := by
  cases hk : t.revStep i with
  | none => simp [State.reviveLead, hp, hk]
  | some r =>
    cases hd : t.sessModel i with
    | none => simp [State.reviveLead, hp, hk, hd]
    | some d =>
      have hstop : (!r.1.hgWait || !t.hgRevived d r.1) = true := by
        rcases hw r.1 d (Partition.find_of_revStep hk) hd with h | h <;> simp [h]
      simp only [State.reviveLead, hp, Option.bind_some, hk, hd, Option.map_some, hstop, if_true]

/-- A partition with what member `r` has sent for a sequence: with the revival that waits for it, else kept ahead of one. -/
def Partition.gotRevive (t : Partition) (r hg kmax : Nat) : Partition :=
  match t.revivalBySeq hg with
  | some i => { t with revivals := t.revivals.upd i fun v => { v with hgGot := v.hgGot ++ [(r, hg, kmax)] } }
  | none => { t with hgEarly := (t.hgEarly.filter fun o => !(o.1 == r && o.2.1 == hg)) ++ [(r, hg, kmax)] }

theorem Partition.gotRevive_sessModel (t : Partition) (r hg kmax i : Nat) : (t.gotRevive r hg kmax).sessModel i = t.sessModel i := by
  unfold Partition.gotRevive
  split <;> rfl
theorem Partition.gotRevive_hgRevived (t : Partition) (r hg kmax : Nat) (m : ModelDesc) (v : Revival) :
    (t.gotRevive r hg kmax).hgRevived m v = t.hgRevived m v := by
  unfold Partition.gotRevive
  split <;> rfl
/-- Where no revival is begun or due, what a member sends is kept ahead of one. -/
theorem Partition.gotRevive_early {t : Partition} (h : t.revivals = []) (r hg kmax : Nat) : t.gotRevive r hg kmax
    = { t with hgEarly := (t.hgEarly.filter fun o => !(o.1 == r && o.2.1 == hg)) ++ [(r, hg, kmax)] } := by
  have hno : t.revivalBySeq hg = none := by rw [Partition.revivalBySeq, h]; rfl
  rw [Partition.gotRevive, hno]
theorem Partition.gotRevive_waiting {t : Partition} {hg i : Nat} (h : t.revivalBySeq hg = some i) (r kmax : Nat) : t.gotRevive r hg kmax
    = { t with revivals := t.revivals.upd i fun v => { v with hgGot := v.hgGot ++ [(r, hg, kmax)] } } := by
  rw [Partition.gotRevive, h]

section
variable {s : State} {p : Part} {t : Partition} {qp r : Nat} {msg : Msg} {m : ModelDesc} {b : List Byte} (hp : s.prt p = some t)
  (hm : t.model? msg.modelId = some m) (hsz : msgSized msg 8 = true) (hb : msgRecs msg 8 = [b])
include hp hm hsz hb

/-- HG_REVIVE with one record, after which the lead goes on with no revival. -/
theorem exec_hgRevive_keeps (hr : m.memberOf qp = some r) (hl : m.leads = true) (hty : msg.mtype.toNat = mtHgRevive)
    (hw : ∀ i v d, (t.gotRevive r (fld b 0 4) (fld b 4 4)).revivals.find i = some v → t.sessModel i = some d →
      v.hgWait = false ∨ t.hgRevived d v = false) :
    ∃ u, exec (.hgRevive p qp msg) s = .next u ∧ Answers u .ok ∧ u.prt p = some (t.gotRevive r (fld b 0 4) (fld b 4 4)) := by
  have hu : (s.updP p fun t => t.gotRevive r (fld b 0 4) (fld b 4 4)).prt p = some (t.gotRevive r (fld b 0 4) (fld b 4 4)) :=
    (State.prt_updP_self ..).trans (congrArg (Option.map _) hp)
  have hlead : ∀ l : List Nat, (s.updP p fun t => t.gotRevive r (fld b 0 4) (fld b 4 4)).forEach l (fun s i => s.reviveLead p i)
      = s.updP p fun t => t.gotRevive r (fld b 0 4) (fld b 4 4) := fun l =>
    foldl_eq_of_fixed fun i _ => State.reviveLead_waits hu fun v d hv hd => by
      rw [Partition.gotRevive_hgRevived]
      exact hw i v d hv ((Partition.gotRevive_sessModel ..).symm.trans hd)
  refine ⟨(s.updP p fun t => t.gotRevive r (fld b 0 4) (fld b 4 4)).answer .ok, ?_, answers_answer .., hu⟩
  rw [exec_hgRevive, State.hgReviveMsg]
  simp only [hp, Option.bind_some, hm, hr, Option.map_some, hl, hty, hsz, hb]
  exact congrArg (fun u : State => Host.Outcome.next (u.answer .ok)) (hlead _)

theorem exec_hgRevive_early (hr : m.memberOf qp = some r) (hl : m.leads = true) (hty : msg.mtype.toNat = mtHgRevive)
    (hno : t.revivals = []) :
    ∃ u, exec (.hgRevive p qp msg) s = .next u ∧ Answers u .ok ∧ u.prt p = some { t with
      hgEarly := (t.hgEarly.filter fun o => !(o.1 == r && o.2.1 == fld b 0 4)) ++ [(r, fld b 0 4, fld b 4 4)] } := by
  rw [← Partition.gotRevive_early hno]
  refine exec_hgRevive_keeps hp hm hsz hb hr hl hty fun i v d hv _ => ?_
  rw [Partition.gotRevive_early hno] at hv
  dsimp only at hv
  rw [hno] at hv
  cases hv

theorem exec_hgRevive_waiting {i : Nat} {v : Revival} (hr : m.memberOf qp = some r) (hl : m.leads = true)
    (hty : msg.mtype.toNat = mtHgRevive) (hi : t.revivalBySeq (fld b 0 4) = some i) (hv : t.revivals.find i = some v)
    (hothers : ∀ e ∈ t.revivals, e.1 ≠ i → e.2.hgWait = false)
    (hlacks : ∀ d, t.sessModel i = some d → t.hgRevived d { v with hgGot := v.hgGot ++ [(r, fld b 0 4, fld b 4 4)] } = false) :
    ∃ u t', exec (.hgRevive p qp msg) s = .next u ∧ Answers u .ok ∧ u.prt p = some t'
      ∧ t'.revivals.find i = some { v with hgGot := v.hgGot ++ [(r, fld b 0 4, fld b 4 4)] } := by
  have hgot := Partition.gotRevive_waiting hi r (fld b 4 4)
  have hfind : (t.gotRevive r (fld b 0 4) (fld b 4 4)).revivals.find i
      = some { v with hgGot := v.hgGot ++ [(r, fld b 0 4, fld b 4 4)] } := by simp [hgot, hv]
  obtain ⟨u, he, ha, hu⟩ := exec_hgRevive_keeps hp hm hsz hb hr hl hty fun j w d hw hd => by
    by_cases hj : j = i
    · subst hj
      obtain rfl := Option.some.inj (hfind.symm.trans hw)
      exact .inr (hlacks d hd)
    · rw [hgot] at hw
      exact .inl (hothers _ (Tab.mem_of_find ((Tab.find_upd_ne _ _ hj).symm.trans hw)) hj)
  exact ⟨u, _, he, ha, hu, hfind⟩

/-- HG_REVIVE_K with one record, for the revival of the session that holds its sequence. -/
theorem exec_hgReviveK_one {i : Nat} {v : Revival} (hr : m.memberOf qp = some 0) (hl : m.leads = false)
    (hty : msg.mtype.toNat = mtHgReviveK) (hi : t.revivalHolding (fld b 0 4) = some i) (hv : t.revivals.find i = some v) :
    exec (.hgReviveK p qp msg) s = .next ((if fld b 4 4 = 0xFFFFFFFF then s.stopRevival p i .aborted
      else if v.hgWait then s.reviveGiven p i [(fld b 0 4, fld b 4 4)]
      else s.updP p fun t => { t with revivals := t.revivals.upd i fun v => { v with hgGot := [(0, fld b 0 4, fld b 4 4)] } }).answer .ok) := by
  rw [exec_hgReviveK, State.hgReviveKMsg]
  have hone : [i].eraseDups = [i] := rfl
  simp [hp, hm, hr, hl, hty, hsz, hb, State.getP, hi, hone, hv]
end

/-- A follower takes up the k that the lead gave for the one sequence of its revival. -/
theorem State.reviveGiven_one {s : State} {p : Part} {t : Partition} {i n : Nat} {v : Revival} {e : RevSeq} (hp : s.prt p = some t)
    (hv : t.revivals.find i = some v) (he : v.seqs = [e]) :
    ∃ (u : State) (rs : Tab Revival), s.reviveGiven p i [(t.hgSeqOf e.seq, n)] = u.reviveStage4 p i ∧ u.prt p = some { t with revivals := rs }
      ∧ rs.find i = some { v with hgWait := false, seqs := [{ e with k := some (min n e.kmax) }] } := by
  unfold State.reviveGiven
  dsimp only
  rw [if_pos]
  · exact ⟨_, _, rfl, (State.prt_updP_self ..).trans (congrArg (Option.map _) ((State.prt_updP_self ..).trans
      (congrArg (Option.map _) hp))), by simp [hv, he]⟩
  · simp [State.getP, hp, hv, he]

/-- A follower that waits for k goes on with it where the groups below k stand in T0. -/
theorem State.reviveGiven_in_place {s : State} {p : Part} {t : Partition} {i n g : Nat} {v : Revival} {e : RevSeq} {k : Step}
    (hp : s.prt p = some t) (hv : t.revivals.find i = some v) (hstep : v.step = some n) (hk : t.steps.find n = some k) (hnum : k.num = n)
    (he : v.seqs = [e]) (hres : ∀ h ∈ t.groupsThrough k e.seq (min g e.kmax), h ≠ 0 →
      ∃ r, t.groups.find (hIndex h) = some r ∧ r.tier = .t0 ∧ r.move = .idle) :
    ∃ t' k', (s.reviveGiven p i [(t.hgSeqOf e.seq, g)]).prt p = some t'
      ∧ t'.revivals.find i = some { v with hgWait := false, seqs := [{ e with k := some (min g e.kmax) }] }
      ∧ t'.steps.find n = some k' ∧ k'.st = .committing := by
  obtain ⟨u, rs, hu, hup, hrs⟩ := State.reviveGiven_one (n := g) hp hv he
  obtain ⟨t', k', ht', -, hrev, -, -, hk', hka⟩ := State.reviveStage4_resident hup hrs hstep hk hnum fun e' he' h hh h0 => by
    obtain rfl := List.mem_singleton.1 he'
    obtain ⟨r, hr, ht, hm⟩ := hres h hh h0
    exact ⟨r, by simp [State.group?, hup, hr], ht, hm⟩
  rw [hu]
  exact ⟨t', k', ht', by rw [hrev]; exact hrs, hk', (congrArg (fun a => a.st) hka :)⟩

section
variable {s : State} {p : Part} {t : Partition} {sess : Nat} {rv : Revival} {k : Step} {m : ModelDesc} (hp : s.prt p = some t)
  (hk : t.revStep sess = some (rv, k)) (hm : t.sessModel sess = some m)
include hp hk hm

theorem exec_hgReviveTimeout_not_waiting (hw : rv.hgWait = false) : exec (.hgReviveTimeout p sess) s = .next s := by
  simp [exec_hgReviveTimeout, execHgReviveTimeout, hp, hk, hm, hw]

theorem exec_hgReviveTimeout_stops (hl : m.leads = true) (hw : rv.hgWait = true) (hc : rv.committed = false) (hwf : t.revivals.wf) :
    ∃ u t', exec (.hgReviveTimeout p sess) s = .next u ∧ u.prt p = some t' ∧ t'.revivals.find sess = none := by
  rw [exec_hgReviveTimeout, execHgReviveTimeout]
  simp only [hp, Option.bind_some, hk, hm, Option.map_some, hl, hw]
  have hstop : ∀ msg ev, (((s.toFollowers p m msg).stopRevival p sess .aborted).event p evHgTimeout 0 ev 0).Unrevived p sess := fun msg ev =>
    (State.stopRevival_removes .aborted ((State.revivalsOf_toFollowers ..).trans (State.revivalsOf_of_prt hp))
      (Partition.find_of_revStep hk) hc hwf).of_eq (State.revivalsOf_event ..)
  obtain ⟨t', ht, hf⟩ := (hstop _ _).prt
  exact ⟨_, t', rfl, ht, hf⟩
end

/-! ### The obligation -/

/-- Settles O40: each command's own lemma says what it does at each stage of a revival. -/
theorem revivalResults : Obligations.RevivalResults := by
  unfold Obligations.RevivalResults
  intro s p t sess rv ss m hp hm hs
  have hmod : t.sessModel sess = some m := by rw [Partition.sessModel, hs, Option.bind_some, hm]
  refine ⟨?start, ?refused, ?notFetching, ?commit, ?notCommitting, ?early, ?waiting, ?given, ?timeout⟩
  case start =>
    intro c hrv hstep hseqs ha hf h1 hst hc hblocks
    refine exec_revivalStepStart_runs hp hs hrv hstep ha hf hst hc hm hseqs h1 fun q hq => ?_
    obtain ⟨i, h, hi, hbit, hh, h0, rfl⟩ := Session.of_mem_masked hq
    exact hblocks i h hi hbit hh h0
  case refused =>
    intro hrv hstep hcom ha hf hwf
    have hgone := fun st => (State.stopRevival_removes st (State.revivalsOf_of_prt hp) hrv hcom hwf).prt
    refine ⟨fun hst => ?_, fun hst hout => ?_, fun hst hin hn => exec_revivalStepStart_no_frame hp hs hrv hstep ha hf hst hin hn⟩
    · obtain ⟨t', ht, hnone⟩ := hgone .accessViolation
      exact ⟨_, t', exec_revivalStepStart_not_parked hp hs hrv hstep ha hf hst, rfl, ht, hnone⟩
    · obtain ⟨t', ht, hnone⟩ := hgone .unitQuarantined
      exact ⟨_, t', exec_revivalStepStart_all_out hp hs hrv hstep ha hf hst hout, rfl, ht, hnone⟩
  case notFetching => exact fun hrv hstep hf => exec_revivalStepStart_not_fetching hp hrv hstep hf
  case commit =>
    intro n k e kk sq hrv hstep hk hnum hst hcom hlog hseqs hkk hsq hcompat hj hpro
    obtain ⟨u, t', ss', k', rec', he, hu, hsq', hss', hopen, hk', happ, hrec, hty, hrs⟩ := exec_revivalApply_commits hp
      (Partition.revStep_eq hrv hstep hk) hmod hs hk hnum hst hcom hlog hseqs hkk hsq hcompat hj hpro
    exact ⟨u, t', _, ss', k', rec', he, hu, hsq', rfl, rfl, rfl, rfl, hss', hopen, hk', happ, hrec, hty, hrs⟩
  case notCommitting =>
    exact fun n k hrv hstep hk hst => exec_revivalApply_not_committing hp (Partition.revStep_eq hrv hstep hk) hmod hst
  case early => exact fun qp msg r b hm hl hr hty hsz hb hno => exec_hgRevive_early hp hm hsz hb hr hl hty hno
  case waiting =>
    exact fun qp msg r b i v hm hl hr hty hsz hb hi hv hothers hlacks =>
      exec_hgRevive_waiting hp hm hsz hb hr hl hty hi hv hothers hlacks
  case given =>
    intro qp msg b i v n k e hm hl hr hty hsz hb hi hv
    have hone := exec_hgReviveK_one hp hm hsz hb hr hl hty hi hv
    refine ⟨fun hstop => by rw [hone, if_pos hstop], fun hgo hw => ⟨_, hone, answers_answer .., ?_⟩,
      fun hgo hw hstep hk hnum he hq hres => ?_⟩
    · rw [if_neg hgo, if_neg (by simp [hw])]
      exact (State.prt_updP_self ..).trans (congrArg (Option.map _) hp)
    · obtain ⟨t', k', ht', hrev, hk', hst⟩ := State.reviveGiven_in_place hp hv hstep hk hnum he hres
      rw [if_neg hgo, if_pos hw, ← hq] at hone
      exact ⟨_, t', k', hone, answers_answer .., ht', hrev, hk', hst⟩
  case timeout =>
    intro n k hrv hstep hk hl
    have hk := Partition.revStep_eq hrv hstep hk
    exact ⟨exec_hgReviveTimeout_not_waiting hp hk hmod, exec_hgReviveTimeout_stops hp hk hmod hl⟩

end Sys2Proof.Machine
end

section
/-! SUPPORT. Host commands (03 R46, R51, R52): which command a step takes, the start of a command, what stands before its last completion,
and that completion. -/

namespace Sys2Proof.Machine
open Sys2Proof.Cert

/-! ### The queue of commands (03 R46, R47) -/

/-- Settles O56: the step and the stop on an entry of another length than 64 bytes are the model's own equations. -/
theorem stepTakesTheFront : Obligations.StepTakesTheFront := by
  unfold Obligations.StepTakesTheFront
  refine ⟨fun s c rest => rfl, fun s hnone => ?idle, fun p raw a hlen s => ?stop⟩
  case idle => rw [step, hnone]
  case stop => exact if_pos hlen

/-! ### Lists -/

/-- The first element with a property is the first with a stronger one, if it has that. -/
theorem find?_eq_some_of_imp {α : Type} {p r : α → Bool} {l : List α} {a : α} (h : l.find? p = some a) (hr : r a = true)
    (himp : ∀ b, r b = true → p b = true) : l.find? r = some a := by
  obtain ⟨-, as, bs, rfl, has⟩ := List.find?_eq_some_iff_append.1 h
  refine List.find?_eq_some_iff_append.2 ⟨hr, as, bs, rfl, fun b hb => ?_⟩
  have hp := has b hb
  cases hrb : r b with
  | false => rfl
  | true => simp [himp b hrb] at hp

/-! ### Partitions -/

theorem State.prt_updP_of_prt {s : State} {p : Part} {t : Partition} (hp : s.prt p = some t) (f : Partition → Partition) :
    (s.updP p f).prt p = some (f t) := by
  rw [State.prt_updP_self, hp, Option.map_some]

/-! ### The start of a command (R51) -/

/-- A partition in which a command has started. -/
def Partition.cmdStarted (t : Partition) (l : Live) : Partition :=
  { t with live := t.live.map fun m => if m.order = l.order then { m with started := true } else m }
/-- The device after the start of a command. -/
def State.cmdStarted (s : State) (p : Part) (l : Live) : State := s.updP p fun t => t.cmdStarted l

/-- A command of a queue stands before its first and last completion: no request stands behind it and nothing has ended it. -/
def Partition.Awaits (t : Partition) (q : Nat) (cid : BitVec 16) (k : Queue) (l : Live) : Prop :=
  t.queues.find q = some k ∧ t.liveOf q cid = some l ∧ l.posted1 = false ∧ l.req = none ∧ l.abortStatus = none

theorem Partition.of_liveOf {t : Partition} {q : Nat} {cid : BitVec 16} {l : Live} (h : t.liveOf q cid = some l) :
    l ∈ t.live ∧ l.q = q ∧ l.ent.cid = cid := by
  have hp := List.find?_some h
  simp only [Bool.and_eq_true, beq_iff_eq] at hp
  exact ⟨List.mem_of_find?_eq_some h, hp⟩

/-- A command that starts is named as before. -/
theorem Partition.liveOf_cmdStarted (t : Partition) (l : Live) (q : Nat) (cid : BitVec 16) : (t.cmdStarted l).liveOf q cid
    = (t.liveOf q cid).map fun m => if m.order = l.order then { m with started := true } else m := by
  have hsame : ((fun m : Live => m.q == q && m.ent.cid == cid) ∘ fun m => if m.order = l.order then { m with started := true } else m)
      = fun m => m.q == q && m.ent.cid == cid := by
    funext m
    dsimp only [Function.comp_apply]
    split <;> rfl
  simp only [Partition.liveOf, Partition.cmdStarted, List.find?_map, hsame]

theorem Partition.Awaits.of_eq {t u : Partition} {q : Nat} {cid : BitVec 16} {k : Queue} {l : Live} (h : t.Awaits q cid k l)
    (hq : u.queues = t.queues) (hl : u.live = t.live) : u.Awaits q cid k l := by
  unfold Partition.Awaits Partition.liveOf
  rw [hq, hl]
  exact h

section
variable {s : State} {p : Part} {q : Qn} {cid : BitVec 16} {oc : Nat} {t : Partition} {k : Queue} {l : Live}
  (h : CanStart s p q cid oc t k l)
include h

theorem State.prt_cmdStarted : (s.cmdStarted p l).prt p = some (t.cmdStarted l) := by
  obtain ⟨hp, -⟩ := h
  simp [State.cmdStarted, hp]

theorem Partition.awaits_cmdStarted : (t.cmdStarted l).Awaits q.val cid k { l with started := true } := by
  obtain ⟨-, -, hq, hl, -, -, -, hposted, hreq, habort⟩ := h
  exact ⟨hq, by simp [Partition.liveOf_cmdStarted, hl], hposted, hreq, habort⟩

/-- A command that may start does what its opcode says, with its own record as it was fetched. -/
theorem State.startCmd_eq (f : State → Partition → Live → State) :
    s.startCmd p q.val cid oc f = f (s.cmdStarted p l) t l := by
  obtain ⟨hp, hact, -, hl, hoc, hst, hmay, -⟩ := h
  obtain ⟨-, hlq, hcid⟩ := Partition.of_liveOf hl
  have hfind : (t.live.find? fun m => m.q == q.val && m.ent.cid == cid && m.ent.opcode == oc && !m.started) = some l :=
    find?_eq_some_of_imp hl (by simp [hlq, hcid, hoc, hst]) fun b hb => by simp_all
  unfold State.startCmd
  simp only [hp, Option.bind_some, hfind, Option.map_some]
  exact if_neg (by simp [hact, hmay])
end

/-! ### The last completion of a command (R52) -/

/-- The last completion of a command that no step produced, before it takes its phase. -/
def Partition.lastCompletion (t : Partition) (q : Nat) (cid : BitVec 16) (l : Live) (st : Status) (r0 r1 : Word) (step : Nat) :
    Completion :=
  { cid := cid, status := st, more := false, phase := false, sq := q, sqHead := l.sqHead, result0 := r0, result1 := r1
    committedTokens := t.tokensOf l.ent.handle0, step := step % 2 ^ 32, noIrq := bitOf l.ent.flags 1 }
/-- A partition in which a command is over with a completion, for which a slot was reserved. -/
def Partition.completed (t : Partition) (q : Nat) (k : Queue) (l : Live) (c : Completion) : Partition :=
  { t with queues := t.queues.put q (k.complete true c), live := t.live.filter fun m => m.order ≠ l.order }

theorem Queue.complete_posted (k : Queue) (c : Completion) : (k.complete true c).posted = k.posted ++ [{ c with phase := k.phase }] := rfl

theorem Partition.find_completed (t : Partition) (q : Nat) (k : Queue) (l : Live) (c : Completion) :
    (t.completed q k l c).queues.find q = some (k.complete true c) := Tab.find_put_self ..
@[simp] theorem Partition.completed_steps (t : Partition) (q : Nat) (k : Queue) (l : Live) (c : Completion) :
    (t.completed q k l c).steps = t.steps := rfl
@[simp] theorem Partition.completed_programs (t : Partition) (q : Nat) (k : Queue) (l : Live) (c : Completion) :
    (t.completed q k l c).programs = t.programs := rfl
theorem Partition.completed_over {t : Partition} {q : Nat} {k : Queue} {l m : Live} {c : Completion} (h : m ∈ (t.completed q k l c).live) :
    m.order ≠ l.order := by simpa using (List.mem_filter.1 h).2
theorem State.prt_updQueue {s : State} {p : Part} {t : Partition} {q : Nat} {k : Queue} (hp : s.prt p = some t)
    (hk : t.queues.find q = some k) (f : Queue → Queue) : ∃ t', (s.updQueue p q f).prt p = some t' ∧ t'.queues.find q = some (f k) :=
  ⟨_, State.prt_updP_of_prt hp _, (Tab.find_upd_self ..).trans (congrArg (Option.map f) hk)⟩

theorem Partition.post_final {t : Partition} {q : Nat} {cid : BitVec 16} {k : Queue} {l : Live} (h : t.Awaits q cid k l) (st : Status)
    (r0 r1 : Word) (step : Nat) :
    t.post q cid st false r0 r1 step = t.completed q k l (t.lastCompletion q cid l st r0 r1 step) := by
  obtain ⟨hq, hl, hposted, hreq, habort⟩ := h
  unfold Partition.liveOf at hl
  simp only [Partition.post, hl, hq, hreq, habort, hposted]
  rfl

section
variable {s : State} {p : Part} {t : Partition} {k : Queue} {l : Live} {cid : BitVec 16} (hp : s.prt p = some t)
include hp

theorem State.prt_finish {q : Nat} (h : t.Awaits q cid k l) (st : Status) (r0 r1 : Word) (step : Nat) :
    (s.finish p q cid st r0 r1 step).prt p = some (t.completed q k l (t.lastCompletion q cid l st r0 r1 step)) := by
  rw [State.finish, State.prt_updP_self, hp, Option.map_some, Partition.post_final h]

theorem State.finish_completes {q : Qn} (h : t.Awaits q.val cid k l) (st : Status) (r0 r1 : Word) (step : Nat) :
    Completes (s.finish p q.val cid st r0 r1 step) p q k l st r0 := by
  obtain ⟨-, hl, -⟩ := id h
  exact ⟨_, k.complete true _, _, State.prt_finish hp h st r0 r1 step, Partition.find_completed .., rfl, (Partition.of_liveOf hl).2.2.symm,
    rfl, rfl, rfl, rfl, rfl, rfl, fun _ => Partition.completed_over⟩

theorem State.prt_event (code status : Nat) (object arg : Word) :
    ∃ v, (s.event p code status object arg).prt p = some v ∧ v = { t with ev := v.ev, counters := v.counters } := by
  refine ⟨_, State.prt_updP_of_prt hp _, ?_⟩
  dsimp only
  unfold Partition.count
  split <;> rfl

/-- The event of a handle that fails leaves the commands and queues. -/
theorem State.prt_entryEvent (ks : List Nat) (h : Handle) :
    ∃ v, (s.entryEvent p ks h).prt p = some v ∧ v.queues = t.queues ∧ v.live = t.live := by
  unfold State.entryEvent State.handleEvent State.statusEvent
  split
  · split
    · obtain ⟨v, hv, heq⟩ := State.prt_event hp Status.accessViolation.code.toNat Status.accessViolation.code.toNat h 0
      exact ⟨v, hv, by rw [heq], by rw [heq]⟩
    · exact ⟨t, hp, rfl, rfl⟩
  · exact ⟨t, hp, rfl, rfl⟩

/-- A command whose handle fails completes with the status of its check. -/
theorem State.entryEvent_finish_completes {q : Qn} (h : t.Awaits q.val cid k l) (ks : List Nat) (hd : Handle) (st : Status) :
    Completes ((s.entryEvent p ks hd).finish p q.val cid st) p q k l st 0 := by
  obtain ⟨v, hv, hq, hl⟩ := State.prt_entryEvent hp ks hd
  exact State.finish_completes hv (h.of_eq hq hl) st 0 0 0
end

end Sys2Proof.Machine
end

section
/-! SUPPORT. SQ_FETCH, CLOCKADV, RUN, CANCEL and ABORT (03 R47 to R51, 08 R188, R190): what each shared operation that they run does where
no session, sequence or request waits for it, and what each command leaves. -/

namespace Sys2Proof.Machine
open Sys2Proof.Cert

/-! ### The arms of the host commands -/

theorem exec_sqFetch (p : Part) (raw : List Byte) (poisoned : Bool) (s : State) :
    exec (.sqFetch p raw poisoned) s = execSqFetch p raw poisoned s := rfl
theorem exec_clockadv (p : Part) (q : Qn) (cid : BitVec 16) (s : State) : exec (.clockadv p q cid) s = execClockadv p q cid s := rfl
theorem exec_run (p : Part) (q : Qn) (cid : BitVec 16) (s : State) : exec (.run p q cid) s = execRun p q cid s := rfl
theorem exec_cancel (p : Part) (q : Qn) (cid : BitVec 16) (s : State) : exec (.cancel p q cid) s = execCancel p q cid s := rfl
theorem exec_abort (p : Part) (q : Qn) (cid : BitVec 16) (s : State) : exec (.abort p q cid) s = execAbort p q cid s := rfl

/-! ### Ends without a request -/

theorem State.endCmd_eq_finish (s : State) (p : Part) (q : Nat) (cid : BitVec 16) (st : Status) (reason step : Nat) :
    ∃ r0, s.endCmd p q cid st reason step = s.finish p q cid st r0 0 step := by
  unfold State.endCmd
  split
  · exact ⟨_, rfl⟩
  · exact ⟨_, rfl⟩

theorem State.prt_endCmd {s : State} {p : Part} {t : Partition} {q : Nat} {cid : BitVec 16} {k : Queue} {l : Live} (hp : s.prt p = some t)
    (h : t.Awaits q cid k l) (st : Status) (reason step : Nat) :
    ∃ c, (s.endCmd p q cid st reason step).prt p = some (t.completed q k l c) ∧ c.cid = cid ∧ c.status = st ∧ c.more = false := by
  obtain ⟨r0, he⟩ := State.endCmd_eq_finish s p q cid st reason step
  exact ⟨_, by rw [he, State.prt_finish hp h], rfl, rfl, rfl⟩

theorem Queue.complete_complete_posted (k : Queue) (a b : Completion) : ((k.complete true a).complete true b).posted
    = k.posted ++ [{ a with phase := k.phase }, { b with phase := (k.complete true a).phase }] := by
  rw [Queue.complete_posted, Queue.complete_posted, List.append_assoc]
  rfl

/-- The end of one command leaves another of its queue before its own, behind the completion of the first. -/
theorem Partition.Awaits.completed_other {t : Partition} {q : Nat} {cid : BitVec 16} {k : Queue} {l m : Live} (h : t.Awaits q cid k l)
    (hne : l.order ≠ m.order) (c : Completion) : (t.completed q k m c).Awaits q cid (k.complete true c) l := by
  obtain ⟨-, hl, hends⟩ := h
  refine ⟨Tab.find_put_self .., ?_, hends⟩
  unfold Partition.liveOf Partition.completed
  rw [List.find?_filter]
  exact find?_eq_some_of_imp hl (by simpa [hne] using List.find?_some hl) fun b hb => by simp_all

/-! ### The clock (R50) -/

section
variable {s : State} {p : Part} {t : Partition} (hp : s.prt p = some t)
include hp

theorem State.expire_none_parked (h : ∀ e ∈ t.sessions, e.2.st ≠ .parked) : s.expire p = s := by
  have hnone : (t.sessions.filter fun kv => kv.2.st == .parked && kv.2.ttl != 0 && kv.2.ttl ≤ t.clock) = [] :=
    List.filter_eq_nil_iff.2 fun e he => by simp [h e he]
  rw [State.expire, State.getP, hp]
  dsimp only
  rw [hnone]
  rfl

theorem State.preRevivals_none_parked (h : ∀ e ∈ t.sessions, e.2.st ≠ .parked) : s.preRevivals p = s := by
  have hnone : (t.sessions.filter fun kv => kv.2.st == .parked && kv.2.resumeHint != 0 && !kv.2.preRevived
      && t.clock + 1000 * t.reg 0x468 ≥ kv.2.resumeHint && !(t.revivals.has kv.1)) = [] :=
    List.filter_eq_nil_iff.2 fun e he => by simp [h e he]
  rw [State.preRevivals, State.getP, hp]
  dsimp only
  rw [hnone]
  rfl

theorem State.boundaries_unpended (h : Unpended t) : s.boundaries p = s := by
  have hnone : (t.sessions.filter fun kv => kv.2.pendPark.isSome || kv.2.pendClose.isSome) = [] :=
    List.filter_eq_nil_iff.2 fun e he => by simp [h e he]
  rw [State.boundaries, State.getP, hp]
  dsimp only
  rw [hnone]
  rfl

theorem State.deadlines_no_request (h : ∀ m ∈ t.live, m.req = none) : s.deadlines p = s := by
  have hnone : (t.live.filter fun l => l.step.isNone && (l.req.any fun r => r.cancelled.isNone) && missed t.clock l.ent.deadline) = [] :=
    List.filter_eq_nil_iff.2 fun m hm => by simp [h m hm]
  rw [State.deadlines, State.getP, hp]
  dsimp only
  rw [hnone]
  rfl

theorem State.advance_of_le {time : Nat} (h : time ≤ t.clock) : s.advance p time = s := by
  simp [State.advance, State.getP, hp, h]

/-- Where nothing waits for the clock, only the clock advances, and never goes back (R50). -/
theorem State.prt_advance_quiet (hpark : ∀ e ∈ t.sessions, e.2.st ≠ .parked) (hheld : ∀ e ∈ t.sequences, e.2.held = false)
    (hreq : ∀ m ∈ t.live, m.req = none) (hpend : Unpended t) (time : Nat) :
    (s.advance p time).prt p = some { t with clock := max t.clock time } := by
  by_cases hle : time ≤ t.clock
  · rw [State.advance_of_le hp hle, Nat.max_eq_left hle, hp]
  · have hu : (s.updP p fun t => { t with clock := time }).prt p = some { t with clock := time } := by simp [hp]
    have hnone : (t.sequences.filter fun kv => kv.2.held) = [] := List.filter_eq_nil_iff.2 fun e he => by simp [hheld e he]
    have hgo : s.advance p time = s.updP p fun t => { t with clock := time } := by
      rw [State.advance, if_neg (by simp [State.getP, hp, hle])]
      simp only [State.expire_none_parked hu hpark]
      rw [State.getP, hu]
      simp only [hnone, List.map_nil, List.eraseDups_nil, State.forEach_nil]
      rw [State.deadlines_no_request hu hreq, State.boundaries_unpended hu hpend, State.preRevivals_none_parked hu hpark]
    rw [hgo, hu, Nat.max_eq_right (by omega)]
end

/-! ### Fetch (R47, R49, R51) -/

/-- The record of a command as it is fetched from a queue. -/
def Partition.fetchedCmd (t : Partition) (q : Nat) (k : Queue) (e : Entry) : Live :=
  ⟨e, q, t.nextOrder, (k.sqHead + 1) % k.depth, false, false, none, none, .none, false, none⟩
/-- The entries that a queue's turn has taken with the next. -/
def Partition.turnAfter (t : Partition) (q : Nat) : Nat := if t.fetchAt.1 = q && t.fetchAt.2 < 8 then t.fetchAt.2 + 1 else 1
/-- A partition that has fetched a command from a queue, the entry of its turn of that number. -/
def Partition.fetched (t : Partition) (q : Nat) (k : Queue) (e : Entry) (turn : Nat) : Partition :=
  { t with queues := t.queues.upd q fun (j : Queue) => { j with sqHead := (k.sqHead + 1) % k.depth, reserved := j.reserved + 1 }
           fetchAt := (q, turn), nextOrder := t.nextOrder + 1, live := t.live ++ [t.fetchedCmd q k e] }
/-- The device after a fetch from a queue. -/
def State.fetched (s : State) (p : Part) (t : Partition) (q : Nat) (k : Queue) (e : Entry) : State :=
  s.updP p fun u => u.fetched q k e (t.turnAfter q)

section
variable {s : State} {p : Part} {t : Partition} {k : Queue} {n : Nat} {raw : List Byte} {e : Entry}

theorem Partition.awaits_fetched {turn : Nat} (hk : t.queues.find n = some k) (hnew : t.liveOf n e.cid = none) :
    (t.fetched n k e turn).Awaits n e.cid { k with sqHead := (k.sqHead + 1) % k.depth, reserved := k.reserved + 1 }
      (t.fetchedCmd n k e) := by
  unfold Partition.liveOf at hnew
  exact ⟨by simp [Partition.fetched, hk], by simp [Partition.liveOf, Partition.fetched, List.find?_append, hnew, Partition.fetchedCmd],
    rfl, rfl, rfl⟩

theorem State.prt_fetched (hp : s.prt p = some t) : (s.fetched p t n k e).prt p = some (t.fetched n k e (t.turnAfter n)) :=
  State.prt_updP_of_prt hp _

/-- SQ_FETCH of an entry into the queue whose turn it is. -/
theorem exec_sqFetch_eq (hlen : raw.length = 64) (hp : s.prt p = some t) (hst : t.st = .active) (hf : s.fetching = true)
    (hn : t.nextFetch = some n) (hk : t.queues.find n = some k) (he : parseEntry raw = e) (poisoned : Bool) :
    exec (.sqFetch p raw poisoned) s = .next (if poisoned then (s.fetched p t n k e).endCmd p n e.cid .poisonConsumed 9
      else if e.malformed k.priv then
        (((s.fetched p t n k e).advance p e.hostTime).endCmd p n e.cid .accessViolation 9).updQueue p n
          fun (j : Queue) => { j with st := .error }
      else (s.fetched p t n k e).advance p e.hostTime) := by
  subst he
  rw [exec_sqFetch, execSqFetch, if_neg (by simp [hlen])]
  simp only [hp, Option.bind_some, hn, hk, Option.map_some, hst, hf]
  rfl
end

/-! ### RUN (R51) -/

/-- The frames that are free depend on the steps in flight alone. -/
theorem State.frameOn_updP {s : State} {p : Part} {f : Partition → Partition} (h : ∀ t, (f t).steps = t.steps) (c : Nat) :
    (s.updP p f).frameOn c = s.frameOn c := by
  have htab : ∀ l : Tab Partition, ((l.upd p.val f).map fun kv => (kv.2.steps.filter fun k => k.2.clu == c).map fun k => k.2.frame)
      = l.map fun kv => (kv.2.steps.filter fun k => k.2.clu == c).map fun k => k.2.frame := by
    intro l
    induction l with
    | nil => rfl
    | cons e l ih =>
      obtain ⟨i, v⟩ := e
      unfold Tab.upd
      split
      · simp [h]
      · simp [ih]
  simp only [State.frameOn, State.updP, htab]

theorem State.pickCluster_isSome {s : State} {cs : List Nat} (hcs : cs ≠ []) (hfree : ∀ c ∈ cs, (s.frameOn c).isSome = true) :
    (s.pickCluster cs).isSome = true := by
  have hkeep : ∀ (f : Option (Nat × Nat) → Nat → Option (Nat × Nat)), (∀ a c, (f a c).isSome = true) → ∀ (l : List Nat) a,
      a.isSome = true → (l.foldl f a).isSome = true := by
    intro f hf l
    induction l with
    | nil => exact fun a ha => ha
    | cons c l ih => exact fun a _ => ih _ (hf a c)
  unfold State.pickCluster
  rw [List.filter_eq_self.2 hfree, Option.isSome_map]
  obtain ⟨c, cs, rfl⟩ := List.exists_cons_of_ne_nil hcs
  refine hkeep _ (fun a c => ?_) cs _ rfl
  split
  · rfl
  · split <;> rfl

/-- Where every cluster has a free frame, a due step that may start has a cluster to start on (Table 3-7). -/
theorem State.placeOf_ne_full {s : State} (h : FramesFree s) (t : Partition) (p : Part) (d : Due) (g : Nat) :
    s.placeOf t p d ≠ .full g := by
  have hpick : ∀ m, ((clustersOf m).filter fun c => !s.cluOut c) ≠ [] →
      (s.pickCluster ((clustersOf m).filter fun c => !s.cluOut c)).isSome = true := fun m hne =>
    State.pickCluster_isSome hne fun c hc =>
      h c (List.mem_range.1 (List.mem_of_mem_filter (List.mem_of_mem_filter hc)))
  unfold State.placeOf
  dsimp only
  split
  · simp
  · next g' _ =>
    split
    · simp
    · split
      · simp
      · next hne =>
        split
        · simp
        · split
          · simp
          · next hnone =>
            have hsome := hpick (g'.clusters &&& t.clusters) (by simpa using hne)
            simp [(Option.or_eq_none_iff.1 hnone).2] at hsome

theorem State.pullDue_framesFree {s : State} (h : FramesFree s) (p : Part) : s.pullDue p = s := by
  unfold State.pullDue
  split
  · rfl
  · next t _ =>
    rw [List.filter_eq_nil_iff.2, State.forEach_nil]
    intro d _
    have hfull := State.placeOf_ne_full h t p d
    split
    · next g hg => exact absurd hg (hfull g)
    · simp

section
variable {s : State} {p : Part} {q : Qn} {cid : BitVec 16} {t : Partition} {k : Queue} {l : Live}

theorem exec_run_due (h : CanStart s p q cid ocRun t k l)
    (hgood : t.firstBad p (optHandle [kSession, kProgram] l.ent.handle0 ++ optHandle [kSequence, kRegion] l.ent.handle1) = none)
    (hfree : FramesFree s) :
    ∃ u, exec (.run p q cid) s = .next u ∧ u.prt p = some ((t.cmdStarted l).makeDue 1 0 q.val cid 0 0) := by
  have hframes : FramesFree ((s.cmdStarted p l).updP p fun t => t.makeDue 1 0 q.val cid 0 0) := fun c hc => by
    have hdue := State.frameOn_updP (s := s.cmdStarted p l) (p := p) (f := fun t => t.makeDue 1 0 q.val cid 0 0) (fun _ => rfl) c
    have hcmd := State.frameOn_updP (s := s) (p := p) (f := fun t => t.cmdStarted l) (fun _ => rfl) c
    exact (congrArg Option.isSome (hdue.trans hcmd)).trans (hfree c hc)
  refine ⟨(s.cmdStarted p l).updP p fun t => t.makeDue 1 0 q.val cid 0 0, ?_, by simp [State.prt_cmdStarted h]⟩
  rw [exec_run, execRun, State.startCmd_eq h]
  simp only [hgood]
  rw [State.pullDue_framesFree hframes]

theorem exec_run_refused (h : CanStart s p q cid ocRun t k l) {ks : List Nat} {hd : Handle} {st : Status}
    (hbad : t.firstBad p (optHandle [kSession, kProgram] l.ent.handle0 ++ optHandle [kSequence, kRegion] l.ent.handle1)
      = some (ks, hd, st)) :
    ∃ u, exec (.run p q cid) s = .next u ∧ Completes u p q k l st 0 := by
  refine ⟨_, ?_, State.entryEvent_finish_completes (State.prt_cmdStarted h) (Partition.awaits_cmdStarted h) ks hd st⟩
  rw [exec_run, execRun, State.startCmd_eq h]
  simp only [hbad]

theorem exec_clockadv_advances (h : CanStart s p q cid ocClockadv t k l) (hpark : ∀ e ∈ t.sessions, e.2.st ≠ .parked)
    (hheld : ∀ e ∈ t.sequences, e.2.held = false) (hreq : ∀ m ∈ t.live, m.req = none) (hpend : Unpended t) :
    ∃ u t', exec (.clockadv p q cid) s = .next u ∧ Completes u p q k l .ok 0 ∧ u.prt p = some t'
      ∧ t'.clock = max t.clock l.ent.hostTime := by
  have hreq' : ∀ m ∈ (t.cmdStarted l).live, m.req = none := fun m hm => by
    obtain ⟨o, ho, rfl⟩ := List.mem_map.1 hm
    split
    · exact hreq o ho
    · exact hreq o ho
  have hu := State.prt_advance_quiet (State.prt_cmdStarted h) hpark hheld hreq' hpend l.ent.hostTime
  have ha := (Partition.awaits_cmdStarted h).of_eq (u := { t.cmdStarted l with clock := max t.clock l.ent.hostTime }) rfl rfl
  refine ⟨_, _, ?_, State.finish_completes hu ha .ok 0 0 0, State.prt_finish hu ha .ok 0 0 0, rfl⟩
  rw [exec_clockadv, execClockadv, State.startCmd_eq h]

/-! ### CANCEL and ABORT (08 R188, R190) -/

theorem exec_cancel_no_target (h : CanStart s p q cid ocCancel t k l) (hnone : t.targetOf l = none) :
    ∃ u, exec (.cancel p q cid) s = .next u ∧ Completes u p q k l .abortedTooLate 0 := by
  refine ⟨_, ?_, State.finish_completes (State.prt_cmdStarted h) (Partition.awaits_cmdStarted h) .abortedTooLate 0 0 0⟩
  rw [exec_cancel, execCancel, State.startCmd_eq h]
  simp only [hnone]

theorem exec_abort_no_target (h : CanStart s p q cid ocAbort t k l) (hnone : t.targetOf l = none) :
    ∃ u, exec (.abort p q cid) s = .next u ∧ Completes u p q k l .abortedTooLate 0 := by
  refine ⟨_, ?_, State.finish_completes (State.prt_cmdStarted h) (Partition.awaits_cmdStarted h) .abortedTooLate 0 0 0⟩
  rw [exec_abort, execAbort, State.startCmd_eq h]
  simp only [hnone]

/-- The target of a command is another command of its queue. -/
theorem Partition.of_targetOf {m : Live} (h : t.targetOf l = some m) : m.q = l.q ∧ m.order ≠ l.order := by
  have hm := List.find?_some h
  simp only [Bool.and_eq_true, beq_iff_eq, bne_iff_ne] at hm
  exact ⟨hm.1.1, hm.2⟩

/-- A command that ends, and behind it the one that asked for its end, both complete in this order. -/
def EndsBoth (u : State) (p : Part) (q : Qn) (k : Queue) (cid : BitVec 16) (m : Live) (st : Status) : Prop :=
  ∃ (t' : Partition) (k' : Queue) (a b : Completion), u.prt p = some t' ∧ t'.queues.find q.val = some k' ∧ k'.posted = k.posted ++ [a, b]
    ∧ a.cid = m.ent.cid ∧ b.cid = cid ∧ a.status = st ∧ b.status = .ok ∧ ∀ e ∈ t'.live, e ≠ m

/-- A partition in which no control step of a command is due. -/
def Partition.undue (t : Partition) (m : Live) : Partition :=
  { t with due := t.due.filter fun d => !(d.q == m.q && d.cid == m.ent.cid && d.kind == 0) }
/-- The end of a command that no step has begun: its completion is posted, and no control step of it is due. -/
def State.endUnbegun (s : State) (p : Part) (m : Live) (st : Status) (reason : Nat) : State :=
  (s.endCmd p m.q m.ent.cid st reason).updP p fun t => t.undue m

theorem State.endUnbegun_endsBoth {m : Live} (hp : s.prt p = some t) (hm : t.Awaits m.q m.ent.cid k m) (hl : t.Awaits q.val cid k l)
    (hq : m.q = q.val) (hne : l.order ≠ m.order) (hpend : Unpended t) (st : Status) (reason : Nat) :
    EndsBoth (((s.endUnbegun p m st reason).boundaries p).finish p q.val cid .ok) p q k cid m st := by
  obtain ⟨a, ha, hcid, hst, -⟩ := State.prt_endCmd hp hm st reason 0
  have hu : (s.endUnbegun p m st reason).prt p = some ((t.completed q.val k m a).undue m) := by
    rw [State.endUnbegun, State.prt_updP_of_prt ha, hq]
  have hlast := (hl.completed_other hne a).of_eq (u := (t.completed q.val k m a).undue m) rfl rfl
  rw [State.boundaries_unpended hu hpend]
  refine ⟨_, _, _, _, State.prt_finish hu hlast .ok 0 0 0, Partition.find_completed .., Queue.complete_complete_posted .., hcid, rfl,
    hst, rfl, fun e he heq => ?_⟩
  subst heq
  simpa using (List.mem_filter.1 (List.mem_filter.1 he).1).2

section
variable {m : Live} (hm : t.targetOf l = some m) (hlive : t.liveOf m.q m.ent.cid = some m)
include hm hlive

/-- A target that has not begun stands before its completion after the asker has started. -/
theorem Partition.awaits_target {oc : Nat} (h : CanStart s p q cid oc t k l) (hreq : m.req = none) (habort : m.abortStatus = none)
    (hposted : m.posted1 = false) : m.q = q.val ∧ (t.cmdStarted l).Awaits m.q m.ent.cid k m := by
  obtain ⟨-, -, hk, hl, -⟩ := h
  obtain ⟨hq, hne⟩ := Partition.of_targetOf hm
  rw [(Partition.of_liveOf hl).2.1] at hq
  exact ⟨hq, by rw [hq]; exact hk, by simp [Partition.liveOf_cmdStarted, hlive, hne], hposted, hreq, habort⟩

variable (hstep : m.step = none) (hreq : m.req = none) (habort : m.abortStatus = none) (hdef : m.deferred = .none)
  (hposted : m.posted1 = false) (hpend : Unpended t)
include hstep hreq habort hdef hposted hpend

theorem exec_cancel_ends (h : CanStart s p q cid ocCancel t k l) : ∃ u, exec (.cancel p q cid) s = .next u
    ∧ EndsBoth u p q k cid m (if k.priv then .freedEarly else .dropped) := by
  obtain ⟨hq, ha⟩ := Partition.awaits_target hm hlive h hreq habort hposted
  have hpriv : t.privQ m.q = k.priv := by
    obtain ⟨hk, -⟩ := ha
    change t.queues.find m.q = some k at hk
    simp [Partition.privQ, hk]
  refine ⟨_, ?_, State.endUnbegun_endsBoth (State.prt_cmdStarted h) ha (Partition.awaits_cmdStarted h) hq (Partition.of_targetOf hm).2.symm
    hpend _ 5⟩
  rw [exec_cancel, execCancel, State.startCmd_eq h]
  simp only [hm, Live.settled, habort, hreq, hdef, hstep, hpriv]
  rfl

theorem exec_abort_ends (h : CanStart s p q cid ocAbort t k l) : ∃ u, exec (.abort p q cid) s = .next u
    ∧ EndsBoth u p q k cid m .aborted := by
  obtain ⟨hq, ha⟩ := Partition.awaits_target hm hlive h hreq habort hposted
  refine ⟨_, ?_, State.endUnbegun_endsBoth (State.prt_cmdStarted h) ha (Partition.awaits_cmdStarted h) hq (Partition.of_targetOf hm).2.symm
    hpend _ 9⟩
  rw [exec_abort, execAbort, State.startCmd_eq h]
  simp only [hm, State.abortLive, habort, hreq, hdef, hstep, Option.bind_none]
  rfl
end
end

/-! ### The obligation -/

/-- Settles O28: each command's own lemma says what it leaves. -/
theorem hostCommandResults : Obligations.HostCommandResults := by
  unfold Obligations.HostCommandResults
  intro s p q cid t k l
  refine ⟨?fetch, ?clock, ?run, exec_cancel_no_target, exec_abort_no_target, ?ends⟩
  case fetch =>
    intro raw n e hlen hp hst hf hn hk he
    have hv : (s.fetched p t n k e).prt p = some (t.fetched n k e (t.turnAfter n)) := State.prt_fetched hp
    refine ⟨fun hgood htime => ?good, fun hbad htime hnew => ?malformed, fun hnew => ?poisoned⟩
    case good =>
      have hexec := exec_sqFetch_eq hlen hp hst hf hn hk he false
      simp only [hgood, State.advance_of_le hv htime] at hexec
      refine ⟨_, _, t.fetchedCmd n k e, hexec, hv, rfl, rfl, rfl, rfl, rfl, rfl, rfl, ?_, rfl⟩
      simp [Partition.fetched, hk, Queue.depth]
    case malformed =>
      have hexec := exec_sqFetch_eq hlen hp hst hf hn hk he false
      simp only [hbad, State.advance_of_le hv htime] at hexec
      obtain ⟨c, hc, hcid, hstatus, hmore⟩ := State.prt_endCmd hv (Partition.awaits_fetched hk hnew) .accessViolation 9 0
      obtain ⟨t', ht, hq⟩ := State.prt_updQueue hc (Partition.find_completed ..) fun (j : Queue) => { j with st := .error }
      exact ⟨_, t', _, _, hexec, ht, hq, rfl, Queue.complete_posted .., hcid, hstatus, hmore⟩
    case poisoned =>
      obtain ⟨c, hc, hcid, hstatus, -⟩ := State.prt_endCmd hv (Partition.awaits_fetched hk hnew) .poisonConsumed 9 0
      exact ⟨_, _, _, _, exec_sqFetch_eq hlen hp hst hf hn hk he true, hc, Partition.find_completed .., Queue.complete_posted .., hcid,
        hstatus, rfl⟩
  case clock => exact exec_clockadv_advances
  case run =>
    intro hs h
    refine ⟨fun hgood hfree => ?due, fun ks hd st hbad => exec_run_refused h hbad⟩
    case due =>
      obtain ⟨u, he, hu⟩ := exec_run_due h hgood hfree
      obtain ⟨-, -, -, hl, -⟩ := h
      exact ⟨u, _, _, _, he, hu, rfl, rfl, (Partition.liveOf_cmdStarted t l q.val cid).trans (congrArg (Option.map _) hl), if_pos rfl⟩
  case ends =>
    intro m hm hlive _ hstep hreq habort hdef hposted hpend
    refine ⟨fun h => ?_, fun h => ?_⟩
    · obtain ⟨u, he, t', k', a, b, hboth⟩ := exec_cancel_ends hm hlive hstep hreq habort hdef hposted hpend h
      exact ⟨u, t', k', a, b, he, hboth⟩
    · obtain ⟨u, he, t', k', a, b, hboth⟩ := exec_abort_ends hm hlive hstep hreq habort hdef hposted hpend h
      exact ⟨u, t', k', a, b, he, hboth⟩

end Sys2Proof.Machine
end

section
/-! SUPPORT. Programs and queues (03 R41 to R46, R52, 18 R404): loading, placing and unloading a program; setting, rebinding, enabling,
disabling and draining a queue. -/

namespace Sys2Proof.Machine
open Sys2Proof.Cert

/-! ### The arms of the program and queue commands -/

theorem exec_progLoad (p : Part) (q : Qn) (cid : BitVec 16) (image : List Byte) (s : State) :
    exec (.progLoad p q cid image) s = execProgLoad p q cid image s := rfl
theorem exec_progPlace (p : Part) (q : Qn) (cid : BitVec 16) (s : State) : exec (.progPlace p q cid) s = execProgPlace p q cid s := rfl
theorem exec_progUnload (p : Part) (q : Qn) (cid : BitVec 16) (s : State) : exec (.progUnload p q cid) s = execProgUnload p q cid s := rfl
theorem exec_queueSet (p : Part) (q : Qn) (cid : BitVec 16) (s : State) : exec (.queueSet p q cid) s = execQueueSet p q cid s := rfl
theorem exec_queue0Enable (p : Part) (s : State) : exec (.queue0Enable p) s = execQueue0Enable p s := rfl
theorem exec_queue0Disable (p : Part) (s : State) : exec (.queue0Disable p) s = execQueue0Disable p s := rfl
theorem exec_queueDrained (p : Part) (q : Qn) (s : State) : exec (.queueDrained p q) s = .next (s.settleQueue p q.val) := rfl
theorem exec_completionDrain (p : Part) (q : Qn) (s : State) : exec (.completionDrain p q) s = execCompletionDrain p q s := rfl

/-! ### Slots, tables and records -/

theorem lowestSlot_eq_some {ok : Nat → Bool} {n : Nat} (hok : ok n = true) (hlow : ∀ j, j < n → ok j = false) :
    ∀ fuel i, i ≤ n → n < i + fuel → lowestSlot ok fuel i = some n := by
  intro fuel
  induction fuel with
  | zero => omega
  | succ fuel ih =>
    intro i hi hn
    unfold lowestSlot
    by_cases heq : i = n
    · rw [heq, if_pos hok]
    · rw [if_neg (by simp [hlow i (by omega)])]
      exact ih (i + 1) (by omega) (by omega)

theorem Partition.newSlot_of_lowest {t : Partition} {p : Part} {kind n : Nat} (h : LowestSlot t p kind n) : t.newSlot p kind = some n := by
  obtain ⟨hn, hfree, hlow⟩ := h
  exact lowestSlot_eq_some hfree hlow _ 0 (Nat.zero_le n) (by omega)

theorem Tab.del_upd {α : Type} (t : Tab α) (i : Nat) (f : α → α) : (t.upd i f).del i = t.del i := by
  induction t with
  | nil => rfl
  | cons e t ih =>
    obtain ⟨k, v⟩ := e
    by_cases h : k = i
    · simp [Tab.upd, Tab.del, h]
    · simp [Tab.upd, Tab.del, h, ih]

/-- A partition with a program in a slot. -/
def Partition.loaded (t : Partition) (i : Nat) (g : Program) : Partition := { t with programs := t.programs.put i g }
/-- A partition with a program placed on some more clusters. -/
def Partition.placed (t : Partition) (i : Nat) (m : BitVec 64) : Partition :=
  { t with programs := t.programs.upd i fun g => { g with st := .placed, clusters := g.clusters ||| m } }
/-- A partition in which a program unloads. -/
def Partition.unloading (t : Partition) (i : Nat) : Partition :=
  { t with programs := t.programs.upd i fun g => { g with st := .unloading } }
/-- A partition in which a program's slot is EMPTY again. -/
def Partition.emptied (t : Partition) (i : Nat) : Partition := { t with programs := t.programs.del i }.bumpGen kProgram i

/-- A change of a program is recorded; the record changes no partition. -/
theorem State.prt_progRecord {s : State} {p : Part} {t : Partition} (hp : s.prt p = some t) (f : Partition → Partition) (i : Nat) :
    ((s.updP p f).progRecord p i).prt p = some (f t) := State.prt_updP_of_prt hp f

section
variable {s : State} {p : Part} {q : Qn} {cid : BitVec 16} {oc : Nat} {t : Partition} {k : Queue} {l : Live}

/-- A command that has started, and has left the queues and the commands since, completes. -/
theorem State.started_finish_completes (h : CanStart s p q cid oc t k l) {u : State} {v : Partition} (hu : u.prt p = some v)
    (hq : v.queues = t.queues) (hl : v.live = (t.cmdStarted l).live) (st : Status) (r0 : Word) :
    Completes (u.finish p q.val cid st r0) p q k l st r0
      ∧ ∃ c, (u.finish p q.val cid st r0).prt p = some (v.completed q.val k { l with started := true } c) :=
  have ha : v.Awaits q.val cid k { l with started := true } := (Partition.awaits_cmdStarted h).of_eq hq hl
  ⟨State.finish_completes hu ha st r0 0 0, _, State.prt_finish hu ha st r0 0 0⟩

/-- A command that has started and done nothing else completes. -/
theorem State.cmdStarted_finish_completes (h : CanStart s p q cid oc t k l) (st : Status) :
    Completes ((s.cmdStarted p l).finish p q.val cid st) p q k l st 0 :=
  (State.started_finish_completes h (State.prt_cmdStarted h) rfl rfl st 0).1

/-! ### Loading and placing a program (R41 to R44) -/

theorem exec_progLoad_loads {image : List Byte} {n : Nat} (h : CanStart s p q cid ocProgLoad t k l)
    (hlen : l.ent.arg1.toNat ≤ 256 + 1048576 + 16384) (hok : imageOk (padTo image l.ent.arg1.toNat) l.ent.arg1.toNat = true)
    (hroom : (t.programs.map fun e => e.2.bytes).sum + l.ent.arg1.toNat ≤ 2097152) (hslot : LowestSlot t p kProgram n) :
    ∃ u t' g, exec (.progLoad p q cid image) s = .next u ∧ Completes u p q k l .ok (t.handleOf p kProgram n)
      ∧ u.prt p = some t' ∧ t'.programs = t.programs.put n g ∧ g.st = .loaded ∧ g.clusters = 0 ∧ g.h = t.handleOf p kProgram n := by
  have hu := State.prt_progRecord (State.prt_cmdStarted h)
    (fun t' => t'.loaded n (imageProgram (padTo image l.ent.arg1.toNat) (t.handleOf p kProgram n))) n
  obtain ⟨hc, c, hprt⟩ := State.started_finish_completes h hu rfl rfl .ok (t.handleOf p kProgram n)
  refine ⟨_, _, imageProgram (padTo image l.ent.arg1.toNat) (t.handleOf p kProgram n), ?_, hc, hprt, rfl, rfl, rfl, rfl⟩
  rw [exec_progLoad, execProgLoad, State.startCmd_eq h]
  simp only [hok, Partition.newSlot_of_lowest hslot]
  rw [if_neg (by omega), if_neg (by simp), if_neg (by unfold storeBytes; omega)]
  rfl

theorem exec_progLoad_bad_image {image : List Byte} (h : CanStart s p q cid ocProgLoad t k l)
    (hlen : l.ent.arg1.toNat ≤ 256 + 1048576 + 16384) (hbad : imageOk (padTo image l.ent.arg1.toNat) l.ent.arg1.toNat = false) :
    ∃ u, exec (.progLoad p q cid image) s = .next u ∧ Completes u p q k l .accessViolation 0 := by
  refine ⟨_, ?_, State.cmdStarted_finish_completes h .accessViolation⟩
  rw [exec_progLoad, execProgLoad, State.startCmd_eq h]
  simp only [hbad]
  rw [if_neg (by omega), if_pos (by simp)]

theorem exec_progLoad_no_room {image : List Byte} (h : CanStart s p q cid ocProgLoad t k l)
    (hlen : l.ent.arg1.toNat ≤ 256 + 1048576 + 16384) (hok : imageOk (padTo image l.ent.arg1.toNat) l.ent.arg1.toNat = true)
    (hfull : 2097152 < (t.programs.map fun e => e.2.bytes).sum + l.ent.arg1.toNat) :
    ∃ u, exec (.progLoad p q cid image) s = .next u ∧ Completes u p q k l .noPage 0 := by
  refine ⟨_, ?_, State.cmdStarted_finish_completes h .noPage⟩
  rw [exec_progLoad, execProgLoad, State.startCmd_eq h]
  simp only [hok]
  rw [if_neg (by omega), if_neg (by simp), if_pos (by unfold storeBytes; omega)]

theorem exec_progPlace_bad_handle (h : CanStart s p q cid ocProgPlace t k l) {st : Status}
    (hbad : t.entryHandle p [kProgram] l.ent.handle0 = some st) :
    ∃ u, exec (.progPlace p q cid) s = .next u ∧ Completes u p q k l st 0 := by
  refine ⟨_, ?_, State.entryEvent_finish_completes (State.prt_cmdStarted h) (Partition.awaits_cmdStarted h) [kProgram] l.ent.handle0 st⟩
  rw [exec_progPlace, execProgPlace, State.startCmd_eq h]
  simp only [hbad]

theorem exec_progUnload_bad_handle (h : CanStart s p q cid ocProgUnload t k l) {st : Status}
    (hbad : t.entryHandle p [kProgram] l.ent.handle0 = some st) :
    ∃ u, exec (.progUnload p q cid) s = .next u ∧ Completes u p q k l st 0 := by
  refine ⟨_, ?_, State.entryEvent_finish_completes (State.prt_cmdStarted h) (Partition.awaits_cmdStarted h) [kProgram] l.ent.handle0 st⟩
  rw [exec_progUnload, execProgUnload, State.startCmd_eq h]
  simp only [hbad]

variable {g : Program} (hgood : t.entryHandle p [kProgram] l.ent.handle0 = none)
  (hg : t.programs.find (hIndex l.ent.handle0) = some g)
include hgood hg

theorem exec_progPlace_places (h : CanStart s p q cid ocProgPlace t k l) (hown : l.ent.arg0 &&& ~~~t.clusters = 0)
    (hst : g.st ≠ .unloading) (hsome : l.ent.arg0 ≠ 0) (hin : ∀ c ∈ clustersOf l.ent.arg0, s.cluOut c = false)
    (hroom : (t.programs.map fun e => e.2.data.length).sum ≤ 65536) :
    ∃ u t', exec (.progPlace p q cid) s = .next u ∧ Completes u p q k l .ok 0 ∧ u.prt p = some t'
      ∧ t'.programs.find (hIndex l.ent.handle0) = some { g with st := .placed, clusters := g.clusters ||| l.ent.arg0 } := by
  have hu := State.prt_progRecord (State.prt_cmdStarted h) (fun t' => t'.placed (hIndex l.ent.handle0) l.ent.arg0) (hIndex l.ent.handle0)
  obtain ⟨hc, c, hprt⟩ := State.started_finish_completes h hu rfl rfl .ok 0
  refine ⟨_, _, ?_, hc, hprt, (Tab.find_upd_self ..).trans (congrArg (Option.map _) hg)⟩
  have hsize : ∀ f : Nat × Program → Bool, (t.programs.map fun e => if f e then e.2.data.length else 0).sum ≤ 65536 := fun f =>
    (List.sum_le_sum fun e _ => by split <;> omega).trans hroom
  rw [exec_progPlace, execProgPlace, State.startCmd_eq h]
  simp only [hgood, hg]
  rw [if_neg (by simp [hown, hst]), if_neg, if_neg, if_neg hsome]
  · rfl
  · simp only [List.any_eq_true, decide_eq_true_eq, not_exists, not_and, not_lt]
    exact fun c _ => hsize fun e => hasClu e.2.clusters c || (e.1 == hIndex l.ent.handle0 && hasClu l.ent.arg0 c)
  · simp only [List.any_eq_true, not_exists, not_and]
    exact fun c hc => ne_true_of_eq_false (hin c hc)

theorem exec_progPlace_out (h : CanStart s p q cid ocProgPlace t k l) (hown : l.ent.arg0 &&& ~~~t.clusters = 0)
    (hst : g.st ≠ .unloading) (hout : ∃ c ∈ clustersOf l.ent.arg0, s.cluOut c = true) :
    ∃ u, exec (.progPlace p q cid) s = .next u ∧ Completes u p q k l .unitQuarantined 0 := by
  refine ⟨_, ?_, State.cmdStarted_finish_completes h .unitQuarantined⟩
  rw [exec_progPlace, execProgPlace, State.startCmd_eq h]
  simp only [hgood, hg]
  rw [if_neg (by simp [hown, hst])]
  exact congrArg Host.Outcome.next (if_pos (List.any_eq_true.2 hout))

theorem exec_progPlace_not_owned (h : CanStart s p q cid ocProgPlace t k l) (hown : l.ent.arg0 &&& ~~~t.clusters ≠ 0) :
    ∃ u, exec (.progPlace p q cid) s = .next u ∧ Completes u p q k l .accessViolation 0 := by
  refine ⟨_, ?_, State.cmdStarted_finish_completes h .accessViolation⟩
  rw [exec_progPlace, execProgPlace, State.startCmd_eq h]
  simp only [hgood, hg]
  rw [if_pos (by rw [decide_eq_true hown, Bool.true_or])]
end

/-! ### Unloading a program (R45) -/

theorem State.settleProgram_not_unloading {s : State} {p : Part} {t : Partition} {i : Nat} (hp : s.prt p = some t)
    (h : ∀ g, t.programs.find i = some g → g.st ≠ .unloading) : s.settleProgram p i = s := by
  cases hg : t.programs.find i with
  | none => simp [State.settleProgram, hp, hg]
  | some g => simp [State.settleProgram, hp, hg, h g hg]

section
variable {s : State} {p : Part} {t : Partition} {i : Nat} {g : Program} (hp : s.prt p = some t) (hg : t.programs.find i = some g)
include hp hg

theorem State.settleProgram_in_use (h : ∃ e ∈ t.steps, e.2.prog = i) : s.settleProgram p i = s := by
  obtain ⟨e, he, hi⟩ := h
  have huse : t.steps.any (fun kv => kv.2.prog == i) = true := List.any_eq_true.2 ⟨e, he, by simp [hi]⟩
  simp [State.settleProgram, hp, hg, huse]

/-- The last PROG_UNLOAD of a program that no step uses completes, and the program is gone. -/
theorem State.settleProgram_ends {m : Live} (hst : g.st = .unloading) (hidle : ∀ e ∈ t.steps, e.2.prog ≠ i)
    (hone : (t.live.filter fun l => l.ent.opcode == ocProgUnload && l.started && l.ent.handle0 == g.h) = [m]) :
    s.settleProgram p i = ((s.updP p fun t => t.emptied i).progRecord p i).finish p m.q m.ent.cid .ok := by
  have hidle : t.steps.any (fun kv => kv.2.prog == i) = false := List.any_eq_false.2 fun e he => by simp [hidle e he]
  simp only [State.settleProgram, hp, Option.bind_some, hg, Option.map_some, hst, hidle, hone]
  rfl
end

section
variable {s : State} {p : Part} {q : Qn} {cid : BitVec 16} {t : Partition} {k : Queue} {l : Live} {g : Program}

/-- Of the PROG_UNLOADs of a program, the one that has just started is the only one. -/
theorem Partition.unloads_cmdStarted {h0 : Handle} (hoc : l.ent.opcode = ocProgUnload) (hh : h0 = l.ent.handle0)
    (hone : (t.live.filter fun m => m.order == l.order) = [l])
    (hothers : ∀ m ∈ t.live, m.started = true → m.ent.opcode ≠ ocProgUnload) :
    ((t.cmdStarted l).live.filter fun m => m.ent.opcode == ocProgUnload && m.started && m.ent.handle0 == h0)
      = [{ l with started := true }] := by
  have hsame : ∀ m ∈ t.live, m.order = l.order → m = l := fun m hm ho =>
    List.mem_singleton.1 (hone ▸ List.mem_filter.2 ⟨hm, by simp [ho]⟩)
  have hmine : t.live.filter ((fun m : Live => m.ent.opcode == ocProgUnload && m.started && m.ent.handle0 == h0)
      ∘ fun m => if m.order = l.order then { m with started := true } else m) = [l] := by
    rw [← hone]
    refine List.filter_congr fun m hm => ?_
    by_cases ho : m.order = l.order
    · obtain rfl := hsame m hm ho
      simp [hoc, hh]
    · have hno : (m.ent.opcode == ocProgUnload && m.started) = false := by
        cases hms : m.started with
        | false => simp
        | true => simp [hothers m hm hms]
      simp [ho, hno]
  rw [Partition.cmdStarted, List.filter_map, hmine]
  simp

/-- The program that unloads. -/
theorem Partition.find_unloading {i : Nat} (hg : t.programs.find i = some g) :
    ((t.cmdStarted l).unloading i).programs.find i = some { g with st := .unloading } :=
  (Tab.find_upd_self ..).trans (congrArg (Option.map _) hg)

variable (hgood : t.entryHandle p [kProgram] l.ent.handle0 = none)
include hgood

theorem exec_progUnload_eq (h : CanStart s p q cid ocProgUnload t k l) :
    ∃ u : State, u.prt p = some ((t.cmdStarted l).unloading (hIndex l.ent.handle0))
      ∧ exec (.progUnload p q cid) s = .next (u.settleProgram p (hIndex l.ent.handle0)) := by
  refine ⟨(s.cmdStarted p l).updP p fun t => t.unloading (hIndex l.ent.handle0), by simp [State.prt_cmdStarted h], ?_⟩
  rw [exec_progUnload, execProgUnload, State.startCmd_eq h]
  simp only [hgood]
  rfl

variable (hg : t.programs.find (hIndex l.ent.handle0) = some g)
include hg

theorem exec_progUnload_waits (h : CanStart s p q cid ocProgUnload t k l) (huse : ∃ e ∈ t.steps, e.2.prog = hIndex l.ent.handle0) :
    ∃ u t', exec (.progUnload p q cid) s = .next u ∧ u.prt p = some t'
      ∧ t'.programs.find (hIndex l.ent.handle0) = some { g with st := .unloading } := by
  obtain ⟨u, hu, he⟩ := exec_progUnload_eq hgood h
  rw [State.settleProgram_in_use hu (Partition.find_unloading hg) huse] at he
  exact ⟨u, _, he, hu, Partition.find_unloading hg⟩

theorem exec_progUnload_ends (h : CanStart s p q cid ocProgUnload t k l) (hidle : ∀ e ∈ t.steps, e.2.prog ≠ hIndex l.ent.handle0)
    (hh : g.h = l.ent.handle0) (hone : (t.live.filter fun m => m.order == l.order) = [l])
    (hothers : ∀ m ∈ t.live, m.started = true → m.ent.opcode ≠ ocProgUnload) :
    ∃ u t', exec (.progUnload p q cid) s = .next u ∧ Completes u p q k l .ok 0 ∧ u.prt p = some t'
      ∧ t'.programs = t.programs.del (hIndex l.ent.handle0) := by
  obtain ⟨-, -, -, hl, hoc, -⟩ := id h
  obtain ⟨-, hlq, hcid⟩ := Partition.of_liveOf hl
  obtain ⟨u, hu, he⟩ := exec_progUnload_eq hgood h
  rw [State.settleProgram_ends hu (Partition.find_unloading hg) rfl hidle (Partition.unloads_cmdStarted hoc hh hone hothers),
    hlq, hcid] at he
  obtain ⟨hc, c, hprt⟩ := State.started_finish_completes h
    (State.prt_progRecord hu (fun t => t.emptied (hIndex l.ent.handle0)) (hIndex l.ent.handle0)) rfl rfl .ok 0
  exact ⟨_, _, he, hc, hprt, Tab.del_upd ..⟩
end

end Sys2Proof.Machine
end

section
/-! SUPPORT. Queues (03 R46, R52, 01 Table 1-14, 18 R404): QUEUE_SET, queue 0's own enable bit, the end of a drain, and completions that
wait for a slot. -/

namespace Sys2Proof.Machine
open Sys2Proof.Cert

/-! ### What completions leave of a queue -/

/-- A queue without what completions change. -/
def Queue.setUp (k : Queue) : Queue := { k with cqTail := 0, phase := true, posted := [], waiting := [], reserved := 0, irqs := 0 }

theorem Queue.setUp_complete (k : Queue) (first : Bool) (c : Completion) : (k.complete first c).setUp = k.setUp := by
  unfold Queue.complete
  split
  · rfl
  · split <;> rfl

theorem Queue.setUp_completes (cs : List Completion) (k : Queue) : (cs.foldl (fun k c => k.complete false c) k).setUp = k.setUp := by
  induction cs generalizing k with
  | nil => rfl
  | cons c cs ih => rw [List.foldl_cons, ih, Queue.setUp_complete]

/-- Queues of one set-up. -/
theorem Queue.of_setUp {a b : Queue} (h : a.setUp = b.setUp) : a.st = b.st ∧ a.sqBase = b.sqBase ∧ a.depthLog = b.depthLog
    ∧ a.priv = b.priv ∧ a.irq = b.irq ∧ a.program = b.program ∧ a.sqHead = b.sqHead ∧ a.sqTail = b.sqTail ∧ a.cqHead = b.cqHead :=
  ⟨(congrArg (fun k => k.st) h :), (congrArg (fun k => k.sqBase) h :), (congrArg (fun k => k.depthLog) h :),
    (congrArg (fun k => k.priv) h :), (congrArg (fun k => k.irq) h :), (congrArg (fun k => k.program) h :),
    (congrArg (fun k => k.sqHead) h :), (congrArg (fun k => k.sqTail) h :), (congrArg (fun k => k.cqHead) h :)⟩

theorem Queue.disable_eq (k : Queue) : k.disable = { k with st := if k.st = .enabled ∨ k.st = .error then .draining else k.st } := by
  unfold Queue.disable
  by_cases h : k.st = .enabled ∨ k.st = .error
  · simp [h]
  · simp [h]

/-! ### Completions of commands that a warm reset ended (13 R322) -/

/-- The completions that wait for a queue to be enabled. -/
def Partition.lostCompletions (t : Partition) (q : Nat) : List Completion :=
  (t.lostCmds.filter fun c => c.1 == q).map fun c =>
    { cid := c.2.1, status := .lostToReset, more := false, phase := false, sq := q, sqHead := 0, result0 := c.2.2.2.1
      result1 := c.2.2.2.2, committedTokens := t.tokensOf c.2.2.1, step := 0, noIrq := false }
/-- A partition in which they have gone out, if the queue is enabled. -/
def Partition.lostPosted (t : Partition) (q : Nat) : Partition :=
  if (t.queues.find q).any fun k => k.st == .enabled then
    { t with lostCmds := t.lostCmds.filter fun c => c.1 != q
             queues := t.queues.upd q fun k => (t.lostCompletions q).foldl (fun k c => k.complete false c) k }
  else t

theorem State.prt_lostPosts {s : State} {p : Part} {t : Partition} (hp : s.prt p = some t) (q : Nat) :
    (s.lostPosts p q).prt p = some (t.lostPosted q) :=
  State.prt_updP_of_prt hp fun t => t.lostPosted q

/-- The other queues and the commands stay. -/
theorem Partition.lostPosted_keeps (t : Partition) (q : Nat) :
    (t.lostPosted q).live = t.live ∧ ∀ o, o ≠ q → (t.lostPosted q).queues.find o = t.queues.find o := by
  unfold Partition.lostPosted
  split
  · exact ⟨rfl, fun o ho => Tab.find_upd_ne _ _ ho⟩
  · exact ⟨rfl, fun _ _ => rfl⟩

/-- The queue keeps its set-up, and everything where nothing waits for it. -/
theorem Partition.find_lostPosted {t : Partition} {q : Nat} {j : Queue} (hj : t.queues.find q = some j) :
    ∃ j', (t.lostPosted q).queues.find q = some j' ∧ j'.setUp = j.setUp ∧ (t.lostCmds = [] → j' = j) := by
  unfold Partition.lostPosted
  split
  · refine ⟨_, (Tab.find_upd_self ..).trans (congrArg (Option.map _) hj), Queue.setUp_completes .., fun hlost => ?_⟩
    rw [Partition.lostCompletions, hlost]
    rfl
  · exact ⟨j, hj, rfl, fun _ => rfl⟩

/-- The completions of other queues stay. -/
theorem State.completes_lostPosts {u : State} {p : Part} {q : Qn} {k : Queue} {l : Live} {st : Status} {r0 : Word} {i : Nat}
    (h : Completes u p q k l st r0) (hi : i ≠ q.val) : Completes (u.lostPosts p i) p q k l st r0 := by
  obtain ⟨t, k', c, ht, hk, hposted, hcid, hst, hmore, hsq, hhead, hphase, hr0, hover⟩ := h
  obtain ⟨hlive, hqueues⟩ := Partition.lostPosted_keeps t i
  exact ⟨_, k', c, State.prt_lostPosts ht i, (hqueues _ (Ne.symm hi)).trans hk, hposted, hcid, hst, hmore, hsq, hhead, hphase, hr0,
    fun m hm => hover m (hlive ▸ hm)⟩

/-! ### QUEUE_SET (R46) -/

/-- A queue's record is written. -/
def State.setQueue (s : State) (p : Part) (i : Nat) (j : Queue) : State := s.updP p fun t => { t with queues := t.queues.put i j }

/-- A queue as QUEUE_SET enables it, with the operands of an entry (log entry 31). -/
def Queue.enabledBy (k : Queue) (e : Entry) : Queue :=
  { k with sqBase := e.arg0, cqBase := 0, depthLog := e.arg1.toNat % 16, priv := bitOf e.arg1.toNat 30, irq := bitOf e.arg1.toNat 16
           program := e.handle1 }.enable

section
variable {s : State} {p : Part} {q : Qn} {cid : BitVec 16} {t : Partition} {k : Queue} {l : Live} {oc i : Nat} {j : Queue}

/-- A command that writes a queue's record, and leaves its rings, completes; on its own queue with the completion behind. -/
theorem State.setQueue_finish (h : CanStart s p q cid oc t k l) (hj : t.queues.find i = some j) {j' : Queue}
    (hring : i = q.val → j'.posted = j.posted ∧ j'.phase = j.phase) :
    Completes (((s.cmdStarted p l).setQueue p i j').finish p q.val cid .ok) p q k l .ok 0
      ∧ ∃ t' e, (((s.cmdStarted p l).setQueue p i j').finish p q.val cid .ok).prt p = some t' ∧ t'.queues.find i = some e
        ∧ e.setUp = j'.setUp ∧ (i ≠ q.val → e = j') ∧ t'.lostCmds = t.lostCmds := by
  have hu : ((s.cmdStarted p l).setQueue p i j').prt p = some { t.cmdStarted l with queues := t.queues.put i j' } :=
    State.prt_updP_of_prt (State.prt_cmdStarted h) _
  obtain ⟨hk, hends⟩ := Partition.awaits_cmdStarted h
  by_cases hi : i = q.val
  · subst hi
    obtain rfl : k = j := Option.some.inj (Eq.trans (Eq.symm hk) hj)
    have ha : Partition.Awaits { t.cmdStarted l with queues := t.queues.put q.val j' } q.val cid j' { l with started := true } :=
      ⟨Tab.find_put_self .., hends⟩
    have hc := State.finish_completes hu ha .ok 0 0 0
    obtain ⟨hposted, hphase⟩ := hring rfl
    unfold Completes at hc ⊢
    rw [hposted, hphase] at hc
    exact ⟨hc, _, _, State.prt_finish hu ha .ok 0 0 0, Partition.find_completed .., Queue.setUp_complete .., fun hne => absurd rfl hne, rfl⟩
  · have ha : Partition.Awaits { t.cmdStarted l with queues := t.queues.put i j' } q.val cid k { l with started := true } :=
      ⟨(Tab.find_put_ne _ _ (Ne.symm hi)).trans hk, hends⟩
    exact ⟨State.finish_completes hu ha .ok 0 0 0, _, _, State.prt_finish hu ha .ok 0 0 0,
      (Tab.find_put_ne _ _ hi).trans (Tab.find_put_self ..), rfl, fun _ => rfl, rfl⟩

variable (h : CanStart s p q cid ocQueueSet t k l)
include h

theorem exec_queueSet_refused {ks : List Nat} {hd : Handle} {st : Status}
    (hbad : t.firstBad p (([kQueue], l.ent.handle0) :: optHandle [kProgram] l.ent.handle1) = some (ks, hd, st)) :
    ∃ u, exec (.queueSet p q cid) s = .next u ∧ Completes u p q k l st 0 := by
  refine ⟨_, ?_, State.entryEvent_finish_completes (State.prt_cmdStarted h) (Partition.awaits_cmdStarted h) ks hd st⟩
  rw [exec_queueSet, execQueueSet, State.startCmd_eq h]
  simp only [hbad]

variable (hgood : t.firstBad p (([kQueue], l.ent.handle0) :: optHandle [kProgram] l.ent.handle1) = none)
  (hj : t.queues.find (hIndex l.ent.handle0) = some j)
include hgood hj

theorem exec_queueSet_rebinds (hbound : hIndex l.ent.handle0 = 0 ∨ j.st = .enabled ∧ bitOf l.ent.arg1.toNat 31 = true) :
    exec (.queueSet p q cid) s
      = .next (((s.cmdStarted p l).setQueue p (hIndex l.ent.handle0) { j with program := l.ent.handle1 }).finish p q.val cid .ok) := by
  rw [exec_queueSet, execQueueSet, State.startCmd_eq h]
  simp only [hgood, Tab.getD, hj, Option.getD_some]
  by_cases h0 : hIndex l.ent.handle0 = 0
  · rw [if_pos h0]
    rfl
  · obtain ⟨hen, hbit⟩ := hbound.resolve_left h0
    rw [if_neg h0, if_neg (by simp [hbit]), if_pos hen]
    rfl

theorem exec_queueSet_disables (h0 : hIndex l.ent.handle0 ≠ 0) (hbit : bitOf l.ent.arg1.toNat 31 = false) :
    exec (.queueSet p q cid) s
      = .next (((s.cmdStarted p l).setQueue p (hIndex l.ent.handle0) j.disable).finish p q.val cid .ok) := by
  rw [exec_queueSet, execQueueSet, State.startCmd_eq h]
  simp only [hgood, Tab.getD, hj, Option.getD_some]
  rw [if_neg h0, if_pos (by simp [hbit])]
  rfl

theorem exec_queueSet_enables (h0 : hIndex l.ent.handle0 ≠ 0) (hbit : bitOf l.ent.arg1.toNat 31 = true) (hst : j.st = .disabled)
    (hdepth : 1 ≤ l.ent.arg1.toNat % 16) (hdepth' : l.ent.arg1.toNat % 16 ≤ 12) (hbase : l.ent.arg0.toNat % 64 = 0)
    (hpriv : bitOf l.ent.arg1.toNat 30 = true → t.privCount (hIndex l.ent.handle0) < 4) :
    exec (.queueSet p q cid) s = .next ((((s.cmdStarted p l).setQueue p (hIndex l.ent.handle0) (j.enabledBy l.ent)).finish
      p q.val cid .ok).lostPosts p (hIndex l.ent.handle0)) := by
  have hcount : ¬ (bitOf l.ent.arg1.toNat 30 && decide (t.privCount (hIndex l.ent.handle0) ≥ 4)) = true := by
    simpa using hpriv
  rw [exec_queueSet, execQueueSet, State.startCmd_eq h]
  simp only [hgood, Tab.getD, hj, Option.getD_some]
  rw [if_neg h0, if_neg (by simp [hbit]), if_neg (by simp [hst]),
    if_neg (by simp [hst, hbase, Nat.ne_of_gt hdepth, hdepth']), if_neg hcount]
  rfl
end

/-! ### Queue 0's own enable bit (18 R404), drains and waiting completions (R52) -/

/-- The oldest waiting completion goes into a free slot. -/
theorem Queue.drain_one {k : Queue} {c : Completion} {cs : List Completion} (hwait : k.waiting = c :: cs)
    (hfree : k.posted.length + k.reserved < 2 ^ k.depthLog) : Queue.drain 1 k = Queue.put { k with waiting := cs } c := by
  have hslots : k.freeSlots ≠ 0 := by
    unfold Queue.freeSlots Queue.depth
    omega
  simp [Queue.drain, hwait, hslots]

/-- A partition in which queue 0 is enabled, where it may be. -/
def Partition.enable0 (t : Partition) : Partition :=
  if t.st = .active then
    { t with queues := t.queues.upd 0 fun k => if k.st = .disabled && 1 ≤ k.depthLog && k.depthLog ≤ 12 then k.enable else k }
  else t
/-- A partition in which queue 0 is disabled. -/
def Partition.disable0 (t : Partition) : Partition :=
  if t.st = .fenced then t else { t with queues := t.queues.upd 0 Queue.disable }

theorem Partition.find_enable0 {t : Partition} {j : Queue} (hj : t.queues.find 0 = some j) (hact : t.st = .active)
    (hst : j.st = .disabled) (hdepth : 1 ≤ j.depthLog) (hdepth' : j.depthLog ≤ 12) :
    t.enable0.queues.find 0 = some j.enable ∧ t.enable0.lostCmds = t.lostCmds := by
  rw [Partition.enable0, if_pos hact]
  exact ⟨by simp [hj, hst, hdepth, hdepth'], rfl⟩
theorem Partition.find_disable0 {t : Partition} {j : Queue} (hj : t.queues.find 0 = some j) (hnf : t.st ≠ .fenced)
    (hst : j.st = .enabled ∨ j.st = .error) : t.disable0.queues.find 0 = some { j with st := .draining } := by
  rw [Partition.disable0, if_neg hnf]
  simp [hj, Queue.disable_eq, hst]

section
variable {s : State} {p : Part} {t : Partition} {j : Queue} (hp : s.prt p = some t)
include hp

theorem exec_queue0Enable_enables (hj : t.queues.find 0 = some j) (hw : Awake s) (hact : t.st = .active) (hst : j.st = .disabled)
    (hdepth : 1 ≤ j.depthLog) (hdepth' : j.depthLog ≤ 12) :
    ∃ u t' j', exec (.queue0Enable p) s = .next u ∧ u.prt p = some t' ∧ t'.queues.find 0 = some j' ∧ j'.setUp = j.enable.setUp
      ∧ (t.lostCmds = [] → j' = j.enable) := by
  have hu : (s.updP p Partition.enable0).prt p = some t.enable0 := State.prt_updP_of_prt hp _
  obtain ⟨hen, hlost⟩ := Partition.find_enable0 hj hact hst hdepth hdepth'
  obtain ⟨j', hj', hset, hsame⟩ := Partition.find_lostPosted hen
  refine ⟨(s.updP p Partition.enable0).lostPosts p 0, _, j', ?_, State.prt_lostPosts hu 0, hj', hset, fun h => hsame (hlost.trans h)⟩
  rw [exec_queue0Enable, execQueue0Enable, State.wakeDevice_of_awake hw]
  rfl

theorem exec_queue0Disable_drains (hj : t.queues.find 0 = some j) (hw : Awake s) (hnf : t.st ≠ .fenced)
    (hst : j.st = .enabled ∨ j.st = .error) :
    ∃ u t', exec (.queue0Disable p) s = .next u ∧ u.prt p = some t' ∧ t'.queues.find 0 = some { j with st := .draining } := by
  refine ⟨s.updP p Partition.disable0, t.disable0, ?_, State.prt_updP_of_prt hp _,
    Partition.find_disable0 hj hnf hst⟩
  rw [exec_queue0Disable, execQueue0Disable, State.wakeDevice_of_awake hw]
  rfl

variable {q : Qn} {k : Queue} (hk : t.queues.find q.val = some k)
include hk

theorem exec_queueDrained_disables (hst : k.st = .draining) (hwait : k.waiting = []) (hover : ∀ m ∈ t.live, m.q ≠ q.val) :
    ∃ u t', exec (.queueDrained p q) s = .next u ∧ u.prt p = some t' ∧ t'.queues.find q.val = some { k with st := .disabled } := by
  have hnone : ¬ (t.live.any fun l => l.q == q.val) = true := by simpa using hover
  refine ⟨_, _, exec_queueDrained p q s, (State.prt_updP_of_prt hp _).trans (congrArg some (if_neg hnone)), ?_⟩
  rw [Tab.find_upd_self, hk, Option.map_some]
  simp [hst, hwait]

theorem exec_completionDrain_posts {c : Completion} {cs : List Completion} (hwait : k.waiting = c :: cs)
    (hfree : k.posted.length + k.reserved < 2 ^ k.depthLog) :
    ∃ u t' j, exec (.completionDrain p q) s = .next u ∧ u.prt p = some t' ∧ t'.queues.find q.val = some j ∧ j.waiting = cs
      ∧ j.posted = k.posted ++ [{ c with phase := k.phase }] := by
  obtain ⟨t', ht, hq⟩ := State.prt_updQueue hp hk (Queue.drain 1)
  rw [Queue.drain_one hwait hfree] at hq
  have hkeep : ∀ (b : Bool) (f : Sequence → Bool), (if b then t'.restamp f else t').queues.find q.val = t'.queues.find q.val :=
    fun b f => by cases b <;> rfl
  exact ⟨_, _, _, rfl, State.prt_updP_of_prt ht _, (hkeep _ _).trans hq, rfl, rfl⟩
end

/-! ### The obligation -/

theorem bitOf_toNat (w : Word) (i : Nat) : bitOf w.toNat i = w.getLsbD i := by
  rw [bitOf, BitVec.getLsbD, Nat.testBit_eq_decide_div_mod_eq, Bool.beq_eq_decide_eq]

/-- Settles O30: each command's own lemma says what it leaves. -/
theorem programAndQueueResults : Obligations.ProgramAndQueueResults := by
  unfold Obligations.ProgramAndQueueResults
  intro s p q cid t k l
  refine ⟨fun image n => exec_progLoad_loads, fun image h hlen => ⟨exec_progLoad_bad_image h hlen, exec_progLoad_no_room h hlen⟩,
    fun st hbad => ⟨fun h => exec_progPlace_bad_handle h hbad, fun h => exec_progUnload_bad_handle h hbad⟩, ?programs, ?queueSet, ?queue0,
    ?drains⟩
  case programs =>
    intro g hgood hg
    exact ⟨fun h hown hst => ⟨exec_progPlace_places hgood hg h hown hst, exec_progPlace_out hgood hg h hown hst⟩,
      exec_progPlace_not_owned hgood hg, exec_progUnload_waits hgood hg, exec_progUnload_ends hgood hg⟩
  case queueSet =>
    intro i hs h
    refine ⟨fun ks hd st => exec_queueSet_refused h, fun j hgood hj => ?_⟩
    simp only [← bitOf_toNat]
    refine ⟨fun hbound => ?rebind, fun h0 hbit => ?disable, fun h0 hown hbit hst hdepth hdepth' hbase hpriv => ?enable⟩
    case rebind =>
      obtain ⟨hc, t', e, ht, he, hset, hsame, -⟩ := State.setQueue_finish h hj (j' := { j with program := l.ent.handle1 })
        fun _ => ⟨rfl, rfl⟩
      obtain ⟨hst, -, -, -, -, hprog, -⟩ := Queue.of_setUp hset
      exact ⟨_, t', e, exec_queueSet_rebinds h hgood hj hbound, hc, ht, he, hprog, hst, hsame⟩
    case disable =>
      obtain ⟨hc, t', e, ht, he, hset, hsame, -⟩ := State.setQueue_finish h hj (j' := j.disable) fun _ => by
        rw [Queue.disable_eq]
        exact ⟨rfl, rfl⟩
      obtain ⟨hst, -⟩ := Queue.of_setUp hset
      rw [Queue.disable_eq] at hst hsame
      exact ⟨_, t', e, exec_queueSet_disables h hgood hj h0 hbit, hc, ht, he, hst, fun hne => by rw [hst]; exact hsame hne⟩
    case enable =>
      obtain ⟨hc, t', e, ht, he, -, hsame, hlost⟩ := State.setQueue_finish h hj (j' := j.enabledBy l.ent) fun heq => absurd heq hown
      obtain ⟨e', he', hset, hall⟩ := Partition.find_lostPosted he
      rw [hsame hown] at hset hall
      obtain ⟨hen, hsq, hdep, hpr, hirq, hprog, hhead, htail, hcq⟩ := Queue.of_setUp hset
      refine ⟨_, _, e', exec_queueSet_enables h hgood hj h0 hbit hst hdepth hdepth' hbase hpriv, State.completes_lostPosts hc hown,
        State.prt_lostPosts ht i, he', hen, hsq, hdep, hpr, hirq, hprog, hhead, htail, hcq, fun hnone => ?_⟩
      rw [hall (hlost.trans hnone)]
      exact ⟨rfl, rfl, rfl⟩
  case queue0 =>
    intro j hp hj hw
    refine ⟨fun hact hst hdepth hdepth' => ?_, exec_queue0Disable_drains hp hj hw⟩
    obtain ⟨u, t', j', he, hu, hj', hset, hlost⟩ := exec_queue0Enable_enables hp hj hw hact hst hdepth hdepth'
    obtain ⟨hen, -, -, -, -, -, hhead, htail, -⟩ := Queue.of_setUp hset
    exact ⟨u, t', j', he, hu, hj', hen, hhead, htail, fun h => congrArg Queue.posted (hlost h)⟩
  case drains =>
    exact fun hp hk => ⟨exec_queueDrained_disables hp hk, fun c cs => exec_completionDrain_posts hp hk⟩

end Sys2Proof.Machine
end

section
/-! SUPPORT. The commit of a control step (03 Table 3-9, R61 to R65): what its stages do where nothing is logged and no sequence is open,
and its release. -/

namespace Sys2Proof.Machine
open Sys2Proof.Cert

/-! ### The arms of the commit -/

theorem exec_commitApply (x : StepRef) (s : State) : exec (.commitApply x) s = .next (s.commitApply x).settleFlash := rfl
theorem exec_commitRelease (x : StepRef) (s : State) : exec (.commitRelease x) s = .next (s.commitRelease x).settleFlash := rfl

/-! ### Changes of a live command -/

theorem Partition.liveOf_updLive (t : Partition) (q : Nat) (cid : BitVec 16) {f : Live → Live}
    (hf : ∀ l, (f l).q = l.q ∧ (f l).ent = l.ent) : (t.updLive q cid f).liveOf q cid = (t.liveOf q cid).map f := by
  have hsame : ((fun m : Live => m.q == q && m.ent.cid == cid) ∘ fun m => if m.q == q && m.ent.cid == cid then f m else m)
      = fun m => m.q == q && m.ent.cid == cid := by
    funext m
    obtain ⟨hq, he⟩ := hf m
    dsimp only [Function.comp_apply]
    split
    · rw [hq, he]
    · rfl
  rw [Partition.liveOf, Partition.updLive, List.find?_map, hsame, Partition.liveOf]
  cases h : t.live.find? (fun m => m.q == q && m.ent.cid == cid) with
  | none => rfl
  | some m => exact congrArg some (if_pos (List.find?_some h))

@[simp] theorem Partition.updLive_steps (t : Partition) (q : Nat) (cid : BitVec 16) (f : Live → Live) :
    (t.updLive q cid f).steps = t.steps := rfl
@[simp] theorem Partition.updLive_programs (t : Partition) (q : Nat) (cid : BitVec 16) (f : Live → Live) :
    (t.updLive q cid f).programs = t.programs := rfl

/-! ### Stages 1 to 5 (Table 3-9) -/

/-- A step that is open on no session and no sequence. -/
theorem Partition.stepSess_none (t : Partition) {k : Step} (hsess : k.sess = none) (hseq : k.seq = none) : t.stepSess k = none := by
  simp [Partition.stepSess, hsess, hseq]

theorem Step.engineEnded {k : Step} (hdescs : ∀ d ∈ k.descs, d.st = .done) (hmerged : ∀ n ∈ k.emitted, n ∈ k.merged) :
    ((k.descs.all fun d => d.st == .done) && k.emitted.all k.engDone) = true := by
  simp only [Bool.and_eq_true, List.all_eq_true, beq_iff_eq]
  exact ⟨hdescs, fun n hn => by simp [Step.engDone, hmerged n hn]⟩

theorem State.noCow {s : State} {p : Part} {gs : List Nat} (h : ∀ n ∈ gs, s.copyOf p (.cow n) = none) :
    (gs.any fun g => (s.copyOf p (.cow g)).isSome) = false := List.any_eq_false.2 fun n hn => by simp [h n hn]

/-- A step in no wave waits for no head group. -/
theorem Partition.noHeadGroup {t : Partition} {k : Step} (h : t.waveOf k = none) :
    ((t.stepModel k).bind fun m => (t.waveOf k).bind fun w => if m.hgSize > 1 && !w.fetch then some (m, w) else none) = none := by
  cases t.stepModel k with
  | none => rfl
  | some m => rw [Option.bind_some, h, Option.bind_none]

section
variable {s : State} {x : StepRef} {t : Partition} {k : Step} (hp : s.prt x.part = some t) (hk : t.steps.find x.num = some k)
include hp hk

/-- A step whose engine work has not ended is not committed. -/
theorem State.commitApply_waits (h : ∃ d ∈ k.descs, d.st ≠ .done) : s.commitApply x = s := by
  have hopen : (!((k.descs.all fun d => d.st == .done) && k.emitted.all k.engDone)
      || k.opened.any fun g => (s.copyOf x.part (.cow g)).isSome) = true := by
    obtain ⟨d, hd, hst⟩ := h
    have hall : (k.descs.all fun d => d.st == .done) = false := List.all_eq_false.2 ⟨d, hd, by simpa using hst⟩
    rw [hall]
    rfl
  unfold State.commitApply
  rw [hp, Option.bind_some, hk, Option.map_some]
  dsimp only
  rw [if_pos hopen]
  exact ite_self s

/-- Stages 3 to 5 of a step that logs nothing and is open on nothing: it is applied. -/
theorem State.commitStages_plain (hkind : k.kind = 0 ∨ k.kind = 3) (hlog : k.log = []) (hsess : k.sess = none) (hseq : k.seq = none)
    (hopened : k.opened = []) (hsampled : k.sampled = none) :
    ∃ f, s.commitStages x none = (s.updLive x.part k.q k.cid f).updStep x fun e => { e with st := .applied } := by
  have hss := fun v => Partition.stepSess_none v hsess hseq
  have hx : s.step? x = some k := by simp [State.step?, hp, hk]
  have hdec : ¬ k.kind = 2 := by omega
  have hrec : ∀ (u : State) n, (if k.kind = 3 then u else u.classRecord x.part k n) = u := by
    intro u n
    have hnone : ((u.prt x.part).bind fun t => (t.stepSess k).bind fun i => (t.sessions.find i).map fun ss => (t, i, ss)) = none := by
      cases u.prt x.part with
      | none => rfl
      | some v => simp [hss v]
    rw [State.classRecord, hnone]
    exact ite_self u
  unfold State.commitStages
  simp only [hp, Option.bind_some, hk, Option.map_some, hseq, hx, hlog, hopened, hsampled, Partition.stepModel, hss,
    Option.bind_none, hdec, if_false, hrec]
  exact ⟨_, rfl⟩

/-! A step past stage 1, in no wave and not cancelled. -/

variable (hst : k.st = .committing) (hkind : k.kind = 0 ∨ k.kind = 3) (hsent : k.hgSent = false)
  (hdescs : ∀ d ∈ k.descs, d.st = .done) (hmerged : ∀ n ∈ k.emitted, n ∈ k.merged) (hwave : t.waveOf k = none)
  (hearly : t.freedEarly k = false) (hcow : ∀ n ∈ k.opened, s.copyOf x.part (.cow n) = none)
include hst hkind hsent hdescs hmerged hwave hearly hcow

/-- The first failure squashes it. -/
theorem State.commitApply_fails {f : Nat × Status} {fs : List (Nat × Status)} (hfails : k.fails = f :: fs) :
    s.commitApply x = s.squash x.part x.num f.2 := by
  have hk4 : k.kind ≠ 4 := by omega
  unfold State.commitApply
  rw [hp, Option.bind_some, hk, Option.map_some]
  dsimp only
  rw [if_neg (by simp [hst, hk4, hsent]), if_neg (by simp [Step.engineEnded hdescs hmerged, State.noCow hcow]),
    Partition.noHeadGroup hwave]
  dsimp only [Option.bind_none, Option.any_none]
  rw [if_neg (by simp), if_neg (by simp [hearly]), hfails]

/-- With nothing failed, logged or open it goes on with stages 3 to 5. -/
theorem State.commitApply_plain (hfails : k.fails = []) (hlog : k.log = []) (hsess : k.sess = none) (hseq : k.seq = none)
    (hshadow : k.shadow = none) (hstale : k.stale = false) : s.commitApply x = s.commitStages x none := by
  have hk4 : k.kind ≠ 4 := by omega
  have hss := Partition.stepSess_none t hsess hseq
  have hmust : t.mustShadow k = false := by
    have hk2 : k.kind ≠ 2 := by omega
    simp [Partition.mustShadow, hk2]
  have hrec : t.writesRecord k none = false := by simp [Partition.writesRecord, hlog, hss]
  have hbar : s.insertBarred x t k = false := by simp [State.insertBarred, hss]
  have hcoarse : s.coarseCommit x t k = (s, .fine) := by
    rw [State.coarseCommit, hss]
    exact ite_self _
  unfold State.commitApply
  rw [hp, Option.bind_some, hk, Option.map_some]
  dsimp only
  rw [if_neg (by simp [hst, hk4, hsent]), if_neg (by simp [Step.engineEnded hdescs hmerged, State.noCow hcow]),
    Partition.noHeadGroup hwave]
  dsimp only [Option.bind_none, Option.any_none]
  rw [if_neg (by simp), if_neg (by simp [hearly]), hfails]
  dsimp only
  rw [if_neg (by simp [hmust]), if_neg (by simp [hshadow]), if_neg (by simp [hstale]), hlog]
  dsimp only [List.findSome?_nil]
  rw [if_neg (by simp [hrec]), if_neg (by simp [hbar]), hcoarse]

/-- Such a step is applied, and the journals and domains stay. -/
theorem State.commitApply_applies (hfails : k.fails = []) (hlog : k.log = []) (hsess : k.sess = none) (hseq : k.seq = none)
    (hopened : k.opened = []) (hsampled : k.sampled = none) (hshadow : k.shadow = none) (hstale : k.stale = false) :
    (s.commitApply x).step? x = some { k with st := .applied } ∧ (s.commitApply x).journals = s.journals
      ∧ (s.commitApply x).domains = s.domains := by
  obtain ⟨f, hf⟩ := State.commitStages_plain hp hk hkind hlog hsess hseq hopened hsampled
  have hx : (s.updLive x.part k.q k.cid f).step? x = some k := by simp [State.step?, State.updLive, hp, Partition.updLive, hk]
  rw [State.commitApply_plain hp hk hst hkind hsent hdescs hmerged hwave hearly hcow hfails hlog hsess hseq hshadow hstale, hf]
  exact ⟨by rw [State.step?_updStep_self, hx, Option.map_some], rfl, rfl⟩
end

/-! ### Stage 6 (R65) -/

section
variable {s : State} {x : StepRef} {t : Partition} {k : Step} (hp : s.prt x.part = some t) (hk : t.steps.find x.num = some k)
include hp hk

/-- A step whose record is still to be written is not released. -/
theorem State.commitRelease_waits (hdue : k.recDue = true) (hrec : k.recJseq = none) : s.commitRelease x = s := by
  have hno : s.recDurable x.part k = false := by simp [State.recDurable, hdue, hrec]
  unfold State.commitRelease
  dsimp only
  rw [hp, Option.bind_some, hk, Option.map_some]
  exact if_pos (by simp [hno])

/-- A control step that waits for no record, pins nothing, logs nothing and is open on nothing ends, and then its command. -/
theorem State.commitRelease_plain (hst : k.st = .applied) (hkind : k.kind = 0) (hdue : k.recDue = false) (hrec : k.recJseq = none)
    (hpins : k.pins = []) (hxpins : k.xpins = []) (hlog : k.log = []) (hsess : k.sess = none) (hseq : k.seq = none) :
    s.commitRelease x = ((s.endStep x.part k).completeStep x.part k).settleProgram x.part k.prog := by
  have hyes : s.recDurable x.part k = true := by simp [State.recDurable, hdue, hrec]
  have hkeep : s.releasePins x.part k = s := by simp [State.releasePins, hpins, hxpins]
  unfold State.commitRelease
  dsimp only
  rw [hp, Option.bind_some, hk, Option.map_some]
  dsimp only
  rw [if_neg (by simp [hst, hyes]), if_neg (by omega), hkeep, hlog, hseq, Partition.stepSess_none t hsess hseq]
  rfl
end

/-- A partition in which a step's frame is free. -/
def Partition.stepEnded (t : Partition) (k : Step) : Partition :=
  let t := (t.updLane k.num fun l => { l with ended := true }).dropTaken k.num
  { t.closeWaves with
    steps := t.steps.del k.num
    reserves := t.reserves.filter fun r => r.me ≠ k.num
    sequences := t.sequences.mapV fun _ q => if q.openStep = some k.num then { q with openStep := none } else q }

/-- The end of a step leaves the commands, the queues and the programs. -/
theorem Partition.stepEnded_keeps (t : Partition) (k : Step) : (t.stepEnded k).live = t.live ∧ (t.stepEnded k).queues = t.queues
    ∧ (t.stepEnded k).programs = t.programs ∧ (t.stepEnded k).steps = t.steps.del k.num := by
  simp only [Partition.stepEnded, Partition.closeWaves, Partition.dropTaken, Partition.updLane, and_self]
theorem Partition.stepEnded_liveOf (t : Partition) (k : Step) (q : Nat) (cid : BitVec 16) :
    (t.stepEnded k).liveOf q cid = t.liveOf q cid := by
  obtain ⟨hlive, -⟩ := t.stepEnded_keeps k
  rw [Partition.liveOf, hlive, Partition.liveOf]

theorem State.prt_endStep {s : State} {p : Part} {t : Partition} (hp : s.prt p = some t) (k : Step) :
    (s.endStep p k).prt p = some (t.stepEnded k) :=
  State.prt_updP_of_prt hp fun t => t.stepEnded k

/-- A command without the step that it had. -/
def Live.stepless (l : Live) : Live := { l with step := none }

/-- The command of a RUN completes with the end of its step (17 R395), with the word that COMMIT gave. -/
theorem State.prt_completeStep {s : State} {p : Part} {t : Partition} {k : Step} {l : Live} {q : Queue} {w : Word} {post : Bool}
    (hp : s.prt p = some t) (hl : t.liveOf k.q k.cid = some l) (hreq : l.req = none) (habort : l.abortStatus = none)
    (hposted : l.posted1 = false) (hfinal : k.final = none) (hdef : k.deferredUsed = false) (harg : k.commitArg = some (w, post))
    (hq : t.queues.find k.q = some q) :
    ∃ c, (s.completeStep p k).prt p = some ((t.updLive k.q k.cid Live.stepless).completed k.q q l.stepless c)
      ∧ c.cid = l.ent.cid ∧ c.status = .ok ∧ c.result0 = w ∧ c.step = k.num % 2 ^ 32 := by
  have ha : (t.updLive k.q k.cid Live.stepless).Awaits k.q k.cid q l.stepless :=
    ⟨hq, by rw [Partition.liveOf_updLive (f := Live.stepless) t k.q k.cid fun _ => ⟨rfl, rfl⟩, hl, Option.map_some], hposted, hreq, habort⟩
  have hu : (s.updLive p k.q k.cid Live.stepless).prt p = some (t.updLive k.q k.cid Live.stepless) :=
    State.prt_updP_of_prt hp _
  have he : s.completeStep p k = (s.updLive p k.q k.cid Live.stepless).finish p k.q k.cid .ok w 0 k.num := by
    simp only [State.completeStep, hp, Option.bind_some, hl, hreq, hfinal, hdef, harg, Option.map_some, Option.getD_some]
    rfl
  exact ⟨_, (congrArg (fun u : State => u.prt p) he).trans (State.prt_finish hu ha .ok w 0 k.num), (Partition.of_liveOf hl).2.2.symm,
    rfl, rfl, rfl⟩

/-! ### The obligation -/

/-- Settles O33: the lemmas about the stages before and after the commit point, below what the flash tier does after each. -/
theorem commitResults : Obligations.CommitResults := by
  unfold Obligations.CommitResults
  intro s x t k hp hk hnum
  simp only [exec_commitApply, exec_commitRelease]
  refine ⟨?apply, ?unended, ?release, ?undurable⟩
  case apply =>
    intro hst hkind hsent hdescs hmerged hwave hearly hcow
    refine ⟨fun f fs hfails => by rw [State.commitApply_fails hp hk hst hkind hsent hdescs hmerged hwave hearly hcow hfails],
      fun hfails hlog hsess hseq hopened hsampled hshadow hstale => ?_⟩
    obtain ⟨hstep, hj, hd⟩ := State.commitApply_applies hp hk hst hkind hsent hdescs hmerged hwave hearly hcow hfails hlog hsess hseq
      hopened hsampled hshadow hstale
    exact ⟨_, _, rfl, hstep, rfl, hj, hd⟩
  case unended => exact fun _ hopen => by rw [State.commitApply_waits hp hk hopen]
  case release =>
    intro l q w post hst hwf hkind hdue hrec hpins hxpins hlog hsess hseq hl hreq habort hposted hfinal hdef harg hq hprog
    obtain ⟨-, hqueues, hprograms, hsteps⟩ := t.stepEnded_keeps k
    obtain ⟨c, hc, hcid, hstatus, hres, hnumber⟩ := State.prt_completeStep (State.prt_endStep hp k)
      ((t.stepEnded_liveOf ..).trans hl) hreq habort hposted hfinal hdef harg (by rw [hqueues, hq])
    refine ⟨(s.endStep x.part k).completeStep x.part k, _, _, _, ?_, hc, ?_, Partition.find_completed .., Queue.complete_posted .., hcid,
      hstatus, hres, hnumber, fun _ => Partition.completed_over⟩
    · rw [State.commitRelease_plain hp hk hst hkind hdue hrec hpins hxpins hlog hsess hseq,
        State.settleProgram_not_unloading hc fun g hg => hprog g (by simpa [hprograms] using hg)]
    · simpa [hsteps, hnum] using Tab.find_del_self x.num hwf
  case undurable => exact fun _ hdue hrec => by rw [State.commitRelease_waits hp hk hdue hrec]

end Sys2Proof.Machine
end

section
/-! SUPPORT. The attention engines (04 R79, 06 R128, R131, R132, R138, 13 R303): the outcome of Table 4-9 for a descriptor, the end of a
chunk, the output of a layer and the comparison of a shadowed step. -/

namespace Sys2Proof.Machine
open Sys2Proof.Cert

/-! ### The arms of the engines -/

theorem exec_descriptorAccept (x : StepRef) (n : Nat) (s : State) : exec (.descriptorAccept x n) s = execDescriptorAccept x n s := rfl
theorem exec_chunkComplete (x : StepRef) (layer head chunk : Nat) (residue : Bool) (bad : List (Nat × Bool)) (s : State) :
    exec (.chunkComplete x layer head chunk residue bad) s = execChunkComplete x layer head chunk residue bad s := rfl
theorem exec_layerMerged (p : Part) (m : BitVec 16) (batch layer : Nat) (s : State) :
    exec (.layerMerged p m batch layer) s = execLayerMerged p m batch layer s := rfl
theorem exec_shadowCompare (x : StepRef) (own partner : Digest) (arb : Option Digest) (s : State) :
    exec (.shadowCompare x own partner arb) s = execShadowCompare x own partner arb s := rfl

/-! ### What changes no step -/

theorem State.step?_of_prt {s : State} {x : StepRef} {t : Partition} (hp : s.prt x.part = some t) : s.step? x = t.steps.find x.num := by
  rw [State.step?, hp, Option.bind_some]
theorem State.step?_updP_of_steps {f : Partition → Partition} (h : ∀ t, (f t).steps = t.steps) (s : State) (p : Part) (x : StepRef) :
    (s.updP p f).step? x = s.step? x := by
  simp only [State.step?, State.prt_updP]
  split
  · cases s.prt x.part <;> simp [h]
  · rfl
@[simp] theorem State.step?_count (s : State) (p : Part) (n k : Nat) (x : StepRef) : (s.count p n k).step? x = s.step? x :=
  State.step?_updP_of_steps (fun t => t.count_steps n k) s p x
@[simp] theorem State.step?_updGroup (s : State) (p : Part) (i : Nat) (f : Group → Group) (x : StepRef) :
    (s.updGroup p i f).step? x = s.step? x :=
  State.step?_updP_of_steps (f := fun t => { t with groups := t.groups.upd i f }) (fun _ => rfl) s p x
@[simp] theorem State.prt_cluCount (s : State) (c n k : Nat) (p : Part) : (s.cluCount c n k).prt p = s.prt p := rfl
@[simp] theorem State.step?_cluCount (s : State) (c n k : Nat) (x : StepRef) : (s.cluCount c n k).step? x = s.step? x := rfl
theorem State.prt_forEach_cluCount {β : Type} (s : State) (l : List β) (c n k : State → β → Nat) (p : Part) :
    (s.forEach l fun s b => s.cluCount (c s b) (n s b) (k s b)).prt p = s.prt p :=
  State.forEach_keeps (fun s => s.prt p) l (fun s b => s.cluCount (c s b) (n s b) (k s b)) (fun _ _ => rfl) s
theorem State.prt_count_of_prt {s : State} {p : Part} {t : Partition} (hp : s.prt p = some t) (n k : Nat) :
    (s.count p n k).prt p = some (t.count n k) := State.prt_updP_of_prt hp fun t => t.count n k

/-- The rows of a write descriptor are written into its group, and no step changes. -/
@[simp] theorem State.step?_consumeWrite (s : State) (x : StepRef) (d : Desc) (y : StepRef) : (s.consumeWrite x d).step? y = s.step? y := by
  unfold State.consumeWrite
  split
  · rfl
  · rw [State.step?_count]
    exact State.step?_updGroup ..

/-! ### Acceptance (04 Table 4-9) -/

/-- A descriptor of a resident group waits for nothing, where its step has no held write to its page. -/
theorem State.descWaits_ready {s : State} {x : StepRef} {k : Step} {d : Desc} (hres : s.resident x.part d.group = true)
    (hfree : d.op ≠ 4 → ∀ w ∈ k.descs,
      ¬ (w.op = 4 ∧ w.st = .held ∧ w.group = d.group ∧ w.layer = d.layer ∧ w.head = d.head)) :
    s.descWaits x k d = false := by
  by_cases hw : d.op = 4
  · simp [State.descWaits, hres, hw]
  · have hnone : k.descs.any (fun w => w.op == 4 && w.st == .held && w.group == d.group && w.layer == d.layer && w.head == d.head)
        = false := List.any_eq_false.2 fun w hin => by simpa [and_assoc] using hfree hw w hin
    simp [State.descWaits, hres, hnone]

section
variable {t : Partition} {p : Part} {d : Desc} {g : Group}

theorem Partition.descRefusal_reserved (h : 5 < d.op) : t.descRefusal p d = some (.accessViolation, false) := if_pos h

variable (hop : d.op ≤ 5) (hg : t.groups.find d.group = some g)
include hop hg

theorem Partition.descRefusal_stale (hgen : hGen g.h ≠ d.gen) : t.descRefusal p d = some (.staleKey, false) := by
  rw [Partition.descRefusal, if_neg (by omega), hg]
  exact if_pos hgen

variable (hgen : hGen g.h = d.gen)
include hgen

theorem Partition.descRefusal_foreign (hpart : hPart g.h ≠ p.val) : t.descRefusal p d = some (.accessViolation, true) := by
  rw [Partition.descRefusal, if_neg (by omega), hg]
  exact (if_neg (not_not.2 hgen)).trans (if_pos hpart)

variable (hpart : hPart g.h = p.val)
include hpart

omit hop in
theorem Partition.descRefusal_shared_write (hw : d.op = 4) (hsh : d.shared = true ∨ 1 < g.refcount) :
    t.descRefusal p d = some (.accessViolation, false) := by
  rw [Partition.descRefusal, if_neg (by omega), hg]
  exact (if_neg (not_not.2 hgen)).trans ((if_neg (not_not.2 hpart)).trans (if_pos ⟨hw, hsh⟩))

theorem Partition.descRefusal_none (hw : d.op = 4 → d.shared = false ∧ g.refcount ≤ 1) : t.descRefusal p d = none := by
  have hown : ¬ (d.op = 4 ∧ (d.shared = true ∨ 1 < g.refcount)) := by
    rintro ⟨h4, hsh⟩
    obtain ⟨hns, hone⟩ := hw h4
    exact hsh.elim (by simp [hns]) (by omega)
  rw [Partition.descRefusal, if_neg (by omega), hg]
  exact (if_neg (not_not.2 hgen)).trans ((if_neg (not_not.2 hpart)).trans (if_neg hown))
end

/-- The device after it has taken descriptor `n` of a step: accepted, or where it is a write done, with its rows written. -/
def State.takeDesc (s : State) (x : StepRef) (t : Partition) (k : Step) (n : Nat) (d : Desc) : State :=
  let u := (s.updStep x fun e => { e with
    descs := e.descs.modify n fun d' => { d' with st := if d.op = 4 then .done else .accepted } }).cluCount
      (s.recvCluster t k d.quad d.block) 6 1
  if d.op = 4 then u.consumeWrite x d else u

theorem State.step?_takeDesc (s : State) (x : StepRef) (t : Partition) (k : Step) (n : Nat) (d : Desc) : (s.takeDesc x t k n d).step? x
    = (s.step? x).map fun e => { e with descs := e.descs.modify n fun d' => { d' with st := if d.op = 4 then .done else .accepted } } := by
  unfold State.takeDesc
  dsimp only
  split <;> simp

section
variable {s : State} {x : StepRef} {t : Partition} {k : Step} {n : Nat} {d : Desc} (hp : s.prt x.part = some t)
  (hk : t.steps.find x.num = some k) (hd : k.descs[n]? = some d) (hst : d.st = .held)
include hp hk hd hst

/-- A held descriptor is refused as Table 4-9 says, or waits, or is taken. -/
theorem exec_descriptorAccept_held : exec (.descriptorAccept x n) s
    = .next ((t.descRefusal x.part d).elim (if s.descWaits x k d then s else s.takeDesc x t k n d)
        fun r => s.squash x.part x.num r.1 r.2) := by
  rw [exec_descriptorAccept, execDescriptorAccept, hp, Option.bind_some, hk, Option.bind_some, hd, Option.map_some]
  dsimp only
  rw [if_neg (not_not.2 hst)]
  cases t.descRefusal x.part d <;> rfl

theorem exec_descriptorAccept_refused {st : Status} {log : Bool} (h : t.descRefusal x.part d = some (st, log)) :
    exec (.descriptorAccept x n) s = .next (s.squash x.part x.num st log) := by
  rw [exec_descriptorAccept_held hp hk hd hst, h, Option.elim_some]

variable (hgood : t.descRefusal x.part d = none)
include hgood

theorem exec_descriptorAccept_waits (hw : s.descWaits x k d = true) : exec (.descriptorAccept x n) s = .next s := by
  rw [exec_descriptorAccept_held hp hk hd hst, hgood, Option.elim_none, if_pos hw]

theorem exec_descriptorAccept_takes (hw : s.descWaits x k d = false) : ∃ u, exec (.descriptorAccept x n) s = .next u
    ∧ u.step? x = some { k with descs := k.descs.modify n fun e => { e with st := if d.op = 4 then .done else .accepted } } :=
  ⟨_, by rw [exec_descriptorAccept_held hp hk hd hst, hgood, Option.elim_none, if_neg (by simp [hw])],
    by rw [State.step?_takeDesc, State.step?_of_prt hp, hk, Option.map_some]⟩
end

/-! ### The end of a chunk (R131, R137) -/

theorem insertBy_perm {α : Type} (le : α → α → Bool) (a : α) (l : List α) : (insertBy le a l).Perm (a :: l) := by
  induction l with
  | nil => exact .refl _
  | cons b l ih =>
    unfold insertBy
    split
    · exact .refl _
    · exact (ih.cons b).trans (.swap a b l)
theorem sortBy_perm {α : Type} (le : α → α → Bool) (l : List α) : (sortBy le l).Perm l := by
  induction l with
  | nil => exact .refl _
  | cons a l ih => exact (insertBy_perm le a _).trans (ih.cons a)

/-- Is a descriptor one of those that a chunk of a layer and head reads? -/
def Desc.inChunk (layer head chunk : Nat) (d : Desc) : Bool :=
  d.layer == layer && d.head == head && d.block / 8 == chunk && d.op != 3 && d.op != 4
/-- A step whose chunk is done with a result. -/
def Step.chunkDone (k : Step) (mine : Desc → Bool) (r : ChunkRes) : Step :=
  { k with descs := k.descs.map (fun d => if mine d then { d with st := .done } else d), chunks := k.chunks ++ [r] }

/-- A failing tile is noted with the failures of its step, which leaves the descriptors and the chunks. -/
theorem Step.noteFail_keeps (k : Step) (layer : Nat) : (k.noteFail layer).descs = k.descs ∧ (k.noteFail layer).chunks = k.chunks := by
  unfold Step.noteFail
  dsimp only
  split <;> exact ⟨rfl, rfl⟩

section
variable {s : State} {x : StepRef} {t : Partition} {k : Step} {m : ModelDesc} {layer head chunk : Nat} (hp : s.prt x.part = some t)
  (hk : t.steps.find x.num = some k) (hm : t.stepModel k = some m)
include hp hk hm

/-- A chunk of a step that fetches nothing, all of whose descriptors are accepted, is done with its result. -/
theorem exec_chunkComplete_records (hkind : k.kind ≠ 4) (hsome : ∃ d ∈ k.descs, d.inChunk layer head chunk = true)
    (hacc : ∀ d ∈ k.descs, d.inChunk layer head chunk = true → d.st = .accepted) (hnf : ∀ d ∈ k.descs, d.op ≠ 2)
    (hturn : s.fetchTurn t k = true) :
    ∃ (v : State) (r : ChunkRes), exec (.chunkComplete x layer head chunk false []) s
        = .next ((v.updStep x fun e => e.chunkDone (Desc.inChunk layer head chunk) r).updStep x fun e => e.noteFail layer)
      ∧ v.step? x = some k ∧ r.layer = layer ∧ r.head = head ∧ r.chunk = chunk := by
  rw [exec_chunkComplete, execChunkComplete, hp, Option.bind_some, hk, Option.bind_some, hm, Option.map_some]
  dsimp only
  generalize hds : sortBy _ (k.descs.filter _) = ds
  have hmem : ∀ d, d ∈ ds ↔ d ∈ k.descs ∧ d.inChunk layer head chunk = true := fun d =>
    (hds ▸ sortBy_perm _ _).mem_iff.trans List.mem_filter
  obtain ⟨d, hd, hin⟩ := hsome
  have hall : ds.all (fun d => d.st == .accepted) = true := by
    simp only [List.all_eq_true, beq_iff_eq]
    exact fun d hd => hacc d ((hmem d).1 hd).1 ((hmem d).1 hd).2
  have hnofetch : k.descs.find? (fun d => d.op == 2 && d.st != .done) = none := by
    simp only [List.find?_eq_none]
    exact fun d hd => by simp [hnf d hd]
  have hne : ds ≠ [] := fun h => by simpa [h] using (hmem d).2 ⟨hd, hin⟩
  have hop : ∀ e, (ds.headD e).op ≠ 2 := fun e => by
    obtain ⟨first, rest, rfl⟩ := List.exists_cons_of_ne_nil hne
    exact hnf first ((hmem first).1 (by simp)).1
  rw [hnofetch, if_neg (by simp [hkind, hne, hall, hturn]), if_neg Bool.false_ne_true, State.forEach_nil, State.prt_forEach_cluCount, hp]
  dsimp only
  rw [if_neg (hop _)]
  refine ⟨_, _, rfl, (State.step?_count ..).trans ?_, rfl, rfl, rfl⟩
  exact (State.step?_of_prt ((State.prt_forEach_cluCount ..).trans hp)).trans hk
end

/-! ### The output of a layer (R132, R135) -/

/-- A partition that has sent a message. -/
def Partition.sent (t : Partition) (qp member : Option Nat) (m : Msg) : Partition :=
  match qp with
  | none => { t with outbox := t.outbox ++ [⟨qp, member, m⟩] }
  | some n => { t with qps := t.qps.upd n fun q => if q.st = .ready then q.push (msgWork (Msg.wire m)) else q }

theorem State.prt_sendMsg {s : State} {p : Part} {t : Partition} (hp : s.prt p = some t) (qp member : Option Nat) (m : Msg) :
    (s.sendMsg p qp member m).prt p = some (t.sent qp member m) := by
  cases qp <;> exact State.prt_updP_of_prt hp _
@[simp] theorem Partition.sent_waves (t : Partition) (qp member : Option Nat) (m : Msg) : (t.sent qp member m).waves = t.waves := by
  cases qp <;> rfl
@[simp] theorem Partition.sent_steps (t : Partition) (qp member : Option Nat) (m : Msg) : (t.sent qp member m).steps = t.steps := by
  cases qp <;> rfl
theorem Partition.find_sent_ready {t : Partition} {n : Nat} {q : Qp} (hq : t.qps.find n = some q) (hr : q.st = .ready)
    (member : Option Nat) (m : Msg) : (t.sent (some n) member m).qps.find n = some (q.push (msgWork (Msg.wire m))) := by
  simp [Partition.sent, hq, hr]
theorem Qp.push_work_length (q : Qp) (w : WorkReq) : (q.push w).work.length = q.work.length + 1 := List.length_append

@[simp] theorem Partition.count_waves (t : Partition) (n k : Nat) : (t.count n k).waves = t.waves := by
  unfold Partition.count
  split <;> rfl
@[simp] theorem Partition.count_qps (t : Partition) (n k : Nat) : (t.count n k).qps = t.qps := by
  unfold Partition.count
  split <;> rfl

/-- A partition in which a layer of a wave is done: the layer is noted as sent and, with the digest of its output, at the wave's steps. -/
def Partition.layerSent (t : Partition) (m : BitVec 16) (batch layer : Nat) (w : Wave) (dg : Digest) : Partition :=
  { t with waves := t.waves.map (fun (v : Wave) =>
             if v.model = m ∧ v.batch = batch ∧ v.row = w.row ∧ !v.fetch then { v with sent := v.sent ++ [layer] } else v)
           steps := t.steps.mapV fun n k => if w.lanes.any fun l => l.step == some n then
             { k with merged := k.merged ++ [layer], outputs := k.outputs ++ [dg] } else k }

theorem Partition.mem_layerSent {t : Partition} {m : BitVec 16} {batch : Nat} {w : Wave} (hw : w ∈ t.waves) (hm : w.model = m)
    (hb : w.batch = batch) (hf : w.fetch = false) (layer : Nat) (dg : Digest) :
    { w with sent := w.sent ++ [layer] } ∈ (t.layerSent m batch layer w dg).waves :=
  List.mem_map.2 ⟨w, hw, if_pos ⟨hm, hb, rfl, by simp [hf]⟩⟩
theorem Partition.find_layerSent {t : Partition} {w : Wave} {l : Lane} {n : Nat} {e : Step} (hl : l ∈ w.lanes) (hn : l.step = some n)
    (he : t.steps.find n = some e) (m : BitVec 16) (batch layer : Nat) (dg : Digest) :
    (t.layerSent m batch layer w dg).steps.find n
      = some { e with merged := e.merged ++ [layer], outputs := e.outputs ++ [dg] } := by
  have hany : w.lanes.any (fun l => l.step == some n) = true := List.any_eq_true.2 ⟨l, hl, by simp [hn]⟩
  rw [Partition.layerSent]
  dsimp only
  rw [Tab.find_mapV, he, Option.map_some, if_pos hany]

section
variable {s : State} {p : Part} {t : Partition} {m : BitVec 16} {d : ModelDesc} {w : Wave} {b : BufMsg} {batch layer : Nat}
  (hp : s.prt p = some t) (hm : t.model? m = some d)
  (hw : t.waves.find? (fun w => w.model == m && w.batch == batch && !w.fetch && !(w.sent.contains layer)) = some w)
  (hb : w.msgs.find layer = some b)
include hp hm hw hb

/-- The output of a layer whose lanes have all merged leaves in one message. -/
theorem exec_layerMerged_sends (hty : b.mtype ≠ mtStore) (hall : ∀ l ∈ w.lanes, t.laneDone l layer = true) :
    ∃ (u : State) (c : Nat) (msg : Msg) (dg : Digest), exec (.layerMerged p m batch layer) s = .next u
      ∧ u.prt p = some (((t.count cSaturations c).sent b.qp none msg).layerSent m batch layer w dg) := by
  have hall : w.lanes.all (fun l => t.laneDone l layer) = true := List.all_eq_true.2 hall
  rw [exec_layerMerged, execLayerMerged, hp, Option.bind_some, hm, Option.bind_some, hw, Option.bind_some, hb, Option.map_some]
  exact ⟨_, _, _, _, congrArg Host.Outcome.next (if_neg (by simp [hty, hall])),
    State.prt_updP_of_prt (State.prt_sendMsg (State.prt_count_of_prt hp ..) ..) _⟩
end

/-! ### Shadow re-execution (R303, R304) -/

@[simp] theorem Partition.count_clusters (t : Partition) (n k : Nat) : (t.count n k).clusters = t.clusters := by
  unfold Partition.count
  split <;> rfl
@[simp] theorem State.clu_count (s : State) (p : Part) (n k e : Nat) : (s.count p n k).clu e = s.clu e := rfl

/-- No third cluster of the partition is in service beside two. -/
theorem State.noThird {s : State} {p : Part} {t : Partition} {a b : Nat} (hp : s.prt p = some t)
    (hno : ∀ e ∈ clustersOf t.clusters, e ≠ a → e ≠ b → (s.clu e).st ≠ .inService) :
    (s.getP p none fun t => ((clustersOf t.clusters).filter fun e => (s.clu e).st == .inService && e != a && e != b).head?) = none := by
  have hnil : (clustersOf t.clusters).filter (fun e => (s.clu e).st == .inService && e != a && e != b) = [] :=
    List.filter_eq_nil_iff.2 fun e he => by
      simp only [Bool.and_eq_true, beq_iff_eq, bne_iff_ne, not_and]
      exact fun ⟨hin, ha⟩ hb => hno e he ha hb hin
  rw [State.getP, hp]
  exact congrArg List.head? hnil

/-- The digests of a shadowed step agree; or the third cluster agrees with the partner, and the step's own cluster is at fault; or nothing
decides between them and no third cluster is in service, and the pair is swept again. -/
theorem exec_shadowCompare_decides {s : State} {x : StepRef} {t : Partition} {k : Step} {c : Nat} {own partner : Digest}
    {arb : Option Digest} (hp : s.prt x.part = some t) (hk : t.steps.find x.num = some k) (hc : k.shadow = some c)
    (hst : k.st = .committing) (hsh : k.shadowed = false) (harb : k.arbSweep = false) :
    (own = partner → ∃ u, exec (.shadowCompare x own partner arb) s = .next u ∧ u.step? x = some { k with shadowed := true })
    ∧ (own ≠ partner → arb = some partner → ∃ v : State, exec (.shadowCompare x own partner arb) s
      = .next ((v.squash x.part x.num .unitQuarantined).quarantine k.clu) ∧ v.step? x = some k)
    ∧ (own ≠ partner → arb ≠ some own → arb ≠ some partner →
      (∀ e ∈ clustersOf t.clusters, e ≠ c → e ≠ k.clu → (s.clu e).st ≠ .inService) →
      ∃ u, exec (.shadowCompare x own partner arb) s = .next u ∧ u.step? x = some { k with arbSweep := true }
        ∧ k.clu ∈ u.resweep ∧ c ∈ u.resweep) := by
  have hx : s.step? x = some k := (State.step?_of_prt hp).trans hk
  simp only [exec_shadowCompare, execShadowCompare, hx]
  rw [hc]
  dsimp only
  rw [if_neg (by simp [hst, hsh, harb])]
  refine ⟨fun h => ?agree, fun hne h => ?ownFails, fun hne hown hpartner hno => ?undecided⟩
  case agree =>
    rw [if_pos h]
    exact ⟨_, rfl, by simp [hx, hc]⟩
  case ownFails =>
    rw [if_neg hne, if_neg (by simp [h, Ne.symm hne]), if_pos h]
    exact ⟨_, rfl, by simp [hx]⟩
  case undecided =>
    rw [if_neg hne, if_neg hown, if_neg hpartner,
      State.noThird (State.prt_count_of_prt (State.prt_count_of_prt hp ..) ..) (by simpa using hno)]
    exact ⟨_, rfl, (State.step?_updStep_self ..).trans (by simp [hx, hc]), by simp, by simp⟩

/-! ### The obligation -/

/-- Settles O34: each command's own lemma says what it does. -/
theorem engineResults : Obligations.EngineResults := by
  unfold Obligations.EngineResults
  intro s x t k hp hk
  refine ⟨fun n d g hd hst hop hg hgen => ⟨fun hpart => ⟨?accepts, ?writes, ?waits, ?sharedWrite⟩, fun hpart => ?foreign⟩,
    fun n d g hd hst hop hg hgen => ?stale, fun n d hd hst hop => ?reserved, ?chunk, ?merged,
    fun c d1 d2 arb hc hst hsh harb => ?shadow⟩
  case accepts =>
    intro hres hop4 hfree
    have hgood := Partition.descRefusal_none hop hg hgen hpart fun h => absurd h hop4
    obtain ⟨u, he, hu⟩ := exec_descriptorAccept_takes hp hk hd hst hgood (State.descWaits_ready hres fun _ => hfree)
    exact ⟨u, he, by rw [hu, if_neg hop4]⟩
  case writes =>
    intro hres hop4 hns hone
    have hgood := Partition.descRefusal_none hop hg hgen hpart fun _ => ⟨hns, hone⟩
    obtain ⟨u, he, hu⟩ := exec_descriptorAccept_takes hp hk hd hst hgood (State.descWaits_ready hres fun h => absurd hop4 h)
    exact ⟨u, he, by rw [hu, if_pos hop4]⟩
  case waits =>
    exact fun hres hop4 => exec_descriptorAccept_waits hp hk hd hst
      (Partition.descRefusal_none hop hg hgen hpart fun h => absurd h hop4) (by simp [State.descWaits, hres])
  case sharedWrite =>
    exact fun hop4 hsh => exec_descriptorAccept_refused hp hk hd hst (Partition.descRefusal_shared_write hg hgen hpart hop4 hsh)
  case foreign => exact exec_descriptorAccept_refused hp hk hd hst (Partition.descRefusal_foreign hop hg hgen hpart)
  case stale => exact exec_descriptorAccept_refused hp hk hd hst (Partition.descRefusal_stale hop hg hgen)
  case reserved => exact exec_descriptorAccept_refused hp hk hd hst (Partition.descRefusal_reserved hop)
  case chunk =>
    intro m layer head chunk mine hm hkind hsome hacc hnf hturn
    obtain ⟨v, r, he, hv, hlayer, hhead, hchunk⟩ := exec_chunkComplete_records hp hk hm hkind hsome hacc hnf hturn
    obtain ⟨hdescs, hchunks⟩ := (k.chunkDone mine r).noteFail_keeps layer
    exact ⟨_, _, r, he, by simp only [State.step?_updStep_self, hv, Option.map_some]; rfl, hdescs, hchunks, hlayer, hhead, hchunk⟩
  case merged =>
    intro p m d w b batch layer hp hm hw hb hty hall
    obtain ⟨u, c, msg, dg, he, hu⟩ := exec_layerMerged_sends hp hm hw hb hty hall
    have hfound := List.find?_some hw
    simp only [Bool.and_eq_true, beq_iff_eq, Bool.not_eq_true'] at hfound
    obtain ⟨⟨⟨hmodel, hbatch⟩, hnf⟩, -⟩ := hfound
    refine ⟨u, _, _, he, hu, Partition.mem_layerSent (by simpa using List.mem_of_find?_eq_some hw) hmodel hbatch hnf layer dg, rfl,
      fun l hl n e hn hfe => ⟨_, Partition.find_layerSent hl hn (by simpa using hfe) m batch layer dg, rfl, List.length_append⟩,
      fun n q hn hq hr => ⟨q.push (msgWork (Msg.wire msg)), ?_, q.push_work_length _⟩⟩
    rw [hn]
    exact Partition.find_sent_ready (by simpa using hq) hr none msg
  case shadow => exact exec_shadowCompare_decides hp hk hc hst hsh harb

end Sys2Proof.Machine
end

section
/-! SUPPORT. The move engine's events (04 R80, R85, R90 to R93): the ends of promotions, demotions and relocations, a piece of a copy, and
a sweep that finds nothing to evict. -/

namespace Sys2Proof.Machine
open Sys2Proof.Cert

/-! ### The arms of the move engine's events -/

theorem exec_promotionDone (p : Part) (n : Nat) (good : Bool) (s : State) :
    exec (.promotionDone p n good) s = execPromotionDone p n good s := rfl
theorem exec_demotionDone (p : Part) (n : Nat) (good : Bool) (s : State) :
    exec (.demotionDone p n good) s = .next (s.demotionDone p n good).settleFlash := rfl
theorem exec_relocationDone (p : Part) (n : Nat) (s : State) : exec (.relocationDone p n) s = execRelocationDone p n s := rfl
theorem exec_movePiece (path : Path) (s : State) : exec (.movePiece path) s = execMovePiece path s := rfl
theorem exec_winnowSweep (p : Part) (tier : Tier) (s : State) : exec (.winnowSweep p tier) s = execWinnowSweep p tier s := rfl

/-! ### What changes no group -/

theorem State.group?_of_prt {s : State} {p : Part} {t : Partition} (hp : s.prt p = some t) (n : Nat) : s.group? p n = t.groups.find n := by
  rw [State.group?, hp, Option.bind_some]
theorem State.group?_updP_of_groups {f : Partition → Partition} (h : ∀ t, (f t).groups = t.groups) (s : State) (p q : Part) (n : Nat) :
    (s.updP p f).group? q n = s.group? q n := by
  simp only [State.group?, State.prt_updP]
  split
  · cases s.prt q <;> simp [h]
  · rfl
@[simp] theorem Partition.count_groups (t : Partition) (n k : Nat) : (t.count n k).groups = t.groups := by
  unfold Partition.count
  split <;> rfl
@[simp] theorem Partition.count_epoch (t : Partition) (n k : Nat) (tier : Tier) : (t.count n k).epoch tier = t.epoch tier := by
  unfold Partition.count
  split <;> rfl
@[simp] theorem State.group?_count (s : State) (p q : Part) (n k i : Nat) : (s.count p n k).group? q i = s.group? q i :=
  State.group?_updP_of_groups (fun t => t.count_groups n k) s p q i
@[simp] theorem State.group?_dropCopies (s : State) (p q : Part) (f : Copy → Bool) (i : Nat) :
    (s.dropCopies p f).group? q i = s.group? q i := rfl
@[simp] theorem State.group?_staleUnits (s : State) (p q : Part) (o : FlashOwner) (us : List Nat) (i : Nat) :
    (s.staleUnits p o us).group? q i = s.group? q i := rfl
@[simp] theorem State.group?_giveBlocks (s : State) (p q : Part) (quad me : Nat) (runs : List (Nat × Nat)) (i : Nat) :
    (s.giveBlocks p quad me runs).group? q i = s.group? q i := by
  apply State.group?_updP_of_groups
  exact fun _ => rfl
@[simp] theorem State.group?_updGroup_self (s : State) (p : Part) (i : Nat) (f : Group → Group) :
    (s.updGroup p i f).group? p i = (s.group? p i).map f := by simp [State.group?_updGroup]

theorem State.group?_updP_of_prt {s : State} {p : Part} {t : Partition} (hp : s.prt p = some t) (f : Partition → Partition) (n : Nat) :
    (s.updP p f).group? p n = (f t).groups.find n := State.group?_of_prt (State.prt_updP_of_prt hp f) n
theorem Partition.find_touchG (t : Partition) (n : Nat) :
    (t.touchG n).groups.find n = (t.groups.find n).map fun g => { g with touch := t.epoch g.tier } := Tab.find_upd_self ..

/-- A group that is changed and touched. -/
theorem State.group?_upd_touched {s : State} {p : Part} {t : Partition} {n : Nat} {r : Group} (hp : s.prt p = some t)
    (hr : t.groups.find n = some r) (f : Group → Group) :
    (s.updP p fun t => { t with groups := t.groups.upd n f }.touchG n).group? p n = some { f r with touch := t.epoch (f r).tier } := by
  rw [State.group?_updP_of_prt hp, Partition.find_touchG]
  dsimp only
  rw [Tab.find_upd_self, hr]
  rfl

/-! ### A group that is named and not poisoned -/

section
variable {s : State} {p : Part} {n : Nat} {r : Group} (hr : s.group? p n = some r)
include hr

theorem State.settleGroup_named (hn : r.refcount ≠ 0) : s.settleGroup p n = s := by
  simp [State.settleGroup, hr, hn]
theorem State.dropPoisoned_sound (hs : r.poisonCount = 0) : s.dropPoisoned p n = s := by
  simp [State.dropPoisoned, hr, hs]
theorem State.group?_settled (hn : r.refcount ≠ 0) (hs : r.poisonCount = 0) :
    ((s.settleGroup p n).dropPoisoned p n).group? p n = some r := by
  rw [State.settleGroup_named hr hn, State.dropPoisoned_sound hr hs, hr]
end

@[simp] theorem Group.poisonCount_clean (r : Group) : r.clean.poisonCount = r.poisonCount := by
  simp [Group.poisonCount, Group.clean, Tab.mapV, Function.comp_def]
@[simp] theorem Group.dirtyCount_clean (r : Group) : r.clean.dirtyCount = 0 := by
  have hnil : r.clean.recs.filter (fun kv => kv.2.dirty) = [] := List.filter_eq_nil_iff.2 fun e he => by
    obtain ⟨a, -, rfl⟩ := List.mem_map.1 he
    simp
  simp [Group.dirtyCount, Group.dirtyPages, hnil]

/-! ### The end of a promotion, a demotion and a relocation (R80, R90, R93) -/

/-- A group whose promotion has ended, touched in an epoch of T0. -/
def Group.promoted (r : Group) (epoch : Nat) : Group :=
  { r.clean with tier := .t0, backing := some r.tier, backLoc := r.loc, loc := 0, move := .idle, ppin := false, reviving := false
                 touch := epoch }
/-- A group whose demotion has ended at a place of its destination, touched in an epoch of it. -/
def Group.demotedAt (r : Group) (place epoch : Nat) : Group :=
  { r.clean with tier := r.dest, loc := place, backing := none, backLoc := 0, move := .idle, copyOut := false, frame := 0, run := 0
                 forAlloc := 0, touch := epoch }
/-- A group whose demotion has ended with its free step cancelled: it stays, backed at a place of the destination. -/
def Group.backedAt (r : Group) (place : Nat) : Group :=
  { r.clean with backing := some r.dest, backLoc := place, move := .idle, copyOut := false, cancelFree := false, forAlloc := 0 }
/-- A group whose relocation has ended. -/
def Group.relocated (r : Group) : Group :=
  { r with frame := (r.moveTo.getD (r.frame, r.run)).1, run := (r.moveTo.getD (r.frame, r.run)).2
           moveTo := none, forAlloc := 0, move := .idle, copyOut := false }

section
variable {s : State} {p : Part} {t : Partition} {n : Nat} {r : Group} (hp : s.prt p = some t) (hr : t.groups.find n = some r)
include hp hr

theorem exec_promotionDone_promotes (hn : r.refcount ≠ 0) (hs : r.poisonCount = 0) (hmove : r.move = .promoting)
    (hc : s.copied p (.promote n) = true) :
    ∃ u, exec (.promotionDone p n true) s = .next u ∧ u.group? p n = some (r.promoted (t.epoch .t0)) := by
  rw [exec_promotionDone, execPromotionDone, State.group?_of_prt hp, hp, hr]
  dsimp only
  rw [if_neg (by simp [hmove, hc]), if_neg (by simp)]
  refine ⟨_, rfl, State.group?_settled ?_ hn ((Group.poisonCount_clean r).trans hs)⟩
  split
  all_goals
    simp only [State.group?_count]
    exact State.group?_upd_touched hp hr _

/-- The end of a demotion onto the copy that backs its group: where the free step was cancelled the group stays. -/
theorem State.group?_demoted (hb : r.backing = some r.dest) (place : Nat) : (s.demoted p n place t r).group? p n
    = some (if r.cancelFree then r.backedAt place else r.demotedAt place (t.epoch r.dest)) := by
  have hu : (if r.dest = .t2 then s.staleUnits p (.group r.h) (t.dirtyUnits r) else s).prt p = some t := by
    split <;> exact hp
  have hv := State.prt_count_of_prt (State.prt_count_of_prt hu cDemotions 1) cDemotedBytes (t.groupBytes r)
  have hrv : ((t.count cDemotions 1).count cDemotedBytes (t.groupBytes r)).groups.find n = some r := by simpa using hr
  have hepoch : ((t.count cDemotions 1).count cDemotedBytes (t.groupBytes r)).epoch r.dest = t.epoch r.dest := by simp
  have hkeep : ¬ (decide (r.backing = some .t2) && decide (r.dest ≠ .t2)) = true := by simp [hb]
  rw [State.demoted, if_pos hb, if_neg hkeep, ← hepoch]
  dsimp only
  split
  · rw [State.group?_updGroup_self, State.group?_of_prt hv, hrv]
    rfl
  · split
    · rw [State.group?_giveBlocks]
      exact State.group?_upd_touched hv hrv _
    · exact State.group?_upd_touched hv hrv _

theorem exec_demotionDone_ends (hn : r.refcount ≠ 0) (hs : r.poisonCount = 0) (hmove : r.move = .demoting) (hdest : r.dest ≠ .t0)
    (hb : r.backing = some r.dest) (hc : s.copied p (.demote n) = true) :
    ∃ v : State, exec (.demotionDone p n true) s = .next v.settleFlash
      ∧ v.group? p n = some (if r.cancelFree then r.backedAt r.backLoc else r.demotedAt r.backLoc (t.epoch r.dest)) := by
  have hplace : t.destPlace n r = some r.backLoc := if_pos hb
  have hend := State.group?_demoted (s := s.dropCopies p fun c => c.kind == .demote n) hp hr hb r.backLoc
  rw [exec_demotionDone, State.demotionDone, State.group?_of_prt hp, hp, hr]
  dsimp only
  rw [if_neg (by simp [hmove, hdest, hc]), if_neg (by simp), hplace]
  refine ⟨_, rfl, State.group?_settled hend ?_ ?_⟩
  · split <;> exact hn
  · split <;> exact (Group.poisonCount_clean r).trans hs

theorem exec_relocationDone_ends (hn : r.refcount ≠ 0) (hs : r.poisonCount = 0) (hmove : r.move = .demoting) (hdest : r.dest = .t0)
    (hc : s.copied p (.relocate n) = true) :
    ∃ u, exec (.relocationDone p n) s = .next u ∧ u.group? p n = some r.relocated := by
  rw [exec_relocationDone, execRelocationDone, State.group?_of_prt hp, hp, hr]
  dsimp only
  rw [if_neg (by simp [hmove, hdest, hc])]
  refine ⟨_, rfl, State.group?_settled ?_ hn hs⟩
  rw [State.group?_giveBlocks, State.group?_updGroup_self, State.group?_dropCopies, State.group?_of_prt hp, hr]
  rfl

/-- The end of no move changes a group that does not move. -/
theorem exec_moveDone_idle (hmove : r.move = .idle) : exec (.promotionDone p n true) s = .next s
    ∧ exec (.relocationDone p n) s = .next s ∧ exec (.demotionDone p n true) s = .next s.settleFlash := by
  simp only [exec_promotionDone, exec_relocationDone, exec_demotionDone, execPromotionDone, execRelocationDone, State.demotionDone,
    State.group?_of_prt hp, hp, hr, hmove]
  exact ⟨rfl, rfl, rfl⟩
end

/-! ### A piece of a copy (R92) -/

theorem State.noteLeft_background {c : Copy} (h : c.kind = .background) (s : State) : s.noteLeft c = s := by
  rw [State.noteLeft, h]

/-- The next piece of a path leaves its copies, their order and what is left of each. -/
theorem State.nextPiece_keeps (s : State) (key : Nat) : ∃ qs, (s.nextPiece key).paths.find key = some qs
    ∧ qs.copies.map (·.order) = (s.paths.getD key ⟨[], none⟩).copies.map (·.order)
    ∧ qs.copies.map (·.left) = (s.paths.getD key ⟨[], none⟩).copies.map (·.left) := by
  unfold State.nextPiece
  dsimp only
  split
  case h_1 => exact ⟨_, Tab.find_put_self .., rfl, rfl⟩
  case h_2 c hc =>
    refine ⟨⟨(s.paths.getD key ⟨[], none⟩).copies.map fun d => if d.order = c.order then { d with begun := true } else d,
      some c.order⟩, ?_, ?_, ?_⟩
    · split <;> exact Tab.find_put_self ..
    · exact List.map_map.trans (List.map_congr_left fun d _ => (apply_ite Copy.order ..).trans (ite_self _))
    · exact List.map_map.trans (List.map_congr_left fun d _ => (apply_ite Copy.left ..).trans (ite_self _))

/-- A copy with one piece fewer to come. -/
def Copy.pieceLess (c : Copy) : Copy := { c with left := c.left - 1 }
/-- The device after a piece of a copy of a path has ended, before the path takes up its next. -/
def State.pieceEnded (s : State) (key : Nat) (ps : PathState) (c : Copy) : State :=
  { s with paths := s.paths.put key ⟨ps.copies.map fun d => if d.order = c.order then c.pieceLess else d, none⟩ }

theorem State.pieceEnded_copies (s : State) (key : Nat) (ps : PathState) (c : Copy) :
    ((s.pieceEnded key ps c).paths.getD key ⟨[], none⟩).copies
      = ps.copies.map fun d => if d.order = c.order then c.pieceLess else d := by
  rw [State.pieceEnded, Tab.getD, Tab.find_put_self, Option.getD_some]

section
variable {s : State} {path : Path} {ps : PathState} {c : Copy} (hps : s.paths.find (pathKey path.tier path.quad.val) = some ps)
  (hc : ps.copies.find? (fun c => some c.order = ps.cur && c.left ≠ 0) = some c) (hleft : 2 ≤ c.left) (hkind : c.kind = .background)
  (hgo : s.halted (pathKey path.tier path.quad.val) c = false)
include hps hc hleft hkind hgo

theorem exec_movePiece_background : exec (.movePiece path) s
    = .next ((s.pieceEnded (pathKey path.tier path.quad.val) ps c).nextPiece (pathKey path.tier path.quad.val)) := by
  have hget : s.paths.getD (pathKey path.tier path.quad.val) ⟨[], none⟩ = ps := by rw [Tab.getD, hps, Option.getD_some]
  have hin := List.find?_some hc
  have hfind : ps.copies.find? (fun c => some c.order = ps.cur && c.left ≠ 0 && !(s.halted (pathKey path.tier path.quad.val) c))
      = some c := find?_eq_some_of_imp hc (by rw [hin, hgo]; rfl) fun b hb => (Bool.and_eq_true_iff.1 hb).1
  rw [exec_movePiece, execMovePiece]
  dsimp only
  rw [hget, hfind]
  dsimp only
  rw [if_neg (by omega)]
  exact congrArg (fun u : State => Host.Outcome.next (u.nextPiece _)) (State.noteLeft_background (c := c.pieceLess) hkind _)

/-- The copy whose piece ends has one piece fewer to come, and no other copy of the path changes. -/
theorem exec_movePiece_counts : ∃ u qs, exec (.movePiece path) s = .next u
    ∧ u.paths.find (pathKey path.tier path.quad.val) = some qs ∧ qs.copies.map (·.order) = ps.copies.map (·.order)
    ∧ qs.copies.map (·.left) = ps.copies.map (fun e => if e.order = c.order then c.left - 1 else e.left) := by
  obtain ⟨qs, hqs, horder, hleft'⟩ := State.nextPiece_keeps (s.pieceEnded (pathKey path.tier path.quad.val) ps c)
    (pathKey path.tier path.quad.val)
  rw [State.pieceEnded_copies, List.map_map] at horder hleft'
  exact ⟨_, qs, exec_movePiece_background hps hc hleft hkind hgo, hqs,
    horder.trans (List.map_congr_left fun d _ => (apply_ite Copy.order ..).trans (ite_eq_right_iff.2 fun h => h.symm)),
    hleft'.trans (List.map_congr_left fun d _ => apply_ite Copy.left ..)⟩
end

/-! ### A sweep that finds nothing to evict (R85, R87) -/

/-- A partition whose groups have other times of touch. -/
def Partition.touchedAs (t : Partition) (touch : Group → Nat) : Partition :=
  { t with groups := t.groups.mapV fun _ g => { g with touch := touch g } }
/-- The time of touch that a sweep of a tier leaves a group. -/
def Partition.clampedTouch (t : Partition) (tier : Tier) (g : Group) : Nat :=
  if g.tier = tier && t.age g > 2 ^ 30 then (t.epoch tier + 2 ^ 32 - 2 ^ 30) % 2 ^ 32 else g.touch

theorem Partition.clampAges_eq (t : Partition) (tier : Tier) : t.clampAges tier = t.touchedAs (t.clampedTouch tier) := by
  have hf : ∀ g : Group, (if g.tier = tier && t.age g > 2 ^ 30 then { g with touch := (t.epoch tier + 2 ^ 32 - 2 ^ 30) % 2 ^ 32 } else g)
      = { g with touch := t.clampedTouch tier g } := fun g => by
    unfold Partition.clampedTouch
    split <;> rfl
  simp only [Partition.clampAges, hf]
  rfl

/-! A time of touch takes no space. -/

theorem Partition.usedT0_touchedAs (t : Partition) (touch : Group → Nat) (q me : Nat) :
    (t.touchedAs touch).usedT0 q me = t.usedT0 q me := by
  simp only [Partition.usedT0, Partition.touchedAs, Tab.mapV, List.filterMap_map]
  rfl
theorem Partition.usedOuter_touchedAs (t : Partition) (touch : Group → Nat) (tier : Tier) :
    (t.touchedAs touch).usedOuter tier = t.usedOuter tier := by
  simp only [Partition.usedOuter, Partition.touchedAs, Tab.mapV, List.filterMap_map, List.map_map]
  rfl
theorem Partition.freeBytes_touchedAs (t : Partition) (touch : Group → Nat) (tier : Tier) :
    (t.touchedAs touch).freeBytes tier = t.freeBytes tier := by
  cases tier
  case t0 =>
    simp only [Partition.freeBytes, Partition.freeBlocks, Partition.usedT0_touchedAs]
    rfl
  all_goals
    simp only [Partition.freeBytes, Partition.usedOuter_touchedAs]
    rfl
theorem Partition.tiers_touchedAs (t : Partition) (touch : Group → Nat) :
    (t.touchedAs touch).groups.map (·.2.tier) = t.groups.map (·.2.tier) := List.map_map

/-! Pinned groups stay where they are (R84, R88). -/

section
variable {t : Partition} (hpin : ∀ e ∈ t.groups, e.2.pins ≠ 0)
include hpin

theorem Partition.touchedAs_pins (touch : Group → Nat) : ∀ e ∈ (t.touchedAs touch).groups, e.2.pins ≠ 0 := fun e he => by
  obtain ⟨a, ha, rfl⟩ := List.mem_map.1 he
  exact hpin a ha
theorem Partition.closingOnly_pinned (closing : BitVec 16 → Bool) (tier : Tier) : t.closingOnly closing tier = [] := by
  rw [Partition.closingOnly, List.map_eq_nil_iff]
  exact List.filter_eq_nil_iff.2 fun e he => by simp [Group.pinned, hpin e he]
theorem Partition.winnowOrder_pinned (et : BitVec 16 → Bool) (tier : Tier) (minAge : Nat) : t.winnowOrder et tier minAge = [] := by
  rw [Partition.winnowOrder, List.filterMap_eq_nil_iff.2 fun e he => by simp [Group.pinned, hpin e he]]
  rfl
end

theorem State.getP_of_prt {β : Type} {s : State} {p : Part} {t : Partition} (hp : s.prt p = some t) (d : β) (f : Partition → β) :
    s.getP p d f = f t := by rw [State.getP, hp]

section
variable {s : State} {p : Part} {t : Partition} {tier : Tier} (hp : s.prt p = some t)
include hp

theorem exec_winnowSweep_no_share (h : t.share tier = 0) : exec (.winnowSweep p tier) s = .next s := by
  rw [exec_winnowSweep, execWinnowSweep, hp]
  exact congrArg Host.Outcome.next (if_pos (.inl h))

/-- A sweep below the low-water mark, with every group of the partition pinned, evicts none and goes on. -/
theorem exec_winnowSweep_pinned (hshare : t.share tier ≠ 0) (hlow : t.freeBytes tier < t.lowMark tier)
    (hmarks : t.lowMark tier ≤ t.highMark tier) (hpin : ∀ e ∈ t.groups, e.2.pins ≠ 0) :
    ∃ u t', exec (.winnowSweep p tier) s = .next u ∧ u.prt p = some t' ∧ tier.code ∈ t'.winnowOn
      ∧ t'.groups.map (·.2.tier) = t.groups.map (·.2.tier) := by
  have hv : (s.updP p fun t => t.clampAges tier).prt p = some (t.touchedAs (t.clampedTouch tier)) := by
    rw [State.prt_updP_of_prt hp, t.clampAges_eq]
  have hpins := Partition.touchedAs_pins hpin (t.clampedTouch tier)
  have hfree : (t.touchedAs (t.clampedTouch tier)).freeBytes tier < (t.touchedAs (t.clampedTouch tier)).highMark tier := by
    rw [t.freeBytes_touchedAs]
    exact hlow.trans_le hmarks
  rw [exec_winnowSweep, execWinnowSweep, hp]
  dsimp only
  rw [if_neg (by simp [hshare, hlow]), State.getP_of_prt hv, Partition.closingOnly_pinned hpins, State.forEach_nil,
    State.getP_of_prt hv, Partition.winnowOrder_pinned hpins]
  refine ⟨_, _, rfl, State.prt_updP_of_prt hv _, ?_, t.tiers_touchedAs _⟩
  simp [hfree]
end

/-! ### The obligation -/

/-- Settles O35: the end of each move, a piece and a sweep by the command's own lemma. -/
theorem moveEventResults : Obligations.MoveEventResults := by
  unfold Obligations.MoveEventResults
  intro s p t n r hp hr hn hs
  refine ⟨?promoted, ?demoted, ?cancelled, ?relocated, ?idle, ?piece, ?sweep, ?noShare⟩
  case promoted =>
    intro hmove hc
    obtain ⟨u, he, hu⟩ := exec_promotionDone_promotes hp hr hn hs hmove hc
    exact ⟨u, _, he, hu, rfl, rfl, rfl, rfl, rfl, r.dirtyCount_clean, rfl, rfl⟩
  case demoted =>
    intro hmove hdest hcancel hb hc
    obtain ⟨v, he, hv⟩ := exec_demotionDone_ends hp hr hn hs hmove hdest hb hc
    rw [if_neg (by simp [hcancel])] at hv
    exact ⟨v, _, he, hv, rfl, rfl, rfl, rfl, rfl, r.dirtyCount_clean, rfl⟩
  case cancelled =>
    intro hmove hdest hcancel hb hc
    obtain ⟨v, he, hv⟩ := exec_demotionDone_ends hp hr hn hs hmove hdest hb hc
    rw [if_pos hcancel] at hv
    exact ⟨v, _, he, hv, rfl, rfl, rfl, rfl, rfl, r.dirtyCount_clean⟩
  case relocated => exact exec_relocationDone_ends hp hr hn hs
  case idle => exact exec_moveDone_idle hp hr
  case piece => exact fun path ps c hps hc hleft hkind hgo => exec_movePiece_counts hps hc hleft hkind hgo
  case sweep => exact fun tier => exec_winnowSweep_pinned hp
  case noShare => exact fun tier => exec_winnowSweep_no_share hp

end Sys2Proof.Machine
end

section
/-! SUPPORT. DOMCREATE and DOMCLOSE (05 R97, R98; 16 R377): how an instruction goes on with an entry of its update log and how it ends with
a status, and what each of the two leaves of the domain records. -/

namespace Sys2Proof.Machine
open Sys2Proof.Cert

/-! ### The arms of the domain instructions -/

theorem exec_domcreate (x : StepRef) (r : Bool) (a : GReg) (s : State) : exec (.domcreate x r a) s = execDomcreate x r a s := rfl
theorem exec_domclose (x : StepRef) (r : Bool) (a : GReg) (s : State) : exec (.domclose x r a) s = execDomclose x r a s := rfl

/-! ### An instruction of a step that runs -/

section
variable {s : State} {x : StepRef} {t : Partition} {k : Step} {g : Program}

theorem State.step?_of_running (h : Running s x t k g) : s.step? x = some k := by
  obtain ⟨hp, hk, -⟩ := h
  rw [State.step?, hp, Option.bind_some, hk]

/-- An instruction that answers `done` goes on from the state that its body leaves. -/
theorem State.issue_of_done (h : Running s x t k g) {u : State} {c : Ctx} {body : Iss → State × IOut} (d : Deps) (r : Bool)
    (hb : body (iss s x t k g) = (u, .done c)) :
    s.issue x d r body = u.updStep x fun e => { e with ctx := { c with pc := c.pc + 8 } } := by
  obtain ⟨hp, hk, hg, hr, hw⟩ := h
  have hb : body ⟨s, x.part, t, k, k.ctx, false, g⟩ = (u, .done c) := hb
  rw [State.issue_running d r body hp hk hg hr hw, hb, State.retire_done]

/-- An instruction that ends with a status and has changed nothing is refused with it. -/
theorem State.issue_of_bad (h : Running s x t k g) {st : Status} {c : Ctx} {body : Iss → State × IOut} (d : Deps) (r : Bool)
    (hb : body (iss s x t k g) = (iss s x t k g).bad st c) (hc : c.pc = k.ctx.pc) :
    .next (s.issue x d r body) = refused s x k r st c := by
  obtain ⟨hp, hk, hg, hr, hw⟩ := h
  have hb : body ⟨s, x.part, t, k, k.ctx, false, g⟩ = (s, .status st c) := hb
  rw [State.issue_running d r body hp hk hg hr hw, hb, refused]
  cases r with
  | false => rfl
  | true => rw [State.retire_status_rec, Ctx.recorded, hc]; rfl

/-- A step that has logged an operation and goes on. -/
theorem State.stands_logged (h : s.step? x = some k) {c : Ctx} (hc : c.pc = k.ctx.pc) (o : LogOp) :
    Stands ((s.log x o).updStep x fun e => { e with ctx := { c with pc := c.pc + 8 } }) x k
      { k with log := k.log ++ [o], ctx := { c with pc := c.pc + 8 } } c := by
  refine ⟨?_, by rw [hc]⟩
  rw [State.step?_updStep_self, State.log, State.step?_updStep_self, h]
  rfl
end

/-! ### Numbers of domains (05 R97, Table 5-1) -/

theorem toNat_mkDomain_zero : ∀ p : Part, (mkDomain p.val 0).toNat = 32768 + 1024 * p.val := by decide

/-- The lowest number of a range that no entry has and that passes a test is the one that a table gives. -/
theorem Tab.lowestFree_eq_some {α : Type} {t : Tab α} {ok : Nat → Bool} {n : Nat} (hfree : t.find n = none) (hok : ok n = true)
    {i fuel : Nat} (hle : i ≤ n) (hlt : n < i + fuel) (htaken : ∀ j, i ≤ j → j < n → t.find j ≠ none) :
    t.lowestFree ok fuel i = some n := by
  induction fuel generalizing i with
  | zero => omega
  | succ fuel ih =>
    rcases hle.eq_or_lt with rfl | hi
    · simp [Tab.lowestFree, Tab.has, hfree, hok]
    · have hhas : t.has i = true := Option.isSome_iff_ne_none.2 (htaken i le_rfl hi)
      rw [Tab.lowestFree, hhas]
      exact ih hi (by omega) fun j hj => htaken j (by omega)

theorem State.find_of_domain? {s : State} {d : BitVec 16} {c : Domain} (h : s.domain? d = some c) : s.domains.find d.toNat = some c := by
  unfold State.domain? at h
  split_ifs at h
  obtain ⟨r, hr, h⟩ := Option.bind_eq_some_iff.1 h
  split_ifs at h
  rwa [Option.some.inj h] at hr

/-- The record of a domain that step `num` of a partition has reserved, with its drawn key (log entry 5). -/
def Domain.drawn (p : Part) (num free : Nat) : Domain :=
  { key := Config.domainKey free, members := BitVec.ofNat 16 (2 ^ p.val), cross := false, equalTime := false, etMax := 0, st := .free
    reserved := some num, excluded := none }

/-! ### What the instructions do -/

section
variable {s : State} {x : StepRef} {t : Partition} {k : Step} {g : Program} {a : GReg} {r : Bool} (h : Running s x t k g)
include h

theorem exec_domcreate_reserves (hpriv : t.privQ (k.q % 64) = true) {n : Nat} (hle : 32768 + 1024 * x.part.val ≤ n)
    (hlt : n < 32768 + 1024 * x.part.val + 1024) (hfree : s.domains.find n = none)
    (htaken : ∀ j, 32768 + 1024 * x.part.val ≤ j → j < n → s.domains.find j ≠ none) :
    ∃ u e, exec (.domcreate x r a) s = .next u ∧ Stands u x k e (k.ctx.wg a (BitVec.ofNat 64 n))
      ∧ e.log = k.log ++ [.domActive (BitVec.ofNat 16 n)] ∧ u.domains = s.domains.put n (.drawn x.part x.num s.free) := by
  have hn : s.domains.lowestFree (fun k => k / 1024 == 32 + x.part.val) 1024 (mkDomain x.part.val 0).toNat = some n := by
    rw [toNat_mkDomain_zero]
    exact Tab.lowestFree_eq_some hfree (by simp only [beq_iff_eq]; omega) hle hlt htaken
  have hstep : ({ s.fresh.2 with domains := s.domains.put n (.drawn x.part x.num s.free) } : State).step? x = some k :=
    State.step?_of_running h
  refine ⟨_, _, congrArg Host.Outcome.next (State.issue_of_done h _ r ?_), State.stands_logged hstep (Ctx.wg_pc ..) _, rfl, rfl⟩
  simp [iss, Iss.priv, hpriv, hn, Domain.drawn]

theorem exec_domclose_excludes (hpriv : t.privQ (k.q % 64) = true) {c : Domain} (hsmall : (k.ctx.rg a).toNat < 65536)
    (hown : domOwner (BitVec.ofNat 16 (k.ctx.rg a).toNat) = x.part.val)
    (hc : s.domain? (BitVec.ofNat 16 (k.ctx.rg a).toNat) = some c) (hact : c.st = .active) (hcross : c.cross = false)
    (hex : c.excluded = none) (hnamed : s.domNamed (BitVec.ofNat 16 (k.ctx.rg a).toNat) = false) :
    ∃ u e, exec (.domclose x r a) s = .next u ∧ Stands u x k e k.ctx
      ∧ e.log = k.log ++ [.domClose (BitVec.ofNat 16 (k.ctx.rg a).toNat)]
      ∧ u.domains = s.domains.upd (BitVec.ofNat 16 (k.ctx.rg a).toNat).toNat fun d => { d with excluded := some x.num } := by
  have hstep : ({ s with domains := s.domains.upd (BitVec.ofNat 16 (k.ctx.rg a).toNat).toNat fun d =>
    { d with excluded := some x.num } } : State).step? x = some k := State.step?_of_running h
  refine ⟨_, _, congrArg Host.Outcome.next (State.issue_of_done h _ r ?_), State.stands_logged hstep rfl _, rfl, rfl⟩
  simp [-BitVec.ofNat_toNat, iss, Iss.priv, hpriv, hc, hsmall, hown, hact, hcross, hex, hnamed]

variable (hpriv : t.privQ (k.q % 64) = false)
include hpriv

theorem exec_domcreate_unprivileged : exec (.domcreate x r a) s = refused s x k r .accessViolation (k.ctx.wg a 0) := by
  rw [exec_domcreate, execDomcreate]
  exact State.issue_of_bad h _ r (by simp [iss, Iss.priv, hpriv]) (Ctx.wg_pc ..)

theorem exec_domclose_unprivileged : exec (.domclose x r a) s = refused s x k r .accessViolation k.ctx := by
  rw [exec_domclose, execDomclose]
  refine State.issue_of_bad h _ r ?_ rfl
  cases hd : s.domain? (BitVec.ofNat 16 (k.ctx.rg a).toNat) with
  | none => simp only [iss, hd]
  | some d => simp [-BitVec.ofNat_toNat, iss, Iss.priv, hpriv, hd]
end

/-! ### The obligation -/

/-- Settles O17: each instruction's own lemma gives the domain records that it leaves. -/
theorem domainResults : Obligations.DomainResults := by
  unfold Obligations.DomainResults
  intro s x t k g a r h
  refine ⟨?creates, ?closes, fun hpriv => ⟨exec_domcreate_unprivileged h hpriv, exec_domclose_unprivileged h hpriv⟩⟩
  case creates =>
    intro n hpriv hle hlt hfree htaken
    obtain ⟨u, e, he, hst, hlog, hu⟩ := exec_domcreate_reserves h hpriv hle hlt hfree htaken
    refine ⟨u, e, _, he, hst, hlog, hu ▸ Tab.find_put_self .., rfl, rfl, rfl, rfl, rfl, fun j hj => ?_⟩
    rw [hu, Tab.find_put_ne _ _ hj]
  case closes =>
    intro c hpriv hsmall hown hc hact hcross hex hnamed
    obtain ⟨u, e, he, hst, hlog, hu⟩ := exec_domclose_excludes h hpriv hsmall hown hc hact hcross hex hnamed
    refine ⟨u, e, he, hst, hlog, ?_, fun j hj => ?_⟩
    · rw [hu, Tab.find_upd_self, State.find_of_domain? hc, Option.map_some]
    · rw [hu, Tab.find_upd_ne _ _ hj]

end Sys2Proof.Machine
end

section
/-! SUPPORT. The frame of a squash (03 R62) and of everything that it runs: no squash, and no stop of a revival, changes a
cluster's record. -/

namespace Sys2Proof.Machine

/-! ### Runs and guards -/

theorem State.forEach_clusters {β : Type} {s : State} {l : List β} {f : State → β → State}
    (h : ∀ s b, (f s b).clusters = s.clusters) : (s.forEach l f).clusters = s.clusters := State.forEach_keeps (·.clusters) l f h s

theorem State.withP_clusters {s : State} {p : Part} {f : Partition → State} (h : ∀ t, (f t).clusters = s.clusters) :
    (s.withP p f).clusters = s.clusters := by
  unfold State.withP; split <;> simp [h]

/-! ### Records, messages and counters -/

section
variable (s : State) (p : Part)

@[simp] theorem State.statusEvent_clusters (st : Status) (o a : Word) : (s.statusEvent p st o a).clusters = s.clusters := rfl
@[simp] theorem State.jwrite_clusters (j t n : Nat) (o : Handle) (b : JBody) (f : Bool) :
    (s.jwrite j t n o b f).1.clusters = s.clusters := rfl
@[simp] theorem State.jlog_clusters (j t n : Nat) (o : Handle) (b : JBody) : (s.jlog j t n o b).clusters = s.clusters := rfl
@[simp] theorem State.progRecord_clusters (i : Nat) : (s.progRecord p i).clusters = s.clusters := rfl
@[simp] theorem State.flashCount_clusters (n k : Nat) : (s.flashCount n k).clusters = s.clusters := rfl
@[simp] theorem State.dropCopies_clusters (f : Copy → Bool) : (s.dropCopies p f).clusters = s.clusters := rfl
@[simp] theorem State.settleDomains_clusters : s.settleDomains.clusters = s.clusters := rfl
@[simp] theorem State.unreserve_clusters (n : Nat) : (s.unreserve p n).clusters = s.clusters := rfl
@[simp] theorem State.recFor_clusters (n j : Nat) : (s.recFor p n j).clusters = s.clusters := rfl
@[simp] theorem State.recLeavers_clusters (i j : Nat) : (s.recLeavers p i j).clusters = s.clusters := rfl
@[simp] theorem State.freeFrame_clusters (g : Nat) : (s.freeFrame p g).clusters = s.clusters := rfl
@[simp] theorem State.sendMsg_clusters (qp m : Option Nat) (msg : Msg) : (s.sendMsg p qp m msg).clusters = s.clusters := rfl
@[simp] theorem State.toLead_clusters (m : ModelDesc) (msg : Msg) : (s.toLead p m msg).clusters = s.clusters := rfl
@[simp] theorem State.releaseReserved_clusters (n : Nat) : (s.releaseReserved p n).clusters = s.clusters := rfl
@[simp] theorem State.toFollowers_clusters (m : ModelDesc) (msg : Msg) : (s.toFollowers p m msg).clusters = s.clusters :=
  State.forEach_clusters fun _ _ => rfl

/-! ### Groups and copies (04 R83, R84, R92, R93) -/

@[simp] theorem State.unmap_clusters (o : FlashOwner) : (s.unmap p o).clusters = s.clusters := by
  simp [State.unmap, apply_ite State.clusters]
@[simp] theorem State.freeGroup_clusters (g : Nat) : (s.freeGroup p g).clusters = s.clusters := by
  unfold State.freeGroup; split <;> simp
@[simp] theorem State.settleGroup_clusters (g : Nat) : (s.settleGroup p g).clusters = s.clusters := by
  unfold State.settleGroup; split <;> simp [apply_ite State.clusters]
@[simp] theorem State.dropOpened_clusters (g : Nat) : (s.dropOpened p g).clusters = s.clusters := by
  simp [State.dropOpened, apply_ite State.clusters]
@[simp] theorem State.refDown_clusters (g : Nat) : (s.refDown p g).clusters = s.clusters := by simp [State.refDown]
@[simp] theorem State.removeNode_clusters (n : Nat) : (s.removeNode p n).clusters = s.clusters := by
  unfold State.removeNode
  refine State.withP_clusters fun t => ?_
  split <;> rfl
@[simp] theorem State.dropGroup_clusters (g : Nat) : (s.dropGroup p g).clusters = s.clusters := by
  unfold State.dropGroup; split <;> simp [State.forEach_clusters]
@[simp] theorem State.dropPoisoned_clusters (g : Nat) : (s.dropPoisoned p g).clusters = s.clusters := by
  simp [State.dropPoisoned, apply_ite State.clusters]
@[simp] theorem State.unpin_clusters (g : Nat) : (s.unpin p g).clusters = s.clusters := by simp [State.unpin]
@[simp] theorem State.nextPiece_clusters (key : Nat) : (s.nextPiece key).clusters = s.clusters := by
  unfold State.nextPiece
  dsimp only
  split
  · rfl
  · split <;> rfl
@[simp] theorem State.addCopy_clusters (key : Nat) (k : CopyKind) (prio bytes : Nat) :
    (s.addCopy key p k prio bytes).clusters = s.clusters := by
  simp [State.addCopy, apply_ite State.clusters]
@[simp] theorem State.reclaim_clusters (g : Nat) : (s.reclaim p g).clusters = s.clusters := by
  unfold State.reclaim; split <;> simp [apply_ite State.clusters]
@[simp] theorem State.cancelPromotion_clusters (prio g : Nat) : (s.cancelPromotion p prio g).clusters = s.clusters := by
  unfold State.cancelPromotion; split <;> simp [apply_ite State.clusters]
@[simp] theorem State.beginDemotion_clusters (g : Nat) (d : Tier) (prio : Nat) :
    (s.beginDemotion p g d prio).clusters = s.clusters := by
  unfold State.beginDemotion; split <;> simp
@[simp] theorem State.winnowT2_clusters (room : State → Bool) : (s.winnowT2 p room).clusters = s.clusters := by
  simp [State.winnowT2, apply_ite State.clusters, State.forEach_clusters]
@[simp] theorem State.roomT2_clusters (bytes : Nat) : (s.roomT2 p bytes).clusters = s.clusters := State.winnowT2_clusters ..
@[simp] theorem State.demoteT2_clusters (g prio : Nat) : (s.demoteT2 p g prio).clusters = s.clusters := by
  unfold State.demoteT2; split <;> simp [apply_ite State.clusters]
@[simp] theorem State.roomIn_clusters (t : Tier) (bytes prio : Nat) : (s.roomIn p t bytes prio).clusters = s.clusters := by
  simp [State.roomIn, apply_ite State.clusters, State.forEach_clusters]
@[simp] theorem State.demote_clusters (g : Nat) (t2 : Bool) (prio : Nat) : (s.demote p g t2 prio).clusters = s.clusters := by
  unfold State.demote; split <;> simp [apply_ite State.clusters]

/-! ### Sessions (01 R21, 08 R187, 09 R196) -/

@[simp] theorem State.sessRecord_clusters (i t n : Nat) : (s.sessRecord p i t n).1.clusters = s.clusters := by
  unfold State.sessRecord; split <;> rfl
@[simp] theorem State.endCmd_clusters (q : Nat) (cid : BitVec 16) (st : Status) (r n : Nat) :
    (s.endCmd p q cid st r n).clusters = s.clusters := by
  simp [State.endCmd, apply_ite State.clusters]
@[simp] theorem State.endReq_clusters (q : Nat) (cid : BitVec 16) (st : Status) (r i n : Nat) (w : Option Word) :
    (s.endReq p q cid st r i n w).clusters = s.clusters := by
  unfold State.endReq
  split
  · rfl
  · split <;> simp [apply_ite State.clusters]
@[simp] theorem State.freeSeq_clusters (i : Nat) : (s.freeSeq p i).clusters = s.clusters := by
  unfold State.freeSeq; split <;> simp [State.forEach_clusters, apply_ite State.clusters]
@[simp] theorem State.freeRegion_clusters (i : Nat) : (s.freeRegion p i).clusters = s.clusters := by
  unfold State.freeRegion; split <;> simp
@[simp] theorem State.stopRevival_clusters (i : Nat) (st : Status) (b : Bool) : (s.stopRevival p i st b).clusters = s.clusters := by
  unfold State.stopRevival; split <;> simp [State.forEach_clusters, apply_ite State.clusters]
@[simp] theorem State.freeSession_clusters (i e n : Nat) : (s.freeSession p i e n).1.clusters = s.clusters := by
  unfold State.freeSession; split <;> simp [State.forEach_clusters, apply_ite State.clusters]
@[simp] theorem State.parkDemote_clusters (i d : Nat) : (s.parkDemote p i d).clusters = s.clusters := by
  unfold State.parkDemote
  split_ifs
  · rfl
  · split
    · rfl
    · refine State.forEach_clusters fun s h => ?_
      split <;> simp [apply_ite State.clusters]
@[simp] theorem State.parkNow_clusters (i : Nat) (a : ParkArgs) (n : Nat) (f w : Bool) :
    (s.parkNow p i a n f w).1.clusters = s.clusters := by
  unfold State.parkNow; split <;> simp [State.forEach_clusters, apply_ite State.clusters]
@[simp] theorem State.boundary_clusters (i : Option Nat) : (s.boundary p i).clusters = s.clusters := by
  unfold State.boundary
  split
  · rfl
  · split
    · rfl
    · split_ifs
      · rfl
      · split
        · simp
        · split <;> simp
@[simp] theorem State.seqBoundary_clusters (i : Option Nat) : (s.seqBoundary p i).clusters = s.clusters := by
  unfold State.seqBoundary; split <;> simp [apply_ite State.clusters]

/-! ### The squash -/

@[simp] theorem State.trimGroup_clusters (g : Nat) : (s.trimGroup p g).clusters = s.clusters := by
  unfold State.trimGroup; split <;> simp [apply_ite State.clusters]
@[simp] theorem State.trimSeq_clusters (i : Nat) : (s.trimSeq p i).clusters = s.clusters := by
  unfold State.trimSeq; split <;> simp [State.forEach_clusters, apply_ite State.clusters]
@[simp] theorem State.unpinChunks_clusters (k : CopyKind) : (s.unpinChunks p k).clusters = s.clusters := by
  unfold State.unpinChunks; split <;> rfl
@[simp] theorem State.cancelMoves_clusters (n : Nat) : (s.cancelMoves p n).clusters = s.clusters := by
  simp [State.cancelMoves, State.forEach_clusters]
@[simp] theorem State.releasePins_clusters (k : Step) : (s.releasePins p k).clusters = s.clusters := by
  simp [State.releasePins, State.forEach_clusters]
@[simp] theorem State.squashEffects_clusters (k : Step) (st : Status) : (s.squashEffects p k st).clusters = s.clusters := by
  unfold State.squashEffects
  dsimp only
  split <;> simp [State.forEach_clusters, apply_ite State.clusters]
@[simp] theorem State.fetchRefused_clusters (w : Wave) (st : Status) : (s.fetchRefused p w st).clusters = s.clusters := by
  simp [State.fetchRefused, apply_ite State.clusters]
@[simp] theorem State.hgSquashed_clusters (k : Step) (st : Status) : (s.hgSquashed p k st).clusters = s.clusters := by
  unfold State.hgSquashed
  split
  · rfl
  · split <;> simp [apply_ite State.clusters]
@[simp] theorem State.settleProgram_clusters (i : Nat) : (s.settleProgram p i).clusters = s.clusters := by
  unfold State.settleProgram
  split
  · rfl
  · split_ifs
    · rfl
    · exact State.forEach_clusters fun _ _ => rfl
@[simp] theorem State.squash_clusters (n : Nat) (st : Status) (l : Bool) (r : Nat) (w : Bool) :
    (s.squash p n st l r w).clusters = s.clusters := by
  unfold State.squash
  split
  · rfl
  · dsimp only
    split <;> simp [apply_ite State.clusters]
end

end Sys2Proof.Machine
end

section
/-! SUPPORT. What the patrols find (05 R107, R113; 13 R297 to R302, R305, Table 13-5): rebuilt index chains, scrubbed CAM rows, what a
memory patrol marks and rebuilds, ergot rounds and their results, and sweeps of quarantined clusters. -/

namespace Sys2Proof.Machine
open Sys2Proof.Cert

/-! ### The arms of the patrols -/

theorem exec_indexRebuild (p : Part) (b : Nat) (s : State) : exec (.indexRebuild p b) s = execIndexRebuild p b s := rfl
theorem exec_camScrub (q : Quad) (s : State) : exec (.camScrub q) s = execCamScrub q s := rfl
theorem exec_memoryPatrol (f : Finding) (s : State) : exec (.memoryPatrol f) s = execMemoryPatrol f s := rfl
theorem exec_ergotRound (s : State) : exec .ergotRound s = execErgotRound s := rfl
theorem exec_ergotResult (c : Clu) (dA dB : Digest) (arb : Option Digest) (badA badB : Bool) (s : State) :
    exec (.ergotResult c dA dB arb badA badB) s = execErgotResult c dA dB arb badA badB s := rfl
theorem exec_quarantineSweep (c : Clu) (pass : Bool) (s : State) : exec (.quarantineSweep c pass) s = execQuarantineSweep c pass s := rfl

/-! ### Tables and counters -/

theorem Tab.getD_put_self {α : Type} (t : Tab α) (i : Nat) (v d : α) : (t.put i v).getD i d = v := by simp [Tab.getD]
theorem Partition.count_one (t : Partition) (n : Nat) :
    t.count n 1 = { t with counters := t.counters.put n ((t.counters.getD n 0 + 1) % 2 ^ 64) } := rfl

/-! ### A chain that failed its check (05 R107) -/

/-- `u` has the nodes and counters of `t`, and its chain of a bucket does not count as failed. -/
def Partition.Rebuilt (t : Partition) (b : Nat) (u : Partition) : Prop :=
  u.nodes = t.nodes ∧ u.counters = t.counters ∧ ∃ c, u.index.find b = some c ∧ c.bad = false

/-- A chain that takes a node is as good as before. -/
theorem Partition.find_index_put {t : Partition} {b i : Nat} {c : Chain} (hb : t.index.find b = some c) {d : Chain} {bs : List Bucket} :
    ∃ c', (t.index.put i { t.index.getD i d with buckets := bs }).find b = some c' ∧ c'.bad = c.bad := by
  by_cases h : b = i
  · subst h
    exact ⟨_, Tab.find_put_self .., by simp [Tab.getD, hb]⟩
  · exact ⟨c, by rw [Tab.find_put_ne _ _ h, hb], rfl⟩

theorem Partition.allocated_keeps (t : Partition) (tier : Tier) (n : Nat) :
    ∃ e, t.allocated tier n = { t with epochs := e } := by
  unfold Partition.allocated
  dsimp only
  split
  · exact ⟨t.epochs, rfl⟩
  · exact ⟨_, rfl⟩

theorem Partition.Rebuilt.indexAdd {t u v : Partition} {b : Nat} (h : t.Rebuilt b u) {et : BitVec 16 → Bool} {key : Key128}
    {dom : BitVec 16} {n : Nat} (hv : u.indexAdd et key dom n = some v) : t.Rebuilt b v := by
  obtain ⟨hn, hc, c, hb, hgood⟩ := h
  unfold Partition.indexAdd at hv
  dsimp only at hv
  split at hv
  · cases hv
  · split at hv
    · cases hv
      obtain ⟨c', hf, hc'⟩ := Partition.find_index_put hb
      exact ⟨hn, hc, c', hf, hc'.trans hgood⟩
    · split at hv
      · cases hv
      · obtain ⟨pl, -, rfl⟩ := Option.map_eq_some_iff.1 hv
        obtain ⟨e, he⟩ := u.allocated_keeps pl.1 4096
        obtain ⟨c', hf, hc'⟩ := Partition.find_index_put hb
        split
        · rw [he]
          exact ⟨hn, hc, c', hf, hc'.trans hgood⟩
        · exact ⟨hn, hc, c', hf, hc'.trans hgood⟩

/-- A chain written anew does not count as failed, and trimming chains leaves that. -/
theorem Partition.rebuilt_trimChains (t : Partition) (b : Nat) (bs : List Bucket) :
    t.Rebuilt b { t with index := t.index.put b ⟨bs, false⟩ }.trimChains :=
  ⟨rfl, rfl, _, by rw [Partition.trimChains, Tab.find_mapV, Tab.find_put_self, Option.map_some], rfl⟩

theorem exec_indexRebuild_rebuilds {s : State} {p : Part} {t : Partition} {b : Nat} {c : Chain} (hp : s.prt p = some t)
    (hc : t.index.find b = some c) (hbad : c.bad = true) :
    ∃ u v, exec (.indexRebuild p b) s = .next u ∧ u.prt p = some (v.count cIdxRebuilds 1) ∧ t.Rebuilt b v := by
  rw [exec_indexRebuild, execIndexRebuild, if_pos (by simp [State.getP_of_prt hp, hc, hbad])]
  refine ⟨_, _, rfl, State.prt_count_of_prt (State.prt_updP_of_prt hp _) .., ?_⟩
  refine List.foldlRecOn (motive := fun u => t.Rebuilt b u) _ _ (t.rebuilt_trimChains b _) fun u hu e _ => ?_
  cases hv : u.indexAdd s.isEt e.2.key e.2.domain e.1 with
  | none => exact hu
  | some v => exact hu.indexAdd hv

/-! ### The scrubber (05 R113, Table 5-9) -/

/-- The device after the scrubber has turned to row `n` of a quadrant. -/
def State.scrubbed (s : State) (q : Quad) (n : Nat) : State :=
  { s with cam := { s.cam with scrub := s.cam.scrub.modify q.val fun _ => (n + 1) % 262144 } }

/-- A fix or a drop leaves the rows and the shadows. -/
theorem State.camFix_cam (s : State) (row counter : Nat) :
    (s.camFix row counter).cam.rows = s.cam.rows ∧ (s.camFix row counter).cam.shadows = s.cam.shadows := by
  have hev : ∀ (u : State) (l : List (Nat × Partition)) (seg : Nat),
      (u.forEach l fun u kv => u.event (Fin.ofNat 16 kv.1) evCamSegmentDisabled 0 0 (BitVec.ofNat 64 seg)).cam = u.cam :=
    fun u l seg => State.forEach_keeps (·.cam) l
      (fun u kv => u.event (Fin.ofNat 16 kv.1) evCamSegmentDisabled 0 0 (BitVec.ofNat 64 seg)) (fun _ _ => rfl) u
  unfold State.camFix
  dsimp only
  split
  · split_ifs
    · exact ⟨rfl, rfl⟩
    · rw [hev]; exact ⟨rfl, rfl⟩
  · split_ifs
    · exact ⟨rfl, rfl⟩
    · rw [hev]; exact ⟨rfl, rfl⟩

section
variable {s : State} {q : Quad} {n : Nat} {w : CamRow} (hq : s.cam.scrub[q.val]? = some n) (hn : n ≠ 0)
  (hw : s.cam.rows.find (q.val * 262144 + n) = some w)
include hq hn hw

theorem exec_camScrub_unshadowed (hwf : s.cam.rows.wf) (hsh : s.cam.shadows.find (q.val * 262144 + n) = none) :
    ∃ u, exec (.camScrub q) s = .next u ∧ u.cam.rows.find (q.val * 262144 + n) = none := by
  have he : exec (.camScrub q) s = .next (State.camFix { s.scrubbed q n with cam := (s.scrubbed q n).cam.kill (q.val * 262144 + n) }
      (q.val * 262144 + n) cScrubDrops) := by
    rw [exec_camScrub, execCamScrub]
    simp [List.getD_eq_getElem?_getD, hq, hn, hw, hsh, State.scrubbed, listSet]
  refine ⟨_, he, ?_⟩
  rw [(State.camFix_cam ..).1]
  exact Tab.find_del_self _ hwf

variable {sh : Shadow} (hsh : s.cam.shadows.find (q.val * 262144 + n) = some sh)
  (hcrc : sh.scrc = shadowCrc sh.key sh.domain sh.model sh.node)
include hsh hcrc

theorem exec_camScrub_agrees (hkey : w.key = sh.key) (hdom : w.domain = sh.domain) (hmod : w.model = sh.model) :
    exec (.camScrub q) s = .next (s.scrubbed q n) := by
  rw [exec_camScrub, execCamScrub]
  simp [List.getD_eq_getElem?_getD, hq, hn, hw, hsh, ← hcrc, hkey, hdom, hmod, State.scrubbed, listSet]

theorem exec_camScrub_fixes (hkey : w.key ≠ sh.key) : ∃ u, exec (.camScrub q) s = .next u
    ∧ u.cam.rows.find (q.val * 262144 + n) = some ⟨sh.key, sh.domain, sh.model, w.ref⟩ ∧ u.cam.shadows = s.cam.shadows := by
  have he : exec (.camScrub q) s = .next (State.camFix { s.scrubbed q n with cam := { (s.scrubbed q n).cam with
      rows := s.cam.rows.put (q.val * 262144 + n) ⟨sh.key, sh.domain, sh.model, w.ref⟩ } } (q.val * 262144 + n) cScrubFixes) := by
    rw [exec_camScrub, execCamScrub]
    simp [List.getD_eq_getElem?_getD, hq, hn, hw, hsh, ← hcrc, hkey, State.scrubbed, listSet]
  obtain ⟨hrows, hshadows⟩ := State.camFix_cam { s.scrubbed q n with cam := { (s.scrubbed q n).cam with
      rows := s.cam.rows.put (q.val * 262144 + n) ⟨sh.key, sh.domain, sh.model, w.ref⟩ } } (q.val * 262144 + n) cScrubFixes
  exact ⟨_, he, by rw [hrows]; exact Tab.find_put_self .., hshadows⟩
end

/-! ### The memory patrol (13 R297 to R300, Table 13-2) -/

theorem Group.poisonedTile_setPoison (r : Group) (page : Nat) (v : Bool) : (r.setPoison page v).poisonedTile page v = true := by
  cases v <;> simp [Group.poisonedTile, Group.setPoison]

section
variable {s : State} {p : Part} {t : Partition} (hp : s.prt p = some t)
include hp

/-- A pinned group with a poisoned tile stays. -/
theorem exec_memoryPatrol_tile {n : Nat} {r : Group} (hr : t.groups.find n = some r) (hpin : r.pinned = true) (page : Nat) (v : Bool) :
    ∃ u, exec (.memoryPatrol (.tile p n page v)) s = .next u ∧ u.group? p n = some (r.setPoison page v) := by
  have hset : (s.updGroup p n fun r => r.setPoison page v).group? p n = some (r.setPoison page v) := by
    rw [State.group?_updGroup_self, State.group?_of_prt hp, hr, Option.map_some]
  have hstays : (r.setPoison page v).pinned = true := hpin
  refine ⟨_, rfl, ?_⟩
  dsimp only
  rw [State.poisonTile, State.dropPoisoned, hset, Option.any_some, hstays, Bool.not_true, Bool.and_false, if_neg Bool.false_ne_true]
  exact hset

theorem exec_memoryPatrol_bucket {b : Nat} {c : Chain} (hc : t.index.find b = some c) :
    ∃ u t', exec (.memoryPatrol (.bucket p b)) s = .next u ∧ u.prt p = some t' ∧ t'.index.find b = some { c with bad := true } :=
  ⟨_, _, rfl, State.prt_updP_of_prt hp _, by rw [Tab.find_upd_self, hc, Option.map_some]⟩

theorem exec_memoryPatrol_records_readable : ∃ u t', exec (.memoryPatrol (.records p true)) s = .next u ∧ u.prt p = some t'
    ∧ t'.models = (s.journal p.val).models ∧ t'.sessions = t.sessions ∧ t'.groups = t.groups :=
  ⟨_, _, rfl, State.prt_updP_of_prt hp _, rfl, rfl, rfl⟩

theorem exec_memoryPatrol_records_lost : ∃ u t', exec (.memoryPatrol (.records p false)) s = .next u ∧ u.prt p = some t'
    ∧ t'.models = t.models ∧ t'.tenants = t.tenants := by
  obtain ⟨v, hv, heq⟩ := State.prt_event hp evAuthoritativeLost 0 0 0
  exact ⟨_, v, rfl, hv, by rw [heq], by rw [heq]⟩
end

/-! ### Clusters -/

theorem State.clu_of_clusters {s u : State} (h : u.clusters = s.clusters) (c : Nat) : u.clu c = s.clu c := by rw [State.clu, h, State.clu]
@[simp] theorem State.clu_updClu_self (s : State) (c : Nat) (f : Cluster → Cluster) : (s.updClu c f).clu c = f (s.clu c) := by
  simp [State.clu, State.updClu, Tab.getD_put_self]

@[simp] theorem State.cluEvent_clusters (s : State) (code c : Nat) : (s.cluEvent code c).clusters = s.clusters := by
  unfold State.cluEvent
  dsimp only
  split <;> rfl
@[simp] theorem State.sweepPass_clusters (s : State) (c : Nat) : (s.sweepPass c).clusters = s.clusters := by
  unfold State.sweepPass
  dsimp only
  split <;> rfl
@[simp] theorem State.sweepPass_resweep (s : State) (c : Nat) : (s.sweepPass c).resweep = s.resweep := by
  unfold State.sweepPass
  dsimp only
  split <;> rfl
theorem State.mem_sweepPass_swept {s : State} {c e : Nat} : e ∈ (s.sweepPass c).swept ↔ e ∈ s.swept ∨ e = c := by
  have h : (s.sweepPass c).swept = (s.swept ++ [c]).eraseDups := by
    unfold State.sweepPass
    dsimp only
    split <;> rfl
  simp [h]

/-- Squashing the steps of a cluster, and stopping its revivals, leaves every cluster's record. -/
@[simp] theorem State.squashOn_clusters (s : State) (c : Nat) (st : Status) : (s.squashOn c st).clusters = s.clusters :=
  State.forEach_clusters fun s kv => State.forEach_clusters fun s k => by
    split_ifs
    · split
      · exact State.stopRevival_clusters ..
      · rfl
    · exact State.squash_clusters ..

/-- A cluster that is put out of service (R305). -/
def Cluster.quarantined (r : Cluster) : Cluster :=
  { r with st := if r.quarantines + 1 ≥ 3 then .retired else .quarantined, quarantines := r.quarantines + 1, passes := 0, replays := 0 }
theorem Cluster.quarantined_st_ne (r : Cluster) : r.quarantined.st ≠ .inService := by
  unfold Cluster.quarantined
  dsimp only
  split <;> simp

theorem State.clu_quarantine {s : State} {c : Nat} (h : (s.clu c).st = .inService) : (s.quarantine c).clu c = (s.clu c).quarantined := by
  have hc : (s.quarantine c).clusters = (s.updClu c Cluster.quarantined).clusters := by
    unfold State.quarantine
    rw [if_neg (not_not.2 h)]
    dsimp only
    rw [State.jlog_clusters, apply_ite State.clusters, State.cluEvent_clusters, ite_self, State.cluEvent_clusters,
      State.squashOn_clusters, State.forEach_clusters fun _ _ => State.progRecord_clusters ..]
    dsimp only
    split <;> rfl
  rw [State.clu_of_clusters hc, State.clu_updClu_self]

/-! ### Ergot sweeps (R301, R302) -/

section
variable {s : State} {c : Clu} {a b : Nat} {d : Digest} {arb : Option Digest} (hre : s.resweep.contains c.val = false)
  (hpair : (s.ergotPairs (c.val / 16)).find? (fun e => e.1 == c.val || e.2 == c.val) = some (a, b))
include hre hpair

theorem exec_ergotResult_agree : ∃ u, exec (.ergotResult c d d arb false false) s = .next u ∧ u.clusters = s.clusters
    ∧ u.resweep = s.resweep ∧ a ∈ u.swept ∧ b ∈ u.swept := by
  rw [exec_ergotResult, execErgotResult, hre, hpair]
  refine ⟨_, rfl, ?_⟩
  by_cases ha : a = c.val
  · simp [State.mem_sweepPass_swept, ha]
  · simp [State.mem_sweepPass_swept, ha]

theorem exec_ergotResult_differ {d' : Digest} (hd : d ≠ d') (harb : arb = some d)
    (hst : (s.clu (if a = c.val then b else a)).st = .inService) : ∃ u, exec (.ergotResult c d d' arb false false) s = .next u
      ∧ u.clu (if a = c.val then b else a) = (s.clu (if a = c.val then b else a)).quarantined := by
  rw [exec_ergotResult, execErgotResult, hre, hpair]
  simp only [harb, hd]
  exact ⟨_, rfl, (State.clu_of_clusters (State.sweepPass_clusters ..) _).trans (State.clu_quarantine hst)⟩
end

/-! ### Sweeps of a quarantined cluster (Table 13-5) -/

/-- The cluster after one more sweep that it has passed. -/
theorem State.clu_swept (s : State) (c : Nat) : ((s.updClu c fun r => { r with passes := r.passes + 1 }).sweepPass c).clu c
    = { s.clu c with passes := (s.clu c).passes + 1 } := by
  rw [State.clu_of_clusters (State.sweepPass_clusters ..), State.clu_updClu_self]

section
variable {s : State} {c : Clu} (hst : (s.clu c.val).st = .quarantined)
include hst

theorem exec_quarantineSweep_fails : ∃ u, exec (.quarantineSweep c false) s = .next u
    ∧ u.clu c.val = { s.clu c.val with passes := 0 } := by
  rw [exec_quarantineSweep, execQuarantineSweep, if_neg (not_not.2 hst), Bool.not_false, if_pos rfl]
  exact ⟨_, rfl, State.clu_updClu_self ..⟩

theorem exec_quarantineSweep_counts (hn : (s.clu c.val).passes < 3) : ∃ u, exec (.quarantineSweep c true) s = .next u
    ∧ u.clu c.val = { s.clu c.val with passes := (s.clu c.val).passes + 1 } := by
  rw [exec_quarantineSweep, execQuarantineSweep, if_neg (not_not.2 hst), Bool.not_true, if_neg Bool.false_ne_true]
  refine ⟨_, rfl, ?_⟩
  dsimp only
  rw [if_neg (by rw [State.clu_swept]; dsimp only; omega), State.clu_swept]

theorem exec_quarantineSweep_returns (hn : (s.clu c.val).passes = 3) : ∃ u, exec (.quarantineSweep c true) s = .next u
    ∧ (u.clu c.val).st = .inService := by
  rw [exec_quarantineSweep, execQuarantineSweep, if_neg (not_not.2 hst), Bool.not_true, if_neg Bool.false_ne_true]
  refine ⟨_, rfl, ?_⟩
  dsimp only
  rw [if_pos (by rw [State.clu_swept]; dsimp only; omega),
    State.clu_of_clusters ((State.jlog_clusters ..).trans (State.cluEvent_clusters ..)), State.clu_updClu_self]
end

/-! ### The obligation -/

/-- Settles O36: each command's own lemma says what it finds and changes. -/
theorem patrolAndScrubResults : Obligations.PatrolAndScrubResults := by
  unfold Obligations.PatrolAndScrubResults
  intro s p t hp
  refine ⟨?rebuild, ?scrub, ?unshadowed, rfl, rfl, ?tile, fun b c => exec_memoryPatrol_bucket hp, exec_memoryPatrol_records_readable hp,
    exec_memoryPatrol_records_lost hp, ?round, ?result, ?sweep⟩
  case rebuild =>
    intro b c hc hbad
    obtain ⟨u, v, he, hu, hnodes, hcount, c', hc', hgood⟩ := exec_indexRebuild_rebuilds hp hc hbad
    refine ⟨u, _, c', he, hu, hc', hgood, hnodes, ?_⟩
    rw [Partition.count_one, Tab.getD_put_self, hcount]
  case scrub =>
    intro q n w sh row hq hn hw hsh hcrc
    exact ⟨exec_camScrub_agrees hq hn hw hsh hcrc, exec_camScrub_fixes hq hn hw hsh hcrc⟩
  case unshadowed => exact fun q n w hq hn hw hwf hsh => exec_camScrub_unshadowed hq hn hw hwf hsh
  case tile =>
    intro n r page v hr hpin
    obtain ⟨u, he, hu⟩ := exec_memoryPatrol_tile hp hr hpin page v
    exact ⟨u, _, he, hu, r.poisonedTile_setPoison page v, rfl, rfl⟩
  case round => exact ⟨_, rfl, rfl, fun c r hr => by rw [Tab.find_mapV, hr, Option.map_some], rfl, rfl⟩
  case result =>
    intro c a b d arb hre hpair _
    refine ⟨exec_ergotResult_agree hre hpair, fun d' hd harb hst => ?_⟩
    obtain ⟨u, he, hu⟩ := exec_ergotResult_differ hre hpair hd harb hst
    exact ⟨u, he, by rw [hu]; rfl, by rw [hu]; exact Cluster.quarantined_st_ne _⟩
  case sweep =>
    intro c hst
    refine ⟨?_, fun hn => ?_, exec_quarantineSweep_returns hst⟩
    · obtain ⟨u, he, hu⟩ := exec_quarantineSweep_fails hst
      exact ⟨u, he, by rw [hu], by rw [hu, hst]⟩
    · obtain ⟨u, he, hu⟩ := exec_quarantineSweep_counts hst hn
      exact ⟨u, he, by rw [hu], by rw [hu, hst]⟩

end Sys2Proof.Machine
end

section
/-! SUPPORT. The checks that every attention message meets (06 R122; 13 R307), what a refused message leaves, and two states in which
a message of a row and a ROUTE do not do what their statements say. -/

namespace Sys2Proof.Machine
open Sys2Proof.Cert

/-! ### The checks of a message (06 R120, R122; 13 R307) -/

/-- A refused message leaves one event, and its sender hears the status. -/
theorem State.refuseMsg_eq_event (s : State) (p : Part) (qp : Nat) (st : Status) :
    ∃ o a, s.refuseMsg p qp st = (s.event p st.code.toNat st.code.toNat o a).answer st := by
  unfold State.refuseMsg State.statusEvent
  split
  · exact ⟨_, _, rfl⟩
  · exact ⟨_, _, rfl⟩

section
variable {s : State} {p : Part} {t : Partition} {mt : Nat} {msg : Msg} {f : Partition → ModelDesc → State}

theorem State.attention_refused (hp : s.prt p = some t)
    (hbad : t.model? msg.modelId = none ∨ msg.mtype.toNat ≠ mt ∨ msg.bytes ≠ msg.body.length) (qp : Nat) :
    s.attention p qp mt msg f = s.refuseMsg p qp .accessViolation := by
  unfold State.attention
  rw [hp, Option.bind_some]
  cases hm : t.model? msg.modelId with
  | none => rfl
  | some m =>
    have hcheck : msg.mtype.toNat ≠ mt ∨ msg.bytes ≠ msg.body.length := hbad.resolve_left (by simp [hm])
    rcases hcheck with hty | hlen
    · simp [hty]
    · simp [hlen]

theorem State.attention_good {m : ModelDesc} (h : GoodMsg s p mt msg t m) (qp : Nat) : s.attention p qp mt msg f = f t m := by
  obtain ⟨hp, hm, -, hty, hlen, hx, ho, hdigest⟩ := h
  simp [State.attention, hp, hm, hty, hlen, Nat.not_lt.2 hx, Nat.not_lt.2 ho, hdigest]

theorem State.fromAccelerator_good {m : ModelDesc} (h : GoodMsg s p mt msg t m) {qp : Nat} (hq : m.memberOf qp = none) :
    s.fromAccelerator p qp mt msg f = f t m := by
  rw [State.fromAccelerator, State.attention_good h]
  simp [hq]
end

/-- Settles O38: each of the thirteen is `State.attention` with its own body, and the checks come before the body. -/
theorem messagesAreChecked : Obligations.MessagesAreChecked := by
  unfold Obligations.MessagesAreChecked
  intro s p qp msg t mt c hp hmem hbad
  have hexec : ∃ f, exec c s = .next (s.attention p qp mt msg f) := by
    simp only [List.mem_cons, Prod.mk.injEq, List.not_mem_nil, or_false] at hmem
    rcases hmem with h | h | h | h | h | h | h | h | h | h | h | h | h <;> obtain ⟨rfl, rfl⟩ := h <;> exact ⟨_, rfl⟩
  obtain ⟨f, hf⟩ := hexec
  obtain ⟨o, a, hrefuse⟩ := s.refuseMsg_eq_event p qp .accessViolation
  obtain ⟨v, hv, hkeep⟩ := State.prt_event hp Status.accessViolation.code.toNat Status.accessViolation.code.toNat o a
  refine ⟨_, v, hf, ?_⟩
  rw [State.attention_refused hp hbad, hrefuse]
  exact ⟨answers_answer .., hv, hkeep, fun q hq => State.prt_updP_ne s _ hq⟩

/-! ### A layer that has arrived (06 R125, R136) -/

theorem State.layerTurn_repeated {w : Wave} {layer : Nat} (h : layer ∈ w.arrived) (s : State) (p : Part) (qp : Nat) (m : ModelDesc)
    (f : Unit → State) : s.layerTurn p qp m w layer f = (s.count p cDupMsgs).answer .ok := by
  simp [State.layerTurn, h]

/-- A layer that has arrived leaves the rows and waves as they are. -/
theorem exec_prefillRow_repeated {s : State} {p : Part} {qp : Nat} {msg : Msg} {t : Partition} {m : ModelDesc} {w : Wave}
    (h : GoodMsg s p mtPrefillRow msg t m) (hq : m.memberOf qp = none) (hw : t.batchOf m.modelId msg.batch = some w) (hrow : w.row = true)
    (hlen : msg.body.length = 2 * m.headDim * w.tokens.length * m.kvHeads * (m.qPerKv + 2)) (hlayer : msg.layer ∈ w.arrived) :
    ∃ u, exec (.prefillRow p qp msg) s = .next u ∧ (u.prt p).map (·.waves) = some t.waves := by
  have hexec : exec (.prefillRow p qp msg) s = .next ((s.count p cDupMsgs).answer .ok) := by
    change Host.Outcome.next (s.prefillMsg p qp msg) = _
    rw [State.prefillMsg, State.fromAccelerator_good h hq]
    simp [hw, hrow, hlen, State.layerTurn_repeated hlayer]
  obtain ⟨hp, -⟩ := h
  refine ⟨_, hexec, ?_⟩
  change ((s.count p cDupMsgs).prt p).map (·.waves) = _
  rw [State.prt_count_of_prt hp, Option.map_some, Partition.count_waves]

/-! ### A row that counts layer 1 as arrived before layer 0 -/

/-- A model of two layers in slot 3, on this device alone. -/
def twoLayers : ModelDesc :=
  { modelId := 0x103, layers := 2, kvHeads := 1, qPerKv := 1, headDim := 64, kvFmt := 1, mx := false, pfMath := 0, pageCode := 0
    hgSize := 1, hgRank := 0, headBase := 0, kvTotal := 1, scale := 0, vocab := 16, hgTimeout := 0, hgQp := [] }
/-- A partition that holds that model and nothing else. -/
def oneModel : Partition :=
  { Partition.fresh { num := 0, grade := 0, clusters := 1, shareT0 := 0, shareT1b := 0, shareT1h := 0, shareT2 := 0, warmTier := 0
                      sessionQuota := 0, compat := false, vppb := 0, binding := ⟨1, 0, 0, [], [], [], 0⟩ } 0 ⟨[], []⟩ with
    models := [(3, ⟨1, some twoLayers⟩)] }
/-- The vectors of layer 1 for a row without tokens. -/
def layerOne : Msg :=
  { mtype := BitVec.ofNat 8 mtPrefillRow, digest := false, ofmt := 0, xfmt := 0, modelId := 0x103, batch := 0, layer := 1, count := 0
    bytes := 0, body := [], sum := 0 }
/-- A row without tokens whose one layer that has arrived is layer 1. -/
def skippingRow : Wave := { Wave.follower twoLayers layerOne true 0 [] [] with arrived := [1] }
def skippingPart : Partition := { oneModel with waves := [skippingRow] }
def skippingDevice : State := { State.reset with parts := [(0, skippingPart)] }

/-- Refutes O37: the statement takes a layer for the next one by `w.arrived.length` alone. The row of this state has taken layer 1 and
not layer 0, so that layer 1 is both its next layer and one that it has: the message is only counted, and leaves no row with a second
layer. The clauses for vectors lack `msg.layer ∉ w.arrived`. -/
theorem not_waveMessageResults : ¬ Obligations.WaveMessageResults := by
  unfold Obligations.WaveMessageResults
  intro h
  obtain ⟨-, -, -, hprefill, -, -⟩ := h skippingDevice 0 0 layerOne skippingPart twoLayers skippingRow
  have hgood : GoodMsg skippingDevice 0 mtPrefillRow layerOne skippingPart twoLayers := by decide +kernel
  have hw : skippingPart.batchOf twoLayers.modelId layerOne.batch = some skippingRow := by decide +kernel
  obtain ⟨u, t, v, b, hu, -, ht, hv, hnext, -⟩ := hprefill hgood (by decide) hw rfl rfl rfl (by decide)
  obtain ⟨u', hu', hwaves⟩ := exec_prefillRow_repeated hgood (qp := 0) (by decide) hw rfl rfl (by decide)
  obtain rfl : u = u' := Host.Outcome.next.inj (hu.symm.trans hu')
  rw [ht, Option.map_some, Option.some.injEq] at hwaves
  have hsame : v = skippingRow := by simpa [hwaves, skippingPart] using hv
  have harrived : [1, 1] = [1] := congrArg Wave.arrived (hnext.symm.trans hsame)
  simp at harrived

/-! ### A ROUTE whose source lies in a record that is no partition's -/

/-- A region of 4 KiB that nothing names. -/
def plainRegion : Region :=
  { h := mkHandle kRegion 0 1 0, size := 4096, cls := 0, use := 0, resend := false, home := 2, domain := 0, dpa := 0, st := .valid
    version := 0, digest := 0, name := 0, published := false, rkey := 0, registered := false, chunks := [], pins := [], spots := []
    poison := [], discarded := [], binding := none, newer := [], data := [], image := [], synced := false, warned := false, touched := [] }
/-- A published region whose first byte is 1. -/
def publishedRegion : Region := { plainRegion with published := true, data := [(0, 1)] }
/-- A binding that follows what is published under that name. -/
def followingRegion : Region := { plainRegion with binding := some ⟨0, 0, 0, 0, true⟩ }
/-- The destination, with key 1. -/
def keyedRegion : Region := { plainRegion with registered := true, rkey := 1 }
/-- A variant's entry: one byte of region 0. -/
def oneByteEntry : List Byte := toLe (mkHandle kRegion 0 1 0).toNat 8 ++ toLe 0 16 ++ toLe 1 4
/-- A ROUTE record of variant 0, layer 0 and expert 0 to the region of key 1. -/
def routeRecord : List Byte := toLe 0 8 ++ toLe 1 4 ++ toLe 0 20
def routeToKeyed : Msg := { layerOne with mtype := BitVec.ofNat 8 mtRoute, count := 1, bytes := 32, body := routeRecord }
def routingPart : Partition := { oneModel with regions := [(0, followingRegion), (1, keyedRegion)], variants := [(0, oneByteEntry)] }
/-- The publication stands under partition number 16. -/
def wrappingDevice : State :=
  { State.reset with parts := [(0, routingPart), (16, { oneModel with regions := [(0, publishedRegion)] })] }

/-- The delivery reads region 0 of partition 0, which is empty. -/
theorem region_routed_on_wrappingDevice : (wrappingDevice.routeMsg 0 0 routeToKeyed).region? 0 1 = some keyedRegion := by decide +kernel

/-- Refutes O39: a binding that follows resolves to a publication together with its owner's number, and nothing keeps the keys of
`State.parts` below 16. The publication of this state stands under number 16, which is taken for partition 0: the delivery takes the
bytes of partition 0's region of that index, not the publication's. The clause lacks `s.region? src i = some rg`. -/
theorem not_headGroupResults : ¬ Obligations.HeadGroupResults := by
  unfold Obligations.HeadGroupResults
  intro h
  obtain ⟨-, -, -, -, -, -, hroute⟩ := h wrappingDevice 0 0 routeToKeyed routingPart twoLayers skippingRow (Lane.follower none 0 0 0 0 0 0 0)
  obtain ⟨u, hu, -, hwritten⟩ := hroute routeRecord oneByteEntry 0 0 publishedRegion 1 keyedRegion (by decide +kernel) (by decide)
    (by decide +kernel) (by decide +kernel) (by decide +kernel) (by decide +kernel) (by decide +kernel) (by decide +kernel)
    (by decide +kernel) (by decide +kernel) (by decide +kernel) (by decide +kernel) (by decide +kernel) rfl (by decide +kernel)
    (by decide +kernel) (by decide) (by decide +kernel)
  obtain rfl : u = wrappingDevice.routeMsg 0 0 routeToKeyed := (Host.Outcome.next.inj hu).symm
  rw [region_routed_on_wrappingDevice] at hwritten
  exact absurd hwritten (by decide +kernel)

end Sys2Proof.Machine
end

section
/-! SUPPORT. The scheduler (08 R163 to R168; 03 R55, R56, Table 3-7): what the issue of a wave and of a row share, what each leaves where
no head group takes part and every cluster has a free frame, and the start or the refusal of a step that alone is due. -/

namespace Sys2Proof.Machine
open Sys2Proof.Cert

/-! ### The arms of the scheduler -/

theorem exec_stepStart (p : Part) (s : State) : exec (.stepStart p) s = execStepStart p s := rfl
theorem exec_waveIssue (p : Part) (m : BitVec 16) (s : State) : exec (.waveIssue p m) s = .next (s.formWave p m 256) := rfl
theorem exec_waveWaitExpiry (p : Part) (m : BitVec 16) (s : State) : exec (.waveWaitExpiry p m) s = .next (s.formWave p m 1) := rfl
theorem exec_rowIssue {s : State} {p : Part} {t : Partition} (hp : s.prt p = some t) (m : BitVec 16) :
    exec (.rowIssue p m) s = .next (s.formRow p m t.rowTokens) := by
  change Host.Outcome.next (s.formRow p m (s.getP p 0 fun t => t.rowTokens)) = _
  rw [State.getP, hp]
theorem exec_rowWaitExpiry (p : Part) (m : BitVec 16) (s : State) : exec (.rowWaitExpiry p m) s = .next (s.formRow p m 1) := rfl

/-! ### What waves and rows share -/

/-- Frames stay free where a partition's steps stay as they are. -/
theorem framesFree_updP {s : State} {p : Part} {f : Partition → Partition} (h : FramesFree s) (hf : ∀ t, (f t).steps = t.steps) :
    FramesFree (s.updP p f) := fun c hc => by
  rw [State.frameOn_updP hf]
  exact h c hc

/-- The scheduler has made `n` steps due, and has left what a batch is known by. -/
def Partition.MadeDue (t u : Partition) (n : Nat) : Prop :=
  u.due.length = t.due.length + n ∧ u.waves = t.waves ∧ u.nextBatch = t.nextBatch ∧ u.outbox = t.outbox ∧ u.steps = t.steps

theorem Partition.madeDue_makeDue (t : Partition) (rank kind q : Nat) (cid : BitVec 16) (b lane sess : Nat) :
    t.MadeDue ((t.makeDue rank kind q cid b lane).runs sess) 1 :=
  ⟨by simp [Partition.makeDue, Partition.runs], rfl, rfl, rfl, rfl⟩
theorem Partition.MadeDue.count {t u : Partition} {n : Nat} (h : t.MadeDue u n) (c k : Nat) : t.MadeDue (u.count c k) n := by
  unfold Partition.count
  split
  · exact h
  · exact h
theorem Partition.MadeDue.steps_eq {t u : Partition} {n : Nat} (h : t.MadeDue u n) : u.steps = t.steps := by
  obtain ⟨-, -, -, -, hsteps⟩ := h
  exact hsteps
/-- A step for each lane of a batch. -/
theorem Partition.madeDue_foldl_range {n : Nat} {f : Partition → Nat → Partition} (h : ∀ i < n, ∀ t : Partition, t.MadeDue (f t i) 1)
    (t : Partition) : t.MadeDue ((List.range n).foldl f t) n := by
  induction n with
  | zero => exact ⟨rfl, rfl, rfl, rfl, rfl⟩
  | succ n ih =>
    obtain ⟨hdue, hwaves, hbatch, hout, hsteps⟩ := ih fun i hi => h i (Nat.lt_succ_of_lt hi)
    obtain ⟨hdue', hwaves', hbatch', hout', hsteps'⟩ := h n (Nat.lt_succ_self n) ((List.range n).foldl f t)
    rw [List.range_succ, List.foldl_append]
    exact ⟨by rw [List.foldl_cons, List.foldl_nil, hdue', hdue, Nat.add_assoc], hwaves'.trans hwaves, hbatch'.trans hbatch,
      hout'.trans hout, hsteps'.trans hsteps⟩

/-- A partition with one more wave or row of a model, which has taken the model's batch number. -/
def Partition.withBatch (t : Partition) (m : BitVec 16) (w : Wave) : Partition :=
  { t with waves := t.waves ++ [w] }.nextBatchOf m
/-- A wave or row `w` of a model has gone out, with one message for the accelerator and a due step for each of its `n` lanes. -/
def Partition.Issued (t u : Partition) (m : BitVec 16) (w : Wave) (n : Nat) : Prop :=
  u.waves = t.waves ++ [w] ∧ u.batchNo m = (t.batchNo m + 1) % 2 ^ 32 ∧ u.outbox.length = t.outbox.length + 1
    ∧ u.due.length = t.due.length + n

/-- A model that no head group shares: a batch opens with its message to the accelerator alone. -/
theorem State.openBatch_alone {s : State} {p : Part} {t : Partition} {m : ModelDesc} {f : Partition → Partition} {w : Wave} {n : Nat}
    (hp : s.prt p = some t) (hfree : FramesFree s) (hrank : m.hgRank = 0) (hsize : m.hgSize = 1)
    (hf : ∀ t : Partition, (t.withBatch m.modelId w).MadeDue (f t) n) (msg : Msg) (b : Nat) :
    ∃ u, (((((s.updP p f).pullDue p).sendMsg p none none msg).toFollowers p m msg).replicaRound p m b).prt p = some u
      ∧ t.Issued u m.modelId w n := by
  have hpull : (s.updP p f).pullDue p = s.updP p f := State.pullDue_framesFree (framesFree_updP hfree fun t => (hf t).steps_eq) p
  have hnone : (List.range m.hgSize).filter (· ≠ m.hgRank) = [] := by simp [hrank, hsize, List.range_succ]
  have hsent : (((((s.updP p f).pullDue p).sendMsg p none none msg).toFollowers p m msg).replicaRound p m b)
      = (s.updP p f).sendMsg p none none msg := by
    rw [hpull, State.toFollowers, hnone, State.forEach_nil, State.replicaRound, if_pos (by simp [hsize])]
  obtain ⟨hdue, hwaves, hbatch, hout, -⟩ := hf t
  rw [hsent]
  refine ⟨_, State.prt_updP_of_prt (State.prt_updP_of_prt hp f) _, hwaves, ?_, ?_, hdue⟩
  · refine (congrArg (fun b : Tab Nat => b.getD (m.modelId.toNat % 256) 0) hbatch).trans (Tab.getD_put_self ..)
  · exact (List.length_append ..).trans (congrArg (·.length + 1) hout)

/-! ### Waves (R165 to R167, 06 R123) -/

section
variable {s : State} {p : Part} {t : Partition} {m : ModelDesc}

/-- The lane that a sequence takes in a wave. -/
def Partition.waveLane (t : Partition) (c : Cand8) : Lane :=
  { seq := some c.slot, q := c.live.q, cid := c.live.ent.cid, hgSeq := c.sq.hgSeq, pos := c.sq.committed
    token := t.token c.sq c.sq.committed, maxDraft := t.maxDraft c, ntok := 0, flags := 0, step := none
    squashed := none, ended := false }
/-- The wave of some sequences. -/
def Partition.newWave (t : Partition) (m : ModelDesc) (cs : List Cand8) : Wave :=
  { model := m.modelId, batch := t.batchNo m.modelId, row := false, fetch := false, lead := true, digest := t.digests m.modelId
    lanes := cs.map t.waveLane, tokens := [], arrived := [], sent := [], msgs := [], qp := none, ready := [] }

theorem State.issueWave_issues (hp : s.prt p = some t) (hfree : FramesFree s) (hrank : m.hgRank = 0) (hsize : m.hgSize = 1)
    (cs : List Cand8) : ∃ u, (s.issueWave p m cs).prt p = some u ∧ t.Issued u m.modelId (t.newWave m cs) cs.length := by
  unfold State.issueWave
  simp only [hp]
  refine State.openBatch_alone hp hfree hrank hsize
    (fun v => ((Partition.madeDue_foldl_range (fun i hi u => ?_) _).count ..).count ..) _ _
  rw [List.getElem?_eq_getElem hi]
  exact u.madeDue_makeDue ..

theorem State.formWave_eq_issueWave {n : Nat} {id : BitVec 16} (hp : s.prt p = some t) (hst : t.st = .active) (hf : s.fetching = true)
    (hm : t.model? id = some m) (hrank : m.hgRank = 0) (hless : t.inFlight id false < t.maxWaves) (hn : n ≤ (t.waveLanes id).length) :
    s.formWave p id n = s.issueWave p m (t.waveLanes id) := by
  unfold State.formWave
  simp only [hp, Option.bind_some, hm, Option.map_some]
  exact if_neg (by simp [hst, hf, ModelDesc.leads, hrank, hn, hless])

/-! ### Rows (R168, 06 R136) -/

/-- The lane that a segment takes in a row. -/
def Partition.rowLane (t : Partition) (c : Cand8 × Nat) : Lane :=
  let ends := c.2 == t.promptWork c.1.req && !c.1.req.resumed
  { seq := some c.1.slot, q := c.1.live.q, cid := c.1.live.ent.cid, hgSeq := c.1.sq.hgSeq, pos := c.1.sq.committed
    token := 0, maxDraft := 0, ntok := c.2, flags := b2n ends + 2 * b2n c.1.req.gen + 4 * b2n (ends && c.1.req.gen)
    step := none, squashed := none, ended := false }
/-- The tokens of a row's segments, each with its lane. -/
def Partition.segTokens (t : Partition) (cs : List (Cand8 × Nat)) : List (Nat × Nat) :=
  ((List.range cs.length).map fun i => match cs[i]? with
    | some c => (List.range c.2).map fun j => (t.token c.1.sq (c.1.sq.committed + j), i)
    | none => []).flatten
/-- The tokens of a row, filled up with tokens of no lane to a multiple of 64. -/
def Partition.rowTokensOf (t : Partition) (cs : List (Cand8 × Nat)) : List (Nat × Nat) :=
  t.segTokens cs ++ List.replicate (roundUp (t.segTokens cs).length 64 - (t.segTokens cs).length) (0, 0xFFFF)
/-- The row of some segments. -/
def Partition.newRow (t : Partition) (m : ModelDesc) (cs : List (Cand8 × Nat)) : Wave :=
  { model := m.modelId, batch := t.batchNo m.modelId, row := true, fetch := false, lead := true, digest := t.digests m.modelId
    lanes := cs.map t.rowLane, tokens := t.rowTokensOf cs, arrived := [], sent := [], msgs := [], qp := none, ready := [] }

theorem Partition.length_rowTokensOf (t : Partition) (cs : List (Cand8 × Nat)) : (t.rowTokensOf cs).length % 64 = 0 := by
  rw [Partition.rowTokensOf, List.length_append, List.length_replicate, roundUp]
  omega

theorem State.issueRow_issues (hp : s.prt p = some t) (hfree : FramesFree s) (hrank : m.hgRank = 0) (hsize : m.hgSize = 1)
    (cs : List (Cand8 × Nat)) : ∃ u, (s.issueRow p m cs).prt p = some u ∧ t.Issued u m.modelId (t.newRow m cs) cs.length := by
  unfold State.issueRow
  simp only [hp]
  refine State.openBatch_alone hp hfree hrank hsize
    (fun v => ((Partition.madeDue_foldl_range (fun i hi u => ?_) _).count ..).count ..) _ _
  rw [List.getElem?_eq_getElem hi]
  exact u.madeDue_makeDue 4 1 _ _ _ i cs[i].1.req.sess

theorem State.formRow_eq_issueRow {n : Nat} {id : BitVec 16} (hp : s.prt p = some t) (hst : t.st = .active) (hf : s.fetching = true)
    (hm : t.model? id = some m) (hrank : m.hgRank = 0) (hless : t.inFlight id true < t.rowsInflight)
    (hne : packRow t t.rowTokens 256 (t.promptOrder id) 0 ≠ [])
    (hn : n ≤ ((packRow t t.rowTokens 256 (t.promptOrder id) 0).map (·.2)).sum) :
    s.formRow p id n = s.issueRow p m (packRow t t.rowTokens 256 (t.promptOrder id) 0) := by
  unfold State.formRow
  simp only [hp, Option.bind_some, hm, Option.map_some]
  exact if_neg (by simp [hst, hf, ModelDesc.leads, hrank, hn, hless, hne])
end

/-! ### The start of a step that alone is due (03 R55, R56, Table 3-7) -/

section
variable {s : State} {p : Part} {t : Partition} {d : Due} (hp : s.prt p = some t) (hst : t.st = .active) (hf : s.fetching = true)
  (hdue : t.due = [d]) (hkind : d.kind ≠ 4) (hopen : t.dueBlocked d = false)

include hp hdue in
theorem State.pullDue_placed (hplace : ∀ g, s.placeOf t p d ≠ .full g) : s.pullDue p = s := by
  unfold State.pullDue
  simp only [hp]
  rw [List.filter_eq_nil_iff.2, State.forEach_nil]
  intro e he
  obtain rfl : e = d := by simpa [hdue] using he
  split
  · next g hg => exact absurd hg (hplace g)
  · simp

include hdue hkind hopen in
theorem State.placedDues_single (s : State) (p : Part) : s.placedDues p t = [(d, s.placeOf t p d)] := by
  simp [State.placedDues, Partition.dueOrder, hdue, sortBy, insertBy, hkind, hopen]

include hdue in
theorem State.revivalFirst_single (s : State) (p : Part) (c : Nat) : s.revivalFirst p t d c = false := by
  simp [State.revivalFirst, hdue]

include hp hst hf hdue hkind hopen

theorem exec_stepStart_starts {g c : Nat} (hplace : s.placeOf t p d = .at g c) :
    exec (.stepStart p) s = .next (s.openStepAt p t d g c) := by
  have hfirst := State.revivalFirst_single hdue s p c
  have hds := State.placedDues_single hdue hkind hopen s p
  rw [hplace] at hds
  rw [exec_stepStart, execStepStart, if_neg (by simp [hp, hst, hf]), State.pullDue_placed hp hdue (by simp [hplace])]
  simp only [hp, hds, List.find?_cons, hfirst, Bool.not_false]
  cases h1 : d.kind == 1 with
  | true => simp [beq_iff_eq.1 h1]
  | false => simp

theorem exec_stepStart_refuses {st : Status} (hplace : s.placeOf t p d = .refuse st) :
    exec (.stepStart p) s = .next (s.refuseDue p t d st) := by
  have hds := State.placedDues_single hdue hkind hopen s p
  rw [hplace] at hds
  rw [exec_stepStart, execStepStart, if_neg (by simp [hp, hst, hf]), State.pullDue_placed hp hdue (by simp [hplace])]
  simp only [hp, hds, List.find?_cons]
end

/-- A step that opens takes the next step number and leaves the list of due steps. -/
theorem State.openStepAt_opens {s : State} {p : Part} {t : Partition} {d : Due} (hp : s.prt p = some t) (hdue : t.due = [d]) (g c : Nat) :
    ∃ k u, (s.openStepAt p t d g c).prt p = some u ∧ u.steps.find s.stepNo = some k ∧ u.due = [] ∧ k.num = s.stepNo ∧ k.st = .running
      ∧ k.kind = d.kind ∧ k.prog = g ∧ k.clu = c ∧ k.q = d.q ∧ k.cid = d.cid ∧ k.log = [] := by
  unfold State.openStepAt
  dsimp only
  refine ⟨_, _, State.prt_updP_of_prt hp _, Tab.find_put_self .., ?_, rfl, rfl, rfl, rfl, rfl, rfl, rfl, rfl⟩
  simp [Partition.updLive, hdue]

/-- A change of a configured partition is known by what it makes of that partition. -/
theorem State.updP_congr {s : State} {p : Part} {t : Partition} (hp : s.prt p = some t) {f g : Partition → Partition} (h : f t = g t) :
    s.updP p f = s.updP p g := by
  have htab : ∀ l : Tab Partition, l.find p.val = some t → l.upd p.val f = l.upd p.val g := by
    intro l
    induction l with
    | nil => exact fun _ => rfl
    | cons e l ih =>
      obtain ⟨i, v⟩ := e
      unfold Tab.upd Tab.find
      split
      · intro hv
        rw [Option.some.inj hv, h]
      · exact fun hv => by rw [ih hv]
  rw [State.updP, htab _ hp, State.updP]

/-- A due step of a command that has no wave and no request: its command completes with the status. -/
theorem State.refuseDue_command {s : State} {p : Part} {t : Partition} {d : Due} {l : Live} (hp : s.prt p = some t) (hdue : t.due = [d])
    (hl : t.liveOf d.q d.cid = some l) (hreq : l.req = none) (hwave : t.dueWave d = none) (st : Status) :
    s.refuseDue p t d st = ((s.updP p fun t => { t with due := [] }).finish p d.q d.cid st).boundaries p := by
  have hgone : (s.updP p fun t => { t with due := t.due.filter fun e => e.order ≠ d.order }) = s.updP p fun t => { t with due := [] } :=
    State.updP_congr hp (by simp [hdue])
  unfold State.refuseDue
  simp only [hgone, hwave, hl, hreq]
  rfl

/-! ### The obligation -/

/-- Settles O31: a wave and a row by what every batch leaves, the start of a step by the command's own lemmas. -/
theorem schedulerResults : Obligations.SchedulerResults := by
  unfold Obligations.SchedulerResults
  intro s p t id m hp hst hf
  refine ⟨?wave, ?row, ?start, ?refused⟩
  case wave =>
    intro hfree hm hrank hsize hless e he
    obtain ⟨u, hu, hwaves, hbatch, hout, hdue⟩ := State.issueWave_issues hp hfree hrank hsize (t.waveLanes id)
    have hexec : exec e s = .next (s.issueWave p m (t.waveLanes id)) := by
      rcases he with ⟨rfl, hn⟩ | ⟨rfl, hn⟩
      · rw [exec_waveIssue, State.formWave_eq_issueWave hp hst hf hm hrank hless hn]
      · rw [exec_waveWaitExpiry, State.formWave_eq_issueWave hp hst hf hm hrank hless hn]
    exact ⟨_, u, _, hexec, hu, hwaves, rfl, rfl, rfl, rfl, List.map_map, List.map_map, hbatch, hout, hdue⟩
  case row =>
    intro hfree hm hrank hsize hless cs hne e he
    obtain ⟨u, hu, hwaves, -, hout, hdue⟩ := State.issueRow_issues hp hfree hrank hsize cs
    have hexec : exec e s = .next (s.issueRow p m cs) := by
      rcases he with ⟨rfl, hn⟩ | ⟨rfl, hn⟩
      · rw [exec_rowIssue hp, State.formRow_eq_issueRow hp hst hf hm hrank hless hne hn]
      · rw [exec_rowWaitExpiry, State.formRow_eq_issueRow hp hst hf hm hrank hless hne hn]
    exact ⟨_, u, _, hexec, hu, hwaves, rfl, rfl, rfl, List.map_map, List.map_map, t.length_rowTokensOf cs, hout, hdue⟩
  case start =>
    intro d g c hdue hkind hopen hplace
    obtain ⟨k, u, hu, hk, hnone, hnum, hrun, hkd, hprog, hclu, hq, hcid, hlog⟩ := State.openStepAt_opens hp hdue g c
    exact ⟨_, k, u, exec_stepStart_starts hp hst hf hdue hkind hopen hplace, rfl, by rw [State.step?, hu, Option.bind_some, hk], hnum, hrun,
      hkd, hprog, hclu, hq, hcid, hlog, hu, hnone⟩
  case refused =>
    intro d st l hdue hkind hopen hplace hl hreq hwave
    rw [exec_stepStart_refuses hp hst hf hdue (by simp [hkind]) hopen hplace, State.refuseDue_command hp hdue hl hreq hwave]

end Sys2Proof.Machine
end

section
/-! SUPPORT. REQUEST (08 R173 to R176, R189; 01 R12): its admission in order, how a request that is refused or has nothing to do
completes, and what an admitted one does next. -/

namespace Sys2Proof.Machine
open Sys2Proof.Cert

/-! ### The arm of REQUEST -/

theorem exec_request (p : Part) (q : Qn) (cid : BitVec 16) (s : State) : exec (.request p q cid) s = execRequest p q cid s := rfl

theorem exec_request_takes {s : State} {p : Part} {q : Qn} {cid : BitVec 16} {t : Partition} {k : Queue} {l : Live}
    (h : CanStart s p q cid ocRequest t k l) :
    exec (.request p q cid) s = .next ((s.cmdStarted p l).takeRequest p q.val cid t l) := by
  rw [exec_request, execRequest, State.startCmd_eq h]

/-! ### The completion of a request (R52, Table 8-10) -/

/-- What becomes of a partition's other records leaves a completion as it is. -/
theorem completes_updP {u : State} {p : Part} {q : Qn} {k : Queue} {l : Live} {st : Status} {r0 : Word} {f : Partition → Partition}
    (h : Completes u p q k l st r0) (hf : ∀ t, (f t).queues = t.queues ∧ (f t).live = t.live) :
    Completes (u.updP p f) p q k l st r0 := by
  obtain ⟨t, k', c, ht, hk, hposted, hcid, hst, hmore, hsq, hhead, hphase, hr0, hover⟩ := h
  obtain ⟨hqueues, hlive⟩ := hf t
  exact ⟨f t, k', c, State.prt_updP_of_prt ht f, hqueues ▸ hk, hposted, hcid, hst, hmore, hsq, hhead, hphase, hr0, hlive ▸ hover⟩

/-- The last completion of a command that nothing has ended, with or without a request behind it. -/
theorem Partition.post_last {t : Partition} {q : Nat} {cid : BitVec 16} {k : Queue} {l : Live} (hk : t.queues.find q = some k)
    (hl : t.liveOf q cid = some l) (hposted : l.posted1 = false) (habort : l.abortStatus = none) (st : Status) (r0 r1 : Word)
    (step : Nat) : t.post q cid st false r0 r1 step = t.completed q k l (t.lastCompletion q cid l st r0 r1 step) := by
  unfold Partition.liveOf at hl
  simp only [Partition.post, hl, hk, habort, hposted]
  cases l.req with
  | none => rfl
  | some r => rfl

theorem State.finish_last_completes {u : State} {p : Part} {v : Partition} {q : Qn} {cid : BitVec 16} {k : Queue} {l : Live}
    (hu : u.prt p = some v) (hk : v.queues.find q.val = some k) (hl : v.liveOf q.val cid = some l) (hposted : l.posted1 = false)
    (habort : l.abortStatus = none) (st : Status) (r0 r1 : Word) : Completes (u.finish p q.val cid st r0 r1) p q k l st r0 :=
  ⟨_, k.complete true _, _, (State.prt_updP_of_prt hu _).trans (congrArg some (Partition.post_last hk hl hposted habort st r0 r1 0)),
    Partition.find_completed .., rfl, (Partition.of_liveOf hl).2.2.symm, rfl, rfl, rfl, rfl, rfl, rfl, fun _ => Partition.completed_over⟩

@[simp] theorem Partition.count_queues (t : Partition) (n k : Nat) : (t.count n k).queues = t.queues := by
  unfold Partition.count
  split <;> rfl
@[simp] theorem Partition.count_live (t : Partition) (n k : Nat) : (t.count n k).live = t.live := by
  unfold Partition.count
  split <;> rfl

/-- A request that is refused completes at once, whatever else the refusal has counted. -/
theorem State.refuseReq_completes {s u : State} {p : Part} {q : Qn} {cid : BitVec 16} {t v : Partition} {k : Queue} {l : Live} {oc : Nat}
    (h : CanStart s p q cid oc t k l) (hu : u.prt p = some v) (hq : v.queues = t.queues) (hl : v.live = (t.cmdStarted l).live)
    (st : Status) (reason : Nat) : Completes (u.refuseReq p q.val cid st reason) p q k l st (finalWord reason 0 0) := by
  unfold State.refuseReq
  dsimp only
  split
  · exact (State.started_finish_completes h (State.prt_count_of_prt hu ..) (by simp [hq]) (by simp [hl]) st _).1
  · exact (State.started_finish_completes h hu hq hl st _).1

/-- A request that ends before its first token completes with its reason. -/
theorem State.endReq_completes {u : State} {p : Part} {v : Partition} {q : Qn} {cid : BitVec 16} {k : Queue} {l : Live} {r : Req}
    (hu : u.prt p = some v) (hk : v.queues.find q.val = some k) (hl : v.liveOf q.val cid = some l) (hposted : l.posted1 = false)
    (habort : l.abortStatus = none) (hreq : l.req = some r) (hnone : r.emitted = []) {st : Status} (hst : st ≠ .late) (reason : Nat) :
    Completes (u.endReq p q.val cid st reason) p q k l st (finalWord reason 0 0) := by
  unfold State.endReq
  simp only [hu, Option.bind_some, hl, hreq, if_neg hst, hnone]
  exact completes_updP (completes_updP (State.finish_last_completes hu hk hl hposted habort st _ _) fun _ => ⟨rfl, rfl⟩)
    fun _ => ⟨rfl, rfl⟩

/-! ### Admission (R173, R175, R189; 01 R12) -/

/-- The operands of a request and its sampling block are in order (R12, R173, R175). -/
abbrev Entry.InOrder (e : Entry) (ss : Session) (sq : Sequence) (m : ModelDesc) (smp : Region) : Prop :=
  sq.sess = ss.h ∧ e.arg1.toNat < 2 ^ 33 ∧ e.arg2 = 0 ∧ ss.st ≠ .migrating ∧ e.arg0.toNat % 64 = 0 ∧ e.arg0.toNat + 1360 ≤ smp.size
    ∧ spbOk (smp.data.rd e.arg0.toNat 1360) m.vocab = true

/-- A session takes requests in every state but one. -/
theorem SessSt.takes_eq (st : SessSt) : (st == .opened || st == .running || st == .parked || st == .reviving) = decide (st ≠ .migrating) := by
  cases st <;> rfl

/-- The penalty counts with which a request on `n` positions starts, and how many tokens they do not track (R175). -/
def Partition.startCounts (t : Partition) (sq : Sequence) (spb : List Byte) (n : Nat) : Tab Nat × Nat :=
  if bitOf (fld spb 0xB 1) 6 then countTokens [] ((List.range n).map fun i => t.token sq i) else ([], 0)
/-- The request that an entry asks for. -/
def Entry.request (e : Entry) (spb : List Byte) (seed : Word) (hist : Tab Nat × Nat) : Req :=
  { sess := hIndex e.handle0, seq := hIndex e.handle1, spb := spb, seed := seed, rows := 0, counts := hist.1
    emitted := [], released := 0, satRaised := hist.2 != 0, promptLeft := e.arg1.toNat % 2 ^ 32, gen := bitOf e.arg1.toNat 32
    matching := false, inList := false, index := 0, cancelled := none, mute := false, freeSeq := false, resumed := false }
/-- `r` is the request that an entry asks for, as it starts: seeded, and its tokens counted, as its sampling block says (R175). -/
def Entry.Asks (e : Entry) (spb : List Byte) (r : Req) : Prop :=
  ∃ seed hist, r = e.request spb seed hist ∧ (bitOf (fld spb 0xB 1) 7 = true → seed = BitVec.ofNat 64 (fld spb 0x20 8))
    ∧ (bitOf (fld spb 0xB 1) 6 = false → hist.1 = [])
/-- What follows its admission leaves a request with what its entry and its sampling block ask. -/
theorem Entry.Asks.fields {e : Entry} {spb : List Byte} {r r' : Req} (h : e.Asks spb r)
    (hsame : r' = { r with matching := r'.matching, resumed := r'.resumed }) :
    r'.promptLeft = e.arg1.toNat % 2 ^ 32 ∧ r'.seq = hIndex e.handle1 ∧ r'.sess = hIndex e.handle0 ∧ r'.spb = spb ∧ r'.emitted = []
      ∧ r'.gen = e.arg1.getLsbD 32 ∧ r'.cancelled = none
      ∧ (bitOf (fld spb 0xB 1) 7 = true → r'.seed = BitVec.ofNat 64 (fld spb 0x20 8))
      ∧ (bitOf (fld spb 0xB 1) 6 = false → r'.counts = []) := by
  obtain ⟨seed, hist, rfl, hseed, hcounts⟩ := h
  rw [hsame]
  exact ⟨rfl, rfl, rfl, rfl, rfl, bitOf_toNat .., rfl, hseed, hcounts⟩
/-- The seed of a request: its sampling block's, or a fresh one. -/
def State.seedOf (s : State) (spb : List Byte) : Word :=
  if bitOf (fld spb 0xB 1) 7 then BitVec.ofNat 64 (fld spb 0x20 8) else Config.seed s.free
/-- The device with a request behind its command, before it goes on. -/
def State.withReq (s : State) (p : Part) (q : Nat) (cid : BitVec 16) (h : Handle) (r : Req) (spb : List Byte) (untracked : Nat) : State :=
  let s := ((if bitOf (fld spb 0xB 1) 7 then s else s.fresh.2).updLive p q cid fun l => { l with req := some r }).count p cPenaltyUntracked
    untracked
  if untracked ≠ 0 then s.event p evPenaltySaturated 0 h 0 else s

section
variable {s : State} {p : Part} {t v : Partition} {l : Live} {ss : Session} {sq : Sequence} {m : ModelDesc} {smp : Region} {tn : Tenant}

theorem State.takeRequest_refused {ks : List Nat} {h : Handle} {st : Status} (q : Nat) (cid : BitVec 16)
    (hbad : t.firstBad p [([kSession], l.ent.handle0), ([kSequence], l.ent.handle1)] = some (ks, h, st)) :
    s.takeRequest p q cid t l = (s.entryEvent p ks h).refuseReq p q cid st := by
  unfold State.takeRequest
  simp only [hbad]

/-- A request passes its checks in order: its operands and its sampling block, the length limit, the budget, the deadline. -/
theorem State.takeRequest_eq (hv : (s.refillTenant p ss.tenant).prt p = some v) (q : Nat) (cid : BitVec 16)
    (hgood : t.firstBad p [([kSession], l.ent.handle0), ([kSequence], l.ent.handle1)] = none)
    (hss : t.sessions.find (hIndex l.ent.handle0) = some ss) (hsq : t.sequences.find (hIndex l.ent.handle1) = some sq)
    (hm : t.model? ss.model = some m) (hsmp : t.regions.find (hIndex ss.sampler) = some smp) (htn : v.tenants.find ss.tenant = some tn) :
    let n := sq.committed + sq.rc + l.ent.arg1.toNat % 2 ^ 32
    let spb := smp.data.rd l.ent.arg0.toNat 1360
    let u := s.refillTenant p ss.tenant
    let hist := v.startCounts sq spb n
    let w := u.withReq p q cid ss.h (l.ent.request spb (u.seedOf spb) hist) spb hist.2
    s.takeRequest p q cid t l =
      if ¬ l.ent.InOrder ss sq m smp then s.refuseReq p q cid .accessViolation
      else if t.limit sq < n then s.refuseReq p q cid .lengthLimit 4
      else if tn.enabled = false ∨ tn.level ≤ 0 then u.refuseReq p q cid .budgetExhausted 8
      else if missed v.clock l.ent.deadline then u.refuseReq p q cid .late 6
      else if ss.st = .parked ∨ ss.st = .reviving then w.startRevival p (hIndex l.ent.handle0) 0 q cid
      else w.routeReq p q cid := by
  intro n spb u hist w
  unfold State.takeRequest
  simp only [hgood, hss, hsq, hm, hsmp, SessSt.takes_eq, Bool.or_eq_true, decide_eq_true_eq, Bool.not_eq_true', decide_eq_false_iff_not]
  by_cases hops : sq.sess = ss.h ∧ l.ent.arg1.toNat < 2 ^ 33 ∧ l.ent.arg2 = 0 ∧ ss.st ≠ .migrating
  · obtain ⟨hsess, harg1, harg2, hst⟩ := hops
    rw [if_neg (by simp [hsess, harg2, hst]; omega)]
    by_cases hblock : l.ent.arg0.toNat % 64 = 0 ∧ l.ent.arg0.toNat + 1360 ≤ smp.size ∧ spbOk spb m.vocab = true
    · have hfine : l.ent.InOrder ss sq m smp := ⟨hsess, harg1, harg2, hst, hblock⟩
      obtain ⟨halign, hsize, hspb⟩ := hblock
      rw [if_neg (not_not.2 hfine), if_neg (by simp [halign, hsize, hspb, spb])]
      simp only [hv, Option.getD_some, htn]
      exact if_congr Iff.rfl rfl (if_congr (by simp [Option.all]) rfl (if_congr Iff.rfl rfl rfl))
    · have hbad : ¬ l.ent.InOrder ss sq m smp := fun ⟨_, _, _, _, hfine⟩ => hblock hfine
      rw [if_pos hbad, if_pos]
      by_contra hno
      simp only [not_or, Decidable.not_not, Nat.not_lt, Bool.not_eq_false] at hno
      obtain ⟨⟨halign, hsize⟩, hspb⟩ := hno
      exact hblock ⟨halign, hsize, hspb⟩
  · have hbad : ¬ l.ent.InOrder ss sq m smp := fun ⟨hsess, harg1, harg2, hst, _⟩ => hops ⟨hsess, harg1, harg2, hst⟩
    rw [if_pos hbad, if_pos]
    by_contra hno
    simp only [not_or, Decidable.not_not, Nat.not_le] at hno
    obtain ⟨⟨⟨hsess, harg1⟩, harg2⟩, hst⟩ := hno
    exact hops ⟨hsess, harg1, harg2, hst⟩
end

/-! ### The device with an admitted request (R170, R175) -/

/-- A sequence as it was, but for what a refill of its tenant ends and stamps (R170). -/
def Sequence.Refilled (sq sq' : Sequence) : Prop := sq' = { sq with held := sq'.held, readySince := sq'.readySince }

theorem Sequence.Refilled.refl (sq : Sequence) : sq.Refilled sq := rfl

/-- A refill changes a tenant, and of the sequences no more than their holds. -/
theorem Partition.refillTenant_keeps (t : Partition) (n : Nat) :
    t.refillTenant n = { t with tenants := t.tenants.upd n fun r => r.refill t.clock, sequences := (t.refillTenant n).sequences
                                nextOrder := (t.refillTenant n).nextOrder }
      ∧ ∀ i sq, t.sequences.find i = some sq → ∃ sq', (t.refillTenant n).sequences.find i = some sq' ∧ sq.Refilled sq' := by
  unfold Partition.refillTenant
  dsimp only [Partition.stamp]
  split
  · refine ⟨rfl, fun i sq hsq => ?_⟩
    simp only [Tab.find_mapV, hsq, Option.map_some, Option.some.injEq, exists_eq_left']
    split
    · rfl
    · exact .refl sq
  · exact ⟨rfl, fun i sq hsq => ⟨sq, hsq, .refl sq⟩⟩

/-- A partition in which a request stands behind its command, and is known by what it has read (R173, R175). -/
def Partition.Entered (t v : Partition) (q : Nat) (cid : BitVec 16) (l : Live) (r : Req) : Prop :=
  v.liveOf q cid = some { l with started := true, req := some r }
    ∧ (v.queues = t.queues ∧ v.sessions = t.sessions ∧ v.regions = t.regions ∧ v.compat = t.compat)
    ∧ ∀ i sq, t.sequences.find i = some sq → ∃ sq', v.sequences.find i = some sq' ∧ sq.Refilled sq'

section
variable {s : State} {p : Part} {t v : Partition}

/-- The length limit of a sequence depends on the session and its history alone (06 R143). -/
theorem Partition.limit_refilled {sq sq' : Sequence} (hsessions : v.sessions = t.sessions) (hregions : v.regions = t.regions)
    (hcompat : v.compat = t.compat) (h : sq.Refilled sq') : v.limit sq' = t.limit sq := by
  unfold Partition.limit Partition.historyArea
  rw [hsessions, hregions, hcompat, h]

theorem State.prt_withReq (hp : s.prt p = some t) (q : Nat) (cid : BitVec 16) (h : Handle) (r : Req) (spb : List Byte) (n : Nat) :
    ∃ v, (s.withReq p q cid h r spb n).prt p = some v
      ∧ v = { t.updLive q cid fun l => { l with req := some r } with ev := v.ev, counters := v.counters } := by
  have hdraw : (if bitOf (fld spb 0xB 1) 7 then s else s.fresh.2).prt p = some t := by
    split
    · exact hp
    · exact hp
  have hcount := State.prt_count_of_prt (State.prt_updP_of_prt hdraw fun t => t.updLive q cid fun l => { l with req := some r })
    cPenaltyUntracked n
  have hkeep : ∀ t : Partition, t.count cPenaltyUntracked n = { t with counters := (t.count cPenaltyUntracked n).counters } := fun t => by
    unfold Partition.count
    split
    · rfl
    · rfl
  rw [hkeep] at hcount
  unfold State.withReq
  dsimp only
  split
  · obtain ⟨v, hv, heq⟩ := State.prt_event hcount evPenaltySaturated 0 h 0
    exact ⟨v, hv, heq⟩
  · exact ⟨_, hcount, rfl⟩

theorem State.framesFree_withReq (hfree : FramesFree s) (q : Nat) (cid : BitVec 16) (h : Handle) (r : Req) (spb : List Byte) (n : Nat) :
    FramesFree (s.withReq p q cid h r spb n) := by
  have hdraw : FramesFree (if bitOf (fld spb 0xB 1) 7 then s else s.fresh.2) := by
    split
    · exact hfree
    · exact hfree
  have hcount : FramesFree (((if bitOf (fld spb 0xB 1) 7 then s else s.fresh.2).updLive p q cid fun l => { l with req := some r }).count p
      cPenaltyUntracked n) :=
    framesFree_updP (framesFree_updP hdraw fun _ => rfl) fun _ => Partition.count_steps ..
  unfold State.withReq
  dsimp only
  split
  · exact framesFree_updP hcount fun _ => Partition.count_steps ..
  · exact hcount
end

/-! ### What an admitted request does next (R168, R201, R204) -/

/-- A command with another state of the request behind it. -/
def Live.onReq (l : Live) (f : Req → Req) : Live := { l with req := l.req.map f }
/-- A partition in which a request's match step is due. -/
def Partition.matchDue (t : Partition) (q : Nat) (cid : BitVec 16) (sess : Nat) : Partition :=
  ((t.updLive q cid fun l => l.onReq fun r => { r with matching := true }).makeDue 1 0 q cid 0 0).runs sess
/-- A partition in which a request's prompt is on the list. -/
def Partition.prefillNext (t : Partition) (q : Nat) (cid : BitVec 16) (seq : Nat) : Partition :=
  { t.stamp.2.toPrompts q cid with sequences := t.sequences.upd seq fun e => { e with st := .prefill, readySince := t.stamp.1 } }
/-- A partition in which a request's sequence decodes. -/
def Partition.decodeNext (t : Partition) (q : Nat) (cid : BitVec 16) (seq : Nat) : Partition :=
  { t.stamp.2.updLive q cid (fun l => l.onReq fun r => { r with resumed := false }) with
    sequences := t.sequences.upd seq fun e => { e with st := .decode, readySince := t.stamp.1 } }

/-- A request's sequence is `sq`, and its command is as `r` says but for what follows its admission. -/
def Partition.TakenUp (t : Partition) (q : Nat) (cid : BitVec 16) (r r' : Req) (sq : Sequence) : Prop :=
  (∃ m, t.liveOf q cid = some m ∧ m.req = some r') ∧ r' = { r with matching := r'.matching, resumed := r'.resumed }
    ∧ t.sequences.find r.seq = some sq

section
variable {s : State} {p : Part} {t v : Partition} {q : Nat} {cid : BitVec 16} {l : Live} {r : Req} {sq : Sequence} {ss : Session}

theorem State.routeReq_eq (hv : s.prt p = some v) (hl : v.liveOf q cid = some l) (hr : l.req = some r)
    (hsq : v.sequences.find r.seq = some sq) (hss : v.sessions.find r.sess = some ss) :
    s.routeReq p q cid =
      if 0 < sq.rc + r.promptLeft then
        if ss.domain ≠ 0 ∧ sq.committed = 0 ∧ sq.table = [] ∧ r.index = 0 then (s.updP p fun t => t.matchDue q cid r.sess).pullDue p
        else s.updP p fun t => t.prefillNext q cid r.seq
      else if r.gen then
        if v.limit sq ≤ sq.committed then s.endReq p q cid .lengthLimit 4 else s.updP p fun t => t.decodeNext q cid r.seq
      else s.endReq p q cid .ok 0 := by
  have hwork : v.promptWork r = sq.rc + r.promptLeft := by rw [Partition.promptWork, hsq, Option.map_some, Option.getD_some]
  unfold State.routeReq
  simp only [hv, Option.bind_some, hl, hr, hsq, hss, Option.map_some, hwork]
  rfl

variable (hl : t.liveOf q cid = some l) (hr : l.req = some r) (hsq : t.sequences.find r.seq = some sq)
include hl hr hsq

omit hsq in
theorem Partition.req_updLive (f : Req → Req) :
    ∃ m, (t.updLive q cid fun l => l.onReq f).liveOf q cid = some m ∧ m.req = some (f r) :=
  ⟨l.onReq f, by rw [Partition.liveOf_updLive (f := fun l => l.onReq f) t q cid fun _ => ⟨rfl, rfl⟩, hl, Option.map_some],
    by rw [Live.onReq, hr, Option.map_some]⟩

theorem Partition.takenUp_matchDue (sess : Nat) : (t.matchDue q cid sess).TakenUp q cid r { r with matching := true } sq :=
  ⟨Partition.req_updLive hl hr fun r => { r with matching := true }, rfl, hsq⟩

theorem Partition.takenUp_decodeNext : (t.decodeNext q cid r.seq).TakenUp q cid r { r with resumed := false }
    { sq with st := .decode, readySince := t.nextOrder } :=
  ⟨Partition.req_updLive hl hr fun r => { r with resumed := false }, rfl, (Tab.find_upd_self ..).trans (congrArg (Option.map _) hsq)⟩

theorem Partition.takenUp_prefillNext : (t.prefillNext q cid r.seq).TakenUp q cid r r
    { sq with st := .prefill, readySince := t.nextOrder } := by
  have hlive : (t.prefillNext q cid r.seq).live = t.live := by
    unfold Partition.prefillNext Partition.toPrompts
    dsimp only
    split
    · rfl
    · rfl
  refine ⟨⟨l, ?_, hr⟩, rfl, (Tab.find_upd_self ..).trans (congrArg _ hsq)⟩
  rw [Partition.liveOf, hlive]
  exact hl

/-- A revival that begins, or that a request joins, holds the request among its waiters (R201). -/
theorem State.startRevival_waits (hp : s.prt p = some t) (sess mask : Nat) :
    ∃ u, (s.startRevival p sess mask q cid).prt p = some u ∧ u.TakenUp q cid r r sq
      ∧ ∃ w, u.revivals.find sess = some w ∧ (q, cid) ∈ w.waiters := by
  refine ⟨_, State.prt_updP_of_prt hp _, ?_⟩
  split
  · next w hw => exact ⟨⟨⟨l, hl, hr⟩, rfl, hsq⟩, _, (Tab.find_upd_self ..).trans (congrArg _ hw), by simp⟩
  · exact ⟨⟨⟨l, hl, hr⟩, rfl, hsq⟩, _, Tab.find_put_self .., by simp⟩
end

theorem Partition.mem_prompts_prefillNext (t : Partition) (q : Nat) (cid : BitVec 16) (seq : Nat) :
    (q, cid) ∈ (t.prefillNext q cid seq).prompts := by
  unfold Partition.prefillNext Partition.toPrompts
  dsimp only
  split
  · next h => exact List.contains_iff_mem.1 h
  · simp

/-! ### REQUEST -/

/-- The device after the start of a REQUEST and the refill of its tenant (R170). -/
def State.refilled (s : State) (p : Part) (l : Live) (n : Nat) : State := (s.cmdStarted p l).refillTenant p n
/-- REQUEST completes its command at once, before any token. -/
def EndsReq (s : State) (p : Part) (q : Qn) (cid : BitVec 16) (k : Queue) (l : Live) (st : Status) (reason : Nat) : Prop :=
  ∃ u, exec (.request p q cid) s = .next u ∧ Completes u p q k l st (finalWord reason 0 0)

section
variable {s : State} {p : Part} {q : Qn} {cid : BitVec 16} {t : Partition} {k : Queue} {l : Live} (h : CanStart s p q cid ocRequest t k l)
include h

theorem exec_request_bad_handle {ks : List Nat} {hd : Handle} {st : Status}
    (hbad : t.firstBad p [([kSession], l.ent.handle0), ([kSequence], l.ent.handle1)] = some (ks, hd, st)) :
    EndsReq s p q cid k l st 9 := by
  obtain ⟨v, hv, hq, hl⟩ := State.prt_entryEvent (State.prt_cmdStarted h) ks hd
  refine ⟨_, exec_request_takes h, ?_⟩
  rw [State.takeRequest_refused q.val cid hbad]
  exact State.refuseReq_completes h hv hq hl st 9

/-- The refill of a tenant leaves what the checks and the completion of the command read. -/
theorem State.prt_refilled (n : Nat) : ∃ v, (s.refilled p l n).prt p = some v ∧ v.clock = t.clock
    ∧ v.queues = t.queues ∧ v.live = (t.cmdStarted l).live ∧ v.tenants = t.tenants.upd n fun r => r.refill t.clock := by
  obtain ⟨hkeep, -⟩ := (t.cmdStarted l).refillTenant_keeps n
  exact ⟨_, State.prt_updP_of_prt (State.prt_cmdStarted h) _, by rw [hkeep]; rfl, by rw [hkeep]; rfl, by rw [hkeep], by rw [hkeep]; rfl⟩

/-- An admitted request stands behind its command. -/
theorem State.prt_entered (n : Nat) (hd : Handle) (r : Req) (spb : List Byte) (m : Nat) :
    ∃ v, ((s.refilled p l n).withReq p q.val cid hd r spb m).prt p = some v ∧ t.Entered v q.val cid l r := by
  obtain ⟨hkeep, hseqs⟩ := (t.cmdStarted l).refillTenant_keeps n
  obtain ⟨v, hv, heq⟩ := State.prt_withReq
    (State.prt_updP_of_prt (State.prt_cmdStarted h) fun t => t.refillTenant n) q.val cid hd r spb m
  obtain ⟨-, hlive, -⟩ := Partition.awaits_cmdStarted h
  refine ⟨v, hv, ?_, ?_, ?_⟩
  · rw [heq, hkeep]
    exact (Partition.liveOf_updLive (f := fun l => { l with req := some r }) _ _ _ fun _ => ⟨rfl, rfl⟩).trans (congrArg (Option.map _) hlive)
  · rw [heq, hkeep]
    exact ⟨rfl, rfl, rfl, rfl⟩
  · rw [heq]
    exact hseqs

/-- A request that its admission ends completes its command. -/
theorem State.endReq_entered_completes {w : State} {v : Partition} {spb : List Byte} {r : Req} (hv : w.prt p = some v)
    (hasks : l.ent.Asks spb r) (hentered : t.Entered v q.val cid l r) {st : Status} (hst : st ≠ .late) (reason : Nat) :
    Completes (w.endReq p q.val cid st reason) p q k l st (finalWord reason 0 0) := by
  obtain ⟨-, -, hk, -, -, -, -, hposted, -, habort⟩ := h
  obtain ⟨seed, hist, rfl, -⟩ := hasks
  obtain ⟨hl, ⟨hq, -⟩, -⟩ := hentered
  exact State.endReq_completes hv (hq ▸ hk) hl hposted habort rfl rfl hst reason

variable {ss : Session} {sq : Sequence} {m : ModelDesc} {smp : Region} {tn : Tenant}
  (hgood : t.firstBad p [([kSession], l.ent.handle0), ([kSequence], l.ent.handle1)] = none)
  (hss : t.sessions.find (hIndex l.ent.handle0) = some ss) (hsq : t.sequences.find (hIndex l.ent.handle1) = some sq)
  (hm : t.model? ss.model = some m) (hsmp : t.regions.find (hIndex ss.sampler) = some smp) (htn : t.tenants.find ss.tenant = some tn)
include hgood hss hsq hm hsmp htn

/-- REQUEST by its checks in order; behind them stands the device with the request. -/
theorem exec_request_eq : ∃ w r n, l.ent.Asks (smp.data.rd l.ent.arg0.toNat 1360) r
    ∧ w = (s.refilled p l ss.tenant).withReq p q.val cid ss.h r (smp.data.rd l.ent.arg0.toNat 1360) n
    ∧ exec (.request p q cid) s = .next (
        if ¬ l.ent.InOrder ss sq m smp then (s.cmdStarted p l).refuseReq p q.val cid .accessViolation
        else if t.limit sq < sq.committed + sq.rc + l.ent.arg1.toNat % 2 ^ 32 then
          (s.cmdStarted p l).refuseReq p q.val cid .lengthLimit 4
        else if (tn.refill t.clock).enabled = false ∨ (tn.refill t.clock).level ≤ 0 then
          (s.refilled p l ss.tenant).refuseReq p q.val cid .budgetExhausted 8
        else if missed t.clock l.ent.deadline then (s.refilled p l ss.tenant).refuseReq p q.val cid .late 6
        else if ss.st = .parked ∨ ss.st = .reviving then w.startRevival p (hIndex l.ent.handle0) 0 q.val cid
        else w.routeReq p q.val cid) := by
  obtain ⟨v, hv, hclock, -, -, htenants⟩ := State.prt_refilled h ss.tenant
  have hfind : v.tenants.find ss.tenant = some (tn.refill t.clock) := by rw [htenants, Tab.find_upd_self, htn, Option.map_some]
  have heq := State.takeRequest_eq hv q.val cid hgood hss hsq hm hsmp hfind
  rw [hclock] at heq
  refine ⟨_, _, _, ⟨_, _, rfl, fun hbit => if_pos hbit, fun hbit => ?_⟩, rfl, (exec_request_takes h).trans (congrArg _ heq)⟩
  rw [Partition.startCounts, if_neg (by simp [hbit])]

theorem exec_request_out_of_order (hfine : ¬ l.ent.InOrder ss sq m smp) : EndsReq s p q cid k l .accessViolation 9 := by
  obtain ⟨_, _, _, -, -, heq⟩ := exec_request_eq h hgood hss hsq hm hsmp htn
  rw [if_pos hfine] at heq
  exact ⟨_, heq, State.refuseReq_completes h (State.prt_cmdStarted h) rfl rfl _ _⟩

variable (hfine : l.ent.InOrder ss sq m smp)
include hfine

theorem exec_request_too_long (hlong : t.limit sq < sq.committed + sq.rc + l.ent.arg1.toNat % 2 ^ 32) :
    EndsReq s p q cid k l .lengthLimit 4 := by
  obtain ⟨_, _, _, -, -, heq⟩ := exec_request_eq h hgood hss hsq hm hsmp htn
  rw [if_neg (not_not.2 hfine), if_pos hlong] at heq
  exact ⟨_, heq, State.refuseReq_completes h (State.prt_cmdStarted h) rfl rfl _ _⟩

variable (hfits : sq.committed + sq.rc + l.ent.arg1.toNat % 2 ^ 32 ≤ t.limit sq)
include hfits

theorem exec_request_no_budget (hout : (tn.refill t.clock).enabled = false ∨ (tn.refill t.clock).level ≤ 0) :
    EndsReq s p q cid k l .budgetExhausted 8 := by
  obtain ⟨v, hv, -, hq, hl, -⟩ := State.prt_refilled h ss.tenant
  obtain ⟨_, _, _, -, -, heq⟩ := exec_request_eq h hgood hss hsq hm hsmp htn
  rw [if_neg (not_not.2 hfine), if_neg (Nat.not_lt.2 hfits), if_pos hout] at heq
  exact ⟨_, heq, State.refuseReq_completes h hv hq hl _ _⟩

variable (hen : (tn.refill t.clock).enabled = true) (hlevel : 0 < (tn.refill t.clock).level)
include hen hlevel

theorem exec_request_late (hmissed : missed t.clock l.ent.deadline = true) : EndsReq s p q cid k l .late 6 := by
  obtain ⟨v, hv, -, hq, hl, -⟩ := State.prt_refilled h ss.tenant
  obtain ⟨_, _, _, -, -, heq⟩ := exec_request_eq h hgood hss hsq hm hsmp htn
  rw [if_neg (not_not.2 hfine), if_neg (Nat.not_lt.2 hfits), if_neg (by simp [hen]; omega), if_pos hmissed] at heq
  exact ⟨_, heq, State.refuseReq_completes h hv hq hl _ _⟩

variable (hmissed : missed t.clock l.ent.deadline = false)
include hmissed

/-- A request that passes every check stands behind its command, and goes on from there. -/
theorem exec_request_admitted : ∃ w v r sq', l.ent.Asks (smp.data.rd l.ent.arg0.toNat 1360) r
    ∧ exec (.request p q cid) s = .next (
        if ss.st = .parked ∨ ss.st = .reviving then w.startRevival p (hIndex l.ent.handle0) 0 q.val cid else w.routeReq p q.val cid)
    ∧ w.prt p = some v ∧ (FramesFree s → FramesFree w) ∧ t.Entered v q.val cid l r
    ∧ v.sequences.find (hIndex l.ent.handle1) = some sq' ∧ sq.Refilled sq' := by
  obtain ⟨_, r, n, hasks, rfl, heq⟩ := exec_request_eq h hgood hss hsq hm hsmp htn
  rw [if_neg (not_not.2 hfine), if_neg (Nat.not_lt.2 hfits), if_neg (by simp [hen]; omega), if_neg (by simp [hmissed])] at heq
  obtain ⟨v, hv, hentered⟩ := State.prt_entered h ss.tenant ss.h r (smp.data.rd l.ent.arg0.toNat 1360) n
  obtain ⟨-, -, hseqs⟩ := id hentered
  obtain ⟨sq', hsq', hre⟩ := hseqs _ _ hsq
  refine ⟨_, v, r, sq', hasks, heq, hv, fun hfree => State.framesFree_withReq ?_ _ _ _ _ _ _, hentered, hsq', hre⟩
  exact framesFree_updP (framesFree_updP hfree fun _ => rfl) fun t => by rw [(t.refillTenant_keeps ss.tenant).1]

/-- An admitted request of a session that is not parked. -/
theorem exec_request_up (hup : ss.st = .opened ∨ ss.st = .running) : ∃ w v r sq', l.ent.Asks (smp.data.rd l.ent.arg0.toNat 1360) r
    ∧ w.prt p = some v ∧ (FramesFree s → FramesFree w) ∧ t.Entered v q.val cid l r ∧ v.sequences.find r.seq = some sq' ∧ sq.Refilled sq'
    ∧ exec (.request p q cid) s = .next (
        if 0 < sq.rc + l.ent.arg1.toNat % 2 ^ 32 then
          if ss.domain ≠ 0 ∧ sq.committed = 0 ∧ sq.table = [] then (w.updP p fun t => t.matchDue q.val cid r.sess).pullDue p
          else w.updP p fun t => t.prefillNext q.val cid r.seq
        else if l.ent.arg1.getLsbD 32 then
          if t.limit sq ≤ sq.committed then w.endReq p q.val cid .lengthLimit 4 else w.updP p fun t => t.decodeNext q.val cid r.seq
        else w.endReq p q.val cid .ok 0) := by
  obtain ⟨w, v, r, sq', hasks, heq, hv, hfree, hentered, hsq', hre⟩ :=
    exec_request_admitted h hgood hss hsq hm hsmp htn hfine hfits hen hlevel hmissed
  obtain ⟨hl, ⟨-, hsessions, hregions, hcompat⟩, -⟩ := id hentered
  obtain ⟨seed, hist, rfl, -⟩ := id hasks
  have hroute := State.routeReq_eq hv hl rfl hsq' (hsessions ▸ hss)
  rw [Partition.limit_refilled hsessions hregions hcompat hre, hre] at hroute
  refine ⟨w, v, _, sq', hasks, hv, hfree, hentered, hsq', hre, ?_⟩
  rw [heq, if_neg (by rcases hup with hup | hup <;> simp [hup]), hroute]
  simp [Entry.request, bitOf_toNat]
theorem exec_request_nothing (hup : ss.st = .opened ∨ ss.st = .running) (hwork : sq.rc + l.ent.arg1.toNat % 2 ^ 32 = 0)
    (hgen : l.ent.arg1.getLsbD 32 = false) : EndsReq s p q cid k l .ok 0 := by
  obtain ⟨w, v, r, _, hasks, hv, -, hentered, -, -, heq⟩ :=
    exec_request_up h hgood hss hsq hm hsmp htn hfine hfits hen hlevel hmissed hup
  rw [if_neg (by omega), if_neg (by rw [hgen]; exact Bool.false_ne_true)] at heq
  exact ⟨_, heq, State.endReq_entered_completes h hv hasks hentered (by decide) 0⟩

theorem exec_request_full (hup : ss.st = .opened ∨ ss.st = .running) (hwork : sq.rc + l.ent.arg1.toNat % 2 ^ 32 = 0)
    (hgen : l.ent.arg1.getLsbD 32 = true) (hfull : sq.committed = t.limit sq) : EndsReq s p q cid k l .lengthLimit 4 := by
  obtain ⟨w, v, r, _, hasks, hv, -, hentered, -, -, heq⟩ :=
    exec_request_up h hgood hss hsq hm hsmp htn hfine hfits hen hlevel hmissed hup
  rw [if_neg (by omega), if_pos hgen, if_pos (by omega)] at heq
  exact ⟨_, heq, State.endReq_entered_completes h hv hasks hentered (by decide) 4⟩

/-- A request with something to do has its prompt on the list, its match step due or its sequence in DECODE, or it waits for the revival of
its session. -/
theorem exec_request_goes_on
    (hwork : ss.st = .opened ∨ ss.st = .running →
      0 < sq.rc + l.ent.arg1.toNat % 2 ^ 32 ∨ l.ent.arg1.getLsbD 32 = true ∧ sq.committed < t.limit sq)
    (hfree : ss.domain ≠ 0 ∧ sq.committed = 0 ∧ sq.table = [] → FramesFree s) :
    ∃ u t' r r' sq', l.ent.Asks (smp.data.rd l.ent.arg0.toNat 1360) r ∧ exec (.request p q cid) s = .next u ∧ u.prt p = some t'
      ∧ t'.TakenUp q.val cid r r' sq' ∧ sq'.committed = sq.committed
      ∧ if ss.st = .opened ∨ ss.st = .running then
          if 0 < sq.rc + l.ent.arg1.toNat % 2 ^ 32 then
            if ss.domain ≠ 0 ∧ sq.committed = 0 ∧ sq.table = [] then
              r'.matching = true ∧ ∃ d ∈ t'.due, d.q = q.val ∧ d.cid = cid ∧ d.kind = 0
            else (q.val, cid) ∈ t'.prompts ∧ sq'.st = .prefill
          else sq'.st = .decode
        else ∃ v, t'.revivals.find (hIndex l.ent.handle0) = some v ∧ (q.val, cid) ∈ v.waiters := by
  by_cases hup : ss.st = .opened ∨ ss.st = .running
  · obtain ⟨w, v, r, sq', hasks, hv, hframes, ⟨hl, -⟩, hsq', hre, heq⟩ :=
      exec_request_up h hgood hss hsq hm hsmp htn hfine hfits hen hlevel hmissed hup
    have hcommitted : sq'.committed = sq.committed := by rw [hre]
    simp only [if_pos hup]
    by_cases hpos : 0 < sq.rc + l.ent.arg1.toNat % 2 ^ 32
    · simp only [if_pos hpos] at heq ⊢
      by_cases hmatch : ss.domain ≠ 0 ∧ sq.committed = 0 ∧ sq.table = []
      · have hpull : FramesFree (w.updP p fun t => t.matchDue q.val cid r.sess) := framesFree_updP (hframes (hfree hmatch)) fun _ => rfl
        rw [if_pos hmatch, State.pullDue_framesFree hpull] at heq
        simp only [if_pos hmatch]
        exact ⟨_, _, r, _, sq', hasks, heq, State.prt_updP_of_prt hv _, Partition.takenUp_matchDue hl rfl hsq' r.sess, hcommitted, rfl,
          _, List.mem_append_right _ (List.mem_singleton_self _), rfl, rfl, rfl⟩
      · rw [if_neg hmatch] at heq
        simp only [if_neg hmatch]
        exact ⟨_, _, r, r, _, hasks, heq, State.prt_updP_of_prt hv _, Partition.takenUp_prefillNext hl rfl hsq', hcommitted,
          v.mem_prompts_prefillNext .., rfl⟩
    · obtain ⟨hgen, hroom⟩ := (hwork hup).resolve_left hpos
      rw [if_neg hpos, if_pos hgen, if_neg (Nat.not_le.2 hroom)] at heq
      simp only [if_neg hpos]
      exact ⟨_, _, r, _, _, hasks, heq, State.prt_updP_of_prt hv _, Partition.takenUp_decodeNext hl rfl hsq', hcommitted, rfl⟩
  · obtain ⟨w, v, r, sq', hasks, heq, hv, -, ⟨hl, -⟩, hsq', hre⟩ :=
      exec_request_admitted h hgood hss hsq hm hsmp htn hfine hfits hen hlevel hmissed
    have hdown : ss.st = .parked ∨ ss.st = .reviving := by
      obtain ⟨-, -, -, hst, -⟩ := hfine
      revert hup hst
      cases ss.st <;> simp
    obtain ⟨seed, hist, rfl, -⟩ := id hasks
    obtain ⟨u, hu, htaken, hwaits⟩ := State.startRevival_waits hl rfl hsq' hv (hIndex l.ent.handle0) 0
    rw [if_pos hdown] at heq
    simp only [if_neg hup]
    exact ⟨_, u, _, _, sq', hasks, heq, hu, htaken, by rw [hre], hwaits⟩
end

/-! ### The obligation -/

/-- Settles O29: each refusal by its own lemma, and what an admitted request does next by `exec_request_goes_on`. -/
theorem requestAdmission : Obligations.RequestAdmission := by
  unfold Obligations.RequestAdmission
  intro s p q cid t k l h
  refine ⟨fun _ _ _ hbad => exec_request_bad_handle h hbad, ?_⟩
  intro ss sq m smp tn hgood hss hsq hm hsmp htn
  refine ⟨exec_request_out_of_order h hgood hss hsq hm hsmp htn, exec_request_too_long h hgood hss hsq hm hsmp htn,
    fun ⟨hfine, hfits⟩ => exec_request_no_budget h hgood hss hsq hm hsmp htn hfine hfits,
    fun ⟨⟨hfine, hfits⟩, hen, hlevel⟩ => exec_request_late h hgood hss hsq hm hsmp htn hfine hfits hen hlevel,
    fun ⟨⟨⟨hfine, hfits⟩, hen, hlevel⟩, hmissed⟩ => exec_request_nothing h hgood hss hsq hm hsmp htn hfine hfits hen hlevel hmissed,
    fun ⟨⟨⟨hfine, hfits⟩, hen, hlevel⟩, hmissed⟩ => exec_request_full h hgood hss hsq hm hsmp htn hfine hfits hen hlevel hmissed,
    fun ⟨⟨⟨hfine, hfits⟩, hen, hlevel⟩, hmissed⟩ hwork hfree => ?_⟩
  obtain ⟨u, t', r, r', sq', hasks, hexec, hu, ⟨⟨m', hl, hreq⟩, hsame, hsq'⟩, hcommitted, hnext⟩ :=
    exec_request_goes_on h hgood hss hsq hm hsmp htn hfine hfits hen hlevel hmissed hwork hfree
  obtain ⟨hleft, hseq, hsess, hspb, hemitted, hgen, hcancelled, hseed, hcounts⟩ := hasks.fields hsame
  obtain ⟨_, _, rfl, -⟩ := hasks
  refine ⟨u, t', m', r', sq', hexec, hu, hl, hreq, hleft, hseq, hsess, hspb, hemitted, hgen, hcancelled, hseed, hcounts, hsq', hcommitted,
    ?_, ?_, ?_, ?_⟩
  · exact fun hup hpos hno => by simpa only [if_pos hup, if_pos hpos, if_neg hno] using hnext
  · exact fun hup hpos hmatch => by simpa only [if_pos hup, if_pos hpos, if_pos hmatch] using hnext
  · exact fun hup hzero => by simpa only [if_pos hup, if_neg (Nat.not_lt.2 (Nat.le_of_eq hzero))] using hnext
  · exact fun hdown => by simpa only [if_neg hdown] using hnext

end Sys2Proof.Machine
end

section
/-! SUPPORT. Migrations (09 R208 to R210, Table 9-7): what a control message does that finds its migration, what each end of a migration
leaves of the partition, and what completes its command. -/

namespace Sys2Proof.Machine
open Sys2Proof.Cert

/-! ### The arms of the migration commands -/

theorem exec_migStreamRecord (p : Part) (r : MigStreamRec) (s : State) :
    exec (.migStreamRecord p r) s = execMigStreamRecord p r s := rfl
theorem exec_migImportDurable (p : Part) (id : Word) (s : State) :
    exec (.migImportDurable p id) s = execMigImportDurable p id s := rfl
theorem exec_migConfirm (p : Part) (qp : Nat) (m : Msg) (s : State) : exec (.migConfirm p qp m) s = .next (s.migConfirmMsg p qp m) := rfl
theorem exec_migRelease (p : Part) (qp : Nat) (m : Msg) (s : State) : exec (.migRelease p qp m) s = .next (s.migReleaseMsg p qp m) := rfl
theorem exec_migCancel (p : Part) (qp : Nat) (m : Msg) (s : State) : exec (.migCancel p qp m) s = .next (s.migCancelMsg p qp m) := rfl
theorem exec_migQuery (p : Part) (qp : Nat) (m : Msg) (s : State) : exec (.migQuery p qp m) s = .next (s.migQueryMsg p qp m) := rfl
theorem exec_migAnswer (p : Part) (qp : Nat) (m : Msg) (s : State) : exec (.migAnswer p qp m) s = .next (s.migAnswerMsg p qp m) := rfl
theorem exec_migTimeout (p : Part) (id : Word) (s : State) : exec (.migTimeout p id) s = execMigTimeout p id s := rfl
theorem exec_migQueryTimer (p : Part) (id : Word) (s : State) : exec (.migQueryTimer p id) s = execMigQueryTimer p id s := rfl

/-! ### What messages, counters and records leave of a partition -/

@[simp] theorem Partition.sent_migrations (t : Partition) (qp member : Option Nat) (m : Msg) :
    (t.sent qp member m).migrations = t.migrations := by cases qp <;> rfl
@[simp] theorem Partition.sent_migHistory (t : Partition) (qp member : Option Nat) (m : Msg) :
    (t.sent qp member m).migHistory = t.migHistory := by cases qp <;> rfl
@[simp] theorem Partition.sent_sessions (t : Partition) (qp member : Option Nat) (m : Msg) :
    (t.sent qp member m).sessions = t.sessions := by cases qp <;> rfl
@[simp] theorem Partition.sent_parked (t : Partition) (qp member : Option Nat) (m : Msg) :
    (t.sent qp member m).parked = t.parked := by cases qp <;> rfl
@[simp] theorem Partition.sent_queues (t : Partition) (qp member : Option Nat) (m : Msg) :
    (t.sent qp member m).queues = t.queues := by cases qp <;> rfl
@[simp] theorem Partition.sent_live (t : Partition) (qp member : Option Nat) (m : Msg) :
    (t.sent qp member m).live = t.live := by cases qp <;> rfl

@[simp] theorem Partition.count_migrations (t : Partition) (n k : Nat) : (t.count n k).migrations = t.migrations := by
  unfold Partition.count
  split <;> rfl
@[simp] theorem Partition.count_parked (t : Partition) (n k : Nat) : (t.count n k).parked = t.parked := by
  unfold Partition.count
  split <;> rfl

theorem State.prt_sendMig {s : State} {p : Part} {t : Partition} (hp : s.prt p = some t) (g : Migration) (mt : Nat) (st : Status) :
    (s.sendMig p g mt st).prt p = some (t.sent (if g.source then some g.qp else none) none (migMsg mt g.id st)) :=
  State.prt_sendMsg hp ..
/-- The rules name no queue pair for what a successor sends (log entry 19). -/
theorem State.sendMig_successor (s : State) (p : Part) {g : Migration} (hsrc : g.source = false) (mt : Nat) (st : Status) :
    s.sendMig p g mt st = s.updP p fun t => { t with outbox := t.outbox ++ [⟨none, none, migMsg mt g.id st⟩] } := by
  rw [State.sendMig, hsrc]
  rfl

/-- A partition that keeps the outcome of a migration. -/
def Partition.withOutcome (t : Partition) (id : Word) (st : Status) : Partition :=
  let l := t.migHistory.filter (·.1 ≠ id) ++ [(id, st)]
  { t with migHistory := l.drop (l.length - 4096) }
theorem State.prt_migOutcome {s : State} {p : Part} {t : Partition} (hp : s.prt p = some t) (id : Word) (st : Status) (gone : Handle) :
    (s.migOutcome p id st gone).1.prt p = some (t.withOutcome id st) := State.prt_updP_of_prt hp _
/-- The last of the kept outcomes is the newest. -/
theorem Partition.outcome_last {t v : Partition} {id : Word} {st : Status} (h : v.migHistory = (t.withOutcome id st).migHistory) :
    v.migHistory.getLast? = some (id, st) := by
  simp [h, Partition.withOutcome, List.getLast?_drop]
/-- An outcome takes the next number of the partition's journal. -/
theorem State.migOutcome_number (s : State) (p : Part) (id : Word) (st : Status) (gone : Handle) :
    (s.migOutcome p id st gone).2 = (s.journal p.val).next
      ∧ ((s.migOutcome p id st gone).1.journal p.val).next = (s.journal p.val).next + 1 :=
  ⟨rfl, congrArg Journal.next (State.journal_jwrite ..)⟩

/-! ### The migration and its session -/

theorem State.migration?_of_prt {s : State} {p : Part} {t : Partition} (hp : s.prt p = some t) (id : Word) :
    s.migration? p id = t.migrations.find id.toNat := by rw [State.migration?, hp, Option.bind_some]
/-- The session of a migration whose slot still holds it. -/
theorem State.migSess_held {s : State} {p : Part} {t : Partition} {g : Migration} {i : Nat} {ss : Session} (hp : s.prt p = some t)
    (hi : g.sess = some i) (hs : t.sessions.find i = some ss) (hh : ss.h = g.hSess) : s.migSess p g = some i := by
  simp [State.migSess, State.sess?, hi, hp, hs, hh]
theorem State.migSess_none (s : State) (p : Part) {g : Migration} (h : g.sess = none) : s.migSess p g = none := by
  rw [State.migSess, h, Option.bind_none]

/-- A migration stands in a partition, and its command before its last completion. -/
def Partition.Migrates (t : Partition) (g : Migration) (q : Qn) (k : Queue) (l : Live) : Prop :=
  t.migrations.find g.id.toNat = some g ∧ t.migrations.wf ∧ g.q = q.val ∧ t.Awaits q.val g.cid k l

/-! ### The ends of a migration (Table 9-7) -/

section
variable {s : State} {p : Part} {t : Partition} {g : Migration} {q : Qn} {k : Queue} {l : Live}

/-- A migration that is off its partition's table ends with the last completion of its command. -/
theorem State.finish_migration (hm : t.Migrates g q k l) {u : State} {v : Partition} (hu : u.prt p = some v)
    (hmig : v.migrations = t.migrations.del g.id.toNat) (hqueues : v.queues = t.queues) (hlive : v.live = t.live) (st : Status)
    (r1 : Word) : ∃ c, (u.finish p g.q g.cid st g.id r1).prt p = some (v.completed q.val k l c) ∧ v.migrations.find g.id.toNat = none
      ∧ Completes (u.finish p g.q g.cid st g.id r1) p q k l st g.id := by
  obtain ⟨-, hwf, hq, hwaits⟩ := hm
  have hv := hwaits.of_eq hqueues hlive
  rw [hq]
  exact ⟨_, State.prt_finish hu hv st g.id r1 0, by rw [hmig, Tab.find_del_self _ hwf], State.finish_completes hu hv st g.id r1 0⟩

variable (hp : s.prt p = some t) (hm : t.Migrates g q k l)
include hp hm

theorem State.migration?_of_migrates : s.migration? p g.id = some g := (State.migration?_of_prt hp g.id).trans hm.1

/-- A successor that has imported nothing gives its migration up. -/
theorem State.migAbandon_unimported (hsrc : g.source = false) (hsess : g.sess = none) (st : Status) (tell : Bool) :
    (s.migAbandon p g.id st tell).migration? p g.id = none ∧ Completes (s.migAbandon p g.id st tell) p q k l st g.id := by
  have hdel := State.prt_updP_of_prt hp fun t => { t with migrations := t.migrations.del g.id.toNat }
  have heq : s.migAbandon p g.id st tell
      = (let u := s.updP p fun t => { t with migrations := t.migrations.del g.id.toNat }
         (if tell then u.sendMig p g mtMigCancel st else u).finish p g.q g.cid st g.id 0) := by
    simp [State.migAbandon, State.migration?_of_migrates hp hm, hsrc, State.migSess_none _ p hsess]
  rw [heq]
  cases tell with
  | true =>
    obtain ⟨c, hu, hnone, hc⟩ := State.finish_migration hm (State.prt_sendMig hdel g mtMigCancel st) (Partition.sent_migrations ..)
      (Partition.sent_queues ..) (Partition.sent_live ..) st 0
    exact ⟨(State.migration?_of_prt hu _).trans hnone, hc⟩
  | false =>
    obtain ⟨c, hu, hnone, hc⟩ := State.finish_migration hm hdel rfl rfl rfl st 0
    exact ⟨(State.migration?_of_prt hu _).trans hnone, hc⟩
end

/-- A partition that owns the session of a migration (R210): PARKED, reason HOST. -/
def Partition.taken (t : Partition) (id : Word) (i : Nat) : Partition :=
  { t with migrations := t.migrations.del id.toNat
           sessions := t.sessions.upd i fun r => { r with st := .parked, parkReason := 0, parkedAt := t.clock, pflags := 0 }
           parked := t.parked ++ [i] }
/-- A partition that keeps the session which a migration would have sent, on its parked list as the youngest. -/
def Partition.kept (t : Partition) (g : Migration) (i : Nat) : Partition :=
  { t with sessions := t.sessions.upd i fun r =>
             { r with st := .parked, parkReason := g.hadReason, parkedAt := t.clock, pflags := 4 * g.hadReason, preRevived := false }
           parked := t.parked.filter (· ≠ i) ++ [i] }

section
variable {s : State} {p : Part} {t : Partition} {g : Migration} {q : Qn} {k : Queue} {l : Live} {i : Nat} {ss : Session}
  (hp : s.prt p = some t) (hi : g.sess = some i) (hs : t.sessions.find i = some ss) (hh : ss.h = g.hSess)
include hp hi hs hh

theorem State.migTaken_ends (hm : t.Migrates g q k l) : ∃ c,
    (s.migTaken p g).prt p = some (((t.taken g.id i).count cMigIn 1).completed q.val k l c)
      ∧ ((t.taken g.id i).count cMigIn 1).migrations.find g.id.toNat = none ∧ Completes (s.migTaken p g) p q k l .ok g.id := by
  have htaken : (s.updP p fun t => t.taken g.id i).prt p = some (t.taken g.id i) := State.prt_updP_of_prt hp _
  have hcount := State.prt_count_of_prt ((State.prt_sessRecord _ p p i jPark 0).trans htaken) cMigIn 1
  unfold State.migTaken
  rw [State.migSess_held hp hi hs hh]
  exact State.finish_migration hm hcount (Partition.count_migrations ..) (Partition.count_queues ..) (Partition.count_live ..) .ok _

theorem State.prt_migKeep : (s.migKeep p g).prt p = some (t.kept g i) := by
  unfold State.migKeep
  rw [State.migSess_held hp hi hs hh]
  exact (State.prt_sessRecord ..).trans (State.prt_updP_of_prt hp fun t => t.kept g i)

/-- A source that gives its migration up keeps the session, and the outcome ABORTED. -/
theorem State.migAbandon_source (hm : t.Migrates g q k l) (hsrc : g.source = true) : ∃ t', (s.migAbandon p g.id .aborted).prt p = some t'
    ∧ t'.migrations.find g.id.toNat = none ∧ t'.migHistory.getLast? = some (g.id, .aborted)
    ∧ t'.sessions = (t.kept g i).sessions ∧ t'.parked = (t.kept g i).parked
    ∧ Completes (s.migAbandon p g.id .aborted) p q k l .aborted g.id := by
  have hdel := State.prt_updP_of_prt hp fun t => { t with migrations := t.migrations.del g.id.toNat }
  have hkept := State.prt_migOutcome (State.prt_migKeep hdel hi hs hh) g.id .aborted 0
  have hsent := State.prt_sendMig hkept g mtMigCancel .aborted
  obtain ⟨c, hu, hnone, hc⟩ := State.finish_migration hm hsent (Partition.sent_migrations ..) (Partition.sent_queues ..)
    (Partition.sent_live ..) .aborted 0
  have heq : s.migAbandon p g.id .aborted
      = ((((s.updP p fun t => { t with migrations := t.migrations.del g.id.toNat }).migKeep p g).migOutcome p g.id .aborted 0).1.sendMig
          p g mtMigCancel .aborted).finish p g.q g.cid .aborted g.id 0 := by
    simp [State.migAbandon, State.migration?_of_migrates hp hm, hsrc]
  rw [heq]
  exact ⟨_, hu, hnone, Partition.outcome_last (Partition.sent_migHistory ..),
    Partition.sent_sessions .., Partition.sent_parked .., hc⟩
end

/-! ### Control messages (R210) -/

section
variable {s : State} {p : Part} {qp mt n : Nat} {m : Msg} {g : Migration} {ok : Migration → Bool} {f : Migration → Nat → State}
  (hread : migRead mt m = some (g.id, n)) (hg : s.migration? p g.id = some g)
include hread hg

theorem State.migMessage_acts (hok : ok g = true) : s.migMessage p qp mt m ok f = (f g n).answer .ok := by
  simp [State.migMessage, hread, hg, hok]
theorem State.migMessage_refuses (hok : ok g = false) : s.migMessage p qp mt m ok f = s.refuseMsg p qp .accessViolation := by
  simp [State.migMessage, hread, hg, hok]
end

section
variable {s : State} {p : Part} {t : Partition} {g : Migration} {q : Qn} {k : Queue} {l : Live} (hp : s.prt p = some t)
  (hm : t.Migrates g q k l)
include hp hm

/-- MIG_CONFIRM at a source that waits for it: the outcome is kept, and the migration waits for its record. -/
theorem exec_migConfirm_confirms (qp : Nat) {m : Msg} {n : Nat} (hread : migRead mtMigConfirm m = some (g.id, n)) (hsrc : g.source = true)
    (hc : g.confirmed = false) : ∃ u t', exec (.migConfirm p qp m) s = .next u ∧ Answers u .ok ∧ u.prt p = some t'
      ∧ t'.migrations.find g.id.toNat = some { g with confirmed := true, jseq := some (s.journal p.val).next }
      ∧ t'.migHistory.getLast? = some (g.id, .ok) ∧ (u.journal p.val).next = (s.journal p.val).next + 1 := by
  obtain ⟨hnum, hnext⟩ := s.migOutcome_number p g.id .ok g.hSess
  have hput := State.prt_updP_of_prt (State.prt_migOutcome hp g.id .ok g.hSess) fun t => { t with
    migrations := t.migrations.put g.id.toNat { g with confirmed := true, jseq := some (s.migOutcome p g.id .ok g.hSess).2 } }
  rw [exec_migConfirm, State.migConfirmMsg,
    State.migMessage_acts hread (State.migration?_of_migrates hp hm) (by simp [hsrc, hc])]
  exact ⟨_, _, rfl, answers_answer .., hput, hnum ▸ Tab.find_put_self .., Partition.outcome_last (by dsimp only), hnext⟩

/-- MIG_RELEASE, and MIG_ANSWER that says OK, at a successor that has confirmed: it owns the session. -/
theorem exec_migRelease_or_answer_takes {qp : Nat} {m : Msg} {c : Instr}
    (h : (migRead mtMigRelease m ≠ none ∧ (migRead mtMigRelease m).map (·.1) = some g.id ∧ c = Instr.migRelease p qp m)
      ∨ (migRead mtMigAnswer m = some (g.id, Status.ok.code.toNat) ∧ c = Instr.migAnswer p qp m))
    (hsrc : g.source = false) (hc : g.confirmed = true) : exec c s = .next ((s.migTaken p g).answer .ok) := by
  have hg := State.migration?_of_migrates hp hm
  rcases h with ⟨-, hid, rfl⟩ | ⟨hread, rfl⟩
  · obtain ⟨⟨_, n⟩, hread, rfl⟩ := Option.map_eq_some_iff.1 hid
    rw [exec_migRelease, State.migReleaseMsg, State.migMessage_acts hread hg (by simp [hsrc, hc])]
  · rw [exec_migAnswer, State.migAnswerMsg, State.migMessage_acts hread hg (by simp [hsrc, hc]), if_pos rfl]

/-- MIG_CANCEL at a successor, and MIG_ANSWER that says another status than OK at one that has confirmed. -/
theorem exec_migCancel_or_answer_abandons {qp n : Nat} {m : Msg} {c : Instr}
    (h : (migRead mtMigCancel m = some (g.id, n) ∧ c = Instr.migCancel p qp m)
      ∨ (migRead mtMigAnswer m = some (g.id, n) ∧ n ≠ Status.ok.code.toNat ∧ g.confirmed = true ∧ c = Instr.migAnswer p qp m))
    (hsrc : g.source = false) : exec c s = .next ((s.migAbandon p g.id .aborted false).answer .ok) := by
  have hg := State.migration?_of_migrates hp hm
  rcases h with ⟨hread, rfl⟩ | ⟨hread, hn, hc, rfl⟩
  · rw [exec_migCancel, State.migCancelMsg, State.migMessage_acts hread hg (by simp [hsrc]), hsrc, if_neg Bool.false_ne_true]
  · rw [exec_migAnswer, State.migAnswerMsg, State.migMessage_acts hread hg (by simp [hsrc, hc]), if_neg hn]

/-- MIG_CANCEL comes too late at a source that MIG_CONFIRM has reached. -/
theorem exec_migCancel_too_late (qp : Nat) {m : Msg} {n : Nat} (hread : migRead mtMigCancel m = some (g.id, n)) (hsrc : g.source = true)
    (hc : g.confirmed = true) :
    ∃ u, exec (.migCancel p qp m) s = .next u ∧ Answers u .accessViolation ∧ u.migration? p g.id = some g := by
  rw [exec_migCancel, State.migCancelMsg, State.migMessage_refuses hread (State.migration?_of_migrates hp hm) (by simp [hsrc, hc])]
  obtain ⟨o, a, heq⟩ := s.refuseMsg_eq_event p qp .accessViolation
  rw [heq]
  obtain ⟨v, hv, hsame⟩ := State.prt_event hp Status.accessViolation.code.toNat Status.accessViolation.code.toNat o a
  obtain ⟨hfind, -⟩ := hm
  exact ⟨_, rfl, answers_answer .., (State.migration?_of_prt hv g.id).trans (by rwa [hsame])⟩
end

/-- MIG_QUERY about a migration that the source no longer has: the outcome that it kept, ABORTED where it kept none. -/
theorem exec_migQuery_ended {s : State} {p : Part} {t : Partition} {qp : Nat} {m : Msg} {id : Word} {n : Nat} (hp : s.prt p = some t)
    (hread : migRead mtMigQuery m = some (id, n)) (hnone : t.migrations.find id.toNat = none) :
    exec (.migQuery p qp m) s = .next ((s.sendMsg p (some qp) none
      (migMsg mtMigAnswer id (((t.migHistory.find? fun e => e.1 == id).map (·.2)).getD .aborted))).answer .ok) := by
  simp [exec_migQuery, State.migQueryMsg, hread, State.migration?_of_prt hp, hnone, State.getP_of_prt hp]

/-! ### The stream (R209) -/

/-- A migration whose successor has received one more record. -/
def Migration.received (g : Migration) (r : MigStreamRec) : Migration := { g with records := g.records ++ [r] }
/-- A partition that has received one more record of a stream. -/
def Partition.received (t : Partition) (g : Migration) (r : MigStreamRec) : Partition :=
  { t with migrations := t.migrations.put g.id.toNat (g.received r) }

theorem Partition.Migrates.received {t : Partition} {g : Migration} {q : Qn} {k : Queue} {l : Live} (h : t.Migrates g q k l)
    (r : MigStreamRec) : (t.received g r).Migrates (g.received r) q k l := by
  obtain ⟨-, hwf, hq, hwaits⟩ := h
  exact ⟨Tab.find_put_self .., Tab.wf_put _ _ hwf, hq, hwaits⟩

/-- A stream with a broken record other than a page group is not imported. -/
theorem State.importSession_broken {s : State} {p : Part} {t : Partition} {g : Migration} {m : ModelDesc} (hp : s.prt p = some t)
    (hmod : t.model? (BitVec.ofNat 16 (fld g.fields 4 2)) = some m)
    (hbad : ∃ r ∈ g.records, r.kind ≠ 4 ∧ (r.tagOk && r.sealsOk) = false) : s.importSession p g = .error .sealMismatch := by
  obtain ⟨r, hr, hkind, hbroken⟩ := hbad
  have hany : g.records.any (fun r => r.kind != 4 && !(r.tagOk && r.sealsOk)) = true :=
    List.any_eq_true.2 ⟨r, hr, by simp [hkind, hbroken]⟩
  unfold State.importSession
  simp only [hp, Option.bind_some, hmod, Option.map_some, hany, Bool.true_or, if_true]

section
variable {s : State} {p : Part} {t : Partition} {g : Migration} {q : Qn} {k : Queue} {l : Live} (hp : s.prt p = some t)
  (hm : t.Migrates g q k l)
include hp hm

section
variable {r : MigStreamRec} (hr : r.migId = g.id) (hsrc : g.source = false) (himp : g.imported = false)
include hr hsrc himp

theorem exec_migStreamRecord_keeps (hkind : r.kind ≠ 5) : exec (.migStreamRecord p r) s
    = .next (s.updP p fun t => { t with migrations := t.migrations.put g.id.toNat { g with records := g.records ++ [r] } }) := by
  simp [exec_migStreamRecord, execMigStreamRecord, hr, State.migration?_of_migrates hp hm, hsrc, himp, hkind]

/-- The end record of a broken stream: the import is discarded. -/
theorem exec_migStreamRecord_discards {m : ModelDesc} (hkind : r.kind = 5) (hsess : g.sess = none)
    (hmod : t.model? (BitVec.ofNat 16 (fld g.fields 4 2)) = some m)
    (hbad : ∃ e ∈ g.records ++ [r], e.kind ≠ 4 ∧ (e.tagOk && e.sealsOk) = false) :
    ∃ u, exec (.migStreamRecord p r) s = .next u ∧ u.migration? p g.id = none ∧ Completes u p q k l .sealMismatch g.id := by
  have hgot := State.prt_updP_of_prt hp fun t => t.received g r
  have heq : exec (.migStreamRecord p r) s = .next ((s.updP p fun t => t.received g r).migAbandon p g.id .sealMismatch) := by
    have himport : (s.updP p fun t => t.received g r).importSession p (g.received r) = .error .sealMismatch :=
      State.importSession_broken hgot hmod hbad
    unfold Partition.received Migration.received at himport
    rw [exec_migStreamRecord, execMigStreamRecord, hr, State.migration?_of_migrates hp hm]
    dsimp only
    rw [if_neg (by simp [hsrc, himp]), if_neg (by simp [hkind]), himport]
    rfl
  exact ⟨_, heq, State.migAbandon_unimported hgot (hm.received r) hsrc hsess .sealMismatch true⟩
end

/-! ### The timers and the successor's record (R210) -/

theorem exec_migImportDurable_confirms {j : Nat} (hsrc : g.source = false) (himp : g.imported = true) (hc : g.confirmed = false)
    (hj : g.jseq = some j) (hd : j ≤ (s.journal p.val).durable) : ∃ u t', exec (.migImportDurable p g.id) s = .next u
      ∧ u.prt p = some t' ∧ t'.migrations.find g.id.toNat = some { g with confirmed := true }
      ∧ t'.outbox = t.outbox ++ [⟨none, none, migMsg mtMigConfirm g.id .ok⟩] := by
  have hput := State.prt_updP_of_prt hp fun t => { t with migrations := t.migrations.put g.id.toNat { g with confirmed := true } }
  rw [exec_migImportDurable, execMigImportDurable, State.migration?_of_migrates hp hm]
  dsimp only
  rw [if_neg (by simp [hsrc, himp, hc, hj, hd]), State.sendMig_successor _ p (by exact hsrc)]
  exact ⟨_, _, rfl, State.prt_updP_of_prt hput _, Tab.find_put_self .., rfl⟩

theorem exec_migImportDurable_waits {j : Nat} (hj : g.jseq = some j) (hd : (s.journal p.val).durable < j) :
    exec (.migImportDurable p g.id) s = .next s := by
  simp [exec_migImportDurable, execMigImportDurable, State.migration?_of_migrates hp hm, hj, Nat.not_le.2 hd]

theorem exec_migTimeout_confirmed (hc : g.confirmed = true) : exec (.migTimeout p g.id) s = .next s := by
  simp [exec_migTimeout, execMigTimeout, State.migration?_of_migrates hp hm, hc]

theorem exec_migTimeout_source (hsrc : g.source = true) (hc : g.confirmed = false) :
    exec (.migTimeout p g.id) s = .next (s.migAbandon p g.id .aborted) := by
  simp [exec_migTimeout, execMigTimeout, State.migration?_of_migrates hp hm, hsrc, hc]

theorem exec_migQueryTimer_asks (hsrc : g.source = false) (hc : g.confirmed = true) : exec (.migQueryTimer p g.id) s
    = .next (s.updP p fun t => { t with outbox := t.outbox ++ [⟨none, none, migMsg mtMigQuery g.id .ok⟩] }) := by
  simp [exec_migQueryTimer, execMigQueryTimer, State.migration?_of_migrates hp hm, hsrc, hc, State.sendMig_successor s p hsrc]

theorem exec_migQueryTimer_unconfirmed (hc : g.confirmed = false) : exec (.migQueryTimer p g.id) s = .next s := by
  simp [exec_migQueryTimer, execMigQueryTimer, State.migration?_of_migrates hp hm, hc]
end

/-! ### The obligation -/

/-- Settles O41: each message, record and timer by its own lemma; the session's last state by the end of the migration that each brings. -/
theorem migrationResults : Obligations.MigrationResults := by
  unfold Obligations.MigrationResults
  intro s p t g q k l hp hg hwf hq hk hl hreq habort hposted
  have hm : t.Migrates g q k l := ⟨hg, hwf, hq, hk, hl, hposted, hreq, habort⟩
  refine ⟨fun r hr hsrc himp => ⟨exec_migStreamRecord_keeps hp hm hr hsrc himp, fun m hkind hsess hmod hbad =>
      exec_migStreamRecord_discards hp hm hr hsrc himp hkind hsess hmod hbad⟩,
    fun j hsrc himp hc hj hd => exec_migImportDurable_confirms hp hm hsrc himp hc hj hd,
    fun j hj hd => exec_migImportDurable_waits hp hm hj hd,
    fun qp m n hread hsrc hc => exec_migConfirm_confirms hp hm qp hread hsrc hc, ?taken, ?cancelled,
    fun qp m n hread hsrc hc => exec_migCancel_too_late hp hm qp hread hsrc hc, ?query, ?timeout,
    exec_migQueryTimer_asks hp hm, exec_migQueryTimer_unconfirmed hp hm⟩
  case taken =>
    intro qp m c i ss hmsg hsrc hc hi hs hh
    obtain ⟨e, hu, hnone, hdone⟩ := State.migTaken_ends hp hi hs hh hm
    have hsess : (t.taken g.id i).sessions.find i = some { ss with st := .parked, parkReason := 0, parkedAt := t.clock, pflags := 0 } := by
      rw [Partition.taken, Tab.find_upd_self, hs, Option.map_some]
    exact ⟨_, _, _, exec_migRelease_or_answer_takes hp hm hmsg hsrc hc, answers_answer .., hu, hnone,
      (congrArg (fun a => Tab.find a i) (Partition.count_sessions ..)).trans hsess, rfl, rfl, rfl, Partition.count_parked .., hdone⟩
  case cancelled =>
    intro qp m c n hmsg hsrc hsess
    exact ⟨_, exec_migCancel_or_answer_abandons hp hm hmsg hsrc, answers_answer ..,
      State.migAbandon_unimported hp hm hsrc hsess .aborted false⟩
  case query =>
    intro qp m id n hread hnone
    refine ⟨fun st hfind => ?_, fun hmiss => ?_⟩
    · rw [exec_migQuery_ended hp hread hnone, hfind, Option.map_some, Option.getD_some]
    · rw [exec_migQuery_ended hp hread hnone, List.find?_eq_none.2 fun e he => by simpa using hmiss e he, Option.map_none,
        Option.getD_none]
  case timeout =>
    intro i ss hsrc hi hs hh _
    refine ⟨fun hc => ?_, exec_migTimeout_confirmed hp hm⟩
    obtain ⟨t', hu, hnone, hlast, hsessions, hparked, hdone⟩ := State.migAbandon_source hp hi hs hh hm hsrc
    refine ⟨_, t', exec_migTimeout_source hp hm hsrc hc, hu, hnone, hlast, ?_, ?_, hdone⟩
    · rw [hsessions, Partition.kept, Tab.find_upd_self, hs, Option.map_some]
    · rw [hparked, Partition.kept, List.getLast?_concat]

end Sys2Proof.Machine
end

section
/-! SUPPORT. Bringing the flash tier up to date puts no unit into the map that has lost a piece (10 R217 to R223), and a read whose unit
number leads to another partition's unit, at which the statement about the flash tier fails. -/

namespace Sys2Proof.Machine

theorem exec_flashReadDone (p : Part) (unit : Nat) (r : PieceRead) (s : State) :
    exec (.flashReadDone p unit r) s = execFlashReadDone p unit r s := rfl

/-! ### Maps in which a unit has all its copies -/

/-- No unit that stands under a key of the map has lost a piece of a copy. -/
structure WholeAt (k : Nat) (m : Tab MapUnit) : Prop where
  gone_nil : ∀ e ∈ m, e.1 = k → e.2.gone = []

section
variable {k : Nat} {m : Tab MapUnit}

theorem wholeAt_of_find_none (h : m.find k = none) : WholeAt k m := by
  induction m with
  | nil => exact ⟨fun e he => absurd he List.not_mem_nil⟩
  | cons a m ih =>
    obtain ⟨i, u⟩ := a
    rw [Tab.find_cons] at h
    split_ifs at h with hi
    refine ⟨fun e he hk => ?_⟩
    rcases List.mem_cons.1 he with rfl | he
    · exact absurd hk hi
    · exact (ih h).gone_nil e he hk

theorem WholeAt.gone_of_find (h : WholeAt k m) {u : MapUnit} (hu : m.find k = some u) : u.gone = [] :=
  h.gone_nil _ (Tab.mem_of_find hu) rfl

theorem WholeAt.filter (h : WholeAt k m) (p : Nat × MapUnit → Bool) : WholeAt k (m.filter p) :=
  ⟨fun e he => h.gone_nil e (List.mem_filter.1 he).1⟩

theorem WholeAt.put (h : WholeAt k m) (i : Nat) {u : MapUnit} (hu : u.gone = []) : WholeAt k (m.put i u) := by
  refine ⟨fun e he hk => ?_⟩
  rcases Tab.mem_put he with rfl | he
  · exact hu
  · exact h.gone_nil e he hk

theorem WholeAt.mapV (h : WholeAt k m) (f : Nat → MapUnit → MapUnit) (hf : ∀ i u, u.gone = [] → (f i u).gone = []) :
    WholeAt k (m.mapV f) := by
  refine ⟨fun e he hk => ?_⟩
  obtain ⟨a, ha, rfl⟩ := List.mem_map.1 he
  exact hf _ _ (h.gone_nil a ha hk)
end

/-! ### Superblocks are opened and filled without the map (R214, R216, R220) -/

theorem Flash.openSb_map {f : Flash} {part stream : Nat} {r : Flash × Nat} (h : f.openSb part stream = some r) : r.1.map = f.map := by
  simp only [Flash.openSb] at h
  split_ifs at h
  obtain ⟨-, -, rfl⟩ := Option.map_eq_some_iff.1 h
  rfl

theorem Flash.takeSlots_map {f : Flash} {part stream : Nat} {r : Flash × Nat × Nat} (h : f.takeSlots part stream = some r) :
    r.1.map = f.map := by
  obtain ⟨e, he, rfl⟩ := Option.map_eq_some_iff.1 h
  change e.1.map = f.map
  dsimp only at he
  split at he
  · cases he
    rfl
  · obtain ⟨g, hg, he⟩ := Option.bind_eq_some_iff.1 he
    obtain ⟨b, -, he⟩ := Option.bind_eq_some_iff.1 he
    split_ifs at he
    cases he
    rw [Flash.openSb_map hg]
    split <;> rfl

@[simp] theorem Flash.starve_map (f : Flash) : f.starve.map = f.map := by
  unfold Flash.starve
  split <;> rfl

@[simp] theorem Flash.fillRows_map (f : Flash) (part : Nat) : (f.fillRows part).map = f.map :=
  List.foldlRecOn (motive := fun g : Flash => g.map = f.map) _ _ rfl fun _ h _ _ => h

/-! ### The map brought up to date (R217, R218, R222) -/

section
variable {k : Nat} {f : Flash} (h : WholeAt k f.map)
include h

theorem Flash.wholeAt_rewrite (i stream : Nat) : WholeAt k (f.rewrite i stream).map := by
  unfold Flash.rewrite
  split
  · exact h
  · split
    · rwa [Flash.starve_map]
    · next ht =>
      refine WholeAt.put ?_ i rfl
      rwa [Flash.takeSlots_map ht]

theorem Flash.wholeAt_placeUnit (i : Nat) (o : FlashOwner) (idx stream : Nat) : WholeAt k (f.placeUnit i o idx stream).1.map := by
  unfold Flash.placeUnit
  split
  · rwa [Flash.starve_map]
  · next ht =>
    refine WholeAt.put ?_ i rfl
    rwa [Flash.takeSlots_map ht]

theorem Flash.wholeAt_placeObj (part lo : Nat) (w : FlashWant) : WholeAt k (f.placeObj part lo w).1.map := by
  unfold Flash.placeObj
  dsimp only
  split_ifs
  · exact h
  · refine List.foldlRecOn (motive := fun a : Flash × Bool => WholeAt k a.1.map) _ _ ?_ fun a ha i _ => ?_
    · split
      · exact h
      · exact h.filter _
    · split_ifs
      · exact ha
      · exact ha.put _ rfl
      · exact Flash.wholeAt_placeUnit ha ..

theorem Flash.wholeAt_unmapGone (part : Nat) (ws : List FlashWant) : WholeAt k (f.unmapGone part ws).map := by
  unfold Flash.unmapGone
  extract_lets want mine keep drop n
  dsimp only
  refine WholeAt.mapV (h.filter _) _ fun i u hu => ?_
  split_ifs
  · rfl
  · exact hu

theorem Flash.wholeAt_rewriteOld (part : Nat) (ws : List FlashWant) : WholeAt k (f.rewriteOld part ws).map := by
  unfold Flash.rewriteOld
  refine List.foldlRecOn (motive := fun g : Flash => WholeAt k g.map) _ _ ?_ fun g hg e _ => ?_
  · exact List.foldlRecOn (motive := fun g : Flash => WholeAt k g.map) _ _ h fun g hg e _ => Flash.wholeAt_rewrite hg ..
  · dsimp only
    split_ifs
    · exact hg
    · exact Flash.wholeAt_rewrite hg ..
    · exact Flash.wholeAt_rewrite hg ..
end

/-! ### What frees units (R228) -/

theorem State.forEach_flash {β : Type} {s : State} {l : List β} {f : State → β → State} (h : ∀ s b, (f s b).flash = s.flash) :
    (s.forEach l f).flash = s.flash := State.forEach_keeps (·.flash) l f h s

@[simp] theorem State.removeNode_flash (s : State) (p : Part) (n : Nat) : (s.removeNode p n).flash = s.flash := by
  unfold State.removeNode State.withP
  dsimp only
  split
  · split <;> rfl
  · rfl

section
variable {k : Nat} {s : State} (h : WholeAt k s.flash.map)
include h

theorem State.wholeAt_forEach {β : Type} (l : List β) (f : State → β → State)
    (hf : ∀ s b, WholeAt k s.flash.map → WholeAt k (f s b).flash.map) : WholeAt k (s.forEach l f).flash.map :=
  State.forEach_inv (fun s => WholeAt k s.flash.map) l f hf s h

theorem State.wholeAt_unmap (p : Part) (o : FlashOwner) : WholeAt k (s.unmap p o).flash.map := by
  unfold State.unmap
  dsimp only
  split_ifs
  · exact h
  · exact h.filter _

theorem State.wholeAt_staleUnits (p : Part) (o : FlashOwner) (is_ : List Nat) : WholeAt k (s.staleUnits p o is_).flash.map := by
  unfold State.staleUnits
  extract_lets mark
  refine h.mapV mark fun i u hu => ?_
  unfold mark
  split_ifs
  · exact hu
  · exact hu

theorem State.wholeAt_freeGroup (p : Part) (g : Nat) : WholeAt k (s.freeGroup p g).flash.map := by
  unfold State.freeGroup
  rw [State.updP_flash]
  split
  · exact State.wholeAt_unmap h ..
  · exact h

theorem State.wholeAt_dropGroup (p : Part) (g : Nat) : WholeAt k (s.dropGroup p g).flash.map := by
  unfold State.dropGroup
  split
  · exact h
  · refine State.wholeAt_freeGroup ?_ p g
    change WholeAt k (State.forEach _ _ _).flash.map
    rwa [State.forEach_flash fun s n => State.removeNode_flash s p n]

theorem State.wholeAt_loseBacking (p : Part) (g : Nat) : WholeAt k (s.loseBacking p g).flash.map := by
  unfold State.loseBacking State.reclaim
  rw [State.updGroup_flash, State.updGroup_flash]
  split
  · split_ifs
    · exact State.wholeAt_unmap h ..
    · exact h
  · exact h
end

/-! ### The tier brought up to date -/

@[simp] theorem State.eventParts_flash (s : State) (code status : Nat) (arg : Word) : (s.eventParts code status arg).flash = s.flash :=
  State.forEach_flash fun _ _ => rfl

@[simp] theorem State.eventAll_flash (s : State) (code status : Nat) (arg : Word) : (s.eventAll code status arg).flash = s.flash :=
  State.eventParts_flash s code status arg

/-- Stated for any partitions and any flag, so that the kernel has no share to compute. -/
theorem State.flash_with_parts (s : State) (ps : Tab Partition) : ({ s with parts := ps } : State).flash = s.flash := rfl
theorem State.map_with_short (s : State) (b : Bool) : (s.updFlash fun f => { f with short := b }).flash.map = s.flash.map := rfl

/-- What is brought up to date after a command, in order. -/
theorem State.settleFlash_eq (s : State) : s.settleFlash
    = ((((s.updFlash fun f => { f with waiting := false }).settleReserve.settleShares.forEach (List.finRange 16) fun s p =>
      s.settleMap p).forEach (List.finRange 8) fun s c => s.goOnDetach c).gleanPrio).settleTier s.flash.tier := rfl

section
variable {k : Nat} {s : State} (h : WholeAt k s.flash.map)
include h

theorem State.wholeAt_mapRecord (p : Part) (was : Tab MapUnit) : WholeAt k (s.mapRecord p was).flash.map := by
  unfold State.mapRecord
  dsimp only
  split_ifs
  · exact h
  · change WholeAt k (s.flash.fillRows p.val).map
    rwa [Flash.fillRows_map]

theorem State.wholeAt_settleMap (p : Part) : WholeAt k (s.settleMap p).flash.map := by
  unfold State.settleMap
  split
  · exact h.filter _
  · next t _ =>
    extract_lets was ws s₁ f r n s₂ s₃
    have h₁ : WholeAt k s₁.flash.map := State.wholeAt_forEach h _ _ fun s e hs =>
      State.wholeAt_staleUnits (State.wholeAt_staleUnits hs p (.image e.2.h) e.2.touched) p (.region e.2.h) e.2.touched
    have hf : WholeAt k f.map := Flash.wholeAt_rewriteOld (Flash.wholeAt_unmapGone h₁ p.val ws) p.val ws
    have hr : WholeAt k r.1.map := by
      refine List.foldlRecOn (motive := fun a : Flash × List FlashOwner => WholeAt k a.1.map) _ _ hf fun a ha w _ => ?_
      have hw : WholeAt k (a.1.placeObj p.val (4 * t.shareT2) w).1.map := Flash.wholeAt_placeObj ha ..
      dsimp only
      split_ifs <;> assumption
    have h₂ : WholeAt k s₂.flash.map := State.wholeAt_mapRecord hr p was
    have h₃ : WholeAt k s₃.flash.map := by
      rw [apply_ite State.flash, State.updP_flash, ite_self]
      exact h₂
    refine State.wholeAt_forEach h₃ _ _ fun s o hs => ?_
    split
    · split
      · split_ifs
        · exact State.wholeAt_dropGroup hs ..
        · exact State.wholeAt_loseBacking hs ..
      · exact hs
    · exact hs

theorem State.wholeAt_goOnDetach (c : Slot) : WholeAt k (s.goOnDetach c).flash.map := by
  unfold State.goOnDetach
  extract_lets c was us s₁ s₂
  split
  · exact h
  · have h₁ : WholeAt k s₁.flash.map :=
      List.foldlRecOn (motive := fun g : Flash => WholeAt k g.map) _ _ h fun g hg e _ => Flash.wholeAt_rewrite hg ..
    have h₂ : WholeAt k s₂.flash.map :=
      State.wholeAt_forEach h₁ _ _ fun s p hs => State.wholeAt_mapRecord hs ..
    split
    · exact h₂
    · exact h₂

theorem State.wholeAt_settleReserve : WholeAt k s.settleReserve.flash.map := by
  refine State.wholeAt_forEach h _ _ fun s j hs => ?_
  refine List.foldlRecOn (motive := fun g : Flash => WholeAt k g.map) _ _ hs fun g hg _ _ => ?_
  cases hopen : g.openSb j 0 with
  | none => exact hg
  | some r =>
    change WholeAt k r.1.map
    rwa [Flash.openSb_map hopen]

theorem State.wholeAt_settleShares : WholeAt k s.settleShares.flash.map := by
  unfold State.settleShares
  extract_lets sum u short was s₁ s₂
  have h₂ : s₂.flash.map = s.flash.map := (State.map_with_short s₁ short).trans (congrArg Flash.map (State.flash_with_parts s _))
  split
  · rwa [State.eventParts_flash, h₂]
  · rwa [h₂]

theorem State.wholeAt_gleanPrio : WholeAt k s.gleanPrio.flash.map := h

theorem State.wholeAt_settleTier (before : FlashSt) : WholeAt k (s.settleTier before).flash.map := by
  unfold State.settleTier
  extract_lets f next s₁
  clear_value next
  have h₁ : WholeAt k s₁.flash.map := h
  split
  · exact h₁
  · cases next with
    | readOnly => rwa [State.eventAll_flash]
    | degraded => rwa [State.eventAll_flash]
    | normal =>
      dsimp only
      split
      · rwa [State.eventAll_flash]
      · exact h₁

/-- No unit loses a copy as the tier is brought up to date, and none comes in without one. -/
theorem State.wholeAt_settleFlash : WholeAt k s.settleFlash.flash.map := by
  have hreserve : WholeAt k (s.updFlash fun f => { f with waiting := false }).settleReserve.flash.map := State.wholeAt_settleReserve h
  have hmaps := State.wholeAt_forEach (State.wholeAt_settleShares hreserve) (List.finRange 16) (fun s p => s.settleMap p)
    fun _ p hs => State.wholeAt_settleMap hs p
  have hdetach := State.wholeAt_forEach hmaps (List.finRange 8) (fun s c => s.goOnDetach c) fun _ c hs => State.wholeAt_goOnDetach hs c
  rw [State.settleFlash_eq]
  exact State.wholeAt_settleTier (State.wholeAt_gleanPrio hdetach) _
end

/-! ### A read for partition 0 whose unit number is the key of partition 1's unit 0 -/

/-- A superblock of partition 1's programs. -/
def programBlock : Superblock :=
  { st := .verified, part := 1, stream := 3, members := [(1, 0, 5), (1, 2, 5)], rows := 16, used := 16, wseq := 0, marked := false
    parity := [], lastRead := 0 }
/-- Unit 0 of partition 1; the second copy of its piece 0 is lost. -/
def loneProgramUnit : MapUnit :=
  { owner := .programs, idx := 0, stream := 3, sb := 2, slot := 0, disc := false, gone := [16], stale := false, wseq := 0 }
/-- Of the device's two partitions only partition 1 has anything on flash: the image of its programs. -/
def overlapDevice : State :=
  { State.reset with
    parts := [(0, oneModel), (1, oneModel)]
    journals := [(1, { Journal.empty with images := [.programs] })]
    flash := { Flash.reset with sbs := [(2, programBlock)], map := [(unitKey 1 0, loneProgramUnit)] } }
/-- Piece 0 of the unit cannot be read. -/
def unreadablePiece : Piece := ⟨0, false, [], 0⟩

/-- The loss unmaps partition 0's programs, of which there are none. -/
theorem unit_stays_on_overlapDevice : ∃ u,
    exec (.flashReadDone 0 (2 ^ 32) ⟨unreadablePiece, .unreadable false false⟩) overlapDevice = .next u
      ∧ u.flash.map.find (unitKey 0 (2 ^ 32)) = some loneProgramUnit :=
  ⟨_, exec_flashReadDone .., by decide +kernel⟩

/-- Refutes O46: nothing keeps the unit number of a read below 2^32, and from there on `unitKey` gives the key of another partition's unit.
The read of this state names unit 2^32 of partition 0, which is unit 0 of partition 1: the loss unmaps the object of partition 0 alone, and
the unit that was read stays mapped. The clause lacks `unit < 2 ^ 32`. -/
theorem not_flashResults : ¬ Obligations.FlashResults := by
  unfold Obligations.FlashResults
  intro h
  obtain ⟨-, -, -, -, -, hlost, -⟩ := h overlapDevice 2 programBlock rfl (by decide)
  obtain ⟨v, hv, hnone⟩ := hlost 0 (2 ^ 32) unreadablePiece loneProgramUnit (by decide +kernel) rfl rfl rfl (.inl rfl)
    (fun _ _ howner => by cases howner)
  obtain ⟨u, hu, hfind⟩ := unit_stays_on_overlapDevice
  have hsettled : u = v.settleFlash := Host.Outcome.next.inj (hu.symm.trans hv)
  rw [hsettled] at hfind
  have hgone : loneProgramUnit.gone = [] := (State.wholeAt_settleFlash (wholeAt_of_find_none hnone)).gone_of_find hfind
  exact absurd hgone (by decide)

end Sys2Proof.Machine
end

section
/-! SUPPORT. The detach of a carrier in service (10 R233), and a state in which the statement about carriers fails. -/

namespace Sys2Proof.Machine
open Sys2Proof.Cert

/-! ### The slots of the carriers -/

theorem State.slot_updSlot (s : State) (k : Slot) (f : Carrier → Carrier) : (s.updSlot k f).slot k = f (s.slot k) := by
  simp [State.slot, State.updSlot, State.updFlash, Tab.getD]

/-- A slot's record lies in the flash tier's table alone. -/
theorem State.slot_of_slots {s u : State} (h : u.flash.slots = s.flash.slots) (k : Slot) : u.slot k = s.slot k := by
  rw [State.slot, State.slot, h]

/-! ### The start of a detach (R233) -/

theorem State.abandon_slots (s : State) (id : Nat) : (s.abandon id).flash.slots = s.flash.slots :=
  State.forEach_keeps (·.flash.slots) _ _ (fun s kv => by dsimp only; split_ifs <;> rfl) s

theorem Flash.closeSpanning_slots (f : Flash) (id : Nat) : (f.closeSpanning id).slots = f.slots :=
  List.foldlRecOn (motive := fun g : Flash => g.slots = f.slots) _ _ rfl fun _ h _ _ => h

theorem exec_carrierDetach_inService {s : State} {k : Slot} (ha : Awake s) (hst : (s.slot k).st = .inService) :
    exec (.carrierDetach k) s = .next ((s.startDetach k).answer .ok) := by
  change execCarrierDetach k s = _
  simp only [execCarrierDetach, State.wakeDevice_of_awake ha, if_pos hst]

/-- A detach whose slot holds the number of a record already goes no further. -/
theorem State.goOnDetach_of_numbered {s : State} {k : Slot} {j : Nat} (h : (s.slot k).detachJseq = some j) : s.goOnDetach k = s := by
  simp [State.goOnDetach, h]

/-- With such a number in the slot, the start of a detach changes the slot's state alone. -/
theorem State.slot_startDetach_of_numbered {s : State} {k : Slot} {j : Nat} (h : (s.slot k).detachJseq = some j) :
    (s.startDetach k).slot k = { s.slot k with st := .detaching } := by
  let id := (s.slot k).id
  let v := ((s.updSlot k fun c => { c with st := .detaching }).abandon id).updFlash fun f => f.closeSpanning id
  have hv : v.slot k = { s.slot k with st := .detaching } :=
    (State.slot_of_slots ((Flash.closeSpanning_slots _ id).trans (State.abandon_slots _ id)) k).trans (State.slot_updSlot ..)
  have hstop : s.startDetach k = v := State.goOnDetach_of_numbered (by rw [hv]; exact h)
  rw [hstop, hv]

/-! ### A carrier in service whose slot holds the number of a clean-detach record -/

def numberedCarrier : Carrier := { Carrier.empty with st := .inService, detachJseq := some 1 }
def numberedDevice : State := { State.reset with flash := { Flash.reset with slots := [(0, numberedCarrier)] } }

/-- Refutes O48: the clause on CARRIER_DETACH and CARRIER_ATTENTION takes a carrier in service and does not ask that its slot hold no
number of a clean-detach record, which no command leaves there but no hypothesis excludes. The detach of this state's carrier takes that
number for its own and stops before it advances the epoch. The clause lacks `c.detachJseq = none`. -/
theorem not_carrierResults : ¬ Obligations.CarrierResults := by
  unfold Obligations.CarrierResults
  intro h
  obtain ⟨-, -, -, -, -, -, -, -, -, -, -, -, -, hdetach, -⟩ := h numberedDevice 0
  have hawake : Awake numberedDevice := by decide
  obtain ⟨u, c, j, hu, hc, -, -, -, hepoch, -⟩ :=
    hdetach hawake rfl (fun e he => absurd he List.not_mem_nil) (.carrierDetach 0) (by simp)
  obtain rfl : u = (numberedDevice.startDetach 0).answer .ok :=
    Host.Outcome.next.inj (hu.symm.trans (exec_carrierDetach_inService hawake rfl))
  have hkept : c = { numberedCarrier with st := .detaching } := hc.symm.trans (State.slot_startDetach_of_numbered (j := 1) rfl)
  rw [hkept] at hepoch
  exact absurd hepoch (by decide)

end Sys2Proof.Machine
end

section
/-! SUPPORT. Dynamic Capacity (11 R251 to R254): the primary mailbox when it serves and before service-ready, what each extent command does
where the extent that it names is the only one, and the window's bytes where a range is zeroed. -/

namespace Sys2Proof.Machine
open Sys2Proof.Cert

/-! ### The arms of the extent commands -/

theorem exec_initiateDcAdd (p : Part) (dpa n : Nat) (tag : BitVec 128) (s : State) :
    exec (.initiateDcAdd p dpa n tag) s = execInitiateDcAdd p dpa n tag s := rfl
theorem exec_dcCapacityFreed (p : Part) (dpa : Nat) (s : State) : exec (.dcCapacityFreed p dpa) s = execDcCapacityFreed p dpa s := rfl
theorem exec_dcReserveTimeout (p : Part) (dpa : Nat) (s : State) : exec (.dcReserveTimeout p dpa) s = execDcReserveTimeout p dpa s := rfl
theorem exec_addDcResponse (p : Part) (dpa : Nat) (b : Bool) (s : State) :
    exec (.addDcResponse p dpa b) s = execAddDcResponse p dpa b s := rfl
theorem exec_dcOfferTimeout (p : Part) (dpa : Nat) (s : State) : exec (.dcOfferTimeout p dpa) s = execDcOfferTimeout p dpa s := rfl
theorem exec_releaseDc (p : Part) (l : List (Nat × Nat)) (s : State) : exec (.releaseDc p l) s = execReleaseDc p l s := rfl
theorem exec_initiateDcForcedRelease (p : Part) (dpa : Nat) (s : State) :
    exec (.initiateDcForcedRelease p dpa) s = execInitiateDcForcedRelease p dpa s := rfl
theorem exec_extentDrained (p : Part) (dpa : Nat) (s : State) : exec (.extentDrained p dpa) s = execExtentDrained p dpa s := rfl

/-! ### The primary mailbox (Table 14-13; 15 R352) -/

/-- The device is awake and past service-ready with its own firmware: a primary mailbox serves its commands. -/
abbrev MailboxServes (s : State) : Prop :=
  Awake s ∧ s.power.configReady = true ∧ s.ident.waiting = false ∧ s.power.serviceReady = true

theorem State.mailboxCmd_of_serves {s : State} (h : MailboxServes s) (p : Part) (f : State → State) : s.mailboxCmd p f = f s := by
  obtain ⟨ha, hc, hw, hr⟩ := h
  simp [State.mailboxCmd, State.wakeDevice_of_awake ha, State.answers, hc, hw, hr]

theorem State.mailboxCmd_not_ready {s : State} (ha : Awake s) (hc : s.power.configReady = true) (hw : s.ident.waiting = false)
    (hr : s.power.serviceReady = false) (p : Part) (f : State → State) : s.mailboxCmd p f = s.mbox .busy := by
  simp [State.mailboxCmd, State.wakeDevice_of_awake ha, State.answers, hc, hw, hr]

/-! ### Zeroed bytes of the window -/

theorem Bytes.rd_one (m : Bytes) (a : Nat) : m.rd a 1 = [m.rd1 a] := rfl

/-- A byte whose cell a filter drops reads as 0. -/
theorem Bytes.rd1_filter_dropped {m : Bytes} {f : Host.Cell → Bool} {a : Nat} (h : ∀ b, f (a, b) = false) :
    Bytes.rd1 (m.filter f) a = 0 := by
  induction m with
  | nil => rfl
  | cons c m ih =>
    obtain ⟨k, b⟩ := c
    by_cases hk : k = a
    · rw [List.filter_cons_of_neg (by simp [hk, h]), ih]
    · by_cases hf : f (k, b) = true
      · rw [List.filter_cons_of_pos hf, Bytes.rd1, if_neg hk, ih]
      · rw [List.filter_cons_of_neg hf, ih]

theorem Ld.zero_window_rd (l : Ld) {dpa len a : Nat} (hlow : dpa ≤ a) (hhigh : a < dpa + len) : (l.zero dpa len).window.rd a 1 = [0] := by
  have hdropped : Bytes.rd1 (l.zero dpa len).window a = 0 := Bytes.rd1_filter_dropped fun _ => by
    simp only [decide_eq_false_iff_not, Bool.or_eq_false_iff]
    omega
  rw [Bytes.rd_one, hdropped]

/-! ### Counters and events -/

theorem Tab.getD_put_ne {α : Type} (t : Tab α) {i j : Nat} (v d : α) (h : j ≠ i) : (t.put i v).getD j d = t.getD j d := by
  rw [Tab.getD, Tab.find_put_ne t v h, Tab.getD]

theorem Partition.getD_count_ne (t : Partition) {i j : Nat} (n : Nat) (h : j ≠ i) :
    (t.count i n).counters.getD j 0 = t.counters.getD j 0 := by
  unfold Partition.count
  split
  · rfl
  · exact Tab.getD_put_ne _ _ _ h

theorem Partition.getD_count_one (t : Partition) (i : Nat) :
    (t.count i 1).counters.getD i 0 = (t.counters.getD i 0 + 1) % 2 ^ 64 := by
  rw [Partition.count_one, Tab.getD_put_self]

@[simp] theorem Partition.count_ld (t : Partition) (i n : Nat) : (t.count i n).ld = t.ld := by
  unfold Partition.count; split <;> rfl

/-- An event changes a partition's log and its count of lost events alone. -/
theorem State.prt_event_keeps {s : State} {p : Part} {t : Partition} (hp : s.prt p = some t) (code status : Nat) (object arg : Word) :
    ∃ v, (s.event p code status object arg).prt p = some v ∧ v.ld = t.ld
      ∧ ∀ i, i ≠ cEventsLost → v.counters.getD i 0 = t.counters.getD i 0 :=
  ⟨_, State.prt_updP_of_prt hp _, Partition.count_ld .., fun _ hi => Partition.getD_count_ne _ _ hi⟩

/-! ### Extents -/

/-- A partition whose logical device has these extents in place of its own. -/
def Partition.withExtents (t : Partition) (es : List Extent) : Partition := { t with ld := { t.ld with extents := es } }

/-- A partition's logical device has one more extent. -/
def State.addExtent (s : State) (p : Part) (e : Extent) : State := s.updP p fun t => t.withExtents (insertExtent e t.ld.extents)

/-- No region of a partition lies in its window. -/
abbrev Partition.NoWindowRegion (t : Partition) : Prop := ∀ r ∈ t.regions, r.2.home ≠ 3

theorem Partition.regionsIn_nil {t : Partition} (h : t.NoWindowRegion) (dpa len : Nat) : t.regionsIn dpa len = [] :=
  List.filter_eq_nil_iff.2 fun r hr => by simp [h r hr]

/-- The selection of a partition without groups is empty. -/
theorem Partition.winnowOrder_of_no_groups {t : Partition} (h : t.groups = []) (et : BitVec 16 → Bool) (tier : Tier) (minAge : Nat) :
    t.winnowOrder et tier minAge = [] := by rw [Partition.winnowOrder, h]; rfl

/-- Extents that a list of ranges names: accepted ones that a range meets (log entry 164). -/
def Ld.namedBy (l : Ld) (ranges : List (Nat × Nat)) : List Extent :=
  l.extents.filter fun e => e.st == .accepted && ranges.any fun r => r.1 < e.dpa + e.len && e.dpa < r.1 + r.2
/-- How much of a range lies in some extents. -/
def coveredBytes (es : List Extent) (r : Nat × Nat) : Nat := (es.map fun e => min (r.1 + r.2) (e.dpa + e.len) - max r.1 e.dpa).sum
/-- One extent goes from accepted to releasing, with its event. -/
def State.releaseExtent (s : State) (p : Part) (e : Extent) : State :=
  (s.updExtent p e.dpa .accepted fun e => some { e with st := .releasing }).event p evExtentReleased 0 0 (BitVec.ofNat 64 e.dpa)

section
variable {s : State} {p : Part} {t : Partition} (hp : s.prt p = some t)
include hp

theorem State.extent?_of_prt (dpa : Nat) (st : ExtentSt) :
    s.extent? p dpa st = t.ld.extents.find? fun e => e.dpa == dpa && e.st == st := by
  rw [State.extent?, hp, Option.bind_some]

theorem State.extent?_none {dpa : Nat} {st : ExtentSt} (h : ∀ e ∈ t.ld.extents, ¬ (e.dpa = dpa ∧ e.st = st)) :
    s.extent? p dpa st = none := by
  rw [State.extent?_of_prt hp, List.find?_eq_none]
  exact fun e he => by simpa using h e he

/-- RELEASE_DC at a mailbox that serves, in the order of its checks (Table 11-4). -/
theorem exec_releaseDc_of_serves (hm : MailboxServes s) (ranges : List (Nat × Nat)) : exec (.releaseDc p ranges) s = .next
    (if (t.ld.namedBy ranges).any fun e => (t.regionsIn e.dpa e.len).any fun r => r.2.keepsExtent then s.mbox .invalidInput
    else if ranges.any fun r => !(decide (coveredBytes (t.ld.namedBy ranges) r = r.2)) || r.2 == 0 then s.mbox .invalidExtentList
    else (s.forEach (t.ld.namedBy ranges) fun s e => s.releaseExtent p e).mbox .success) := by
  rw [exec_releaseDc, execReleaseDc, State.mailboxCmd_of_serves hm, hp]
  rfl

theorem exec_initiateDcAdd_refuses (ha : Awake s) {dpa n : Nat} (h : t.mayAdd dpa (n * dcBlock) = false) (tag : BitVec 128) :
    exec (.initiateDcAdd p dpa n tag) s = .next (s.mbox .invalidInput) := by
  simp only [exec_initiateDcAdd, execInitiateDcAdd, State.wakeDevice_of_awake ha, hp, h, Bool.not_false, if_true]

/-- A partition without groups has no candidate to evict, so that the extent waits with nothing else changed. -/
theorem exec_initiateDcAdd_reserves (ha : Awake s) {dpa n : Nat} (h : t.mayAdd dpa (n * dcBlock) = true) (hg : t.groups = [])
    (tag : BitVec 128) :
    exec (.initiateDcAdd p dpa n tag) s = .next ((s.addExtent p ⟨dpa, n * dcBlock, tag, .reserving⟩).mbox .success) := by
  let w := s.addExtent p ⟨dpa, n * dcBlock, tag, .reserving⟩
  have hcands : (w.getP p [] fun u => u.winnowOrder w.isEt .t1b 0) = [] :=
    (State.getP_of_prt (State.prt_updP_of_prt hp _) ..).trans (Partition.winnowOrder_of_no_groups hg ..)
  simp only [exec_initiateDcAdd, execInitiateDcAdd, State.wakeDevice_of_awake ha, hp, h, Bool.not_true, Bool.false_eq_true, if_false]
  exact congrArg (fun cs => Host.Outcome.next ((w.freeT1b p cs).mbox .success)) hcands

theorem exec_addDcResponse_not_offered (hm : MailboxServes s) {dpa : Nat} (h : ∀ e ∈ t.ld.extents, ¬ (e.dpa = dpa ∧ e.st = .offered))
    (b : Bool) : exec (.addDcResponse p dpa b) s = .next (s.mbox .invalidExtentList) := by
  rw [exec_addDcResponse, execAddDcResponse, State.mailboxCmd_of_serves hm, State.extent?_none hp h]
  rfl

/-! ### The only extent of a logical device -/

variable {e : Extent} (he : t.ld.extents = [e])
include he

theorem State.extent?_only {st : ExtentSt} (hst : e.st = st) : s.extent? p e.dpa st = some e := by
  simp [State.extent?_of_prt hp, he, hst]

theorem State.extent?_other {st : ExtentSt} (hst : e.st ≠ st) (dpa : Nat) : s.extent? p dpa st = none :=
  State.extent?_none hp fun f hf h => hst (by rw [he, List.mem_singleton] at hf; exact hf ▸ h.2)

theorem State.prt_updExtent_only {st : ExtentSt} (hst : e.st = st) (f : Extent → Option Extent) :
    (s.updExtent p e.dpa st f).prt p = some (t.withExtents (f e).toList) := by
  rw [State.updExtent, State.prt_updP_of_prt hp, he]
  cases hf : f e <;> simp [hst, hf, Partition.withExtents]

theorem exec_dcCapacityFreed_offers (hst : e.st = .reserving) (hfree : t.overT1b = 0) :
    ∃ u t', exec (.dcCapacityFreed p e.dpa) s = .next u ∧ u.prt p = some t'
      ∧ t'.ld.extents = [{ e with st := .offered }] ∧ t'.ld.dcEvents = t.ld.dcEvents ++ [⟨false, e.dpa, e.len, e.tag, 0, 0, 0⟩]
      ∧ ∀ a, e.dpa ≤ a → a < e.dpa + e.len → t'.ld.window.rd a 1 = [0] := by
  rw [exec_dcCapacityFreed, execDcCapacityFreed, State.extent?_only hp he hst]
  simp only [State.getP_of_prt hp, hfree, ne_eq, not_true_eq_false, decide_false, Bool.false_eq_true, if_false]
  exact ⟨_, _, rfl, State.prt_updP_of_prt (State.prt_updExtent_only hp he hst _) _, rfl, rfl, fun a => Ld.zero_window_rd _⟩

theorem exec_dcCapacityFreed_waits (hst : e.st = .reserving) (hover : t.overT1b ≠ 0) : exec (.dcCapacityFreed p e.dpa) s = .next s := by
  rw [exec_dcCapacityFreed, execDcCapacityFreed, State.extent?_only hp he hst]
  simp [State.getP_of_prt hp, hover]

theorem exec_dcReserveTimeout_drops (hst : e.st = .reserving) : ∃ u t', exec (.dcReserveTimeout p e.dpa) s = .next u
    ∧ u.prt p = some t' ∧ t'.ld.extents = [] ∧ u.reply = some ⟨.ok, some .resourcesExhausted, 0, [], false⟩ := by
  rw [exec_dcReserveTimeout, execDcReserveTimeout, State.extent?_only hp he hst, if_pos Option.isSome_some]
  exact ⟨_, _, rfl, State.prt_updExtent_only hp he hst _, rfl, rfl⟩

theorem exec_dcOfferTimeout_drops (hst : e.st = .offered) :
    ∃ u t', exec (.dcOfferTimeout p e.dpa) s = .next u ∧ u.prt p = some t' ∧ t'.ld.extents = [] :=
  ⟨_, _, rfl, State.prt_updExtent_only hp he hst _, rfl⟩

theorem exec_addDcResponse_accepts (hm : MailboxServes s) (hst : e.st = .offered) :
    ∃ u t', exec (.addDcResponse p e.dpa true) s = .next u ∧ u.prt p = some t' ∧ t'.ld.extents = [{ e with st := .accepted }]
      ∧ u.reply = some ⟨.ok, some .success, 0, [], false⟩
      ∧ t'.counters.getD cExtentsAdded 0 = (t.counters.getD cExtentsAdded 0 + 1) % 2 ^ 64 := by
  rw [exec_addDcResponse, execAddDcResponse, State.mailboxCmd_of_serves hm, State.extent?_only hp he hst]
  exact ⟨_, _, rfl, State.prt_count_of_prt (State.prt_updExtent_only hp he hst _) .., congrArg Ld.extents (Partition.count_ld ..), rfl,
    Partition.getD_count_one ..⟩

theorem exec_addDcResponse_rejects (hm : MailboxServes s) (hst : e.st = .offered) :
    ∃ u t', exec (.addDcResponse p e.dpa false) s = .next u ∧ u.prt p = some t' ∧ t'.ld.extents = []
      ∧ u.reply = some ⟨.ok, some .success, 0, [], false⟩ := by
  rw [exec_addDcResponse, execAddDcResponse, State.mailboxCmd_of_serves hm, State.extent?_only hp he hst]
  exact ⟨_, _, rfl, State.prt_updExtent_only hp he hst _, rfl, rfl⟩

/-! ### Releases (Tables 11-4, 11-5) -/

omit hp in
/-- A range that begins with the extent and is no shorter names it. -/
theorem Ld.namedBy_only (hst : e.st = .accepted) (hlen : 0 < e.len) (k : Nat) : t.ld.namedBy [(e.dpa, e.len + k)] = [e] := by
  rw [Ld.namedBy, he, List.filter_eq_self]
  simp [hst, hlen]

omit hp he in
/-- Only the extent's own bytes of such a range are covered. -/
theorem coveredBytes_only (e : Extent) (k : Nat) : coveredBytes [e] (e.dpa, e.len + k) = e.len := by
  simp [coveredBytes]

theorem exec_releaseDc_releases (hm : MailboxServes s) (hst : e.st = .accepted) (hlen : 0 < e.len) (hno : t.NoWindowRegion) :
    ∃ u t', exec (.releaseDc p [(e.dpa, e.len)]) s = .next u ∧ u.prt p = some t'
      ∧ t'.ld.extents = [{ e with st := .releasing }] ∧ u.reply = some ⟨.ok, some .success, 0, [], false⟩ := by
  have hnamed : t.ld.namedBy [(e.dpa, e.len)] = [e] := Ld.namedBy_only he hst hlen 0
  have hcovered : coveredBytes [e] (e.dpa, e.len) = e.len := coveredBytes_only e 0
  obtain ⟨v, hv, hld, -⟩ := State.prt_event_keeps (State.prt_updExtent_only hp he hst fun e => some { e with st := .releasing })
    evExtentReleased 0 0 (BitVec.ofNat 64 e.dpa)
  have hexec : exec (.releaseDc p [(e.dpa, e.len)]) s = .next ((s.releaseExtent p e).mbox .success) := by
    simp [exec_releaseDc_of_serves hp hm, hnamed, Partition.regionsIn_nil hno, hcovered, hlen.ne']
  exact ⟨_, v, hexec, hv, congrArg Ld.extents hld, rfl⟩

/-- A valid window region that meets the extent keeps it. -/
theorem exec_releaseDc_kept (hm : MailboxServes s) (hst : e.st = .accepted) (hlen : 0 < e.len) {r : Nat × Region} (hr : r ∈ t.regions)
    (hhome : r.2.home = 3) (hb : r.2.binding = none) (hlow : r.2.dpa < e.dpa + e.len) (hhigh : e.dpa < r.2.dpa + r.2.size)
    (hvalid : r.2.st = .valid) : exec (.releaseDc p [(e.dpa, e.len)]) s = .next (s.mbox .invalidInput) := by
  have hnamed : t.ld.namedBy [(e.dpa, e.len)] = [e] := Ld.namedBy_only he hst hlen 0
  have hin : r ∈ t.regionsIn e.dpa e.len := List.mem_filter.2 ⟨hr, by simp [hhome, hb, hlow, hhigh]⟩
  have hkeeps : ((t.regionsIn e.dpa e.len).any fun r => r.2.keepsExtent) = true :=
    List.any_eq_true.2 ⟨r, hin, by simp [Region.keepsExtent, hvalid]⟩
  simp [exec_releaseDc_of_serves hp hm, hnamed, hkeeps]

theorem exec_releaseDc_outside (hm : MailboxServes s) (hst : e.st = .accepted) (hlen : 0 < e.len) (hno : t.NoWindowRegion) {k : Nat}
    (hk : k ≠ 0) : exec (.releaseDc p [(e.dpa, e.len + k)]) s = .next (s.mbox .invalidExtentList) := by
  simp [exec_releaseDc_of_serves hp hm, Ld.namedBy_only he hst hlen, Partition.regionsIn_nil hno, coveredBytes_only, hk]

theorem exec_initiateDcForcedRelease_fences (ha : Awake s) (hst : e.st = .accepted) (hno : t.NoWindowRegion) :
    ∃ (v : State) (t' : Partition),
      exec (.initiateDcForcedRelease p e.dpa) s = .next (v.settleVersions.settleFlash.mbox .success) ∧ v.prt p = some t'
        ∧ t'.ld.extents = [{ e with st := .fenced }] ∧ t'.ld.dcEvents = t.ld.dcEvents ++ [⟨true, e.dpa, e.len, e.tag, 0, 0, 0⟩]
        ∧ t'.counters.getD cExtentsForced 0 = (t.counters.getD cExtentsForced 0 + 1) % 2 ^ 64 := by
  rw [exec_initiateDcForcedRelease, execInitiateDcForcedRelease]
  simp only [State.wakeDevice_of_awake ha, State.extent?_only hp he hst, State.getP_of_prt hp, Partition.regionsIn_nil hno]
  have hfenced := State.prt_count_of_prt (State.prt_updExtent_only hp he hst fun e => some { e with st := .fenced }) cExtentsForced 1
  obtain ⟨v, hv, hld, hcount⟩ := State.prt_event_keeps (State.prt_updP_of_prt hfenced fun t =>
      { t with ld := { t.ld with dcEvents := t.ld.dcEvents ++ [⟨true, e.dpa, e.len, e.tag, 0, 0, 0⟩] } })
    Status.extentRevoked.code.toNat Status.extentRevoked.code.toNat 0 (BitVec.ofNat 64 e.dpa)
  refine ⟨_, v, rfl, hv, ?_, ?_, ?_⟩
  · rw [hld, Partition.count_ld]; rfl
  · rw [hld, Partition.count_ld]; rfl
  · rw [hcount _ (by decide)]; exact Partition.getD_count_one ..

theorem exec_extentDrained_frees (hst : e.st = .releasing ∨ e.st = .fenced) : ∃ u t', exec (.extentDrained p e.dpa) s = .next u
    ∧ u.prt p = some t' ∧ t'.ld.extents = [] ∧ ∀ a, e.dpa ≤ a → a < e.dpa + e.len → t'.ld.window.rd a 1 = [0] := by
  have hfound : (s.extent? p e.dpa .releasing).or (s.extent? p e.dpa .fenced) = some e := by
    rcases hst with hst | hst
    · rw [State.extent?_only hp he hst, Option.some_or]
    · rw [State.extent?_other hp he (by simp [hst]), Option.none_or, State.extent?_only hp he hst]
  rw [exec_extentDrained, execExtentDrained, hfound]
  exact ⟨_, _, rfl, State.prt_updP_of_prt hp _, by simp [Ld.zero, he], fun a => Ld.zero_window_rd _⟩

theorem exec_extentDrained_accepted (hst : e.st = .accepted) : exec (.extentDrained p e.dpa) s = .next s := by
  rw [exec_extentDrained, execExtentDrained, State.extent?_other hp he (by simp [hst]), State.extent?_other hp he (by simp [hst])]
  rfl
end

/-! ### The obligation -/

/-- Settles O53: one clause for each state of the extent and each command that finds it there. -/
theorem extentResults : Obligations.ExtentResults := by
  unfold Obligations.ExtentResults
  intro s p t ha hp
  refine ⟨fun dpa n tag h => exec_initiateDcAdd_refuses hp ha h tag, ?reserve, ?reserving, ?busy, ?offered, ?notOffered, ?accepted,
    fun e he hst => exec_extentDrained_frees hp he hst, fun e he hst => exec_extentDrained_accepted hp he hst⟩
  case reserve =>
    intro dpa n tag h hg _ _ _
    exact ⟨_, _, exec_initiateDcAdd_reserves hp ha h hg tag, rfl, State.prt_updP_of_prt hp _, rfl⟩
  case reserving =>
    intro e he hst
    exact ⟨exec_dcCapacityFreed_offers hp he hst, exec_dcCapacityFreed_waits hp he hst, exec_dcReserveTimeout_drops hp he hst⟩
  case busy =>
    intro hr hc hw dpa b l
    exact ⟨congrArg _ (State.mailboxCmd_not_ready ha hc hw hr ..), congrArg _ (State.mailboxCmd_not_ready ha hc hw hr ..)⟩
  case offered =>
    intro e he hst hc hw hr
    have hm : MailboxServes s := ⟨ha, hc, hw, hr⟩
    exact ⟨exec_addDcResponse_accepts hp he hm hst, exec_addDcResponse_rejects hp he hm hst, exec_dcOfferTimeout_drops hp he hst⟩
  case notOffered => exact fun dpa b h hc hw hr => exec_addDcResponse_not_offered hp ⟨ha, hc, hw, hr⟩ h b
  case accepted =>
    intro e he hst hlen hc hw hr
    have hm : MailboxServes s := ⟨ha, hc, hw, hr⟩
    exact ⟨exec_releaseDc_releases hp he hm hst hlen, fun r => exec_releaseDc_kept hp he hm hst hlen,
      fun hno => exec_releaseDc_outside hp he hm hst hlen hno (by decide), exec_initiateDcForcedRelease_fences hp he ha hst⟩

end Sys2Proof.Machine
end

section
/-! SUPPORT. Streams of the link (11 R258), pushed firmware (15 R352), quotes and their budget (15 R354 to R356), and presence with the seal
loop (15 R357 to R360; 19 R419, R420): what each shared operation does in each of its cases. -/

namespace Sys2Proof.Machine
open Sys2Proof.Cert

/-! ### The arms of the commands -/

theorem exec_ideStreamEstablish (who : Requester) (st : IdeStream) (b : Bool) (s : State) :
    exec (.ideStreamEstablish who st b) s = execIdeStreamEstablish who st b s := rfl
theorem exec_ideFailure (st : IdeStream) (s : State) : exec (.ideFailure st) s = execIdeFailure st s := rfl
theorem exec_getFwInfo (p : Part) (s : State) : exec (.getFwInfo p) s = execGetFwInfo p s := rfl
theorem exec_transferFw (p : Part) (img : FwImage) (s : State) : exec (.transferFw p img) s = execTransferFw p img s := rfl
theorem exec_activateFw (p : Part) (s : State) : exec (.activateFw p) s = execActivateFw p s := rfl
theorem exec_spdmChallenge (who : Requester) (s : State) : exec (.spdmChallenge who) s = execSpdmChallenge who s := rfl
theorem exec_spdmKeyExchange (who : Requester) (s : State) : exec (.spdmKeyExchange who) s = execSpdmKeyExchange who s := rfl
theorem exec_spdmGetMeasurements (who : Requester) (i : Nat) (b : Bool) (s : State) :
    exec (.spdmGetMeasurements who i b) s = execSpdmGetMeasurements who i b s := rfl
theorem exec_cdatTableAccess (who : Requester) (s : State) : exec (.cdatTableAccess who) s = execCdatTableAccess who s := rfl
theorem exec_pwrCyclesTick (s : State) : exec .pwrCyclesTick s = execPwrCyclesTick s := rfl
theorem exec_presencePress (s : State) : exec .presencePress s = execPresencePress s := rfl
theorem exec_presenceExpiry (s : State) : exec .presenceExpiry s = execPresenceExpiry s := rfl
theorem exec_sealBreak (s : State) : exec .sealBreak s = .next s.breakSeal := rfl
theorem exec_sealBitCheck (b : Bool) (s : State) : exec (.sealBitCheck b) s = execSealBitCheck b s := rfl

/-! ### Streams are established (11 R258) -/

section
variable {s : State} (ha : Awake s) (hc : s.power.configReady = true)
include ha hc

theorem exec_ideStreamEstablish_secures {who : Requester} {st : IdeStream} (hmay : ideMay who st = true) :
    ∃ u, exec (.ideStreamEstablish who st true) s = .next u ∧ u.reply = some ⟨.ok, some .success, 0, [], false⟩
      ∧ st ∈ u.cxl.secure ∧ st ∉ u.cxl.insecure := by
  simp only [exec_ideStreamEstablish, execIdeStreamEstablish, State.wakeDevice_of_awake ha, hc, hmay, Bool.not_true, Bool.or_self,
    Bool.false_eq_true, if_false]
  refine ⟨_, rfl, rfl, ?_, fun h => by simp [State.mbox] at h⟩
  change st ∈ if s.cxl.secure.contains st = true then s.cxl.secure else s.cxl.secure ++ [st]
  split
  · exact List.contains_iff_mem.1 ‹_›
  · exact List.mem_append_right _ (List.mem_singleton_self st)

theorem exec_ideStreamEstablish_refuses {who : Requester} {st : IdeStream} {secured : Bool}
    (h : ideMay who st = false ∨ secured = false) :
    exec (.ideStreamEstablish who st secured) s = .next (s.mbox .unsupported) := by
  have hrefused : (!(ideMay who st) || !secured) = true := by rcases h with h | h <;> simp [h]
  rw [exec_ideStreamEstablish, execIdeStreamEstablish, State.wakeDevice_of_awake ha, hc, hrefused]
  rfl
end

/-! ### A stream fails: partitions are fenced -/

theorem State.fencePart_inactive {s : State} (h : ∀ e ∈ s.parts, e.2.st ≠ .active) (cause : Nat) (p : Part) :
    s.fencePart cause p = s := by
  cases hp : s.prt p with
  | none => rw [State.fencePart, hp]
  | some t => rw [State.fencePart, hp]; exact if_pos (h _ (Tab.mem_of_find hp))

/-- An active partition with no step and no queue pair is fenced with nothing else changed. -/
theorem State.fencePart_quiet {s : State} {p : Part} {t : Partition} (hp : s.prt p = some t) (hact : t.st = .active) (hsteps : t.steps = [])
    (hqps : t.qps = []) (cause : Nat) : s.fencePart cause p = s.updP p fun t => { t with st := .fenced, fenceCause := cause } := by
  rw [State.fencePart, hp]
  simp [hact, hsteps, hqps]

/-- The stream goes to the insecure state. -/
def State.loseStream (s : State) (st : IdeStream) : State :=
  { s with cxl := { secure := s.cxl.secure.filter (· ≠ st), insecure := s.cxl.insecure ++ [st] } }

section
variable {s : State} {st : IdeStream}

theorem exec_ideFailure_of_secure (h : st ∈ s.cxl.secure) : exec (.ideFailure st) s
    = .next (((s.loseStream st).forEach ((List.finRange 16).filter fun p => s.carries st p) fun s p => s.fencePart 4 p).devEvent
        evIdeFailed 0 0 0) := by
  rw [exec_ideFailure, execIdeFailure, List.contains_iff_mem.2 h]
  rfl

theorem exec_ideFailure_of_not_secure (h : st ∉ s.cxl.secure) : exec (.ideFailure st) s = .next s := by
  rw [exec_ideFailure, execIdeFailure, if_pos (by simpa using h)]

theorem exec_ideFailure_inactive (h : st ∈ s.cxl.secure) (hin : ∀ e ∈ s.parts, e.2.st ≠ .active) :
    ∃ u, exec (.ideFailure st) s = .next u ∧ st ∉ u.cxl.secure ∧ st ∈ u.cxl.insecure ∧ u.parts = s.parts := by
  have hnone : ∀ ps : List Part, ((s.loseStream st).forEach ps fun s p => s.fencePart 4 p) = s.loseStream st := fun ps =>
    State.forEach_inv (· = s.loseStream st) ps (fun s p => s.fencePart 4 p)
      (fun u p hu => by rw [hu]; exact State.fencePart_inactive (s := s.loseStream st) hin 4 p) _ rfl
  rw [exec_ideFailure_of_secure h, hnone]
  exact ⟨_, rfl, by simp [State.devEvent, State.loseStream], by simp [State.devEvent, State.loseStream], rfl⟩

/-- A selective stream carries the traffic of its own LD alone. -/
theorem State.carries_sel (s : State) (p : Part) : ((List.finRange 16).filter fun q => s.carries (.sel p) q) = [p] := by
  change ((List.finRange 16).filter fun q => p == q) = [p]
  decide +revert

theorem exec_ideFailure_selective {p : Part} {t : Partition} (h : .sel p ∈ s.cxl.secure) (hp : s.prt p = some t) (hact : t.st = .active)
    (hsteps : t.steps = []) (hqps : t.qps = []) : ∃ u, exec (.ideFailure (.sel p)) s = .next u
      ∧ u.prt p = some { t with st := .fenced, fenceCause := 4 } ∧ ∀ o, o ≠ p → u.prt o = s.prt o := by
  have hp' : (s.loseStream (.sel p)).prt p = some t := hp
  rw [exec_ideFailure_of_secure h, State.carries_sel, State.forEach_cons, State.forEach_nil,
    State.fencePart_quiet hp' hact hsteps hqps]
  exact ⟨_, rfl, State.prt_updP_of_prt hp' _, fun o ho => State.prt_updP_ne _ _ ho⟩
end

/-! ### Pushed firmware (15 R351, R352) -/

section
variable {s : State} (ha : Awake s) (hw : s.ident.waiting = true)
include ha hw

theorem State.fwCmd_of_waiting (f : State → State) : s.fwCmd 0 f = f s := by
  simp [State.fwCmd, State.wakeDevice_of_awake ha, hw]

theorem exec_getFwInfo_waiting : exec (.getFwInfo 0) s = .next (s.mbox .success) := by
  rw [exec_getFwInfo, execGetFwInfo, State.fwCmd_of_waiting ha hw]

theorem exec_transferFw_waiting (img : FwImage) :
    exec (.transferFw 0 img) s = .next ({ s with ident := { s.ident with transfer := some img } }.mbox .success) := by
  rw [exec_transferFw, execTransferFw, State.fwCmd_of_waiting ha hw]

variable {img : FwImage} (htr : s.ident.transfer = some img)
include htr

theorem exec_activateFw_runs (hsig : img.sigOk = true) (hsvn : s.ident.minSvn ≤ img.svn) : ∃ u, exec (.activateFw 0) s = .next u
    ∧ u.ident.running = some img ∧ u.ident.pushed = true ∧ u.ident.waiting = false
    ∧ u.reply = some ⟨.ok, some .success, 0, [], false⟩ := by
  have hboot : s.ident.transfer.filter s.bootable = some img := by simp [htr, State.bootable, hsig, hsvn]
  rw [exec_activateFw, execActivateFw, State.fwCmd_of_waiting ha hw, hboot]
  exact ⟨_, rfl, rfl, rfl, rfl, rfl⟩

theorem exec_activateFw_refuses (hsig : img.sigOk = false) : ∃ u, exec (.activateFw 0) s = .next u
    ∧ u.ident = { s.ident with transfer := none } ∧ u.reply = some ⟨.ok, some .invalidInput, 0, [], false⟩ := by
  have hboot : s.ident.transfer.filter s.bootable = none := by simp [htr, State.bootable, hsig]
  rw [exec_activateFw, execActivateFw, State.fwCmd_of_waiting ha hw, hboot]
  exact ⟨_, rfl, rfl, rfl⟩
end

/-! ### The quote day and the quote budget (15 R354, R355) -/

theorem Ident.newDay_same {i : Ident} (h : i.pwrCycles < i.dayStart + 126) : i.newDay = i :=
  if_neg (by omega)

theorem Ident.newDay_next {i : Ident} (h : i.pwrCycles = i.dayStart + 126) :
    i.newDay = { i with dayStart := i.dayStart + 126, dayUsed := 0, capRaised := false } := by
  have hd : i.pwrCycles - i.dayStart = 126 := by omega
  simp [Ident.newDay, hd]

theorem Ident.newDay_pwrCycles (i : Ident) : i.newDay.pwrCycles = i.pwrCycles := by
  unfold Ident.newDay
  dsimp only
  split <;> rfl

/-- The identity die after one more tick, before the quote day is looked at. -/
def Ident.ticked (i : Ident) : Ident := { i with pwrCycles := i.pwrCycles + 1 }

theorem exec_pwrCyclesTick_counts (s : State) : ∃ u, exec .pwrCyclesTick s = .next u ∧ u.ident.pwrCycles = s.ident.pwrCycles + 1
    ∧ (s.ident.pwrCycles + 1 < s.ident.dayStart + 126 → u.ident.dayUsed = s.ident.dayUsed)
    ∧ (s.ident.pwrCycles + 1 = s.ident.dayStart + 126 → u.ident.dayUsed = 0 ∧ u.ident.dayStart = s.ident.dayStart + 126) := by
  refine ⟨_, exec_pwrCyclesTick s, Ident.newDay_pwrCycles _, fun h => ?_, fun h => ?_⟩
  · change s.ident.ticked.newDay.dayUsed = _
    rw [Ident.newDay_same (i := s.ident.ticked) h]
    rfl
  · change s.ident.ticked.newDay.dayUsed = 0 ∧ s.ident.ticked.newDay.dayStart = _
    rw [Ident.newDay_next (i := s.ident.ticked) h]
    exact ⟨rfl, rfl⟩

section
variable {s : State} (hday : s.ident.newDay = s.ident)
include hday

theorem State.quote_of_block {n : Nat} (hn : s.ident.quoteIn = some n) :
    s.quote = ({ s with ident := { s.ident with quoteIn := if (n + 1) % 64 = 0 then none else some (n + 1) } }, some n) := by
  simp only [State.quote, hday, hn]

theorem State.quote_capped (hn : s.ident.quoteIn = none) (hcap : 256 < s.ident.dayUsed + 64) :
    ∃ t, s.quote = (t, none) ∧ t.ident.capRaised = true ∧ t.ident.xmssNext = s.ident.xmssNext := by
  simp only [State.quote, hday, hn, if_pos hcap]
  refine ⟨_, rfl, ?_, ?_⟩ <;> split <;> rfl

theorem State.quote_new_block (hn : s.ident.quoteIn = none) (hcap : s.ident.dayUsed + 64 ≤ 256)
    (hlife : s.ident.xmssNext + 64 ≤ 1032192) : ∃ t, s.quote = (t, some s.ident.xmssNext) ∧ t.ident.xmssNext = s.ident.xmssNext + 64
    ∧ t.ident.dayUsed = s.ident.dayUsed + 64 := by
  simp only [State.quote, hday, hn, if_neg (Nat.not_lt.2 hcap), if_neg (Nat.not_lt.2 (show _ ≤ quoteRange from hlife))]
  refine ⟨_, rfl, ?_, ?_⟩ <;> split <;> rfl
end

theorem State.signed_of_quote {s t : State} {n : Nat} (h : s.quote = (t, some n)) (data : List Byte) :
    s.signed data = t.mbox .success (BitVec.ofNat 64 n) (data ++ Config.signature n) := by rw [State.signed, h]

theorem State.signed_of_no_quote {s t : State} (h : s.quote = (t, none)) (data : List Byte) : s.signed data = t.mbox .busy := by
  rw [State.signed, h]

/-! ### SPDM requests (15 R356, Table 14-13) -/

/-- A measurement has 32 bytes and draws on the free values alone. -/
theorem State.measurement_length (s : State) (who : Requester) (idx : Nat) : (s.measurement who idx).1.length = 32
    ∧ (s.measurement who idx).2.ident = s.ident := by
  unfold State.measurement
  split
  · exact ⟨List.length_replicate, rfl⟩
  · exact ⟨by rw [List.length_map, List.length_range], rfl⟩

section
variable {s : State} {who : Requester} (ha : Awake s)
include ha

theorem State.spdm_not_ready (hc : s.power.configReady = false) (f : State → State) : s.spdm who f = s.mbox .noResponse := by
  simp [State.spdm, State.wakeDevice_of_awake ha, hc]

/-- No security request is answered before config-ready. -/
theorem exec_security_not_ready (hc : s.power.configReady = false) {c : Instr}
    (h : c ∈ [Instr.spdmChallenge who, .spdmKeyExchange who, .spdmGetMeasurements who 1 true, .cdatTableAccess who,
      .ideStreamEstablish who .cachemem true]) : exec c s = .next (s.mbox .noResponse) := by
  simp only [List.mem_cons, List.not_mem_nil, or_false] at h
  obtain rfl | rfl | rfl | rfl | rfl := h
  · rw [exec_spdmChallenge, execSpdmChallenge, State.spdm_not_ready ha hc]
  · rw [exec_spdmKeyExchange, execSpdmKeyExchange, State.spdm_not_ready ha hc]
  · rw [exec_spdmGetMeasurements, execSpdmGetMeasurements, State.spdm_not_ready ha hc]
  · simp only [exec_cdatTableAccess, execCdatTableAccess, State.wakeDevice_of_awake ha, hc, Bool.not_false, if_true]
  · rw [exec_ideStreamEstablish, execIdeStreamEstablish, State.wakeDevice_of_awake ha, hc]
    rfl

variable (hc : s.power.configReady = true)
include hc

theorem State.spdm_ready (f : State → State) : s.spdm who f = f s := by
  simp [State.spdm, State.wakeDevice_of_awake ha, hc]

/-- SPDM_CHALLENGE and SPDM_KEY_EXCHANGE each take one quote. -/
theorem exec_spdm_signs {c : Instr} (h : c ∈ [Instr.spdmChallenge who, .spdmKeyExchange who]) : exec c s = .next (s.signed []) := by
  simp only [List.mem_cons, List.not_mem_nil, or_false] at h
  obtain rfl | rfl := h
  · rw [exec_spdmChallenge, execSpdmChallenge, State.spdm_ready ha hc]
  · rw [exec_spdmKeyExchange, execSpdmKeyExchange, State.spdm_ready ha hc]

section
variable {c : Instr} (h : c ∈ [Instr.spdmChallenge who, .spdmKeyExchange who]) (hday : s.ident.newDay = s.ident)
include h hday

theorem exec_spdm_quotes_block {n : Nat} (hn : s.ident.quoteIn = some n) : ∃ u r, exec c s = .next u ∧ u.reply = some r
    ∧ r.mbox = some .success ∧ r.value = BitVec.ofNat 64 n ∧ u.ident.quoteIn = (if (n + 1) % 64 = 0 then none else some (n + 1))
    ∧ u.ident.dayUsed = s.ident.dayUsed := by
  rw [exec_spdm_signs ha hc h, State.signed_of_quote (State.quote_of_block hday hn)]
  exact ⟨_, _, rfl, rfl, rfl, rfl, rfl, rfl⟩

theorem exec_spdm_capped (hn : s.ident.quoteIn = none) (hcap : 256 < s.ident.dayUsed + 64) : ∃ u r, exec c s = .next u
    ∧ u.reply = some r ∧ r.mbox = some .busy ∧ u.ident.capRaised = true ∧ u.ident.xmssNext = s.ident.xmssNext := by
  obtain ⟨t, hq, hraised, hnext⟩ := State.quote_capped hday hn hcap
  rw [exec_spdm_signs ha hc h, State.signed_of_no_quote hq]
  exact ⟨_, _, rfl, rfl, rfl, hraised, hnext⟩

theorem exec_spdm_quotes_new_block (hn : s.ident.quoteIn = none) (hcap : s.ident.dayUsed + 64 ≤ 256)
    (hlife : s.ident.xmssNext + 64 ≤ 1032192) : ∃ u r, exec c s = .next u
    ∧ u.reply = some r ∧ r.mbox = some .success ∧ r.value = BitVec.ofNat 64 s.ident.xmssNext
    ∧ u.ident.xmssNext = s.ident.xmssNext + 64 ∧ u.ident.dayUsed = s.ident.dayUsed + 64 := by
  obtain ⟨t, hq, hnext, hused⟩ := State.quote_new_block hday hn hcap hlife
  rw [exec_spdm_signs ha hc h, State.signed_of_quote hq]
  exact ⟨_, _, rfl, rfl, rfl, rfl, hnext, hused⟩
end

theorem exec_spdmGetMeasurements_out_of_range {idx : Nat} (h : idx = 0 ∨ 7 < idx) (signed : Bool) :
    exec (.spdmGetMeasurements who idx signed) s = .next (s.mbox .invalidInput) := by
  rw [exec_spdmGetMeasurements, execSpdmGetMeasurements, State.spdm_ready ha hc, if_pos]
  simp only [Bool.not_eq_true', Bool.and_eq_false_iff, decide_eq_false_iff_not]
  omega

theorem exec_spdmGetMeasurements_unsigned {idx : Nat} (hlow : 1 ≤ idx) (hhigh : idx ≤ 7) :
    exec (.spdmGetMeasurements who idx false) s
      = .next ((s.measurement who idx).2.mbox .success 0 (s.measurement who idx).1) := by
  rw [exec_spdmGetMeasurements, execSpdmGetMeasurements, State.spdm_ready ha hc, if_neg (by simp [hlow, hhigh])]
  rfl

theorem exec_cdatTableAccess_answers : ∃ u r, exec (.cdatTableAccess who) s = .next u ∧ u.reply = some r
    ∧ r.mbox = some .success := by
  simp only [exec_cdatTableAccess, execCdatTableAccess, State.wakeDevice_of_awake ha, hc, Bool.not_true, Bool.false_eq_true, if_false]
  cases who with
  | fm => exact ⟨_, _, rfl, rfl, rfl⟩
  | ld p => exact ⟨_, _, rfl, rfl, rfl⟩
end

/-! ### Presence and the seal loop (15 R357 to R360; 19 R419, R420) -/

section
variable {s : State}

theorem exec_presencePress_opens (ha : Awake s) (hon : s.power.st ≠ .off) (hint : s.presence.intact = true) :
    ∃ u, exec .presencePress s = .next u ∧ u.presence.window = true
      ∧ u.presence.opened = s.presence.opened + (if s.presence.window then 0 else 1) := by
  simp only [exec_presencePress, execPresencePress, State.wakeDevice_of_awake ha, hon, hint, decide_false, Bool.not_true, Bool.or_self,
    Bool.false_eq_true, if_false]
  refine ⟨_, rfl, rfl, ?_⟩
  cases s.presence.window <;> rfl

theorem exec_presencePress_broken (ha : Awake s) (hint : s.presence.intact = false) : exec .presencePress s = .next s := by
  rw [exec_presencePress, execPresencePress, State.wakeDevice_of_awake ha, if_pos (by simp [hint])]

theorem State.presence_layoutRecord (s : State) : s.layoutRecord.presence = s.presence := rfl
theorem State.presence_eventAll (s : State) (code status : Nat) (arg : Word) : (s.eventAll code status arg).presence = s.presence :=
  State.forEach_keeps (·.presence) s.parts (fun s kv => s.event (Fin.ofNat 16 kv.1) code status 0 arg) (fun _ _ => rfl) s

/-- Presence once the seal loop has opened: the broken-seal state, one more break, no window. -/
def Presence.opens (r : Presence) : Presence :=
  { r with intact := false, broken := true, breaks := r.breaks + 1, window := false, misses := 0 }

/-- The device once the loop has opened, journaled and told to all, before any partition is fenced. -/
def State.sealOpened (s : State) : State := ({ s with presence := s.presence.opens }.layoutRecord).eventAll evSealBroken 0 0

theorem State.presence_sealOpened (s : State) : s.sealOpened.presence = s.presence.opens :=
  (State.presence_eventAll ..).trans (State.presence_layoutRecord _)

theorem State.breakSeal_of_intact (hint : s.presence.intact = true) (hon : s.power.st ≠ .off) :
    s.breakSeal = if s.sealOpened.presence.sealAction then s.sealOpened.fenceAll 5 else s.sealOpened := by
  rw [State.breakSeal, hint, if_neg (by decide), if_neg hon]
  rfl

theorem State.breakSeal_presence (hint : s.presence.intact = true) (hon : s.power.st ≠ .off) (hact : s.presence.sealAction = false) :
    s.breakSeal.presence = s.presence.opens := by
  have hcalm : s.sealOpened.presence.sealAction = false := by rw [State.presence_sealOpened]; exact hact
  rw [State.breakSeal_of_intact hint hon, hcalm, if_neg Bool.false_ne_true, State.presence_sealOpened]

theorem State.breakSeal_open (hint : s.presence.intact = false) : s.breakSeal = s := by
  rw [State.breakSeal, hint]
  rfl

theorem exec_sealBitCheck_good (hon : s.power.st ≠ .off) : exec (.sealBitCheck true) s
    = .next { s with presence := { s.presence with misses := 0, intact := true } } := by
  rw [exec_sealBitCheck, execSealBitCheck, if_neg hon, if_pos rfl]

theorem exec_sealBitCheck_counts (hon : s.power.st ≠ .off) (hfew : s.presence.misses < 9) : exec (.sealBitCheck false) s
    = .next { s with presence := { s.presence with misses := s.presence.misses + 1 } } := by
  rw [exec_sealBitCheck, execSealBitCheck, if_neg hon, if_neg Bool.false_ne_true, if_neg (by omega)]

/-- The tenth mismatch in a row opens the loop (log entry 82). -/
theorem exec_sealBitCheck_tenth (hon : s.power.st ≠ .off) (hnine : s.presence.misses = 9) : exec (.sealBitCheck false) s
    = .next ({ s with presence := { s.presence with misses := 0 } } : State).breakSeal := by
  rw [exec_sealBitCheck, execSealBitCheck, if_neg hon, if_neg Bool.false_ne_true, if_pos (by omega)]

theorem exec_sealBitCheck_breaks (hint : s.presence.intact = true) (hon : s.power.st ≠ .off) (hact : s.presence.sealAction = false)
    (hnine : s.presence.misses = 9) : ∃ u, exec (.sealBitCheck false) s = .next u ∧ u.presence.broken = true
      ∧ u.presence.intact = false ∧ u.presence.window = false := by
  have hopens := State.breakSeal_presence (s := { s with presence := { s.presence with misses := 0 } }) hint hon hact
  refine ⟨_, exec_sealBitCheck_tenth hon hnine, ?_, ?_, ?_⟩ <;> rw [hopens] <;> rfl
end

/-! ### The obligation -/

/-- Settles O54: one case for each unit, each from the lemmas on its shared operation. -/
theorem securityResults : Obligations.SecurityResults := by
  unfold Obligations.SecurityResults
  intro s
  refine ⟨?establish, ?failure, ?selective, ?firmware, fun who ha hc c h => exec_security_not_ready ha hc h, ?attest, ?tick, ?press,
    exec_presenceExpiry s, ?loop, exec_sealBitCheck_good, fun h => congrArg _ (State.breakSeal_open h)⟩
  case establish =>
    exact fun st who ha hc => ⟨exec_ideStreamEstablish_secures ha hc, fun h => exec_ideStreamEstablish_refuses ha hc (.inl h),
      exec_ideStreamEstablish_refuses ha hc (.inr rfl)⟩
  case failure => exact fun st => ⟨exec_ideFailure_inactive, exec_ideFailure_of_not_secure⟩
  case selective =>
    intro p t hsec hp hact hsteps hqps _
    exact exec_ideFailure_selective (by simp [hsec]) hp hact hsteps hqps
  case firmware =>
    exact fun ha hw img => ⟨exec_getFwInfo_waiting ha hw, exec_transferFw_waiting ha hw img, exec_activateFw_runs ha hw,
      exec_activateFw_refuses ha hw⟩
  case attest =>
    intro who ha hc
    refine ⟨fun c h hday => ?_, fun idx h => exec_spdmGetMeasurements_out_of_range ha hc h false, fun idx hlow hhigh => ?_,
      exec_spdmGetMeasurements_unsigned ha hc (by decide) (by decide), exec_cdatTableAccess_answers ha hc⟩
    · have hsame := Ident.newDay_same hday
      exact ⟨fun n => exec_spdm_quotes_block ha hc h hsame, exec_spdm_capped ha hc h hsame, exec_spdm_quotes_new_block ha hc h hsame⟩
    · obtain ⟨hlen, hid⟩ := State.measurement_length s who idx
      exact ⟨_, _, exec_spdmGetMeasurements_unsigned ha hc hlow hhigh, rfl, rfl, hlen, hid⟩
  case tick =>
    rintro i rfl
    exact exec_pwrCyclesTick_counts s
  case press => exact fun ha hon => ⟨exec_presencePress_opens ha hon, exec_presencePress_broken ha⟩
  case loop =>
    intro hint hon hact
    exact ⟨⟨_, exec_sealBreak s, State.breakSeal_presence hint hon hact⟩, exec_sealBitCheck_breaks hint hon hact,
      exec_sealBitCheck_counts hon⟩

end Sys2Proof.Machine
end

section
/-! SUPPORT. Ports (12 R262 to R264, R286 to R294; 14 R338): what a change of a port's record leaves, and what each event and timer of a
port does. -/

namespace Sys2Proof.Machine
open Sys2Proof.Cert

/-! ### The arms of the events and timers of a port -/

theorem exec_rxPauseFrame (port : PortNo) (s : State) : exec (.rxPauseFrame port) s = execRxPauseFrame port s := rfl
theorem exec_ptpHoldover (port : PortNo) (s : State) : exec (.ptpHoldover port) s = execPtpHoldover port s := rfl
theorem exec_ptpMessage (port : PortNo) (d : BitVec 8) (sync : Bool) (offset time : Nat) (s : State) :
    exec (.ptpMessage port d sync offset time) s = execPtpMessage port d sync offset time s := rfl
theorem exec_arpNdLldpFrame (port : PortNo) (asks : Option (BitVec 128)) (s : State) :
    exec (.arpNdLldpFrame port asks) s = execArpNdLldpFrame port asks s := rfl
theorem exec_egressFrameStart (port : PortNo) (time : Nat) (s : State) :
    exec (.egressFrameStart port time) s = execEgressFrameStart port time s := rfl
theorem exec_gclGo (port : PortNo) (time : Nat) (s : State) : exec (.gclGo port time) s = .next (s.gclGo port.val time) := rfl
theorem exec_gclEntryAdvance (port : PortNo) (s : State) : exec (.gclEntryAdvance port) s = execGclEntryAdvance port s := rfl
theorem exec_portLinkChange (port : PortNo) (up : Bool) (s : State) : exec (.portLinkChange port up) s = execPortLinkChange port up s := rfl
theorem exec_spreadCheck (ppm : Nat) (s : State) : exec (.spreadCheck ppm) s = execSpreadCheck ppm s := rfl

/-! ### A port's record -/

@[simp] theorem State.prtNo_updPort_self (s : State) (n : Nat) (f : Port → Port) : (s.updPort n f).prtNo n = f (s.prtNo n) := by
  simp [State.prtNo, State.updPort, Tab.getD]
theorem State.prtNo_updPort_ne (s : State) {n m : Nat} (f : Port → Port) (h : m ≠ n) : (s.updPort n f).prtNo m = s.prtNo m := by
  simp [State.prtNo, State.updPort, Tab.getD, Tab.find_put_ne _ _ h]
@[simp] theorem State.prtNo_devEvent (s : State) (code st : Nat) (o a : Word) (n : Nat) : (s.devEvent code st o a).prtNo n = s.prtNo n := rfl

/-- The device policer pays for a frame that it lets pass (R292). -/
theorem State.devPolice_passes {s : State} {n len : Nat} (h : len ≤ (s.prtNo n).devTokens) :
    s.devPolice n len = some (s.updPort n fun q => { q with devTokens := q.devTokens - len }) := if_neg (by omega)
theorem State.devPolice_drops {s : State} {n len : Nat} (h : (s.prtNo n).devTokens < len) : s.devPolice n len = none := if_pos h

@[simp] theorem State.prtNo_portCount_self (s : State) (n c : Nat) : (s.portCount n c).prtNo n = (s.prtNo n).count c :=
  State.prtNo_updPort_self ..
@[simp] theorem State.prt_portCount (s : State) (n c : Nat) (p : Part) : (s.portCount n c).prt p = s.prt p := rfl

/-- A frame of the device's own stands behind those of its sub-queue. -/
theorem State.frames_enqueue (s : State) (n tc sub op : Nat) (pkt : Option Pkt) (bytes : Nat) :
    (((s.enqueue n tc sub op pkt bytes).prtNo n).queues.getD (subKey tc sub) ⟨[], 0⟩).frames
      = ((s.prtNo n).queues.getD (subKey tc sub) ⟨[], 0⟩).frames ++ [⟨op, pkt, bytes, (s.prtNo n).time⟩] := by
  rw [State.enqueue, State.prtNo_updPort_self]
  dsimp only
  rw [Tab.getD_put_self]

/-! ### Frames of the port's own protocols (R262, R263, R287, R292) -/

section
variable {s : State} {port : PortNo}

theorem exec_port_down (hup : (s.prtNo port.val).up = false) {c : Instr} (hc : c ∈ [Instr.rxPauseFrame port, .ptpHoldover port,
    .arpNdLldpFrame port none, .ptpMessage port 0 true 0 0, .egressFrameStart port 0]) : exec c s = .next s := by
  simp only [List.mem_cons, List.not_mem_nil, or_false] at hc
  rcases hc with rfl | rfl | rfl | rfl | rfl
  · simp [exec_rxPauseFrame, execRxPauseFrame, hup]
  · simp [exec_ptpHoldover, execPtpHoldover, hup]
  · simp [exec_arpNdLldpFrame, execArpNdLldpFrame, hup]
  · simp [exec_ptpMessage, execPtpMessage, hup]
  · simp [exec_egressFrameStart, execEgressFrameStart, hup]

theorem exec_rxPauseFrame_counts (hup : (s.prtNo port.val).up = true) :
    exec (.rxPauseFrame port) s = .next ((s.portCount port.val pRxFrames).portCount port.val pRxPause) := by
  rw [exec_rxPauseFrame, execRxPauseFrame, if_pos hup]

theorem exec_ptpHoldover_holds (hup : (s.prtNo port.val).up = true) (hhold : (s.prtNo port.val).holdover = false) :
    exec (.ptpHoldover port) s = .next ((s.updPort port.val fun q => { q with locked := false, good := 0, holdover := true }).devEvent
      evPortTimeHoldover 0 0 (BitVec.ofNat 64 port.val)) := by
  rw [exec_ptpHoldover, execPtpHoldover, if_neg (by simp [hup, hhold])]

/-- A frame that the device policer drops is counted and does nothing else. -/
theorem exec_own_frame_policed (hup : (s.prtNo port.val).up = true) (hdev : (s.prtNo port.val).devTokens < 64) (d : BitVec 8)
    (offset time : Nat) : exec (.ptpMessage port d true offset time) s = .next (s.portCount port.val pRxFrames)
      ∧ exec (.arpNdLldpFrame port none) s = .next (s.portCount port.val pRxFrames) := by
  have hdrop : (s.portCount port.val pRxFrames).devPolice port.val minFrame = none :=
    State.devPolice_drops (by rw [State.prtNo_portCount_self]; exact hdev)
  constructor
  · rw [exec_ptpMessage, execPtpMessage, if_neg (by simp [hup]), hdrop, Option.elim_none]
  · rw [exec_arpNdLldpFrame, execArpNdLldpFrame, if_neg (by simp [hup]), hdrop, Option.elim_none]

/-- The device after a frame of its own that it has counted and let pass. -/
def State.ownFrame (s : State) (n : Nat) : State :=
  (s.portCount n pRxFrames).updPort n fun q => { q with devTokens := q.devTokens - minFrame }

theorem State.prtNo_ownFrame (s : State) (n : Nat) :
    (s.ownFrame n).prtNo n = { (s.prtNo n).count pRxFrames with devTokens := (s.prtNo n).devTokens - 64 } := by
  rw [State.ownFrame, State.prtNo_updPort_self, State.prtNo_portCount_self]
  rfl
theorem State.devPolice_ownFrame {n : Nat} (hdev : 64 ≤ (s.prtNo n).devTokens) :
    (s.portCount n pRxFrames).devPolice n minFrame = some (s.ownFrame n) :=
  State.devPolice_passes (by rw [State.prtNo_portCount_self]; exact hdev)

/-- A port's record after a Sync message of its domain (R263). -/
def Port.synced (q : Port) (offset time : Nat) : Port :=
  let good := if offset < 100 then q.good + 1 else 0
  { q with good := good, time := time, locked := q.locked || good ≥ 16, everLocked := q.everLocked || good ≥ 16
           holdover := q.holdover && !(good ≥ 16) }

theorem Port.synced_locked (q : Port) (offset time : Nat) :
    (q.synced offset time).locked = true ↔ q.locked = true ∨ (offset < 100 ∧ 16 ≤ q.good + 1) := by
  unfold Port.synced
  by_cases h : offset < 100 <;> simp [h]

theorem exec_ptpMessage_syncs (hup : (s.prtNo port.val).up = true) (hdev : 64 ≤ (s.prtNo port.val).devTokens) {d : BitVec 8}
    (hd : d.toNat = s.portReg port.val 0x10) (offset time : Nat) : ∃ u, exec (.ptpMessage port d true offset time) s = .next u
      ∧ u.prtNo port.val = ((s.ownFrame port.val).prtNo port.val).synced offset time ∧ u.parts = s.parts := by
  have hdom : ¬ (d.toNat ≠ (s.ownFrame port.val).portReg port.val 0x10 ∨ ¬ true = true) := by
    simp only [not_true, or_false, not_not]
    exact hd
  rw [exec_ptpMessage, execPtpMessage, if_neg (by simp [hup]), State.devPolice_ownFrame hdev, Option.elim_some, if_neg (by simpa using hdom)]
  have hevent : ∀ (b : Bool) (v : State), let w := if b then v.devEvent evPortTimeLocked 0 0 (BitVec.ofNat 64 port.val) else v
      w.prtNo port.val = v.prtNo port.val ∧ w.parts = v.parts := by
    intro b v
    cases b <;> exact ⟨rfl, rfl⟩
  exact ⟨_, rfl, (hevent _ _).1.trans (State.prtNo_updPort_self ..), (hevent _ _).2⟩

theorem exec_arpNdLldpFrame_answers (hup : (s.prtNo port.val).up = true) (hdev : 64 ≤ (s.prtNo port.val).devTokens) {a : BitVec 128}
    {p : Part} (ha : s.addrOwner port.val a = some p) :
    exec (.arpNdLldpFrame port (some a)) s = .next ((s.ownFrame port.val).deviceFrame port.val 0 none 84) := by
  have howner : ((s.ownFrame port.val).addrOwner port.val a).isSome = true := by
    rw [show (s.ownFrame port.val).addrOwner port.val a = some p from ha]
    rfl
  rw [exec_arpNdLldpFrame, execArpNdLldpFrame, if_neg (by simp [hup]), State.devPolice_ownFrame hdev, Option.elim_some]
  dsimp only
  rw [if_pos howner]
end

/-! ### Gate lists (R291) -/

section
variable {l : GateList} {now : Nat}

/-- The change time is the earliest start of a cycle at least 10 µs after the write. -/
theorem GateList.changeTime_earliest (hfits : l.fits = true) : now + 10000 ≤ l.changeTime now
    ∧ (∃ k, l.changeTime now = l.base + k * l.cycle)
    ∧ ∀ k, now + 10000 ≤ l.base + k * l.cycle → l.changeTime now ≤ l.base + k * l.cycle := by
  have hcycle : 0 < l.cycle := by
    simp only [GateList.fits, Bool.and_eq_true, decide_eq_true_eq] at hfits
    omega
  unfold GateList.changeTime
  split
  · next hbase => exact ⟨hbase, ⟨0, by simp⟩, fun k _ => Nat.le_add_right ..⟩
  · next hbase =>
    generalize hd : now + 10000 - l.base = d
    have hceil : d ≤ (d + l.cycle - 1) / l.cycle * l.cycle := by
      have := Nat.div_add_mod (d + l.cycle - 1) l.cycle
      have := Nat.mod_lt (d + l.cycle - 1) hcycle
      rw [Nat.mul_comm]
      omega
    refine ⟨by omega, ⟨_, rfl⟩, fun k hk => Nat.add_le_add_left (Nat.mul_le_mul_right _ ?_) _⟩
    rw [Nat.div_le_iff_le_mul_add_pred hcycle, Nat.mul_comm]
    omega
end

section
variable {s : State} {port : PortNo}

theorem exec_gclGo_stages {time : Nat} (hfits : (s.adminList port.val).fits = true) : exec (.gclGo port time) s
    = .next (s.updPort port.val fun q =>
        { q with staged := some (s.adminList port.val, (s.adminList port.val).changeTime time) }) := by
  rw [exec_gclGo, State.gclGo, if_pos hfits]
theorem exec_gclGo_unfit {time : Nat} (hfits : (s.adminList port.val).fits = false) : exec (.gclGo port time) s = .next s := by
  rw [exec_gclGo, State.gclGo, if_neg (by simp [hfits])]
theorem exec_gclChangeTime_takes {l : GateList} {tm : Nat} (hst : (s.prtNo port.val).staged = some (l, tm)) :
    ∃ u, exec (.gclChangeTime port) s = .next u
      ∧ u.prtNo port.val = { s.prtNo port.val with oper := l, staged := none, time := max (s.prtNo port.val).time tm } :=
  ⟨_, rfl, by rw [State.prtNo_updPort_self, hst]⟩
theorem exec_gclEntryAdvance_gated (hg : s.gated port.val = true) : exec (.gclEntryAdvance port) s
    = .next (s.updPort port.val fun q => { q with time := q.time + (findSegment q.oper.segments 0 (q.oper.phase q.time)).2 }) := by
  rw [exec_gclEntryAdvance, execGclEntryAdvance, if_neg (by simp [hg])]
theorem exec_gclEntryAdvance_ungated (hg : s.gated port.val = false) : exec (.gclEntryAdvance port) s = .next s := by
  rw [exec_gclEntryAdvance, execGclEntryAdvance, if_pos (by simp [hg])]
end

/-! ### The start of a frame (R286, R290 to R293) -/

/-- Without queue pairs nothing is cut into packets. -/
theorem State.pumpPort_of_no_qps {s : State} (h : ∀ e ∈ s.parts, e.2.qps = []) (n : Nat) : s.pumpPort n = s := by
  have hnone : (s.parts.map fun kv => (kv.2.qps.filter fun q => q.2.port == n).map fun q => (kv.1, q.1)).flatten = [] := by
    rw [List.flatten_eq_nil_iff]
    intro l hl
    obtain ⟨e, he, rfl⟩ := List.mem_map.1 hl
    rw [h e he]
    rfl
  rw [State.pumpPort, hnone, State.forEach_nil]

/-- Where the gate list is not operational every frame fits. -/
theorem State.dropOversize_ungated {s : State} {n : Nat} (hg : s.gated n = false) (c fuel : Nat) : s.dropOversize n c fuel = s := by
  cases fuel with
  | zero => rfl
  | succ fuel =>
    rw [State.dropOversize]
    cases s.candidate n c with
    | none => rfl
    | some e =>
      dsimp only
      cases e.2.head c e.1 with
      | none => rfl
      | some f => exact if_neg (by simp [State.oversize, hg])

section
variable {s : State} {n : Nat} {f : OutFrame} {d : Nat} (hq : (s.prtNo n).queues = [(subKey 7 devSub, ⟨[f], d⟩)])
include hq

/-- The device's frame of class 7 is the candidate of its class. -/
theorem State.candidate_device_only : s.candidate n 7 = some (devSub, s.prtNo n) := by
  have hbusy : (s.prtNo n).busy 7 = [devSub] := by
    rw [Port.busy, hq]
    simp [subKey, devSub]
  rw [State.candidate, hbusy]
  rfl

theorem Port.head_device_only : (s.prtNo n).head 7 devSub = some f := by
  rw [Port.head, hq]
  rfl

/-- The frame leaves its sub-queue, and is the one sent last. -/
theorem State.startFrame_device_only (hpkt : f.pkt = none) (time : Nat) : ∃ u, s.startFrame n 7 devSub time (s.prtNo n) f = u
    ∧ (u.prtNo n).sent = some f ∧ (u.prtNo n).queues = [(subKey 7 devSub, ⟨[], 0⟩)] ∧ (u.prtNo n).time = (s.prtNo n).time := by
  refine ⟨_, rfl, ?_⟩
  simp only [State.startFrame, hpkt, Option.isSome_none, Bool.false_and, if_neg Bool.false_ne_true, State.prtNo_updPort_self,
    Port.count, Port.popHead, hq, Tab.upd, if_true, List.drop_one, List.tail_cons, List.isEmpty_nil]
  simp
end

theorem exec_egressFrameStart_device_only {s : State} {port : PortNo} {f : OutFrame} {d : Nat} (hup : (s.prtNo port.val).up = true)
    (hqps : ∀ e ∈ s.parts, e.2.qps = []) (hq : (s.prtNo port.val).queues = [(subKey 7 devSub, ⟨[f], d⟩)]) (hg : s.gated port.val = false)
    (hrate : (s.prtNo port.val).rates.getD 7 0 = 0) (hpkt : f.pkt = none) (time : Nat) :
    ∃ u, exec (.egressFrameStart port time) s = .next u ∧ (u.prtNo port.val).sent = some f
      ∧ (u.prtNo port.val).queues = [(subKey 7 devSub, ⟨[], 0⟩)] ∧ (u.prtNo port.val).time = time := by
  obtain ⟨v, hv⟩ : ∃ v, s.updPort port.val (fun q => { q with time := time }) = v := ⟨_, rfl⟩
  have hport : v.prtNo port.val = { s.prtNo port.val with time := time } := hv ▸ State.prtNo_updPort_self ..
  have hvg : v.gated port.val = false := by
    rw [State.gated, hport, ← hv]
    exact hg
  have hvq : (v.prtNo port.val).queues = [(subKey 7 devSub, ⟨[f], d⟩)] := by rw [hport]; exact hq
  have hdrop : ∀ l : List Nat, v.forEach l (fun s c => s.dropOversize port.val c
      (((s.prtNo port.val).queues.map fun kv => kv.2.frames.length).sum)) = v := by
    intro l
    induction l with
    | nil => rfl
    | cons c l ih => rw [State.forEach_cons, State.dropOversize_ungated hvg, ih]
  obtain ⟨u, hu, hsent, hqueues, htime⟩ := State.startFrame_device_only hvq hpkt time
  refine ⟨u, ?_, hsent, hqueues, by rw [htime, hport]⟩
  rw [exec_egressFrameStart, execEgressFrameStart, if_neg (by simp [hup]), State.pumpPort_of_no_qps hqps, hv]
  dsimp only
  rw [hdrop, show (List.range 8).reverse = 7 :: [6, 5, 4, 3, 2, 1, 0] from rfl, List.findSome?_cons]
  have hshaped : (v.prtNo port.val).shaped 7 = true := by
    rw [Port.shaped, hport]
    simp only [Bool.or_eq_true, decide_eq_true_eq]
    exact .inl hrate
  have hgate : v.gateAllows port.val 7 time f.bytes = true := by
    rw [State.gateAllows, if_pos (by simp [hvg])]
  simp only [State.candidate_device_only hvq, Option.bind_some, Port.head_device_only hvq, hgate, hshaped, Bool.and_self, if_true, hu]

/-! ### Buckets (R289, R292) -/

theorem getD_map_range {α : Type} (g : Nat → α) {n c : Nat} (h : c < n) (d : α) : ((List.range n).map g).getD c d = g c := by
  simp [List.getD_eq_getElem?_getD, h]

theorem exec_bucketRefill_grows (s : State) (port : PortNo) (time : Nat) : ∃ u, exec (.bucketRefill port time) s = .next u
    ∧ (u.prtNo port.val).refillAt = time ∧ u.parts = s.parts
    ∧ (u.prtNo port.val).devTokens = min 65536 ((s.prtNo port.val).devTokens + earned 10 (time - (s.prtNo port.val).refillAt))
    ∧ ∀ c, c < 8 → (u.prtNo port.val).rates.getD c 0 = s.portReg port.val (0x200 + 4 * c)
      ∧ (u.prtNo port.val).bursts.getD c 0 = s.portReg port.val (0x220 + 4 * c)
      ∧ (u.prtNo port.val).tokens.getD c 0 = min (min (((s.prtNo port.val).bursts.getD c 0 : Nat) : Int)
          ((s.prtNo port.val).tokens.getD c 0
            + (earned ((s.prtNo port.val).rates.getD c 0) (time - (s.prtNo port.val).refillAt) : Int)))
          ((s.portReg port.val (0x220 + 4 * c) : Nat) : Int) := by
  refine ⟨_, rfl, ?_, rfl, ?_, fun c hc => ⟨?_, ?_, ?_⟩⟩ <;> rw [State.prtNo_updPort_self] <;> dsimp only
  · exact getD_map_range _ hc 0
  · exact getD_map_range _ hc 0
  · rw [getD_map_range _ hc, getD_map_range _ hc, getD_map_range _ hc]

theorem exec_replyBucketRefill_grows (s : State) (port : PortNo) (k : Nat) : ∃ u, exec (.replyBucketRefill port k) s = .next u
    ∧ u.prtNo port.val = { s.prtNo port.val with replies := min 128 ((s.prtNo port.val).replies + k) } :=
  ⟨_, rfl, State.prtNo_updPort_self ..⟩

/-! ### Links and spread (R264, 14 R338) -/

section
variable {s : State} {port : PortNo}

theorem exec_portLinkChange_down : ∃ u, exec (.portLinkChange port false) s = .next u
    ∧ u.prtNo port.val = { s.prtNo port.val with up := false, locked := false, good := 0 } := ⟨_, rfl, State.prtNo_updPort_self ..⟩

theorem exec_portLinkChange_trains (hspread : s.power.spread = false) (hexists : s.portExists port.val = true)
    (hon : bitOf (s.portReg (port.val / 2 * 2) 0) 0 = true) : ∃ u, exec (.portLinkChange port true) s = .next u
      ∧ (u.prtNo port.val).up = true
      ∧ ((s.prtNo port.val).everLocked = true → (u.prtNo port.val).time = (s.prtNo port.val).time) := by
  rw [exec_portLinkChange, execPortLinkChange, if_neg (by simp), if_neg (by simp [hspread, hexists, hon])]
  refine ⟨_, rfl, ?_⟩
  rw [State.prtNo_updPort_self]
  split
  · next hup => exact ⟨hup, fun _ => rfl⟩
  · exact ⟨rfl, fun hlocked => if_pos hlocked⟩

theorem exec_portLinkChange_spread (hspread : s.power.spread = true) : exec (.portLinkChange port true) s = .next s := by
  rw [exec_portLinkChange, execPortLinkChange, if_neg (by simp), if_pos (by simp [hspread])]

theorem exec_spreadCheck_within {ppm : Nat} (h : ppm ≤ 1000) : exec (.spreadCheck ppm) s = .next s := by
  rw [exec_spreadCheck, execSpreadCheck, if_pos h]

theorem exec_spreadCheck_above {ppm : Nat} (h : 1000 < ppm) : ∃ u, exec (.spreadCheck ppm) s = .next u
    ∧ u.power = { s.power with spread := true } ∧ ∀ e ∈ u.ports, e.2.up = false := by
  have hdown : ∀ e ∈ s.ports.mapV fun _ q => q.down, e.2.up = false := by
    intro e he
    obtain ⟨kv, -, rfl⟩ := List.mem_map.1 he
    rfl
  rw [exec_spreadCheck, execSpreadCheck, if_neg (by omega)]
  refine ⟨_, rfl, ?_⟩
  cases s.power.spread <;> exact ⟨rfl, hdown⟩
end

/-! ### The obligation -/

/-- Settles O45: one case for each event and timer of a port, from the lemma on what it does. -/
theorem portResults : Obligations.PortResults := by
  unfold Obligations.PortResults
  intro s port
  refine ⟨exec_rxPauseFrame_counts, fun h c => exec_port_down h, ?holdover, fun h hdev d offset time => exec_own_frame_policed h hdev d offset time,
    ?sync, ?answer, ?stage, fun l tm => exec_gclChangeTime_takes, ?advance, exec_gclEntryAdvance_ungated,
    fun f d time hup hqps hq hg hrate hpkt => exec_egressFrameStart_device_only hup hqps hq hg hrate hpkt time, exec_bucketRefill_grows s port,
    exec_replyBucketRefill_grows s port, exec_portLinkChange_down, exec_portLinkChange_trains, exec_portLinkChange_spread,
    fun ppm => exec_spreadCheck_within, fun ppm => exec_spreadCheck_above, rfl⟩
  case holdover => exact fun hup hhold => ⟨_, exec_ptpHoldover_holds hup hhold,
    (State.prtNo_devEvent ..).trans (State.prtNo_updPort_self ..), rfl⟩
  case sync =>
    intro d offset time hup hdev hd
    obtain ⟨u, hu, hport, hparts⟩ := exec_ptpMessage_syncs hup hdev hd offset time
    rw [State.prtNo_ownFrame] at hport
    exact ⟨u, _, hu, hport, rfl, rfl, rfl, Port.synced_locked .., hparts⟩
  case answer =>
    intro a p t hup hdev ha _
    refine ⟨_, ⟨0, none, 84, (s.prtNo port.val).time⟩, exec_arpNdLldpFrame_answers hup hdev ha, ?_, rfl, rfl⟩
    rw [State.deviceFrame, State.frames_enqueue, State.prtNo_ownFrame]
    rfl
  case stage =>
    exact fun time => ⟨fun h => ⟨_, exec_gclGo_stages h, State.prtNo_updPort_self .., GateList.changeTime_earliest h⟩, exec_gclGo_unfit⟩
  case advance => exact fun h => ⟨_, exec_gclEntryAdvance_gated h, State.prtNo_updPort_self ..⟩

end Sys2Proof.Machine
end

section
/-! SUPPORT. Packets that arrive (12 R268 to R279, Table 12-8): a rule for each shared operation of the transport on a queue pair and the
regions that its peer reaches, and the rows of the table up to the execution of the expected packet. -/

namespace Sys2Proof.Machine
open Sys2Proof.Cert

/-! ### A queue pair and the regions of its partition -/

@[simp] theorem State.prtNo_updQp (s : State) (p : Part) (n m : Nat) (f : Qp → Qp) : (s.updQp p n f).prtNo m = s.prtNo m := rfl
@[simp] theorem State.prtNo_count (s : State) (p : Part) (c k m : Nat) : (s.count p c k).prtNo m = s.prtNo m := rfl

/-- Queue pair `n` of partition `p` has the record `q`, and the partition's regions are `rs`. -/
def State.HasQp (s : State) (p : Part) (n : Nat) (q : Qp) (rs : Tab Region) : Prop :=
  ∃ t, s.prt p = some t ∧ t.qps.find n = some q ∧ t.regions = rs

section
variable {s : State} {p : Part} {n : Nat} {q : Qp} {rs : Tab Region} (h : s.HasQp p n q rs)
include h

theorem State.HasQp.qp? : s.qp? p n = some q := by
  obtain ⟨t, hp, hq, -⟩ := h
  rw [State.qp?, hp, Option.bind_some, hq]

theorem State.HasQp.of_parts {u : State} (hu : u.parts = s.parts) : u.HasQp p n q rs := by
  unfold State.HasQp State.prt
  rw [hu]
  exact h

/-- An update of the partition that leaves its queue pairs and regions. -/
theorem State.HasQp.updP {f : Partition → Partition} (hf : ∀ t, (f t).qps = t.qps ∧ (f t).regions = t.regions) :
    (s.updP p f).HasQp p n q rs := by
  obtain ⟨t, hp, hq, hr⟩ := h
  obtain ⟨hqps, hregions⟩ := hf t
  exact ⟨f t, State.prt_updP_of_prt hp f, hqps ▸ hq, hregions.trans hr⟩

theorem State.HasQp.updQp (f : Qp → Qp) : (s.updQp p n f).HasQp p n (f q) rs := by
  obtain ⟨t, hp, hq, hr⟩ := h
  exact ⟨_, State.prt_updP_of_prt hp _, by simp [hq], hr⟩

theorem State.HasQp.updQp_eq {f : Qp → Qp} {q' : Qp} (hf : f q = q') : (s.updQp p n f).HasQp p n q' rs := hf ▸ h.updQp f

theorem State.HasQp.updRegion (i : Nat) (f : Region → Region) : (s.updRegion p i f).HasQp p n q (rs.upd i f) := by
  obtain ⟨t, hp, hq, hr⟩ := h
  exact ⟨_, State.prt_updP_of_prt hp _, hq, by simp [hr]⟩

theorem State.HasQp.count (c : Nat) (k : Nat := 1) : (s.count p c k).HasQp p n q rs :=
  h.updP fun t => by unfold Partition.count; split <;> exact ⟨rfl, rfl⟩

theorem State.HasQp.event (code status : Nat) (object arg : Word) : (s.event p code status object arg).HasQp p n q rs :=
  h.updP fun t => by unfold Partition.count; dsimp only; split <;> exact ⟨rfl, rfl⟩

theorem State.HasQp.finish (m : Nat) (cid : BitVec 16) (st : Status) (r0 r1 : Word) (k : Nat) :
    (s.finish p m cid st r0 r1 k).HasQp p n q rs :=
  h.updP fun t => by unfold Partition.post; split <;> exact ⟨rfl, rfl⟩

theorem State.HasQp.emitPkt (port op : Nat) (k : Pkt) : (s.emitPkt p port op k).HasQp p n q rs := by
  obtain ⟨t, hp, -⟩ := id h
  simp only [State.emitPkt, hp]
  exact (h.of_parts (u := s.enqueue port k.tc p.val op (some k) (lineBytes t.binding k)) rfl).count cTxPackets

theorem State.HasQp.nakTo (port : Nat) (k : Pkt) (st : Status) (hint : Nat := 0) : (s.nakTo p port k st hint).HasQp p n q rs := by
  unfold State.nakTo
  dsimp only
  split
  · exact (h.emitPkt ..).count _
  · exact h.emitPkt ..

/-- An ACK tells the peer all that it has not been told (R276). -/
theorem State.HasQp.sendAck (hint : Nat := 0) : (s.sendAck p n hint).HasQp p n { q with unacked := 0, eceDue := false } rs := by
  simp only [State.sendAck, h.qp?]
  exact (h.emitPkt ..).updQp _

/-- A violation is noted at most in the times of its queue pair's events (R278). -/
theorem State.HasQp.violation (op : Nat) (k : Pkt) (object : Handle) :
    ∃ v, (s.violation p n op k object).HasQp p n { q with violAt := v } rs := by
  simp only [State.violation, (h.count cViolations).qp?]
  split
  · exact ⟨q.violAt, h.count _⟩
  · exact ⟨_, ((h.count _).updQp _).event ..⟩

/-- What has been executed or refused is logged, and acknowledged now or later (R274, R276). -/
theorem State.HasQp.settled (k : Pkt) (st : Status) (beyond : Bool) : ∃ a b, (s.settled p n k st beyond).HasQp p n
    { q.logPsn k.psn st.code.toNat with unacked := a, eceDue := b } rs := by
  have hlog := h.updQp fun q => { q.logPsn k.psn st.code.toNat with unacked := q.unacked + 1, eceDue := q.eceDue || k.ce }
  simp only [State.settled, hlog.qp?]
  split
  · exact ⟨_, _, hlog.nakTo ..⟩
  · split
    · exact ⟨_, _, hlog.sendAck⟩
    · exact ⟨_, _, hlog⟩

/-- Nothing that waits can run where nothing waits. -/
theorem State.HasQp.runHeld_of_held_nil (hheld : q.held = []) (fuel : Nat) : s.runHeld p n fuel = s := by
  cases fuel with
  | zero => rfl
  | succ fuel =>
    simp only [State.runHeld, h.qp?, hheld, List.find?_nil]
    split <;> rfl

/-- The packet that a queue pair expects goes through the rows from 10 on at once. -/
theorem State.HasQp.takePkt_expected {k : Pkt} (hpsn : k.psn = q.rcvEpsn) (hstall : q.stalledAt = none) (hheld : q.held = []) (op : Nat) :
    s.takePkt p n op k = (s.fromRow10 p n op k false).runHeld p n 1 := by
  simp [State.takePkt, h.qp?, hpsn, hstall, hheld]

theorem State.HasQp.fromRow10_disconnect (k : Pkt) (beyond : Bool) :
    s.fromRow10 p n opDisconnect k beyond = (s.settled p n k .ok beyond).closeQp p n := by
  obtain ⟨t, hp, hq, -⟩ := h
  simp [State.fromRow10, hp, hq]
end

/-! ### The window of a receiver (R269, R274) -/

theorem Qp.advance_held (n : Nat) (q : Qp) : (Qp.advance n q).held = q.held := by
  induction n generalizing q with
  | zero => rfl
  | succ n ih =>
    unfold Qp.advance
    split
    · split
      · rfl
      · exact ih _
    · rfl
theorem Qp.logPsn_held (q : Qp) (psn : BitVec 24) (v : Nat) : (q.logPsn psn v).held = q.held := Qp.advance_held ..

/-- The status of the expected packet, where nothing later stands in the window, moves the window by one place. -/
theorem Qp.logPsn_expected {q : Qp} (hnext : q.rcvLog.find (psnAdd q.rcvEpsn 1).toNat = none) {v : Nat} (hv : v ≠ 0xFE) :
    q.logPsn q.rcvEpsn v = { q with rcvEpsn := psnAdd q.rcvEpsn 1
                                    rcvLog := (q.rcvLog.put q.rcvEpsn.toNat v).del (q.rcvEpsn - 256).toNat } := by
  have hput : (psnAdd q.rcvEpsn 1).toNat ≠ q.rcvEpsn.toNat := by
    unfold psnAdd
    bv_omega
  have hdel : (psnAdd q.rcvEpsn 1).toNat ≠ (q.rcvEpsn - 256).toNat := by
    unfold psnAdd
    bv_omega
  have hstop : ((q.rcvLog.put q.rcvEpsn.toNat v).del (q.rcvEpsn - 256).toNat).find (psnAdd q.rcvEpsn 1).toNat = none := by
    rw [Tab.find_del_ne _ hdel, Tab.find_put_ne _ _ hput, hnext]
  unfold Qp.logPsn
  rw [Qp.advance]
  simp only [Tab.find_put_self, if_neg hv]
  rw [Qp.advance]
  simp only [hstop]

/-! ### Rows 10 to 15 (Table 12-8) -/

section
variable {t : Partition} {q : Qp} {k : Pkt} {r : Region}

theorem Partition.resident_nil (t : Partition) (r : Region) (i : Nat) : t.resident r i [] = .run i := rfl

/-- A WRITE reaches a registered region that takes writes, within its size and in memory. -/
theorem Partition.rowsFrom10_write (hgen : t.genOf kRegion (k.rkey.toNat % 65536) = k.rkey.toNat / 2 ^ 24)
    (hr : t.regions.find (k.rkey.toNat % 65536) = some r) (hreg : r.registered = true) (hkey : r.rkey = k.rkey)
    (hst : r.st = .uploading ∨ (r.st = .valid ∧ r.published = false)) (hsize : k.roff.toNat + k.payload.length ≤ r.size)
    (hcold : t.cold r k.roff.toNat k.payload.length = []) : t.rowsFrom10 q opWrite k = .run (k.rkey.toNat % 65536) := by
  have hmay : (r.st == .uploading || (r.st == .valid && !r.published)) = true := by
    rcases hst with hst | ⟨hst, hpub⟩
    · simp [hst]
    · simp [hst, hpub]
  have hbound : ¬ r.st = .unbindable := by rcases hst with hst | ⟨hst, -⟩ <;> simp [hst]
  simp [Partition.rowsFrom10, opSend, opWrite, opReadReq, hgen, hr, hreg, hkey, hmay, hbound, hcold, Partition.resident_nil]
  omega

/-- A key that names no region is a violation. -/
theorem Partition.rowsFrom10_no_region {op : Nat} (hop : op ≠ opSend)
    (hgen : t.genOf kRegion (k.rkey.toNat % 65536) = k.rkey.toNat / 2 ^ 24)
    (hr : t.regions.find (k.rkey.toNat % 65536) = none) : t.rowsFrom10 q op k = .bad .accessViolation true 0 := by
  simp [Partition.rowsFrom10, hop, hgen, hr]

/-- A READ_REQ reaches a registered region that is whole, within its size and in memory. -/
theorem Partition.rowsFrom10_readReq (hgen : t.genOf kRegion (k.rkey.toNat % 65536) = k.rkey.toNat / 2 ^ 24)
    (hr : t.regions.find (k.rkey.toNat % 65536) = some r) (hreg : r.registered = true) (hkey : r.rkey = k.rkey) (hst : r.st = .valid)
    (hsize : k.roff.toNat + k.aux.toNat ≤ r.size) (hpoison : r.poisoned k.roff.toNat k.aux.toNat = false)
    (hcold : t.cold r k.roff.toNat k.aux.toNat = []) : t.rowsFrom10 q opReadReq k = .run (k.rkey.toNat % 65536) := by
  simp [Partition.rowsFrom10, opSend, opWrite, opReadReq, hgen, hr, hreg, hkey, hst, hpoison, hcold, Partition.resident_nil]
  omega

/-- The first packet of a message has its room in the ring, which is in memory. -/
theorem Partition.rowsFrom10_send_first (hnull : q.recvRegion ≠ 0) (hgen : t.genOf kRegion (hIndex q.recvRegion) = hGen q.recvRegion)
    (hr : t.regions.find (hIndex q.recvRegion) = some r) (hst : r.st ≠ .unbindable) (hlen : k.roff.toNat / 2 ^ 32 ≤ r.size)
    (hoff : k.roff.toNat % 2 ^ 32 + k.payload.length ≤ k.roff.toNat / 2 ^ 32) (hfirst : q.msgOf k.aux.toNat = none)
    (hcold : t.cold r ((q.ringAt + k.roff.toNat % 2 ^ 32) % r.size)
      (min k.payload.length (r.size - (q.ringAt + k.roff.toNat % 2 ^ 32) % r.size)) = [])
    (hwrap : t.cold r 0 (k.payload.length - min k.payload.length (r.size - (q.ringAt + k.roff.toNat % 2 ^ 32) % r.size)) = [])
    (hroom : q.ringUsed + k.roff.toNat / 2 ^ 32 ≤ r.size) : t.rowsFrom10 q opSend k = .run (hIndex q.recvRegion) := by
  have hplace : ((q.msgOf k.aux.toNat).map (·.off)).getD q.ringAt = q.ringAt := by rw [hfirst]; rfl
  have hkey : ¬ (decide (q.recvRegion = 0) || decide (t.genOf kRegion (hIndex q.recvRegion) ≠ hGen q.recvRegion)) = true := by
    simp [hgen]
    exact hnull
  have hfits : ¬ (decide (k.roff.toNat / 2 ^ 32 > r.size)
      || decide (k.roff.toNat % 2 ^ 32 + k.payload.length > k.roff.toNat / 2 ^ 32)) = true := by
    simp only [Bool.or_eq_true, decide_eq_true_eq]
    omega
  rw [Partition.rowsFrom10, if_pos rfl]
  dsimp only
  rw [if_neg hkey, hr]
  dsimp only
  rw [if_neg hfits, if_neg hst, hplace, hcold, hwrap, List.append_nil, List.eraseDups_nil, Partition.resident_nil]
  dsimp only
  rw [hfirst]
  exact if_neg (by omega)
end

/-! ### The execution of a packet (row 16; R270, R274, R275) -/

/-- A queue pair with the room of a message taken in its ring (R275). -/
def Qp.withRoom (q : Qp) (num len : Nat) : Qp :=
  { q with msgs := q.msgs ++ [⟨num, q.ringAt, len⟩], ringAt := q.ringAt + len, ringUsed := q.ringUsed + len }

theorem Qp.msgOf_withRoom {q : Qp} {num : Nat} (hfirst : q.msgOf num = none) (len : Nat) :
    (q.withRoom num len).msgOf num = some ⟨num, q.ringAt, len⟩ := by
  rw [Qp.msgOf, Qp.withRoom, List.find?_append, show q.msgs.find? (fun m => m.num == num) = none from hfirst]
  simp

/-- The packet that answers a read with bytes (R276). -/
def readRespPkt (k : Pkt) (bs : List Byte) : Pkt :=
  { Pkt.back k with aux := k.psn.zeroExtend 32, roff := 0, payload := bs }

section
variable {s : State} {p : Part} {n : Nat} {q : Qp} {rs : Tab Region}

theorem State.trigger_off {k : Pkt} (htrig : k.trigOn = false) (s : State) (p : Part) (n : Nat) : s.trigger p n k = s :=
  if_pos (by simp [htrig])

/-- Rows 10 to 15 let the packet run. -/
theorem State.fromRow10_runs {t : Partition} {op i : Nat} {k : Pkt} (hp : s.prt p = some t) (hq : t.qps.find n = some q)
    (hop : op ≠ opDisconnect) (hrows : t.rowsFrom10 q op k = .run i) (beyond : Bool) :
    s.fromRow10 p n op k beyond = (s.execPkt p n op i k).1.settled p n k (s.execPkt p n op i k).2 beyond := by
  simp [State.fromRow10, hp, hq, hop, hrows]

/-- A violation of rows 10 to 15 is noted and refused. -/
theorem State.fromRow10_violates {t : Partition} {op : Nat} {k : Pkt} {st : Status} {o : Handle} (hp : s.prt p = some t)
    (hq : t.qps.find n = some q) (hop : op ≠ opDisconnect) (hrows : t.rowsFrom10 q op k = .bad st true o) (beyond : Bool) :
    s.fromRow10 p n op k beyond = (s.violation p n op k o).settled p n k st beyond := by
  simp [State.fromRow10, hp, hq, hop, hrows]

theorem State.runHeld_of_no_qp (hnone : s.qp? p n = none) (fuel : Nat) : s.runHeld p n fuel = s := by
  cases fuel with
  | zero => rfl
  | succ fuel => rw [State.runHeld, hnone]

variable (h : s.HasQp p n q rs)
include h

/-- A WRITE writes its bytes; its last packet leaves a notification. -/
theorem State.HasQp.execPkt_write {k : Pkt} (htrig : k.trigOn = false) (i : Nat) : (s.execPkt p n opWrite i k).2 = .ok
    ∧ (s.execPkt p n opWrite i k).1.HasQp p n
      { q with notes := q.notes ++ if k.fin then [noteWord 2 .ok k.aux.toNat] else [] }
      (rs.upd i fun r => r.write k.roff.toNat k.payload) := by
  have hwritten := (h.count cRxPackets).updRegion i fun r => r.write k.roff.toNat k.payload
  rw [State.execPkt, if_neg (by decide), if_pos rfl]
  cases hfin : k.fin with
  | false => exact ⟨rfl, by simpa using hwritten⟩
  | true =>
    simp only [if_true, State.trigger_off htrig]
    exact ⟨trivial, hwritten.updQp _⟩

/-- The first packet of a SEND takes its message's room in the ring and fills its part of it. -/
theorem State.HasQp.placeSend_first {k : Pkt} (hfirst : q.msgOf k.aux.toNat = none) : (s.placeSend p n k).HasQp p n
    (q.withRoom k.aux.toNat (k.roff.toNat / 2 ^ 32))
    (rs.upd (hIndex q.recvRegion) fun r => r.ringWrite (q.ringAt + k.roff.toNat % 2 ^ 32) k.payload) := by
  unfold State.placeSend
  dsimp only
  generalize hv : s.updQp p n _ = v
  have hroom : v.HasQp p n (q.withRoom k.aux.toNat (k.roff.toNat / 2 ^ 32)) rs := by
    rw [← hv]
    exact h.updQp_eq (if_neg (by simp [hfirst]))
  rw [hroom.qp?]
  dsimp only
  rw [Qp.msgOf_withRoom hfirst]
  exact hroom.updRegion _ _

theorem State.HasQp.execPkt_send_first {k : Pkt} (hfin : k.fin = false) (hfirst : q.msgOf k.aux.toNat = none) (i : Nat) :
    (s.execPkt p n opSend i k).2 = .ok ∧ (s.execPkt p n opSend i k).1.HasQp p n (q.withRoom k.aux.toNat (k.roff.toNat / 2 ^ 32))
      (rs.upd (hIndex q.recvRegion) fun r => r.ringWrite (q.ringAt + k.roff.toNat % 2 ^ 32) k.payload) := by
  rw [State.execPkt, if_pos rfl]
  simp only [hfin, if_neg Bool.false_ne_true]
  exact ⟨trivial, (h.count cRxPackets).placeSend_first hfirst⟩

/-- A read of at most one payload is answered in one packet. -/
theorem State.HasQp.execPkt_readReq {k : Pkt} {i : Nat} {r : Region} (hr : rs.find i = some r) (hfin : k.fin = false)
    (hlow : 0 < k.aux.toNat) (hhigh : k.aux.toNat ≤ q.payload) : s.execPkt p n opReadReq i k
      = ((s.count p cRxPackets).emitPkt p q.port opReadResp (readRespPkt k (r.read k.roff.toNat k.aux.toNat)), .ok) := by
  have hone : (k.aux.toNat + q.payload - 1) / q.payload = 1 := by
    rw [Nat.div_eq_iff (by omega)]
    omega
  have hreg : (s.count p cRxPackets).region? p i = some r := by
    obtain ⟨t, hp, -, hrs⟩ := h.count cRxPackets
    rw [State.region?, hp, Option.bind_some, hrs, hr]
  simp only [State.execPkt, State.serveRead, (h.count cRxPackets).qp?, hreg, hfin, hone, opSend, opWrite, opReadReq, Nat.reduceEqDiff,
    if_false, if_true, if_neg Bool.false_ne_true, List.range_one, State.forEach_cons, State.forEach_nil, Nat.zero_mul, Nat.add_zero, Nat.sub_zero,
    Nat.min_eq_right hhigh]
  rfl
end

/-! ### Rows 1 to 9 (Table 12-8) -/

theorem Tab.put_put {α : Type} (t : Tab α) (i : Nat) (v w : α) : (t.put i v).put i w = t.put i w := by
  induction t with
  | nil => simp [Tab.put]
  | cons e t ih =>
    obtain ⟨k, x⟩ := e
    by_cases hlt : i < k
    · simp [Tab.put, hlt]
    · by_cases heq : i = k
      · simp [Tab.put, heq]
      · simp [Tab.put, hlt, heq, ih]

/-- A port that is set to its own record after a change stays as it is. -/
theorem State.updPort_same (s : State) (n : Nat) (f : Port → Port) :
    ((s.updPort n f).updPort n fun _ => (s.updPort n f).prtNo n) = s.updPort n f := by
  rw [State.prtNo_updPort_self]
  unfold State.updPort
  dsimp only
  rw [Tab.put_put]

theorem Port.police_unpoliced {q : Port} {p tc : Nat} (h : q.polRates.getD (polKey p tc) 0 = 0) (len : Nat) : q.police p tc len = some q :=
  if_pos h

/-- Rows 5 to 9 for a packet of partition `p`, whose record is `t`; `f` is what a packet without a PSN does. -/
def State.fromRow5 (s : State) (p : Part) (t : Partition) (port op : Nat) (k : Pkt) (f : State → Part → Nat → State) : State :=
  if op = opConnectReq then s.connectMsg p port k
  else match t.qps.find k.dqp with
    | none => s.count p cRxNoqp
    | some e =>
      if !(e.fromPeer op k) then s.count p cRxNoqp
      else if e.tenant ≠ k.tenant || e.tc ≠ k.tc then
        let s := s.violation p k.dqp op k 0
        if !(usesPsn op) then s
        else
          let d := psnDiff k.psn e.rcvEpsn
          let s := if -256 ≤ d && d ≤ 255 && !(e.rcvLog.has k.psn.toNat) then
              s.updQp p k.dqp fun q => q.logPsn k.psn Status.accessViolation.code.toNat
            else s
          s.nakTo p port k .accessViolation
      else if !(usesPsn op) then f s p k.dqp
      else
        let d := psnDiff k.psn e.rcvEpsn
        if d < -256 || d > 255 then s.count p cPsnDrops
        else match e.rcvLog.find k.psn.toNat with
          | some v => s.duplicate p k.dqp op k v
          | none => if d < 0 then s.duplicate p k.dqp op k 0 else s.takePkt p k.dqp op k

section
variable {s : State} {port : PortNo} {pk : Pkt} {op : Nat} {f : State → Part → Nat → State}

theorem State.arrive_port_down (hup : (s.prtNo port.val).up = false) : s.arrive port op pk f = s := if_pos (by simp [hup])
theorem State.arrive_too_long (hlen : 9216 < s.frameLen port.val pk) : s.arrive port op pk f = s := if_pos (by simp [maxFrame, hlen])

variable {p : Part} {t : Partition} {q : Qp}

/-- A packet that rows 1 to 4 pass is counted, and the rows from 5 on see the device so. -/
theorem State.arrive_passes (h : Admitted s port pk p t) (hnak : op = opNak → pk.roff.toNat < 2 ^ 32) :
    s.arrive port op pk f = (s.portCount port.val pRxFrames).fromRow5 p t port.val op pk f := by
  obtain ⟨hup, howner, hp, hready, hpol, htag, hst, hlen, htrig⟩ := h
  have hthere : ((s.portCount port.val pRxFrames).addrOwner port.val pk.dst).bind
      (fun p => ((s.portCount port.val pRxFrames).prt p).map fun t => (p, t)) = some (p, t) := by
    rw [show (s.portCount port.val pRxFrames).addrOwner port.val pk.dst = some p from howner, Option.bind_some, State.prt_portCount, hp,
      Option.map_some]
  have hready' : (s.portCount port.val pRxFrames).ready = true := hready
  have hpass : ((s.portCount port.val pRxFrames).prtNo port.val).police p.val pk.tc (s.frameLen port.val pk)
      = some ((s.portCount port.val pRxFrames).prtNo port.val) :=
    Port.police_unpoliced (by rw [State.prtNo_portCount_self]; exact hpol) _
  have hrow1 : failsRow1 op pk = false := by
    have hlow : (op == opNak && decide (2 ^ 32 ≤ pk.roff.toNat)) = false := by
      simp only [Bool.and_eq_false_iff, beq_eq_false_iff_ne, decide_eq_false_iff_not, not_le]
      exact (Decidable.em (op = opNak)).symm.imp_right hnak
    rw [failsRow1, hlow, Bool.or_false]
    cases hon : pk.trigOn with
    | false => rfl
    | true => rw [htrig hon]; rfl
  have hsame : ((s.portCount port.val pRxFrames).updPort port.val fun _ => (s.portCount port.val pRxFrames).prtNo port.val)
      = s.portCount port.val pRxFrames := State.updPort_same ..
  unfold State.arrive
  rw [if_neg (by simp [hup, maxFrame, Nat.not_lt.2 hlen])]
  dsimp only
  rw [hthere]
  dsimp only
  rw [if_neg (by simp [hready']), hpass]
  dsimp only
  rw [hsame, hrow1, if_neg Bool.false_ne_true, if_neg (not_not.2 htag),
    if_neg (by simp [hready']), if_neg hst]
  rfl

theorem State.fromRow5_connectReq : s.fromRow5 p t port.val opConnectReq pk f = s.connectMsg p port.val pk := rfl

theorem State.fromRow5_no_qp (hop : op ≠ opConnectReq) (hq : t.qps.find pk.dqp = none) :
    s.fromRow5 p t port.val op pk f = s.count p cRxNoqp := by
  rw [State.fromRow5, if_neg hop, hq]

/-- An answer of the peer reaches its queue pair. -/
theorem State.arrive_answer (h : FromPeer s port op pk p t q) (hop : op ≠ opConnectReq) (huses : usesPsn op = false) :
    s.arrive port op pk f = f (s.portCount port.val pRxFrames) p pk.dqp := by
  obtain ⟨hadm, hq, hpeer, hten, htc, hnak⟩ := h
  rw [State.arrive_passes hadm hnak, State.fromRow5, if_neg hop, hq]
  dsimp only
  rw [if_neg (by simp [hpeer]), if_neg (by simp [hten, htc]), if_pos (by simp [huses])]

/-- The packet that a queue pair expects goes through the rows from 10 on. -/
theorem State.arrive_expected (h : InOrder s port op pk p t q) (hop : op ≠ opConnectReq) (huses : usesPsn op = true) :
    s.arrive port op pk f = ((s.portCount port.val pRxFrames).fromRow10 p pk.dqp op pk false).runHeld p pk.dqp 1 := by
  obtain ⟨⟨hadm, hq, hpeer, hten, htc, hnak⟩, hpsn, hlog, hstall, hheld, -⟩ := h
  obtain ⟨-, -, hp, -⟩ := id hadm
  have hhas : (s.portCount port.val pRxFrames).HasQp p pk.dqp q t.regions := ⟨t, hp, hq, rfl⟩
  have hd : psnDiff pk.psn q.rcvEpsn = 0 := by simp [psnDiff, hpsn]
  rw [State.arrive_passes hadm hnak, State.fromRow5, if_neg hop, hq]
  dsimp only
  rw [if_neg (by simp [hpeer]), if_neg (by simp [hten, htc]), if_neg (by simp [huses]), hd, if_neg (by simp), hlog]
  dsimp only
  rw [if_neg (by simp), hhas.takePkt_expected hpsn hstall hheld]
end

end Sys2Proof.Machine
end

section
/-! SUPPORT. The end of a queue pair (12 R271, R274, R281, R282; Table 12-7): which queue pairs a partition still has after its operations,
and what failing and closing one does. -/

namespace Sys2Proof.Machine
open Sys2Proof.Cert

/-! ### Which queue pairs there are -/

theorem Tab.find_some_of_key {α : Type} {t : Tab α} {i : Nat} (h : i ∈ t.map (·.1)) : ∃ v, t.find i = some v := by
  induction t with
  | nil => simp at h
  | cons e t ih =>
    obtain ⟨k, v⟩ := e
    rw [Tab.find_cons]
    by_cases hk : k = i
    · exact ⟨v, if_pos hk⟩
    · rw [if_neg hk]
      exact ih (by simpa [Ne.symm hk] using h)

/-- The queue pairs of a partition. -/
def State.qpsOf (s : State) (p : Part) : Option (Tab Qp) := (s.prt p).map (·.qps)
/-- The numbers of the queue pairs of a partition. -/
def State.qpNumbers (s : State) (p : Part) : Option (List Nat) := (s.qpsOf p).map fun qs => qs.map (·.1)

theorem State.qpNumbers_of_prt {s : State} {p : Part} {t : Partition} (hp : s.prt p = some t) :
    s.qpNumbers p = some (t.qps.map (·.1)) := by
  rw [State.qpNumbers, State.qpsOf, hp]
  rfl
theorem State.prt_of_qpNumbers {s : State} {p : Part} {ks : List Nat} (h : s.qpNumbers p = some ks) :
    ∃ t, s.prt p = some t ∧ t.qps.map (·.1) = ks := by
  unfold State.qpNumbers State.qpsOf at h
  cases hp : s.prt p with
  | none => simp [hp] at h
  | some t => exact ⟨t, rfl, by simpa [hp] using h⟩

section
variable (s : State) (p : Part)

/-- An update that leaves the queue pairs of its partition leaves those of every partition. -/
theorem State.qpsOf_updP (o : Part) {f : Partition → Partition} (hf : ∀ t, (f t).qps = t.qps) : (s.updP o f).qpsOf p = s.qpsOf p := by
  rw [State.qpsOf, State.prt_updP]
  split
  · rw [Option.map_map]
    exact congrArg (fun g => Option.map g (s.prt p)) (funext hf)
  · rfl
theorem State.qpNumbers_of_qpsOf {s u : State} {p : Part} (h : u.qpsOf p = s.qpsOf p) : u.qpNumbers p = s.qpNumbers p :=
  congrArg (Option.map _) h

@[simp] theorem State.qpNumbers_updQp (n : Nat) (f : Qp → Qp) : (s.updQp p n f).qpNumbers p = s.qpNumbers p := by
  unfold State.qpNumbers State.qpsOf State.updQp
  rw [State.prt_updP_self]
  cases s.prt p with
  | none => rfl
  | some t => simp
@[simp] theorem State.qpsOf_count (c k : Nat) : (s.count p c k).qpsOf p = s.qpsOf p :=
  State.qpsOf_updP _ _ _ fun _ => Partition.count_qps ..
@[simp] theorem State.qpsOf_event (code status : Nat) (object arg : Word) : (s.event p code status object arg).qpsOf p = s.qpsOf p :=
  State.qpsOf_updP _ _ _ fun _ => Partition.count_qps ..
@[simp] theorem State.qpsOf_finish (m : Nat) (cid : BitVec 16) (st : Status) (r0 r1 : Word) (k : Nat) :
    (s.finish p m cid st r0 r1 k).qpsOf p = s.qpsOf p :=
  State.qpsOf_updP _ _ _ fun t => by unfold Partition.post; split <;> rfl
@[simp] theorem State.qpsOf_emitPkt (port op : Nat) (k : Pkt) : (s.emitPkt p port op k).qpsOf p = s.qpsOf p := by
  unfold State.emitPkt
  split
  · rfl
  · exact State.qpsOf_count ..
@[simp] theorem State.qpsOf_nakTo (port : Nat) (k : Pkt) (st : Status) (hint : Nat) : (s.nakTo p port k st hint).qpsOf p = s.qpsOf p := by
  unfold State.nakTo
  dsimp only
  split <;> simp
@[simp] theorem State.qpNumbers_sendAck (n hint : Nat) : (s.sendAck p n hint).qpNumbers p = s.qpNumbers p := by
  unfold State.sendAck
  split
  · rfl
  · exact (State.qpNumbers_updQp ..).trans (State.qpNumbers_of_qpsOf (State.qpsOf_emitPkt ..))
@[simp] theorem State.qpNumbers_settled (n : Nat) (k : Pkt) (st : Status) (beyond : Bool) :
    (s.settled p n k st beyond).qpNumbers p = s.qpNumbers p := by
  unfold State.settled
  dsimp only
  split
  · exact State.qpNumbers_updQp ..
  · split
    · exact (State.qpNumbers_of_qpsOf (State.qpsOf_nakTo ..)).trans (State.qpNumbers_updQp ..)
    · split
      · exact (State.qpNumbers_sendAck ..).trans (State.qpNumbers_updQp ..)
      · exact State.qpNumbers_updQp ..

/-! ### The ends of requests, chains and queue pairs -/

@[simp] theorem State.qpsOf_chainStep (key : Nat) (st : Status) : (s.chainStep p key st).qpsOf p = s.qpsOf p := by
  unfold State.chainStep
  split
  · rfl
  · dsimp only
    split
    · exact (State.qpsOf_finish ..).trans (State.qpsOf_updP _ _ _ fun _ => rfl)
    · exact State.qpsOf_updP _ _ _ fun _ => rfl
@[simp] theorem State.qpsOf_dropChain (key : Nat) (st : Status) : (s.dropChain p key st).qpsOf p = s.qpsOf p := by
  unfold State.dropChain
  split
  · rfl
  · split
    · exact (State.qpsOf_finish ..).trans (State.qpsOf_updP _ _ _ fun _ => rfl)
    · rfl
@[simp] theorem State.qpNumbers_endWork (n : Nat) (w : WorkReq) (st : Status) : (s.endWork p n w st).qpNumbers p = s.qpNumbers p := by
  unfold State.endWork
  dsimp only
  split
  · exact (State.qpNumbers_of_qpsOf (State.qpsOf_chainStep ..)).trans (State.qpNumbers_updQp ..)
  · split
    · exact State.qpNumbers_updQp ..
    · exact (State.qpNumbers_updQp ..).trans (State.qpNumbers_updQp ..)
@[simp] theorem State.qpNumbers_endWaiter (n : Nat) (st : Status) (r1 : Nat) : (s.endWaiter p n st r1).qpNumbers p = s.qpNumbers p := by
  unfold State.endWaiter
  split
  · rfl
  · exact (State.qpNumbers_of_qpsOf (State.qpsOf_finish ..)).trans (State.qpNumbers_updQp ..)
@[simp] theorem State.qpsOf_freeRegion (o : Part) (i : Nat) : (s.freeRegion o i).qpsOf p = s.qpsOf p := by
  unfold State.freeRegion
  split
  · refine Eq.trans (State.qpsOf_updP _ _ _ ?_) ?_
    · exact fun _ => rfl
    rw [State.qpsOf, State.prt_unmap, State.prt_unmap, State.qpsOf]
  · rfl
@[simp] theorem State.qpsOf_settleVersions : s.settleVersions.qpsOf p = s.qpsOf p := by
  refine State.forEach_keeps (fun s => s.qpsOf p) _ _ (fun s g => ?_) s
  exact State.qpsOf_freeRegion ..
@[simp] theorem State.qpNumbers_stopWork (n : Nat) (st : Status) : (s.stopWork p n st).qpNumbers p = s.qpNumbers p := by
  unfold State.stopWork
  dsimp only
  refine (State.qpNumbers_of_qpsOf (State.qpsOf_settleVersions ..)).trans ((State.qpNumbers_updQp ..).trans ?_)
  exact State.forEach_keeps (fun s => s.qpNumbers p) _ _ (fun s w => State.qpNumbers_endWork ..) s
end

/-- A queue pair that closes is FREE (Table 12-7). -/
theorem State.closeQp_frees {s : State} {p : Part} {ks : List Nat} (hks : s.qpNumbers p = some ks) (hsorted : ks.Pairwise (· < ·))
    (n : Nat) : ∃ t, (s.closeQp p n).prt p = some t ∧ t.qps.find n = none := by
  unfold State.closeQp State.freeQp
  dsimp only
  generalize hu : (s.stopWork p n .aborted).endWaiter p n .ok _ = u
  have hnum : u.qpNumbers p = some ks := by rw [← hu, State.qpNumbers_endWaiter, State.qpNumbers_stopWork, hks]
  obtain ⟨t, ht, hkeys⟩ := State.prt_of_qpNumbers hnum
  have hwf : t.qps.wf := (Tab.wf_iff_keys _).2 (hkeys ▸ hsorted)
  have hqps : ∀ l : List Nat, ((u.updP p fun t => { t with qps := t.qps.del n }).forEach l
      fun s k => s.dropChain p k .aborted).qpsOf p = some (t.qps.del n) := by
    intro l
    rw [State.forEach_keeps (fun s => s.qpsOf p) l _ fun s k => State.qpsOf_dropChain .., State.qpsOf, State.prt_updP_of_prt ht]
    rfl
  obtain ⟨v, hv, hdel⟩ := Option.map_eq_some_iff.1 (hqps _)
  exact ⟨v, hv, by rw [hdel, Tab.find_del_self _ hwf]⟩

section
variable {s : State} {p : Part} {n : Nat} {q : Qp} {rs : Tab Region} (h : s.HasQp p n q rs)
include h

theorem State.HasQp.endWaiter (st : Status) (r1 : Nat) : (s.endWaiter p n st r1).HasQp p n { q with waiter := none } rs := by
  simp only [State.endWaiter, h.qp?, Option.bind_some]
  cases hw : q.waiter with
  | none =>
    have hsame : { q with waiter := none } = q := by rw [← hw]
    exact hsame ▸ h
  | some w => exact (h.updQp _).finish ..

/-- A queue pair that fails is in ERROR with its status (Table 12-7). -/
theorem State.HasQp.failQp (st : Status) : ∃ q' rs', (s.failQp p n st).HasQp p n q' rs' ∧ q'.st = .error ∧ q'.why = st := by
  obtain ⟨t, hp, hq, -⟩ := h
  have hnum : (s.stopWork p n st).qpNumbers p = some (t.qps.map (·.1)) := by
    rw [State.qpNumbers_stopWork, State.qpNumbers_of_prt hp]
  obtain ⟨u, hu, hkeys⟩ := State.prt_of_qpNumbers hnum
  obtain ⟨e, he⟩ : ∃ e, u.qps.find n = some e :=
    Tab.find_some_of_key (hkeys ▸ List.mem_map.2 ⟨(n, q), Tab.mem_of_find hq, rfl⟩)
  have hstopped : (s.stopWork p n st).HasQp p n e u.regions := ⟨u, hu, he, rfl⟩
  exact ⟨_, _, (hstopped.updQp fun q => { q with st := .error, why := st }).endWaiter st 0, rfl, rfl⟩
end

end Sys2Proof.Machine
end

section
/-! SUPPORT. What the packets of Table 12-8 do to the receiver (12 R268 to R272, R274, R276). -/

namespace Sys2Proof.Machine
open Sys2Proof.Cert

/-! ### The arms of the packets -/

theorem exec_send (port : PortNo) (k : Pkt) (s : State) :
    exec (.send port k) s = .next (s.arrive port opSend k fun s _ _ => s) := rfl
theorem exec_write (port : PortNo) (k : Pkt) (s : State) :
    exec (.write port k) s = .next (s.arrive port opWrite k fun s _ _ => s) := rfl
theorem exec_readReq (port : PortNo) (k : Pkt) (s : State) :
    exec (.readReq port k) s = .next (s.arrive port opReadReq k fun s _ _ => s) := rfl
theorem exec_disconnect (port : PortNo) (k : Pkt) (s : State) :
    exec (.disconnect port k) s = .next (s.arrive port opDisconnect k fun s _ _ => s) := rfl
theorem exec_connectReq (port : PortNo) (k : Pkt) (s : State) :
    exec (.connectReq port k) s = .next (s.arrive port opConnectReq k fun s _ _ => s) := rfl
theorem exec_ack (port : PortNo) (k : Pkt) (s : State) :
    exec (.ack port k) s = .next (s.arrive port opAck k fun s p n => s.ackMsg k p n) := rfl
theorem exec_nak (port : PortNo) (k : Pkt) (s : State) :
    exec (.nak port k) s = .next (s.arrive port opNak k fun s p n => s.nakMsg k p n) := rfl
theorem exec_readResp (port : PortNo) (k : Pkt) (s : State) :
    exec (.readResp port k) s = .next (s.arrive port opReadResp k fun s p n => s.readRespMsg k p n) := rfl
theorem exec_connectRep (port : PortNo) (k : Pkt) (s : State) :
    exec (.connectRep port k) s = .next (s.arrive port opConnectRep k fun s p n => s.connectRepMsg k p n) := rfl

/-- A packet goes through the rows of Table 12-8 for its operation. -/
theorem exec_packet_arrives {port : PortNo} {pk : Pkt} {c : Instr} (hc : c ∈ [Instr.send port pk, .write port pk, .readReq port pk,
    .readResp port pk, .ack port pk, .nak port pk, .connectReq port pk, .connectRep port pk, .disconnect port pk]) :
    ∃ op f, (c ≠ .connectReq port pk → op ≠ opConnectReq) ∧ ∀ s, exec c s = .next (s.arrive port op pk f) := by
  simp only [List.mem_cons, List.not_mem_nil, or_false] at hc
  rcases hc with rfl | rfl | rfl | rfl | rfl | rfl | rfl | rfl | rfl
  · exact ⟨opSend, _, fun _ => by decide, exec_send port pk⟩
  · exact ⟨opWrite, _, fun _ => by decide, exec_write port pk⟩
  · exact ⟨opReadReq, _, fun _ => by decide, exec_readReq port pk⟩
  · exact ⟨opReadResp, _, fun _ => by decide, exec_readResp port pk⟩
  · exact ⟨opAck, _, fun _ => by decide, exec_ack port pk⟩
  · exact ⟨opNak, _, fun _ => by decide, exec_nak port pk⟩
  · exact ⟨opConnectReq, _, fun h => absurd rfl h, exec_connectReq port pk⟩
  · exact ⟨opConnectRep, _, fun _ => by decide, exec_connectRep port pk⟩
  · exact ⟨opDisconnect, _, fun _ => by decide, exec_disconnect port pk⟩

/-! ### Frames that carry packets -/

theorem State.queues_portCount (s : State) (n c m : Nat) : ((s.portCount n c).prtNo m).queues = (s.prtNo m).queues := by
  by_cases h : m = n
  · rw [h, State.prtNo_portCount_self]
    rfl
  · rw [State.portCount, State.prtNo_updPort_ne _ _ h]
theorem State.time_portCount (s : State) (n c m : Nat) : ((s.portCount n c).prtNo m).time = (s.prtNo m).time := by
  by_cases h : m = n
  · rw [h, State.prtNo_portCount_self]
    rfl
  · rw [State.portCount, State.prtNo_updPort_ne _ _ h]

/-- A packet that is sent stands behind the frames of its partition's sub-queue. -/
theorem State.frames_emitPkt {s : State} {p : Part} {t : Partition} (hp : s.prt p = some t) (port op : Nat) (k : Pkt) :
    ∃ f : OutFrame, f.op = op ∧ f.pkt = some k
      ∧ (((s.emitPkt p port op k).prtNo port).queues.getD (subKey k.tc p.val) ⟨[], 0⟩).frames
        = ((s.prtNo port).queues.getD (subKey k.tc p.val) ⟨[], 0⟩).frames ++ [f] := by
  simp only [State.emitPkt, hp]
  exact ⟨⟨op, some k, lineBytes t.binding k, (s.prtNo port).time⟩, rfl, rfl, State.frames_enqueue ..⟩

/-! ### The expected packet -/

theorem status_code_ne_held (st : Status) : st.code.toNat ≠ 0xFE := by cases st <;> decide

section
variable {s : State} {p : Part} {n : Nat} {q : Qp} {rs : Tab Region} {k : Pkt} (h : s.HasQp p n q rs) (hheld : q.held = [])
include h hheld

/-- The expected packet is settled: the window moves by one, and nothing that waits can run. -/
theorem State.HasQp.settled_expected (hpsn : k.psn = q.rcvEpsn) (hnext : q.rcvLog.find (psnAdd q.rcvEpsn 1).toNat = none) (st : Status) :
    ∃ q', ((s.settled p n k st false).runHeld p n 1).HasQp p n q' rs
      ∧ q' = { q with rcvEpsn := psnAdd k.psn 1, rcvLog := q'.rcvLog, unacked := q'.unacked, eceDue := q'.eceDue } := by
  obtain ⟨a, b, hset⟩ := h.settled k st false
  rw [hpsn, Qp.logPsn_expected hnext (status_code_ne_held st)] at hset
  rw [hset.runHeld_of_held_nil hheld]
  exact ⟨_, hset, by rw [hpsn]⟩

/-- An executed packet that asks for no answer yet is logged alone (R276). -/
theorem State.HasQp.settled_later (hfin : k.fin = false) (hareq : k.areq = false) (hce : k.ce = false) (hfew : q.unacked < 3) :
    (s.settled p n k .ok false).runHeld p n 1
      = s.updQp p n fun q => { q.logPsn k.psn Status.ok.code.toNat with unacked := q.unacked + 1, eceDue := q.eceDue || k.ce } := by
  have hlog := h.updQp fun q => { q.logPsn k.psn Status.ok.code.toNat with unacked := q.unacked + 1, eceDue := q.eceDue || k.ce }
  have hquiet : s.settled p n k .ok false
      = s.updQp p n fun q => { q.logPsn k.psn Status.ok.code.toNat with unacked := q.unacked + 1, eceDue := q.eceDue || k.ce } := by
    simp only [State.settled, hlog.qp?]
    rw [if_neg (by simp), if_neg]
    simp [hfin, hareq, hce]
    omega
  rw [hquiet, hlog.runHeld_of_held_nil ((Qp.logPsn_held ..).trans hheld)]
end

section
variable {s : State} {port : PortNo} {pk : Pkt} {p : Part} {t : Partition} {q : Qp} {op : Nat} {f : State → Part → Nat → State}
  (h : InOrder s port op pk p t q)
include h

theorem State.hasQp_of_inOrder : (s.portCount port.val pRxFrames).HasQp p pk.dqp q t.regions := by
  obtain ⟨⟨⟨-, -, hp, -⟩, hq, -⟩, -⟩ := h
  exact ⟨t, hp, hq, rfl⟩

/-- The expected packet executes where rows 10 to 15 let it run. -/
theorem State.arrive_runs (hop : op ≠ opConnectReq ∧ op ≠ opDisconnect) (huses : usesPsn op = true) {i : Nat}
    (hrows : t.rowsFrom10 q op pk = .run i) : s.arrive port op pk f
      = (((s.portCount port.val pRxFrames).execPkt p pk.dqp op i pk).1.settled p pk.dqp pk
          ((s.portCount port.val pRxFrames).execPkt p pk.dqp op i pk).2 false).runHeld p pk.dqp 1 := by
  obtain ⟨⟨⟨-, -, hp, -⟩, hq, -⟩, -⟩ := id h
  rw [State.arrive_expected h hop.1 huses, State.fromRow10_runs (s := s.portCount port.val pRxFrames) hp hq hop.2 hrows]

/-- What an execution that leaves the window makes of the queue pair and the regions stands behind the packet, with the window moved. -/
theorem State.arrive_executed (hop : op ≠ opConnectReq ∧ op ≠ opDisconnect) (huses : usesPsn op = true) {i : Nat}
    (hrows : t.rowsFrom10 q op pk = .run i) {st : Status} {q₁ : Qp} {rs : Tab Region}
    (hexec : ((s.portCount port.val pRxFrames).execPkt p pk.dqp op i pk).2 = st
      ∧ ((s.portCount port.val pRxFrames).execPkt p pk.dqp op i pk).1.HasQp p pk.dqp q₁ rs)
    (hsame : q₁.held = q.held ∧ q₁.rcvEpsn = q.rcvEpsn ∧ q₁.rcvLog = q.rcvLog) : ∃ q', (s.arrive port op pk f).HasQp p pk.dqp q' rs
      ∧ q' = { q₁ with rcvEpsn := psnAdd pk.psn 1, rcvLog := q'.rcvLog, unacked := q'.unacked, eceDue := q'.eceDue } := by
  obtain ⟨-, hpsn, -, -, hheld, hnext⟩ := id h
  obtain ⟨hh, he, hl⟩ := hsame
  rw [State.arrive_runs h hop huses hrows, hexec.1]
  exact hexec.2.settled_expected (hh.trans hheld) (hpsn.trans he.symm) (by rw [hl, he, ← hpsn]; exact hnext) st
end

/-! ### The operations that reach a region (R270, R275, R276) -/

section
variable {s : State} {port : PortNo} {pk : Pkt} {p : Part} {t : Partition} {q : Qp} {r : Region}

theorem exec_write_writes (h : InOrder s port opWrite pk p t q) (hgen : t.genOf kRegion (pk.rkey.toNat % 65536) = pk.rkey.toNat / 2 ^ 24)
    (hr : t.regions.find (pk.rkey.toNat % 65536) = some r) (hreg : r.registered = true) (hkey : r.rkey = pk.rkey)
    (hst : r.st = .uploading ∨ (r.st = .valid ∧ r.published = false)) (hsize : pk.roff.toNat + pk.payload.length ≤ r.size)
    (hcold : t.cold r pk.roff.toNat pk.payload.length = []) (htrig : pk.trigOn = false) :
    ∃ (u : State) (t' : Partition) (q' : Qp), exec (.write port pk) s = .next u ∧ u.prt p = some t'
      ∧ t'.regions.find (pk.rkey.toNat % 65536) = some (r.write pk.roff.toNat pk.payload) ∧ t'.qps.find pk.dqp = some q'
      ∧ q'.rcvEpsn = psnAdd pk.psn 1 ∧ q'.notes = q.notes ++ if pk.fin then [noteWord 2 .ok pk.aux.toNat] else [] := by
  have hrows := Partition.rowsFrom10_write (q := q) hgen hr hreg hkey hst hsize hcold
  obtain ⟨q', ⟨t', ht', hq', hrs⟩, heq⟩ := State.arrive_executed (f := fun s _ _ => s) h (by decide) (by decide) hrows
    ((State.hasQp_of_inOrder h).execPkt_write htrig _) ⟨rfl, rfl, rfl⟩
  exact ⟨_, t', q', exec_write .., ht', by rw [hrs, Tab.find_upd_self, hr]; rfl, hq', by rw [heq], by rw [heq]⟩

theorem exec_write_no_region (h : InOrder s port opWrite pk p t q)
    (hgen : t.genOf kRegion (pk.rkey.toNat % 65536) = pk.rkey.toNat / 2 ^ 24)
    (hr : t.regions.find (pk.rkey.toNat % 65536) = none) :
    ∃ u t', exec (.write port pk) s = .next u ∧ u.prt p = some t' ∧ t'.regions = t.regions := by
  obtain ⟨⟨⟨-, -, hp, -⟩, hq, -⟩, hpsn, -, -, hheld, hnext⟩ := id h
  have hrows := Partition.rowsFrom10_no_region (q := q) (op := opWrite) (by decide) hgen hr
  obtain ⟨v, hnoted⟩ := (State.hasQp_of_inOrder h).violation opWrite pk 0
  obtain ⟨q', ⟨t', ht', -, hrs⟩, -⟩ := hnoted.settled_expected hheld hpsn (hpsn ▸ hnext) .accessViolation
  refine ⟨_, t', exec_write .., ?_, hrs⟩
  rw [State.arrive_expected h (by decide) (by decide),
    State.fromRow10_violates (s := s.portCount port.val pRxFrames) hp hq (by decide) hrows]
  exact ht'

theorem exec_send_first (h : InOrder s port opSend pk p t q) (hfin : pk.fin = false)
    (hrows : t.rowsFrom10 q opSend pk = .run (hIndex q.recvRegion)) (hr : t.regions.find (hIndex q.recvRegion) = some r)
    (hfirst : q.msgOf pk.aux.toNat = none) :
    ∃ (u : State) (t' : Partition) (q' : Qp), exec (.send port pk) s = .next u ∧ u.prt p = some t'
      ∧ t'.regions.find (hIndex q.recvRegion) = some (r.ringWrite (q.ringAt + pk.roff.toNat % 2 ^ 32) pk.payload)
      ∧ t'.qps.find pk.dqp = some q' ∧ q'.msgs = q.msgs ++ [⟨pk.aux.toNat, q.ringAt, pk.roff.toNat / 2 ^ 32⟩]
      ∧ q'.ringUsed = q.ringUsed + pk.roff.toNat / 2 ^ 32 ∧ q'.rcvEpsn = psnAdd pk.psn 1 := by
  obtain ⟨q', ⟨t', ht', hq', hrs⟩, heq⟩ := State.arrive_executed (f := fun s _ _ => s) h (by decide) (by decide) hrows
    ((State.hasQp_of_inOrder h).execPkt_send_first hfin hfirst _) ⟨rfl, rfl, rfl⟩
  refine ⟨_, t', q', exec_send .., ht', by rw [hrs, Tab.find_upd_self, hr]; rfl, hq', ?_, ?_, ?_⟩ <;> rw [heq] <;> rfl

theorem exec_readReq_answers (h : InOrder s port opReadReq pk p t q) (hfin : pk.fin = false) (hareq : pk.areq = false)
    (hce : pk.ce = false) (hun : q.unacked = 0) (hrows : t.rowsFrom10 q opReadReq pk = .run (pk.rkey.toNat % 65536))
    (hr : t.regions.find (pk.rkey.toNat % 65536) = some r) (hlow : 0 < pk.aux.toNat) (hhigh : pk.aux.toNat ≤ q.payload) :
    ∃ (u : State) (f : OutFrame) (k' : Pkt), exec (.readReq port pk) s = .next u
      ∧ ((u.prtNo q.port).queues.getD (subKey pk.tc p.val) ⟨[], 0⟩).frames
        = ((s.prtNo q.port).queues.getD (subKey pk.tc p.val) ⟨[], 0⟩).frames ++ [f]
      ∧ f.op = opReadResp ∧ f.pkt = some k' ∧ k'.payload = r.read pk.roff.toNat pk.aux.toNat ∧ k'.dst = pk.src ∧ k'.dqp = pk.sqp
      ∧ k'.aux = pk.psn.zeroExtend 32 := by
  obtain ⟨-, -, -, -, hheld, -⟩ := id h
  have hcounted := (State.hasQp_of_inOrder h).count cRxPackets
  obtain ⟨v, hv, -⟩ := id hcounted
  have hsent := hcounted.emitPkt q.port opReadResp (readRespPkt pk (r.read pk.roff.toNat pk.aux.toNat))
  obtain ⟨f, hop, hpkt, hframes⟩ := State.frames_emitPkt hv q.port opReadResp (readRespPkt pk (r.read pk.roff.toNat pk.aux.toNat))
  rw [State.prtNo_count, State.queues_portCount] at hframes
  refine ⟨_, f, _, exec_readReq .., ?_, hop, hpkt, rfl, rfl, rfl, rfl⟩
  rw [State.arrive_runs h (by decide) (by decide) hrows, (State.hasQp_of_inOrder h).execPkt_readReq hr hfin hlow hhigh]
  dsimp only
  rw [hsent.settled_later hheld hfin hareq hce (by omega), State.prtNo_updQp]
  exact hframes
end

/-! ### Connections (R271, R272) -/

section
variable {s : State} {port : PortNo} {pk : Pkt} {p : Part} {t : Partition} {q : Qp}

theorem exec_disconnect_frees (h : InOrder s port opDisconnect pk p t q) (hw : t.qps.wf) :
    ∃ u t', exec (.disconnect port pk) s = .next u ∧ u.prt p = some t' ∧ t'.qps.find pk.dqp = none := by
  obtain ⟨⟨⟨-, -, hp, -⟩, -⟩, -⟩ := id h
  have hnum : ((s.portCount port.val pRxFrames).settled p pk.dqp pk .ok false).qpNumbers p = some (t.qps.map (·.1)) :=
    (State.qpNumbers_settled ..).trans (State.qpNumbers_of_prt hp)
  obtain ⟨t', ht', hfree⟩ := State.closeQp_frees hnum ((Tab.wf_iff_keys _).1 hw) pk.dqp
  refine ⟨_, t', exec_disconnect .., ?_, hfree⟩
  rw [State.arrive_expected h (by decide) (by decide), (State.hasQp_of_inOrder h).fromRow10_disconnect, State.runHeld_of_no_qp]
  · exact ht'
  · rw [State.qp?, ht', Option.bind_some, hfree]

theorem State.HasQp.reconnected {v : State} {n : Nat} {rs : Tab Region} (h : v.HasQp p n q rs) (m : Nat) : (v.reconnected p m).HasQp p n q rs :=
  h.updP fun _ => ⟨rfl, rfl⟩

theorem Partition.find_of_accepts (h : t.accepts pk = some q) : t.qps.find pk.dqp = some q := by
  obtain ⟨e, he, hif⟩ := Option.bind_eq_some_iff.1 h
  split at hif
  · rwa [← hif]
  · cases hif

theorem exec_connectReq_accepts (h : Admitted s port pk p t) (hacc : t.accepts pk = some q) :
    ∃ (u : State) (t' : Partition) (q' : Qp), exec (.connectReq port pk) s = .next u ∧ u.prt p = some t'
      ∧ t'.qps.find pk.dqp = some q' ∧ q'.st = .ready ∧ q'.peerAddr = pk.src ∧ q'.peerQpn = pk.sqp
      ∧ q'.payload = min (pk.roff.toNat % 65536) (s.portPayload port.val) ∧ q'.rcvEpsn = pk.aux.truncate 24
      ∧ q'.sndNxt = Config.psn s.free ∧ q'.sndUna = q'.sndNxt ∧ q'.cwnd = q'.payload := by
  obtain ⟨-, -, hp, -⟩ := id h
  have hhas : ((s.portCount port.val pRxFrames).fresh.2).HasQp p pk.dqp q t.regions := ⟨t, hp, Partition.find_of_accepts hacc, rfl⟩
  obtain ⟨t', ht', hq', -⟩ := ((hhas.updQp fun q => Qp.opened { q with peerAddr := pk.src, peerQpn := pk.sqp, sndNxt := Config.psn s.free }
    (min (pk.roff.toNat % 65536) (s.portPayload port.val)) (pk.aux.truncate 24) t.qpCtl).reconnected pk.dqp).emitPkt port.val opConnectRep
      (repPkt pk .ok (Config.psn s.free).toNat 0 (min (pk.roff.toNat % 65536) (s.portPayload port.val)))
  refine ⟨_, t', _, exec_connectReq .., ?_, hq', rfl, rfl, rfl, rfl, rfl, rfl, rfl, rfl⟩
  rw [State.arrive_passes h fun e => absurd e (by decide), State.fromRow5_connectReq, State.connectMsg, State.prt_portCount, hp,
    Option.bind_some, hacc]
  exact ht'

theorem exec_connectReq_refuses (h : Admitted s port pk p t) (hacc : t.accepts pk = none) :
    ∃ u t', exec (.connectReq port pk) s = .next u ∧ u.prt p = some t' ∧ t'.qps = t.qps := by
  obtain ⟨-, -, hp, -⟩ := id h
  have harrive : s.arrive port opConnectReq pk (fun s _ _ => s)
      = ((s.portCount port.val pRxFrames).emitPkt p port.val opConnectRep (repPkt pk .accessViolation 0 0 0)).statusEvent p .accessViolation
        0 (violationArg opConnectReq pk) := by
    rw [State.arrive_passes h fun e => absurd e (by decide), State.fromRow5_connectReq, State.connectMsg, State.prt_portCount, hp,
      Option.bind_some, hacc, Option.map_none]
  have hqps : (s.arrive port opConnectReq pk fun s _ _ => s).qpsOf p = some t.qps := by
    rw [harrive, State.statusEvent, State.qpsOf_event, State.qpsOf_emitPkt, State.qpsOf, State.prt_portCount, hp, Option.map_some]
  obtain ⟨t', ht', heq⟩ := Option.map_eq_some_iff.1 hqps
  exact ⟨_, t', exec_connectReq .., ht', heq⟩
end

/-! ### The obligation -/

/-- Settles O42: one case for each operation, from the lemma on what its expected packet does, and one for each way to be dropped. -/
theorem packetResults : Obligations.PacketResults := by
  unfold Obligations.PacketResults
  intro s port pk p t q
  refine ⟨fun r => exec_write_writes, fun h _ hnone hgen => exec_write_no_region h hgen hnone, ?send, ?read, exec_disconnect_frees,
    exec_connectReq_accepts, exec_connectReq_refuses, ?long, ?down, ?noqp⟩
  case send =>
    intro r i h hfin hnull hgen hr hst hlen hoff hfirst a n hcold hwrap hroom
    exact exec_send_first h hfin (Partition.rowsFrom10_send_first hnull hgen hr hst hlen hoff hfirst hcold hwrap hroom) hr hfirst
  case read =>
    intro r i h hfin hareq hce hun hgen hr hreg hkey hst hlow hhigh hsize hpoison hcold
    exact exec_readReq_answers h hfin hareq hce hun (Partition.rowsFrom10_readReq hgen hr hreg hkey hst hsize hpoison hcold) hr hlow hhigh
  case long => exact fun _ hlen => ⟨congrArg _ (State.arrive_too_long hlen), congrArg _ (State.arrive_too_long hlen)⟩
  case down =>
    intro hdown c hc
    obtain ⟨op, f, -, harrive⟩ := exec_packet_arrives hc
    rw [harrive, State.arrive_port_down hdown]
  case noqp =>
    intro h hlow hnone c hc
    obtain ⟨op, f, hop, harrive⟩ := exec_packet_arrives (c := c) (port := port) (pk := pk) (by
      simp only [List.mem_cons] at hc ⊢
      tauto)
    have hne : op ≠ opConnectReq := hop (by rintro rfl; simp at hc)
    obtain ⟨-, -, hp, -⟩ := id h
    refine ⟨_, harrive s, ?_⟩
    rw [State.arrive_passes h fun _ => hlow, State.fromRow5_no_qp hne hnone]
    exact State.prt_count_of_prt (s := s.portCount port.val pRxFrames) hp ..

end Sys2Proof.Machine
end

section
/-! SUPPORT. What answers do to the sender of packets (12 R274, R276, R279, R283, R284): the end of requests, the window, and the answers
themselves. -/

namespace Sys2Proof.Machine
open Sys2Proof.Cert

/-! ### The end of work requests (R274) -/

/-- Where no request ends a transfer, no transfer is complete. -/
theorem firstTransfer_none {ws : List WorkReq} (h : ∀ w ∈ ws, w.final = false) : firstTransfer ws = none := by
  induction ws with
  | nil => rfl
  | cons w ws ih =>
    rw [firstTransfer, if_neg (by simp [h w (by simp)]), ih fun e he => h e (by simp [he])]
    rfl

section
variable {s : State} {p : Part} {n : Nat} {q : Qp} {rs : Tab Region} (h : s.HasQp p n q rs)
include h

/-- A posted request of the host's that ends leaves a notification. -/
theorem State.HasQp.endWork_posted {w : WorkReq} (hchain : w.chain = none) (hdata : w.data = none) (st : Status) :
    (s.endWork p n w st).HasQp p n
      { q with work := q.work.filter fun e => e.id ≠ w.id, notes := q.notes ++ [noteWord 1 st w.tag.toNat] } rs := by
  simp only [State.endWork, hchain, hdata, Option.isSome_none, if_neg Bool.false_ne_true]
  exact (h.updQp _).updQp _

theorem State.HasQp.settleWork_unfinished (hft : firstTransfer q.work = none) (fuel : Nat) : s.settleWork p n fuel = s := by
  cases fuel with
  | zero => rfl
  | succ fuel => simp only [State.settleWork, h.qp?, hft]

/-- Nothing more is sent where all requests have been cut into packets. -/
theorem State.HasQp.pump_idle (hsent : ∀ w ∈ q.work, (if w.op = 3 then 1 else w.len) ≤ w.sent) (fuel : Nat) : s.pump p n fuel = s := by
  cases fuel with
  | zero => rfl
  | succ fuel =>
    have hnone : q.work.find? (fun w => decide (w.sent < if w.op = 3 then 1 else w.len)) = none := by
      simp only [List.find?_eq_none, decide_eq_true_eq, not_lt]
      exact hsent
    simp only [State.pump, h.qp?, hnone]

theorem State.HasQp.afterAnswer_idle (hst : q.st = .ready) (hft : firstTransfer q.work = none)
    (hsent : ∀ w ∈ q.work, (if w.op = 3 then 1 else w.len) ≤ w.sent) : s.afterAnswer p n = s := by
  unfold State.afterAnswer
  dsimp only
  rw [h.settleWork_unfinished hft, h.qp?]
  dsimp only
  rw [if_neg (by simp [Qp.discDone, hst]), h.pump_idle hsent]

/-- The only request, all of whose packets are answered, ends with its status. -/
theorem State.HasQp.afterAnswer_last {w : WorkReq} (hst : q.st = .ready) (hwork : q.work = [w]) (hfin : w.final = true)
    (hacked : w.acked = true) (hop : w.op ≠ 3) (hchain : w.chain = none) (hdata : w.data = none) :
    (s.afterAnswer p n).HasQp p n { q with work := [], notes := q.notes ++ [noteWord 1 w.status w.tag.toNat] } rs := by
  have hended : (s.endWork p n w w.status).HasQp p n { q with work := [], notes := q.notes ++ [noteWord 1 w.status w.tag.toNat] } rs := by
    simpa [hwork] using h.endWork_posted hchain hdata w.status
  have hft : firstTransfer q.work = some [w] := by rw [hwork, firstTransfer, if_pos hfin]
  have hwhole : ([w].all fun w => w.whole q.payload) = true := by simp [WorkReq.whole, hacked, hop]
  have hsettle : ∀ fuel, s.settleWork p n (fuel + 1) = s.endWork p n w w.status := by
    intro fuel
    simp only [State.settleWork, h.qp?, hft, hwhole, if_true, List.foldl_cons, List.foldl_nil, firstBadSt, State.forEach_cons,
      State.forEach_nil]
    exact hended.settleWork_unfinished rfl fuel
  unfold State.afterAnswer
  dsimp only
  rw [hsettle, hended.qp?]
  dsimp only
  rw [if_neg (by simp [Qp.discDone, hst]), hended.pump_idle (by simp)]
  exact hended
end

/-! ### What is in flight (R283, R284) -/

/-- The answer to the last packet that is out: nothing is in flight any more, and its request knows. -/
theorem Qp.moveUna_answered_last {q : Qp} {o : OutPkt} {w : WorkReq} {hit : OutPkt → Bool} (hout : q.out = [o]) (hwork : q.work = [w])
    (hack : o.acked = false) (hid : o.wr = w.id) (hlast : o.last = true) (hhit : hit o = true) (st : Status) : (q.answered hit st).moveUna
      = { q with out := [], sndUna := q.sndNxt, inflight := q.inflight - o.len
                 work := [{ w with acked := true, status := firstBadSt w.status st }]
                 timeouts := if q.sndNxt = q.sndUna then q.timeouts else 0 } := by
  simp [Qp.answered, Qp.moveUna, hout, hwork, hack, hid, hlast, hhit]

theorem Qp.moveUna_answered_nothing {q : Qp} (hout : q.out = []) (hwork : q.work = []) (hit : OutPkt → Bool) (st : Status) :
    (q.answered hit st).moveUna = { q with sndUna := q.sndNxt, timeouts := if q.sndNxt = q.sndUna then q.timeouts else 0 } := by
  simp [Qp.answered, Qp.moveUna, hout, hwork]

theorem Qp.rttSample_eq (q : Qp) (r : Nat) : ∃ a b c, q.rttSample r = { q with srtt := a, rttvar := b, rto := c } := by
  unfold Qp.rttSample
  dsimp only
  split <;> exact ⟨_, _, _, rfl⟩
theorem Qp.rttSamples_eq (os : List OutPkt) (now : Nat) (q : Qp) :
    ∃ a b c, os.foldl (fun q o => if o.times = 1 then q.rttSample (now - o.sentAt) else q) q
      = { q with srtt := a, rttvar := b, rto := c } := by
  induction os generalizing q with
  | nil => exact ⟨_, _, _, rfl⟩
  | cons o os ih =>
    rw [List.foldl_cons]
    split
    · obtain ⟨a, b, c, hq⟩ := q.rttSample_eq (now - o.sentAt)
      rw [hq]
      exact ih _
    · exact ih q
theorem Qp.winGrow_eq (q : Qp) (a : Nat) : ∃ w g, q.winGrow a = { q with cwnd := w, ss := g } := by
  unfold Qp.winGrow
  split
  · exact ⟨_, _, rfl⟩
  · split <;> exact ⟨_, _, rfl⟩
theorem Qp.winEcn_eq (q : Qp) (now : Nat) : ∃ w g e, q.winEcn now = { q with cwnd := w, ss := g, cutEcn := e } := by
  unfold Qp.winEcn
  split <;> exact ⟨_, _, _, rfl⟩

/-! ### Acknowledgements (R276, R279, R283, R284) -/

/-- The packets that an acknowledgement covers: those below its PSN, and those of its bitmap (R276). -/
def ackCovers (k : Pkt) (o : OutPkt) : Bool :=
  let d := psnDiff o.psn (k.aux.truncate 24)
  d < 0 || (1 ≤ d && d ≤ 64 && bitOf k.roff.toNat (d - 1).toNat)
/-- The packets that an acknowledgement covers as the first. -/
def Qp.newlyAcked (q : Qp) (k : Pkt) : List OutPkt := q.out.filter fun o => !o.acked && ackCovers k o
/-- A queue pair that has taken its controls and the round trips of an acknowledgement (R284, R285). -/
def Qp.timed (q : Qp) (ctl : QpCtl) (k : Pkt) (now : Nat) : Qp :=
  (q.newlyAcked k).foldl (fun q o => if o.times = 1 then q.rttSample (now - o.sentAt) else q) { q with ctl := ctl }
def Qp.echoed (q : Qp) (k : Pkt) (now : Nat) : Qp := if k.ece then q.winEcn now else q
/-- A queue pair after an acknowledgement, before the holes that it shows. -/
def Qp.acknowledged (q : Qp) (ctl : QpCtl) (k : Pkt) (now : Nat) : Qp :=
  { ((((q.timed ctl k now).answered (ackCovers k) .ok).moveUna.winGrow ((q.newlyAcked k).map (·.len)).sum).echoed k now) with
    pausedUntil := if k.pause then some (now + k.rkey.toNat * 1000) else none }
/-- The packets that an acknowledgement shows to be lost: three later ones have arrived (R284). -/
def Qp.holes (q : Qp) : List OutPkt :=
  q.out.filter fun o => !o.acked && !o.holeSent && o.notBefore = 0 && 3 ≤ (q.out.filter fun e => e.acked && 0 < psnDiff e.psn o.psn).length

/-- Apart from the clocks and the window, an acknowledgement does what the answer to its packets does. -/
theorem Qp.acknowledged_eq (q : Qp) (ctl : QpCtl) (k : Pkt) (now : Nat) : ∃ a b c w g e, q.acknowledged ctl k now
    = { (q.answered (ackCovers k) .ok).moveUna with
        ctl := ctl, srtt := a, rttvar := b, rto := c, cwnd := w, ss := g, cutEcn := e
        pausedUntil := if k.pause then some (now + k.rkey.toNat * 1000) else none } := by
  obtain ⟨a, b, c, htimed⟩ := Qp.rttSamples_eq (q.newlyAcked k) now { q with ctl := ctl }
  obtain ⟨w, g, hgrow⟩ := Qp.winGrow_eq ((q.timed ctl k now).answered (ackCovers k) .ok).moveUna ((q.newlyAcked k).map (·.len)).sum
  unfold Qp.acknowledged
  rw [hgrow, Qp.timed, htimed, Qp.echoed]
  split
  · rename_i hece
    generalize hq : Qp.winEcn _ now = q₂
    obtain ⟨w, g, e, hecn⟩ := Qp.winEcn_eq _ now
    rw [← hq, hecn]
    exact ⟨a, b, c, w, g, e, rfl⟩
  · exact ⟨a, b, c, w, g, _, rfl⟩

section
variable {s : State} {p : Part} {n : Nat} {t : Partition} {q : Qp}

/-- An acknowledgement after which nothing is in flight shows no hole. -/
theorem State.ackMsg_clears {k : Pkt} (hp : s.prt p = some t) (hq : t.qps.find n = some q)
    (hout : (q.acknowledged t.qpCtl k (s.prtNo q.port).time).out = []) : s.ackMsg k p n
      = ((if k.ece then s.count p cEcnEchoes else s).updQp p n fun _ => q.acknowledged t.qpCtl k (s.prtNo q.port).time).afterAnswer p n := by
  have hnone : ∀ q₁ : Qp, q₁.out = [] → ∀ v : State,
      (((v.updQp p n fun _ => { (if q₁.holes.isEmpty then q₁ else q₁.winLoss (s.prtNo q.port).time) with
        out := (if q₁.holes.isEmpty then q₁ else q₁.winLoss (s.prtNo q.port).time).out.map fun o =>
          if q₁.holes.any fun h => h.psn == o.psn then { o with holeSent := true } else o }).forEach q₁.holes
        fun s o => s.resend p n o).afterAnswer p n) = (v.updQp p n fun _ => q₁).afterAnswer p n := by
    intro q₁ h₁ v
    have hholes : q₁.holes = [] := by rw [Qp.holes, h₁]; rfl
    have hsame : { q₁ with out := [] } = q₁ := by rw [← h₁]
    simp only [hholes, List.isEmpty_nil, if_true, h₁, List.map_nil, State.forEach_nil, hsame]
  unfold State.ackMsg
  rw [hp, Option.bind_some, hq, Option.map_some]
  exact hnone _ hout _
end

section
variable {s : State} {port : PortNo} {pk : Pkt} {p : Part} {t : Partition} {q : Qp} {op : Nat}

theorem State.hasQp_of_fromPeer (h : FromPeer s port op pk p t q) : (s.portCount port.val pRxFrames).HasQp p pk.dqp q t.regions := by
  obtain ⟨⟨-, -, hp, -⟩, hq, -⟩ := h
  exact ⟨t, hp, hq, rfl⟩

/-- An acknowledgement after which nothing is in flight leaves the queue pair so, and goes on with its requests. -/
theorem exec_ack_clears (h : FromPeer s port opAck pk p t q) {q₁ : Qp}
    (hq₁ : q₁ = q.acknowledged t.qpCtl pk (s.prtNo q.port).time) (hout : q₁.out = []) :
    ∃ v : State, exec (.ack port pk) s = .next (v.afterAnswer p pk.dqp) ∧ v.HasQp p pk.dqp q₁ t.regions := by
  obtain ⟨⟨-, -, hp, -⟩, hq, -⟩ := id h
  have hclears := State.ackMsg_clears (s := s.portCount port.val pRxFrames) (k := pk) hp hq (by
    rw [State.time_portCount, ← hq₁]
    exact hout)
  rw [State.time_portCount, ← hq₁] at hclears
  have hecho : (if pk.ece then (s.portCount port.val pRxFrames).count p cEcnEchoes else s.portCount port.val pRxFrames).HasQp p pk.dqp q
      t.regions := by
    split
    · exact (State.hasQp_of_fromPeer h).count _
    · exact State.hasQp_of_fromPeer h
  exact ⟨_, by rw [exec_ack, State.arrive_answer h (by decide) (by decide), hclears], hecho.updQp fun _ => q₁⟩

theorem exec_ack_last {o : OutPkt} {w : WorkReq} (h : FromPeer s port opAck pk p t q) (hst : q.st = .ready) (hout : q.out = [o])
    (hwork : q.work = [w]) (hack : o.acked = false) (hid : o.wr = w.id) (hlast : o.last = true) (hfin : w.final = true) (hop : w.op ≠ 3)
    (hchain : w.chain = none) (hdata : w.data = none) (hok : w.status = .ok) (hbelow : psnDiff o.psn (pk.aux.truncate 24) < 0)
    (hpause : pk.pause = false) : ∃ u t' q', exec (.ack port pk) s = .next u ∧ u.prt p = some t'
      ∧ t'.qps.find pk.dqp = some q' ∧ q'.work = [] ∧ q'.out = [] ∧ q'.sndUna = q.sndNxt ∧ q'.inflight = q.inflight - o.len
      ∧ q'.notes = q.notes ++ [noteWord 1 .ok w.tag.toNat] ∧ q'.pausedUntil = none := by
  have hcovers : ackCovers pk o = true := by simp [ackCovers, hbelow]
  obtain ⟨a, b, c, x, g, e, heq⟩ := q.acknowledged_eq t.qpCtl pk (s.prtNo q.port).time
  rw [Qp.moveUna_answered_last hout hwork hack hid hlast hcovers, hpause, if_neg Bool.false_ne_true] at heq
  obtain ⟨v, hv, hhas⟩ := exec_ack_clears h heq.symm rfl
  obtain ⟨t', ht', hq', -⟩ := hhas.afterAnswer_last hst rfl hfin rfl hop hchain hdata
  exact ⟨_, t', _, hv, ht', hq', rfl, rfl, rfl, rfl, by rw [hok]; rfl, rfl⟩

theorem exec_ack_pauses (h : FromPeer s port opAck pk p t q) (hout : q.out = []) (hwork : q.work = []) (hst : q.st = .ready)
    (hpause : pk.pause = true) : ∃ u t' q', exec (.ack port pk) s = .next u ∧ u.prt p = some t' ∧ t'.qps.find pk.dqp = some q'
      ∧ q'.pausedUntil = some ((s.prtNo q.port).time + pk.rkey.toNat * 1000) := by
  obtain ⟨a, b, c, x, g, e, heq⟩ := q.acknowledged_eq t.qpCtl pk (s.prtNo q.port).time
  rw [Qp.moveUna_answered_nothing hout hwork, hpause, if_pos rfl] at heq
  obtain ⟨v, hv, hhas⟩ := exec_ack_clears h heq.symm hout
  rw [hhas.afterAnswer_idle hst (by rw [hwork]; rfl) (by simp [hwork])] at hv
  obtain ⟨t', ht', hq', -⟩ := hhas
  exact ⟨_, t', _, hv, ht', hq', rfl⟩

/-! ### Refusals (R274, R279) -/

theorem find_status_of_code (st : Status) : allStatuses.find? (fun e => e.code.toNat == st.code.toNat) = some st := by
  cases st <;> decide

/-- A queue pair whose packet with a PSN is not to be sent again before a time (R279). -/
def Qp.heldBack (q : Qp) (psn : BitVec 24) (till : Nat) : Qp :=
  { q with out := q.out.map fun o => if o.psn = psn && !o.acked then { o with notBefore := till } else o }

theorem exec_nak_resendAfter (h : FromPeer s port opNak pk p t q) (hcode : pk.aux.toNat / 2 ^ 24 = Status.resendAfter.code.toNat) :
    ∃ u t', exec (.nak port pk) s = .next u ∧ u.prt p = some t' ∧ t'.qps.find pk.dqp = some { q with
      out := q.out.map fun o => if o.psn = pk.aux.truncate 24 ∧ o.acked = false then
        { o with notBefore := (s.prtNo q.port).time + (pk.roff.toNat % 2 ^ 32) * 1000 } else o } := by
  have hhas := State.hasQp_of_fromPeer h
  obtain ⟨t', ht', hq', -⟩ := hhas.updQp fun e =>
    e.heldBack (pk.aux.truncate 24) ((s.prtNo q.port).time + (pk.roff.toNat % 2 ^ 32) * 1000)
  refine ⟨_, t', exec_nak .., ?_, ?_⟩
  · rw [State.arrive_answer h (by decide) (by decide)]
    unfold State.nakMsg
    rw [hhas.qp?]
    dsimp only
    rw [hcode, find_status_of_code, State.time_portCount]
    exact ht'
  · simpa [Qp.heldBack] using hq'

/-- A refusal of another status ends the packet that it names. -/
theorem exec_nak_refuses {st : Status} (h : FromPeer s port opNak pk p t q) (hst : st ≠ .resendAfter)
    (hcode : pk.aux.toNat / 2 ^ 24 = st.code.toNat) : ∃ v : State, exec (.nak port pk) s = .next (v.afterAnswer p pk.dqp)
      ∧ v.HasQp p pk.dqp (q.answered (fun o => o.psn == pk.aux.truncate 24) st).moveUna t.regions := by
  have hhas := State.hasQp_of_fromPeer h
  refine ⟨_, ?_, hhas.updQp fun q => (q.answered (fun o => o.psn == pk.aux.truncate 24) st).moveUna⟩
  rw [exec_nak, State.arrive_answer h (by decide) (by decide)]
  unfold State.nakMsg
  rw [hhas.qp?]
  dsimp only
  rw [hcode, find_status_of_code]
  dsimp only
  rw [if_neg hst]

theorem exec_nak_last {o : OutPkt} {w : WorkReq} (h : FromPeer s port opNak pk p t q) (hst : q.st = .ready) (hout : q.out = [o])
    (hwork : q.work = [w]) (hack : o.acked = false) (hid : o.wr = w.id) (hpsn : o.psn = pk.aux.truncate 24) (hlast : o.last = true)
    (hfin : w.final = true) (hop : w.op ≠ 3) (hchain : w.chain = none) (hdata : w.data = none) (hok : w.status = .ok) {st : Status}
    (hres : st ≠ .resendAfter) (hcode : pk.aux.toNat / 2 ^ 24 = st.code.toNat) : ∃ u t' q', exec (.nak port pk) s = .next u
      ∧ u.prt p = some t' ∧ t'.qps.find pk.dqp = some q' ∧ q'.work = [] ∧ q'.out = []
      ∧ q'.notes = q.notes ++ [noteWord 1 st w.tag.toNat] := by
  obtain ⟨v, hv, hhas⟩ := exec_nak_refuses h hres hcode
  rw [Qp.moveUna_answered_last hout hwork hack hid hlast (by simp [hpsn])] at hhas
  obtain ⟨t', ht', hq', -⟩ := hhas.afterAnswer_last hst rfl hfin rfl hop hchain hdata
  exact ⟨_, t', _, hv, ht', hq', rfl, rfl, by rw [hok]; rfl⟩

/-! ### The data of reads (R276) -/

theorem exec_readResp_places {w : WorkReq} {r : Region} (h : FromPeer s port opReadResp pk p t q) (hst : q.st = .ready)
    (hfin : ∀ e ∈ q.work, e.final = false) (hsent : ∀ e ∈ q.work, (if e.op = 3 then 1 else e.len) ≤ e.sent)
    (hw : q.work.find? (fun w => w.op == 3 && w.sent != 0 && w.psn == BitVec.truncate 24 pk.aux) = some w)
    (hlen : pk.roff.toNat + pk.payload.length ≤ w.len) (hnew : w.got.contains pk.roff.toNat = false)
    (hgen : t.genOf kRegion (hIndex w.region) = hGen w.region) (hr : t.regions.find (hIndex w.region) = some r) :
    ∃ u t' q', exec (.readResp port pk) s = .next u ∧ u.prt p = some t'
      ∧ t'.regions.find (hIndex w.region) = some (r.write (w.loff + pk.roff.toNat) pk.payload) ∧ t'.qps.find pk.dqp = some q'
      ∧ q'.work = q.work.map fun e => if e.id = w.id then { e with got := e.got ++ [pk.roff.toNat] } else e := by
  obtain ⟨⟨-, -, hp, -⟩, -⟩ := id h
  have hhas := State.hasQp_of_fromPeer h
  have hfresh : (s.portCount port.val pRxFrames).getP p false (fun t => t.genOf kRegion (hIndex w.region) == hGen w.region) = true := by
    rw [State.getP, State.prt_portCount, hp]
    exact beq_iff_eq.2 hgen
  have hplaced := (hhas.updRegion (hIndex w.region) fun r => r.write (w.loff + pk.roff.toNat) pk.payload).updQp fun q => { q with
    work := q.work.map fun e => if e.id = w.id then { e with got := e.got ++ [pk.roff.toNat] } else e }
  have hsame : ∀ e ∈ q.work.map (fun e => if e.id = w.id then { e with got := e.got ++ [pk.roff.toNat] } else e),
      e.final = false ∧ (if e.op = 3 then 1 else e.len) ≤ e.sent := by
    intro e he
    obtain ⟨x, hx, rfl⟩ := List.mem_map.1 he
    split <;> exact ⟨hfin x hx, hsent x hx⟩
  have hidle := hplaced.afterAnswer_idle hst (firstTransfer_none fun e he => (hsame e he).1) fun e he => (hsame e he).2
  obtain ⟨t', ht', hq', hrs⟩ := hplaced
  refine ⟨_, t', _, exec_readResp .., ?_, by rw [hrs, Tab.find_upd_self, hr]; rfl, hq', rfl⟩
  rw [State.arrive_answer h (by decide) (by decide)]
  unfold State.readRespMsg
  rw [hhas.qp?]
  dsimp only
  rw [hw]
  dsimp only
  rw [if_neg (by rw [hnew, Bool.or_false, decide_eq_true_eq]; omega), hfresh, if_pos rfl, hidle]
  exact ht'

/-! ### Connection replies (R271, R283, Table 12-7) -/

theorem exec_connectRep_waits (h : FromPeer s port opConnectRep pk p t q) (hst : q.st = .connecting)
    (hcode : pk.aux.toNat / 2 ^ 24 = Status.notReady.code.toNat) : ∃ u t', exec (.connectRep port pk) s = .next u ∧ u.prt p = some t'
      ∧ t'.qps.find pk.dqp = some
        { q with tries := 0, retryAt := (s.prtNo q.port).time + (pk.roff.toNat / 2 ^ 32) * 1000 } := by
  obtain ⟨⟨-, -, hp, -⟩, hq, -⟩ := id h
  obtain ⟨t', ht', hq', -⟩ := (State.hasQp_of_fromPeer h).updQp fun e =>
    { e with tries := 0, retryAt := ((s.portCount port.val pRxFrames).prtNo e.port).time + (pk.roff.toNat / 2 ^ 32) * 1000 }
  rw [State.time_portCount] at hq'
  refine ⟨_, t', exec_connectRep .., ?_, hq'⟩
  rw [State.arrive_answer h (by decide) (by decide)]
  unfold State.connectRepMsg
  rw [State.prt_portCount, hp, Option.bind_some, hq, Option.map_some]
  dsimp only
  rw [if_neg (not_not.2 hst), hcode, if_neg (by decide), if_pos rfl]
  exact ht'

/-- The RUN that waits for its queue pair completes. -/
theorem State.endWaiter_completes {v : Partition} {n : Nat} {qn : Qn} {cid : BitVec 16} {k : Queue} {l : Live} (hp : s.prt p = some v)
    (hq : v.qps.find n = some q) (hwaiter : q.waiter = some (qn.val, cid)) (ha : v.Awaits qn.val cid k l) (st : Status) (r1 : Nat) :
    Completes (s.endWaiter p n st r1) p qn k l st (BitVec.ofNat 64 n) := by
  have hqp : s.qp? p n = some q := by rw [State.qp?, hp, Option.bind_some, hq]
  simp only [State.endWaiter, hqp, Option.bind_some, hwaiter]
  exact State.finish_completes (State.prt_updP_of_prt hp _) (ha.of_eq rfl rfl) ..

theorem exec_connectRep_opens {qn : Qn} {cid : BitVec 16} {k : Queue} {l : Live} (h : FromPeer s port opConnectRep pk p t q)
    (hst : q.st = .connecting) (hwork : q.work = []) (hwaiter : q.waiter = some (qn.val, cid)) (ha : t.Awaits qn.val cid k l)
    (hcode : pk.aux.toNat / 2 ^ 24 = 0) : ∃ u t' q', exec (.connectRep port pk) s = .next u ∧ u.prt p = some t'
      ∧ t'.qps.find pk.dqp = some q' ∧ q'.st = .ready ∧ q'.payload = pk.roff.toNat % 65536 ∧ q'.rcvEpsn = pk.aux.truncate 24
      ∧ q'.cwnd = q'.payload ∧ q'.waiter = none ∧ Completes u p qn k l .ok (BitVec.ofNat 64 pk.dqp) := by
  obtain ⟨⟨-, -, hp, -⟩, hq, -⟩ := id h
  obtain ⟨v, hv⟩ : ∃ v, v = ((s.portCount port.val pRxFrames).updQp p pk.dqp fun q =>
    q.opened (pk.roff.toNat % 65536) (pk.aux.truncate 24) t.qpCtl).reconnected p pk.dqp := ⟨_, rfl⟩
  have hopened : v.HasQp p pk.dqp (q.opened (pk.roff.toNat % 65536) (pk.aux.truncate 24) t.qpCtl) t.regions :=
    hv ▸ ((State.hasQp_of_fromPeer h).updQp _).reconnected _
  obtain ⟨t₁, ht₁, hawaits⟩ : ∃ t₁, v.prt p = some t₁ ∧ t₁.Awaits qn.val cid k l := by
    rw [hv]
    refine ⟨_, State.prt_updP_of_prt (State.prt_updP_of_prt (s := s.portCount port.val pRxFrames) hp _) _, ?_⟩
    exact ha.of_eq rfl rfl
  have hq₁ : t₁.qps.find pk.dqp = some (q.opened (pk.roff.toNat % 65536) (pk.aux.truncate 24) t.qpCtl) := by
    obtain ⟨t₂, ht₂, hq₂, -⟩ := hopened
    rwa [← Option.some_inj.1 (ht₁.symm.trans ht₂)] at hq₂
  have hended := hopened.endWaiter .ok (pk.roff.toNat % 65536)
  have hidle := hended.pump_idle (by simp [Qp.opened, hwork]) 256
  have hdone := State.endWaiter_completes ht₁ hq₁ hwaiter hawaits .ok (pk.roff.toNat % 65536)
  obtain ⟨t', ht', hq', -⟩ := hended
  refine ⟨_, t', _, ?_, ht', hq', rfl, rfl, rfl, rfl, rfl, hdone⟩
  rw [exec_connectRep, State.arrive_answer h (by decide) (by decide)]
  unfold State.connectRepMsg
  rw [State.prt_portCount, hp, Option.bind_some, hq, Option.map_some]
  dsimp only
  rw [if_neg (not_not.2 hst), if_pos hcode, ← hv, hidle]
end

/-! ### The obligation -/

/-- Settles O43: one case for each answer, from the lemma on what it does to the sender. -/
theorem answerResults : Obligations.AnswerResults := by
  unfold Obligations.AnswerResults
  intro s port pk p t q
  refine ⟨fun o w => exec_ack_last, exec_ack_pauses, exec_nak_resendAfter, ?refuse, fun w r => exec_readResp_places, ?connect⟩
  case refuse =>
    intro o w h hst hout hwork hack hid hpsn hlast hfin hop hchain hdata hok hcode
    exact exec_nak_last h hst hout hwork hack hid hpsn hlast hfin hop hchain hdata hok (by decide) hcode
  case connect =>
    intro qn cid k l h hst hwork hwaiter hqueue hlive hreq habort hposted
    exact ⟨exec_connectRep_opens h hst hwork hwaiter ⟨hqueue, hlive, hposted, hreq, habort⟩, exec_connectRep_waits h hst⟩

end Sys2Proof.Machine
end

section
/-! SUPPORT. The timers of a queue pair, the drain of a revoke, and frames that are dropped (12 R271, R274, R276, R279, R280, R284; Tables
12-7, 12-19). -/

namespace Sys2Proof.Machine
open Sys2Proof.Cert

/-! ### The arms of the timers -/

theorem exec_stalledPacketsRelease (p : Part) (n : Nat) (s : State) :
    exec (.stalledPacketsRelease p n) s = execStalledPacketsRelease p n s := rfl
theorem exec_stallTimeout (p : Part) (n : Nat) (s : State) : exec (.stallTimeout p n) s = execStallTimeout p n s := rfl
theorem exec_pauseExpiry (p : Part) (n : Nat) (s : State) : exec (.pauseExpiry p n) s = execPauseExpiry p n s := rfl
theorem exec_ackTimer (p : Part) (n : Nat) (s : State) : exec (.ackTimer p n) s = execAckTimer p n s := rfl
theorem exec_rtoExpiry (p : Part) (n : Nat) (s : State) : exec (.rtoExpiry p n) s = execRtoExpiry p n s := rfl
theorem exec_connectRetry (p : Part) (n : Nat) (s : State) : exec (.connectRetry p n) s = execConnectRetry p n s := rfl
theorem exec_drainTimeout (p : Part) (n : Nat) (s : State) : exec (.drainTimeout p n) s = execDrainTimeout p n s := rfl
theorem exec_revokeDrained (p : Part) (i : Nat) (s : State) : exec (.revokeDrained p i) s = execRevokeDrained p i s := rfl

theorem exec_malformedFrame_row1 (port : PortNo) (s : State) :
    exec (.malformedFrame port .row1) s = .next ((s.portCount port.val pRxFrames).portCount port.val pRxMalformed) := rfl

/-! ### Queue pairs -/

section
variable {s : State} {p : Part} {n : Nat} {q : Qp} {rs : Tab Region} (h : s.HasQp p n q rs)
include h

theorem State.HasQp.region? {i : Nat} : s.region? p i = rs.find i := by
  obtain ⟨t, hp, -, rfl⟩ := h
  rw [State.region?, hp, Option.bind_some]

theorem State.HasQp.regionRecord (i jtype step : Nat) : (s.regionRecord p i jtype step).HasQp p n q rs := by
  unfold State.regionRecord
  split
  next => exact h
  next => exact h.of_parts rfl

theorem State.HasQp.sendConnect :
    ∃ a b, (s.sendConnect p n).HasQp p n { q with tries := q.tries + 1, sndNxt := a, sndUna := b } rs := by
  have hasks : ∀ {v : State} {a b}, v.HasQp p n { q with sndNxt := a, sndUna := b } rs →
      (v.updQp p n fun q => { q with tries := q.tries + 1 }).HasQp p n { q with tries := q.tries + 1, sndNxt := a, sndUna := b } rs :=
    fun hv => hv.updQp _
  by_cases hfirst : q.tries = 0
  · have hfresh : s.fresh.2.HasQp p n q rs := h.of_parts rfl
    have hnew := hasks (hfresh.updQp fun q => { q with sndNxt := Config.psn s.fresh.1, sndUna := Config.psn s.fresh.1 })
    simp only [State.sendConnect, h.qp?, if_pos hfirst, hnew.qp?]
    exact ⟨_, _, hnew.emitPkt ..⟩
  · have hold := hasks (a := q.sndNxt) (b := q.sndUna) h
    simp only [State.sendConnect, h.qp?, if_neg hfirst, hold.qp?]
    exact ⟨_, _, hold.emitPkt ..⟩
end

theorem State.HasQp.forEach_nakTo {s : State} {p : Part} {n : Nat} {q : Qp} {rs : Tab Region} (h : s.HasQp p n q rs) (l : List HeldPkt)
    (port : Nat) (st : Status) (hint : Nat) : (s.forEach l fun s e => s.nakTo p port e.pkt st hint).HasQp p n q rs :=
  State.forEach_inv (fun s => s.HasQp p n q rs) l _ (fun _ e h => h.nakTo port e.pkt st hint) s h

theorem Tab.upd_congr {α : Type} {t : Tab α} {i : Nat} {v : α} (h : t.find i = some v) {f g : α → α} (hfg : f v = g v) :
    t.upd i f = t.upd i g := by
  induction t with
  | nil => rfl
  | cons e t ih =>
    obtain ⟨k, w⟩ := e
    rw [Tab.find_cons] at h
    by_cases hk : k = i
    · rw [if_pos hk] at h
      cases h
      simp [Tab.upd, hk, hfg]
    · rw [if_neg hk] at h
      simp [Tab.upd, hk, ih h]

/-- Two changes that agree on the record of a queue pair are one. -/
theorem State.updQp_congr {s : State} {p : Part} {n : Nat} {t : Partition} {q : Qp} (hp : s.prt p = some t) (hq : t.qps.find n = some q)
    {f g : Qp → Qp} (hfg : f q = g q) : s.updQp p n f = s.updQp p n g := by
  have hparts : s.parts.upd p.val (fun t => { t with qps := t.qps.upd n f })
      = s.parts.upd p.val fun t => { t with qps := t.qps.upd n g } := Tab.upd_congr hp (by rw [Tab.upd_congr hq hfg])
  rw [State.updQp, State.updP, hparts]
  rfl

theorem Qp.winLoss_eq (q : Qp) (now : Nat) : ∃ w g c, q.winLoss now = { q with cwnd := w, ss := g, cutLoss := c } := by
  unfold Qp.winLoss
  split <;> exact ⟨_, _, _, rfl⟩

/-- A queue pair whose oldest packet has timed out: the window closes and the timer doubles (R284). -/
def Qp.timedOut (q : Qp) (now : Nat) : Qp :=
  { q.winLoss now with rto := min (2 * q.rto) (64 * q.ctl.rtoMin * 1000), timeouts := q.timeouts + 1 }
theorem Qp.timedOut_eq (q : Qp) (now : Nat) : ∃ w g c, q.timedOut now = { q with
    cwnd := w, ss := g, cutLoss := c, rto := min (2 * q.rto) (64 * q.ctl.rtoMin * 1000), timeouts := q.timeouts + 1 } := by
  obtain ⟨w, g, c, h⟩ := q.winLoss_eq now
  exact ⟨w, g, c, by rw [Qp.timedOut, h]⟩

theorem State.prt_emitPkt {s : State} {p : Part} {t : Partition} (hp : s.prt p = some t) (port op : Nat) (k : Pkt) :
    (s.emitPkt p port op k).prt p = some (t.count cTxPackets 1) := by
  simp only [State.emitPkt, hp]
  exact State.prt_count_of_prt (s := s.enqueue port k.tc p.val op (some k) (lineBytes t.binding k)) hp ..

/-- A queue pair that has sent a packet again (R284). -/
def Qp.resent (q : Qp) (o : OutPkt) (now : Nat) : Qp :=
  { q with out := q.out.map fun e => if e.psn = o.psn then { e with sentAt := now, times := e.times + 1, notBefore := 0 } else e }

/-- The bytes of a message of the device's own are always at hand. -/
theorem State.workPkt_message {w : WorkReq} {bs : List Byte} (hop : w.op = 1) (hdata : w.data = some bs) (s : State) (p : Part) (n : Nat)
    (q : Qp) (psn : BitVec 24) (off len : Nat) (last : Bool) : ∃ k, s.workPkt p n q w psn off len last = .ok (opSend, k) := by
  simp only [State.workPkt, State.workBytes, hop, hdata, Except.map]
  exact ⟨_, rfl⟩

/-- A packet of such a message goes out again: it is counted, and only what is out changes. -/
theorem State.resend_message {s : State} {p : Part} {n : Nat} {t : Partition} {q : Qp} {o : OutPkt} {w : WorkReq} {bs : List Byte}
    (hp : s.prt p = some t) (hq : t.qps.find n = some q) (hwr : o.wr ≠ 0) (hw : q.work.find? (fun w => w.id == o.wr) = some w)
    (hop : w.op = 1) (hdata : w.data = some bs) : ∃ t' q', (s.resend p n o).prt p = some t' ∧ t'.qps.find n = some q'
      ∧ q' = { q with out := q'.out } ∧ t'.counters.getD cRetransmits 0 = (t.counters.getD cRetransmits 0 + 1) % 2 ^ 64 := by
  have hqp : s.qp? p n = some q := by rw [State.qp?, hp, Option.bind_some, hq]
  obtain ⟨v, hv⟩ : ∃ v, v = (s.updQp p n fun e => e.resent o (s.prtNo q.port).time).count p cRetransmits := ⟨_, rfl⟩
  obtain ⟨k, hk⟩ := State.workPkt_message hop hdata v p n q o.psn o.off o.len o.last
  have hresend : s.resend p n o = v.emitPkt p q.port opSend k := by
    unfold State.resend
    rw [hqp]
    dsimp only
    rw [if_neg hwr, hw]
    dsimp only
    rw [show State.workPkt _ p n q w o.psn o.off o.len o.last = _ from hv ▸ hk, hv]
    rfl
  have hcounted : v.prt p
      = some ({ t with qps := t.qps.upd n fun e => e.resent o (s.prtNo q.port).time }.count cRetransmits 1) := by
    rw [hv]
    exact State.prt_count_of_prt (State.prt_updP_of_prt hp _) ..
  refine ⟨_, q.resent o (s.prtNo q.port).time, hresend ▸ State.prt_emitPkt hcounted .., ?_, rfl, ?_⟩
  · simp [hq]
  · rw [Partition.getD_count_ne _ _ (by decide), Partition.getD_count_one]

section
variable {s : State} {p : Part} {n : Nat} {t : Partition} {q : Qp} (hp : s.prt p = some t) (hq : t.qps.find n = some q)
include hp hq

theorem State.hasQp_of_prt : s.HasQp p n q t.regions := ⟨t, hp, hq, rfl⟩

/-! ### Stalls (R279) -/

theorem exec_stall_timers_idle (hnone : q.stalledAt = none) :
    exec (.stalledPacketsRelease p n) s = .next s ∧ exec (.stallTimeout p n) s = .next s := by
  constructor
  · simp [exec_stalledPacketsRelease, execStalledPacketsRelease, (State.hasQp_of_prt hp hq).qp?, hnone]
  · simp [exec_stallTimeout, execStallTimeout, (State.hasQp_of_prt hp hq).qp?, hnone]

/-- A stall that holds no packet ends with an ACK. -/
theorem exec_stalledPacketsRelease_nothing_held {v : Nat} (hst : q.stalledAt = some v) (hheld : ∀ h ∈ q.held, h.stalled = false) :
    ∃ u t' q', exec (.stalledPacketsRelease p n) s = .next u ∧ u.prt p = some t' ∧ t'.qps.find n = some q' ∧ q'.stalledAt = none
      ∧ q'.held = q.held ∧ q'.unacked = 0 := by
  have hhas := State.hasQp_of_prt hp hq
  have hnone : q.held.filter (·.stalled) = [] := List.filter_eq_nil_iff.2 fun h hm => by simp [hheld h hm]
  have hall : q.held.filter (fun h => !h.stalled) = q.held := List.filter_eq_self.2 fun h hm => by simp [hheld h hm]
  rw [exec_stalledPacketsRelease, execStalledPacketsRelease, hhas.qp?]
  dsimp only
  rw [if_neg (by simp [hst]), hnone, List.mergeSort_nil, State.forEach_nil]
  obtain ⟨t', ht', hq', -⟩ := ((hhas.updQp _).sendAck)
  exact ⟨_, t', _, rfl, ht', hq', rfl, hall, rfl⟩

theorem exec_stallTimeout_refuses {v : Nat} (hst : q.stalledAt = some v) : ∃ u t' q', exec (.stallTimeout p n) s = .next u
    ∧ u.prt p = some t' ∧ t'.qps.find n = some q' ∧ q'.stalledAt = none ∧ q'.held = q.held.filter fun h => !h.stalled := by
  have hhas := State.hasQp_of_prt hp hq
  rw [exec_stallTimeout, execStallTimeout, hhas.qp?]
  dsimp only
  rw [if_neg (by simp [hst])]
  have hstalled : s.faultHint.2.HasQp p n q t.regions := hhas.of_parts rfl
  obtain ⟨t', ht', hq', -⟩ := (hstalled.updQp _).forEach_nakTo _ q.port .resendAfter s.faultHint.1
  exact ⟨_, t', _, rfl, ht', hq', rfl, rfl⟩

/-! ### Acknowledgement and pause timers (R276, R279) -/

theorem exec_ackTimer_acks (hst : q.st = .ready) (hun : q.unacked ≠ 0) : ∃ u t', exec (.ackTimer p n) s = .next u
    ∧ u.prt p = some t' ∧ t'.qps.find n = some { q with unacked := 0, eceDue := false } := by
  have hhas := State.hasQp_of_prt hp hq
  rw [exec_ackTimer, execAckTimer, hhas.qp?, if_pos (by simp [hst, hun])]
  obtain ⟨t', ht', hq', -⟩ := hhas.sendAck
  exact ⟨_, t', rfl, ht', hq'⟩
theorem exec_ackTimer_idle (hun : q.unacked = 0) : exec (.ackTimer p n) s = .next s := by
  rw [exec_ackTimer, execAckTimer, (State.hasQp_of_prt hp hq).qp?, if_neg (by simp [hun])]

theorem exec_pauseExpiry_resumes (hout : ∀ o ∈ q.out, o.notBefore = 0) (hwork : q.work = []) :
    exec (.pauseExpiry p n) s = .next (s.updQp p n fun q => { q with pausedUntil := none }) := by
  have hhas := State.hasQp_of_prt hp hq
  have hnohint : q.out.filter (fun o => !o.acked && decide (o.notBefore ≠ 0)) = [] :=
    List.filter_eq_nil_iff.2 fun o ho => by simp [hout o ho]
  have hnolate : ∀ done, q.out.filter (fun o => !o.acked && decide (o.notBefore ≠ 0) && decide (o.notBefore ≤ done)) = [] := fun done =>
    List.filter_eq_nil_iff.2 fun o ho => by simp [hout o ho]
  have hover : ∀ now, q.pausedUntil.filter (fun u => max now ((q.pausedUntil.toList).min?.getD 0) < u) = none := by
    intro now
    cases q.pausedUntil <;> simp
  have hresumed : ∀ f : Qp → Qp, (f q).work = [] → (s.updQp p n f).pump p n 256 = s.updQp p n f := fun f hf =>
    (hhas.updQp f).pump_idle (by simp [hf]) 256
  rw [exec_pauseExpiry, execPauseExpiry, hhas.qp?]
  dsimp only
  rw [hnohint, List.map_nil, List.append_nil, hnolate, State.forEach_nil, hresumed _ hwork]
  exact congrArg _ (State.updQp_congr hp hq (by rw [hover]))

/-! ### Timeouts (R284) -/

/-- The timer of a queue pair that may send: its oldest packet goes out again, or was the last to do so. -/
theorem exec_rtoExpiry_due {o : OutPkt} (hhead : q.out.head? = some o) (hst : q.st = .ready) (hpaused : q.pausedUntil = none)
    (hdue : o.notBefore ≤ (s.prtNo q.port).time) : exec (.rtoExpiry p n) s
      = .next (if q.ctl.retryMax ≤ q.timeouts + 1 then
          ((s.updQp p n fun e => e.timedOut (s.prtNo q.port).time).failQp p n .aborted).event p evQpError 0 0 (BitVec.ofNat 64 n)
        else (s.updQp p n fun e => e.timedOut (s.prtNo q.port).time).resend p n o) := by
  rw [exec_rtoExpiry, execRtoExpiry, (State.hasQp_of_prt hp hq).qp?]
  dsimp only
  rw [hhead]
  dsimp only
  rw [if_neg (by simp [hst, hpaused, hdue])]
  simp only [ge_iff_le, hst, Bool.and_true, decide_true, decide_eq_true_eq]
  rfl

theorem exec_rtoExpiry_fails {o : OutPkt} (hhead : q.out.head? = some o) (hst : q.st = .ready) (hpaused : q.pausedUntil = none)
    (hdue : o.notBefore ≤ (s.prtNo q.port).time) (hlast : q.ctl.retryMax ≤ q.timeouts + 1) : ∃ u t' q', exec (.rtoExpiry p n) s = .next u
      ∧ u.prt p = some t' ∧ t'.qps.find n = some q' ∧ q'.st = .error ∧ q'.why = .aborted := by
  obtain ⟨q', rs, hfailed, herr, hwhy⟩ := ((State.hasQp_of_prt hp hq).updQp fun e => e.timedOut (s.prtNo q.port).time).failQp .aborted
  obtain ⟨t', ht', hq', -⟩ := hfailed.event evQpError 0 0 (BitVec.ofNat 64 n)
  exact ⟨_, t', q', (exec_rtoExpiry_due hp hq hhead hst hpaused hdue).trans (congrArg _ (if_pos hlast)), ht', hq', herr, hwhy⟩

theorem exec_rtoExpiry_resends {o : OutPkt} {w : WorkReq} {bs : List Byte} (hhead : q.out.head? = some o) (hst : q.st = .ready)
    (hpaused : q.pausedUntil = none) (hdue : o.notBefore ≤ (s.prtNo q.port).time) (hmore : q.timeouts + 1 < q.ctl.retryMax) (hwr : o.wr ≠ 0)
    (hw : q.work.find? (fun w => w.id == o.wr) = some w) (hop : w.op = 1) (hdata : w.data = some bs) :
    ∃ u t' q', exec (.rtoExpiry p n) s = .next u ∧ u.prt p = some t' ∧ t'.qps.find n = some q' ∧ q'.st = .ready
      ∧ q'.timeouts = q.timeouts + 1 ∧ q'.rto = min (2 * q.rto) (64 * q.ctl.rtoMin * 1000)
      ∧ t'.counters.getD cRetransmits 0 = (t.counters.getD cRetransmits 0 + 1) % 2 ^ 64 := by
  obtain ⟨x, g, c, heq⟩ := q.timedOut_eq (s.prtNo q.port).time
  have hqps : ∃ v, (s.updQp p n fun e => e.timedOut (s.prtNo q.port).time).prt p = some v ∧ v.counters = t.counters
      ∧ v.qps.find n = some (q.timedOut (s.prtNo q.port).time) := ⟨_, State.prt_updP_of_prt hp _, rfl, by simp [hq]⟩
  obtain ⟨v, hv, hcounters, hlate⟩ := hqps
  have hwork : (q.timedOut (s.prtNo q.port).time).work.find? (fun w => w.id == o.wr) = some w := by rw [heq]; exact hw
  obtain ⟨t', q', ht', hq', hout, hcount⟩ := State.resend_message hv hlate hwr hwork hop hdata
  rw [hcounters] at hcount
  refine ⟨_, t', q', (exec_rtoExpiry_due hp hq hhead hst hpaused hdue).trans (congrArg _ (if_neg (by omega))), ht', hq', ?_, ?_, ?_, hcount⟩
    <;> rw [hout, heq]
  exact hst

theorem exec_rtoExpiry_idle (hout : q.out = []) : exec (.rtoExpiry p n) s = .next s := by
  rw [exec_rtoExpiry, execRtoExpiry, (State.hasQp_of_prt hp hq).qp?]
  dsimp only
  rw [hout]
  rfl

/-! ### Connecting and draining (R274, R276) -/

theorem exec_connectRetry_tries (hst : q.st = .connecting) (hdue : q.retryAt ≤ (s.prtNo q.port).time) :
    exec (.connectRetry p n) s = .next (if 8 ≤ q.tries then s.failQp p n .aborted else s.sendConnect p n) := by
  rw [exec_connectRetry, execConnectRetry, (State.hasQp_of_prt hp hq).qp?]
  dsimp only
  rw [if_neg (by simp [hst, hdue])]

theorem exec_connectRetry_asks_again (hst : q.st = .connecting) (hdue : q.retryAt ≤ (s.prtNo q.port).time) (hmore : q.tries < 8) :
    ∃ u t' q', exec (.connectRetry p n) s = .next u ∧ u.prt p = some t' ∧ t'.qps.find n = some q' ∧ q'.st = .connecting
      ∧ q'.tries = q.tries + 1 := by
  obtain ⟨a, b, t', ht', hq', -⟩ := (State.hasQp_of_prt hp hq).sendConnect
  exact ⟨_, t', _, (exec_connectRetry_tries hp hq hst hdue).trans (congrArg _ (if_neg (by omega))), ht', hq', hst, rfl⟩

theorem exec_connectRetry_gives_up (hst : q.st = .connecting) (hdue : q.retryAt ≤ (s.prtNo q.port).time) (hlast : 8 ≤ q.tries) :
    ∃ u t' q', exec (.connectRetry p n) s = .next u ∧ u.prt p = some t' ∧ t'.qps.find n = some q' ∧ q'.st = .error ∧ q'.why = .aborted := by
  obtain ⟨q', rs, ⟨t', ht', hq', -⟩, herr, hwhy⟩ := (State.hasQp_of_prt hp hq).failQp .aborted
  exact ⟨_, t', q', (exec_connectRetry_tries hp hq hst hdue).trans (congrArg _ (if_pos hlast)), ht', hq', herr, hwhy⟩

theorem exec_drainTimeout_frees (hst : q.st = .draining) (hw : t.qps.wf) :
    ∃ u t', exec (.drainTimeout p n) s = .next u ∧ u.prt p = some t' ∧ t'.qps.find n = none := by
  obtain ⟨t', ht', hfree⟩ := State.closeQp_frees (State.qpNumbers_of_prt hp) ((Tab.wf_iff_keys _).1 hw) n
  rw [exec_drainTimeout, execDrainTimeout, (State.hasQp_of_prt hp hq).qp?, if_pos (by simp [hst])]
  exact ⟨_, t', rfl, ht', hfree⟩
theorem exec_drainTimeout_idle (hst : q.st ≠ .draining) : exec (.drainTimeout p n) s = .next s := by
  rw [exec_drainTimeout, execDrainTimeout, (State.hasQp_of_prt hp hq).qp?, if_neg (by simp [hst])]

/-! ### The drain of a revoke (R280) -/

theorem exec_revokeDrained_revokes {i : Nat} {r : Region} (hr : t.regions.find i = some r) (hst : r.st = .revoking) :
    ∃ u, exec (.revokeDrained p i) s = .next u ∧ u.region? p i = some { r with st := .revoked, registered := false } := by
  have hhas := State.hasQp_of_prt hp hq
  have hrevoked := (hhas.updRegion i fun r => { r with st := .revoked, registered := false }).regionRecord i jRegion 0
  have hfind : (t.regions.upd i fun r => { r with st := .revoked, registered := false }).find i
      = some { r with st := .revoked, registered := false } := by simp [hr]
  rw [exec_revokeDrained, execRevokeDrained, hhas.region?, hr]
  dsimp only
  rw [if_neg (by simp [hst])]
  split
  next => exact ⟨_, rfl, hrevoked.region?.trans hfind⟩
  next => exact ⟨_, rfl, (hrevoked.finish ..).region?.trans hfind⟩
theorem exec_revokeDrained_idle {i : Nat} {r : Region} (hr : t.regions.find i = some r) (hst : r.st ≠ .revoking) :
    exec (.revokeDrained p i) s = .next s := by
  rw [exec_revokeDrained, execRevokeDrained, (State.hasQp_of_prt hp hq).region?, hr]
  dsimp only
  rw [if_pos hst]
end

/-! ### Dropped frames (R271) -/

theorem Port.getD_count_ne (q : Port) {c i : Nat} (h : i ≠ c) : (q.count c).stats.getD i 0 = q.stats.getD i 0 := by
  simp [Port.count, listSet, List.getD_eq_getElem?_getD, h.symm]
theorem Port.getD_count_self (q : Port) (c : Nat) :
    (q.count c).stats.getD c 0 = if c < q.stats.length then (q.stats.getD c 0 + 1) % 2 ^ 64 else 0 := by
  rw [Port.count, listSet, List.getD_eq_getElem?_getD, List.getElem?_modify_eq]
  split
  next hlt => simp [List.getD_eq_getElem?_getD, List.getElem?_eq_getElem hlt]
  next hge => simp [List.getElem?_eq_none (Nat.le_of_not_lt hge)]

theorem exec_malformedFrame_counts (s : State) (port : PortNo) : ∃ u, exec (.malformedFrame port .row1) s = .next u ∧ u.parts = s.parts
    ∧ (u.prtNo port.val).stats.getD pRxMalformed 0
      = if pRxMalformed < (s.prtNo port.val).stats.length then ((s.prtNo port.val).stats.getD pRxMalformed 0 + 1) % 2 ^ 64 else 0 := by
  refine ⟨_, exec_malformedFrame_row1 port s, rfl, ?_⟩
  have hlen : ((s.prtNo port.val).count pRxFrames).stats.length = (s.prtNo port.val).stats.length := List.length_modify ..
  rw [State.prtNo_portCount_self, State.prtNo_portCount_self, Port.getD_count_self, hlen, Port.getD_count_ne _ (by decide)]

/-- Settles O44: one case for each timer and for each frame or revoke that ends, from the lemma on what it does. -/
theorem transportTimers : Obligations.TransportTimers := by
  unfold Obligations.TransportTimers
  intro s p n t q hp hq
  refine ⟨?_, ?_, ?_, ?_, ?_, ?_, ?_, ?_, ?_, ?_, ?_, ?_, ?_⟩
  · intro v hst hheld
    exact exec_stalledPacketsRelease_nothing_held hp hq hst hheld
  · intro v hst
    exact exec_stallTimeout_refuses hp hq hst
  · exact exec_stall_timers_idle hp hq
  · exact exec_pauseExpiry_resumes hp hq
  · exact exec_ackTimer_acks hp hq
  · exact exec_ackTimer_idle hp hq
  · intro o hhead hst hpaused hdue
    exact ⟨exec_rtoExpiry_fails hp hq hhead hst hpaused hdue,
      fun _ _ hmore hwr hw hop hdata => exec_rtoExpiry_resends hp hq hhead hst hpaused hdue hmore hwr hw hop hdata⟩
  · exact exec_rtoExpiry_idle hp hq
  · intro hst hdue
    exact ⟨exec_connectRetry_asks_again hp hq hst hdue, exec_connectRetry_gives_up hp hq hst hdue⟩
  · exact exec_drainTimeout_frees hp hq
  · exact exec_drainTimeout_idle hp hq
  · intro i r hr
    exact ⟨exec_revokeDrained_revokes hp hq hr, exec_revokeDrained_idle hp hq hr⟩
  · exact exec_malformedFrame_counts s

end Sys2Proof.Machine
end

section
/-! SUPPORT. Criet words (16 R364 to R366): the fields of each format, the register that a field names, and the instruction that the fields
of an encoded word name. -/

namespace Sys2Proof

/-! ### Registers in a field (R365) -/

@[simp] theorem gOf_g5 (r : GReg) : gOf (g5 r) = r := by
  ext; simp only [gOf, g5, BitVec.toNat_ofNat, Fin.ofNat]; omega
@[simp] theorem fOf_f5 (r : FReg) : fOf (f5 r) = r := by
  ext; simp only [fOf, f5, BitVec.toNat_ofNat, Fin.ofNat]; omega
@[simp] theorem hOf_h5 (r : HReg) : hOf (h5 r) = r := by
  ext; simp only [hOf, h5, BitVec.toNat_ofNat, Fin.ofNat]; omega
@[simp] theorem hOf_h4 (r : HReg) : hOf (h4 r) = r := by
  ext; simp only [hOf, h4, BitVec.toNat_ofNat, Fin.ofNat]; omega
/-- A register's number out of the low bits of an immediate. -/
@[simp] theorem gOf_low_g5 (r : GReg) : gOf (((g5 r).setWidth 32).extractLsb' 0 5) = r := by
  rw [show ((g5 r).setWidth 32).extractLsb' 0 5 = g5 r by ext i hi; simp [BitVec.getLsbD_eq_getElem hi, show i < 32 by omega], gOf_g5]

/-! ### The fields of a packed word (Table 16-1) -/

theorem packA_fields {w : Word} {op : BitVec 8} {d a b : BitVec 5} {r : Bool} {fn : BitVec 8}
    (h : some (packA op d a b r fn) = some w) :
    opOf w = op ∧ dA w = d ∧ aA w = a ∧ bA w = b ∧ recA w = r ∧ fnA w = fn := by
  cases h
  show BitVec.extractLsb' 56 8 (op ++ d ++ a ++ b ++ BitVec.ofBool r ++ fn ++ 0#32) = op ∧
    BitVec.extractLsb' 51 5 (op ++ d ++ a ++ b ++ BitVec.ofBool r ++ fn ++ 0#32) = d ∧
    BitVec.extractLsb' 46 5 (op ++ d ++ a ++ b ++ BitVec.ofBool r ++ fn ++ 0#32) = a ∧
    BitVec.extractLsb' 41 5 (op ++ d ++ a ++ b ++ BitVec.ofBool r ++ fn ++ 0#32) = b ∧
    (op ++ d ++ a ++ b ++ BitVec.ofBool r ++ fn ++ 0#32).getLsbD 40 = r ∧
    BitVec.extractLsb' 32 8 (op ++ d ++ a ++ b ++ BitVec.ofBool r ++ fn ++ 0#32) = fn
  simp (disch := decide) only [BitVec.extractLsb'_append_eq_of_add_le, BitVec.extractLsb'_append_eq_of_le, BitVec.getLsbD_append,
    -Nat.reduceAdd]
  simp

theorem packB_fields {w : Word} {op : BitVec 8} {d a : BitVec 5} {r : Bool} {fn : BitVec 4} {imm : BitVec 32}
    (h : some (packB op d a r fn imm) = some w) :
    opOf w = op ∧ dA w = d ∧ aA w = a ∧ recB w = r ∧ fnB w = fn ∧ immB w = imm := by
  cases h
  show BitVec.extractLsb' 56 8 (op ++ d ++ a ++ BitVec.ofBool r ++ 0#9 ++ fn ++ imm) = op ∧
    BitVec.extractLsb' 51 5 (op ++ d ++ a ++ BitVec.ofBool r ++ 0#9 ++ fn ++ imm) = d ∧
    BitVec.extractLsb' 46 5 (op ++ d ++ a ++ BitVec.ofBool r ++ 0#9 ++ fn ++ imm) = a ∧
    (op ++ d ++ a ++ BitVec.ofBool r ++ 0#9 ++ fn ++ imm).getLsbD 45 = r ∧
    BitVec.extractLsb' 32 4 (op ++ d ++ a ++ BitVec.ofBool r ++ 0#9 ++ fn ++ imm) = fn ∧
    BitVec.extractLsb' 0 32 (op ++ d ++ a ++ BitVec.ofBool r ++ 0#9 ++ fn ++ imm) = imm
  simp (disch := decide) only [BitVec.extractLsb'_append_eq_of_add_le, BitVec.extractLsb'_append_eq_of_le, BitVec.getLsbD_append,
    -Nat.reduceAdd]
  simp

theorem packC_fields {w : Word} {op : BitVec 8} {hr : BitVec 4} {a b : BitVec 5} {r : Bool} {fl : BitVec 11} {h2 : BitVec 4}
    (h : some (packC op hr a b r fl h2) = some w) :
    opOf w = op ∧ hC w = hr ∧ aC w = a ∧ bC w = b ∧ recC w = r ∧ flC w = fl ∧ h2C w = h2 := by
  cases h
  show BitVec.extractLsb' 56 8 (op ++ hr ++ a ++ b ++ 0#26 ++ BitVec.ofBool r ++ fl ++ h2) = op ∧
    BitVec.extractLsb' 52 4 (op ++ hr ++ a ++ b ++ 0#26 ++ BitVec.ofBool r ++ fl ++ h2) = hr ∧
    BitVec.extractLsb' 47 5 (op ++ hr ++ a ++ b ++ 0#26 ++ BitVec.ofBool r ++ fl ++ h2) = a ∧
    BitVec.extractLsb' 42 5 (op ++ hr ++ a ++ b ++ 0#26 ++ BitVec.ofBool r ++ fl ++ h2) = b ∧
    (op ++ hr ++ a ++ b ++ 0#26 ++ BitVec.ofBool r ++ fl ++ h2).getLsbD 15 = r ∧
    BitVec.extractLsb' 4 11 (op ++ hr ++ a ++ b ++ 0#26 ++ BitVec.ofBool r ++ fl ++ h2) = fl ∧
    BitVec.extractLsb' 0 4 (op ++ hr ++ a ++ b ++ 0#26 ++ BitVec.ofBool r ++ fl ++ h2) = h2
  simp (disch := decide) only [BitVec.extractLsb'_append_eq_of_add_le, BitVec.extractLsb'_append_eq_of_le, BitVec.getLsbD_append,
    -Nat.reduceAdd]
  simp

theorem packD_fields {w : Word} {op : BitVec 8} {c : BitVec 5} {off : BitVec 40} (h : some (packD op c off) = some w) :
    opOf w = op ∧ dA w = c ∧ offD w = off := by
  cases h
  show BitVec.extractLsb' 56 8 (op ++ c ++ 0#11 ++ off) = op ∧ BitVec.extractLsb' 51 5 (op ++ c ++ 0#11 ++ off) = c ∧
    BitVec.extractLsb' 0 40 (op ++ c ++ 0#11 ++ off) = off
  simp (disch := decide) only [BitVec.extractLsb'_append_eq_of_add_le, BitVec.extractLsb'_append_eq_of_le,
    -Nat.reduceAdd]
  simp

/-! ### Decoding (R364 to R366) -/

/-- The mode of WALKEMIT and the tier of MVTIER out of the flags of format C. -/
@[simp] theorem natCast_mod_flags {n : Nat} [NeZero n] (h : n ≤ 2048) (v : Fin n) : Fin.ofNat n (v.val % 2048) = v := by
  rw [Nat.mod_eq_of_lt (by omega)]; simp
@[simp] theorem getElem_b11 (b : Bool) (k : Nat) {j : Nat} (h : j < 11) : (b11 b k)[j] = (b && decide (j = k)) := by
  cases b
  · simp [b11]
  · by_cases hk : j = k <;> simp [b11, ← BitVec.getLsbD_eq_getElem, BitVec.getLsbD_shiftLeft, BitVec.getLsbD_one, h, hk] <;> omega

theorem crietCandidate_of_encode {i : Instr} {w : Word} (h : crietEncode i = some w) : ∃ x, crietCandidate x w = some i := by
  cases i
  case nop | addG | sub | mul | mulhu | divu | remu | andG | orG | xorG | shl | shr | sra | cmpeq | cmpne | cmplt | cmpltu |
      cmple | cmpleu | fand | forF | fxor | fandn | popc | clz | ctz | rdsl | jr | hmov | hget | hnull | heq | mvwait | mvstat
      | waiteng | smpres | fence | tstamp =>
    obtain ⟨hop, hd, ha, hb, hrec, hfn⟩ := packA_fields h
    refine ⟨‹StepRef›, ?_⟩
    rw [crietCandidate, hop, hfn]
    show some _ = _
    simp [hd, ha, hb, hrec]
  case movi | movhi | addi | muli | andi | ori | xori | shli | shri | srai | cmpeqi | cmpnei | cmplti | cmpltui | cmplei |
      cmpleui | ld | ldw | ldh | ldb | st | stw | sth | stb | ldf | stf | hloads | hld | hst | hmake | hchk | stepinfo |
      modload | tenset | tenget | qevent | squash | trace | cntrd =>
    obtain ⟨hop, hd, ha, hrec, hfn, himm⟩ := packB_fields h
    refine ⟨‹StepRef›, ?_⟩
    rw [crietCandidate, hop, hfn]
    show some _ = _
    simp [hd, ha, hrec, himm]
  case ptlen | ptget | pginfo | walk | walkemit | append | pgpromote | pgdemote | ptfork | pxmatch | pxlook | pxkey | domcreate
      | domclose | mvcopy | mvtier | waitmsg | screate | sseq | spark | srevive | sdur | smigout | smigin | sclose | sinfo |
      sqfree | sample | qpost | qinfo | commit | rgcreate | rgfree | rgreg | rgrevoke | rsync | rgdiscard | rgpublish | rgbind
      | varset | qpcreate | qpconnect | qpdisc | qpdestroy | qppost | charmArm | charmDisarm | qpnote | errinj =>
    obtain ⟨hop, hh, ha, hb, hrec, hfl, hh2⟩ := packC_fields h
    refine ⟨‹StepRef›, ?_⟩
    rw [crietCandidate, hop]
    show some _ = _
    simp [hh, ha, hb, hrec, hfl, hh2, -Fin.ofNat_eq_cast]
  case br | brt | brf | brz | brnz | call =>
    obtain ⟨hop, hd, hoff⟩ := packD_fields h
    refine ⟨‹StepRef›, ?_⟩
    rw [crietCandidate, hop]
    show some _ = _
    simp [hd, hoff]
  all_goals cases h

/-- The word and the well-formedness of what a word's fields name do not depend on the step that it is read for. -/
theorem crietCandidate_step_free (x y : StepRef) (w : Word) :
    (crietCandidate x w).map (fun i => (crietEncode i, i.wf)) = (crietCandidate y w).map fun i => (crietEncode i, i.wf) := by
  unfold crietCandidate
  split <;> (try split) <;> rfl

theorem crietDecode_eq_some {x : StepRef} {w : Word} {i : Instr} :
    crietDecode x w = some i ↔ crietCandidate x w = some i ∧ crietEncode i = some w ∧ i.wf = true := by
  unfold crietDecode
  cases crietCandidate x w with
  | none => simp
  | some j =>
    simp only [Option.some.injEq, Option.ite_none_right_eq_some, Bool.and_eq_true, beq_iff_eq]
    constructor
    · rintro ⟨⟨hwf, he⟩, rfl⟩; exact ⟨rfl, he, hwf⟩
    · rintro ⟨rfl, he, hwf⟩; exact ⟨⟨hwf, he⟩, rfl⟩

theorem crietDecode_isSome_imp {x y : StepRef} {w : Word} (h : (crietDecode x w).isSome = true) : (crietDecode y w).isSome = true := by
  obtain ⟨i, hi⟩ := Option.isSome_iff_exists.1 h
  obtain ⟨hc, he, hwf⟩ := crietDecode_eq_some.1 hi
  have hfree := crietCandidate_step_free x y w
  rw [hc, Option.map_some, he, hwf] at hfree
  obtain ⟨j, hj, hsame⟩ := Option.map_eq_some_iff.1 hfree.symm
  obtain ⟨hej, hwfj⟩ := Prod.mk.inj hsame
  exact Option.isSome_iff_exists.2 ⟨j, crietDecode_eq_some.2 ⟨hj, hej, hwfj⟩⟩

/-- Settles O60: the fields of a packed word give back the operands, and decoding asks for exactly the encoding of what it finds. -/
theorem crietRoundTrip : Obligations.CrietRoundTrip := by
  unfold Obligations.CrietRoundTrip
  refine ⟨fun i w he hwf => ?_, fun x w i h => ?_, fun x y w => ?_⟩
  · obtain ⟨x, hx⟩ := crietCandidate_of_encode he
    exact ⟨x, crietDecode_eq_some.2 ⟨hx, he, hwf⟩⟩
  · exact (crietDecode_eq_some.1 h).2
  · exact Bool.eq_iff_iff.2 ⟨crietDecode_isSome_imp, crietDecode_isSome_imp⟩

end Sys2Proof
end

section
/-! SUPPORT. The instructions that write registers alone (16 R365, R368 to R370): the issue of an instruction that goes on, the values of the
scalar and immediate groups, and the register files. -/

namespace Sys2Proof.Machine
open Sys2Proof.Cert

/-! ### Issue (R366) -/

section
variable {s : State} {x : StepRef} {t : Partition} {k : Step} {g : Program} (h : Running s x t k g)
include h

theorem State.issue_of_running (d : Deps) (r : Bool) (body : Iss → State × IOut) :
    s.issue x d r body = (body (iss s x t k g)).1.retire x d r (8 * g.code.length) (body (iss s x t k g)).2 :=
  have ⟨hp, hk, hg, hr, hw⟩ := h
  State.issue_running d r body hp hk hg hr hw

/-- An instruction that answers with registers, and with the state as it found it, goes on. -/
theorem State.issue_goesOn {d : Deps} {r : Bool} {body : Iss → State × IOut} {c : Ctx} (hb : body (iss s x t k g) = (s, .done c))
    (hpc : c.pc = k.ctx.pc) : Host.Outcome.next (s.issue x d r body) = goesOn s x k c := by
  rw [State.issue_of_running h, hb, State.retire_done, hpc]; rfl
/-- An instruction of an undefined format, or one that Table 3-8 names, squashes the step. -/
theorem State.issue_fault {d : Deps} {r : Bool} {body : Iss → State × IOut} {st : Status} {logged : Bool}
    (hb : body (iss s x t k g) = (s, .fault st logged)) : s.issue x d r body = s.squash x.part x.num st logged := by
  rw [State.issue_of_running h, hb, State.retire_fault]

theorem State.scalar_goesOn {d : Deps} {f : Ctx → Ctx} (hpc : (f k.ctx).pc = k.ctx.pc) :
    Host.Outcome.next (s.scalar x d f) = goesOn s x k (f k.ctx) := State.issue_goesOn h rfl hpc
theorem State.alu_goesOn (d a b : GReg) (op : Word → Word → Word) :
    Host.Outcome.next (s.alu x d a b op) = goesOn s x k (k.ctx.wg d (op (k.ctx.rg a) (k.ctx.rg b))) := State.scalar_goesOn h (Ctx.wg_pc ..)
theorem State.unary_goesOn (d a : GReg) (op : Word → Word) :
    Host.Outcome.next (s.unary x d a op) = goesOn s x k (k.ctx.wg d (op (k.ctx.rg a))) := State.scalar_goesOn h (Ctx.wg_pc ..)
theorem State.cmp_goesOn (d : FReg) (a b : GReg) (op : Word → Word → Bool) :
    Host.Outcome.next (s.cmp x d a b op) = goesOn s x k (k.ctx.wf d (op (k.ctx.rg a) (k.ctx.rg b))) := State.scalar_goesOn h (Ctx.wf_pc ..)
theorem State.cmpImm_goesOn (d : FReg) (a : GReg) (imm : BitVec 32) (op : Word → Word → Bool) :
    Host.Outcome.next (s.cmpImm x d a imm op) = goesOn s x k (k.ctx.wf d (op (k.ctx.rg a) (imm.signExtend 64))) := State.scalar_goesOn h (Ctx.wf_pc ..)
theorem State.flagOp_goesOn (d a b : FReg) (op : Bool → Bool → Bool) :
    Host.Outcome.next (s.flagOp x d a b op) = goesOn s x k (k.ctx.wf d (op (k.ctx.rf a) (k.ctx.rf b))) := State.scalar_goesOn h (Ctx.wf_pc ..)
theorem State.shiftImm_goesOn {imm : BitVec 32} (hi : imm.toNat < 64) (d a : GReg) (op : Word → Nat → Word) :
    Host.Outcome.next (s.shiftImm x d a imm op) = goesOn s x k (k.ctx.wg d (op (k.ctx.rg a) (imm.toNat % 64))) :=
  State.issue_goesOn h (if_pos (by simpa [immShiftOk] using hi)) (Ctx.wg_pc ..)
theorem State.shiftImm_squashes {imm : BitVec 32} (hi : 64 ≤ imm.toNat) (d a : GReg) (op : Word → Nat → Word) :
    (.next (s.shiftImm x d a imm op) : Out) = .next (s.squash x.part x.num .accessViolation true) :=
  congrArg _ (State.issue_fault h (if_neg (by simpa [immShiftOk] using hi)))
end

/-! ### Values (Tables 16-3, 16-4) -/

theorem mulHigh_eq (a b : Word) : mulHigh a b = (a.zeroExtend 128 * b.zeroExtend 128).extractLsb' 64 64 := by
  apply BitVec.eq_of_toNat_eq
  have hlt : a.toNat * b.toNat < 2 ^ 128 := by
    calc a.toNat * b.toNat < 2 ^ 64 * 2 ^ 64 := Nat.mul_lt_mul'' a.isLt b.isLt
      _ = 2 ^ 128 := by norm_num
  simp only [mulHigh, BitVec.toNat_ofNat, BitVec.extractLsb'_toNat, BitVec.toNat_mul, BitVec.toNat_setWidth,
    Nat.shiftRight_eq_div_pow, Nat.mod_eq_of_lt (show a.toNat < 2 ^ 128 by omega), Nat.mod_eq_of_lt (show b.toNat < 2 ^ 128 by omega),
    Nat.mod_eq_of_lt hlt]
theorem divWord_eq (a b : Word) : divWord a b = if b = 0 then BitVec.allOnes 64 else BitVec.ofNat 64 (a.toNat / b.toNat) := by
  unfold divWord
  split
  next => rfl
  next =>
    refine BitVec.eq_of_toNat_eq ?_
    rw [BitVec.toNat_udiv, BitVec.toNat_ofNat, Nat.mod_eq_of_lt (Nat.lt_of_le_of_lt (Nat.div_le_self ..) a.isLt)]
theorem remWord_eq (a b : Word) : remWord a b = if b = 0 then a else BitVec.ofNat 64 (a.toNat % b.toNat) := by
  unfold remWord
  split
  next => rfl
  next =>
    refine BitVec.eq_of_toNat_eq ?_
    rw [BitVec.toNat_umod, BitVec.toNat_ofNat, Nat.mod_eq_of_lt (Nat.lt_of_le_of_lt (Nat.mod_le ..) a.isLt)]

theorem cmpNe_eq (a b : Word) : cmpNe a b = decide (a ≠ b) := by simp [cmpNe, bne, beq_eq_decide]
theorem toNat_low6 {n : Nat} (w : BitVec n) : (w.extractLsb' 0 6).toNat = w.toNat % 64 := by simp

theorem popCount_eq (w : Word) : popCount w = ((List.range 64).map fun i => (w.getLsbD i).toNat).sum := by
  rw [popCount, ← List.countP_eq_length_filter]
  generalize List.range 64 = l
  induction l with
  | nil => rfl
  | cons i l ih => rw [List.countP_cons, ih, List.map_cons, List.sum_cons, Nat.add_comm]; cases w.getLsbD i <;> rfl

theorem isClz_leadZeros (w : Word) : IsClz w (leadZeros w) := by
  unfold leadZeros
  split
  next hz => subst hz; exact ⟨le_rfl, fun i _ => by simp, fun h => absurd h (lt_irrefl _)⟩
  next hz =>
    have hne : w.toNat ≠ 0 := fun he => hz (BitVec.eq_of_toNat_eq he)
    have hlog : w.toNat.log2 < 64 := (Nat.log2_lt hne).2 w.isLt
    refine ⟨by omega, fun i hi => ?_, fun _ => ?_⟩
    · rw [BitVec.getMsbD_eq_getLsbD, BitVec.getLsbD, Nat.testBit_lt_two_pow, Bool.and_false]
      exact Nat.lt_of_lt_of_le Nat.lt_log2_self (Nat.pow_le_pow_right (by decide) (by omega))
    · rw [BitVec.getMsbD_eq_getLsbD, BitVec.getLsbD, show 64 - 1 - (63 - w.toNat.log2) = w.toNat.log2 by omega, Nat.testBit_log2 hne]
      simp; omega

theorem isCtz_trailZeros (w : Word) : IsCtz w (trailZeros w) := by
  unfold trailZeros
  cases hf : (List.range 64).find? fun i => w.getLsbD i with
  | none =>
    refine ⟨le_rfl, fun i hi => ?_, fun h => absurd h (lt_irrefl _)⟩
    simpa using List.find?_eq_none.1 hf i (List.mem_range.2 hi)
  | some n =>
    obtain ⟨hn, hlt, hbefore⟩ := List.find?_range_eq_some.1 hf
    exact ⟨Nat.le_of_lt (by simpa using hlt), fun i hi => by simpa using hbefore i hi, fun _ => hn⟩

theorem movhi_eq (imm : BitVec 32) (w : Word) :
    (imm ++ w.extractLsb' 0 32 : BitVec (32 + 32)) = (imm.zeroExtend 64 <<< 32) ||| (w &&& 0xFFFFFFFF) := by
  refine BitVec.eq_of_getLsbD_eq fun i hi => ?_
  have hmask : (0xFFFFFFFF : BitVec 64).getLsbD i = decide (i < 32) := by
    rw [show (0xFFFFFFFF : BitVec 64) = (BitVec.allOnes 32).setWidth 64 by decide, BitVec.getLsbD_setWidth, BitVec.getLsbD_allOnes,
      decide_eq_true hi, Bool.true_and]
  rw [BitVec.getLsbD_append, BitVec.getLsbD_or, BitVec.getLsbD_and, hmask, BitVec.getLsbD_shiftLeft, BitVec.getLsbD_setWidth]
  by_cases h : i < 32
  · simp [h]
  · simp [h, hi, show i - 32 < 64 by omega]

/-! ### The register files (R365) -/

@[simp] theorem Ctx.rg_zero (c : Ctx) : c.rg 0 = 0 := rfl
@[simp] theorem Ctx.rf_zero (c : Ctx) : c.rf 0 = true := rfl
@[simp] theorem Ctx.wg_zero (c : Ctx) (v : Word) : c.wg 0 v = c := rfl
@[simp] theorem Ctx.wf_zero (c : Ctx) (v : Bool) : c.wf 0 v = c := rfl

theorem Ctx.rg_wg (c : Ctx) (r w : GReg) (v : Word) : (c.wg r v).rg w = if w = 0 then 0 else if w = r then v else c.rg w := by
  unfold Ctx.wg Ctx.rg
  by_cases hw : w = 0
  · simp [hw]
  · by_cases hr : r = 0
    · simp [hr, hw]
    · simp only [hr, hw, if_false, setAt_getD 32 0 c.g r.val w.val v 0 w.isLt, Fin.ext_iff]
theorem Ctx.rf_wf (c : Ctx) (r w : FReg) (v : Bool) : (c.wf r v).rf w = if w = 0 then true else if w = r then v else c.rf w := by
  unfold Ctx.wf Ctx.rf
  by_cases hw : w = 0
  · simp [hw]
  · by_cases hr : r = 0
    · simp [hr, hw]
    · simp only [hr, hw, if_false, decide_false, Bool.false_or, setAt_getD 8 false c.f r.val w.val v false w.isLt, Fin.ext_iff]
theorem Ctx.rh_wh (c : Ctx) (r w : HReg) (v : Handle) : (c.wh r v).rh w = if w = r then v else c.rh w := by
  simp only [Ctx.wh, Ctx.rh, setAt_getD 16 0 c.h r.val w.val v 0 w.isLt, Fin.ext_iff]

/-! ### The frame of a change of one step (R373) -/

theorem State.updStep_eq (s : State) (x : StepRef) (f : Step → Step) :
    s.updStep x f = { s with parts := (s.updStep x f).parts } := rfl
theorem State.prt_updStep_frame {s : State} {p : Part} {t : Partition} (x : StepRef) (f : Step → Step) (hp : s.prt p = some t) :
    ∃ t', (s.updStep x f).prt p = some t' ∧ t' = { t with steps := t'.steps } ∧ t'.steps.map (·.1) = t.steps.map (·.1) := by
  rw [State.prt_updStep, hp]
  split
  next => exact ⟨_, rfl, rfl, Tab.keys_upd ..⟩
  next => exact ⟨_, rfl, rfl, rfl⟩

/-! ### The obligations -/

/-- Settles O1: each instruction is an ALU operation, and its value is the one of Table 16-3. -/
theorem scalarArithmeticResults : Obligations.ScalarArithmeticResults := by
  unfold Obligations.ScalarArithmeticResults
  intro s x t k g d a b h
  simp only [← mulHigh_eq, ← divWord_eq, ← remWord_eq]
  exact ⟨State.scalar_goesOn h rfl, State.alu_goesOn h .., State.alu_goesOn h .., State.alu_goesOn h .., State.alu_goesOn h .., State.alu_goesOn h .., State.alu_goesOn h ..⟩

/-- Settles O2: likewise; the counts of zero bits by their own lemmas. -/
theorem scalarLogicAndShifts : Obligations.ScalarLogicAndShifts := by
  unfold Obligations.ScalarLogicAndShifts
  intro s x t k g d a b h
  simp only [← popCount_eq, BitVec.shiftLeft_eq', BitVec.ushiftRight_eq', BitVec.sshiftRight_eq', toNat_low6]
  exact ⟨State.alu_goesOn h .., State.alu_goesOn h .., State.alu_goesOn h .., State.alu_goesOn h .., State.alu_goesOn h .., State.alu_goesOn h .., State.unary_goesOn h .., ⟨_, isClz_leadZeros _, State.unary_goesOn h ..⟩,
    ⟨_, isCtz_trailZeros _, State.unary_goesOn h ..⟩⟩

/-- Settles O3: each comparison writes the flag that its relation decides. -/
theorem comparisonResults : Obligations.ComparisonResults := by
  unfold Obligations.ComparisonResults
  intro s x t k g d a b h
  simp only [← cmpNe_eq]
  exact ⟨State.cmp_goesOn h .., State.cmp_goesOn h .., State.cmp_goesOn h .., State.cmp_goesOn h .., State.cmp_goesOn h .., State.cmp_goesOn h ..⟩

/-- Settles O4: the flag operations write one flag; RDSL unlatches behind its write. -/
theorem flagLogicAndLatch : Obligations.FlagLogicAndLatch := by
  unfold Obligations.FlagLogicAndLatch
  intro s x t k g d a b e h
  exact ⟨State.flagOp_goesOn h .., State.flagOp_goesOn h .., State.flagOp_goesOn h .., State.flagOp_goesOn h .., State.scalar_goesOn h (by simp [Ctx.unlatch])⟩

/-- Settles O5: the immediate group by its operations. -/
theorem immediateResults : Obligations.ImmediateResults := by
  unfold Obligations.ImmediateResults
  intro s x t k g d a fd imm h
  simp only [BitVec.shiftLeft_eq', BitVec.ushiftRight_eq', BitVec.sshiftRight_eq', toNat_low6, ← movhi_eq, ← cmpNe_eq]
  exact ⟨State.scalar_goesOn h (Ctx.wg_pc ..), State.scalar_goesOn h (Ctx.wg_pc ..), State.unary_goesOn h .., State.unary_goesOn h .., State.unary_goesOn h .., State.unary_goesOn h .., State.unary_goesOn h ..,
    fun hi => State.shiftImm_goesOn h hi .., fun hi => State.shiftImm_goesOn h hi .., fun hi => State.shiftImm_goesOn h hi ..,
    fun hi => ⟨State.shiftImm_squashes h hi .., State.shiftImm_squashes h hi .., State.shiftImm_squashes h hi ..⟩,
    State.cmpImm_goesOn h .., State.cmpImm_goesOn h .., State.cmpImm_goesOn h .., State.cmpImm_goesOn h .., State.cmpImm_goesOn h .., State.cmpImm_goesOn h ..⟩

/-- Settles O6: reading behind a write by register file; what a write leaves, by the model's own lemmas. -/
theorem registerFiles : Obligations.RegisterFiles := by
  unfold Obligations.RegisterFiles
  intro c
  refine ⟨fun r w v => ⟨rfl, rfl, c.rg_wg r w v⟩, fun r w v => ⟨rfl, rfl, c.rf_wf r w v⟩, fun r w v => c.rh_wh r w v, ?_⟩
  intro r q h v b
  simp

/-- Settles O7: an instruction that goes on changes the record of its own step. -/
theorem goingOnChangesOneContext : Obligations.GoingOnChangesOneContext := by
  unfold Obligations.GoingOnChangesOneContext
  intro s u x k c hk hu
  cases hu
  refine ⟨?_, fun y hy => ?_, fun p t hp => State.prt_updStep_frame x _ hp, State.updStep_eq .., State.updP_keys ..⟩
  · rw [State.step?_updStep_self, hk]; rfl
  · rw [State.step?_updStep, if_neg hy]

end Sys2Proof.Machine
end

section
/-! SUPPORT. Branches, local memory and the handle group (16 R371 to R374): the bytes of a word, what a load reads and a store writes, and
what a handle's check lets through. -/

namespace Sys2Proof.Machine
open Sys2Proof.Cert

/-! ### Little-endian bytes (00 R6) -/

theorem leNat_lt (bs : List Byte) : leNat bs < 2 ^ (8 * bs.length) := by
  induction bs with
  | nil => simp [leNat]
  | cons b bs ih =>
    have hb := b.isLt
    rw [leNat, List.length_cons, show 8 * (bs.length + 1) = 8 * bs.length + 8 by omega, Nat.pow_add]
    omega
theorem leNat_byte {bs : List Byte} {i : Nat} (hi : i < bs.length) : leNat bs / 2 ^ (8 * i) % 256 = (bs[i]).toNat := by
  induction bs generalizing i with
  | nil => exact absurd hi (Nat.not_lt_zero _)
  | cons b bs ih =>
    have hb := b.isLt
    cases i with
    | zero => simp only [leNat, Nat.mul_zero, Nat.pow_zero, Nat.div_one, List.getElem_cons_zero]; omega
    | succ i =>
      rw [leNat, show 8 * (i + 1) = 8 + 8 * i by omega, Nat.pow_add, ← Nat.div_div_eq_div_mul,
        show (b.toNat + 256 * leNat bs) / 2 ^ 8 = leNat bs by omega, ih (Nat.lt_of_succ_lt_succ hi), List.getElem_cons_succ]
@[simp] theorem length_toLe (v n : Nat) : (toLe v n).length = n := by
  induction n generalizing v with
  | zero => rfl
  | succ n ih => rw [toLe, List.length_cons, ih]
theorem getElem_toLe {v n i : Nat} (h : i < (toLe v n).length) : (toLe v n)[i] = BitVec.ofNat 8 (v / 2 ^ (8 * i)) := by
  induction n generalizing v i with
  | zero => exact absurd h (Nat.not_lt_zero _)
  | succ n ih =>
    cases i with
    | zero => simp [toLe]
    | succ i =>
      simp only [toLe, List.getElem_cons_succ]
      rw [ih, Nat.div_div_eq_div_mul, show 8 * (i + 1) = 8 + 8 * i by omega, Nat.pow_add]
theorem ofNat_byte_eq_extractLsb' {w : Nat} (v : BitVec w) (i : Nat) :
    BitVec.ofNat 8 (v.toNat / 2 ^ (8 * i)) = v.extractLsb' (8 * i) 8 := by
  refine BitVec.eq_of_toNat_eq ?_
  rw [BitVec.extractLsb'_toNat, Nat.shiftRight_eq_div_pow, BitVec.toNat_ofNat]

/-! ### Local memory (R372) -/

theorem localOk_iff {data : List Byte} {a n al : Nat} :
    localOk data a n al = true ↔ a % al = 0 ∧ (a + n ≤ 0x6000 ∨ (0x10000 ≤ a ∧ a + n ≤ 0x10000 + data.length)) := by
  simp [localOk, inScratch, inData]
theorem localWrOk_iff {a n al : Nat} : localWrOk a n al = true ↔ a % al = 0 ∧ a + n ≤ 0x6000 := by
  simp [localWrOk, inScratch]

@[simp] theorem Step.length_peek (k : Step) (data : List Byte) (a n : Nat) : (k.peek data a n).length = n := by simp [Step.peek]
theorem Step.getElem_peek {k : Step} {data : List Byte} {a n i : Nat} (h : i < (k.peek data a n).length) :
    (k.peek data a n)[i] = k.byteAt data (a + i) := by simp [Step.peek]

/-- The word that a load of at most 8 bytes gives. -/
theorem holdsBytes_peek (k : Step) (g : Program) (a : Nat) {n : Nat} (hn : n ≤ 8) :
    HoldsBytes k g a n (BitVec.ofNat 64 (leNat (k.peek g.data a n))) := by
  have hlt : leNat (k.peek g.data a n) < 2 ^ (8 * n) := by simpa using leNat_lt (k.peek g.data a n)
  have h64 : leNat (k.peek g.data a n) < 2 ^ 64 := Nat.lt_of_lt_of_le hlt (Nat.pow_le_pow_right (by decide) (by omega))
  have hv : (BitVec.ofNat 64 (leNat (k.peek g.data a n))).toNat = leNat (k.peek g.data a n) := by
    rw [BitVec.toNat_ofNat, Nat.mod_eq_of_lt h64]
  refine ⟨fun i hi => BitVec.eq_of_toNat_eq ?_, by rw [hv]; exact hlt⟩
  rw [BitVec.extractLsb'_toNat, hv, Nat.shiftRight_eq_div_pow, leNat_byte (by simpa using hi), Step.getElem_peek]
theorem holdsBytes_unique {k : Step} {g : Program} {a n : Nat} {v w : Word} (hv : HoldsBytes k g a n v) (hw : HoldsBytes k g a n w) :
    v = w := by
  refine BitVec.eq_of_getLsbD_eq fun j hj => ?_
  by_cases hn : j < 8 * n
  · have hbyte := (hv.1 (j / 8) (by omega)).trans (hw.1 (j / 8) (by omega)).symm
    have hbit := congrArg (fun b => b.getLsbD (j % 8)) hbyte
    simpa [BitVec.getLsbD_extractLsb', Nat.mod_lt, Nat.div_add_mod] using hbit
  · have hhigh : ∀ u : Word, u.toNat < 2 ^ (8 * n) → u.getLsbD j = false := fun u hu =>
      Nat.testBit_lt_two_pow (Nat.lt_of_lt_of_le hu (Nat.pow_le_pow_right (by decide) (by omega)))
    rw [hhigh v hv.2, hhigh w hw.2]

theorem Step.poke_eq (k : Step) (a : Nat) (bs : List Byte) : k.poke a bs = { k with scratch := (k.poke a bs).scratch } := by
  induction bs generalizing k a with
  | nil => rfl
  | cons b bs ih => rw [Step.poke, ih]
/-- A byte of local memory depends on what the scratch window holds there and on the step's context. -/
theorem Step.byteAt_congr {k e : Step} {data : List Byte} {a : Nat} (hs : e.scratch.find a = k.scratch.find a) (he : e.epoch = k.epoch) :
    e.byteAt data a = k.byteAt data a := by rw [Step.byteAt, Step.byteAt, hs, he]
theorem Step.find_poke (k : Step) (a : Nat) (bs : List Byte) (b : Nat) :
    (k.poke a bs).scratch.find b = if a ≤ b then (bs[b - a]?).or (k.scratch.find b) else k.scratch.find b := by
  induction bs generalizing k a with
  | nil => simp [Step.poke]
  | cons c bs ih =>
    rw [Step.poke, ih]
    rcases Nat.lt_trichotomy b a with hlt | rfl | hgt
    · rw [if_neg (by omega), if_neg (by omega)]; exact Tab.find_put_ne _ _ (by omega)
    · simp
    · rw [if_pos (by omega), if_pos (by omega), show b - a = b - (a + 1) + 1 by omega, List.getElem?_cons_succ]
      congr 1
      exact Tab.find_put_ne _ _ (by omega)
theorem Step.byteAt_poke_in {k : Step} {data bs : List Byte} {a i : Nat} (hi : i < bs.length) (ha : a + bs.length ≤ 0x6000) :
    (k.poke a bs).byteAt data (a + i) = bs[i] := by
  rw [Step.byteAt, if_neg (by omega), Step.find_poke, if_pos (by omega)]
  simp [hi]
theorem Step.byteAt_poke_out {k : Step} {data bs : List Byte} {a b : Nat} (h : b < a ∨ a + bs.length ≤ b) :
    (k.poke a bs).byteAt data b = k.byteAt data b := by
  refine Step.byteAt_congr ?_ (by rw [Step.poke_eq])
  rw [Step.find_poke]
  split
  next => rw [List.getElem?_eq_none (by omega), Option.none_or]
  next => rfl

/-- A step with some bytes written, behind its instruction. -/
def Step.stored (k : Step) (a : Nat) (bs : List Byte) : Step := { k.poke a bs with ctx := { k.ctx with pc := k.ctx.pc + 8 } }

theorem stored_word {w : Nat} {k : Step} {g : Program} {a n : Nat} {v : BitVec w} (ha : a + n ≤ 0x6000) :
    Stored k (k.stored a (toLe v.toNat n)) g a n v := by
  refine ⟨fun i hi => ?_, fun b hb => ?_, ?_⟩
  · exact (Step.byteAt_congr rfl rfl).trans ((Step.byteAt_poke_in (by simpa using hi) (by simpa using ha)).trans
      ((getElem_toLe _).trans (ofNat_byte_eq_extractLsb' v i)))
  · exact (Step.byteAt_congr rfl rfl).trans (Step.byteAt_poke_out (by simpa using hb))
  · rw [Step.stored, Step.poke_eq]

section
variable {s : State} {x : StepRef} {t : Partition} {k : Step} {g : Program} (h : Running s x t k g)
include h

/-- Two changes of a running step that agree on its record are one. -/
theorem State.updStep_congr_of_running {f f' : Step → Step} (hf : f k = f' k) : s.updStep x f = s.updStep x f' := by
  obtain ⟨hp, hk, -⟩ := h
  exact State.updP_congr hp (by rw [Tab.upd_congr hk hf])
/-- An instruction that changes its step's record and then goes on. -/
theorem State.issue_updStep {d : Deps} {r : Bool} {body : Iss → State × IOut} {f : Step → Step} {c : Ctx} {e : Step}
    (hb : body (iss s x t k g) = (s.updStep x f, .done c)) (he : { f k with ctx := { c with pc := c.pc + 8 } } = e) :
    (.next (s.issue x d r body) : Out) = .next (s.updStep x fun _ => e) := by
  rw [State.issue_of_running h, hb, State.retire_done, State.updStep_updStep]
  exact congrArg _ (State.updStep_congr_of_running h (f' := fun _ => e) he)

/-! ### Branches (R371) -/

theorem State.issue_goesTo {d : Deps} {r : Bool} {body : Iss → State × IOut} {c : Ctx} {a : Int} {pc : Nat}
    (hb : body (iss s x t k g) = (s, .jump c a)) (ha : a = pc) (hin : pc < 8 * g.code.length) (hal : pc % 8 = 0) :
    (.next (s.issue x d r body) : Out) = goesTo s x c pc := by
  subst ha
  rw [State.issue_of_running h, hb, State.retire_jump_in _ _ _ _ _ _ _ (by omega)]
  rfl
theorem State.issue_jumps_out {d : Deps} {r : Bool} {body : Iss → State × IOut} {c : Ctx} {a : Int}
    (hb : body (iss s x t k g) = (s, .jump c a)) (hout : ¬ (0 ≤ a ∧ a < (8 * g.code.length : Nat) ∧ a % 8 = 0)) :
    (.next (s.issue x d r body) : Out) = .next (s.squash x.part x.num .accessViolation true) := by
  rw [State.issue_of_running h, hb, State.retire_jump_out _ _ _ _ _ _ _ hout]

theorem pc_aligned : k.ctx.pc % 8 = 0 := by
  obtain ⟨-, -, -, -, hw⟩ := h
  simp only [Program.wordOk, Bool.and_eq_true, beq_iff_eq] at hw
  exact hw.1
theorem State.branch_taken {taken : Ctx → Bool} {off : BitVec 40} (ht : taken k.ctx = true) (d : Deps)
    (hin : 0 ≤ target k.ctx off ∧ target k.ctx off < 8 * g.code.length) :
    (.next (s.branch x d off taken) : Out) = goesTo s x k.ctx (target k.ctx off).toNat := by
  have hal := pc_aligned h
  unfold target at hin ⊢
  refine State.issue_goesTo h (congrArg (Prod.mk s) (if_pos ht)) (a := target k.ctx off) ?_ ?_ ?_ <;> (try unfold target) <;> omega
theorem State.branch_out {taken : Ctx → Bool} {off : BitVec 40} (ht : taken k.ctx = true) (d : Deps)
    (hout : target k.ctx off < 0 ∨ 8 * g.code.length ≤ target k.ctx off) :
    (.next (s.branch x d off taken) : Out) = .next (s.squash x.part x.num .accessViolation true) :=
  State.issue_jumps_out h (congrArg (Prod.mk s) (if_pos ht)) (by simp only [iss]; omega)
theorem State.branch_not_taken {taken : Ctx → Bool} (ht : taken k.ctx = false) (d : Deps) (off : BitVec 40) :
    (.next (s.branch x d off taken) : Out) = goesOn s x k k.ctx :=
  State.issue_goesOn h (congrArg (Prod.mk s) (if_neg (by simpa [iss] using ht))) rfl

theorem exec_call_in {off : BitVec 40} (c : GReg) (hin : 0 ≤ target k.ctx off ∧ target k.ctx off < 8 * g.code.length) :
    exec (.call x c off) s = goesTo s x (k.ctx.wg c (BitVec.ofNat 64 (k.ctx.pc + 8))) (target k.ctx off).toNat := by
  have hal := pc_aligned h
  unfold target at hin
  refine State.issue_goesTo h (a := target k.ctx off) rfl ?_ ?_ ?_ <;> unfold target <;> omega
theorem exec_call_out {off : BitVec 40} (c : GReg) (hout : target k.ctx off < 0 ∨ 8 * g.code.length ≤ target k.ctx off) :
    exec (.call x c off) s = .next (s.squash x.part x.num .accessViolation true) :=
  State.issue_jumps_out h (a := target k.ctx off) rfl (by omega)
theorem exec_jr_in {a : GReg} (d : GReg) (hin : (k.ctx.rg a).toNat < 8 * g.code.length ∧ (k.ctx.rg a).toNat % 8 = 0) :
    exec (.jr x d a) s = goesTo s x (k.ctx.wg d (BitVec.ofNat 64 (k.ctx.pc + 8))) (k.ctx.rg a).toNat :=
  State.issue_goesTo h rfl rfl hin.1 hin.2
theorem exec_jr_out {a : GReg} (d : GReg) (hout : 8 * g.code.length ≤ (k.ctx.rg a).toNat ∨ (k.ctx.rg a).toNat % 8 ≠ 0) :
    exec (.jr x d a) s = .next (s.squash x.part x.num .accessViolation true) :=
  State.issue_jumps_out h (a := ((k.ctx.rg a).toNat : Int)) rfl (by omega)

/-! ### Loads and stores (R372) -/

theorem State.load_in {d a : GReg} {imm : BitVec 32} {n : Nat} (hn : n ≤ 8)
    (hin : k.ctx.addr a imm % n = 0 ∧ (k.ctx.addr a imm + n ≤ 0x6000
      ∨ (0x10000 ≤ k.ctx.addr a imm ∧ k.ctx.addr a imm + n ≤ 0x10000 + g.data.length))) :
    ∃ v, HoldsBytes k g (k.ctx.addr a imm) n v ∧ (.next (s.load x d a imm n) : Out) = goesOn s x k (k.ctx.wg d v) :=
  ⟨_, holdsBytes_peek k g _ hn, State.issue_goesOn h (if_pos (localOk_iff.2 hin)) (Ctx.wg_pc ..)⟩
theorem State.load_out {d a : GReg} {imm : BitVec 32} {n : Nat}
    (hout : ¬ (k.ctx.addr a imm % n = 0 ∧ (k.ctx.addr a imm + n ≤ 0x6000
      ∨ (0x10000 ≤ k.ctx.addr a imm ∧ k.ctx.addr a imm + n ≤ 0x10000 + g.data.length)))) :
    (.next (s.load x d a imm n) : Out) = .next (s.squash x.part x.num .accessViolation false) :=
  congrArg _ (State.issue_fault h (if_neg (mt localOk_iff.1 hout)))

theorem exec_ldf_in {imm : BitVec 32} (d : GReg) (hi : imm.toNat < g.frameWords) :
    exec (.ldf x d imm) s = goesOn s x k (k.ctx.wg d (k.words.getD imm.toNat 0)) :=
  State.issue_goesOn h (if_pos hi) (Ctx.wg_pc ..)
theorem exec_ldf_out {imm : BitVec 32} (d : GReg) (hi : g.frameWords ≤ imm.toNat) :
    exec (.ldf x d imm) s = .next (s.squash x.part x.num .accessViolation true) :=
  congrArg _ (State.issue_fault h (if_neg (Nat.not_lt.2 hi)))

theorem State.store_in {d a : GReg} {imm : BitVec 32} {n : Nat} (hin : k.ctx.addr a imm % n = 0 ∧ k.ctx.addr a imm + n ≤ 0x6000) :
    ∃ e, Stored k e g (k.ctx.addr a imm) n (k.ctx.rg d) ∧ (.next (s.store x d a imm n) : Out) = .next (s.updStep x fun _ => e) :=
  ⟨_, stored_word hin.2, State.issue_updStep h (if_pos (localWrOk_iff.2 hin)) rfl⟩
theorem State.store_out {d a : GReg} {imm : BitVec 32} {n : Nat} (hout : ¬ (k.ctx.addr a imm % n = 0 ∧ k.ctx.addr a imm + n ≤ 0x6000)) :
    (.next (s.store x d a imm n) : Out) = .next (s.squash x.part x.num .accessViolation false) :=
  congrArg _ (State.issue_fault h (if_neg (mt localWrOk_iff.1 hout)))

theorem exec_hst_in {hs : HReg} {a : GReg} {imm : BitVec 32} (r : Bool)
    (hin : k.ctx.addr a imm % 8 = 0 ∧ k.ctx.addr a imm + 8 ≤ 0x6000) :
    ∃ e, Stored k e g (k.ctx.addr a imm) 8 (k.ctx.rh hs) ∧ exec (.hst x r hs a imm) s = .next (s.updStep x fun _ => e) :=
  ⟨_, stored_word hin.2, State.issue_updStep h (if_pos (localWrOk_iff.2 hin)) rfl⟩
theorem exec_hst_out {hs : HReg} {a : GReg} {imm : BitVec 32} (r : Bool)
    (hout : ¬ (k.ctx.addr a imm % 8 = 0 ∧ k.ctx.addr a imm + 8 ≤ 0x6000)) :
    exec (.hst x r hs a imm) s = .next (s.squash x.part x.num .accessViolation false) :=
  congrArg _ (State.issue_fault h (if_neg (mt localWrOk_iff.1 hout)))

theorem exec_stf_in {imm : BitVec 32} (d : GReg) (hi : imm.toNat < g.frameWords) :
    exec (.stf x d imm) s = .next (s.updStep x fun e =>
      { e with words := setAt 16 0 k.words imm.toNat (k.ctx.rg d), ctx := { k.ctx with pc := k.ctx.pc + 8 } }) :=
  (State.issue_updStep h (if_pos hi) rfl).trans (congrArg _ (State.updStep_congr_of_running h rfl))
theorem exec_stf_out {imm : BitVec 32} (d : GReg) (hi : g.frameWords ≤ imm.toNat) :
    exec (.stf x d imm) s = .next (s.squash x.part x.num .accessViolation true) :=
  congrArg _ (State.issue_fault h (if_neg (Nat.not_lt.2 hi)))
end

/-! ### Handles (R12, R57, R374) -/

theorem Iss.with_passes {i : Iss} {kind : Nat} {h : Handle} (hc : i.t.checkHandle i.p (some i.k.num) kind h = none) (c : Ctx)
    (f : Unit → State × IOut) : i.with kind h c f = f () := by
  unfold Iss.with Iss.check; rw [hc]
theorem Iss.with_fails {i : Iss} {kind : Nat} {h : Handle} {st : Status} (hc : i.t.checkHandle i.p (some i.k.num) kind h = some st) (c : Ctx)
    (f : Unit → State × IOut) : i.with kind h c f = (i.s.handleEvent i.p kind h, .status st c) := by
  unfold Iss.with Iss.check; rw [hc]
theorem immKindOk_of_lt {imm : BitVec 32} (h : imm.toNat < 16) : immKindOk imm = true := decide_eq_true h

section
variable {s : State} {x : StepRef} {t : Partition} {k : Step} {g : Program} (h : Running s x t k g)
include h

/-- An instruction that ends with a status traps, or with `rec` records it (R367). -/
theorem State.issue_trapped {d : Deps} {body : Iss → State × IOut} {s' : State} {st : Status} {c : Ctx}
    (hb : body (iss s x t k g) = (s', .status st c)) :
    (.next (s.issue x d false body) : Out) = .next (s'.squash x.part x.num st) := by
  rw [State.issue_of_running h, hb, State.retire_status_trap]
theorem State.issue_recorded {d : Deps} {body : Iss → State × IOut} {s' : State} {st : Status} {c : Ctx}
    (hb : body (iss s x t k g) = (s', .status st c)) (hpc : c.pc = k.ctx.pc) :
    (.next (s.issue x d true body) : Out)
      = .next (s'.updStep x fun e => { e with ctx := { (c.wf 7 true) with latch := st.code, pc := k.ctx.pc + 8 } }) := by
  rw [State.issue_of_running h, hb, State.retire_status_rec, ← hpc]; rfl
theorem State.issue_refused {d : Deps} {r : Bool} {body : Iss → State × IOut} {st : Status} {c : Ctx}
    (hb : body (iss s x t k g) = (s, .status st c)) (hpc : c.pc = k.ctx.pc) :
    (.next (s.issue x d r body) : Out) = refused s x k r st c := by
  cases r with
  | false => exact State.issue_trapped h hb
  | true => exact State.issue_recorded h hb hpc
/-- An instruction that goes on once its handle has passed the check. -/
theorem State.issue_with_goesOn {d : Deps} {r : Bool} {body : Iss → State × IOut} {kind : Nat} {hd : Handle} {c0 c : Ctx}
    {f : Unit → State × IOut} (hc : Passes t x k kind hd) (hb : body (iss s x t k g) = (iss s x t k g).with kind hd c0 f)
    (hf : f () = (s, .done c)) (hpc : c.pc = k.ctx.pc) : (.next (s.issue x d r body) : Out) = goesOn s x k c :=
  State.issue_goesOn h (hb.trans ((Iss.with_passes hc c0 f).trans hf)) hpc

/-- HMAKE's handle. -/
def madeHandle (x : StepRef) (k : Step) (e : GReg) (imm : BitVec 32) : Handle :=
  BitVec.ofNat 4 imm.toNat ++ BitVec.ofNat 4 x.part.val ++ (k.ctx.rg e).extractLsb' 0 56
theorem exec_hmake_passes {e : GReg} {imm : BitVec 32} (r : Bool) (d : HReg) (hi : imm.toNat < 16)
    (hc : Passes t x k 0 (madeHandle x k e imm)) : exec (.hmake x r d e imm) s = goesOn s x k (k.ctx.wh d (madeHandle x k e imm)) :=
  State.issue_with_goesOn h hc (if_neg (by simp [immKindOk_of_lt hi])) rfl rfl
theorem exec_hmake_fails {e : GReg} {imm : BitVec 32} {st : Status} (d : HReg) (hi : imm.toNat < 16)
    (hc : t.checkHandle x.part (some k.num) 0 (madeHandle x k e imm) = some st) :
    exec (.hmake x true d e imm) s
        = .next ((s.handleEvent x.part 0 (madeHandle x k e imm)).updStep x fun e' =>
            { e' with ctx := { (k.ctx.wh d 0).wf 7 true with latch := st.code, pc := k.ctx.pc + 8 } })
      ∧ exec (.hmake x false d e imm) s = .next ((s.handleEvent x.part 0 (madeHandle x k e imm)).squash x.part x.num st) := by
  exact ⟨State.issue_recorded h ((if_neg (by simp [immKindOk_of_lt hi])).trans (Iss.with_fails hc ..)) rfl,
    State.issue_trapped h ((if_neg (by simp [immKindOk_of_lt hi])).trans (Iss.with_fails hc ..))⟩

theorem exec_hchk {imm : BitVec 32} (r : Bool) (f : FReg) (hs : HReg) (hi : imm.toNat < 16) :
    exec (.hchk x r f hs imm) s
      = goesOn s x k (k.ctx.wf f (t.checkHandle x.part (some k.num) imm.toNat (k.ctx.rh hs)).isNone) :=
  State.issue_goesOn h (if_pos (immKindOk_of_lt hi)) (Ctx.wf_pc ..)
theorem exec_hld_passes {a : GReg} {imm : BitVec 32} {v : Word} (r : Bool) (d : HReg) (hal : k.ctx.addr a imm % 8 = 0)
    (hin : k.ctx.addr a imm + 8 ≤ 0x6000) (hv : HoldsBytes k g (k.ctx.addr a imm) 8 v) (hc : Passes t x k 0 v) :
    exec (.hld x r d a imm) s = goesOn s x k (k.ctx.wh d v) := by
  rw [holdsBytes_unique hv (holdsBytes_peek k g _ (by decide))] at hc ⊢
  exact State.issue_with_goesOn h hc (if_neg (by simp [iss, localOk_iff.2 ⟨hal, .inl hin⟩])) rfl rfl
theorem exec_hloads_self {hs : HReg} (r : Bool) (d : HReg) (hc : Passes t x k 0 (k.ctx.rh hs)) (hne : k.ctx.rh hs ≠ 0) :
    exec (.hloads x r d hs 0) s = goesOn s x k (k.ctx.wh d (k.ctx.rh hs)) :=
  State.issue_with_goesOn h hc rfl ((if_neg hne).trans (Iss.with_passes hc ..)) rfl
end

/-! ### The obligations -/

/-- Settles O8: a branch that is taken, one that is not, and one whose target lies outside the code. -/
theorem branchTargets : Obligations.BranchTargets := by
  unfold Obligations.BranchTargets
  intro s x t k g f c d a off h tgt link
  refine ⟨fun hin => ⟨?_, ?_, ?_, ?_, ?_, ?_⟩, ?_, ?_, ?_, ?_, exec_jr_in h d, fun hout => ⟨?_, ?_, ?_, ?_, ?_, ?_⟩, exec_jr_out h d⟩
  · exact State.branch_taken h rfl {} hin
  · exact exec_call_in h c hin
  · exact fun hf => State.branch_taken h hf { rf := [f] } hin
  · exact fun hf => State.branch_taken h (by simp [hf]) { rf := [f] } hin
  · exact fun hc => State.branch_taken h (by simp [hc]) { rg := [c] } hin
  · exact fun hc => State.branch_taken h (by simpa using hc) { rg := [c] } hin
  · exact fun hf => State.branch_not_taken h hf { rf := [f] } off
  · exact fun hf => State.branch_not_taken h (by simp [hf]) { rf := [f] } off
  · exact fun hc => State.branch_not_taken h (by simpa using hc) { rg := [c] } off
  · exact fun hc => State.branch_not_taken h (by simp [hc]) { rg := [c] } off
  · exact State.branch_out h rfl {} hout
  · exact exec_call_out h c hout
  · exact fun hf => State.branch_out h hf { rf := [f] } hout
  · exact fun hf => State.branch_out h (by simp [hf]) { rf := [f] } hout
  · exact fun hc => State.branch_out h (by simp [hc]) { rg := [c] } hout
  · exact fun hc => State.branch_out h (by simpa using hc) { rg := [c] } hout

/-- Settles O9: a load inside one row of the local address map, and one outside. -/
theorem loadResults : Obligations.LoadResults := by
  unfold Obligations.LoadResults
  intro s x t k g d a imm h ad inRow squashed
  exact ⟨State.load_in h (by decide), State.load_in h (by decide), State.load_in h (by decide), State.load_in h (by decide),
    State.load_out h, State.load_out h, State.load_out h, State.load_out h, exec_ldf_in h d, exec_ldf_out h d⟩

/-- Settles O10: a store inside the scratch window, and one outside. -/
theorem storeResults : Obligations.StoreResults := by
  unfold Obligations.StoreResults
  intro s x t k g d a hs r imm h ad v inRow squashed
  refine ⟨State.store_in h, State.store_in h, State.store_in h, State.store_in h, exec_hst_in h r,
    fun hout => ⟨State.store_out h hout, exec_hst_out h r hout⟩, State.store_out h, State.store_out h, State.store_out h,
    fun hi _ => ⟨_, fun i hlt => ?_, exec_stf_in h d hi⟩, exec_stf_out h d⟩
  exact setAt_getD 16 0 k.words imm.toNat i v 0 hlt

/-- Settles O11: copies and comparisons write one register; the other four by whether the handle passes its check. -/
theorem handleResults : Obligations.HandleResults := by
  unfold Obligations.HandleResults
  intro s x t k g d hs h2 e a f r imm h passes made ad
  refine ⟨?_, ?_, ?_, ?_, exec_hmake_passes h r d, fun hi hc => ?_, fun hi hc => ?_, fun v => exec_hld_passes h r d,
    exec_hloads_self h r d, fun st hc hi => exec_hmake_fails h d hi hc⟩
  · exact State.issue_goesOn h rfl rfl
  · exact State.issue_goesOn h rfl (Ctx.wg_pc ..)
  · exact State.issue_goesOn h rfl rfl
  · exact State.issue_goesOn h rfl (Ctx.wf_pc ..)
  · rw [exec_hchk h r f hs hi, show t.checkHandle x.part (some k.num) imm.toNat (k.ctx.rh hs) = none from hc]; rfl
  · rw [exec_hchk h r f hs hi, Option.isNone_eq_false_iff.2 (Option.isSome_iff_ne_none.2 hc)]

end Sys2Proof.Machine
end

section
/-! SUPPORT. What a cold reset leaves (14 R342, 15 R354): the values are read off the state after reset. -/

namespace Sys2Proof.Machine
open Sys2Proof.Cert

/-- The RW registers of a port block after a cold reset (Table 18-11). -/
theorem portReg_reset {n : Nat} (hn : n < 16) :
    ∀ e ∈ [(0x00, 0), (0x04, 0), (0x08, 1), (0x0C, 0x1C4F), (0x10, 0), (0x14, 0), (0x18, 0xA), (0x1000, 1), (0x1010, 0x3E8)],
      State.reset.portReg n e.1 = e.2 := by
  interval_cases n <;> decide
theorem devReg_reset : ∀ e ∈ [(0x028, 1), (0x02C, 0), (0x030, 0x1000000000), (0x1004, 0x3B6), (0x1008, 0x5F)],
    State.reset.devReg e.1 = e.2 := by decide

/-- Settles O57: each value is read off the state after reset, and off the record of a partition just configured. -/
theorem resetValues : Obligations.ResetValues := by
  unfold Obligations.ResetValues
  refine ⟨rfl, rfl, rfl, rfl, rfl, rfl, rfl, devReg_reset, fun n hn => portReg_reset hn, fun l epoch keys => ?_, rfl, rfl⟩
  simp only [List.forall_mem_cons, List.not_mem_nil, false_imp_iff, implies_true, and_true]
  exact ⟨rfl, rfl, rfl, rfl, rfl, rfl, rfl, rfl, rfl, rfl, rfl, rfl, rfl, rfl, rfl, rfl, rfl, rfl, rfl, rfl, rfl, rfl, rfl, rfl, rfl, rfl⟩

/-- Settles O58. -/
theorem indicesAtReset : Obligations.IndicesAtReset := by
  unfold Obligations.IndicesAtReset
  exact ⟨by decide, rfl, rfl⟩

end Sys2Proof.Machine
end

section
/-! SUPPORT. What an issued instruction leaves of its step: its record behind the instruction, and the operations that it has put
into the update log (03 R61, 17 R382). -/

namespace Sys2Proof.Machine
open Sys2Proof.Cert

/-- Outside run-ahead, no result that is kept answers a fresh instruction (03 R60). -/
theorem Iss.taken_of_fresh {s : State} {x : StepRef} {t : Partition} {k : Step} {g : Program} {ops : List Word} (hf : Fresh k ops) :
    (iss s x t k g).taken ops = none := by
  refine List.find?_eq_none.2 fun e he => ?_
  simpa [iss] using hf e he

section
variable {s : State} {x : StepRef} {t : Partition} {k : Step} {g : Program} (h : Running s x t k g)
include h

/-- The record of a step that has been changed. -/
theorem State.step?_updStep_of_running (f : Step → Step) : (s.updStep x f).step? x = some (f k) := by
  rw [State.step?_updStep_self, State.step?_of_running h]; rfl
theorem stands_updStep (f : Step → Step) {c : Ctx} (hc : (f k).ctx = { c with pc := k.ctx.pc + 8 }) :
    Stands (s.updStep x f) x k (f k) c := ⟨State.step?_updStep_of_running h f, hc⟩

/-- An instruction that changes its step's record and goes on, as a change of that record. -/
theorem State.issue_updStep_done {d : Deps} {r : Bool} {body : Iss → State × IOut} {f : Step → Step} {c : Ctx}
    (hb : body (iss s x t k g) = (s.updStep x f, .done c)) (hpc : c.pc = k.ctx.pc) :
    (.next (s.issue x d r body) : Out) = .next (s.updStep x fun e => { f e with ctx := { c with pc := k.ctx.pc + 8 } }) := by
  rw [State.issue_of_running h, hb, State.retire_done, State.updStep_updStep, hpc]
/-- An instruction that goes on from a state that its body leaves stands behind itself there. -/
theorem State.issue_stands {d : Deps} {r : Bool} {body : Iss → State × IOut} {u : State} {e : Step} {c : Ctx} {P : State → Step → Prop}
    (hb : body (iss s x t k g) = (u, .done c)) (hpc : c.pc = k.ctx.pc) (he : u.step? x = some e)
    (hP : P (u.updStep x fun e => { e with ctx := { c with pc := k.ctx.pc + 8 } }) { e with ctx := { c with pc := k.ctx.pc + 8 } }) :
    ∃ v e', (.next (s.issue x d r body) : Out) = .next v ∧ Stands v x k e' c ∧ P v e' := by
  refine ⟨_, _, congrArg Host.Outcome.next ((State.issue_of_done h d r hb).trans (by rw [hpc])), ⟨?_, rfl⟩, hP⟩
  rw [State.step?_updStep_self, he]; rfl
/-- An instruction that goes on with `ops` in its step's update log. -/
theorem State.issue_goesLogging {d : Deps} {r : Bool} {body : Iss → State × IOut} {f : Step → Step} {c : Ctx} {ops : List LogOp}
    (hb : body (iss s x t k g) = (s.updStep x f, .done c)) (hf : f k = { k with log := k.log ++ ops }) (hpc : c.pc = k.ctx.pc) :
    (.next (s.issue x d r body) : Out) = goesLogging s x k c ops := by
  rw [State.issue_updStep_done h hb hpc]
  exact congrArg _ (State.updStep_congr_of_running h (by rw [hf]))
/-- An instruction that goes on with one operation in its step's update log. -/
theorem State.issue_logs {d : Deps} {r : Bool} {body : Iss → State × IOut} {c : Ctx} {o : LogOp}
    (hb : body (iss s x t k g) = (s.log x o, .done c)) (hpc : c.pc = k.ctx.pc) :
    (.next (s.issue x d r body) : Out) = goesLogging s x k c [o] := State.issue_goesLogging h hb rfl hpc

end

end Sys2Proof.Machine
end

section
/-! SUPPORT. PTLEN, PTGET and PGINFO (16 R375): the page table as the step's log leaves it, and the fields of Table 16-11. -/

namespace Sys2Proof.Machine
open Sys2Proof.Cert

theorem Partition.lenOf_of_log_nil {t : Partition} {k : Step} {i : Nat} {sq : Sequence} (hl : k.log = [])
    (hq : t.sequences.find i = some sq) : t.lenOf k i = (sq.committed, sq.rc) := by
  rw [Partition.lenOf, hl, hq]; rfl
theorem Partition.lenOf_setLen {t : Partition} {k : Step} {i n rc : Nat} {l : List LogOp} (hl : k.log = l ++ [.setLen i n rc]) :
    t.lenOf k i = (n, rc) := by
  rw [Partition.lenOf, hl, List.foldl_append]
  exact if_pos rfl

/-- A field of a word that is written as a sum. -/
theorem extractLsb'_ofNat_of_lt {N a n v : Nat} (hN : N < 2 ^ 64) (hv : N / 2 ^ a % 2 ^ n = v % 2 ^ n) :
    (BitVec.ofNat 64 N).extractLsb' a n = BitVec.ofNat n v := by
  refine BitVec.eq_of_toNat_eq ?_
  rw [BitVec.extractLsb'_toNat, BitVec.toNat_ofNat, BitVec.toNat_ofNat, Nat.mod_eq_of_lt hN, Nat.shiftRight_eq_div_pow, hv]
theorem code_lt_of_tier (a : Tier) : a.code < 16 := by cases a <;> decide

section
variable {s : State} {x : StepRef} {t : Partition} {k : Step} {g : Program} (h : Running s x t k g)
include h

/-- PTLEN gives the lengths of a sequence as the log leaves them. -/
theorem exec_ptlen {hr : HReg} {a b : GReg} {n rc : Nat} (r : Bool) (hc : Passes t x k kSequence (k.ctx.rh hr))
    (hf : Fresh k [k.ctx.rh hr]) (hl : t.lenOf k (hIndex (k.ctx.rh hr)) = (n, rc)) :
    exec (.ptlen x r hr a b) s = goesOn s x k ((k.ctx.wg a (BitVec.ofNat 64 n)).wg b (BitVec.ofNat 64 rc)) := by
  refine State.issue_with_goesOn h hc rfl ?_ ((Ctx.wg_pc ..).trans (Ctx.wg_pc ..))
  have hl' : (iss s x t k g).t.lenOf (iss s x t k g).k (hIndex ((iss s x t k g).c.rh hr)) = (n, rc) := hl
  simp only [show (iss s x t k g).taken [(iss s x t k g).c.rh hr] = none from Iss.taken_of_fresh hf, hl']
  rfl
theorem exec_ptget {d hr : HReg} {a b : GReg} {v : List Word} (r : Bool) (hc : Passes t x k kSequence (k.ctx.rh hr))
    (hf : Fresh k [k.ctx.rh hr, k.ctx.rg a])
    (hv : (if (k.ctx.rg a).toNat ≥ t.blocksOf k (hIndex (k.ctx.rh hr)) then [0, 2]
      else match t.entryOf k (hIndex (k.ctx.rh hr)) (k.ctx.rg a).toNat with
        | none => [0, 2]
        | some e => if e = 0 then [0, 1] else [e, 0]) = v) :
    exec (.ptget x r d hr a b) s = goesOn s x k ((k.ctx.wg b (v.getD 1 0)).wh d (v.getD 0 0)) := by
  refine State.issue_with_goesOn h hc rfl ?_ (Ctx.wg_pc ..)
  simp only [show (iss s x t k g).taken [(iss s x t k g).c.rh hr, (iss s x t k g).c.rg a] = none from Iss.taken_of_fresh hf, ← hv]
  rfl
theorem exec_pginfo {hr : HReg} {a b : GReg} {q : Group} (r : Bool) (hc : Passes t x k kGroup (k.ctx.rh hr))
    (hf : Fresh k [k.ctx.rh hr]) (hq : t.groups.find (hIndex (k.ctx.rh hr)) = some q) :
    exec (.pginfo x r hr a b) s = goesOn s x k ((k.ctx.wg a q.infoWord).wg b (BitVec.ofNat 64 (t.age q))) := by
  refine State.issue_with_goesOn h hc rfl ?_ ((Ctx.wg_pc ..).trans (Ctx.wg_pc ..))
  have hq' : (iss s x t k g).t.groups.find (hIndex ((iss s x t k g).c.rh hr)) = some q := hq
  simp only [show (iss s x t k g).taken [(iss s x t k g).c.rh hr] = none from Iss.taken_of_fresh hf, hq']
  rfl
end

theorem b2n_le (b : Bool) : b2n b ≤ 1 := by cases b <;> decide
theorem getLsbD_of_extractLsb' {w : Word} {n : Nat} {b : Bool} (h : w.extractLsb' n 1 = BitVec.ofNat 1 (b2n b)) : w.getLsbD n = b := by
  have := congrArg (fun v => v.getLsbD 0) h
  cases b <;> simpa [b2n] using this

/-- The word of Table 16-11 as a sum of its fields. -/
theorem Group.infoWord_eq (q : Group) : ∃ po st mv back : Nat, po ≤ 1 ∧ st < 4 ∧ mv < 4 ∧ back < 16
    ∧ q.infoWord = BitVec.ofNat 64 (min q.pins 0xFFFF * 2 ^ 40 + po * 2 ^ 39 + q.filled % 128 * 2 ^ 32 + q.refcount % 65536 * 2 ^ 16
      + q.quad % 4 * 2 ^ 14 + st * 2 ^ 12 + b2n q.copyOut * 2 ^ 11 + b2n q.ppin * 2 ^ 10 + mv * 2 ^ 8 + back * 2 ^ 4 + q.tier.code) := by
  refine ⟨_, _, _, _, b2n_le _, ?_, ?_, ?_, rfl⟩
  · cases q.st <;> decide
  · cases q.move <;> decide
  · cases q.backing with
    | none => decide
    | some a => exact code_lt_of_tier a
/-- The fields of Table 16-11 that the word of a group holds. -/
theorem Group.infoWord_fields (q : Group) :
    q.infoWord.extractLsb' 0 4 = BitVec.ofNat 4 q.tier.code ∧ q.infoWord.extractLsb' 14 2 = BitVec.ofNat 2 q.quad
      ∧ q.infoWord.extractLsb' 16 16 = BitVec.ofNat 16 q.refcount ∧ q.infoWord.extractLsb' 32 7 = BitVec.ofNat 7 q.filled
      ∧ q.infoWord.getLsbD 10 = q.ppin ∧ q.infoWord.getLsbD 11 = q.copyOut
      ∧ q.infoWord.extractLsb' 40 16 = BitVec.ofNat 16 (min q.pins 0xFFFF) := by
  obtain ⟨po, st, mv, back, hpo, hst, hmv, hback, hw⟩ := q.infoWord_eq
  have htier := code_lt_of_tier q.tier
  have hpp := b2n_le q.ppin
  have hco := b2n_le q.copyOut
  have hpin : min q.pins 0xFFFF ≤ 0xFFFF := Nat.min_le_right ..
  rw [hw]
  generalize min q.pins 0xFFFF = pins at *
  exact ⟨extractLsb'_ofNat_of_lt (by omega) (by omega), extractLsb'_ofNat_of_lt (by omega) (by omega),
    extractLsb'_ofNat_of_lt (by omega) (by omega), extractLsb'_ofNat_of_lt (by omega) (by omega),
    getLsbD_of_extractLsb' (extractLsb'_ofNat_of_lt (by omega) (by omega)),
    getLsbD_of_extractLsb' (extractLsb'_ofNat_of_lt (by omega) (by omega)), extractLsb'_ofNat_of_lt (by omega) (by omega)⟩

/-- Settles O12: the log is folded as the statement gives it, and the word of Table 16-11 has its fields. -/
theorem pageTableReads : Obligations.PageTableReads := by
  unfold Obligations.PageTableReads
  intro s x t k g hr d a b r h hs seq n
  refine ⟨fun hc hf => ⟨fun sq hl hq => ?_, fun l len rc hl => ?_⟩, fun hc hf => ⟨fun hn => ?_, fun e hn he => ?_⟩,
    fun q hc hf hq => ⟨q.infoWord, exec_pginfo h r hc hf hq, q.infoWord_fields⟩⟩
  · exact exec_ptlen h r hc hf (Partition.lenOf_of_log_nil hl hq)
  · exact exec_ptlen h r hc hf (Partition.lenOf_setLen hl)
  · exact exec_ptget h r hc hf (v := [0, 2]) (if_pos hn)
  · rw [exec_ptget h r hc hf (if_neg (Nat.not_le.2 hn)), he]
    by_cases h0 : e = 0
    · simp only [if_pos h0]; subst h0; rfl
    · simp only [if_neg h0]; rfl

end Sys2Proof.Machine
end

section
/-! SUPPORT. The queue, test and commit groups (16 R394 to R396, R398): what they log, when they are refused, and when they end, hold
or squash a step. -/

namespace Sys2Proof.Machine
open Sys2Proof.Cert

/-- The trace ring of a partition with one record more (18 Table 18-9). -/
def Partition.traced (t : Partition) (e : Word × BitVec 32 × Nat) : Partition :=
  { t with trace := (t.trace ++ [e]).drop ((t.trace ++ [e]).length - 256) }
theorem Partition.trace_traced_of_lt {t : Partition} (e : Word × BitVec 32 × Nat) (hn : t.trace.length < 256) :
    (t.traced e).trace = t.trace ++ [e] := by
  rw [Partition.traced, List.length_append, List.length_singleton, show t.trace.length + 1 - 256 = 0 by omega, List.drop_zero]
theorem Partition.trace_traced_of_full {t : Partition} (e : Word × BitVec 32 × Nat) (hn : t.trace.length = 256) :
    (t.traced e).trace = t.trace.drop 1 ++ [e] := by
  rw [Partition.traced, List.length_append, List.length_singleton, show t.trace.length + 1 - 256 = 1 by omega,
    List.drop_append_of_le_length (by omega)]

section
variable {s : State} {x : StepRef} {t : Partition} {k : Step} {g : Program} (h : Running s x t k g)
include h

theorem State.issue_with_refused {d : Deps} {r : Bool} {body : Iss → State × IOut} {kind : Nat} {hd : Handle} {c0 c : Ctx}
    {st : Status} {f : Unit → State × IOut} (hc : Passes t x k kind hd) (hb : body (iss s x t k g) = (iss s x t k g).with kind hd c0 f)
    (hf : f () = (s, .status st c)) (hpc : c.pc = k.ctx.pc) : (.next (s.issue x d r body) : Out) = refused s x k r st c :=
  State.issue_refused h (hb.trans ((Iss.with_passes hc c0 f).trans hf)) hpc

/-- An instruction that squashes its step whatever `rec` holds (Table 16-2). -/
theorem State.issue_squash {d : Deps} {r : Bool} {body : Iss → State × IOut} {st : Status}
    (hb : body (iss s x t k g) = (s, .squash st)) : (.next (s.issue x d r body) : Out) = .next (s.squash x.part x.num st) := by
  rw [State.issue_of_running h, hb, State.retire_squash]

/-- An instruction that ends its step's execution. -/
theorem State.issue_stop {d : Deps} {r : Bool} {body : Iss → State × IOut} {u : State} (hb : body (iss s x t k g) = (u, .stop)) :
    s.issue x d r body = u := by
  rw [State.issue_of_running h, hb, State.retire_stop]
/-- An instruction that gives up the context: its step sleeps, and may run ahead. -/
theorem State.issue_wait {d : Deps} {r : Bool} {body : Iss → State × IOut} {u : State} {w : Wait}
    (hb : body (iss s x t k g) = (u, .wait w)) :
    s.issue x d r body = u.updStep x fun k => { k with
      st := .waiting w, ra := some (RunAhead.start k.ctx (if r then { d with wf := 7 :: d.wf } else d)), raDone := [] } := by
  rw [State.issue_of_running h, hb]; rfl

/-! ### The queue group (R394) -/

theorem exec_qpost_posts {hr : HReg} {a b : GReg} (r : Bool) (hc : Passes t x k kQueue (k.ctx.rh hr)) (hq : hIndex (k.ctx.rh hr) = k.q)
    (hn : k.posts < 4) :
    ∃ u e, exec (.qpost x r hr a b) s = .next u ∧ Stands u x k e k.ctx ∧ e.log = k.log ++ [.post (k.ctx.rg a) (k.ctx.rg b)]
      ∧ e.posts = k.posts + 1 := by
  have hg : ¬ (hIndex (k.ctx.rh hr) ≠ k.q ∨ k.posts ≥ 4) := by omega
  refine State.issue_stands h ((Iss.with_passes hc k.ctx _).trans (if_neg hg)) rfl
    ((State.step?_updStep_self ..).trans (congrArg _ (State.step?_updStep_of_running h _))) ⟨rfl, rfl⟩
theorem exec_qpost_refused {hr : HReg} {a b : GReg} (r : Bool) (hc : Passes t x k kQueue (k.ctx.rh hr))
    (hn : hIndex (k.ctx.rh hr) ≠ k.q ∨ 4 ≤ k.posts) : exec (.qpost x r hr a b) s = refused s x k r .accessViolation k.ctx :=
  State.issue_with_refused h hc rfl (if_pos hn) rfl
theorem exec_qevent_logs {a : GReg} {imm : BitVec 32} (r : Bool) (hlo : 0x8000 ≤ imm.toNat) (hhi : imm.toNat ≤ 0xFFFF)
    (hn : k.events < 16) :
    ∃ u e, exec (.qevent x r a imm) s = .next u ∧ Stands u x k e k.ctx ∧ e.log = k.log ++ [.event imm.toNat (k.ctx.rg a)]
      ∧ e.events = k.events + 1 := by
  have hg : ¬ (imm.toNat < 0x8000 ∨ imm.toNat > 0xFFFF ∨ k.events ≥ 16) := by omega
  refine State.issue_stands h (if_neg hg) rfl
    ((State.step?_updStep_self ..).trans (congrArg _ (State.step?_updStep_of_running h _))) ⟨rfl, rfl⟩
theorem exec_qevent_refused {a : GReg} {imm : BitVec 32} (r : Bool) (hn : imm.toNat < 0x8000 ∨ 16 ≤ k.events) :
    exec (.qevent x r a imm) s = refused s x k r .accessViolation k.ctx :=
  State.issue_refused h (if_pos (hn.imp id .inr)) rfl
theorem exec_qinfo {hr : HReg} {a b : GReg} {q : Queue} (r : Bool) (hc : Passes t x k kQueue (k.ctx.rh hr))
    (hq : t.queues.find (hIndex (k.ctx.rh hr)) = some q) (hst : q.st ≠ .disabled) :
    exec (.qinfo x r hr a b) s
      = goesOn s x k ((k.ctx.wg a (BitVec.ofNat 64 (q.st.code + 4 * b2n q.priv + 65536 * 2 ^ q.depthLog))).wg b
          (BitVec.ofNat 64 (t.live.filter fun l => l.q == hIndex (k.ctx.rh hr)).length)) := by
  refine State.issue_with_goesOn h hc rfl ?_ ((Ctx.wg_pc ..).trans (Ctx.wg_pc ..))
  simp only [show (iss s x t k g).t.queues.find (hIndex ((iss s x t k g).c.rh hr)) = some q from hq, Option.map_some, Option.getD_some,
    if_neg hst]
  rfl

/-! ### The test group (R398) -/

theorem exec_tstamp (r : Bool) (a : GReg) :
    ∃ u e, exec (.tstamp x r a) s = .next u ∧ Stands u x k e (k.ctx.wg a (BitVec.ofNat 64 e.cycles)) ∧ k.cycles < e.cycles := by
  have h' : Running s.fresh.2 x t k g := h
  obtain ⟨u, e, hu, hst, he⟩ := State.issue_stands h (P := fun _ e => e.cycles = k.cycles + 1 + Config.freeCycles s.free)
    (body := fun i =>
      let f := i.s.fresh
      let n := i.k.cycles + 1 + Config.freeCycles f.1
      (f.2.updStep x fun k => { k with cycles := n }, .done (i.c.wg a (BitVec.ofNat 64 n))))
    (d := { wg := [a] }) (r := r) rfl (Ctx.wg_pc ..) (State.step?_updStep_of_running h' _) rfl
  exact ⟨u, e, hu, he ▸ hst, by omega⟩

theorem exec_trace (r : Bool) (a : GReg) (imm : BitVec 32) :
    ∃ u e, exec (.trace x r a imm) s = .next u ∧ Stands u x k e k.ctx
      ∧ ∃ t', u.prt x.part = some t' ∧ t'.trace = (t.traced (k.ctx.rg a, imm, x.num % 2 ^ 32)).trace := by
  obtain ⟨hp, hk, -⟩ := id h
  have hp' : (s.updP x.part fun t => t.traced (k.ctx.rg a, imm, x.num % 2 ^ 32)).prt x.part
      = some (t.traced (k.ctx.rg a, imm, x.num % 2 ^ 32)) := by rw [State.prt_updP_self, hp]; rfl
  refine State.issue_stands h (u := s.updP x.part fun t => t.traced (k.ctx.rg a, imm, x.num % 2 ^ 32)) rfl rfl (e := k) ?_ ?_
  · rw [State.step?, hp', Option.bind_some, Partition.traced]; exact hk
  · obtain ⟨t', ht', hfr, -⟩ := State.prt_updStep_frame x (fun e => { e with ctx := { k.ctx with pc := k.ctx.pc + 8 } }) hp'
    exact ⟨t', ht', by rw [hfr]⟩
theorem exec_cntrd {imm : BitVec 32} (r : Bool) (a : GReg) (hi : counterExists imm.toNat = true) :
    exec (.cntrd x r a imm) s = goesOn s x k (k.ctx.wg a (BitVec.ofNat 64 (t.counters.getD imm.toNat 0))) :=
  State.issue_goesOn h (if_pos hi) (Ctx.wg_pc ..)
theorem exec_cntrd_refused {imm : BitVec 32} (r : Bool) (a : GReg) (hi : counterExists imm.toNat = false) :
    exec (.cntrd x r a imm) s = refused s x k r .accessViolation (k.ctx.wg a 0) :=
  State.issue_refused h (if_neg (by simp [hi])) (Ctx.wg_pc ..)
theorem exec_errinj_logs {hr : HReg} {a : GReg} {q : Group} (r half : Bool) (hc : Passes t x k kGroup (k.ctx.rh hr))
    (hd : s.diag x.part = true) (hq : t.groups.find (hIndex (k.ctx.rh hr)) = some q) (hn : (k.ctx.rg a).toNat < q.pages) :
    exec (.errinj x r hr a half) s = goesLogging s x k k.ctx [.poison (hIndex (k.ctx.rh hr)) (k.ctx.rg a).toNat half] :=
  State.issue_logs h ((Iss.with_passes hc k.ctx _).trans (if_neg (by simp [iss, hd, hq, hn]))) rfl
theorem exec_errinj_refused {hr : HReg} (r half : Bool) (a : GReg) (hc : Passes t x k kGroup (k.ctx.rh hr)) (hd : s.diag x.part = false) :
    exec (.errinj x r hr a half) s = refused s x k r .accessViolation k.ctx :=
  State.issue_with_refused h hc rfl (if_pos (by simp [iss, hd])) rfl

/-! ### The sync and commit group (R395, R396) -/

theorem exec_commit_commits {hr : HReg} (r post : Bool) (a : GReg) (hh : k.ctx.rh hr = k.h0)
    (hs : (k.sampled.isSome = true ∨ k.kind = 0 ∨ k.kind = 3)) :
    exec (.commit x r hr a post) s = .next (s.updStep x fun e => { e with st := .committing, commitArg := some (k.ctx.rg a, post) }) := by
  have hn : ¬ ((iss s x t k g).samples && k.sampled.isNone) = true := by
    rcases hs with hs | hs | hs
    · simp [Option.isNone_eq_false_iff.2 hs]
    · simp [iss, Iss.samples, hs]
    · simp [iss, Iss.samples, hs]
  exact congrArg _ (State.issue_stop h ((if_neg (not_not.2 hh)).trans (if_neg hn)))
theorem exec_commit_other {hr : HReg} (r post : Bool) (a : GReg) (hh : k.ctx.rh hr ≠ k.h0) :
    exec (.commit x r hr a post) s = .next (s.squash x.part x.num .accessViolation) := State.issue_squash h (if_pos hh)
theorem exec_commit_unsampled {hr : HReg} (r post : Bool) (a : GReg) (hk : k.kind = 2) (hs : k.sampled = none) :
    exec (.commit x r hr a post) s = .next (s.squash x.part x.num .accessViolation) := by
  refine State.issue_squash h ?_
  by_cases hh : k.ctx.rh hr = k.h0
  · exact (if_neg (not_not.2 hh)).trans (if_pos (by simp [iss, Iss.samples, hk, hs]))
  · exact if_pos hh

theorem exec_fence_settled (r : Bool) (hm : ∀ e ∈ k.moves, e.2.done = true ∧ e.2.status = .ok) (hd : ∀ e ∈ k.descs, e.st = .done)
    (hf : k.fails = []) (hp : ∀ n ∈ k.pins, ∀ q, t.groups.find n = some q → q.move ≠ .promoting) :
    exec (.fence x r) s = goesOn s x k k.ctx := by
  have hset : (iss s x t k g).settled = true := by
    simp only [Iss.settled, iss, Bool.and_eq_true, List.all_eq_true, beq_iff_eq, Option.all_eq_true, bne_iff_ne]
    exact ⟨⟨fun e he => (hm e he).1, hd⟩, hp⟩
  have hok : k.moves.find? (fun kv => kv.2.status != .ok) = none := List.find?_eq_none.2 fun e he => by simp [(hm e he).2]
  refine State.issue_goesOn h ((if_neg (by simp [hset])).trans ?_) rfl
  simp only [show (iss s x t k g).k.moves.find? (fun kv => kv.2.status != .ok) = none from hok, show (iss s x t k g).k.fails = [] from hf]
  rfl
theorem exec_fence_waits {e : Nat × Move} (r : Bool) (he : e ∈ k.moves) (hd : e.2.done = false) :
    exec (.fence x r) s = .next (s.updStep x fun e =>
        { e with st := .waiting .fence, raDone := [], ra := some ⟨{ k.ctx with pc := k.ctx.pc + 8 }, [], [], if r then [7] else [], 0⟩ }) := by
  have hset : (iss s x t k g).settled = false := by
    simp only [Iss.settled, iss, Bool.and_assoc]
    rw [List.all_eq_false.2 ⟨e, he, by simp [hd]⟩, Bool.false_and]
  refine (congrArg Host.Outcome.next (State.issue_wait h (if_pos (by simp [hset])))).trans (congrArg _ (State.updStep_congr_of_running h ?_))
  cases r <;> rfl

theorem exec_squash {imm : BitVec 32} {st : Status} (r : Bool) (hst : squashStatus imm = st) :
    exec (.squash x r imm) s = .next (s.squash x.part x.num st) := State.issue_squash h (by rw [hst]; rfl)
end

theorem squashStatus_eq (imm : BitVec 32) : squashStatus imm
    = if imm.extractLsb' 0 8 = Status.aborted.code then .aborted
      else if imm.extractLsb' 0 8 = Status.recomputeRequired.code then .recomputeRequired
      else if imm.extractLsb' 0 8 = Status.noPage.code then .noPage else .accessViolation := by
  have hbyte : ∀ c : BitVec 8, imm.toNat % 256 = c.toNat ↔ imm.extractLsb' 0 8 = c := fun c => by
    rw [← BitVec.toNat_inj]; simp
  simp only [squashStatus, hbyte]

/-- Settles O24: each instruction by its own lemma. -/
theorem queueAndTestResults : Obligations.QueueAndTestResults := by
  unfold Obligations.QueueAndTestResults
  intro s x t k g hr a b r half imm h hs ix
  refine ⟨exec_qpost_posts h r, exec_qpost_refused h r, exec_qevent_logs h r, exec_qevent_refused h r, fun q => exec_qinfo h r,
    exec_tstamp h r a, ?_, exec_cntrd h r a, exec_cntrd_refused h r a, fun q => exec_errinj_logs h r half, exec_errinj_refused h r half a⟩
  obtain ⟨u, e, hu, hst, t', hp, htr⟩ := exec_trace h r a imm
  exact ⟨u, t', e, hu, hst, hp, fun hn => htr.trans (Partition.trace_traced_of_lt _ hn),
    fun hn => htr.trans (Partition.trace_traced_of_full _ hn)⟩

/-- Settles O25: COMMIT and FENCE by what the step's record holds, SQUASH by the low byte of its immediate. -/
theorem commitFenceSquash : Obligations.CommitFenceSquash := by
  unfold Obligations.CommitFenceSquash
  intro s x t k g hr a r post imm h
  refine ⟨exec_commit_commits h r post a, exec_commit_other h r post a, exec_commit_unsampled h r post a, exec_fence_settled h r,
    fun e he => exec_fence_waits h r he, fun hi => ?_, fun hi => ?_, fun hi => ?_, fun hi => ?_⟩
  · exact exec_squash h r (by rw [squashStatus_eq, hi]; rfl)
  · exact exec_squash h r (by rw [squashStatus_eq, hi]; rfl)
  · exact exec_squash h r (by rw [squashStatus_eq, hi]; rfl)
  · refine exec_squash h r ?_
    rw [squashStatus_eq, if_neg (hi .aborted (by simp)), if_neg (hi .recomputeRequired (by simp)), if_neg (hi .noPage (by simp))]

end Sys2Proof.Machine
end

section
/-! SUPPORT. The session group (17 R382, R391): what an instruction of a step with an empty log puts into it, and when it is deferred. -/

namespace Sys2Proof.Machine
open Sys2Proof.Cert

theorem localOk_of_scratch {data : List Byte} {a n al : Nat} (hal : a % al = 0) (hin : a + n ≤ 0x6000) : localOk data a n al = true :=
  localOk_iff.2 ⟨hal, .inl hin⟩

/-! ### An empty log -/

theorem Step.closed_of_log_nil {k : Step} (hl : k.log = []) (i : Nat) : k.closed i = false := by rw [Step.closed, hl]; rfl
theorem Step.freed_of_log_nil {k : Step} (hl : k.log = []) (i : Nat) (h : Handle) : k.freed i h = false := by
  rw [Step.freed, Step.closed_of_log_nil hl, hl]; rfl
theorem Partition.seqOf_of_log_nil {k : Step} (hl : k.log = []) (t : Partition) (i : Nat) : t.seqOf k i = t.sequences.find i := by
  rw [Partition.seqOf, hl]; rfl
theorem Partition.sessOf_of_log_nil {k : Step} (hl : k.log = []) (t : Partition) (i : Nat) : t.sessOf k i = t.sessions.find i := by
  rw [Partition.sessOf, hl]; rfl
theorem Partition.regionOf_of_log_nil {k : Step} (hl : k.log = []) (t : Partition) (i : Nat) : t.regionOf k i = t.regions.find i := by
  rw [Partition.regionOf, hl]; rfl

section
variable {s : State} {x : StepRef} {t : Partition} {k : Step} {g : Program}

theorem Iss.sessState_of_log_nil (hl : k.log = []) (i : Nat) : (iss s x t k g).sessState i = (t.sessions.find i).map (·.st) := by
  unfold Iss.sessState; simp only [iss, hl]; rfl
theorem Iss.tenant_of_log_nil (hl : k.log = []) (n : Nat) : (iss s x t k g).tenant n = t.tenants.find n := by
  unfold Iss.tenant; simp only [iss, hl]; rfl
theorem Iss.mayDefer_of (h : MayDefer t k) : (iss s x t k g).mayDefer = true := by
  obtain ⟨hd, l, hl, hr⟩ := h
  simp [Iss.mayDefer, iss, hd, hl, hr]

/-- An instruction that is deferred, from a state that differs from the one it found outside the partitions. -/
theorem State.issue_defers (h : Running s x t k g) {d : Deps} {r : Bool} {body : Iss → State × IOut} {u : State} {df : Deferred}
    {o : LogOp} (hu : u.parts = s.parts) (hb : body (iss s x t k g) = (u.defer x df o, .done k.ctx)) :
    (.next (s.issue x d r body) : Out) = goesDeferring u x k df o := by
  have h' : Running u x t k g := by rwa [Running, State.prt, hu]
  rw [State.issue_of_done h d r hb, State.defer, State.log, State.updStep_updStep, State.updStep_updStep]
  exact congrArg _ (State.updStep_congr_of_running h' rfl)
end

section
variable {s : State} {x : StepRef} {t : Partition} {k : Step} {g : Program} (h : Running s x t k g) {hr : HReg} (r : Bool)
include h

/-! ### The session instructions -/

theorem exec_spark_parks {ss : Session} (hl : k.log = []) (hc : Passes t x k kSession (k.ctx.rh hr))
    (hs : t.sessions.find (hIndex (k.ctx.rh hr)) = some ss) (hm : ss.st ≠ .migrating) (h16 : (k.ctx.rg 7).toNat < 16)
    (h2 : (k.ctx.rg 7).toNat % 4 < 2) (h3 : bitsOf (k.ctx.rg 7).toNat 3 2 ≠ 3) (hh : k.ctx.rg 6 ≠ 0 → (k.ctx.rg 7).toNat % 4 = 1) :
    exec (.spark x r hr) s = goesLogging s x k k.ctx
      [.park (hIndex (k.ctx.rh hr)) ⟨(k.ctx.rg 7).toNat % 4, bitsOf (k.ctx.rg 7).toNat 3 2, 0, (k.ctx.rg 5).toNat, (k.ctx.rg 6).toNat, x.num⟩] := by
  refine State.issue_logs h ((Iss.with_passes hc k.ctx _).trans (if_neg ?_)) rfl
  have hint : (k.ctx.rg 6).toNat ≠ 0 → (k.ctx.rg 7).toNat % 4 = 1 := fun hn => hh fun he => hn (by rw [he]; rfl)
  rw [Iss.sessState_of_log_nil hl]
  by_cases hz : (k.ctx.rg 6).toNat = 0
  · simp [iss, Step.closed_of_log_nil hl, hs, hm, h3, hz]; omega
  · simp [iss, Step.closed_of_log_nil hl, hs, hm, h3, hint hz]; omega
theorem exec_srevive_defers {ss : Session} {a : GReg} (hl : k.log = []) (hc : Passes t x k kSession (k.ctx.rh hr))
    (hs : t.sessions.find (hIndex (k.ctx.rh hr)) = some ss) (hst : ss.st = .parked ∨ ss.st = .reviving) (hd : MayDefer t k) :
    exec (.srevive x r hr a) s = goesDeferring s x k (.revival (hIndex (k.ctx.rh hr)))
      (.revive (hIndex (k.ctx.rh hr)) ((k.ctx.rg a).toNat % 16)) := by
  refine State.issue_defers h rfl ((Iss.with_passes hc k.ctx _).trans (if_neg ?_))
  rw [Iss.sessState_of_log_nil hl, Iss.mayDefer_of hd]
  rcases hst with hst | hst <;> simp [iss, Step.closed_of_log_nil hl, hs, hst]
theorem exec_sdur_logs {ss : Session} {a : GReg} (hl : k.log = []) (hc : Passes t x k kSession (k.ctx.rh hr))
    (hs : t.sessions.find (hIndex (k.ctx.rh hr)) = some ss) (hm : ss.st ≠ .migrating) (h4 : (k.ctx.rg a).toNat % 4 ≠ 3)
    (hn : (k.ctx.rg a).toNat % 4 = 1 → bitsOf (k.ctx.rg a).toNat 31 16 ≠ 0) :
    exec (.sdur x r hr a) s = goesLogging s x k k.ctx
      [.durability (hIndex (k.ctx.rh hr)) ((k.ctx.rg a).toNat % 4) (bitsOf (k.ctx.rg a).toNat 31 16)] := by
  refine State.issue_logs h ((Iss.with_passes hc k.ctx _).trans (if_neg ?_)) rfl
  rw [Iss.sessState_of_log_nil hl]
  simp [iss, Step.closed_of_log_nil hl, hs, hm, h4]
  exact hn
theorem exec_sclose_logs (hl : k.log = []) (hc : Passes t x k kSession (k.ctx.rh hr)) :
    exec (.sclose x r hr) s = goesLogging s x k k.ctx [.close (hIndex (k.ctx.rh hr))] :=
  State.issue_logs h ((Iss.with_passes hc k.ctx _).trans (if_neg (by simp [iss, Step.closed_of_log_nil hl]))) rfl
theorem exec_sqfree_logs {sq : Sequence} (hl : k.log = []) (hc : Passes t x k kSequence (k.ctx.rh hr))
    (hq : t.sequences.find (hIndex (k.ctx.rh hr)) = some sq) :
    exec (.sqfree x r hr) s = goesLogging s x k k.ctx [.seqFree (hIndex (k.ctx.rh hr))] := by
  refine State.issue_logs h ((Iss.with_passes hc k.ctx _).trans ?_) rfl
  simp only [iss, Partition.seqOf_of_log_nil hl, hq, Step.freed_of_log_nil hl]
  rfl

/-- The block that SMIGOUT reads at local ga. -/
theorem exec_smigout_defers {ss : Session} {m : ModelDesc} {a : GReg} (hl : k.log = []) (hc : Passes t x k kSession (k.ctx.rh hr))
    (hs : t.sessions.find (hIndex (k.ctx.rh hr)) = some ss) (hp : t.privQ (k.q % 64) = true) (hal : (k.ctx.rg a).toNat % 8 = 0)
    (hin : (k.ctx.rg a).toNat + 16 ≤ 0x6000) (hst : ss.st = .opened ∨ ss.st = .parked) (hd : MayDefer t k)
    (hq : t.reqsOf (hIndex (k.ctx.rh hr)) = []) (h2 : fld (k.peek g.data (k.ctx.rg a).toNat 16) 2 1 ≤ 2)
    (h3 : fld (k.peek g.data (k.ctx.rg a).toNat 16) 3 5 = 0)
    (hqp : t.qps.has (fld (k.peek g.data (k.ctx.rg a).toNat 16) 0 2) = true) (hm : t.model? ss.model = some m) (hg : m.hgSize ≤ 1) :
    let b16 := k.peek g.data (k.ctx.rg a).toNat 16
    exec (.smigout x r hr a) s = goesDeferring { s with free := s.free + 1 } x k (.migOut (BitVec.ofNat 64 (fld b16 8 8)))
      (.migOut (hIndex (k.ctx.rh hr)) (fld b16 0 2) (fld b16 2 1) (BitVec.ofNat 64 (fld b16 8 8))) := by
  refine State.issue_defers h rfl ((Iss.with_passes hc k.ctx _).trans ((if_neg ?_).trans ((if_neg ?_).trans (if_neg ?_))))
  · simp [iss, Iss.priv, hp]
  · simp [iss, localOk_of_scratch hal hin]
  · rw [Iss.sessState_of_log_nil hl, Iss.mayDefer_of hd]
    rcases hst with hst | hst <;> simp [iss, Step.closed_of_log_nil hl, hs, hst, hq, h2, h3, hqp, hm, hg]
theorem exec_smigin_defers {q : Region} {a : GReg} (hl : k.log = []) (hp : t.privQ (k.q % 64) = true)
    (hal : (k.ctx.rg a).toNat % 8 = 0) (hin : (k.ctx.rg a).toNat + 32 ≤ 0x6000)
    (hc : Passes t x k kRegion (BitVec.ofNat 64 (fld (k.peek g.data (k.ctx.rg a).toNat 32) 8 8))) (hd : MayDefer t k)
    (hf : (iss s x t k g).localFieldsOk (((k.peek g.data (k.ctx.rg a).toNat 32).drop 16).take 10) = true)
    (h0 : fld (k.peek g.data (k.ctx.rg a).toNat 32) 0x1A 6 = 0)
    (hq : t.regions.find (hIndex (BitVec.ofNat 64 (fld (k.peek g.data (k.ctx.rg a).toNat 32) 8 8))) = some q) (hst : q.st = .uploading)
    (hm : t.migrations.find (fld (k.peek g.data (k.ctx.rg a).toNat 32) 0 8) = none) :
    let b32 := k.peek g.data (k.ctx.rg a).toNat 32
    exec (.smigin x r a) s = goesDeferring s x k (.migIn (BitVec.ofNat 64 (fld b32 0 8)))
      (.migIn (BitVec.ofNat 64 (fld b32 0 8)) (hIndex (BitVec.ofNat 64 (fld b32 8 8))) ((b32.drop 16).take 10)) := by
  refine State.issue_defers h rfl ((if_neg ?_).trans ((if_neg ?_).trans ?_))
  · simp [iss, Iss.priv, hp]
  · simp [iss, localOk_of_scratch hal hin]
  · simp only [Iss.check, show (iss s x t k g).t.checkHandle (iss s x t k g).p (some (iss s x t k g).k.num) kRegion
      (BitVec.ofNat 64 (fld ((iss s x t k g).k.peek (iss s x t k g).prog.data ((iss s x t k g).c.rg a).toNat 32) 8 8)) = none from hc]
    refine if_neg ?_
    rw [Iss.mayDefer_of hd]
    simp only [iss] at hf ⊢
    simp [hf, Partition.regionOf_of_log_nil hl, h0, hq, hst, Tab.has, hm]
end

/-- Settles O21: a session's state is that of its record, since the step has logged nothing yet. -/
theorem sessionChanges : Obligations.SessionChanges := by
  unfold Obligations.SessionChanges
  intro s x t k g hr a r ss sq m h hl hs ix v g7 b16 b32 rh
  refine ⟨fun hc hss => ⟨exec_spark_parks h r hl hc hss, exec_srevive_defers h r hl hc hss, exec_sdur_logs h r hl hc hss,
    exec_sclose_logs h r hl hc, exec_smigout_defers h r hl hc hss⟩, fun q hp hal hin hc hd => ?_, exec_sqfree_logs h r hl⟩
  exact exec_smigin_defers h r hl hp hal hin hc hd

end Sys2Proof.Machine
end

section
/-! SUPPORT. Records of sessions, tenants and variants, and the instructions that create objects (17 R383, R390, R391, R397). -/

namespace Sys2Proof.Machine
open Sys2Proof.Cert

/-- Bytes that a step writes into its scratch window are read back there, and nothing else of the step changes. -/
theorem Step.stored_bytes {k : Step} {g : Program} {a : Nat} {bs : List Byte} (ha : a + bs.length ≤ 0x6000) :
    (∀ i, i < bs.length → (k.stored a bs).byteAt g.data (a + i) = bs.getD i 0)
      ∧ (∀ i, i < a ∨ a + bs.length ≤ i → (k.stored a bs).byteAt g.data i = k.byteAt g.data i)
      ∧ k.stored a bs = { k with scratch := (k.stored a bs).scratch, ctx := { k.ctx with pc := k.ctx.pc + 8 } } := by
  refine ⟨fun i hi => ?_, fun i hi => (Step.byteAt_congr rfl rfl).trans (Step.byteAt_poke_out hi), ?_⟩
  · rw [List.getD_eq_getElem _ _ hi]
    exact (Step.byteAt_congr rfl rfl).trans (Step.byteAt_poke_in hi ha)
  · rw [Step.stored, Step.poke_eq]

theorem length_eraseDups_three {α : Type} [BEq α] [LawfulBEq α] {a b c : α} (hab : a ≠ b) (hac : a ≠ c) (hbc : b ≠ c) :
    [a, b, c].eraseDups.length = 3 := by
  simp [List.eraseDups_cons, hab.symm, hac.symm, hbc.symm]

@[simp] theorem Tenant.length_image (tn : Tenant) : tn.image.length = 48 := by simp [Tenant.image]

section
variable {s : State} {x : StepRef} {t : Partition} {k : Step} {g : Program} (h : Running s x t k g) {hr : HReg} (r : Bool)
include h

/-- The word that SINFO gives (Table 17-8). -/
def Session.infoWord (ss : Session) : Nat :=
  ss.st.code + 8 * ss.parkReason + 32 * ss.durClass + 128 * b2n ss.preemptible + 256 * ss.priority + 65536 * ss.durN
omit h in
theorem Session.infoWord_fields {ss : Session} (hr : ss.parkReason < 4) (hd : ss.durClass < 4) (hp : ss.priority < 8)
    (hn : ss.durN < 65536) :
    let w := BitVec.ofNat 64 ss.infoWord
    w.extractLsb' 0 3 = BitVec.ofNat 3 ss.st.code ∧ w.extractLsb' 3 2 = BitVec.ofNat 2 ss.parkReason
      ∧ w.extractLsb' 5 2 = BitVec.ofNat 2 ss.durClass ∧ w.getLsbD 7 = ss.preemptible
      ∧ w.extractLsb' 8 3 = BitVec.ofNat 3 ss.priority ∧ w.extractLsb' 16 16 = BitVec.ofNat 16 ss.durN := by
  have hst : ss.st.code < 8 := by cases ss.st <;> decide
  have hb := b2n_le ss.preemptible
  unfold Session.infoWord
  exact ⟨extractLsb'_ofNat_of_lt (by omega) (by omega), extractLsb'_ofNat_of_lt (by omega) (by omega),
    extractLsb'_ofNat_of_lt (by omega) (by omega), getLsbD_of_extractLsb' (extractLsb'_ofNat_of_lt (by omega) (by omega)),
    extractLsb'_ofNat_of_lt (by omega) (by omega), extractLsb'_ofNat_of_lt (by omega) (by omega)⟩
theorem exec_sinfo {ss : Session} {a b : GReg} (hl : k.log = []) (hc : Passes t x k kSession (k.ctx.rh hr))
    (hs : t.sessions.find (hIndex (k.ctx.rh hr)) = some ss) :
    exec (.sinfo x r hr a b) s
      = goesOn s x k ((k.ctx.wg a (BitVec.ofNat 64 ss.infoWord)).wg b (BitVec.ofNat 64 ss.committedTokens)) := by
  refine State.issue_with_goesOn h hc rfl ?_ (by rw [Ctx.wg_pc, Ctx.wg_pc])
  rw [Iss.sessState_of_log_nil hl]
  simp only [iss, Partition.sessOf_of_log_nil hl, hs, Step.closed_of_log_nil hl, hl]
  rfl
theorem exec_tenget {tn : Tenant} {a b : GReg} (hl : k.log = []) (ht : t.tenants.find (k.ctx.rg a).toNat = some tn)
    (hal : (k.ctx.rg b).toNat % 8 = 0) (hin : (k.ctx.rg b).toNat + 48 ≤ 0x6000) :
    exec (.tenget x r a b) s = .next (s.updStep x fun _ => k.stored (k.ctx.rg b).toNat tn.image) := by
  refine State.issue_updStep h (f := fun e => e.poke (k.ctx.rg b).toNat tn.image) (c := k.ctx) ((if_neg ?_).trans ?_) rfl
  · simp [iss, localWrOk_iff.2 ⟨hal, hin⟩]
  · simp only [Iss.tenant_of_log_nil hl, show t.tenants.find ((iss s x t k g).c.rg a).toNat = some tn from ht]
    rfl

/-! ### Records that a privileged queue writes -/

theorem exec_tenset_logs {a b : GReg} (hp : t.privQ (k.q % 64) = true) (hal : (k.ctx.rg b).toNat % 8 = 0)
    (hin : (k.ctx.rg b).toNat + 48 ≤ 0x6000)
    (hok : ¬ ((k.ctx.rg a).toNat > 4095 ∨ fld (k.peek g.data (k.ctx.rg b).toNat 48) 0x18 4 ≥ 2 ^ 30
      ∨ fld (k.peek g.data (k.ctx.rg b).toNat 48) 0x1C 1 ≥ 8 ∨ fld (k.peek g.data (k.ctx.rg b).toNat 48) 0x1D 1 % 64 ≠ 0
      ∨ fld (k.peek g.data (k.ctx.rg b).toNat 48) 0x1E 2 ≠ 0 ∨ fld (k.peek g.data (k.ctx.rg b).toNat 48) 0x28 1 > 1
      ∨ fld (k.peek g.data (k.ctx.rg b).toNat 48) 0x29 7 ≠ 0)) :
    exec (.tenset x r a b) s
      = goesLogging s x k k.ctx [.tenant (k.ctx.rg a).toNat (k.peek g.data (k.ctx.rg b).toNat 48)] := by
  refine State.issue_logs h ((if_neg ?_).trans ((if_neg ?_).trans (if_neg hok))) rfl
  · simp [iss, Iss.priv, hp]
  · simp [iss, localOk_of_scratch hal hin]
theorem exec_varset_logs {a b : GReg} (hp : t.privQ (k.q % 64) = true) (hal : (k.ctx.rg a).toNat % 8 = 0)
    (hin : (k.ctx.rg a).toNat + 32 ≤ 0x6000) (hb : (k.ctx.rg b).toNat < 2 ^ 22) (hm : (k.ctx.rg b).toNat % 65536 < 1024)
    (hf : fld (k.peek g.data (k.ctx.rg a).toNat 32) 0x1C 1 = 0) (h0 : fld (k.peek g.data (k.ctx.rg a).toNat 32) 0x1D 3 = 0) :
    exec (.varset x r a b) s = goesLogging s x k k.ctx
      [.varset ((k.ctx.rg b).toNat / 65536) ((k.ctx.rg b).toNat % 65536) (k.peek g.data (k.ctx.rg a).toNat 32)] := by
  refine State.issue_logs h ((if_neg ?_).trans ((if_neg ?_).trans (if_neg ?_))) rfl
  · simp [iss, Iss.priv, hp]
  · simp [iss, localOk_of_scratch hal hin]
  · simp only [iss, hf, h0, show bitOf 0 0 = false from rfl, Bool.not_false, Bool.true_or, Bool.not_true]
    simp only [Bool.false_eq_true, ne_eq, not_true_eq_false, or_false]
    omega

/-! ### Creation (R383, R390) -/

/-- A partition whose slot of a kind a step has reserved. -/
def Partition.reserved (t : Partition) (kind n num : Nat) : Partition := { t with resv := t.resv.put (slotKey kind n) num }
theorem State.prt_reserved (kind n num : Nat) :
    (s.updP x.part fun t => t.reserved kind n num).prt x.part = some (t.reserved kind n num) := by
  obtain ⟨hp, -⟩ := h
  rw [State.prt_updP_self, hp]; rfl
theorem running_reserved (kind n num : Nat) :
    Running (s.updP x.part fun t => t.reserved kind n num) x (t.reserved kind n num) k g := by
  obtain ⟨hp, hk, hg, hr, hw⟩ := id h
  exact ⟨State.prt_reserved h kind n num, hk, hg, hr, hw⟩
/-- An instruction that reserves a slot for its step and logs the object that it makes there. -/
theorem State.issue_creates {d : Deps} {r : Bool} {body : Iss → State × IOut} {kind n : Nat} {o : LogOp} {c : Ctx}
    (hb : body (iss s x t k g) = (((s.updP x.part fun t => t.reserved kind n x.num).log x o), .done c)) (hpc : c.pc = k.ctx.pc) :
    ∃ u e, (.next (s.issue x d r body) : Out) = .next u ∧ Stands u x k e c ∧ e.log = k.log ++ [o]
      ∧ ∃ t', u.prt x.part = some t' ∧ t'.resv.find (slotKey kind n) = some x.num ∧ t' = { t with resv := t'.resv, steps := t'.steps } := by
  have hrun := running_reserved h kind n x.num
  refine State.issue_stands h hb hpc (State.step?_updStep_of_running hrun _) ⟨rfl, ?_⟩
  rw [State.log, State.updStep_updStep]
  obtain ⟨t', hp', ht', -⟩ := State.prt_updStep_frame x _ (State.prt_reserved h kind n x.num)
  exact ⟨t', hp', by rw [ht', Partition.reserved, Tab.find_put_self], by rw [ht']; rfl⟩
/-- SCREATE's checks of a block: the regions it names are distinct, pass, and no session names them. -/
theorem exec_screate_creates {a : GReg} {n : Nat} (hp : t.privQ (k.q % 64) = true) (hal : (k.ctx.rg a).toNat % 8 = 0)
    (hin : (k.ctx.rg a).toNat + 40 ≤ 0x6000) :
    let blk := k.peek g.data (k.ctx.rg a).toNat 40
    let reg := fun j => (BitVec.ofNat 64 (fld blk (0x10 + 8 * j) 8) : Handle)
    (iss s x t k g).localFieldsOk blk = true → fld blk 0xA 6 = 0 →
      (∀ j, j < 3 → Passes t x k kRegion (reg j) ∧ t.regionNamed (reg j) = false
        ∧ ∃ q, t.regionOf k (hIndex (reg j)) = some q ∧ q.cls = 1) →
      reg 0 ≠ reg 1 → reg 0 ≠ reg 2 → reg 1 ≠ reg 2 →
      t.sessions.length + (t.resv.filter fun e => e.1 / 2 ^ 48 == kSession).length < t.quota → LowestSlot t x.part kSession n →
    ∃ u e, exec (.screate x r hr a) s = .next u ∧ Stands u x k e (k.ctx.wh hr (t.handleOf x.part kSession n))
      ∧ e.log = k.log ++ [.sessCreate n (sessFrom blk (t.handleOf x.part kSession n) (reg 0) (reg 1) (reg 2))]
      ∧ ∃ t', u.prt x.part = some t' ∧ t'.resv.find (slotKey kSession n) = some x.num
        ∧ t' = { t with resv := t'.resv, steps := t'.steps } := by
  intro blk reg hf h0 hreg h01 h02 h12 hquota hslot
  refine State.issue_creates h (o := .sessCreate n (sessFrom blk (t.handleOf x.part kSession n) (reg 0) (reg 1) (reg 2)))
    ((if_neg ?_).trans ((if_neg ?_).trans ((if_neg ?_).trans ((if_neg (Nat.not_le.2 hquota)).trans ?_)))) rfl
  · simp [iss, Iss.priv, hp]
  · simp [iss, localOk_of_scratch hal hin]
  · have hall : (((List.range 3).map reg).all fun q => ((iss s x t k g).check kRegion q).isNone && !(t.regionNamed q)
        && (t.regionOf k (hIndex q)).any fun r => r.cls == 1) = true := by
      refine List.all_eq_true.2 fun q hq => ?_
      obtain ⟨j, hj, rfl⟩ := List.mem_map.1 hq
      obtain ⟨hc, hn, w, hw, hcls⟩ := hreg j (List.mem_range.1 hj)
      simp [Iss.check, iss, hc, hn, hw, hcls]
    intro hb
    simp only [Bool.or_eq_true, decide_eq_true_eq, Bool.not_eq_true'] at hb
    rcases hb with ((hb | hb) | hb) | hb
    · exact Bool.noConfusion (hf.symm.trans hb)
    · exact hb h0
    · exact Bool.noConfusion (hall.symm.trans hb)
    · exact hb (length_eraseDups_three h01 h02 h12)
  · simp only [iss, Partition.newSlot_of_lowest hslot]
    rfl

omit h in
/-- Steps that have logged nothing have made nothing. -/
theorem Partition.made_eq_zero (hl : ∀ y ∈ t.steps, y.2.log = []) (f : LogOp → Bool) :
    (t.steps.map fun kv => (kv.2.log.filter f).length).sum = 0 := by
  refine List.sum_eq_zero fun n hn => ?_
  obtain ⟨y, hy, rfl⟩ := List.mem_map.1 hn
  rw [hl y hy]; rfl
/-- A sequence as SSEQ makes it. -/
def newSequence (hd sess : Handle) : Sequence :=
  { h := hd, sess := sess, committed := 0, prov := 0, table := [], keys := [], rc := 0, st := .idle, hgSeq := 0, openStep := none
    freeAtEnd := false, readySince := 0, held := false, coarse := [], summaries := [] }
theorem exec_sseq_creates {d : HReg} {a : GReg} {n : Nat} {ss : Session} (hc : Passes t x k kSession (k.ctx.rh hr))
    (hcl : k.closed (hIndex (k.ctx.rh hr)) = false) (hs : t.sessions.find (hIndex (k.ctx.rh hr)) = some ss)
    (hhg : bitsOf (k.ctx.rg a).toNat 31 0 = 0) (h4 : (ss.seqs.filter (· ≠ 0)).length < 4) (hlog : ∀ y ∈ t.steps, y.2.log = [])
    (hslot : LowestSlot t x.part kSequence n) :
    ∃ u e, exec (.sseq x r d hr a) s = .next u ∧ Stands u x k e (k.ctx.wh d (t.handleOf x.part kSequence n))
      ∧ e.log = k.log ++ [.seqCreate n (newSequence (t.handleOf x.part kSequence n) (k.ctx.rh hr))]
      ∧ ∃ t', u.prt x.part = some t' ∧ t'.resv.find (slotKey kSequence n) = some x.num
        ∧ t' = { t with resv := t'.resv, steps := t'.steps } := by
  refine State.issue_creates h (o := .seqCreate n (newSequence (t.handleOf x.part kSequence n) (k.ctx.rh hr)))
    ((Iss.with_passes hc _ _).trans ((if_neg ?_).trans ((if_neg ?_).trans ?_))) rfl
  · simp [iss, hcl, hhg]
  · simp only [iss, hs, Partition.made_eq_zero hlog, Option.map_some, Option.getD_some]
    omega
  · simp only [iss, Partition.newSlot_of_lowest hslot, hhg]
    rfl

theorem exec_modload_logs {b a : GReg} {gen : Nat} {m : ModelDesc} (hp : t.privQ (k.q % 64) = true) (hal : (k.ctx.rg a).toNat % 8 = 0)
    (hin : (k.ctx.rg a).toNat + 64 ≤ 0x6000) :
    let img := k.peek g.data (k.ctx.rg a).toNat 64
    let id := BitVec.ofNat 16 (gen * 256 + fld img 0 1)
    modelImage img 0 = some m → (∀ e ∈ t.sessions, e.2.model.toNat % 256 ≠ fld img 0 1) → t.modelGen (fld img 0 1) = some gen →
    exec (.modload x r b a) s
      = goesLogging s x k (k.ctx.wg b (id.zeroExtend 64)) [.model (fld img 0 1) { m with modelId := id }] := by
  intro img id hm hs hg
  refine State.issue_logs h (o := .model (fld img 0 1) { m with modelId := id }) ((if_neg ?_).trans ((if_neg ?_).trans ?_)) (Ctx.wg_pc ..)
  · simp [iss, Iss.priv, hp]
  · simp [iss, localOk_of_scratch hal hin]
  · have hn : (t.sessions.any fun kv => kv.2.model.toNat % 256 == fld img 0 1) = false :=
      List.any_eq_false.2 fun e he => by simp [hs e he]
    simp only [show modelImage ((iss s x t k g).k.peek (iss s x t k g).prog.data ((iss s x t k g).c.rg a).toNat 64) 0 = some m from hm,
      show (iss s x t k g).t.modelGen (fld ((iss s x t k g).k.peek (iss s x t k g).prog.data ((iss s x t k g).c.rg a).toNat 64) 0 1)
        = some gen from hg]
    exact if_neg (by simp [iss]; simpa using hn)
/-- A queue that is not privileged creates nothing and writes no record. -/
theorem State.issue_unprivileged {d : Deps} {body : Iss → State × IOut} {c : Ctx} {e : State × IOut}
    (hp : t.privQ (k.q % 64) = false)
    (hb : body (iss s x t k g) = if !(iss s x t k g).priv then (iss s x t k g).bad .accessViolation c else e) (hpc : c.pc = k.ctx.pc) :
    (.next (s.issue x d r body) : Out) = refused s x k r .accessViolation c :=
  State.issue_refused h (hb.trans (if_pos (by simp [iss, Iss.priv, hp]))) hpc
end

/-- Settles O20: the checks of a block, then the lowest slot, which the step reserves. -/
theorem creationResults : Obligations.CreationResults := by
  unfold Obligations.CreationResults
  intro s x t k g hr d a b r n gen ss m h hs ad blk reg hg img id
  refine ⟨fun hp hal hin hf h0 hreg h01 h02 h12 hq hslot => ?_, fun hc hcl hss hhg h4 hlog hslot => ?_, exec_modload_logs h r,
    fun hp => ⟨State.issue_unprivileged h r hp rfl rfl, State.issue_unprivileged h r hp rfl (Ctx.wg_pc ..)⟩⟩
  · obtain ⟨u, e, hu, hst, hlg, t', hp', hres, ht⟩ := exec_screate_creates h r hp hal hin hf h0 hreg h01 h02 h12 hq hslot
    exact ⟨u, e, _, hu, hst, hlg, rfl, rfl, rfl, rfl, rfl, rfl, rfl, rfl, rfl, rfl, t', hp', hres, by rw [ht]⟩
  · obtain ⟨u, e, hu, hst, hlg, t', hp', hres, ht⟩ := exec_sseq_creates h r hc hcl hss hhg h4 hlog hslot
    exact ⟨u, e, _, hu, hst, hlg, rfl, rfl, rfl, rfl, rfl, rfl, t', hp', hres, by rw [ht]⟩

/-- Settles O22: SINFO's word field by field, the tenant's image byte by byte, and the two writers by their checks. -/
theorem recordsOfTenantsAndVariants : Obligations.RecordsOfTenantsAndVariants := by
  unfold Obligations.RecordsOfTenantsAndVariants
  intro s x t k g hr a b r ss tn h hl hs aa bb img ent
  refine ⟨fun hc hss => ⟨_, exec_sinfo h r hl hc hss, Session.infoWord_fields⟩, fun ht hal hin => ?_,
    fun hp hal hin h1 h2 h3 h4 h5 h6 h7 => exec_tenset_logs h r hp hal hin
      (by simp only [ge_iff_le, gt_iff_lt, not_or, not_lt, not_le, not_not]; exact ⟨h1, h2, h3, h4, h5, h6, h7⟩), exec_varset_logs h r,
    fun hp => ⟨State.issue_unprivileged h r hp rfl rfl, State.issue_unprivileged h r hp rfl rfl⟩⟩
  obtain ⟨hin', hout, he⟩ := Step.stored_bytes (k := k) (g := g) (a := bb) (bs := tn.image) (by simpa using hin)
  exact ⟨_, by simpa using hin', by simpa using hout, he, exec_tenget h r hl ht hal hin⟩

end Sys2Proof.Machine
end

section
/-! SUPPORT. What ends a wait, and the limits of waits and of contexts (17 R380, 03 R59, 05 R116). -/

namespace Sys2Proof.Machine
open Sys2Proof.Cert

theorem exec_stepResume (x : StepRef) (s : State) : exec (.stepResume x) s = execStepResume x s := rfl
theorem exec_etRelease (x : StepRef) (s : State) : exec (.etRelease x) s = execEtRelease x s := rfl
theorem exec_frameReserved (p : Part) (s : State) : exec (.frameReserved p) s = execFrameReserved p s := rfl
theorem exec_msgTimeout (x : StepRef) (s : State) : exec (.msgTimeout x) s = execMsgTimeout x s := rfl
theorem exec_stepCycleLimit (x : StepRef) (s : State) : exec (.stepCycleLimit x) s = execStepCycleLimit x s := rfl

section
variable {s : State} {x : StepRef} {t : Partition} {k : Step} {g : Program} (hp : s.prt x.part = some t)
  (hk : t.steps.find x.num = some k)
include hp hk

theorem State.step?_of_find : s.step? x = some k := by rw [State.step?, hp, Option.bind_some, hk]

theorem exec_stepResume_waiting (hg : t.programs.find k.prog = some g) {w : Wait} (hst : k.st = .waiting w) :
    exec (.stepResume x) s = .next (if s.waitOver x t k g w then s.wake x else s) := by
  rw [exec_stepResume, execStepResume]
  simp only [hp, Option.bind_some, hk, hg, Option.map_some, hst]

theorem exec_etRelease_waiting (hst : k.st = .waiting .equalTime) : exec (.etRelease x) s = .next (s.wake x) := by
  rw [exec_etRelease, execEtRelease, State.step?_of_find hp hk]
  simp [hst]
theorem exec_etRelease_running (hst : k.st = .running) : exec (.etRelease x) s = .next s := by
  rw [exec_etRelease, execEtRelease, State.step?_of_find hp hk]
  simp [hst]
theorem exec_frameReserved_only {r : Reserve} (hr : t.reserves = [r]) (hme : r.me = x.num) (hlt : x.num < aheadHold 0)
    (hst : k.st = .waiting .frame) (hready : s.reserveReady x.part r = true) : exec (.frameReserved x.part) s = .next (s.wake x) := by
  have hpre : x.num < preHold 0 := Nat.lt_trans hlt (by decide)
  rw [exec_frameReserved, execFrameReserved]
  simp only [hp, Option.bind_some, hr, List.find?_cons, hready, hme, hk, Option.any_some, hst, beq_self_eq_true, Bool.or_true, Bool.and_true]
  rw [if_neg (Nat.not_le.2 hpre), if_neg (Nat.not_le.2 hlt)]

theorem exec_msgTimeout_msg {a b : Option Nat} (hst : k.st = .waiting (.msg a b)) :
    exec (.msgTimeout x) s = .next ((s.squash x.part x.num .aborted).event x.part evMsgTimeout 0 0 0) := by
  rw [exec_msgTimeout, execMsgTimeout, State.step?_of_find hp hk]
  simp [hst]
theorem exec_msgTimeout_running (hst : k.st = .running) : exec (.msgTimeout x) s = .next s := by
  rw [exec_msgTimeout, execMsgTimeout, State.step?_of_find hp hk]
  simp [hst]
theorem exec_stepCycleLimit_of_step : exec (.stepCycleLimit x) s
    = .next (if (k.st == .running || k.ra.isSome) && k.kind != 4 then s.squash x.part x.num .aborted true else s) := by
  rw [exec_stepCycleLimit, execStepCycleLimit, State.step?_of_find hp hk]
  rfl
end

/-- Settles O32: a wait by what it waits for, the limits by the state of the step. -/
theorem waitsAndLimits : Obligations.WaitsAndLimits := by
  unfold Obligations.WaitsAndLimits
  intro s x t k g hp hk hg awake
  refine ⟨fun n m hst hm hd => ?_, fun n m hst hm hd => ?_, fun n q hst hq hn => ?_, fun layer hst hl => ?_, exec_etRelease_waiting hp hk,
    exec_etRelease_running hp hk, fun r => exec_frameReserved_only hp hk, fun a b => exec_msgTimeout_msg hp hk,
    exec_msgTimeout_running hp hk, fun hst hkind => ?_, fun hra hkind => ?_, fun hst hra => ?_⟩
  · rw [exec_stepResume_waiting hp hk hg hst, if_pos (by simp [State.waitOver, hm, hd])]; rfl
  · rw [exec_stepResume_waiting hp hk hg hst, if_neg (by simp [State.waitOver, hm, hd])]
  · rw [exec_stepResume_waiting hp hk hg hst, if_pos (by simp [State.waitOver, hq, hn])]; rfl
  · rw [exec_stepResume_waiting hp hk hg hst, if_pos (by simp [State.waitOver, Step.engDone, hl])]; rfl
  · rw [exec_stepCycleLimit_of_step hp hk, if_pos (by simp [hst, hkind])]
  · rw [exec_stepCycleLimit_of_step hp hk, if_pos (by simp [hra, hkind])]
  · rw [exec_stepCycleLimit_of_step hp hk, if_neg (by simp [hst, hra])]

end Sys2Proof.Machine
end

section
/-! SUPPORT. The move group (17 R384 to R386): a copy that joins a path leaves the steps and the regions as they are, and what each
instruction leaves of its step's tickets. -/

namespace Sys2Proof.Machine
open Sys2Proof.Cert

/-! ### What a change of a partition leaves -/

theorem State.region?_updP_of_regions {f : Partition → Partition} (h : ∀ t, (f t).regions = t.regions) (s : State) (p q : Part) (i : Nat) :
    (s.updP p f).region? q i = s.region? q i := by
  simp only [State.region?, State.prt_updP]
  split
  · cases s.prt q <;> simp [h]
  · rfl
@[simp] theorem State.region?_updGroup (s : State) (p : Part) (g : Nat) (f : Group → Group) (q : Part) (i : Nat) :
    (s.updGroup p g f).region? q i = s.region? q i :=
  State.region?_updP_of_regions (f := fun t => { t with groups := t.groups.upd g f }) (fun _ => rfl) s p q i
@[simp] theorem State.region?_updStep (s : State) (x : StepRef) (f : Step → Step) (q : Part) (i : Nat) :
    (s.updStep x f).region? q i = s.region? q i :=
  State.region?_updP_of_regions (f := fun t => { t with steps := t.steps.upd x.num f }) (fun _ => rfl) s x.part q i

/-- What the changes of paths and of groups' copy-out flags leave, the start of a copy's next piece leaves (04 R92, R93). -/
theorem State.nextPiece_leaves {β : Type} {v : State → β} (hpath : ∀ (s : State) ps, v { s with paths := ps } = v s)
    (hgroup : ∀ (s : State) p g (f : Group → Group), v (s.updGroup p g f) = v s) (s : State) (key : Nat) :
    v (s.nextPiece key) = v s := by
  unfold State.nextPiece
  dsimp only
  split
  · exact hpath ..
  · split
    · rw [hgroup, hpath]
    · exact hpath ..
theorem State.addCopy_leaves {β : Type} {v : State → β} (hpath : ∀ (s : State) ps, v { s with paths := ps } = v s)
    (horder : ∀ (s : State) n, v { s with copyOrder := n } = v s) (hgroup : ∀ (s : State) p g (f : Group → Group), v (s.updGroup p g f) = v s)
    (s : State) (key : Nat) (p : Part) (k : CopyKind) (prio bytes : Nat) : v (s.addCopy key p k prio bytes) = v s := by
  have hbase : ∀ ps, v { s with paths := ps, copyOrder := s.copyOrder + 1 } = v s := fun ps =>
    (horder { s with paths := ps } _).trans (hpath s ps)
  unfold State.addCopy
  dsimp only
  split
  · exact hbase _
  · exact (State.nextPiece_leaves hpath hgroup _ key).trans (hbase _)
@[simp] theorem State.step?_addCopy (s : State) (key : Nat) (p : Part) (k : CopyKind) (prio bytes : Nat) (x : StepRef) :
    (s.addCopy key p k prio bytes).step? x = s.step? x :=
  State.addCopy_leaves (v := fun s => s.step? x) (fun _ _ => rfl) (fun _ _ => rfl) (fun s p g f => State.step?_updGroup s p g f x) ..
@[simp] theorem State.region?_addCopy (s : State) (key : Nat) (p : Part) (k : CopyKind) (prio bytes : Nat) (q : Part) (i : Nat) :
    (s.addCopy key p k prio bytes).region? q i = s.region? q i :=
  State.addCopy_leaves (v := fun s => s.region? q i) (fun _ _ => rfl) (fun _ _ => rfl) (fun s p g f => State.region?_updGroup s p g f q i) ..

/-- Outside run-ahead, a fresh instruction computes its answer (03 R60). -/
theorem Iss.taken_match {s : State} {x : StepRef} {t : Partition} {k : Step} {g : Program} {ops : List Word} (hf : Fresh k ops)
    {β : Type} (a : RaDone → β) (b : β) : (match (iss s x t k g).taken ops with | some o => a o | none => b) = b := by
  rw [Iss.taken_of_fresh hf]

section
variable {s : State} {x : StepRef} {t : Partition} {k : Step} {g : Program} (h : Running s x t k g)
include h

theorem State.region?_of_running (i : Nat) : s.region? x.part i = t.regions.find i := by
  obtain ⟨hp, -⟩ := h
  rw [State.region?, hp]; rfl
/-- A region without a binding gives its own bytes (11 R257). -/
theorem State.resolve_self {i : Nat} {q : Region} (hq : t.regions.find i = some q) (hb : q.binding = none) :
    s.resolve x.part i = some (x.part, i, q) := by
  rw [State.resolve, State.region?_of_running h, hq]
  simp only [hb]

/-! ### MVCOPY and MVTIER -/

/-- The copy that MVCOPY stages (R385). -/
def Step.stagedMove (k : Step) (dst src : Nat) (rs : Region) (so dof n : Nat) (bulk : Bool) : Move :=
  { done := false, status := if rs.poisoned so n then .poisonConsumed else .ok, bytes := n, left := n, dst := dst, src := src
    srcOff := so, dstOff := dof, bulk := bulk, chunk0 := 0, chunks := 0, copy := true, data := k.view src rs so n }
theorem exec_mvcopy_stages {d hr : HReg} {a b : GReg} {rd rs : Region} (r bulk : Bool) :
    let hs := k.ctx.rh hr
    let hd := k.ctx.rh d
    let blk := k.peek g.data (k.ctx.rg a).toNat 24
    let so := fld blk 0 8
    let dof := fld blk 8 8
    let n := fld blk 16 8
    let tk := k.moves.length + 1
    let mv := k.stagedMove (hIndex hd) (hIndex hs) rs so dof n bulk
    Passes t x k kRegion hd → Passes t x k kRegion hs → (k.ctx.rg a).toNat % 8 = 0 → (k.ctx.rg a).toNat + 24 ≤ 0x6000 →
      Fresh k [hd, hs, k.ctx.rg a, BitVec.ofNat 64 so, BitVec.ofNat 64 dof, BitVec.ofNat 64 n] →
      t.regions.find (hIndex hd) = some rd → t.regions.find (hIndex hs) = some rs → rs.binding = none → rs.st ≠ .unbindable →
      0 < n → n ≤ 67108864 → so + n ≤ rs.size → dof + n ≤ rd.size → rd.device = true → rd.st = .uploading →
      k.staged + roundUp n 4096 ≤ 268435456 →
      ∃ u e, exec (.mvcopy x r d hr a b bulk) s = .next u ∧ Stands u x k e (k.ctx.wg b (BitVec.ofNat 64 tk))
        ∧ e.log = k.log ++ [.staged tk] ∧ e.moves.find tk = some mv ∧ ∀ i, u.region? x.part i = s.region? x.part i := by
  intro hs hd blk so dof n tk mv hcd hcs hal hin hf hrd hrs hbind hunb hn0 hnmax hsrc hdst hdev hup hstage
  have hres := State.resolve_self h hrs hbind
  have hok : ¬ (n = 0 ∨ n > 67108864 ∨ so + n > rs.size ∨ dof + n > rd.size ∨ (!rd.device) = true
      ∨ (!(rd.st == .uploading || (rd.st == .valid && !rd.published))) = true) := by
    simp only [hdev, hup, beq_self_eq_true, Bool.true_or, Bool.not_true, Bool.false_eq_true, or_false]
    omega
  refine State.issue_stands h (u := ((s.updStep x fun e => { e with moves := e.moves.put tk mv }).log x (.staged tk)).addCopy
      (pathKey (t.chunkTier rs (so / chunkBytes)) k.quad) x.part (.regionMove x.num tk) (if bulk then 6 else 2) n)
    ((Iss.with_passes hcd ..).trans ((Iss.with_passes hcs ..).trans ((if_neg ?_).trans ((Iss.taken_match hf _ _).trans ?_)))) (Ctx.wg_pc ..)
    (e := { k with moves := k.moves.put tk mv, log := k.log ++ [.staged tk] }) ?_ ⟨rfl, Tab.find_put_self .., fun i => ?_⟩
  · simp [iss, localOk_of_scratch hal hin]
  · simp only [show (iss s x t k g).t.regions.find (hIndex ((iss s x t k g).c.rh d)) = some rd from hrd,
      show (iss s x t k g).s.resolve (iss s x t k g).p (hIndex ((iss s x t k g).c.rh hr)) = some (x.part, hIndex hs, rs) from hres]
    exact (if_neg hunb).trans ((if_neg hok).trans (if_neg (Nat.not_lt.2 hstage)))
  · rw [State.step?_addCopy, State.log, State.step?_updStep_self, State.step?_updStep_of_running h]; rfl
  · rw [State.region?_updStep, State.region?_addCopy, State.log, State.region?_updStep, State.region?_updStep]

/-- The ticket of an MVTIER that the commit carries out. -/
def tierTicket (ri c0 n : Nat) : Move :=
  { done := true, status := .ok, bytes := 0, left := 0, dst := ri, src := ri, srcOff := 0, dstOff := 0, bulk := false, chunk0 := c0
    chunks := n, copy := false, data := [] }
theorem exec_mvtier_demotes {hr : HReg} {a b : GReg} {tgt : Fin 4} {rg : Region} (r : Bool) :
    let hs := k.ctx.rh hr
    let ad := (k.ctx.rg a).toNat
    let tk := k.moves.length + 1
    Passes t x k kRegion hs → Fresh k [hs, k.ctx.rg a] → t.regions.find (hIndex hs) = some rg → rg.device = true →
      bitsOf ad 31 0 + bitsOf ad 63 32 ≤ (rg.size + chunkBytes - 1) / chunkBytes → (tgt = 1 ∨ tgt = 2 ∧ s.flashRO = false) →
      ∃ u e, exec (.mvtier x r hr a b tgt) s = .next u ∧ Stands u x k e (k.ctx.wg b (BitVec.ofNat 64 tk))
        ∧ e.log = k.log ++ [.tierDown (hIndex hs) (bitsOf ad 31 0) (bitsOf ad 63 32) (tgt == 2)]
        ∧ e.moves.find tk = some (tierTicket (hIndex hs) (bitsOf ad 31 0) (bitsOf ad 63 32)) := by
  intro hs ad tk hc hf hrg hdev hn htgt
  have htier : tgt.val ≠ 3 ∧ tgt.val ≠ 0 ∧ ¬ (tgt.val = 2 ∧ s.flashRO = true) ∧ (tgt.val == 2) = (tgt == 2) := by
    rcases htgt with rfl | ⟨rfl, hro⟩
    · exact ⟨by decide, by decide, fun hn => absurd hn.1 (by decide), rfl⟩
    · exact ⟨by decide, by decide, by simp [hro], rfl⟩
  obtain ⟨h3, h0, hro, htwo⟩ := htier
  have hok : ¬ (tgt.val = 3 ∨ (!rg.device) = true ∨ bitsOf ad 31 0 + bitsOf ad 63 32 > (rg.size + chunkBytes - 1) / chunkBytes) := by
    simp only [hdev, Bool.not_true, Bool.false_eq_true, false_or]
    omega
  refine State.issue_stands h (u := (s.updStep x fun e => { e with
      moves := e.moves.put tk (tierTicket (hIndex hs) (bitsOf ad 31 0) (bitsOf ad 63 32)) }).log x
        (.tierDown (hIndex hs) (bitsOf ad 31 0) (bitsOf ad 63 32) (tgt == 2)))
    ((Iss.with_passes hc ..).trans ((Iss.taken_match hf _ _).trans ?_)) (Ctx.wg_pc ..)
    (e := { k with
      moves := k.moves.put tk (tierTicket (hIndex hs) (bitsOf ad 31 0) (bitsOf ad 63 32))
      log := k.log ++ [.tierDown (hIndex hs) (bitsOf ad 31 0) (bitsOf ad 63 32) (tgt == 2)] }) ?_ ⟨rfl, Tab.find_put_self ..⟩
  · simp only [show (iss s x t k g).t.regions.find (hIndex ((iss s x t k g).c.rh hr)) = some rg from hrg]
    refine (if_neg hok).trans ((if_neg hro).trans ((if_pos h0).trans ?_))
    rw [htwo]
    rfl
  · rw [State.log, State.step?_updStep_self, State.step?_updStep_of_running h]; rfl

/-! ### Tickets (R386) -/

theorem exec_mvwait_ended {a : GReg} {m : Move} (r : Bool) (f : FReg) (hm : k.moves.find (k.ctx.rg a).toNat = some m) (hd : m.done = true)
    (hok : m.status = .ok) : exec (.mvwait x r f a) s = goesOn s x k (k.ctx.wf f true) := by
  refine State.issue_goesOn h ?_ (Ctx.wf_pc ..)
  simp only [show (iss s x t k g).k.ticket ((iss s x t k g).c.rg a) = some m from hm, hd, hok]
  rfl
theorem exec_mvwait_failed {a : GReg} {m : Move} (r : Bool) (f : FReg) (hm : k.moves.find (k.ctx.rg a).toNat = some m) (hd : m.done = true)
    (hbad : m.status ≠ .ok) : exec (.mvwait x r f a) s = refused s x k r m.status (k.ctx.wf f false) := by
  refine State.issue_refused h ?_ (Ctx.wf_pc ..)
  simp only [show (iss s x t k g).k.ticket ((iss s x t k g).c.rg a) = some m from hm, hd, if_neg hbad]
  rfl
/-- The word of a ticket. -/
def Move.word (m : Move) : Word :=
  BitVec.ofNat 64 ((m.bytes - m.left) % 2 ^ 48 * 65536 + b2n m.done * 256 + if m.done then m.status.code.toNat else 0)
theorem exec_mvstat {a b : GReg} {m : Move} (r : Bool) (hm : k.moves.find (k.ctx.rg a).toNat = some m) (hf : Fresh k [k.ctx.rg a]) :
    exec (.mvstat x r b a) s = goesOn s x k (k.ctx.wg b m.word) := by
  refine State.issue_goesOn h ((Iss.taken_match hf _ _).trans ?_) (Ctx.wg_pc ..)
  simp only [show (iss s x t k g).k.ticket ((iss s x t k g).c.rg a) = some m from hm]
  rfl
end

theorem Move.word_fields (m : Move) : m.word.getLsbD 8 = m.done ∧ m.word.extractLsb' 0 8 = (if m.done then m.status.code else 0)
    ∧ m.word.extractLsb' 16 48 = BitVec.ofNat 48 (m.bytes - m.left) := by
  have hb := b2n_le m.done
  have hst : (if m.done then m.status.code.toNat else 0) = (if m.done then m.status.code else 0).toNat := by split <;> rfl
  have hlt : (if m.done then m.status.code else 0).toNat < 256 := BitVec.isLt _
  unfold Move.word
  rw [hst]
  refine ⟨getLsbD_of_extractLsb' (extractLsb'_ofNat_of_lt (by omega) (by omega)), ?_, extractLsb'_ofNat_of_lt (by omega) (by omega)⟩
  rw [extractLsb'_ofNat_of_lt (v := (if m.done then m.status.code else 0).toNat) (by omega) (by omega), BitVec.ofNat_toNat,
    BitVec.setWidth_eq]

/-- Settles O18: the staged copy and the logged demotion by their records, a ticket by its word. -/
theorem moveResults : Obligations.MoveResults := by
  unfold Obligations.MoveResults
  intro s x t k g hr d a b f r bulk tgt h hs hd ad blk so dof n tk
  refine ⟨fun rd rs hcd hcs hal hin hf hrd hrs hbind hunb hn0 hnmax hsrc hdst hdev hup hstage => ?_,
    fun rg hc hf hrg hdev hn htgt => ?_, fun m => exec_mvwait_ended h r f, fun m => exec_mvwait_failed h r f,
    fun m hm hf => ⟨m.word, exec_mvstat h r hm hf, m.word_fields⟩⟩
  · obtain ⟨u, e, hu, hst, hlog, hmv, hreg⟩ :=
      exec_mvcopy_stages h r bulk hcd hcs hal hin hf hrd hrs hbind hunb hn0 hnmax hsrc hdst hdev hup hstage
    exact ⟨u, e, _, hu, hst, hlog, hmv, rfl, rfl, rfl, rfl, rfl, rfl, rfl, fun i q hq => (hreg i).symm.trans hq⟩
  · obtain ⟨u, e, hu, hst, hlog, hmv⟩ := exec_mvtier_demotes h r hc hf hrg hdev hn htgt
    exact ⟨u, e, _, hu, hst, hlog, hmv, rfl, rfl⟩

end Sys2Proof.Machine
end

section
/-! SUPPORT. The step and engine group (17 R387 to R389): messages that are there and messages that are not, and the values of Table
17-7. -/

namespace Sys2Proof.Machine
open Sys2Proof.Cert

section
variable {s : State} {x : StepRef} {t : Partition} {k : Step} {g : Program} (h : Running s x t k g)
include h

omit h in
/-- A message is delivered into the slot behind the step's others. -/
theorem State.deliver_eq {u : State} (hu : u.step? x = some k) (b : BufMsg) :
    u.deliver x b = (u.updStep x fun e => { e with msgs := e.msgs.put k.msgs.length b }, mkToken b.mtype b.layer b.lane k.msgs.length) := by
  simp [State.deliver, hu]
/-- An instruction that gives up the context leaves its step's registers as they are. -/
theorem State.issue_waits {d : Deps} {r : Bool} {body : Iss → State × IOut} {w : Wait} (hb : body (iss s x t k g) = (s, .wait w)) :
    ∃ u e, (.next (s.issue x d r body) : Out) = .next u ∧ u.step? x = some e ∧ e.st = .waiting w ∧ e.ctx = k.ctx := by
  rw [State.issue_wait h hb]
  exact ⟨_, _, rfl, State.step?_updStep_of_running h _, rfl, rfl⟩

/-! ### WAITMSG (R387, R388) -/

/-- A message of a queue pair as a step has it. -/
def qpMsg (n : Nat) (bytes : List Byte) : BufMsg := ⟨0, 0xFFFF, 0, 0, 0, false, bytes, some n⟩
omit h in
theorem mkToken_qpMsg (n : Nat) (bytes : List Byte) (slot : Nat) :
    mkToken (qpMsg n bytes).mtype (qpMsg n bytes).layer (qpMsg n bytes).lane slot = BitVec.ofNat 64 (0xFFFF * 2 ^ 40 + slot) := by
  rw [show (qpMsg n bytes).mtype = 0 from rfl, show (qpMsg n bytes).layer = 0xFFFF from rfl, show (qpMsg n bytes).lane = 0 from rfl,
    mkToken, Nat.zero_mul, Nat.zero_mul, Nat.zero_add, Nat.add_zero]
/-- A partition whose message at an offset of a queue pair's inbox a step has taken. -/
def Partition.taking (t : Partition) (n off num : Nat) : Partition :=
  { t with qps := t.qps.upd n fun q => { q with inbox := q.inbox.map fun m => if m.off = off then { m with takenBy := some num } else m } }
theorem exec_waitmsg_qp {hr : HReg} {a b : GReg} {q : Qp} {e : InMsg} (r : Bool) (hc : Passes t x k kQueue (k.ctx.rh hr))
    (hq : hIndex (k.ctx.rh hr) = k.q % 64) (hqp : t.qps.find (k.ctx.rg b).toNat = some q)
    (he : q.inbox.find? (fun m => m.takenBy.isNone) = some e) :
    ∃ u e', exec (.waitmsg x r hr a b false true) s = .next u
      ∧ Stands u x k e' (k.ctx.wg a (BitVec.ofNat 64 (0xFFFF * 2 ^ 40 + k.msgs.length)))
      ∧ e'.msgs.find k.msgs.length = some (qpMsg (k.ctx.rg b).toNat e.bytes) := by
  have hu : (s.updP x.part fun t => t.taking (k.ctx.rg b).toNat e.off x.num).step? x = some k :=
    (State.step?_updP_of_steps (f := fun t => t.taking (k.ctx.rg b).toNat e.off x.num) (fun _ => rfl) s x.part x).trans
      (State.step?_of_running h)
  rw [← mkToken_qpMsg (k.ctx.rg b).toNat e.bytes]
  refine State.issue_stands h (u := (s.updP x.part fun t => t.taking (k.ctx.rg b).toNat e.off x.num).updStep x fun m =>
      { m with msgs := m.msgs.put k.msgs.length (qpMsg (k.ctx.rg b).toNat e.bytes) })
    ((Iss.with_passes hc ..).trans ((if_neg (not_not.2 hq)).trans ((if_pos rfl).trans ((if_neg ?_).trans ?_)))) (Ctx.wg_pc ..)
    ((State.step?_updStep_self ..).trans (congrArg _ hu)) (Tab.find_put_self ..)
  · simp [iss, Tab.has, hqp]
  · have hd := State.deliver_eq hu (qpMsg (k.ctx.rg b).toNat e.bytes)
    simp only [show (iss s x t k g).t.qps.find ((iss s x t k g).c.rg b).toNat = some q from hqp, Option.bind_some, he]
    exact congrArg (fun d : State × Word => (d.1, IOut.done (k.ctx.wg a d.2))) hd
theorem exec_waitmsg_qp_waits {hr : HReg} {a b : GReg} {q : Qp} (r : Bool) (hc : Passes t x k kQueue (k.ctx.rh hr))
    (hq : hIndex (k.ctx.rh hr) = k.q % 64) (hqp : t.qps.find (k.ctx.rg b).toNat = some q)
    (hall : q.inbox.all (fun m => m.takenBy.isSome) = true) :
    ∃ u e, exec (.waitmsg x r hr a b false true) s = .next u ∧ u.step? x = some e
      ∧ e.st = .waiting (.msg none (some (k.ctx.rg b).toNat)) ∧ e.ctx = k.ctx := by
  have hnone : q.inbox.find? (fun m => m.takenBy.isNone) = none :=
    List.find?_eq_none.2 fun m hm => by simpa [Option.isSome_iff_ne_none] using List.all_eq_true.1 hall m hm
  refine State.issue_waits h ((Iss.with_passes hc ..).trans ((if_neg (not_not.2 hq)).trans ((if_pos rfl).trans ((if_neg ?_).trans ?_))))
  · simp [iss, Tab.has, hqp]
  · simp only [show (iss s x t k g).t.qps.find ((iss s x t k g).c.rg b).toNat = some q from hqp, Option.bind_some, hnone]
    rfl

omit h in
/-- A lead's row that waits for its LOGITS record selects the record of its lane. -/
theorem Iss.select_logits {w : Wave} {l : Lane} (hw : t.waveOf k = some w) (hl : w.lanes[k.lane]? = some l) (hk : k.kind = 2) (layer : Nat) :
    (iss s x t k g).select true layer true
      = match w.msgs.find (logitsKey k.lane) with | some b => .msg b | none => .notYet := by
  simp only [Iss.select, iss, hw, hl, hk] <;> rfl
theorem exec_waitmsg_logits {hr : HReg} {a b : GReg} {w : Wave} {l : Lane} {c : BufMsg} (r : Bool) (hc : Passes t x k kQueue (k.ctx.rh hr))
    (hq : hIndex (k.ctx.rh hr) = k.q % 64) (hw : t.waveOf k = some w) (hl : w.lanes[k.lane]? = some l) (hk : k.kind = 2) (hb : b = 0)
    (hm : w.msgs.find (logitsKey k.lane) = some c) :
    ∃ u e, exec (.waitmsg x r hr a b true false) s = .next u
      ∧ Stands u x k e (k.ctx.wg a (mkToken c.mtype c.layer c.lane k.msgs.length)) ∧ e.msgs = k.msgs.put k.msgs.length c := by
  subst hb
  refine State.issue_stands h (u := s.updStep x fun m => { m with msgs := m.msgs.put k.msgs.length c })
    ((Iss.with_passes hc ..).trans ((if_neg (not_not.2 hq)).trans ((if_neg (by decide)).trans ?_))) (Ctx.wg_pc ..)
    (State.step?_updStep_of_running h _) rfl
  simp only [beq_self_eq_true, Iss.select_logits hw hl hk, hm]
  exact congrArg (fun d : State × Word => (d.1, IOut.done (k.ctx.wg a d.2))) (State.deliver_eq (State.step?_of_running h) c)
theorem exec_waitmsg_logits_waits {hr : HReg} {a b : GReg} {w : Wave} {l : Lane} (r : Bool) (hc : Passes t x k kQueue (k.ctx.rh hr))
    (hq : hIndex (k.ctx.rh hr) = k.q % 64) (hw : t.waveOf k = some w) (hl : w.lanes[k.lane]? = some l) (hk : k.kind = 2) (hb : b = 0)
    (hm : w.msgs.find (logitsKey k.lane) = none) :
    ∃ u e, exec (.waitmsg x r hr a b true false) s = .next u ∧ u.step? x = some e ∧ e.st = .waiting (.msg none none) ∧ e.ctx = k.ctx := by
  subst hb
  refine State.issue_waits h ((Iss.with_passes hc ..).trans ((if_neg (not_not.2 hq)).trans ((if_neg (by decide)).trans ?_)))
  simp only [beq_self_eq_true, Iss.select_logits hw hl hk, hm]
  rfl

/-! ### WAITENG and STEPINFO (R389, Table 17-7) -/

theorem exec_waiteng_merged {a : GReg} (r : Bool) (f : FReg) (he : (k.ctx.rg a).toNat ∈ k.emitted) (hm : (k.ctx.rg a).toNat ∈ k.merged)
    (hne : k.ctx.rg a ≠ BitVec.allOnes 64) :
    exec (.waiteng x r f a) s = goesOn s x k (k.ctx.wf f (decide (∀ e ∈ k.fails, e.1 ≠ (k.ctx.rg a).toNat))) := by
  have hall : ((iss s x t k g).c.rg a == BitVec.allOnes 64) = false := by simpa [iss] using hne
  have hval : (decide (∀ e ∈ k.fails, e.1 ≠ (k.ctx.rg a).toNat)) = !(k.fails.any fun e => [(k.ctx.rg a).toNat].contains e.1) := by
    rw [List.not_any_eq_all_not, List.all_eq, decide_eq_decide]
    simp
  rw [hval]
  refine State.issue_goesOn h ((if_neg ?_).trans ?_) (Ctx.wf_pc ..)
  · simpa [iss] using fun _ => he
  · simp only [hall]
    exact if_pos (by simpa [Step.engDone, iss] using .inl hm)

theorem exec_stepinfo {b : GReg} {imm : BitVec 32} {v : Nat} {w : Word} (r : Bool) (hv : (iss s x t k g).info imm.toNat = some v)
    (hw : w = BitVec.ofNat 64 v) : exec (.stepinfo x r b imm) s = goesOn s x k (k.ctx.wg b w) := by
  subst hw
  refine State.issue_goesOn h ?_ (Ctx.wg_pc ..)
  simp only [hv]
  rfl
theorem exec_stepinfo_refused {b : GReg} {imm : BitVec 32} (r : Bool) (hv : (iss s x t k g).info imm.toNat = none) :
    exec (.stepinfo x r b imm) s = refused s x k r .accessViolation (k.ctx.wg b 0) := by
  refine State.issue_refused h ?_ (Ctx.wg_pc ..)
  simp only [hv]
  rfl
end

theorem Iss.info_none (i : Iss) {n : Nat} (hn : 11 ≤ n) : i.info n = none := by
  obtain ⟨j, rfl⟩ := Nat.exists_eq_add_of_le' hn
  rfl

/-- Settles O19: a message that is there is delivered, one that is not leaves the step waiting, and each selector has its value. -/
theorem waitAndInfoResults : Obligations.WaitAndInfoResults := by
  unfold Obligations.WaitAndInfoResults
  intro s x t k g hr a b f r w l m h hs layer slot
  refine ⟨fun q e hc hq hqp he => ?_, fun q => exec_waitmsg_qp_waits h r, fun hc hq hw hl hk hb =>
      ⟨fun c => exec_waitmsg_logits h r hc hq hw hl hk hb, exec_waitmsg_logits_waits h r hc hq hw hl hk hb⟩,
    exec_waiteng_merged h r f, fun hw hl hm => ?_⟩
  · obtain ⟨u, e', hu, hst, hmsg⟩ := exec_waitmsg_qp h r hc hq hqp he
    exact ⟨u, e', hu, hst, _, hmsg, rfl, rfl⟩
  · refine ⟨exec_stepinfo h r rfl rfl, exec_stepinfo h r rfl rfl, exec_stepinfo h r (v := l.hgSeq) ?_ rfl, exec_stepinfo h r (v := l.pos) ?_ rfl,
      fun hk => exec_stepinfo h r (v := l.ntok) ?_ rfl, fun hk => exec_stepinfo h r (v := l.maxDraft) ?_ rfl,
      exec_stepinfo h r (v := m.modelId.toNat) ?_ (BitVec.eq_of_toNat_eq (by simp)), exec_stepinfo h r rfl rfl, exec_stepinfo h r rfl rfl,
      exec_stepinfo h r (v := m.hgRank) ?_ rfl, fun imm hi => exec_stepinfo_refused h r (Iss.info_none _ hi)⟩
    · simp [Iss.info, iss, hw, hl]
    · simp [Iss.info, iss, hw, hl]
    · simp [Iss.info, iss, hw, hl, hk]
    · simp [Iss.info, iss, hw, hl, hk]
    · simp [Iss.info, iss, hm]
    · simp [Iss.info, iss, hm]

end Sys2Proof.Machine
end

section
/-! SUPPORT. Region instructions (17 R397, 11 R255): what each checks of a region that its step has not changed, and what it logs. -/

namespace Sys2Proof.Machine
open Sys2Proof.Cert

/-- Winnow drops nothing where there is room already. -/
theorem State.winnowT2_of_room {s : State} {room : State → Bool} (hr : room s = true) (p : Part) : s.winnowT2 p room = s := by
  unfold State.winnowT2
  split
  · rfl
  · exact State.forEach_inv (fun u => u = s) _ _ (fun u c hu => by subst hu; exact if_pos hr) s rfl

/-- The fields of a region's key (R397): the slot's generation, a check byte, and the slot. -/
theorem regionKey_fields (h : Handle) (check : BitVec 8) :
    let key : BitVec 32 := BitVec.ofNat 8 (hGen h) ++ check ++ BitVec.ofNat 16 (hIndex h)
    key.extractLsb' 24 8 = h.extractLsb' 48 8 ∧ key.extractLsb' 0 16 = BitVec.ofNat 16 (hIndex h) := by
  refine ⟨?_, ?_⟩
  · refine BitVec.eq_of_getLsbD_eq fun i hi => ?_
    simp only [BitVec.getLsbD_extractLsb', BitVec.getLsbD_append, hi, decide_true, Bool.true_and, hGen, BitVec.ofNat_toNat, BitVec.getLsbD_setWidth]
    simp [show ¬ 24 + i < 16 by omega, show ¬ 24 + i - 16 < 8 by omega, show 24 + i - 16 - 8 = i by omega, hi]
  · refine BitVec.eq_of_getLsbD_eq fun i hi => ?_
    rw [BitVec.getLsbD_extractLsb', BitVec.getLsbD_append]
    simp [hi]

section
variable {s : State} {x : StepRef} {t : Partition} {k : Step} {g : Program} (h : Running s x t k g) {hr : HReg}

theorem Iss.rgn_of_log_nil (hl : k.log = []) (i : Nat) : (iss s x t k g).rgn i = t.regions.find i := by
  unfold Iss.rgn; simp only [iss, hl]; rfl
/-- The region that an instruction names is the one in the table, where the step has logged nothing. -/
theorem Iss.rgn_match {q : Region} {i : Nat} (hl : k.log = []) (hq : t.regions.find i = some q) {β : Type} (a : β) (b : Region → β) :
    (match (iss s x t k g).rgn i with | none => a | some g => b g) = b q := by
  rw [Iss.rgn_of_log_nil hl, hq]

include h

/-- An instruction that logs an operation in the state that its body leaves. -/
theorem State.issue_logs_from {d : Deps} {r : Bool} {body : Iss → State × IOut} {u : State} {c : Ctx} {o : LogOp}
    (hb : body (iss s x t k g) = (u.log x o, .done c)) (hpc : c.pc = k.ctx.pc) :
    (.next (s.issue x d r body) : Out) = goesLogging u x k c [o] := by
  rw [State.issue_of_done h d r hb, State.log, State.updStep_updStep, hpc]
  rfl

/-! ### Creation -/

/-- RGCREATE of an authoritative region homed in T2 makes it in the lowest slot. -/
theorem exec_rgcreate_creates {a : GReg} {n : Nat} {blk : List Byte} (r : Bool) (hblk : k.peek g.data (k.ctx.rg a).toNat 24 = blk)
    (hal : (k.ctx.rg a).toNat % 8 = 0) (hin : (k.ctx.rg a).toNat + 24 ≤ 0x6000) (h0 : 0 < fld blk 0 8) (hpage : fld blk 0 8 % 4096 = 0)
    (hcls : fld blk 8 1 = 1) (hfl : fld blk 9 1 < 12) (hhome : fld blk 0xA 1 = 2) (hB : fld blk 0xB 1 = 0) (hC : fld blk 0xC 2 = 0)
    (hE : fld blk 0xE 2 = 0) (hdpa : fld blk 0x10 8 = 0) (hro : s.flashRO = false) (hroom : 2 * fld blk 0 8 ≤ t.freeBytes .t2)
    (hslot : LowestSlot t x.part kRegion n) :
    ∃ u e, exec (.rgcreate x r hr a) s = .next u ∧ Stands u x k e (k.ctx.wh hr (t.handleOf x.part kRegion n))
      ∧ e.log = k.log ++ [.regCreate n (freshRegion (t.handleOf x.part kRegion n) (fld blk 0 8) 1 (bitsOf (fld blk 9 1) 3 1)
          (bitOf (fld blk 9 1) 0) 2 0 0)]
      ∧ ∃ t', u.prt x.part = some t' ∧ t'.resv.find (slotKey kRegion n) = some x.num
        ∧ t' = { t with resv := t'.resv, steps := t'.steps } := by
  obtain ⟨hp, -⟩ := id h
  have huse : bitsOf (fld blk 9 1) 3 1 ≤ 5 := by unfold bitsOf; omega
  have hfit : t.regionRoom 2 1 (fld blk 0 8) = true := by simp [Partition.regionRoom, Partition.homeTier, hroom]
  have hwin : s.winnowT2 x.part (fun s => s.getP x.part true fun t => t.regionRoom 2 1 (fld blk 0 8)) = s :=
    State.winnowT2_of_room (by simp [State.getP, hp, hfit]) x.part
  have hput := State.updP_congr (g := fun _ => t.reserved kRegion n x.num) hp (f := fun t => t.reserved kRegion n x.num) rfl
  refine State.issue_creates h (kind := kRegion) (n := n) ((if_neg ?_).trans ((if_neg ?_).trans ((if_neg ?_).trans ?_))) rfl
  · simp only [iss, localOk_of_scratch hal hin, Bool.not_true, Bool.false_eq_true, not_false_iff]
  · simp only [iss, hblk, hcls, hhome, hB, hC, hE, hdpa, hpage, BitVec.ofNat_eq_ofNat]
    simp
    omega
  · simp only [iss, hro, Bool.false_eq_true, and_false, not_false_iff]
  · simp only [iss, hblk, hcls, hhome, hC, hdpa, if_true, hwin, hp, hfit, Partition.newSlot_of_lowest hslot, hput]
    rfl

/-- RGBIND makes a binding of the newest version of a publication. -/
theorem exec_rgbind_binds {a : GReg} {n o j : Nat} {q : Region} {blk : List Byte} (r : Bool)
    (hblk : k.peek g.data (k.ctx.rg a).toNat 16 = blk) (hal : (k.ctx.rg a).toNat % 8 = 0) (hin : (k.ctx.rg a).toNat + 16 ≤ 0x6000)
    (hmode : fld blk 2 1 ≤ 1) (h3 : fld blk 3 5 = 0) (hcross : s.crossMember x.part (BitVec.ofNat 16 (fld blk 0 2)) = true)
    (hpub : s.published (BitVec.ofNat 16 (fld blk 0 2)) (BitVec.ofNat 64 (fld blk 8 8)) = some (o, j, q))
    (hslot : LowestSlot t x.part kRegion n) :
    ∃ u e, exec (.rgbind x r hr a) s = .next u ∧ Stands u x k e (k.ctx.wh hr (t.handleOf x.part kRegion n))
      ∧ e.log = k.log ++ [.regCreate n { freshRegion (t.handleOf x.part kRegion n) q.size q.cls q.use q.resend 2
          (BitVec.ofNat 16 (fld blk 0 2)) 0 with
            st := .valid, name := BitVec.ofNat 64 (fld blk 8 8), version := q.version
            binding := some ⟨o, BitVec.ofNat 64 (fld blk 8 8), BitVec.ofNat 16 (fld blk 0 2), j, fld blk 2 1 == 1⟩ }]
      ∧ ∃ t', u.prt x.part = some t' ∧ t'.resv.find (slotKey kRegion n) = some x.num
        ∧ t' = { t with resv := t'.resv, steps := t'.steps } := by
  refine State.issue_creates h (kind := kRegion) (n := n) ((if_neg ?_).trans ?_) rfl
  · simp only [iss, localOk_of_scratch hal hin, Bool.not_true, Bool.false_eq_true, not_false_iff]
  · simp only [iss, hblk, hpub, Partition.newSlot_of_lowest hslot]
    refine if_neg ?_
    simp only [hcross, h3, ne_eq, not_true_eq_false, Bool.not_true, Bool.false_eq_true, or_false]
    omega

/-! ### Regions that the step names -/

theorem exec_rgfree_logs {q : Region} (r : Bool) (hl : k.log = []) (hc : Passes t x k kRegion (k.ctx.rh hr))
    (hq : t.regions.find (hIndex (k.ctx.rh hr)) = some q)
    (hst : q.st = .uploading ∨ q.st = .revoked ∨ q.st = .unbindable ∨ q.st = .valid ∧ q.published = false ∧ q.registered = false)
    (hn : t.regionNamed (k.ctx.rh hr) = false) (hv : t.variantNames (k.ctx.rh hr) = false) :
    exec (.rgfree x r hr) s = goesLogging s x k k.ctx [.regFree (hIndex (k.ctx.rh hr))] := by
  refine State.issue_logs h ((Iss.with_passes hc ..).trans ((Iss.rgn_match hl hq ..).trans (if_neg ?_))) rfl
  simp only [iss, hn, hv, Bool.or_false]
  rcases hst with hst | hst | hst | ⟨hst, hp, hg⟩
  · simp [hst]
  · simp [hst]
  · simp [hst]
  · simp [hst, hp, hg]
theorem exec_rgreg_registers {a : GReg} {q : Region} (r : Bool) (hl : k.log = []) (hc : Passes t x k kRegion (k.ctx.rh hr))
    (hq : t.regions.find (hIndex (k.ctx.rh hr)) = some q) (hreg : q.registered = false) :
    ∃ key : BitVec 32, key.extractLsb' 24 8 = (k.ctx.rh hr).extractLsb' 48 8
      ∧ key.extractLsb' 0 16 = BitVec.ofNat 16 (hIndex (k.ctx.rh hr))
      ∧ exec (.rgreg x r hr a) s = goesLogging { s with free := s.free + 1 } x k (k.ctx.wg a (key.zeroExtend 64))
          [.regRegister (hIndex (k.ctx.rh hr)) key] := by
  obtain ⟨hgen, hix⟩ := regionKey_fields (k.ctx.rh hr) (Config.checkByte s.free)
  refine ⟨_, hgen, hix, ?_⟩
  exact State.issue_logs_from h (u := { s with free := s.free + 1 })
    ((Iss.with_passes hc ..).trans ((Iss.rgn_match hl hq ..).trans (if_neg (Bool.eq_false_iff.1 hreg)))) (Ctx.wg_pc ..)
theorem exec_rgrevoke_defers {q : Region} (r : Bool) (hl : k.log = []) (hq : t.regions.find (hIndex (k.ctx.rh hr)) = some q)
    (hc : Passes t x k kRegion (k.ctx.rh hr)) (hreg : q.registered = true) (hst : q.st = .valid) (hd : MayDefer t k) :
    exec (.rgrevoke x r hr) s
      = goesDeferring s x k (.revoke (hIndex (k.ctx.rh hr))) (.regRevoke (hIndex (k.ctx.rh hr))) := by
  refine State.issue_defers h rfl ((Iss.with_passes hc ..).trans (if_neg ?_))
  rw [Iss.rgn_of_log_nil hl, Iss.mayDefer_of hd]
  simp [iss, hq, hreg, hst]
theorem exec_rsync_logs {a b : GReg} {q : Region} {validate : Bool} (r : Bool) (hl : k.log = [])
    (hc : Passes t x k kRegion (k.ctx.rh hr)) (hq : t.regions.find (hIndex (k.ctx.rh hr)) = some q)
    (hin : (k.ctx.rg a).toNat + (k.ctx.rg b).toNat ≤ q.size) (hb : q.binding = none)
    (hv : validate = true → q.st = .uploading ∧ q.domain = 0) (hro : q.cls = 0 ∨ s.flashRO = false) :
    exec (.rsync x r hr a b validate) s
      = goesLogging s x k k.ctx [.sync (hIndex (k.ctx.rh hr)) (k.ctx.rg a).toNat (k.ctx.rg b).toNat validate] := by
  refine State.issue_logs h ((Iss.with_passes hc ..).trans ((Iss.rgn_match hl hq ..).trans ((if_neg ?_).trans (if_neg ?_)))) rfl
  · rintro (hn | hn | ⟨hn, hs | hs⟩)
    · exact Nat.not_lt.2 hin hn
    · simp [hb] at hn
    · exact hs (hv hn).1
    · exact hs (hv hn).2
  · rintro ⟨hcls, hf⟩
    rcases hro with hro | hro
    · rw [hro] at hcls; exact absurd hcls (by decide)
    · exact Bool.noConfusion (hro.symm.trans hf)
theorem exec_rgdiscard_logs {a b : GReg} {q : Region} (r : Bool) (hl : k.log = []) (hc : Passes t x k kRegion (k.ctx.rh hr))
    (hq : t.regions.find (hIndex (k.ctx.rh hr)) = some q) (hcls : q.cls = 0) (hhome : q.home = 2) (hb : q.binding = none)
    (hin : (k.ctx.rg a).toNat + (k.ctx.rg b).toNat ≤ q.size) :
    exec (.rgdiscard x r hr a b) s
      = goesLogging s x k k.ctx [.discard (hIndex (k.ctx.rh hr)) (k.ctx.rg a).toNat (k.ctx.rg b).toNat] := by
  refine State.issue_logs h ((Iss.with_passes hc ..).trans ((Iss.rgn_match hl hq ..).trans (if_neg ?_))) rfl
  rintro (hn | hn | hn | hn)
  · exact hn hcls
  · exact hn hhome
  · simp [hb] at hn
  · exact Nat.not_lt.2 hin hn
theorem exec_rgpublish_defers {a b : GReg} {q : Region} (r : Bool) (hl : k.log = []) (hc : Passes t x k kRegion (k.ctx.rh hr))
    (hq : t.regions.find (hIndex (k.ctx.rh hr)) = some q) (hd : MayDefer t k) (hst : q.st = .uploading) (hcls : q.cls = 1)
    (hdom : q.domain ≠ 0) (hcross : s.crossMember x.part q.domain = true) :
    exec (.rgpublish x r hr a b) s
      = goesDeferring s x k .none (.publish (hIndex (k.ctx.rh hr)) (k.ctx.rg a) ((k.ctx.rg b).toNat % 2 ^ 32)) := by
  refine State.issue_defers h rfl ((Iss.with_passes hc ..).trans ((Iss.rgn_match hl hq ..).trans (if_neg ?_)))
  rw [Iss.mayDefer_of hd]
  simp [iss, hst, hcls, hcross]
  exact hdom
end

/-- Settles O26: each instruction by its own lemma, the two that create by the region that they log. -/
theorem regionResults : Obligations.RegionResults := by
  unfold Obligations.RegionResults
  intro s x t k g hr a b r validate q n h hl hs ix aa bb blk size
  refine ⟨fun hal hin h0 hpage hcls hfl hhome hB hC hE hdpa hro hroom hslot => ?_, fun hc hq => ⟨exec_rgfree_logs h r hl hc hq,
    exec_rgreg_registers h r hl hc hq, exec_rgrevoke_defers h r hl hq hc, exec_rsync_logs h r hl hc hq,
    fun hcls hhome hb hin => exec_rgdiscard_logs h r hl hc hq hcls hhome hb hin, fun hd hst hcls => exec_rgpublish_defers h r hl hc hq hd hst hcls⟩,
    fun o j => ?_⟩
  · obtain ⟨u, e, hu, hst, hlog, t', hp', hres, ht⟩ :=
      exec_rgcreate_creates h r rfl hal hin h0 hpage hcls hfl hhome hB hC hE hdpa hro hroom hslot
    rw [hl, List.nil_append] at hlog
    exact ⟨u, e, _, hu, hst, hlog, rfl, rfl, rfl, rfl, rfl, rfl, rfl, rfl, t', hp', hres, by rw [ht]⟩
  · intro b16 hal hin hmode h3 hcross hpub hslot
    obtain ⟨u, e, hu, hst, hlog, -⟩ := exec_rgbind_binds h r rfl hal hin hmode h3 hcross hpub hslot
    rw [hl, List.nil_append] at hlog
    exact ⟨u, e, _, hu, hst, hlog, rfl, rfl, by rw [← beq_eq_decide]⟩

end Sys2Proof.Machine
end

section
/-! SUPPORT. Queue-pair instructions (17 R397, 12 R270 to R272, R280 to R282): queue pairs as a step that has logged nothing sees them,
and what each instruction logs, posts and arms. -/

namespace Sys2Proof.Machine
open Sys2Proof.Cert

/-- The lowest slot from a first one on that passes a test. -/
theorem lowestSlot_eq_some_from {ok : Nat → Bool} {n : Nat} (hok : ok n = true) {fuel i : Nat} (hi : i ≤ n) (hn : n < i + fuel)
    (hlow : ∀ j, i ≤ j → j < n → ok j = false) : lowestSlot ok fuel i = some n := by
  induction fuel generalizing i with
  | zero => omega
  | succ fuel ih =>
    rcases hi.eq_or_lt with rfl | hlt
    · exact if_pos hok
    · exact (if_neg (by simp [hlow i le_rfl hlt])).trans (ih hlt (by omega) fun j hj => hlow j (by omega))
theorem Tab.key_ne_of_find_none {α : Type} {t : Tab α} {i : Nat} (h : t.find i = none) : ∀ e ∈ t, e.1 ≠ i := by
  induction t with
  | nil => exact fun e he => absurd he List.not_mem_nil
  | cons a t ih =>
    obtain ⟨j, v⟩ := a
    by_cases hj : j = i
    · simp [Tab.find, hj] at h
    · intro e he
      rcases List.mem_cons.1 he with rfl | he
      · exact hj
      · exact ih (by simpa [Tab.find, hj] using h) e he

section
variable {s : State} {x : StepRef} {t : Partition} {k : Step} {g : Program} (h : Running s x t k g)

theorem Iss.qp_of_log_nil (hl : k.log = []) (n : Nat) : (iss s x t k g).qp n = t.qps.find n := by
  unfold Iss.qp; simp only [iss, hl]; rfl

include h

/-! ### Queue pairs (R270 to R272) -/

theorem exec_qpcreate_creates {a b : GReg} {n : Nat} {blk : List Byte} (r : Bool) (hl : k.log = [])
    (hblk : k.peek g.data (k.ctx.rg b).toNat 32 = blk) (hal : (k.ctx.rg b).toNat % 8 = 0) (hin : (k.ctx.rg b).toNat + 32 ≤ 0x6000)
    (hport : fld blk 0 1 < 16) (hbind : t.binding.ports.getLsbD (fld blk 0 1) = true) (htc : fld blk 1 1 ≤ 6)
    (hallow : t.binding.tcAllow.getLsbD (fld blk 1 1) = true) (hpas : fld blk 2 1 < 2) (h3 : fld blk 3 1 = 0)
    (hten : fld blk 4 2 < 4096) (htn : t.tenants.has (fld blk 4 2) = true) (hrr : fld blk 8 8 = 0)
    (hroom : (s.parts.map fun e => e.2.qps.length).sum < 65536) (h0 : 0 < n) (hn : n < 1024 * (clustersOf t.clusters).length)
    (hfree : t.qps.find n = none) (hres : t.resv.find (slotKey kQp n) = none)
    (hlow : ∀ j, 0 < j → j < n → t.qps.has j = true ∨ t.resv.has (slotKey kQp j) = true) :
    ∃ u e, exec (.qpcreate x r a b) s = .next u ∧ Stands u x k e (k.ctx.wg a (BitVec.ofNat 64 n)) ∧ e.log = k.log ++ [.qpCreate n blk]
      ∧ ∃ t', u.prt x.part = some t' ∧ t'.resv.find (slotKey kQp n) = some x.num ∧ t' = { t with resv := t'.resv, steps := t'.steps } := by
  have hslot : lowestSlot (fun n => !(t.qps.has n) && !(t.resv.has (slotKey kQp n))) (t.qpLimit - 1) 1 = some n := by
    refine lowestSlot_eq_some_from (by simp [Tab.has, hfree, hres]) h0 (by unfold Partition.qpLimit; omega) fun j hj hjn => ?_
    rcases hlow j hj hjn with hj | hj <;> simp [hj]
  refine State.issue_creates h (kind := kQp) (n := n) ((if_neg ?_).trans ((if_neg ?_).trans ((if_neg (Nat.not_le.2 hroom)).trans ?_)))
    (Ctx.wg_pc ..)
  · simp only [iss, localOk_of_scratch hal hin, Bool.not_true, Bool.false_eq_true, not_false_iff]
  · rw [Iss.tenant_of_log_nil hl]
    simp only [iss, hblk, hbind, hallow, h3, hrr]
    simp [Option.isSome_iff_ne_none.1 htn]
    omega
  · simp only [iss, hslot, hblk]
    rfl
theorem exec_qpconnect_defers {a : GReg} {q : Qp} (r : Bool) (hl : k.log = []) (hq : t.qps.find (k.ctx.rg a).toNat = some q)
    (hst : q.st = .init) (hp : q.passive = false) (hd : MayDefer t k) :
    exec (.qpconnect x r a) s = goesDeferring s x k (.connect (k.ctx.rg a).toNat) (.qpConnect (k.ctx.rg a).toNat) := by
  refine State.issue_defers h rfl (if_neg ?_)
  rw [Iss.mayDefer_of hd, Iss.qp_of_log_nil hl]
  simp [iss, hq, hst, hp]
theorem exec_qpdisc_defers {a : GReg} {q : Qp} (r : Bool) (hl : k.log = []) (hq : t.qps.find (k.ctx.rg a).toNat = some q)
    (hst : q.st = .ready) (hd : MayDefer t k) :
    exec (.qpdisc x r a) s = goesDeferring s x k (.disconnect (k.ctx.rg a).toNat) (.qpDisc (k.ctx.rg a).toNat) := by
  refine State.issue_defers h rfl (if_neg ?_)
  rw [Iss.mayDefer_of hd, Iss.qp_of_log_nil hl]
  simp [iss, hq, hst]
theorem exec_qpdestroy_logs {a : GReg} {q : Qp} (r : Bool) (hl : k.log = []) (hq : t.qps.find (k.ctx.rg a).toNat = some q)
    (hst : q.st = .init ∨ q.st = .error) : exec (.qpdestroy x r a) s = goesLogging s x k k.ctx [.qpDestroy (k.ctx.rg a).toNat] := by
  refine State.issue_logs h (if_neg ?_) rfl
  rw [Iss.qp_of_log_nil hl]
  rcases hst with hst | hst <;> simp [iss, hq, hst]

/-! ### Work requests, notes and chains (R280 to R282) -/

/-- A partition with a work request behind the others of a queue pair. -/
def Partition.pushed (t : Partition) (n : Nat) (w : WorkReq) : Partition := { t with qps := t.qps.upd n fun q => q.push w }
/-- A partition whose queue pair has given up its first notification word to a step. -/
def Partition.noted (t : Partition) (n num : Nat) (w : Word) (ws : List Word) : Partition :=
  { t with qps := t.qps.upd n fun q => { q with notes := ws }
           steps := t.steps.upd num fun k => { k with notes := k.notes ++ [(n, w)] } }

theorem exec_qppost_logs {a b : GReg} {q : Qp} {wr : List Byte} (r : Bool) (hl : k.log = [])
    (hwr : k.peek g.data (k.ctx.rg b).toNat 48 = wr) (hal : (k.ctx.rg b).toNat % 8 = 0) (hin : (k.ctx.rg b).toNat + 48 ≤ 0x6000)
    (hok : (iss s x t k g).workBad wr = none) (hq : t.qps.find (k.ctx.rg a).toNat = some q) (hst : q.st = .ready) :
    exec (.qppost x r a b false) s = goesLogging s x k k.ctx [.qpPost (k.ctx.rg a).toNat wr] := by
  refine State.issue_logs h ((if_neg ?_).trans ?_) rfl
  · simp only [iss, localOk_of_scratch hal hin, Bool.not_true, Bool.false_eq_true, not_false_iff]
  · simp only [show (iss s x t k g).k.peek (iss s x t k g).prog.data ((iss s x t k g).c.rg b).toNat 48 = wr from hwr, hok]
    refine (if_neg ?_).trans (if_neg (by decide))
    rw [Iss.qp_of_log_nil hl]
    simp [iss, hq, hst]
theorem exec_qppost_posts {a b : GReg} {q : Qp} {wr : List Byte} (r : Bool) (hl : k.log = [])
    (hwr : k.peek g.data (k.ctx.rg b).toNat 48 = wr) (hal : (k.ctx.rg b).toNat % 8 = 0) (hin : (k.ctx.rg b).toNat + 48 ≤ 0x6000)
    (hok : (iss s x t k g).workBad wr = none) (hq : t.qps.find (k.ctx.rg a).toNat = some q) (hst : q.st = .ready) :
    ∃ u e, exec (.qppost x r a b true) s = .next u ∧ Stands u x k e k.ctx
      ∧ ∃ t', u.prt x.part = some t' ∧ t'.qps.find (k.ctx.rg a).toNat = some (q.push (workFrom wr)) := by
  obtain ⟨hp, hk, -⟩ := id h
  have hp' := State.prt_updP_of_prt hp fun t => t.pushed (k.ctx.rg a).toNat (workFrom wr)
  refine State.issue_stands h (u := s.updP x.part fun t => t.pushed (k.ctx.rg a).toNat (workFrom wr)) ((if_neg ?_).trans ?_) rfl
    ((State.step?_of_prt hp').trans hk) ?_
  · simp only [iss, localOk_of_scratch hal hin, Bool.not_true, Bool.false_eq_true, not_false_iff]
  · simp only [show (iss s x t k g).k.peek (iss s x t k g).prog.data ((iss s x t k g).c.rg b).toNat 48 = wr from hwr, hok]
    refine (if_neg ?_).trans (if_pos trivial)
    rw [Iss.qp_of_log_nil hl]
    simp [iss, hq, hst]
  · obtain ⟨t', ht', hfr, -⟩ := State.prt_updStep_frame x (fun e => { e with ctx := { k.ctx with pc := k.ctx.pc + 8 } }) hp'
    refine ⟨t', ht', ?_⟩
    rw [hfr]
    simp [Partition.pushed, hq]

omit h in
/-- QPNOTE of a queue pair that the step sees. -/
theorem Iss.qp_match {q : Qp} {n : Nat} (hl : k.log = []) (hq : t.qps.find n = some q) {β : Type} (a b : β) :
    (match (iss s x t k g).qp n with | none => a | some _ => b) = b := by
  rw [Iss.qp_of_log_nil hl, hq]
theorem exec_qpnote_empty {a b : GReg} {q : Qp} (r : Bool) (hl : k.log = []) (hq : t.qps.find (k.ctx.rg a).toNat = some q)
    (hn : q.notes = []) : exec (.qpnote x r a b false) s = goesOn s x k (k.ctx.wg b 0) := by
  refine State.issue_goesOn h ((Iss.qp_match hl hq ..).trans ?_) (Ctx.wg_pc ..)
  simp only [show (iss s x t k g).t.qps.find ((iss s x t k g).c.rg a).toNat = some q from hq, Option.map_some, Option.getD_some, hn]
  rfl
theorem exec_qpnote_waits {a b : GReg} {q : Qp} (r : Bool) (hl : k.log = []) (hq : t.qps.find (k.ctx.rg a).toNat = some q)
    (hn : q.notes = []) :
    ∃ u e, exec (.qpnote x r a b true) s = .next u ∧ u.step? x = some e ∧ e.st = .waiting (.note (k.ctx.rg a).toNat) ∧ e.ctx = k.ctx := by
  refine State.issue_waits h ((Iss.qp_match hl hq ..).trans ?_)
  simp only [show (iss s x t k g).t.qps.find ((iss s x t k g).c.rg a).toNat = some q from hq, Option.map_some, Option.getD_some, hn]
  rfl
theorem exec_qpnote_takes {a b : GReg} {q : Qp} {w : Word} {ws : List Word} (r wait : Bool) (hl : k.log = [])
    (hq : t.qps.find (k.ctx.rg a).toNat = some q) (hn : q.notes = w :: ws) :
    ∃ u e, exec (.qpnote x r a b wait) s = .next u ∧ Stands u x k e (k.ctx.wg b w) ∧ e.notes = k.notes ++ [((k.ctx.rg a).toNat, w)]
      ∧ ∃ t', u.prt x.part = some t' ∧ t'.qps.find (k.ctx.rg a).toNat = some { q with notes := ws } := by
  obtain ⟨hp, hk, -⟩ := id h
  have hp' := State.prt_updP_of_prt hp fun t => t.noted (k.ctx.rg a).toNat x.num w ws
  refine State.issue_stands h (u := s.updP x.part fun t => t.noted (k.ctx.rg a).toNat x.num w ws)
    (e := { k with notes := k.notes ++ [((k.ctx.rg a).toNat, w)] }) ((Iss.qp_match hl hq ..).trans ?_) (Ctx.wg_pc ..)
    ((State.step?_of_prt hp').trans ?_) ⟨rfl, ?_⟩
  · simp only [show (iss s x t k g).t.qps.find ((iss s x t k g).c.rg a).toNat = some q from hq, Option.map_some, Option.getD_some, hn]
    rfl
  · rw [Partition.noted, Tab.find_upd_self, hk]; rfl
  · obtain ⟨t', ht', hfr, -⟩ := State.prt_updStep_frame x (fun e => { e with ctx := { k.ctx.wg b w with pc := k.ctx.pc + 8 } }) hp'
    refine ⟨t', ht', ?_⟩
    rw [hfr]
    simp [Partition.noted, hq]

theorem exec_charmArm_defers {a b : GReg} {q : Qp} {cb wrs : List Byte} {tag : BitVec 32} (r : Bool) (hl : k.log = [])
    (hq : t.qps.find (k.ctx.rg a).toNat = some q) (hcb : k.peek g.data (k.ctx.rg b).toNat 16 = cb) (htag : BitVec.ofNat 32 (fld cb 4 4) = tag)
    (hwrs : k.peek g.data (fld cb 8 8) (48 * fld cb 2 1) = wrs) (hal : (k.ctx.rg b).toNat % 8 = 0)
    (hin : (k.ctx.rg b).toNat + 16 ≤ 0x6000) (hwal : fld cb 8 8 % 8 = 0) (hwin : fld cb 8 8 + 48 * fld cb 2 1 ≤ 0x6000)
    (h0 : 0 < fld cb 2 1) (h32 : fld cb 2 1 ≤ 32) (h3 : fld cb 3 1 = 0) (hne : tag ≠ 0) (hcq : t.qps.has (fld cb 0 2) = true)
    (hd : MayDefer t k) (hok : ∀ j, j < fld cb 2 1 → (iss s x t k g).workBad ((wrs.drop (48 * j)).take 48) = none)
    (hfree : t.chains.find (chainKey (k.ctx.rg a).toNat tag) = none) (hroom : t.chains.length < 64) :
    exec (.charmArm x r a b) s = goesDeferring s x k (.chain (k.ctx.rg a).toNat tag) (.chainArm (k.ctx.rg a).toNat cb wrs) := by
  have hbad : ((List.range (fld cb 2 1)).filterMap fun j => (iss s x t k g).workBad ((wrs.drop (48 * j)).take 48)) = [] :=
    List.filterMap_eq_nil_iff.2 fun j hj => hok j (List.mem_range.1 hj)
  have harmed : ((t.chains.filter fun kv => kv.2.armed).any fun kv => kv.1 == chainKey (k.ctx.rg a).toNat tag) = false :=
    List.any_eq_false.2 fun e he => by simpa using Tab.key_ne_of_find_none hfree e (List.mem_of_mem_filter he)
  have hlen : (t.chains.filter fun kv => kv.2.armed).length < 64 := Nat.lt_of_le_of_lt (List.length_filter_le ..) hroom
  have hmine : ((t.chains.filter fun kv => kv.2.armed).filter fun kv => kv.1 / 2 ^ 32 == (k.ctx.rg a).toNat).length < 64 :=
    Nat.lt_of_le_of_lt (List.length_filter_le ..) hlen
  refine State.issue_defers h rfl ((if_neg ?_).trans ((if_neg ?_).trans ?_))
  · simp only [iss, localOk_of_scratch hal hin, Bool.not_true, Bool.false_eq_true, not_false_iff]
  · simp only [iss, hcb, localOk_of_scratch hwal hwin, Bool.not_true, Bool.false_eq_true, not_false_iff]
  · have hmd : (iss s x t k g).mayDefer = true := Iss.mayDefer_of hd
    have hqn : (iss s x t k g).qp (k.ctx.rg a).toNat = some q := (Iss.qp_of_log_nil hl _).trans hq
    have hqc : ((iss s x t k g).qp (fld cb 0 2)).isSome = true := (congrArg Option.isSome (Iss.qp_of_log_nil hl _)).trans hcq
    simp only [iss] at hbad harmed hmd hqn hqc ⊢
    simp only [hcb, hwrs, hbad, List.head?_nil, htag, hmd, hqn, harmed, h3]
    refine (if_neg ?_).trans (if_neg ?_)
    · simp only [Option.isNone_eq_false_iff.2 hqc]
      simp
      exact ⟨⟨Nat.pos_iff_ne_zero.1 h0, h32⟩, hne⟩
    · simp only [List.filter_filter] at hmine
      simpa using ⟨Nat.lt_trans hlen (by decide), hmine⟩
theorem exec_charmDisarm {a b : GReg} {q : Qp} {c : Chain32} (r : Bool) (hl : k.log = []) (hq : t.qps.find (k.ctx.rg a).toNat = some q)
    (hc : t.chains.find (chainKey (k.ctx.rg a).toNat ((k.ctx.rg b).setWidth 32)) = some c) :
    exec (.charmDisarm x r a b) s = if c.armed then goesLogging s x k k.ctx [.chainDisarm (k.ctx.rg a).toNat ((k.ctx.rg b).setWidth 32)]
      else refused s x k r .abortedTooLate k.ctx := by
  have hqp : ¬ ((iss s x t k g).qp ((iss s x t k g).c.rg a).toNat).isNone = true := by
    rw [Iss.qp_of_log_nil hl]; simp [iss, hq]
  by_cases ha : c.armed = true
  · rw [if_pos ha]
    exact State.issue_logs h ((if_neg hqp).trans (if_neg (by simp [iss, hc, ha]))) rfl
  · rw [if_neg ha]
    exact State.issue_refused h ((if_neg hqp).trans (if_pos (by simpa [iss, hc] using ha))) rfl
end

/-- Settles O27: each instruction by its own lemma. -/
theorem queuePairResults : Obligations.QueuePairResults := by
  unfold Obligations.QueuePairResults
  intro s x t k g a b r q n h hl aa bb blk wr cb tag wrs
  refine ⟨fun hal hin hport hbind htc hallow hpas h3 hten htn hrr hroom h0 hn hfree hres hlow => ?_, fun hq =>
    ⟨exec_qpconnect_defers h r hl hq, exec_qpdisc_defers h r hl hq, exec_qpdestroy_logs h r hl hq, fun hal hin hok hst => ⟨?_, ?_⟩,
      fun hn => ⟨exec_qpnote_empty h r hl hq hn, exec_qpnote_waits h r hl hq hn⟩, fun w ws hn => ?_,
      exec_charmArm_defers h r hl hq rfl rfl rfl, fun c => exec_charmDisarm h r hl hq⟩⟩
  · obtain ⟨u, e, hu, hst, hlog, t', hp', hrv, ht⟩ :=
      exec_qpcreate_creates h r hl rfl hal hin hport hbind htc hallow hpas h3 hten htn hrr hroom h0 hn hfree hres hlow
    rw [hl, List.nil_append] at hlog
    exact ⟨u, e, hu, hst, hlog, t', hp', by rw [ht], hrv⟩
  · exact exec_qppost_logs h r hl rfl hal hin hok hq hst
  · obtain ⟨u, e, hu, hstd, t', hp', hq'⟩ := exec_qppost_posts h r hl rfl hal hin hok hq hst
    exact ⟨u, e, t', _, hu, hstd, hp', hq', rfl⟩
  · obtain ⟨u, e, hu, hst, hnotes, t', hp', hq'⟩ := exec_qpnote_takes h r true hl hq hn
    exact ⟨u, e, t', hu, hst, hnotes, hp', hq'⟩

end Sys2Proof.Machine
end

section
/-! SUPPORT. Prefix matches, lookups and keys (17 R377, R378, 05 R111, R112): a hit whose group stands in T0 is pinned and touched, and
nothing else of the partition changes. -/

namespace Sys2Proof.Machine
open Sys2Proof.Cert

/-- The group of a slot, where there is one, stands in T0 and in no move. -/
def State.Homed (s : State) (p : Part) (g : Nat) : Prop := ∀ r, s.group? p g = some r → r.tier = .t0 ∧ r.move = .idle

theorem State.meet_homed {s : State} {p : Part} {g : Nat} (hg : s.Homed p g) (home prio me : Nat) (sess : Option Nat) (b : Bool) :
    s.meet p g home prio me sess b = (s, .ready) := by
  unfold State.meet
  split
  next => rfl
  next r hr => obtain ⟨ht, hm⟩ := hg r hr; exact if_pos (by simp [ht, hm])
theorem State.unreachable_of_homed {s : State} {p : Part} {g : Nat} (hg : s.Homed p g) : s.unreachable p g = false := by
  unfold State.unreachable
  cases hr : s.group? p g with
  | none => rfl
  | some r => simp [(hg r hr).1]
theorem State.Homed.updP {s : State} {p : Part} {g : Nat} {f : Partition → Partition} {n : Nat} {φ : Partition → Group → Group}
    (hg : s.Homed p g) (hf : ∀ t, (f t).groups = t.groups.upd n (φ t)) (hφ : ∀ t r, (φ t r).tier = r.tier ∧ (φ t r).move = r.move) :
    (s.updP p f).Homed p g := by
  intro r hr
  rw [State.group?, State.prt_updP_self] at hr
  obtain ⟨t', ht', hr⟩ := Option.bind_eq_some_iff.1 hr
  obtain ⟨t, hp, rfl⟩ := Option.map_eq_some_iff.1 ht'
  rw [hf, Tab.find_upd] at hr
  split at hr
  · obtain ⟨q, hq, rfl⟩ := Option.map_eq_some_iff.1 hr
    rw [(hφ t q).1, (hφ t q).2]
    exact hg q (by rw [State.group?, hp]; exact hq)
  · exact hg r (by rw [State.group?, hp]; exact hr)
theorem State.Homed.pinHit {s : State} {p : Part} {g : Nat} (hg : s.Homed p g) (num : Nat) : (s.pinHit p num g).Homed p g := by
  have hpin : (s.pinFor p num g).Homed p g := by
    unfold State.pinFor
    split
    · exact hg
    · exact hg.updP (fun _ => rfl) fun _ _ => ⟨rfl, rfl⟩
  exact hpin.updP (fun _ => rfl) fun _ _ => ⟨rfl, rfl⟩
@[simp] theorem State.apart_pinHit (s : State) (p : Part) (num g : Nat) : (s.pinHit p num g).apart p = s.apart p := by
  rw [State.pinHit, State.apart_touch, State.apart_pinFor]

/-- A lookup's group that stands in T0 is given as it is. -/
theorem State.takeHit_homed {s : State} {p : Part} {h : Handle} (hg : s.Homed p (hIndex h)) (k : Step) (promote : Bool) :
    s.takeHit p k h promote = (s.pinHit p k.num (hIndex h), .group h) := by
  unfold State.takeHit
  dsimp only
  split
  · rfl
  · rw [State.meet_homed (hg.pinHit k.num)]
/-- A probe that finds a node of the partition itself, whose group stands in T0. -/
theorem State.probe_homed {s s' : State} {x : StepRef} {m : ModelDesc} {dom : BitVec 16} {key : Key128} {n : Nat} {t' : Partition} {nd : Node}
    (hlook : s.lookup x.part dom m.modelId key = (s', some (x.part, n))) (hp : s'.prt x.part = some t') (hn : t'.nodes.find n = some nd)
    (hg : s'.Homed x.part (hIndex nd.group)) (k : Step) (parent : Handle) (promote : Bool) :
    s.probe x k m dom key parent promote = (s'.pinHit x.part k.num (hIndex nd.group), some (x.part, n, .group nd.group)) := by
  unfold State.probe
  simp only [hlook, if_true, hp, Option.bind_some, hn, State.unreachable_of_homed hg, State.takeHit_homed hg]
  rfl
theorem State.probe_miss {s s' : State} {x : StepRef} {m : ModelDesc} {dom : BitVec 16} {key : Key128}
    (hlook : s.lookup x.part dom m.modelId key = (s', none)) (k : Step) (parent : Handle) (promote : Bool) :
    s.probe x k m dom key parent promote = (s', none) := by
  unfold State.probe
  simp only [hlook]

/-- Partitions that are alike apart from their groups hold the same nodes. -/
theorem Partition.nodeOf_of_apart {u t : Partition} (h : u.apart = t.apart) (key : Key128) (dom model : BitVec 16) :
    u.nodeOf key dom model = t.nodeOf key dom model := by
  have hnodes : u.nodes = t.nodes := (congrArg (fun a => a.nodes) h :)
  rw [Partition.nodeOf, Partition.nodeOf, hnodes]
theorem Step.ctx_of_apart {k e : Step} (h : e.apart = k.apart) : e.ctx = k.ctx := (congrArg (fun a => a.ctx) h :)

theorem State.keyOf_of_stored {sq : Sequence} {b : Nat} {key : Key128} (h : sq.keys.find b = some key) (s : State) (p : Part)
    (dom model : BitVec 16) : s.keyOf p sq dom model b = key := by
  cases b with
  | zero => rw [State.keyOf, h]
  | succ b => rw [State.keyOf, h]

section
variable {s : State} {x : StepRef} {t : Partition} {k : Step} {g : Program} (h : Running s x t k g)
include h

/-! ### PXMATCH (R112) -/

/-- A step of a request that may match: it is the first of its request, and its sequence holds nothing. -/
def MayMatch (t : Partition) (k : Step) (sq : Sequence) (l : Live) : Prop :=
  k.idx = 0 ∧ k.kind = 0 ∧ t.liveOf k.q k.cid = some l ∧ l.req.isSome = true ∧ sq.committed = 0 ∧ sq.table = []

omit h in
theorem MayMatch.not_refused {sq : Sequence} {l : Live} (hm : MayMatch t k sq l) :
    ¬ (k.idx ≠ 0 ∨ k.kind ≠ 0 ∨ (!(t.liveOf k.q k.cid).any fun l => l.req.isSome) = true ∨ sq.committed ≠ 0 ∨ (!sq.table.isEmpty) = true) := by
  obtain ⟨hi, hk, hl, hr, hc, ht⟩ := hm
  simp [hi, hk, hl, hr, hc, ht]
theorem exec_pxmatch_noDomain {hr : HReg} {a b : GReg} {sq : Sequence} {ss : Session} {m : ModelDesc} {l : Live} (r : Bool)
    (hc : Passes t x k kSequence (k.ctx.rh hr)) (hq : t.sequences.find (hIndex (k.ctx.rh hr)) = some sq)
    (hs : t.sessions.find (hIndex sq.sess) = some ss) (hm : t.model? ss.model = some m) (hmay : MayMatch t k sq l) (hd : ss.domain = 0) :
    exec (.pxmatch x r hr a b) s = goesOn s x k (k.ctx.wg b 0) := by
  refine State.issue_with_goesOn h hc rfl ?_ (Ctx.wg_pc ..)
  simp only [iss, hq, Option.bind_some, hs, hm, Option.map_some]
  exact (if_neg hmay.not_refused).trans (if_pos hd)
theorem exec_pxmatch_nothing {hr : HReg} {a b : GReg} {sq : Sequence} {ss : Session} {m : ModelDesc} {l : Live} (r : Bool)
    (hc : Passes t x k kSequence (k.ctx.rh hr)) (hq : t.sequences.find (hIndex (k.ctx.rh hr)) = some sq)
    (hs : t.sessions.find (hIndex sq.sess) = some ss) (hm : t.model? ss.model = some m) (hmay : MayMatch t k sq l)
    (hmem : s.domMember x.part ss.domain = true) (hf : Fresh k [k.ctx.rh hr, k.ctx.rg a]) (hd : ss.domain ≠ 0)
    (het : s.isEt ss.domain = false) (had : (k.ctx.rg a).toNat ≤ 64) :
    exec (.pxmatch x r hr a b) s = goesLogging s x k (k.ctx.wg b 0) [.setLen (hIndex (k.ctx.rh hr)) 0 sq.rc] := by
  have hzero : ∀ n : Nat, min (((k.ctx.rg a).toNat - 1) / 64) n = 0 := fun n => by omega
  refine State.issue_logs h ((Iss.with_passes hc ..).trans ?_) (Ctx.wg_pc ..)
  have ht : (iss s x t k g).taken [k.ctx.rh hr, k.ctx.rg a] = none := Iss.taken_of_fresh hf
  simp only [iss] at ht ⊢
  simp only [hq, Option.bind_some, hs, hm, Option.map_some]
  refine (if_neg hmay.not_refused).trans ((if_neg hd).trans ((if_neg (by simp [hmem])).trans ?_))
  simp only [ht, hzero, promptKeys, State.matchWalk, het]
  rfl

/-! ### PXLOOK (R111) -/

theorem exec_pxlook_noDomain {d hr : HReg} {a b : GReg} {ss : Session} {m : ModelDesc} (r : Bool)
    (hc : Passes t x k kSession (k.ctx.rh hr)) (hal : (k.ctx.rg a).toNat % 8 = 0) (hin : (k.ctx.rg a).toNat + 16 ≤ 0x6000)
    (hs : t.sessOf k (hIndex (k.ctx.rh hr)) = some ss) (hm : t.model? ss.model = some m) (hd : ss.domain = 0) :
    exec (.pxlook x r d hr a b) s = goesOn s x k ((k.ctx.wg b 0).wh d 0) := by
  refine State.issue_with_goesOn h hc rfl ((if_neg (by simp [iss, localOk_of_scratch hal hin])).trans ?_) (Ctx.wg_pc ..)
  simp only [iss, hs, hm]
  exact if_pos hd
/-- What PXLOOK's probe leads to, for a member's session outside equal time. -/
theorem pxlook_probed {d hr : HReg} {a b : GReg} {ss : Session} {m : ModelDesc} (r : Bool)
    (hc : Passes t x k kSession (k.ctx.rh hr)) (hal : (k.ctx.rg a).toNat % 8 = 0) (hin : (k.ctx.rg a).toNat + 16 ≤ 0x6000)
    (hs : t.sessOf k (hIndex (k.ctx.rh hr)) = some ss) (hm : t.model? ss.model = some m) (hd : ss.domain ≠ 0)
    (hmem : s.domMember x.part ss.domain = true) (het : s.isEt ss.domain = false) (hf : Fresh k [k.ctx.rh hr, k.ctx.rg a])
    {key : Key128} (hkey : BitVec.ofNat 128 (leNat (k.peek g.data (k.ctx.rg a).toNat 16)) = key) {u : State} {c : Ctx}
    (hres : s.probe x k m ss.domain key 0 true = (u, none) ∧ c = (k.ctx.wg b 0).wh d 0
      ∨ ∃ o n v, s.probe x k m ss.domain key 0 true = (u, some (o, n, .group v))
        ∧ c = (k.ctx.wg b 1).wh d (u.getP x.part 0 fun t => t.nodeOf key ss.domain m.modelId)) :
    exec (.pxlook x r d hr a b) s = .next (u.updStep x fun e => { e with ctx := { c with pc := k.ctx.pc + 8 } }) := by
  have hpc : c.pc = k.ctx.pc := by
    rcases hres with ⟨-, rfl⟩ | ⟨o, n, v, -, rfl⟩
    · exact Ctx.wg_pc ..
    · exact Ctx.wg_pc ..
  rw [← hpc]
  refine congrArg Host.Outcome.next (State.issue_of_done h _ r ((Iss.with_passes hc ..).trans
    ((if_neg (by simp [iss, localOk_of_scratch hal hin])).trans ?_)))
  have ht : (iss s x t k g).taken [k.ctx.rh hr, k.ctx.rg a] = none := Iss.taken_of_fresh hf
  simp only [iss] at ht ⊢
  simp only [hs, hm]
  refine (if_neg hd).trans ((if_neg (by simp [hmem])).trans ?_)
  simp only [ht, hkey]
  rcases hres with ⟨hp, rfl⟩ | ⟨o, n, v, hp, rfl⟩
  · simp only [hp, het]
    rfl
  · simp only [hp, het]
    rfl

/-! ### PXKEY -/

theorem exec_pxkey_stores {hr : HReg} {a b : GReg} {sq : Sequence} {ss : Session} {key : Key128} (r : Bool)
    (hc : Passes t x k kSequence (k.ctx.rh hr)) (hlen : (k.ctx.rg a).toNat < (t.lenOf k (hIndex (k.ctx.rh hr))).1 / 64) (hl : k.log = [])
    (hq : t.sequences.find (hIndex (k.ctx.rh hr)) = some sq) (hs : t.sessions.find (hIndex sq.sess) = some ss)
    (hkey : sq.keys.find (k.ctx.rg a).toNat = some key) (hal : (k.ctx.rg b).toNat % 8 = 0) (hin : (k.ctx.rg b).toNat + 16 ≤ 0x6000) :
    ∃ e, Stored k e g (k.ctx.rg b).toNat 16 key ∧ exec (.pxkey x r hr a b) s = .next (s.updStep x fun _ => e) := by
  refine ⟨_, stored_word hin, State.issue_updStep h (f := fun e => e.poke (k.ctx.rg b).toNat (toLe key.toNat 16)) (c := k.ctx)
    ((Iss.with_passes hc ..).trans ((if_neg ?_).trans ((if_neg ?_).trans ?_))) rfl⟩
  · exact Nat.not_le.2 hlen
  · simp [iss, localWrOk_iff.2 ⟨hal, hin⟩]
  · simp only [iss, hl, List.foldl_nil, Partition.seqOf_of_log_nil hl, Partition.sessOf_of_log_nil hl, hq, hs, State.keyOf_of_stored hkey]
end

/-- Settles O16: the match of no block, the lookup by what its probe gives, and the key of a committed block. -/
theorem prefixResults : Obligations.PrefixResults := by
  unfold Obligations.PrefixResults
  intro s s' x t t' k g hr d a b r sq ss m l h hs ix ad zero key
  refine ⟨fun hc hq hss hm hi hk hl hreq hcom htab => ?_, fun hc hal hin hss hm => ⟨exec_pxlook_noDomain h r hc hal hin hss hm, ?_, ?_⟩,
    fun kk hc hlen hl hq hss hkey hal hin => exec_pxkey_stores h r hc hlen hl hq hss hkey hal hin⟩
  · have hmay : MayMatch t k sq l := ⟨hi, hk, hl, hreq, hcom, htab⟩
    exact ⟨exec_pxmatch_noDomain h r hc hq hss hm hmay, exec_pxmatch_nothing h r hc hq hss hm hmay⟩
  · intro hd hmem het hf hlook
    exact pxlook_probed h r hc hal hin hss hm hd hmem het hf rfl (.inl ⟨State.probe_miss hlook .., rfl⟩)
  · intro n nd hd hmem het hf hlook hp hn hstep hg
    have hhome : s'.Homed x.part (hIndex nd.group) := fun q hq => hg q (by rw [State.group?, hp] at hq; exact hq)
    have hapart := State.apart_pinHit s' x.part k.num (hIndex nd.group)
    obtain ⟨v, hv, hva⟩ := State.apart_eq_some (hapart.trans (by rw [State.apart, hp, Option.map_some]))
    obtain ⟨e, he, hea⟩ := Partition.step_of_apart hva (show t'.steps.find x.num = some k by rw [State.step?, hp] at hstep; exact hstep)
    have hnode : (s'.pinHit x.part k.num (hIndex nd.group)).getP x.part 0 (fun t => t.nodeOf key ss.domain m.modelId)
        = t'.nodeOf key ss.domain m.modelId := by
      rw [State.getP, hv]; exact Partition.nodeOf_of_apart hva ..
    refine ⟨_, { e with ctx := { (k.ctx.wg b 1).wh d (t'.nodeOf key ss.domain m.modelId) with pc := k.ctx.pc + 8 } }, pxlook_probed h r hc hal hin hss hm hd hmem het hf rfl (c := (k.ctx.wg b 1).wh d (t'.nodeOf key ss.domain m.modelId))
      (.inr ⟨_, _, _, State.probe_homed hlook hp hn hhome k 0 true, by rw [hnode]⟩), ?_, rfl⟩
    rw [State.step?_updStep_self, State.step?_of_prt hv, he]
    rfl

end Sys2Proof.Machine
end

section
/-! SUPPORT. SAMPLE in a follower's and in a lead's decode step, and the word of SMPRES (17 R392, R393, Table 17-10). -/

namespace Sys2Proof.Machine
open Sys2Proof.Cert

/-- The candidates of a row of a LOGITS record's body, of a step with some drafts (08 R178). -/
def rowCands (m : ModelDesc) (body : List Byte) (drafts i : Nat) : List (Nat × Option Fl) :=
  (logitRow m.vocab (fld body 2 1) (fld body 3 1) (fld body 0xC 4) (body.drop (16 + 4 * drafts)) i).1
/-- The word of Table 17-10: what a step has sampled, and the tokens that its request had emitted before. -/
def SampleRes.word (e : SampleRes) (before : Nat) : Nat :=
  (before + e.tokens.length) % 2 ^ 32 * 2 ^ 32 + e.index % 256 * 2 ^ 24 + e.reason * 65536 + e.accepted % 256 * 256 + e.tokens.length % 256
/-- The five fields of a word of the form of Table 17-10. -/
theorem sampleWord_fields {n i r a c : Nat} (hn : n < 2 ^ 32) (hi : i < 256) (hr : r < 256) (ha : a < 256) (hc : c < 256) :
    let w := n * 2 ^ 32 + i * 2 ^ 24 + r * 65536 + a * 256 + c
    w < 2 ^ 64 ∧ w / 2 ^ 0 % 2 ^ 8 = c ∧ w / 2 ^ 8 % 2 ^ 8 = a ∧ w / 2 ^ 16 % 2 ^ 8 = r ∧ w / 2 ^ 24 % 2 ^ 8 = i ∧ w / 2 ^ 32 % 2 ^ 32 = n := by
  omega
theorem SampleRes.word_fields {e : SampleRes} (hr : e.reason < 256) (before : Nat) :
    let v := BitVec.ofNat 64 (e.word before)
    v.extractLsb' 0 8 = BitVec.ofNat 8 e.tokens.length ∧ v.extractLsb' 8 8 = BitVec.ofNat 8 e.accepted
      ∧ v.extractLsb' 16 8 = BitVec.ofNat 8 e.reason ∧ v.extractLsb' 24 8 = BitVec.ofNat 8 e.index
      ∧ v.extractLsb' 32 32 = BitVec.ofNat 32 (before + e.tokens.length) := by
  obtain ⟨hlt, h0, h8, h16, h24, h32⟩ := sampleWord_fields (Nat.mod_lt (before + e.tokens.length) (by decide : 2 ^ 32 > 0))
    (Nat.mod_lt e.index (by decide : 256 > 0)) hr (Nat.mod_lt e.accepted (by decide : 256 > 0))
    (Nat.mod_lt e.tokens.length (by decide : 256 > 0))
  unfold SampleRes.word
  exact ⟨extractLsb'_ofNat_of_lt hlt h0, extractLsb'_ofNat_of_lt hlt h8,
    extractLsb'_ofNat_of_lt hlt (h16.trans (Nat.mod_eq_of_lt hr).symm), extractLsb'_ofNat_of_lt hlt h24, extractLsb'_ofNat_of_lt hlt h32⟩

section
variable {s : State} {x : StepRef} {t : Partition} {k : Step} {g : Program} (h : Running s x t k g)

/-- A decode step samples, once, for the session of its handle. -/
theorem Iss.may_sample {hs : Handle} (hk : k.kind = 2) (hsam : k.sampled = none) (hh : hs = k.h0) :
    ¬ (!(iss s x t k g).samples || k.sampled.isSome || decide (hs ≠ k.h0)) = true := by
  simp [Iss.samples, iss, hk, hsam, hh]
include h

theorem exec_sample_follower {hr : HReg} {a b : GReg} (r : Bool) (hk : k.kind = 2) (hc : Passes t x k kSession (k.ctx.rh hr))
    (hsam : k.sampled = none) (hh : k.ctx.rh hr = k.h0) (hf : t.follows k = true) :
    ∃ u e, exec (.sample x r hr a b) s = .next u ∧ Stands u x k e (k.ctx.wg a 0) ∧ e.sampled = some ⟨[], 0, 0, 0, 0, [], 0⟩ := by
  refine State.issue_stands h (u := s.updStep x fun e => { e with sampled := some ⟨[], 0, 0, 0, 0, [], 0⟩ })
    ((Iss.with_passes hc ..).trans ((if_neg (Iss.may_sample hk hsam hh)).trans (if_pos hf))) (Ctx.wg_pc ..)
    (State.step?_updStep_of_running h _) rfl
theorem exec_sample_lead {hr : HReg} {a b : GReg} {rq : Req} {l : Live} {ln : Lane} {w : Wave} {m : ModelDesc} {sq : Sequence} {c : BufMsg}
    {n : Nat} {res : SampleRes} (r : Bool) (hk : k.kind = 2) (hc : Passes t x k kSession (k.ctx.rh hr)) (hsam : k.sampled = none)
    (hh : k.ctx.rh hr = k.h0) (hf : t.follows k = false) (htok : k.tokenMsg (k.ctx.rg b) = some c) (hty : c.mtype = mtLogits)
    (hm : t.stepModel k = some m) (hl : t.liveOf k.q k.cid = some l) (hrq : l.req = some rq) (hw : t.waveOf k = some w)
    (hln : w.lanes[k.lane]? = some ln) (hq : k.seq.bind t.sequences.find = some sq) (hn : k.appended.map (·.2) = some n) (h0 : 0 < n)
    (hok : logitsOk m c.body (k.drafts.length + 1) ln.hgSeq ln.pos n k.drafts = true)
    (hres : rq.sampleRows (rowCands m c.body k.drafts.length) k.drafts n ln.pos (t.limit sq) false n 0 ⟨[], 1, 0, 0, 0, rq.counts, 0⟩
      = some res) :
    ∃ u e, exec (.sample x r hr a b) s = .next u ∧ Stands u x k e (k.ctx.wg a (BitVec.ofNat 64 (res.tokens.getLastD 0)))
      ∧ e.sampled = some res := by
  refine State.issue_stands h (e := { k with sampled := some res })
    (u := (s.updStep x fun e => { e with sampled := some res }).count x.part cNonfiniteIn ((List.range n).map fun i =>
      (logitRow m.vocab (fld c.body 2 1) (fld c.body 3 1) (fld c.body 0xC 4) (c.body.drop (16 + 4 * k.drafts.length)) i).2).sum)
    ((Iss.with_passes hc ..).trans ((if_neg (Iss.may_sample hk hsam hh)).trans ((if_neg (by simp [iss, hf])).trans ?_)))
    (Ctx.wg_pc ..) ?_ rfl
  · have hlane : (t.waveOf k).bind (fun w => w.lanes[k.lane]?) = some ln := by rw [hw]; exact hln
    simp only [iss, htok, hm, hl, Option.bind_some, hrq, hlane, hq, hk, hn, Option.getD_some, show ((2 : Nat) == 1) = false from rfl,
      Bool.false_eq_true, if_false, Nat.add_sub_cancel, hok]
    refine (if_neg (by simp [hty]; omega)).trans ((if_neg (by decide)).trans ?_)
    unfold rowCands at hres
    simp only [hres]
  · rw [State.step?_count, State.step?_updStep_of_running h]

/-! ### SMPRES (R393) -/

theorem exec_smpres_none (r : Bool) (a : GReg) (hsam : k.sampled = none) : exec (.smpres x r a) s = goesOn s x k (k.ctx.wg a 0) := by
  refine State.issue_goesOn h ?_ (Ctx.wg_pc ..)
  simp only [iss, hsam]
  rfl
theorem exec_smpres_lead {a : GReg} {rq : Req} {l : Live} {res : SampleRes} (r : Bool) (hf : t.follows k = false)
    (hsam : k.sampled = some res) (hl : t.liveOf k.q k.cid = some l) (hrq : l.req = some rq) :
    exec (.smpres x r a) s = goesOn s x k (k.ctx.wg a (BitVec.ofNat 64 (res.word rq.emitted.length))) := by
  refine State.issue_goesOn h ?_ (Ctx.wg_pc ..)
  simp only [iss, hsam, hf, hl, Option.bind_some, hrq, Option.map_some, Option.getD_some]
  rfl
end

/-- Settles O23: a follower's SAMPLE, a lead's by what its rows decide, and SMPRES by what was sampled. -/
theorem samplerResults : Obligations.SamplerResults := by
  unfold Obligations.SamplerResults
  intro s x t k g hr a b r rq l ln w m sq c n res h hk hs npos body rows
  refine ⟨exec_sample_follower h r hk, fun hc hsam hh hf htok hty hm hl hrq hw hln hq hn h0 hok hres => ?_, exec_smpres_none h r a,
    fun hf hsam hl hrq hr => ⟨_, exec_smpres_lead h r hf hsam hl hrq, SampleRes.word_fields hr _⟩⟩
  obtain ⟨u, e, hu, hst, he⟩ := exec_sample_lead h r hk hc hsam hh hf htok hty hm hl hrq hw hln hq hn h0 hok hres
  exact ⟨u, e, hu, he, hst⟩

end Sys2Proof.Machine
end

section
/-! SUPPORT. Walks over blocks that are homed in T0 (17 R375): each group is pinned for the step and touched, and nothing else of the
partition changes. -/

namespace Sys2Proof.Machine
open Sys2Proof.Cert

/-! ### A group that is met in T0 -/

/-- A partition whose group a step has met: it is pinned, where the step holds no pin on it, and touched. -/
def Partition.hit (t : Partition) (num g : Nat) : Partition :=
  (if (t.steps.find num).any fun k => k.pins.contains g then t
    else { t with groups := t.groups.upd g fun r => { r with pins := r.pins + 1 }
                  steps := t.steps.upd num fun k => { k with pins := k.pins ++ [g] } }).touchG g
theorem State.prt_pinHit {s : State} {p : Part} {t : Partition} (hp : s.prt p = some t) (num g : Nat) :
    (s.pinHit p num g).prt p = some (t.hit num g) := by
  unfold State.pinHit State.pinFor Partition.hit
  rw [State.getP, hp]
  dsimp only
  split
  · exact State.prt_updP_of_prt hp _
  · exact State.prt_updP_of_prt (State.prt_updP_of_prt hp _) _
theorem State.walkGroup_homed {s : State} {p : Part} {g : Nat} (hg : s.Homed p g) (k : Step) :
    s.walkGroup p k g = (s.pinHit p k.num g, .ready) := State.meet_homed (hg.pinHit k.num) ..

/-- A meeting changes the groups and the steps of a partition alone. -/
theorem Partition.hit_eq (t : Partition) (num g : Nat) :
    t.hit num g = { t with groups := (t.hit num g).groups, steps := (t.hit num g).steps } := by
  unfold Partition.hit
  split <;> rfl
theorem Partition.find_steps_hit {t : Partition} {num : Nat} {e : Step} (he : t.steps.find num = some e) (g : Nat) :
    (t.hit num g).steps.find num = some { e with pins := if g ∈ e.pins then e.pins else e.pins ++ [g] } := by
  unfold Partition.hit
  rw [he]
  by_cases hg : g ∈ e.pins
  · simp [Partition.touchG, hg, he]
  · simp [Partition.touchG, hg, he]
theorem Partition.find_groups_hit {t : Partition} {num g : Nat} {e : Step} {q : Group} (he : t.steps.find num = some e)
    (hq : t.groups.find g = some q) :
    (t.hit num g).groups.find g = some { q with touch := t.epoch q.tier, pins := q.pins + if g ∈ e.pins then 0 else 1 } := by
  unfold Partition.hit
  rw [he]
  by_cases hg : g ∈ e.pins
  · simp [Partition.touchG, hg, hq]
  · simp [Partition.touchG, hg, hq, Partition.epoch]
theorem Partition.find_groups_hit_ne {t : Partition} {num g n : Nat} (hn : n ≠ g) : (t.hit num g).groups.find n = t.groups.find n := by
  unfold Partition.hit
  split
  · simp [Partition.touchG, Tab.find_upd, hn]
  · simp [Partition.touchG, Tab.find_upd, hn]
@[simp] theorem Partition.epoch_hit (t : Partition) (num g : Nat) (a : Tier) : (t.hit num g).epoch a = t.epoch a := by
  rw [Partition.hit_eq]; rfl
@[simp] theorem Partition.entryOf_hit (t : Partition) (num g : Nat) (k : Step) (seq b : Nat) :
    (t.hit num g).entryOf k seq b = t.entryOf k seq b := by
  rw [Partition.hit_eq]; rfl

/-- A group of a partition that stands in T0 and in no move. -/
def Partition.HomeGroup (t : Partition) (g : Nat) : Prop := ∃ q, t.groups.find g = some q ∧ q.tier = .t0 ∧ q.move = .idle
theorem Partition.HomeGroup.homed {s : State} {p : Part} {t : Partition} {g : Nat} (h : t.HomeGroup g) (hp : s.prt p = some t) : s.Homed p g := by
  obtain ⟨q, hq, ht, hm⟩ := h
  intro r hr
  rw [State.group?_of_prt hp, hq, Option.some.injEq] at hr
  exact hr ▸ ⟨ht, hm⟩
theorem Partition.HomeGroup.hit {t : Partition} {num n : Nat} {e : Step} (he : t.steps.find num = some e) (h : t.HomeGroup n) (g : Nat) :
    (t.hit num g).HomeGroup n := by
  obtain ⟨q, hq, ht, hm⟩ := h
  by_cases hn : n = g
  · subst hn
    exact ⟨_, Partition.find_groups_hit he hq, ht, hm⟩
  · exact ⟨q, (Partition.find_groups_hit_ne hn).trans hq, ht, hm⟩

/-- A group that a walk of a step has met: the step pins it, and its touch is the epoch of T0. -/
def Partition.Walked (t : Partition) (num g : Nat) : Prop :=
  (∃ e, t.steps.find num = some e ∧ g ∈ e.pins) ∧ ∃ q, t.groups.find g = some q ∧ q.tier = .t0 ∧ q.touch = t.epoch .t0
theorem Partition.walked_hit {t : Partition} {num g : Nat} {e : Step} (he : t.steps.find num = some e) (h : t.HomeGroup g) :
    (t.hit num g).Walked num g := by
  obtain ⟨q, hq, ht, hm⟩ := h
  refine ⟨⟨_, Partition.find_steps_hit he g, ?_⟩, _, Partition.find_groups_hit he hq, ht, ?_⟩
  · by_cases hg : g ∈ e.pins <;> simp [hg]
  · rw [Partition.epoch_hit, ← ht]
theorem Partition.Walked.hit {t : Partition} {num n : Nat} (h : t.Walked num n) (g : Nat) : (t.hit num g).Walked num n := by
  obtain ⟨⟨e, he, hpin⟩, q, hq, ht, htouch⟩ := h
  refine ⟨⟨_, Partition.find_steps_hit he g, ?_⟩, ?_⟩
  · by_cases hg : g ∈ e.pins <;> simp [hg, hpin]
  · rw [Partition.epoch_hit]
    by_cases hn : n = g
    · subst hn
      exact ⟨_, Partition.find_groups_hit he hq, ht, by rw [ht]⟩
    · exact ⟨q, (Partition.find_groups_hit_ne hn).trans hq, ht, htouch⟩

/-! ### A walk -/

/-- What a walk of step `num` leaves of a partition: pins of the step, and groups that were met. -/
structure Partition.WalkOf (t' t : Partition) (num : Nat) (e : Step) : Prop where
  rest : t' = { t with groups := t'.groups, steps := t'.steps }
  step : ∃ pins, t'.steps.find num = some { e with pins := pins }
  home : ∀ n, t.HomeGroup n → t'.HomeGroup n
  walked : ∀ n, t.Walked num n → t'.Walked num n

theorem Partition.walkOf_refl {t : Partition} {num : Nat} {e : Step} (he : t.steps.find num = some e) : t.WalkOf t num e :=
  ⟨rfl, ⟨e.pins, he⟩, fun _ h => h, fun _ h => h⟩
theorem Partition.WalkOf.after_hit {t' t : Partition} {num : Nat} {e : Step} {g : Nat} (he : t.steps.find num = some e)
    (h : t'.WalkOf (t.hit num g) num { e with pins := if g ∈ e.pins then e.pins else e.pins ++ [g] }) : t'.WalkOf t num e := by
  obtain ⟨hrest, ⟨pins, hstep⟩, hhome, hwalked⟩ := h
  refine ⟨?_, ⟨pins, hstep⟩, fun n hn => hhome n (hn.hit he g), fun n hn => hwalked n (hn.hit g)⟩
  rw [hrest, Partition.hit_eq]

/-- A walk over blocks that are homed in T0 ends well, counts none, and has met the group of each. -/
theorem State.walkBlocks_home {p : Part} {k : Step} {seq : Nat} {bs : List Nat} (n : Nat) {s : State} {t : Partition} {e : Step}
    (hp : s.prt p = some t) (he : t.steps.find k.num = some e)
    (hb : ∀ b ∈ bs, ∃ v, t.entryOf k seq b = some v ∧ v ≠ 0 ∧ t.HomeGroup (hIndex v)) :
    ∃ u t', s.walkBlocks p k seq bs n = (u, .fine, n) ∧ u.prt p = some t' ∧ t'.WalkOf t k.num e
      ∧ ∀ b ∈ bs, ∀ v, t.entryOf k seq b = some v → t'.Walked k.num (hIndex v) := by
  induction bs generalizing s t e with
  | nil => exact ⟨s, t, rfl, hp, Partition.walkOf_refl he, fun b hb => absurd hb List.not_mem_nil⟩
  | cons b bs ih =>
    obtain ⟨v, hv, hv0, hhome⟩ := hb b List.mem_cons_self
    have hout : (s.group? p (hIndex v)).any (fun g => g.tier != .t0) = false := by
      obtain ⟨q, hq, ht, -⟩ := hhome
      rw [State.group?_of_prt hp, hq]
      simp [ht]
    obtain ⟨u, t', hu, hp', hw, hall⟩ := ih (State.prt_pinHit hp k.num (hIndex v)) (Partition.find_steps_hit he (hIndex v)) fun c hc => by
      obtain ⟨w, hw, hw0, hh⟩ := hb c (List.mem_cons_of_mem _ hc)
      exact ⟨w, (Partition.entryOf_hit ..).trans hw, hw0, hh.hit he _⟩
    refine ⟨u, t', ?_, hp', hw.after_hit he, fun c hc w hcw => ?_⟩
    · rw [← hu, State.walkBlocks, hp, Option.bind_some, hv]
      simp only [if_neg hv0, State.walkGroup_homed (hhome.homed hp), hout]
      rfl
    · rcases List.mem_cons.1 hc with rfl | hc
      · obtain rfl : v = w := Option.some.inj (hv.symm.trans hcw)
        exact hw.walked _ (Partition.walked_hit he hhome)
      · exact hall c hc w ((Partition.entryOf_hit ..).trans hcw)
theorem State.walkBlocks_dropped {s : State} {p : Part} {t : Partition} {k : Step} {seq b : Nat} (hp : s.prt p = some t)
    (hv : t.entryOf k seq b = some 0) (bs : List Nat) (n : Nat) : s.walkBlocks p k seq (b :: bs) n = (s, .dropped b, n) := by
  rw [State.walkBlocks, hp, Option.bind_some, hv]
  rfl

theorem mem_range_drop {n a b : Nat} : n ∈ (List.range b).drop a ↔ a ≤ n ∧ n < b := by
  simp only [List.mem_drop_iff_getElem, List.length_range, List.getElem_range]
  constructor
  · rintro ⟨i, hi, rfl⟩; omega
  · rintro ⟨ha, hb⟩; exact ⟨n - a, by omega, by omega⟩
theorem range_drop_eq_cons {a b : Nat} (h : a < b) : (List.range b).drop a = a :: (List.range b).drop (a + 1) := by
  rw [List.drop_eq_getElem_cons (by simpa using h), List.getElem_range]

section
variable {s : State} {x : StepRef} {t : Partition} {k : Step} {g : Program} (h : Running s x t k g)
include h

/-- The step that walks is the one that runs. -/
theorem find_num_of_running (hnum : k.num = x.num) : t.steps.find k.num = some k := by
  obtain ⟨-, hk, -⟩ := h
  rw [hnum]; exact hk

theorem exec_walk_home {hr : HReg} {a b : GReg} (r : Bool) (hnum : k.num = x.num) (hc : Passes t x k kSequence (k.ctx.rh hr))
    (hf : Fresh k [k.ctx.rh hr, k.ctx.rg a, k.ctx.rg b])
    (hall : ∀ n, (k.ctx.rg a).toNat ≤ n → n < min ((k.ctx.rg a).toNat + (k.ctx.rg b).toNat) (t.blocksOf k (hIndex (k.ctx.rh hr))) →
      ∃ e, HomeBlock t k (hIndex (k.ctx.rh hr)) n e) :
    ∃ u e, exec (.walk x r hr a b) s = .next u ∧ Stands u x k e (k.ctx.wg b 0)
      ∧ ∃ t', u.prt x.part = some t' ∧ t'.steps.find x.num = some e ∧ t'.epoch .t0 = t.epoch .t0
        ∧ ∀ n v, (k.ctx.rg a).toNat ≤ n → n < min ((k.ctx.rg a).toNat + (k.ctx.rg b).toNat) (t.blocksOf k (hIndex (k.ctx.rh hr))) →
          HomeBlock t k (hIndex (k.ctx.rh hr)) n v → t'.Walked x.num (hIndex v) := by
  obtain ⟨hp, -⟩ := id h
  obtain ⟨u, t', hu, hp', hw, hmet⟩ := State.walkBlocks_home (seq := hIndex (k.ctx.rh hr)) 0 hp (find_num_of_running h hnum)
    (bs := (List.range (min ((k.ctx.rg a).toNat + (k.ctx.rg b).toNat) (t.blocksOf k (hIndex (k.ctx.rh hr))))).drop (k.ctx.rg a).toNat)
    fun n hn => by
      obtain ⟨hlo, hhi⟩ := mem_range_drop.1 hn
      obtain ⟨v, hv⟩ := hall n hlo hhi
      exact ⟨v, hv⟩
  obtain ⟨pins, hstep0⟩ := hw.step
  have hstep := (congrArg t'.steps.find hnum.symm).trans hstep0
  refine State.issue_stands h (u := u) ((Iss.with_passes hc ..).trans ((Iss.taken_match hf _ _).trans ?_)) (Ctx.wg_pc ..)
    ((State.step?_of_prt hp').trans hstep) ?_
  · simp only [iss, hu]
    rfl
  · obtain ⟨w, hw', hfr, -⟩ := State.prt_updStep_frame x (fun e => { e with ctx := { k.ctx.wg b 0 with pc := k.ctx.pc + 8 } }) hp'
    have hsw : w.steps.find x.num = some { k with pins := pins, ctx := { k.ctx.wg b 0 with pc := k.ctx.pc + 8 } } := by
      rw [← State.step?_of_prt hw', State.step?_updStep_self, State.step?_of_prt hp', hstep]; rfl
    have hgroups : w.groups = t'.groups := by rw [hfr]
    have hepoch : w.epoch .t0 = t'.epoch .t0 := by rw [hfr]; rfl
    refine ⟨w, hw', hsw, hepoch.trans (by rw [hw.rest]; rfl), fun n v hlo hhi hv => ?_⟩
    obtain ⟨⟨e, he, hpin⟩, q, hq, ht, htouch⟩ := hmet n (mem_range_drop.2 ⟨hlo, hhi⟩) v hv.1
    obtain rfl := Option.some.inj (hstep0.symm.trans he)
    exact ⟨⟨_, hsw, hpin⟩, q, hgroups ▸ hq, ht, hepoch ▸ htouch⟩
theorem exec_walk_dropped {hr : HReg} {a b : GReg} (r : Bool) (hc : Passes t x k kSequence (k.ctx.rh hr))
    (hf : Fresh k [k.ctx.rh hr, k.ctx.rg a, k.ctx.rg b])
    (hlt : (k.ctx.rg a).toNat < min ((k.ctx.rg a).toNat + (k.ctx.rg b).toNat) (t.blocksOf k (hIndex (k.ctx.rh hr))))
    (hv : t.entryOf k (hIndex (k.ctx.rh hr)) (k.ctx.rg a).toNat = some 0) :
    exec (.walk x r hr a b) s
      = refused s x k r .recomputeRequired ((k.ctx.wg a (BitVec.ofNat 64 (k.ctx.rg a).toNat)).wg b 0) := by
  obtain ⟨hp, -⟩ := id h
  refine State.issue_refused h ((Iss.with_passes hc ..).trans ((Iss.taken_match hf _ _).trans ?_)) (by rw [Ctx.wg_pc, Ctx.wg_pc])
  simp only [iss, range_drop_eq_cons hlt, State.walkBlocks_dropped hp hv]
  rfl

/-- A page instruction of the same operands has not been done in run-ahead. -/
theorem exec_pgpromote_home {hr : HReg} {q : Group} (r : Bool) (hnum : k.num = x.num) (hc : Passes t x k kGroup (k.ctx.rh hr))
    (hf : Fresh k [k.ctx.rh hr]) (hq : t.groups.find (hIndex (k.ctx.rh hr)) = some q) (ht : q.tier = .t0) (hm : q.move = .idle) :
    ∃ u e, exec (.pgpromote x r hr) s = .next u ∧ Stands u x k e k.ctx ∧ hIndex (k.ctx.rh hr) ∈ e.pins
      ∧ u.group? x.part (hIndex (k.ctx.rh hr))
        = some { q with touch := t.epoch .t0, pins := q.pins + if hIndex (k.ctx.rh hr) ∈ k.pins then 0 else 1 } := by
  obtain ⟨hp, hk, -⟩ := id h
  have hhome : t.HomeGroup (hIndex (k.ctx.rh hr)) := ⟨q, hq, ht, hm⟩
  have hp' := State.prt_pinHit hp k.num (hIndex (k.ctx.rh hr))
  have hnt : ¬ ((iss s x t k g).taken [k.ctx.rh hr]).isSome = true := by rw [Iss.taken_of_fresh hf]; decide
  have hstep := Partition.find_steps_hit (find_num_of_running h hnum) (hIndex (k.ctx.rh hr))
  refine State.issue_stands h (u := s.pinHit x.part k.num (hIndex (k.ctx.rh hr))) ((Iss.with_passes hc ..).trans ((if_neg hnt).trans ?_)) rfl
    ((State.step?_of_prt hp').trans (by rw [← hnum]; exact hstep)) ⟨?_, ?_⟩
  · simp only [iss, State.walkGroup_homed (hhome.homed hp)]
    rfl
  · by_cases hg : hIndex (k.ctx.rh hr) ∈ k.pins <;> simp [hg]
  · rw [State.updStep, State.group?_updP_of_groups (f := fun t => { t with steps := t.steps.upd x.num _ }) fun _ => rfl,
      State.group?_of_prt hp', Partition.find_groups_hit (find_num_of_running h hnum) hq, ht]
theorem exec_pgdemote_logs {hr : HReg} {a : GReg} (r tgt : Bool) (hc : Passes t x k kGroup (k.ctx.rh hr)) (hf : Fresh k [k.ctx.rh hr]) :
    exec (.pgdemote x r hr a tgt) s = goesLogging s x k (k.ctx.wg a 1) [.demote (hIndex (k.ctx.rh hr)) tgt] := by
  have hnt : ¬ ((iss s x t k g).taken [k.ctx.rh hr]).isSome = true := by rw [Iss.taken_of_fresh hf]; decide
  exact State.issue_logs h ((Iss.with_passes hc ..).trans (if_neg hnt)) (Ctx.wg_pc ..)
end

/-- Settles O13: a walk that meets every group in T0, one that meets a dropped block first, and the two instructions on one group. -/
theorem walkResults : Obligations.WalkResults := by
  unfold Obligations.WalkResults
  intro s x t k g hr a b r tgt h hnum hs seq lo hi
  refine ⟨fun hc hf hall => ?_, exec_walk_dropped h r, fun q hc hf hq ht hm => exec_pgpromote_home h r hnum hc hf hq ht hm,
    exec_pgdemote_logs h r tgt⟩
  obtain ⟨u, e, hu, hst, t', hp', he, hep, hmet⟩ := exec_walk_home h r hnum hc hf hall
  refine ⟨u, e, hu, hst, fun n v hlo hhi hv => ?_⟩
  obtain ⟨⟨e', he', hpin⟩, q, hq, -, htouch⟩ := hmet n v hlo hhi hv
  rw [he, Option.some.injEq] at he'
  exact ⟨he' ▸ hpin, q, (State.group?_of_prt hp' _).trans hq, htouch.trans hep⟩

end Sys2Proof.Machine
end

section
/-! SUPPORT. WALKEMIT of a layer whose blocks are homed in T0 (17 R376, Table 16-12): what it emits is of the step and of the layer, and
the walk before it does not change what its message asks for. -/

namespace Sys2Proof.Machine
open Sys2Proof.Cert

/-! ### Descriptors of a step for a layer -/

/-- Are descriptors of a step, for one layer? -/
def Step.Emits (k : Step) (layer : Nat) (ds : List Desc) : Prop := ∀ q ∈ ds, q.layer = layer ∧ q.lane = k.lane ∧ q.frameId = k.frame
theorem Step.emits_append {k : Step} {layer : Nat} {ds es : List Desc} (hd : k.Emits layer ds) (he : k.Emits layer es) :
    k.Emits layer (ds ++ es) := fun q hq => (List.mem_append.1 hq).elim (hd q) (he q)
theorem Step.emits_flatten {k : Step} {layer : Nat} {l : List (List Desc)} (h : ∀ ds ∈ l, k.Emits layer ds) : k.Emits layer l.flatten := by
  intro q hq
  obtain ⟨ds, hds, hq⟩ := List.mem_flatten.1 hq
  exact h ds hds q hq
theorem Step.emits_flatten_map {β : Type} {k : Step} {layer : Nat} {l : List β} {f : β → List Desc} (h : ∀ b, k.Emits layer (f b)) :
    k.Emits layer (l.map f).flatten :=
  Step.emits_flatten fun ds hds => by
    obtain ⟨b, -, rfl⟩ := List.mem_map.1 hds
    exact h b
theorem Step.emits_map {β : Type} {k : Step} {layer : Nat} {l : List β} {f : β → Desc}
    (h : ∀ b, (f b).layer = layer ∧ (f b).lane = k.lane ∧ (f b).frameId = k.frame) : k.Emits layer (l.map f) := by
  intro q hq
  obtain ⟨b, -, rfl⟩ := List.mem_map.1 hq
  exact h b

theorem Iss.emits_attendDescs (i : Iss) (m : ModelDesc) (seq layer : Nat) (b : BufMsg) : i.k.Emits layer (i.attendDescs m seq layer b) := by
  refine Step.emits_flatten_map fun hd => Step.emits_append ?_ (Step.emits_map fun p => ⟨rfl, rfl, rfl⟩)
  split
  · exact Step.emits_map fun rg => ⟨rfl, rfl, rfl⟩
  · exact fun q hq => absurd hq List.not_mem_nil
theorem Iss.emits_rowDescs (i : Iss) (m : ModelDesc) (seq layer seg : Nat) (w : Wave) (b : BufMsg) :
    i.k.Emits layer (i.rowDescs m seq layer seg w b) :=
  Step.emits_flatten_map fun _ => Step.emits_flatten_map fun _ => Step.emits_map fun _ => ⟨rfl, rfl, rfl⟩
theorem Iss.emits_fetchDescs (i : Iss) (m : ModelDesc) (seq layer : Nat) (r : FetchReq) : i.k.Emits layer (i.fetchDescs m seq layer r) :=
  Step.emits_flatten_map fun _ => Step.emits_flatten_map fun _ => Step.emits_map fun _ => ⟨rfl, rfl, rfl⟩
theorem Iss.emits_verifyDescs (i : Iss) (m : ModelDesc) (seq layer : Nat) : i.k.Emits layer (i.verifyDescs m seq layer) :=
  Step.emits_flatten_map fun _ => Step.emits_map fun _ => ⟨rfl, rfl, rfl⟩

/-- The type of the message that a mode of WALKEMIT wants. -/
def wantedType (mode : Nat) : Nat := if mode = 0 then mtAttend else if mode = 1 then mtPrefillRow else mtFetch
/-- Table 16-12, by mode: what WALKEMIT emits, and when. -/
theorem Iss.emission_eq_ok_iff {i : Iss} {m : ModelDesc} {seq layer mode : Nat} {tok : Word} {ds : List Desc} :
    i.emission m seq layer mode tok = .ok ds ↔ (mode = 3 ∧ i.verifyDescs m seq layer = ds)
      ∨ (mode ≠ 3 ∧ ∃ b, i.k.tokenMsg tok = some b ∧ ¬ (b.mtype ≠ wantedType mode ∨ i.k.seq ≠ some seq ∨ (mode ≠ 2 ∧ b.layer ≠ layer))
        ∧ ((mode = 0 ∧ i.attendDescs m seq layer b = ds)
          ∨ (mode = 1 ∧ ∃ w, i.t.waveOf i.k = some w ∧ i.rowDescs m seq layer i.k.lane w b = ds)
          ∨ (mode ≠ 0 ∧ mode ≠ 1 ∧ (if i.k.emitted.isEmpty then i.t.fetchRefusal i.k m seq (fetchReq b.body) else none) = none
            ∧ ¬ (layer < (fetchReq b.body).layer0 ∨ (fetchReq b.body).layer0 + (fetchReq b.body).nlayers ≤ layer)
            ∧ i.fetchDescs m seq layer (fetchReq b.body) = ds))) := by
  unfold Iss.emission
  by_cases h3 : mode = 3
  · simp [h3]
  · cases hb : i.k.tokenMsg tok with
    | none => simp [h3]
    | some b =>
      rw [if_neg h3, or_iff_right fun hv => h3 hv.1, and_iff_right h3]
      simp only [Option.some.injEq, exists_eq_left']
      by_cases hw : b.mtype ≠ wantedType mode ∨ i.k.seq ≠ some seq ∨ (mode ≠ 2 ∧ b.layer ≠ layer)
      · refine iff_of_false (fun hn => ?_) fun hn => hn.1 hw
        rw [wantedType] at hw
        rw [if_pos hw] at hn
        cases hn
      · rw [and_iff_right hw]
        rw [wantedType] at hw
        rw [if_neg hw]
        by_cases h0 : mode = 0
        · simp [h0]
        · by_cases h1 : mode = 1
          · cases hv : i.t.waveOf i.k <;> simp [h1]
          · simp only [h0, h1, if_false, false_and, false_or, not_false_eq_true, true_and, ne_eq]
            cases (if i.k.emitted.isEmpty then i.t.fetchRefusal i.k m seq (fetchReq b.body) else none) with
            | some st => simp
            | none =>
              by_cases hl : layer < (fetchReq b.body).layer0 ∨ (fetchReq b.body).layer0 + (fetchReq b.body).nlayers ≤ layer
              · simp [hl]
              · simp [hl]
/-- What a mode emits is of the step and of its layer. -/
theorem Iss.emits_of_emission {i : Iss} {m : ModelDesc} {seq layer mode : Nat} {tok : Word} {ds : List Desc}
    (h : i.emission m seq layer mode tok = .ok ds) : i.k.Emits layer ds := by
  obtain ⟨-, rfl⟩ | ⟨-, b, -, -, ⟨-, rfl⟩ | ⟨-, w, -, rfl⟩ | ⟨-, -, -, -, rfl⟩⟩ := Iss.emission_eq_ok_iff.1 h
  · exact i.emits_verifyDescs m seq layer
  · exact i.emits_attendDescs m seq layer b
  · exact i.emits_rowDescs m seq layer i.k.lane w b
  · exact i.emits_fetchDescs m seq layer _
theorem Iss.emission_verify (i : Iss) (m : ModelDesc) (seq layer : Nat) (tok : Word) :
    i.emission m seq layer 3 tok = .ok (i.verifyDescs m seq layer) := rfl

/-- What an instruction reads when its walk is over: other groups, steps, pins and results of run-ahead. -/
def Iss.walked (i : Iss) (s : State) (gs : Tab Group) (st : Tab Step) (pins : List Nat) (ra : List RaDone) : Iss :=
  { i with s := s, t := { i.t with groups := gs, steps := st }, k := { i.k with pins := pins, raDone := ra } }
/-- A walk changes nothing that decides whether the message's request stands. -/
theorem Iss.emission_walked {i : Iss} {m : ModelDesc} {seq layer mode : Nat} {tok : Word} {ds : List Desc}
    (h : i.emission m seq layer mode tok = .ok ds) (s : State) (gs : Tab Group) (st : Tab Step) (pins : List Nat) (ra : List RaDone) :
    ∃ ds', (i.walked s gs st pins ra).emission m seq layer mode tok = .ok ds' := by
  simp only [Iss.emission_eq_ok_iff] at h ⊢
  obtain ⟨hm, -⟩ | ⟨hm, b, hb, hw, ⟨h0, -⟩ | ⟨h1, w, hwv, -⟩ | ⟨h0, h1, hr, hl, -⟩⟩ := h
  · exact ⟨_, .inl ⟨hm, rfl⟩⟩
  · exact ⟨_, .inr ⟨hm, b, hb, hw, .inl ⟨h0, rfl⟩⟩⟩
  · exact ⟨_, .inr ⟨hm, b, hb, hw, .inr (.inl ⟨h1, w, hwv, rfl⟩)⟩⟩
  · exact ⟨_, .inr ⟨hm, b, hb, hw, .inr (.inr ⟨h0, h1, hr, hl, rfl⟩)⟩⟩

/-! ### The verify-only descriptors -/

theorem Partition.length_groupsOf {t : Partition} {k : Step} {seq : Nat} {bs : List Nat}
    (h : ∀ b ∈ bs, ∃ v q, t.entryOf k seq b = some v ∧ t.groups.find (hIndex v) = some q) : (t.groupsOf k seq bs).length = bs.length := by
  induction bs with
  | nil => rfl
  | cons b bs ih =>
    obtain ⟨v, q, hv, hq⟩ := h b List.mem_cons_self
    have hcons : t.groupsOf k seq (b :: bs) = (b, q) :: t.groupsOf k seq bs := by simp [Partition.groupsOf, hv, hq]
    rw [hcons, List.length_cons, List.length_cons, ih fun c hc => h c (List.mem_cons_of_mem _ hc)]
theorem Iss.length_verifyDescs {i : Iss} {m : ModelDesc} {seq layer : Nat}
    (h : ∀ b < i.t.blocksOf i.k seq, ∃ v q, i.t.entryOf i.k seq b = some v ∧ i.t.groups.find (hIndex v) = some q) :
    (i.verifyDescs m seq layer).length = m.kvHeads * i.t.blocksOf i.k seq := by
  have hlen := Partition.length_groupsOf (t := i.t) (k := i.k) (seq := seq) (bs := List.range (i.t.blocksOf i.k seq))
    fun b hb => h b (List.mem_range.1 hb)
  rw [Iss.verifyDescs, List.length_flatten, List.map_map]
  simp [Function.comp_def, hlen]
theorem Iss.op_verifyDescs {i : Iss} {m : ModelDesc} {seq layer : Nat} : ∀ q ∈ i.verifyDescs m seq layer, q.op = 5 := by
  intro q hq
  obtain ⟨ds, hds, hq⟩ := List.mem_flatten.1 hq
  obtain ⟨hd, -, rfl⟩ := List.mem_map.1 hds
  obtain ⟨p, -, rfl⟩ := List.mem_map.1 hq
  rfl

/-! ### Emission into the step -/

/-- Marking the last descriptor of each cluster changes nothing else of a descriptor. -/
theorem State.markLast_forall {P : Desc → Prop} (hP : ∀ d b, P d → P { d with last := b }) (s : State) (t : Partition) (k : Step) (ds : List Desc)
    (h : ∀ d ∈ ds, P d) : ∀ q ∈ s.markLast t k ds, P q := by
  induction ds with
  | nil => exact fun q hq => absurd hq List.not_mem_nil
  | cons d ds ih =>
    intro q hq
    rcases List.mem_cons.1 hq with rfl | hq
    · exact hP _ _ (h d List.mem_cons_self)
    · exact ih (fun e he => h e (List.mem_cons_of_mem _ he)) q hq
theorem State.length_markLast (s : State) (t : Partition) (k : Step) (ds : List Desc) : (s.markLast t k ds).length = ds.length := by
  induction ds with
  | nil => rfl
  | cons d ds ih => exact congrArg (· + 1) ih
/-- The step whose descriptors are emitted: they stand behind those it had, and the layer is noted. -/
theorem State.step?_emit {s : State} {x : StepRef} {t : Partition} {k : Step} (hp : s.prt x.part = some t) (hk : t.steps.find x.num = some k)
    (layer : Nat) (m : ModelDesc) (ds : List Desc) :
    ∃ u : State, (s.emit x layer m ds).step? x = some { k with
      descs := k.descs ++ u.markLast t k ds, emitted := if k.emitted.contains layer then k.emitted else k.emitted ++ [layer] } := by
  have hkeep : ∀ (l : List Desc) (u : State), (u.forEach l fun s d =>
      match (s.prt x.part).bind fun t => (t.steps.find x.num).map fun k => s.recvCluster t k d.quad d.block with
      | some c => (s.cluCount c 6 1).cluCount c (if c / 16 = d.quad then 4 else 5) m.summaryBytes
      | none => s).prt x.part = u.prt x.part := fun l u => by
    refine State.forEach_keeps (fun u => u.prt x.part) l _ (fun v d => ?_) u
    split <;> rfl
  unfold State.emit
  generalize hu : s.forEach (ds.filter fun d => d.op == 3) _ = u
  have hpu : u.prt x.part = some t := by rw [← hu]; exact (hkeep _ _).trans hp
  refine ⟨u, ?_⟩
  rw [State.step?_updStep_self, State.step?_of_prt hpu, hk, Option.map_some, State.getP, hpu]

/-! ### The instruction -/

/-- A step that forgets what it took over at an instruction. -/
def Step.forget (pc : Nat) (ops : List Word) (e : Step) : Step :=
  { e with raDone := e.raDone.filter fun r => !(r.pc == pc && r.ops == ops) }
theorem Iss.keep_iss {s : State} {x : StepRef} {t : Partition} {k : Step} {g : Program} (hnum : k.num = x.num) (u : State)
    (ops vals : List Word) : (iss s x t k g).keep u ops vals = u.updStep x (Step.forget k.ctx.pc ops) := by
  have href : (iss s x t k g).ref = x := by cases x; exact congrArg _ hnum
  rw [Iss.keep, href]
  rfl

section
variable {s : State} {x : StepRef} {t : Partition} {k : Step} {g : Program} (h : Running s x t k g)
include h

theorem exec_walkemit_home {hr : HReg} {a b : GReg} {mode : Fin 8} {sq : Sequence} {ss : Session} {m : ModelDesc} {ds0 : List Desc} (r : Bool)
    (hnum : k.num = x.num) (hc : Passes t x k kSequence (k.ctx.rh hr)) (hf : Fresh k [k.ctx.rh hr, k.ctx.rg a])
    (hsq : t.seqOf k (hIndex (k.ctx.rh hr)) = some sq) (hss : t.sessOf k (hIndex sq.sess) = some ss) (hm : t.model? ss.model = some m)
    (hlayer : (k.ctx.rg a).toNat < m.layers) (hmode : mode.val < 4)
    (hds : (iss s x t k g).emission m (hIndex (k.ctx.rh hr)) (k.ctx.rg a).toNat mode.val (k.ctx.rg b) = .ok ds0)
    (hall : ∀ n, n < t.blocksOf k (hIndex (k.ctx.rh hr)) → ∃ e, HomeBlock t k (hIndex (k.ctx.rh hr)) n e) :
    ∃ u e, exec (.walkemit x r hr a b mode) s = .next u ∧ Stands u x k e k.ctx ∧ ∃ ds, (k.ctx.rg a).toNat ∈ e.emitted
      ∧ e.descs = k.descs ++ ds ∧ (∀ q ∈ ds, q.layer = (k.ctx.rg a).toNat ∧ q.lane = k.lane ∧ q.frameId = k.frame)
      ∧ (mode.val = 3 → ds.length = m.kvHeads * t.blocksOf k (hIndex (k.ctx.rh hr)) ∧ ∀ q ∈ ds, q.op = 5) := by
  obtain ⟨hp, -⟩ := id h
  obtain ⟨u, t', hu, hp', hw, hmet⟩ := State.walkBlocks_home (seq := hIndex (k.ctx.rh hr)) 0 hp (find_num_of_running h hnum)
    (bs := List.range (t.blocksOf k (hIndex (k.ctx.rh hr)))) fun n hn => hall n (List.mem_range.1 hn)
  obtain ⟨pins, hstep0⟩ := hw.step
  have hstep := (congrArg t'.steps.find hnum.symm).trans hstep0
  let forget := Step.forget k.ctx.pc [k.ctx.rh hr, k.ctx.rg a]
  obtain ⟨w, hw', hfr, -⟩ := State.prt_updStep_frame x forget hp'
  have hsw : (u.updStep x forget).step? x = some (forget { k with pins := pins }) := by
    rw [State.step?_updStep_self, State.step?_of_prt hp', hstep]; rfl
  have hwt : w = { t with groups := t'.groups, steps := w.steps } := by rw [hfr, hw.rest]
  obtain ⟨ds, hds'⟩ := Iss.emission_walked hds (u.updStep x forget) t'.groups w.steps pins (forget { k with pins := pins }).raDone
  have hiss : ({ iss s x t k g with s := u.updStep x forget, t := w, k := forget { k with pins := pins } } : Iss)
      = (iss s x t k g).walked (u.updStep x forget) t'.groups w.steps pins (forget { k with pins := pins }).raDone :=
    congrArg (fun t => ({ iss s x t k g with s := u.updStep x forget, t := t, k := forget { k with pins := pins } } : Iss)) hwt
  obtain ⟨v, hv⟩ := State.step?_emit hw' ((State.step?_of_prt hw').symm.trans hsw) (k.ctx.rg a).toNat m ds
  have hmodel : ((t.seqOf k (hIndex (k.ctx.rh hr))).bind fun sq => (t.sessOf k (hIndex sq.sess)).bind fun ss => t.model? ss.model) = some m := by
    rw [hsq, Option.bind_some, hss, Option.bind_some, hm]
  have hnt : ¬ ((iss s x t k g).taken [k.ctx.rh hr, k.ctx.rg a]).isSome = true := by rw [Iss.taken_of_fresh hf]; decide
  refine State.issue_stands h (u := (u.updStep x forget).emit x (k.ctx.rg a).toNat m ds)
    ((if_neg (Nat.not_le.2 hmode)).trans ((Iss.with_passes hc ..).trans ?_)) rfl hv ⟨v.markLast w (forget { k with pins := pins }) ds, ?_, rfl, ?_, ?_⟩
  · have hkeep : (iss s x t k g).keep u [k.ctx.rh hr, k.ctx.rg a] [] = u.updStep x forget := Iss.keep_iss hnum ..
    simp only [iss] at hds hnt hkeep
    simp only [iss, hmodel, if_neg (Nat.not_le.2 hlayer), hds, hnt, hu, hkeep, if_false, hw', hsw, Bool.false_eq_true]
    rw [← hiss] at hds'
    simp only [iss] at hds'
    rw [hds']
  · show (k.ctx.rg a).toNat ∈ if k.emitted.contains (k.ctx.rg a).toNat then k.emitted else k.emitted ++ [(k.ctx.rg a).toNat]
    by_cases hk : (k.ctx.rg a).toNat ∈ k.emitted
    · rw [if_pos (List.contains_iff_mem.2 hk)]; exact hk
    · rw [if_neg fun hn => hk (List.contains_iff_mem.1 hn)]; exact List.mem_append_right _ List.mem_cons_self
  · exact State.markLast_forall (fun d b hd => hd) _ _ _ _ (Iss.emits_of_emission hds')
  · intro h3
    rw [h3, Iss.emission_verify, Except.ok.injEq] at hds'
    subst hds'
    refine ⟨(State.length_markLast ..).trans (Iss.length_verifyDescs fun n hn => ?_), State.markLast_forall (fun d b hd => hd) _ _ _ _ Iss.op_verifyDescs⟩
    obtain ⟨e, he⟩ := hall n hn
    obtain ⟨-, q, hq, -⟩ := hmet n (List.mem_range.2 hn) e he.1
    exact ⟨e, q, he.1, hq⟩
end

/-- Settles O14: the layer whose blocks stand in T0, and the modes that are no encoding. -/
theorem walkemitResults : Obligations.WalkemitResults := by
  unfold Obligations.WalkemitResults
  intro s x t k g hr a b r mode sq ss m ds0 h hnum hs seq layer
  refine ⟨fun hc hf hsq hss hm hl hmode hds hall => ?_, fun hmode => ?_⟩
  · obtain ⟨u, e, hu, hst, ds, hrest⟩ := exec_walkemit_home h r hnum hc hf hsq hss hm hl hmode hds hall
    exact ⟨u, e, ds, hu, hst, hrest⟩
  · exact congrArg Host.Outcome.next (State.issue_fault h (if_pos hmode))

end Sys2Proof.Machine
end

section
/-! SUPPORT. APPEND into a block that the step has opened, by a lane and by a row (06 R126, R138), and PTFORK (05 R103). -/

namespace Sys2Proof.Machine
open Sys2Proof.Cert

/-! ### Changes of a partition that is there -/

theorem State.prt_updStep_of_prt {s : State} {x : StepRef} {t : Partition} (hp : s.prt x.part = some t) (f : Step → Step) :
    (s.updStep x f).prt x.part = some { t with steps := t.steps.upd x.num f } := State.prt_updP_of_prt hp _
theorem State.prt_updSeq_of_prt {s : State} {p : Part} {t : Partition} (hp : s.prt p = some t) (n : Nat) (f : Sequence → Sequence) :
    (s.updSeq p n f).prt p = some { t with sequences := t.sequences.upd n f } := State.prt_updP_of_prt hp _
/-- What a step wrote into itself and into a sequence, read back. -/
theorem State.updStep_updSeq_read {s : State} {x : StepRef} {t : Partition} {k : Step} {sq : Sequence} {n i : Nat} {q : Group}
    (hp : s.prt x.part = some t) (hk : t.steps.find x.num = some k) (hsq : t.sequences.find n = some sq) (hq : t.groups.find i = some q)
    (f f' : Step → Step) (fq : Sequence → Sequence) :
    ((s.updStep x f).updSeq x.part n fq).step? x = some (f k)
      ∧ (((s.updStep x f).updSeq x.part n fq).updStep x f').seq? x.part n = some (fq sq)
      ∧ (((s.updStep x f).updSeq x.part n fq).updStep x f').group? x.part i = some q := by
  have h1 := State.prt_updSeq_of_prt (State.prt_updStep_of_prt hp f) n fq
  have h2 := State.prt_updStep_of_prt h1 f'
  refine ⟨?_, ?_, ?_⟩
  · rw [State.step?_of_prt h1, Tab.find_upd_self, hk]; rfl
  · rw [State.seq?, h2, Option.bind_some, Tab.find_upd_self, hsq]; rfl
  · rw [State.group?_of_prt h2]; exact hq

/-! ### Rows of a lane -/

theorem Group.rows_writeHead (g : Group) (m : ModelDesc) (layer hd row fmt : Nat) (body : List Byte) (at_ : Bool → Nat → Nat) :
    (g.writeHead m layer hd row fmt body at_).1.rows = max g.rows (row + 1) := by
  change max (max g.rows (row + 1)) (row + 1) = _
  omega
theorem Group.filled_writeHead (g : Group) (m : ModelDesc) (layer hd row fmt : Nat) (body : List Byte) (at_ : Bool → Nat → Nat) :
    (g.writeHead m layer hd row fmt body at_).1.filled = g.filled := rfl
/-- The rows of one position, over some heads of a group. -/
def Group.writeHeads (m : ModelDesc) (layer row fmt : Nat) (body : List Byte) (at_ : Bool → Nat → Nat) (a : Group × Nat) (hds : List Nat) :
    Group × Nat :=
  hds.foldl (fun a hd => ((a.1.writeHead m layer hd row fmt body at_).1, a.2 + (a.1.writeHead m layer hd row fmt body at_).2)) a
theorem Group.filled_writeHeads (m : ModelDesc) (layer row fmt : Nat) (body : List Byte) (at_ : Bool → Nat → Nat) (a : Group × Nat)
    (hds : List Nat) : (Group.writeHeads m layer row fmt body at_ a hds).1.filled = a.1.filled := by
  induction hds generalizing a with
  | nil => rfl
  | cons hd hds ih => exact (ih _).trans (Group.filled_writeHead ..)
theorem Group.rows_writeHeads (m : ModelDesc) (layer row fmt : Nat) (body : List Byte) (at_ : Bool → Nat → Nat) (a : Group × Nat)
    {hds : List Nat} (hne : hds ≠ []) : (Group.writeHeads m layer row fmt body at_ a hds).1.rows = max a.1.rows (row + 1) := by
  induction hds generalizing a with
  | nil => exact absurd rfl hne
  | cons hd hds ih =>
    cases hds with
    | nil => exact Group.rows_writeHead ..
    | cons b bs =>
      refine (ih _ (List.cons_ne_nil b bs)).trans ?_
      rw [Group.rows_writeHead]
      omega

/-- The rows of one position of a block that has a group: they stand in it, and what was committed stays. -/
theorem State.writePos_leaves {s : State} {x : StepRef} {t : Partition} {k : Step} {m : ModelDesc} {seq pos : Nat} {v : Handle} {q : Group}
    (hp : s.prt x.part = some t) (hk : t.steps.find x.num = some k) (hv : t.entryOf k seq (pos / 64) = some v)
    (hq : t.groups.find (hIndex v) = some q) (hm : 0 < m.kvHeads) (layer fmt : Nat) (body : List Byte) (at_ : Bool → Nat → Nat) :
    ∃ t' q', (s.writePos x m seq layer pos fmt body at_).prt x.part = some t' ∧ t' = { t with groups := t'.groups, counters := t'.counters }
      ∧ t'.groups.find (hIndex v) = some q' ∧ q'.filled = q.filled ∧ q'.rows = max q.rows (pos % 64 + 1) := by
  have hwrite : s.writePos x m seq layer pos fmt body at_
      = (s.updGroup x.part (hIndex v) fun _ => (Group.writeHeads m layer (pos % 64) fmt body at_ (q, 0) (List.range m.kvHeads)).1).count x.part
        cSaturations (Group.writeHeads m layer (pos % 64) fmt body at_ (q, 0) (List.range m.kvHeads)).2 := by
    unfold State.writePos
    rw [State.getP, hp]
    dsimp only
    rw [hk, Option.bind_some, hv]
    dsimp only
    rw [State.group?_of_prt hp, hq]
    rfl
  have hne : List.range m.kvHeads ≠ [] := fun hn => by simp at hn; omega
  have hgroup : (s.updGroup x.part (hIndex v) fun _ =>
      (Group.writeHeads m layer (pos % 64) fmt body at_ (q, 0) (List.range m.kvHeads)).1).prt x.part = some _ := State.prt_updP_of_prt hp _
  refine ⟨_, _, hwrite ▸ State.prt_count_of_prt hgroup _ _, ?_, ?_, Group.filled_writeHeads m layer (pos % 64) fmt body at_ (q, 0) _,
    Group.rows_writeHeads m layer (pos % 64) fmt body at_ (q, 0) hne⟩
  · unfold Partition.count
    split <;> rfl
  · rw [Partition.count_groups]
    exact (Tab.find_upd_self ..).trans (by rw [hq]; rfl)

/-- The rows of `n` positions of one block. -/
theorem State.writePos_run {s : State} {x : StepRef} {t : Partition} {k : Step} {m : ModelDesc} {seq pos : Nat} {v : Handle} {q : Group}
    (hp : s.prt x.part = some t) (hk : t.steps.find x.num = some k) (hv : t.entryOf k seq (pos / 64) = some v)
    (hq : t.groups.find (hIndex v) = some q) (hm : 0 < m.kvHeads) (layer fmt : Nat) (body : List Byte) (at_ : Nat → Bool → Nat → Nat) {n : Nat}
    (hn : pos % 64 + n ≤ 64) :
    ∃ t' q', ((List.range n).foldl (fun s j => s.writePos x m seq layer (pos + j) fmt body (at_ j)) s).prt x.part = some t'
      ∧ t' = { t with groups := t'.groups, counters := t'.counters }
      ∧ t'.groups.find (hIndex v) = some q' ∧ q'.filled = q.filled ∧ q'.rows = if n = 0 then q.rows else max q.rows (pos % 64 + n) := by
  induction n with
  | zero => exact ⟨t, q, hp, rfl, hq, rfl, rfl⟩
  | succ n ih =>
    obtain ⟨t1, q1, hp1, hfr, hq1, hfill, hrows⟩ := ih (by omega)
    have hpos : (pos + n) / 64 = pos / 64 := by omega
    have hrow : (pos + n) % 64 = pos % 64 + n := by omega
    obtain ⟨t2, q2, hp2, hfr2, hq2, hfill2, hrows2⟩ := State.writePos_leaves hp1 (k := k) (by rw [hfr]; exact hk) (pos := pos + n) (v := v)
      (by rw [hpos, hfr]; exact hv) hq1 hm layer fmt body (at_ n)
    refine ⟨t2, q2, ?_, ?_, hq2, hfill2.trans hfill, ?_⟩
    · rw [List.range_succ, List.foldl_append]; exact hp2
    · rw [hfr2, hfr]
    · rw [hrows2, hrows, hrow, if_neg n.succ_ne_zero]
      split <;> omega

/-! ### The write descriptors of a row -/

theorem Partition.groupsOf_one {t : Partition} {k : Step} {seq b : Nat} {v : Handle} {q : Group} (hv : t.entryOf k seq b = some v)
    (hq : t.groups.find (hIndex v) = some q) : t.groupsOf k seq [b] = [(b, q)] := by simp [Partition.groupsOf, hv, hq]
/-- The block of some positions that lie in one. -/
theorem blocks_of_one {pos n : Nat} (h0 : 0 < n) (h : pos % 64 + n ≤ 64) :
    (if n = 0 then [] else (List.range ((pos + n - 1) / 64 - pos / 64 + 1)).map (· + pos / 64)) = [pos / 64] := by
  have hone : (pos + n - 1) / 64 - pos / 64 = 0 := by omega
  rw [if_neg h0.ne', hone]
  simp
theorem Iss.length_writeDescs {i : Iss} {m : ModelDesc} {seq layer pos n : Nat} {v : Handle} {q : Group} (h0 : 0 < n) (h : pos % 64 + n ≤ 64)
    (hv : i.t.entryOf i.k seq (pos / 64) = some v) (hq : i.t.groups.find (hIndex v) = some q) :
    (i.writeDescs m seq layer pos n).length = m.kvHeads := by
  rw [Iss.writeDescs, blocks_of_one h0 h, Partition.groupsOf_one hv hq, List.length_flatten, List.map_map]
  simp [Function.comp_def]
theorem Iss.mem_writeDescs {i : Iss} {m : ModelDesc} {seq layer pos n : Nat} {v : Handle} {q : Group} (h0 : 0 < n) (h : pos % 64 + n ≤ 64)
    (hv : i.t.entryOf i.k seq (pos / 64) = some v) (hq : i.t.groups.find (hIndex v) = some q) :
    ∀ w ∈ i.writeDescs m seq layer pos n, w.op = 4 ∧ w.block = pos / 64 ∧ w.rows = n ∧ w.layer = layer ∧ w.st = .held := by
  intro w hw
  rw [Iss.writeDescs, blocks_of_one h0 h, Partition.groupsOf_one hv hq] at hw
  obtain ⟨ds, hds, hw⟩ := List.mem_flatten.1 hw
  obtain ⟨hd, -, rfl⟩ := List.mem_map.1 hds
  obtain rfl := List.mem_singleton.1 hw
  refine ⟨rfl, rfl, ?_, rfl, rfl⟩
  show min (64 * (pos / 64 + 1)) (pos + n) - max (64 * (pos / 64)) pos = n
  omega

/-- A block whose group the step has opened is writable, for a lane where the group is resident. -/
theorem State.writables_opened {s : State} {x : StepRef} {t : Partition} {k : Step} {seq b : Nat} {v : Handle} {q : Group} {lane : Bool}
    (hp : s.prt x.part = some t) (hk : t.steps.find x.num = some k) (hv : t.entryOf k seq b = some v)
    (hq : t.groups.find (hIndex v) = some q) (ho : q.openedBy = some x.num) (hr : lane = true → s.resident x.part (hIndex v) = true)
    (m : ModelDesc) (dom : BitVec 16) : s.writables x k m dom seq b lane [b] = (s, none) := by
  have hone : s.writable x k m dom seq b (lane && b != b) lane = (s, .have) := by
    unfold State.writable
    rw [State.getP, hp]
    dsimp only
    rw [hk, Option.bind_some, hv]
    dsimp only
    rw [State.group?_of_prt hp, hq]
    dsimp only
    rw [if_pos ho, State.whenResident]
    cases lane with
    | false => rfl
    | true => rw [hr rfl]; rfl
  rw [State.writables, hone]
  rfl

/-! ### APPEND -/

/-- A step that notes the rows it has appended. -/
def Step.noteAppend (b : BufMsg) (pos cnt : Nat) (k : Step) : Step :=
  { k with appended := some (pos, cnt), nNew := cnt
           appLayers := if k.appLayers.contains b.layer then k.appLayers else k.appLayers ++ [b.layer]
           drafts := if b.layer = 0 ∧ b.mtype ≠ mtPrefillRow then (List.range (cnt - 1)).map fun j => fld b.body (16 + 4 * j) 4 else k.drafts }
theorem Step.layer_mem_noteAppend (b : BufMsg) (pos cnt : Nat) (k : Step) : b.layer ∈ (k.noteAppend b pos cnt).appLayers := by
  show b.layer ∈ if k.appLayers.contains b.layer then k.appLayers else k.appLayers ++ [b.layer]
  by_cases hk : b.layer ∈ k.appLayers
  · rw [if_pos (List.contains_iff_mem.2 hk)]; exact hk
  · rw [if_neg fun hn => hk (List.contains_iff_mem.1 hn)]; exact List.mem_append_right _ List.mem_cons_self
/-- The rows of an APPEND: a lane's are written, a row's are handed to write descriptors. -/
def Iss.appendRows (i : Iss) (x : StepRef) (m : ModelDesc) (seq : Nat) (b : BufMsg) (pos cnt fmt : Nat) (pl : Nat → Bool → Nat → Nat) : State :=
  if b.mtype = mtPrefillRow then i.s.updStep x fun e => { e with descs := e.descs ++ i.writeDescs m seq b.layer pos cnt }
  else (List.range cnt).foldl (fun s j => s.writePos x m seq b.layer (pos + j) fmt b.body (pl j)) i.s

section
variable {s : State} {x : StepRef} {t : Partition} {k : Step} {g : Program} (h : Running s x t k g)
include h

/-- What the rows of an APPEND into an opened block leave. -/
theorem Iss.appendRows_leaves {m : ModelDesc} {seq : Nat} {b : BufMsg} {pos cnt : Nat} {v : Handle} {q : Group} (h0 : 0 < cnt)
    (hfit : pos % 64 + cnt ≤ 64) (hm : 0 < m.kvHeads) (hv : t.entryOf k seq (pos / 64) = some v) (hq : t.groups.find (hIndex v) = some q)
    (fmt : Nat) (pl : Nat → Bool → Nat → Nat) :
    ∃ t' k' q', ((iss s x t k g).appendRows x m seq b pos cnt fmt pl).prt x.part = some t' ∧ t'.steps.find x.num = some k'
      ∧ t'.sequences = t.sequences ∧ t'.groups.find (hIndex v) = some q' ∧ q'.filled = q.filled
      ∧ (b.mtype ≠ mtPrefillRow → q'.rows = max q.rows (pos % 64 + cnt) ∧ k' = k)
      ∧ (b.mtype = mtPrefillRow → q' = q ∧ k' = { k with descs := k.descs ++ (iss s x t k g).writeDescs m seq b.layer pos cnt }) := by
  obtain ⟨hp, hk, -⟩ := h
  by_cases htype : b.mtype = mtPrefillRow
  · rw [Iss.appendRows, if_pos htype]
    exact ⟨_, _, q, State.prt_updStep_of_prt hp _, by rw [Tab.find_upd_self, hk]; rfl, rfl, hq, rfl, fun hn => absurd htype hn, fun _ => ⟨rfl, rfl⟩⟩
  · rw [Iss.appendRows, if_neg htype]
    obtain ⟨t1, q1, hp1, hfr, hq1, hfill, hrows⟩ := State.writePos_run hp hk hv hq hm b.layer fmt b.body pl hfit
    exact ⟨t1, k, q1, hp1, by rw [hfr]; exact hk, by rw [hfr], hq1, hfill, fun _ => ⟨hrows.trans (if_neg h0.ne'), rfl⟩, fun hn => absurd hn htype⟩

theorem exec_append_opened {hr : HReg} {a : GReg} {sq : Sequence} {ss : Session} {m : ModelDesc} {b : BufMsg} {pos cnt fmt : Nat}
    {pl : Nat → Bool → Nat → Nat} {v : Handle} {q : Group} (r : Bool) (hnum : k.num = x.num) (hc : Passes t x k kSequence (k.ctx.rh hr))
    (hsq : t.sequences.find (hIndex (k.ctx.rh hr)) = some sq) (hss : t.sessions.find (hIndex sq.sess) = some ss)
    (hm : t.model? ss.model = some m) (hheads : 0 < m.kvHeads) (htok : k.tokenMsg (k.ctx.rg a) = some b)
    (hnew : t.newRows k m b = some (pos, cnt, pl, fmt)) (hseq : k.seq = some (hIndex (k.ctx.rh hr))) (happ : k.appended = none)
    (h0 : 0 < cnt) (hfit : pos % 64 + cnt ≤ 64) (hlim : pos + cnt ≤ t.limit sq)
    (hv : t.entryOf k (hIndex (k.ctx.rh hr)) (pos / 64) = some v) (hv0 : v ≠ 0) (hq : t.groups.find (hIndex v) = some q)
    (ho : q.openedBy = some x.num) (hres : b.mtype ≠ mtPrefillRow → s.resident x.part (hIndex v) = true) :
    ∃ u e, exec (.append x r hr a) s = .next u ∧ Stands u x k e k.ctx ∧ e.appended = some (pos, cnt) ∧ e.nNew = cnt
      ∧ b.layer ∈ e.appLayers ∧ u.seq? x.part (hIndex (k.ctx.rh hr)) = some { sq with prov := cnt }
      ∧ ∃ q', u.group? x.part (hIndex v) = some q' ∧ q'.filled = q.filled
        ∧ (b.mtype ≠ mtPrefillRow → q'.rows = max q.rows (pos % 64 + cnt) ∧ e.descs = k.descs)
        ∧ (b.mtype = mtPrefillRow → q' = q ∧ ∃ ds, e.descs = k.descs ++ ds ∧ ds.length = m.kvHeads
          ∧ ∀ w ∈ ds, w.op = 4 ∧ w.block = pos / 64 ∧ w.rows = cnt ∧ w.layer = b.layer ∧ w.st = .held) := by
  obtain ⟨hp, hk, -⟩ := id h
  obtain ⟨t1, k1, q1, hp1, hk1, hsqs, hq1, hfill, hlane, hrow⟩ := Iss.appendRows_leaves h h0 hfit hheads hv hq fmt pl (b := b)
  have hp2 := State.prt_updStep_of_prt hp1 (Step.noteAppend b pos cnt)
  have hk2 : (t1.steps.upd x.num (Step.noteAppend b pos cnt)).find x.num = some (k1.noteAppend b pos cnt) := by
    rw [Tab.find_upd_self, hk1]; rfl
  obtain ⟨hstep, hseqs, hgroups⟩ := State.updStep_updSeq_read hp2 hk2 (hsqs ▸ hsq) hq1 (Step.forget k.ctx.pc [k.ctx.rh hr])
    (fun e => { e with ctx := { k.ctx with pc := k.ctx.pc + 8 } }) fun q => { q with prov := cnt }
  have hwr : s.writables x k m ss.domain (hIndex (k.ctx.rh hr)) (pos / 64) (b.mtype ≠ mtPrefillRow) [pos / 64] = (s, none) :=
    State.writables_opened hp hk hv hq ho (fun hl => hres (of_decide_eq_true hl)) m ss.domain
  have hmin : min cnt (t.limit sq - pos) = cnt := by omega
  have hnz : ¬ some v = some (0 : Handle) := fun hn => hv0 (Option.some.inj hn)
  refine State.issue_stands h ((Iss.with_passes hc ..).trans ?_) rfl hstep
    ⟨rfl, rfl, Step.layer_mem_noteAppend b pos cnt k1, hseqs, q1, hgroups, hfill, fun ht => ⟨(hlane ht).1, ?_⟩, fun ht => ⟨(hrow ht).1, _, ?_,
      Iss.length_writeDescs h0 hfit hv hq (i := iss s x t k g) (layer := b.layer), Iss.mem_writeDescs h0 hfit hv hq⟩⟩
  · have hkeep : ∀ u, (iss s x t k g).keep u [k.ctx.rh hr] [] = u.updStep x (Step.forget k.ctx.pc [k.ctx.rh hr]) := fun u => Iss.keep_iss hnum ..
    simp only [iss] at hkeep
    simp only [iss, hsq, hss, hm, Option.bind_some, Option.map_some, htok, hnew, hseq, hv, if_neg hnz, happ, hmin, blocks_of_one h0 hfit, hwr,
      hkeep, hp, State.step?_of_running h]
    rw [if_neg Bool.false_ne_true, if_neg (not_not_intro rfl), if_neg (Nat.lt_irrefl cnt)]
    rfl
  · rw [(hlane ht).2]; rfl
  · rw [(hrow ht).2]; rfl
end

/-! ### PTFORK -/

/-- A fork none of whose blocks has a full group copies none. -/
theorem State.forkCopies_none {s : State} {x : StepRef} {t : Partition} {e : Step} {src : Nat} (hp : s.prt x.part = some t)
    (he : t.steps.find x.num = some e) (hfull : ∀ n v, t.entryOf e src n = some v → t.refFull v = false) (k : Step) (m : ModelDesc) (dst : Nat)
    (bs : List Nat) : s.forkCopies x k m dst src bs = (s, .have) := by
  induction bs with
  | nil => rfl
  | cons b bs ih =>
    have hnone : (if (t.entryOf e dst b).isSome then none
        else (t.entryOf e src b).bind fun h => if t.refFull h then t.groups.find (hIndex h) else none) = none := by
      split
      · rfl
      · cases hv : t.entryOf e src b with
        | none => rfl
        | some v => rw [Option.bind_some, hfull b v hv]; rfl
    rw [State.forkCopies, State.getP, hp]
    dsimp only
    rw [he, Option.bind_some, hnone]
    exact ih
/-- The sequence tables that count references are those of the page tables alone. -/
theorem Partition.refFull_openStep (t : Partition) (n : Nat) (o : Option Nat) (v : Handle) :
    ({ t with sequences := t.sequences.upd n fun q => { q with openStep := o } } : Partition).refFull v = t.refFull v := by
  have hany : ∀ r, ((t.sequences.upd n fun q => { q with openStep := o }).find r).any (fun sq => sq.table.any fun e => e.2 == v)
      = (t.sequences.find r).any fun sq => sq.table.any fun e => e.2 == v := fun r => by
    rw [Tab.find_upd]
    split
    · cases t.sequences.find r <;> rfl
    · rfl
  unfold Partition.refFull
  simp only [hany]
theorem Partition.entryOf_openStep (t : Partition) {k : Step} (hl : k.log = []) (n : Nat) (o : Option Nat) (q b : Nat) :
    ({ t with sequences := t.sequences.upd n fun q => { q with openStep := o } } : Partition).entryOf k q b = t.entryOf k q b := by
  rw [Partition.entryOf_of_log_nil _ hl, Partition.entryOf_of_log_nil _ hl, Tab.find_upd]
  split
  · cases t.sequences.find q <;> rfl
  · rfl

section
variable {s : State} {x : StepRef} {t : Partition} {k : Step} {g : Program} (h : Running s x t k g)
include h

theorem exec_ptfork_fresh {d hr : HReg} {sq dq : Sequence} (r : Bool) (hcs : Passes t x k kSequence (k.ctx.rh hr))
    (hcd : Passes t x k kSequence (k.ctx.rh d)) (hf : Fresh k [k.ctx.rh d, k.ctx.rh hr]) (hl : k.log = [])
    (hsq : t.sequences.find (hIndex (k.ctx.rh hr)) = some sq) (hdq : t.sequences.find (hIndex (k.ctx.rh d)) = some dq) (hsess : dq.sess = sq.sess)
    (hst : dq.st = .idle) (hlen : dq.committed = 0) (htab : dq.table = []) (hopen : ∀ n, sq.openStep = some n → n = x.num)
    (hfull : ∀ n e, t.entryOf k (hIndex (k.ctx.rh hr)) n = some e → t.refFull e = false) :
    ∃ u e, exec (.ptfork x r d hr) s = .next u ∧ Stands u x k e k.ctx ∧ e.log = [.fork (hIndex (k.ctx.rh d)) (hIndex (k.ctx.rh hr))]
      ∧ u.seq? x.part (hIndex (k.ctx.rh hr)) = some { sq with openStep := some x.num } := by
  obtain ⟨hp, hk, -⟩ := id h
  have hp1 := State.prt_updSeq_of_prt hp (hIndex (k.ctx.rh hr)) fun q => { q with openStep := some x.num }
  generalize hs1 : (s.updSeq x.part (hIndex (k.ctx.rh hr)) fun q => { q with openStep := some x.num }) = s1 at hp1
  generalize hop : LogOp.fork (hIndex (k.ctx.rh d)) (hIndex (k.ctx.rh hr)) = op
  have hp2 : (s1.log x op).prt x.part = some _ := State.prt_updStep_of_prt hp1 _
  have hcopies : ∀ m bs, s1.forkCopies x k m (hIndex (k.ctx.rh d)) (hIndex (k.ctx.rh hr)) bs = (s1, .have) := fun m bs =>
    State.forkCopies_none hp1 (e := k) hk (fun n v hv => by
      rw [Partition.entryOf_openStep t hl] at hv
      exact (Partition.refFull_openStep ..).trans (hfull n v hv)) k m _ bs
  have hother : ¬ sq.openStep.any (· != x.num) = true := by
    cases ho : sq.openStep with
    | none => exact Bool.false_ne_true
    | some n => rw [hopen n ho]; simp
  have hnt : ¬ ((iss s x t k g).taken [k.ctx.rh d, k.ctx.rh hr]).isSome = true := by rw [Iss.taken_of_fresh hf]; decide
  refine State.issue_stands h (u := s1.log x op) (e := { k with log := k.log ++ [op] })
    ((Iss.with_passes hcd ..).trans ((Iss.with_passes hcs ..).trans ((if_neg hnt).trans ?_))) rfl ?_ ⟨?_, ?_⟩
  · simp only [iss, Partition.seqOf_of_log_nil hl, hsq, hdq, hl, hsess, hst, hlen, htab, hs1, hop]
    refine (if_neg (by simp)).trans ((if_neg hother).trans ?_)
    cases (t.sessOf k (hIndex sq.sess)).bind fun ss => t.model? ss.model with
    | none => rfl
    | some m =>
      simp only [hcopies]
      rfl
  · rw [State.step?_of_prt hp2, Tab.find_upd_self]
    exact congrArg _ hk
  · exact congrArg (· ++ _) hl
  · rw [State.seq?, State.prt_updStep_of_prt hp2, Option.bind_some]
    exact (Tab.find_upd_self ..).trans (by rw [hsq]; rfl)
end

/-- Settles O15: the rows of APPEND stand in the group of their block or are handed to one write descriptor a head, and PTFORK is logged. -/
theorem appendAndFork : Obligations.AppendAndFork := by
  unfold Obligations.AppendAndFork
  intro s x t k g hr d a r sq dq ss m b pos cnt fmt pl v q h hnum hs hd seq
  exact ⟨fun hc hsq hss hm hh htok hnew hseq happ h0 hfit hlim hv hv0 hq ho hres =>
      exec_append_opened h r hnum hc hsq hss hm hh htok hnew hseq happ h0 hfit hlim hv hv0 hq ho hres,
    fun hcs hcd hf hl hsq hdq hsess hst hlen htab hopen hfull =>
      exec_ptfork_fresh h r hcs hcd hf hl hsq hdq hsess hst hlen htab hopen hfull⟩

end Sys2Proof.Machine
end

section
/-! SUPPORT. What a journal has on flash that is out of date, and a checkpoint that leaves it so (13 R315). -/

namespace Sys2Proof.Machine
open Sys2Proof.Cert

/-! ### The objects with records newer than their images -/

/-- The objects of a journal that have a durable record newer than their image. -/
def State.newerOf (s : State) (j : Nat) : List FlashOwner := (s.journal j).newer

theorem State.newerOf_of_journals {s u : State} (h : u.journals = s.journals) (j : Nat) : u.newerOf j = s.newerOf j := by
  rw [State.newerOf, State.journal, h]; rfl
@[simp] theorem State.newerOf_jlog (s : State) (i ty step : Nat) (o : Handle) (b : JBody) (j : Nat) :
    (s.jlog i ty step o b).newerOf j = s.newerOf j := by
  show (((s.journals.put i _).getD j Journal.empty)).newer = _
  by_cases hj : j = i
  · subst hj
    rw [Tab.getD_put_self]; rfl
  · rw [Tab.getD_put_ne _ _ _ hj]; rfl

/-! ### What brings the flash tier up to date changes none of them -/

theorem State.newerOf_forEach {β : Type} {s : State} {l : List β} {f : State → β → State} {j : Nat} (h : ∀ s b, (f s b).newerOf j = s.newerOf j) :
    (s.forEach l f).newerOf j = s.newerOf j := State.forEach_keeps (fun s => s.newerOf j) l f h s
theorem State.newerOf_eventParts (s : State) (code st : Nat) (a : Word) (j : Nat) : (s.eventParts code st a).newerOf j = s.newerOf j :=
  State.newerOf_forEach fun _ _ => rfl
theorem State.newerOf_eventAll (s : State) (code st : Nat) (a : Word) (j : Nat) : (s.eventAll code st a).newerOf j = s.newerOf j :=
  State.newerOf_eventParts ..
theorem State.newerOf_removeNode (s : State) (p : Part) (n j : Nat) : (s.removeNode p n).newerOf j = s.newerOf j := by
  unfold State.removeNode State.withP
  dsimp only
  split
  · split <;> rfl
  · rfl
theorem State.newerOf_unmap (s : State) (p : Part) (o : FlashOwner) (j : Nat) : (s.unmap p o).newerOf j = s.newerOf j := by
  unfold State.unmap
  dsimp only
  split
  · rfl
  · exact State.newerOf_jlog ..
theorem State.newerOf_freeGroup (s : State) (p : Part) (g j : Nat) : (s.freeGroup p g).newerOf j = s.newerOf j := by
  unfold State.freeGroup
  refine (State.newerOf_of_journals (State.updP_journals ..) j).trans ?_
  split
  · exact State.newerOf_unmap ..
  · rfl
theorem State.newerOf_dropGroup (s : State) (p : Part) (g j : Nat) : (s.dropGroup p g).newerOf j = s.newerOf j := by
  unfold State.dropGroup
  split
  · rfl
  · exact (State.newerOf_freeGroup ..).trans (State.newerOf_forEach fun s n => State.newerOf_removeNode s p n j)
theorem State.newerOf_loseBacking (s : State) (p : Part) (g j : Nat) : (s.loseBacking p g).newerOf j = s.newerOf j := by
  unfold State.loseBacking State.reclaim
  refine (State.newerOf_of_journals (State.updP_journals ..) j).trans ((State.newerOf_of_journals (State.updP_journals ..) j).trans ?_)
  split
  · split
    · exact State.newerOf_unmap ..
    · rfl
  · rfl
theorem State.newerOf_mapRecord (s : State) (p : Part) (was : Tab MapUnit) (j : Nat) : (s.mapRecord p was).newerOf j = s.newerOf j := by
  unfold State.mapRecord
  dsimp only
  split
  · rfl
  · exact State.newerOf_jlog ..
theorem State.newerOf_settleMap (s : State) (p : Part) (j : Nat) : (s.settleMap p).newerOf j = s.newerOf j := by
  unfold State.settleMap
  split
  · rfl
  · extract_lets was ws s₁ f r n s₂ s₃
    have h₁ : s₁.newerOf j = s.newerOf j := State.newerOf_forEach fun _ _ => rfl
    have h₂ : s₂.newerOf j = s.newerOf j := (State.newerOf_mapRecord ..).trans h₁
    have h₃ : s₃.newerOf j = s.newerOf j := by
      rw [← h₂]
      show (ite _ _ _ : State).newerOf j = _
      split <;> rfl
    refine (State.newerOf_forEach fun s o => ?_).trans h₃
    split
    · split
      · split
        · exact State.newerOf_dropGroup ..
        · exact State.newerOf_loseBacking ..
      · rfl
    · rfl
theorem State.newerOf_goOnDetach (s : State) (k : Slot) (j : Nat) : (s.goOnDetach k).newerOf j = s.newerOf j := by
  unfold State.goOnDetach
  extract_lets c was us s₁ s₂ s₃ s₄ r
  split
  · rfl
  · have h₂ : s₂.newerOf j = s.newerOf j := State.newerOf_forEach fun s p => State.newerOf_mapRecord ..
    split
    · exact h₂
    · exact (State.newerOf_jlog s₄ devJournal jCarrier 0 0 .plain j).trans h₂
theorem State.newerOf_settleShares (s : State) (j : Nat) : s.settleShares.newerOf j = s.newerOf j := by
  unfold State.settleShares
  extract_lets sum u short was s₁ s₂
  split
  · exact State.newerOf_eventParts ..
  · rfl
theorem State.newerOf_settleTier (s : State) (before : FlashSt) (j : Nat) : (s.settleTier before).newerOf j = s.newerOf j := by
  unfold State.settleTier
  extract_lets f next s₁
  clear_value next
  split
  · rfl
  · cases next with
    | readOnly => exact State.newerOf_eventAll ..
    | degraded => exact State.newerOf_eventAll ..
    | normal =>
      dsimp only
      split
      · exact State.newerOf_eventAll ..
      · rfl
theorem State.newerOf_settleReserve (s : State) (j : Nat) : s.settleReserve.newerOf j = s.newerOf j := by
  unfold State.settleReserve
  exact State.newerOf_forEach fun _ _ => rfl
theorem State.newerOf_updFlash (s : State) (f : Flash → Flash) (j : Nat) : (s.updFlash f).newerOf j = s.newerOf j := rfl
theorem State.newerOf_gleanPrio (s : State) (j : Nat) : s.gleanPrio.newerOf j = s.newerOf j := rfl
theorem State.newerOf_settleFlash (s : State) (j : Nat) : s.settleFlash.newerOf j = s.newerOf j := by
  rw [State.settleFlash_eq, State.newerOf_settleTier, State.newerOf_gleanPrio,
    State.newerOf_forEach fun s k => State.newerOf_goOnDetach s k j, State.newerOf_forEach fun s p => State.newerOf_settleMap s p j,
    State.newerOf_settleShares, State.newerOf_settleReserve, State.newerOf_updFlash]

/-! ### A checkpoint of a journal whose programs are all gone -/

/-- A partition's journal, checkpointed while the tier is not READ_ONLY. -/
def State.checkpointed (s : State) (p : Part) (j : LogId) : State :=
  ((s.writeImages p).jlog j.val jCheckpoint 0 0 .plain).updJournal j.val fun r => { r with pages := 0 }
theorem exec_journalCheckpoint_of_part {s : State} {p : Part} {j : LogId} (hj : journalPart j = some p) (hro : s.flashRO = false) :
    exec (.journalCheckpoint j) s = .next (s.checkpointed p j).settleFlash := by
  show Host.Outcome.next (match journalPart j with | some p => _ | none => _) = _
  rw [hj]
  dsimp only
  rw [if_neg (by rw [hro]; exact Bool.false_ne_true)]
  rfl
/-- A partition's last program was deleted since its checkpoint: the durable record of it is newer than the image of the program store. -/
def emptiedStore : State := { State.reset with journals := [(0, { Journal.empty with newer := [.programs] })] }
/-- The checkpoint keeps the program store among the objects whose images are out of date. -/
theorem newerOf_checkpointed_emptiedStore : (emptiedStore.checkpointed 0 0).newerOf 0 = [.programs] := by decide +kernel

/-- Refutes O47: the image of the program store is written back, as the record asks, only where the store holds a program, so a partition
whose last program was deleted keeps it among the objects with newer records. The clause says that a checkpoint leaves none. -/
theorem not_journalResults : ¬ Obligations.JournalResults := by
  unfold Obligations.JournalResults
  intro h
  obtain ⟨-, -, -, -, hcheck, -⟩ := h emptiedStore 0
  obtain ⟨hwritten, -⟩ := hcheck 0 rfl
  obtain ⟨v, e, hv, -, -, -, -, -, -, hnone, -⟩ := hwritten rfl
  have hsame : v.settleFlash = (emptiedStore.checkpointed 0 0).settleFlash :=
    Host.Outcome.next.inj (hv.symm.trans (exec_journalCheckpoint_of_part rfl rfl))
  have hempty : (emptiedStore.checkpointed 0 0).newerOf 0 = [] := by
    rw [← State.newerOf_settleFlash, ← hsame, State.newerOf_settleFlash]; exact hnone
  rw [newerOf_checkpointed_emptiedStore] at hempty
  cases hempty

end Sys2Proof.Machine
end

section
/-! SUPPORT. Fences and unfences, resets, the way into DORMANT and out of it, the presence window and the broken-seal state (01 Table
1-6; 13 R312, R320; 14 R331 to R333; 15 R357, R360). -/

namespace Sys2Proof.Machine
open Sys2Proof.Cert

/-! ### Runs and changes that leave a state alone -/

theorem State.forEach_eq_self {β : Type} {s : State} {l : List β} {f : State → β → State} (h : ∀ b ∈ l, f s b = s) : s.forEach l f = s := by
  induction l with
  | nil => rfl
  | cons b l ih =>
    rw [State.forEach_cons, h b List.mem_cons_self]
    exact ih fun c hc => h c (List.mem_cons_of_mem _ hc)
/-- Two changes of a partition that agree on it. -/
theorem State.updP_congr_of_prt {s : State} {p : Part} {t : Partition} (hp : s.prt p = some t) {f g : Partition → Partition} (h : f t = g t) :
    s.updP p f = s.updP p g := congrArg (fun ps => { s with parts := ps }) (Tab.upd_congr hp h)
theorem State.power_eventParts (s : State) (code st : Nat) (a : Word) : (s.eventParts code st a).power = s.power := by
  unfold State.eventParts
  exact State.forEach_keeps (fun u => u.power) s.parts (fun u kv => u.event (Fin.ofNat 16 kv.1) code st 0 a) (fun _ _ => rfl) s
theorem State.cam_eventParts (s : State) (code st : Nat) (a : Word) : (s.eventParts code st a).cam = s.cam := by
  unfold State.eventParts
  exact State.forEach_keeps (fun u => u.cam) s.parts (fun u kv => u.event (Fin.ofNat 16 kv.1) code st 0 a) (fun _ _ => rfl) s

/-! ### Fences -/

/-- A partition that is not ACTIVE is not fenced again. -/
theorem State.fencePart_of_not_active {s : State} {p : Part} {t : Partition} (hp : s.prt p = some t) (hst : t.st ≠ .active) (cause : Nat) :
    s.fencePart cause p = s := by
  rw [State.fencePart, hp]
  exact if_pos hst
/-- Where no step is in flight and every queue pair has failed, a fence changes the partition's state alone. -/
theorem State.fencePart_idle {s : State} {p : Part} {t : Partition} (hp : s.prt p = some t) (hst : t.st = .active) (hsteps : t.steps = [])
    (hqps : ∀ q ∈ t.qps, q.2.st = .error) (cause : Nat) :
    s.fencePart cause p = s.updP p fun t => { t with st := .fenced, fenceCause := cause } := by
  rw [State.fencePart, hp]
  dsimp only
  rw [if_neg (not_not_intro hst), hsteps, State.forEach_nil]
  exact congrArg (State.updP · p _) (State.forEach_eq_self fun q hq => if_pos (hqps q hq))

/-- A program that is not being unloaded stays. -/
theorem State.settleProgram_of_not_unloading {s : State} {p : Part} {t : Partition} (hp : s.prt p = some t)
    (hg : ∀ g ∈ t.programs, g.2.st ≠ .unloading) (i : Nat) : s.settleProgram p i = s := by
  rw [State.settleProgram, hp, Option.bind_some]
  cases hfind : t.programs.find i with
  | none => rfl
  | some g => exact if_pos (by rw [decide_eq_true (hg _ (Tab.mem_of_find hfind))]; rfl)
/-- Where no step and no command is in flight, a fenced partition is ACTIVE with empty queues. -/
theorem State.unfencePart_idle {s : State} {p : Part} {t : Partition} (hp : s.prt p = some t) (hst : t.st = .fenced)
    (hseal : t.fenceCause ≠ 5 ∨ s.presence.broken = false) (hsteps : t.steps = []) (hlive : t.live = [])
    (hg : ∀ g ∈ t.programs, g.2.st ≠ .unloading) :
    s.unfencePart p = s.updP p fun t => { t with queues := t.queues.mapV fun _ q => q.restart, st := .active, fenceCause := 0 } := by
  have hguard : ¬ ((decide (t.st ≠ .fenced) || (decide (t.fenceCause = 5) && s.presence.broken)) = true) := by
    rcases hseal with hseal | hseal <;> simp [hst, hseal]
  have hends : s.endSteps p .partitionFenced = s := by
    rw [State.endSteps, State.getP, hp]
    dsimp only
    rw [hsteps]; rfl
  have hp' := State.prt_updP_of_prt hp fun t => { t with queues := t.queues.mapV fun _ q => q.restart, st := .active, fenceCause := 0 }
  rw [State.unfencePart, hp]
  dsimp only
  rw [if_neg hguard, hends, State.getP, hp']
  dsimp only
  rw [hlive, State.forEach_nil]
  exact State.forEach_eq_self fun i _ => State.settleProgram_of_not_unloading hp' hg i
/-- The mask of one partition names it alone. -/
theorem filter_mask_one (p : Part) : ((List.finRange 16).filter fun q => bitOf (1#16 <<< p.val).toNat q.val) = [p] := by
  revert p; decide

/-- A partition with no T1H range to compare becomes ACTIVE. -/
theorem State.activate_of_configured {s : State} {p : Part} {t : Partition} (hp : s.prt p = some t) (hst : t.st = .configured)
    (hseen : t.t1hSeen = none) (hseal : (s.presence.broken && s.presence.sealAction) = false) :
    s.activate p = s.updP p fun t => { t with st := .active, t1hSeen := none } := by
  rw [State.activate, hp]
  dsimp only
  rw [if_neg (not_not_intro hst), hseen]
  exact if_neg (by rw [State.updP_presence]; exact fun h => Bool.false_ne_true (hseal.symm.trans h))

/-! ### The commands -/

section
variable {s : State} (ha : Awake s)
include ha

theorem exec_ptFence_awake (p : Part) (v : BitVec 32) :
    exec (.ptFence p v) s = .next (if bitOf v.toNat 0 then s.fencePart 1 p else s) := by
  show Host.Outcome.next _ = _
  rw [State.wakeDevice_of_awake ha]
theorem exec_flr_awake (p : Part) : exec (.flr p) s = .next (s.fencePart 2 p) :=
  congrArg (fun u : State => Host.Outcome.next (u.fencePart 2 p)) (State.wakeDevice_of_awake ha _)
theorem exec_cxlReset_awake (p : Part) : exec (.cxlReset p) s = .next (s.fencePart 2 p) :=
  congrArg (fun u : State => Host.Outcome.next (u.fencePart 2 p)) (State.wakeDevice_of_awake ha _)
theorem exec_unfence_one (p : Part) : exec (.unfence (1#16 <<< p.val)) s = .next (s.unfencePart p) := by
  show Host.Outcome.next (State.forEach (s.wakeDevice 0x30) _ _) = _
  rw [State.wakeDevice_of_awake ha, filter_mask_one, State.forEach_cons, State.forEach_nil]
theorem exec_ldEnable_awake {p : Part} {t : Partition} (hp : s.prt p = some t) (mem bus : Bool) :
    exec (.ldEnable p mem bus) s = .next (if t.ld.bound && mem && bus
      then (s.updP p fun t => { t with ld := { t.ld with mem := mem, master := bus } }).activate p
      else s.updP p fun t => { t with ld := { t.ld with mem := mem, master := bus } }) := by
  show Host.Outcome.next (match (s.wakeDevice _).prt p with | none => _ | some t => _) = _
  rw [State.wakeDevice_of_awake ha, hp]
/-- What LD_ENABLE makes of a bound partition that is CONFIGURED. -/
theorem exec_ldEnable_configured {p : Part} {t : Partition} (hp : s.prt p = some t) (hb : t.ld.bound = true) (hst : t.st = .configured)
    (hseen : t.t1hSeen = none) (hseal : (s.presence.broken && s.presence.sealAction) = false) (mem bus : Bool) :
    ∃ u t', exec (.ldEnable p mem bus) s = .next u ∧ u.prt p = some t' ∧ t'.ld = { t.ld with mem := mem, master := bus }
      ∧ t'.st = if mem && bus then .active else .configured := by
  have hp' := State.prt_updP_of_prt hp fun t => { t with ld := { t.ld with mem := mem, master := bus } }
  rw [exec_ldEnable_awake ha hp, hb, Bool.true_and]
  cases mem && bus with
  | true => exact ⟨_, _, congrArg _ (State.activate_of_configured hp' hst hseen hseal), State.prt_updP_of_prt hp' _, rfl, rfl⟩
  | false => exact ⟨_, _, rfl, hp', rfl, hst⟩

theorem exec_warmReset_awake : exec .warmReset s = .next s.warmReset :=
  congrArg (fun u : State => Host.Outcome.next u.warmReset) (State.wakeDevice_of_awake ha _)
theorem exec_coldReset_awake : exec .coldReset s = .next s.coldReset :=
  congrArg (fun u : State => Host.Outcome.next u.coldReset) (State.wakeDevice_of_awake ha _)
theorem exec_dormantGo_awake : exec .dormantGo s = .next s.dormantGo :=
  congrArg (fun u : State => Host.Outcome.next u.dormantGo) (State.wakeDevice_of_awake ha _)
theorem exec_closePresenceWindow_awake : exec .closePresenceWindow s = .next { s with presence := { s.presence with window := false } } :=
  congrArg (fun u : State => Host.Outcome.next u.closeWindow) (State.wakeDevice_of_awake ha _)
theorem exec_dormantOkWrite_awake {p : Part} {t : Partition} (hp : s.prt p = some t) (hst : t.st ≠ .fenced) (v : BitVec 32) :
    exec (.dormantOkWrite p v) s = .next (s.updP p fun t => { t with regs := t.regs.put 0x03C (v.zeroExtend 64 &&& 1) }) := by
  show Host.Outcome.next ((s.wakeDevice _).dormantOk p v) = _
  rw [State.wakeDevice_of_awake ha]
  exact congrArg _ (State.updP_congr_of_prt hp (if_neg hst))
theorem exec_clearBrokenSeal_awake : exec .clearBrokenSeal s = .next (if !s.presence.window then s.answer .presenceRequired
    else (({ s with presence := { s.presence with broken := false } }).layoutRecord).answer .ok) := by
  show Host.Outcome.next (if _ then _ else _) = _
  rw [State.wakeDevice_of_awake ha]
end

/-! ### Resets -/

theorem State.warm_leaves (s : State) : s.warm.power.st = .initialising ∧ s.warm.power.serviceReady = false ∧ s.warm.presence.window = false
    ∧ s.warm.ident.quoteIn = none ∧ s.warm.cxl = ⟨[], []⟩ := ⟨rfl, rfl, rfl, rfl, rfl⟩
/-- The boot ROM changes what runs, and no more. -/
theorem State.boot_eq (s : State) : s.boot = { s with ident := s.boot.ident } := by
  unfold State.boot
  split <;> rfl
theorem State.startUp_leaves (s : State) : s.startUp.power = { s.power with st := .initialising, before := .initialising }
    ∧ s.startUp.presence = s.presence ∧ s.startUp.ports = s.ports ∧ s.startUp.cxl = s.cxl ∧ s.startUp.sideband = s.sideband := by
  unfold State.startUp
  rw [State.boot_eq]
  exact ⟨rfl, rfl, rfl, rfl, rfl⟩

/-! ### DORMANT -/

/-- A wake source takes a DORMANT device to INITIALISING, and names itself. -/
theorem State.wakeDevice_of_dormant {s : State} (hd : s.power.st = .dormant) (cause : Nat) : s.wakeDevice cause
    = { s with cam := s.cam.reload, power := { s.power with st := .initialising, wakes := [], wakeCause := cause, serviceReady := false } } :=
  if_pos hd
theorem State.dormantGo_refused {s : State} (hs : s.power.st = .serving) {e : Nat × Partition} (he : e ∈ s.parts) (hst : e.2.st = .active)
    (hok : bitOf (e.2.reg 0x03C) 0 = false) : s.dormantGo = s.answer .accessViolation := by
  have hany : (s.parts.any fun kv => kv.2.st == .active && !(bitOf (kv.2.reg 0x03C) 0)) = true :=
    List.any_eq_true.2 ⟨e, he, by rw [hst, hok]; rfl⟩
  exact (if_neg (not_not_intro hs)).trans (if_pos hany)
theorem State.dormantGo_permitted {s : State} (hs : s.power.st = .serving) (hok : ∀ e ∈ s.parts, e.2.st = .active → bitOf (e.2.reg 0x03C) 0 = true)
    (hslots : ∀ e ∈ s.flash.slots, e.2.st ≠ .detaching ∧ e.2.st ≠ .qualifying) : s.dormantGo
      = if s.wakeTooSoon then s.answer .notReady else { s.updPower fun w => { w with entering := true } with reply := none } := by
  have hparts : ¬ (s.parts.any fun kv => kv.2.st == .active && !(bitOf (kv.2.reg 0x03C) 0)) = true := by
    rw [List.any_eq_true]
    rintro ⟨e, he, hb⟩
    rw [Bool.and_eq_true, beq_iff_eq] at hb
    rw [hok e he hb.1] at hb
    exact Bool.false_ne_true hb.2
  have hnone : ¬ (s.flash.slots.any fun kv => kv.2.st == .detaching || kv.2.st == .qualifying) = true := by
    rw [List.any_eq_true]
    rintro ⟨e, he, hb⟩
    rw [Bool.or_eq_true, beq_iff_eq, beq_iff_eq] at hb
    exact hb.elim (hslots e he).1 (hslots e he).2
  exact (if_neg (not_not_intro hs)).trans ((if_neg hparts).trans (if_neg hnone))
theorem State.sleep_leaves (s : State) : Answers s.sleep .ok ∧ s.sleep.power.st = .dormant ∧ s.sleep.power.entering = false ∧ s.sleep.cam.rows = [] := by
  unfold State.sleep
  extract_lets qs s₁ s₂ s₃ ws s₄ cam s₅
  clear_value s₃ ws
  have hpower : ((s₅.eventParts evDormantEntered 0 0).answer .ok).power = s₅.power := State.power_eventParts ..
  have hcam : ((s₅.eventParts evDormantEntered 0 0).answer .ok).cam = s₅.cam := State.cam_eventParts ..
  rw [hpower, hcam]
  exact ⟨answers_answer .., rfl, rfl, rfl⟩

section
variable {s : State}
theorem exec_dormantEnter_eq : exec .dormantEnter s = .next (if !s.power.entering || !s.drained then s
    else if s.wakeTooSoon then (s.updPower fun w => { w with entering := false }).answer .notReady else s.sleep) := rfl
theorem exec_dormantAbandonTimeout_eq : exec .dormantAbandonTimeout s = .next (if s.power.entering then
    ((s.updPower fun w => { w with entering := false }).eventParts evDormantAbandoned 0 0).answer .aborted else s) := rfl
end

/-- Settles O50, clause by clause. -/
theorem controlResults : Obligations.ControlResults := by
  unfold Obligations.ControlResults
  intro s
  refine ⟨?fence, ?noFence, ?notActive, ?unfence, ?enable, ?warm, ?noWarm, ?cold, ?noCold, ?window, ?go, ?enter, ?noEnter, ?okWrite, ?wake,
    ?noWake, ?clearSeal⟩
  case fence =>
    intro p t ha hp hst hsteps hqps
    have hf := State.fencePart_idle hp hst hsteps hqps
    refine ⟨fun v hv => by rw [exec_ptFence_awake ha, if_pos hv, hf], fun c hc => ?_⟩
    rcases List.mem_cons.1 hc with rfl | hc
    · rw [exec_flr_awake ha, hf]
    · obtain rfl := List.mem_singleton.1 hc
      rw [exec_cxlReset_awake ha, hf]
  case noFence =>
    intro p v ha hv
    rw [exec_ptFence_awake ha, hv]
    rfl
  case notActive =>
    intro p t ha hp hst c hc
    have hf := State.fencePart_of_not_active hp hst
    simp only [List.mem_cons, List.not_mem_nil, or_false] at hc
    rcases hc with rfl | rfl | rfl
    · rw [exec_ptFence_awake ha, hf, ite_self]
    · rw [exec_flr_awake ha, hf]
    · rw [exec_cxlReset_awake ha, hf]
  case unfence =>
    intro p t ha hp hst hseal hsteps hlive hg
    rw [exec_unfence_one ha, State.unfencePart_idle hp hst hseal hsteps hlive hg]
  case enable =>
    intro p t mem bus ha hp hb hst hseen hseal
    exact exec_ldEnable_configured ha hp hb hst hseen hseal mem bus
  case warm =>
    intro hs ha
    exact ⟨_, (exec_warmReset_awake ha).trans (congrArg _ (if_pos hs)), State.warm_leaves s⟩
  case noWarm =>
    intro hs ha
    exact (exec_warmReset_awake ha).trans (congrArg _ (if_neg hs))
  case cold =>
    intro hs ha
    have hgo : s.coldReset = (s.loseDie .initialising).startUp := if_pos (by rcases hs with hs | hs <;> rw [hs] <;> rfl)
    obtain ⟨hpower, hpresence, hports, hcxl, hside⟩ := State.startUp_leaves (s.loseDie .initialising)
    refine ⟨_, (exec_coldReset_awake ha).trans (congrArg _ hgo), ?_⟩
    rw [hpower, hpresence, hports, hcxl, hside]
    exact ⟨rfl, rfl, rfl, rfl, rfl, rfl, rfl, rfl⟩
  case noCold =>
    intro hs ha
    exact (exec_coldReset_awake ha).trans (congrArg _ (if_neg (by rw [hs]; decide)))
  case window => exact exec_closePresenceWindow_awake
  case go =>
    intro ha hs
    rw [exec_dormantGo_awake ha]
    refine ⟨fun ⟨e, he, hst, hok⟩ => ?_, fun hok hslots => ?_⟩
    · exact ⟨_, congrArg _ (State.dormantGo_refused hs he hst hok), answers_answer .., rfl⟩
    · rw [State.dormantGo_permitted hs hok hslots]
      exact ⟨fun hw => ⟨_, congrArg _ (if_pos hw), answers_answer .., rfl⟩, fun hw => by rw [hw]; rfl⟩
  case enter =>
    intro he
    rw [exec_dormantEnter_eq, exec_dormantAbandonTimeout_eq, he]
    refine ⟨fun hd => by rw [hd]; rfl, fun hd hw => ?_, fun hd hw => ?_, _, rfl, answers_answer .., State.power_eventParts ..⟩
    · rw [hd, hw]
      exact ⟨_, rfl, State.sleep_leaves s⟩
    · rw [hd, hw]
      exact ⟨_, rfl, answers_answer .., rfl⟩
  case noEnter =>
    intro he
    rw [exec_dormantEnter_eq, exec_dormantAbandonTimeout_eq, he]
    exact ⟨rfl, rfl⟩
  case okWrite =>
    intro p t v ha hp hst
    exact exec_dormantOkWrite_awake ha hp hst v
  case wake =>
    intro hd
    refine ⟨fun k hk => ?_, ?_, fun p v => ?_⟩
    · have hgo : exec (.wakeCounter k) s = .next (s.wakeDevice k.val) := congrArg _ (if_pos (by rw [hd]; simpa using hk))
      exact ⟨_, hgo.trans (congrArg _ (State.wakeDevice_of_dormant hd _)), rfl, rfl, rfl, rfl⟩
    · have hgo : exec .hostWake s = .next (s.wakeDevice 0x10) := congrArg _ (if_pos hd)
      exact ⟨_, hgo.trans (congrArg _ (State.wakeDevice_of_dormant hd _)), rfl, rfl, rfl⟩
    · exact ⟨_, congrArg (fun u : State => Host.Outcome.next (u.dormantOk p v)) (State.wakeDevice_of_dormant hd _), rfl, rfl⟩
  case noWake =>
    intro hd
    exact ⟨congrArg _ (if_neg hd), fun k => congrArg _ (if_neg (by simp [hd]))⟩
  case clearSeal =>
    intro ha
    rw [exec_clearBrokenSeal_awake ha]
    refine ⟨fun hw => ?_, fun hw => ?_⟩
    · rw [hw]
      exact ⟨_, rfl, answers_answer .., rfl⟩
    · rw [hw]
      exact ⟨_, rfl, answers_answer .., rfl⟩

end Sys2Proof.Machine
end

section
/-! SUPPORT. Bus, PERST, reference, PLLs, temperature and power samples, and the way to service-ready (14 R324 to R342; 19 R427, R428). -/

namespace Sys2Proof.Machine
open Sys2Proof.Cert

/-! ### What leaves the power state alone -/

theorem State.power_eventAll (s : State) (code st : Nat) (a : Word) : (s.eventAll code st a).power = s.power := State.power_eventParts s code st a
theorem State.power_doorbell (s : State) (p : Part) (n : Nat) (cq : Bool) (v : BitVec 32) : (s.doorbell p n cq v).power = s.power := by
  unfold State.doorbell
  dsimp only
  split
  · rfl
  · split_ifs <;> rfl
theorem State.power_keptDoorbells (s : State) (p : Part) (n : Nat) : (s.keptDoorbells p n).power = s.power := by
  unfold State.keptDoorbells
  split
  · rfl
  · next q _ =>
    extract_lets s₁ s₂
    have h₂ : s₂.power = s.power := by
      show (match q.keptCq with | some v => s₁.doorbell p n true v | none => s₁ : State).power = _
      cases q.keptCq with
      | none => rfl
      | some v => exact State.power_doorbell s₁ p n true v
    split
    · rfl
    · cases q.keptSq with
      | none => exact h₂
      | some v => exact (State.power_doorbell s₂ p n false v).trans h₂
theorem State.power_serve (s : State) : s.serve.power = { s.power with st := .serving, serviceReady := true } := by
  unfold State.serve
  exact State.forEach_keeps (fun u => u.power) _ (fun (u : State) (kv : Nat × Partition) => u.forEach kv.2.queues fun v q =>
    v.keptDoorbells (Fin.ofNat 16 kv.1) q.1) (fun u kv => State.forEach_keeps (fun u => u.power) kv.2.queues
      (fun (v : State) (q : Nat × Queue) => v.keptDoorbells (Fin.ofNat 16 kv.1) q.1) (fun v q => State.power_keptDoorbells v _ _) u) _
theorem State.power_failSlot (s : State) (k : Slot) : (s.failSlot k).power = s.power := rfl
theorem State.power_pllBlock (s : State) (k : Pll) : (s.pllBlock k).power = s.power := by
  cases k with
  | onfi k =>
    show (if _ then s else s.failSlot k : State).power = _
    split <;> rfl
  | _ => rfl

/-! ### Losing and starting the die -/

theorem State.loseDie_leaves (s : State) (st : PwrSt) : (s.loseDie st).power.st = st ∧ (s.loseDie st).power.serviceReady = false
    ∧ (s.loseDie st).power.configReady = false ∧ (s.loseDie st).power.recovery = some .cold ∧ (s.loseDie st).presence.window = false
    ∧ (s.loseDie st).ports = [] := ⟨rfl, rfl, rfl, rfl, rfl, rfl⟩
theorem State.startUp_st (s : State) : s.startUp.power.st = .initialising := by
  rw [(State.startUp_leaves s).1]
theorem State.tryStart_of_ready {s : State} (hst : s.power.st = .standby) (hp : s.power.perst = false) (hr : s.power.refclk = true)
    (ht : s.power.tripped = false) : s.tryStart = s.startUp := if_pos (by rw [hst, hp, hr, ht]; rfl)
theorem State.tryStart_of_perst {s : State} (hp : s.power.perst = true) : s.tryStart = s := if_neg (by simp [hp])
/-- The boot flash holds an image that passes, and it runs. -/
theorem State.startUp_of_bootable {s : State} {i : FwImage} (hb : s.ident.boot = some i) (hi : s.bootable i = true) :
    s.startUp.ident.running = some i ∧ s.startUp.ident.waiting = false := by
  have hf : (s.updPower fun w => { w with st := .initialising, before := .initialising }).ident.boot.filter
      (s.updPower fun w => { w with st := .initialising, before := .initialising }).bootable = some i := by
    show s.ident.boot.filter s.bootable = _
    rw [hb, Option.filter_some, if_pos hi]
  unfold State.startUp State.boot
  rw [hf]
  exact ⟨rfl, rfl⟩
theorem State.startUp_of_not_bootable {s : State} {i : FwImage} (hb : s.ident.boot = some i) (hi : s.bootable i = false) :
    s.startUp.ident.running = none ∧ s.startUp.ident.waiting = true := by
  have hf : (s.updPower fun w => { w with st := .initialising, before := .initialising }).ident.boot.filter
      (s.updPower fun w => { w with st := .initialising, before := .initialising }).bootable = none := by
    show s.ident.boot.filter s.bootable = _
    rw [hb, Option.filter_some, if_neg (by rw [hi]; exact Bool.false_ne_true)]
  unfold State.startUp State.boot
  rw [hf]
  exact ⟨rfl, rfl⟩
theorem State.trip_of_up {s : State} (h : s.power.st = .serving ∨ s.power.st = .initialising ∨ s.power.st = .dormant ∨ s.power.st = .frozen) :
    s.trip = (s.loseDie .standby).updPower fun w => { w with tripped := true, inRange := false } := by
  unfold State.trip
  rcases h with h | h | h | h <;> rw [h]
theorem State.trip_of_standby {s : State} (h : s.power.st = .standby) :
    s.trip = s.updPower fun w => { w with tripped := true, inRange := false } := by
  unfold State.trip
  rw [h]

/-- Without the reference every state is held, and ports hold over. -/
def State.frozen (s : State) : State :=
  let s := { s with presence := { s.presence with window := false } }
  let s := s.updPower fun w => { w with refclk := false, plls := w.plls.mapV fun _ p => { p with qualified := false } }
  { s.updPower fun w => { w with st := .frozen, before := w.st } with ports := s.ports.mapV fun _ q => { q.down with holdover := q.everLocked } }
theorem State.power_halt (s : State) (b : Bool) : (s.halt b).power = { (s.loseDie .halted).power with thermTrip := b } := by
  unfold State.halt
  generalize s.loseDie .halted = u
  rfl
theorem State.slots_halt (s : State) (b : Bool) :
    (s.halt b).flash.slots = (s.loseDie .halted).flash.slots.mapV fun _ c => { c with pwren := false } := by
  unfold State.halt
  generalize s.loseDie .halted = u
  rfl
theorem State.halt_leaves (s : State) (b : Bool) : (s.halt b).power.st = .halted ∧ (s.halt b).power.thermTrip = b
    ∧ ∀ e ∈ (s.halt b).flash.slots, e.2.pwren = false := by
  rw [State.power_halt, State.slots_halt]
  refine ⟨(State.loseDie_leaves s .halted).1, rfl, fun e he => ?_⟩
  obtain ⟨e', -, rfl⟩ := List.mem_map.1 he
  rfl

/-! ### Self-test and PLLs -/

theorem State.selfTest_passed (s : State) : s.selfTest 0 = { s with clusters := s.clusters.mapV fun _ r =>
    { r with st := .inService, quarantines := 0, passes := 0 } } := by
  have hnone : ((List.range 64).filter fun c => (0 : BitVec 64).getLsbD c) = [] := by decide
  unfold State.selfTest
  rw [hnone]
  simp
theorem State.pll_updPll_self (s : State) (n : Nat) (f : PllState → PllState) : (s.updPll n f).pll n = f (s.pll n) := Tab.getD_put_self ..
theorem State.pll_of_power {s u : State} (h : u.power = s.power) (n : Nat) : u.pll n = s.pll n := by rw [State.pll, h]; rfl

/-! ### A partition that is not ACTIVE stays so -/

/-- No partition is ACTIVE. -/
def State.NoneActive (s : State) : Prop := ∀ p t, s.prt p = some t → t.st ≠ .active
theorem State.NoneActive.event {s : State} (h : s.NoneActive) (p : Part) (code st : Nat) (o a : Word) : (s.event p code st o a).NoneActive := by
  intro q t hq
  rw [State.event, State.prt_updP] at hq
  split at hq
  next hqp =>
    obtain ⟨t', ht', rfl⟩ := Option.map_eq_some_iff.1 hq
    have hst : ∀ (v : Partition) (n k : Nat), (v.count n k).st = v.st := fun v n k => by unfold Partition.count; split <;> rfl
    rw [hst]
    exact h q t' ht'
  next => exact h q t hq
theorem State.NoneActive.eventParts {s : State} (h : s.NoneActive) (code st : Nat) (a : Word) : (s.eventParts code st a).NoneActive := by
  unfold State.eventParts
  exact State.forEach_inv State.NoneActive _ _ (fun u kv hu => hu.event _ _ _ _ _) s h
theorem State.NoneActive.fenceAll {s : State} (h : s.NoneActive) (cause : Nat) : s.fenceAll cause = s := by
  refine State.forEach_eq_self fun p _ => ?_
  cases hp : s.prt p with
  | none => rw [State.fencePart, hp]
  | some t => exact State.fencePart_of_not_active hp (h p t hp) cause

/-! ### The commands -/

theorem exec_pllLockTimeout_again {s : State} {k : Pll} (hf : (s.pll (pllNo k)).failed = false) (ht : (s.pll (pllNo k)).tries < 7) :
    exec (.pllLockTimeout k) s = .next (s.updPll (pllNo k) fun p => { p with tries := p.tries + 1, qualified := false }) := by
  refine congrArg Host.Outcome.next ((if_neg (by rw [hf]; exact Bool.false_ne_true)).trans (if_pos ?_))
  rw [State.pll_updPll_self]
  show (s.pll (pllNo k)).tries + 1 < 8
  omega
theorem exec_pllLockTimeout_eighth {s : State} {k : Pll} (hk : k ≠ .root) (hf : (s.pll (pllNo k)).failed = false)
    (ht : 7 ≤ (s.pll (pllNo k)).tries) : exec (.pllLockTimeout k) s
      = .next (((((s.updPll (pllNo k) fun p => { p with tries := p.tries + 1, qualified := false }).updPll (pllNo k) fun p =>
        { p with failed := true }).pllBlock k).devEvent evPllFailed 0 0 0)) := by
  refine congrArg Host.Outcome.next ((if_neg (by rw [hf]; exact Bool.false_ne_true)).trans ((if_neg ?_).trans ?_))
  · rw [State.pll_updPll_self]
    show ¬ (s.pll (pllNo k)).tries + 1 < 8
    omega
  · cases k with
    | root => exact absurd rfl hk
    | _ => rfl
theorem exec_pllLockTimeout_root {s : State} (hf : (s.pll 0).failed = false) (ht : 7 ≤ (s.pll 0).tries) (hst : s.power.st ≠ .off) :
    exec (.pllLockTimeout .root) s = .next (((s.updPll 0 fun p => { p with tries := p.tries + 1, qualified := false }).halt false).devEvent
      evPllFailed 0 0 0) := by
  refine congrArg Host.Outcome.next ((if_neg (by rw [show pllNo .root = 0 from rfl, hf]; exact Bool.false_ne_true)).trans ((if_neg ?_).trans (if_neg hst)))
  rw [show pllNo .root = 0 from rfl, State.pll_updPll_self]
  show ¬ (s.pll 0).tries + 1 < 8
  omega
theorem exec_wedgeDetect_of_serving {s : State} (hst : s.power.st = .serving) (n : Unit7) : exec (.wedgeDetect n) s
    = .next (if bitOf (s.devReg 0x028) 0 then ((s.eventParts evDeviceWedged 0 0).updPower fun w => { w with wedged := true }).warmReset
      else ((s.eventParts evDeviceWedged 0 0).updPower fun w => { w with wedged := true }).fenceAll 6) := by
  have hreg : ((s.eventParts evDeviceWedged 0 0).updPower fun w => { w with wedged := true }).devReg 0x028 = s.devReg 0x028 := by
    have hc : (s.eventParts evDeviceWedged 0 0).control = s.control := by
      unfold State.eventParts
      exact State.forEach_keeps (fun u => u.control) s.parts (fun u kv => u.event (Fin.ofNat 16 kv.1) evDeviceWedged 0 0 0) (fun _ _ => rfl) s
    show ((s.eventParts evDeviceWedged 0 0).control.regs.find 0x028 |>.getD _).toNat = _
    rw [hc]
    rfl
  refine congrArg Host.Outcome.next ((if_neg (not_not_intro hst)).trans ?_)
  dsimp only
  rw [hreg]

/-- Settles O55, clause by clause. -/
theorem powerResults : Obligations.PowerResults := by
  unfold Obligations.PowerResults
  intro s
  refine ⟨?rise, ?fail, ?failStandby, ?restore, ?collapse, ?perst, ?perstHot, ?way, ?loss, ?back, rfl, rfl, ?halt, ⟨_, rfl, rfl⟩, ?pllOk,
    ?pllAgain, ?pllFails, ?pllRoot, ?sample, ?wedge, ?scan, ?scanDrives⟩
  case rise =>
    intro hst
    have hgo : exec .busRise s = .next _ := congrArg Host.Outcome.next (if_neg (not_not_intro hst))
    exact ⟨_, hgo, rfl, rfl, rfl, fun hi => by
      show (s.presence.broken || !s.presence.intact) = true
      rw [hi, Bool.not_false, Bool.or_true]⟩
  case fail =>
    intro hst c hc
    obtain ⟨-, hserv, hconf, hrec, hwin, hports⟩ := State.loseDie_leaves s .standby
    refine ⟨(s.loseDie .standby).updPower fun w => { w with tripped := true, inRange := false }, ?_, rfl, rfl, hserv, hconf, hrec, hwin, hports⟩
    rcases List.mem_cons.1 hc with rfl | hc
    · exact congrArg Host.Outcome.next (State.trip_of_up hst)
    · obtain rfl := List.mem_singleton.1 hc
      exact congrArg Host.Outcome.next (State.trip_of_up hst)
  case failStandby =>
    intro hst
    exact ⟨_, congrArg Host.Outcome.next (State.trip_of_standby hst), rfl, rfl⟩
  case restore =>
    intro hst hr
    refine ⟨fun hp => ?_, fun hp => ?_, fun ht => ?_⟩
    · have hgo : exec .powerRestoreHold s = .next _ := congrArg Host.Outcome.next (State.tryStart_of_ready hst hp hr rfl)
      exact ⟨_, hgo, State.startUp_st _, by rw [(State.startUp_leaves _).1]; rfl⟩
    · exact congrArg Host.Outcome.next (State.tryStart_of_perst hp)
    · have hgo : exec .perstDeassert s = .next _ := congrArg Host.Outcome.next (State.tryStart_of_ready hst rfl hr ht)
      refine ⟨_, hgo, State.startUp_st _, by rw [(State.startUp_leaves _).1]; rfl, fun img hb hsig hsvn => ?_, fun img hb hsig => ?_⟩
      · exact State.startUp_of_bootable hb (by
          show (img.sigOk && decide (s.ident.minSvn ≤ img.svn)) = true
          rw [hsig, decide_eq_true hsvn]; rfl)
      · exact State.startUp_of_not_bootable hb (by
          show (img.sigOk && decide (s.ident.minSvn ≤ img.svn)) = false
          rw [hsig]; rfl)
  case collapse => exact ⟨_, rfl, rfl, rfl, rfl⟩
  case perst =>
    intro hst
    have hgo : exec .perstAssert s = .next ((s.updPower fun w => { w with perst := true }).loseDie .standby) := by
      show Host.Outcome.next (match s.power.st with
        | .off | .standby => s.updPower fun w => { w with perst := true }
        | .halted => _
        | _ => _) = _
      rw [hst]
    exact ⟨_, hgo, rfl, rfl, rfl⟩
  case perstHot =>
    intro hst hhot
    show Host.Outcome.next (match s.power.st with
      | .off | .standby => s.updPower fun w => { w with perst := true }
      | .halted => _
      | _ => _) = _
    rw [hst]
    exact congrArg Host.Outcome.next (if_pos hhot)
  case way =>
    intro hst hw
    refine ⟨fun hr => ?_, fun hr => ?_, fun hc => ?_, fun hc hr hq => ?_, fun hc => ?_⟩
    · have hgo : exec .coldRecovery s = .next _ := congrArg Host.Outcome.next (if_pos (by simp [hst, hr, hw]))
      exact ⟨_, hgo, rfl⟩
    · exact congrArg Host.Outcome.next (if_neg (by simp [hr]))
    · have hgo : exec (.configReady 0) s = .next _ := congrArg Host.Outcome.next (if_pos (by simp [hst, hc, hw]))
      refine ⟨_, hgo, ?_, rfl, ?_⟩
      · show ({ (s.selfTest 0).power with configReady := true } : Power) = _
        rw [State.selfTest_passed]
      · show ∀ e ∈ (s.selfTest 0).clusters, _
        rw [State.selfTest_passed]
        intro e he
        obtain ⟨e', -, rfl⟩ := List.mem_map.1 he
        exact ⟨rfl, rfl⟩
    · have hgo : exec .serviceReady s = .next s.serve := congrArg Host.Outcome.next (if_pos (by simp [hst, hc, hr, hw, hq]))
      exact ⟨_, hgo, State.power_serve s⟩
    · exact congrArg Host.Outcome.next (if_neg (by simp [hc]))
  case loss =>
    intro hst
    have hgo : exec .refclkLoss s = .next (s.frozen) := by
      show Host.Outcome.next (match s.power.st with
        | .serving | .initialising | .dormant => s.frozen
        | _ => _) = _
      rw [hst]
    exact ⟨_, hgo, rfl, hst, rfl, rfl, rfl⟩
  case back =>
    intro hst
    have hgo : exec .refclkReturn s = .next _ := congrArg Host.Outcome.next (if_pos hst)
    refine ⟨_, hgo, ?_, ?_, ?_⟩
    · rw [State.power_eventAll]; rfl
    · rw [State.power_eventAll]; rfl
    · rw [State.pll_of_power (State.power_eventAll ..)]
      exact congrArg PllState.qualified (State.pll_updPll_self (s.updPower fun w => { w with refclk := true }) 0 fun p =>
        { p with qualified := true, tries := 0 })
  case halt =>
    intro hst
    have hgo : exec .thermalHalt s = .next ((s.halt true).updPower fun w => { w with half := true, hot := true }) := by
      show Host.Outcome.next (if s.power.st = .off then s else _) = _
      rw [if_neg hst]
    have hl := State.halt_leaves s true
    generalize s.halt true = u at hgo hl
    exact ⟨_, hgo, hl⟩
  case pllOk =>
    intro k hr hf
    have hgo : exec (.pllQualified k) s = .next _ := congrArg Host.Outcome.next (if_pos (by rw [hr, hf]; rfl))
    exact ⟨_, hgo, State.pll_updPll_self ..⟩
  case pllAgain =>
    intro k hf ht
    exact ⟨_, exec_pllLockTimeout_again hf ht, State.pll_updPll_self ..⟩
  case pllFails =>
    intro k hk hf ht
    refine ⟨_, exec_pllLockTimeout_eighth hk hf ht, ?_⟩
    rw [State.pll_of_power ((State.devEvent_power ..).trans (State.power_pllBlock ..)), State.pll_updPll_self]
  case pllRoot =>
    intro hf ht hst
    exact ⟨_, exec_pllLockTimeout_root hf ht hst, by rw [State.devEvent_power]; exact (State.halt_leaves _ false).1⟩
  case sample =>
    intro a b v td ts
    refine ⟨_, rfl, rfl, rfl, rfl, rfl, rfl, fun h => if_pos h, fun h => ?_, fun h h' => ?_⟩
    · exact (if_neg (by omega)).trans (if_pos h)
    · exact (if_neg (by omega)).trans (if_neg (by omega))
  case wedge =>
    intro n
    refine ⟨fun hst => congrArg Host.Outcome.next (if_pos hst), fun hst hb => ?_, fun hst hb hn => ?_⟩
    · have hpower := State.power_eventParts s evDeviceWedged 0 0
      rw [exec_wedgeDetect_of_serving hst n, if_pos hb]
      generalize s.eventParts evDeviceWedged 0 0 = u at hpower ⊢
      obtain ⟨hwarm, hserv, -⟩ := State.warm_leaves (u.updPower fun w => { w with wedged := true })
      exact ⟨_, congrArg Host.Outcome.next (if_pos ((congrArg Power.st hpower).trans hst)), hwarm, hserv⟩
    · have hpower := State.power_eventParts s evDeviceWedged 0 0
      have hnone : (s.eventParts evDeviceWedged 0 0).NoneActive :=
        State.NoneActive.eventParts (fun p t hp => hn (p.val, t) (Tab.mem_of_find hp)) evDeviceWedged 0 0
      rw [exec_wedgeDetect_of_serving hst n, hb, if_neg Bool.false_ne_true]
      generalize s.eventParts evDeviceWedged 0 0 = u at hpower hnone ⊢
      have hafter : (u.updPower fun w => { w with wedged := true }).NoneActive := hnone
      exact ⟨_, congrArg Host.Outcome.next (hafter.fenceAll 6), congrArg (fun w : Power => { w with wedged := true }) hpower⟩
  case scan =>
    intro b hb
    refine congrArg Host.Outcome.next (if_neg ?_)
    rcases hb with hb | hb <;> simp [hb]
  case scanDrives =>
    intro hst
    exact congrArg Host.Outcome.next (if_pos (by simp [hst]))

end Sys2Proof.Machine
end

section
/-! SUPPORT. Doorbells, event-log registers, the T1H range table, mailboxes, port modes, AUXCLK, BAR and sideband accesses (18 R400 to
R413). -/

namespace Sys2Proof.Machine
open Sys2Proof.Cert

/-! ### Doorbells (Table 18-5) -/

section
variable {s : State} {p : Part} {t : Partition} (hp : s.prt p = some t)
include hp

theorem State.ringDoorbell_fenced (hst : t.st = .fenced) (n : Nat) (cq : Bool) (v : BitVec 32) : s.ringDoorbell p n cq v = s := by
  rw [State.ringDoorbell, hp]
  exact if_pos hst
theorem State.ringDoorbell_kept (hst : t.st ≠ .fenced) (hr : s.power.serviceReady = false) (n : Nat) (cq : Bool) (v : BitVec 32) :
    s.ringDoorbell p n cq v = s.updQueue p n fun q => if cq then { q with keptCq := some v } else { q with keptSq := some v } := by
  rw [State.ringDoorbell, hp]
  exact (if_neg hst).trans (if_pos (by rw [hr]; rfl))
theorem State.ringDoorbell_acted (hst : t.st ≠ .fenced) (hr : s.power.serviceReady = true) (n : Nat) (cq : Bool) (v : BitVec 32) :
    s.ringDoorbell p n cq v = s.doorbell p n cq v := by
  rw [State.ringDoorbell, hp]
  exact (if_neg hst).trans (if_neg (by rw [hr]; exact Bool.false_ne_true))

/-- Table 18-5 from its third row on, for a queue that is there. -/
theorem State.doorbell_of_queue {n : Nat} {q : Queue} (hq : t.queues.find n = some q) (cq : Bool) (v : BitVec 32) : s.doorbell p n cq v
    = if q.st ≠ .enabled then s.statusEvent p .accessViolation 0 (BitVec.ofNat 64 n)
      else if bitsOf v.toNat 11 0 ≥ q.depth then
        (s.updQueue p n fun q => { q with st := .error }).statusEvent p .accessViolation 0 (BitVec.ofNat 64 n)
      else if !cq then s.updQueue p n fun q => q.ringSq (bitsOf v.toNat 11 0)
      else if q.freed (bitsOf v.toNat 11 0) > q.posted.length then s.statusEvent p .accessViolation 0 (BitVec.ofNat 64 n)
      else s.updQueue p n fun q => q.ringCq (bitsOf v.toNat 11 0) := by
  rw [State.doorbell, hp, Option.bind_some, hq]
/-- An event changes no queue. -/
theorem State.prt_statusEvent_queues (st : Status) (o a : Word) : ∃ t', (s.statusEvent p st o a).prt p = some t' ∧ t'.queues = t.queues :=
  ⟨_, State.prt_updP_of_prt hp _, Partition.count_queues ..⟩

/-! ### Event logs -/

theorem State.prt_updLog {log : LogId} (hj : journalPart log = some p) (hst : t.st ≠ .fenced) (f : EvLog → EvLog) :
    ∃ t', (s.updLog log f).prt p = some t' ∧ t'.ev = f t.ev := by
  have hev : ∀ (v : Partition) (n k : Nat), (v.count n k).ev = v.ev := fun v n k => by unfold Partition.count; split <;> rfl
  rw [State.updLog, hj]
  refine ⟨_, State.prt_updP_of_prt hp _, ?_⟩
  rw [if_neg hst]
  exact hev ..
end

theorem EvLog.setHead_in_range {l : EvLog} {v : BitVec 32} (hf : l.fullRing = false) (hi : bitsOf v.toNat 11 0 < l.depth)
    (hu : (bitsOf v.toNat 11 0 + l.depth - l.head) % l.depth ≤ (l.tail + l.depth - l.head) % l.depth) :
    l.setHead v = { l with head := bitsOf v.toNat 11 0 } := by
  have hused : l.used = (l.tail + l.depth - l.head) % l.depth := if_neg (by rw [hf]; exact Bool.false_ne_true)
  have hguard : ¬ (decide (bitsOf v.toNat 11 0 ≥ l.depth)
      || decide ((bitsOf v.toNat 11 0 + l.depth - l.head) % l.depth > l.used)) = true := by
    rw [hused]
    simp only [Bool.or_eq_true, decide_eq_true_eq]
    omega
  unfold EvLog.setHead
  simp only [hf, Bool.and_false, Bool.false_eq_true, if_false, Bool.false_and, if_neg hguard]
theorem EvLog.setCtl_bad_depth {l : EvLog} {v : BitVec 32} (hd : bitsOf v.toNat 3 0 < 4 ∨ 12 < bitsOf v.toNat 3 0) : l.setCtl v = l :=
  if_pos (by simpa using hd)
theorem EvLog.setCtl_same_depth {l : EvLog} {v : BitVec 32} (h4 : 4 ≤ bitsOf v.toNat 3 0) (h12 : bitsOf v.toNat 3 0 ≤ 12)
    (hd : bitsOf v.toNat 3 0 = bitsOf l.ctl.toNat 3 0) (hh : l.held = []) : l.setCtl v = { l with ctl := v &&& 0x8000000F } := by
  have hguard : ¬ (decide (bitsOf v.toNat 3 0 < 4) || decide (12 < bitsOf v.toNat 3 0)) = true := by
    simp only [Bool.or_eq_true, decide_eq_true_eq]
    omega
  have hrelease : ({ l with ctl := v &&& 0x8000000F } : EvLog).release = { l with ctl := v &&& 0x8000000F } := by
    unfold EvLog.release
    rw [hh]
    rfl
  unfold EvLog.setCtl
  simp only [if_neg hguard, if_pos hd, hrelease, ite_self]
theorem journalPart_of_part (p : Part) (h : p.val < 17) : journalPart ⟨p.val, h⟩ = some p := dif_pos p.isLt

/-! ### The T1H range table (R406) -/

theorem Partition.t1hOpen_of_active {t : Partition} (hst : t.st = .active) : t.t1hOpen = false := by
  rw [Partition.t1hOpen, hst]; rfl
/-- A valid entry is not written. -/
theorem Partition.t1hWrite_valid {t : Partition} {i : Nat} (hst : t.st = .active) (hv : bitOf (t.t1h.getD i (0, 0)).2.toNat 63 = true)
    (high : Bool) (v : Word) : t.t1hWrite i high v = t := by
  rw [Partition.t1hWrite, Partition.t1hOpen_of_active hst]
  exact if_pos (by rw [hv]; rfl)
theorem Partition.t1hWrite_first {t : Partition} {i : Nat} (hfirst : t.t1hFirst = i)
    (hv : bitOf (t.t1h.getD i (0, 0)).2.toNat 63 = false) (high : Bool) (v : Word) : t.t1hWrite i high v
      = if high then { t with t1h := t.t1h.put i ((t.t1h.getD i (0, 0)).1,
          (v &&& 0x80000000FFFFFFFF) ||| ((t.t1h.getD i (0, 0)).2 &&& 0x100000000)) }
        else if v.toNat % 2097152 ≠ 0 then t else { t with t1h := t.t1h.put i (v, (t.t1h.getD i (0, 0)).2) } := by
  have hguard : ¬ ((!t.t1hOpen) && (bitOf (t.t1h.getD i (0, 0)).2.toNat 63 || decide (t.t1hFirst ≠ i))) = true := by
    rw [hv, hfirst]
    simp
  rw [Partition.t1hWrite]
  exact if_neg hguard
/-- The base of an entry does not say which entry is the first to be written. -/
theorem Partition.t1hFirst_put_base (t : Partition) (i : Nat) (v : Word) :
    ({ t with t1h := t.t1h.put i (v, (t.t1h.getD i (0, 0)).2) } : Partition).t1hFirst = t.t1hFirst := by
  have hsame : ∀ j, ((t.t1h.put i (v, (t.t1h.getD i (0, 0)).2)).getD j (0, 0)).2 = (t.t1h.getD j (0, 0)).2 := fun j => by
    by_cases hj : j = i
    · subst hj
      rw [Tab.getD_put_self]
    · rw [Tab.getD_put_ne _ _ _ hj]
  unfold Partition.t1hFirst
  simp only [hsame]
theorem t1hRange_bits (r old : Word) : bitOf ((r &&& 0x80000000FFFFFFFF) ||| (old &&& 0x100000000)).toNat 63 = bitOf r.toNat 63
    ∧ bitsOf ((r &&& 0x80000000FFFFFFFF) ||| (old &&& 0x100000000)).toNat 31 0 = bitsOf r.toNat 31 0 := by
  have hlow : ∀ w : Word, bitsOf w.toNat 31 0 = (w.setWidth 32).toNat := fun w => by
    rw [BitVec.toNat_setWidth, bitsOf, Nat.pow_zero, Nat.div_one]
  have hmask : (0x80000000FFFFFFFF : Word).setWidth 32 = BitVec.allOnes 32 := by decide
  have hfailed : (0x100000000 : Word).setWidth 32 = 0#32 := by decide
  have h63 : (0x80000000FFFFFFFF : Word).getLsbD 63 = true := by decide
  have h63' : (0x100000000 : Word).getLsbD 63 = false := by decide
  refine ⟨?_, ?_⟩
  · rw [bitOf_toNat, bitOf_toNat, BitVec.getLsbD_or, BitVec.getLsbD_and, BitVec.getLsbD_and, h63, h63']
    simp
  · rw [hlow, hlow, BitVec.setWidth_or, BitVec.setWidth_and, BitVec.setWidth_and, hmask, hfailed, BitVec.and_allOnes, BitVec.and_zero,
      BitVec.or_zero]
/-- The base and the length of the first entry that is not valid. -/
theorem Partition.t1hAppend_first {t : Partition} {i : Nat} {b r : Word} (hfirst : t.t1hFirst = i)
    (hv : bitOf (t.t1h.getD i (0, 0)).2.toNat 63 = false) (hb : b.toNat % 2097152 = 0) :
    ((t.t1hWrite i false b).t1hWrite i true r).t1h.find i
      = some (b, (r &&& 0x80000000FFFFFFFF) ||| ((t.t1h.getD i (0, 0)).2 &&& 0x100000000)) := by
  have hbase : t.t1hWrite i false b = { t with t1h := t.t1h.put i (b, (t.t1h.getD i (0, 0)).2) } := by
    rw [Partition.t1hWrite_first hfirst hv, if_neg Bool.false_ne_true, if_neg (not_not_intro hb)]
  have hget : (t.t1h.put i (b, (t.t1h.getD i (0, 0)).2)).getD i (0, 0) = (b, (t.t1h.getD i (0, 0)).2) := Tab.getD_put_self ..
  rw [hbase, Partition.t1hWrite_first ((Partition.t1hFirst_put_base ..).trans hfirst) (by rw [hget]; exact hv), if_pos rfl, hget]
  exact Tab.find_put_self ..

/-! ### Mailboxes (R410) -/

theorem padTo_take_length {bs : List Byte} {n : Nat} (h : bs.length ≤ n) : (padTo bs n).take bs.length = bs := by
  rw [padTo, List.take_take, Nat.min_eq_left h]
  exact List.take_left
theorem Mailbox.go_page0 {m : Mailbox} {obj : Nat → Nat → Nat ⊕ List Byte} {bs : List Byte} (hpage : bitsOf m.sel.toNat 31 16 = 0)
    (ho : obj (bitsOf m.sel.toNat 7 0) (bitsOf m.sel.toNat 11 8) = .inr bs) :
    m.go obj = { m with code := 0, valid := min 4096 bs.length, snapshot := bs, window := padTo (bs.take 4096) 4096 } := by
  unfold Mailbox.go
  simp only [ho, hpage, Nat.mul_zero, List.drop_zero, List.length_take]
  rfl

/-! ### Port modes and AUXCLK -/

theorem State.devStore_portMode {s : State} {n : Nat} (hn : n < 16) (he : s.portExists n = true) (v : Nat) :
    s.devStore (portBase n + 4) v = s.setMode n v := by
  obtain ⟨b, hb⟩ : ∃ b, b = portBase n + 4 := ⟨_, rfl⟩
  have hval : b = 0x10000 + 0x2000 * n + 4 := hb
  have hport : (b - 0x10000) / 0x2000 = n := by omega
  have hlow : ∀ c, c < 0x10000 → ¬ b = c := fun c hc => by omega
  have hmode : (decide (0x10000 ≤ b) && decide (b % 0x2000 = 4)) = true := by
    rw [decide_eq_true (by omega : 0x10000 ≤ b), decide_eq_true (by omega : b % 0x2000 = 4)]; rfl
  rw [← hb]
  unfold State.devStore
  dsimp only
  rw [if_neg (hlow _ (by omega)), if_neg (hlow _ (by omega)), if_neg (hlow _ (by omega)), if_neg (by simp; omega), if_neg (hlow _ (by omega)),
    if_neg (hlow _ (by omega)), if_neg (hlow _ (by omega)), if_neg (hlow _ (by omega)), if_neg (hlow _ (by omega)), hport, he,
    if_neg (by simp), if_pos hmode]
theorem State.portReg_setMode (s : State) (n v : Nat) : (s.setMode n v).portReg n 4 = v % 2 := by
  show (((s.control.regs.put (portBase n + 4) (BitVec.ofNat 64 (v % 2))).find (portBase n + 4)).getD _).toNat = _
  rw [Tab.find_put_self, Option.getD_some, BitVec.toNat_ofNat]
  omega
/-- The port of a pair goes down where it is the port of the mode, or the other one of it. -/
theorem State.up_setMode {s : State} {n m v : Nat} (hm : (if n % 2 = 0 then m / 2 == n / 2 else m == n) = true) :
    ((s.setMode n v).prtNo m).up = false := by
  unfold State.prtNo State.setMode
  dsimp only
  rw [Tab.getD, Tab.find_mapV]
  cases s.ports.find m with
  | none => rfl
  | some q =>
    rw [Option.map_some, Option.getD_some, if_pos hm]
    rfl
theorem getElem?_listSet {α : Type} {l : List α} {i : Nat} {a : α} (h : l[i]? = some a) (f : α → α) : (listSet l i f)[i]? = some (f a) := by
  rw [listSet, List.getElem?_modify_eq, h]
  rfl


/-! ### Accesses by a BAR and on the sideband (R400, R412) -/

theorem ruled_in_range {bits v : Nat} {ok : Nat → Bool} (hb : v < 2 ^ bits) (ho : ok v = true) :
    ruled (some (bits, ok)) v = some (BitVec.ofNat 64 v) := if_pos (by rw [decide_eq_true hb]; exact ho)
theorem ruled_out_of_range {bits v : Nat} {ok : Nat → Bool} (ho : ok v = false) : ruled (some (bits, ok)) v = none :=
  if_neg (by rw [show (bits, ok).2 v = false from ho, Bool.and_false]; exact Bool.false_ne_true)

section
variable {s : State} {p : Part} {t : Partition} (hp : s.prt p = some t) (hst : t.st = .active)
include hp hst

/-- A partition that is ACTIVE takes a write of its register at 0x020. -/
theorem State.writeReg_0x020 (v : Nat) : s.writeReg (.part p) 0x020 8 v = match ruled (some (64, fun v => 65536 ≤ v && v ≤ 2 ^ 32)) v with
    | some x => s.updP p fun t => { t with regs := t.regs.put 0x020 x }
    | none => s := by
  show (match s.prt p with | none => s | some t => if t.st = .fenced && _ && _ then s else s.partStore p 0x020 v : State) = _
  rw [hp]
  dsimp only
  rw [hst]
  rfl
theorem State.regValue_active (base : Nat) : s.regValue (.part p) base = s.partValue p t base := by
  unfold State.regValue
  simp only [hp]
  rw [hst]
  rfl
end
theorem exec_registerRead_part {s : State} {p : Part} {off size : Nat} (hb : s.barUp = true) (hlow : off < 0xA000) (u : Nat)
    (hr : s.readReg (.part p) off size = (s, u)) : exec (.registerRead (.part p) off size) s = .next (s.answer .ok (BitVec.ofNat 64 u)) := by
  have hown : s.foreignCluster (.part p) off size = none := by
    refine if_neg ?_
    rw [decide_eq_false (by omega : ¬ 0xA000 ≤ off), Bool.and_false, Bool.false_and, Bool.false_and, Bool.false_and]
    exact Bool.false_ne_true
  refine congrArg Host.Outcome.next ((if_neg (by rw [hb]; exact Bool.false_ne_true)).trans ?_)
  rw [hr]
  dsimp only
  rw [hown]

section
variable {s : State} (hs : s.sidebandUp = true) (ha : Awake s)
include hs ha

theorem exec_regRead_up (off n : Nat) : exec (.regRead off n) s = .next (if !(dwordsOk off n) then s.answer .accessViolation
    else (s.readDwords off n).1.answer .ok 0 (s.readDwords off n).2) := by
  refine congrArg Host.Outcome.next ((if_neg (by rw [hs]; exact Bool.false_ne_true)).trans ?_)
  rw [State.wakeDevice_of_awake ha]
/-- The first register of the device map. -/
theorem exec_regRead_first : exec (.regRead 0 1) s = .next (s.answer .ok 0 (toLe 0x72400001 4)) := by
  have hok : dwordsOk 0 1 = true := by decide
  have hfirst : s.read4 .dev 0 = (s, 0x72400001) := rfl
  have hread : s.readDwords 0 1 = (s, toLe 0x72400001 4 ++ []) := by
    unfold State.readDwords
    rw [hfirst]
    rfl
  rw [exec_regRead_up hs ha, hok, hread, List.append_nil]
  rfl
theorem exec_regWrite_up (off : Nat) (l : List (BitVec 32)) : exec (.regWrite off l) s
    = .next (if !(dwordsOk off l.length) then s.answer .accessViolation else (s.answer .ok).writeDwords off l) := by
  refine congrArg Host.Outcome.next ((if_neg (by rw [hs]; exact Bool.false_ne_true)).trans ?_)
  rw [State.wakeDevice_of_awake ha]
end
/-- The power cap: 11 bits, from 300 to 950 W. -/
theorem State.writeDwords_pwrCap (s : State) (v : BitVec 32) : s.writeDwords 0x1004 [v]
    = match ruled (some (11, fun v => 300 ≤ v && v ≤ 950)) (v.toNat % 2 ^ 32) with
      | some x => { s with control := { s.control with regs := s.control.regs.put 0x1004 x } }
      | none => s := rfl

/-- Settles O51, clause by clause. -/
theorem registerResults : Obligations.RegisterResults := by
  unfold Obligations.RegisterResults
  intro s ha
  have hwake := State.wakeDevice_of_awake ha
  refine ⟨?bell, ?bellFenced, ?logs, ?t1h, ?mail, ?mode, ?aux, ?bar, ?barDown, ?side, ?sideDown⟩
  case bell =>
    intro p t n q v idx hp hst hq
    have hsq : exec (.sqDoorbell p n v) s = .next (s.ringDoorbell p n.val false v) :=
      congrArg (fun u : State => Host.Outcome.next (u.ringDoorbell p n.val false v)) (hwake _)
    have hcq : exec (.cqDoorbell p n v) s = .next (s.ringDoorbell p n.val true v) :=
      congrArg (fun u : State => Host.Outcome.next (u.ringDoorbell p n.val true v)) (hwake _)
    have hbell := State.doorbell_of_queue hp hq
    refine ⟨fun hr he hi => ?_, fun hr he hi hf => ?_, fun hr he hi => ?_, fun hr hd => ?_, fun hr => ?_⟩
    · rw [hsq, State.ringDoorbell_acted hp hst hr, hbell, if_neg (not_not_intro he), if_neg (Nat.not_le.2 hi)]
      rfl
    · rw [hcq, State.ringDoorbell_acted hp hst hr, hbell, if_neg (not_not_intro he), if_neg (Nat.not_le.2 hi),
        if_neg (by decide : ¬ (!true) = true), if_neg (Nat.not_lt.2 hf)]
      rfl
    · have hp' := State.prt_updP_of_prt hp fun t => { t with queues := t.queues.upd n.val fun q => { q with st := .error } }
      obtain ⟨t', ht', hqs⟩ := State.prt_statusEvent_queues hp' .accessViolation 0 (BitVec.ofNat 64 n.val)
      refine ⟨_, t', ?_, ht', ?_⟩
      · rw [hsq, State.ringDoorbell_acted hp hst hr, hbell, if_neg (not_not_intro he), if_pos hi]
        rfl
      · rw [hqs, Tab.find_upd_self, hq]
        rfl
    · obtain ⟨t', ht', hqs⟩ := State.prt_statusEvent_queues hp .accessViolation 0 (BitVec.ofNat 64 n.val)
      refine ⟨_, t', ?_, ht', hqs⟩
      rw [hsq, State.ringDoorbell_acted hp hst hr, hbell, if_pos (by rw [hd]; decide)]
    · rw [hsq, hcq, State.ringDoorbell_kept hp hst hr, State.ringDoorbell_kept hp hst hr]
      exact ⟨rfl, rfl⟩
  case bellFenced =>
    intro p t n v hp hst
    refine ⟨congrArg Host.Outcome.next ?_, congrArg Host.Outcome.next ?_⟩
    · rw [hwake, State.ringDoorbell_fenced hp hst]
    · rw [hwake, State.ringDoorbell_fenced hp hst]
  case logs =>
    intro p t v log hp hst
    have hj : journalPart log = some p := journalPart_of_part p _
    have hhead : exec (.evHeadWrite log v) s = .next (s.updLog log fun l => l.setHead v) :=
      congrArg (fun u : State => Host.Outcome.next (u.updLog log fun l => l.setHead v)) (hwake _)
    have hctl : exec (.evCtlWrite log v) s = .next (s.updLog log fun l => l.setCtl v) :=
      congrArg (fun u : State => Host.Outcome.next (u.updLog log fun l => l.setCtl v)) (hwake _)
    obtain ⟨th, hth, hevh⟩ := State.prt_updLog hp hj hst fun l => l.setHead v
    obtain ⟨tc, htc, hevc⟩ := State.prt_updLog hp hj hst fun l => l.setCtl v
    refine ⟨fun i hi hf hd hu => ?_, fun d hd hbad => ?_, fun d hd h4 h12 hsame hh => ?_⟩
    · subst hi
      exact ⟨_, th, hhead, hth, hevh.trans (EvLog.setHead_in_range hf hd hu)⟩
    · subst hd
      exact ⟨_, tc, hctl, htc, hevc.trans (EvLog.setCtl_bad_depth hbad)⟩
    · subst hd
      exact ⟨_, tc, hctl, htc, hevc.trans (EvLog.setCtl_same_depth h4 h12 hsame hh)⟩
  case t1h =>
    intro p t i b r hp hst
    have hgo : exec (.t1hRangeAppend p i b r) s = .next (s.updP p fun t => (t.t1hWrite i.val false b).t1hWrite i.val true r) :=
      congrArg (fun u : State => Host.Outcome.next (u.updP p fun t => (t.t1hWrite i.val false b).t1hWrite i.val true r)) (hwake _)
    have hp' := State.prt_updP_of_prt hp fun t => (t.t1hWrite i.val false b).t1hWrite i.val true r
    refine ⟨fun hfirst hv hb => ?_, fun hv => ?_⟩
    · exact ⟨_, _, _, hgo, hp', Partition.t1hAppend_first hfirst hv hb, rfl, t1hRange_bits r _⟩
    · refine ⟨_, hgo, hp'.trans ?_⟩
      rw [Partition.t1hWrite_valid hst hv, Partition.t1hWrite_valid hst hv]
  case mail =>
    intro p t hp hst hsel
    have hopen : s.mapOpen p = true := by
      rw [State.mapOpen, State.getP, hp]
      exact bne_iff_ne.2 hst
    have hgo : exec (.mailboxGo (.part p)) s = .next (s.mailGo (.part p)) := by
      show Host.Outcome.next (if (s.wakeDevice _).mapOpen p then (s.wakeDevice _).mailGo (.part p) else s.wakeDevice _) = _
      rw [hwake, hopen]
      rfl
    have hreport : s.mailObject (.part p) (bitsOf t.mailbox.sel.toNat 7 0) (bitsOf t.mailbox.sel.toNat 11 8) = .inr t.report.bytes := by
      rw [hsel]
      show Sum.inr (s.getP p [] fun t => t.report.bytes) = _
      rw [State.getP, hp]
    have hmail := Mailbox.go_page0 (m := t.mailbox) (by rw [hsel]; decide) hreport
    refine ⟨_, _, hgo, State.prt_updP_of_prt hp _, ?_, ?_, ?_⟩
    · exact congrArg Mailbox.code hmail
    · exact congrArg Mailbox.valid hmail
    · show (t.mailbox.go (s.mailObject (.part p))).window.take (t.mailbox.go (s.mailObject (.part p))).valid = _
      rw [hmail]
      dsimp only
      rw [← List.length_take]
      exact padTo_take_length (List.length_take_le ..)
  case mode =>
    intro port v he
    have hgo : exec (.portModeWrite port v) s = .next (s.setMode port.val v.toNat) := by
      show Host.Outcome.next ((s.wakeDevice _).devStore (portBase port.val + 4) v.toNat) = _
      rw [hwake, State.devStore_portMode port.isLt he]
    refine ⟨_, hgo, State.portReg_setMode .., State.up_setMode ?_, fun heven => State.up_setMode ?_⟩
    · split
      · exact beq_self_eq_true _
      · exact beq_self_eq_true _
    · rw [if_pos heven]
      exact beq_iff_eq.2 (by omega)
  case aux =>
    intro k a v hk
    have hgo : exec (.auxclkCtlWrite k v) s = .next (s.auxWrite k.val v.toNat) :=
      congrArg (fun u : State => Host.Outcome.next (u.auxWrite k.val v.toNat)) (hwake _)
    refine ⟨_, _, hgo, getElem?_listSet hk _, rfl, ?_, ?_, fun hbad => ?_⟩
    · by_cases h : bitsOf v.toNat 12 8 ≤ 30
      · rw [if_pos h]; exact if_neg (Nat.not_lt.2 h)
      · rw [if_neg h]; exact if_pos (Nat.lt_of_not_le h)
    · by_cases h : bitsOf v.toNat 4 0 ≤ 20
      · rw [if_pos h]; exact if_neg (Nat.not_lt.2 h)
      · rw [if_neg h]; exact if_pos (Nat.lt_of_not_le h)
    · show ((a.err && !(bitOf v.toNat 17)) || decide (bitsOf v.toNat 12 8 > 30) || decide (bitsOf v.toNat 4 0 > 20)) = true
      simp only [Bool.or_eq_true, decide_eq_true_eq]
      omega
  case bar =>
    intro p t v hb hp hst
    have hwrite : ∀ off size, exec (.registerWrite (.part p) off size v) s = .next (s.writeReg (.part p) off size v.toNat) := fun off size =>
      congrArg Host.Outcome.next ((if_pos hb).trans (by rw [hwake]))
    refine ⟨fun hlo hhi => ?_, fun hlo => ?_, hwrite 0x021 4, ?_, ?_, ?_⟩
    · rw [hwrite, State.writeReg_0x020 hp hst, ruled_in_range v.isLt (by
        rw [decide_eq_true hlo, decide_eq_true hhi]; rfl), BitVec.ofNat_toNat, BitVec.setWidth_eq]
    · rw [hwrite, State.writeReg_0x020 hp hst, ruled_out_of_range (by simp; omega)]
    · exact exec_registerRead_part hb (by decide) _ (congrArg (Prod.mk s) (State.regValue_active hp hst 0x020))
    · refine exec_registerRead_part hb (by decide) _ (congrArg (Prod.mk s) ?_)
      rw [State.regValue_active hp hst]
      exact Nat.mod_eq_of_lt (by have := p.isLt; show 0x100 + p.val < 2 ^ 32; omega)
    · exact exec_registerRead_part hb (by decide) 0 rfl
  case barDown =>
    intro map off size v hb
    exact ⟨congrArg Host.Outcome.next (if_neg (by rw [hb]; exact Bool.false_ne_true)), congrArg Host.Outcome.next (if_pos (by rw [hb]; rfl))⟩
  case side =>
    intro hs
    have hok : ∀ v : BitVec 32, dwordsOk 0x1004 [v].length = true := fun v => by
      rw [List.length_singleton]
      decide
    have hstatic : ∀ v : BitVec 32, exec (.regWrite 0x1004 [v]) s = .next ((s.answer .ok).writeDwords 0x1004 [v]) := fun v => by
      rw [exec_regWrite_up hs ha]
      exact congrArg Host.Outcome.next (if_neg (by rw [hok]; decide))
    refine ⟨?_, fun n hn => ?_, fun v hlo hhi => ?_, fun v hbad => ?_, fun e => ?_, fun d => ?_⟩
    · exact ⟨_, _, exec_regRead_first hs ha, rfl, rfl, rfl⟩
    · have hno : dwordsOk 0 n = false := by
        unfold dwordsOk
        rcases hn with rfl | hn
        · rfl
        · rw [decide_eq_false (by omega : ¬ n ≤ 16)]
          simp
      exact ⟨_, (exec_regRead_up hs ha 0 n).trans (by rw [hno]; rfl), answers_answer ..⟩
    · have hin := ruled_in_range (bits := 11) (v := v.toNat % 2 ^ 32) (ok := fun v => 300 ≤ v && v ≤ 950) (by omega) (by
        rw [Nat.mod_eq_of_lt v.isLt]
        simp [hlo, hhi])
      refine ⟨_, hstatic v, ?_, ?_⟩
      · rw [State.writeDwords_pwrCap, hin]
        exact ⟨_, rfl, rfl, rfl⟩
      · rw [State.writeDwords_pwrCap, hin]
        show (((s.control.regs.put 0x1004 _).find 0x1004).getD _).toNat = _
        rw [Tab.find_put_self, Option.getD_some, BitVec.toNat_ofNat, Nat.mod_eq_of_lt v.isLt]
        exact Nat.mod_eq_of_lt (by omega)
    · have hout := ruled_out_of_range (bits := 11) (v := v.toNat % 2 ^ 32) (ok := fun v => 300 ≤ v && v ≤ 950) (by
        rw [Nat.mod_eq_of_lt v.isLt]
        simp
        omega)
      refine ⟨_, hstatic v, ?_⟩
      rw [State.writeDwords_pwrCap, hout]
      rfl
    · have hgo : exec (.mctpSetEndpointId e) s = .next (({ s with sideband := { s.sideband with eid := e } }).answer .ok) := by
        refine congrArg Host.Outcome.next ((if_neg (by rw [hs]; exact Bool.false_ne_true)).trans ?_)
        rw [hwake]
      exact ⟨_, hgo, answers_answer .., rfl⟩
    · exact ⟨_, congrArg Host.Outcome.next (if_neg (by rw [hs]; exact Bool.false_ne_true)), answers_answer .., rfl⟩
  case sideDown =>
    intro hs c hc
    have hdown : (!s.sidebandUp) = true := by rw [hs]; rfl
    simp only [List.mem_cons, List.not_mem_nil, or_false] at hc
    rcases hc with rfl | rfl | rfl | rfl
    · exact congrArg Host.Outcome.next (if_pos hdown)
    · exact congrArg Host.Outcome.next (if_pos hdown)
    · exact congrArg Host.Outcome.next (if_pos hdown)
    · exact congrArg Host.Outcome.next (if_pos hdown)

end Sys2Proof.Machine
end

section
/-! SUPPORT. The frame of the device's identity (15), of pages, sessions and steps: none of these
operations writes it. -/

namespace Sys2Proof.Machine
open Sys2Proof.Cert

/-! ### Runs, guards and choices -/

theorem State.forEach_ident {β : Type} {s : State} {l : List β} {f : State → β → State}
    (h : ∀ s b, (f s b).ident = s.ident) : (s.forEach l f).ident = s.ident := State.forEach_keeps (·.ident) l f h s
theorem State.foldl_ident {α β : Type} {f : State × α → β → State × α} (h : ∀ a b, (f a b).1.ident = a.1.ident) (l : List β)
    (a : State × α) : (l.foldl f a).1.ident = a.1.ident := by
  induction l generalizing a with
  | nil => rfl
  | cons b l ih => rw [List.foldl_cons, ih, h]
theorem State.ite_ident {c : Prop} [Decidable c] {s t u : State} (ht : t.ident = s.ident) (hu : u.ident = s.ident) :
    (if c then t else u).ident = s.ident := by
  split
  · exact ht
  · exact hu
theorem State.iteFst_ident {α : Type} {c : Prop} [Decidable c] {s : State} {t u : State × α} (ht : t.1.ident = s.ident)
    (hu : u.1.ident = s.ident) : (if c then t else u).1.ident = s.ident := by
  split
  · exact ht
  · exact hu

/-! ### The shared operations -/

section
variable (s : State) (p : Part)

theorem State.withP_ident {s : State} {p : Part} {f : Partition → State} (h : ∀ t, (f t).ident = s.ident) :
    (s.withP p f).ident = s.ident := by
  unfold State.withP; split <;> simp [h]
@[simp] theorem State.fresh_ident : s.fresh.2.ident = s.ident := rfl
@[simp] theorem State.statusEvent_ident (st : Status) (object arg : Word) : (s.statusEvent p st object arg).ident = s.ident := rfl
@[simp] theorem State.wakeDevice_ident (cause : Nat) : (s.wakeDevice cause).ident = s.ident := by
  simp [State.wakeDevice, apply_ite State.ident]
@[simp] theorem State.handleEvent_ident (kind : Nat) (h : Handle) : (s.handleEvent p kind h).ident = s.ident := by
  simp [State.handleEvent, apply_ite State.ident]
end

/-! ### Groups, copies and their tiers (04) -/

section
variable (s : State) (p : Part)

@[simp] theorem State.cluCount_ident (c n k : Nat) : (s.cluCount c n k).ident = s.ident := rfl
@[simp] theorem State.removeNode_ident (n : Nat) : (s.removeNode p n).ident = s.ident := by
  unfold State.removeNode
  refine State.withP_ident fun _ => ?_
  (repeat' split) <;> simp
@[simp] theorem State.settleDomains_ident : s.settleDomains.ident = s.ident := rfl
@[simp] theorem State.nextPiece_ident (key : Nat) : (s.nextPiece key).ident = s.ident := by
  unfold State.nextPiece
  dsimp only
  (repeat' split) <;> simp
@[simp] theorem State.addCopy_ident (key : Nat) (k : CopyKind) (prio bytes : Nat) : (s.addCopy key p k prio bytes).ident = s.ident := by
  simp [State.addCopy, apply_ite State.ident]
@[simp] theorem State.dropCopies_ident (f : Copy → Bool) : (s.dropCopies p f).ident = s.ident := rfl
@[simp] theorem State.hurry_ident (k : CopyKind) (prio : Nat) : (s.hurry p k prio).ident = s.ident := rfl
@[simp] theorem State.jwrite_ident (j jtype step : Nat) (object : Handle) (body : JBody) (forced : Bool) :
    (s.jwrite j jtype step object body forced).1.ident = s.ident := rfl
@[simp] theorem State.jlog_ident (j jtype step : Nat) (object : Handle) (body : JBody) :
    (s.jlog j jtype step object body).ident = s.ident := rfl
@[simp] theorem State.flashCount_ident (n k : Nat) : (s.flashCount n k).ident = s.ident := rfl
@[simp] theorem State.unmap_ident (o : FlashOwner) : (s.unmap p o).ident = s.ident := by simp [State.unmap, apply_ite State.ident]
@[simp] theorem State.staleUnits_ident (o : FlashOwner) (is_ : List Nat) : (s.staleUnits p o is_).ident = s.ident := rfl
@[simp] theorem State.freeGroup_ident (g : Nat) : (s.freeGroup p g).ident = s.ident := by unfold State.freeGroup; split <;> simp
@[simp] theorem State.settleGroup_ident (g : Nat) : (s.settleGroup p g).ident = s.ident := by
  unfold State.settleGroup
  split <;> simp [apply_ite State.ident]
@[simp] theorem State.dropOpened_ident (g : Nat) : (s.dropOpened p g).ident = s.ident := by
  simp [State.dropOpened, apply_ite State.ident]
@[simp] theorem State.refUp_ident (g : Nat) : (s.refUp p g).ident = s.ident := rfl
@[simp] theorem State.refDown_ident (g : Nat) : (s.refDown p g).ident = s.ident := by simp [State.refDown]
@[simp] theorem State.dropGroup_ident (g : Nat) : (s.dropGroup p g).ident = s.ident := by
  unfold State.dropGroup
  split <;> simp [State.forEach_ident]
@[simp] theorem State.dropPoisoned_ident (g : Nat) : (s.dropPoisoned p g).ident = s.ident := by
  simp [State.dropPoisoned, apply_ite State.ident]
@[simp] theorem State.unpin_ident (g : Nat) : (s.unpin p g).ident = s.ident := by simp [State.unpin]
@[simp] theorem State.freeFrame_ident (g : Nat) : (s.freeFrame p g).ident = s.ident := rfl
@[simp] theorem State.reclaim_ident (g : Nat) : (s.reclaim p g).ident = s.ident := by
  unfold State.reclaim
  split <;> simp [apply_ite State.ident]
@[simp] theorem State.loseBacking_ident (g : Nat) : (s.loseBacking p g).ident = s.ident := by simp [State.loseBacking]
@[simp] theorem State.roRefusal_ident : s.roRefusal.ident = s.ident := rfl
@[simp] theorem State.beginDemotion_ident (g : Nat) (dest : Tier) (prio : Nat) : (s.beginDemotion p g dest prio).ident = s.ident := by
  unfold State.beginDemotion
  split <;> simp
@[simp] theorem State.winnowT2_ident (s : State) (p : Part) (room : State → Bool) : (s.winnowT2 p room).ident = s.ident := by
  simp [State.winnowT2, apply_ite State.ident, State.forEach_ident]
@[simp] theorem State.roomT2_ident (bytes : Nat) : (s.roomT2 p bytes).ident = s.ident := by simp [State.roomT2]
@[simp] theorem State.demoteT2_ident (g prio : Nat) : (s.demoteT2 p g prio).ident = s.ident := by
  unfold State.demoteT2
  split <;> simp [apply_ite State.ident]
@[simp] theorem State.roomIn_ident (t : Tier) (bytes prio : Nat) : (s.roomIn p t bytes prio).ident = s.ident := by
  simp [State.roomIn, apply_ite State.ident, State.forEach_ident]
@[simp] theorem State.demote_ident (g : Nat) (t2 : Bool) (prio : Nat) : (s.demote p g t2 prio).ident = s.ident := by
  unfold State.demote
  split <;> simp [apply_ite State.ident]
@[simp] theorem State.evict_ident (t : Tier) (c : Cand) (prio : Nat) : (s.evict p t c prio).ident = s.ident := by
  simp [State.evict, apply_ite State.ident]
@[simp] theorem State.evictFor_ident (me : Nat) (c : Cand) : (s.evictFor p me c).ident = s.ident := by simp [State.evictFor]
@[simp] theorem State.evictUntil_ident (r : FrameReq) (q : Nat) (l : List Cand) : (s.evictUntil p r q l).ident = s.ident := by
  induction l generalizing s with
  | nil => rfl
  | cons c cs ih => simp [State.evictUntil, apply_ite State.ident, ih, State.evictFor_ident]
@[simp] theorem State.relocate_ident (q me : Nat) : (s.relocate p q me).ident = s.ident := by
  unfold State.relocate
  (repeat' split) <;> simp
end

/-! ### The prefix store (05) -/

section
variable (s : State) (p : Part)

@[simp] theorem State.camFill_ident (node : Nat) : (s.camFill p node).ident = s.ident := by
  unfold State.camFill
  refine State.withP_ident fun _ => ?_
  (repeat' split) <;> simp [apply_ite State.ident]
@[simp] theorem State.hitNode_ident (o : Part) (n : Nat) : (s.hitNode o n).ident = s.ident := rfl
@[simp] theorem State.lookup_ident (dom model : BitVec 16) (key : Key128) : (s.lookup p dom model key).1.ident = s.ident := by
  unfold State.lookup
  dsimp only
  (repeat' split) <;> simp
@[simp] theorem State.insertNode_ident (g : Nat) (key : Key128) (dom model : BitVec 16) (block : Nat) (parent : Handle) (imported :
    Bool) :
    (s.insertNode p g key dom model block parent imported).ident = s.ident := by
  unfold State.insertNode
  (repeat' split) <;> simp
end

/-! ### Sessions, frames and parking (01, 08, 09) -/

section
variable (s : State) (p : Part)

@[simp] theorem State.sessRecord_ident (idx jtype step : Nat) : (s.sessRecord p idx jtype step).1.ident = s.ident := by
  unfold State.sessRecord
  split <;> rfl
@[simp] theorem State.endCmd_ident (q : Nat) (cid : BitVec 16) (st : Status) (reason step : Nat) :
    (s.endCmd p q cid st reason step).ident = s.ident := by
  simp [State.endCmd, apply_ite State.ident]
@[simp] theorem State.endReq_ident (q : Nat) (cid : BitVec 16) (st : Status) (reason index step : Nat) (word : Option Word) :
    (s.endReq p q cid st reason index step word).ident = s.ident := by
  unfold State.endReq
  (repeat' split) <;> simp
@[simp] theorem State.freeSeq_ident (i : Nat) : (s.freeSeq p i).ident = s.ident := by
  unfold State.freeSeq
  split <;> simp [apply_ite State.ident, State.forEach_ident]
@[simp] theorem State.freeRegion_ident (i : Nat) : (s.freeRegion p i).ident = s.ident := by unfold State.freeRegion; split <;> simp
@[simp] theorem State.cancelPromotion_ident (prio g : Nat) : (s.cancelPromotion p prio g).ident = s.ident := by
  unfold State.cancelPromotion
  split <;> simp [apply_ite State.ident]
@[simp] theorem State.stopRevival_ident (sess : Nat) (st : Status) (reqs : Bool) : (s.stopRevival p sess st reqs).ident = s.ident := by
  unfold State.stopRevival
  split <;> simp [apply_ite State.ident, State.forEach_ident]
@[simp] theorem State.recFor_ident (step j : Nat) : (s.recFor p step j).ident = s.ident := rfl
@[simp] theorem State.recLeavers_ident (i j : Nat) : (s.recLeavers p i j).ident = s.ident := rfl
@[simp] theorem State.freeSession_ident (i event step : Nat) : (s.freeSession p i event step).1.ident = s.ident := by
  unfold State.freeSession
  split <;> simp [apply_ite State.ident, State.forEach_ident]
@[simp] theorem State.expire_ident : (s.expire p).ident = s.ident := by simp [State.expire, State.forEach_ident]
@[simp] theorem State.parkDemote_ident (i demote : Nat) : (s.parkDemote p i demote).ident = s.ident := by
  grind [State.parkDemote, State.forEach_ident, State.freeFrame_ident, State.demote_ident]
@[simp] theorem State.parkNow_ident (i : Nat) (a : ParkArgs) (step : Nat) (fresh now : Bool) :
    (s.parkNow p i a step fresh now).1.ident = s.ident := by
  unfold State.parkNow
  split <;> simp [apply_ite State.ident, State.forEach_ident]
@[simp] theorem State.pressurePark_ident (i : Nat) : (s.pressurePark p i).ident = s.ident := by
  unfold State.pressurePark
  split <;> simp [apply_ite State.ident]
@[simp] theorem State.stage4_ident (r : FrameReq) (q : Nat) : (s.stage4 p r q).ident = s.ident := by simp [State.stage4]
@[simp] theorem State.stage5_ident (r : FrameReq) (q : Nat) : (s.stage5 p r q).ident = s.ident := by
  simp [State.stage5, apply_ite State.ident, State.forEach_ident]
@[simp] theorem State.stage6_ident (r : FrameReq) (q : Nat) : (s.stage6 p r q).ident = s.ident := by
  simp [State.stage6, apply_ite State.ident, State.forEach_ident]
theorem State.overQuads_ident {s : State} {p : Part} {r : FrameReq} {f : State → Nat → State}
    (h : ∀ s q, (f s q).ident = s.ident) : (s.overQuads p r f).ident = s.ident :=
  State.forEach_ident fun s q => by split <;> simp [h]
@[simp] theorem State.unreserve_ident (me : Nat) : (s.unreserve p me).ident = s.ident := rfl
@[simp] theorem State.giveBlocks_ident (q me : Nat) (runs : List (Nat × Nat)) : (s.giveBlocks p q me runs).ident = s.ident := rfl
@[simp] theorem State.await_ident (r : FrameReq) (q : Nat) : (s.await p r q).ident = s.ident := rfl
@[simp] theorem State.allocFrame_ident (r : FrameReq) : (s.allocFrame p r).1.ident = s.ident := by
  grind [State.allocFrame, State.unreserve_ident, State.await_ident, State.relocate_ident, State.count_ident, State.overQuads_ident,
    State.stage4_ident, State.stage5_ident, State.stage6_ident, State.giveBlocks_ident]
@[simp] theorem State.startPromotion_ident (g q f m prio : Nat) : (s.startPromotion p g q f m prio).ident = s.ident := by
  unfold State.startPromotion
  split <;> simp
@[simp] theorem State.dropUnreachable_ident (g : Nat) : (s.dropUnreachable p g).ident = s.ident := by simp [State.dropUnreachable]
@[simp] theorem State.meet_ident (g home prio me : Nat) (sess : Option Nat) (noPark : Bool) :
    (s.meet p g home prio me sess noPark).1.ident = s.ident := by
  grind [State.meet, State.hurry_ident, State.updGroup_ident, State.dropCopies_ident, State.allocFrame_ident,
    State.startPromotion_ident, State.dropUnreachable_ident]
end

/-! ### Steps and their ends (03) -/

section
variable (s : State) (p : Part)

@[simp] theorem State.sendMsg_ident (qp member : Option Nat) (m : Msg) : (s.sendMsg p qp member m).ident = s.ident := rfl
@[simp] theorem State.portWrite_ident (n : Nat) (rkey : BitVec 32) (roff : Nat) (bytes : List Byte) (final : Bool) :
    (s.portWrite p n rkey roff bytes final).ident = s.ident := by
  simp [State.portWrite, apply_ite State.ident]
@[simp] theorem State.toFollowers_ident (m : ModelDesc) (msg : Msg) :
    (s.toFollowers p m msg).ident = s.ident := State.forEach_ident fun _ _ => rfl
@[simp] theorem State.toLead_ident (m : ModelDesc) (msg : Msg) : (s.toLead p m msg).ident = s.ident := rfl
@[simp] theorem State.boundary_ident (sess : Option Nat) : (s.boundary p sess).ident = s.ident := by
  unfold State.boundary
  (repeat' split) <;> simp
@[simp] theorem State.boundaries_ident : (s.boundaries p).ident = s.ident := by simp [State.boundaries, State.forEach_ident]
@[simp] theorem State.seqBoundary_ident (seq : Option Nat) : (s.seqBoundary p seq).ident = s.ident := by
  unfold State.seqBoundary
  split <;> simp [apply_ite State.ident]
@[simp] theorem State.trimGroup_ident (g : Nat) : (s.trimGroup p g).ident = s.ident := by
  unfold State.trimGroup
  split <;> simp [apply_ite State.ident]
@[simp] theorem State.trimSeq_ident (i : Nat) : (s.trimSeq p i).ident = s.ident := by
  unfold State.trimSeq
  split <;> simp [apply_ite State.ident, State.forEach_ident]
@[simp] theorem State.unpinChunks_ident (k : CopyKind) : (s.unpinChunks p k).ident = s.ident := by
  unfold State.unpinChunks
  split <;> rfl
@[simp] theorem State.cancelMoves_ident (num : Nat) : (s.cancelMoves p num).ident = s.ident := by
  simp [State.cancelMoves, State.forEach_ident]
@[simp] theorem State.releasePins_ident (k : Step) : (s.releasePins p k).ident = s.ident := by
  simp [State.releasePins, State.forEach_ident]
@[simp] theorem State.releaseReserved_ident (num : Nat) : (s.releaseReserved p num).ident = s.ident := rfl
@[simp] theorem State.squashEffects_ident (k : Step) (st : Status) : (s.squashEffects p k st).ident = s.ident := by
  unfold State.squashEffects
  split <;> simp [apply_ite State.ident, State.forEach_ident]
@[simp] theorem State.fetchRefused_ident (w : Wave) (st : Status) : (s.fetchRefused p w st).ident = s.ident := by
  simp [State.fetchRefused, apply_ite State.ident]
@[simp] theorem State.hgSquashed_ident (k : Step) (st : Status) : (s.hgSquashed p k st).ident = s.ident := by
  unfold State.hgSquashed
  (repeat' split) <;> simp
@[simp] theorem State.progRecord_ident (i : Nat) : (s.progRecord p i).ident = s.ident := rfl
@[simp] theorem State.settleProgram_ident (i : Nat) : (s.settleProgram p i).ident = s.ident := by
  grind [State.settleProgram, State.progRecord_ident, State.updP_ident, State.forEach_ident, State.finish_ident]
@[simp] theorem State.squash_ident (num : Nat) (st : Status) (logged : Bool) (reason : Nat) (word : Bool) :
    (s.squash p num st logged reason word).ident = s.ident := by
  unfold State.squash
  dsimp only
  (repeat' split) <;> simp
@[simp] theorem State.pinFor_ident (num g : Nat) : (s.pinFor p num g).ident = s.ident := by simp [State.pinFor, apply_ite State.ident]
@[simp] theorem State.walkGroup_ident (k : Step) (g : Nat) : (s.walkGroup p k g).1.ident = s.ident := by simp [State.walkGroup]
@[simp] theorem State.walkBlocks_ident (k : Step) (seq : Nat) (l : List Nat) (a1 : Nat) :
    (s.walkBlocks p k seq l a1).1.ident = s.ident := by
  induction l generalizing s a1 with
  | nil => rfl
  | cons b bs ih => grind [State.walkBlocks, State.walkGroup_ident]
@[simp] theorem State.endAhead_ident (x : StepRef) : (s.endAhead x).ident = s.ident := rfl
@[simp] theorem State.retire_ident (x : StepRef) (d : Deps) (rec_ : Bool) (codeLen : Nat) (o : IOut) :
    (s.retire x d rec_ codeLen o).ident = s.ident := by
  unfold State.retire
  split <;> simp [apply_ite State.ident]
theorem State.retireAhead_ident {s₀ s : State} (h : s.ident = s₀.ident) (x : StepRef) (d : Deps) (r : RunAhead) (n : Nat) (o : IOut) :
    (State.retireAhead s₀ s x d r n o).ident = s₀.ident := by
  unfold State.retireAhead; split <;> simp [h, apply_ite State.ident]
theorem State.issue_ident {s : State} {x : StepRef} {d : Deps} {r : Bool} {body : Iss → State × IOut}
    (h : ∀ i, (body i).1.ident = i.s.ident) : (s.issue x d r body).ident = s.ident := by
  unfold State.issue
  split
  · rfl
  · split
    · rfl
    · split
      · rfl
      · dsimp only
        split
        · split <;> simp [h]
        · split
          · rfl
          · split
            · exact State.retireAhead_ident (h _) ..
            · simp
        · rfl
@[simp] theorem State.scalar_ident (x : StepRef) (d : Deps) (f : Ctx → Ctx) :
    (s.scalar x d f).ident = s.ident := State.issue_ident fun _ => rfl
theorem Iss.with_ident {i : Iss} {kind : Nat} {h : Handle} {c : Ctx} {f : Unit → State × IOut} (hf : (f ()).1.ident = i.s.ident) :
    (i.with kind h c f).1.ident = i.s.ident := by
  unfold Iss.with; split <;> simp [hf]
@[simp] theorem Iss.bad_ident (i : Iss) (st : Status) (c : Ctx) : (i.bad st c).1.ident = i.s.ident := rfl
@[simp] theorem Iss.keep_ident (i : Iss) (ops vals : List Word) : (Iss.keep i s ops vals).ident = s.ident := rfl
end

end Sys2Proof.Machine
end

section
/-! SUPPORT. The frame of the device's identity (15), of the instruction groups, revival, scheduling and regions: none of these
operations writes it. -/

namespace Sys2Proof.Machine
open Sys2Proof.Cert

/-! ### The scalar groups (16) -/

section
variable (s : State) (p : Part)

@[simp] theorem State.alu_ident (x : StepRef) (d a b : GReg) (op : Word → Word → Word) : (s.alu x d a b op).ident = s.ident := by
  simp [State.alu]
@[simp] theorem State.cmp_ident (x : StepRef) (d : FReg) (a b : GReg) (op : Word → Word → Bool) : (s.cmp x d a b op).ident = s.ident := by
  simp [State.cmp]
@[simp] theorem State.flagOp_ident (x : StepRef) (d a b : FReg) (op : Bool → Bool → Bool) : (s.flagOp x d a b op).ident = s.ident := by
  simp [State.flagOp]
@[simp] theorem State.unary_ident (x : StepRef) (d a : GReg) (op : Word → Word) : (s.unary x d a op).ident = s.ident := by
  simp [State.unary]
@[simp] theorem State.cmpImm_ident (x : StepRef) (d : FReg) (a : GReg) (imm : BitVec 32) (op : Word → Word → Bool) :
    (s.cmpImm x d a imm op).ident = s.ident := by
  simp [State.cmpImm]
@[simp] theorem State.shiftImm_ident (x : StepRef) (d a : GReg) (imm : BitVec 32) (op : Word → Nat → Word) :
    (s.shiftImm x d a imm op).ident = s.ident := State.issue_ident fun _ => by split <;> rfl
end

/-! ### The page-table group (16 R375, R376) -/

section
variable (s : State) (p : Part)

@[simp] theorem State.openGroup_ident (x : StepRef) (seq block : Nat) (g : Group) : (s.openGroup x seq block g).ident = s.ident := by
  simp [State.openGroup]
@[simp] theorem State.newGroupFor_ident (x : StepRef) (k : Step) (m : ModelDesc) (seq block : Nat) (noPark : Bool) (mk : Handle →
    Nat → Nat → Nat → Group) :
    (s.newGroupFor x k m seq block noPark mk).1.ident = s.ident := by
  grind [State.newGroupFor, State.allocFrame_ident, State.openGroup_ident]
@[simp] theorem State.whenResident_ident (lane : Bool) (g : Nat) : (s.whenResident p lane g).1.ident = s.ident := rfl
@[simp] theorem State.copyShared_ident (x : StepRef) (k : Step) (m : ModelDesc) (seq block : Nat) (g : Group) :
    (s.copyShared x k m seq block g).1.ident = s.ident := by
  grind [State.copyShared, State.newGroupFor_ident, State.addCopy_ident]
@[simp] theorem State.writable_ident (x : StepRef) (k : Step) (m : ModelDesc) (dom : BitVec 16) (seq block : Nat) (draft lane :
    Bool) :
    (s.writable x k m dom seq block draft lane).1.ident = s.ident := by
  unfold State.writable
  (repeat' split) <;> grind [State.newGroupFor_ident, State.whenResident_ident, State.updP_ident, State.pinFor_ident,
    State.copyShared_ident, State.count_ident, State.log_ident, State.walkGroup_ident]
@[simp] theorem State.writables_ident (x : StepRef) (k : Step) (m : ModelDesc) (dom : BitVec 16) (seq first : Nat) (drafts : Bool)
    (l : List Nat) :
    (s.writables x k m dom seq first drafts l).1.ident = s.ident := by
  induction l generalizing s with
  | nil => rfl
  | cons b bs ih => grind [State.writables, State.writable_ident]
@[simp] theorem State.writePos_ident (x : StepRef) (m : ModelDesc) (seq layer pos fmt : Nat) (body : List Byte) (at_ : Bool → Nat →
    Nat) :
    (s.writePos x m seq layer pos fmt body at_).ident = s.ident := by
  unfold State.writePos
  (repeat' split) <;> simp
@[simp] theorem State.summariseBlock_ident (m : ModelDesc) (seq block : Nat) (g : Group) :
    (s.summariseBlock p m seq block g).ident = s.ident := by
  simp [State.summariseBlock, apply_ite State.ident]
@[simp] theorem State.coarseRoom_ident (me home : Nat) (sess : Option Nat) (m : ModelDesc) (seq : Nat) (l : List Nat) :
    (s.coarseRoom p me home sess m seq l).1.ident = s.ident := by
  induction l generalizing s with
  | nil => rfl
  | cons b bs ih => grind [State.coarseRoom, State.allocFrame_ident, State.updSeq_ident, State.updP_ident]
@[simp] theorem State.coarseFor_ident (s : State) (p : Part) (k : Step) (m : ModelDesc) (sess : Nat) (bs : List (Nat × Nat × Group)) :
    (s.coarseFor p k m sess bs).1.ident = s.ident := by
  unfold State.coarseFor
  split
  · rfl
  · refine State.foldl_ident (fun a e => ?_) bs (s, CoarseRes.fine)
    grind [State.coarseRoom_ident]
@[simp] theorem State.forkCoarse_ident (m : ModelDesc) (dst : Nat) (o : Sequence) : (s.forkCoarse p m dst o).ident = s.ident := by
  unfold State.forkCoarse
  refine State.forEach_ident fun _ _ => ?_
  (repeat' split) <;> simp
@[simp] theorem State.keyReport_ident (key : BitVec 32) : (s.keyReport p key).ident = s.ident := by
  unfold State.keyReport
  dsimp only
  split <;> simp
@[simp] theorem State.emit_ident (x : StepRef) (layer : Nat) (m : ModelDesc) (ds : List Desc) : (s.emit x layer m ds).ident = s.ident := by
  unfold State.emit
  refine State.forEach_ident fun _ _ => ?_
  (repeat' split) <;> simp
@[simp] theorem State.forkCopies_ident (x : StepRef) (k : Step) (m : ModelDesc) (dst src : Nat) (l : List Nat) :
    (s.forkCopies x k m dst src l).1.ident = s.ident := by
  induction l generalizing s with
  | nil => rfl
  | cons b bs ih => grind [State.forkCopies, State.copyShared_ident, State.pinFor_ident, State.count_ident]
end

/-! ### The prefix group (16 R377, R378) -/

section
variable (s : State) (p : Part)

@[simp] theorem State.pinHit_ident (num g : Nat) : (s.pinHit p num g).ident = s.ident := by simp [State.pinHit]
@[simp] theorem State.pinOther_ident (x : StepRef) (o : Part) (g : Nat) : (s.pinOther x o g).ident = s.ident := rfl
@[simp] theorem State.takeHit_ident (k : Step) (h : Handle) (promote : Bool) : (s.takeHit p k h promote).1.ident = s.ident := by
  grind [State.takeHit, State.pinHit_ident, State.meet_ident]
@[simp] theorem State.importGroup_ident (me home : Nat) (sess : Option Nat) (step : Bool) (m : ModelDesc) (o : Part) (n : Nat) (key
    : Key128) (dom : BitVec 16) (parent : Handle) :
    (s.importGroup p me home sess step m o n key dom parent).1.ident = s.ident := by
  grind [State.importGroup, State.allocFrame_ident, State.pinOther_ident, State.updP_ident, State.pinFor_ident, State.count_ident,
    State.insertNode_ident, State.settleGroup_ident]
@[simp] theorem State.probe_ident (x : StepRef) (k : Step) (m : ModelDesc) (dom : BitVec 16) (key : Key128) (parent : Handle)
    (promote : Bool) :
    (s.probe x k m dom key parent promote).1.ident = s.ident := by
  grind [State.probe, State.lookup_ident, State.dropUnreachable_ident, State.takeHit_ident, State.importGroup_ident]
@[simp] theorem State.matchWalk_ident (x : StepRef) (k : Step) (m : ModelDesc) (dom : BitVec 16) (et : Bool) (seq : Nat) (l : List
    Key128) (a1 : Nat) (a2 : Handle) :
    (s.matchWalk x k m dom et seq l a1 a2).1.ident = s.ident := by
  induction l generalizing s a1 a2 with
  | nil => rfl
  | cons key ks ih =>
    have hks (s : State) : (ks.foldl (fun (s : State) k' => (s.lookup x.part dom m.modelId k').1) s).ident = s.ident :=
      State.forEach_ident fun _ _ => State.lookup_ident ..
    grind [State.matchWalk, State.probe_ident, State.log_ident, State.copyShared_ident]
end

/-! ### The move group (16 R384 to R386) -/

section
variable (s : State) (p : Part)

@[simp] theorem State.takeChunks_ident (x : StepRef) (k : Step) (ri : Nat) (l : List Nat) : (s.takeChunks x k ri l).1.ident = s.ident := by
  induction l generalizing s with
  | nil => rfl
  | cons b bs ih => grind [State.takeChunks, State.allocFrame_ident, State.updRegion_ident]
end

/-! ### The step group (16 R387 to R389) -/

section
variable (s : State) (p : Part)

@[simp] theorem State.deliver_ident (x : StepRef) (b : BufMsg) : (s.deliver x b).1.ident = s.ident := rfl
end

/-! ### The session group (16 R391) -/

section
variable (s : State) (p : Part)

@[simp] theorem State.defer_ident (x : StepRef) (d : Deferred) (o : LogOp) : (s.defer x d o).ident = s.ident := rfl
end

/-! ### Revival and the clock (09) -/

section
variable (s : State) (p : Part)

@[simp] theorem State.applyEntry_ident (o : LogOp) : (s.applyEntry p o).ident = s.ident := by unfold State.applyEntry; split <;> rfl
@[simp] theorem State.reviveLookups_ident (x : StepRef) (k : Step) (m : ModelDesc) (dom : BitVec 16) (sq : Sequence) (seq : Nat)
    (missed : Bool) (l : List Nat) :
    (s.reviveLookups x k m dom sq seq missed l).1.ident = s.ident := by
  induction l generalizing s missed with
  | nil => rfl
  | cons b bs ih => grind [State.reviveLookups, State.probe_ident, State.lookup_ident, State.log_ident]
@[simp] theorem State.wanted_ident (g : Nat) : (s.wanted p g).ident = s.ident := rfl
@[simp] theorem State.reviveGroups_ident (sess num quad : Nat) (l : List Handle) :
    (s.reviveGroups p sess num quad l).1.ident = s.ident := by
  induction l generalizing s with
  | nil => rfl
  | cons b bs ih => grind [State.reviveGroups, State.meet_ident, State.pinFor_ident, State.updP_ident, State.wanted_ident]
@[simp] theorem State.reviveStage4_ident (sess : Nat) : (s.reviveStage4 p sess).ident = s.ident := by
  grind [State.reviveStage4, State.reviveGroups_ident, State.updStep_ident, State.stopRevival_ident]
@[simp] theorem State.reviveChoose_ident (sess : Nat) : (s.reviveChoose p sess).ident = s.ident := by
  unfold State.reviveChoose
  split <;> rfl
@[simp] theorem State.reviveLead_ident (sess : Nat) : (s.reviveLead p sess).ident = s.ident := by
  unfold State.reviveLead
  split <;> simp [apply_ite State.ident]
@[simp] theorem State.reviveGiven_ident (sess : Nat) (ks : List (Nat × Nat)) : (s.reviveGiven p sess ks).ident = s.ident := by
  simp [State.reviveGiven, apply_ite State.ident]
@[simp] theorem State.reviveStage3_ident (sess : Nat) : (s.reviveStage3 p sess).ident = s.ident := by
  unfold State.reviveStage3
  split <;> simp [apply_ite State.ident]
@[simp] theorem State.reviveRun_ident (s : State) (p : Part) (sess : Nat) : (s.reviveRun p sess).ident = s.ident := by
  unfold State.reviveRun
  split
  · rfl
  · split
    · split <;> simp
    · dsimp only
      generalize hr : List.foldl _ (_, none) _ = r
      have hs : r.1.ident = s.ident := hr ▸ State.foldl_ident (fun a q => by split <;> simp) ..
      split <;> (dsimp only at hs; simp [hs, apply_ite State.ident])
@[simp] theorem State.startRevival_ident (sess mask q : Nat) (cid : BitVec 16) :
    (s.startRevival p sess mask q cid).ident = s.ident := rfl
@[simp] theorem State.reviveCut_ident (e : RevSeq) : (s.reviveCut p e).ident = s.ident := by
  unfold State.reviveCut
  split <;> simp [apply_ite State.ident, State.forEach_ident]
@[simp] theorem State.reviveDone_ident (sess step : Nat) : (s.reviveDone p sess step).ident = s.ident := by
  unfold State.reviveDone
  split <;> simp [apply_ite State.ident, State.forEach_ident]
@[simp] theorem State.refuseMsg_ident (qp : Nat) (st : Status) : (s.refuseMsg p qp st).ident = s.ident := by
  unfold State.refuseMsg
  split <;> rfl
@[simp] theorem State.hgReviveMsg_ident (qp : Nat) (msg : Msg) : (s.hgReviveMsg p qp msg).ident = s.ident := by
  grind [State.hgReviveMsg, State.refuseMsg_ident, State.forEach_ident, State.updP_ident, State.answer_ident, State.reviveLead_ident]
@[simp] theorem State.hgReviveKMsg_ident (qp : Nat) (msg : Msg) : (s.hgReviveKMsg p qp msg).ident = s.ident := by
  unfold State.hgReviveKMsg
  split <;> simp [apply_ite State.ident, State.forEach_ident]
@[simp] theorem State.promoteOne_ident (quad : Nat) (sess : Option Nat) (rv : Bool) (h : Handle) :
    (s.promoteOne p quad sess rv h).ident = s.ident := by
  unfold State.promoteOne
  split <;> simp [apply_ite State.ident]
@[simp] theorem State.promoteAhead_ident (quad : Nat) (sess : Option Nat) (rv : Bool) (gs : List Handle) :
    (s.promoteAhead p quad sess rv gs).ident = s.ident := by
  simp [State.promoteAhead, State.forEach_ident]
@[simp] theorem State.promoteAgain_ident (g : Nat) : (s.promoteAgain p g).ident = s.ident := by
  unfold State.promoteAgain
  split <;> simp [apply_ite State.ident]
@[simp] theorem State.prePull_ident (seq : Nat) : (s.prePull p seq).ident = s.ident := by unfold State.prePull; split <;> simp
@[simp] theorem State.preLook_ident (sess quad : Nat) (m : ModelDesc) (dom : BitVec 16) (sq : Sequence) (b : Nat) :
    (s.preLook p sess quad m dom sq b).1.ident = s.ident := by
  grind [State.preLook, State.lookup_ident, State.updP_ident, State.importGroup_ident]
@[simp] theorem State.preLooks_ident (sess quad : Nat) (m : ModelDesc) (dom : BitVec 16) (sq : Sequence) (missed : Bool) (l : List
    Nat) :
    (s.preLooks p sess quad m dom sq missed l).1.ident = s.ident := by
  induction l generalizing s missed with
  | nil => rfl
  | cons b bs ih => grind [State.preLooks, State.preLook_ident, State.lookup_ident]
@[simp] theorem State.preSeq_ident (sess : Nat) (m : ModelDesc) (ss : Session) (ctl : List Nat) (sq : Sequence) :
    (s.preSeq p sess m ss ctl sq).1.ident = s.ident := by
  grind [State.preSeq, State.preLooks_ident, State.promoteAhead_ident]
@[simp] theorem State.preRevive_ident (s : State) (p : Part) (sess : Nat) : (s.preRevive p sess).ident = s.ident := by
  unfold State.preRevive
  split
  · rfl
  · rename_i t ss m _
    have hrun (l : List Sequence) (a : State × Bool) : (l.foldl (fun (a : State × Bool) sq =>
        if a.2 then a.1.preSeq p sess m ss t.rvCtl sq else a) a).1.ident = a.1.ident :=
      State.foldl_ident (fun a e => by split <;> simp) l a
    grind [State.unreserve_ident, State.statusEvent_ident]
@[simp] theorem State.preRevivals_ident : (s.preRevivals p).ident = s.ident := by simp [State.preRevivals, State.forEach_ident]
end

/-! ### Scheduling (03, 06) -/

section
variable (s : State) (p : Part)

@[simp] theorem State.refillTenant_ident (n : Nat) : (s.refillTenant p n).ident = s.ident := rfl
@[simp] theorem State.endAndFree_ident (l : Live) (st : Status) (reason : Nat) : (s.endAndFree p l st reason).ident = s.ident := by
  unfold State.endAndFree
  split <;> simp
@[simp] theorem State.cutReq_ident (l : Live) (st : Status) (reason : Nat) : (s.cutReq p l st reason).ident = s.ident := by
  unfold State.cutReq
  split <;> simp [apply_ite State.ident]
@[simp] theorem State.deadlines_ident : (s.deadlines p).ident = s.ident := by simp [State.deadlines, State.forEach_ident]
@[simp] theorem State.advance_ident (time : Nat) : (s.advance p time).ident = s.ident := by
  simp [State.advance, apply_ite State.ident, State.forEach_ident fun s n => State.refillTenant_ident s p n]
@[simp] theorem State.pullDue_ident : (s.pullDue p).ident = s.ident := by
  grind [State.pullDue, State.forEach_ident, State.updP_ident, State.prePull_ident]
@[simp] theorem State.routeReq_ident (q : Nat) (cid : BitVec 16) : (s.routeReq p q cid).ident = s.ident := by
  unfold State.routeReq
  split <;> simp [apply_ite State.ident]
@[simp] theorem State.resumeReq_ident (l : Live) : (s.resumeReq p l).ident = s.ident := by
  unfold State.resumeReq
  split <;> simp [apply_ite State.ident]
@[simp] theorem State.resumeReqs_ident (sess : Nat) : (s.resumeReqs p sess).ident = s.ident := by
  simp [State.resumeReqs, State.forEach_ident]
@[simp] theorem State.replicaSend_ident (m : ModelDesc) (batch : Nat) (again : Bool) (ws : List (Region × Nat)) :
    (s.replicaSend p m batch again ws).ident = s.ident := by
  simp [State.replicaSend, apply_ite State.ident]
@[simp] theorem State.replicaRound_ident (m : ModelDesc) (batch : Nat) : (s.replicaRound p m batch).ident = s.ident := by
  simp [State.replicaRound, apply_ite State.ident]
@[simp] theorem State.issueWave_ident (m : ModelDesc) (cs : List Cand8) : (s.issueWave p m cs).ident = s.ident := by
  unfold State.issueWave
  split <;> simp
@[simp] theorem State.formWave_ident (m : BitVec 16) (least : Nat) : (s.formWave p m least).ident = s.ident := by
  unfold State.formWave
  split <;> simp [apply_ite State.ident]
@[simp] theorem State.issueRow_ident (m : ModelDesc) (cs : List (Cand8 × Nat)) : (s.issueRow p m cs).ident = s.ident := by
  unfold State.issueRow
  split <;> simp
@[simp] theorem State.formRow_ident (m : BitVec 16) (least : Nat) : (s.formRow p m least).ident = s.ident := by
  unfold State.formRow
  split <;> simp [apply_ite State.ident]
@[simp] theorem State.openStepAt_ident (t : Partition) (d : Due) (prog clu : Nat) : (s.openStepAt p t d prog clu).ident = s.ident := rfl
@[simp] theorem State.refuseDue_ident (t : Partition) (d : Due) (st : Status) : (s.refuseDue p t d st).ident = s.ident := by
  unfold State.refuseDue
  (repeat' split) <;> simp
end

/-! ### Queues and their commands (02) -/

section
variable (s : State) (p : Part)

theorem State.startCmd_ident {s : State} {p : Part} {q : Nat} {cid : BitVec 16} {oc : Nat} {f : State → Partition → Live → State}
    (h : ∀ s t l, (f s t l).ident = s.ident) : (s.startCmd p q cid oc f).ident = s.ident := by
  unfold State.startCmd; split <;> simp [h, apply_ite State.ident]
@[simp] theorem State.entryEvent_ident (kinds : List Nat) (h : Handle) : (s.entryEvent p kinds h).ident = s.ident := by
  simp [State.entryEvent, apply_ite State.ident]
@[simp] theorem State.refuseReq_ident (q : Nat) (cid : BitVec 16) (st : Status) (reason : Nat) :
    (s.refuseReq p q cid st reason).ident = s.ident := by
  simp [State.refuseReq, apply_ite State.ident]
@[simp] theorem State.takeRequest_ident (q : Nat) (cid : BitVec 16) (t : Partition) (l : Live) :
    (s.takeRequest p q cid t l).ident = s.ident := by
  grind [State.takeRequest, State.refuseReq_ident, State.entryEvent_ident, State.refillTenant_ident, State.fresh_ident,
    State.updLive_ident, State.count_ident, State.event_ident, State.startRevival_ident, State.routeReq_ident]
@[simp] theorem State.settleQueue_ident (q : Nat) : (s.settleQueue p q).ident = s.ident := rfl
@[simp] theorem State.lostPosts_ident (q : Nat) : (s.lostPosts p q).ident = s.ident := rfl
end

/-! ### Clusters (13) -/

section
variable (s : State) (p : Part)

@[simp] theorem State.cluEvent_ident (code c : Nat) : (s.cluEvent code c).ident = s.ident := by
  unfold State.cluEvent
  dsimp only
  split <;> simp
@[simp] theorem State.squashOn_ident (c : Nat) (st : Status) : (s.squashOn c st).ident = s.ident := by
  grind [State.squashOn, State.forEach_ident, State.stopRevival_ident, State.squash_ident]
@[simp] theorem State.quarantine_ident (c : Nat) : (s.quarantine c).ident = s.ident := by
  unfold State.quarantine
  split
  · rfl
  · extract_lets n s₁ s₂ had s₃ s₄ s₅ s₆
    have h₂ : s₂.ident = s.ident := by
      dsimp only [s₂]
      split <;> rfl
    have h₄ : s₄.ident = s₂.ident := State.forEach_ident fun _ _ => rfl
    simp [s₆, s₅, h₄, h₂, apply_ite State.ident]
@[simp] theorem State.residue_ident (c : Nat) (again : Bool) : (s.residue p c again).ident = s.ident := by
  simp [State.residue, apply_ite State.ident]
@[simp] theorem State.sweepPass_ident (c : Nat) : (s.sweepPass c).ident = s.ident := by
  unfold State.sweepPass
  dsimp only
  split <;> simp
@[simp] theorem State.settleArb_ident (c : Nat) : (s.settleArb c).ident = s.ident := by
  simp [State.settleArb, apply_ite State.ident, State.forEach_ident]
end

/-! ### The attention engine (06) -/

section
variable (s : State) (p : Part)

@[simp] theorem State.consumeWrite_ident (x : StepRef) (d : Desc) : (s.consumeWrite x d).ident = s.ident := by
  unfold State.consumeWrite
  split <;> rfl
@[simp] theorem State.deliverTile_ident (m : ModelDesc) (k : Step) (seq : Nat) (qp : Option Nat) (r : FetchReq) (d : Desc) (bad last
    : Bool) :
    (s.deliverTile p m k seq qp r d bad last).ident = s.ident := by
  unfold State.deliverTile
  dsimp only
  (repeat' split) <;> simp
@[simp] theorem State.fetchLayers_ident (x : StepRef) (m : ModelDesc) (l : Nat) : (s.fetchLayers x m l).ident = s.ident := by
  induction l generalizing s with
  | zero => rfl
  | succ n ih => grind [State.fetchLayers, State.count_ident, State.sendMsg_ident, State.updP_ident]
@[simp] theorem State.wake_ident (x : StepRef) : (s.wake x).ident = s.ident := rfl
end

/-! ### Ends of moves (04) -/

section
variable (s : State) (p : Part)

@[simp] theorem State.endMove_ident (num tk : Nat) : (s.endMove p num tk).ident = s.ident := rfl
@[simp] theorem State.copyEnded_ident (c : Copy) : (s.copyEnded c).ident = s.ident := by unfold State.copyEnded; split <;> simp
@[simp] theorem State.noteLeft_ident (c : Copy) : (s.noteLeft c).ident = s.ident := by unfold State.noteLeft; split <;> rfl
@[simp] theorem State.squashPinners_ident (g : Nat) (st : Status) : (s.squashPinners p g st).ident = s.ident := by
  unfold State.squashPinners
  refine State.forEach_ident fun _ _ => ?_
  (repeat' split) <;> simp
@[simp] theorem State.sourceLost_ident (g : Nat) : (s.sourceLost p g).ident = s.ident := by
  simp [State.sourceLost, apply_ite State.ident, State.forEach_ident]
@[simp] theorem State.demoted_ident (g place : Nat) (t : Partition) (r : Group) : (s.demoted p g place t r).ident = s.ident := by
  simp [State.demoted, apply_ite State.ident]
@[simp] theorem State.demoteOn_ident (g : Nat) (r : Group) : (s.demoteOn p g r).ident = s.ident := by
  simp [State.demoteOn, apply_ite State.ident]
@[simp] theorem State.demotionDone_ident (g : Nat) (good : Bool) : (s.demotionDone p g good).ident = s.ident := by
  unfold State.demotionDone
  (repeat' split) <;> simp
@[simp] theorem State.sweepTo_ident (tier : Tier) (l : List Cand) : (s.sweepTo p tier l).ident = s.ident := by
  induction l generalizing s with
  | nil => rfl
  | cons b bs ih => grind [State.sweepTo, State.evict_ident]
@[simp] theorem State.camFix_ident (row counter : Nat) : (s.camFix row counter).ident = s.ident := by
  grind [State.camFix, State.count_ident, State.devEvent_ident, State.forEach_ident, State.event_ident]
@[simp] theorem State.camLeft_ident (h : Handle) : (s.camLeft h).ident = s.ident := rfl
end

/-! ### Regions (11) -/

section
variable (s : State) (p : Part)

@[simp] theorem State.settleVersions_ident : s.settleVersions.ident = s.ident := by simp [State.settleVersions, State.forEach_ident]
@[simp] theorem State.regionRecord_ident (i jtype step : Nat) : (s.regionRecord p i jtype step).ident = s.ident := by
  unfold State.regionRecord
  split <;> rfl
@[simp] theorem State.regCreate_ident (step i : Nat) (r : Region) : (s.regCreate p step i r).ident = s.ident := by
  simp [State.regCreate]
@[simp] theorem State.regFree_ident (step i : Nat) : (s.regFree p step i).ident = s.ident := by unfold State.regFree; split <;> simp
@[simp] theorem State.regRegister_ident (step i : Nat) (key : BitVec 32) : (s.regRegister p step i key).ident = s.ident := by
  simp [State.regRegister]
@[simp] theorem State.regSync_ident (step i off n : Nat) (validate : Bool) : (s.regSync p step i off n validate).ident = s.ident := by
  simp [State.regSync, apply_ite State.ident]
@[simp] theorem State.regDiscard_ident (i off n : Nat) : (s.regDiscard p i off n).ident = s.ident := rfl
@[simp] theorem State.pubConflict_ident (i : Nat) (others : List Part) : (s.pubConflict p i others).ident = s.ident := by
  refine (State.forEach_ident fun s o => State.statusEvent_ident s o .publishConflict 0 0).trans ?_
  simp
@[simp] theorem State.regPublish_ident (step i : Nat) (name : Word) (version : Nat) :
    (s.regPublish p step i name version).1.ident = s.ident := by
  grind [State.regPublish, State.roRefusal_ident, State.updRegion_ident, State.regionRecord_ident, State.freeRegion_ident,
    State.pubConflict_ident, State.forEach_ident, State.event_ident, State.settleVersions_ident]
end

end Sys2Proof.Machine
end

section
/-! SUPPORT. The frame of the device's identity (15), of the transport, commits, migrations and messages: none of these
operations writes it. -/

namespace Sys2Proof.Machine
open Sys2Proof.Cert

/-! ### The transport (12) -/

section
variable (s : State) (p : Part)

@[simp] theorem State.portCount_ident (n c : Nat) : (s.portCount n c).ident = s.ident := rfl
@[simp] theorem State.enqueue_ident (n tc sub op : Nat) (pkt : Option Pkt) (bytes : Nat) :
    (s.enqueue n tc sub op pkt bytes).ident = s.ident := rfl
@[simp] theorem State.emitPkt_ident (port op : Nat) (k : Pkt) : (s.emitPkt p port op k).ident = s.ident := by
  unfold State.emitPkt
  split <;> rfl
@[simp] theorem State.chainStep_ident (key : Nat) (st : Status) : (s.chainStep p key st).ident = s.ident := by
  unfold State.chainStep
  split <;> simp [apply_ite State.ident]
@[simp] theorem State.endWork_ident (n : Nat) (w : WorkReq) (st : Status) : (s.endWork p n w st).ident = s.ident := by
  unfold State.endWork
  split <;> simp [apply_ite State.ident]
@[simp] theorem State.dropChain_ident (key : Nat) (st : Status) : (s.dropChain p key st).ident = s.ident := by
  unfold State.dropChain
  split <;> simp [apply_ite State.ident]
@[simp] theorem State.freeQp_ident (n : Nat) : (s.freeQp p n).ident = s.ident := by simp [State.freeQp, State.forEach_ident]
@[simp] theorem State.stopWork_ident (n : Nat) (st : Status) : (s.stopWork p n st).ident = s.ident := by
  simp [State.stopWork, State.forEach_ident]
@[simp] theorem State.endWaiter_ident (n : Nat) (st : Status) (r1 : Nat) : (s.endWaiter p n st r1).ident = s.ident := by
  unfold State.endWaiter
  split <;> rfl
@[simp] theorem State.failQp_ident (n : Nat) (st : Status) : (s.failQp p n st).ident = s.ident := by simp [State.failQp]
@[simp] theorem State.closeQp_ident (n : Nat) : (s.closeQp p n).ident = s.ident := by simp [State.closeQp]
@[simp] theorem State.fireChain_ident (key : Nat) : (s.fireChain p key).ident = s.ident := by
  unfold State.fireChain
  split <;> simp [apply_ite State.ident, State.forEach_ident]
@[simp] theorem State.pump_ident (n l : Nat) : (s.pump p n l).ident = s.ident := by
  induction l generalizing s with
  | zero => rfl
  | succ n ih => grind [State.pump, State.endWork_ident, State.updQp_ident, State.emitPkt_ident]
@[simp] theorem State.pumpPort_ident (port : Nat) : (s.pumpPort port).ident = s.ident := by simp [State.pumpPort, State.forEach_ident]
@[simp] theorem State.reconnected_ident (n : Nat) : (s.reconnected p n).ident = s.ident := rfl
@[simp] theorem State.sendConnect_ident (n : Nat) : (s.sendConnect p n).ident = s.ident := by
  unfold State.sendConnect
  dsimp only
  (repeat' split) <;> simp
@[simp] theorem State.qpConnect_ident (n q : Nat) (cid : BitVec 16) : (s.qpConnect p n q cid).ident = s.ident := by
  simp [State.qpConnect]
@[simp] theorem State.sendDisconnect_ident (n : Nat) : (s.sendDisconnect p n).ident = s.ident := by
  unfold State.sendDisconnect
  split <;> simp
@[simp] theorem State.qpDisc_ident (n q : Nat) (cid : BitVec 16) : (s.qpDisc p n q cid).ident = s.ident := by
  simp [State.qpDisc, apply_ite State.ident]
@[simp] theorem State.qpPost_ident (n : Nat) (w : WorkReq) : (s.qpPost p n w).ident = s.ident := by
  simp [State.qpPost, apply_ite State.ident]
end

/-! ### Migration records (09) -/

section
variable (s : State) (p : Part)

@[simp] theorem State.migOutStart_ident (sess qp pmode : Nat) (id : Word) (q : Nat) (cid : BitVec 16) :
    (s.migOutStart p sess qp pmode id q cid).ident = s.ident := by
  unfold State.migOutStart
  split <;> simp [State.forEach_ident]
@[simp] theorem State.migInStart_ident (id : Word) (region : Nat) (fields : List Byte) (q : Nat) (cid : BitVec 16) :
    (s.migInStart p id region fields q cid).ident = s.ident := rfl
end

/-! ### Commits (03 R63 to R67) -/

section
variable (s : State) (p : Part)

@[simp] theorem State.settleBlock_ident (x : StepRef) (m : ModelDesc) (seq len block : Nat) :
    (s.settleBlock x m seq len block).ident = s.ident := by
  unfold State.settleBlock
  split <;> simp [apply_ite State.ident]
@[simp] theorem State.settleRows_ident (x : StepRef) (m : ModelDesc) (seq first cnt len : Nat) :
    (s.settleRows x m seq first cnt len).ident = s.ident := by
  simp [State.settleRows, apply_ite State.ident, State.forEach_ident]
@[simp] theorem State.endSeqReqs_ident (seq : Nat) (st : Status) : (s.endSeqReqs p seq st).ident = s.ident := by
  simp [State.endSeqReqs, State.forEach_ident]
@[simp] theorem State.seqFreeAt_ident (num seq : Nat) : (s.seqFreeAt p num seq).ident = s.ident := by
  unfold State.seqFreeAt
  split <;> simp [apply_ite State.ident]
@[simp] theorem State.parkAt_ident (num sess : Nat) (a : ParkArgs) : (s.parkAt p num sess a).ident = s.ident := by
  simp [State.parkAt, apply_ite State.ident]
@[simp] theorem State.closeAt_ident (num sess : Nat) : (s.closeAt p num sess).ident = s.ident := by
  simp [State.closeAt, apply_ite State.ident]
@[simp] theorem State.objRecord_ident (step : Nat) (b : JBody) : (s.objRecord p step b).ident = s.ident := rfl
@[simp] theorem State.forkSeq_ident (dst src : Nat) : (s.forkSeq p dst src).ident = s.ident := by
  unfold State.forkSeq
  dsimp only
  (repeat' split) <;> simp [apply_ite State.ident, State.forEach_ident]
@[simp] theorem State.unstage_ident (k : Step) (ticket : Nat) : (s.unstage p k ticket).ident = s.ident := by
  unfold State.unstage
  split <;> simp [apply_ite State.ident]
@[simp] theorem State.applyOp_ident (x : StepRef) (k : Step) (o : LogOp) : (s.applyOp x k o).ident = s.ident := by
  unfold State.applyOp
  dsimp only
  (repeat' split) <;> simp
@[simp] theorem State.fillBlock_ident (m : ModelDesc) (dom : BitVec 16) (seq b : Nat) : (s.fillBlock p m dom seq b).ident = s.ident := by
  unfold State.fillBlock
  dsimp only
  (repeat' split) <;> simp
@[simp] theorem State.fillMatched_ident (m : ModelDesc) (o : LogOp) : (s.fillMatched p m o).ident = s.ident := by
  unfold State.fillMatched
  (repeat' split) <;> simp
@[simp] theorem State.commitSample_ident (k : Step) (r : SampleRes) : (s.commitSample p k r).ident = s.ident := by
  simp [State.commitSample, apply_ite State.ident]
@[simp] theorem State.chargeFor_ident (seq n : Nat) : (s.chargeFor p seq n).ident = s.ident := by
  unfold State.chargeFor
  (repeat' split) <;> simp
@[simp] theorem State.classRecord_ident (k : Step) (before : Nat) : (s.classRecord p k before).ident = s.ident := by
  unfold State.classRecord
  split <;> simp [apply_ite State.ident]
@[simp] theorem State.commitStages_ident (x : StepRef) (given : Option Nat) : (s.commitStages x given).ident = s.ident := by
  unfold State.commitStages
  extract_lets p
  split
  · rfl
  · extract_lets before adv model dom c0 rc0 left0 toks s₃ log opened s₄ s₅ c1 s₆ s₇ s₈ offered s₉ s₁₀ s₁₁ s₁₂
    clear_value adv
    have h₃ : s₃.ident = s.ident := by
      dsimp only [s₃]
      split <;> simp
    have h₅ : s₅.ident = s₃.ident :=
      (State.forEach_ident fun _ _ => State.applyOp_ident ..).trans (State.forEach_ident fun _ _ => rfl)
    have h₆ : s₆.ident = s₅.ident := by
      dsimp only [s₆]
      split
      · rw [apply_ite State.ident, State.forEach_ident fun s o => State.fillMatched_ident .., ite_self]
        split
        · exact State.forEach_ident fun _ _ => State.fillBlock_ident ..
        · rfl
      · rfl
    have h₇ : s₇.ident = s₆.ident := by
      dsimp only [s₇]
      split <;> simp [apply_ite State.ident]
    have h₉ : s₉.ident = s₇.ident := by simp [s₉, s₈, apply_ite State.ident]
    have h₁₀ : s₁₀.ident = s₉.ident := by
      dsimp only [s₁₀]
      split <;> simp [apply_ite State.ident]
    have h₁₂ : s₁₂.ident = s₁₀.ident := by simp [s₁₂, s₁₁, apply_ite State.ident]
    have h : s₁₂.ident = s.ident := by rw [h₁₂, h₁₀, h₉, h₇, h₆, h₅, h₃]
    split <;> simp [h, apply_ite State.ident]
@[simp] theorem State.coarseCommit_ident (x : StepRef) (t : Partition) (k : Step) : (s.coarseCommit x t k).1.ident = s.ident := by
  unfold State.coarseCommit
  (repeat' split) <;> simp
@[simp] theorem State.commitApply_ident (x : StepRef) : (s.commitApply x).ident = s.ident := by
  unfold State.commitApply
  split
  · rfl
  · rename_i t k _
    refine State.ite_ident rfl (State.ite_ident rfl ?_)
    extract_lets +onlyGivenNames hg
    split
    · simp
    · refine State.ite_ident rfl (State.ite_ident ?_ ?_)
      · simp only [State.squash_ident]
        split <;> simp
      · split
        · simp
        · refine State.ite_ident (by simp) (State.ite_ident rfl (State.ite_ident (by simp) ?_))
          split
          · simp [apply_ite State.ident]
          · refine State.ite_ident (by simp) (State.ite_ident (by simp) ?_)
            have hc := State.coarseCommit_ident s x t k
            generalize s.coarseCommit x t k = c at hc ⊢
            obtain ⟨u, _ | _ | st⟩ := c
            · clear_value hg
              dsimp only at hc ⊢
              split
              · exact State.ite_ident ((State.commitStages_ident ..).trans hc) (by simpa using hc)
              · exact (State.commitStages_ident ..).trans hc
            · exact hc
            · exact (State.squash_ident ..).trans hc
end

/-! ### Migrations (09) -/

section
variable (s : State) (p : Part)

@[simp] theorem State.sendMig_ident (g : Migration) (mt : Nat) (st : Status) : (s.sendMig p g mt st).ident = s.ident := rfl
@[simp] theorem State.migOutcome_ident (id : Word) (st : Status) (gone : Handle) : (s.migOutcome p id st gone).1.ident = s.ident := rfl
@[simp] theorem State.migKeep_ident (g : Migration) : (s.migKeep p g).ident = s.ident := by unfold State.migKeep; split <;> simp
@[simp] theorem State.migAbandon_ident (id : Word) (st : Status) (tell : Bool) : (s.migAbandon p id st tell).ident = s.ident := by
  unfold State.migAbandon
  dsimp only
  (repeat' split) <;> simp
@[simp] theorem State.migReleased_ident (g : Migration) : (s.migReleased p g).ident = s.ident := by
  unfold State.migReleased
  dsimp only
  split <;> simp
@[simp] theorem State.settleMigrations_ident : (s.settleMigrations p).ident = s.ident := by
  simp [State.settleMigrations, State.forEach_ident]
@[simp] theorem State.migTaken_ident (g : Migration) : (s.migTaken p g).ident = s.ident := by unfold State.migTaken; split <;> simp
@[simp] theorem State.importRegion_ident (body : List Byte) : (s.importRegion p body).1.ident = s.ident := by
  unfold State.importRegion
  dsimp only
  split <;> simp
@[simp] theorem State.importGroups_ident (m : ModelDesc) (dom : BitVec 16) (l : List (Nat × List Byte)) :
    (s.importGroups p m dom l).1.ident = s.ident := by
  induction l generalizing s with
  | nil => rfl
  | cons b bs ih => grind [State.importGroups, State.updP_ident]
@[simp] theorem State.importSeq_ident (g : Migration) (m : ModelDesc) (sess : Handle) (dom : BitVec 16) (body : List Byte) :
    (s.importSeq p g m sess dom body).1.ident = s.ident := by
  unfold State.importSeq
  split <;> simp
@[simp] theorem State.importKeys_ident (m : ModelDesc) (dom : BitVec 16) (h : Handle) : (s.importKeys p m dom h).ident = s.ident := by
  grind [State.importKeys, State.forEach_ident, State.updSeq_ident]
theorem State.importAll_ident {f : State → List Byte → State × Option Handle} (h : ∀ s b, (f s b).1.ident = s.ident)
    (s : State) (l : List (List Byte)) : (s.importAll f l).1.ident = s.ident := by
  induction l generalizing s with
  | nil => rfl
  | cons b bs ih => grind [State.importAll]
theorem State.importRegions_ident (s : State) (p : Part) (l : List (List Byte)) :
    (s.importAll (fun s b => s.importRegion p b) l).1.ident = s.ident := State.importAll_ident (fun _ _ => State.importRegion_ident ..) s l
theorem State.importSeqs_ident (s : State) (p : Part) (g : Migration) (m : ModelDesc) (h : Handle) (dom : BitVec 16)
    (l : List (List Byte)) : (s.importAll (fun s b => s.importSeq p g m h dom b) l).1.ident = s.ident :=
  State.importAll_ident (fun _ _ => State.importSeq_ident ..) s l
theorem State.importSession_ident {s : State} {p : Part} {g : Migration} {r : State × Nat} (h : s.importSession p g = .ok r) :
    r.1.ident = s.ident := by
  unfold State.importSession at h
  split at h
  · cases h
  · extract_lets head dom geo at h
    split at h
    · cases h
    · split at h
      · cases h
      · split at h
        · cases h
        · split at h
          · cases h
          · dsimp only at h
            split at h
            · cases h
            · rename_i u rs hu
              split at h
              · cases h
              · rename_i v qs hv
                have h₁ := State.importRegions_ident s p (g.bodies 3)
                rw [hu] at h₁
                have h₂ := congrArg (·.1.ident) hv
                dsimp only at h₁ h₂
                rw [State.importSeqs_ident, State.updP_ident, h₁] at h₂
                cases h
                exact (State.forEach_ident fun _ _ => State.importKeys_ident ..).trans h₂.symm
theorem State.migMessage_ident {s : State} {p : Part} {qp mt : Nat} {m : Msg} {ok : Migration → Bool} {f : Migration → Nat → State}
    (h : ∀ g st, (f g st).ident = s.ident) : (s.migMessage p qp mt m ok f).ident = s.ident := by
  unfold State.migMessage
  split
  · simp
  · split <;> simp [h, apply_ite State.ident]
@[simp] theorem State.migConfirmMsg_ident (qp : Nat) (m : Msg) : (s.migConfirmMsg p qp m).ident = s.ident := by
  grind [State.migConfirmMsg, State.migMessage_ident, State.migOutcome_ident, State.updP_ident]
@[simp] theorem State.migReleaseMsg_ident (qp : Nat) (m : Msg) : (s.migReleaseMsg p qp m).ident = s.ident := by
  grind [State.migReleaseMsg, State.migMessage_ident, State.migTaken_ident]
@[simp] theorem State.migCancelMsg_ident (qp : Nat) (m : Msg) : (s.migCancelMsg p qp m).ident = s.ident := by
  grind [State.migCancelMsg, State.migMessage_ident, State.migAbandon_ident]
@[simp] theorem State.migQueryMsg_ident (qp : Nat) (m : Msg) : (s.migQueryMsg p qp m).ident = s.ident := by
  unfold State.migQueryMsg
  (repeat' split) <;> simp
@[simp] theorem State.migAnswerMsg_ident (qp : Nat) (m : Msg) : (s.migAnswerMsg p qp m).ident = s.ident := by
  grind [State.migAnswerMsg, State.migMessage_ident, State.migTaken_ident, State.migAbandon_ident]
end

/-! ### Aborts and releases (02) -/

section
variable (s : State) (p : Part)

@[simp] theorem State.chunkDown_ident (ri : Nat) (toT2 : Bool) (c : Nat) : (s.chunkDown p ri toT2 c).ident = s.ident := by
  unfold State.chunkDown
  split <;> simp [apply_ite State.ident]
@[simp] theorem State.pageDown_ident (g : Nat) (toT2 : Bool) : (s.pageDown p g toT2).ident = s.ident := by
  simp [State.pageDown, apply_ite State.ident]
@[simp] theorem State.releaseOp_ident (k : Step) (o : LogOp) : (s.releaseOp p k o).ident = s.ident := by
  unfold State.releaseOp
  split <;> simp [apply_ite State.ident, State.forEach_ident]
@[simp] theorem State.streamTokens_ident (k : Step) (ts : List Nat) : (s.streamTokens p k ts).ident = s.ident := by
  unfold State.streamTokens
  refine State.forEach_ident fun _ _ => ?_
  (repeat' split) <;> simp
@[simp] theorem State.stream_ident (k : Step) : (s.stream p k).ident = s.ident := by unfold State.stream; split <;> simp
@[simp] theorem State.stopReq_ident (k : Step) (r : Req) (st : Status) (reason index : Nat) :
    (s.stopReq p k r st reason index).ident = s.ident := by
  unfold State.stopReq
  split <;> simp
@[simp] theorem State.reqBoundary_ident (k : Step) (l : Live) (r0 : Req) : (s.reqBoundary p k l r0).ident = s.ident := by
  unfold State.reqBoundary
  (repeat' split) <;> grind [State.endReq_ident, State.stream_ident, State.endAndFree_ident, State.updLive_ident, State.stopReq_ident,
    State.routeReq_ident, State.count_ident, State.updSeq_ident]
@[simp] theorem State.completeStep_ident (k : Step) : (s.completeStep p k).ident = s.ident := by
  unfold State.completeStep
  (repeat' split) <;> simp
@[simp] theorem State.endStep_ident (k : Step) : (s.endStep p k).ident = s.ident := rfl
@[simp] theorem State.commitRelease_ident (x : StepRef) : (s.commitRelease x).ident = s.ident := by
  unfold State.commitRelease
  dsimp only
  (repeat' split) <;> simp [State.forEach_ident]
theorem State.abortDeferred_ident {s t : State} {p : Part} {m : Live} (h : s.abortDeferred p m = some t) : t.ident = s.ident := by
  unfold State.abortDeferred at h
  grind [State.stopRevival_ident, State.migAbandon_ident, State.failQp_ident, State.dropChain_ident]
@[simp] theorem State.abortLive_ident (s : State) (p : Part) (m : Live) : (s.abortLive p m).1.ident = s.ident := by
  unfold State.abortLive
  grind [State.updLive_ident, State.squash_ident, State.endReq_ident, State.endCmd_ident, State.updP_ident, State.abortDeferred_ident]
end

/-! ### Attention messages (06) -/

section
variable (s : State) (p : Part)

@[simp] theorem State.squashLane_ident (m : BitVec 16) (batch i : Nat) (st : Status) : (s.squashLane p m batch i st).ident = s.ident := by
  unfold State.squashLane
  (repeat' split) <;> simp
@[simp] theorem State.squashBatch_ident (m : BitVec 16) (batch : Nat) (st : Status) : (s.squashBatch p m batch st).ident = s.ident := by
  simp [State.squashBatch, State.forEach_ident]
theorem State.attention_ident {s : State} {p : Part} {qp mt : Nat} {msg : Msg} {f : Partition → ModelDesc → State}
    (h : ∀ t m, (f t m).ident = s.ident) : (s.attention p qp mt msg f).ident = s.ident := by
  unfold State.attention; split <;> simp [h, apply_ite State.ident, State.forEach_ident]
theorem State.fromAccelerator_ident {s : State} {p : Part} {qp mt : Nat} {msg : Msg} {f : Partition → ModelDesc → State}
    (h : ∀ t m, (f t m).ident = s.ident) : (s.fromAccelerator p qp mt msg f).ident = s.ident :=
  State.attention_ident fun t m => by split <;> simp [h]
theorem State.fromLead_ident {s : State} {p : Part} {qp mt : Nat} {msg : Msg} {f : Partition → ModelDesc → State}
    (h : ∀ t m, (f t m).ident = s.ident) : (s.fromLead p qp mt msg f).ident = s.ident :=
  State.attention_ident fun t m => by split <;> simp [h]
theorem State.fromFollower_ident {s : State} {p : Part} {qp mt : Nat} {msg : Msg} {f : Partition → ModelDesc → Nat → State}
    (h : ∀ t m r, (f t m r).ident = s.ident) : (s.fromFollower p qp mt msg f).ident = s.ident :=
  State.attention_ident fun t m => by split <;> simp [h]
@[simp] theorem State.trimUnneeded_ident (g : Nat) : (s.trimUnneeded p g).ident = s.ident := by
  unfold State.trimUnneeded
  split <;> simp [apply_ite State.ident]
@[simp] theorem State.lostCommit_ident (seq len : Nat) : (s.lostCommit p seq len).ident = s.ident := by
  unfold State.lostCommit
  split <;> simp [apply_ite State.ident, State.forEach_ident]
@[simp] theorem State.trimToLead_ident (seq len : Nat) : (s.trimToLead p seq len).ident = s.ident := by
  unfold State.trimToLead
  dsimp only
  (repeat' split) <;> simp [State.forEach_ident]
@[simp] theorem State.meetLead_ident (l : Lane) : (s.meetLead p l).ident = s.ident := by
  unfold State.meetLead
  split <;> simp [apply_ite State.ident]
@[simp] theorem State.openBatch_ident (m : ModelDesc) (w : Wave) : (s.openBatch p m w).ident = s.ident := by
  simp [State.openBatch, State.forEach_ident]
@[simp] theorem State.waveOpenMsg_ident (qp : Nat) (msg : Msg) : (s.waveOpenMsg p qp msg).ident = s.ident := by
  grind [State.waveOpenMsg, State.fromLead_ident, State.refuseMsg_ident, State.answer_ident, State.openBatch_ident]
@[simp] theorem State.rowOpenMsg_ident (qp : Nat) (msg : Msg) : (s.rowOpenMsg p qp msg).ident = s.ident := by
  grind [State.rowOpenMsg, State.fromLead_ident, State.refuseMsg_ident, State.answer_ident, State.openBatch_ident]
@[simp] theorem State.bufferAt_ident (m : BitVec 16) (batch key : Nat) (b : BufMsg) (arrive : Bool) :
    (s.bufferAt p m batch key b arrive).ident = s.ident := rfl
theorem State.layerTurn_ident {s : State} {p : Part} {qp : Nat} {m : ModelDesc} {w : Wave} {layer : Nat} {f : Unit → State}
    (h : (f ()).ident = s.ident) : (s.layerTurn p qp m w layer f).ident = s.ident := by
  simp [State.layerTurn, apply_ite State.ident, h]
@[simp] theorem State.attendMsg_ident (qp mt : Nat) (msg : Msg) : (s.attendMsg p qp mt msg).ident = s.ident := by
  grind [State.attendMsg, State.fromAccelerator_ident, State.refuseMsg_ident, State.layerTurn_ident, State.count_ident,
    State.bufferAt_ident, State.answer_ident, State.forEach_ident, State.squashLane_ident]
@[simp] theorem State.prefillMsg_ident (qp : Nat) (msg : Msg) : (s.prefillMsg p qp msg).ident = s.ident := by
  grind [State.prefillMsg, State.fromAccelerator_ident, State.refuseMsg_ident, State.layerTurn_ident, State.answer_ident,
    State.count_ident, State.bufferAt_ident]
@[simp] theorem State.logitsMsg_ident (qp : Nat) (msg : Msg) : (s.logitsMsg p qp msg).ident = s.ident := by
  grind [State.logitsMsg, State.fromAccelerator_ident, State.refuseMsg_ident, State.answer_ident, State.forEach_ident,
    State.squashLane_ident, State.bufferAt_ident]
@[simp] theorem State.fetchMsg_ident (qp : Nat) (msg : Msg) : (s.fetchMsg p qp msg).ident = s.ident := by
  grind [State.fetchMsg, State.fromAccelerator_ident, State.refuseMsg_ident, State.answer_ident, State.pullDue_ident,
    State.updP_ident]
@[simp] theorem State.hgReadyMsg_ident (s : State) (p : Part) (qp : Nat) (msg : Msg) : (s.hgReadyMsg p qp msg).ident = s.ident := by
  refine State.fromFollower_ident fun t m r => ?_
  split
  · simp
  · split
    · simp
    · dsimp only
      rw [State.answer_ident, State.forEach_ident, State.updP_ident]
      intro s e
      split
      · rfl
      · split <;> simp
@[simp] theorem State.hgCommitMsg_ident (qp : Nat) (msg : Msg) : (s.hgCommitMsg p qp msg).ident = s.ident := by
  unfold State.hgCommitMsg
  (repeat' split) <;> grind [State.fromLead_ident, State.refuseMsg_ident, State.answer_ident, State.forEach_ident,
    State.commitStages_ident, State.lostCommit_ident]
@[simp] theorem State.hgSquashMsg_ident (qp : Nat) (msg : Msg) : (s.hgSquashMsg p qp msg).ident = s.ident := by
  grind [State.hgSquashMsg, State.fromLead_ident, State.refuseMsg_ident, State.answer_ident, State.forEach_ident,
    State.boundary_ident, State.seqBoundary_ident, State.squashEffects_ident, State.boundaries_ident, State.updP_ident]
@[simp] theorem State.unbindable_ident (i : Nat) : (s.unbindable p i).ident = s.ident := by
  unfold State.unbindable
  split <;> simp [apply_ite State.ident]
@[simp] theorem State.regionUnit_ident (i u : Nat) (readable agrees : Bool) : (s.regionUnit p i u readable agrees).ident = s.ident := by
  unfold State.regionUnit
  split <;> simp [apply_ite State.ident]
@[simp] theorem State.replicaFetch_ident (name : Word) (version w : Nat) : (s.replicaFetch p name version w).ident = s.ident := by
  unfold State.replicaFetch
  split <;> rfl
@[simp] theorem State.replicaReload_ident (name : Word) (version w : Nat) : (s.replicaReload p name version w).1.ident = s.ident := by
  unfold State.replicaReload
  dsimp only
  (repeat' split) <;> simp
@[simp] theorem State.replicaOutcome_ident (m : ModelDesc) (batch : Nat) (name : Word) (version w expelled outcome : Nat) :
    (s.replicaOutcome p m batch name version w expelled outcome).ident = s.ident := by
  unfold State.replicaOutcome
  (repeat' split) <;> grind [State.updP_ident, State.count_ident, State.event_ident, State.replicaFetch_ident,
    State.replicaReload_ident, State.replicaSend_ident, State.unbindable_ident]
@[simp] theorem State.replicaDecide_ident (m : ModelDesc) (batch : Nat) (name : Word) (version w : Nat) :
    (s.replicaDecide p m batch name version w).ident = s.ident := by
  unfold State.replicaDecide
  split <;> simp [apply_ite State.ident]
@[simp] theorem State.hgDigestMsg_ident (qp : Nat) (msg : Msg) : (s.hgDigestMsg p qp msg).ident = s.ident := by
  grind [State.hgDigestMsg, State.fromFollower_ident, State.refuseMsg_ident, State.answer_ident, State.forEach_ident,
    State.updP_ident, State.replicaDecide_ident]
@[simp] theorem State.hgDigestResMsg_ident (qp : Nat) (msg : Msg) : (s.hgDigestResMsg p qp msg).ident = s.ident := by
  grind [State.hgDigestResMsg, State.fromLead_ident, State.refuseMsg_ident, State.answer_ident, State.forEach_ident,
    State.replicaOutcome_ident]
@[simp] theorem State.routeFind_ident (m : ModelDesc) (b : List Byte) : (s.routeFind p m b).1.ident = s.ident := by
  unfold State.routeFind
  dsimp only
  (repeat' split) <;> simp
@[simp] theorem State.routeWrite_ident (qp : Nat) (d : Delivery) (n : Nat) (final : Bool) :
    (s.routeWrite p qp d n final).ident = s.ident := by
  unfold State.routeWrite
  split <;> simp
@[simp] theorem State.routeDeliver_ident (m : ModelDesc) (qp : Nat) (d : Delivery) : (s.routeDeliver p m qp d).1.ident = s.ident := by
  grind [State.routeDeliver, State.forEach_ident, State.regionUnit_ident, State.routeWrite_ident]
@[simp] theorem State.routeOne_ident (m : ModelDesc) (qp : Nat) (done : List (Delivery × Status × Nat)) (b : List Byte) :
    (s.routeOne p m qp done b).1.ident = s.ident := by
  grind [State.routeOne, State.routeFind_ident, State.routeDeliver_ident, State.count_ident]
@[simp] theorem State.routeMsg_ident (s : State) (p : Part) (qp : Nat) (msg : Msg) : (s.routeMsg p qp msg).ident = s.ident := by
  refine State.fromAccelerator_ident fun t m => ?_
  split
  · simp
  · dsimp only
    rw [State.answer_ident, State.sendMsg_ident]
    exact State.foldl_ident (fun a b => by simp) _ (s, [], [])
@[simp] theorem State.attentionMsg_ident (qp : Nat) (m : Msg) : (s.attentionMsg p qp m).ident = s.ident := by
  unfold State.attentionMsg
  split <;> simp
end

/-! ### Packets (12) -/

section
variable (s : State) (p : Part)

theorem State.devPolice_ident {s t : State} {n len : Nat} (h : s.devPolice n len = some t) : t.ident = s.ident := by
  grind [State.devPolice, State.updPort_ident]
@[simp] theorem State.deviceFrame_ident (port op : Nat) (k : Option Pkt) (bytes : Nat) :
    (s.deviceFrame port op k bytes).ident = s.ident := rfl
@[simp] theorem State.bucketReply_ident (port op : Nat) (k : Pkt) (b : PortBinding) : (s.bucketReply port op k b).ident = s.ident := by
  simp [State.bucketReply, apply_ite State.ident]
@[simp] theorem State.nakTo_ident (port : Nat) (k : Pkt) (st : Status) (hint : Nat) : (s.nakTo p port k st hint).ident = s.ident := by
  simp [State.nakTo, apply_ite State.ident]
@[simp] theorem State.sendAck_ident (n hint : Nat) : (s.sendAck p n hint).ident = s.ident := by unfold State.sendAck; split <;> simp
@[simp] theorem State.violation_ident (n op : Nat) (k : Pkt) (object : Handle) : (s.violation p n op k object).ident = s.ident := by
  unfold State.violation
  dsimp only
  (repeat' split) <;> simp
@[simp] theorem State.placeSend_ident (n : Nat) (k : Pkt) : (s.placeSend p n k).ident = s.ident := by
  unfold State.placeSend
  dsimp only
  (repeat' split) <;> simp
@[simp] theorem State.endSend_ident (n : Nat) (k : Pkt) : (s.endSend p n k).1.ident = s.ident := by
  unfold State.endSend
  dsimp only
  (repeat' split) <;> simp
@[simp] theorem State.serveRead_ident (n region : Nat) (k : Pkt) : (s.serveRead p n region k).ident = s.ident := by
  unfold State.serveRead
  split <;> simp [State.forEach_ident]
@[simp] theorem State.trigger_ident (n : Nat) (k : Pkt) : (s.trigger p n k).ident = s.ident := by
  simp [State.trigger, apply_ite State.ident]
@[simp] theorem State.execPkt_ident (n op region : Nat) (k : Pkt) : (s.execPkt p n op region k).1.ident = s.ident := by
  simp [State.execPkt, apply_ite Prod.fst, apply_ite State.ident]
@[simp] theorem State.settled_ident (n : Nat) (k : Pkt) (st : Status) (beyond : Bool) : (s.settled p n k st beyond).ident = s.ident := by
  unfold State.settled
  dsimp only
  split <;> simp [apply_ite State.ident]
@[simp] theorem State.faultIn_ident (ri c : Nat) : (s.faultIn p ri c).ident = s.ident := by
  unfold State.faultIn
  (repeat' split) <;> simp
@[simp] theorem State.faultHint_ident : s.faultHint.2.ident = s.ident := rfl
@[simp] theorem State.holdPkt_ident (n op : Nat) (k : Pkt) : (s.holdPkt p n op k).ident = s.ident := by
  unfold State.holdPkt
  split <;> simp [apply_ite State.ident]
@[simp] theorem State.fromRow10_ident (n op : Nat) (k : Pkt) (beyond : Bool) : (s.fromRow10 p n op k beyond).ident = s.ident := by
  unfold State.fromRow10
  (repeat' split) <;> simp [State.forEach_ident]
@[simp] theorem State.runHeld_ident (n l : Nat) : (s.runHeld p n l).ident = s.ident := by
  induction l generalizing s with
  | zero => rfl
  | succ n ih => grind [State.runHeld, State.updQp_ident, State.fromRow10_ident]
@[simp] theorem State.takePkt_ident (n op : Nat) (k : Pkt) : (s.takePkt p n op k).ident = s.ident := by
  unfold State.takePkt
  split <;> simp [apply_ite State.ident]
@[simp] theorem State.duplicate_ident (n op : Nat) (k : Pkt) (v : Nat) : (s.duplicate p n op k v).ident = s.ident := by
  unfold State.duplicate
  dsimp only
  (repeat' split) <;> simp
@[simp] theorem State.connectMsg_ident (port : Nat) (k : Pkt) : (s.connectMsg p port k).ident = s.ident := by
  unfold State.connectMsg
  split <;> simp
theorem State.arrive_ident {s : State} {port : PortNo} {op : Nat} {k : Pkt} {g : State → Part → Nat → State}
    (h : ∀ s p n, (g s p n).ident = s.ident) : (s.arrive port op k g).ident = s.ident := by
  unfold State.arrive
  extract_lets +onlyGivenNames q len
  refine State.ite_ident rfl ?_
  extract_lets +onlyGivenNames s₁
  rw [← show s₁.ident = s.ident from State.portCount_ident ..]
  clear_value s₁
  split
  · refine State.ite_ident (by simp) ?_
    cases hp : s₁.devPolice port.val len with
    | none => rfl
    | some u => exact (State.portCount_ident ..).trans (State.devPolice_ident hp)
  · rename_i p t _
    refine State.ite_ident (by simp) ?_
    split
    · simp
    · extract_lets +onlyGivenNames s₂
      rw [← show s₂.ident = s₁.ident from State.updPort_ident ..]
      clear_value s₂
      refine State.ite_ident (by simp) (State.ite_ident (by simp) (State.ite_ident (by simp) (State.ite_ident ?_ ?_)))
      · exact State.ite_ident (by simp) (State.ite_ident (by simp) rfl)
      · refine State.ite_ident (by simp) ?_
        split
        · simp
        · refine State.ite_ident (by simp) (State.ite_ident ?_ (State.ite_ident (h ..) (State.ite_ident (by simp) ?_)))
          · exact State.ite_ident (by simp) (by simp [apply_ite State.ident])
          · split <;> simp [apply_ite State.ident]
end

/-! ### The requester (12) -/

section
variable (s : State) (p : Part)

@[simp] theorem State.settleWork_ident (n l : Nat) : (s.settleWork p n l).ident = s.ident := by
  fun_induction State.settleWork s p n l <;> simp_all [State.forEach_ident]
@[simp] theorem State.resend_ident (n : Nat) (o : OutPkt) : (s.resend p n o).ident = s.ident := by
  unfold State.resend
  dsimp only
  (repeat' split) <;> simp
@[simp] theorem State.afterAnswer_ident (n : Nat) : (s.afterAnswer p n).ident = s.ident := by
  unfold State.afterAnswer
  dsimp only
  split <;> simp [apply_ite State.ident]
@[simp] theorem State.ackMsg_ident (k : Pkt) (n : Nat) : (s.ackMsg k p n).ident = s.ident := by
  unfold State.ackMsg
  split <;> simp [apply_ite State.ident, State.forEach_ident]
@[simp] theorem State.nakMsg_ident (k : Pkt) (n : Nat) : (s.nakMsg k p n).ident = s.ident := by
  unfold State.nakMsg
  dsimp only
  (repeat' split) <;> simp
@[simp] theorem State.readRespMsg_ident (k : Pkt) (n : Nat) : (s.readRespMsg k p n).ident = s.ident := by
  unfold State.readRespMsg
  (repeat' split) <;> simp [apply_ite State.ident]
@[simp] theorem State.connectRepMsg_ident (k : Pkt) (n : Nat) : (s.connectRepMsg k p n).ident = s.ident := by
  unfold State.connectRepMsg
  split <;> simp [apply_ite State.ident]
end

/-! ### Ports (12) -/

section
variable (s : State) (p : Part)

@[simp] theorem State.dropOversize_ident (n c l : Nat) : (s.dropOversize n c l).ident = s.ident := by
  fun_induction State.dropOversize s n c l <;> simp_all
@[simp] theorem State.startFrame_ident (n c sub time : Nat) (q : Port) (f : OutFrame) :
    (s.startFrame n c sub time q f).ident = s.ident := rfl
@[simp] theorem State.gclGo_ident (n time : Nat) : (s.gclGo n time).ident = s.ident := by simp [State.gclGo, apply_ite State.ident]
end

end Sys2Proof.Machine
end

section
/-! SUPPORT. The frame of the device's identity (15), of flash, recovery, power and the management interfaces: none of these
operations writes it. -/

namespace Sys2Proof.Machine
open Sys2Proof.Cert

/-! ### Flash (10) -/

section
variable (s : State) (p : Part)

@[simp] theorem State.updFlash_ident (f : Flash → Flash) : (s.updFlash f).ident = s.ident := rfl
@[simp] theorem State.eventAll_ident (code status : Nat) (arg : Word) : (s.eventAll code status arg).ident = s.ident := by
  unfold State.eventAll
  refine State.forEach_ident fun _ _ => ?_
  (repeat' split) <;> simp
@[simp] theorem State.eventParts_ident (code status : Nat) (arg : Word) : (s.eventParts code status arg).ident = s.ident := by
  unfold State.eventParts
  refine State.forEach_ident fun _ _ => ?_
  (repeat' split) <;> simp
@[simp] theorem State.mapRecord_ident (was : Tab MapUnit) : (s.mapRecord p was).ident = s.ident := by
  simp [State.mapRecord, apply_ite State.ident]
@[simp] theorem State.settleMap_ident : (s.settleMap p).ident = s.ident := by
  unfold State.settleMap
  split
  · rfl
  · extract_lets was ws s₁ f r n s₂ s₃
    have h₁ : s₁.ident = s.ident := State.forEach_ident fun _ _ => rfl
    have h₂ : s₂.ident = s.ident := (State.mapRecord_ident ..).trans h₁
    have h₃ : s₃.ident = s.ident := by
      dsimp only [s₃]
      split <;> simp [h₂]
    refine (State.forEach_ident fun s o => ?_).trans h₃
    split
    · split <;> simp [apply_ite State.ident]
    · rfl
@[simp] theorem State.settleReserve_ident : s.settleReserve.ident = s.ident := State.forEach_ident fun _ _ => rfl
@[simp] theorem State.settleShares_ident : s.settleShares.ident = s.ident := by simp [State.settleShares, apply_ite State.ident]
@[simp] theorem State.settleTier_ident (before : FlashSt) : (s.settleTier before).ident = s.ident := by
  unfold State.settleTier
  dsimp only
  (repeat' split) <;> simp
@[simp] theorem State.gleanPrio_ident : s.gleanPrio.ident = s.ident := rfl
@[simp] theorem State.updSlot_ident (k : Slot) (f : Carrier → Carrier) : (s.updSlot k f).ident = s.ident := rfl
@[simp] theorem State.goOnDetach_ident (k : Slot) : (s.goOnDetach k).ident = s.ident := by
  simp [State.goOnDetach, apply_ite State.ident, State.forEach_ident]
@[simp] theorem State.settleFlash_ident : s.settleFlash.ident = s.ident := by
  rw [State.settleFlash_eq, State.settleTier_ident, State.gleanPrio_ident, State.forEach_ident fun s k => State.goOnDetach_ident s k,
    State.forEach_ident fun s p => State.settleMap_ident s p, State.settleShares_ident, State.settleReserve_ident, State.updFlash_ident]
@[simp] theorem State.flashLost_ident (k : Nat) (u : MapUnit) : (s.flashLost p k u).ident = s.ident := by
  unfold State.flashLost
  (repeat' split) <;> simp
@[simp] theorem State.imageLost_ident (u : MapUnit) : (s.imageLost p u).ident = s.ident := by
  unfold State.imageLost
  dsimp only
  split <;> simp
@[simp] theorem State.mirrorGone_ident (k : Nat) (u : MapUnit) (working : Bool) : (s.mirrorGone p k u working).1.ident = s.ident := by
  simp [State.mirrorGone, apply_ite Prod.fst, apply_ite State.ident]
@[simp] theorem State.repairPiece_ident (k : Nat) (u : MapUnit) (id : Nat) (other working : Bool) :
    (s.repairPiece p k u id other working).ident = s.ident := by
  simp [State.repairPiece, apply_ite State.ident]
@[simp] theorem State.gleanJob_ident (ch : Nat) : (s.gleanJob ch).ident = s.ident := by
  unfold State.gleanJob
  split <;> simp [apply_ite State.ident]
@[simp] theorem State.gleanNext_ident : s.gleanNext.ident = s.ident := by unfold State.gleanNext; dsimp only; (repeat' split) <;> simp
@[simp] theorem State.abandon_ident (id : Nat) : (s.abandon id).ident = s.ident := by simp [State.abandon]
end

/-! ### Carriers (10) -/

section
variable (s : State) (p : Part)

theorem State.withPresence_ident {s : State} {f : State → State} (h : ∀ s, (f s).ident = s.ident) :
    (s.withPresence f).ident = s.ident := by
  simp [State.withPresence, apply_ite State.ident, h]
@[simp] theorem State.carrierEvent_ident (k : Slot) : (s.carrierEvent k).ident = s.ident := rfl
@[simp] theorem State.failSlot_ident (k : Slot) : (s.failSlot k).ident = s.ident := rfl
@[simp] theorem State.enterService_ident (k : Slot) : (s.enterService k).ident = s.ident := by simp [State.enterService]
@[simp] theorem State.blankJoin_ident (k : Slot) : (s.blankJoin k).ident = s.ident := by simp [State.blankJoin]
@[simp] theorem State.startDetach_ident (k : Slot) : (s.startDetach k).ident = s.ident := by simp [State.startDetach]
@[simp] theorem State.unitLost_ident (id k : Nat) (u : MapUnit) : (s.unitLost id k u).ident = s.ident := by
  simp [State.unitLost, apply_ite State.ident]
@[simp] theorem State.loseCarrier_ident (k : Slot) : (s.loseCarrier k).ident = s.ident := by
  simp [State.loseCarrier, State.forEach_ident]
@[simp] theorem State.detachNoted_ident (k : Slot) : (s.detachNoted k).ident = s.ident := rfl
@[simp] theorem State.slotGone_ident (k : Slot) : (s.slotGone k).ident = s.ident := by simp [State.slotGone, apply_ite State.ident]
end

/-! ### Journals and recovery (13) -/

section
variable (s : State) (p : Part)

@[simp] theorem State.updJournal_ident (j : Nat) (f : Journal → Journal) : (s.updJournal j f).ident = s.ident := rfl
@[simp] theorem State.creditTokens_ident (pg : List JRec) : (s.creditTokens p pg).ident = s.ident := by
  unfold State.creditTokens
  refine State.forEach_ident fun _ _ => ?_
  (repeat' split) <;> simp
@[simp] theorem State.onReserve_ident (j : Nat) (pg : List JRec) : (s.onReserve j pg).ident = s.ident := by
  simp [State.onReserve, apply_ite State.ident]
@[simp] theorem State.parkImages_ident (pg : List JRec) : (s.parkImages p pg).ident = s.ident := by
  unfold State.parkImages
  refine State.forEach_ident fun _ _ => ?_
  (repeat' split) <;> simp
@[simp] theorem State.writeImages_ident : (s.writeImages p).ident = s.ident := State.forEach_ident fun _ _ => rfl
@[simp] theorem State.stopJournals_ident : s.stopJournals.ident = s.ident := by simp [State.stopJournals, State.forEach_ident]
@[simp] theorem State.fencePart_ident (cause : Nat) : (s.fencePart cause p).ident = s.ident := by
  grind [State.fencePart, State.forEach_ident, State.stopRevival_ident, State.squash_ident, State.failQp_ident, State.updP_ident]
@[simp] theorem State.endSteps_ident (st : Status) : (s.endSteps p st).ident = s.ident := by
  unfold State.endSteps
  refine State.forEach_ident fun _ _ => ?_
  (repeat' split) <;> simp
@[simp] theorem State.unfencePart_ident : (s.unfencePart p).ident = s.ident := by
  unfold State.unfencePart
  split <;> simp [apply_ite State.ident, State.forEach_ident]
@[simp] theorem State.activate_ident : (s.activate p).ident = s.ident := by
  unfold State.activate
  split <;> simp [apply_ite State.ident, State.forEach_ident]
@[simp] theorem State.settleRecovered_ident (warm : Bool) (gone : List Nat) : (s.settleRecovered p warm gone).ident = s.ident := by
  simp [State.settleRecovered, apply_ite State.ident, State.forEach_ident]
@[simp] theorem State.recoverPart_ident (warm : Bool) : (s.recoverPart p warm).ident = s.ident := by
  unfold State.recoverPart
  split <;> simp
@[simp] theorem State.dropWork_ident (warm : Bool) : (s.dropWork warm).ident = s.ident := by simp [State.dropWork, State.forEach_ident]
@[simp] theorem State.resetPorts_ident (warm : Bool) : (s.resetPorts warm).ident = s.ident := rfl
@[simp] theorem State.resolveFlash_ident (warm : Bool) : (s.resolveFlash warm).ident = s.ident := rfl
@[simp] theorem State.warmRecover_ident : s.warmRecover.ident = s.ident := by simp [State.warmRecover, State.forEach_ident]
@[simp] theorem State.coldRecover_ident : s.coldRecover.ident = s.ident := by simp [State.coldRecover, State.forEach_ident]
end

/-! ### Doorbells and event logs (18) -/

section
variable (s : State) (p : Part)

@[simp] theorem State.doorbell_ident (n : Nat) (cq : Bool) (val : BitVec 32) : (s.doorbell p n cq val).ident = s.ident := by
  unfold State.doorbell
  split <;> simp [apply_ite State.ident]
@[simp] theorem State.ringDoorbell_ident (n : Nat) (cq : Bool) (val : BitVec 32) : (s.ringDoorbell p n cq val).ident = s.ident := by
  unfold State.ringDoorbell
  split <;> simp [apply_ite State.ident]
@[simp] theorem State.keptDoorbells_ident (n : Nat) : (s.keptDoorbells p n).ident = s.ident := by
  unfold State.keptDoorbells
  (repeat' split) <;> simp [apply_ite State.ident]
@[simp] theorem State.updLog_ident (log : LogId) (f : EvLog → EvLog) : (s.updLog log f).ident = s.ident := by
  unfold State.updLog
  split <;> rfl
end

/-! ### Power (14) -/

section
variable (s : State) (p : Part)

@[simp] theorem State.settleSlot_ident (k : Slot) : (s.settleSlot k).ident = s.ident := by
  simp [State.settleSlot, apply_ite State.ident]
@[simp] theorem State.fenceAll_ident (cause : Nat) : (s.fenceAll cause).ident = s.ident := by simp [State.fenceAll, State.forEach_ident]
@[simp] theorem State.selfTest_ident (failed : BitVec 64) : (s.selfTest failed).ident = s.ident := by
  simp [State.selfTest, State.forEach_ident]
@[simp] theorem State.serve_ident : s.serve.ident = s.ident := by simp [State.serve, State.forEach_ident]
@[simp] theorem State.dormantGo_ident : s.dormantGo.ident = s.ident := by simp [State.dormantGo, apply_ite State.ident]
@[simp] theorem State.sleep_ident : s.sleep.ident = s.ident := by simp [State.sleep, State.forEach_ident]
@[simp] theorem State.dormantOk_ident (val : BitVec 32) : (s.dormantOk p val).ident = s.ident := rfl
@[simp] theorem State.updPll_ident (n : Nat) (f : PllState → PllState) : (s.updPll n f).ident = s.ident := rfl
@[simp] theorem State.pllBlock_ident (l : Pll) : (s.pllBlock l).ident = s.ident := by
  unfold State.pllBlock
  split <;> simp [apply_ite State.ident]
@[simp] theorem State.auxWrite_ident (k val : Nat) : (s.auxWrite k val).ident = s.ident := rfl
end

/-! ### CXL (11) -/

section
variable (s : State) (p : Part)

theorem State.mailboxCmd_ident {s : State} {p : Part} {f : State → State} (h : ∀ s, (f s).ident = s.ident) :
    (s.mailboxCmd p f).ident = s.ident := by
  simp [State.mailboxCmd, apply_ite State.ident, h]
@[simp] theorem State.freeT1b_ident (l : List Cand) : (s.freeT1b p l).ident = s.ident := by
  induction l generalizing s with
  | nil => rfl
  | cons b bs ih => grind [State.freeT1b, State.evict_ident]
@[simp] theorem State.updExtent_ident (dpa : Nat) (st : ExtentSt) (f : Extent → Option Extent) :
    (s.updExtent p dpa st f).ident = s.ident := rfl
@[simp] theorem State.revokeRegion_ident (i : Nat) (r : Region) : (s.revokeRegion p i r).ident = s.ident := by
  simp [State.revokeRegion, apply_ite State.ident, State.forEach_ident]
theorem State.fwCmd_ident {s : State} {p : Part} {f : State → State} (h : ∀ s, (f s).ident = s.ident) :
    (s.fwCmd p f).ident = s.ident := by
  simp [State.fwCmd, apply_ite State.ident, h]
@[simp] theorem State.t1hReadLost_ident (g : Nat) : (s.t1hReadLost p g).ident = s.ident := by
  unfold State.t1hReadLost
  split <;> simp [apply_ite State.ident]
@[simp] theorem State.t1hWriteLost_ident (g : Nat) : (s.t1hWriteLost p g).ident = s.ident := by
  simp [State.t1hWriteLost, apply_ite State.ident]
end

/-! ### Identity and presence (15) -/

section
variable (s : State) (p : Part)

@[simp] theorem State.layoutRecord_ident : s.layoutRecord.ident = s.ident := rfl
@[simp] theorem State.newKeys_ident (epoch : Nat) : (s.newKeys p epoch).2.ident = s.ident := rfl
@[simp] theorem State.closeWindow_ident : s.closeWindow.ident = s.ident := rfl
@[simp] theorem State.breakSeal_ident : s.breakSeal.ident = s.ident := by simp [State.breakSeal, apply_ite State.ident]
theorem State.spdm_ident {s : State} {who : Requester} {f : State → State} (h : ∀ s, (f s).ident = s.ident) :
    (s.spdm who f).ident = s.ident := by
  simp [State.spdm, apply_ite State.ident, h]
@[simp] theorem State.measurement_ident (who : Requester) (idx : Nat) : (s.measurement who idx).2.ident = s.ident := by
  simp [State.measurement, apply_ite Prod.snd, apply_ite State.ident]
@[simp] theorem State.importObject_ident (o : MigObj) : (s.importObject p o).ident = s.ident := by
  unfold State.importObject
  (repeat' split) <;> simp
end

/-! ### Registers and the sideband (18) -/

section
variable (s : State) (p : Part)

@[simp] theorem State.mailGo_ident (map : RegMap) : (s.mailGo map).ident = s.ident := by unfold State.mailGo; split <;> rfl
@[simp] theorem State.queue0Write_ident (off v : Nat) : (s.queue0Write p off v).ident = s.ident := rfl
@[simp] theorem State.partStore_ident (base v : Nat) : (s.partStore p base v).ident = s.ident := by
  fun_cases State.partStore s p base v <;> simp_all
@[simp] theorem State.setMode_ident (n v : Nat) : (s.setMode n v).ident = s.ident := rfl
@[simp] theorem State.setLatch_ident (map : RegMap) (f : Tab Nat → Tab Nat) : (s.setLatch map f).ident = s.ident := by
  unfold State.setLatch
  split <;> rfl
@[simp] theorem State.read4_ident (map : RegMap) (off : Nat) : (s.read4 map off).1.ident = s.ident := by
  unfold State.read4
  (repeat' split) <;> simp
@[simp] theorem State.readReg_ident (map : RegMap) (off size : Nat) : (s.readReg map off size).1.ident = s.ident := by
  unfold State.readReg
  (repeat' split) <;> simp
@[simp] theorem State.readDwords_ident (off l : Nat) : (s.readDwords off l).1.ident = s.ident := by
  induction l generalizing s off with
  | zero => rfl
  | succ n ih => grind [State.readDwords, State.read4_ident]
end

/-! ### Control flow (16 R371, R372) -/

section
variable (s : State) (p : Part)

@[simp] theorem State.branch_ident (x : StepRef) (d : Deps) (off : BitVec 40) (taken : Ctx → Bool) :
    (s.branch x d off taken).ident = s.ident := State.issue_ident fun _ => rfl
@[simp] theorem State.load_ident (x : StepRef) (d a : GReg) (imm : BitVec 32) (n : Nat) :
    (s.load x d a imm n).ident = s.ident := State.issue_ident fun _ => by dsimp only; split <;> rfl
@[simp] theorem State.store_ident (x : StepRef) (d a : GReg) (imm : BitVec 32) (n : Nat) :
    (s.store x d a imm n).ident = s.ident := State.issue_ident fun _ => by dsimp only; split <;> rfl
end

/-! ### Patrols (13) -/

section
variable (s : State) (p : Part)

@[simp] theorem State.poisonSteps_ident (f : Nat → Step → Bool) : (s.poisonSteps p f).ident = s.ident := by
  unfold State.poisonSteps
  refine State.forEach_ident fun _ _ => ?_
  (repeat' split) <;> simp
@[simp] theorem State.poisonTile_ident (g page : Nat) (v : Bool) : (s.poisonTile p g page v).ident = s.ident := by
  simp [State.poisonTile]
@[simp] theorem State.poisonMeta_ident (g : Nat) : (s.poisonMeta p g).ident = s.ident := by
  unfold State.poisonMeta
  split <;> simp [apply_ite State.ident]
@[simp] theorem State.loseNode_ident (n : Nat) : (s.loseNode p n).ident = s.ident := by
  unfold State.loseNode
  split <;> simp [apply_ite State.ident]
@[simp] theorem State.restoreSession_ident (i : Nat) (t : Partition) (ss : Session) (im : SessImage) :
    (s.restoreSession p i t ss im).ident = s.ident := by
  simp [State.restoreSession, State.forEach_ident fun s g => State.trimUnneeded_ident s p g,
    State.forEach_ident fun s h => State.refUp_ident s p (hIndex h), State.forEach_ident fun s h => State.refDown_ident s p (hIndex h)]
@[simp] theorem State.rollSession_ident (i : Nat) (readable : Bool) : (s.rollSession p i readable).ident = s.ident := by
  unfold State.rollSession
  dsimp only
  (repeat' split) <;> simp [State.forEach_ident]
@[simp] theorem State.reportLost_ident : (s.reportLost p).ident = s.ident := rfl
@[simp] theorem State.rebuildRecords_ident (readable : Bool) : (s.rebuildRecords p readable).ident = s.ident := by
  simp [State.rebuildRecords, apply_ite State.ident]
@[simp] theorem State.rebuildPrograms_ident (readable : Bool) : (s.rebuildPrograms p readable).ident = s.ident := by
  simp [State.rebuildPrograms, apply_ite State.ident]
end

end Sys2Proof.Machine
end

section
/-! SUPPORT. The frame of the device's identity (15), of every instruction that does not write it. -/

namespace Sys2Proof.Machine
open Sys2Proof.Cert

/-- The step of an instruction leaves the identity of the device (15) as it was, when there is a next state. -/
def KeepsIdent (s : State) : Out → Prop
  | .next t => t.ident = s.ident
  | _ => True
@[simp] theorem keepsIdent_next {s t : State} : KeepsIdent s (.next t) ↔ t.ident = s.ident := Iff.rfl
@[simp] theorem keepsIdent_fault {s : State} {r : Fault} : KeepsIdent s (.fault r) := trivial

/-! ### The scalar groups (16) -/

section
variable (s : State) (p : Part)

theorem exec_nop_ident (x : StepRef) : KeepsIdent s (exec (.nop x) s) := State.scalar_ident ..
theorem exec_addG_ident (x : StepRef) (d a b : GReg) : KeepsIdent s (exec (.addG x d a b) s) := State.alu_ident ..
theorem exec_sub_ident (x : StepRef) (d a b : GReg) : KeepsIdent s (exec (.sub x d a b) s) := State.alu_ident ..
theorem exec_mul_ident (x : StepRef) (d a b : GReg) : KeepsIdent s (exec (.mul x d a b) s) := State.alu_ident ..
theorem exec_mulhu_ident (x : StepRef) (d a b : GReg) : KeepsIdent s (exec (.mulhu x d a b) s) := State.alu_ident ..
theorem exec_divu_ident (x : StepRef) (d a b : GReg) : KeepsIdent s (exec (.divu x d a b) s) := State.alu_ident ..
theorem exec_remu_ident (x : StepRef) (d a b : GReg) : KeepsIdent s (exec (.remu x d a b) s) := State.alu_ident ..
theorem exec_andG_ident (x : StepRef) (d a b : GReg) : KeepsIdent s (exec (.andG x d a b) s) := State.alu_ident ..
theorem exec_orG_ident (x : StepRef) (d a b : GReg) : KeepsIdent s (exec (.orG x d a b) s) := State.alu_ident ..
theorem exec_xorG_ident (x : StepRef) (d a b : GReg) : KeepsIdent s (exec (.xorG x d a b) s) := State.alu_ident ..
theorem exec_shl_ident (x : StepRef) (d a b : GReg) : KeepsIdent s (exec (.shl x d a b) s) := State.alu_ident ..
theorem exec_shr_ident (x : StepRef) (d a b : GReg) : KeepsIdent s (exec (.shr x d a b) s) := State.alu_ident ..
theorem exec_sra_ident (x : StepRef) (d a b : GReg) : KeepsIdent s (exec (.sra x d a b) s) := State.alu_ident ..
theorem exec_cmpeq_ident (x : StepRef) (d : FReg) (a b : GReg) : KeepsIdent s (exec (.cmpeq x d a b) s) := State.cmp_ident ..
theorem exec_cmpne_ident (x : StepRef) (d : FReg) (a b : GReg) : KeepsIdent s (exec (.cmpne x d a b) s) := State.cmp_ident ..
theorem exec_cmplt_ident (x : StepRef) (d : FReg) (a b : GReg) : KeepsIdent s (exec (.cmplt x d a b) s) := State.cmp_ident ..
theorem exec_cmpltu_ident (x : StepRef) (d : FReg) (a b : GReg) : KeepsIdent s (exec (.cmpltu x d a b) s) := State.cmp_ident ..
theorem exec_cmple_ident (x : StepRef) (d : FReg) (a b : GReg) : KeepsIdent s (exec (.cmple x d a b) s) := State.cmp_ident ..
theorem exec_cmpleu_ident (x : StepRef) (d : FReg) (a b : GReg) : KeepsIdent s (exec (.cmpleu x d a b) s) := State.cmp_ident ..
theorem exec_fand_ident (x : StepRef) (d a b : FReg) : KeepsIdent s (exec (.fand x d a b) s) := State.flagOp_ident ..
theorem exec_forF_ident (x : StepRef) (d a b : FReg) : KeepsIdent s (exec (.forF x d a b) s) := State.flagOp_ident ..
theorem exec_fxor_ident (x : StepRef) (d a b : FReg) : KeepsIdent s (exec (.fxor x d a b) s) := State.flagOp_ident ..
theorem exec_fandn_ident (x : StepRef) (d a b : FReg) : KeepsIdent s (exec (.fandn x d a b) s) := State.flagOp_ident ..
theorem exec_popc_ident (x : StepRef) (d a : GReg) : KeepsIdent s (exec (.popc x d a) s) := State.unary_ident ..
theorem exec_clz_ident (x : StepRef) (d a : GReg) : KeepsIdent s (exec (.clz x d a) s) := State.unary_ident ..
theorem exec_ctz_ident (x : StepRef) (d a : GReg) : KeepsIdent s (exec (.ctz x d a) s) := State.unary_ident ..
theorem exec_rdsl_ident (x : StepRef) (d : GReg) : KeepsIdent s (exec (.rdsl x d) s) := State.scalar_ident ..
theorem exec_movi_ident (x : StepRef) (d : GReg) (imm : BitVec 32) : KeepsIdent s (exec (.movi x d imm) s) := State.scalar_ident ..
theorem exec_movhi_ident (x : StepRef) (d : GReg) (imm : BitVec 32) : KeepsIdent s (exec (.movhi x d imm) s) := State.scalar_ident ..
theorem exec_addi_ident (x : StepRef) (d a : GReg) (imm : BitVec 32) : KeepsIdent s (exec (.addi x d a imm) s) := State.unary_ident ..
theorem exec_muli_ident (x : StepRef) (d a : GReg) (imm : BitVec 32) : KeepsIdent s (exec (.muli x d a imm) s) := State.unary_ident ..
theorem exec_andi_ident (x : StepRef) (d a : GReg) (imm : BitVec 32) : KeepsIdent s (exec (.andi x d a imm) s) := State.unary_ident ..
theorem exec_ori_ident (x : StepRef) (d a : GReg) (imm : BitVec 32) : KeepsIdent s (exec (.ori x d a imm) s) := State.unary_ident ..
theorem exec_xori_ident (x : StepRef) (d a : GReg) (imm : BitVec 32) : KeepsIdent s (exec (.xori x d a imm) s) := State.unary_ident ..
theorem exec_shli_ident (x : StepRef) (d a : GReg) (imm : BitVec 32) : KeepsIdent s (exec (.shli x d a imm) s) :=
  State.shiftImm_ident ..
theorem exec_shri_ident (x : StepRef) (d a : GReg) (imm : BitVec 32) : KeepsIdent s (exec (.shri x d a imm) s) :=
  State.shiftImm_ident ..
theorem exec_srai_ident (x : StepRef) (d a : GReg) (imm : BitVec 32) : KeepsIdent s (exec (.srai x d a imm) s) :=
  State.shiftImm_ident ..
theorem exec_cmpeqi_ident (x : StepRef) (d : FReg) (a : GReg) (imm : BitVec 32) :
    KeepsIdent s (exec (.cmpeqi x d a imm) s) := State.cmpImm_ident ..
theorem exec_cmpnei_ident (x : StepRef) (d : FReg) (a : GReg) (imm : BitVec 32) :
    KeepsIdent s (exec (.cmpnei x d a imm) s) := State.cmpImm_ident ..
theorem exec_cmplti_ident (x : StepRef) (d : FReg) (a : GReg) (imm : BitVec 32) :
    KeepsIdent s (exec (.cmplti x d a imm) s) := State.cmpImm_ident ..
theorem exec_cmpltui_ident (x : StepRef) (d : FReg) (a : GReg) (imm : BitVec 32) :
    KeepsIdent s (exec (.cmpltui x d a imm) s) := State.cmpImm_ident ..
theorem exec_cmplei_ident (x : StepRef) (d : FReg) (a : GReg) (imm : BitVec 32) :
    KeepsIdent s (exec (.cmplei x d a imm) s) := State.cmpImm_ident ..
theorem exec_cmpleui_ident (x : StepRef) (d : FReg) (a : GReg) (imm : BitVec 32) :
    KeepsIdent s (exec (.cmpleui x d a imm) s) := State.cmpImm_ident ..
end

/-! ### The page-table group (16 R375, R376) -/

section
variable (s : State) (p : Part)

theorem exec_ptlen_ident (x : StepRef) (r : Bool) (h : HReg) (a b : GReg) :
    KeepsIdent s (exec (.ptlen x r h a b) s) := State.issue_ident fun _ => Iss.with_ident (by split <;> simp [apply_ite State.ident])
theorem exec_ptget_ident (x : StepRef) (r : Bool) (d h : HReg) (a b : GReg) :
    KeepsIdent s (exec (.ptget x r d h a b) s) := State.issue_ident fun _ => Iss.with_ident (by dsimp only; (repeat' split) <;> simp)
theorem exec_pginfo_ident (x : StepRef) (r : Bool) (h : HReg) (a b : GReg) :
    KeepsIdent s (exec (.pginfo x r h a b) s) := State.issue_ident fun _ => Iss.with_ident (by split <;> simp [apply_ite State.ident])
theorem exec_walk_ident (x : StepRef) (r : Bool) (h : HReg) (a b : GReg) : KeepsIdent s (exec (.walk x r h a b) s) :=
  State.issue_ident fun i => Iss.with_ident (by
    dsimp only
    split
    · rfl
    · generalize hl : List.drop _ _ = l
      have hw := State.walkBlocks_ident i.s i.p i.k (hIndex (i.c.rh h)) l 0
      split <;> rename_i he <;> rw [he] at hw <;> simpa [apply_ite State.ident] using hw)
theorem Iss.reportKey_ident (i : Iss) (mode seq : Nat) (tok : Word) : (i.reportKey mode seq tok).s.ident = i.s.ident := by
  unfold Iss.reportKey
  split
  · dsimp only
    split <;> simp
  · rfl
theorem exec_walkemit_ident (x : StepRef) (r : Bool) (h : HReg) (a b : GReg) (mode : Fin 8) :
    KeepsIdent s (exec (.walkemit x r h a b mode) s) :=
  State.issue_ident fun i => by
    dsimp only
    refine State.iteFst_ident rfl (Iss.with_ident ?_)
    split
    · rfl
    · refine State.iteFst_ident rfl ?_
      split
      · have hw := State.walkBlocks_ident i.s i.p i.k (hIndex (i.c.rh h)) (List.range (i.t.blocksOf i.k (hIndex (i.c.rh h)))) 0
        split <;> rename_i he <;> rw [he] at hw <;> exact hw
      · split
        · exact Iss.reportKey_ident ..
        · generalize hr : State.walkBlocks _ _ _ _ _ _ = r
          have hw : r.1.ident = i.s.ident := hr ▸ State.walkBlocks_ident ..
          split
          · split
            · split
              · exact (State.emit_ident ..).trans hw
              · exact hw
            · exact hw
          all_goals exact hw
theorem exec_append_ident (x : StepRef) (r : Bool) (h : HReg) (a : GReg) : KeepsIdent s (exec (.append x r h a) s) :=
  State.issue_ident fun i => Iss.with_ident (by
    extract_lets +onlyGivenNames seq
    split
    · split
      · extract_lets +onlyGivenNames b
        generalize hr : State.walkBlocks _ _ _ _ _ _ = r
        have hw : r.1.ident = i.s.ident := hr ▸ State.walkBlocks_ident ..
        split <;> exact hw
      · split
        · rfl
        · split
          · rfl
          · refine State.iteFst_ident rfl (State.iteFst_ident rfl ?_)
            extract_lets +onlyGivenNames lim fit n0 blocks go
            have hgo (s : State) (n : Nat) (hs : s.ident = i.s.ident) : (go s n).1.ident = i.s.ident := by
              dsimp only [go]
              rw [State.updSeq_ident, Iss.keep_ident, State.updStep_ident, ← hs]
              refine State.ite_ident ?_ (State.forEach_ident fun _ _ => State.writePos_ident ..)
              split <;> rfl
            clear_value go
            generalize hr : State.writables _ _ _ _ _ _ _ _ _ = r
            have hw : r.1.ident = i.s.ident := hr ▸ State.writables_ident ..
            split
            · exact hgo _ _ hw
            · exact hw
            · exact hw
            · exact hw
            · exact State.iteFst_ident hw (hgo _ _ hw)
    · rfl)
theorem exec_pgpromote_ident (x : StepRef) (r : Bool) (h : HReg) : KeepsIdent s (exec (.pgpromote x r h) s) :=
  State.issue_ident fun i => Iss.with_ident (by
    split
    · rfl
    · have hw := State.walkGroup_ident i.s i.p i.k (hIndex (i.c.rh h))
      split <;> rename_i he <;> rw [he] at hw <;> simpa [apply_ite State.ident] using hw)
theorem exec_pgdemote_ident (x : StepRef) (r : Bool) (h : HReg) (a : GReg) (tgt : Bool) :
    KeepsIdent s (exec (.pgdemote x r h a tgt) s) :=
  State.issue_ident fun _ => Iss.with_ident (by simp [apply_ite Prod.fst, apply_ite State.ident])
theorem exec_ptfork_ident (x : StepRef) (r : Bool) (d h : HReg) : KeepsIdent s (exec (.ptfork x r d h) s) :=
  State.issue_ident fun i => Iss.with_ident (Iss.with_ident (by
    split
    · rfl
    · split
      · extract_lets +onlyGivenNames busy
        refine State.iteFst_ident rfl (State.iteFst_ident rfl ?_)
        extract_lets +onlyGivenNames s₁ copies
        have hc : copies.1.ident = i.s.ident := by
          dsimp only [copies]
          split
          · exact State.forkCopies_ident ..
          · rfl
        clear_value copies
        split
        · exact (apply_ite State.ident ..).trans (by simpa using hc)
        all_goals exact hc
      · rfl))
end

/-! ### The prefix group (16 R377, R378) -/

section
variable (s : State) (p : Part)

theorem exec_pxmatch_ident (x : StepRef) (r : Bool) (h : HReg) (a b : GReg) : KeepsIdent s (exec (.pxmatch x r h a b) s) :=
  State.issue_ident fun i => Iss.with_ident (by
    dsimp only
    split
    · refine State.iteFst_ident rfl (State.iteFst_ident rfl (State.iteFst_ident (by simp) ?_))
      split
      · rfl
      · generalize hk : promptKeys _ _ _ _ _ _ = keys
        generalize hr : State.matchWalk _ _ _ _ _ _ _ keys 0 0 = r
        have hm : r.1.ident = i.s.ident := hr ▸ State.matchWalk_ident ..
        split
        · exact hm
        · exact hm
        · refine State.iteFst_ident hm hm
    · rfl)
theorem exec_pxlook_ident (x : StepRef) (r : Bool) (d h : HReg) (a b : GReg) : KeepsIdent s (exec (.pxlook x r d h a b) s) :=
  State.issue_ident fun i => Iss.with_ident (by
    dsimp only
    refine State.iteFst_ident rfl ?_
    split
    · rfl
    · split
      · rfl
      · refine State.iteFst_ident rfl (State.iteFst_ident (by simp) ?_)
        split
        · rfl
        · generalize hr : State.probe _ _ _ _ _ _ _ _ = r
          have hm : r.1.ident = i.s.ident := hr ▸ State.probe_ident ..
          split
          · exact hm
          · exact hm
          · exact State.iteFst_ident hm hm)
theorem exec_pxkey_ident (x : StepRef) (r : Bool) (h : HReg) (a b : GReg) :
    KeepsIdent s (exec (.pxkey x r h a b) s) := State.issue_ident fun _ => Iss.with_ident (by dsimp only; (repeat' split) <;> simp)
theorem exec_domcreate_ident (x : StepRef) (r : Bool) (a : GReg) :
    KeepsIdent s (exec (.domcreate x r a) s) := State.issue_ident fun _ => by (repeat' split) <;> simp
theorem exec_domclose_ident (x : StepRef) (r : Bool) (a : GReg) : KeepsIdent s (exec (.domclose x r a) s) :=
  State.issue_ident fun _ => by dsimp only; split <;> simp [apply_ite Prod.fst, apply_ite State.ident]
end

/-! ### The move group (16 R384 to R386) -/

section
variable (s : State) (p : Part)

theorem exec_mvcopy_ident (x : StepRef) (r : Bool) (d h : HReg) (a b : GReg) (bulk : Bool) :
    KeepsIdent s (exec (.mvcopy x r d h a b bulk) s) :=
  State.issue_ident fun i => Iss.with_ident (Iss.with_ident (by
    dsimp only
    refine State.iteFst_ident rfl ?_
    split
    · rfl
    · split
      · refine State.iteFst_ident rfl (State.iteFst_ident rfl (State.iteFst_ident rfl ?_))
        simp [apply_ite State.ident]
      · rfl))
theorem exec_mvtier_ident (x : StepRef) (r : Bool) (h : HReg) (a b : GReg) (tgt : Fin 4) :
    KeepsIdent s (exec (.mvtier x r h a b tgt) s) :=
  State.issue_ident fun i => Iss.with_ident (by
    dsimp only
    split
    · rfl
    · split
      · rfl
      · refine State.iteFst_ident rfl (State.iteFst_ident (by simp) (State.iteFst_ident (by simp [apply_ite State.ident]) ?_))
        generalize hr : State.takeChunks _ _ _ _ _ = r
        have ht : r.1.ident = i.s.ident := hr ▸ State.takeChunks_ident ..
        split <;> simpa [apply_ite State.ident] using ht)
theorem exec_mvwait_ident (x : StepRef) (r : Bool) (d : FReg) (a : GReg) :
    KeepsIdent s (exec (.mvwait x r d a) s) := State.issue_ident fun _ => by split <;> simp [apply_ite Prod.fst, apply_ite State.ident]
theorem exec_mvstat_ident (x : StepRef) (r : Bool) (d a : GReg) :
    KeepsIdent s (exec (.mvstat x r d a) s) := State.issue_ident fun _ => by (repeat' split) <;> simp
end

/-! ### The step group (16 R387 to R389) -/

section
variable (s : State) (p : Part)

theorem exec_waitmsg_ident (x : StepRef) (r : Bool) (h : HReg) (a b : GReg) (nolayer src : Bool) :
    KeepsIdent s (exec (.waitmsg x r h a b nolayer src) s) :=
  State.issue_ident fun _ => Iss.with_ident (by dsimp only; (repeat' split) <;> simp)
theorem exec_waiteng_ident (x : StepRef) (r : Bool) (d : FReg) (a : GReg) :
    KeepsIdent s (exec (.waiteng x r d a) s) := State.issue_ident fun _ => by simp [apply_ite Prod.fst, apply_ite State.ident]
theorem exec_stepinfo_ident (x : StepRef) (r : Bool) (d : GReg) (imm : BitVec 32) :
    KeepsIdent s (exec (.stepinfo x r d imm) s) := State.issue_ident fun _ => by split <;> rfl
theorem exec_modload_ident (x : StepRef) (r : Bool) (d a : GReg) :
    KeepsIdent s (exec (.modload x r d a) s) := State.issue_ident fun _ => by dsimp only; (repeat' split) <;> simp
end

/-! ### The session group (16 R391) -/

section
variable (s : State) (p : Part)

theorem exec_screate_ident (x : StepRef) (r : Bool) (h : HReg) (a : GReg) : KeepsIdent s (exec (.screate x r h a) s) :=
  State.issue_ident fun _ => by (repeat' split) <;> simp [apply_ite Prod.fst, apply_ite State.ident]
theorem exec_sseq_ident (x : StepRef) (r : Bool) (d h : HReg) (a : GReg) : KeepsIdent s (exec (.sseq x r d h a) s) :=
  State.issue_ident fun _ => Iss.with_ident (by split <;> simp [apply_ite Prod.fst, apply_ite State.ident])
theorem exec_spark_ident (x : StepRef) (r : Bool) (h : HReg) : KeepsIdent s (exec (.spark x r h) s) :=
  State.issue_ident fun _ => Iss.with_ident (by simp [apply_ite Prod.fst, apply_ite State.ident])
theorem exec_srevive_ident (x : StepRef) (r : Bool) (h : HReg) (a : GReg) : KeepsIdent s (exec (.srevive x r h a) s) :=
  State.issue_ident fun _ => Iss.with_ident (by simp [apply_ite Prod.fst, apply_ite State.ident])
theorem exec_sdur_ident (x : StepRef) (r : Bool) (h : HReg) (a : GReg) : KeepsIdent s (exec (.sdur x r h a) s) :=
  State.issue_ident fun _ => Iss.with_ident (by simp [apply_ite Prod.fst, apply_ite State.ident])
theorem exec_smigout_ident (x : StepRef) (r : Bool) (h : HReg) (a : GReg) : KeepsIdent s (exec (.smigout x r h a) s) :=
  State.issue_ident fun _ => Iss.with_ident (by simp [apply_ite Prod.fst, apply_ite State.ident])
theorem exec_smigin_ident (x : StepRef) (r : Bool) (a : GReg) :
    KeepsIdent s (exec (.smigin x r a) s) := State.issue_ident fun _ => by dsimp only; (repeat' split) <;> simp
theorem exec_sclose_ident (x : StepRef) (r : Bool) (h : HReg) : KeepsIdent s (exec (.sclose x r h) s) :=
  State.issue_ident fun _ => Iss.with_ident (by simp [apply_ite Prod.fst, apply_ite State.ident])
theorem exec_sinfo_ident (x : StepRef) (r : Bool) (h : HReg) (a b : GReg) : KeepsIdent s (exec (.sinfo x r h a b) s) :=
  State.issue_ident fun _ => Iss.with_ident (by split <;> simp [apply_ite Prod.fst, apply_ite State.ident])
theorem exec_tenset_ident (x : StepRef) (r : Bool) (a b : GReg) :
    KeepsIdent s (exec (.tenset x r a b) s) := State.issue_ident fun _ => by simp [apply_ite Prod.fst, apply_ite State.ident]
theorem exec_tenget_ident (x : StepRef) (r : Bool) (a b : GReg) :
    KeepsIdent s (exec (.tenget x r a b) s) := State.issue_ident fun _ => by split <;> simp [apply_ite Prod.fst, apply_ite State.ident]
theorem exec_sqfree_ident (x : StepRef) (r : Bool) (h : HReg) : KeepsIdent s (exec (.sqfree x r h) s) :=
  State.issue_ident fun _ => Iss.with_ident (by split <;> simp [apply_ite Prod.fst, apply_ite State.ident])
end

/-! ### The sampler (16 R392, R393) -/

section
variable (s : State) (p : Part)

theorem exec_sample_ident (x : StepRef) (r : Bool) (h : HReg) (a b : GReg) :
    KeepsIdent s (exec (.sample x r h a b) s) := State.issue_ident fun _ => Iss.with_ident (by dsimp only; (repeat' split) <;> simp)
theorem exec_smpres_ident (x : StepRef) (r : Bool) (d : GReg) : KeepsIdent s (exec (.smpres x r d) s) := State.issue_ident fun _ => rfl
end

/-! ### The queue and test groups (16 R394, R398) -/

section
variable (s : State) (p : Part)

theorem exec_qpost_ident (x : StepRef) (r : Bool) (h : HReg) (a b : GReg) : KeepsIdent s (exec (.qpost x r h a b) s) :=
  State.issue_ident fun _ => Iss.with_ident (by simp [apply_ite Prod.fst, apply_ite State.ident])
theorem exec_qevent_ident (x : StepRef) (r : Bool) (a : GReg) (imm : BitVec 32) :
    KeepsIdent s (exec (.qevent x r a imm) s) := State.issue_ident fun _ => by simp [apply_ite Prod.fst, apply_ite State.ident]
theorem exec_qinfo_ident (x : StepRef) (r : Bool) (h : HReg) (a b : GReg) :
    KeepsIdent s (exec (.qinfo x r h a b) s) := State.issue_ident fun _ => Iss.with_ident rfl
theorem exec_commit_ident (x : StepRef) (r : Bool) (h : HReg) (a : GReg) (post : Bool) :
    KeepsIdent s (exec (.commit x r h a post) s) := State.issue_ident fun _ => by simp [apply_ite Prod.fst, apply_ite State.ident]
theorem exec_fence_ident (x : StepRef) (r : Bool) :
    KeepsIdent s (exec (.fence x r) s) := State.issue_ident fun _ => by (repeat' split) <;> simp
theorem exec_squash_ident (x : StepRef) (r : Bool) (imm : BitVec 32) :
    KeepsIdent s (exec (.squash x r imm) s) := State.issue_ident fun _ => rfl
theorem exec_tstamp_ident (x : StepRef) (r : Bool) (d : GReg) : KeepsIdent s (exec (.tstamp x r d) s) := State.issue_ident fun _ => rfl
theorem exec_trace_ident (x : StepRef) (r : Bool) (a : GReg) (imm : BitVec 32) :
    KeepsIdent s (exec (.trace x r a imm) s) := State.issue_ident fun _ => rfl
theorem exec_cntrd_ident (x : StepRef) (r : Bool) (d : GReg) (imm : BitVec 32) :
    KeepsIdent s (exec (.cntrd x r d imm) s) := State.issue_ident fun _ => by simp [apply_ite Prod.fst, apply_ite State.ident]
theorem exec_errinj_ident (x : StepRef) (r : Bool) (h : HReg) (a : GReg) (half : Bool) : KeepsIdent s (exec (.errinj x r h a half) s) :=
  State.issue_ident fun _ => Iss.with_ident (by simp [apply_ite Prod.fst, apply_ite State.ident])
end

/-! ### Revival and the clock (09) -/

section
variable (s : State) (p : Part)

theorem exec_revivalApply_ident (sess : Nat) : KeepsIdent s (exec (.revivalApply p sess) s) := by
  show KeepsIdent s (execRevivalApply p sess s)
  unfold execRevivalApply
  rw [keepsIdent_next]
  split
  · rfl
  · rename_i t rv k m _
    refine State.ite_ident rfl (State.ite_ident (by simp) ?_)
    generalize hr : (if t.compat = true then _ else _ : State × CoarseRes) = r
    have hc : r.1.ident = s.ident := hr ▸ State.iteFst_ident (State.coarseFor_ident ..) rfl
    split
    · exact hc
    · exact (State.stopRevival_ident ..).trans hc
    · extract_lets +onlyGivenNames s₁ s₂ s₃ s₄ e
      have h₁ : s₁.ident = s.ident := (State.forEach_ident fun _ _ => State.applyEntry_ident ..).trans hc
      have h₂ : s₂.ident = s.ident := (State.forEach_ident fun _ _ => State.reviveCut_ident ..).trans h₁
      have h₃ : s₃.ident = s₂.ident := by
        refine State.ite_ident (State.forEach_ident fun s e => ?_) rfl
        split
        · rfl
        · refine State.forEach_ident fun s b => ?_
          split
          · exact State.ite_ident (State.summariseBlock_ident ..) rfl
          · rfl
      simp [e, s₄, h₃, h₂]
theorem exec_hgRevive_ident (qp : Nat) (msg : Msg) : KeepsIdent s (exec (.hgRevive p qp msg) s) := State.hgReviveMsg_ident ..
theorem exec_hgReviveK_ident (qp : Nat) (msg : Msg) : KeepsIdent s (exec (.hgReviveK p qp msg) s) := State.hgReviveKMsg_ident ..
theorem exec_hgReviveTimeout_ident (sess : Nat) : KeepsIdent s (exec (.hgReviveTimeout p sess) s) := by
  show KeepsIdent s (execHgReviveTimeout p sess s)
  unfold execHgReviveTimeout
  split <;> simp [apply_ite State.ident]
end

/-! ### Scheduling (03, 06) -/

section
variable (s : State) (p : Part)

theorem exec_waveIssue_ident (m : BitVec 16) : KeepsIdent s (exec (.waveIssue p m) s) := State.formWave_ident ..
theorem exec_waveWaitExpiry_ident (m : BitVec 16) : KeepsIdent s (exec (.waveWaitExpiry p m) s) := State.formWave_ident ..
theorem exec_rowIssue_ident (m : BitVec 16) : KeepsIdent s (exec (.rowIssue p m) s) := State.formRow_ident ..
theorem exec_rowWaitExpiry_ident (m : BitVec 16) : KeepsIdent s (exec (.rowWaitExpiry p m) s) := State.formRow_ident ..
theorem exec_revivalStepStart_ident (sess : Nat) : KeepsIdent s (exec (.revivalStepStart p sess) s) := by
  show KeepsIdent s (execRevivalStepStart p sess s)
  unfold execRevivalStepStart
  (repeat' split) <;> simp
theorem exec_stepStart_ident : KeepsIdent s (exec (.stepStart p) s) := by
  show KeepsIdent s (execStepStart p s)
  unfold execStepStart
  dsimp only
  (repeat' split) <;> simp
end

/-! ### Queues and their commands (02) -/

section
variable (s : State) (p : Part)

theorem exec_sqFetch_ident (raw : List Byte) (poisoned : Bool) : KeepsIdent s (exec (.sqFetch p raw poisoned) s) := by
  show KeepsIdent s (execSqFetch p raw poisoned s)
  unfold execSqFetch
  (repeat' split) <;> simp [apply_ite State.ident]
theorem exec_clockadv_ident (q : Qn) (cid : BitVec 16) :
    KeepsIdent s (exec (.clockadv p q cid) s) := State.startCmd_ident fun _ _ _ => by simp
theorem exec_run_ident (q : Qn) (cid : BitVec 16) :
    KeepsIdent s (exec (.run p q cid) s) := State.startCmd_ident fun _ _ _ => by split <;> simp
theorem exec_request_ident (q : Qn) (cid : BitVec 16) :
    KeepsIdent s (exec (.request p q cid) s) := State.startCmd_ident fun _ _ _ => by simp
theorem exec_cancel_ident (q : Qn) (cid : BitVec 16) :
    KeepsIdent s (exec (.cancel p q cid) s) := State.startCmd_ident fun _ _ _ => by (repeat' split) <;> simp [apply_ite State.ident]
theorem exec_progLoad_ident (q : Qn) (cid : BitVec 16) (image : List Byte) :
    KeepsIdent s (exec (.progLoad p q cid image) s) := State.startCmd_ident fun _ _ _ => by split <;> simp [apply_ite State.ident]
theorem exec_progPlace_ident (q : Qn) (cid : BitVec 16) :
    KeepsIdent s (exec (.progPlace p q cid) s) := State.startCmd_ident fun _ _ _ => by dsimp only; (repeat' split) <;> simp
theorem exec_progUnload_ident (q : Qn) (cid : BitVec 16) :
    KeepsIdent s (exec (.progUnload p q cid) s) := State.startCmd_ident fun _ _ _ => by split <;> simp
theorem exec_queueSet_ident (q : Qn) (cid : BitVec 16) :
    KeepsIdent s (exec (.queueSet p q cid) s) := State.startCmd_ident fun _ _ _ => by dsimp only; split <;> simp [apply_ite State.ident]
theorem exec_queue0Enable_ident : KeepsIdent s (exec (.queue0Enable p) s) := State.wakeDevice_ident ..
theorem exec_queue0Disable_ident : KeepsIdent s (exec (.queue0Disable p) s) := State.wakeDevice_ident ..
theorem exec_queueDrained_ident (q : Qn) : KeepsIdent s (exec (.queueDrained p q) s) := rfl
theorem exec_completionDrain_ident (q : Qn) : KeepsIdent s (exec (.completionDrain p q) s) := rfl
end

/-! ### Clusters (13) -/

section
variable (s : State) (p : Part)

theorem exec_ergotRound_ident : KeepsIdent s (exec .ergotRound s) := rfl
theorem exec_ergotResult_ident (c : Clu) (dA dB : Digest) (arb : Option Digest) (badA badB : Bool) :
    KeepsIdent s (exec (.ergotResult c dA dB arb badA badB) s) := by
  show KeepsIdent s (execErgotResult c dA dB arb badA badB s)
  unfold execErgotResult
  (repeat' split) <;> simp
theorem exec_quarantineSweep_ident (c : Clu) (pass : Bool) : KeepsIdent s (exec (.quarantineSweep c pass) s) := by
  show KeepsIdent s (execQuarantineSweep c pass s)
  simp [execQuarantineSweep, apply_ite State.ident]
theorem exec_shadowCompare_ident (x : StepRef) (own partner : Digest) (arb : Option Digest) :
    KeepsIdent s (exec (.shadowCompare x own partner arb) s) := by
  show KeepsIdent s (execShadowCompare x own partner arb s)
  unfold execShadowCompare
  dsimp only
  (repeat' split) <;> simp
end

/-! ### The attention engine (06) -/

section
variable (s : State) (p : Part)

theorem exec_descriptorAccept_ident (x : StepRef) (k : Nat) : KeepsIdent s (exec (.descriptorAccept x k) s) := by
  show KeepsIdent s (execDescriptorAccept x k s)
  unfold execDescriptorAccept
  (repeat' split) <;> simp
theorem exec_chunkComplete_ident (x : StepRef) (layer head chunk : Nat) (residue : Bool) (bad : List (Nat × Bool)) :
    KeepsIdent s (exec (.chunkComplete x layer head chunk residue bad) s) := by
  show KeepsIdent s (execChunkComplete x layer head chunk residue bad s)
  unfold execChunkComplete
  rw [keepsIdent_next]
  split
  · rfl
  · extract_lets +onlyGivenNames mine ds inTurn
    refine State.ite_ident rfl ?_
    extract_lets +onlyGivenNames bytes s₁
    rw [← show s₁.ident = s.ident from State.forEach_ident fun _ _ => State.cluCount_ident ..]
    clear_value s₁
    extract_lets +onlyGivenNames first clu
    refine State.ite_ident (by simp) ?_
    extract_lets +onlyGivenNames pg s₂
    rw [← show s₂.ident = s₁.ident from State.forEach_ident fun _ _ => State.forEach_ident fun _ _ => State.updGroup_ident ..]
    clear_value s₂
    split
    · rfl
    · extract_lets +onlyGivenNames halves fails parts res s₃ s₄ s₅
      rw [← show s₅.ident = s₂.ident by simp [s₅, s₄, s₃]]
      clear_value s₅
      refine State.ite_ident ?_ rfl
      split
      · exact (State.fetchLayers_ident ..).trans
          (State.ite_ident rfl (State.forEach_ident fun _ _ => State.deliverTile_ident ..))
      · rfl
theorem exec_layerMerged_ident (m : BitVec 16) (batch layer : Nat) : KeepsIdent s (exec (.layerMerged p m batch layer) s) := by
  show KeepsIdent s (execLayerMerged p m batch layer s)
  unfold execLayerMerged
  split <;> simp [apply_ite Prod.fst, apply_ite State.ident]
theorem exec_stepResume_ident (x : StepRef) : KeepsIdent s (exec (.stepResume x) s) := by
  show KeepsIdent s (execStepResume x s)
  unfold execStepResume
  (repeat' split) <;> simp
theorem exec_etRelease_ident (x : StepRef) : KeepsIdent s (exec (.etRelease x) s) := by
  show KeepsIdent s (execEtRelease x s)
  simp [execEtRelease, apply_ite State.ident]
theorem exec_msgTimeout_ident (x : StepRef) : KeepsIdent s (exec (.msgTimeout x) s) := by
  show KeepsIdent s (execMsgTimeout x s)
  unfold execMsgTimeout
  split <;> simp [apply_ite State.ident]
theorem exec_stepCycleLimit_ident (x : StepRef) : KeepsIdent s (exec (.stepCycleLimit x) s) := by
  show KeepsIdent s (execStepCycleLimit x s)
  simp [execStepCycleLimit, apply_ite State.ident]
end

/-! ### Ends of moves (04) -/

section
variable (s : State) (p : Part)

theorem exec_movePiece_ident (path : Path) : KeepsIdent s (exec (.movePiece path) s) := by
  show KeepsIdent s (execMovePiece path s)
  unfold execMovePiece
  dsimp only
  split <;> simp [apply_ite State.ident]
theorem exec_promotionDone_ident (g : Nat) (good : Bool) : KeepsIdent s (exec (.promotionDone p g good) s) := by
  show KeepsIdent s (execPromotionDone p g good s)
  unfold execPromotionDone
  split <;> simp [apply_ite State.ident]
theorem exec_relocationDone_ident (g : Nat) : KeepsIdent s (exec (.relocationDone p g) s) := by
  show KeepsIdent s (execRelocationDone p g s)
  unfold execRelocationDone
  split <;> simp [apply_ite State.ident]
theorem exec_frameReserved_ident : KeepsIdent s (exec (.frameReserved p) s) := by
  show KeepsIdent s (execFrameReserved p s)
  unfold execFrameReserved
  split <;> simp [apply_ite State.ident]
theorem exec_winnowSweep_ident (tier : Tier) : KeepsIdent s (exec (.winnowSweep p tier) s) := by
  show KeepsIdent s (execWinnowSweep p tier s)
  unfold execWinnowSweep
  split <;> simp [apply_ite State.ident, State.forEach_ident]
theorem exec_indexRebuild_ident (bucket : Nat) : KeepsIdent s (exec (.indexRebuild p bucket) s) := by
  show KeepsIdent s (execIndexRebuild p bucket s)
  simp [execIndexRebuild, apply_ite State.ident]
theorem exec_camScrub_ident (q : Quad) : KeepsIdent s (exec (.camScrub q) s) := by
  show KeepsIdent s (execCamScrub q s)
  unfold execCamScrub
  dsimp only
  split <;> simp [apply_ite State.ident]
end

/-! ### The region group (16 R397) -/

section
variable (s : State) (p : Part)

theorem exec_rgcreate_ident (x : StepRef) (r : Bool) (h : HReg) (a : GReg) :
    KeepsIdent s (exec (.rgcreate x r h a) s) := State.issue_ident fun _ => by dsimp only; (repeat' split) <;> simp
theorem exec_rgfree_ident (x : StepRef) (r : Bool) (h : HReg) : KeepsIdent s (exec (.rgfree x r h) s) :=
  State.issue_ident fun _ => Iss.with_ident (by split <;> simp [apply_ite Prod.fst, apply_ite State.ident])
theorem exec_rgreg_ident (x : StepRef) (r : Bool) (h : HReg) (a : GReg) : KeepsIdent s (exec (.rgreg x r h a) s) :=
  State.issue_ident fun _ => Iss.with_ident (by split <;> simp [apply_ite Prod.fst, apply_ite State.ident])
theorem exec_rgrevoke_ident (x : StepRef) (r : Bool) (h : HReg) : KeepsIdent s (exec (.rgrevoke x r h) s) :=
  State.issue_ident fun _ => Iss.with_ident (by simp [apply_ite Prod.fst, apply_ite State.ident])
theorem exec_rsync_ident (x : StepRef) (r : Bool) (h : HReg) (a b : GReg) (validate : Bool) :
    KeepsIdent s (exec (.rsync x r h a b validate) s) :=
  State.issue_ident fun _ => Iss.with_ident (by split <;> simp [apply_ite Prod.fst, apply_ite State.ident])
theorem exec_rgdiscard_ident (x : StepRef) (r : Bool) (h : HReg) (a b : GReg) : KeepsIdent s (exec (.rgdiscard x r h a b) s) :=
  State.issue_ident fun _ => Iss.with_ident (by split <;> simp [apply_ite Prod.fst, apply_ite State.ident])
theorem exec_rgpublish_ident (x : StepRef) (r : Bool) (h : HReg) (a b : GReg) : KeepsIdent s (exec (.rgpublish x r h a b) s) :=
  State.issue_ident fun _ => Iss.with_ident (by split <;> simp [apply_ite Prod.fst, apply_ite State.ident])
theorem exec_rgbind_ident (x : StepRef) (r : Bool) (h : HReg) (a : GReg) :
    KeepsIdent s (exec (.rgbind x r h a) s) := State.issue_ident fun _ => by dsimp only; (repeat' split) <;> simp
theorem exec_varset_ident (x : StepRef) (r : Bool) (a b : GReg) :
    KeepsIdent s (exec (.varset x r a b) s) := State.issue_ident fun _ => by simp [apply_ite Prod.fst, apply_ite State.ident]
theorem exec_qpcreate_ident (x : StepRef) (r : Bool) (a b : GReg) : KeepsIdent s (exec (.qpcreate x r a b) s) :=
  State.issue_ident fun _ => by (repeat' split) <;> simp [apply_ite Prod.fst, apply_ite State.ident]
theorem exec_qpconnect_ident (x : StepRef) (r : Bool) (a : GReg) :
    KeepsIdent s (exec (.qpconnect x r a) s) := State.issue_ident fun _ => by simp [apply_ite Prod.fst, apply_ite State.ident]
theorem exec_qpdisc_ident (x : StepRef) (r : Bool) (a : GReg) :
    KeepsIdent s (exec (.qpdisc x r a) s) := State.issue_ident fun _ => by simp [apply_ite Prod.fst, apply_ite State.ident]
theorem exec_qpdestroy_ident (x : StepRef) (r : Bool) (a : GReg) :
    KeepsIdent s (exec (.qpdestroy x r a) s) := State.issue_ident fun _ => by simp [apply_ite Prod.fst, apply_ite State.ident]
theorem exec_qppost_ident (x : StepRef) (r : Bool) (a b : GReg) (now : Bool) :
    KeepsIdent s (exec (.qppost x r a b now) s) := State.issue_ident fun _ => by dsimp only; (repeat' split) <;> simp
theorem exec_charmArm_ident (x : StepRef) (r : Bool) (a b : GReg) :
    KeepsIdent s (exec (.charmArm x r a b) s) := State.issue_ident fun _ => by dsimp only; (repeat' split) <;> simp
theorem exec_charmDisarm_ident (x : StepRef) (r : Bool) (a b : GReg) :
    KeepsIdent s (exec (.charmDisarm x r a b) s) := State.issue_ident fun _ => by simp [apply_ite Prod.fst, apply_ite State.ident]
theorem exec_qpnote_ident (x : StepRef) (r : Bool) (a b : GReg) (wait : Bool) :
    KeepsIdent s (exec (.qpnote x r a b wait) s) := State.issue_ident fun _ => by dsimp only; (repeat' split) <;> simp
end

/-! ### Migrations (09) -/

section
variable (s : State) (p : Part)

theorem exec_migStreamRecord_ident (rec : MigStreamRec) : KeepsIdent s (exec (.migStreamRecord p rec) s) := by
  show KeepsIdent s (execMigStreamRecord p rec s)
  unfold execMigStreamRecord
  rw [keepsIdent_next]
  split
  · rfl
  · refine State.ite_ident rfl ?_
    extract_lets g' s₁
    refine State.ite_ident rfl ?_
    split
    · simp [s₁]
    · rename_i he
      simpa [s₁] using State.importSession_ident he
theorem exec_migImportDurable_ident (migId : Word) : KeepsIdent s (exec (.migImportDurable p migId) s) := by
  show KeepsIdent s (execMigImportDurable p migId s)
  unfold execMigImportDurable
  split <;> simp [apply_ite State.ident]
theorem exec_migConfirm_ident (qp : Nat) (msg : Msg) : KeepsIdent s (exec (.migConfirm p qp msg) s) := State.migConfirmMsg_ident ..
theorem exec_migRelease_ident (qp : Nat) (msg : Msg) : KeepsIdent s (exec (.migRelease p qp msg) s) := State.migReleaseMsg_ident ..
theorem exec_migCancel_ident (qp : Nat) (msg : Msg) : KeepsIdent s (exec (.migCancel p qp msg) s) := State.migCancelMsg_ident ..
theorem exec_migQuery_ident (qp : Nat) (msg : Msg) : KeepsIdent s (exec (.migQuery p qp msg) s) := State.migQueryMsg_ident ..
theorem exec_migAnswer_ident (qp : Nat) (msg : Msg) : KeepsIdent s (exec (.migAnswer p qp msg) s) := State.migAnswerMsg_ident ..
theorem exec_migTimeout_ident (migId : Word) : KeepsIdent s (exec (.migTimeout p migId) s) := by
  show KeepsIdent s (execMigTimeout p migId s)
  unfold execMigTimeout
  split <;> simp [apply_ite State.ident]
theorem exec_migQueryTimer_ident (migId : Word) : KeepsIdent s (exec (.migQueryTimer p migId) s) := by
  show KeepsIdent s (execMigQueryTimer p migId s)
  unfold execMigQueryTimer
  split <;> simp [apply_ite State.ident]
end

/-! ### Aborts and releases (02) -/

section
variable (s : State) (p : Part)

theorem exec_abort_ident (q : Qn) (cid : BitVec 16) :
    KeepsIdent s (exec (.abort p q cid) s) := State.startCmd_ident fun _ _ _ => by split <;> simp [apply_ite State.ident]
end

/-! ### Attention messages (06) -/

section
variable (s : State) (p : Part)

theorem exec_hgReadyTimeout_ident (m : BitVec 16) (batch : Nat) : KeepsIdent s (exec (.hgReadyTimeout p m batch) s) := by
  show KeepsIdent s (execHgReadyTimeout p m batch s)
  unfold execHgReadyTimeout
  split <;> simp [apply_ite State.ident]
theorem exec_waveOpen_ident (qp : Nat) (msg : Msg) : KeepsIdent s (exec (.waveOpen p qp msg) s) := State.waveOpenMsg_ident ..
theorem exec_rowOpen_ident (qp : Nat) (msg : Msg) : KeepsIdent s (exec (.rowOpen p qp msg) s) := State.rowOpenMsg_ident ..
theorem exec_attend_ident (qp : Nat) (msg : Msg) : KeepsIdent s (exec (.attend p qp msg) s) := State.attendMsg_ident ..
theorem exec_store_ident (qp : Nat) (msg : Msg) : KeepsIdent s (exec (.store p qp msg) s) := State.attendMsg_ident ..
theorem exec_prefillRow_ident (qp : Nat) (msg : Msg) : KeepsIdent s (exec (.prefillRow p qp msg) s) := State.prefillMsg_ident ..
theorem exec_logits_ident (qp : Nat) (msg : Msg) : KeepsIdent s (exec (.logits p qp msg) s) := State.logitsMsg_ident ..
theorem exec_fetch_ident (qp : Nat) (msg : Msg) : KeepsIdent s (exec (.fetch p qp msg) s) := State.fetchMsg_ident ..
theorem exec_hgReady_ident (qp : Nat) (msg : Msg) : KeepsIdent s (exec (.hgReady p qp msg) s) := State.hgReadyMsg_ident ..
theorem exec_hgCommit_ident (qp : Nat) (msg : Msg) : KeepsIdent s (exec (.hgCommit p qp msg) s) := State.hgCommitMsg_ident ..
theorem exec_hgSquash_ident (qp : Nat) (msg : Msg) : KeepsIdent s (exec (.hgSquash p qp msg) s) := State.hgSquashMsg_ident ..
theorem exec_hgDigest_ident (qp : Nat) (msg : Msg) : KeepsIdent s (exec (.hgDigest p qp msg) s) := State.hgDigestMsg_ident ..
theorem exec_hgDigestRes_ident (qp : Nat) (msg : Msg) : KeepsIdent s (exec (.hgDigestRes p qp msg) s) := State.hgDigestResMsg_ident ..
theorem exec_route_ident (qp : Nat) (msg : Msg) : KeepsIdent s (exec (.route p qp msg) s) := State.routeMsg_ident ..
end

/-! ### Packets (12) -/

section
variable (s : State) (p : Part)

theorem exec_send_ident (port : PortNo) (k : Pkt) : KeepsIdent s (exec (.send port k) s) := State.arrive_ident fun _ _ _ => rfl
theorem exec_write_ident (port : PortNo) (k : Pkt) : KeepsIdent s (exec (.write port k) s) := State.arrive_ident fun _ _ _ => rfl
theorem exec_readReq_ident (port : PortNo) (k : Pkt) : KeepsIdent s (exec (.readReq port k) s) := State.arrive_ident fun _ _ _ => rfl
theorem exec_disconnect_ident (port : PortNo) (k : Pkt) :
    KeepsIdent s (exec (.disconnect port k) s) := State.arrive_ident fun _ _ _ => rfl
theorem exec_connectReq_ident (port : PortNo) (k : Pkt) :
    KeepsIdent s (exec (.connectReq port k) s) := State.arrive_ident fun _ _ _ => rfl
theorem exec_malformedFrame_ident (port : PortNo) (why : BadFrame) : KeepsIdent s (exec (.malformedFrame port why) s) := by
  show KeepsIdent s (execMalformedFrame port why s)
  unfold execMalformedFrame
  (repeat' split) <;> simp
theorem exec_ackTimer_ident (n : Nat) : KeepsIdent s (exec (.ackTimer p n) s) := by
  show KeepsIdent s (execAckTimer p n s)
  simp [execAckTimer, apply_ite State.ident]
theorem exec_stalledPacketsRelease_ident (n : Nat) : KeepsIdent s (exec (.stalledPacketsRelease p n) s) := by
  show KeepsIdent s (execStalledPacketsRelease p n s)
  unfold execStalledPacketsRelease
  split <;> simp [apply_ite State.ident, State.forEach_ident]
theorem exec_stallTimeout_ident (n : Nat) : KeepsIdent s (exec (.stallTimeout p n) s) := by
  show KeepsIdent s (execStallTimeout p n s)
  unfold execStallTimeout
  split <;> simp [apply_ite State.ident, State.forEach_ident]
end

/-! ### The requester (12) -/

section
variable (s : State) (p : Part)

theorem exec_ack_ident (port : PortNo) (k : Pkt) : KeepsIdent s (exec (.ack port k) s) := State.arrive_ident fun _ _ _ => by simp
theorem exec_nak_ident (port : PortNo) (k : Pkt) : KeepsIdent s (exec (.nak port k) s) := State.arrive_ident fun _ _ _ => by simp
theorem exec_readResp_ident (port : PortNo) (k : Pkt) :
    KeepsIdent s (exec (.readResp port k) s) := State.arrive_ident fun _ _ _ => by simp
theorem exec_connectRep_ident (port : PortNo) (k : Pkt) :
    KeepsIdent s (exec (.connectRep port k) s) := State.arrive_ident fun _ _ _ => by simp
theorem exec_rtoExpiry_ident (n : Nat) : KeepsIdent s (exec (.rtoExpiry p n) s) := by
  show KeepsIdent s (execRtoExpiry p n s)
  unfold execRtoExpiry
  (repeat' split) <;> simp [apply_ite State.ident]
theorem exec_pauseExpiry_ident (n : Nat) : KeepsIdent s (exec (.pauseExpiry p n) s) := by
  show KeepsIdent s (execPauseExpiry p n s)
  unfold execPauseExpiry
  split <;> simp [State.forEach_ident]
theorem exec_connectRetry_ident (n : Nat) : KeepsIdent s (exec (.connectRetry p n) s) := by
  show KeepsIdent s (execConnectRetry p n s)
  unfold execConnectRetry
  split <;> simp [apply_ite State.ident]
theorem exec_drainTimeout_ident (n : Nat) : KeepsIdent s (exec (.drainTimeout p n) s) := by
  show KeepsIdent s (execDrainTimeout p n s)
  simp [execDrainTimeout, apply_ite State.ident]
theorem exec_revokeDrained_ident (i : Nat) : KeepsIdent s (exec (.revokeDrained p i) s) := by
  show KeepsIdent s (execRevokeDrained p i s)
  unfold execRevokeDrained
  dsimp only
  (repeat' split) <;> simp
end

/-! ### Ports (12) -/

section
variable (s : State) (p : Part)

theorem exec_egressFrameStart_ident (port : PortNo) (time : Nat) : KeepsIdent s (exec (.egressFrameStart port time) s) := by
  show KeepsIdent s (execEgressFrameStart port time s)
  unfold execEgressFrameStart
  dsimp only
  (repeat' split) <;> simp [State.forEach_ident]
theorem exec_bucketRefill_ident (port : PortNo) (time : Nat) : KeepsIdent s (exec (.bucketRefill port time) s) := rfl
theorem exec_replyBucketRefill_ident (port : PortNo) (replies : Nat) : KeepsIdent s (exec (.replyBucketRefill port replies) s) := rfl
theorem exec_gclGo_ident (port : PortNo) (time : Nat) : KeepsIdent s (exec (.gclGo port time) s) := State.gclGo_ident ..
theorem exec_gclChangeTime_ident (port : PortNo) : KeepsIdent s (exec (.gclChangeTime port) s) := rfl
theorem exec_gclEntryAdvance_ident (port : PortNo) : KeepsIdent s (exec (.gclEntryAdvance port) s) := by
  show KeepsIdent s (execGclEntryAdvance port s)
  simp [execGclEntryAdvance, apply_ite State.ident]
theorem exec_portLinkChange_ident (port : PortNo) (up : Bool) : KeepsIdent s (exec (.portLinkChange port up) s) := by
  show KeepsIdent s (execPortLinkChange port up s)
  simp [execPortLinkChange, apply_ite State.ident]
theorem exec_spreadCheck_ident (ppm : Nat) : KeepsIdent s (exec (.spreadCheck ppm) s) := by
  show KeepsIdent s (execSpreadCheck ppm s)
  simp [execSpreadCheck, apply_ite State.ident]
theorem exec_spreadCleared_ident : KeepsIdent s (exec .spreadCleared s) := rfl
theorem exec_rxPauseFrame_ident (port : PortNo) : KeepsIdent s (exec (.rxPauseFrame port) s) := by
  show KeepsIdent s (execRxPauseFrame port s)
  simp [execRxPauseFrame, apply_ite State.ident]
theorem exec_ptpMessage_ident (port : PortNo) (domain : BitVec 8) (sync : Bool) (offset time : Nat) :
    KeepsIdent s (exec (.ptpMessage port domain sync offset time) s) := by
  show KeepsIdent s (execPtpMessage port domain sync offset time s)
  rw [execPtpMessage, keepsIdent_next]
  refine State.ite_ident rfl ?_
  cases hp : (s.portCount port.val pRxFrames).devPolice port.val minFrame with
  | none => exact State.portCount_ident ..
  | some u =>
    have hu : u.ident = s.ident := (State.devPolice_ident hp).trans (State.portCount_ident ..)
    simp [hu, apply_ite State.ident]
theorem exec_ptpHoldover_ident (port : PortNo) : KeepsIdent s (exec (.ptpHoldover port) s) := by
  show KeepsIdent s (execPtpHoldover port s)
  simp [execPtpHoldover, apply_ite State.ident]
theorem exec_arpNdLldpFrame_ident (port : PortNo) (asks : Option (BitVec 128)) : KeepsIdent s (exec (.arpNdLldpFrame port asks) s) := by
  show KeepsIdent s (execArpNdLldpFrame port asks s)
  rw [execArpNdLldpFrame, keepsIdent_next]
  refine State.ite_ident rfl ?_
  cases hp : (s.portCount port.val pRxFrames).devPolice port.val minFrame with
  | none => exact State.portCount_ident ..
  | some u =>
    have hu : u.ident = s.ident := (State.devPolice_ident hp).trans (State.portCount_ident ..)
    cases asks <;> simp [hu, apply_ite State.ident]
end

/-! ### Flash (10) -/

section
variable (s : State) (p : Part)

theorem exec_flashReadDone_ident (unit : Nat) (res : PieceRead) : KeepsIdent s (exec (.flashReadDone p unit res) s) := by
  show KeepsIdent s (execFlashReadDone p unit res s)
  unfold execFlashReadDone
  dsimp only
  (repeat' split) <;> simp
theorem exec_superblockClose_ident (sb : Nat) : KeepsIdent s (exec (.superblockClose sb) s) := rfl
theorem exec_superblockVerify_ident (sb : Nat) (bad : List (Nat × Bool)) : KeepsIdent s (exec (.superblockVerify sb bad) s) := by
  show KeepsIdent s (execSuperblockVerify sb bad s)
  unfold execSuperblockVerify
  split <;> simp [apply_ite State.ident]
theorem exec_flashProgramFail_ident (sb col : Nat) : KeepsIdent s (exec (.flashProgramFail sb col) s) := by
  show KeepsIdent s (execFlashProgramFail sb col s)
  unfold execFlashProgramFail
  split <;> simp [apply_ite State.ident]
theorem exec_flashPatrol_ident (sb : Nat) (overHalf : Bool) : KeepsIdent s (exec (.flashPatrol sb overHalf) s) := by
  show KeepsIdent s (execFlashPatrol sb overHalf s)
  unfold execFlashPatrol
  split <;> simp [apply_ite State.ident]
theorem exec_gleanStart_ident (ch : Fin 32) : KeepsIdent s (exec (.gleanStart ch) s) := by
  show KeepsIdent s (execGleanStart ch s)
  simp [execGleanStart, apply_ite State.ident]
theorem exec_gleanCopyDone_ident (sb : Nat) : KeepsIdent s (exec (.gleanCopyDone sb) s) := by
  show KeepsIdent s (execGleanCopyDone sb s)
  unfold execGleanCopyDone
  split <;> simp [apply_ite State.ident]
theorem exec_gleanVerifyDone_ident (sb : Nat) (bad : List (Nat × Nat × Bool)) : KeepsIdent s (exec (.gleanVerifyDone sb bad) s) := by
  show KeepsIdent s (execGleanVerifyDone sb bad s)
  unfold execGleanVerifyDone
  split <;> simp [apply_ite State.ident]
theorem exec_gleanCommit_ident (sb : Nat) : KeepsIdent s (exec (.gleanCommit sb) s) := by
  show KeepsIdent s (execGleanCommit sb s)
  unfold execGleanCommit
  split <;> simp [apply_ite State.ident]
theorem exec_gleanEraseDone_ident (sb : Nat) (bad : List Nat) : KeepsIdent s (exec (.gleanEraseDone sb bad) s) := by
  show KeepsIdent s (execGleanEraseDone sb bad s)
  unfold execGleanEraseDone
  split <;> simp [apply_ite State.ident]
end

/-! ### Carriers (10) -/

section
variable (s : State) (p : Part)

theorem exec_carrierPresent_ident (k : Slot) (level : Bool) :
    KeepsIdent s (exec (.carrierPresent k level) s) := State.wakeDevice_ident ..
theorem exec_carrierPresentDebounced_ident (k : Slot) : KeepsIdent s (exec (.carrierPresentDebounced k) s) := by
  show KeepsIdent s (execCarrierPresentDebounced k s)
  simp [execCarrierPresentDebounced, apply_ite State.ident]
theorem exec_carrierPgood_ident (k : Slot) (level : Bool) : KeepsIdent s (exec (.carrierPgood k level) s) := by
  show KeepsIdent s (execCarrierPgood k level s)
  simp [execCarrierPgood, apply_ite State.ident]
theorem exec_carrierPgoodTimeout_ident (k : Slot) : KeepsIdent s (exec (.carrierPgoodTimeout k) s) := by
  show KeepsIdent s (execCarrierPgoodTimeout k s)
  simp [execCarrierPgoodTimeout, apply_ite State.ident]
theorem exec_carrierResetRelease_ident (k : Slot) : KeepsIdent s (exec (.carrierResetRelease k) s) := by
  show KeepsIdent s (execCarrierResetRelease k s)
  simp [execCarrierResetRelease, apply_ite State.ident]
theorem exec_carrierQualifyDone_ident (k : Slot) (res : Qualify) : KeepsIdent s (exec (.carrierQualifyDone k res) s) := by
  show KeepsIdent s (execCarrierQualifyDone k res s)
  unfold execCarrierQualifyDone
  (repeat' split) <;> simp [apply_ite State.ident]
theorem exec_carrierQualifyTimeout_ident (k : Slot) : KeepsIdent s (exec (.carrierQualifyTimeout k) s) := by
  show KeepsIdent s (execCarrierQualifyTimeout k s)
  simp [execCarrierQualifyTimeout, apply_ite State.ident]
theorem exec_carrierAttention_ident (k : Slot) : KeepsIdent s (exec (.carrierAttention k) s) := by
  show KeepsIdent s (execCarrierAttention k s)
  unfold execCarrierAttention
  dsimp only
  split <;> simp [apply_ite State.ident]
theorem exec_carrierDetach_ident (k : Slot) : KeepsIdent s (exec (.carrierDetach k) s) := by
  show KeepsIdent s (execCarrierDetach k s)
  simp [execCarrierDetach, apply_ite State.ident]
theorem exec_cleanDetachDurable_ident (k : Slot) : KeepsIdent s (exec (.cleanDetachDurable k) s) := by
  show KeepsIdent s (execCleanDetachDurable k s)
  simp [execCleanDetachDurable, apply_ite State.ident]
theorem exec_eraseForeignCarrier_ident (k : Slot) : KeepsIdent s (exec (.eraseForeignCarrier k) s) := State.withPresence_ident fun _ =>
    State.ite_ident ((State.answer_ident ..).trans (State.blankJoin_ident ..)) (State.answer_ident ..)
end

/-! ### Journals and recovery (13) -/

section
variable (s : State) (p : Part)

theorem exec_demotionDone_ident (g : Nat) (good : Bool) : KeepsIdent s (exec (.demotionDone p g good) s) := by
  show KeepsIdent s (execDemotionDone p g good s)
  simp [execDemotionDone]
theorem exec_commitApply_ident (x : StepRef) : KeepsIdent s (exec (.commitApply x) s) := by
  show KeepsIdent s (execCommitApply x s)
  simp [execCommitApply]
theorem exec_commitRelease_ident (x : StepRef) : KeepsIdent s (exec (.commitRelease x) s) := by
  show KeepsIdent s (execCommitRelease x s)
  simp [execCommitRelease]
theorem exec_journalPageTimeout_ident (j : LogId) : KeepsIdent s (exec (.journalPageTimeout j) s) := rfl
theorem exec_journalPageProgrammed_ident (j : LogId) : KeepsIdent s (exec (.journalPageProgrammed j) s) := by
  show KeepsIdent s (execJournalPageProgrammed j s)
  unfold execJournalPageProgrammed
  split <;> simp
theorem exec_journalCheckpoint_ident (j : LogId) : KeepsIdent s (exec (.journalCheckpoint j) s) := by
  show KeepsIdent s (execJournalCheckpoint j s)
  unfold execJournalCheckpoint
  split <;> simp [apply_ite State.ident]
theorem exec_ptFence_ident (val : BitVec 32) : KeepsIdent s (exec (.ptFence p val) s) := by
  show KeepsIdent s (execPtFence p val s)
  simp [execPtFence, apply_ite State.ident]
theorem exec_unfence_ident (mask : BitVec 16) : KeepsIdent s (exec (.unfence mask) s) := by
  show KeepsIdent s (execUnfence mask s)
  simp [execUnfence, State.forEach_ident]
theorem exec_flr_ident : KeepsIdent s (exec (.flr p) s) := by show KeepsIdent s (execFlr p s); simp [execFlr]
theorem exec_cxlReset_ident : KeepsIdent s (exec (.cxlReset p) s) := by show KeepsIdent s (execCxlReset p s); simp [execCxlReset]
theorem exec_ldEnable_ident (mem master : Bool) : KeepsIdent s (exec (.ldEnable p mem master) s) := by
  show KeepsIdent s (execLdEnable p mem master s)
  unfold execLdEnable
  dsimp only
  split <;> simp [apply_ite State.ident]
end

/-! ### Doorbells and event logs (18) -/

section
variable (s : State) (p : Part)

theorem exec_sqDoorbell_ident (q : Qn) (val : BitVec 32) : KeepsIdent s (exec (.sqDoorbell p q val) s) := by
  show KeepsIdent s (execSqDoorbell p q val s)
  simp [execSqDoorbell]
theorem exec_cqDoorbell_ident (q : Qn) (val : BitVec 32) : KeepsIdent s (exec (.cqDoorbell p q val) s) := by
  show KeepsIdent s (execCqDoorbell p q val s)
  simp [execCqDoorbell]
theorem exec_evCtlWrite_ident (log : LogId) (val : BitVec 32) : KeepsIdent s (exec (.evCtlWrite log val) s) := by
  show KeepsIdent s (execEvCtlWrite log val s)
  simp [execEvCtlWrite]
theorem exec_evHeadWrite_ident (log : LogId) (val : BitVec 32) : KeepsIdent s (exec (.evHeadWrite log val) s) := by
  show KeepsIdent s (execEvHeadWrite log val s)
  simp [execEvHeadWrite]
theorem exec_t1hRangeAppend_ident (idx : Fin 256) (base rng : Word) :
    KeepsIdent s (exec (.t1hRangeAppend p idx base rng) s) := State.wakeDevice_ident ..
end

/-! ### Power (14) -/

section
variable (s : State) (p : Part)

theorem exec_busRise_ident : KeepsIdent s (exec .busRise s) := by
  show KeepsIdent s (execBusRise s)
  simp [execBusRise, apply_ite State.ident]
theorem exec_coldRecovery_ident :
    KeepsIdent s (exec .coldRecovery s) := State.ite_ident ((State.updPower_ident ..).trans (State.coldRecover_ident ..)) rfl
theorem exec_configReady_ident (failed : BitVec 64) : KeepsIdent s (exec (.configReady failed) s) := by
  show KeepsIdent s (execConfigReady failed s)
  simp [execConfigReady, apply_ite State.ident]
theorem exec_serviceReady_ident : KeepsIdent s (exec .serviceReady s) := by
  show KeepsIdent s (execServiceReady s)
  simp [execServiceReady, apply_ite State.ident]
theorem exec_dormantGo_ident : KeepsIdent s (exec .dormantGo s) := by show KeepsIdent s (execDormantGo s); simp [execDormantGo]
theorem exec_dormantEnter_ident : KeepsIdent s (exec .dormantEnter s) := by
  show KeepsIdent s (execDormantEnter s)
  simp [execDormantEnter, apply_ite State.ident]
theorem exec_dormantAbandonTimeout_ident : KeepsIdent s (exec .dormantAbandonTimeout s) := by
  show KeepsIdent s (execDormantAbandonTimeout s)
  simp [execDormantAbandonTimeout, apply_ite State.ident]
theorem exec_dormantOkWrite_ident (val : BitVec 32) : KeepsIdent s (exec (.dormantOkWrite p val) s) := State.wakeDevice_ident ..
theorem exec_wakeCounter_ident (k : Fin 8) : KeepsIdent s (exec (.wakeCounter k) s) := by
  show KeepsIdent s (execWakeCounter k s)
  simp [execWakeCounter, apply_ite State.ident]
theorem exec_hostWake_ident : KeepsIdent s (exec .hostWake s) := by
  show KeepsIdent s (execHostWake s)
  simp [execHostWake, apply_ite State.ident]
theorem exec_boardAlert_ident : KeepsIdent s (exec .boardAlert s) := rfl
theorem exec_pllQualified_ident (k : Pll) : KeepsIdent s (exec (.pllQualified k) s) := by
  show KeepsIdent s (execPllQualified k s)
  simp [execPllQualified, apply_ite State.ident]
theorem exec_refclkLoss_ident : KeepsIdent s (exec .refclkLoss s) := by
  show KeepsIdent s (execRefclkLoss s)
  unfold execRefclkLoss
  dsimp only
  split <;> simp
theorem exec_auxclkCtlWrite_ident (k : Fin 4) (val : BitVec 32) :
    KeepsIdent s (exec (.auxclkCtlWrite k val) s) := State.wakeDevice_ident ..
theorem exec_powerSample_ident (p1ms p1s busMv : Nat) (tDie : BitVec 16) (tStack : List (BitVec 16)) :
    KeepsIdent s (exec (.powerSample p1ms p1s busMv tDie tStack) s) := rfl
theorem exec_thermalThrottle_ident : KeepsIdent s (exec .thermalThrottle s) := rfl
theorem exec_thermalRecover_ident : KeepsIdent s (exec .thermalRecover s) := rfl
theorem exec_boundaryScanInstruction_ident (drivesPins : Bool) : KeepsIdent s (exec (.boundaryScanInstruction drivesPins) s) := by
  show KeepsIdent s (execBoundaryScanInstruction drivesPins s)
  simp [execBoundaryScanInstruction, apply_ite State.ident]
end

/-! ### CXL (11) -/

section
variable (s : State) (p : Part)

theorem exec_configRequest_ident (ld : Requester) : KeepsIdent s (exec (.configRequest ld) s) := by
  show KeepsIdent s (execConfigRequest ld s)
  simp [execConfigRequest, apply_ite State.ident]
theorem exec_fmBind_ident (vppb : Nat) : KeepsIdent s (exec (.fmBind p vppb) s) := by
  show KeepsIdent s (execFmBind p vppb s)
  unfold execFmBind
  dsimp only
  split <;> simp [apply_ite State.ident]
theorem exec_hdmDecoderCommit_ident : KeepsIdent s (exec (.hdmDecoderCommit p) s) := State.wakeDevice_ident ..
theorem exec_cxlMemRead_ident (dpa : Nat) : KeepsIdent s (exec (.cxlMemRead p dpa) s) := by
  show KeepsIdent s (execCxlMemRead p dpa s)
  unfold execCxlMemRead
  dsimp only
  (repeat' split) <;> simp
theorem exec_cxlMemWrite_ident (dpa : Nat) (data : List Byte) : KeepsIdent s (exec (.cxlMemWrite p dpa data) s) := by
  show KeepsIdent s (execCxlMemWrite p dpa data s)
  unfold execCxlMemWrite
  dsimp only
  (repeat' split) <;> simp
theorem exec_initiateDcAdd_ident (dpa blocks : Nat) (tag : BitVec 128) : KeepsIdent s (exec (.initiateDcAdd p dpa blocks tag) s) := by
  show KeepsIdent s (execInitiateDcAdd p dpa blocks tag s)
  unfold execInitiateDcAdd
  dsimp only
  split <;> simp [apply_ite State.ident]
theorem exec_dcCapacityFreed_ident (dpa : Nat) : KeepsIdent s (exec (.dcCapacityFreed p dpa) s) := by
  show KeepsIdent s (execDcCapacityFreed p dpa s)
  unfold execDcCapacityFreed
  split <;> simp [apply_ite State.ident]
theorem exec_dcReserveTimeout_ident (dpa : Nat) : KeepsIdent s (exec (.dcReserveTimeout p dpa) s) := by
  show KeepsIdent s (execDcReserveTimeout p dpa s)
  simp [execDcReserveTimeout, apply_ite State.ident]
theorem exec_addDcResponse_ident (dpa : Nat) (accept : Bool) :
    KeepsIdent s (exec (.addDcResponse p dpa accept) s) := State.mailboxCmd_ident fun _ => by simp [apply_ite State.ident]
theorem exec_dcOfferTimeout_ident (dpa : Nat) : KeepsIdent s (exec (.dcOfferTimeout p dpa) s) := rfl
theorem exec_releaseDc_ident (ranges : List (Nat × Nat)) : KeepsIdent s (exec (.releaseDc p ranges) s) :=
  State.mailboxCmd_ident fun s => by
    split
    · exact State.mbox_ident ..
    · refine State.ite_ident (State.mbox_ident ..) (State.ite_ident (State.mbox_ident ..) ((State.mbox_ident ..).trans ?_))
      exact State.forEach_ident fun _ _ => (State.event_ident ..).trans (State.updExtent_ident ..)
theorem exec_initiateDcForcedRelease_ident (dpa : Nat) : KeepsIdent s (exec (.initiateDcForcedRelease p dpa) s) := by
  show KeepsIdent s (execInitiateDcForcedRelease p dpa s)
  unfold execInitiateDcForcedRelease
  extract_lets +onlyGivenNames s₁
  rw [keepsIdent_next, ← show s₁.ident = s.ident from State.wakeDevice_ident ..]
  clear_value s₁
  split
  · exact State.mbox_ident ..
  · extract_lets +onlyGivenNames rs s₂ up moved s₃ s₄
    rw [State.mbox_ident, State.settleFlash_ident, State.settleVersions_ident, State.statusEvent_ident]
    refine (State.forEach_ident fun _ _ => State.revokeRegion_ident ..).trans ?_
    simp [s₃, s₂]
theorem exec_extentDrained_ident (dpa : Nat) : KeepsIdent s (exec (.extentDrained p dpa) s) := by
  show KeepsIdent s (execExtentDrained p dpa s)
  unfold execExtentDrained
  split <;> rfl
theorem exec_identify_ident : KeepsIdent s (exec (.identify p) s) := State.wakeDevice_ident ..
theorem exec_injectPoison_ident (dpa : Nat) :
    KeepsIdent s (exec (.injectPoison p dpa) s) := State.mailboxCmd_ident fun _ => by simp [apply_ite State.ident]
theorem exec_clearPoison_ident (dpa : Nat) :
    KeepsIdent s (exec (.clearPoison p dpa) s) := State.mailboxCmd_ident fun _ => by simp [apply_ite State.ident]
theorem exec_getPoisonList_ident : KeepsIdent s (exec (.getPoisonList p) s) := State.mailboxCmd_ident fun _ => rfl
theorem exec_getFwInfo_ident : KeepsIdent s (exec (.getFwInfo p) s) := State.fwCmd_ident fun _ => rfl
theorem exec_cdatTableAccess_ident (who : Requester) : KeepsIdent s (exec (.cdatTableAccess who) s) := by
  show KeepsIdent s (execCdatTableAccess who s)
  unfold execCdatTableAccess
  split <;> simp [apply_ite State.ident]
theorem exec_t1hAccessFailure_ident (range : Fin 256) (use : T1hUse) (isWrite : Bool) :
    KeepsIdent s (exec (.t1hAccessFailure p range use isWrite) s) := by
  show KeepsIdent s (execT1hAccessFailure p range use isWrite s)
  unfold execT1hAccessFailure
  (repeat' split) <;> simp
theorem exec_ideStreamEstablish_ident (who : Requester) (st : IdeStream) (sessionSecured : Bool) :
    KeepsIdent s (exec (.ideStreamEstablish who st sessionSecured) s) := by
  show KeepsIdent s (execIdeStreamEstablish who st sessionSecured s)
  simp [execIdeStreamEstablish, apply_ite State.ident]
theorem exec_ideFailure_ident (st : IdeStream) : KeepsIdent s (exec (.ideFailure st) s) := by
  show KeepsIdent s (execIdeFailure st s)
  simp [execIdeFailure, apply_ite State.ident, State.forEach_ident]
end

/-! ### Identity and presence (15) -/

section
variable (s : State) (p : Part)

theorem exec_declareCrossDomain_ident (owner : Part) (members : BitVec 16) (equalTime : Bool) (etMax : Nat) :
    KeepsIdent s (exec (.declareCrossDomain owner members equalTime etMax) s) :=
  State.withPresence_ident fun _ => by split <;> simp [apply_ite State.ident]
theorem exec_withdrawCrossDomain_ident (dom : BitVec 16) :
    KeepsIdent s (exec (.withdrawCrossDomain dom) s) := State.withPresence_ident fun _ => by split <;> simp [apply_ite State.ident]
theorem exec_keyEnrolment_ident (wrapped : List Byte) :
    KeepsIdent s (exec (.keyEnrolment p wrapped) s) := State.withPresence_ident fun _ => by simp [apply_ite State.ident]
theorem exec_presencePress_ident : KeepsIdent s (exec .presencePress s) := by
  show KeepsIdent s (execPresencePress s)
  simp [execPresencePress, apply_ite State.ident]
theorem exec_presenceExpiry_ident : KeepsIdent s (exec .presenceExpiry s) := rfl
theorem exec_closePresenceWindow_ident : KeepsIdent s (exec .closePresenceWindow s) := State.wakeDevice_ident ..
theorem exec_sealBreak_ident : KeepsIdent s (exec .sealBreak s) := State.breakSeal_ident ..
theorem exec_sealBitCheck_ident (good : Bool) : KeepsIdent s (exec (.sealBitCheck good) s) := by
  show KeepsIdent s (execSealBitCheck good s)
  simp [execSealBitCheck, apply_ite State.ident]
theorem exec_clearBrokenSeal_ident : KeepsIdent s (exec .clearBrokenSeal s) := by
  show KeepsIdent s (execClearBrokenSeal s)
  simp [execClearBrokenSeal, apply_ite State.ident]
end

/-! ### Registers and the sideband (18) -/

section
variable (s : State) (p : Part)

theorem exec_mailboxGo_ident (map : RegMap) : KeepsIdent s (exec (.mailboxGo map) s) := by
  show KeepsIdent s (execMailboxGo map s)
  unfold execMailboxGo
  split <;> simp [apply_ite State.ident]
theorem exec_registerRead_ident (map : RegMap) (off size : Nat) : KeepsIdent s (exec (.registerRead map off size) s) := by
  show KeepsIdent s (execRegisterRead map off size s)
  unfold execRegisterRead
  (repeat' split) <;> simp
theorem exec_regRead_ident (off count : Nat) : KeepsIdent s (exec (.regRead off count) s) := by
  show KeepsIdent s (execRegRead off count s)
  simp [execRegRead, apply_ite State.ident]
theorem exec_mctpSetEndpointId_ident (eid : Byte) : KeepsIdent s (exec (.mctpSetEndpointId eid) s) := by
  show KeepsIdent s (execMctpSetEndpointId eid s)
  simp [execMctpSetEndpointId, apply_ite State.ident]
theorem exec_i3cAddressAssign_ident (dynamic : Option (BitVec 7)) : KeepsIdent s (exec (.i3cAddressAssign dynamic) s) := by
  show KeepsIdent s (execI3cAddressAssign dynamic s)
  simp [execI3cAddressAssign, apply_ite State.ident]
end

/-! ### Control flow (16 R371, R372) -/

section
variable (s : State) (p : Part)

theorem exec_br_ident (x : StepRef) (off : BitVec 40) : KeepsIdent s (exec (.br x off) s) := State.branch_ident ..
theorem exec_brt_ident (x : StepRef) (c : FReg) (off : BitVec 40) : KeepsIdent s (exec (.brt x c off) s) := State.branch_ident ..
theorem exec_brf_ident (x : StepRef) (c : FReg) (off : BitVec 40) : KeepsIdent s (exec (.brf x c off) s) := State.branch_ident ..
theorem exec_brz_ident (x : StepRef) (c : GReg) (off : BitVec 40) : KeepsIdent s (exec (.brz x c off) s) := State.branch_ident ..
theorem exec_brnz_ident (x : StepRef) (c : GReg) (off : BitVec 40) : KeepsIdent s (exec (.brnz x c off) s) := State.branch_ident ..
theorem exec_call_ident (x : StepRef) (c : GReg) (off : BitVec 40) :
    KeepsIdent s (exec (.call x c off) s) := State.issue_ident fun _ => rfl
theorem exec_jr_ident (x : StepRef) (d a : GReg) : KeepsIdent s (exec (.jr x d a) s) := State.issue_ident fun _ => rfl
theorem exec_ld_ident (x : StepRef) (d a : GReg) (imm : BitVec 32) : KeepsIdent s (exec (.ld x d a imm) s) := State.load_ident ..
theorem exec_ldw_ident (x : StepRef) (d a : GReg) (imm : BitVec 32) : KeepsIdent s (exec (.ldw x d a imm) s) := State.load_ident ..
theorem exec_ldh_ident (x : StepRef) (d a : GReg) (imm : BitVec 32) : KeepsIdent s (exec (.ldh x d a imm) s) := State.load_ident ..
theorem exec_ldb_ident (x : StepRef) (d a : GReg) (imm : BitVec 32) : KeepsIdent s (exec (.ldb x d a imm) s) := State.load_ident ..
theorem exec_st_ident (x : StepRef) (d a : GReg) (imm : BitVec 32) : KeepsIdent s (exec (.st x d a imm) s) := State.store_ident ..
theorem exec_stw_ident (x : StepRef) (d a : GReg) (imm : BitVec 32) : KeepsIdent s (exec (.stw x d a imm) s) := State.store_ident ..
theorem exec_sth_ident (x : StepRef) (d a : GReg) (imm : BitVec 32) : KeepsIdent s (exec (.sth x d a imm) s) := State.store_ident ..
theorem exec_stb_ident (x : StepRef) (d a : GReg) (imm : BitVec 32) : KeepsIdent s (exec (.stb x d a imm) s) := State.store_ident ..
theorem exec_ldf_ident (x : StepRef) (d : GReg) (imm : BitVec 32) :
    KeepsIdent s (exec (.ldf x d imm) s) := State.issue_ident fun _ => by simp [apply_ite Prod.fst]
theorem exec_stf_ident (x : StepRef) (d : GReg) (imm : BitVec 32) :
    KeepsIdent s (exec (.stf x d imm) s) := State.issue_ident fun _ => by simp [apply_ite Prod.fst, apply_ite State.ident]
end

/-! ### The handle group (16 R374) -/

section
variable (s : State) (p : Part)

theorem exec_hloads_ident (x : StepRef) (r : Bool) (d h : HReg) (imm : BitVec 32) : KeepsIdent s (exec (.hloads x r d h imm) s) :=
  State.issue_ident fun i => Iss.with_ident (by
    split
    · rfl
    · split
      · rfl
      · exact Iss.with_ident rfl)
theorem exec_hld_ident (x : StepRef) (r : Bool) (d : HReg) (a : GReg) (imm : BitVec 32) : KeepsIdent s (exec (.hld x r d a imm) s) :=
  State.issue_ident fun i => by
    dsimp only
    split
    · rfl
    · exact Iss.with_ident rfl
theorem exec_hst_ident (x : StepRef) (r : Bool) (d : HReg) (a : GReg) (imm : BitVec 32) :
    KeepsIdent s (exec (.hst x r d a imm) s) := State.issue_ident fun _ => by simp [apply_ite Prod.fst, apply_ite State.ident]
theorem exec_hmov_ident (x : StepRef) (r : Bool) (d h : HReg) : KeepsIdent s (exec (.hmov x r d h) s) := State.issue_ident fun _ => rfl
theorem exec_hget_ident (x : StepRef) (r : Bool) (d : GReg) (h : HReg) :
    KeepsIdent s (exec (.hget x r d h) s) := State.issue_ident fun _ => rfl
theorem exec_hmake_ident (x : StepRef) (r : Bool) (d : HReg) (a : GReg) (imm : BitVec 32) :
    KeepsIdent s (exec (.hmake x r d a imm) s) :=
  State.issue_ident fun i => by
    dsimp only
    split
    · rfl
    · exact Iss.with_ident rfl
theorem exec_hchk_ident (x : StepRef) (r : Bool) (d : FReg) (h : HReg) (imm : BitVec 32) :
    KeepsIdent s (exec (.hchk x r d h imm) s) := State.issue_ident fun _ => by simp [apply_ite Prod.fst]
theorem exec_hnull_ident (x : StepRef) (r : Bool) (d : HReg) : KeepsIdent s (exec (.hnull x r d) s) := State.issue_ident fun _ => rfl
theorem exec_heq_ident (x : StepRef) (r : Bool) (d : FReg) (a b : HReg) :
    KeepsIdent s (exec (.heq x r d a b) s) := State.issue_ident fun _ => rfl
end

/-! ### Patrols (13) -/

section
variable (s : State) (p : Part)

theorem exec_memoryPatrol_ident (f : Finding) : KeepsIdent s (exec (.memoryPatrol f) s) := by
  show KeepsIdent s (execMemoryPatrol f s)
  unfold execMemoryPatrol
  split <;> simp [apply_ite State.ident]
end

end Sys2Proof.Machine
end

section
/-! SUPPORT. The ranges of the signature indices (15 R354, R355): a step that writes the device's identity keeps them too, and with
the frame of the others every step does. -/

namespace Sys2Proof.Machine
open Sys2Proof.Cert

/-- What a step leaves has its signature indices in their ranges, when they were there before (15 R354, R355). -/
def KeepsRange (s : State) : Out → Prop
  | .next t => IndicesInRange s → IndicesInRange t
  | _ => True

section
variable {s t u : State}

theorem inRange_of_ident (h : t.ident = s.ident) (hs : IndicesInRange s) : IndicesInRange t := by
  rw [IndicesInRange, h]
  exact hs
theorem inRange_of_indices (hd : t.ident.dayUsed = s.ident.dayUsed) (hn : t.ident.xmssNext = s.ident.xmssNext)
    (hm : t.ident.xmssMigNext = s.ident.xmssMigNext) (hs : IndicesInRange s) : IndicesInRange t := by
  rw [IndicesInRange, hd, hn, hm]
  exact hs
theorem inRange_ite {c : Prop} [Decidable c] (ht : IndicesInRange t) (hu : IndicesInRange u) : IndicesInRange (if c then t else u) := by
  split
  · exact ht
  · exact hu
theorem State.inRange_forEach {β : Type} {l : List β} {f : State → β → State}
    (hf : ∀ s b, IndicesInRange s → IndicesInRange (f s b))
    (h : IndicesInRange s) : IndicesInRange (s.forEach l f) := State.forEach_inv IndicesInRange l f (fun s b hs => hf s b hs) s h
theorem KeepsIdent.range {o : Out} (h : KeepsIdent s o) : KeepsRange s o := by
  cases o with
  | next t => exact inRange_of_ident h
  | fault _ => trivial
  | refused _ => trivial

/-! ### Resets and the ways into and out of power -/

section
variable (h : IndicesInRange s)
include h
theorem State.inRange_loseDie (st : PwrSt) : IndicesInRange (s.loseDie st) := by
  unfold State.loseDie
  extract_lets s₁ s₂
  have hs : IndicesInRange s₂ := inRange_of_ident ((State.forEach_ident fun _ _ => State.settleSlot_ident ..).trans
    ((State.dropWork_ident ..).trans (State.stopJournals_ident _))) h
  clear_value s₂
  exact inRange_of_indices rfl rfl rfl hs
theorem State.inRange_boot : IndicesInRange s.boot := by
  unfold State.boot
  split <;> exact inRange_of_indices rfl rfl rfl h
theorem State.inRange_startUp : IndicesInRange s.startUp :=
  State.inRange_boot (s := s.updPower fun w => { w with st := .initialising, before := .initialising }) h
theorem State.inRange_tryStart : IndicesInRange s.tryStart := inRange_ite (State.inRange_startUp h) h
omit h in
theorem State.warm_indices (hu : s.stopJournals.warmRecover = u) : s.warm.ident.dayUsed = u.ident.dayUsed
    ∧ s.warm.ident.xmssNext = u.ident.xmssNext ∧ s.warm.ident.xmssMigNext = u.ident.xmssMigNext := by
  rw [State.warm, hu]
  exact ⟨rfl, rfl, rfl⟩
theorem State.inRange_warm : IndicesInRange s.warm := by
  obtain ⟨hd, hn, hm⟩ := State.warm_indices (s := s) rfl
  have hi : s.stopJournals.warmRecover.ident = s.ident := (State.warmRecover_ident _).trans (State.stopJournals_ident _)
  exact inRange_of_indices hd hn hm (inRange_of_ident hi h)
theorem State.inRange_warmReset : IndicesInRange s.warmReset := inRange_ite (State.inRange_warm h) h
theorem State.inRange_coldReset : IndicesInRange s.coldReset := by
  unfold State.coldReset
  exact inRange_ite (State.inRange_startUp (State.inRange_loseDie h _)) h
theorem State.inRange_halt (b : Bool) : IndicesInRange (s.halt b) := by
  unfold State.halt
  have hs := State.inRange_loseDie h .halted
  generalize s.loseDie .halted = u at hs
  exact inRange_of_ident rfl hs
theorem State.inRange_trip : IndicesInRange s.trip := by
  unfold State.trip
  have hs := State.inRange_loseDie h .standby
  generalize s.loseDie .standby = u at hs
  split
  case h_1 | h_2 | h_3 | h_4 => exact hs
  all_goals exact h

/-! ### The layout, and the registers of the device -/

theorem State.inRange_removePart (p : Part) : IndicesInRange (s.removePart p) := by
  unfold State.removePart
  extract_lets keep s₁
  have hs : IndicesInRange s₁ := inRange_of_ident ((State.eraseSbs_ident ..).trans (State.dropRows_ident ..)) h
  clear_value s₁
  exact inRange_of_indices rfl rfl rfl hs
theorem State.inRange_applyLayout {l : LayoutCmd} {n : State} (hn : s.applyLayout l = some n) : IndicesInRange n := by
  rw [State.applyLayout_some hn]
  have hr : IndicesInRange (s.relaid l) :=
    inRange_of_ident (State.forEach_ident fun _ _ => State.putPart_ident ..)
      (State.inRange_forEach (fun _ _ hs => State.inRange_removePart hs _) h)
  generalize s.relaid l = u at hr
  exact inRange_of_ident rfl hr
theorem State.inRange_devStore (base v : Nat) : IndicesInRange (s.devStore base v) := by
  unfold State.devStore
  extract_lets +onlyGivenNames w n
  refine inRange_ite ?_ ?_
  · extract_lets +onlyGivenNames s₁
    have hs : IndicesInRange s₁ := inRange_ite (inRange_of_ident (State.closeWindow_ident _) h) h
    clear_value s₁
    exact inRange_ite (State.inRange_coldReset hs) (inRange_ite (State.inRange_warmReset hs) hs)
  · refine inRange_of_ident ?_ h
    refine State.ite_ident (State.forEach_ident fun _ _ => State.unfencePart_ident ..) ?_
    refine State.ite_ident (State.ite_ident (State.dormantGo_ident _) rfl) ?_
    refine State.ite_ident (State.auxWrite_ident ..) (State.ite_ident (State.ite_ident rfl rfl) ?_)
    refine State.ite_ident (State.updLog_ident ..) (State.ite_ident (State.updLog_ident ..) (State.ite_ident rfl ?_))
    refine State.ite_ident (State.ite_ident (State.mailGo_ident ..) rfl) (State.ite_ident rfl ?_)
    refine State.ite_ident (State.setMode_ident ..) (State.ite_ident (State.ite_ident (State.gclGo_ident ..) rfl) ?_)
    refine State.ite_ident (State.updPort_ident ..) ?_
    split <;> rfl
theorem State.inRange_storeReg (map : RegMap) (base v : Nat) : IndicesInRange (s.storeReg map base v) := by
  cases map with
  | dev => exact State.inRange_devStore h base v
  | part p =>
    refine inRange_of_ident ?_ h
    unfold State.storeReg
    dsimp only
    split
    · rfl
    · exact State.ite_ident rfl (State.partStore_ident ..)
theorem State.inRange_write4 (map : RegMap) (off v : Nat) : IndicesInRange (s.write4 map off v) := by
  unfold State.write4
  split
  · exact h
  · exact inRange_ite (State.inRange_storeReg h ..) (inRange_ite (State.inRange_storeReg h ..) (State.inRange_storeReg h ..))
theorem State.inRange_writeReg (map : RegMap) (off size v : Nat) : IndicesInRange (s.writeReg map off size v) := by
  unfold State.writeReg
  refine inRange_ite h (inRange_ite (State.inRange_write4 h ..) ?_)
  split
  · exact State.inRange_storeReg h ..
  · exact State.inRange_write4 (State.inRange_write4 h ..) ..
end
theorem State.inRange_writeDwords (off : Nat) (l : List (BitVec 32)) (h : IndicesInRange s) : IndicesInRange (s.writeDwords off l) := by
  fun_induction State.writeDwords s off l with
  | case1 => exact h
  | case2 => exact State.inRange_write4 h ..
  | case3 _ _ _ _ _ _ _ ih => exact ih (State.inRange_writeReg h ..)
  | case4 _ _ _ _ _ _ _ _ _ ih => exact ih (State.inRange_write4 h ..)
  | case5 _ _ _ _ _ _ ih => exact ih (State.inRange_write4 h ..)

/-! ### Commands behind a check -/

section
variable {f : State → State} (hf : ∀ s, IndicesInRange s → IndicesInRange (f s)) (h : IndicesInRange s)
include hf h
theorem State.inRange_withPresence : IndicesInRange (s.withPresence f) := by
  have hw : IndicesInRange (s.wakeDevice 0x30) := inRange_of_ident (State.wakeDevice_ident ..) h
  exact inRange_ite (hf _ hw) hw
theorem State.inRange_fwCmd (p : Part) : IndicesInRange (s.fwCmd p f) := by
  have hw : IndicesInRange (s.wakeDevice (hostWake p)) := inRange_of_ident (State.wakeDevice_ident ..) h
  exact inRange_ite (hf _ hw) (inRange_ite hw (inRange_ite hw hw))
theorem State.inRange_spdm (who : Requester) : IndicesInRange (s.spdm who f) := by
  have hw : IndicesInRange (s.wakeDevice (requesterWake who)) := inRange_of_ident (State.wakeDevice_ident ..) h
  exact inRange_ite hw (hf _ hw)
end

/-! ### The indices that are taken (15 R354, R355) -/

/-- A new quote day only takes the count of the day back to 0. -/
theorem Ident.newDay_keeps (i : Ident) :
    i.newDay.dayUsed ≤ i.dayUsed ∧ i.newDay.xmssNext = i.xmssNext ∧ i.newDay.xmssMigNext = i.xmssMigNext := by
  unfold Ident.newDay
  dsimp only
  split
  · exact ⟨Nat.zero_le _, rfl, rfl⟩
  · exact ⟨le_rfl, rfl, rfl⟩
theorem inRange_newDay {i : Ident} (hi : u.ident = i.newDay) (hd : i.dayUsed = s.ident.dayUsed) (hn : i.xmssNext = s.ident.xmssNext)
    (hm : i.xmssMigNext = s.ident.xmssMigNext) (h : IndicesInRange s) : IndicesInRange u := by
  obtain ⟨h₁, h₂, h₃⟩ := i.newDay_keeps
  rw [IndicesInRange, hi]
  omega
section
variable (h : IndicesInRange s)
include h
/-- A quote takes an index in hand, or 64 more where the day and the life still have them. -/
theorem State.inRange_quote : IndicesInRange s.quote.1 := by
  unfold State.quote
  extract_lets +onlyGivenNames s₁ i
  have hs : IndicesInRange s₁ := inRange_newDay rfl rfl rfl rfl h
  clear_value s₁
  split
  · exact hs
  · split
    · dsimp only
      exact inRange_ite hs (inRange_of_ident rfl hs)
    · split
      · exact hs
      · rename_i hday hlife
        extract_lets low t
        have hlife : s₁.ident.xmssNext + 64 ≤ 1032192 := by simpa [i, quoteRange] using hlife
        have ht : IndicesInRange t := by
          refine ⟨?_, hlife, hs.2.2⟩
          have hday : s₁.ident.dayUsed ≤ 192 := by simpa [i] using hday
          exact Nat.add_le_add_right hday 64
        clear_value low t
        exact inRange_ite ht ht
theorem State.inRange_signed (data : List Byte) : IndicesInRange (s.signed data) := by
  have hq := State.inRange_quote h
  unfold State.signed
  split <;> rename_i he <;> rw [he] at hq <;> exact hq
/-- A migration record takes an index in hand, or 64 more where the range above the quotes' still has them. -/
theorem State.inRange_migIndex : IndicesInRange s.migIndex.1 := by
  unfold State.migIndex
  extract_lets i
  obtain ⟨hday, hlife, hlo, hhi⟩ := h
  split
  · exact ⟨hday, hlife, hlo, hhi⟩
  · split
    · exact ⟨hday, hlife, hlo, hhi⟩
    · rename_i hroom
      have hroom : s.ident.xmssMigNext + 64 ≤ 1048576 := by simpa [i] using hroom
      exact ⟨hday, hlife, by show 1032192 ≤ s.ident.xmssMigNext + 64; omega, hroom⟩
end
end

/-! ### The arms that write the device's identity -/

section
variable (s : State)

theorem inRange_wake {s : State} (n : Nat) (h : IndicesInRange s) : IndicesInRange (s.wakeDevice n) :=
  inRange_of_ident (State.wakeDevice_ident ..) h
theorem exec_warmReset_range : KeepsRange s (exec .warmReset s) := fun h => State.inRange_warmReset (inRange_wake _ h)
theorem exec_coldReset_range : KeepsRange s (exec .coldReset s) := fun h => State.inRange_coldReset (inRange_wake _ h)
theorem exec_wedgeDetect_range (x : Unit7) : KeepsRange s (exec (.wedgeDetect x) s) := fun h => by
  refine inRange_ite h ?_
  extract_lets +onlyGivenNames s₁
  have hs : IndicesInRange s₁ := inRange_of_ident ((State.updPower_ident ..).trans (State.eventParts_ident ..)) h
  clear_value s₁
  exact inRange_ite (State.inRange_warmReset hs) (inRange_of_ident (State.fenceAll_ident ..) hs)
theorem exec_powerFail_range : KeepsRange s (exec .powerFail s) := State.inRange_trip
theorem exec_overvoltage_range : KeepsRange s (exec .overvoltage s) := State.inRange_trip
theorem exec_powerRestoreHold_range : KeepsRange s (exec .powerRestoreHold s) := fun h =>
  State.inRange_tryStart (inRange_of_ident (State.updPower_ident ..) h)
theorem exec_busCollapse_range : KeepsRange s (exec .busCollapse s) := by
  show KeepsRange s (execBusCollapse s)
  unfold execBusCollapse
  extract_lets +onlyGivenNames s₁ s₂
  intro h
  have h₁ : IndicesInRange s₁ := State.inRange_trip h
  have h₂ : IndicesInRange s₂ := inRange_ite (State.inRange_loseDie h₁ _) h₁
  clear_value s₂
  exact inRange_of_indices rfl rfl rfl h₂
theorem exec_perstAssert_range : KeepsRange s (exec .perstAssert s) := by
  show KeepsRange s (execPerstAssert s)
  unfold execPerstAssert
  extract_lets +onlyGivenNames s₁
  intro h
  have hs : IndicesInRange s₁ := inRange_of_ident (State.updPower_ident ..) h
  clear_value s₁
  split
  · exact hs
  · exact hs
  · exact inRange_ite hs (inRange_of_ident (State.updPower_ident ..) (State.inRange_loseDie hs _))
  · exact State.inRange_loseDie hs _
theorem exec_perstDeassert_range : KeepsRange s (exec .perstDeassert s) := fun h =>
  State.inRange_tryStart (inRange_of_ident (State.updPower_ident ..) h)
theorem exec_pllLockTimeout_range (k : Pll) : KeepsRange s (exec (.pllLockTimeout k) s) := by
  show KeepsRange s (execPllLockTimeout k s)
  unfold execPllLockTimeout
  extract_lets +onlyGivenNames n
  intro h
  refine inRange_ite h ?_
  extract_lets +onlyGivenNames s₁
  have hs : IndicesInRange s₁ := inRange_of_ident (State.updPll_ident ..) h
  clear_value s₁
  refine inRange_ite hs ?_
  split
  · exact inRange_ite hs (inRange_of_ident (State.devEvent_ident ..) (State.inRange_halt hs _))
  all_goals exact inRange_of_ident ((State.devEvent_ident ..).trans ((State.pllBlock_ident ..).trans (State.updPll_ident ..))) hs
theorem exec_refclkReturn_range : KeepsRange s (exec .refclkReturn s) := by
  show KeepsRange s (execRefclkReturn s)
  unfold execRefclkReturn
  extract_lets +onlyGivenNames s₁
  intro h
  have hs : IndicesInRange s₁ := inRange_of_ident ((State.updPll_ident ..).trans (State.updPower_ident ..)) h
  clear_value s₁
  exact inRange_ite (inRange_of_ident ((State.eventAll_ident ..).trans (State.updPower_ident ..)) hs) (State.inRange_tryStart hs)
theorem exec_thermalHalt_range : KeepsRange s (exec .thermalHalt s) := fun h =>
  inRange_ite h (inRange_of_ident (State.updPower_ident ..) (State.inRange_halt h _))
theorem exec_transferFw_range (p : Part) (img : FwImage) : KeepsRange s (exec (.transferFw p img) s) :=
  State.inRange_fwCmd (p := p) fun s hs => by exact inRange_of_indices (s := s) rfl rfl rfl hs
theorem exec_activateFw_range (p : Part) : KeepsRange s (exec (.activateFw p) s) :=
  State.inRange_fwCmd (p := p) fun s hs => by
    split <;> exact inRange_of_indices (s := s) rfl rfl rfl hs
theorem exec_layout_range (l : LayoutCmd) : KeepsRange s (exec (.layout l) s) :=
  State.inRange_withPresence fun s hs => by
    split
    · exact inRange_of_ident (State.answer_ident ..) hs
    · rename_i n hn
      refine inRange_of_ident ((State.answer_ident ..).trans ((State.layoutRecord_ident _).trans (State.settleFlash_ident _))) ?_
      exact State.inRange_applyLayout hs (Option.eq_some_of_filter_eq_some hn)
theorem exec_firmwareUpdate_range (img : FwImage) : KeepsRange s (exec (.firmwareUpdate img) s) :=
  State.inRange_withPresence fun s hs =>
    inRange_ite (inRange_of_ident (State.answer_ident ..) hs)
      (inRange_ite (inRange_of_ident (State.answer_ident ..) hs) (inRange_of_indices (s := s) rfl rfl rfl hs))
theorem exec_versionCommit_range : KeepsRange s (exec .versionCommit s) :=
  State.inRange_withPresence fun s hs => inRange_of_indices (s := s) rfl rfl rfl hs
theorem exec_pwrCyclesTick_range : KeepsRange s (exec .pwrCyclesTick s) := inRange_newDay rfl rfl rfl rfl
theorem exec_spdmChallenge_range (who : Requester) : KeepsRange s (exec (.spdmChallenge who) s) :=
  State.inRange_spdm (who := who) fun _ hs => State.inRange_signed hs _
theorem exec_spdmKeyExchange_range (who : Requester) : KeepsRange s (exec (.spdmKeyExchange who) s) :=
  State.inRange_spdm (who := who) fun _ hs => State.inRange_signed hs _
theorem exec_spdmGetMeasurements_range (who : Requester) (idx : Nat) (signed : Bool) :
    KeepsRange s (exec (.spdmGetMeasurements who idx signed) s) :=
  State.inRange_spdm (who := who) fun s hs => by
    refine inRange_ite (inRange_of_ident (State.mbox_ident ..) hs) ?_
    have hm : IndicesInRange (s.measurement who idx).2 := inRange_of_ident (State.measurement_ident ..) hs
    exact inRange_ite (State.inRange_signed hm _) (inRange_of_ident (State.mbox_ident ..) hm)
theorem exec_exportMigrationRecord_range (parts : BitVec 16) (dst : BitVec 128) (ok : Bool) :
    KeepsRange s (exec (.exportMigrationRecord parts dst ok) s) :=
  State.inRange_withPresence fun s hs => by
    refine inRange_ite (inRange_of_ident (State.answer_ident ..) hs) (inRange_ite (inRange_of_ident (State.answer_ident ..) hs) ?_)
    have hm := State.inRange_migIndex hs
    split <;> rename_i he <;> rw [he] at hm
    · exact inRange_of_ident (State.answer_ident ..) hm
    · exact inRange_of_indices rfl rfl rfl hm
theorem exec_importMigrationRecord_range (r : MigRecord) : KeepsRange s (exec (.importMigrationRecord r) s) :=
  State.inRange_withPresence fun s hs => by
    have ha (st : Status) : IndicesInRange (s.answer st) := inRange_of_ident (State.answer_ident ..) hs
    refine inRange_ite (ha _) (inRange_ite (ha _) (inRange_ite (ha _) (inRange_ite (ha _) ?_)))
    split
    · exact ha _
    · rename_i n hn
      have hn := State.inRange_applyLayout hs (Option.eq_some_of_filter_eq_some hn)
      extract_lets +onlyGivenNames n₁ _ n₂
      have h₁ : IndicesInRange n₁ := inRange_of_ident (State.forEach_ident fun _ _ => State.importObject_ident ..) hn
      clear_value n₁
      have h₂ : IndicesInRange n₂ := inRange_of_indices rfl rfl rfl h₁
      clear_value n₂
      exact inRange_of_ident ((State.answer_ident ..).trans ((State.devEvent_ident ..).trans
        ((State.layoutRecord_ident _).trans (State.settleFlash_ident _)))) h₂
theorem exec_registerWrite_range (map : RegMap) (off size : Nat) (val : Word) : KeepsRange s (exec (.registerWrite map off size val) s) :=
  fun h => inRange_ite (State.inRange_writeReg (inRange_wake _ h) ..) h
theorem exec_portModeWrite_range (port : PortNo) (val : BitVec 32) : KeepsRange s (exec (.portModeWrite port val) s) :=
  fun h => State.inRange_devStore (inRange_wake _ h) ..
theorem exec_regWrite_range (off : Nat) (data : List (BitVec 32)) : KeepsRange s (exec (.regWrite off data) s) := fun h => by
  refine inRange_ite (inRange_of_ident (State.mbox_ident ..) h) ?_
  have hw := inRange_wake 0x30 h
  exact inRange_ite (inRange_of_ident (State.answer_ident ..) hw)
    (State.inRange_writeDwords _ _ (inRange_of_ident (State.answer_ident ..) hw))
end

/-! ### Every instruction -/

/-- Arm by arm: an instruction that leaves the device's identity, or one of those above. -/
theorem exec_range (s : State) (i : Instr) : KeepsRange s (exec i s) := by
  cases i with
  | request => exact (exec_request_ident ..).range
  | run => exact (exec_run_ident ..).range
  | cancel => exact (exec_cancel_ident ..).range
  | abort => exact (exec_abort_ident ..).range
  | clockadv => exact (exec_clockadv_ident ..).range
  | progPlace => exact (exec_progPlace_ident ..).range
  | progUnload => exact (exec_progUnload_ident ..).range
  | queueSet => exact (exec_queueSet_ident ..).range
  | progLoad => exact (exec_progLoad_ident ..).range
  | sqFetch => exact (exec_sqFetch_ident ..).range
  | completionDrain => exact (exec_completionDrain_ident ..).range
  | queueDrained => exact (exec_queueDrained_ident ..).range
  | stepStart => exact (exec_stepStart_ident ..).range
  | frameReserved => exact (exec_frameReserved_ident ..).range
  | queue0Enable => exact (exec_queue0Enable_ident ..).range
  | queue0Disable => exact (exec_queue0Disable_ident ..).range
  | waveIssue => exact (exec_waveIssue_ident ..).range
  | waveWaitExpiry => exact (exec_waveWaitExpiry_ident ..).range
  | rowIssue => exact (exec_rowIssue_ident ..).range
  | rowWaitExpiry => exact (exec_rowWaitExpiry_ident ..).range
  | stepResume => exact (exec_stepResume_ident ..).range
  | msgTimeout => exact (exec_msgTimeout_ident ..).range
  | stepCycleLimit => exact (exec_stepCycleLimit_ident ..).range
  | commitApply => exact (exec_commitApply_ident ..).range
  | commitRelease => exact (exec_commitRelease_ident ..).range
  | etRelease => exact (exec_etRelease_ident ..).range
  | descriptorAccept => exact (exec_descriptorAccept_ident ..).range
  | chunkComplete => exact (exec_chunkComplete_ident ..).range
  | layerMerged => exact (exec_layerMerged_ident ..).range
  | shadowCompare => exact (exec_shadowCompare_ident ..).range
  | promotionDone => exact (exec_promotionDone_ident ..).range
  | demotionDone => exact (exec_demotionDone_ident ..).range
  | movePiece => exact (exec_movePiece_ident ..).range
  | relocationDone => exact (exec_relocationDone_ident ..).range
  | winnowSweep => exact (exec_winnowSweep_ident ..).range
  | indexRebuild => exact (exec_indexRebuild_ident ..).range
  | camScrub => exact (exec_camScrub_ident ..).range
  | memoryPatrol => exact (exec_memoryPatrol_ident ..).range
  | ergotRound => exact (exec_ergotRound_ident ..).range
  | ergotResult => exact (exec_ergotResult_ident ..).range
  | quarantineSweep => exact (exec_quarantineSweep_ident ..).range
  | nop => exact (exec_nop_ident ..).range
  | addG => exact (exec_addG_ident ..).range
  | sub => exact (exec_sub_ident ..).range
  | mul => exact (exec_mul_ident ..).range
  | mulhu => exact (exec_mulhu_ident ..).range
  | divu => exact (exec_divu_ident ..).range
  | remu => exact (exec_remu_ident ..).range
  | andG => exact (exec_andG_ident ..).range
  | orG => exact (exec_orG_ident ..).range
  | xorG => exact (exec_xorG_ident ..).range
  | shl => exact (exec_shl_ident ..).range
  | shr => exact (exec_shr_ident ..).range
  | sra => exact (exec_sra_ident ..).range
  | cmpeq => exact (exec_cmpeq_ident ..).range
  | cmpne => exact (exec_cmpne_ident ..).range
  | cmplt => exact (exec_cmplt_ident ..).range
  | cmpltu => exact (exec_cmpltu_ident ..).range
  | cmple => exact (exec_cmple_ident ..).range
  | cmpleu => exact (exec_cmpleu_ident ..).range
  | fand => exact (exec_fand_ident ..).range
  | forF => exact (exec_forF_ident ..).range
  | fxor => exact (exec_fxor_ident ..).range
  | fandn => exact (exec_fandn_ident ..).range
  | popc => exact (exec_popc_ident ..).range
  | clz => exact (exec_clz_ident ..).range
  | ctz => exact (exec_ctz_ident ..).range
  | jr => exact (exec_jr_ident ..).range
  | rdsl => exact (exec_rdsl_ident ..).range
  | movi => exact (exec_movi_ident ..).range
  | movhi => exact (exec_movhi_ident ..).range
  | addi => exact (exec_addi_ident ..).range
  | muli => exact (exec_muli_ident ..).range
  | andi => exact (exec_andi_ident ..).range
  | ori => exact (exec_ori_ident ..).range
  | xori => exact (exec_xori_ident ..).range
  | shli => exact (exec_shli_ident ..).range
  | shri => exact (exec_shri_ident ..).range
  | srai => exact (exec_srai_ident ..).range
  | ld => exact (exec_ld_ident ..).range
  | ldw => exact (exec_ldw_ident ..).range
  | ldh => exact (exec_ldh_ident ..).range
  | ldb => exact (exec_ldb_ident ..).range
  | st => exact (exec_st_ident ..).range
  | stw => exact (exec_stw_ident ..).range
  | sth => exact (exec_sth_ident ..).range
  | stb => exact (exec_stb_ident ..).range
  | cmpeqi => exact (exec_cmpeqi_ident ..).range
  | cmpnei => exact (exec_cmpnei_ident ..).range
  | cmplti => exact (exec_cmplti_ident ..).range
  | cmpltui => exact (exec_cmpltui_ident ..).range
  | cmplei => exact (exec_cmplei_ident ..).range
  | cmpleui => exact (exec_cmpleui_ident ..).range
  | br => exact (exec_br_ident ..).range
  | brt => exact (exec_brt_ident ..).range
  | brf => exact (exec_brf_ident ..).range
  | brz => exact (exec_brz_ident ..).range
  | brnz => exact (exec_brnz_ident ..).range
  | call => exact (exec_call_ident ..).range
  | ldf => exact (exec_ldf_ident ..).range
  | stf => exact (exec_stf_ident ..).range
  | hloads => exact (exec_hloads_ident ..).range
  | hld => exact (exec_hld_ident ..).range
  | hst => exact (exec_hst_ident ..).range
  | hmov => exact (exec_hmov_ident ..).range
  | hget => exact (exec_hget_ident ..).range
  | hmake => exact (exec_hmake_ident ..).range
  | hchk => exact (exec_hchk_ident ..).range
  | hnull => exact (exec_hnull_ident ..).range
  | heq => exact (exec_heq_ident ..).range
  | ptlen => exact (exec_ptlen_ident ..).range
  | pginfo => exact (exec_pginfo_ident ..).range
  | walk => exact (exec_walk_ident ..).range
  | pxmatch => exact (exec_pxmatch_ident ..).range
  | pxkey => exact (exec_pxkey_ident ..).range
  | sinfo => exact (exec_sinfo_ident ..).range
  | qpost => exact (exec_qpost_ident ..).range
  | qinfo => exact (exec_qinfo_ident ..).range
  | rgdiscard => exact (exec_rgdiscard_ident ..).range
  | rgpublish => exact (exec_rgpublish_ident ..).range
  | ptget => exact (exec_ptget_ident ..).range
  | pxlook => exact (exec_pxlook_ident ..).range
  | walkemit => exact (exec_walkemit_ident ..).range
  | append => exact (exec_append_ident ..).range
  | screate => exact (exec_screate_ident ..).range
  | srevive => exact (exec_srevive_ident ..).range
  | sdur => exact (exec_sdur_ident ..).range
  | smigout => exact (exec_smigout_ident ..).range
  | rgcreate => exact (exec_rgcreate_ident ..).range
  | rgreg => exact (exec_rgreg_ident ..).range
  | rgbind => exact (exec_rgbind_ident ..).range
  | pgpromote => exact (exec_pgpromote_ident ..).range
  | spark => exact (exec_spark_ident ..).range
  | sclose => exact (exec_sclose_ident ..).range
  | sqfree => exact (exec_sqfree_ident ..).range
  | rgfree => exact (exec_rgfree_ident ..).range
  | rgrevoke => exact (exec_rgrevoke_ident ..).range
  | pgdemote => exact (exec_pgdemote_ident ..).range
  | ptfork => exact (exec_ptfork_ident ..).range
  | domcreate => exact (exec_domcreate_ident ..).range
  | domclose => exact (exec_domclose_ident ..).range
  | smigin => exact (exec_smigin_ident ..).range
  | qpconnect => exact (exec_qpconnect_ident ..).range
  | qpdisc => exact (exec_qpdisc_ident ..).range
  | qpdestroy => exact (exec_qpdestroy_ident ..).range
  | mvcopy => exact (exec_mvcopy_ident ..).range
  | mvtier => exact (exec_mvtier_ident ..).range
  | mvwait => exact (exec_mvwait_ident ..).range
  | waiteng => exact (exec_waiteng_ident ..).range
  | mvstat => exact (exec_mvstat_ident ..).range
  | modload => exact (exec_modload_ident ..).range
  | waitmsg => exact (exec_waitmsg_ident ..).range
  | stepinfo => exact (exec_stepinfo_ident ..).range
  | cntrd => exact (exec_cntrd_ident ..).range
  | sseq => exact (exec_sseq_ident ..).range
  | tenset => exact (exec_tenset_ident ..).range
  | tenget => exact (exec_tenget_ident ..).range
  | varset => exact (exec_varset_ident ..).range
  | qpcreate => exact (exec_qpcreate_ident ..).range
  | charmArm => exact (exec_charmArm_ident ..).range
  | charmDisarm => exact (exec_charmDisarm_ident ..).range
  | sample => exact (exec_sample_ident ..).range
  | smpres => exact (exec_smpres_ident ..).range
  | tstamp => exact (exec_tstamp_ident ..).range
  | qevent => exact (exec_qevent_ident ..).range
  | trace => exact (exec_trace_ident ..).range
  | commit => exact (exec_commit_ident ..).range
  | fence => exact (exec_fence_ident ..).range
  | squash => exact (exec_squash_ident ..).range
  | rsync => exact (exec_rsync_ident ..).range
  | qppost => exact (exec_qppost_ident ..).range
  | qpnote => exact (exec_qpnote_ident ..).range
  | errinj => exact (exec_errinj_ident ..).range
  | waveOpen => exact (exec_waveOpen_ident ..).range
  | attend => exact (exec_attend_ident ..).range
  | rowOpen => exact (exec_rowOpen_ident ..).range
  | prefillRow => exact (exec_prefillRow_ident ..).range
  | fetch => exact (exec_fetch_ident ..).range
  | store => exact (exec_store_ident ..).range
  | hgReady => exact (exec_hgReady_ident ..).range
  | hgCommit => exact (exec_hgCommit_ident ..).range
  | hgSquash => exact (exec_hgSquash_ident ..).range
  | hgRevive => exact (exec_hgRevive_ident ..).range
  | hgReviveK => exact (exec_hgReviveK_ident ..).range
  | hgDigest => exact (exec_hgDigest_ident ..).range
  | hgDigestRes => exact (exec_hgDigestRes_ident ..).range
  | logits => exact (exec_logits_ident ..).range
  | route => exact (exec_route_ident ..).range
  | migConfirm => exact (exec_migConfirm_ident ..).range
  | migRelease => exact (exec_migRelease_ident ..).range
  | migCancel => exact (exec_migCancel_ident ..).range
  | migQuery => exact (exec_migQuery_ident ..).range
  | migAnswer => exact (exec_migAnswer_ident ..).range
  | hgReadyTimeout => exact (exec_hgReadyTimeout_ident ..).range
  | hgReviveTimeout => exact (exec_hgReviveTimeout_ident ..).range
  | revivalStepStart => exact (exec_revivalStepStart_ident ..).range
  | revivalApply => exact (exec_revivalApply_ident ..).range
  | migStreamRecord => exact (exec_migStreamRecord_ident ..).range
  | migImportDurable => exact (exec_migImportDurable_ident ..).range
  | migTimeout => exact (exec_migTimeout_ident ..).range
  | migQueryTimer => exact (exec_migQueryTimer_ident ..).range
  | send => exact (exec_send_ident ..).range
  | write => exact (exec_write_ident ..).range
  | readReq => exact (exec_readReq_ident ..).range
  | readResp => exact (exec_readResp_ident ..).range
  | ack => exact (exec_ack_ident ..).range
  | nak => exact (exec_nak_ident ..).range
  | connectReq => exact (exec_connectReq_ident ..).range
  | connectRep => exact (exec_connectRep_ident ..).range
  | disconnect => exact (exec_disconnect_ident ..).range
  | stalledPacketsRelease => exact (exec_stalledPacketsRelease_ident ..).range
  | stallTimeout => exact (exec_stallTimeout_ident ..).range
  | pauseExpiry => exact (exec_pauseExpiry_ident ..).range
  | ackTimer => exact (exec_ackTimer_ident ..).range
  | rtoExpiry => exact (exec_rtoExpiry_ident ..).range
  | connectRetry => exact (exec_connectRetry_ident ..).range
  | drainTimeout => exact (exec_drainTimeout_ident ..).range
  | rxPauseFrame => exact (exec_rxPauseFrame_ident ..).range
  | ptpHoldover => exact (exec_ptpHoldover_ident ..).range
  | gclChangeTime => exact (exec_gclChangeTime_ident ..).range
  | gclEntryAdvance => exact (exec_gclEntryAdvance_ident ..).range
  | arpNdLldpFrame => exact (exec_arpNdLldpFrame_ident ..).range
  | ptpMessage => exact (exec_ptpMessage_ident ..).range
  | egressFrameStart => exact (exec_egressFrameStart_ident ..).range
  | bucketRefill => exact (exec_bucketRefill_ident ..).range
  | gclGo => exact (exec_gclGo_ident ..).range
  | replyBucketRefill => exact (exec_replyBucketRefill_ident ..).range
  | portLinkChange => exact (exec_portLinkChange_ident ..).range
  | spreadCheck => exact (exec_spreadCheck_ident ..).range
  | spreadCleared => exact (exec_spreadCleared_ident ..).range
  | superblockClose => exact (exec_superblockClose_ident ..).range
  | gleanCopyDone => exact (exec_gleanCopyDone_ident ..).range
  | gleanCommit => exact (exec_gleanCommit_ident ..).range
  | superblockVerify => exact (exec_superblockVerify_ident ..).range
  | gleanVerifyDone => exact (exec_gleanVerifyDone_ident ..).range
  | gleanEraseDone => exact (exec_gleanEraseDone_ident ..).range
  | flashProgramFail => exact (exec_flashProgramFail_ident ..).range
  | flashReadDone => exact (exec_flashReadDone_ident ..).range
  | flashPatrol => exact (exec_flashPatrol_ident ..).range
  | gleanStart => exact (exec_gleanStart_ident ..).range
  | journalPageTimeout => exact (exec_journalPageTimeout_ident ..).range
  | journalPageProgrammed => exact (exec_journalPageProgrammed_ident ..).range
  | journalCheckpoint => exact (exec_journalCheckpoint_ident ..).range
  | carrierPresent => exact (exec_carrierPresent_ident ..).range
  | carrierPgood => exact (exec_carrierPgood_ident ..).range
  | carrierPresentDebounced => exact (exec_carrierPresentDebounced_ident ..).range
  | carrierAttention => exact (exec_carrierAttention_ident ..).range
  | carrierPgoodTimeout => exact (exec_carrierPgoodTimeout_ident ..).range
  | carrierResetRelease => exact (exec_carrierResetRelease_ident ..).range
  | carrierQualifyTimeout => exact (exec_carrierQualifyTimeout_ident ..).range
  | carrierDetach => exact (exec_carrierDetach_ident ..).range
  | cleanDetachDurable => exact (exec_cleanDetachDurable_ident ..).range
  | eraseForeignCarrier => exact (exec_eraseForeignCarrier_ident ..).range
  | carrierQualifyDone => exact (exec_carrierQualifyDone_ident ..).range
  | layout => exact exec_layout_range _ _
  | declareCrossDomain => exact (exec_declareCrossDomain_ident ..).range
  | withdrawCrossDomain => exact (exec_withdrawCrossDomain_ident ..).range
  | firmwareUpdate => exact exec_firmwareUpdate_range _ _
  | versionCommit => exact exec_versionCommit_range _
  | clearBrokenSeal => exact (exec_clearBrokenSeal_ident ..).range
  | keyEnrolment => exact (exec_keyEnrolment_ident ..).range
  | exportMigrationRecord => exact exec_exportMigrationRecord_range _ _ _ _
  | importMigrationRecord => exact exec_importMigrationRecord_range _ _
  | regRead => exact (exec_regRead_ident ..).range
  | regWrite => exact exec_regWrite_range _ _ _
  | mctpSetEndpointId => exact (exec_mctpSetEndpointId_ident ..).range
  | i3cAddressAssign => exact (exec_i3cAddressAssign_ident ..).range
  | ptFence => exact (exec_ptFence_ident ..).range
  | dormantOkWrite => exact (exec_dormantOkWrite_ident ..).range
  | unfence => exact (exec_unfence_ident ..).range
  | warmReset => exact exec_warmReset_range _
  | coldReset => exact exec_coldReset_range _
  | closePresenceWindow => exact (exec_closePresenceWindow_ident ..).range
  | dormantGo => exact (exec_dormantGo_ident ..).range
  | dormantEnter => exact (exec_dormantEnter_ident ..).range
  | dormantAbandonTimeout => exact (exec_dormantAbandonTimeout_ident ..).range
  | sqDoorbell => exact (exec_sqDoorbell_ident ..).range
  | cqDoorbell => exact (exec_cqDoorbell_ident ..).range
  | evHeadWrite => exact (exec_evHeadWrite_ident ..).range
  | evCtlWrite => exact (exec_evCtlWrite_ident ..).range
  | t1hRangeAppend => exact (exec_t1hRangeAppend_ident ..).range
  | mailboxGo => exact (exec_mailboxGo_ident ..).range
  | portModeWrite => exact exec_portModeWrite_range _ _ _
  | auxclkCtlWrite => exact (exec_auxclkCtlWrite_ident ..).range
  | wakeCounter => exact (exec_wakeCounter_ident ..).range
  | registerWrite => exact exec_registerWrite_range _ _ _ _ _
  | registerRead => exact (exec_registerRead_ident ..).range
  | configRequest => exact (exec_configRequest_ident ..).range
  | ldEnable => exact (exec_ldEnable_ident ..).range
  | flr => exact (exec_flr_ident ..).range
  | cxlReset => exact (exec_cxlReset_ident ..).range
  | identify => exact (exec_identify_ident ..).range
  | getFwInfo => exact (exec_getFwInfo_ident ..).range
  | activateFw => exact exec_activateFw_range _ _
  | getPoisonList => exact (exec_getPoisonList_ident ..).range
  | hdmDecoderCommit => exact (exec_hdmDecoderCommit_ident ..).range
  | fmBind => exact (exec_fmBind_ident ..).range
  | cxlMemRead => exact (exec_cxlMemRead_ident ..).range
  | cxlMemWrite => exact (exec_cxlMemWrite_ident ..).range
  | initiateDcAdd => exact (exec_initiateDcAdd_ident ..).range
  | dcCapacityFreed => exact (exec_dcCapacityFreed_ident ..).range
  | dcReserveTimeout => exact (exec_dcReserveTimeout_ident ..).range
  | dcOfferTimeout => exact (exec_dcOfferTimeout_ident ..).range
  | initiateDcForcedRelease => exact (exec_initiateDcForcedRelease_ident ..).range
  | extentDrained => exact (exec_extentDrained_ident ..).range
  | injectPoison => exact (exec_injectPoison_ident ..).range
  | clearPoison => exact (exec_clearPoison_ident ..).range
  | addDcResponse => exact (exec_addDcResponse_ident ..).range
  | releaseDc => exact (exec_releaseDc_ident ..).range
  | revokeDrained => exact (exec_revokeDrained_ident ..).range
  | t1hAccessFailure => exact (exec_t1hAccessFailure_ident ..).range
  | ideFailure => exact (exec_ideFailure_ident ..).range
  | ideStreamEstablish => exact (exec_ideStreamEstablish_ident ..).range
  | transferFw => exact exec_transferFw_range _ _ _
  | spdmChallenge => exact exec_spdmChallenge_range _ _
  | spdmKeyExchange => exact exec_spdmKeyExchange_range _ _
  | cdatTableAccess => exact (exec_cdatTableAccess_ident ..).range
  | spdmGetMeasurements => exact exec_spdmGetMeasurements_range _ _ _ _
  | busRise => exact (exec_busRise_ident ..).range
  | powerFail => exact exec_powerFail_range _
  | overvoltage => exact exec_overvoltage_range _
  | powerRestoreHold => exact exec_powerRestoreHold_range _
  | busCollapse => exact exec_busCollapse_range _
  | perstAssert => exact exec_perstAssert_range _
  | perstDeassert => exact exec_perstDeassert_range _
  | coldRecovery => exact (exec_coldRecovery_ident ..).range
  | serviceReady => exact (exec_serviceReady_ident ..).range
  | refclkLoss => exact (exec_refclkLoss_ident ..).range
  | refclkReturn => exact exec_refclkReturn_range _
  | thermalThrottle => exact (exec_thermalThrottle_ident ..).range
  | thermalRecover => exact (exec_thermalRecover_ident ..).range
  | thermalHalt => exact exec_thermalHalt_range _
  | pwrCyclesTick => exact exec_pwrCyclesTick_range _
  | presencePress => exact (exec_presencePress_ident ..).range
  | presenceExpiry => exact (exec_presenceExpiry_ident ..).range
  | sealBreak => exact (exec_sealBreak_ident ..).range
  | hostWake => exact (exec_hostWake_ident ..).range
  | boardAlert => exact (exec_boardAlert_ident ..).range
  | configReady => exact (exec_configReady_ident ..).range
  | pllQualified => exact (exec_pllQualified_ident ..).range
  | pllLockTimeout => exact exec_pllLockTimeout_range _ _
  | powerSample => exact (exec_powerSample_ident ..).range
  | wedgeDetect => exact exec_wedgeDetect_range _ _
  | sealBitCheck => exact (exec_sealBitCheck_ident ..).range
  | boundaryScanInstruction => exact (exec_boundaryScanInstruction_ident ..).range
  | malformedFrame => exact (exec_malformedFrame_ident ..).range

/-! ### The obligation -/

/-- Settles O59: the queue's rest is no part of the indices, and every instruction keeps their ranges. -/
theorem indicesStayInRange : Obligations.IndicesStayInRange := by
  unfold Obligations.IndicesStayInRange
  intro s t hs ht
  cases hp : s.pending with
  | nil =>
    rw [step, hp] at ht
    cases ht
    exact hs
  | cons c rest =>
    have hk := exec_range { s with pending := rest } c
    rw [show exec c { s with pending := rest } = .next t by rw [← ht, step, hp]] at hk
    exact hk hs

end Sys2Proof.Machine
end
